-- ==== Sys2Proof/Word.lean ====
section
/-! DEFINITION. The word types of the register maps and of the memories, and their plainest arithmetic. -/

namespace Sys2Proof

/-- A register or memory word: every register is 32 bits wide (R8). -/
abbrev Word := BitVec 32

/-- One byte of memory. -/
abbrev Byte := BitVec 8

/-- A 64-bit quantity (DEVTIME, a fabric word, a ledger word). -/
abbrev DWord := BitVec 64

/-- The word that holds a natural number modulo 2^32. -/
def Word.ofNat (n : Nat) : Word := BitVec.ofNat 32 n

/-- The word that holds an integer modulo 2^32. -/
def Word.ofInt (z : Int) : Word := BitVec.ofInt 32 z

end Sys2Proof
end

