-- ==== Sys2Proof/Syntax.lean ====
section
/-! DEFINITION. The commands: one constructor per row of the opcode table. Operands that the outside world supplies
(samples, pin levels, crossing instants, verification results) are operands of the command that reports them. -/

namespace Sys2Proof

/-- A mains crossing as the tracker finds it (R75): the two D = 32 values around it with the edges of their centres, or
the CLK_LOOP edge of a rising edge of CGn_MAINS. -/
inductive Crossing where
  | values (e0 : Nat) (v0 : Int) (e1 : Nat) (v1 : Int)
  | pin (edge : Nat)
deriving DecidableEq, Repr

/-- What a group's accumulators hold for one slice at the end of a window (R72): the sum of the codes' levels m (MEAN),
or the sum of x times x or x times y in fast LSB squared (SQUARE, PRODUCT). -/
structure WindowSum where
  slice : Fin 16
  sum : Int
  ovld : Bool
deriving DecidableEq, Repr

/-- The comparator registers that take live writes (R110). -/
inductive CmpLive where
  | ramp | blank | ctrl
deriving DecidableEq, Repr

/-- The serial units (R471). -/
inductive SerialUnit where
  | uart (n : Fin 8)
  | spi (n : Fin 8)
  | i3c (n : Fin 4)
deriving DecidableEq, Repr

/-- The CAN frame formats (R470). -/
inductive CanFormat where
  | classical | fd | xl
deriving DecidableEq, Repr

/-- An edge or trigger instance of a PWM period (R200, R207). -/
inductive PwmInst where
  | raRise | raFall | rbRise | rbFall | centre
  | trg (k : Fin 4) (down : Bool)
deriving DecidableEq, Repr

/-- The perturbation registers of the test port (R475). -/
inductive PertReg where
  | xbdly | dmabp | sodly | csdly
deriving DecidableEq, Repr

/-- The 16 MHz codes of one slice of the group in a sampling wake, oldest first: 256 that fill the ring, then 32 for each
further result (R435); 16 names the group's spare. `ovld`: the modulator overloaded. -/
structure CrocusCodes where
  slice : Fin 17
  codes : List (BitVec 4)
  ovld : Bool
deriving DecidableEq, Repr

/-- Who makes an access: a core, a DMA engine, the Odoon host, PCIe inbound, the management core, debug (R19, R45). -/
inductive Master where
  | core (n : Fin 4)
  | dma (e : Fin 2)
  | host | pcie | mgmt | debug
deriving DecidableEq, Repr

/-- What the outside and the hardware's own tests give a boot (R410, R412): BOOT[1:0], the 32.768 kHz crystal, the supply
sensed at each I/O bank (two bits a bank), which cores pass CORE_BIST, and the time from the root switch to B16 in CLK_LOOP
edges. -/
structure BootIn where
  pins : BitVec 2
  x32 : Bool
  vio : BitVec 16
  bist : BitVec 4
  edges : Nat
deriving DecidableEq, Repr

/-- The commands of the part, one constructor per row of the opcode table. -/
inductive Instr where
  /-- COLD_RESET (R12): PORn low, the AON supply below its monitor threshold, or a wake from OFF returns every register in every domain to its reset value and makes the home pads high impedance. -/
  | coldReset
  /-- WARM_RESET (R12): RESETn low (`pin`), or a request or policy that also runs the warm boot at once: every register outside AON returns to reset. -/
  | warmReset (pin : Bool) (x : BootIn)
  /-- PORN_RELEASE (R412): Release of PORn starts the cold boot from the RC oscillator and the boot ROM. -/
  | pornRelease (x : BootIn)
  /-- MANAGEMENT_RESET (R402): The management watchdog expiry or a debug command resets the management core, which reruns B5 and resumes the firmware. -/
  | managementReset
  /-- PLL_ROOT_SWITCH (R39): the PLL has locked and the root switches at the next alignment instant; `ticks` of the sleep clock have passed. -/
  | pllRootSwitch (ticks : Nat)
  /-- LOSS_OF_LOCK (R40): A loss of PLL lock stops every PLL-derived clock, sets LOLSEEN and asserts FAULTOUTn. -/
  | lossOfLock
  /-- REGISTER_WRITE (R17): master m writes v to the register at address a. -/
  | registerWrite (a : BitVec 32) (v : BitVec 32) (m : Master)
  /-- SLICE_ENABLE (R71): a write of CSn_CTRL with EN = 1; v gives the other fields. -/
  | sliceEnable (n : Fin 64) (v : BitVec 32)
  /-- SLICE_DISABLE (R69): a write of CSn_CTRL with EN = 0; v gives the other fields. -/
  | sliceDisable (n : Fin 64) (v : BitVec 32)
  /-- SLICE_READY (R71): 256 CLK_LOOP cycles after enable the slice sets READY. -/
  | sliceReady (n : Fin 64)
  /-- FAST_RESULT_WRITE (R67): the window engine of CSn that is due first writes its value. codes: the modulator codes that entered the ring since the last command, oldest first; ovld: a modulator overload on a sample of the window. -/
  | fastResultWrite (n : Fin 64) (codes : List (BitVec 4)) (ovld : Bool)
  /-- FREE_RUNNING_RESULT (R70): the next free-running result of CSn; operands as FAST_RESULT_WRITE. -/
  | freeRunningResult (n : Fin 64) (codes : List (BitVec 4)) (ovld : Bool)
  /-- GROUP_ENABLE (R74): a write of CGn_MPT with EN = 1; v gives the other fields. -/
  | groupEnable (g : Fin 4) (v : BitVec 32)
  /-- INTEGRATING_WINDOW_END (R73): the group's window ends; sums gives what the accumulators of its slices hold. -/
  | integratingWindowEnd (g : Fin 4) (sums : List WindowSum)
  /-- INTEGRATING_RESULT_WRITE (R73): the results of the group's oldest ended window are written. -/
  | integratingResultWrite (g : Fin 4)
  /-- MAINS_ZERO_CROSSING (R76): a positive-going crossing. -/
  | mainsZeroCrossing (g : Fin 4) (c : Crossing)
  /-- TRACKER_NO_SIGNAL (R76): After 100 ms without a crossing, LOCK clears and NOSIG and LOCKLOST are set. -/
  | trackerNoSignal (g : Fin 4)
  /-- TRACK_FIRST_WINDOW_TIMEOUT (R77): In TRACK mode the first window starts 100 ms after EN when no crossing is accepted before then. -/
  | trackFirstWindowTimeout (g : Fin 4)
  /-- CAL_STEP_START (R90): A calibration step starts SHADOW for the next slice of the rotation. -/
  | calStepStart (g : Fin 4)
  /-- CAL_SUBSTITUTION (R91): the substitution edge; the operands are the spare's offset and gain as the group fitted them. -/
  | calSubstitution (g : Fin 4) (fitOfs : Int) (fitGain : BitVec 24)
  /-- CAL_PIN_RELEASE (R91): 64 CLK_LOOP cycles after the substitution edge, slice j's input leaves its pins for calibration. -/
  | calPinRelease (g : Fin 4)
  /-- CAL_RESHADOW (R90): At 9 ms into the step slice j is reconnected to its pins and runs beside the spare. -/
  | calReshadow (g : Fin 4)
  /-- CAL_HANDBACK (R92): the handback edge; the operands are the offset and gain measured. -/
  | calHandback (g : Fin 4) (ofs : Int) (gain : BitVec 24)
  /-- CAL_SPARE_RELEASE (R91): 64 CLK_LOOP cycles after the handback edge, the spare leaves slice j. -/
  | calSpareRelease (g : Fin 4)
  /-- CAL_RUN (R93): a write of CGn_CALCTL with RUN = 1; v gives the other fields. -/
  | calRun (g : Fin 4) (v : BitVec 32)
  /-- CAL_STOP (R93): a write of CGn_CALCTL with RUN = 0; v gives the other fields. -/
  | calStop (g : Fin 4) (v : BitVec 32)
  /-- CAL_PAUSE (R93): a write of CGn_CALCTL with PAUSE = 1; v gives the other fields. -/
  | calPause (g : Fin 4) (v : BitVec 32)
  /-- CAL_RESUME (R93): a write of CGn_CALCTL with PAUSE = 0; v gives the other fields. -/
  | calResume (g : Fin 4) (v : BitVec 32)
  /-- PERMANENT_REPLACEMENT (R94): the management firmware makes the group's spare replace slice n for good, with the correction the group has fitted. -/
  | permanentReplacement (n : Fin 64) (fitOfs : Int) (fitGain : BitVec 24)
  /-- TESTDAC_REQUEST (R95): a write of CGn_DIAG with EN = 1; v gives the other fields. -/
  | testdacRequest (g : Fin 4) (v : BitVec 32)
  /-- TESTDAC_RELEASE (R95): a write of CGn_DIAG with EN = 0; v gives the other fields. -/
  | testdacRelease (g : Fin 4) (v : BitVec 32)
  /-- SEQUENCER_ENABLE (R85): a write of SQn_CTRL with EN = 1. -/
  | sequencerEnable (n : Fin 16) (v : BitVec 32)
  /-- SQ_ENTRY_WRITE (R85): a write of v to SQn_ENTk. -/
  | sqEntryWrite (n : Fin 16) (k : Fin 32) (v : BitVec 32)
  /-- COMPARATOR_LATCH_SET (R103): the latch of CMPn sets at step t. -/
  | comparatorLatchSet (n : Fin 96) (t : Nat)
  /-- COMPARATOR_RAW_CHANGE (R101): the selected input stands at v (1/32 nV) at step t and the raw state follows the threshold. -/
  | comparatorRawChange (n : Fin 96) (v : Nat) (t : Nat)
  /-- COMPARATOR_SET_RECORD (R105): On the second CLK_LOOP edge after a latch set, SETCNT advances and event 0x500 + n is raised. -/
  | comparatorSetRecord (n : Fin 96)
  /-- LATCH_CLEAR (R103): a write of v to CMPn_STAT with LATCH = 1. -/
  | latchClear (n : Fin 96) (v : BitVec 32)
  /-- BLANKING_CLOSE (R102): The blanking window closes, and an active raw state then sets the latch. -/
  | blankingClose (n : Fin 96)
  /-- REF_WRITE (R100): a write of v to CMPn_REF. -/
  | refWrite (n : Fin 96) (v : BitVec 32)
  /-- COMPARATOR_LIVE_WRITE (R110): a write of v to CMPn_RAMP, CMPn_BLANK or CMPn_CTRL. -/
  | comparatorLiveWrite (n : Fin 96) (r : CmpLive) (v : BitVec 32)
  /-- COMPARATOR_ENABLE (R107): a write of CMPn_CTRL with EN = 1; v gives the other fields. -/
  | comparatorEnable (n : Fin 96) (v : BitVec 32)
  /-- COMPARATOR_SETTLED (R107): 400 CLK_LOOP cycles after enable, READY is set and the latch runs. -/
  | comparatorSettled (n : Fin 96)
  /-- COMPARATOR_DISABLE (R107): a write of CMPn_CTRL with EN = 0; v gives the other fields. -/
  | comparatorDisable (n : Fin 96) (v : BitVec 32)
  /-- SELFTEST_REQUEST (R108): a write of v to CMPn_TEST with a non-zero SELFTEST. -/
  | selftestRequest (n : Fin 96) (v : BitVec 32)
  /-- SELFTEST_END (R108): a write of v to CMPn_TEST with SELFTEST = NORMAL. -/
  | selftestEnd (n : Fin 96) (v : BitVec 32)
  /-- INTERFACE_ENABLE (R123): a write of PIn_CTRL with EN = 1; v gives the other fields. -/
  | interfaceEnable (n : Fin 16) (v : BitVec 32)
  /-- LEVEL_ACCEPT (R113): the levels that are accepted on one edge; e is the edge on which they were first sampled. -/
  | levelAccept (n : Fin 16) (a b z : Option Bool) (e : Nat)
  /-- WIRE_FAULT (R115): the P and N samples of signal A, B or Z (0, 1, 2) have agreed since the synchronised sample of edge e. -/
  | wireFault (n : Fin 16) (sig : Fin 3) (e : Nat)
  /-- STANDSTILL (R128): With no counted edge for SPDTO × 10 µs, STILL is set, SPDPER reads none and SPEED is raised. -/
  | standstill (n : Fin 16)
  /-- POS_WRITE (R122): a write of v to PIn_POS, or to PIn_REV where rev is true. -/
  | posWrite (n : Fin 16) (rev : Bool) (v : BitVec 32)
  /-- SSI_FRAME_RECORD (R130): data and crc are the bits sampled, right-aligned. -/
  | ssiFrameRecord (n : Fin 16) (data : BitVec 48) (crc : BitVec 8)
  /-- SSI_RELEASE (R131): DATA reads high on every edge from e on. -/
  | ssiRelease (n : Fin 16) (e : Nat)
  /-- SSI_TIMEOUT (R131): DATA has not read high since the last sample. -/
  | ssiTimeout (n : Fin 16)
  /-- EMULATOR_ENABLE (R137): a write of v to PIn_EMUCTRL: EMUEN set or cleared. -/
  | emulatorEnable (n : Fin 16) (v : BitVec 32)
  /-- EMUPOS_WRITE (R134): a write of v to PIn_EMUPOS from a cell's port, or from a register window. -/
  | emuposWrite (n : Fin 16) (cell : Option (Fin 52)) (v : BitVec 32)
  /-- EMULATOR_EDGE (R136): With lag non-zero and EMUGAP elapsed, EMUCNT steps by one and the A/B/Z outputs follow. -/
  | emulatorEdge (n : Fin 16)
  /-- SO_ENABLE (R139): a write of v to SO_CTRL. -/
  | soEnable (v : BitVec 32)
  /-- EVENT_DELIVERY (R143): every delivery of the earliest due edge; ssiLow names the interfaces whose DATA reads low on it. -/
  | eventDelivery (ssiLow : List (Fin 16))
  /-- EVOUT_PULSE_END (R142): 8 CLK_LOOP cycles after the last delivery EVOUTk falls. -/
  | evoutPulseEnd (k : Fin 16)
  /-- EVIN_RAISE (R141): EVINk is first sampled high on edge e. -/
  | evinRaise (k : Fin 32) (e : Nat)
  /-- TIMER_RAISE (R141): Interval timer TMRk raises its source at each edge where (DEVTIME − PHASE) mod PERIOD = 0. -/
  | timerRaise (k : Fin 16)
  /-- SO_TIMER_ENABLE (R141): a write of SO_TMRk_PER with EN = 1; v gives PERIOD. -/
  | soTimerEnable (k : Fin 16) (v : BitVec 32)
  /-- SO_RAISE (R36): a write of v to SO_RAISE. -/
  | soRaise (v : BitVec 32)
  /-- ROUTING_ENTRY_WRITE (R146): a write of v to the DA, DB or CFG word (w = 0, 1, 2) of a routing entry. -/
  | routingEntryWrite (src : Fin 2048) (w : Fin 3) (v : BitVec 32)
  /-- OWNERSHIP_ENTRY_WRITE (R151): a write of v to SO_OWNw. -/
  | ownershipEntryWrite (w : Fin 112) (v : BitVec 32)
  /-- SO_MIGGO (R150): a write of any value to SO_MIGGO. -/
  | soMiggo (v : BitVec 32)
  /-- OWNERSHIP_SWITCH (R150): every pending entry whose switch edge comes first. -/
  | ownershipSwitch
  /-- FABRIC_WRITE_LANDING (R148): every cell port write that lands on the earliest due edge. -/
  | fabricWriteLanding
  /-- CELL_ENABLE (R174): a write of LCn_CTRL with EN = 1; v gives the other fields. -/
  | cellEnable (n : Fin 52) (v : BitVec 32)
  /-- CELL_DISABLE (R174): a write of LCn_CTRL with EN = 0; v gives the other fields. -/
  | cellDisable (n : Fin 52) (v : BitVec 32)
  /-- CELL_COPY_DONE (R173): After 2,048 CLK_LOOP cycles the even cell has copied its memories and the pair runs its restart handler. -/
  | cellCopyDone (n : Fin 52)
  /-- RESTART_HANDLER_START (R174): The restart handler starts at LCn_RESTART.ENTRY with budget RBUDGET. -/
  | restartHandlerStart (n : Fin 52)
  /-- HANDLER_START (R172): An eligible event starts its handler and the first instruction is issued on that edge. -/
  | handlerStart (n : Fin 52)
  /-- HANDLER_END (R172): The instruction with E = 1 completes its issue cycles and the handler ends. -/
  | handlerEnd (n : Fin 52)
  /-- HANDLER_BUDGET_FAULT (R172): A handler not ended within its BUDGET is a BUDGET fault. -/
  | handlerBudgetFault (n : Fin 52)
  /-- RECOVERY_MEMORY_COMPARE_DONE (R179): At m + 2,056 the memory compare ends and the restart handler starts on both cells, or the pair stops. -/
  | recoveryMemoryCompareDone (n : Fin 52)
  /-- CELL_WINDOW_WRITE (R159): a window write of v to word w of the program or data memory. -/
  | cellWindowWrite (n : Fin 52) (data : Bool) (w : Fin 2048) (v : BitVec 32)
  /-- MAP_STORE_ENABLE (R182): a write of v to MS_CTRL. -/
  | mapStoreEnable (v : BitVec 32)
  /-- MS_REQUEST_GRANT (R187): the next grant of read port p; service: the service requester is pending on that edge. -/
  | msRequestGrant (p : Fin 8) (service : Bool)
  /-- MS_PAGE_WRITEBACK (R192): the oldest page waiting for correction; wait is how long before its limit of 256 cycles the write-back comes. -/
  | msPageWriteback (wait : Nat)
  /-- MAP_STORE_WINDOW_WRITE (R349): a window write of v to word w by crossbar port `port`. -/
  | mapStoreWindowWrite (w : Fin 65536) (v : BitVec 32) (port : Fin 8)
  /-- DESCRIPTOR_WRITE (R191): a write of v to the BASE, SHAPE, AXIS, XOFS or YOFS word (w = 0 to 4) of MS_TDk. -/
  | descriptorWrite (k : Fin 64) (w : Fin 5) (v : BitVec 32)
  /-- PWM_ENABLE (R214): a write of PWMn_CTRL with EN = 1; v gives the other fields. -/
  | pwmEnable (n : Fin 96) (v : BitVec 32)
  /-- PWM_DISABLE (R215): a write of PWMn_CTRL with EN = 0; v gives the other fields. -/
  | pwmDisable (n : Fin 96) (v : BitVec 32)
  /-- PERIOD_START (R195): A new period begins, with reloads, PSTART, trip releases and HOLDNOW counting; flt gives the levels of FLT0 to FLT23. -/
  | periodStart (n : Fin 96) (flt : BitVec 24)
  /-- PWM_CENTRE (R196): The centre load point reloads values and raises PCENTRE; flt gives the levels of FLT0 to FLT23. -/
  | pwmCentre (n : Fin 96) (flt : BitVec 24)
  /-- EDGE_INSTANCE (R200): A rise or fall of a raw signal fires at its instant. -/
  | edgeInstance (n : Fin 96) (x : PwmInst)
  /-- TRIGGER_INSTANCE (R207): A TRGk instance is reached and raises its source with its fraction. -/
  | triggerInstance (n : Fin 96) (k : Fin 4) (down : Bool)
  /-- DEAD_TIME_END (R204): the delayed rise of output A (b = false) or B completes. -/
  | deadTimeEnd (n : Fin 96) (b : Bool)
  /-- PULSE_END_SEEN (R203): the COT pulse-end input that became active at step t is seen. -/
  | pulseEndSeen (n : Fin 96) (t : Nat)
  /-- COT_TIMEOUT (R201): x reaches PER without a pulse end, and TMO and TMOCNT record the timeout. -/
  | cotTimeout (n : Fin 96)
  /-- COFF_PULSE_END (R202): the COFF pulse-end input becomes active at step t. -/
  | coffPulseEnd (n : Fin 96) (t : Nat)
  /-- COFF_TIMEOUT (R202): x reaches CMPB, the maximum on-time, and ends the pulse as a timeout. -/
  | coffTimeout (n : Fin 96)
  /-- PWM_COMMIT (R212): a window write of PWMn_COMMIT. -/
  | pwmCommit (n : Fin 96) (v : BitVec 32)
  /-- CBC_FORCE (R222): the source of CBC selector k becomes active at step t; flt gives the levels of FLT0 to FLT23. -/
  | cbcForce (n : Fin 96) (k : Fin 8) (t : Nat) (flt : BitVec 24)
  /-- LATCHED_TRIP (R224): the source of LATCHED selector k becomes active at step t; flt gives the levels of FLT0 to FLT23. -/
  | latchedTrip (n : Fin 96) (k : Fin 8) (t : Nat) (flt : BitVec 24)
  /-- TRIP_RECORD (R224): On the record edge LATSRC and LATCNT are updated and TRIP is raised. -/
  | tripRecord (n : Fin 96)
  /-- PAD_SENSE_MISMATCH (R227): the pad sense reads levels a and b on the home pads. -/
  | padSenseMismatch (n : Fin 96) (a b : Bool)
  /-- TRIP_CLEAR (R229): a write of v to PWMn_TRIPSTAT with TRIPLATCH = 1; flt gives the levels of FLT0 to FLT23. -/
  | tripClear (n : Fin 96) (v : BitVec 32) (flt : BitVec 24)
  /-- CONTROL_PLANE_HALT (R478): a write of TP_DBGCTL with CPHALT = 1; v gives the other fields. -/
  | controlPlaneHalt (v : BitVec 32)
  /-- CONTROL_PLANE_HALT_END (R478): a write of TP_DBGCTL with CPHALT = 0; v gives the other fields. -/
  | controlPlaneHaltEnd (v : BitVec 32)
  /-- LC_ADD (R166): vd := a + b. -/
  | lcAdd (c : Fin 52) (e : Bool) (d a b : Fin 32)
  /-- LC_SUB (R166): vd := a - b. -/
  | lcSub (c : Fin 52) (e : Bool) (d a b : Fin 32)
  /-- LC_AND (R166): vd := a and b. -/
  | lcAnd (c : Fin 52) (e : Bool) (d a b : Fin 32)
  /-- LC_OR (R166): vd := a or b. -/
  | lcOr (c : Fin 52) (e : Bool) (d a b : Fin 32)
  /-- LC_XOR (R166): vd := a xor b. -/
  | lcXor (c : Fin 52) (e : Bool) (d a b : Fin 32)
  /-- LC_ANDN (R166): vd := a and not b. -/
  | lcAndn (c : Fin 52) (e : Bool) (d a b : Fin 32)
  /-- LC_SLL (R166): vd := a << b[4:0]. -/
  | lcSll (c : Fin 52) (e : Bool) (d a b : Fin 32)
  /-- LC_SRL (R166): vd := a >> b[4:0], logical. -/
  | lcSrl (c : Fin 52) (e : Bool) (d a b : Fin 32)
  /-- LC_SRA (R166): vd := a >> b[4:0], arithmetic. -/
  | lcSra (c : Fin 52) (e : Bool) (d a b : Fin 32)
  /-- LC_SLT (R166): signed a < b. -/
  | lcSlt (c : Fin 52) (e : Bool) (d a b : Fin 32)
  /-- LC_SLTU (R166): unsigned a < b. -/
  | lcSltu (c : Fin 52) (e : Bool) (d a b : Fin 32)
  /-- LC_MIN (R166): signed minimum. -/
  | lcMin (c : Fin 52) (e : Bool) (d a b : Fin 32)
  /-- LC_MAX (R166): signed maximum. -/
  | lcMax (c : Fin 52) (e : Bool) (d a b : Fin 32)
  /-- LC_MUL (R166): low word of the product. -/
  | lcMul (c : Fin 52) (e : Bool) (d a b : Fin 32)
  /-- LC_MULH (R166): high word of the signed product. -/
  | lcMulh (c : Fin 52) (e : Bool) (d a b : Fin 32)
  /-- LC_SEL (R166): vd := a if c is not 0, else b. -/
  | lcSel (c : Fin 52) (e : Bool) (d a b x : Fin 32)
  /-- LC_CLZ (R166): leading zeros. -/
  | lcClz (c : Fin 52) (e : Bool) (d a : Fin 32)
  /-- LC_ADD_S (R166): sat(a + b). -/
  | lcAddS (c : Fin 52) (e : Bool) (d a b : Fin 32)
  /-- LC_SUB_S (R166): sat(a - b). -/
  | lcSubS (c : Fin 52) (e : Bool) (d a b : Fin 32)
  /-- LC_NEG_S (R166): sat(-a). -/
  | lcNegS (c : Fin 52) (e : Bool) (d a : Fin 32)
  /-- LC_ABS_S (R166): sat(abs a). -/
  | lcAbsS (c : Fin 52) (e : Bool) (d a : Fin 32)
  /-- LC_MULQ (R166): sat((a x b) >> 31). -/
  | lcMulq (c : Fin 52) (e : Bool) (d a b : Fin 32)
  /-- LC_MADQ (R166): sat(c + ((a x b) >> 31)). -/
  | lcMadq (c : Fin 52) (e : Bool) (d a b x : Fin 32)
  /-- LC_MULQ15 (R166): sat16 of the Q15 product. -/
  | lcMulq15 (c : Fin 52) (e : Bool) (d a b : Fin 32)
  /-- LC_MADQ15 (R166): sat16(c + Q15 product). -/
  | lcMadq15 (c : Fin 52) (e : Bool) (d a b x : Fin 32)
  /-- LC_CLMP (R166): min(max(a, -b), b). -/
  | lcClmp (c : Fin 52) (e : Bool) (d a b : Fin 32)
  /-- LC_SHLS (R166): sat(a x 2^b[4:0]). -/
  | lcShls (c : Fin 52) (e : Bool) (d a b : Fin 32)
  /-- LC_RNDQ15 (R166): Q31 to Q15. -/
  | lcRndq15 (c : Fin 52) (e : Bool) (d a : Fin 32)
  /-- LC_FADD (R166): FP32 a + b. -/
  | lcFadd (c : Fin 52) (e : Bool) (d a b : Fin 32)
  /-- LC_FSUB (R166): FP32 a - b. -/
  | lcFsub (c : Fin 52) (e : Bool) (d a b : Fin 32)
  /-- LC_FMUL (R166): FP32 a x b. -/
  | lcFmul (c : Fin 52) (e : Bool) (d a b : Fin 32)
  /-- LC_FMAD (R166): FP32 c + a x b, one rounding. -/
  | lcFmad (c : Fin 52) (e : Bool) (d a b x : Fin 32)
  /-- LC_FMIN (R166): FP32 minimum. -/
  | lcFmin (c : Fin 52) (e : Bool) (d a b : Fin 32)
  /-- LC_FMAX (R166): FP32 maximum. -/
  | lcFmax (c : Fin 52) (e : Bool) (d a b : Fin 32)
  /-- LC_FABS (R166): sign cleared. -/
  | lcFabs (c : Fin 52) (e : Bool) (d a : Fin 32)
  /-- LC_FNEG (R166): sign inverted. -/
  | lcFneg (c : Fin 52) (e : Bool) (d a : Fin 32)
  /-- LC_FCVT_QF (R166): Q31 to FP32. -/
  | lcFcvtQf (c : Fin 52) (e : Bool) (d a : Fin 32)
  /-- LC_FCVT_FQ (R166): FP32 to Q31. -/
  | lcFcvtFq (c : Fin 52) (e : Bool) (d a : Fin 32)
  /-- LC_FCVT_IF (R166): integer to FP32. -/
  | lcFcvtIf (c : Fin 52) (e : Bool) (d a : Fin 32)
  /-- LC_FCVT_FI (R166): FP32 to integer. -/
  | lcFcvtFi (c : Fin 52) (e : Bool) (d a : Fin 32)
  /-- LC_FLT (R166): FP32 a < b. -/
  | lcFlt (c : Fin 52) (e : Bool) (d a b : Fin 32)
  /-- LC_MACA (R166): acc := sat(acc + a x b). -/
  | lcMaca (c : Fin 52) (e : Bool) (x : Bool) (a b : Fin 32)
  /-- LC_MSUA (R166): acc := sat(acc - a x b). -/
  | lcMsua (c : Fin 52) (e : Bool) (x : Bool) (a b : Fin 32)
  /-- LC_ACLR (R166): acc := 0. -/
  | lcAclr (c : Fin 52) (e : Bool) (x : Bool)
  /-- LC_ALD (R166): acc := a x 2^31. -/
  | lcAld (c : Fin 52) (e : Bool) (x : Bool) (a : Fin 32)
  /-- LC_ARD (R166): vd := sat32((acc + 2^30) >> 31). -/
  | lcArd (c : Fin 52) (e : Bool) (x : Bool) (d : Fin 32)
  /-- LC_ARD15 (R166): vd := sat32((acc + 2^14) >> 15). -/
  | lcArd15 (c : Fin 52) (e : Bool) (x : Bool) (d : Fin 32)
  /-- LC_CLARKE (R166): Clarke transform; vd even. -/
  | lcClarke (c : Fin 52) (e : Bool) (d a b : Fin 32)
  /-- LC_PARK (R166): rotation by angle b; vd and va even. -/
  | lcPark (c : Fin 52) (e : Bool) (d a b : Fin 32)
  /-- LC_IPARK (R166): rotation by angle b; vd and va even. -/
  | lcIpark (c : Fin 52) (e : Bool) (d a b : Fin 32)
  /-- LC_SVM (R167): space-vector times (R167). -/
  | lcSvm (c : Fin 52) (e : Bool) (d a : Fin 32)
  /-- LC_ADDI (R166): vd := a + sext(imm16). -/
  | lcAddi (c : Fin 52) (e : Bool) (d a : Fin 32) (imm : BitVec 16)
  /-- LC_ANDI (R166): with imm16 zero-extended. -/
  | lcAndi (c : Fin 52) (e : Bool) (d a : Fin 32) (imm : BitVec 16)
  /-- LC_ORI (R166): with imm16 zero-extended. -/
  | lcOri (c : Fin 52) (e : Bool) (d a : Fin 32) (imm : BitVec 16)
  /-- LC_XORI (R166): with imm16 zero-extended. -/
  | lcXori (c : Fin 52) (e : Bool) (d a : Fin 32) (imm : BitVec 16)
  /-- LC_SLLI (R166): shift by imm16[4:0]. -/
  | lcSlli (c : Fin 52) (e : Bool) (d a : Fin 32) (imm : BitVec 16)
  /-- LC_SRLI (R166): shift by imm16[4:0]. -/
  | lcSrli (c : Fin 52) (e : Bool) (d a : Fin 32) (imm : BitVec 16)
  /-- LC_SRAI (R166): shift by imm16[4:0]. -/
  | lcSrai (c : Fin 52) (e : Bool) (d a : Fin 32) (imm : BitVec 16)
  /-- LC_LI (R166): vd := sext(imm16). -/
  | lcLi (c : Fin 52) (e : Bool) (d : Fin 32) (imm : BitVec 16)
  /-- LC_LUI (R166): vd := imm16 << 16. -/
  | lcLui (c : Fin 52) (e : Bool) (d : Fin 32) (imm : BitVec 16)
  /-- LC_LD (R166): load a data word. -/
  | lcLd (c : Fin 52) (e : Bool) (d a : Fin 32) (imm : BitVec 16)
  /-- LC_LD_D (R166): load two data words; vd even. -/
  | lcLdD (c : Fin 52) (e : Bool) (d a : Fin 32) (imm : BitVec 16)
  /-- LC_ST (R166): store vd. -/
  | lcSt (c : Fin 52) (e : Bool) (d a : Fin 32) (imm : BitVec 16)
  /-- LC_ST_D (R166): store vd and vd + 1. -/
  | lcStD (c : Fin 52) (e : Bool) (d a : Fin 32) (imm : BitVec 16)
  /-- LC_PRD (R163): read port p. -/
  | lcPrd (c : Fin 52) (e : Bool) (d a : Fin 32) (x : Bool) (port : BitVec 12)
  /-- LC_PRD_D (R163): read ports p and p + 1. -/
  | lcPrdD (c : Fin 52) (e : Bool) (d a : Fin 32) (x : Bool) (port : BitVec 12)
  /-- LC_PWR (R163): write port p; it lands on t + 3. -/
  | lcPwr (c : Fin 52) (e : Bool) (d a : Fin 32) (x : Bool) (port : BitVec 12)
  /-- LC_PWR_D (R163): write ports p and p + 1. -/
  | lcPwrD (c : Fin 52) (e : Bool) (d a : Fin 32) (x : Bool) (port : BitVec 12)
  /-- LC_MS_LD (R186): table entry. -/
  | lcMsLd (c : Fin 52) (e : Bool) (d a b : Fin 32) (td : Fin 64)
  /-- LC_MS_LERP (R186): 1-D interpolation. -/
  | lcMsLerp (c : Fin 52) (e : Bool) (d a : Fin 32) (td : Fin 64)
  /-- LC_MS_BLERP (R186): 2-D interpolation. -/
  | lcMsBlerp (c : Fin 52) (e : Bool) (d a b : Fin 32) (td : Fin 64)
  /-- LC_BR_EQ (R166): branch. -/
  | lcBrEq (c : Fin 52) (e : Bool) (a b : Fin 32) (off : BitVec 13)
  /-- LC_BR_NE (R166): branch. -/
  | lcBrNe (c : Fin 52) (e : Bool) (a b : Fin 32) (off : BitVec 13)
  /-- LC_BR_LT (R166): branch. -/
  | lcBrLt (c : Fin 52) (e : Bool) (a b : Fin 32) (off : BitVec 13)
  /-- LC_BR_GE (R166): branch. -/
  | lcBrGe (c : Fin 52) (e : Bool) (a b : Fin 32) (off : BitVec 13)
  /-- LC_BR_LTU (R166): branch. -/
  | lcBrLtu (c : Fin 52) (e : Bool) (a b : Fin 32) (off : BitVec 13)
  /-- LC_BR_GEU (R166): branch. -/
  | lcBrGeu (c : Fin 52) (e : Bool) (a b : Fin 32) (off : BitVec 13)
  /-- LC_DJNZ (R166): va := a - 1, branch if not 0. -/
  | lcDjnz (c : Fin 52) (e : Bool) (a : Fin 32) (off : BitVec 13)
  /-- LC_BR_ALWAYS (R166): branch. -/
  | lcBrAlways (c : Fin 52) (e : Bool) (off : BitVec 13)
  /-- LC_CALL (R166): push PC + 1 and branch. -/
  | lcCall (c : Fin 52) (e : Bool) (off : BitVec 13)
  /-- LC_RET (R166): pop PC. -/
  | lcRet (c : Fin 52) (e : Bool)
  /-- MC_ADD (R248): d := a + b, modulo 2^32. -/
  | mcAdd (n : Fin 4) (d a b e : Fin 32)
  /-- MC_SUB (R248): d := a - b, modulo 2^32. -/
  | mcSub (n : Fin 4) (d a b e : Fin 32)
  /-- MC_AND (R248): d := a and b. -/
  | mcAnd (n : Fin 4) (d a b e : Fin 32)
  /-- MC_OR (R248): d := a or b. -/
  | mcOr (n : Fin 4) (d a b e : Fin 32)
  /-- MC_XOR (R248): d := a xor b. -/
  | mcXor (n : Fin 4) (d a b e : Fin 32)
  /-- MC_ANDN (R248): d := a and not b. -/
  | mcAndn (n : Fin 4) (d a b e : Fin 32)
  /-- MC_SLL (R248): d := a shifted left by b[4:0]. -/
  | mcSll (n : Fin 4) (d a b e : Fin 32)
  /-- MC_SRL (R248): d := a shifted right by b[4:0], logical. -/
  | mcSrl (n : Fin 4) (d a b e : Fin 32)
  /-- MC_SRA (R248): d := a shifted right by b[4:0], arithmetic. -/
  | mcSra (n : Fin 4) (d a b e : Fin 32)
  /-- MC_SLT (R248): d := 1 if a < b signed, else 0. -/
  | mcSlt (n : Fin 4) (d a b e : Fin 32)
  /-- MC_SLTU (R248): d := 1 if a < b unsigned, else 0. -/
  | mcSltu (n : Fin 4) (d a b e : Fin 32)
  /-- MC_MIN (R248): d := the signed minimum. -/
  | mcMin (n : Fin 4) (d a b e : Fin 32)
  /-- MC_MAX (R248): d := the signed maximum. -/
  | mcMax (n : Fin 4) (d a b e : Fin 32)
  /-- MC_MINU (R248): d := the unsigned minimum. -/
  | mcMinu (n : Fin 4) (d a b e : Fin 32)
  /-- MC_MAXU (R248): d := the unsigned maximum. -/
  | mcMaxu (n : Fin 4) (d a b e : Fin 32)
  /-- MC_ADDV (R248): as ADD; a signed overflow raises OVERFLOW, with the wrapped value written. -/
  | mcAddv (n : Fin 4) (d a b e : Fin 32)
  /-- MC_SUBV (R248): as SUB; a signed overflow raises OVERFLOW, with the wrapped value written. -/
  | mcSubv (n : Fin 4) (d a b e : Fin 32)
  /-- MC_SEL (R248): d := a if e is not 0, else b. -/
  | mcSel (n : Fin 4) (d a b e : Fin 32)
  /-- MC_MUL (R248): d := (a x b)[31:0]. -/
  | mcMul (n : Fin 4) (d a b e : Fin 32)
  /-- MC_MULH (R248): d := (a x b)[63:32], signed. -/
  | mcMulh (n : Fin 4) (d a b e : Fin 32)
  /-- MC_MULHU (R248): d := (a x b)[63:32], unsigned. -/
  | mcMulhu (n : Fin 4) (d a b e : Fin 32)
  /-- MC_MULV (R248): as MUL; a signed product beyond 32 bits raises OVERFLOW. -/
  | mcMulv (n : Fin 4) (d a b e : Fin 32)
  /-- MC_DIV (R249): d := the quotient truncated towards 0, signed; by 0, DIV_ZERO and d unwritten (R249). -/
  | mcDiv (n : Fin 4) (d a b e : Fin 32)
  /-- MC_DIVU (R249): d := the quotient, unsigned; by 0, DIV_ZERO and d unwritten (R249). -/
  | mcDivu (n : Fin 4) (d a b e : Fin 32)
  /-- MC_REM (R249): d := the remainder with the sign of a; by 0, DIV_ZERO and d unwritten (R249). -/
  | mcRem (n : Fin 4) (d a b e : Fin 32)
  /-- MC_REMU (R249): d := the remainder, unsigned; by 0, DIV_ZERO and d unwritten (R249). -/
  | mcRemu (n : Fin 4) (d a b e : Fin 32)
  /-- MC_ADD_S (R248): d := sat(a + b). -/
  | mcAddS (n : Fin 4) (d a b e : Fin 32)
  /-- MC_SUB_S (R248): d := sat(a - b). -/
  | mcSubS (n : Fin 4) (d a b e : Fin 32)
  /-- MC_NEG_S (R248): d := sat(-a). -/
  | mcNegS (n : Fin 4) (d a b e : Fin 32)
  /-- MC_ABS_S (R248): d := sat(abs a). -/
  | mcAbsS (n : Fin 4) (d a b e : Fin 32)
  /-- MC_MULQ (R248): d := sat((a x b) >> 31). -/
  | mcMulq (n : Fin 4) (d a b e : Fin 32)
  /-- MC_MADQ (R248): d := sat(e + ((a x b) >> 31)). -/
  | mcMadq (n : Fin 4) (d a b e : Fin 32)
  /-- MC_MULQ15 (R248): d := sat16((a[15:0] x b[15:0]) >> 15). -/
  | mcMulq15 (n : Fin 4) (d a b e : Fin 32)
  /-- MC_MADQ15 (R248): d := sat16(e[15:0] + ((a[15:0] x b[15:0]) >> 15)). -/
  | mcMadq15 (n : Fin 4) (d a b e : Fin 32)
  /-- MC_CLMP (R248): d := min(max(a, -b), b). -/
  | mcClmp (n : Fin 4) (d a b e : Fin 32)
  /-- MC_SHLS (R248): d := sat(a x 2^b[4:0]). -/
  | mcShls (n : Fin 4) (d a b e : Fin 32)
  /-- MC_RNDQ15 (R248): d := sat16((a + 2^15) >> 16). -/
  | mcRndq15 (n : Fin 4) (d a b e : Fin 32)
  /-- MC_FADD (R248): d := a + b. -/
  | mcFadd (n : Fin 4) (d a b e : Fin 32)
  /-- MC_FSUB (R248): d := a - b. -/
  | mcFsub (n : Fin 4) (d a b e : Fin 32)
  /-- MC_FMUL (R248): d := a x b. -/
  | mcFmul (n : Fin 4) (d a b e : Fin 32)
  /-- MC_FMAD (R248): d := e + a x b, one rounding. -/
  | mcFmad (n : Fin 4) (d a b e : Fin 32)
  /-- MC_FMIN (R248): d := the minimum; a NaN gives the other operand. -/
  | mcFmin (n : Fin 4) (d a b e : Fin 32)
  /-- MC_FMAX (R248): d := the maximum; a NaN gives the other operand. -/
  | mcFmax (n : Fin 4) (d a b e : Fin 32)
  /-- MC_FABS (R248): d := a with its sign cleared. -/
  | mcFabs (n : Fin 4) (d a b e : Fin 32)
  /-- MC_FNEG (R248): d := a with its sign inverted. -/
  | mcFneg (n : Fin 4) (d a b e : Fin 32)
  /-- MC_FCVT_QF (R248): Q31 to FP32. -/
  | mcFcvtQf (n : Fin 4) (d a b e : Fin 32)
  /-- MC_FCVT_FQ (R248): FP32 to Q31, saturating. -/
  | mcFcvtFq (n : Fin 4) (d a b e : Fin 32)
  /-- MC_FCVT_IF (R248): integer to FP32. -/
  | mcFcvtIf (n : Fin 4) (d a b e : Fin 32)
  /-- MC_FCVT_FI (R248): FP32 to integer, saturating. -/
  | mcFcvtFi (n : Fin 4) (d a b e : Fin 32)
  /-- MC_FLT (R248): d := 1 if a < b, else 0; 0 with a NaN. -/
  | mcFlt (n : Fin 4) (d a b e : Fin 32)
  /-- MC_FDIV (R248): d := a / b, one rounding. -/
  | mcFdiv (n : Fin 4) (d a b e : Fin 32)
  /-- MC_FSQRT (R248): d := the square root of a, one rounding. -/
  | mcFsqrt (n : Fin 4) (d a b e : Fin 32)
  /-- MC_FEQ (R248): d := 1 if a = b, else 0; 0 with a NaN. -/
  | mcFeq (n : Fin 4) (d a b e : Fin 32)
  /-- MC_FLE (R248): d := 1 if a <= b, else 0; 0 with a NaN. -/
  | mcFle (n : Fin 4) (d a b e : Fin 32)
  /-- MC_CLARKE (R248): d := a, d + 1 := sat((a + 2b) / sqrt 3). -/
  | mcClarke (n : Fin 4) (d a b e : Fin 32)
  /-- MC_PARK (R248): the pair at a, rotated by the angle b, into the pair at d. -/
  | mcPark (n : Fin 4) (d a b e : Fin 32)
  /-- MC_IPARK (R248): the pair at a, rotated back by the angle b, into the pair at d. -/
  | mcIpark (n : Fin 4) (d a b e : Fin 32)
  /-- MC_SVM (R248): space-vector times of the pair at a into d to d + 3. -/
  | mcSvm (n : Fin 4) (d a b e : Fin 32)
  /-- MC_CLZ (R248): d := leading zeros of a, 0 to 32. -/
  | mcClz (n : Fin 4) (d a b e : Fin 32)
  /-- MC_CTZ (R248): d := trailing zeros of a, 0 to 32. -/
  | mcCtz (n : Fin 4) (d a b e : Fin 32)
  /-- MC_POPC (R248): d := the number of ones in a. -/
  | mcPopc (n : Fin 4) (d a b e : Fin 32)
  /-- MC_BSWAP (R248): d := a with its byte order reversed. -/
  | mcBswap (n : Fin 4) (d a b e : Fin 32)
  /-- MC_ADDI (R248): d := a + sext(imm16). -/
  | mcAddi (n : Fin 4) (d a : Fin 32) (imm : BitVec 16)
  /-- MC_ANDI (R248): d := a and zext(imm16). -/
  | mcAndi (n : Fin 4) (d a : Fin 32) (imm : BitVec 16)
  /-- MC_ORI (R248): d := a or zext(imm16). -/
  | mcOri (n : Fin 4) (d a : Fin 32) (imm : BitVec 16)
  /-- MC_XORI (R248): d := a xor zext(imm16). -/
  | mcXori (n : Fin 4) (d a : Fin 32) (imm : BitVec 16)
  /-- MC_SLTI (R248): d := 1 if a < sext(imm16) signed, else 0. -/
  | mcSlti (n : Fin 4) (d a : Fin 32) (imm : BitVec 16)
  /-- MC_SLTIU (R248): d := 1 if a < sext(imm16) unsigned, else 0. -/
  | mcSltiu (n : Fin 4) (d a : Fin 32) (imm : BitVec 16)
  /-- MC_LUI (R248): d := imm16 << 16; a = 0. -/
  | mcLui (n : Fin 4) (d a : Fin 32) (imm : BitVec 16)
  /-- MC_SLLI (R248): d := a shifted left by imm16[4:0]. imm is imm16[13:0]. -/
  | mcSlli (n : Fin 4) (d a : Fin 32) (imm : BitVec 14)
  /-- MC_SRLI (R248): d := a shifted right by imm16[4:0], logical. imm is imm16[13:0]. -/
  | mcSrli (n : Fin 4) (d a : Fin 32) (imm : BitVec 14)
  /-- MC_SRAI (R248): d := a shifted right by imm16[4:0], arithmetic. imm is imm16[13:0]. -/
  | mcSrai (n : Fin 4) (d a : Fin 32) (imm : BitVec 14)
  /-- MC_LB (R253): d := a signed byte at c's cursor + sext(off16). -/
  | mcLb (n : Fin 4) (d c : Fin 32) (off : BitVec 16)
  /-- MC_LBU (R253): d := an unsigned byte at c's cursor + sext(off16). -/
  | mcLbu (n : Fin 4) (d c : Fin 32) (off : BitVec 16)
  /-- MC_LH (R253): d := a signed halfword at c's cursor + sext(off16). -/
  | mcLh (n : Fin 4) (d c : Fin 32) (off : BitVec 16)
  /-- MC_LHU (R253): d := an unsigned halfword at c's cursor + sext(off16). -/
  | mcLhu (n : Fin 4) (d c : Fin 32) (off : BitVec 16)
  /-- MC_LW (R253): d := a word at c's cursor + sext(off16). -/
  | mcLw (n : Fin 4) (d c : Fin 32) (off : BitVec 16)
  /-- MC_LD (R253): d := the word at c's cursor + sext(off16), d + 1 := the word after it; d even. -/
  | mcLd (n : Fin 4) (d c : Fin 32) (off : BitVec 16)
  /-- MC_SB (R253): the low byte of d stored at c's cursor + sext(off16). -/
  | mcSb (n : Fin 4) (d c : Fin 32) (off : BitVec 16)
  /-- MC_SH (R253): the low halfword of d stored at c's cursor + sext(off16). -/
  | mcSh (n : Fin 4) (d c : Fin 32) (off : BitVec 16)
  /-- MC_SW (R253): d stored at c's cursor + sext(off16). -/
  | mcSw (n : Fin 4) (d c : Fin 32) (off : BitVec 16)
  /-- MC_SD (R253): d and d + 1 stored at c's cursor + sext(off16); d even. -/
  | mcSd (n : Fin 4) (d c : Fin 32) (off : BitVec 16)
  /-- MC_LC (R284): capability d := 16 bytes and tag at c's cursor + sext(off16). -/
  | mcLc (n : Fin 4) (d c : Fin 32) (off : BitVec 16)
  /-- MC_SC (R291): capability d stored at c's cursor + sext(off16), with its tag where R291 lets it. -/
  | mcSc (n : Fin 4) (d c : Fin 32) (off : BitVec 16)
  /-- MC_SGADDCI (R287): capability d := capability c with CURSOR + sext(off16). -/
  | mcSgaddci (n : Fin 4) (d c : Fin 32) (off : BitVec 16)
  /-- MC_LX_LB (R253): d := a signed byte at a's cursor + (b << e[1:0]). -/
  | mcLxLb (n : Fin 4) (d a b e : Fin 32)
  /-- MC_LX_LBU (R253): d := an unsigned byte at a's cursor + (b << e[1:0]). -/
  | mcLxLbu (n : Fin 4) (d a b e : Fin 32)
  /-- MC_LX_LH (R253): d := a signed halfword at a's cursor + (b << e[1:0]). -/
  | mcLxLh (n : Fin 4) (d a b e : Fin 32)
  /-- MC_LX_LHU (R253): d := an unsigned halfword at a's cursor + (b << e[1:0]). -/
  | mcLxLhu (n : Fin 4) (d a b e : Fin 32)
  /-- MC_LX_LW (R253): d := a word at a's cursor + (b << e[1:0]). -/
  | mcLxLw (n : Fin 4) (d a b e : Fin 32)
  /-- MC_LX_LD (R253): d := the word at a's cursor + (b << e[1:0]), d + 1 := the word after it; d even. -/
  | mcLxLd (n : Fin 4) (d a b e : Fin 32)
  /-- MC_SX_SB (R253): the low byte of d stored at a's cursor + (b << e[1:0]). -/
  | mcSxSb (n : Fin 4) (d a b e : Fin 32)
  /-- MC_SX_SH (R253): the low halfword of d stored at a's cursor + (b << e[1:0]). -/
  | mcSxSh (n : Fin 4) (d a b e : Fin 32)
  /-- MC_SX_SW (R253): d stored at a's cursor + (b << e[1:0]). -/
  | mcSxSw (n : Fin 4) (d a b e : Fin 32)
  /-- MC_SX_SD (R253): d and d + 1 stored at a's cursor + (b << e[1:0]); d even. -/
  | mcSxSd (n : Fin 4) (d a b e : Fin 32)
  /-- MC_AMO_SWAP (R270): d := the old word at a's cursor; the word := b. -/
  | mcAmoSwap (n : Fin 4) (d a b e : Fin 32)
  /-- MC_AMO_ADD (R270): d := the old word at a's cursor; the word := old + b. -/
  | mcAmoAdd (n : Fin 4) (d a b e : Fin 32)
  /-- MC_AMO_AND (R270): d := the old word at a's cursor; the word := old and b. -/
  | mcAmoAnd (n : Fin 4) (d a b e : Fin 32)
  /-- MC_AMO_OR (R270): d := the old word at a's cursor; the word := old or b. -/
  | mcAmoOr (n : Fin 4) (d a b e : Fin 32)
  /-- MC_BEQ (R250): if a = b then PC := PC + 4 x sext(off16). -/
  | mcBeq (n : Fin 4) (a b : Fin 32) (off : BitVec 16)
  /-- MC_BNE (R250): if a is not b then PC := PC + 4 x sext(off16). -/
  | mcBne (n : Fin 4) (a b : Fin 32) (off : BitVec 16)
  /-- MC_BLT (R250): if a < b, signed then PC := PC + 4 x sext(off16). -/
  | mcBlt (n : Fin 4) (a b : Fin 32) (off : BitVec 16)
  /-- MC_BGE (R250): if a >= b, signed then PC := PC + 4 x sext(off16). -/
  | mcBge (n : Fin 4) (a b : Fin 32) (off : BitVec 16)
  /-- MC_BLTU (R250): if a < b, unsigned then PC := PC + 4 x sext(off16). -/
  | mcBltu (n : Fin 4) (a b : Fin 32) (off : BitVec 16)
  /-- MC_BGEU (R250): if a >= b, unsigned then PC := PC + 4 x sext(off16). -/
  | mcBgeu (n : Fin 4) (a b : Fin 32) (off : BitVec 16)
  /-- MC_J (R250): PC := PC + 4 x sext(off26). -/
  | mcJ (n : Fin 4) (off : BitVec 26)
  /-- MC_CALL (R239): slide the window, MC_LINK := PC + 4, PC := PC + 4 x sext(off26). -/
  | mcCall (n : Fin 4) (off : BitVec 26)
  /-- MC_JC (R250): PCAP := capability a, PC := its cursor. -/
  | mcJc (n : Fin 4) (d a b e : Fin 32)
  /-- MC_CALLC (R250): c14 := PCAP with its cursor at PC + 4; slide the window, MC_LINK := PC + 4; then as JC with capability a. -/
  | mcCallc (n : Fin 4) (d a b e : Fin 32)
  /-- MC_RETC (R250): slide the window back, then as JC with capability a. -/
  | mcRetc (n : Fin 4) (d a b e : Fin 32)
  /-- MC_RET (R250): PC := MC_LINK of the window left, within the present PCAP; slide the window back. -/
  | mcRet (n : Fin 4) (d a b e : Fin 32)
  /-- MC_LOOP (R251): loop over the off16 - 1 instructions that follow, with count register a; with a count of 0 the body is skipped. z is the field [20:16], which is 0. -/
  | mcLoop (n : Fin 4) (a z : Fin 32) (off : BitVec 16)
  /-- MC_ENDLOOP (R251): acts as NOP; z is the field [25:0], which is 0. -/
  | mcEndloop (n : Fin 4) (z : BitVec 26)
  /-- MC_SGMOV (R287): capability d := capability a. -/
  | mcSgmov (n : Fin 4) (d a b e : Fin 32)
  /-- MC_SGBASE (R287): d := BASE of capability a. -/
  | mcSgbase (n : Fin 4) (d a b e : Fin 32)
  /-- MC_SGLEN (R287): d := LENGTH of capability a. -/
  | mcSglen (n : Fin 4) (d a b e : Fin 32)
  /-- MC_SGPERM (R287): d := PERMS of capability a. -/
  | mcSgperm (n : Fin 4) (d a b e : Fin 32)
  /-- MC_SGTYPE (R287): d := OTYPE of capability a. -/
  | mcSgtype (n : Fin 4) (d a b e : Fin 32)
  /-- MC_SGTAG (R287): d := the tag of capability a. -/
  | mcSgtag (n : Fin 4) (d a b e : Fin 32)
  /-- MC_SGCUR (R287): d := CURSOR of capability a. -/
  | mcSgcur (n : Fin 4) (d a b e : Fin 32)
  /-- MC_SGSETC (R287): capability d := capability a with CURSOR := b. -/
  | mcSgsetc (n : Fin 4) (d a b e : Fin 32)
  /-- MC_SGADDC (R287): capability d := capability a with CURSOR + b. -/
  | mcSgaddc (n : Fin 4) (d a b e : Fin 32)
  /-- MC_SGNARROW (R287): capability d := capability a with BASE + b, LENGTH := e, CURSOR := the new BASE. -/
  | mcSgnarrow (n : Fin 4) (d a b e : Fin 32)
  /-- MC_SGMASK (R287): capability d := capability a with PERMS and b[15:0]. -/
  | mcSgmask (n : Fin 4) (d a b e : Fin 32)
  /-- MC_SGSEAL (R290): capability d := capability a sealed with object type b under the authority of capability e. -/
  | mcSgseal (n : Fin 4) (d a b e : Fin 32)
  /-- MC_SGOPEN (R290): capability d := capability a unsealed under the authority of capability e. -/
  | mcSgopen (n : Fin 4) (d a b e : Fin 32)
  /-- MC_SGVOID (R287): capability d := capability a with tag 0. -/
  | mcSgvoid (n : Fin 4) (d a b e : Fin 32)
  /-- MC_FENCE (R271): retires when every older instruction has retired and the store buffer is empty; the unused fields are 0. -/
  | mcFence (n : Fin 4) (d a b e : Fin 32)
  /-- MC_CKPT (R328): Take a checkpoint of the core state. -/
  | mcCkpt (n : Fin 4) (d a b e : Fin 32)
  /-- MC_SPLIT (R340): Switch a lockstep pair to SPLIT and start the secondary. -/
  | mcSplit (n : Fin 4) (d a b e : Fin 32)
  /-- MC_JOIN (R341): Stop the secondary and copy the primary into it to rejoin lockstep. -/
  | mcJoin (n : Fin 4) (d a b e : Fin 32)
  /-- JOIN_RESYNC (R341): the copy has ended, after 65,536 + extra CLK_CORE cycles. -/
  | joinResync (p : Fin 2) (extra : Fin 14465)
  /-- MC_ERET (R301): Return from an exception frame on MC_XSTK. -/
  | mcEret (n : Fin 4) (d a b e : Fin 32)
  /-- MC_WFI (R281): Wait, clock-gated, until an interrupt line is eligible. -/
  | mcWfi (n : Fin 4) (d a b e : Fin 32)
  /-- MC_TRAP (R302): Retire and raise TRAP. -/
  | mcTrap (n : Fin 4) (d a b e : Fin 32)
  /-- MC_STOW (R244): Spill every resident frame except the current one. -/
  | mcStow (n : Fin 4) (d a b e : Fin 32)
  /-- MC_BKPT (R302): Retire and raise BKPT, or halt under debug. -/
  | mcBkpt (n : Fin 4) (d a b e : Fin 32)
  /-- MC_MFSR (R294): d := system register imm16[11:0]; a = 0. -/
  | mcMfsr (n : Fin 4) (d a : Fin 32) (imm : BitVec 16)
  /-- MC_MTSR (R295): system register imm16[11:0] := a; d = 0. -/
  | mcMtsr (n : Fin 4) (d a : Fin 32) (imm : BitVec 16)
  /-- MC_BCOPY (R316): b bytes from a's cursor to d's cursor, in blocks of 64; the routine is abandoned after m blocks where more are left; `ext` is what the outside answers to loads through the PCIe window. -/
  | mcBcopy (n : Fin 4) (d a b e : Fin 32) (m ext : Nat)
  /-- MC_BFILL (R316): b bytes at d's cursor filled with e[7:0], in blocks of 64; the routine is abandoned after m blocks where more are left. -/
  | mcBfill (n : Fin 4) (d a b e : Fin 32) (m : Nat)
  /-- DATA_CACHE_INVALIDATE (R273): An MC_CCTL.DCINV write starts invalidation of the whole data cache. -/
  | dataCacheInvalidate (n : Fin 4)
  /-- INSTRUCTION_CACHE_INVALIDATE (R273): An MC_CCTL.ICINV write starts invalidation of the whole instruction cache. -/
  | instructionCacheInvalidate (n : Fin 4)
  /-- CACHE_INVALIDATION_DONE (R273): After 256 cycles BUSY clears and waiting loads and fetches proceed. -/
  | cacheInvalidationDone (n : Fin 4)
  /-- SET_PENDING (R277): MC_ICFG := v with SETPEND = 1, for the line in MC_ISEL. -/
  | setPending (n : Fin 4) (v : BitVec 32)
  /-- STORE_BUFFER_DRAIN (R268): A retired store-buffer entry is accepted by its target in program order. -/
  | storeBufferDrain (n : Fin 4)
  /-- INTERRUPT_ENTRY (R278): An eligible line is taken at a retirement boundary: vector read, window slid and IPL raised. -/
  | interruptEntry (n : Fin 4)
  /-- EXCEPTION_ENTRY (R299): the exception that waits for a boundary is taken, or else the unassigned word `ill` at the PC raises ILLEGAL_INSN. -/
  | exceptionEntry (n : Fin 4) (ill : Option (BitVec 32))
  /-- CHECKER_MISMATCH (R327): The lockstep checker finds differing outputs: KIND and PORT of the difference, address of the primary's output. -/
  | checkerMismatch (p : Fin 2) (kind : Fin 4) (port : Bool) (a : BitVec 32)
  /-- ROLLBACK_RESUME (R334): The pair, or outside LOCKSTEP core n, fetches at the checkpoint PC and ROLLCNT advances. -/
  | rollbackResume (n : Fin 4)
  /-- CORE_BIST_DONE (R339): After 5 ms of BIST the pair rolls back, runs ALONE or halts by the outcome. -/
  | coreBistDone (p : Fin 2) (ok0 ok1 : Bool)
  /-- HOLD_QUEUE_RELEASE (R332): After the commit, the held stores are written to their targets in program order. -/
  | holdQueueRelease (n : Fin 4)
  /-- CKPT_DUE_RAISE (R333): MAXINT, LOGUSED or HOLDUSED reaches its limit and CKPT_DUE is raised. -/
  | ckptDueRaise (n : Fin 4)
  /-- CKPT_DUE_TIMEOUT (R333): No CKPT commits within 50 us of CKPT_DUE. -/
  | ckptDueTimeout (n : Fin 4)
  /-- PATCH_ARM (R319): a write of MCODE_CTRL that sets the ARM bits of v, by the management core or another master. -/
  | patchArm (v : BitVec 32) (mgmt : Bool)
  /-- PATCH_CANCEL (R320): a write of MCODE_CTRL that clears the ARM bits of v, by the management core or another master. -/
  | patchCancel (v : BitVec 32) (mgmt : Bool)
  /-- PATCH_INSTALL (R320): the armed core, or pair, stalled at its CKPT installs the patch; `ok` says that the read-back agrees. -/
  | patchInstall (n : Fin 4) (ok : Bool)
  /-- PAGE_CORRECTION (R347): a read of the 64-bit word at a by an initiator (MG_MEMERR.INIT code) whose detection code fails. -/
  | pageCorrection (a : BitVec 32) (port : Fin 16)
  /-- SRAM_PAGE_REMAP (R354): the page of bulk SRAM, counted from 0x2000_0000. -/
  | sramPageRemap (page : Fin 32768)
  /-- ECC_STRENGTH_WRITE (R355): a write of v to MG_ECCSTRk. -/
  | eccStrengthWrite (k : Fin 9) (v : BitVec 32)
  /-- INIT_CLEAR_DONE (R345): The clearing of the init masks ends and INITBUSY clears. -/
  | initClearDone
  /-- SCRUB_START (R356): a write of MG_SCRUBCTL with EN = 1 and OP = SCRUB. -/
  | scrubStart (v : BitVec 32)
  /-- CLEAR_START (R357): a write of MG_SCRUBCTL with EN = 1 and OP = CLEAR. -/
  | clearStart (v : BitVec 32)
  /-- SCRUB_STOP (R357): a write of MG_SCRUBCTL with EN = 0; pages is the number of pages done with the current one. -/
  | scrubStop (v : BitVec 32) (pages : Nat)
  /-- SCRUB_PASS_DONE (R357): The pass completes, EN clears and DONE is set. -/
  | scrubPassDone
  /-- FLASH_PROGRAM (R370): FC_CMD PROGRAM checks the page and requests FLASH_PROG; `v` is the word written. -/
  | flashProgram (v : BitVec 32)
  /-- FLASH_PROGRAM_DONE (R370): Programming and verify end, the intent is closed and DONE is set. -/
  | flashProgramDone (bank : Fin 2) (verified : Bool)
  /-- FLASH_ERASE (R371): FC_CMD ERASE checks the sector and requests FLASH_ERASE. -/
  | flashErase (v : BitVec 32)
  /-- FLASH_ERASE_DONE (R371): The erase verifies or times out, and the sector word and intent are written. -/
  | flashEraseDone (bank : Fin 2) (verified : Bool)
  /-- FLASH_SUSPEND (R372): FC_CMD SUSPEND requests a stop of the erase running. -/
  | flashSuspend (v : BitVec 32)
  /-- ERASE_SUSPENDED (R372): Within 20 us the erase stops and the intent reads SUSPENDED. -/
  | eraseSuspended (bank : Fin 2)
  /-- FLASH_RESUME (R372): FC_CMD RESUME continues a suspended erase. -/
  | flashResume (v : BitVec 32)
  /-- FLASH_ACKRECOV (R378): FC_CMD ACKRECOV closes the reported intent and releases the copy area. -/
  | flashAckrecov (v : BitVec 32)
  /-- FC_CTRL_WRITE (R365): An FC_CTRL write is checked for wait states and for the BCH change. -/
  | fcCtrlWrite (v : BitVec 32)
  /-- FC_XO_WRITE (R367): A write to an execute-only descriptor is stored, locked, or refused with XO_LOCKED. -/
  | fcXoWrite (k : Fin 16) (v : BitVec 32)
  /-- SECTOR_REMAP (R374): The management firmware remaps a flash sector to a spare. -/
  | sectorRemap (bank : Fin 2) (sector : Fin 128)
  /-- LEDGER_COMMIT (R383): LG_CMD COMMIT writes a set into its other slot in crash-safe order. -/
  | ledgerCommit (v : BitVec 32)
  /-- LEDGER_READ (R384): LG_CMD READ copies a set's record into LG_BUF. -/
  | ledgerRead (v : BitVec 32)
  /-- LEDGER_COMMAND_DONE (R383): A ledger command ends and DONE and line 404 are set. -/
  | ledgerCommandDone
  /-- LEDGER_DIRECT_WRITE (R379): A direct write of 2^lg bytes to the ledger, by the management core or another master, is applied atomically per word or refused with AREAREF. -/
  | ledgerDirectWrite (a : BitVec 32) (lg : Fin 6) (v : BitVec 256) (mgmt : Bool)
  /-- DMA_ENABLE (R387): a write of DMA_CHk_CTL with EN = 1; v gives PRIO. -/
  | dmaEnable (k : Fin 32) (v : BitVec 32)
  /-- DMA_ABORT (R398): a write of DMA_CHk_CTL with EN = 0; v gives PRIO. -/
  | dmaAbort (k : Fin 32) (v : BitVec 32)
  /-- ENVELOPE_FETCH (R389): the engine reads the envelope; ext is what the outside answers through the PCIe window. -/
  | envelopeFetch (k : Fin 32) (ext : Nat)
  /-- DMA_BURST_READ_DATA (R391): the data of a burst arrive and are written; ext is what the outside answers through the PCIe window. -/
  | dmaBurstReadData (k : Fin 32) (ext : Nat)
  /-- DMA_READBACK_RESPONSE (R394): the oldest readback in flight answers. -/
  | dmaReadbackResponse (k : Fin 32)
  /-- DMA_ERROR_RESPONSE (R399): an envelope that met an error response ends. -/
  | dmaErrorResponse (k : Fin 32)
  /-- DMA_TIMEOUT (R400): no progress for TIMEOUT us. -/
  | dmaTimeout (k : Fin 32)
  /-- ATTEST (R415): a write of MG_SVCCMD with OP 0x01. -/
  | attest
  /-- IDKEY (R414): a write of MG_SVCCMD with OP 0x02. -/
  | idkey
  /-- SVN_ADVANCE (R408): a write of MG_SVCCMD with OP 0x03. -/
  | svnAdvance
  /-- REVOKE (R409): a write of MG_SVCCMD with OP 0x04. -/
  | revoke
  /-- PHASE (R403): a write of MG_SVCCMD with OP 0x05. -/
  | phase
  /-- LIVEUPD (R420): a write of MG_SVCCMD with OP 0x06. -/
  | liveupd
  /-- LIVEUPD_PAIR_STOP (R420): Each named pair stops at its next CKPT commit and takes a COLD restart for the update. -/
  | liveupdPairStop (p : Fin 2)
  /-- BANKSWAP (R368): a write of MG_SVCCMD with OP 0x07. -/
  | bankswap
  /-- LOADCELL (R419): a write of MG_SVCCMD with OP 0x08. -/
  | loadcell
  /-- LOADMAP (R419): a write of MG_SVCCMD with OP 0x09. -/
  | loadmap
  /-- LOADMCODE (R419): a write of MG_SVCCMD with OP 0x0A. -/
  | loadmcode
  /-- MGRELOAD (R402): a write of MG_SVCCMD with OP 0x0B. -/
  | mgreload
  /-- SERVICE_COMMAND_DONE (R419): A service command ends with DONE, line 384 and its result in MG_CFGCHK. -/
  | serviceCommandDone
  /-- MAINT_REQUEST (R417): a write of MG_MREQ by the management core or another master. -/
  | maintRequest (v : BitVec 32) (mgmt : Bool)
  /-- MAINT_RELEASE (R417): a write of MG_MREL. -/
  | maintRelease (v : BitVec 32)
  /-- ARBITER_GRANT (R417): A queued request is granted when its last conflict ends, raising line 385 and event 0x771. -/
  | arbiterGrant
  /-- PERMIT_EXPIRY (R403): The PERMIT expiry returns MG_PHASE from TEST to RUN. -/
  | permitExpiry
  /-- DOMAIN_POWER_UP (R424): a write of PM_DOMCTLx that sets the bits of v and leaves the others; each domain powers in staggered order. -/
  | domainPowerUp (x : Fin 2) (v : BitVec 32)
  /-- DOMAIN_USABLE (R424): The powered domain becomes usable with its reset values and initialised memories. -/
  | domainUsable (d : Fin 64)
  /-- DOMAIN_GATE (R425): a write of PM_DOMCTLx that clears the bits that are 0 in v and leaves the others; each gating is carried out or refused. -/
  | domainGate (x : Fin 2) (v : BitVec 32)
  /-- OP_CHANGE (R428): a write of PM_OPCTL: wait states are checked, then frequency and VID change in sequence. -/
  | opChange (v : BitVec 32)
  /-- VOLTAGE_CONFIRMED (R429): PGOOD reads high after a VID change and the sequence continues. -/
  | voltageConfirmed
  /-- PGOOD_TIMEOUT (R429): No confirmation within 1 ms sets PGTO and restores a safe VID. -/
  | pgoodTimeout
  /-- PGOOD_LOSS (R430): PGOOD low for 1 µs drops CLK_CORE to ÷ 32 and sets PGLOST. -/
  | pgoodLoss
  /-- CROCUS_ENTRY (R432): a write of PM_SLEEP with TARGET 0b01. -/
  | crocusEntry
  /-- SNOWDROP_ENTRY (R432): a write of PM_SLEEP with TARGET 0b10. -/
  | snowdropEntry
  /-- OFF_ENTRY (R431): a write of PM_SLEEP with TARGET 0b11. -/
  | offEntry
  /-- SLEEP_PAIRS_STOPPED (R432): Once the pairs and DMA have stopped, the state is retained, the pads held, the domains gated and the PLL stopped. -/
  | sleepPairsStopped
  /-- WAKE_EVENT (R434): source `src` of PM_WAKEEN is seen; `ticks` of the sleep clock have passed since the last command of this sleep. -/
  | wakeEvent (src : Fin 5) (ticks : Nat)
  /-- WAKE_COMPLETE (R434): The pairs are released and channels resumed, raising line 386 and event 0x773. -/
  | wakeComplete
  /-- CROCUS_SAMPLING_WAKE (R435): CRPER expires and the group and SO are powered to sample. -/
  | crocusSamplingWake (ticks : Nat)
  /-- CROCUS_DECISION (R435): the codes of the sampling wake give its results; an exit gives a full wake, otherwise the group is gated again. -/
  | crocusDecision (codes : List CrocusCodes) (ticks : Nat)
  /-- SNOWDROP_TIMER (R431): the TIMER wake expires after CRPER us. -/
  | snowdropTimer (ticks : Nat)
  /-- PAD_RELEASE (R437): a write of PM_PADREL. -/
  | padRelease (v : BitVec 32)
  /-- PIN_CONFIGURATION_WRITE (R447): A PX_PINk write switches the pin function through the hold sequence, or is refused. -/
  | pinConfigurationWrite (k : Fin 256) (v : BitVec 32)
  /-- GPIO_WRITE (R444): A DOUT or OE write reaches the pad 10 ns after landing. -/
  | gpioWrite (k : Fin 256) (oe dout : Bool)
  /-- PINT_ENABLE (R450): Writing PINT_CFGn EN = 1 checks the line and takes the first level as its reference. -/
  | pintEnable (n : Fin 16) (v : BitVec 32) (level : Bool)
  /-- PIN_INTERRUPT_EDGE (R450): The synchronised pin makes the selected transition and PEND n is set. -/
  | pinInterruptEdge (n : Fin 16) (level : Bool)
  /-- LETTERBOX_POST (R452): A POST write with postmark `p` in direction `d` (0 AB, 1 BA) places the message, or discards it as DUP or FULL, and records any gap. -/
  | letterboxPost (k : Fin 32) (d : Fin 2) (p : BitVec 16)
  /-- LETTERBOX_ACK (R453): An ACK write removes held messages up to its postmark, or sets ACKREF. -/
  | letterboxAck (k : Fin 32) (d : Fin 2) (p : BitVec 16)
  /-- LETTERBOX_ENABLE (R451): A write of LBXk_CFG: EN = 1 enables the letterbox; EN = 0 empties both rings and zeroes the counters. -/
  | letterboxEnable (k : Fin 32) (v : BitVec 32)
  /-- HOST_PORT_ENABLE (R459): Writing HP_CTRL.EN enables the Odoon port, or sets HD and HINTn to high impedance. -/
  | hostPortEnable (v : BitVec 32)
  /-- HOST_WRITE (R460): A host write is captured into the posted queue, or dropped when the queue is full or DROPPING. -/
  | hostWrite (ha : BitVec 24) (be : BitVec 4) (data : BitVec 32)
  /-- HOST_WRITE_APPLY (R460): The oldest queued host write is applied to the post room, mirror, crossbar or management RAM. -/
  | hostWriteApply
  /-- HOST_READ (R458): A host read of word ha is answered from the post room or mirror, or sets RDREF. -/
  | hostRead (ha : BitVec 24)
  /-- RESYNC (R461): A host write to RESYNC clears DROPPING. -/
  | resync
  /-- HOST_WINDOW_WRITE (R457): An HP_WINn write from the management core maps a window, and one from any other master sets FOREIGN. -/
  | hostWindowWrite (n : Fin 256) (v : BitVec 32) (mgmt : Bool)
  /-- PCIE_INBOUND_ACCESS (R465): An inbound write or read of n bytes at offset off of BAR0 or BAR1; data is what a write carries, first byte least significant. -/
  | pcieInboundAccess (bar1 : Bool) (off : BitVec 20) (n : Fin 513) (write : Bool) (data : Nat)
  /-- PCIE_COMPLETION (R465): the completion of core n's outbound load arrives with `data`; the load ends and its instruction retires. -/
  | pcieCompletion (n : Fin 4) (data : Nat)
  /-- PCIE_COMPLETION_TIMEOUT (R465): After 50 ms without a completion, the load ends with BUS_ERROR. -/
  | pcieCompletionTimeout (n : Fin 4)
  /-- MAC_TIME_ADJUST (R468): A TADJ write steps the MAC time offset. -/
  | macTimeAdjust (m : Fin 2) (lo hi : BitVec 32)
  /-- MAC_TARGET_TIME (R468): The network time reaches TGTt, raising its source and driving its output. -/
  | macTargetTime (m : Fin 2) (t : Fin 4)
  /-- FRAME_RECEIVE (R467): A MAC receives a frame and timestamps event messages. -/
  | frameReceive (m : Fin 2) (len : Nat) (event bad : Bool)
  /-- FRAME_TRANSMIT (R469): A MAC transmits a frame from its queues under gate and shaper control. -/
  | frameTransmit (m : Fin 2) (queue : Fin 8) (event : Bool)
  /-- CAN_FRAME_RECEIVE (R470): A CAN controller receives a frame with a DEVTIME timestamp. -/
  | canFrameReceive (n : Fin 6) (f : CanFormat) (len : Nat)
  /-- PERTURBATION_WRITE (R474): a write of v to TP_XBDLY, TP_DMABP, TP_SODLY or TP_CSDLY. -/
  | perturbationWrite (r : PertReg) (v : BitVec 32)
  /-- CLRALL (R475): a write of TP_CTRL with CLRALL = 1; v gives LIVE. -/
  | clrall (v : BitVec 32)
  /-- MISM_P0 (R476): a write of TP_INJ with KIND 1. -/
  | mismP0
  /-- MISM_P1 (R476): a write of TP_INJ with KIND 2. -/
  | mismP1
  /-- MISM_CELL (R476): a write of TP_INJ with KIND 3. -/
  | mismCell (cell : BitVec 6)
  /-- ECC1 (R476): a write of TP_INJ with KIND 4. -/
  | ecc1
  /-- ECC2 (R476): a write of TP_INJ with KIND 5. -/
  | ecc2
  /-- ECCPAGE (R476): a write of TP_INJ with KIND 6. -/
  | eccpage
  /-- DEBUG_HALT (R477): a write of TP_DBGCTL that sets HALTp and changes nothing else. -/
  | debugHalt (p : Fin 2)
  /-- DEBUG_STEP (R477): a write of TP_DBGCTL with STEPp = 1 that changes nothing else. -/
  | debugStep (p : Fin 2)
  /-- DEBUG_RESUME (R477): a write of TP_DBGCTL that clears HALTp and changes nothing else. -/
  | debugResume (p : Fin 2)
  /-- BYPASS (R479): TAP BYPASS instruction. -/
  | bypass
  /-- SAMPLE_PRELOAD (R479): the pad levels captured and the boundary-register contents shifted in. -/
  | samplePreload (sampled preload : Nat)
  /-- EXTEST (R478): TAP EXTEST drives the pads from scan data, or executes as BYPASS with EXTREF set. -/
  | extest
  /-- IDCODE (R479): TAP IDCODE returns 0x1964_8A2B. -/
  | idcode
  /-- DBGACC (R479): TAP DBGACC gives the debug master its access. -/
  | dbgacc
  /-- TAP_RESET (R479): TRSTn low resets the TAP only. -/
  | tapReset
  /-- RESETN_RELEASE (R410): Release of RESETn after a warm reset samples BOOT[1:0] and starts the warm boot of R413. -/
  | resetnRelease (x : BootIn)
  /-- X32OK_FALL (R436): the 32.768 kHz crystal stops during sleep: DEVTIME holds, GAP is set and GAPTICKS counts from here. -/
  | x32okFall (ticks : Nat)
  /-- LEDGER_COMPACT_END (R416): LEDGER_COMPACT finishes within 2 ms and releases its activity, so queued flash operations may be granted. -/
  | ledgerCompactEnd
  /-- PAIR_RESTART_COMMAND (R337): A management command makes a core pair take a pair restart, COLD or from its checkpoint, or restarts a HALTED pair. -/
  | pairRestartCommand (p : Fin 2) (cold : Bool)
  /-- CELL_RESTART_COMMAND (R12): A management command restarts one cell or cell pair as kind L. -/
  | cellRestartCommand (n : Fin 52)
  /-- CELL_ROLE_SET (R157): role as LCn_STAT.ROLE encodes it. -/
  | cellRoleSet (n : Fin 52) (role : BitVec 2)
  /-- TIMER_OUTPUT_PULSE_END (R441): 8 CLK_LOOP cycles after a raising, the crossbar output TMRk falls. -/
  | timerOutputPulseEnd (k : Fin 16)
  /-- TARGET_TIME_PULSE_END (R468): 8 CLK_LOOP cycles after a MAC target time is reached, its crossbar output signal falls. -/
  | targetTimePulseEnd (m : Fin 2) (t : Fin 4)
  /-- PCIE_LINK_STATE_CHANGE (R472): The PCIe link trains, drops or changes power state, or PERSTn changes, and core line 176 rises. -/
  | pcieLinkStateChange (up : Bool) (gen : Fin 4) (lanes : Fin 3) (d3hot perst : Bool)
  /-- CAN_FRAME_TRANSMIT (R470): A CAN controller transmits a frame, or meets a bus error, and raises its frame or error line. -/
  | canFrameTransmit (n : Fin 6) (error : Bool)
  /-- SERIAL_PORT_TRANSFER (R471): A UART, SPI or I3C unit completes a transfer or receives data on its pins and raises its core line. -/
  | serialPortTransfer (u : SerialUnit)
deriving DecidableEq, Repr

end Sys2Proof
end

