-- ==== Sys2Proof/Decode.lean ====
section
/-! DEFINITION. The words that spell a command. The opcode table gives no row any bits, so no word spells one. -/

namespace Sys2Proof

/-- The command a word of `nbits` bits spells by the opcode table: none, since the table gives no row bits. -/
def decodeTableWord (_nbits _w : Nat) : Option Instr := none

end Sys2Proof
end

