-- ==== Sys2Proof/Config.lean ====
section
/-! DEFINITION. What one part fixes and what the spec leaves open: constants with no body, so that no proof can see a
value of one. A claim that mentions one holds whatever it is. -/

namespace Sys2Proof

/-- The part's grade: true for XB, false for IB (R3). Fixed per part. DESIGN CHOICE, safe; log entry 1. -/
opaque Config.gradeXB : Bool

/-- Where the arbiter's choice of a ticket number begins (R417 does not say which of 1 to 255 it is). DESIGN CHOICE,
safe; log entry 6. -/
opaque Config.ticket : Nat → Nat

/-- The code a modulator delivers on an edge whose code no command has supplied: slice, edge (R63).
DESIGN CHOICE, safe; log entry 7. -/
opaque Config.modCode : Nat → Nat → BitVec 4

/-- A 32-bit result whose value the spec does not state, one per index. DESIGN CHOICE, safe; log entries 21, 36, 39, 40,
52, 118 and 119. -/
opaque Config.openWord : Nat → BitVec 32

/-- The error of the device's sine and cosine for an angle word, in units of 2^-64, cut to 2^-24 where it is used (R167);
indices from 2^32 stand for the multiples of 60 degrees that SVM uses. DESIGN CHOICE, safe; log entry 27. -/
opaque Config.sinErr : Nat → Int
opaque Config.cosErr : Nat → Int

/-- ML-DSA-44 of FIPS 204, left uninterpreted (R405, R414): does a frank verify (public key, digest, frank); the public key
of a seed; a signature (seed, digest, number of the signing). Byte strings are numbers, first byte least significant.
DESIGN CHOICE, safe; log entry 50. -/
opaque Config.mldsaVerify : Nat → Nat → Nat → Bool
opaque Config.mldsaPublic : Nat → Nat
opaque Config.mldsaSign : Nat → Nat → Nat → Nat

/-- Which of the two lines of a set a cache fill replaces (R258 gives two ways and no policy). DESIGN CHOICE, safe;
log entry 59. -/
opaque Config.victim : Nat → Bool

/-- Which bit an ECC injection flips: the spec says how many, not which (R476). DESIGN CHOICE, safe; log entry
29. -/
opaque Config.flipBit : Nat → Nat

end Sys2Proof
end

