-- ==== Sys2Proof/Machine/RegMap.lean ====
section
/-! DEFINITION. The register maps of the spec's chapters as data: each memory-mapped register's address, reset value,
reset reach and fields (R8, R9, R12, R15, R17, R55). `static` is R17's; `idx` is the number CFGCHK.FIELD gives the field. -/

namespace Sys2Proof.Machine

/-- Access types of R9. -/
inductive Access where
  | rw | ro | w1c | w1s | wo | wc
deriving DecidableEq, Repr

/-- One field of a register map. -/
structure RegField where
  hi : Nat
  lo : Nat
  acc : Access
  static : Bool
  idx : Nat
deriving DecidableEq, Repr

/-- One register of a map, with up to two instance indices. `aon`: kept through a warm reset (R12). -/
structure RegDesc where
  name : String
  base : Nat
  n1 : Nat
  s1 : Nat
  n2 : Nat
  s2 : Nat
  reset : Nat
  aon : Bool
  fields : List RegField
deriving DecidableEq, Repr

def Reg.MG_DEVID : Nat := 0x70000000
def Reg.MG_CLKSTAT : Nat := 0x70000008
def Reg.MG_DEVTIMELO : Nat := 0x70000010
def Reg.MG_DEVTIMEHI : Nat := 0x70000014
def Reg.MG_SPARESTAT : Nat := 0x70000020
def Reg.CS_CTRL (n : Nat) : Nat := 0x50020000 + 0x80 * n
def Reg.CS_CFGCHK (n : Nat) : Nat := 0x50020004 + 0x80 * n
def Reg.CS_WIN (n : Nat) : Nat := 0x50020008 + 0x80 * n
def Reg.CS_WINCFG (n : Nat) : Nat := 0x5002000C + 0x80 * n
def Reg.CS_STAT (n : Nat) : Nat := 0x50020010 + 0x80 * n
def Reg.CS_CALOFS (n : Nat) : Nat := 0x50020014 + 0x80 * n
def Reg.CS_CALGAIN (n : Nat) : Nat := 0x50020018 + 0x80 * n
def Reg.CG_MPT (n : Nat) : Nat := 0x50028000 + 0x100 * n
def Reg.CG_CFGCHK (n : Nat) : Nat := 0x50028004 + 0x100 * n
def Reg.CG_MPTPER (n : Nat) : Nat := 0x50028008 + 0x100 * n
def Reg.CG_MPTSTAT (n : Nat) : Nat := 0x5002800C + 0x100 * n
def Reg.CG_CALCTL (n : Nat) : Nat := 0x50028010 + 0x100 * n
def Reg.CG_CALSTAT (n : Nat) : Nat := 0x50028014 + 0x100 * n
def Reg.CG_DIAG (n : Nat) : Nat := 0x50028018 + 0x100 * n
def Reg.SQ_ENT (n k : Nat) : Nat := 0x50030000 + 0x400 * n + 0x4 * k
def Reg.SQ_CTRL (n : Nat) : Nat := 0x50030100 + 0x400 * n
def Reg.SQ_CFGCHK (n : Nat) : Nat := 0x50030104 + 0x400 * n
def Reg.SQ_STAT (n : Nat) : Nat := 0x50030108 + 0x400 * n
def Reg.SQ_TRGSTAMP (n : Nat) : Nat := 0x5003010C + 0x400 * n
def Reg.SQ_RES (n k : Nat) : Nat := 0x50030200 + 0x400 * n + 0x4 * k
def Reg.CMP_CTRL (n : Nat) : Nat := 0x50010000 + 0x40 * n
def Reg.CMP_CFGCHK (n : Nat) : Nat := 0x50010004 + 0x40 * n
def Reg.CMP_REF (n : Nat) : Nat := 0x50010008 + 0x40 * n
def Reg.CMP_RAMP (n : Nat) : Nat := 0x5001000C + 0x40 * n
def Reg.CMP_BLANK (n : Nat) : Nat := 0x50010010 + 0x40 * n
def Reg.CMP_STAT (n : Nat) : Nat := 0x50010014 + 0x40 * n
def Reg.CMP_TEST (n : Nat) : Nat := 0x50010018 + 0x40 * n
def Reg.PI_CTRL (n : Nat) : Nat := 0x50040000 + 0x200 * n
def Reg.PI_CFGCHK (n : Nat) : Nat := 0x50040004 + 0x200 * n
def Reg.PI_CPR (n : Nat) : Nat := 0x50040008 + 0x200 * n
def Reg.PI_POS (n : Nat) : Nat := 0x5004000C + 0x200 * n
def Reg.PI_REV (n : Nat) : Nat := 0x50040010 + 0x200 * n
def Reg.PI_INDEXVAL (n : Nat) : Nat := 0x50040014 + 0x200 * n
def Reg.PI_INDEXCFG (n : Nat) : Nat := 0x50040018 + 0x200 * n
def Reg.PI_INDEXPOS (n : Nat) : Nat := 0x5004001C + 0x200 * n
def Reg.PI_INDEXERR (n : Nat) : Nat := 0x50040020 + 0x200 * n
def Reg.PI_EDGETS (n : Nat) : Nat := 0x50040024 + 0x200 * n
def Reg.PI_SPDCFG (n : Nat) : Nat := 0x50040028 + 0x200 * n
def Reg.PI_SPDPER (n : Nat) : Nat := 0x5004002C + 0x200 * n
def Reg.PI_STAT (n : Nat) : Nat := 0x50040030 + 0x200 * n
def Reg.PI_FAULTMASK (n : Nat) : Nat := 0x50040034 + 0x200 * n
def Reg.PI_ERRCNT (n : Nat) : Nat := 0x50040038 + 0x200 * n
def Reg.PI_SSICFG (n : Nat) : Nat := 0x5004003C + 0x200 * n
def Reg.PI_SSICRC (n : Nat) : Nat := 0x50040040 + 0x200 * n
def Reg.PI_SSITIME (n : Nat) : Nat := 0x50040044 + 0x200 * n
def Reg.PI_SSISTAT (n : Nat) : Nat := 0x50040048 + 0x200 * n
def Reg.PI_EMUCTRL (n : Nat) : Nat := 0x5004004C + 0x200 * n
def Reg.PI_EMURATIO (n : Nat) : Nat := 0x50040050 + 0x200 * n
def Reg.PI_EMUCPR (n : Nat) : Nat := 0x50040054 + 0x200 * n
def Reg.PI_EMUPOS (n : Nat) : Nat := 0x50040058 + 0x200 * n
def Reg.PI_EMUCNT (n : Nat) : Nat := 0x5004005C + 0x200 * n
def Reg.PI_EMULAG (n : Nat) : Nat := 0x50040060 + 0x200 * n
def Reg.SO_CTRL : Nat := 0x50050000
def Reg.SO_CFGCHK : Nat := 0x50050004
def Reg.SO_STALEWR : Nat := 0x50050008
def Reg.SO_NOTOWNWR : Nat := 0x5005000C
def Reg.SO_STAT : Nat := 0x50050010
def Reg.SO_RAISE : Nat := 0x50050020
def Reg.SO_MIGCMP : Nat := 0x50050024
def Reg.SO_MIGGO : Nat := 0x50050028
def Reg.SO_TMR_PER (n : Nat) : Nat := 0x50050100 + 0x8 * n
def Reg.SO_TMR_PH (n : Nat) : Nat := 0x50050104 + 0x8 * n
def Reg.SO_OWN (n : Nat) : Nat := 0x50051000 + 0x4 * n
def Reg.SO_RT_DA (n : Nat) : Nat := 0x50058000 + 0x10 * n
def Reg.SO_RT_DB (n : Nat) : Nat := 0x50058004 + 0x10 * n
def Reg.SO_RT_CFG (n : Nat) : Nat := 0x50058008 + 0x10 * n
def Reg.SO_RT_STAT (n : Nat) : Nat := 0x5005800C + 0x10 * n
def Reg.LC_CTRL (n : Nat) : Nat := 0x50060000 + 0x100 * n
def Reg.LC_CFGCHK (n : Nat) : Nat := 0x50060004 + 0x100 * n
def Reg.LC_STAT (n : Nat) : Nat := 0x50060008 + 0x100 * n
def Reg.LC_RESTART (n : Nat) : Nat := 0x5006000C + 0x100 * n
def Reg.LC_CNT (n : Nat) : Nat := 0x50060010 + 0x100 * n
def Reg.LC_RUN (n : Nat) : Nat := 0x50060014 + 0x100 * n
def Reg.LC_FAULT (n : Nat) : Nat := 0x50060018 + 0x100 * n
def Reg.LC_MISM (n : Nat) : Nat := 0x5006001C + 0x100 * n
def Reg.LC_VEC (n k : Nat) : Nat := 0x50060040 + 0x100 * n + 0x4 * k
def Reg.MS_CTRL : Nat := 0x50070000
def Reg.MS_CFGCHK : Nat := 0x50070004
def Reg.MS_STAT : Nat := 0x50070008
def Reg.MS_ERRADR : Nat := 0x5007000C
def Reg.MS_CNT : Nat := 0x50070010
def Reg.MS_TD_BASE (n : Nat) : Nat := 0x50070800 + 0x20 * n
def Reg.MS_TD_SHAPE (n : Nat) : Nat := 0x50070804 + 0x20 * n
def Reg.MS_TD_AXIS (n : Nat) : Nat := 0x50070808 + 0x20 * n
def Reg.MS_TD_XOFS (n : Nat) : Nat := 0x5007080C + 0x20 * n
def Reg.MS_TD_YOFS (n : Nat) : Nat := 0x50070810 + 0x20 * n
def Reg.MS_TD_SWAP (n : Nat) : Nat := 0x50070814 + 0x20 * n
def Reg.PWM_CTRL (n : Nat) : Nat := 0x50000000 + 0x100 * n
def Reg.PWM_CFGCHK (n : Nat) : Nat := 0x50000004 + 0x100 * n
def Reg.PWM_STAT (n : Nat) : Nat := 0x50000008 + 0x100 * n
def Reg.PWM_CNT (n : Nat) : Nat := 0x5000000C + 0x100 * n
def Reg.PWM_PER (n : Nat) : Nat := 0x50000010 + 0x100 * n
def Reg.PWM_CMPA (n : Nat) : Nat := 0x50000014 + 0x100 * n
def Reg.PWM_CMPB (n : Nat) : Nat := 0x50000018 + 0x100 * n
def Reg.PWM_PHASE (n : Nat) : Nat := 0x5000001C + 0x100 * n
def Reg.PWM_TRG (n k : Nat) : Nat := 0x50000020 + 0x100 * n + 0x4 * k
def Reg.PWM_COMMIT (n : Nat) : Nat := 0x50000030 + 0x100 * n
def Reg.PWM_DT (n : Nat) : Nat := 0x50000034 + 0x100 * n
def Reg.PWM_OUT (n : Nat) : Nat := 0x50000038 + 0x100 * n
def Reg.PWM_TRGCFG (n : Nat) : Nat := 0x5000003C + 0x100 * n
def Reg.PWM_ACTPER (n : Nat) : Nat := 0x50000040 + 0x100 * n
def Reg.PWM_ACTCMPA (n : Nat) : Nat := 0x50000044 + 0x100 * n
def Reg.PWM_ACTCMPB (n : Nat) : Nat := 0x50000048 + 0x100 * n
def Reg.PWM_TRIPSEL (n k : Nat) : Nat := 0x50000080 + 0x100 * n + 0x4 * k
def Reg.PWM_TRIPCTL (n : Nat) : Nat := 0x500000A0 + 0x100 * n
def Reg.PWM_TRIPSTAT (n : Nat) : Nat := 0x500000A4 + 0x100 * n
def Reg.PWM_TRIPCNT (n : Nat) : Nat := 0x500000A8 + 0x100 * n
def Reg.MCODE_CTRL : Nat := 0x70060000
def Reg.MCODE_STAGEVER : Nat := 0x70060004
def Reg.MCODE_STAGEDIG : Nat := 0x70060008
def Reg.MCODE_STAT : Nat := 0x7006000C
def Reg.MCODE_CFGCHK : Nat := 0x70060010
def Reg.MCODE_VER (n : Nat) : Nat := 0x70060040 + 0x8 * n
def Reg.MCODE_DIGEST (n : Nat) : Nat := 0x70060044 + 0x8 * n
def Reg.MCODE_MATCH (n : Nat) : Nat := 0x70061C00 + 0x4 * n
def Reg.RD_CTL (n : Nat) : Nat := 0x70050000 + 0x40 * n
def Reg.RD_STAT (n : Nat) : Nat := 0x70050004 + 0x40 * n
def Reg.RD_CNT (n : Nat) : Nat := 0x70050008 + 0x40 * n
def Reg.RD_MISM (n : Nat) : Nat := 0x7005000C + 0x40 * n
def Reg.RD_MISMADR (n : Nat) : Nat := 0x70050010 + 0x40 * n
def Reg.RD_CKTIME (n : Nat) : Nat := 0x70050014 + 0x40 * n
def Reg.RD_CFGCHK : Nat := 0x70050080
def Reg.MG_ECCSTR (n : Nat) : Nat := 0x70000400 + 0x4 * n
def Reg.MG_MEMSTAT : Nat := 0x70000440
def Reg.MG_MEMERR : Nat := 0x70000444
def Reg.MG_MEMERRADR : Nat := 0x70000448
def Reg.MG_MEMCNT : Nat := 0x7000044C
def Reg.MG_MEMCFGCHK : Nat := 0x70000450
def Reg.MG_SCRUBCTL : Nat := 0x70000460
def Reg.MG_SCRUBBASE : Nat := 0x70000464
def Reg.MG_SCRUBLEN : Nat := 0x70000468
def Reg.MG_SCRUBCHK : Nat := 0x7000046C
def Reg.MG_SCRUBRES : Nat := 0x70000470
def Reg.MG_SCRUBFIRST : Nat := 0x70000474
def Reg.FC_CTRL : Nat := 0x70020000
def Reg.FC_CFGCHK : Nat := 0x70020004
def Reg.FC_CMD : Nat := 0x70020008
def Reg.FC_ADDR : Nat := 0x7002000C
def Reg.FC_STAT (n : Nat) : Nat := 0x70020010 + 0x4 * n
def Reg.FC_RECOV (n : Nat) : Nat := 0x70020018 + 0x8 * n
def Reg.FC_RISK (n : Nat) : Nat := 0x7002001C + 0x8 * n
def Reg.FC_ERR : Nat := 0x70020028
def Reg.FC_ERRADR : Nat := 0x7002002C
def Reg.FC_CNT : Nat := 0x70020030
def Reg.FC_XO (n : Nat) : Nat := 0x70020040 + 0x4 * n
def Reg.FC_PBUF (n k : Nat) : Nat := 0x70021000 + 0x200 * n + 0x4 * k
def Reg.LG_CMD : Nat := 0x70030000
def Reg.LG_STAT : Nat := 0x70030004
def Reg.LG_CFGCHK : Nat := 0x70030008
def Reg.LG_BUF (n : Nat) : Nat := 0x70031000 + 0x4 * n
def Reg.DMA_CTL (n : Nat) : Nat := 0x60000000 + 0x40 * n
def Reg.DMA_CFGCHK (n : Nat) : Nat := 0x60000004 + 0x40 * n
def Reg.DMA_ENV (n : Nat) : Nat := 0x60000008 + 0x40 * n
def Reg.DMA_TMO (n : Nat) : Nat := 0x6000000C + 0x40 * n
def Reg.DMA_STAT (n : Nat) : Nat := 0x60000010 + 0x40 * n
def Reg.DMA_CUR (n : Nat) : Nat := 0x60000014 + 0x40 * n
def Reg.DMA_RESID (n : Nat) : Nat := 0x60000018 + 0x40 * n
def Reg.DMA_CNT (n : Nat) : Nat := 0x6000001C + 0x40 * n
def Reg.MG_PHASE : Nat := 0x70000030
def Reg.MG_BOOTSTAT : Nat := 0x70000034
def Reg.MG_CFGCHK : Nat := 0x70000038
def Reg.MG_MREQ : Nat := 0x70000100
def Reg.MG_MANS : Nat := 0x70000104
def Reg.MG_MREL : Nat := 0x70000108
def Reg.MG_MHELD : Nat := 0x7000010C
def Reg.MG_SVCCMD : Nat := 0x70000200
def Reg.MG_SVCARG : Nat := 0x70000204
def Reg.MG_SVCSTAT : Nat := 0x70000208
def Reg.MG_SVCBUF (n : Nat) : Nat := 0x70001000 + 0x4 * n
def Reg.PM_DOMCTL0 : Nat := 0x70010000
def Reg.PM_DOMCTL1 : Nat := 0x70010004
def Reg.PM_DOMSTAT0 : Nat := 0x70010008
def Reg.PM_DOMSTAT1 : Nat := 0x7001000C
def Reg.PM_CFGCHK : Nat := 0x70010010
def Reg.PM_OPCTL : Nat := 0x70010014
def Reg.PM_OPSTAT : Nat := 0x70010018
def Reg.PM_SLEEP : Nat := 0x7001001C
def Reg.PM_SLEEPSTAT : Nat := 0x70010020
def Reg.PM_WAKEEN : Nat := 0x70010024
def Reg.PM_CROCUS : Nat := 0x70010028
def Reg.PM_CRPER : Nat := 0x7001002C
def Reg.PM_PADREL : Nat := 0x70010030
def Reg.PM_PADHOLD : Nat := 0x70010034
def Reg.PM_DTGAP : Nat := 0x70010038
def Reg.PX_PIN (n : Nat) : Nat := 0x60080000 + 0x4 * n
def Reg.PX_BANK (n : Nat) : Nat := 0x60080400 + 0x4 * n
def Reg.PX_CONF : Nat := 0x60080440
def Reg.PX_CFGCHK : Nat := 0x60080444
def Reg.PINT_CFG (n : Nat) : Nat := 0x60090000 + 0x4 * n
def Reg.PINT_STAT : Nat := 0x60090040
def Reg.PINT_CFGCHK : Nat := 0x60090044
def Reg.LBX_CFG (n : Nat) : Nat := 0x600B0000 + 0x80 * n
def Reg.LBX_STAT (n : Nat) : Nat := 0x600B0004 + 0x80 * n
def Reg.LBX_CNT (n : Nat) : Nat := 0x600B0008 + 0x80 * n
def Reg.LBX_TXLO (n k : Nat) : Nat := 0x600B0010 + 0x80 * n + 0x30 * k
def Reg.LBX_TXHI (n k : Nat) : Nat := 0x600B0014 + 0x80 * n + 0x30 * k
def Reg.LBX_POST (n k : Nat) : Nat := 0x600B0018 + 0x80 * n + 0x30 * k
def Reg.LBX_PM (n k : Nat) : Nat := 0x600B001C + 0x80 * n + 0x30 * k
def Reg.LBX_RXLO (n k : Nat) : Nat := 0x600B0020 + 0x80 * n + 0x30 * k
def Reg.LBX_RXHI (n k : Nat) : Nat := 0x600B0024 + 0x80 * n + 0x30 * k
def Reg.LBX_RXINFO (n k : Nat) : Nat := 0x600B0028 + 0x80 * n + 0x30 * k
def Reg.LBX_ACK (n k : Nat) : Nat := 0x600B002C + 0x80 * n + 0x30 * k
def Reg.LBX_CFGCHK : Nat := 0x600B1000
def Reg.HP_CTRL : Nat := 0x600A0000
def Reg.HP_CFGCHK : Nat := 0x600A0004
def Reg.HP_STAT : Nat := 0x600A0008
def Reg.HP_CNT : Nat := 0x600A000C
def Reg.HP_PRSEL (n : Nat) : Nat := 0x600A0020 + 0x4 * n
def Reg.HP_WIN (n : Nat) : Nat := 0x600A0400 + 0x4 * n
def Reg.PCIE_BAR0MAP : Nat := 0x60030010
def Reg.PCIE_OBBASELO : Nat := 0x60030014
def Reg.PCIE_OBBASEHI : Nat := 0x60030018
def Reg.PCIE_MSIXSRC (n : Nat) : Nat := 0x60030100 + 0x4 * n
def Reg.MAC_TOFSLO (n : Nat) : Nat := 0x60010800 + 0x10000 * n
def Reg.MAC_TOFSHI (n : Nat) : Nat := 0x60010804 + 0x10000 * n
def Reg.MAC_RATE (n : Nat) : Nat := 0x60010808 + 0x10000 * n
def Reg.MAC_TADJLO (n : Nat) : Nat := 0x6001080C + 0x10000 * n
def Reg.MAC_TADJHI (n : Nat) : Nat := 0x60010810 + 0x10000 * n
def Reg.MAC_TGTLO (n k : Nat) : Nat := 0x60010820 + 0x10000 * n + 0x8 * k
def Reg.MAC_TGTHI (n k : Nat) : Nat := 0x60010824 + 0x10000 * n + 0x8 * k
def Reg.TP_CTRL : Nat := 0x70070000
def Reg.TP_CFGCHK : Nat := 0x70070004
def Reg.TP_STAT : Nat := 0x70070008
def Reg.TP_XBDLY : Nat := 0x70070010
def Reg.TP_DMABP : Nat := 0x70070014
def Reg.TP_SODLY : Nat := 0x70070018
def Reg.TP_CSDLY : Nat := 0x7007001C
def Reg.TP_INJ : Nat := 0x70070020
def Reg.TP_INJADR : Nat := 0x70070024
def Reg.TP_DBGCTL : Nat := 0x70070030
def Reg.TP_DBGSTAT : Nat := 0x70070034
def Reg.TP_TRACE : Nat := 0x70070040
def Reg.MAC_CFGCHK (n : Nat) : Nat := 0x60010004 + 0x10000 * n
def Reg.CAN_CFGCHK (n : Nat) : Nat := 0x60040004 + 0x1000 * n
def Reg.PCIE_CFGCHK : Nat := 0x60030004
def Reg.RD_STAT2 (n : Nat) : Nat := 0x70050020 + 0x40 * n
def Reg.MCODE_STAGE (n : Nat) : Nat := 0x70061000 + 0x4 * n
def Reg.MCODE_NANO (n k : Nat) : Nat := 0x70061400 + 0x10 * n + 0x4 * k

/-- The register maps of: control plane: PWM. -/
def regsPwm : List RegDesc := [
  ⟨"PWMn_CTRL", 0x50000000, 96, 0x100, 1, 0x4, 0x7F004000, false,
    [⟨30, 24, .rw, true, 1⟩, ⟨17, 17, .rw, true, 3⟩, ⟨16, 16, .rw, true, 4⟩, ⟨15, 14, .rw, true, 5⟩, ⟨13, 13, .rw, true, 6⟩, ⟨9, 8, .rw, true, 8⟩, ⟨4, 4, .rw, true, 10⟩, ⟨0, 0, .rw, false, 12⟩]⟩,
  ⟨"PWMn_CFGCHK", 0x50000004, 96, 0x100, 1, 0x4, 0x0, false,
    [⟨31, 16, .ro, false, 12⟩, ⟨15, 8, .ro, false, 12⟩, ⟨7, 0, .ro, false, 12⟩]⟩,
  ⟨"PWMn_STAT", 0x50000008, 96, 0x100, 1, 0x4, 0x0, false,
    [⟨11, 11, .ro, false, 25⟩, ⟨10, 10, .ro, false, 26⟩, ⟨9, 9, .ro, false, 27⟩, ⟨8, 8, .ro, false, 28⟩, ⟨5, 5, .w1c, false, 30⟩, ⟨4, 4, .w1c, false, 31⟩, ⟨3, 3, .w1c, false, 32⟩, ⟨2, 2, .w1c, false, 33⟩, ⟨1, 1, .w1c, false, 34⟩, ⟨0, 0, .w1c, false, 35⟩]⟩,
  ⟨"PWMn_CNT", 0x5000000C, 96, 0x100, 1, 0x4, 0x0, false,
    [⟨31, 24, .rw, false, 36⟩, ⟨23, 16, .rw, false, 37⟩, ⟨15, 8, .rw, false, 38⟩, ⟨7, 0, .rw, false, 39⟩]⟩,
  ⟨"PWMn_PER", 0x50000010, 96, 0x100, 1, 0x4, 0x0, false,
    [⟨31, 0, .rw, false, 48⟩]⟩,
  ⟨"PWMn_CMPA", 0x50000014, 96, 0x100, 1, 0x4, 0x0, false,
    [⟨31, 0, .rw, false, 60⟩]⟩,
  ⟨"PWMn_CMPB", 0x50000018, 96, 0x100, 1, 0x4, 0x0, false,
    [⟨31, 0, .rw, false, 72⟩]⟩,
  ⟨"PWMn_PHASE", 0x5000001C, 96, 0x100, 1, 0x4, 0x0, false,
    [⟨31, 0, .rw, false, 84⟩]⟩,
  ⟨"PWMn_TRGk", 0x50000020, 96, 0x100, 4, 0x4, 0x0, false,
    [⟨31, 0, .rw, false, 96⟩]⟩,
  ⟨"PWMn_COMMIT", 0x50000030, 96, 0x100, 1, 0x4, 0x0, false,
    [⟨31, 0, .wc, false, 144⟩]⟩,
  ⟨"PWMn_DT", 0x50000034, 96, 0x100, 1, 0x4, 0x0, false,
    [⟨31, 16, .rw, false, 156⟩, ⟨15, 0, .rw, false, 157⟩]⟩,
  ⟨"PWMn_OUT", 0x50000038, 96, 0x100, 1, 0x4, 0x100, false,
    [⟨8, 8, .rw, false, 169⟩, ⟨5, 4, .rw, true, 171⟩, ⟨3, 3, .rw, true, 172⟩, ⟨2, 2, .rw, true, 173⟩, ⟨1, 1, .rw, true, 174⟩, ⟨0, 0, .rw, true, 175⟩]⟩,
  ⟨"PWMn_TRGCFG", 0x5000003C, 96, 0x100, 1, 0x4, 0x0, false,
    [⟨7, 6, .rw, false, 181⟩, ⟨5, 4, .rw, false, 182⟩, ⟨3, 2, .rw, false, 183⟩, ⟨1, 0, .rw, false, 184⟩]⟩,
  ⟨"PWMn_ACTPER", 0x50000040, 96, 0x100, 1, 0x4, 0x0, false,
    [⟨31, 0, .ro, false, 192⟩]⟩,
  ⟨"PWMn_ACTCMPA", 0x50000044, 96, 0x100, 1, 0x4, 0x0, false,
    [⟨31, 0, .ro, false, 204⟩]⟩,
  ⟨"PWMn_ACTCMPB", 0x50000048, 96, 0x100, 1, 0x4, 0x0, false,
    [⟨31, 0, .ro, false, 216⟩]⟩,
  ⟨"PWMn_TRIPSELk", 0x50000080, 96, 0x100, 8, 0x4, 0x0, false,
    [⟨31, 31, .rw, true, 240⟩, ⟨30, 30, .rw, true, 240⟩, ⟨29, 29, .rw, true, 240⟩, ⟨25, 25, .rw, true, 240⟩, ⟨24, 24, .rw, true, 240⟩, ⟨7, 0, .rw, true, 240⟩]⟩,
  ⟨"PWMn_TRIPCTL", 0x500000A0, 96, 0x100, 1, 0x4, 0x0, false,
    [⟨23, 16, .rw, true, 248⟩, ⟨3, 3, .rw, true, 248⟩, ⟨2, 2, .rw, true, 248⟩, ⟨0, 0, .rw, true, 248⟩]⟩,
  ⟨"PWMn_TRIPSTAT", 0x500000A4, 96, 0x100, 1, 0x4, 0x0, false,
    [⟨31, 24, .ro, false, 249⟩, ⟨23, 16, .w1c, false, 249⟩, ⟨15, 8, .ro, false, 249⟩, ⟨7, 7, .ro, false, 249⟩, ⟨6, 6, .w1c, false, 249⟩, ⟨5, 5, .ro, false, 249⟩, ⟨4, 4, .w1c, false, 249⟩, ⟨3, 3, .ro, false, 249⟩, ⟨2, 2, .ro, false, 249⟩, ⟨1, 1, .w1c, false, 249⟩, ⟨0, 0, .w1c, false, 249⟩]⟩,
  ⟨"PWMn_TRIPCNT", 0x500000A8, 96, 0x100, 1, 0x4, 0x0, false,
    [⟨31, 24, .rw, false, 250⟩, ⟨23, 16, .rw, false, 250⟩, ⟨15, 8, .rw, false, 250⟩]⟩]

/-- The register maps of: comparators. -/
def regsCmp : List RegDesc := [
  ⟨"CMPn_CTRL", 0x50010000, 96, 0x40, 1, 0x4, 0x7F000000, false,
    [⟨30, 24, .rw, true, 24⟩, ⟨23, 16, .rw, true, 16⟩, ⟨13, 12, .rw, false, 12⟩, ⟨9, 9, .rw, true, 9⟩, ⟨8, 8, .rw, true, 8⟩, ⟨1, 1, .rw, true, 1⟩, ⟨0, 0, .rw, false, 0⟩]⟩,
  ⟨"CMPn_CFGCHK", 0x50010004, 96, 0x40, 1, 0x4, 0x0, false,
    [⟨31, 16, .ro, false, 48⟩, ⟨15, 8, .ro, false, 40⟩, ⟨7, 0, .ro, false, 32⟩]⟩,
  ⟨"CMPn_REF", 0x50010008, 96, 0x40, 1, 0x4, 0xFFF0FFF, false,
    [⟨27, 16, .ro, false, 80⟩, ⟨11, 0, .rw, false, 64⟩]⟩,
  ⟨"CMPn_RAMP", 0x5001000C, 96, 0x40, 1, 0x4, 0x0, false,
    [⟨9, 0, .rw, false, 96⟩]⟩,
  ⟨"CMPn_BLANK", 0x50010010, 96, 0x40, 1, 0x4, 0x0, false,
    [⟨17, 16, .rw, false, 144⟩, ⟨9, 0, .rw, false, 128⟩]⟩,
  ⟨"CMPn_STAT", 0x50010014, 96, 0x40, 1, 0x4, 0x0, false,
    [⟨31, 16, .ro, false, 176⟩, ⟨2, 2, .ro, false, 162⟩, ⟨1, 1, .ro, false, 161⟩, ⟨0, 0, .w1c, false, 160⟩]⟩,
  ⟨"CMPn_TEST", 0x50010018, 96, 0x40, 1, 0x4, 0x0, false,
    [⟨6, 6, .ro, false, 198⟩, ⟨5, 4, .ro, false, 196⟩, ⟨1, 0, .rw, false, 192⟩]⟩]

/-- The register maps of: converters. -/
def regsCsCgSq : List RegDesc := [
  ⟨"CSn_CTRL", 0x50020000, 68, 0x80, 1, 0x4, 0x0, false,
    [⟨11, 8, .rw, true, 8⟩, ⟨7, 6, .rw, true, 6⟩, ⟨5, 5, .rw, true, 5⟩, ⟨4, 4, .rw, true, 4⟩, ⟨3, 3, .rw, false, 3⟩, ⟨2, 1, .rw, true, 1⟩, ⟨0, 0, .rw, false, 0⟩]⟩,
  ⟨"CSn_CFGCHK", 0x50020004, 68, 0x80, 1, 0x4, 0x0, false,
    [⟨31, 16, .ro, false, 48⟩, ⟨15, 8, .ro, false, 40⟩, ⟨7, 0, .ro, false, 32⟩]⟩,
  ⟨"CSn_WIN", 0x50020008, 68, 0x80, 1, 0x4, 0x7FFF8000, false,
    [⟨31, 16, .rw, false, 80⟩, ⟨15, 0, .rw, false, 64⟩]⟩,
  ⟨"CSn_WINCFG", 0x5002000C, 68, 0x80, 1, 0x4, 0x0, false,
    [⟨11, 8, .rw, false, 104⟩, ⟨7, 0, .rw, false, 96⟩]⟩,
  ⟨"CSn_STAT", 0x50020010, 68, 0x80, 1, 0x4, 0x0, false,
    [⟨7, 7, .w1c, false, 135⟩, ⟨6, 6, .w1c, false, 134⟩, ⟨5, 5, .w1c, false, 133⟩, ⟨4, 4, .ro, false, 132⟩, ⟨3, 3, .ro, false, 131⟩, ⟨2, 2, .ro, false, 130⟩, ⟨0, 0, .ro, false, 128⟩]⟩,
  ⟨"CSn_CALOFS", 0x50020014, 68, 0x80, 1, 0x4, 0x0, false,
    [⟨23, 0, .rw, false, 160⟩]⟩,
  ⟨"CSn_CALGAIN", 0x50020018, 68, 0x80, 1, 0x4, 0x400000, false,
    [⟨23, 0, .rw, false, 192⟩]⟩,
  ⟨"CGn_MPT", 0x50028000, 4, 0x100, 1, 0x4, 0x0, false,
    [⟨29, 16, .rw, true, 16⟩, ⟨10, 8, .rw, true, 8⟩, ⟨7, 4, .rw, true, 4⟩, ⟨2, 2, .rw, true, 2⟩, ⟨1, 1, .rw, true, 1⟩, ⟨0, 0, .rw, false, 0⟩]⟩,
  ⟨"CGn_CFGCHK", 0x50028004, 4, 0x100, 1, 0x4, 0x0, false,
    [⟨31, 16, .ro, false, 48⟩, ⟨15, 8, .ro, false, 40⟩, ⟨7, 0, .ro, false, 32⟩]⟩,
  ⟨"CGn_MPTPER", 0x50028008, 4, 0x100, 1, 0x4, 0x7A120000, false,
    [⟨31, 8, .ro, false, 72⟩, ⟨7, 0, .ro, false, 64⟩]⟩,
  ⟨"CGn_MPTSTAT", 0x5002800C, 4, 0x100, 1, 0x4, 0x0, false,
    [⟨31, 16, .ro, false, 112⟩, ⟨2, 2, .w1c, false, 98⟩, ⟨1, 1, .w1c, false, 97⟩, ⟨0, 0, .ro, false, 96⟩]⟩,
  ⟨"CGn_CALCTL", 0x50028010, 4, 0x100, 1, 0x4, 0x0, false,
    [⟨31, 16, .rw, false, 144⟩, ⟨1, 1, .rw, false, 129⟩, ⟨0, 0, .rw, false, 128⟩]⟩,
  ⟨"CGn_CALSTAT", 0x50028014, 4, 0x100, 1, 0x4, 0x1F00, false,
    [⟨31, 16, .ro, false, 176⟩, ⟨15, 14, .ro, false, 174⟩, ⟨12, 8, .ro, false, 168⟩, ⟨7, 6, .ro, false, 166⟩, ⟨5, 4, .ro, false, 164⟩, ⟨3, 0, .ro, false, 160⟩]⟩,
  ⟨"CGn_DIAG", 0x50028018, 4, 0x100, 1, 0x4, 0x0, false,
    [⟨27, 16, .rw, false, 208⟩, ⟨8, 4, .rw, true, 196⟩, ⟨3, 3, .rw, true, 195⟩, ⟨2, 1, .rw, true, 193⟩, ⟨0, 0, .rw, false, 192⟩]⟩,
  ⟨"SQn_ENTk", 0x50030000, 16, 0x400, 32, 0x4, 0x0, false,
    [⟨31, 31, .rw, false, 0⟩, ⟨18, 17, .rw, false, 0⟩, ⟨16, 16, .rw, false, 0⟩, ⟨13, 8, .rw, false, 0⟩, ⟨7, 7, .rw, false, 0⟩, ⟨5, 0, .rw, false, 0⟩]⟩,
  ⟨"SQn_CTRL", 0x50030100, 16, 0x400, 1, 0x4, 0x0, false,
    [⟨0, 0, .rw, false, 128⟩]⟩,
  ⟨"SQn_CFGCHK", 0x50030104, 16, 0x400, 1, 0x4, 0x0, false,
    [⟨31, 16, .ro, false, 144⟩, ⟨15, 8, .ro, false, 136⟩, ⟨7, 0, .ro, false, 128⟩]⟩,
  ⟨"SQn_STAT", 0x50030108, 16, 0x400, 1, 0x4, 0x0, false,
    [⟨7, 0, .rw, false, 128⟩]⟩,
  ⟨"SQn_TRGSTAMP", 0x5003010C, 16, 0x400, 1, 0x4, 0x0, false,
    [⟨31, 24, .ro, false, 152⟩, ⟨23, 0, .ro, false, 128⟩]⟩,
  ⟨"SQn_RESk", 0x50030200, 16, 0x400, 32, 0x4, 0x0, false,
    [⟨31, 0, .ro, false, 128⟩]⟩]

/-- The register maps of: position. -/
def regsPi : List RegDesc := [
  ⟨"PIn_CTRL", 0x50040000, 16, 0x200, 1, 0x4, 0x0, false,
    [⟨27, 16, .rw, true, 1⟩, ⟨15, 8, .rw, true, 2⟩, ⟨4, 4, .rw, true, 4⟩, ⟨3, 3, .rw, true, 5⟩, ⟨2, 1, .rw, true, 6⟩, ⟨0, 0, .rw, false, 7⟩]⟩,
  ⟨"PIn_CFGCHK", 0x50040004, 16, 0x200, 1, 0x4, 0x0, false,
    [⟨31, 16, .ro, false, 8⟩, ⟨15, 8, .ro, false, 8⟩, ⟨7, 0, .ro, false, 8⟩]⟩,
  ⟨"PIn_CPR", 0x50040008, 16, 0x200, 1, 0x4, 0x0, false,
    [⟨31, 0, .rw, true, 16⟩]⟩,
  ⟨"PIn_POS", 0x5004000C, 16, 0x200, 1, 0x4, 0x0, false,
    [⟨31, 0, .rw, false, 24⟩]⟩,
  ⟨"PIn_REV", 0x50040010, 16, 0x200, 1, 0x4, 0x0, false,
    [⟨15, 0, .rw, false, 33⟩]⟩,
  ⟨"PIn_INDEXVAL", 0x50040014, 16, 0x200, 1, 0x4, 0x0, false,
    [⟨31, 0, .rw, false, 40⟩]⟩,
  ⟨"PIn_INDEXCFG", 0x50040018, 16, 0x200, 1, 0x4, 0x40000, false,
    [⟨18, 17, .rw, true, 49⟩, ⟨16, 16, .rw, true, 50⟩, ⟨15, 0, .rw, false, 51⟩]⟩,
  ⟨"PIn_INDEXPOS", 0x5004001C, 16, 0x200, 1, 0x4, 0x0, false,
    [⟨31, 0, .ro, false, 56⟩]⟩,
  ⟨"PIn_INDEXERR", 0x50040020, 16, 0x200, 1, 0x4, 0x0, false,
    [⟨31, 0, .ro, false, 64⟩]⟩,
  ⟨"PIn_EDGETS", 0x50040024, 16, 0x200, 1, 0x4, 0x0, false,
    [⟨31, 0, .ro, false, 72⟩]⟩,
  ⟨"PIn_SPDCFG", 0x50040028, 16, 0x200, 1, 0x4, 0x10000, false,
    [⟨31, 16, .rw, true, 80⟩, ⟨7, 0, .rw, true, 82⟩]⟩,
  ⟨"PIn_SPDPER", 0x5004002C, 16, 0x200, 1, 0x4, 0xFFFFFFFF, false,
    [⟨31, 0, .ro, false, 88⟩]⟩,
  ⟨"PIn_STAT", 0x50040030, 16, 0x200, 1, 0x4, 0x4, false,
    [⟨15, 15, .w1c, false, 97⟩, ⟨14, 14, .w1c, false, 98⟩, ⟨13, 13, .w1c, false, 99⟩, ⟨12, 12, .w1c, false, 100⟩, ⟨11, 11, .w1c, false, 101⟩, ⟨10, 10, .w1c, false, 102⟩, ⟨9, 9, .w1c, false, 103⟩, ⟨8, 8, .w1c, false, 104⟩, ⟨7, 7, .w1c, false, 105⟩, ⟨6, 6, .w1c, false, 106⟩, ⟨5, 5, .w1c, false, 107⟩, ⟨4, 4, .w1c, false, 108⟩, ⟨3, 3, .ro, false, 109⟩, ⟨2, 2, .ro, false, 110⟩, ⟨1, 1, .ro, false, 111⟩, ⟨0, 0, .ro, false, 112⟩]⟩,
  ⟨"PIn_FAULTMASK", 0x50040034, 16, 0x200, 1, 0x4, 0x0, false,
    [⟨15, 4, .rw, false, 105⟩]⟩,
  ⟨"PIn_ERRCNT", 0x50040038, 16, 0x200, 1, 0x4, 0x0, false,
    [⟨31, 24, .rw, false, 112⟩, ⟨23, 16, .rw, false, 113⟩, ⟨15, 8, .rw, false, 114⟩, ⟨7, 0, .rw, false, 115⟩]⟩,
  ⟨"PIn_SSICFG", 0x5004003C, 16, 0x200, 1, 0x4, 0x0, false,
    [⟨31, 21, .rw, true, 120⟩, ⟨20, 20, .rw, true, 121⟩, ⟨19, 16, .rw, true, 122⟩, ⟨15, 15, .rw, true, 123⟩, ⟨13, 8, .rw, true, 125⟩, ⟨5, 0, .rw, true, 127⟩]⟩,
  ⟨"PIn_SSICRC", 0x50040040, 16, 0x200, 1, 0x4, 0x0, false,
    [⟨15, 8, .rw, true, 129⟩, ⟨7, 0, .rw, true, 130⟩]⟩,
  ⟨"PIn_SSITIME", 0x50040044, 16, 0x200, 1, 0x4, 0x0, false,
    [⟨31, 16, .rw, true, 136⟩, ⟨15, 0, .rw, true, 137⟩]⟩,
  ⟨"PIn_SSISTAT", 0x50040048, 16, 0x200, 1, 0x4, 0x0, false,
    [⟨31, 28, .ro, false, 144⟩, ⟨7, 0, .ro, false, 146⟩]⟩,
  ⟨"PIn_EMUCTRL", 0x5004004C, 16, 0x200, 1, 0x4, 0x0, false,
    [⟨31, 16, .rw, true, 152⟩, ⟨12, 8, .rw, true, 154⟩, ⟨0, 0, .rw, false, 156⟩]⟩,
  ⟨"PIn_EMURATIO", 0x50040050, 16, 0x200, 1, 0x4, 0x0, false,
    [⟨31, 16, .rw, true, 160⟩, ⟨15, 0, .rw, true, 161⟩]⟩,
  ⟨"PIn_EMUCPR", 0x50040054, 16, 0x200, 1, 0x4, 0x0, false,
    [⟨31, 0, .rw, true, 168⟩]⟩,
  ⟨"PIn_EMUPOS", 0x50040058, 16, 0x200, 1, 0x4, 0x0, false,
    [⟨31, 0, .rw, false, 176⟩]⟩,
  ⟨"PIn_EMUCNT", 0x5004005C, 16, 0x200, 1, 0x4, 0x0, false,
    [⟨31, 0, .ro, false, 184⟩]⟩,
  ⟨"PIn_EMULAG", 0x50040060, 16, 0x200, 1, 0x4, 0x0, false,
    [⟨31, 16, .ro, false, 192⟩, ⟨15, 0, .rw, false, 193⟩]⟩]

/-- The register maps of: sorting office. -/
def regsSo : List RegDesc := [
  ⟨"SO_CTRL", 0x50050000, 1, 0x4, 1, 0x4, 0x0, false,
    [⟨0, 0, .rw, false, 1⟩]⟩,
  ⟨"SO_CFGCHK", 0x50050004, 1, 0x4, 1, 0x4, 0x0, false,
    [⟨31, 16, .ro, false, 0⟩, ⟨15, 8, .ro, false, 0⟩, ⟨7, 0, .ro, false, 0⟩]⟩,
  ⟨"SO_STALEWR", 0x50050008, 1, 0x4, 1, 0x4, 0x0, false,
    [⟨31, 0, .rw, false, 0⟩]⟩,
  ⟨"SO_NOTOWNWR", 0x5005000C, 1, 0x4, 1, 0x4, 0x0, false,
    [⟨31, 0, .rw, false, 0⟩]⟩,
  ⟨"SO_STAT", 0x50050010, 1, 0x4, 1, 0x4, 0x0, false,
    [⟨31, 23, .ro, false, 0⟩, ⟨22, 12, .ro, false, 1⟩, ⟨4, 4, .w1c, false, 3⟩, ⟨3, 3, .w1c, false, 4⟩, ⟨2, 2, .w1c, false, 5⟩, ⟨1, 1, .w1c, false, 6⟩, ⟨0, 0, .w1c, false, 7⟩]⟩,
  ⟨"SO_RAISE", 0x50050020, 1, 0x4, 1, 0x4, 0x0, false,
    [⟨5, 0, .wo, false, 1⟩]⟩,
  ⟨"SO_MIGCMP", 0x50050024, 1, 0x4, 1, 0x4, 0x0, false,
    [⟨31, 16, .rw, false, 0⟩, ⟨15, 0, .rw, false, 1⟩]⟩,
  ⟨"SO_MIGGO", 0x50050028, 1, 0x4, 1, 0x4, 0x0, false,
    [⟨31, 0, .wc, false, 0⟩]⟩,
  ⟨"SO_TMRk_PER", 0x50050100, 16, 0x8, 1, 0x4, 0x0, false,
    [⟨31, 31, .rw, false, 0⟩, ⟨23, 0, .rw, true, 2⟩]⟩,
  ⟨"SO_TMRk_PH", 0x50050104, 16, 0x8, 1, 0x4, 0x0, false,
    [⟨23, 0, .rw, true, 17⟩]⟩,
  ⟨"SO_OWNi", 0x50051000, 112, 0x4, 1, 0x4, 0x7FFFF03F, false,
    [⟨31, 31, .rw, false, 0⟩, ⟨30, 24, .rw, false, 1⟩, ⟨23, 18, .rw, false, 2⟩, ⟨17, 12, .rw, false, 3⟩, ⟨11, 8, .ro, false, 4⟩, ⟨7, 7, .ro, false, 5⟩, ⟨5, 0, .ro, false, 7⟩]⟩,
  ⟨"SO_RTs_DA", 0x50058000, 2048, 0x10, 1, 0x4, 0x0, false,
    [⟨31, 31, .rw, false, 0⟩, ⟨24, 16, .rw, false, 2⟩, ⟨15, 15, .rw, false, 3⟩, ⟨8, 0, .rw, false, 5⟩]⟩,
  ⟨"SO_RTs_DB", 0x50058004, 2048, 0x10, 1, 0x4, 0x0, false,
    [⟨31, 31, .rw, false, 16⟩, ⟨24, 16, .rw, false, 18⟩, ⟨15, 15, .rw, false, 19⟩, ⟨8, 0, .rw, false, 21⟩]⟩,
  ⟨"SO_RTs_CFG", 0x50058008, 2048, 0x10, 1, 0x4, 0x0, false,
    [⟨15, 8, .rw, false, 33⟩, ⟨7, 0, .rw, false, 34⟩]⟩,
  ⟨"SO_RTs_STAT", 0x5005800C, 2048, 0x10, 1, 0x4, 0x0, false,
    [⟨15, 8, .ro, false, 49⟩, ⟨3, 0, .ro, false, 51⟩]⟩]

/-- The register maps of: cells. -/
def regsLc : List RegDesc := [
  ⟨"LCn_CTRL", 0x50060000, 52, 0x100, 1, 0x4, 0x0, false,
    [⟨7, 4, .rw, true, 0⟩, ⟨1, 1, .rw, true, 0⟩, ⟨0, 0, .rw, false, 0⟩]⟩,
  ⟨"LCn_CFGCHK", 0x50060004, 52, 0x100, 1, 0x4, 0x0, false,
    [⟨31, 16, .ro, false, 1⟩, ⟨15, 8, .ro, false, 1⟩, ⟨7, 0, .ro, false, 1⟩]⟩,
  ⟨"LCn_STAT", 0x50060008, 52, 0x100, 1, 0x4, 0x0, false,
    [⟨30, 28, .ro, false, 2⟩, ⟨25, 24, .ro, false, 2⟩, ⟨19, 16, .ro, false, 2⟩, ⟨11, 11, .w1c, false, 2⟩, ⟨10, 10, .w1c, false, 2⟩, ⟨9, 9, .w1c, false, 2⟩, ⟨8, 8, .w1c, false, 2⟩, ⟨7, 7, .w1c, false, 2⟩, ⟨6, 6, .w1c, false, 2⟩, ⟨3, 0, .ro, false, 2⟩]⟩,
  ⟨"LCn_RESTART", 0x5006000C, 52, 0x100, 1, 0x4, 0x0, false,
    [⟨27, 16, .rw, true, 3⟩, ⟨10, 0, .rw, true, 3⟩]⟩,
  ⟨"LCn_CNT", 0x50060010, 52, 0x100, 1, 0x4, 0x0, false,
    [⟨31, 24, .rw, false, 4⟩, ⟨23, 16, .rw, false, 4⟩, ⟨15, 8, .rw, false, 4⟩, ⟨7, 0, .rw, false, 4⟩]⟩,
  ⟨"LCn_RUN", 0x50060014, 52, 0x100, 1, 0x4, 0x0, false,
    [⟨27, 16, .rw, false, 5⟩, ⟨10, 0, .ro, false, 5⟩]⟩,
  ⟨"LCn_FAULT", 0x50060018, 52, 0x100, 1, 0x4, 0x0, false,
    [⟨16, 16, .ro, false, 6⟩, ⟨15, 12, .ro, false, 6⟩, ⟨10, 0, .ro, false, 6⟩]⟩,
  ⟨"LCn_MISM", 0x5006001C, 52, 0x100, 1, 0x4, 0x0, false,
    [⟨31, 30, .ro, false, 7⟩, ⟨11, 0, .ro, false, 7⟩]⟩,
  ⟨"LCn_VECv", 0x50060040, 52, 0x100, 16, 0x4, 0x0, false,
    [⟨31, 31, .rw, true, 16⟩, ⟨30, 19, .rw, true, 16⟩, ⟨18, 12, .rw, true, 16⟩, ⟨10, 0, .rw, true, 16⟩]⟩]

/-- The register maps of: map store. -/
def regsMs : List RegDesc := [
  ⟨"MS_CTRL", 0x50070000, 1, 0x4, 1, 0x4, 0x0, false,
    [⟨0, 0, .rw, false, 0⟩]⟩,
  ⟨"MS_CFGCHK", 0x50070004, 1, 0x4, 1, 0x4, 0x0, false,
    [⟨31, 16, .ro, false, 0⟩, ⟨15, 8, .ro, false, 0⟩, ⟨7, 0, .ro, false, 0⟩]⟩,
  ⟨"MS_STAT", 0x50070008, 1, 0x4, 1, 0x4, 0x0, false,
    [⟨21, 16, .ro, false, 0⟩, ⟨1, 1, .ro, false, 0⟩, ⟨0, 0, .w1c, false, 0⟩]⟩,
  ⟨"MS_ERRADR", 0x5007000C, 1, 0x4, 1, 0x4, 0x0, false,
    [⟨31, 26, .ro, false, 0⟩, ⟨21, 16, .ro, false, 0⟩, ⟨15, 0, .ro, false, 0⟩]⟩,
  ⟨"MS_CNT", 0x50070010, 1, 0x4, 1, 0x4, 0x0, false,
    [⟨31, 16, .rw, false, 0⟩, ⟨15, 0, .rw, false, 0⟩]⟩,
  ⟨"MS_TDk_BASE", 0x50070800, 64, 0x20, 1, 0x4, 0x0, false,
    [⟨31, 16, .rw, false, 0⟩, ⟨15, 0, .rw, false, 1⟩]⟩,
  ⟨"MS_TDk_SHAPE", 0x50070804, 64, 0x20, 1, 0x4, 0x0, false,
    [⟨31, 31, .rw, false, 8⟩, ⟨30, 30, .rw, false, 9⟩, ⟨29, 26, .rw, false, 10⟩, ⟨25, 24, .rw, false, 11⟩, ⟨23, 12, .rw, false, 12⟩, ⟨11, 0, .rw, false, 13⟩]⟩,
  ⟨"MS_TDk_AXIS", 0x50070808, 64, 0x20, 1, 0x4, 0x0, false,
    [⟨31, 16, .rw, false, 16⟩, ⟨12, 8, .rw, false, 18⟩, ⟨4, 0, .rw, false, 20⟩]⟩,
  ⟨"MS_TDk_XOFS", 0x5007080C, 64, 0x20, 1, 0x4, 0x0, false,
    [⟨31, 0, .rw, false, 24⟩]⟩,
  ⟨"MS_TDk_YOFS", 0x50070810, 64, 0x20, 1, 0x4, 0x0, false,
    [⟨31, 0, .rw, false, 32⟩]⟩,
  ⟨"MS_TDk_SWAP", 0x50070814, 64, 0x20, 1, 0x4, 0x0, false,
    [⟨31, 16, .ro, false, 40⟩]⟩]

/-- The register maps of: dma. -/
def regsDma : List RegDesc := [
  ⟨"DMA_CHk_CTL", 0x60000000, 32, 0x40, 1, 0x4, 0x0, false,
    [⟨8, 8, .rw, true, 0⟩, ⟨0, 0, .rw, false, 0⟩]⟩,
  ⟨"DMA_CHk_CFGCHK", 0x60000004, 32, 0x40, 1, 0x4, 0x0, false,
    [⟨31, 16, .ro, false, 1⟩, ⟨15, 8, .ro, false, 1⟩, ⟨7, 0, .ro, false, 1⟩]⟩,
  ⟨"DMA_CHk_ENV", 0x60000008, 32, 0x40, 1, 0x4, 0x0, false,
    [⟨31, 5, .rw, true, 2⟩]⟩,
  ⟨"DMA_CHk_TMO", 0x6000000C, 32, 0x40, 1, 0x4, 0x0, false,
    [⟨15, 0, .rw, true, 3⟩]⟩,
  ⟨"DMA_CHk_STAT", 0x60000010, 32, 0x40, 1, 0x4, 0x0, false,
    [⟨31, 30, .ro, false, 4⟩, ⟨15, 8, .ro, false, 4⟩, ⟨7, 7, .w1c, false, 4⟩, ⟨6, 6, .w1c, false, 4⟩, ⟨5, 5, .w1c, false, 4⟩, ⟨4, 4, .w1c, false, 4⟩, ⟨3, 3, .w1c, false, 4⟩, ⟨2, 2, .w1c, false, 4⟩, ⟨1, 1, .w1c, false, 4⟩, ⟨0, 0, .w1c, false, 4⟩]⟩,
  ⟨"DMA_CHk_CUR", 0x60000014, 32, 0x40, 1, 0x4, 0x0, false,
    [⟨31, 0, .ro, false, 5⟩]⟩,
  ⟨"DMA_CHk_RESID", 0x60000018, 32, 0x40, 1, 0x4, 0x0, false,
    [⟨24, 0, .ro, false, 6⟩]⟩,
  ⟨"DMA_CHk_CNT", 0x6000001C, 32, 0x40, 1, 0x4, 0x0, false,
    [⟨31, 16, .rw, false, 7⟩, ⟨15, 8, .rw, false, 7⟩, ⟨7, 0, .rw, false, 7⟩]⟩]

/-- The register maps of: links. -/
def regsMacPcieCanHpLbx : List RegDesc := [
  ⟨"LBXk_CFG", 0x600B0000, 32, 0x80, 1, 0x4, 0x0, false,
    [⟨21, 16, .rw, true, 0⟩, ⟨5, 4, .rw, true, 0⟩, ⟨3, 3, .rw, false, 0⟩, ⟨2, 2, .rw, false, 0⟩, ⟨0, 0, .rw, false, 0⟩]⟩,
  ⟨"LBXk_STAT", 0x600B0004, 32, 0x80, 1, 0x4, 0x0, false,
    [⟨11, 8, .w1c, false, 1⟩, ⟨3, 0, .w1c, false, 1⟩]⟩,
  ⟨"LBXk_CNT", 0x600B0008, 32, 0x80, 1, 0x4, 0x0, false,
    [⟨31, 24, .rw, false, 2⟩, ⟨23, 16, .rw, false, 2⟩, ⟨15, 8, .rw, false, 2⟩]⟩,
  ⟨"LBXk_dTXLO", 0x600B0010, 32, 0x80, 2, 0x30, 0x0, false,
    [⟨31, 0, .rw, false, 4⟩]⟩,
  ⟨"LBXk_dTXHI", 0x600B0014, 32, 0x80, 2, 0x30, 0x0, false,
    [⟨31, 0, .rw, false, 5⟩]⟩,
  ⟨"LBXk_dPOST", 0x600B0018, 32, 0x80, 2, 0x30, 0x0, false,
    [⟨15, 0, .wo, false, 6⟩]⟩,
  ⟨"LBXk_dPM", 0x600B001C, 32, 0x80, 2, 0x30, 0x0, false,
    [⟨31, 16, .ro, false, 7⟩, ⟨15, 0, .ro, false, 7⟩]⟩,
  ⟨"LBXk_dRXLO", 0x600B0020, 32, 0x80, 2, 0x30, 0x0, false,
    [⟨31, 0, .ro, false, 8⟩]⟩,
  ⟨"LBXk_dRXHI", 0x600B0024, 32, 0x80, 2, 0x30, 0x0, false,
    [⟨31, 0, .ro, false, 9⟩]⟩,
  ⟨"LBXk_dRXINFO", 0x600B0028, 32, 0x80, 2, 0x30, 0x0, false,
    [⟨31, 16, .ro, false, 10⟩, ⟨15, 15, .ro, false, 10⟩, ⟨6, 0, .ro, false, 10⟩]⟩,
  ⟨"LBXk_dACK", 0x600B002C, 32, 0x80, 2, 0x30, 0x0, false,
    [⟨15, 0, .wo, false, 11⟩]⟩,
  ⟨"LBX_CFGCHK", 0x600B1000, 1, 0x4, 1, 0x4, 0x0, false,
    [⟨31, 16, .ro, false, 0⟩, ⟨15, 8, .ro, false, 0⟩, ⟨7, 0, .ro, false, 0⟩]⟩,
  ⟨"HP_CTRL", 0x600A0000, 1, 0x4, 1, 0x4, 0x0, false,
    [⟨2, 2, .rw, false, 0⟩, ⟨1, 1, .rw, false, 0⟩, ⟨0, 0, .rw, false, 0⟩]⟩,
  ⟨"HP_CFGCHK", 0x600A0004, 1, 0x4, 1, 0x4, 0x0, false,
    [⟨31, 16, .ro, false, 1⟩, ⟨15, 8, .ro, false, 1⟩, ⟨7, 0, .ro, false, 1⟩]⟩,
  ⟨"HP_STAT", 0x600A0008, 1, 0x4, 1, 0x4, 0x400000, false,
    [⟨22, 16, .ro, false, 2⟩, ⟨6, 6, .ro, false, 2⟩, ⟨5, 5, .w1c, false, 2⟩, ⟨4, 4, .w1c, false, 2⟩, ⟨3, 3, .w1c, false, 2⟩, ⟨2, 2, .w1c, false, 2⟩, ⟨1, 1, .w1c, false, 2⟩]⟩,
  ⟨"HP_CNT", 0x600A000C, 1, 0x4, 1, 0x4, 0x0, false,
    [⟨31, 16, .rw, false, 3⟩, ⟨15, 0, .rw, false, 3⟩]⟩,
  ⟨"HP_PRSELp", 0x600A0020, 8, 0x4, 1, 0x4, 0x0, false,
    [⟨0, 0, .rw, false, 8⟩]⟩,
  ⟨"HP_WINn", 0x600A0400, 256, 0x4, 1, 0x4, 0x0, false,
    [⟨31, 18, .rw, false, 0⟩, ⟨2, 0, .rw, false, 0⟩]⟩,
  ⟨"PCIE_BAR0MAP", 0x60030010, 1, 0x4, 1, 0x4, 0x0, false,
    [⟨31, 20, .rw, false, 4⟩]⟩,
  ⟨"PCIE_OBBASELO", 0x60030014, 1, 0x4, 1, 0x4, 0x0, false,
    [⟨31, 30, .rw, false, 5⟩]⟩,
  ⟨"PCIE_OBBASEHI", 0x60030018, 1, 0x4, 1, 0x4, 0x0, false,
    [⟨31, 0, .rw, false, 6⟩]⟩,
  ⟨"PCIE_MSIXSRCv", 0x60030100, 32, 0x4, 1, 0x4, 0x0, false,
    [⟨31, 31, .rw, false, 64⟩, ⟨8, 8, .w1s, false, 64⟩, ⟨5, 5, .rw, false, 64⟩, ⟨4, 0, .rw, false, 64⟩]⟩,
  ⟨"MACm_TOFSLO", 0x60010800, 2, 0x10000, 1, 0x4, 0x0, false,
    [⟨31, 0, .ro, false, 0⟩]⟩,
  ⟨"MACm_TOFSHI", 0x60010804, 2, 0x10000, 1, 0x4, 0x0, false,
    [⟨31, 0, .ro, false, 1⟩]⟩,
  ⟨"MACm_RATE", 0x60010808, 2, 0x10000, 1, 0x4, 0x0, false,
    [⟨31, 0, .rw, false, 2⟩]⟩,
  ⟨"MACm_TADJLO", 0x6001080C, 2, 0x10000, 1, 0x4, 0x0, false,
    [⟨31, 0, .wo, false, 3⟩]⟩,
  ⟨"MACm_TADJHI", 0x60010810, 2, 0x10000, 1, 0x4, 0x0, false,
    [⟨31, 0, .wo, false, 4⟩]⟩,
  ⟨"MACm_TGTtLO", 0x60010820, 2, 0x10000, 4, 0x8, 0x0, false,
    [⟨31, 0, .rw, false, 8⟩]⟩,
  ⟨"MACm_TGTtHI", 0x60010824, 2, 0x10000, 4, 0x8, 0x0, false,
    [⟨31, 0, .rw, false, 9⟩]⟩,
  ⟨"MAC_CFGCHK", 0x60010004, 2, 0x10000, 1, 0x4, 0x0, false,
    [⟨31, 16, .ro, false, 1⟩, ⟨15, 8, .ro, false, 1⟩, ⟨7, 0, .ro, false, 1⟩]⟩,
  ⟨"CAN_CFGCHK", 0x60040004, 6, 0x1000, 1, 0x4, 0x0, false,
    [⟨31, 16, .ro, false, 1⟩, ⟨15, 8, .ro, false, 1⟩, ⟨7, 0, .ro, false, 1⟩]⟩,
  ⟨"PCIE_CFGCHK", 0x60030004, 1, 0x4, 1, 0x4, 0x0, false,
    [⟨31, 16, .ro, false, 1⟩, ⟨15, 8, .ro, false, 1⟩, ⟨7, 0, .ro, false, 1⟩]⟩]

/-- The register maps of: pins. -/
def regsPxPint : List RegDesc := [
  ⟨"PX_PINk", 0x60080000, 256, 0x4, 1, 0x4, 0x1000, false,
    [⟨31, 31, .ro, false, 0⟩, ⟨25, 25, .rw, false, 2⟩, ⟨24, 24, .rw, false, 3⟩, ⟨18, 18, .rw, false, 5⟩, ⟨17, 16, .rw, false, 6⟩, ⟨14, 14, .rw, false, 8⟩, ⟨13, 12, .rw, false, 9⟩, ⟨9, 0, .rw, false, 11⟩]⟩,
  ⟨"PX_BANKn", 0x60080400, 8, 0x4, 1, 0x4, 0x0, false,
    [⟨1, 0, .ro, false, 0⟩]⟩,
  ⟨"PX_CONF", 0x60080440, 1, 0x4, 1, 0x4, 0x0, false,
    [⟨31, 31, .w1c, false, 0⟩, ⟨25, 16, .ro, false, 2⟩, ⟨15, 8, .ro, false, 3⟩, ⟨7, 0, .ro, false, 4⟩]⟩,
  ⟨"PX_CFGCHK", 0x60080444, 1, 0x4, 1, 0x4, 0x0, false,
    [⟨31, 16, .ro, false, 0⟩, ⟨15, 8, .ro, false, 0⟩, ⟨7, 0, .ro, false, 0⟩]⟩,
  ⟨"PINT_CFGn", 0x60090000, 16, 0x4, 1, 0x4, 0x0, false,
    [⟨31, 31, .rw, false, 0⟩, ⟨10, 8, .rw, true, 0⟩, ⟨3, 0, .rw, true, 0⟩]⟩,
  ⟨"PINT_STAT", 0x60090040, 1, 0x4, 1, 0x4, 0x0, false,
    [⟨31, 16, .ro, false, 16⟩, ⟨15, 0, .w1c, false, 16⟩]⟩,
  ⟨"PINT_CFGCHK", 0x60090044, 1, 0x4, 1, 0x4, 0x0, false,
    [⟨31, 16, .ro, false, 17⟩, ⟨15, 8, .ro, false, 17⟩, ⟨7, 0, .ro, false, 17⟩]⟩]

/-- The register maps of: management. -/
def regsMg : List RegDesc := [
  ⟨"MG_DEVID", 0x70000000, 1, 0x4, 1, 0x4, 0x9648B010, false,
    [⟨31, 16, .ro, false, 0⟩, ⟨15, 8, .ro, false, 0⟩, ⟨7, 4, .ro, false, 0⟩]⟩,
  ⟨"MG_CLKSTAT", 0x70000008, 1, 0x4, 1, 0x4, 0x0, true,
    [⟨7, 7, .w1c, false, 0⟩, ⟨5, 5, .ro, false, 0⟩, ⟨4, 4, .ro, false, 0⟩, ⟨3, 3, .ro, false, 0⟩, ⟨2, 1, .ro, false, 0⟩, ⟨0, 0, .ro, false, 0⟩]⟩,
  ⟨"MG_DEVTIMELO", 0x70000010, 1, 0x4, 1, 0x4, 0x0, true,
    [⟨31, 0, .ro, false, 0⟩]⟩,
  ⟨"MG_DEVTIMEHI", 0x70000014, 1, 0x4, 1, 0x4, 0x0, true,
    [⟨31, 0, .ro, false, 0⟩]⟩,
  ⟨"MG_SPARESTAT", 0x70000020, 1, 0x4, 1, 0x4, 0x0, false,
    [⟨31, 24, .ro, false, 0⟩, ⟨23, 16, .ro, false, 0⟩, ⟨15, 8, .ro, false, 0⟩, ⟨3, 0, .ro, false, 0⟩]⟩,
  ⟨"MG_ECCSTRk", 0x70000400, 9, 0x4, 1, 0x4, 0xAAAAAAAA, true,
    [⟨31, 0, .rw, false, 0⟩]⟩,
  ⟨"MG_MEMSTAT", 0x70000440, 1, 0x4, 1, 0x4, 0x0, false,
    [⟨7, 7, .ro, false, 16⟩, ⟨6, 6, .w1c, false, 16⟩, ⟨5, 5, .w1c, false, 16⟩, ⟨4, 4, .w1c, false, 16⟩, ⟨3, 3, .w1c, false, 16⟩, ⟨2, 2, .w1c, false, 16⟩, ⟨1, 1, .w1c, false, 16⟩, ⟨0, 0, .w1c, false, 16⟩]⟩,
  ⟨"MG_MEMERR", 0x70000444, 1, 0x4, 1, 0x4, 0x0, false,
    [⟨31, 28, .ro, false, 17⟩, ⟨27, 26, .ro, false, 17⟩, ⟨25, 22, .ro, false, 17⟩, ⟨7, 0, .ro, false, 17⟩]⟩,
  ⟨"MG_MEMERRADR", 0x70000448, 1, 0x4, 1, 0x4, 0x0, false,
    [⟨31, 0, .ro, false, 18⟩]⟩,
  ⟨"MG_MEMCNT", 0x7000044C, 1, 0x4, 1, 0x4, 0x0, false,
    [⟨31, 16, .rw, false, 19⟩, ⟨15, 8, .rw, false, 19⟩, ⟨7, 0, .rw, false, 19⟩]⟩,
  ⟨"MG_MEMCFGCHK", 0x70000450, 1, 0x4, 1, 0x4, 0x0, false,
    [⟨31, 16, .ro, false, 20⟩, ⟨15, 8, .ro, false, 20⟩, ⟨7, 0, .ro, false, 20⟩]⟩,
  ⟨"MG_SCRUBCTL", 0x70000460, 1, 0x4, 1, 0x4, 0x0, false,
    [⟨8, 8, .w1c, false, 24⟩, ⟨5, 4, .ro, false, 24⟩, ⟨1, 1, .rw, true, 24⟩, ⟨0, 0, .rw, false, 24⟩]⟩,
  ⟨"MG_SCRUBBASE", 0x70000464, 1, 0x4, 1, 0x4, 0x0, false,
    [⟨31, 8, .rw, true, 25⟩]⟩,
  ⟨"MG_SCRUBLEN", 0x70000468, 1, 0x4, 1, 0x4, 0x0, false,
    [⟨16, 0, .rw, true, 26⟩]⟩,
  ⟨"MG_SCRUBCHK", 0x7000046C, 1, 0x4, 1, 0x4, 0x0, false,
    [⟨31, 0, .ro, false, 27⟩]⟩,
  ⟨"MG_SCRUBRES", 0x70000470, 1, 0x4, 1, 0x4, 0x0, false,
    [⟨31, 16, .ro, false, 28⟩, ⟨15, 8, .ro, false, 28⟩, ⟨7, 0, .ro, false, 28⟩]⟩,
  ⟨"MG_SCRUBFIRST", 0x70000474, 1, 0x4, 1, 0x4, 0xFFFFFFFF, false,
    [⟨31, 0, .ro, false, 29⟩]⟩,
  ⟨"MG_PHASE", 0x70000030, 1, 0x4, 1, 0x4, 0x0, true,
    [⟨15, 8, .ro, false, 0⟩, ⟨2, 0, .ro, false, 0⟩]⟩,
  ⟨"MG_BOOTSTAT", 0x70000034, 1, 0x4, 1, 0x4, 0x0, false,
    [⟨31, 24, .ro, false, 0⟩, ⟨23, 16, .ro, false, 0⟩, ⟨8, 8, .ro, false, 0⟩, ⟨3, 3, .ro, false, 0⟩, ⟨2, 2, .ro, false, 0⟩, ⟨1, 1, .ro, false, 0⟩, ⟨0, 0, .ro, false, 0⟩]⟩,
  ⟨"MG_CFGCHK", 0x70000038, 1, 0x4, 1, 0x4, 0x0, true,
    [⟨31, 16, .ro, false, 0⟩, ⟨15, 8, .ro, false, 0⟩, ⟨7, 0, .ro, false, 0⟩]⟩,
  ⟨"MG_MREQ", 0x70000100, 1, 0x4, 1, 0x4, 0x0, true,
    [⟨23, 16, .wo, false, 0⟩, ⟨7, 0, .wo, false, 0⟩]⟩,
  ⟨"MG_MANS", 0x70000104, 1, 0x4, 1, 0x4, 0x0, true,
    [⟨31, 30, .ro, false, 0⟩, ⟨23, 16, .ro, false, 0⟩, ⟨15, 8, .ro, false, 0⟩, ⟨7, 0, .ro, false, 0⟩]⟩,
  ⟨"MG_MREL", 0x70000108, 1, 0x4, 1, 0x4, 0x0, true,
    [⟨7, 0, .wo, false, 0⟩]⟩,
  ⟨"MG_MHELD", 0x7000010C, 1, 0x4, 1, 0x4, 0x0, true,
    [⟨31, 24, .ro, false, 0⟩, ⟨10, 1, .ro, false, 0⟩]⟩,
  ⟨"MG_SVCCMD", 0x70000200, 1, 0x4, 1, 0x4, 0x0, true,
    [⟨7, 0, .wo, false, 0⟩]⟩,
  ⟨"MG_SVCARG", 0x70000204, 1, 0x4, 1, 0x4, 0x0, true,
    [⟨31, 0, .rw, false, 0⟩]⟩,
  ⟨"MG_SVCSTAT", 0x70000208, 1, 0x4, 1, 0x4, 0x0, true,
    [⟨31, 31, .ro, false, 0⟩, ⟨30, 30, .w1c, false, 0⟩, ⟨29, 29, .w1c, false, 0⟩, ⟨7, 0, .ro, false, 0⟩]⟩,
  ⟨"MG_SVCBUF", 0x70001000, 704, 0x4, 1, 0x4, 0x0, true,
    [⟨31, 0, .rw, false, 0⟩]⟩]

/-- The register maps of: power. -/
def regsPm : List RegDesc := [
  ⟨"PM_DOMCTL0", 0x70010000, 1, 0x4, 1, 0x4, 0xFFFFFFFF, true,
    [⟨31, 0, .rw, false, 0⟩]⟩,
  ⟨"PM_DOMCTL1", 0x70010004, 1, 0x4, 1, 0x4, 0xFFFFFFFF, true,
    [⟨31, 0, .rw, false, 1⟩]⟩,
  ⟨"PM_DOMSTAT0", 0x70010008, 1, 0x4, 1, 0x4, 0x0, true,
    [⟨31, 0, .ro, false, 2⟩]⟩,
  ⟨"PM_DOMSTAT1", 0x7001000C, 1, 0x4, 1, 0x4, 0x0, true,
    [⟨31, 0, .ro, false, 3⟩]⟩,
  ⟨"PM_CFGCHK", 0x70010010, 1, 0x4, 1, 0x4, 0x0, true,
    [⟨31, 16, .ro, false, 4⟩, ⟨15, 8, .ro, false, 4⟩, ⟨7, 0, .ro, false, 4⟩]⟩,
  ⟨"PM_OPCTL", 0x70010014, 1, 0x4, 1, 0x4, 0x0, true,
    [⟨1, 0, .rw, false, 5⟩]⟩,
  ⟨"PM_OPSTAT", 0x70010018, 1, 0x4, 1, 0x4, 0x80, true,
    [⟨31, 31, .ro, false, 6⟩, ⟨30, 30, .ro, false, 6⟩, ⟨29, 29, .w1c, false, 6⟩, ⟨28, 28, .w1c, false, 6⟩, ⟨7, 4, .ro, false, 6⟩, ⟨1, 0, .ro, false, 6⟩]⟩,
  ⟨"PM_SLEEP", 0x7001001C, 1, 0x4, 1, 0x4, 0x0, true,
    [⟨1, 0, .wo, false, 7⟩]⟩,
  ⟨"PM_SLEEPSTAT", 0x70010020, 1, 0x4, 1, 0x4, 0x0, true,
    [⟨31, 16, .ro, false, 8⟩, ⟨15, 12, .ro, false, 8⟩, ⟨11, 11, .w1c, false, 8⟩, ⟨10, 8, .ro, false, 8⟩, ⟨6, 4, .ro, false, 8⟩, ⟨1, 0, .ro, false, 8⟩]⟩,
  ⟨"PM_WAKEEN", 0x70010024, 1, 0x4, 1, 0x4, 0x1, true,
    [⟨4, 4, .rw, false, 9⟩, ⟨3, 3, .rw, false, 9⟩, ⟨2, 2, .rw, false, 9⟩, ⟨1, 1, .rw, false, 9⟩, ⟨0, 0, .rw, false, 9⟩]⟩,
  ⟨"PM_CROCUS", 0x70010028, 1, 0x4, 1, 0x4, 0x80, true,
    [⟨11, 8, .rw, false, 10⟩, ⟨7, 4, .rw, false, 10⟩, ⟨1, 0, .rw, false, 10⟩]⟩,
  ⟨"PM_CRPER", 0x7001002C, 1, 0x4, 1, 0x4, 0x186A0, true,
    [⟨25, 0, .rw, false, 11⟩]⟩,
  ⟨"PM_PADREL", 0x70010030, 1, 0x4, 1, 0x4, 0x0, true,
    [⟨14, 0, .wo, false, 12⟩]⟩,
  ⟨"PM_PADHOLD", 0x70010034, 1, 0x4, 1, 0x4, 0x0, true,
    [⟨14, 0, .ro, false, 13⟩]⟩,
  ⟨"PM_DTGAP", 0x70010038, 1, 0x4, 1, 0x4, 0x0, true,
    [⟨31, 31, .w1c, false, 14⟩, ⟨29, 0, .ro, false, 14⟩]⟩]

/-- The register maps of: flash. -/
def regsFcLg : List RegDesc := [
  ⟨"FC_CTRL", 0x70020000, 1, 0x4, 1, 0x4, 0xF, false,
    [⟨19, 18, .rw, false, 0⟩, ⟨17, 16, .rw, false, 0⟩, ⟨8, 8, .rw, false, 0⟩, ⟨3, 0, .rw, false, 0⟩]⟩,
  ⟨"FC_CFGCHK", 0x70020004, 1, 0x4, 1, 0x4, 0x0, false,
    [⟨31, 16, .ro, false, 1⟩, ⟨15, 8, .ro, false, 1⟩, ⟨7, 0, .ro, false, 1⟩]⟩,
  ⟨"FC_CMD", 0x70020008, 1, 0x4, 1, 0x4, 0x0, false,
    [⟨8, 8, .wo, false, 2⟩, ⟨2, 0, .wo, false, 2⟩]⟩,
  ⟨"FC_ADDR", 0x7002000C, 1, 0x4, 1, 0x4, 0x0, false,
    [⟨22, 0, .rw, false, 3⟩]⟩,
  ⟨"FC_STATb", 0x70020010, 2, 0x4, 1, 0x4, 0x0, false,
    [⟨31, 30, .ro, false, 4⟩, ⟨29, 28, .ro, false, 4⟩, ⟨8, 8, .ro, false, 4⟩, ⟨7, 7, .ro, false, 4⟩, ⟨5, 5, .w1c, false, 4⟩, ⟨4, 4, .w1c, false, 4⟩, ⟨3, 3, .w1c, false, 4⟩, ⟨2, 2, .w1c, false, 4⟩]⟩,
  ⟨"FC_RECOVb", 0x70020018, 2, 0x8, 1, 0x4, 0x0, false,
    [⟨31, 31, .ro, false, 6⟩, ⟨30, 29, .ro, false, 6⟩, ⟨28, 28, .ro, false, 6⟩, ⟨22, 0, .ro, false, 6⟩]⟩,
  ⟨"FC_RISKb", 0x7002001C, 2, 0x8, 1, 0x4, 0x0, false,
    [⟨31, 31, .ro, false, 7⟩, ⟨22, 0, .ro, false, 7⟩]⟩,
  ⟨"FC_ERR", 0x70020028, 1, 0x4, 1, 0x4, 0x0, false,
    [⟨15, 8, .ro, false, 10⟩, ⟨2, 2, .w1c, false, 10⟩, ⟨1, 1, .w1c, false, 10⟩, ⟨0, 0, .w1c, false, 10⟩]⟩,
  ⟨"FC_ERRADR", 0x7002002C, 1, 0x4, 1, 0x4, 0x0, false,
    [⟨31, 0, .ro, false, 11⟩]⟩,
  ⟨"FC_CNT", 0x70020030, 1, 0x4, 1, 0x4, 0x0, false,
    [⟨31, 16, .rw, false, 12⟩, ⟨15, 8, .rw, false, 12⟩, ⟨7, 0, .rw, false, 12⟩]⟩,
  ⟨"FC_XOk", 0x70020040, 16, 0x4, 1, 0x4, 0x0, false,
    [⟨31, 31, .rw, false, 16⟩, ⟨30, 30, .rw, false, 16⟩, ⟨24, 24, .rw, false, 16⟩, ⟨22, 16, .rw, false, 16⟩, ⟨6, 0, .rw, false, 16⟩]⟩,
  ⟨"FC_PBUFb", 0x70021000, 2, 0x200, 128, 0x4, 0x0, false,
    [⟨31, 0, .rw, false, 0⟩]⟩,
  ⟨"LG_CMD", 0x70030000, 1, 0x4, 1, 0x4, 0x0, true,
    [⟨23, 16, .wo, false, 0⟩, ⟨13, 8, .wo, false, 0⟩, ⟨1, 0, .wo, false, 0⟩]⟩,
  ⟨"LG_STAT", 0x70030004, 1, 0x4, 1, 0x4, 0x0, true,
    [⟨31, 16, .ro, false, 1⟩, ⟨15, 8, .ro, false, 1⟩, ⟨4, 4, .w1c, false, 1⟩, ⟨3, 3, .w1c, false, 1⟩, ⟨2, 2, .w1c, false, 1⟩, ⟨1, 1, .w1c, false, 1⟩, ⟨0, 0, .ro, false, 1⟩]⟩,
  ⟨"LG_CFGCHK", 0x70030008, 1, 0x4, 1, 0x4, 0x0, true,
    [⟨31, 16, .ro, false, 2⟩, ⟨15, 8, .ro, false, 2⟩, ⟨7, 0, .ro, false, 2⟩]⟩,
  ⟨"LG_BUF", 0x70031000, 124, 0x4, 1, 0x4, 0x0, true,
    [⟨31, 0, .rw, false, 0⟩]⟩]

/-- The register maps of: redundancy. -/
def regsRdMcodeTp : List RegDesc := [
  ⟨"MCODE_CTRL", 0x70060000, 1, 0x4, 1, 0x4, 0x0, false,
    [⟨3, 0, .rw, false, 0⟩]⟩,
  ⟨"MCODE_STAGEVER", 0x70060004, 1, 0x4, 1, 0x4, 0x0, false,
    [⟨15, 0, .rw, false, 0⟩]⟩,
  ⟨"MCODE_STAGEDIG", 0x70060008, 1, 0x4, 1, 0x4, 0x0, false,
    [⟨31, 0, .rw, false, 0⟩]⟩,
  ⟨"MCODE_STAT", 0x7006000C, 1, 0x4, 1, 0x4, 0x0, false,
    [⟨9, 9, .w1c, false, 0⟩, ⟨8, 8, .w1c, false, 0⟩, ⟨7, 4, .w1c, false, 0⟩, ⟨0, 0, .ro, false, 0⟩]⟩,
  ⟨"MCODE_CFGCHK", 0x70060010, 1, 0x4, 1, 0x4, 0x0, false,
    [⟨31, 16, .ro, false, 0⟩, ⟨15, 8, .ro, false, 0⟩, ⟨7, 0, .ro, false, 0⟩]⟩,
  ⟨"MCODEn_VER", 0x70060040, 4, 0x8, 1, 0x4, 0xB010000, false,
    [⟨31, 16, .ro, false, 0⟩, ⟨15, 0, .ro, false, 0⟩]⟩,
  ⟨"MCODEn_DIGEST", 0x70060044, 4, 0x8, 1, 0x4, 0x0, false,
    [⟨31, 0, .ro, false, 0⟩]⟩,
  ⟨"MCODE_MATCHk", 0x70061C00, 32, 0x4, 1, 0x4, 0x0, false,
    [⟨31, 31, .rw, false, 0⟩, ⟨23, 16, .rw, false, 0⟩, ⟨12, 0, .rw, false, 0⟩]⟩,
  ⟨"RD_PpCTL", 0x70050000, 2, 0x40, 1, 0x4, 0xFA0000, false,
    [⟨23, 16, .rw, false, 0⟩, ⟨9, 8, .rw, false, 0⟩, ⟨4, 4, .rw, false, 0⟩]⟩,
  ⟨"RD_PpSTAT", 0x70050004, 2, 0x40, 1, 0x4, 0x0, false,
    [⟨31, 30, .ro, false, 1⟩, ⟨29, 29, .w1c, false, 1⟩, ⟨28, 28, .ro, false, 1⟩, ⟨27, 27, .ro, false, 1⟩, ⟨26, 25, .ro, false, 1⟩, ⟨24, 23, .ro, false, 1⟩, ⟨22, 22, .ro, false, 1⟩, ⟨16, 10, .ro, false, 1⟩, ⟨9, 0, .ro, false, 1⟩]⟩,
  ⟨"RD_PpCNT", 0x70050008, 2, 0x40, 1, 0x4, 0x0, false,
    [⟨31, 24, .rw, false, 2⟩, ⟨23, 16, .rw, false, 2⟩, ⟨15, 8, .rw, false, 2⟩, ⟨7, 0, .rw, false, 2⟩]⟩,
  ⟨"RD_PpMISM", 0x7005000C, 2, 0x40, 1, 0x4, 0x0, false,
    [⟨31, 30, .ro, false, 3⟩, ⟨29, 29, .ro, false, 3⟩]⟩,
  ⟨"RD_PpMISMADR", 0x70050010, 2, 0x40, 1, 0x4, 0x0, false,
    [⟨31, 0, .ro, false, 4⟩]⟩,
  ⟨"RD_PpCKTIME", 0x70050014, 2, 0x40, 1, 0x4, 0x0, false,
    [⟨31, 0, .ro, false, 5⟩]⟩,
  ⟨"RD_CFGCHK", 0x70050080, 1, 0x4, 1, 0x4, 0x0, false,
    [⟨31, 16, .ro, false, 0⟩, ⟨15, 8, .ro, false, 0⟩, ⟨7, 0, .ro, false, 0⟩]⟩,
  ⟨"TP_CTRL", 0x70070000, 1, 0x4, 1, 0x4, 0x0, false,
    [⟨8, 8, .rw, false, 0⟩, ⟨0, 0, .wo, false, 0⟩]⟩,
  ⟨"TP_CFGCHK", 0x70070004, 1, 0x4, 1, 0x4, 0x0, false,
    [⟨31, 16, .ro, false, 1⟩, ⟨15, 8, .ro, false, 1⟩, ⟨7, 0, .ro, false, 1⟩]⟩,
  ⟨"TP_STAT", 0x70070008, 1, 0x4, 1, 0x4, 0x0, false,
    [⟨3, 3, .w1c, false, 2⟩, ⟨2, 2, .w1c, false, 2⟩, ⟨1, 1, .ro, false, 2⟩, ⟨0, 0, .ro, false, 2⟩]⟩,
  ⟨"TP_XBDLY", 0x70070010, 1, 0x4, 1, 0x4, 0x0, false,
    [⟨31, 0, .rw, false, 4⟩]⟩,
  ⟨"TP_DMABP", 0x70070014, 1, 0x4, 1, 0x4, 0x0, false,
    [⟨31, 16, .rw, false, 5⟩, ⟨9, 9, .rw, false, 5⟩, ⟨8, 8, .rw, false, 5⟩, ⟨3, 0, .rw, false, 5⟩]⟩,
  ⟨"TP_SODLY", 0x70070018, 1, 0x4, 1, 0x4, 0x0, false,
    [⟨31, 31, .rw, false, 6⟩, ⟨30, 30, .rw, false, 6⟩, ⟨19, 16, .rw, false, 6⟩, ⟨10, 0, .rw, false, 6⟩]⟩,
  ⟨"TP_CSDLY", 0x7007001C, 1, 0x4, 1, 0x4, 0x0, false,
    [⟨31, 31, .rw, false, 7⟩, ⟨13, 8, .rw, false, 7⟩, ⟨7, 0, .rw, false, 7⟩]⟩,
  ⟨"TP_INJ", 0x70070020, 1, 0x4, 1, 0x4, 0x0, false,
    [⟨31, 28, .wo, false, 8⟩, ⟨5, 0, .wo, false, 8⟩]⟩,
  ⟨"TP_INJADR", 0x70070024, 1, 0x4, 1, 0x4, 0x0, false,
    [⟨31, 0, .rw, false, 9⟩]⟩,
  ⟨"TP_DBGCTL", 0x70070030, 1, 0x4, 1, 0x4, 0x0, false,
    [⟨31, 31, .rw, false, 12⟩, ⟨21, 16, .rw, false, 12⟩, ⟨12, 12, .rw, false, 12⟩, ⟨11, 11, .wo, false, 12⟩, ⟨10, 10, .rw, false, 12⟩, ⟨4, 4, .rw, false, 12⟩, ⟨3, 3, .wo, false, 12⟩, ⟨2, 2, .rw, false, 12⟩]⟩,
  ⟨"TP_DBGSTAT", 0x70070034, 1, 0x4, 1, 0x4, 0x0, false,
    [⟨8, 8, .w1c, false, 13⟩, ⟨1, 1, .ro, false, 13⟩, ⟨0, 0, .ro, false, 13⟩]⟩,
  ⟨"TP_TRACE", 0x70070040, 1, 0x4, 1, 0x4, 0x0, false,
    [⟨31, 31, .rw, false, 16⟩, ⟨26, 16, .rw, false, 16⟩, ⟨3, 0, .rw, false, 16⟩]⟩,
  ⟨"RD_STAT2", 0x70050020, 2, 0x40, 1, 0x4, 0x0, false,
    [⟨28, 28, .ro, false, 8⟩, ⟨27, 27, .ro, false, 8⟩, ⟨16, 10, .ro, false, 8⟩, ⟨9, 0, .ro, false, 8⟩]⟩,
  ⟨"MCODE_STAGE", 0x70061000, 256, 0x4, 1, 0x4, 0x0, false,
    [⟨31, 0, .rw, false, 0⟩]⟩,
  ⟨"MCODE_NANO", 0x70061400, 128, 0x10, 4, 0x4, 0x0, false,
    [⟨31, 0, .rw, false, 0⟩]⟩]

/-- The register map that covers an address, by block of R55. -/
def regBlock (a : Nat) : List RegDesc :=
  if a < 0x50006000 then (if 0x50000000 ≤ a then regsPwm else [])
  else if a < 0x50020000 then regsCmp
  else if a < 0x50040000 then regsCsCgSq
  else if a < 0x50050000 then regsPi
  else if a < 0x50060000 then regsSo
  else if a < 0x50070000 then regsLc
  else if a < 0x50080000 then regsMs
  else if a < 0x60000000 then []
  else if a < 0x60010000 then regsDma
  else if a < 0x60080000 then regsMacPcieCanHpLbx
  else if a < 0x600A0000 then regsPxPint
  else if a < 0x70000000 then regsMacPcieCanHpLbx
  else if a < 0x70010000 then regsMg
  else if a < 0x70020000 then regsPm
  else if a < 0x70040000 then regsFcLg
  else if a < 0x70080000 then regsRdMcodeTp
  else []

/-- The instance indices of an address in a register's rows, if the register has that address. -/
def RegDesc.at? (d : RegDesc) (a : Nat) : Option (Nat × Nat) :=
  if a < d.base then none
  else
    let off := a - d.base
    let i := off / d.s1
    let r := off - i * d.s1
    let j := r / d.s2
    if i < d.n1 ∧ j < d.n2 ∧ r = j * d.s2 then some (i, j) else none

/-- The register at an address. -/
def regAt (a : Nat) : Option RegDesc := (regBlock a).find? fun d => (d.at? a).isSome

/-- What a register reads as after a cold reset. PX_PINk selects its fixed function on pins 0 to 4 (R449); MG_ECCSTR8
holds the map store's regions only (R355); LC48 to LC51 read ROLE = SPARE (R157); MG_DEVID names the grade (R3); MG_SPARESTAT
of a part with no repairs (R59). -/
def regReset (a : Nat) : Word :=
  if a = Reg.MG_DEVID then (if Config.gradeXB then 0x9648B020 else 0x9648B010)
  else if a = Reg.MG_ECCSTR 8 then 0x000000AA
  else if a = Reg.MG_SPARESTAT then 0x8008040F
  else if 0x50063008 ≤ a ∧ a ≤ 0x50063308 ∧ a % 256 = 8 then 0x01000000
  else if 0x60080000 ≤ a ∧ a < 0x60080014 ∧ a % 4 = 0 then BitVec.ofNat 32 (0x1000 + 0x1F8 + a % 0x10000 / 4)
  else match regAt a with
    | some d => BitVec.ofNat 32 d.reset
    | none => 0

end Sys2Proof.Machine
end

