-- ==== Sys2Proof/Machine/SMap.lean ====
section
/-! DEFINITION. Sparse maps from natural numbers, as lists in one canonical form: keys strictly rising and no entry
equal to the value an unlisted key has. Registers, unit records and memory are held this way. -/

namespace Sys2Proof.Machine

/-- A sparse map as plain data. -/
abbrev SMap (α : Type) := List (Nat × α)

/-- The value at key `k`; `d` is what an unlisted key reads as. -/
def mapGet {α : Type} (d : α) : SMap α → Nat → α
  | [], _ => d
  | (k', v) :: m, k => if k' = k then v else mapGet d m k

/-- The map without key `k`. -/
def mapErase {α : Type} : SMap α → Nat → SMap α
  | [], _ => []
  | (k', v) :: m, k => if k' = k then mapErase m k else (k', v) :: mapErase m k

/-- The map with `v` at key `k`, kept in rising order. -/
def mapInsert {α : Type} : SMap α → Nat → α → SMap α
  | [], k, v => [(k, v)]
  | (k', v') :: m, k, v =>
    if k < k' then (k, v) :: (k', v') :: m
    else if k = k' then (k, v) :: m
    else (k', v') :: mapInsert m k v

/-- Write `v` at key `k`, where an unlisted key reads as `d`: the default value is not listed. -/
def mapSet {α : Type} [DecidableEq α] (d : α) (m : SMap α) (k : Nat) (v : α) : SMap α :=
  if v = d then mapErase m k else mapInsert m k v

/-- Keys strictly rising, all above `b` where one is given. -/
def mapSorted {α : Type} : Option Nat → SMap α → Bool
  | _, [] => true
  | none, (k, _) :: m => mapSorted (some k) m
  | some b, (k, _) :: m => decide (b < k) && mapSorted (some k) m

/-- No entry equals what its key reads as when unlisted. -/
def mapLean {α : Type} [DecidableEq α] (d : Nat → α) : SMap α → Bool
  | [] => true
  | (k, v) :: m => decide (v ≠ d k) && mapLean d m

/-- The canonical form of a sparse map whose unlisted key `k` reads as `d k`. -/
def mapWf {α : Type} [DecidableEq α] (d : Nat → α) (m : SMap α) : Bool :=
  mapSorted none m && mapLean d m

/-- A set of natural numbers as disjoint, rising, half-open intervals, with a gap between neighbours. -/
abbrev NSet := List (Nat × Nat)

/-- Membership in an interval set. -/
def nsetHas : NSet → Nat → Bool
  | [], _ => false
  | (lo, hi) :: r, k => (decide (lo ≤ k) && decide (k < hi)) || nsetHas r k

/-- The set with every number of `[a, b)` added (intervals that touch are joined). -/
def nsetAdd : NSet → Nat → Nat → NSet
  | [], a, b => if a < b then [(a, b)] else []
  | (lo, hi) :: r, a, b =>
    if hi < a then (lo, hi) :: nsetAdd r a b
    else if b < lo then (if a < b then (a, b) :: (lo, hi) :: r else (lo, hi) :: r)
    else nsetAdd r (min lo a) (max hi b)

/-- The set with every number of `[a, b)` removed. -/
def nsetDel : NSet → Nat → Nat → NSet
  | [], _, _ => []
  | (lo, hi) :: r, a, b =>
    if hi ≤ a ∨ b ≤ lo then (lo, hi) :: nsetDel r a b
    else
      (if lo < a then [(lo, a)] else []) ++ (if b < hi then [(b, hi)] else []) ++ nsetDel r a b

/-- How many numbers of `[a, b)` the set holds. -/
def nsetCount : NSet → Nat → Nat → Nat
  | [], _, _ => 0
  | (lo, hi) :: r, a, b => (min hi b - max lo a) + nsetCount r a b

end Sys2Proof.Machine
end

