-- ==== Sys2Proof/Machine/State.lean ====
section
/-! DEFINITION. The machine's state as plain data: every memory-mapped register by its address, every memory byte, and
one record per unit for the state the chapters name that no register shows. -/

namespace Sys2Proof.Machine

/-- Clocks and DEVTIME (R37 to R43). -/
structure Clock where
  /-- DEVTIME, units of 2.5 ns (R41). -/
  devtime : BitVec 64 := 0
  /-- The 5-bit fraction accumulator of the 32.768 kHz source (R43). -/
  dtFrac : Nat := 0
  /-- True while the PLL-derived clocks run. -/
  run : Bool := false
  /-- FAULTOUTn asserted (R40). -/
  faultOut : Bool := false
  /-- RSTOUTn asserted. -/
  rstOut : Bool := true
deriving DecidableEq, Repr

/-- One entry served by a trigger a window engine holds: entry 32n + k of SQn and the displacement of R68. -/
structure Serve where
  ent : Nat
  resid : Int
deriving DecidableEq, Repr

/-- A busy window engine (R69). -/
structure Engine where
  centre : Nat
  serves : List Serve
deriving DecidableEq, Repr

/-- Hidden state of one converter slice; spares are slices 64 to 67. -/
structure Slice where
  /-- The edge on which EN became 1. -/
  enAt : Nat := 0
  /-- The history ring, newest code first, at most 256 (R64). -/
  ring : List (BitVec 4) := []
  /-- The edge of the newest code. -/
  ringAt : Nat := 0
  /-- The window engines in use, at most four (R69). -/
  engines : List Engine := []
  /-- Window comparator counts (R80). -/
  exitCnt : Nat := 0
  retCnt : Nat := 0
  /-- Centre of the last free-running result since READY (R70). -/
  freeLast : Option Nat := none
deriving DecidableEq, Repr

/-- An integrating window that has ended and whose result is due (R73). -/
structure IntDone where
  slice : Nat
  due : Nat
  len : Nat
  sum : Int
  count : Nat
  subst : Bool
  ovld : Bool
deriving DecidableEq, Repr

/-- Hidden state of one converter group. -/
structure Group where
  /-- The edge on which MPT.EN became 1. -/
  enAt : Nat := 0
  /-- Start edge of the window in progress. -/
  winStart : Option Nat := none
  /-- Its length in CLK_LOOP cycles, fixed at its start (R77). -/
  winLen : Nat := 0
  /-- The 8-bit accumulator of PER's fraction (R77). -/
  fracAcc : Nat := 0
  /-- Instant of the last crossing, in 1/256 CLK_LOOP cycle (R75). -/
  lastCross : Option Nat := none
  /-- Consecutive accepted periods within 0.5 percent, and more than 2 percent off (R76). -/
  goodRun : Nat := 0
  badRun : Nat := 0
  /-- Window results waiting for their write edge. -/
  done : List IntDone := []
  /-- Start edge of the calibration step in progress (R90). -/
  calStart : Option Nat := none
  /-- Ticket of the granted or queued CAL and TESTDAC activities. -/
  calTicket : Option Nat := none
  diagTicket : Option Nat := none
  /-- The rotation stops at its next handback (R93). -/
  calStop : Bool := false
  /-- Slice the spare supplies now and the substitution edge, with the fitted correction (R91). -/
  subst : Option (Nat × Nat) := none
  /-- The substitution that ended last: slice, its edge and the handback edge. -/
  substPast : Option (Nat × Nat × Nat) := none
  /-- Slices whose codes came from the spare in the window in progress (R91). -/
  winSubst : List Nat := []
  fitOfs : Int := 0
  fitGain : Nat := 0x400000
  /-- Slice j's input is off its pins for calibration (R91). -/
  pinsOff : Bool := false
  /-- The spare is still connected to slice j after the handback (R91). -/
  spareHeld : Option Nat := none
  /-- Highest slice index whose step the present rotation has reached (R90). -/
  nextSlice : Nat := 0
deriving DecidableEq, Repr

/-- Converters: slices, groups and the sequencers' hidden state. -/
structure Conv where
  slices : SMap Slice := []
  groups : SMap Group := []
  /-- Entries (32n + k) stored after a failed landing check (R85). -/
  entFail : NSet := []
  /-- Landing edge of the write that enabled each entry (R70). -/
  entFrom : SMap Nat := []
  /-- Edge and entry of each sequencer's last TRGSTAMP (R88). -/
  stampAt : SMap (Nat × Nat) := []
deriving DecidableEq, Repr

/-- An event forwarded by a routing entry and not yet delivered (R143). -/
structure Flight where
  src : Nat
  due : Nat
  /-- Trigger instant in steps of 19.53125 ps (R65, R143). -/
  inst : Nat
  dests : List Nat
  /-- The event holds one of its entry's 8 slots (R145). -/
  held : Bool
deriving DecidableEq, Repr

/-- Hidden state of the sorting office. -/
structure Sorting where
  /-- Events in flight, oldest raise first. -/
  flights : List Flight := []
  /-- Routing entries stored after a failed landing check (R146). -/
  rtFail : NSet := []
  /-- EVOUTk high until this edge; unlisted = low (R142). -/
  evout : SMap Nat := []
  /-- Crossbar output TMRk high until this edge (R441). -/
  tmrOut : SMap Nat := []
  /-- Landing edge of the write that enabled each timer, and its last raise (R141). -/
  tmrFrom : SMap Nat := []
deriving DecidableEq, Repr

/-- Trace port (R480). -/
structure Trace where
  /-- Packets waiting, oldest first, at most 64. -/
  fifo : List Word := []
  /-- Packets lost since the last overflow packet. -/
  lost : Nat := 0
deriving DecidableEq, Repr


/-- Hidden state of one comparator. Times are in steps of 19.53125 ps or CLK_LOOP edges as named. -/
structure Cmp where
  /-- Raw state (R101), and the step of its last change. -/
  raw : Bool := false
  rawAt : Nat := 0
  /-- V+ of the last crossing, in 1/32 nV (R98). -/
  vplus : Nat := 0
  /-- Edge of the record of a latch set (R105). -/
  record : Option Nat := none
  /-- Edge on which the open blanking window closes (R102). -/
  blankTill : Option Nat := none
  /-- Last period start of GEN since its EN became 1, in steps (R99). -/
  tps : Option Nat := none
  /-- SLOPE in force (R100). -/
  slope : Nat := 0
  /-- REF and SLOPE before their last write, and the landing edges (R22, R100). -/
  refOld : Nat := 0xFFF
  refAt : Nat := 0
  slopeOld : Nat := 0
  slopeAt : Nat := 0
  /-- Edge on which READY is due (R107). -/
  settle : Option Nat := none
  /-- Ticket of the self-check (R108). -/
  ticket : Option Nat := none
deriving DecidableEq, Repr


/-- Hidden state of one PWM generator. Instants are in steps of 19.53125 ps. -/
structure Pwm where
  /-- Values in force beside ACTPER, ACTCMPA and ACTCMPB (R208): PHASE, TRG0 to TRG3, DT and TRGCFG. -/
  phaseF : Nat := 0
  trgF : List Nat := [0, 0, 0, 0]
  dtF : Word := 0
  trgcfgF : Word := 0
  /-- First period start due after an enable, while RUN = 0 (R214). -/
  firstAt : Option Nat := none
  /-- Start of the period in progress: the instant at which x = 0 (R195). -/
  start : Nat := 0
  /-- Positions below this one are not produced in this period (R198). -/
  fromPos : Nat := 0
  /-- End of the period in progress where the carrier has resolved it (R201, R202). -/
  endAt : Option Nat := none
  /-- The resolved instant of COFF (R202). -/
  resolved : Option Nat := none
  /-- T kept by a follower that lost its leader (R199). -/
  freeT : Option Nat := none
  /-- A start or centre carried out for a write on its reload edge, ahead of its own command (R210). -/
  early : List Nat := []
  /-- Instances fired or skipped in this period (R211). -/
  fired : List PwmInst := []
  /-- Members written into the staged set: 0 PER, 1 CMPA, 2 CMPB, 3 to 6 TRG0 to TRG3 (R212). -/
  staged : List Nat := []
  /-- Carrier raw signals and the CBC forces on them (R200, R222). -/
  ra : Bool := false
  rb : Bool := false
  forceA : Bool := false
  forceB : Bool := false
  /-- A CBC force was counted in this release interval (R223). -/
  cbcSeen : Bool := false
  /-- Output levels before polarity, the instants of their last two edges, and delayed rises (R204, R205). -/
  outA : Bool := false
  outB : Bool := false
  edgeA : List Nat := []
  edgeB : List Nat := []
  riseA : Option Nat := none
  riseB : Option Nat := none
  /-- The pads left the high impedance of a reset (R232). -/
  opened : Bool := false
  /-- Latched-trip records due: edge and selector (R224). -/
  records : List (Nat × Nat) := []
  /-- First edge on which the pad sense reads (R227). -/
  senseFrom : Option Nat := none
  /-- The fall-back was counted for this trip (R227). -/
  fbSeen : Bool := false
  /-- Landing edge of an accepted clear whose period start is awaited (R230). -/
  resumeFrom : Option Nat := none
  /-- Edge of the last TRIPCMD delivery (R219). -/
  tripcmd : Option Nat := none
  /-- Edge on which the counter was halted (R216). -/
  haltAt : Option Nat := none
deriving DecidableEq, Repr


/-- Hidden state of one position interface. Edges are DEVTIME values. -/
structure Pos where
  /-- The edge on which EN became 1. -/
  enAt : Nat := 0
  /-- Accepted levels of A, B and Z since EN became 1 (R113). -/
  sigA : Option Bool := none
  sigB : Option Bool := none
  sigZ : Option Bool := none
  /-- The Hall reference state (R119). -/
  hall : Option Nat := none
  /-- The index condition as last accepted (R124). -/
  cond : Option Bool := none
  /-- Stamps of the running measurement, newest first, at most N + 1 (R127). -/
  stamps : List Nat := []
  /-- Edge of the last counted edge (R128). -/
  lastCount : Nat := 0
  /-- Edge of the last wire fault recorded on A, B and Z (R115). -/
  wireA : Option Nat := none
  wireB : Option Nat := none
  wireZ : Option Nat := none
  /-- Delivery edge of the SSI frame in progress, and what it has done: recorded, timed out (R129 to R131). -/
  ssiT0 : Option Nat := none
  ssiDone : Bool := false
  ssiLate : Bool := false
  /-- Emulator: acc, lag, edge of the last emitted edge, edge from which lag has stood away from 0 (R135, R136). -/
  acc : Nat := 0
  lag : Int := 0
  emitted : Option Nat := none
  lagFrom : Nat := 0
  /-- The outputs AB and EZ as driven or held (R136, R137); none before the first EMUEN. -/
  outAB : Option (BitVec 2) := none
  outZ : Bool := false
deriving DecidableEq, Repr


/-- An event waiting in a cell's queue: its vector and its delivery edge (R171). -/
structure Waiting where
  vec : Nat
  at' : Nat
deriving DecidableEq, Repr

/-- The handler a cell runs: its vector (none: the restart handler), start edge, budget, event stamp and queue depth at
its start (R168, R172). -/
structure Handler where
  vec : Option Nat
  start : Nat
  budget : Nat
  stamp : Nat
  depth : Nat
deriving DecidableEq, Repr

/-- A port write in the fabric: landing edge, port and value (R163). -/
structure PortWrite where
  due : Nat
  port : Nat
  val : Word
deriving DecidableEq, Repr

/-- The map-store instructions (R186). -/
inductive MsKind where
  | ld | lerp | blerp
deriving DecidableEq, Repr

/-- A map-store request not yet granted (R187): issue edge, table, arguments, destination. -/
structure MsReq where
  issued : Nat
  kind : MsKind
  td : Nat
  a : Word
  b : Word
  vd : Nat
deriving DecidableEq, Repr

/-- One loop cell beside its registers and memories. Edges are DEVTIME values. -/
structure LoopCell where
  /-- v0 to v31, acc0 and acc1, the return stack (newest first). -/
  v : SMap Word := []
  acc0 : BitVec 80 := 0
  acc1 : BitVec 80 := 0
  stack : List Nat := []
  /-- PC of the instruction in issue; 2,048 stands for issue past the last instruction (R166). -/
  pc : Nat := 0
  /-- The edge from which each register can be read (R161), and the next free issue edge. -/
  ready : SMap Nat := []
  nextIssue : Nat := 0
  /-- The running handler, and the edge on which its instruction with E = 1 completes. -/
  handler : Option Handler := none
  ending : Option Nat := none
  /-- Events waiting, at most 8 (R171), and the edge from which the cell is idle. -/
  queue : List Waiting := []
  idleFrom : Nat := 0
  /-- Edges on which the restart handler starts, a pair's copy ends, its memory compare ends. -/
  startAt : Option Nat := none
  copyAt : Option Nat := none
  compareAt : Option Nat := none
  /-- Edges of the restarts and recoveries begun, newest first, at most 3 (R176). -/
  restarts : List Nat := []
  /-- Port writes not yet landed. -/
  writes : List PortWrite := []
  /-- The pair's store buffer: word addresses and values, oldest first (R178). -/
  stores : List (Nat × Word) := []
  /-- The pending map-store request. -/
  ms : Option MsReq := none
  /-- The two cells of the pair have taken different branches: their next compared output differs (R177). -/
  split : Bool := false
deriving DecidableEq, Repr

/-- Map-store read ports (R187): the requester granted last on each port (52: the service requester), and when. -/
structure MapPorts where
  last : SMap Nat := []
  grantAt : SMap Nat := []
deriving DecidableEq, Repr


/-- What the repair map records (R57): failed cells, the slice each group's spare has replaced, remapped flash sectors
and SRAM pages with the spare that serves each (keyed by unit × 4096 + spare), failed cores. Kept in the ledger. -/
structure Repairs where
  cells : NSet := []
  slices : SMap Nat := []
  sectors : SMap Nat := []
  pages : SMap Nat := []
  cores : NSet := []
deriving DecidableEq, Repr

/-- Memories (R343 to R358). -/
structure Mems where
  /-- Contents by physical byte address, without flipped bits. Flash and the ledger are kept under their fixed
  addresses; a byte that is not listed reads as `memDefault`. -/
  bytes : List Host.Cell := []
  /-- 64-bit words of bulk SRAM and of the map store whose init bit is 1, by address / 8 (R345). -/
  init : NSet := []
  /-- Flipped bits of a 32-bit word, by address / 4. -/
  flips : SMap Word := []
  /-- Edge on which INITBUSY clears. -/
  initDue : Nat := 0
  /-- Map-store pages waiting for correction and write-back, and the edge by which it is due (R192). -/
  corrections : List (Nat × Nat) := []
  /-- The pass in progress holds this ticket (R356). -/
  scrubTicket : Option Nat := none
deriving DecidableEq, Repr


/-- A PROGRAM or ERASE that a flash bank has accepted (R369 to R372). -/
structure FlashOp where
  erase : Bool
  /-- Offset of the page or sector. -/
  target : Nat
  ticket : Nat
  /-- Steps 1 to 5 of R370 or 1 and 2 of R371 have run. -/
  started : Bool := false
  /-- A SUSPEND waits for the erase to stop. -/
  stopping : Bool := false
deriving DecidableEq, Repr

/-- A flash bank beside its registers. -/
structure FlashBank where
  op : Option FlashOp := none
  /-- The page the page buffer holds (R362). -/
  buf : Option Nat := none
deriving DecidableEq, Repr

/-- A ledger command in progress (R383, R384): the slot written or read, its length and postmark, the landing edge and
how many of a commit's word writes are done. -/
structure LedgerOp where
  read : Bool
  set : Nat
  slot : Nat
  len : Nat
  pm : Nat
  start : Nat
  done : Nat := 0
deriving DecidableEq, Repr

/-- Code flash and ledger service. -/
structure Flash where
  banks : SMap FlashBank := []
  /-- Pages (16,384 per bank) whose program or erase was cut short: they are not blank (R377). -/
  torn : NSet := []
  ledger : Option LedgerOp := none
deriving DecidableEq, Repr


/-- The envelope a DMA channel works on, as read when it started, and how far it has come (R389 to R396). -/
structure Envelope where
  at' : Nat
  next : Nat
  src : Nat
  dst : Nat
  len : Nat
  ctrl : Word
  /-- Bytes moved, bytes confirmed, and the running check value at each point (R393, R396). -/
  moved : Nat := 0
  confirmed : Nat := 0
  check : Nat := 0
  checkConf : Nat := 0
  /-- Elements left of the request being served (R392). -/
  request : Nat := 0
  /-- Readbacks in flight: address, bytes they confirm, check value there (R394, R395). -/
  readbacks : List (Nat × Nat × Nat) := []
  /-- ECODE of an error response received (R399). -/
  err : Option Nat := none
deriving DecidableEq, Repr

/-- One DMA channel beside its registers. -/
structure DmaChan where
  env : Option Envelope := none
  /-- Address of the envelope to fetch next. -/
  fetch : Option Nat := none
  /-- CTRL of the previous envelope of the chain and the check value it left before the final XOR (R393). -/
  prev : Option (Word × Nat) := none
  /-- Edge of the last progress, and the edge on which the last chain ended (R398, R400). -/
  progress : Nat := 0
  endedAt : Option Nat := none
  /-- EN := 0 has landed and the envelope has still to end (R398). -/
  abort : Bool := false
deriving DecidableEq, Repr


/-- A maintenance activity granted or queued by the arbiter (R416, R417). -/
structure Ticket where
  ticket : Nat
  act : Nat
  res : Nat
deriving DecidableEq, Repr

/-- The maintenance arbiter (R417). -/
structure Arbiter where
  granted : List Ticket := []
  /-- Queued requests in arrival order, at most 16. -/
  queue : List Ticket := []
deriving DecidableEq, Repr

/-- One core's interrupt controller lines: MC_ICFG words by line (R277), and ROSE, the edge-triggered lines that have
risen since the commit edge (R334). -/
structure LineFile where
  icfg : SMap Word := []
  rose : NSet := []
deriving DecidableEq, Repr

/-- A service command that is running: OP and the outcome its end reports (R419). -/
structure Service where
  op : Nat
  code : Nat := 0
  detail : Nat := 0
deriving DecidableEq, Repr

/-- A live update in progress: image, the pairs named and those that have still to stop (R420). -/
structure LiveUpdate where
  image : Nat
  pairs : List Nat
  waiting : List Nat
deriving DecidableEq, Repr

/-- A pair's microcode patch: its ticket, the image, and whether the pair is armed (R319, R419). -/
structure PatchReq where
  pair : Nat
  ticket : Nat
  image : Nat
  armed : Bool := false
deriving DecidableEq, Repr

/-- Management state no register shows. -/
structure Manage where
  /-- Digests of the accepted MGFW, the accepted APP, the installed and the staged MCODE image; 0 = none (R415). -/
  mgfw : Nat := 0
  app : Nat := 0
  mcode : Nat := 0
  staged : Nat := 0
  /-- SVN of the running APP (R408). -/
  svn : Nat := 0
  svc : Option Service := none
  /-- Expiry of the PERMIT in force (R403). -/
  permit : Option Nat := none
  live : Option LiveUpdate := none
  patches : List PatchReq := []
  /-- BOOT[1:0] as sampled last (R410). -/
  bootPins : BitVec 2 := 0
  /-- RESETn is low (R12). -/
  resetLow : Bool := false
  /-- The ROM is in RECOVERY with no MGFW (R413). -/
  bare : Bool := false
deriving DecidableEq, Repr


/-- A change of operating point in progress (R428, R429). -/
structure OpChange where
  target : Nat
  /-- VID before the change, and the edge of the VID change. -/
  oldVid : Nat
  vidAt : Nat
  /-- FOP before the change. -/
  oldFop : Nat
deriving DecidableEq, Repr

/-- What the latches of pad hold keep (R437): PX_PINk words in force, levels of the home pads of PWMn at 2n and 2n + 1
(0 high impedance, 1 low, 2 high), HD and HINTn. -/
structure PadLatch where
  pins : SMap Word := []
  pwm : SMap Nat := []
  hd : Word := 0
  hint : Option Bool := none
deriving DecidableEq, Repr

/-- Power manager state no register shows. -/
structure Power where
  op : Option OpChange := none
  /-- Domains being powered, and the edge by which each is usable (R424). -/
  up : SMap Nat := []
  /-- TARGET of a sleep entry that has not reached E4 (R432). -/
  entry : Option Nat := none
  /-- A wake has begun (R434); a sampling wake runs (R435). -/
  waking : Bool := false
  sampling : Bool := false
  /-- The OFF state (R431). -/
  off : Bool := false
  latch : PadLatch := {}
deriving DecidableEq, Repr


/-- One general pin: its configuration up to `at'` and from then on (R447), and the same for the GPIO drive (R444). -/
structure Pad where
  old : Word := 0x1000
  at' : Nat := 0
  gpioOld : BitVec 2 := 0
  gpioAt : Nat := 0
deriving DecidableEq, Repr


/-- One direction of a letterbox: held messages, oldest first, with their postmarks (R451). -/
structure Ring where
  msgs : List (Nat × DWord) := []
deriving DecidableEq, Repr

/-- A host write in the posted queue (R460). -/
structure HostWrite where
  ha : Nat
  be : Nat
  data : Word
deriving DecidableEq, Repr

/-- Odoon host port beside its registers (R457 to R462). -/
structure HostPort where
  /-- The posted queue, oldest first, at most 64. -/
  queue : List HostWrite := []
  /-- HD as the last read drove it. -/
  hd : Word := 0
deriving DecidableEq, Repr

/-- One MAC: OFS in 2^-32 ns as of an edge, the low word of a TADJ step, the target times that have been reached, the
end of each target pulse, and the last timestamps (R468). -/
structure Mac where
  ofs : Int := 0
  at' : Nat := 0
  tadjLo : Word := 0
  reached : NSet := []
  pulse : SMap Nat := []
  rxStamp : Nat := 0
  txStamp : Nat := 0
deriving DecidableEq, Repr

/-- PCIe interface (R464 to R466, R472). -/
structure Pcie where
  up : Bool := false
  /-- Generation 1 to 3 and lanes 1 or 2 of a trained link. -/
  gen : Nat := 0
  lanes : Nat := 0
  d3hot : Bool := false
  perst : Bool := true
  /-- MSI-X vectors whose source is active, and how often each has been raised. -/
  active : NSet := []
  raised : SMap Nat := []
  /-- Data of the last inbound read's completion (R465). -/
  answer : Nat := 0
deriving DecidableEq, Repr


/-- The instructions of the test access port (R479). -/
inductive TapIr where
  | bypass | samplePreload | extest | idcode | dbgacc
deriving DecidableEq, Repr

/-- Test access port (R478, R479). -/
structure Tap where
  ir : TapIr := .idcode
  /-- The instruction register captured 0b0101: an EXTEST was refused. -/
  refused : Bool := false
  /-- Data register: the IDCODE word, the bypass bit or the pads sampled. -/
  dr : Nat := 0x19648A2B
  /-- Boundary-register contents shifted in, which EXTEST drives onto the pads. -/
  boundary : Nat := 0
deriving DecidableEq, Repr

/-- Test port state no register shows (R475 to R477). -/
structure TestPort where
  /-- Pairs whose next output is made a mismatch (R476). -/
  mismPair : NSet := []
  /-- Halted pairs that may retire one instruction or take one entry (R477). -/
  stepArm : NSet := []
  tap : Tap := {}
deriving DecidableEq, Repr


/-- A capability and its tag (R282, R283). -/
structure Cap where
  base : Word := 0
  length : Word := 0
  perms : BitVec 16 := 0
  otype : BitVec 16 := 0
  cursor : Word := 0
  tag : Bool := false
deriving DecidableEq, Repr

/-- Loop state and return register of one window slot (R237, R251). -/
structure WinSlot where
  lstart : Word := 0
  lend : Word := 0
  lctl : Word := 0
  link : Word := 0
deriving DecidableEq, Repr

/-- The state of a core that a checkpoint copies, the interrupt lines apart (R328). -/
structure Arch where
  pc : Nat := 0
  /-- cm1 to cm7. -/
  cm : SMap Word := []
  /-- The window slots: register i of slot k, inbox 0 to 7 and desk 8 to 15, at 16k + i (R237). -/
  win : SMap Word := []
  slots : SMap WinSlot := []
  /-- SLOT and DEPTH (R238), MC_WSP. -/
  slot : Nat := 0
  depth : Nat := 1
  wsp : Word := 0
  /-- c0 to c15 and MC_XSTK. -/
  caps : SMap Cap := []
  xstk : Cap := {}
  /-- MC_ISEL, MC_STATUS (with IPL), MC_XCAUSE, MC_XADDR, MC_XVT, MC_IVT. -/
  isel : Word := 0
  status : Word := 0
  xcause : Word := 0
  xaddr : Word := 0
  xvt : Word := 0
  ivt : Word := 0
deriving DecidableEq, Repr

/-- A store-buffer or hold-queue entry: up to 8 bytes within one aligned 8-byte word (R268, R330). -/
structure StoreEnt where
  addr : Nat
  n : Nat
  val : Nat
  /-- The tag the granule takes with this entry: the upper half of an SC. -/
  tag : Option Bool := none
  hold : Bool := false
  /-- The lower half of a split store, released together with the next entry (R351). -/
  joined : Bool := false
deriving DecidableEq, Repr

/-- An arithmetic exception that waits for its boundary (R303): number, further ones, instructions retired since. -/
structure Arith where
  num : Nat
  multi : Bool := false
  count : Nat := 0
deriving DecidableEq, Repr

/-- An undo-log entry: granule, its 16 bytes and its tag (R329). -/
structure Undo where
  granule : Nat
  data : Nat
  tag : Bool
deriving DecidableEq, Repr

/-- What a core does. -/
inductive CoreRun where
  /-- Not released. -/
  | off
  | run
  /-- In WFI (R281). -/
  | wait
  /-- Stopped by a mismatch; CORE_BIST waits or runs (R339). -/
  | stop
  /-- Rolling back, from step 3 of R334 on. -/
  | resume
  /-- Halted after a rescue outside LOCKSTEP (R338). -/
  | halt
  /-- Stopped at a checkpoint for a sleep entry or a live update (R420, R432). -/
  | hold
  /-- JOIN copies (R341). -/
  | join
  /-- Stalled at the retirement of CKPT for a patch install (R320). -/
  | patch
  /-- Waiting for the completion of a load through the PCIe window (R465). -/
  | load
deriving DecidableEq, Repr

/-- What an outbound load does with its data: a value of n bytes, signed or not, into d; a doubleword into d and d + 1; a
capability; an AMO with its number and operand. -/
inductive LoadUse where
  | value (n d : Nat) (signed : Bool)
  | pair (d : Nat)
  | cap (d : Nat)
  | amo (op d : Nat) (b : Word)
deriving DecidableEq, Repr

/-- An outbound load that waits (R465): effective address, capability register, use, edge of its issue, and instruction
word. -/
structure OutLoad where
  ea : Nat
  creg : Nat
  use : LoadUse
  at' : Nat
  word : Nat
deriving DecidableEq, Repr

/-- One Molpa core; a lockstep pair is held in its primary's record. -/
structure Core where
  arch : Arch := {}
  run : CoreRun := .off
  /-- The entry address the management firmware has set (R286). -/
  entry : Nat := 0
  arith : Option Arith := none
  /-- CKPT_DUE is raised and its exception not yet taken. -/
  due : Bool := false
  /-- Store buffer and hold queue, oldest first; hold entries being released (R268, R330, R332). -/
  sb : List StoreEnt := []
  hold : List StoreEnt := []
  release : Nat := 0
  /-- Store-buffer entries older than the checkpoint, released after the queue (R332). -/
  releaseSb : Nat := 0
  /-- Data-cache lines by address / 32: 32 bytes with the two granule tags above them; instruction-cache lines (R258, R272). -/
  dcache : SMap Nat := []
  icache : List Nat := []
  out : Option OutLoad := none
  /-- Edge on which a cache invalidation ends (R273). -/
  invDue : Option Nat := none
  /-- The current checkpoint slot (R328). -/
  ckpt : Option (Arch × LineFile) := none
  /-- Undo log, youngest first, and its overflow. -/
  undo : List Undo := []
  logOvf : Bool := false
  /-- Start of the interval (R333), and the edge on which CKPT_DUE was raised. -/
  timerAt : Nat := 0
  dueAt : Option Nat := none
  /-- Edge on which a rollback ends (R334). -/
  resumeAt : Nat := 0
  /-- Installed patch: microwords 0 to 255, nano-word quarters 256 to 767, match registers 768 to 799 (R311, R320). -/
  patch : SMap Word := []
deriving DecidableEq, Repr

/-- A pair of cores. -/
structure Pair where
  /-- Edges of the mismatches that count towards persistence, newest first (R339). -/
  mism : List Nat := []
  /-- Ticket of CORE_BIST, whether the test runs, and since when. -/
  bist : Option Nat := none
  bistRun : Bool := false
  bistAt : Nat := 0
  /-- Edge on which a JOIN's copy ends (R341). -/
  joinAt : Nat := 0
  /-- The general register that receives JOIN's d. -/
  joinD : Nat := 0
deriving DecidableEq, Repr

/-- The whole machine. -/
structure State where
  /-- Memory-mapped registers by address; an unlisted one reads as its reset value. -/
  regs : SMap Word := []
  /-- Clocks and DEVTIME. -/
  clk : Clock := {}
  /-- Converters and sequencers. -/
  conv : Conv := {}
  /-- Sorting office. -/
  so : Sorting := {}
  /-- Trace port. -/
  trace : Trace := {}
  /-- Comparators. -/
  cmps : SMap Cmp := []
  /-- PWM generators. -/
  pwms : SMap Pwm := []
  /-- Levels of FLT0 to FLT23 as last reported, bit 1 = high (R220). -/
  flt : BitVec 24 := 0
  /-- Ownership entries whose switch edge is set by a period start, and the landing edge of each entry's SO_MIGGO. -/
  switchAt : SMap Nat := []
  pendFrom : SMap Nat := []
  /-- Position interfaces. -/
  pis : SMap Pos := []
  /-- Loop cells. -/
  cells : SMap LoopCell := []
  /-- Map-store read ports. -/
  ports : MapPorts := {}
  /-- Even cells whose pair's next compared output is made a mismatch (R476). -/
  mismCell : NSet := []
  /-- Memories. -/
  mem : Mems := {}
  /-- Repair map. -/
  repairs : Repairs := {}
  /-- Code flash and ledger service. -/
  flash : Flash := {}
  /-- DMA channels. -/
  dmas : SMap DmaChan := []
  /-- Management plane. -/
  mg : Manage := {}
  /-- Maintenance arbiter. -/
  arb : Arbiter := {}
  /-- Interrupt lines that are high now (R277). -/
  lines : NSet := []
  /-- MC_ICFG of each core, by core. -/
  icfg : SMap LineFile := []
  /-- Power manager. -/
  power : Power := {}
  /-- General pins that are changing their configuration. -/
  pads : SMap Pad := []
  /-- Levels of the pin-interrupt lines that have taken their reference (R450). -/
  pintLevel : SMap (Option Bool) := []
  /-- Letterbox rings: AB of letterbox k at 2k, BA at 2k + 1. -/
  rings : SMap Ring := []
  /-- Host port: queued window writes and their error record. -/
  hp : HostPort := {}
  /-- Ethernet MACs. -/
  macs : SMap Mac := []
  /-- PCI Express function. -/
  pcie : Pcie := {}
  /-- DEVTIME of the last frame each CAN controller received (R470). -/
  canStamp : SMap Nat := []
  /-- Test port. -/
  tp : TestPort := {}
  /-- Molpa cores MC0 to MC3 and their pairs. -/
  cores : SMap Core := []
  pairs : SMap Pair := []
  /-- Granules (address / 16) of SRAM and the TCMs whose tag is 1 (R284). -/
  tags : NSet := []
  /-- Commands waiting, first in, first out (the model's own). -/
  pending : List Instr := []
  /-- Counter that indexes the free values (the model's own). -/
  free : Nat := 0
deriving DecidableEq, Repr

/-- Why the machine stops with a fault. -/
inductive Fault where
  /-- No command raises it: every stop of the spec is a refused command with a reason code, a decode error or an
  exception, which are next states. Safe. -/
  | none
deriving DecidableEq, Repr

/-- Why a command has no next state. -/
inductive Refusal where
  /-- Raised by Dispatch for a command without a meaning yet. Safe. -/
  | notModelled (mnemonic : String)
deriving DecidableEq, Repr

/-- The machine right after a cold reset (R12): every register at its reset value and every queue empty. -/
def State.reset : State := {}

end Sys2Proof.Machine
end

