-- ==== Sys2Proof/Machine/Ops.lean ====
section
/-! DEFINITION. The operations every unit shares: bit fields, register access, configuration checks (R14 to R18, R502),
time, power domains, event raising (R141 to R146), interrupt lines (R277) and trace (R480). -/

namespace Sys2Proof.Machine

/-- The answer of a command. -/
abbrev Result := Host.Outcome State Fault Refusal

/-! Bit fields. -/

/-- Bits [hi:lo] of a word as a number. -/
def fieldOf (w : Word) (hi lo : Nat) : Nat := w.toNat / 2 ^ lo % 2 ^ (hi + 1 - lo)

/-- The word with bits [hi:lo] replaced by `v`, cut to the field's width. -/
def withField (w : Word) (hi lo v : Nat) : Word :=
  BitVec.ofNat 32 (w.toNat - fieldOf w hi lo * 2 ^ lo + v % 2 ^ (hi + 1 - lo) * 2 ^ lo)

/-- Bit `i` of a word. -/
def bitOf (w : Word) (i : Nat) : Bool := fieldOf w i i == 1

/-- 1 for true. -/
def bit (b : Bool) : Nat := if b then 1 else 0

/-- The number `v` of `w` bits read as two's complement. -/
def signedOf (w v : Nat) : Int := if v < 2 ^ (w - 1) then (v : Int) else (v : Int) - (2 ^ w : Nat)

/-- An integer as the unsigned number of `w` bits. -/
def toBits (w : Nat) (z : Int) : Nat := (z % (2 ^ w : Nat)).toNat

/-- floor(num/den + 1/2), the rounding of R501 (den > 0). -/
def roundDiv (num : Int) (den : Nat) : Int := (2 * num + den) / (2 * (den : Int))

/-- Clip to a range. -/
def clipInt (lo hi z : Int) : Int := if z < lo then lo else if hi < z then hi else z

/-! Registers. -/

/-- What the register at address `a` holds. -/
def State.reg (s : State) (a : Nat) : Word := mapGet (regReset a) s.regs a

/-- Write the register at `a`; the one place a register changes. -/
def State.setReg (s : State) (a : Nat) (v : Word) : State :=
  { s with regs := mapSet (regReset a) s.regs a v }

/-- Field [hi:lo] of the register at `a`. -/
def State.fld (s : State) (a hi lo : Nat) : Nat := fieldOf (s.reg a) hi lo

/-- Write field [hi:lo] of the register at `a`. -/
def State.setFld (s : State) (a hi lo v : Nat) : State := s.setReg a (withField (s.reg a) hi lo v)

/-- Bit `i` of the register at `a`. -/
def State.flag (s : State) (a i : Nat) : Bool := bitOf (s.reg a) i

/-- Write bit `i` of the register at `a`. -/
def State.setFlag (s : State) (a i : Nat) (b : Bool) : State := s.setFld a i i (bit b)

/-- Advance a counter field by one, saturating at its width. -/
def State.satInc (s : State) (a hi lo : Nat) : State :=
  s.setFld a hi lo (min (s.fld a hi lo + 1) (2 ^ (hi + 1 - lo) - 1))

/-- Advance a counter field by `n`, saturating. -/
def State.satAdd (s : State) (a hi lo n : Nat) : State :=
  s.setFld a hi lo (min (s.fld a hi lo + n) (2 ^ (hi + 1 - lo) - 1))

/-- Advance a counter field by one, modulo its width. -/
def State.modInc (s : State) (a hi lo : Nat) : State := s.setFld a hi lo (s.fld a hi lo + 1)

/-- A fresh free value index: the state with its counter advanced. -/
def State.tick (s : State) : State := { s with free := s.free + 1 }

/-! Configuration checks. -/

/-- One failed check: reason code, field index and detail (R15). -/
structure CfgFail where
  code : Nat
  field : Nat
  detail : Nat := 0
deriving DecidableEq, Repr

/-- R16: `a` is reported before `b`. Codes below 0x10 are the common codes. -/
def CfgFail.before (a b : CfgFail) : Bool :=
  if a.code < 0x10 ∧ b.code < 0x10 then
    decide (a.code < b.code) || (a.code == b.code && decide (a.field < b.field))
  else if a.code < 0x10 then true
  else if b.code < 0x10 then false
  else decide (a.field < b.field) || (a.field == b.field && decide (a.code < b.code))

/-- The failure R16 chooses. -/
def pickFail : List CfgFail → Option CfgFail
  | [] => none
  | f :: fs =>
    match pickFail fs with
    | none => some f
    | some g => if g.before f then some g else some f

/-- A CFGCHK word (R15). -/
def cfgWord (f : CfgFail) : Word := BitVec.ofNat 32 (65536 * (f.detail % 65536) + f.field % 256 * 256 + f.code % 256)

/-- Report a failure in the CFGCHK at `a`. -/
def State.cfgFail (s : State) (a : Nat) (f : CfgFail) : State := s.setReg a (cfgWord f)

/-- Report an accepted check in the CFGCHK at `a`. -/
def State.cfgOk (s : State) (a : Nat) : State := s.setReg a 0

/-- The failures of conditions that are listed with the condition first. -/
def failIf (c : Bool) (code field : Nat) (detail : Nat := 0) : List CfgFail := if c then [⟨code, field, detail⟩] else []

/-! Storing a register write by its field table (R9, R17). -/

/-- A field's new content, and whether a static field was discarded. -/
def storeField (locked : Bool) (f : RegField) (old new : Word) : Word × Bool :=
  let o := fieldOf old f.hi f.lo
  let n := fieldOf new f.hi f.lo
  match f.acc with
  | .rw =>
    if locked && f.static then (old, o != n) else (withField old f.hi f.lo n, false)
  | .w1c => (withField old f.hi f.lo (o - (o &&& n)), false)
  | .w1s => (withField old f.hi f.lo (o ||| n), false)
  | .ro | .wo | .wc => (old, false)

/-- Store a write field by field; the second part is the lowest index of a discarded static field. -/
def storeFields (locked : Bool) : List RegField → Word → Word → Word × Option Nat
  | [], old, _ => (old, none)
  | f :: fs, old, new =>
    let (w, bad) := storeField locked f old new
    let (w', r) := storeFields locked fs w new
    (w', if bad then (match r with | none => some f.idx | some i => some (min i f.idx)) else r)

/-- Store a write to the register at `a` by its field table; a discarded static field is reported with FIELD_LOCKED
in the CFGCHK at `chk`, with the given detail (R17). -/
def State.store (s : State) (a chk : Nat) (locked : Bool) (v : Word) (detail : Nat := 0) : State :=
  match regAt a with
  | none => s
  | some d =>
    let (w, bad) := storeFields locked d.fields (s.reg a) v
    let s := s.setReg a w
    match bad with
    | none => s
    | some i => s.cfgFail chk ⟨0x0A, i, detail⟩

/-- A write to the register of a unit that holds its EN bit (R14, R17). `fails` judges the configuration as the write
leaves it; `onEnable`, `onDisable` and `onLive` are the unit's own effects of EN 0 to 1, 1 to 0, and of a write with EN
kept 1; `detail` is DETAIL of a FIELD_LOCKED report. -/
def State.unitWrite (s : State) (a chk en : Nat) (v : Word) (fails : State → List CfgFail)
    (onEnable onDisable onLive : State → State) (detail : Nat := 0) : State :=
  if s.flag a en then
    let s := s.store a chk true v detail
    if bitOf v en then onLive s else onDisable s
  else if bitOf v en then
    let s := s.store a chk false (withField v en en 0)
    match pickFail (fails s) with
    | none => onEnable ((s.setFlag a en true).cfgOk chk)
    | some f => s.cfgFail chk f
  else s.store a chk false v

/-- DETAIL of DEPENDENCY_OFF: bits [19:4] of a block's base address (R18). -/
def depDetail (base : Nat) : Nat := base / 16 % 65536

/-! Time. -/

/-- DEVTIME as a number: the CLK_LOOP edge now (R41). -/
def State.now (s : State) : Nat := s.clk.devtime.toNat

/-- The trace port sends one packet each 10 ns, on the CLK_MGMT edges (R480). -/
def traceDrain (t : Trace) (n : Nat) : Trace := { t with fifo := t.fifo.drop n }

/-- Let time pass up to edge `e`, if it lies ahead. -/
def State.advanceTo (s : State) (e : Nat) : State :=
  if s.now < e then
    { s with clk := { s.clk with devtime := BitVec.ofNat 64 e }, trace := traceDrain s.trace (e / 4 - s.now / 4) }
  else s

/-! Phases and power domains. -/

/-- MG_PHASE.PHASE (R403): 0 COLD, 1 BOOT, 2 RUN, 3 TEST, 4 RECOVERY. -/
def State.phase (s : State) : Nat := s.fld Reg.MG_PHASE 2 0

/-- Power domain `d` is usable (R423, R424). -/
def State.domOn (s : State) (d : Nat) : Bool :=
  if d < 32 then s.flag Reg.PM_DOMSTAT0 d else s.flag Reg.PM_DOMSTAT1 (d - 32)

/-- The domain of a PWM generator: PG0 to PG5, 16 generators each. -/
def domPwm (n : Nat) : Nat := 0x11 + n / 16

/-- The domain of a comparator: CB0 and CB1, 48 comparators each. -/
def domCmp (n : Nat) : Nat := 0x17 + n / 48

/-- The domain of a converter slice; spares 64 to 67 lie in their group. -/
def domSlice (n : Nat) : Nat := 0x19 + (if n < 64 then n / 16 else n - 64)

/-- The domain of a loop cell's quad. -/
def domCell (n : Nat) : Nat := 0x20 + n / 4

/-- The domain of the sorting office, the sequencers and the map-store control registers. -/
def domSo : Nat := 0x10

/-- The domain of the position interfaces. -/
def domPi : Nat := 0x1D

/-- A control-plane unit in domain `d` runs: its domain is usable and the PLL clocks run. -/
def State.unitOn (s : State) (d : Nat) : Bool := s.domOn d && s.clk.run

/-- A unit's own write in domain `d`: a gated domain or stopped clock refuses an enabling write with DOMAIN_OFF or
CLOCK_OFF in the unit's CFGCHK at `chk`, and stores nothing (R18, R217, R426). -/
def State.whenOn (s : State) (d chk : Nat) (f : State → State) : State :=
  if !s.domOn d then s.cfgFail chk ⟨0x02, 0xFF, d⟩
  else if !s.clk.run then s.cfgFail chk ⟨0x03, 0xFF, 2⟩
  else f s

/-! Trace packets. -/

/-- Queue a packet; a full FIFO drops it and the next packet sent is an overflow packet (R480). -/
def State.tracePush (s : State) (w : Word) : State :=
  if s.trace.fifo.length < 64 then
    if s.trace.lost = 0 then { s with trace := { s.trace with fifo := s.trace.fifo ++ [w] } }
    else if s.trace.fifo.length < 63 then
      { s with trace := { fifo := s.trace.fifo ++ [BitVec.ofNat 32 (min s.trace.lost (2 ^ 30 - 1) * 4 + 3), w], lost := 0 } }
    else
      { s with trace := { fifo := s.trace.fifo ++ [BitVec.ofNat 32 (min (s.trace.lost + 1) (2 ^ 30 - 1) * 4 + 3)], lost := 0 } }
  else ({ s with trace := { s.trace with lost := s.trace.lost + 1 } }).setFlag Reg.TP_STAT 3 true

/-- Trace is on for source `src` of TP_TRACE.SRC. -/
def State.traceOn (s : State) (src : Nat) : Bool := s.flag Reg.TP_TRACE 31 && s.fld Reg.TP_TRACE 3 0 == src

/-! Interrupt lines. -/

/-- A line rises: PEND of each core whose line is enabled and edge-triggered (R277), and ROSE (R334). -/
def lineEdge (l : Nat) (f : LineFile) : LineFile :=
  let w := mapGet 0 f.icfg l
  if bitOf w 31 && bitOf w 8 then
    { icfg := mapSet 0 f.icfg l (withField w 0 0 1), rose := nsetAdd f.rose l (l + 1) }
  else f

/-- The four cores' controllers after line `l` rises. -/
def riseAll (m : SMap LineFile) (l : Nat) : SMap LineFile :=
  [0, 1, 2, 3].foldl (fun m c => mapSet {} m c (lineEdge l (mapGet {} m c))) m

/-- A line is pulsed: it rises on all four cores and falls again. -/
def State.pulseLine (s : State) (l : Nat) : State := { s with icfg := riseAll s.icfg l }

/-- A line takes a level; a rise acts as an edge. -/
def State.setLine (s : State) (l : Nat) (high : Bool) : State :=
  if high then
    if nsetHas s.lines l then s
    else { s with lines := nsetAdd s.lines l (l + 1), icfg := riseAll s.icfg l }
  else { s with lines := nsetDel s.lines l (l + 1) }

/-! Events. -/

/-- Valid destinations of the routing entry of source `src` (R143). -/
def State.routeDests (s : State) (src : Nat) : List Nat :=
  let a := s.reg (Reg.SO_RT_DA src)
  let b := s.reg (Reg.SO_RT_DB src)
  (if bitOf a 15 then [fieldOf a 8 0] else []) ++ (if bitOf a 31 then [fieldOf a 24 16] else []) ++
  (if bitOf b 15 then [fieldOf b 8 0] else []) ++ (if bitOf b 31 then [fieldOf b 24 16] else [])

/-- Extra delivery delay of a TP_SODLY perturbation (R475). -/
def State.soDelay (s : State) (src : Nat) : Nat :=
  let w := s.reg Reg.TP_SODLY
  if bitOf w 31 && (bitOf w 30 || fieldOf w 10 0 == src) then fieldOf w 19 16 else 0

/-- EVENT_FORWARD and EVENT_DROP: source `src` is raised on edge `e` with fraction `f` (R141, R143 to R146). An entry
that fails its check, or routing that is off, forwards nothing. -/
def State.raiseAt (s : State) (src e f : Nat) : State :=
  if !(s.unitOn domSo && s.flag Reg.SO_CTRL 0) || nsetHas s.so.rtFail src then s
  else
    let n := s.fld (Reg.SO_RT_CFG src) 15 8 + 1
    let delay := s.fld (Reg.SO_RT_CFG src) 7 0
    let dcnt := s.fld (Reg.SO_RT_STAT src) 15 8
    let s := s.setFld (Reg.SO_RT_STAT src) 15 8 ((dcnt + 1) % n)
    if dcnt ≠ 0 then s
    else if delay ≠ 0 ∧ 8 ≤ s.fld (Reg.SO_RT_STAT src) 3 0 then
      (s.setFlag Reg.SO_STAT 3 true).setFld Reg.SO_STAT 22 12 src
    else
      let s := if delay ≠ 0 then s.modInc (Reg.SO_RT_STAT src) 3 0 else s
      let fl : Flight := ⟨src, e + 2 + delay + s.soDelay src, (e + delay) * 128 + f, s.routeDests src, delay != 0⟩
      { s with so := { s.so with flights := s.so.flights ++ [fl] } }

/-- An event raised on the edge now, with f = 0. -/
def State.raiseNow (s : State) (src : Nat) : State := s.raiseAt src s.now 0

end Sys2Proof.Machine
end

