-- ==== Sys2Proof/Machine/Arbiter.lean ====
section
/-! DEFINITION. The maintenance arbiter (R416 to R418): conflicts, answers, grants and releases. -/

namespace Sys2Proof.Machine

/-- The arbiter's answer to a request (R417). `silent`: no request is answered in COLD. -/
inductive ArbAnswer where
  | accepted (ticket : Nat)
  | queued (ticket : Nat)
  | refused (reason conf : Nat)
  | silent
deriving DecidableEq, Repr

/-- Does a held activity conflict with a requested one, and is the answer then QUEUED (`some true`) or REFUSED
(`some false`)? R418, both directions of each row. -/
def arbConflict (heldAct heldRes act res : Nat) : Option Bool :=
  let pairOf (a r : Nat) : Nat := if a == 1 then (r - 9) / 2 else r
  if (heldAct == 2 && act == 3 || heldAct == 3 && act == 2) && heldRes == res then some true
  else if (heldAct == 1 && decide (9 ≤ heldRes) && act == 9 || heldAct == 9 && act == 1 && decide (9 ≤ res)) &&
      pairOf heldAct heldRes == pairOf act res then some true
  else if ((heldAct == 5 || heldAct == 6) && act == 7) || (heldAct == 7 && (act == 5 || act == 6)) then some true
  else if heldAct == 8 && act == 8 then some true
  else if (heldAct == 8 && act == 9 || heldAct == 9 && act == 8) && heldRes == res then some true
  else if heldAct == 10 && act == 10 then some false
  else none

/-- The spare of a group is free: no calibration step runs and no spare is still connected (R91, R418). -/
def State.spareFree (s : State) (g : Nat) : Bool :=
  let gr := mapGet {} s.conv.groups g
  gr.calStart == none && gr.spareHeld == none && gr.subst == none

/-- A held activity stands in the way of a request now. A CAL whose spare is free lets a TESTDAC of its group in: the
rotation is then paused (R418). -/
def State.arbBlocks (s : State) (h : Ticket) (act res : Nat) : Option Bool :=
  if h.act == 2 && act == 3 && h.res == res && s.spareFree res then none else arbConflict h.act h.res act res

/-- A map-store table swap is in progress: a valid descriptor is armed (R418). DEDUCED, unsafe; log entry 5. -/
def State.swapInProgress (s : State) : Bool :=
  (List.range 64).any fun k => s.flag (Reg.MS_TD_SHAPE k) 31 && s.flag (Reg.MS_TD_SHAPE k) 30

/-- MG_MHELD follows the arbiter (R417). -/
def State.arbSync (s : State) : State :=
  let held := (List.range 10).foldl (fun w i => if s.arb.granted.any (fun t => t.act == i + 1) then w + 2 ^ (i + 1) else w) 0
  s.setReg Reg.MG_MHELD (BitVec.ofNat 32 (2 ^ 24 * s.arb.queue.length + held))

/-- A ticket 1 to 255 that no activity holds; the spec does not say which (DESIGN CHOICE, safe; log entry 6). -/
def State.newTicket (s : State) : Nat :=
  let used := (s.arb.granted ++ s.arb.queue).map (·.ticket)
  let start := Config.ticket s.free
  ((List.range 255).map (fun i => (start + i) % 255 + 1)).find? (fun t => !used.contains t) |>.getD 1

/-- MG_MANS reports an answer: ANS, TICKET, CONFACT, REASON. -/
def mansWord (ans ticket conf reason : Nat) : Word :=
  BitVec.ofNat 32 (2 ^ 30 * ans + 2 ^ 16 * ticket + conf * 2 ^ 8 + reason)

/-- A request of activity `act` on resource `res` (R417, R418). -/
def State.arbRequest (s : State) (act res : Nat) : ArbAnswer × State :=
  if s.phase = 0 then (.silent, s)
  else
    let blocking := s.arb.granted.filterMap fun h => (s.arbBlocks h act res).map fun q => (h.act, q)
    match blocking.find? (fun p => !p.2) with
    | some (a, _) => (.refused 0x06 a, s.setReg Reg.MG_MANS (mansWord 3 0 a 0x06))
    | none =>
      if act == 1 && res == 8 && s.swapInProgress then
        (.refused 0x06 0, s.setReg Reg.MG_MANS (mansWord 3 0 0 0x06))
      else
        let t := s.newTicket
        match blocking with
        | [] =>
          let s := State.tick { s with arb := { s.arb with granted := s.arb.granted ++ [Ticket.mk t act res] } }
          (.accepted t, s.arbSync.setReg Reg.MG_MANS (mansWord 1 t 0 0))
        | (a, _) :: _ =>
          if 16 ≤ s.arb.queue.length then
            (.refused 0xD0 a, s.setReg Reg.MG_MANS (mansWord 3 0 a 0xD0))
          else
            let s := State.tick { s with arb := { s.arb with queue := s.arb.queue ++ [Ticket.mk t act res] } }
            (.queued t, s.arbSync.setReg Reg.MG_MANS (mansWord 2 t 0 0))

/-- Release the activity of a ticket, granted or queued. -/
def State.arbRelease (s : State) (t : Nat) : State :=
  State.arbSync { s with arb := { granted := s.arb.granted.filter (·.ticket != t), queue := s.arb.queue.filter (·.ticket != t) } }

/-- Activity `act` of `res` is granted. -/
def State.arbHeld (s : State) (act res : Nat) : Bool := s.arb.granted.any fun t => t.act == act && t.res == res

/-- The first queued request that nothing granted blocks, in arrival order (R417). -/
def State.arbReady (s : State) : Option Ticket :=
  s.arb.queue.find? fun q => s.arb.granted.all fun h => (s.arbBlocks h q.act q.res).isNone

end Sys2Proof.Machine
end

