-- ==== Sys2Proof/Machine/Converters.lean ====
section
/-! DEFINITION. Charge-balancing converters, sequencers, the mains tracker, calibration and the diagnostic DAC
(R60 to R96). -/

namespace Sys2Proof.Machine

/-! Accessors. -/

/-- Slice record n (spares at 64 + g). -/
def State.slice (s : State) (n : Nat) : Slice := mapGet {} s.conv.slices n

/-- Replace slice record n. -/
def State.setSlice (s : State) (n : Nat) (r : Slice) : State :=
  { s with conv := { s.conv with slices := mapSet {} s.conv.slices n r } }

/-- Group record g. -/
def State.group (s : State) (g : Nat) : Group := mapGet {} s.conv.groups g

/-- Replace group record g. -/
def State.setGroup (s : State) (g : Nat) (r : Group) : State :=
  { s with conv := { s.conv with groups := mapSet {} s.conv.groups g r } }

/-- A slice's EN. -/
def State.sliceEn (s : State) (n : Nat) : Bool := s.flag (Reg.CS_CTRL n) 0

/-- D of CSn_CTRL.DEC: 8, 16 or 32. -/
def State.sliceDec (s : State) (n : Nat) : Nat := 8 * 2 ^ s.fld (Reg.CS_CTRL n) 2 1

/-- A precision slice (R60). -/
def isPrecision (n : Nat) : Bool := decide (n < 64) && decide (n % 16 < 2)

/-- CORREN in force: only precision slices apply it (R78, R79). -/
def State.corrected (s : State) (n : Nat) : Bool := isPrecision n && s.flag (Reg.CS_CTRL n) 4

/-- OFS of a slice, integrating LSB, and GAIN in Q2.22 (R78). -/
def State.sliceOfs (s : State) (n : Nat) : Int := signedOf 24 (s.fld (Reg.CS_CALOFS n) 23 0)
def State.sliceGain (s : State) (n : Nat) : Nat := s.fld (Reg.CS_CALGAIN n) 23 0

/-- Extra cycles of TP_CSDLY for a slice (R475). -/
def State.csDelay (s : State) (n : Nat) : Nat :=
  if s.flag Reg.TP_CSDLY 31 && s.fld Reg.TP_CSDLY 13 8 == n then s.fld Reg.TP_CSDLY 7 0 else 0

/-- Entry 32n + k: its register, its fields, whether its sequencer runs it. -/
def entReg (e : Nat) : Nat := Reg.SQ_ENT (e / 32) (e % 32)
def State.entOn (s : State) (e : Nat) : Bool := s.flag (Reg.SQ_CTRL (e / 32)) 0 && s.flag (entReg e) 31

/-- All entries of all sequencers. -/
def allEntries : List Nat := List.range 512

/-- MISS of an entry's sequencer advances (R89). -/
def State.miss (s : State) (e : Nat) : State := s.satInc (Reg.SQ_STAT (e / 32)) 7 0

/-! The ring and the filters. -/

/-- New codes enter the ring, oldest first; it keeps the newest 256 (R64). -/
def State.feedRing (s : State) (n : Nat) (codes : List (BitVec 4)) : State :=
  let r := s.slice n
  s.setSlice n { r with ring := (codes.reverse ++ r.ring).take 256, ringAt := r.ringAt + codes.length }

/-- The level m of the sample taken after edge `e`: from the ring, or the part's own where no command supplied it. -/
def State.level (s : State) (n e : Nat) : Int :=
  let r := s.slice n
  let k := if e ≤ r.ringAt then (r.ring[r.ringAt - e]?).getD (Config.modCode n e) else Config.modCode n e
  2 * (k.toNat : Int) - 15

/-- Sum of `d` copies of a coefficient list shifted by 0 to d - 1: one factor 1 + z^-1 + ... + z^-(D-1). -/
def boxFilter (d : Nat) (c : List Nat) : List Nat :=
  (List.range (c.length + d - 1)).map fun i => ((c.take (i + 1)).drop (i + 1 - d)).foldl (· + ·) 0

/-- The sinc3 weights w(j), j = 0 to 3D - 3 (R66). -/
def sincWeights (d : Nat) : List Nat := boxFilter d (boxFilter d (boxFilter d [1]))

/-- The raw fast value of slice n centred on edge c (R66), before correction and clipping. -/
def State.fastRaw (s : State) (n c d : Nat) : Int :=
  let sum := ((sincWeights d).zipIdx).foldl
    (fun (acc : Int) p => acc + (p.1 : Int) * s.level n (c + p.2 + 1 - d * 3 / 2)) 0
  roundDiv (32768 * sum) (15 * d ^ 3)

/-- corrected := (raw - round(OFS / 256)) * GAIN / 2^22, rounded (R78). -/
def correctFast (ofs : Int) (gain : Nat) (raw : Int) : Int := roundDiv ((raw - roundDiv ofs 256) * gain) (2 ^ 22)

/-- corrected := (raw - OFS) * GAIN / 2^22, rounded (R78). -/
def correctInt (ofs : Int) (gain : Nat) (raw : Int) : Int := roundDiv ((raw - ofs) * gain) (2 ^ 22)

/-- The spare supplies slice n at edge c: now, in the substitution that ended last, or for good (R91, R94). -/
def State.substAt (s : State) (n c : Nat) : Bool :=
  let g := s.group (n / 16)
  s.flag (Reg.CS_STAT n) 4 ||
  (match g.subst with | some (j, a) => j == n % 16 && decide (a ≤ c) | none => false) ||
  (match g.substPast with | some (j, a, b) => j == n % 16 && decide (a ≤ c) && decide (c < b) | none => false)

/-- The fast value of slice n centred on c with decimation d: the spare's ring with the fitted correction while it
substitutes, then the slice's own correction, then the clip. The second part says that it was clipped (R66, R78, R91). -/
def State.fastValueAt (s : State) (n c d : Nat) : Int × Bool :=
  let g := s.group (n / 16)
  let raw :=
    if s.substAt n c then correctFast g.fitOfs g.fitGain (s.fastRaw (64 + n / 16) c d) else s.fastRaw n c d
  let x := if s.corrected n then correctFast (s.sliceOfs n) (s.sliceGain n) raw else raw
  let y := clipInt (-32768) 32767 x
  (y, x != y)

/-- The fast value of slice n centred on c. -/
def State.fastValue (s : State) (n c : Nat) : Int × Bool := s.fastValueAt n c (s.sliceDec n)

/-- When the fast result centred on c is written: c + 1.5 D + 2 (R67), later by TP_CSDLY. -/
def State.fastDue (s : State) (n c : Nat) : Nat := c + s.sliceDec n * 3 / 2 + 2 + s.csDelay n

/-! Window comparator (R80 to R82). -/

/-- WINDOW_COMPARATOR_EVALUATE: one fast value; the second part is true on the exit result. -/
def State.winEval (s : State) (n : Nat) (v : Int) : State × Bool :=
  if !s.flag (Reg.CS_CTRL n) 3 then (s, false)
  else
    let r := s.slice n
    let hi := signedOf 16 (s.fld (Reg.CS_WIN n) 31 16)
    let lo := signedOf 16 (s.fld (Reg.CS_WIN n) 15 0)
    let deb := s.fld (Reg.CS_WINCFG n) 11 8
    let hyst : Int := s.fld (Reg.CS_WINCFG n) 7 0
    if !s.flag (Reg.CS_STAT n) 2 then
      if v < lo ∨ hi < v then
        if deb + 1 ≤ r.exitCnt + 1 then
          ((s.setSlice n { r with exitCnt := 0, retCnt := 0 }).setFlag (Reg.CS_STAT n) 2 true, true)
        else (s.setSlice n { r with exitCnt := r.exitCnt + 1 }, false)
      else (s.setSlice n { r with exitCnt := 0 }, false)
    else if lo + hyst ≤ v ∧ v ≤ hi - hyst then
      if deb + 1 ≤ r.retCnt + 1 then
        ((s.setSlice n { r with exitCnt := 0, retCnt := 0 }).setFlag (Reg.CS_STAT n) 2 false, false)
      else (s.setSlice n { r with retCnt := r.retCnt + 1 }, false)
    else (s.setSlice n { r with retCnt := 0 }, false)

/-- WINEN written 0: state IN, counts 0 (R82). -/
def State.winOff (s : State) (n : Nat) : State :=
  (s.setSlice n { s.slice n with exitCnt := 0, retCnt := 0 }).setFlag (Reg.CS_STAT n) 2 false

/-! Result words (R86). -/

/-- A new result word replaces the entry's result register, with its TAG advanced. -/
def State.putResult (s : State) (e : Nat) (subst range win : Bool) (value : Int) : State :=
  let a := Reg.SQ_RES (e / 32) (e % 32)
  let tag := (s.fld a 31 28 + 1) % 16
  s.setReg a (BitVec.ofNat 32 (2 ^ 28 * tag + 2 ^ 27 * bit subst + 2 ^ 26 * bit range + 2 ^ 25 * bit win +
    toBits 24 value))

/-- Write one entry's fast result and raise its event by EVSEL (R81, R83). A stopped sequencer writes nothing (R89). -/
def State.putFast (s : State) (e : Nat) (subst range exit : Bool) (n : Nat) (v : Int) : State :=
  if s.flag (Reg.SQ_CTRL (e / 32)) 0 then
    let s := s.putResult e subst range (s.flag (Reg.CS_STAT n) 2) v
    let ev := s.fld (entReg e) 18 17
    if ev = 0 ∨ (ev = 1 ∧ exit) then s.raiseNow (0x300 + e) else s
  else s

/-- SQn_TRGSTAMP takes the centre and displacement of the highest entry written on this edge (R88). -/
def State.putStamp (s : State) (c : Nat) (v : Serve) : State :=
  let q := v.ent / 32
  if s.flag (Reg.SQ_CTRL q) 0 then
    let last := mapGet (0, 0) s.conv.stampAt q
    if last.1 = s.now ∧ v.ent % 32 < last.2 then s
    else
      let s := { s with conv := { s.conv with stampAt := mapSet (0, 0) s.conv.stampAt q (s.now, v.ent % 32) } }
      s.setReg (Reg.SQ_TRGSTAMP q) (BitVec.ofNat 32 (2 ^ 24 * toBits 8 v.resid + c % 2 ^ 24))
  else s

/-- The engine that is due first. -/
def firstDue : List Engine → Option Engine
  | [] => none
  | x :: xs =>
    match firstDue xs with
    | none => some x
    | some y => if y.centre < x.centre then some y else some x

/-- The last serve of each entry, in the order of delivery (R88). -/
def lastServes : List Serve → List Serve
  | [] => []
  | v :: vs => if vs.any (fun u => u.ent == v.ent) then lastServes vs else v :: lastServes vs

/-- FAST_RESULT_WRITE (R66 to R69, R80, R86, R88). The codes enter the ring the value is computed from. -/
def execFastResultWrite (n : Fin 64) (codes : List (BitVec 4)) (ovld : Bool) (s : State) : Result :=
  let n := n.val
  match firstDue (s.slice n).engines with
  | none => .next (s.feedRing n codes)
  | some e =>
    let s := s.feedRing (if s.substAt n e.centre then 64 + n / 16 else n) codes
    if !s.unitOn (domSlice n) then .next s
    else
      let s := s.advanceTo (s.fastDue n e.centre)
      let s := s.setSlice n { s.slice n with engines := (s.slice n).engines.filter (fun x => x.centre != e.centre) }
      let s := if ovld then s.setFlag (Reg.CS_STAT n) 6 true else s
      let (v, clipped) := s.fastValue n e.centre
      let subst := s.substAt n e.centre
      let (s, exit) := s.winEval n v
      let serves := lastServes e.serves
      let s := serves.foldl (fun s x => s.putFast x.ent subst (clipped || ovld) exit n v) s
      .next (serves.foldl (fun s x => s.putStamp e.centre x) s)

/-- The first centre of a free-running result: the first multiple of D at or after `t` (R70). -/
def nextMultiple (d t : Nat) : Nat := (t + d - 1) / d * d

/-- The enabled free-running entries of slice n that pass their check. -/
def State.freeEntries (s : State) (n : Nat) : List Nat :=
  allEntries.filter fun e =>
    let w := s.reg (entReg e)
    s.entOn e && bitOf w 16 && !bitOf w 7 && fieldOf w 5 0 == n && !nsetHas s.conv.entFail e

/-- The centre of slice n's next free-running result (R70). -/
def State.freeCentre (s : State) (n : Nat) : Nat :=
  let ents := s.freeEntries n
  let d := s.sliceDec n
  let ready := (s.slice n).enAt + 256
  let first := ents.foldl (fun m e => min m (nextMultiple d (max ready (mapGet 0 s.conv.entFrom e))))
    (nextMultiple d (max ready (mapGet 0 s.conv.entFrom (ents.headD 0))))
  match (s.slice n).freeLast with
  | some c => max (c + d) first
  | none => first

/-- The value around centre c of slice n, for its free-running entries `ents`. -/
def State.freeResult (s : State) (n c : Nat) (ents : List Nat) (ovld : Bool) : State :=
  let s := s.setSlice n { s.slice n with freeLast := some c }
  let s := if ovld then s.setFlag (Reg.CS_STAT n) 6 true else s
  let (v, clipped) := s.fastValue n c
  let subst := s.substAt n c
  let (s, exit) := s.winEval n v
  (ents.filter fun e => decide (mapGet 0 s.conv.entFrom e ≤ c)).foldl (fun s e => s.putFast e subst (clipped || ovld) exit n v) s

/-- FREE_RUNNING_RESULT (R70): the next value of the slice's free-running entries. -/
def execFreeRunningResult (n : Fin 64) (codes : List (BitVec 4)) (ovld : Bool) (s : State) : Result :=
  let s := s.feedRing n codes
  let ents := s.freeEntries n
  if ents.isEmpty || !s.flag (Reg.CS_STAT n) 0 || !s.sliceEn n || !s.unitOn (domSlice n) then .next s
  else
    let c := s.freeCentre n
    .next ((s.advanceTo (s.fastDue n c)).freeResult n c ents ovld)

/-! Triggers (R65, R68, R69, R71). -/

/-- Centre instant and displacement of a trigger instant in steps (R65, R68). -/
def centreOf (inst : Nat) : Nat × Int :=
  let c := (inst + 64) / 128
  (c, 128 * (c : Int) - inst)

/-- TRIGGER_DELIVERY to one slice: the entries `ents` of slice n share the trigger. -/
def State.trigSlice (s : State) (n : Nat) (ents : List Nat) (c : Nat) (resid : Int) : State :=
  let fail := fun (s : State) => ents.foldl State.miss s
  let serves := ents.map fun e => Serve.mk e resid
  if !(s.sliceEn n && s.flag (Reg.CS_STAT n) 0 && s.unitOn (domSlice n)) then fail s
  else if s.fastDue n c ≤ s.now then fail s
  else
    let r := s.slice n
    if r.engines.any (fun x => x.centre == c) then
      s.setSlice n { r with engines := r.engines.map fun x =>
        if x.centre = c then { x with serves := x.serves ++ serves } else x }
    else if r.engines.length < 4 then s.setSlice n { r with engines := r.engines ++ [Engine.mk c serves] }
    else (fail s).setFlag (Reg.CS_STAT n) 7 true

/-- A trigger delivered on converter trigger line `line` (R69, R71, R83 to R85). -/
def State.trigger (s : State) (line inst : Nat) : State :=
  let (c, resid) := centreOf inst
  let served := allEntries.filter fun e =>
    let w := s.reg (entReg e)
    s.entOn e && !bitOf w 16 && !bitOf w 7 && fieldOf w 13 8 == line
  let bad := served.filter fun e => nsetHas s.conv.entFail e
  let good := served.filter fun e => !nsetHas s.conv.entFail e
  let s := bad.foldl State.miss s
  (List.range 64).foldl (fun s n =>
    let mine := good.filter fun e => s.fld (entReg e) 5 0 == n
    if mine.isEmpty then s else s.trigSlice n mine c resid) s

/-! Slices. -/

/-- The enable checks of a slice (R96). -/
def State.sliceFails (s : State) (n : Nat) : List CfgFail :=
  let w := s.reg (Reg.CS_CTRL n)
  let partner := n / 16 * 16 + fieldOf w 11 8
  let hi := signedOf 16 (s.fld (Reg.CS_WIN n) 31 16)
  let lo := signedOf 16 (s.fld (Reg.CS_WIN n) 15 0)
  let hyst : Int := s.fld (Reg.CS_WINCFG n) 7 0
  failIf (!s.domOn (domSlice n)) 0x02 0xFF (domSlice n) ++ failIf (!s.clk.run) 0x03 0xFF 2 ++
  failIf (fieldOf w 2 1 == 3) 0x05 1 ++ failIf (fieldOf w 7 6 == 3) 0x05 6 ++
  failIf (bitOf w 5 && fieldOf w 7 6 == 2 && !s.sliceEn partner) 0x09 8 (depDetail (Reg.CS_CTRL partner)) ++
  failIf (bitOf w 4 && !isPrecision n) 0x30 4 ++
  failIf (bitOf w 3 && decide (hi - hyst < lo + hyst)) 0x31 64

/-- SLICE_DISABLE's effects: engines freed with a miss per entry served, the ring stops, a substitution of the slice
ends (R69, R71, R93). -/
def State.sliceDown (s : State) (n : Nat) : State :=
  let s := (s.slice n).engines.foldl (fun s e => (lastServes e.serves).foldl (fun s v => s.miss v.ent) s) s
  let s := s.setSlice n {}
  let s := s.setFld (Reg.CS_STAT n) 3 0 0
  let g := s.group (n / 16)
  match g.subst with
  | some (j, a) =>
    if j = n % 16 then s.setGroup (n / 16) { g with subst := none, substPast := some (j, a, s.now) } else s
  | none => s

/-- A write of CSn_CTRL (R14, R17, R71, R82). -/
def State.csCtrlWrite (s : State) (n : Nat) (v : Word) : State :=
  s.unitWrite (Reg.CS_CTRL n) (Reg.CS_CFGCHK n) 0 v (fun s => s.sliceFails n)
    (fun s => (s.setSlice n { enAt := s.now, ringAt := s.now }).setFlag (Reg.CS_STAT n) 0 false)
    (fun s => s.sliceDown n)
    (fun s => if bitOf v 3 then s else s.winOff n)

/-- SLICE_ENABLE (R71). -/
def execSliceEnable (n : Fin 64) (v : BitVec 32) (s : State) : Result :=
  .next (s.whenOn (domSlice n) (Reg.CS_CFGCHK n) fun s => s.csCtrlWrite n (withField v 0 0 1))

/-- SLICE_DISABLE (R69). -/
def execSliceDisable (n : Fin 64) (v : BitVec 32) (s : State) : Result :=
  .next (if s.unitOn (domSlice n) then s.csCtrlWrite n (withField v 0 0 0) else s)

/-- SLICE_READY (R71): READY 256 cycles after EN. -/
def execSliceReady (n : Fin 64) (s : State) : Result :=
  .next (if s.sliceEn n && s.unitOn (domSlice n) then
    (s.advanceTo ((s.slice n).enAt + 256)).setFlag (Reg.CS_STAT n) 0 true else s)

/-! Groups: windows and tracker. -/

/-- PER of a group in 1/256 cycle. -/
def State.per (s : State) (g : Nat) : Nat := (s.reg (Reg.CG_MPTPER g)).toNat

/-- A window of the group starts on edge `e`: its length is fixed now (R74, R77). -/
def State.winBegin (s : State) (g e : Nat) : State :=
  let r := s.group g
  let fixed := s.flag (Reg.CG_MPT g) 1
  let acc := r.fracAcc + (if fixed then 0 else s.per g % 256)
  let len := if fixed then 4000 * s.fld (Reg.CG_MPT g) 29 16 else s.per g / 256 + acc / 256
  let now := match r.subst with | some (j, _) => [j] | none => []
  s.setGroup g { r with winStart := some e, winLen := len, fracAcc := acc % 256, winSubst := now }

/-- The enable checks of a group (R96). -/
def State.groupFails (s : State) (g : Nat) : List CfgFail :=
  let w := s.reg (Reg.CG_MPT g)
  let src := 16 * g + fieldOf w 7 4
  failIf (!s.domOn (0x19 + g)) 0x02 0xFF (0x19 + g) ++ failIf (!s.clk.run) 0x03 0xFF 2 ++
  failIf (bitOf w 1 && (decide (fieldOf w 29 16 < 100) || decide (10000 < fieldOf w 29 16))) 0x07 16 ++
  failIf (!bitOf w 1 && !bitOf w 2 && !s.sliceEn src) 0x09 4 (depDetail (Reg.CS_CTRL src))

/-- A write of CGn_MPT (R74, R76, R77). -/
def State.cgMptWrite (s : State) (g : Nat) (v : Word) : State :=
  s.unitWrite (Reg.CG_MPT g) (Reg.CG_CFGCHK g) 0 v (fun s => s.groupFails g)
    (fun s =>
      let r := s.group g
      let fixed := s.flag (Reg.CG_MPT g) 1
      let per := if fixed then 4000 * s.fld (Reg.CG_MPT g) 29 16 * 256 else 8000000 * 256
      let s := (s.setReg (Reg.CG_MPTPER g) (BitVec.ofNat 32 per)).setFlag (Reg.CG_MPTSTAT g) 0 false
      let s := s.setGroup g { r with
        enAt := s.now, winStart := none, fracAcc := 0, lastCross := none, goodRun := 0, badRun := 0, done := [] }
      if fixed then s.winBegin g (s.now + 1) else s)
    (fun s => (s.setGroup g { s.group g with
        winStart := none, lastCross := none, goodRun := 0, badRun := 0, done := [] }).setFlag (Reg.CG_MPTSTAT g) 0 false)
    id

/-- GROUP_ENABLE (R74). -/
def execGroupEnable (g : Fin 4) (v : BitVec 32) (s : State) : Result :=
  .next (s.whenOn (0x19 + g) (Reg.CG_CFGCHK g) fun s => s.cgMptWrite g (withField v 0 0 1))

/-- How many multiples of 8 lie in [a, b): the internal D = 8 values of a window (R72). -/
def countMult8 (a b : Nat) : Nat := (b + 7) / 8 - (a + 7) / 8

/-- INTEGRATING_WINDOW_END (R73): the window ends, the next begins on the same edge, and the results are due 64 cycles
later. -/
def execIntegratingWindowEnd (g : Fin 4) (sums : List WindowSum) (s : State) : Result :=
  match (s.group g).winStart with
  | none => .next s
  | some st =>
    if !s.unitOn (0x19 + g) || !s.flag (Reg.CG_MPT g) 0 then .next s
    else
      let r := s.group g
      let e := st + r.winLen
      let s := s.advanceTo e
      let mine := sums.map fun x => IntDone.mk x.slice (e + 64 + s.csDelay (16 * g + x.slice)) r.winLen x.sum
        (countMult8 st e) (r.winSubst.contains x.slice.val || s.flag (Reg.CS_STAT (16 * g + x.slice)) 4) x.ovld
      let s := s.setGroup g { s.group g with done := r.done ++ mine }
      .next ((s.modInc (Reg.CG_MPTSTAT g) 31 16).winBegin g e)

/-- The value of an integrating result and whether it was clipped (R72, R78). -/
def State.intValue (s : State) (n : Nat) (d : IntDone) : Int × Bool :=
  let mode := s.fld (Reg.CS_CTRL n) 7 6
  let raw :=
    if mode = 0 then
      let m := roundDiv (2 ^ 23 * d.sum) (15 * d.len)
      if s.corrected n then correctInt (s.sliceOfs n) (s.sliceGain n) m else m
    else roundDiv d.sum (d.count * 128)
  let y := clipInt (-8388607) 8388607 raw
  (y, raw != y)

/-- One due integrating result goes to every INT entry that names its slice (R73, R83). -/
def State.putInt (s : State) (g : Nat) (d : IntDone) : State :=
  let n := 16 * g + d.slice
  if !(s.sliceEn n && s.flag (Reg.CS_CTRL n) 5) then s
  else
    let (v, clipped) := s.intValue n d
    let ents := allEntries.filter fun e =>
      let w := s.reg (entReg e)
      s.entOn e && bitOf w 7 && !bitOf w 16 && fieldOf w 5 0 == n && !nsetHas s.conv.entFail e
    ents.foldl (fun s e =>
      let s := s.putResult e d.subst (clipped || d.ovld) false v
      if s.fld (entReg e) 18 17 = 0 then s.raiseNow (0x300 + e) else s) s

/-- INTEGRATING_RESULT_WRITE (R73). -/
def execIntegratingResultWrite (g : Fin 4) (s : State) : Result :=
  match (s.group g).done with
  | [] => .next s
  | d :: ds =>
    if !s.unitOn (0x19 + g) then .next s
    else
      let due := ds.foldl (fun m x => min m x.due) d.due
      let s := s.advanceTo due
      let now := (d :: ds).filter fun x => x.due == due
      let s := s.setGroup g { s.group g with done := (d :: ds).filter fun x => x.due != due }
      .next (now.foldl (fun s x => s.putInt g x) s)

/-- The crossing's CLK_LOOP edge, when it is a crossing (R75): linear interpolation between the two values, rounded;
the pin input is resolved to 5 ns. -/
def crossingEdge : Crossing → Option Nat
  | .pin e => some (e / 2 * 2)
  | .values e0 v0 e1 v1 =>
    if v0 ≤ -256 ∧ 0 ≤ v1 ∧ e0 < e1 then
      some ((e0 : Int) + roundDiv ((e1 - e0 : Int) * -v0) (v1 - v0).toNat).toNat
    else none

/-- The tracker's rules at a crossing with period `p` cycles (R76); the second part says that p was accepted. -/
def State.trackPeriod (s : State) (g p : Nat) : State × Bool :=
  if p < 5714286 ∨ 10000000 < p then
    let s := s.setGroup g { s.group g with goodRun := 0, badRun := 0 }
    ((s.setFlag (Reg.CG_MPTSTAT g) 0 false).setFlag (Reg.CG_MPTSTAT g) 1 true, false)
  else
    let smooth := s.fld (Reg.CG_MPT g) 10 8
    let per : Int := (s.per g : Int) + ((p * 256 : Int) - s.per g).tdiv (2 ^ smooth)
    let s := s.setReg (Reg.CG_MPTPER g) (BitVec.ofInt 32 per)
    let dev := ((p * 256 : Int) - per).natAbs
    let r := s.group g
    let good := if dev * 200 ≤ per.toNat then r.goodRun + 1 else 0
    let bad := if per.toNat < dev * 50 then r.badRun + 1 else 0
    let s := s.setGroup g { r with goodRun := min good 4, badRun := min bad 2 }
    let s := if 4 ≤ good then s.setFlag (Reg.CG_MPTSTAT g) 0 true else s
    let s := if 2 ≤ bad then
      ((s.setGroup g { s.group g with badRun := 0 }).setFlag (Reg.CG_MPTSTAT g) 0 false).setFlag (Reg.CG_MPTSTAT g) 1 true
      else s
    (s, true)

/-- MAINS_ZERO_CROSSING (R75 to R77). -/
def execMainsZeroCrossing (g : Fin 4) (c : Crossing) (s : State) : Result :=
  let pin := match c with | .pin _ => true | .values .. => false
  let w := s.reg (Reg.CG_MPT g)
  match crossingEdge c with
  | none => .next s
  | some e =>
    if !(s.unitOn (0x19 + g) && bitOf w 0 && !bitOf w 1 && (bitOf w 2 == pin)) then .next s
    else
      let s := s.advanceTo e
      let r := s.group g
      let s := s.setGroup g { r with lastCross := some e }
      match r.lastCross with
      | none => .next s
      | some prev =>
        let (s, ok) := s.trackPeriod g (e - prev)
        .next (if ok && (s.group g).winStart == none then s.winBegin g e else s)

/-- TRACKER_NO_SIGNAL (R76): 100 ms without a crossing. -/
def execTrackerNoSignal (g : Fin 4) (s : State) : Result :=
  let w := s.reg (Reg.CG_MPT g)
  if s.unitOn (0x19 + g) && bitOf w 0 && !bitOf w 1 then
    let s := s.advanceTo ((s.group g).lastCross.getD (s.group g).enAt + 40000000)
    .next (s.setFld (Reg.CG_MPTSTAT g) 2 0 6)
  else .next s

/-- TRACK_FIRST_WINDOW_TIMEOUT (R77): the first window starts 100 ms after EN. -/
def execTrackFirstWindowTimeout (g : Fin 4) (s : State) : Result :=
  let w := s.reg (Reg.CG_MPT g)
  let r := s.group g
  if s.unitOn (0x19 + g) && bitOf w 0 && !bitOf w 1 && r.winStart == none then
    let s := s.advanceTo (r.enAt + 40000000)
    .next (s.winBegin g (r.enAt + 40000000))
  else .next s

/-! Calibration rotation (R90 to R94). -/

/-- The next slice of the rotation at or after `j`, if CALMASK leaves one. -/
def nextUnmasked (mask j : Nat) : Option Nat :=
  (List.range 16).find? fun i => decide (j ≤ i) && mask / 2 ^ i % 2 == 0

/-- CAL_STEP_START (R90): the next slice's step begins. -/
def execCalStepStart (g : Fin 4) (s : State) : Result :=
  let r := s.group g
  let mask := s.fld (Reg.CG_CALCTL g) 31 16
  if !(s.unitOn (0x19 + g) && s.flag (Reg.CG_CALCTL g) 0 && !s.flag (Reg.CG_CALCTL g) 1 && s.arbHeld 2 g &&
      !s.arbHeld 3 g && !s.arb.queue.any (fun t => t.act == 3 && t.res == g) && r.calStart == none && !r.calStop) then
    .next s
  else
    let wrap := (nextUnmasked mask r.nextSlice).isNone
    match nextUnmasked mask (if wrap then 0 else r.nextSlice) with
    | none => .next s
    | some j =>
      let s := if wrap then s.modInc (Reg.CG_CALSTAT g) 31 16 else s
      let s := s.setGroup g { s.group g with calStart := some s.now, nextSlice := j + 1 }
      .next ((s.setFld (Reg.CG_CALSTAT g) 5 4 (if s.sliceEn (16 * g + j) then 1 else 2)).setFld (Reg.CG_CALSTAT g) 3 0 j)

/-- The step's slice. -/
def State.stepSlice (s : State) (g : Nat) : Nat := 16 * g + s.fld (Reg.CG_CALSTAT g) 3 0

/-- CAL_SUBSTITUTION (R91): 1 ms into the step the spare supplies the slice. -/
def execCalSubstitution (g : Fin 4) (fitOfs : Int) (fitGain : BitVec 24) (s : State) : Result :=
  let r := s.group g
  match r.calStart with
  | none => .next s
  | some st =>
    if s.fld (Reg.CG_CALSTAT g) 5 4 ≠ 1 then .next s
    else
      let e := st + 400000
      let s := s.advanceTo e
      let n := s.stepSlice g
      let s := s.setFld (Reg.CG_CALSTAT g) 5 4 2
      if s.sliceEn n then
        let s := s.setGroup g { r with
          subst := some (n % 16, e), fitOfs := fitOfs, fitGain := fitGain.toNat,
          winSubst := if r.winSubst.contains (n % 16) then r.winSubst else (n % 16) :: r.winSubst }
        let s := s.setSlice (64 + g) { enAt := st, ringAt := e }
        .next (s.setFlag (Reg.CS_STAT n) 3 true)
      else .next s

/-- CAL_PIN_RELEASE (R91): 64 cycles after the substitution edge slice j's input leaves its pins. -/
def execCalPinRelease (g : Fin 4) (s : State) : Result :=
  let r := s.group g
  match r.calStart with
  | none => .next s
  | some st =>
    if s.fld (Reg.CG_CALSTAT g) 5 4 ≠ 2 then .next s
    else
      let s := s.advanceTo (st + 400064)
      .next (s.setGroup g { s.group g with pinsOff := true })

/-- CAL_RESHADOW (R90): at 9 ms the slice is reconnected. -/
def execCalReshadow (g : Fin 4) (s : State) : Result :=
  let r := s.group g
  match r.calStart with
  | none => .next s
  | some st =>
    if s.fld (Reg.CG_CALSTAT g) 5 4 ≠ 2 then .next s
    else
      let s := s.advanceTo (st + 3600000)
      .next ((s.setGroup g { s.group g with pinsOff := false }).setFld (Reg.CG_CALSTAT g) 5 4 3)

/-- CAL_HANDBACK (R92): new coefficients or CALFAIL, and the slice is handed back. Limits: 83,886 integrating LSB and
0.98 to 1.02 of 2^22. -/
def execCalHandback (g : Fin 4) (ofs : Int) (gain : BitVec 24) (s : State) : Result :=
  let r := s.group g
  match r.calStart with
  | none => .next s
  | some st =>
    if s.fld (Reg.CG_CALSTAT g) 5 4 < 2 then .next s
    else
      let e := st + 4000000
      let s := s.advanceTo e
      let n := s.stepSlice g
      let good := decide (ofs.natAbs ≤ 83886) && decide (98 * 2 ^ 22 ≤ 100 * gain.toNat) &&
        decide (100 * gain.toNat ≤ 102 * 2 ^ 22)
      let s := if good then
          (s.setFld (Reg.CS_CALOFS n) 23 0 (toBits 24 ofs)).setFld (Reg.CS_CALGAIN n) 23 0 gain.toNat
        else s.setFlag (Reg.CS_STAT n) 5 true
      let past := match r.subst with | some (j, a) => some (j, a, e) | none => r.substPast
      let s := s.setGroup g { s.group g with
        calStart := none, subst := none, substPast := past, pinsOff := false, spareHeld := some e }
      .next ((s.setFlag (Reg.CS_STAT n) 3 false).setFld (Reg.CG_CALSTAT g) 5 4 0)

/-- The CAL activity is released once RUN is 0 and the spare is free (R93). -/
def State.calMaybeRelease (s : State) (g : Nat) : State :=
  let r := s.group g
  match r.calTicket with
  | none => s
  | some t =>
    if !s.flag (Reg.CG_CALCTL g) 0 && s.spareFree g then
      ((s.arbRelease t).setGroup g { r with calTicket := none, calStop := false }).setFld (Reg.CG_CALSTAT g) 7 6 0
    else s

/-- CAL_SPARE_RELEASE (R91, R93): 64 cycles after the handback the spare leaves the slice. -/
def execCalSpareRelease (g : Fin 4) (s : State) : Result :=
  match (s.group g).spareHeld with
  | none => .next s
  | some e =>
    let s := s.advanceTo (e + 64)
    .next ((s.setGroup g { s.group g with spareHeld := none }).calMaybeRelease g)

/-- The rotation stops as PAUSE does: a SHADOW step is abandoned at once, a later one runs to its handback (R93). -/
def State.calHold (s : State) (g : Nat) : State :=
  let r := s.group g
  match r.calStart with
  | none => s.setGroup g { r with calStop := true }
  | some _ =>
    if s.fld (Reg.CG_CALSTAT g) 5 4 = 1 then
      (s.setGroup g { r with calStart := none, calStop := true }).setFld (Reg.CG_CALSTAT g) 5 4 0
    else s.setGroup g { r with calStop := true }

/-- A write of CGn_CALCTL (R93, R94): its fields are live; RUN and PAUSE act on their changes. -/
def State.calctlWrite (s : State) (g : Nat) (v : Word) : State :=
  let a := Reg.CG_CALCTL g
  let run0 := s.flag a 0
  let pause0 := s.flag a 1
  let s := s.store a (Reg.CG_CFGCHK g) false v
  let s :=
    if !run0 && bitOf v 0 then
      if s.fld (Reg.CG_CALSTAT g) 12 8 ≠ 0x1F then (s.setFlag a 0 false).cfgFail (Reg.CG_CFGCHK g) ⟨0x35, 128, 0⟩
      else
        match (s.group g).calTicket with
        | some _ => (s.setGroup g { s.group g with calStop := bitOf v 1 }).cfgOk (Reg.CG_CFGCHK g)
        | none =>
          match s.arbRequest 2 g with
          | (.accepted t, s) =>
            ((s.setGroup g { s.group g with calTicket := some t, calStop := false }).setFld (Reg.CG_CALSTAT g) 7 6 1).cfgOk
              (Reg.CG_CFGCHK g)
          | (.queued t, s) =>
            ((s.setGroup g { s.group g with calTicket := some t, calStop := false }).setFld (Reg.CG_CALSTAT g) 7 6 2).cfgOk
              (Reg.CG_CFGCHK g)
          | (.refused reason conf, s) =>
            ((s.setFlag a 0 false).setFld (Reg.CG_CALSTAT g) 7 6 3).cfgFail (Reg.CG_CFGCHK g) ⟨reason, 128, conf⟩
          | (.silent, s) => s
    else if run0 && !bitOf v 0 then (s.calHold g).calMaybeRelease g
    else s
  if !pause0 && bitOf v 1 then s.calHold g
  else if pause0 && !bitOf v 1 && s.flag a 0 then s.setGroup g { s.group g with calStop := false }
  else s

/-- CAL_RUN (R93). -/
def execCalRun (g : Fin 4) (v : BitVec 32) (s : State) : Result :=
  .next (if s.unitOn (0x19 + g) then s.calctlWrite g (withField v 0 0 1) else s)

/-- CAL_STOP (R93). -/
def execCalStop (g : Fin 4) (v : BitVec 32) (s : State) : Result :=
  .next (if s.unitOn (0x19 + g) then s.calctlWrite g (withField v 0 0 0) else s)

/-- CAL_PAUSE (R93). -/
def execCalPause (g : Fin 4) (v : BitVec 32) (s : State) : Result :=
  .next (if s.unitOn (0x19 + g) then s.calctlWrite g (withField v 1 1 1) else s)

/-- CAL_RESUME (R93). -/
def execCalResume (g : Fin 4) (v : BitVec 32) (s : State) : Result :=
  .next (if s.unitOn (0x19 + g) then s.calctlWrite g (withField v 1 1 0) else s)

/-! Diagnostic DAC (R95). -/

/-- The conditions of a TESTDAC request (R95, R96). -/
def State.diagFails (s : State) (g : Nat) : List CfgFail :=
  let w := s.reg (Reg.CG_DIAG g)
  let mode := fieldOf w 2 1
  failIf (mode == 0 || mode == 3) 0x05 193 ++ failIf (decide (16 < fieldOf w 8 4)) 0x07 196 ++
  failIf (fieldOf w 8 4 == 16 && ((s.group g).subst.isSome || s.fld (Reg.CG_CALSTAT g) 12 8 != 0x1F)) 0x36 196

/-- A write of CGn_DIAG (R95): EN := 1 requests TESTDAC; EN := 0 releases it. -/
def State.diagWrite (s : State) (g : Nat) (v : Word) : State :=
  let a := Reg.CG_DIAG g
  let chk := Reg.CG_CFGCHK g
  let release := fun (s : State) =>
    match (s.group g).diagTicket with
    | none => s
    | some t => ((s.arbRelease t).setGroup g { s.group g with diagTicket := none }).setFld (Reg.CG_CALSTAT g) 15 14 0
  if s.flag a 0 then
    let s := s.store a chk true v
    if bitOf v 0 then s else release s
  else if !bitOf v 0 then release (s.store a chk false v)
  else
    let s := s.store a chk false (withField v 0 0 0)
    match pickFail (s.diagFails g) with
    | some f => s.cfgFail chk f
    | none =>
      match (s.group g).diagTicket with
      | some _ => s.cfgOk chk
      | none =>
        match s.arbRequest 3 g with
        | (.accepted t, s) =>
          (((s.setGroup g { s.group g with diagTicket := some t }).setFld (Reg.CG_CALSTAT g) 15 14 1).setFlag a 0 true).cfgOk chk
        | (.queued t, s) =>
          ((s.setGroup g { s.group g with diagTicket := some t }).setFld (Reg.CG_CALSTAT g) 15 14 2).cfgOk chk
        | (.refused reason conf, s) => (s.setFld (Reg.CG_CALSTAT g) 15 14 3).cfgFail chk ⟨reason, 192, conf⟩
        | (.silent, s) => s

/-- TESTDAC_REQUEST (R95). -/
def execTestdacRequest (g : Fin 4) (v : BitVec 32) (s : State) : Result :=
  .next (if s.unitOn (0x19 + g) then s.diagWrite g (withField v 0 0 1) else s)

/-- TESTDAC_RELEASE (R95). -/
def execTestdacRelease (g : Fin 4) (v : BitVec 32) (s : State) : Result :=
  .next (if s.unitOn (0x19 + g) then s.diagWrite g (withField v 0 0 0) else s)

/-! Sequencers. -/

/-- The checks of one entry that holds ENTEN = 1 (R85, R96). -/
def State.entryFails (s : State) (e : Nat) : List CfgFail :=
  let w := s.reg (entReg e)
  let n := fieldOf w 5 0
  let k := e % 32
  failIf (!s.domOn (domSlice n)) 0x02 0xFF (domSlice n) ++
  failIf (fieldOf w 18 17 == 3) 0x05 k ++
  failIf (!s.sliceEn n) 0x09 k (depDetail (Reg.CS_CTRL n)) ++
  failIf (bitOf w 16 && bitOf w 7) 0x32 k ++
  failIf (bitOf w 7 && !s.flag (Reg.CS_CTRL n) 5) 0x33 k ++
  failIf (fieldOf w 18 17 == 1 && (bitOf w 7 || !s.flag (Reg.CS_CTRL n) 3)) 0x34 k

/-- The enable checks of a sequencer: every entry with ENTEN = 1 (R85). -/
def State.seqFails (s : State) (n : Nat) : List CfgFail :=
  failIf (!s.domOn domSo) 0x02 0xFF domSo ++ failIf (!s.clk.run) 0x03 0xFF 2 ++
  (List.range 32).flatMap fun k => if s.flag (Reg.SQ_ENT n k) 31 then s.entryFails (32 * n + k) else []

/-- A write of SQn_CTRL (R85). -/
def State.sqCtrlWrite (s : State) (n : Nat) (v : Word) : State :=
  s.unitWrite (Reg.SQ_CTRL n) (Reg.SQ_CFGCHK n) 0 v (fun s => s.seqFails n)
    (fun s => { s with conv := { s.conv with
      entFail := nsetDel s.conv.entFail (32 * n) (32 * n + 32),
      entFrom := (List.range 32).foldl (fun m k => mapSet 0 m (32 * n + k) s.now) s.conv.entFrom } })
    id id

/-- SEQUENCER_ENABLE (R85). -/
def execSequencerEnable (n : Fin 16) (v : BitVec 32) (s : State) : Result :=
  .next (s.whenOn domSo (Reg.SQ_CFGCHK n) fun s => s.sqCtrlWrite n (withField v 0 0 1))

/-- A write of SQn_ENTk: live, stored always, checked at landing while the sequencer runs and ENTEN = 1 (R85, R502). -/
def State.sqEntWrite (s : State) (n k : Nat) (v : Word) : State :=
  let a := Reg.SQ_ENT n k
  let e := 32 * n + k
  let s := s.store a (Reg.SQ_CFGCHK n) false v
  let s := { s with conv := { s.conv with entFrom := mapSet 0 s.conv.entFrom e s.now } }
  let clear := fun (s : State) => { s with conv := { s.conv with entFail := nsetDel s.conv.entFail e (e + 1) } }
  if s.flag (Reg.SQ_CTRL n) 0 && bitOf v 31 then
    match pickFail (s.entryFails e) with
    | none => (clear s).cfgOk (Reg.SQ_CFGCHK n)
    | some f => { s with conv := { s.conv with entFail := nsetAdd s.conv.entFail e (e + 1) } }.cfgFail (Reg.SQ_CFGCHK n) f
  else clear s

/-- SQ_ENTRY_WRITE (R85). -/
def execSqEntryWrite (n : Fin 16) (k : Fin 32) (v : BitVec 32) (s : State) : Result :=
  .next (if s.unitOn domSo then s.sqEntWrite n k v else s)

end Sys2Proof.Machine
end

