-- ==== Sys2Proof/Machine/Comparators.lean ====
section
/-! DEFINITION. Comparators and slope ramps (R97 to R110). Voltages are in 1/32 nV, so that one REF code (1.8 V / 4096) is
14,062,500 and SLOPE = 1 rises by 625 in one step of 19.53125 ps. -/

namespace Sys2Proof.Machine

/-- Comparator record n. -/
def State.cmp (s : State) (n : Nat) : Cmp := mapGet {} s.cmps n

/-- Replace comparator record n. -/
def State.setCmp (s : State) (n : Nat) (r : Cmp) : State := { s with cmps := mapSet {} s.cmps n r }

/-- The generator a comparator is tied to, if any. -/
def State.cmpGen (s : State) (n : Nat) : Option Nat :=
  let g := s.fld (Reg.CMP_CTRL n) 30 24
  if g < 96 then some g else none

/-- ramp(t) (R99): 0 without a slope, without a running GEN or before its first period start. -/
def State.ramp (s : State) (n t : Nat) : Nat :=
  let r := s.cmp n
  match s.cmpGen n, r.tps with
  | some g, some p => if s.flag (Reg.PWM_CTRL g) 0 then r.slope * 625 * (t - (p + 128)) else 0
  | _, _ => 0

/-- vth(t) (R99). -/
def State.vth (s : State) (n t : Nat) : Nat := 14062500 * s.fld (Reg.CMP_REF n) 27 16 - s.ramp n t

/-- HYST in 1/32 nV (R101). -/
def State.cmpHyst (s : State) (n : Nat) : Nat :=
  match s.fld (Reg.CMP_CTRL n) 13 12 with
  | 0 => 0
  | 1 => 320000000
  | 2 => 640000000
  | _ => 1280000000

/-- The positive and the negative side: the pin and the threshold, or what a self-check connects (R109). -/
def State.cmpSides (s : State) (n v t : Nat) : Nat × Nat :=
  if s.flag (Reg.CMP_TEST n) 6 then
    match s.fld (Reg.CMP_TEST n) 1 0 with
    | 1 => (s.vth n t, v)
    | 2 => (6400000000, s.vth n t)
    | 3 => (51200000000, s.vth n t)
    | _ => (v, s.vth n t)
  else (v, s.vth n t)

/-- The raw state after the input stands at `v` at step `t` (R101). -/
def State.rawNext (s : State) (n v t : Nat) : Bool :=
  let (p, m) := s.cmpSides n v t
  let h := s.cmpHyst n
  let old := (s.cmp n).raw
  if !s.flag (Reg.CMP_CTRL n) 1 then
    if m < p then true else if p + h < m then false else old
  else if p < m then true else if m + h < p then false else old

/-- A blanking window is open at step `t` (R102). -/
def State.blanked (s : State) (n t : Nat) : Bool :=
  match (s.cmp n).blankTill with
  | some e => decide (t < e * 128)
  | none => false

/-- The latch runs: enabled and settled (R107). -/
def State.cmpRuns (s : State) (n : Nat) : Bool :=
  s.domOn (domCmp n) && s.flag (Reg.CMP_CTRL n) 0 && s.flag (Reg.CMP_STAT n) 2

/-- The latch sets at step `t` (R103, R105): from clear, the record is due on the second CLK_LOOP edge after. In a
self-check nothing is recorded (R108); while CLK_LOOP is stopped no record is made (R105). -/
def State.latchSet (s : State) (n t : Nat) : State :=
  if s.flag (Reg.CMP_STAT n) 0 then s
  else
    let s := s.setFlag (Reg.CMP_STAT n) 0 true
    if s.flag (Reg.CMP_TEST n) 6 || !s.clk.run then s
    else s.setCmp n { s.cmp n with record := some (t / 128 + 2) }

/-- A set condition is present at step `t`: the raw state is active outside a blanking window (R103). -/
def State.setCondition (s : State) (n t : Nat) : Bool := s.cmpRuns n && (s.cmp n).raw && !s.blanked n t

/-- The trip line of a comparator: its latch, held inactive in a self-check and while it settles (R104, R107, R108). -/
def State.tripLine (s : State) (n : Nat) : Bool :=
  s.cmpRuns n && s.flag (Reg.CMP_STAT n) 0 && !s.flag (Reg.CMP_TEST n) 6

/-- The latch clears unless a set condition is present (R103). -/
def State.latchClear (s : State) (n t : Nat) : State :=
  if s.setCondition n t then s else s.setFlag (Reg.CMP_STAT n) 0 false

/-- COMPARATOR_LATCH_SET (R103). -/
def execComparatorLatchSet (n : Fin 96) (t : Nat) (s : State) : Result :=
  let s := s.advanceTo (t / 128)
  .next (if s.setCondition n t then s.latchSet n t else s)

/-- COMPARATOR_RAW_CHANGE (R101). -/
def execComparatorRawChange (n : Fin 96) (v t : Nat) (s : State) : Result :=
  if !s.domOn (domCmp n) then .next s
  else
    let s := s.advanceTo (t / 128)
    let r := s.cmp n
    let raw := s.rawNext n v t
    .next (s.setCmp n { r with vplus := v, raw := raw, rawAt := if raw = r.raw then r.rawAt else t })

/-- CMPn_STAT.RAW: the raw state through the two-edge synchroniser (R105). -/
def State.rawSeen (s : State) (n : Nat) : Bool :=
  let r := s.cmp n
  if r.rawAt / 128 + 2 ≤ s.now then r.raw else !r.raw

/-- What a read of CMPn_STAT returns: the stored flags with RAW as the synchroniser shows it. -/
def State.cmpStatRead (s : State) (n : Nat) : Word := withField (s.reg (Reg.CMP_STAT n)) 1 1 (bit (s.rawSeen n))

/-- COMPARATOR_SET_RECORD (R105). -/
def execComparatorSetRecord (n : Fin 96) (s : State) : Result :=
  match (s.cmp n).record with
  | none => .next s
  | some e =>
    if !s.unitOn (domCmp n) then .next s
    else
      let s := s.advanceTo e
      let s := s.setCmp n { s.cmp n with record := none }
      .next ((s.modInc (Reg.CMP_STAT n) 31 16).raiseAt (0x500 + n) e 0)

/-- A write to CMPn_STAT: LATCH is W1C (R103). -/
def State.cmpStatWrite (s : State) (n : Nat) (v : Word) : State :=
  if bitOf v 0 then s.latchClear n (s.now * 128) else s

/-- LATCH_CLEAR (R103, R23). -/
def execLatchClear (n : Fin 96) (v : BitVec 32) (s : State) : Result :=
  .next (if s.unitOn (domCmp n) then s.cmpStatWrite n (withField v 0 0 1) else s)

/-- BLANKING_CLOSE (R102, R103): the window closes and a raw state still active sets the latch. -/
def execBlankingClose (n : Fin 96) (s : State) : Result :=
  match (s.cmp n).blankTill with
  | none => .next s
  | some e =>
    if !s.unitOn (domCmp n) then .next s
    else
      let s := s.advanceTo e
      let s := s.setCmp n { s.cmp n with blankTill := none }
      .next (if s.setCondition n (e * 128) then s.latchSet n (e * 128) else s)

/-- BLANKING_OPEN (R102): an opening instant of kind `kind` (1 period start, 2 A rising, 3 B rising) of generator g at
step t opens or restarts the window of each comparator that selects it. -/
def State.blankOpen (s : State) (g kind t : Nat) : State :=
  (List.range 96).foldl (fun s n =>
    let w := s.reg (Reg.CMP_BLANK n)
    if s.cmpGen n == some g && fieldOf w 17 16 == kind && fieldOf w 9 0 != 0 && s.unitOn (domCmp n) then
      s.setCmp n { s.cmp n with blankTill := some ((t + fieldOf w 9 0 * 128 + 127) / 128) }
    else s) s

/-- A period start of generator g at step t, as the comparators tied to it see it: the ramp restarts, REF and SLOPE come
into force, a window opens, and CLRSEL clears the latch (R99, R100, R102, R103, R22). -/
def State.cmpPeriodStart (s : State) (g t : Nat) : State :=
  let s := s.blankOpen g 1 t
  (List.range 96).foldl (fun s n =>
    if s.cmpGen n == some g && s.domOn (domCmp n) then
      let r := s.cmp n
      let e := t / 128
      let slope := if r.slopeAt = e then r.slopeOld else s.fld (Reg.CMP_RAMP n) 9 0
      let s := s.setCmp n { r with tps := some t, slope := slope }
      let s := if s.flag (Reg.CMP_CTRL n) 9 then
          s.setFld (Reg.CMP_REF n) 27 16 (if r.refAt = e then r.refOld else s.fld (Reg.CMP_REF n) 11 0)
        else s
      if s.flag (Reg.CMP_CTRL n) 8 then s.latchClear n t else s
    else s) s

/-- Generator g stopped or started anew: no period start counts any more (R99). -/
def State.cmpGenReset (s : State) (g : Nat) : State :=
  (List.range 96).foldl (fun s n =>
    if s.cmpGen n == some g then s.setCmp n { s.cmp n with tps := none } else s) s

/-- A write to CMPn_REF (R100): at once with REFUPD = 0, else at the next period start of GEN. -/
def State.cmpRefWrite (s : State) (n : Nat) (v : Word) : State :=
  let r := s.cmp n
  let s := s.setCmp n { r with
    refOld := if r.refAt = s.now then r.refOld else s.fld (Reg.CMP_REF n) 11 0, refAt := s.now }
  let s := s.setFld (Reg.CMP_REF n) 11 0 (fieldOf v 11 0)
  if s.flag (Reg.CMP_CTRL n) 9 then s else s.setFld (Reg.CMP_REF n) 27 16 (fieldOf v 11 0)

/-- REF_WRITE (R100). -/
def execRefWrite (n : Fin 96) (v : BitVec 32) (s : State) : Result :=
  .next (if s.unitOn (domCmp n) then s.cmpRefWrite n v else s)

/-- The conditions that concern SLOPE (R110). -/
def State.rampFails (s : State) (n slope : Nat) : List CfgFail :=
  failIf (decide (1000 < slope)) 0x07 96 ++ failIf ((s.cmpGen n).isNone && slope != 0) 0x40 24

/-- The conditions that concern BLANK and BLKSEL (R110). -/
def State.blankFails (s : State) (n : Nat) (w : Word) : List CfgFail :=
  failIf (decide (800 < fieldOf w 9 0)) 0x07 128 ++ failIf ((s.cmpGen n).isNone && fieldOf w 17 16 != 0) 0x40 24

/-- The enable checks of a comparator (R110). -/
def State.cmpFails (s : State) (n : Nat) : List CfgFail :=
  let w := s.reg (Reg.CMP_CTRL n)
  let g := fieldOf w 30 24
  failIf (!s.domOn (domCmp n)) 0x02 0xFF (domCmp n) ++ failIf (!s.clk.run) 0x03 0xFF 2 ++
  failIf (decide (96 ≤ g) && g != 0x7F) 0x05 24 ++ failIf (decide (0xA0 ≤ fieldOf w 23 16)) 0x05 16 ++
  s.rampFails n (s.fld (Reg.CMP_RAMP n) 9 0) ++ s.blankFails n (s.reg (Reg.CMP_BLANK n)) ++
  failIf (g == 0x7F && (bitOf w 8 || bitOf w 9)) 0x40 24

/-- The self-check ends: the latch clears, the activity is released, ACTIVE and SELFTEST read 0 (R108). -/
def State.selftestStop (s : State) (n : Nat) : State :=
  if s.flag (Reg.CMP_TEST n) 6 then
    let s := match (s.cmp n).ticket with | some t => s.arbRelease t | none => s
    let s := s.setCmp n { s.cmp n with ticket := none }
    ((s.setFlag (Reg.CMP_TEST n) 6 false).setFld (Reg.CMP_TEST n) 1 0 0).setFlag (Reg.CMP_STAT n) 0 false
  else s

/-- The comparator settles for 400 cycles with its latch held clear (R107). -/
def State.cmpSettle (s : State) (n : Nat) : State :=
  let s := s.setCmp n { s.cmp n with settle := some (s.now + 400), record := none }
  (s.setFlag (Reg.CMP_STAT n) 0 false).setFlag (Reg.CMP_STAT n) 2 false

/-- EN := 0 (R107, R108). -/
def State.cmpDown (s : State) (n : Nat) : State :=
  let s := s.selftestStop n
  let s := s.setCmp n { s.cmp n with settle := none, record := none, blankTill := none }
  (s.setFlag (Reg.CMP_STAT n) 0 false).setFlag (Reg.CMP_STAT n) 2 false

/-- A write of CMPn_CTRL (R14, R17, R107, R110). A live write that R17 accepts passes its landing check (R502). -/
def State.cmpCtrlWrite (s : State) (n : Nat) (v : Word) : State :=
  if s.flag (Reg.CMP_CTRL n) 0 && bitOf v 0 then
    (s.cfgOk (Reg.CMP_CFGCHK n)).store (Reg.CMP_CTRL n) (Reg.CMP_CFGCHK n) true v
  else
    s.unitWrite (Reg.CMP_CTRL n) (Reg.CMP_CFGCHK n) 0 v (fun s => s.cmpFails n) (fun s => s.cmpSettle n)
      (fun s => s.cmpDown n) id

/-- A write of CMPn_RAMP (R100, R110). -/
def State.cmpRampWrite (s : State) (n : Nat) (v : Word) : State :=
  let slope := fieldOf v 9 0
  let put := fun (s : State) =>
    let r := s.cmp n
    (s.setCmp n { r with
      slopeOld := if r.slopeAt = s.now then r.slopeOld else s.fld (Reg.CMP_RAMP n) 9 0, slopeAt := s.now }).setFld
      (Reg.CMP_RAMP n) 9 0 slope
  if s.flag (Reg.CMP_CTRL n) 0 then
    match pickFail (s.rampFails n slope) with
    | some f => s.cfgFail (Reg.CMP_CFGCHK n) f
    | none => (put s).cfgOk (Reg.CMP_CFGCHK n)
  else put s

/-- A write of CMPn_BLANK (R102, R110). -/
def State.cmpBlankWrite (s : State) (n : Nat) (v : Word) : State :=
  let put := fun (s : State) => s.store (Reg.CMP_BLANK n) (Reg.CMP_CFGCHK n) false v
  if s.flag (Reg.CMP_CTRL n) 0 then
    match pickFail (s.blankFails n v) with
    | some f => s.cfgFail (Reg.CMP_CFGCHK n) f
    | none => (put s).cfgOk (Reg.CMP_CFGCHK n)
  else put s

/-- COMPARATOR_LIVE_WRITE (R110). -/
def execComparatorLiveWrite (n : Fin 96) (r : CmpLive) (v : BitVec 32) (s : State) : Result :=
  .next (if s.unitOn (domCmp n) then
    match r with
    | .ramp => s.cmpRampWrite n v
    | .blank => s.cmpBlankWrite n v
    | .ctrl => s.cmpCtrlWrite n (withField v 0 0 (bit (s.flag (Reg.CMP_CTRL n) 0)))
    else s)

/-- COMPARATOR_ENABLE (R107). -/
def execComparatorEnable (n : Fin 96) (v : BitVec 32) (s : State) : Result :=
  .next (s.whenOn (domCmp n) (Reg.CMP_CFGCHK n) fun s => s.cmpCtrlWrite n (withField v 0 0 1))

/-- COMPARATOR_DISABLE (R107). -/
def execComparatorDisable (n : Fin 96) (v : BitVec 32) (s : State) : Result :=
  .next (if s.unitOn (domCmp n) then s.cmpCtrlWrite n (withField v 0 0 0) else s)

/-- COMPARATOR_SETTLED (R107): READY, and the latch runs from then on. -/
def execComparatorSettled (n : Fin 96) (s : State) : Result :=
  match (s.cmp n).settle with
  | none => .next s
  | some e =>
    if !(s.unitOn (domCmp n) && s.flag (Reg.CMP_CTRL n) 0) then .next s
    else
      let s := s.advanceTo e
      let s := (s.setCmp n { s.cmp n with settle := none }).setFlag (Reg.CMP_STAT n) 2 true
      .next (if s.setCondition n (e * 128) then s.latchSet n (e * 128) else s)

/-- An enabled generator uses comparator n in a trip selector or as its pulse-end source (R108, R203, R218). -/
def State.cmpInUse (s : State) (n : Nat) : Bool :=
  (List.range 96).any fun g =>
    let c := s.reg (Reg.PWM_CTRL g)
    bitOf c 0 && ((decide (2 ≤ fieldOf c 9 8) && fieldOf c 30 24 == n) ||
      (List.range 8).any fun k =>
        let w := s.reg (Reg.PWM_TRIPSEL g k)
        bitOf w 31 && fieldOf w 7 0 == n)

/-- A write of CMPn_TEST (R108). -/
def State.cmpTestWrite (s : State) (n : Nat) (v : Word) : State :=
  let m := fieldOf v 1 0
  let chk := Reg.CMP_CFGCHK n
  if s.flag (Reg.CMP_TEST n) 6 then
    if m = 0 then (s.selftestStop n).cmpSettle n else s.setFld (Reg.CMP_TEST n) 1 0 m
  else if m = 0 then s
  else
    let refuse := fun (s : State) (f : CfgFail) => (s.setFld (Reg.CMP_TEST n) 5 4 3).cfgFail chk f
    match pickFail (failIf (s.cmpInUse n) 0x41 192 ++
        failIf (!(s.flag (Reg.CMP_CTRL n) 0 && s.flag (Reg.CMP_STAT n) 2)) 0x42 192) with
    | some f => refuse s f
    | none =>
      match s.arbRequest 4 n with
      | (.accepted t, s) =>
        let s := s.setCmp n { s.cmp n with ticket := some t }
        (s.setReg (Reg.CMP_TEST n) (BitVec.ofNat 32 (64 + 16 + m))).cfgOk chk
      | (.queued t, s) =>
        let s := s.setCmp n { s.cmp n with ticket := some t }
        (s.setFld (Reg.CMP_TEST n) 5 4 2).cfgOk chk
      | (.refused reason conf, s) => refuse s ⟨reason, 192, conf⟩
      | (.silent, s) => s

/-- SELFTEST_REQUEST (R108). -/
def execSelftestRequest (n : Fin 96) (v : BitVec 32) (s : State) : Result :=
  .next (if s.unitOn (domCmp n) && fieldOf v 1 0 != 0 then s.cmpTestWrite n v else s)

/-- SELFTEST_END (R108). -/
def execSelftestEnd (n : Fin 96) (v : BitVec 32) (s : State) : Result :=
  .next (if s.unitOn (domCmp n) then s.cmpTestWrite n (withField v 1 0 0) else s)

end Sys2Proof.Machine
end

