-- ==== Sys2Proof/Machine/Pwm.lean ====
section
/-! DEFINITION. PWM generators: carriers, edges, updates, trips and halts (R194 to R235). Instants are in steps of
19.53125 ps: 64 to a CLK_PWM cycle, 128 to a CLK_LOOP cycle. -/

namespace Sys2Proof.Machine

/-- Generator record n. -/
def State.pwm (s : State) (n : Nat) : Pwm := mapGet {} s.pwms n

/-- Replace generator record n. -/
def State.setPwm (s : State) (n : Nat) (r : Pwm) : State := { s with pwms := mapSet {} s.pwms n r }

/-- Fields of PWMn_CTRL. -/
def State.pwmEn (s : State) (n : Nat) : Bool := s.flag (Reg.PWM_CTRL n) 0
def State.carrier (s : State) (n : Nat) : Nat := s.fld (Reg.PWM_CTRL n) 9 8
def State.tbsel (s : State) (n : Nat) : Bool := s.flag (Reg.PWM_CTRL n) 4
def State.updImm (s : State) (n : Nat) : Bool := s.flag (Reg.PWM_CTRL n) 13
def State.loadSel (s : State) (n : Nat) : Nat := s.fld (Reg.PWM_CTRL n) 15 14
def State.coupled (s : State) (n : Nat) : Bool := s.flag (Reg.PWM_CTRL n) 16
def State.skipLate (s : State) (n : Nat) : Bool := s.flag (Reg.PWM_CTRL n) 17
def State.outMode (s : State) (n : Nat) : Nat := s.fld (Reg.PWM_OUT n) 5 4

/-- Values in force (R208). -/
def State.perF (s : State) (n : Nat) : Nat := (s.reg (Reg.PWM_ACTPER n)).toNat
def State.cmpaF (s : State) (n : Nat) : Nat := (s.reg (Reg.PWM_ACTCMPA n)).toNat
def State.cmpbF (s : State) (n : Nat) : Nat := (s.reg (Reg.PWM_ACTCMPB n)).toNat

/-- A written word as steps: signed, cut to 0 and 0x3FFF_FFFF (R208). -/
def stepsOf (w : Word) : Nat := (clipInt 0 0x3FFFFFFF (signedOf 32 w.toNat)).toNat

/-- A written PER as it acts (R208). -/
def perOf (carrier : Nat) (w : Word) : Nat :=
  let p := max 512 (stepsOf w)
  if carrier = 1 then min p 0x1FFFFFFF else p

/-- The generator's counter runs: enabled, in a period, not halted, clocks running. -/
def State.pwmRuns (s : State) (n : Nat) : Bool :=
  s.unitOn (domPwm n) && s.pwmEn n && s.flag (Reg.PWM_STAT n) 10 && (s.pwm n).haltAt == none

/-! Sources of trips (R218, R219). -/

/-- State of a cell: LCn_STAT.STATE. -/
def State.cellState (s : State) (c : Nat) : Nat := s.fld (Reg.LC_STAT c) 30 28

/-- The cell fault line of LCc: the cell, or the pair it follows, is in RECOVER or STOPPED (R180). -/
def State.cellFault (s : State) (c : Nat) : Bool :=
  let bad (x : Nat) : Bool := s.cellState x == 5 || s.cellState x == 6
  bad c || (s.cellState c == 7 && bad (c - 1))

/-- The position fault line of PIp: a masked flag is set (R132). -/
def State.piFault (s : State) (p : Nat) : Bool :=
  s.fld (Reg.PI_STAT p) 15 4 &&& s.fld (Reg.PI_FAULTMASK p) 15 4 != 0

/-- The FLT pins stand at the levels a command reports (R220). -/
def State.setFlt (s : State) (flt : BitVec 24) : State := { s with flt := flt }

/-- The source of a selector word of generator n is active now (R218). -/
def State.srcActive (s : State) (n : Nat) (w : Word) : Bool :=
  let c := fieldOf w 7 0
  if c < 0x60 then s.tripLine c
  else if c < 0x78 then s.flt.getLsbD (c - 0x60) == bitOf w 29
  else if c < 0x88 then s.piFault (c - 0x78)
  else if c < 0xBC then s.cellFault (c - 0x88)
  else if c = 0xBC then s.flag Reg.MS_STAT 0
  else if c = 0xBD then (s.pwm n).tripcmd == some s.now
  else false

/-- Selector k of generator n, enabled and of the given class (true = LATCHED), has an active source. -/
def State.selActive (s : State) (n k : Nat) (latched : Bool) : Bool :=
  let w := s.reg (Reg.PWM_TRIPSEL n k)
  bitOf w 31 && bitOf w 30 == latched && s.srcActive n w

/-- The owner of generator n's entry, if any. -/
def State.ownerOf (s : State) (i : Nat) : Option Nat :=
  let o := s.fld (Reg.SO_OWN i) 5 0
  if o < 52 then some o else none

/-- The owner fault line of generator n (R231). -/
def State.ownerFault (s : State) (n : Nat) : Bool :=
  match s.ownerOf n with
  | some c => s.cellFault c
  | none => false

/-- An output is routed to a non-home pad: some pin selects it (R226, R441). -/
def State.offHome (s : State) (n : Nat) (b : Bool) : Bool :=
  (List.range 256).any fun k => s.fld (Reg.PX_PIN k) 9 0 == 0x10 + 2 * n + bit b

/-! Pads. -/

/-- A home pad: high impedance or a driven level. -/
inductive PadLevel where
  | hiZ
  | level (high : Bool)
deriving DecidableEq, Repr

/-- What the generator drives on home pad A (`b` false) or B (R206, R214, R215, R225, R226, R232, R426). -/
def State.pwmPad (s : State) (n : Nat) (b : Bool) : PadLevel :=
  let st := s.reg (Reg.PWM_TRIPSTAT n)
  let out := s.reg (Reg.PWM_OUT n)
  if !s.domOn (domPwm n) then .hiZ
  else if bitOf st 3 then .level (s.flag (Reg.PWM_TRIPCTL n) (if b then 3 else 2))
  else if bitOf st 2 then .hiZ
  else if !(s.pwm n).opened then .hiZ
  else if !(s.pwmEn n && s.flag (Reg.PWM_STAT n) 10) then .level (bitOf out (if b then 1 else 0))
  else .level (if b then (s.pwm n).outB != bitOf out 3 else (s.pwm n).outA != bitOf out 2)

/-! Output logic (R204, R205). -/

/-- An output takes a level at step t. A pulse shorter than 128 steps is removed with both its edges: NARROW and
NARROWCNT (R205). A rise opens the comparators' windows (R102). -/
def State.outEdge (s : State) (n : Nat) (b level : Bool) (t : Nat) : State :=
  let p := s.pwm n
  let cur := if b then p.outB else p.outA
  let edges := if b then p.edgeB else p.edgeA
  if cur = level then s
  else
    let narrow := match edges with | e :: _ => decide (t < e + 128) | [] => false
    let edges := if narrow then edges.drop 1 else t :: edges.take 1
    let s := s.setPwm n (if b then { p with outB := level, edgeB := edges } else { p with outA := level, edgeA := edges })
    if narrow then (s.setFlag (Reg.PWM_STAT n) 3 true).satInc (Reg.PWM_CNT n) 23 16
    else if level then s.blankOpen n (if b then 3 else 2) t
    else s

/-- An output's target at step t: a fall acts now and cancels a delayed rise; a rise waits for `delay` (R204, R205). -/
def State.outTarget (s : State) (n : Nat) (b target : Bool) (delay t : Nat) : State :=
  let p := s.pwm n
  let cur := if b then p.outB else p.outA
  let wait := if b then p.riseB else p.riseA
  let setWait := fun (s : State) (w : Option Nat) =>
    s.setPwm n (if b then { s.pwm n with riseB := w } else { s.pwm n with riseA := w })
  if !target then (setWait s none).outEdge n b false t
  else if cur then s
  else if delay = 0 then (setWait s none).outEdge n b true t
  else match wait with
    | some _ => s
    | none => setWait s (some (t + delay))

/-- The raw signals as the outputs see them: the carrier's, held at 0 by a CBC force (R222). -/
def Pwm.rawA (p : Pwm) : Bool := p.ra && !p.forceA
def Pwm.rawB (p : Pwm) : Bool := p.rb && !p.forceB

/-- The outputs follow the raw signals at step t (R204). -/
def State.outputs (s : State) (n t : Nat) : State :=
  let p := s.pwm n
  let dtr := fieldOf p.dtF 15 0
  let dtf := fieldOf p.dtF 31 16
  match s.outMode n with
  | 0 => (s.outTarget n false p.rawA dtr t).outTarget n true (!p.rawA) dtf t
  | 1 => (s.outTarget n false p.rawA 0 t).outTarget n true p.rawB 0 t
  | _ =>
    let s := s.outTarget n false p.rawA dtr t
    s.outTarget n true (s.pwm n).outA 0 t

/-! Instances (R200 to R202, R207). -/

/-- The position of an instance in a period by the values in force, if the period has it. Rises at x = 0 belong to the
period start. -/
def State.instPos (s : State) (n : Nat) (i : PwmInst) : Option Nat :=
  let per := s.perF n
  let p := s.pwm n
  let fall (c : Nat) : Option Nat :=
    match s.carrier n with
    | 0 => if c < per then some c else none
    | 1 => if 0 < c ∧ c < per then some c else none
    | _ => none
  let rise (c : Nat) : Option Nat :=
    if s.carrier n = 1 ∧ 0 < c ∧ c < per then some (2 * per - c) else none
  match i with
  | .raFall => if s.carrier n = 2 then some (s.cmpaF n) else fall (s.cmpaF n)
  | .raRise => rise (s.cmpaF n)
  | .rbFall => fall (s.cmpbF n)
  | .rbRise => rise (s.cmpbF n)
  | .centre => match s.carrier n with | 0 => some (per / 2) | 1 => some per | _ => none
  | .trg k down =>
    let v := (p.trgF[k.val]?).getD 0
    let dir := fieldOf p.trgcfgF (2 * k + 1) (2 * k)
    match s.carrier n, down with
    | 1, false => if v ≤ per ∧ (dir = 1 ∨ dir = 3) then some v else none
    | 1, true => if 0 < v ∧ v < per ∧ (dir = 2 ∨ dir = 3) then some (2 * per - v) else none
    | 0, false => if dir = 1 ∧ v < per then some v else none
    | _, false =>
      if dir = 1 then (match p.endAt with | some e => if p.start + v < e then some v else none | none => some v) else none
    | _, true => none

/-- The instant of an instance that this period still has to produce. -/
def State.instDue (s : State) (n : Nat) (i : PwmInst) : Option Nat :=
  let p := s.pwm n
  match s.instPos n i with
  | some x => if p.fired.contains i || decide (x < p.fromPos) then none else some (p.start + x)
  | none => none

/-- An instance has fired or is skipped in this period. -/
def State.markFired (s : State) (n : Nat) (i : PwmInst) : State :=
  s.setPwm n { s.pwm n with fired := i :: (s.pwm n).fired }

/-- An edge instance fires at step t: the raw signal takes its level and the outputs follow (R200). -/
def State.fireEdge (s : State) (n : Nat) (i : PwmInst) (t : Nat) : State :=
  let s := s.markFired n i
  let p := s.pwm n
  let s := match i with
    | .raRise => s.setPwm n { p with ra := true }
    | .raFall => s.setPwm n { p with ra := false }
    | .rbRise => s.setPwm n { p with rb := true }
    | .rbFall => s.setPwm n { p with rb := false }
    | _ => s
  s.outputs n t

/-- A trigger instance fires at step t: source 8n + 2 + k with its fraction (R141, R207). -/
def State.fireTrg (s : State) (n : Nat) (k : Fin 4) (down : Bool) (t : Nat) : State :=
  (s.markFired n (.trg k down)).raiseAt (8 * n + 2 + k) (t / 128) (t % 128)

/-- EDGE_INSTANCE (R200). -/
def execEdgeInstance (n : Fin 96) (i : PwmInst) (s : State) : Result :=
  let edge := match i with | .raRise | .raFall | .rbRise | .rbFall => true | _ => false
  match s.instDue n i with
  | some t => .next (if s.pwmRuns n && edge then (s.advanceTo (t / 128)).fireEdge n i t else s)
  | none => .next s

/-- TRIGGER_INSTANCE (R207). -/
def execTriggerInstance (n : Fin 96) (k : Fin 4) (down : Bool) (s : State) : Result :=
  match s.instDue n (.trg k down) with
  | some t => .next (if s.pwmRuns n then (s.advanceTo (t / 128)).fireTrg n k down t else s)
  | none => .next s

/-- DEAD_TIME_END (R204). -/
def execDeadTimeEnd (n : Fin 96) (b : Bool) (s : State) : Result :=
  let p := s.pwm n
  match (if b then p.riseB else p.riseA) with
  | none => .next s
  | some t =>
    if !s.pwmRuns n then .next s
    else
      let s := s.advanceTo (t / 128)
      let s := s.setPwm n (if b then { p with riseB := none } else { p with riseA := none })
      let s := s.outEdge n b true t
      .next (if !b && s.outMode n == 2 then s.outTarget n true true 0 t else s)

/-! Immediate updates (R211). -/

/-- The instances a member times: 1 CMPA, 2 CMPB, 3 to 6 TRG0 to TRG3. -/
def memberInsts (m : Nat) : List PwmInst :=
  match m with
  | 1 => [.raFall, .raRise]
  | 2 => [.rbFall, .rbRise]
  | 3 => [.trg 0 false, .trg 0 true]
  | 4 => [.trg 1 false, .trg 1 true]
  | 5 => [.trg 2 false, .trg 2 true]
  | 6 => [.trg 3 false, .trg 3 true]
  | _ => []

/-- The register of a member. -/
def memberReg (n m : Nat) : Nat :=
  match m with
  | 0 => Reg.PWM_PER n
  | 1 => Reg.PWM_CMPA n
  | 2 => Reg.PWM_CMPB n
  | _ => Reg.PWM_TRG n (m - 3)

/-- A member's written value comes into force (R208). -/
def State.memberForce (s : State) (n m : Nat) : State :=
  let w := s.reg (memberReg n m)
  match m with
  | 0 => s.setReg (Reg.PWM_ACTPER n) (BitVec.ofNat 32 (perOf (s.carrier n) w))
  | 1 => s.setReg (Reg.PWM_ACTCMPA n) (BitVec.ofNat 32 (stepsOf w))
  | 2 => s.setReg (Reg.PWM_ACTCMPB n) (BitVec.ofNat 32 (stepsOf w))
  | _ => s.setPwm n { s.pwm n with trgF := (s.pwm n).trgF.set (m - 3) (stepsOf w) }

/-- Judge one instance after a value came into force on CLK_LOOP edge L (R211): a late one fires at L or is skipped. -/
def State.judgeInst (s : State) (n L : Nat) (i : PwmInst) : State :=
  match s.instDue n i with
  | none => s
  | some t =>
    if 128 * L ≤ t then s
    else
      let s := s.setFlag (Reg.PWM_STAT n) 2 true
      if s.skipLate n then s.markFired n i
      else match i with
        | .trg k down => s.fireTrg n k down (128 * L)
        | _ => s.fireEdge n i (128 * L)

/-- A member comes into force on edge L while the generator runs, and its instances are judged again (R211). In COFF a
period start that a new CMPA places before L starts at L. -/
def State.memberNow (s : State) (n L m : Nat) : State :=
  let s := s.memberForce n m
  if !s.pwmRuns n then s
  else
    let s := (memberInsts m).foldl (fun s i => s.judgeInst n L i) s
    let p := s.pwm n
    if m = 1 ∧ s.carrier n = 3 then
      match p.resolved with
      | some r => s.setPwm n { p with endAt := some (max (r + s.cmpaF n) (128 * L)) }
      | none => s
    else s

/-! Period starts and centres (R195 to R199, R209, R212, R223, R230, R231). -/

/-- T of the period in force: PER or 2 PER (R195). -/
def State.periodT (s : State) (n : Nat) : Nat := if s.carrier n = 1 then 2 * s.perF n else s.perF n

/-- The next period start of generator n, if it is determined (R195, R197, R199, R201, R202, R214). -/
def State.nextStart (s : State) (n : Nat) : Option Nat :=
  let p := s.pwm n
  match p.firstAt with
  | some t => some t
  | none =>
    if s.tbsel n then
      match p.freeT with
      | some T => some (p.start + T)
      | none =>
        let l := n / 16 * 16
        let q := s.pwm l
        if p.start < q.start + p.phaseF then some (q.start + p.phaseF) else some (q.start + s.periodT l + p.phaseF)
    else if s.carrier n < 2 then some (p.start + s.periodT n)
    else p.endAt

/-- CBC sources at a release point: a force with no active selector is released; an active one keeps it and is counted
for the new interval (R223). -/
def State.cbcRelease (s : State) (n : Nat) : State :=
  let act := (List.range 8).filter fun k => s.selActive n k false
  let hold (i : Nat) : Bool := act.any fun k => s.flag (Reg.PWM_TRIPSEL n k) i
  let p := s.pwm n
  let fa := hold 24
  let fb := hold 25
  let s := s.setPwm n { p with forceA := fa, forceB := fb, cbcSeen := fa || fb }
  if fa || fb then
    let s := act.foldl (fun s k => s.setFlag (Reg.PWM_TRIPSTAT n) (16 + k) true) s
    (s.setFlag (Reg.PWM_TRIPSTAT n) 1 true).satInc (Reg.PWM_TRIPCNT n) 23 16
  else s

/-- The action of a latched trip on the pads (R225, R226): high impedance or the safe levels; an output away from home is
forced. FBCNT counts a trip in which the fall-back is used once (R227). -/
def State.tripAction (s : State) (n record : Nat) : State :=
  let away := s.offHome n false || s.offHome n true
  let force := s.flag (Reg.PWM_TRIPCTL n) 0
  let s := if force then s.setFlag (Reg.PWM_TRIPSTAT n) 3 true else s.setFlag (Reg.PWM_TRIPSTAT n) 2 true
  let s := if away then s.setFlag (Reg.PWM_TRIPSTAT n) 5 true else s
  let p := s.pwm n
  let fb := force || away
  let s := s.setPwm n { p with
    senseFrom := if force then none else some (record + 11), fbSeen := p.fbSeen || fb, resumeFrom := none }
  if fb && !p.fbSeen then s.satInc (Reg.PWM_TRIPCNT n) 15 8 else s

/-- A latched trip of generator n whose source became active at step t (R224); `k` is the selector recorded. -/
def State.tripSet (s : State) (n t : Nat) (k : Option Nat) : State :=
  if s.flag (Reg.PWM_TRIPSTAT n) 0 then
    match k with
    | some k => s.setFlag (Reg.PWM_TRIPSTAT n) (24 + k) true
    | none => s
  else
    let rec' := t / 128 + 2
    let s := s.setFlag (Reg.PWM_TRIPSTAT n) 0 true
    let s := s.setPwm n { s.pwm n with fbSeen := false, records := (s.pwm n).records ++ [(rec', k.getD 8)] }
    s.tripAction n rec'

/-- HOLD_TRIP: the owner fault line at a period start (R231). -/
def State.holdCount (s : State) (n t : Nat) : State :=
  if !s.ownerFault n then s
  else
    let max := s.fld (Reg.PWM_TRIPCTL n) 23 16
    let now := s.fld (Reg.PWM_TRIPSTAT n) 15 8
    if now < max then s.setFld (Reg.PWM_TRIPSTAT n) 15 8 (now + 1)
    else if max = 0xFF then s
    else (s.setFlag (Reg.PWM_TRIPSTAT n) 7 true).tripSet n t none

/-- HOLDNOW_RESET: the fault line of cell c is released (R231). -/
def State.holdReset (s : State) (c : Nat) : State :=
  (List.range 96).foldl (fun s n =>
    if s.ownerOf n == some c then s.setFld (Reg.PWM_TRIPSTAT n) 15 8 0 else s) s

/-- The pads leave the trip action: HIZ, FORCED and FBNONHOME clear. -/
def State.padsFree (s : State) (n : Nat) : State :=
  let s := s.setFld (Reg.PWM_TRIPSTAT n) 3 2 0
  let s := s.setFlag (Reg.PWM_TRIPSTAT n) 5 false
  s.setPwm n { s.pwm n with resumeFrom := none, senseFrom := none }

/-- TRIP_RESUME at a period start whose reload edge is step r (R230). -/
def State.tripResume (s : State) (n r : Nat) : State :=
  match (s.pwm n).resumeFrom with
  | some L => if 128 * L < r then s.padsFree n else s
  | none => s

/-- Written values that come into force on the reload edge of a period start (R209, R212). -/
def State.startLoad (s : State) (n : Nat) : State :=
  let p := s.pwm n
  let s := s.setPwm n { p with dtF := s.reg (Reg.PWM_DT n), trgcfgF := s.reg (Reg.PWM_TRGCFG n) }
  if s.coupled n then
    if s.flag (Reg.PWM_STAT n) 9 then
      let s := (s.pwm n).staged.foldl (fun s m => s.memberForce n m) s
      (s.setPwm n { s.pwm n with staged := [] }).setFlag (Reg.PWM_STAT n) 9 false
    else if s.flag (Reg.PWM_STAT n) 8 then (s.setFlag (Reg.PWM_STAT n) 1 true).satInc (Reg.PWM_CNT n) 15 8
    else s
  else
    let s := s.memberForce n 0
    if !s.updImm n && (s.loadSel n == 1 || s.loadSel n == 3) then
      [1, 2, 3, 4, 5, 6].foldl (fun s m => s.memberForce n m) s
    else s

/-- The level the carrier gives a raw signal of compare c at position x (R200 to R202). -/
def State.rawAt (s : State) (n c x : Nat) : Bool :=
  match s.carrier n with
  | 1 => decide (x < c) || (decide (2 * s.perF n ≤ x + c) && decide (0 < c))
  | 3 => true
  | _ => decide (x < c)

/-- A pending ownership switch whose SWGEN is generator n gets its switch edge (R150, R151). -/
def State.noteSwitch (s : State) (n t : Nat) : State :=
  let e := (t + 127) / 128
  (List.range 112).foldl (fun s i =>
    let w := s.reg (Reg.SO_OWN i)
    let g := fieldOf w 30 24
    if bitOf w 7 && (g == n || (g == 0x7F && i == n)) && (mapGet 0 s.switchAt i == 0) && decide (mapGet 0 s.pendFrom i < e) then
      { s with switchAt := mapSet 0 s.switchAt i e }
    else s) s

/-- PERIOD_START's work: a period begins at step t with x = pos at its reload edge `r` (R195, R198, R209, R223, R230,
R231). PSTART is raised when the period begins at x = 0. At a first or resuming start the outputs begin low (R214, R230). -/
def State.periodStart (s : State) (n t pos r : Nat) : State :=
  let resumed := match (s.pwm n).resumeFrom with | some L => decide (128 * L < r) | none => false
  let first := !s.flag (Reg.PWM_STAT n) 10 || resumed
  let s := s.startLoad n
  let pos := if s.carrier n < 2 ∧ !s.tbsel n then pos % s.periodT n else pos
  let p := s.pwm n
  let s := s.setPwm n { p with
    firstAt := none, start := t - pos, fromPos := pos, endAt := none, resolved := none, fired := [],
    ra := s.rawAt n (s.cmpaF n) pos, rb := if s.carrier n < 2 then s.rawAt n (s.cmpbF n) pos else p.rb }
  let s := s.setFlag (Reg.PWM_STAT n) 10 true
  let s := s.cmpPeriodStart n t
  let s := if s.carrier n ≠ 1 then s.cbcRelease n else s
  let s := s.tripResume n r
  let s := s.holdCount n t
  let s := if first then s.setPwm n { s.pwm n with outA := false, outB := false, edgeA := [], edgeB := [], riseA := none, riseB := none } else s
  let s := s.outputs n t
  let s := if n % 16 = 0 then
      (List.range 15).foldl (fun s j =>
        let f := n + 1 + j
        if s.pwmEn f && s.tbsel f then s.setPwm f { s.pwm f with phaseF := stepsOf (s.reg (Reg.PWM_PHASE f)) } else s) s
    else s
  let s := s.noteSwitch n t
  if pos = 0 then s.raiseAt (8 * n) (t / 128) (t % 128) else s

/-- The reload edge of an instant: the CLK_PWM edge that begins its cycle (R196). -/
def reloadEdge (t : Nat) : Nat := t / 64 * 64

/-- The generator may start a period: enabled, clocks running, not halted. -/
def State.pwmLive (s : State) (n : Nat) : Bool :=
  s.unitOn (domPwm n) && s.pwmEn n && (s.pwm n).haltAt == none

/-- PERIOD_START (R195). A start already carried out for a write on its reload edge is not done twice (R210). -/
def execPeriodStart (n : Fin 96) (flt : BitVec 24) (s : State) : Result :=
  let s := s.setFlt flt
  let p := s.pwm n
  if p.early.contains p.start then
    .next ((s.advanceTo (p.start / 128)).setPwm n { p with early := p.early.filter (· != p.start) })
  else match s.nextStart n with
    | some t => .next (if s.pwmLive n then (s.advanceTo (t / 128)).periodStart n t 0 (reloadEdge t) else s)
    | none => .next s

/-- PWM_CENTRE's work at step t (R196, R209, R223). -/
def State.centre (s : State) (n t : Nat) : State :=
  let s := s.markFired n .centre
  let s := if !s.coupled n && !s.updImm n && decide (2 ≤ s.loadSel n) then
      [1, 2, 3, 4, 5, 6].foldl (fun s m => s.memberForce n m) s
    else s
  let s := if s.carrier n = 1 then (s.cbcRelease n).outputs n t else s
  s.raiseAt (8 * n + 1) (t / 128) (t % 128)

/-- PWM_CENTRE (R196). -/
def execPwmCentre (n : Fin 96) (flt : BitVec 24) (s : State) : Result :=
  let s := s.setFlt flt
  match s.instDue n .centre with
  | some t => .next (if s.pwmRuns n then (s.advanceTo (t / 128)).centre n t else s)
  | none => .next s

/-- A write that lands now lies on the reload edge of a load point: that load point is carried out first, and the second
part says that the write is late (R210, R22). -/
def State.lateReload (s : State) (n : Nat) : State × Bool :=
  if !s.pwmLive n then (s, false)
  else
    let here := 128 * s.now
    let s1 := match s.nextStart n with
      | some t => if reloadEdge t = here then
          let s := s.periodStart n t 0 here
          some (s.setPwm n { s.pwm n with early := t :: (s.pwm n).early })
        else none
      | none => none
    match s1 with
    | some s => (s, true)
    | none =>
      match s.instDue n .centre with
      | some t =>
        if reloadEdge t = here ∧ s.flag (Reg.PWM_STAT n) 10 then (s.centre n t, true)
        else (s, s.flag (Reg.PWM_STAT n) 10 && reloadEdge (s.pwm n).start == here)
      | none => (s, s.flag (Reg.PWM_STAT n) 10 && (reloadEdge (s.pwm n).start == here ||
          (match s.instPos n .centre with
           | some x => (s.pwm n).fired.contains .centre && reloadEdge ((s.pwm n).start + x) == here
           | none => false)))

/-- LATE_WRITE: LATE, LATECNT and the LATE event on the landing edge (R210). -/
def State.lateNote (s : State) (n : Nat) (late : Bool) : State :=
  if late then ((s.setFlag (Reg.PWM_STAT n) 0 true).satInc (Reg.PWM_CNT n) 7 0).raiseNow (8 * n + 7) else s

/-- PWM_VALUE_WRITE: a write of member m (0 PER, 1 CMPA, 2 CMPB, 3 to 6 TRGk) lands (R208 to R213). -/
def State.pwmMemberWrite (s : State) (n m : Nat) (v : Word) : State :=
  let (s, late) := s.lateReload n
  let s := s.lateNote n late
  let s := s.setReg (memberReg n m) v
  if !s.pwmEn n then s
  else if s.coupled n then
    let p := s.pwm n
    let s := s.setPwm n { p with staged := if p.staged.contains m then p.staged else p.staged ++ [m] }
    (s.setFlag (Reg.PWM_STAT n) 8 true).setFlag (Reg.PWM_STAT n) 9 false
  else if s.updImm n && m != 0 then s.memberNow n (if late then s.now + 1 else s.now) m
  else s

/-- A write of PHASE is stored; it comes into force as R197 and R198 give. -/
def State.pwmPhaseWrite (s : State) (n : Nat) (v : Word) : State := s.setReg (Reg.PWM_PHASE n) v

/-- A write of COMMIT (R210, R212, R213). -/
def State.pwmCommitWrite (s : State) (n : Nat) : State :=
  let (s, late) := s.lateReload n
  let s := s.lateNote n late
  if !(s.pwmEn n && s.coupled n && s.flag (Reg.PWM_STAT n) 8) then s
  else
    let s := s.setFlag (Reg.PWM_STAT n) 8 false
    if s.updImm n && !(s.pwm n).staged.contains 0 then
      let L := if late then s.now + 1 else s.now
      let ms := (s.pwm n).staged
      let s := ms.foldl (fun s m => s.memberNow n L m) s
      s.setPwm n { s.pwm n with staged := [] }
    else s.setFlag (Reg.PWM_STAT n) 9 true

/-- A write of PWMn_DT: live from the next period start (R209, R210). -/
def State.pwmDtWrite (s : State) (n : Nat) (v : Word) : State :=
  let (s, late) := s.lateReload n
  (s.lateNote n late).setReg (Reg.PWM_DT n) v

/-- A window write to an owned register of ownership entry i is refused while it has an owner (R149); `fld` is the
written register's field. -/
def State.windowOwned (s : State) (i chk fld : Nat) (f : State → State) : State :=
  match s.ownerOf i with
  | some c => (s.setFlag Reg.SO_STAT 2 true).cfgFail chk ⟨0x04, fld, c⟩
  | none => f s

/-- PWM_COMMIT (R212, R149). -/
def execPwmCommit (n : Fin 96) (_v : BitVec 32) (s : State) : Result :=
  .next (if s.unitOn (domPwm n) then s.windowOwned n (Reg.PWM_CFGCHK n) 144 fun s => s.pwmCommitWrite n else s)

/-- SYNC_DELIVERY on CLK_LOOP edge e (R198): the period ends at e and a new one begins at x = PHASE mod T. -/
def State.pwmSync (s : State) (n e : Nat) : State :=
  if !(s.pwmLive n && !s.tbsel n && decide (s.carrier n < 2)) then s
  else
    let ph := stepsOf (s.reg (Reg.PWM_PHASE n))
    let s := s.setPwm n { s.pwm n with phaseF := ph }
    if s.flag (Reg.PWM_STAT n) 10 && (s.pwm n).start == 128 * e then
      let pos := ph % s.periodT n
      (s.setPwm n { s.pwm n with
        start := 128 * e - pos, fromPos := pos,
        ra := s.rawAt n (s.cmpaF n) pos, rb := s.rawAt n (s.cmpbF n) pos }).outputs n (128 * e)
    else s.periodStart n (128 * e) ph (128 * e)

/-! COT and COFF (R201 to R203). -/

/-- A timeout of COT or COFF is counted. -/
def State.pwmTimeout (s : State) (n : Nat) : State := (s.setFlag (Reg.PWM_STAT n) 4 true).satInc (Reg.PWM_CNT n) 31 24

/-- The pulse-end input is active: the latch of PESEL (R203). -/
def State.pulseEnd (s : State) (n : Nat) : Bool :=
  let c := s.fld (Reg.PWM_CTRL n) 30 24
  decide (c < 96) && s.tripLine c

/-- When an input that became active at step t is seen by a condition watching from step w (R203). -/
def seenAt (t w : Nat) : Nat := if t ≤ w then w else max w ((t + 63) / 64 * 64 + 64)

/-- PULSE_END_SEEN (R201, R203): the input seen after the minimum off-time ends the COT period, on the reload edge of
the timeout at the latest (R21). -/
def execPulseEndSeen (n : Fin 96) (t : Nat) (s : State) : Result :=
  let p := s.pwm n
  let seen := seenAt t (p.start + s.cmpaF n + s.cmpbF n)
  if s.pwmRuns n && s.carrier n == 2 && s.pulseEnd n && p.endAt == none &&
      decide (reloadEdge seen ≤ reloadEdge (p.start + s.perF n)) then
    .next ((s.advanceTo (seen / 128)).setPwm n { p with endAt := some seen })
  else .next s

/-- COT_TIMEOUT (R201). -/
def execCotTimeout (n : Fin 96) (s : State) : Result :=
  let p := s.pwm n
  let t := p.start + s.perF n
  if s.pwmRuns n && s.carrier n == 2 && p.endAt == none then
    .next (((s.advanceTo (t / 128)).setPwm n { p with endAt := some t }).pwmTimeout n)
  else .next s

/-- COFF_PULSE_END (R202): ra falls at t, and the edge on which the input is seen is the resolved instant. -/
def execCoffPulseEnd (n : Fin 96) (t : Nat) (s : State) : Result :=
  let p := s.pwm n
  let t := max t p.start
  if s.pwmRuns n && s.carrier n == 3 && s.pulseEnd n && p.resolved == none && decide (t < p.start + s.cmpbF n) then
    let r := seenAt t p.start
    let s := s.advanceTo (t / 128)
    let s := s.setPwm n { s.pwm n with resolved := some r, endAt := some (r + s.cmpaF n) }
    .next (s.fireEdge n .raFall t)
  else .next s

/-- COFF_TIMEOUT (R202). -/
def execCoffTimeout (n : Fin 96) (s : State) : Result :=
  let p := s.pwm n
  let t := p.start + s.cmpbF n
  if s.pwmRuns n && s.carrier n == 3 && p.resolved == none then
    let s := s.advanceTo (t / 128)
    let s := s.setPwm n { s.pwm n with resolved := some t, endAt := some (t + s.cmpaF n) }
    .next ((s.fireEdge n .raFall t).pwmTimeout n)
  else .next s

/-! Trips (R222 to R231). -/

/-- CBC_FORCE (R222, R223). -/
def execCbcForce (n : Fin 96) (k : Fin 8) (t : Nat) (flt : BitVec 24) (s : State) : Result :=
  let s := (s.advanceTo (t / 128)).setFlt flt
  if !(s.pwmRuns n && s.selActive n k false) then .next s
  else
    let w := s.reg (Reg.PWM_TRIPSEL n k)
    let p := s.pwm n
    let s := s.setPwm n { p with forceA := p.forceA || bitOf w 24, forceB := p.forceB || bitOf w 25, cbcSeen := true }
    let s := (s.setFlag (Reg.PWM_TRIPSTAT n) (16 + k) true).setFlag (Reg.PWM_TRIPSTAT n) 1 true
    let s := if p.cbcSeen then s else s.satInc (Reg.PWM_TRIPCNT n) 23 16
    .next (s.outputs n t)

/-- LATCHED_TRIP (R224 to R226). A trip with EN = 0 has no effect (R230). -/
def execLatchedTrip (n : Fin 96) (k : Fin 8) (t : Nat) (flt : BitVec 24) (s : State) : Result :=
  let s := (s.advanceTo (t / 128)).setFlt flt
  .next (if s.domOn (domPwm n) && s.pwmEn n && s.selActive n k true then s.tripSet n t (some k) else s)

/-- TRIP_RECORD (R224): LATSRC, LATCNT and event 8n + 6 on the record edge. -/
def execTripRecord (n : Fin 96) (s : State) : Result :=
  match (s.pwm n).records with
  | [] => .next s
  | (e, k) :: rest =>
    if !s.unitOn (domPwm n) then .next s
    else
      let s := s.advanceTo e
      let s := s.setPwm n { s.pwm n with records := rest }
      let s := if k < 8 then s.setFlag (Reg.PWM_TRIPSTAT n) (24 + k) true else s
      .next ((s.satInc (Reg.PWM_TRIPCNT n) 31 24).raiseAt (8 * n + 6) e 0)

/-- PAD_SENSE_MISMATCH (R226, R227). -/
def execPadSenseMismatch (n : Fin 96) (a b : Bool) (s : State) : Result :=
  match (s.pwm n).senseFrom with
  | none => .next s
  | some e =>
    if !s.unitOn (domPwm n) || !s.flag (Reg.PWM_TRIPSTAT n) 2 then .next s
    else
      let s := s.advanceTo e
      let ctl := s.reg (Reg.PWM_TRIPCTL n)
      if a = bitOf ctl 2 ∧ b = bitOf ctl 3 then .next s
      else
        let s := (s.setFld (Reg.PWM_TRIPSTAT n) 3 2 2).setFlag (Reg.PWM_TRIPSTAT n) 4 true
        let p := s.pwm n
        let s := s.setPwm n { p with senseFrom := none, fbSeen := true }
        .next (if p.fbSeen then s else s.satInc (Reg.PWM_TRIPCNT n) 15 8)

/-- A write to PWMn_TRIPSTAT (R229, R230): W1C flags, and the clear of TRIPLATCH. -/
def State.tripStatWrite (s : State) (n : Nat) (v : Word) : State :=
  let a := Reg.PWM_TRIPSTAT n
  let s := s.setReg a (withField (withField (withField (withField (s.reg a)
    23 16 (s.fld a 23 16 - (s.fld a 23 16 &&& fieldOf v 23 16)))
    6 6 (bit (s.flag a 6 && !bitOf v 6))) 4 4 (bit (s.flag a 4 && !bitOf v 4))) 1 1 (bit (s.flag a 1 && !bitOf v 1)))
  if !(bitOf v 0 && s.flag a 0) then s
  else if (List.range 8).any (fun k => s.selActive n k true) || (s.flag a 7 && s.ownerFault n) then s.setFlag a 6 true
  else
    let s := ((s.setFlag a 0 false).setFld a 31 24 0).setFlag a 7 false
    let s := s.setPwm n { s.pwm n with senseFrom := none }
    if s.pwmEn n then s.setPwm n { s.pwm n with resumeFrom := some s.now } else s.padsFree n

/-- TRIP_CLEAR (R229). -/
def execTripClear (n : Fin 96) (v : BitVec 32) (flt : BitVec 24) (s : State) : Result :=
  let s := s.setFlt flt
  .next (if s.unitOn (domPwm n) then s.tripStatWrite n (withField v 0 0 1) else s)

/-! Halts (R216, R478). -/

/-- With HALTACT = SAFE a halted generator takes the output action of a latched trip, once. -/
def State.haltSafe (s : State) (n : Nat) : State :=
  if (s.pwm n).haltAt.isNone || !s.flag (Reg.PWM_OUT n) 8 || s.flag (Reg.PWM_STAT n) 11 then s
  else if s.flag (Reg.PWM_TRIPSTAT n) 0 then s.setFlag (Reg.PWM_STAT n) 11 true
  else ((s.setPwm n { s.pwm n with fbSeen := false }).setFlag (Reg.PWM_STAT n) 11 true).tripAction n (s.now + 2)

/-- HALT_ACTION at a generator: SAFE takes the trip action without TRIPLATCH, with HALTED set. -/
def State.pwmHalt (s : State) (n : Nat) : State :=
  if !s.pwmEn n || (s.pwm n).haltAt != none then s
  else
    (s.setPwm n { s.pwm n with haltAt := some s.now }).haltSafe n

/-- Move every instant of a generator later by d steps: its counter stood still. -/
def Pwm.shift (p : Pwm) (d : Nat) : Pwm :=
  { p with
    start := p.start + d, firstAt := p.firstAt.map (· + d), endAt := p.endAt.map (· + d),
    resolved := p.resolved.map (· + d), riseA := p.riseA.map (· + d), riseB := p.riseB.map (· + d) }

/-- The halt of a generator ends: it continues from the same position; a SAFE action holds until EN := 0 (R216). -/
def State.pwmResume (s : State) (n : Nat) : State :=
  match (s.pwm n).haltAt with
  | none => s
  | some e => s.setPwm n { (s.pwm n).shift (128 * (s.now - e)) with haltAt := none }

/-- The generators of the groups a CPGRP mask names. -/
def haltGroup (mask : Nat) : List Nat := (List.range 96).filter fun n => mask / 2 ^ (n / 16) % 2 == 1

/-! Enable and disable (R214, R215, R217, R235, R475). -/

/-- PERTURBATION_DROP: an enable with LIVE = 0 removes the control-plane perturbations and sets CPDROP (R475). -/
def State.dropPerturb (s : State) : State :=
  if s.flag Reg.TP_CTRL 8 then s
  else if s.flag Reg.TP_STAT 1 then
    let s := State.setReg { s with mismCell := [] } Reg.TP_SODLY 0 |>.setReg Reg.TP_CSDLY 0
    let s := if s.flag Reg.TP_DBGCTL 31 then
        (haltGroup (s.fld Reg.TP_DBGCTL 21 16)).foldl (fun s n => s.pwmResume n) (s.setFlag Reg.TP_DBGCTL 31 false)
      else s
    (s.setFlag Reg.TP_STAT 1 false).setFlag Reg.TP_STAT 2 true
  else s

/-- What CFGCHK refuses about the unit and the ranges of one PWM's fields. -/
def State.pwmRangeFails (s : State) (n : Nat) : List CfgFail :=
  let c := s.reg (Reg.PWM_CTRL n)
  let pe := fieldOf c 30 24
  let l := n / 16 * 16
  failIf (!s.domOn (domPwm n)) 0x02 0xFF (domPwm n) ++ failIf (!s.clk.run) 0x03 0xFF 0 ++
  failIf (fieldOf c 15 14 == 0) 0x05 5 ++ failIf (s.fld (Reg.PWM_OUT n) 5 4 == 3) 0x05 171 ++
  failIf (decide (96 ≤ pe) && pe != 0x7F) 0x05 1 ++
  failIf (bitOf c 4 && n % 16 != 0 && !s.pwmEn l) 0x09 10 (depDetail (Reg.PWM_CTRL l)) ++
  failIf (decide (2 ≤ fieldOf c 9 8) && decide (pe < 96) && !s.flag (Reg.CMP_CTRL pe) 0) 0x09 1 (depDetail (Reg.CMP_CTRL pe)) ++
  failIf (s.phase == 0 || s.phase == 1) 0x08 0xFF s.phase

/-- What CFGCHK refuses about one trigger of a PWM. -/
def State.pwmTrgFails (s : State) (n car : Nat) (per : Int) (k : Nat) : List CfgFail :=
  let dir := s.fld (Reg.PWM_TRGCFG n) (2 * k + 1) (2 * k)
  let t := signedOf 32 (s.reg (Reg.PWM_TRG n k)).toNat
  failIf (dir != 0 && ((car == 0 && decide (per ≤ t)) || (car == 1 && decide (per < t)))) 0x13 (96 + 12 * k) ++
  failIf (decide (2 ≤ dir) && car != 1) 0x18 (184 - k)

/-- What CFGCHK refuses about the carrier, the compares and the triggers. -/
def State.pwmCarrierFails (s : State) (n : Nat) : List CfgFail :=
  let car := s.fld (Reg.PWM_CTRL n) 9 8
  let per := signedOf 32 (s.reg (Reg.PWM_PER n)).toNat
  let ca := signedOf 32 (s.reg (Reg.PWM_CMPA n)).toNat
  let cb := signedOf 32 (s.reg (Reg.PWM_CMPB n)).toNat
  failIf (car != 3 && decide (per < 512)) 0x10 48 ++
  failIf ((car == 1 && decide (0x1FFFFFFF < per)) || decide (0x3FFFFFFF < per)) 0x11 48 ++
  failIf (decide (car < 2) && decide (per < ca)) 0x12 60 ++ failIf (decide (car < 2) && decide (per < cb)) 0x12 72 ++
  ([0, 1, 2, 3].flatMap fun k => s.pwmTrgFails n car per k) ++
  failIf ((car == 2 && (decide (ca ≤ 0) || decide (per < ca + cb))) || (car == 3 && (decide (ca < 512) || decide (cb ≤ 0))))
    0x16 60

/-- What CFGCHK refuses about the peak comparator, the time base and the outputs. -/
def State.pwmOutFails (s : State) (n : Nat) : List CfgFail :=
  let c := s.reg (Reg.PWM_CTRL n)
  let car := fieldOf c 9 8
  let pe := fieldOf c 30 24
  let tb := bitOf c 4
  let l := n / 16 * 16
  let out := s.reg (Reg.PWM_OUT n)
  let ctl := s.reg (Reg.PWM_TRIPCTL n)
  let mode := fieldOf out 5 4
  failIf (decide (2 ≤ car) && pe == 0x7F) 0x14 1 ++
  failIf (decide (2 ≤ car) && decide (pe < 96) &&
    (s.fld (Reg.CMP_CTRL pe) 30 24 != n || !s.flag (Reg.CMP_CTRL pe) 8)) 0x15 1 ++
  failIf (fieldOf c 15 14 != 1 && (decide (2 ≤ car) || (bitOf c 16 && !bitOf c 13))) 0x17 5 ++
  failIf (tb && n % 16 == 0) 0x19 10 ++
  failIf (tb && (decide (2 ≤ car) || car != s.carrier l)) 0x1A 8 ++
  failIf (tb && decide ((s.periodT l : Int) ≤ signedOf 32 (s.reg (Reg.PWM_PHASE n)).toNat)) 0x1B 84 ++
  failIf (mode == 0 && (bitOf out 0 != bitOf out 2) && (bitOf out 1 != bitOf out 3)) 0x1C 175 ++
  failIf (s.flag (Reg.PWM_TRIPSTAT n) 0) 0x1D 0xF9 ++
  failIf (mode == 0 && (bitOf ctl 2 != bitOf out 2) && (bitOf ctl 3 != bitOf out 3)) 0x1E 0xF8

/-- What CFGCHK refuses about one trip source. -/
def State.pwmTripFails (s : State) (n k : Nat) : List CfgFail :=
  let w := s.reg (Reg.PWM_TRIPSEL n k)
  let src := fieldOf w 7 0
  if !bitOf w 31 then []
  else
    failIf (decide (0xBE ≤ src)) 0x05 (0xF0 + k) ++
    failIf (decide (src < 0x60) && !s.flag (Reg.CMP_CTRL src) 0) 0x09 (0xF0 + k) (depDetail (Reg.CMP_CTRL src)) ++
    failIf (decide (0x78 ≤ src) && decide (src < 0x88) && !s.flag (Reg.PI_CTRL (src - 0x78)) 0) 0x09 (0xF0 + k)
      (depDetail (Reg.PI_CTRL (src - 0x78))) ++
    failIf (bitOf w 29 && (decide (src < 0x60) || decide (0x78 ≤ src))) 0x1F (0xF0 + k) ++
    failIf (!bitOf w 30 && ((!bitOf w 24 && !bitOf w 25) || (bitOf w 25 && s.fld (Reg.PWM_OUT n) 5 4 != 1))) 0x20 (0xF0 + k)

/-- One member's compare checks and every other condition of R217 and R235. -/
def State.pwmFails (s : State) (n : Nat) : List CfgFail :=
  s.pwmRangeFails n ++ s.pwmCarrierFails n ++ s.pwmOutFails n ++ (List.range 8).flatMap fun k => s.pwmTripFails n k

/-- EN becomes 1 (R214): every written value in force, the staged set empty, the first start due. -/
def State.pwmUp (s : State) (n : Nat) : State :=
  let s := [0, 1, 2, 3, 4, 5, 6].foldl (fun s m => s.memberForce n m) s
  let e := 128 * (s.now + 1)
  let ph := stepsOf (s.reg (Reg.PWM_PHASE n))
  let first :=
    if s.tbsel n then
      let l := n / 16 * 16
      let q := s.pwm l
      match q.firstAt with
      | some t => t + ph
      | none =>
        let T := s.periodT l
        let base := q.start + ph
        if e ≤ base then base else base + (e - base + T - 1) / T * T
    else e
  let p := s.pwm n
  let s := s.setPwm n {
    tripcmd := p.tripcmd, opened := true, phaseF := ph, trgF := p.trgF,
    dtF := s.reg (Reg.PWM_DT n), trgcfgF := s.reg (Reg.PWM_TRGCFG n), firstAt := some first, start := first }
  let s := s.setFld (Reg.PWM_STAT n) 11 8 0
  (s.cmpGenReset n).dropPerturb

/-- EN becomes 0 (R199, R215, R216, R228): idle levels unless a trip holds the pads; sets discarded; followers free. -/
def State.pwmDown (s : State) (n : Nat) : State :=
  let p := s.pwm n
  let tripped := s.flag (Reg.PWM_TRIPSTAT n) 0
  let T := s.periodT n
  let s := s.setPwm n {
    opened := p.opened, phaseF := p.phaseF, trgF := p.trgF, records := [],
    senseFrom := p.senseFrom, fbSeen := p.fbSeen, tripcmd := p.tripcmd }
  let s := s.setFld (Reg.PWM_STAT n) 11 8 0
  let s := if tripped then s else s.padsFree n
  let s := s.cmpGenReset n
  if n % 16 = 0 then
    (List.range 15).foldl (fun s j =>
      let f := n + 1 + j
      if s.pwmEn f && s.tbsel f && (s.pwm f).freeT == none then
        (s.setPwm f { s.pwm f with freeT := some T }).setFlag (Reg.PWM_STAT f) 5 true
      else s) s
  else s

/-- A write of PWMn_CTRL (R14, R214, R215). -/
def State.pwmCtrlWrite (s : State) (n : Nat) (v : Word) : State :=
  s.unitWrite (Reg.PWM_CTRL n) (Reg.PWM_CFGCHK n) 0 v (fun s => s.pwmFails n) (fun s => s.pwmUp n) (fun s => s.pwmDown n) id

/-- PWM_ENABLE (R214). -/
def execPwmEnable (n : Fin 96) (v : BitVec 32) (s : State) : Result :=
  .next (s.whenOn (domPwm n) (Reg.PWM_CFGCHK n) fun s => s.pwmCtrlWrite n (withField v 0 0 1))

/-- PWM_DISABLE (R215). -/
def execPwmDisable (n : Fin 96) (v : BitVec 32) (s : State) : Result :=
  .next (if s.unitOn (domPwm n) then s.pwmCtrlWrite n (withField v 0 0 0) else s)

end Sys2Proof.Machine
end

