-- ==== Sys2Proof/Machine/Position.lean ====
section
/-! DEFINITION. Position interfaces and encoder emulators (R111 to R138), and the ownership filter of R148 that EMUPOS
shares with the generators. -/

namespace Sys2Proof.Machine

/-- Interface record n. -/
def State.pos (s : State) (n : Nat) : Pos := mapGet {} s.pis n

/-- Replace interface record n. -/
def State.setPos (s : State) (n : Nat) (r : Pos) : State := { s with pis := mapSet {} s.pis n r }

/-- Fields of PIn_CTRL: EN, and MODE 0 QUAD, 1 HALL, 2 SSI, 3 PD (R112). -/
def State.piEn (s : State) (n : Nat) : Bool := s.flag (Reg.PI_CTRL n) 0
def State.piMode (s : State) (n : Nat) : Nat := s.fld (Reg.PI_CTRL n) 2 1

/-- CPR as a modulus: 2^32 where CPR = 0 (R121). -/
def State.piMod (s : State) (n : Nat) : Nat :=
  if (s.reg (Reg.PI_CPR n)).toNat = 0 then 2 ^ 32 else (s.reg (Reg.PI_CPR n)).toNat

/-- Event k of interface n (R133). -/
def State.piEvent (s : State) (n k : Nat) : State := s.raiseNow (0x560 + 8 * n + k)

/-! Emulator (R134 to R137). -/

/-- EMULAG shows |lag| and EMULAG is set above LAGMAX (R137). -/
def State.emuLagShow (s : State) (n : Nat) : State :=
  let mag := (s.pos n).lag.natAbs
  let s := s.setFld (Reg.PI_EMULAG n) 31 16 (min mag 65535)
  let limit := s.fld (Reg.PI_EMULAG n) 15 0
  if s.flag (Reg.PI_EMUCTRL n) 0 && limit != 0 && decide (limit < mag) then s.setFlag (Reg.PI_STAT n) 15 true else s

/-- EMULATOR_SOURCE_COUNT: d source counts into emulator n (R135). -/
def State.emuFeed (s : State) (n : Nat) (d : Int) : State :=
  if !s.flag (Reg.PI_EMUCTRL n) 0 then s
  else
    let p := s.pos n
    let nn : Int := s.fld (Reg.PI_EMURATIO n) 31 16 + 1
    let mm : Int := s.fld (Reg.PI_EMURATIO n) 15 0 + 1
    let acc := (p.acc : Int) + d * nn
    let lag := p.lag + acc / mm
    (s.setPos n { p with
      acc := (acc % mm).toNat, lag := lag,
      lagFrom := if p.lag = 0 ∧ lag ≠ 0 then s.now else p.lagFrom }).emuLagShow n

/-- AB of a count modulo 4 (R136). -/
def emuAB (c : Nat) : BitVec 2 := match c % 4 with | 0 => 0b11 | 1 => 0b01 | 2 => 0b00 | _ => 0b10

/-- The outputs take the levels of EMUCNT (R136). -/
def State.emuDrive (s : State) (n : Nat) : State :=
  let c := (s.reg (Reg.PI_EMUCNT n)).toNat
  s.setPos n { s.pos n with outAB := some (emuAB c), outZ := c == 0 }

/-- EMULATOR_EDGE (R136): one step of EMUCNT. The first step comes on the first edge after lag left 0. -/
def execEmulatorEdge (n : Fin 16) (s : State) : Result :=
  let n := n.val
  let p := s.pos n
  if !(s.unitOn domPi && s.flag (Reg.PI_EMUCTRL n) 0) || p.lag == 0 then .next s
  else
    let gap := match p.emitted with | some e => e + s.fld (Reg.PI_EMUCTRL n) 31 16 | none => 0
    let s := s.advanceTo (max (p.lagFrom + 1) gap)
    let cpr := (s.reg (Reg.PI_EMUCPR n)).toNat
    let c := (s.reg (Reg.PI_EMUCNT n)).toNat
    let c' := if 0 < p.lag then (c + 1) % cpr else (c + cpr - 1) % cpr
    let lag := if 0 < p.lag then p.lag - 1 else p.lag + 1
    let s := s.setReg (Reg.PI_EMUCNT n) (BitVec.ofNat 32 c')
    let s := ((s.setPos n { s.pos n with lag := lag, emitted := some s.now }).emuLagShow n).emuDrive n
    .next (if c' = 0 then s.piEvent n 7 else s)

/-- The enable checks of an emulator (R138). -/
def State.emuFails (s : State) (n : Nat) : List CfgFail :=
  let w := s.reg (Reg.PI_EMUCTRL n)
  let src := fieldOf w 12 8
  let cpr := (s.reg (Reg.PI_EMUCPR n)).toNat
  failIf (!s.domOn domPi) 0x02 0xFF domPi ++ failIf (!s.clk.run) 0x03 0xFF 2 ++
  failIf (decide (fieldOf w 31 16 < 16)) 0x07 152 ++ failIf (decide (16 < src)) 0x07 154 ++
  failIf (decide (src < 16) && !s.piEn src) 0x09 154 (depDetail (Reg.PI_CTRL src)) ++
  failIf (cpr == 0 || cpr % 4 != 0) 0x54 168 ++
  failIf (decide (src < 16) && s.piMode src == 2) 0x55 154

/-- A write of PIn_EMUCTRL (R14, R137). EMURATIO, EMUCPR and the other fields are static against EMUEN. -/
def State.emuCtrlWrite (s : State) (n : Nat) (v : Word) : State :=
  let clear := fun (s : State) =>
    (s.setPos n { s.pos n with acc := 0, lag := 0, emitted := none, lagFrom := 0 }).setFld (Reg.PI_EMULAG n) 31 16 0
  s.unitWrite (Reg.PI_EMUCTRL n) (Reg.PI_CFGCHK n) 0 v (fun s => s.emuFails n)
    (fun s => (clear s).emuDrive n) clear id

/-- EMULATOR_ENABLE (R137). -/
def execEmulatorEnable (n : Fin 16) (v : BitVec 32) (s : State) : Result :=
  .next (s.whenOn domPi (Reg.PI_CFGCHK n) fun s => s.emuCtrlWrite n v)

/-! Counting (R118 to R128). -/

/-- POS moves by d, one or a snap's number of counts, with REV at each wrap (R121, R126). -/
def State.posMove (s : State) (n : Nat) (d : Int) : State :=
  let m : Int := s.piMod n
  let t := (s.reg (Reg.PI_POS n)).toNat + d
  (s.setReg (Reg.PI_POS n) (Word.ofInt (t % m))).setFld (Reg.PI_REV n) 15 0
    (toBits 16 (s.fld (Reg.PI_REV n) 15 0 + t / m))

/-- The speed measurement of one counted edge (R127, R128). A difference above the register's range is an open value. -/
def State.speedEdge (s : State) (n : Nat) (down : Bool) (stamp : Nat) : State :=
  let p := s.pos n
  let turn := s.flag (Reg.PI_STAT n) 1 != down
  let still := s.flag (Reg.PI_STAT n) 2
  let N := s.fld (Reg.PI_SPDCFG n) 7 0 + 1
  let s := (s.setFlag (Reg.PI_STAT n) 1 down).setFlag (Reg.PI_STAT n) 2 false
  if turn || still then
    let s := (s.setPos n { p with stamps := [stamp], lastCount := s.now }).setReg (Reg.PI_SPDPER n) 0xFFFFFFFF
    if turn then s.piEvent n 6 else s
  else
    let l := (stamp :: p.stamps).take (N + 1)
    let s := s.setPos n { p with stamps := l, lastCount := s.now }
    match l[N]? with
    | none => s
    | some t0 =>
      let (w, s) :=
        if stamp - t0 < 2 ^ 32 then (BitVec.ofNat 32 (stamp - t0), s) else (Config.openWord s.free, s.tick)
      (s.setReg (Reg.PI_SPDPER n) w).piEvent n 6

/-- One count of +1 or -1 as the table gives it; REVERSE exchanges the two (R118 to R121, R127, R133, R134). -/
def State.piCount (s : State) (n : Nat) (up : Bool) (stamp : Nat) : State :=
  let up := up != s.flag (Reg.PI_CTRL n) 4
  let d : Int := if up then 1 else -1
  let s := (s.posMove n d).setReg (Reg.PI_EDGETS n) (BitVec.ofNat 32 stamp)
  let s := (s.piEvent n 1).speedEdge n (!up) stamp
  (List.range 16).foldl (fun s m => if s.fld (Reg.PI_EMUCTRL m) 12 8 = n then s.emuFeed m d else s) s

/-- A phase error (R118), or a Hall error with flag bit 5 or 6 (R119). -/
def State.phaseErr (s : State) (n : Nat) : State :=
  ((s.setFlag (Reg.PI_STAT n) 4 true).satInc (Reg.PI_ERRCNT n) 7 0).piEvent n 2
def State.hallErr (s : State) (n b : Nat) : State :=
  ((s.setFlag (Reg.PI_STAT n) b true).satInc (Reg.PI_ERRCNT n) 15 8).piEvent n 3

/-- Place of a QUAD state in the +1 order 00, 10, 11, 01 (R118). -/
def quadPlace (a b : Bool) : Nat := match a, b with | false, false => 0 | true, false => 1 | true, true => 2 | false, true => 3

/-- QUAD (R118): the step from one pair of levels to the next. -/
def State.quadStep (s : State) (n : Nat) (a b a' b' : Bool) (stamp : Nat) : State :=
  match (quadPlace a' b' + 4 - quadPlace a b) % 4 with
  | 0 => s
  | 1 => s.piCount n true stamp
  | 3 => s.piCount n false stamp
  | _ => s.phaseErr n

/-- Place of a Hall state in the forward cycle 001, 011, 010, 110, 100, 101 (R119). -/
def hallPlace (h : Nat) : Option Nat :=
  match h with | 1 => some 0 | 3 => some 1 | 2 => some 2 | 6 => some 3 | 4 => some 4 | 5 => some 5 | _ => none

/-- HALL (R119): a new state h, judged against the reference. -/
def State.hallStep (s : State) (n h stamp : Nat) : State :=
  match hallPlace h with
  | none => s.hallErr n 5
  | some x =>
    match (s.pos n).hall with
    | none => s.setPos n { s.pos n with hall := some h }
    | some r =>
      let back := (hallPlace r).getD 0
      let s := s.setPos n { s.pos n with hall := some h }
      match (x + 6 - back) % 6 with
      | 0 => s
      | 1 => s.piCount n true stamp
      | 5 => s.piCount n false stamp
      | _ => s.hallErr n 6

/-- An index (R125, R126). -/
def State.piIndex (s : State) (n : Nat) : State :=
  let mode := s.fld (Reg.PI_INDEXCFG n) 18 17
  if mode = 2 then s
  else
    let pos : Int := (s.reg (Reg.PI_POS n)).toNat
    let raw := pos - (s.reg (Reg.PI_INDEXVAL n)).toNat
    let m : Int := s.piMod n
    let diff :=
      if m = 2 ^ 32 then signedOf 32 (toBits 32 raw)
      else
        let r := raw % m
        if m / 2 < r then r - m else r
    let expected := decide (diff.natAbs ≤ s.fld (Reg.PI_INDEXCFG n) 15 0)
    let homed := s.flag (Reg.PI_STAT n) 0
    let s := (s.setReg (Reg.PI_INDEXPOS n) (s.reg (Reg.PI_POS n))).setReg (Reg.PI_INDEXERR n) (Word.ofInt diff)
    let s :=
      if mode = 0 then
        let s := if !expected && homed then s.setFlag (Reg.PI_STAT n) 10 true else s
        s.setFlag (Reg.PI_STAT n) 0 true
      else if !homed || expected then (s.posMove n (-diff)).setFlag (Reg.PI_STAT n) 0 true
      else s.setFlag (Reg.PI_STAT n) 10 true
    s.piEvent n 0

/-- The index condition after an acceptance (R124). -/
def State.indexStep (s : State) (n : Nat) : State :=
  let p := s.pos n
  let now :=
    if s.flag (Reg.PI_INDEXCFG n) 16 then
      match p.sigA, p.sigB, p.sigZ with
      | some a, some b, some z => some (a && b && z)
      | _, _, _ => none
    else p.sigZ
  match now with
  | none => s
  | some c =>
    let s := s.setPos n { p with cond := some c }
    if c && p.cond == some false then s.piIndex n else s

/-- LEVEL_ACCEPT (R113, R114, R117 to R124): the levels given are accepted on edge e + 2 + FILT and carry stamp e. An
edge before the first one the filters count after EN (R113) accepts nothing. -/
def execLevelAccept (n : Fin 16) (a b z : Option Bool) (e : Nat) (s : State) : Result :=
  let n := n.val
  let mode := s.piMode n
  let p := s.pos n
  let due := e + 2 + s.fld (Reg.PI_CTRL n) 15 8
  if !(s.unitOn domPi && s.piEn n) || mode == 2 || decide (e ≤ p.enAt) || decide (due < s.now) then .next s
  else
    let s := s.advanceTo due
    let p' := { p with sigA := a.or p.sigA, sigB := b.or p.sigB, sigZ := z.or p.sigZ }
    let s := s.setPos n p'
    if mode = 1 then
      match p'.sigA, p'.sigB, p'.sigZ with
      | some u, some v, some w =>
        if p.sigA = some u ∧ p.sigB = some v ∧ p.sigZ = some w then .next s
        else .next (s.hallStep n (4 * bit u + 2 * bit v + bit w) e)
      | _, _, _ => .next s
    else if mode = 0 then
      let s := match p.sigA, p.sigB, p'.sigA, p'.sigB with
        | some a0, some b0, some a1, some b1 => s.quadStep n a0 b0 a1 b1 e
        | _, _, _, _ => s
      .next (s.indexStep n)
    else
      let s := match p.sigA, p'.sigA, p'.sigB with
        | some false, some true, some dir => s.piCount n (!dir) e
        | _, _, _ => s
      .next (s.indexStep n)

/-- WIRE_FAULT (R115): WIRECHK + 1 samples agree, the first on edge e. In SSI mode only DATA is a signal (R112). A run
that began before the last recorded one ended is the same episode. -/
def execWireFault (n : Fin 16) (sig : Fin 3) (e : Nat) (s : State) : Result :=
  let n := n.val
  let p := s.pos n
  let last := match sig with | 0 => p.wireA | 1 => p.wireB | 2 => p.wireZ
  let due := e + s.fld (Reg.PI_CTRL n) 27 16
  let open' := match last with | some t => decide (t < e) | none => true
  if !(s.unitOn domPi && s.piEn n && s.flag (Reg.PI_CTRL n) 3 && open') || (s.piMode n == 2 && sig != 0) ||
      decide (e ≤ p.enAt) then .next s
  else
    let s := s.advanceTo due
    let p := match sig with
      | 0 => { p with wireA := some due }
      | 1 => { p with wireB := some due }
      | 2 => { p with wireZ := some due }
    .next (((s.setPos n p).setFlag (Reg.PI_STAT n) (7 + sig) true).piEvent n 4)

/-- STANDSTILL (R128): SPDTO x 4,000 cycles without a counted edge. -/
def execStandstill (n : Fin 16) (s : State) : Result :=
  let n := n.val
  if !(s.unitOn domPi && s.piEn n) || s.flag (Reg.PI_STAT n) 2 then .next s
  else
    let s := s.advanceTo ((s.pos n).lastCount + 4000 * s.fld (Reg.PI_SPDCFG n) 31 16)
    let s := s.setPos n { s.pos n with stamps := [] }
    .next (((s.setFlag (Reg.PI_STAT n) 2 true).setReg (Reg.PI_SPDPER n) 0xFFFFFFFF).piEvent n 6)

/-! Writes (R121 to R123, R138). -/

/-- A write of POS or REV, from a window or a cell port (R121, R122). -/
def State.posWrite (s : State) (n : Nat) (rev : Bool) (v : Word) : State :=
  if rev then
    let s := s.store (Reg.PI_REV n) (Reg.PI_CFGCHK n) false v
    if s.piEn n then s.cfgOk (Reg.PI_CFGCHK n) else s
  else if s.piEn n && s.piMode n != 2 && decide (s.piMod n ≤ v.toNat) then s.cfgFail (Reg.PI_CFGCHK n) ⟨0x07, 24, 0⟩
  else
    let s := s.setReg (Reg.PI_POS n) v
    if s.piEn n then s.cfgOk (Reg.PI_CFGCHK n) else s

/-- POS_WRITE (R122). -/
def execPosWrite (n : Fin 16) (rev : Bool) (v : BitVec 32) (s : State) : Result :=
  .next (if s.unitOn domPi then s.posWrite n rev v else s)

/-- A write of INDEXVAL: checked at landing while EN = 1 (R138). -/
def State.indexvalWrite (s : State) (n : Nat) (v : Word) : State :=
  if s.piEn n && (s.reg (Reg.PI_CPR n)).toNat != 0 && decide ((s.reg (Reg.PI_CPR n)).toNat ≤ v.toNat) then
    s.cfgFail (Reg.PI_CFGCHK n) ⟨0x53, 40, 0⟩
  else
    let s := s.setReg (Reg.PI_INDEXVAL n) v
    if s.piEn n then s.cfgOk (Reg.PI_CFGCHK n) else s

/-- The enable checks of an interface (R138). STBITS outside 1 to 32 is out of its stated range (R18). -/
def State.piFails (s : State) (n : Nat) : List CfgFail :=
  let mode := s.piMode n
  let im := s.fld (Reg.PI_INDEXCFG n) 18 17
  let cpr := (s.reg (Reg.PI_CPR n)).toNat
  let c := s.reg (Reg.PI_SSICFG n)
  let ssi := mode == 2
  let len := fieldOf c 5 0
  let st := fieldOf c 13 8
  let half := fieldOf c 31 21
  let crc := fieldOf c 19 16
  let wire := s.fld (Reg.PI_CTRL n) 27 16
  failIf (!s.domOn domPi) 0x02 0xFF domPi ++ failIf (!s.clk.run) 0x03 0xFF 2 ++ failIf (im == 3) 0x05 49 ++
  failIf (s.flag (Reg.PI_CTRL n) 3 && (decide (wire < 4) || decide (4000 < wire))) 0x07 1 ++
  failIf (ssi && (decide (len < 8) || decide (48 < len))) 0x07 127 ++
  failIf (ssi && (decide (half < 20) || decide (2000 < half))) 0x07 120 ++
  failIf (ssi && (crc == 1 || crc == 2 || decide (8 < crc))) 0x07 122 ++
  failIf (ssi && (st == 0 || decide (32 < st))) 0x07 125 ++
  failIf (ssi && s.fld (Reg.PI_SSITIME n) 31 16 == 0) 0x07 136 ++
  failIf (!ssi && s.fld (Reg.PI_SPDCFG n) 31 16 == 0) 0x07 80 ++
  failIf (!ssi && cpr != 0 && decide (cpr ≤ (s.reg (Reg.PI_POS n)).toNat)) 0x07 24 ++
  failIf (ssi && (decide (len < st) || decide (16 < len - st))) 0x50 125 ++
  failIf (ssi && decide (2 * half ≤ s.fld (Reg.PI_SSICRC n) 15 8)) 0x51 129 ++
  failIf (im != 2 && (mode == 1 || ssi)) 0x52 49 ++
  failIf (cpr != 0 && decide (cpr ≤ (s.reg (Reg.PI_INDEXVAL n)).toNat)) 0x53 40

/-- A write of PIn_CTRL (R14, R123). A frame in progress records nothing after EN = 0. -/
def State.piCtrlWrite (s : State) (n : Nat) (v : Word) : State :=
  s.unitWrite (Reg.PI_CTRL n) (Reg.PI_CFGCHK n) 0 v (fun s => s.piFails n)
    (fun s =>
      let p := s.pos n
      let s := s.setPos n { p with
        enAt := s.now, sigA := none, sigB := none, sigZ := none, hall := none, cond := none, stamps := [],
        wireA := none, wireB := none, wireZ := none }
      ((s.setFlag (Reg.PI_STAT n) 0 false).setFlag (Reg.PI_STAT n) 2 true).setReg (Reg.PI_SPDPER n) 0xFFFFFFFF)
    (fun s => s.setPos n { s.pos n with ssiDone := true, ssiLate := true }) id

/-- INTERFACE_ENABLE (R123). -/
def execInterfaceEnable (n : Fin 16) (v : BitVec 32) (s : State) : Result :=
  .next (s.whenOn domPi (Reg.PI_CFGCHK n) fun s => s.piCtrlWrite n (withField v 0 0 1))

/-! SSI (R129 to R131). -/

/-- SSI_FRAME_START: a delivery on edge t0 with DATA reading high or low (R129, R131). -/
def State.ssiStart (s : State) (n : Nat) (high : Bool) : State :=
  if !(s.unitOn domPi && s.piEn n && s.piMode n == 2) then s
  else if s.flag (Reg.PI_STAT n) 3 || !high then
    let s := s.satInc (Reg.PI_ERRCNT n) 23 16
    let s := if s.flag (Reg.PI_STAT n) 3 then s.setFlag (Reg.PI_STAT n) 14 true else s
    if high then s else s.setFlag (Reg.PI_STAT n) 13 true
  else
    (s.setPos n { s.pos n with ssiT0 := some s.now, ssiDone := false, ssiLate := false }).setFlag (Reg.PI_STAT n) 3 true

/-- Edge of the last sample of a frame started on t0 (R129). -/
def State.ssiLast (s : State) (n t0 : Nat) : Nat :=
  let c := s.reg (Reg.PI_SSICFG n)
  t0 + 2 * fieldOf c 31 21 * (fieldOf c 5 0 + fieldOf c 19 16) + s.fld (Reg.PI_SSICRC n) 15 8

/-- SCK of interface n on edge e: high when idle, low in the first half of each bit (R129). -/
def State.ssiClock (s : State) (n e : Nat) : Bool :=
  match (s.pos n).ssiT0 with
  | none => true
  | some t0 =>
    let c := s.reg (Reg.PI_SSICFG n)
    let h := fieldOf c 31 21
    e < t0 || decide (t0 + 2 * h * (fieldOf c 5 0 + fieldOf c 19 16) + h ≤ e) || decide (h ≤ (e - t0) % (2 * h))

/-- One bit into a CRC register of `w` bits, most significant bit first (R130). -/
def crcBit (w poly r : Nat) (b : Bool) : Nat :=
  let top := (r / 2 ^ (w - 1) % 2 == 1) != b
  let r := r * 2 % 2 ^ w
  if top then r ^^^ (poly % 2 ^ w) else r

/-- The CRC of the low `len` bits of data, most significant first, initial value 0 (R130). -/
def crcOf (w poly len data : Nat) : Nat :=
  (List.range len).foldl (fun r i => crcBit w poly r (data / 2 ^ (len - 1 - i) % 2 == 1)) 0

/-- Gray code to binary over `len` bits (R130). -/
def grayDecode (len g : Nat) : Nat :=
  ((List.range len).foldl (fun (p : Bool × Nat) i =>
    let b := p.1 != (g / 2 ^ (len - 1 - i) % 2 == 1)
    (b, p.2 * 2 + bit b)) (false, 0)).2

/-- SSI_FRAME_RECORD (R130). -/
def execSsiFrameRecord (n : Fin 16) (data : BitVec 48) (crc : BitVec 8) (s : State) : Result :=
  let n := n.val
  match (s.pos n).ssiT0 with
  | none => .next s
  | some t0 =>
    if (s.pos n).ssiDone || !(s.unitOn domPi && s.piEn n) then .next s
    else
      let s := s.advanceTo (s.ssiLast n t0 + 2)
      let s := s.setPos n { s.pos n with ssiDone := true }
      let c := s.reg (Reg.PI_SSICFG n)
      let len := fieldOf c 5 0
      let st := fieldOf c 13 8
      let w := fieldOf c 19 16
      let d := data.toNat % 2 ^ len
      let rx := crc.toNat % 2 ^ w
      let want := crcOf w (s.fld (Reg.PI_SSICRC n) 7 0) len d
      let want := if bitOf c 20 then 2 ^ w - 1 - want else want
      let s := if w = 0 then s else s.setFld (Reg.PI_SSISTAT n) 7 0 rx
      let s :=
        if w ≠ 0 ∧ rx ≠ want then (s.setFlag (Reg.PI_STAT n) 11 true).satInc (Reg.PI_ERRCNT n) 31 24
        else
          let x := if bitOf c 15 then grayDecode len d else d
          ((s.setReg (Reg.PI_POS n) (BitVec.ofNat 32 (x % 2 ^ st))).setFld (Reg.PI_REV n) 15 0 (x / 2 ^ st)).modInc
            (Reg.PI_SSISTAT n) 31 28
      .next (s.piEvent n 5)

/-- SSI_RELEASE (R131): DATA has read high since edge e, after the last sample. -/
def execSsiRelease (n : Fin 16) (e : Nat) (s : State) : Result :=
  let n := n.val
  match (s.pos n).ssiT0 with
  | none => .next s
  | some t0 =>
    if !(s.unitOn domPi && s.piEn n && s.flag (Reg.PI_STAT n) 3) || decide (e ≤ s.ssiLast n t0) then .next s
    else
      let s := s.advanceTo (e + s.fld (Reg.PI_SSITIME n) 15 0)
      .next (s.setFlag (Reg.PI_STAT n) 3 false)

/-- SSI_TIMEOUT (R131): once per frame. -/
def execSsiTimeout (n : Fin 16) (s : State) : Result :=
  let n := n.val
  match (s.pos n).ssiT0 with
  | none => .next s
  | some t0 =>
    if !(s.unitOn domPi && s.piEn n && s.flag (Reg.PI_STAT n) 3) || (s.pos n).ssiLate then .next s
    else
      let s := s.advanceTo (s.ssiLast n t0 + s.fld (Reg.PI_SSITIME n) 31 16)
      .next ((s.setPos n { s.pos n with ssiLate := true }).setFlag (Reg.PI_STAT n) 12 true)

/-! Ownership filter (R148 to R152). -/

/-- The fate of a cell's fabric write to an owned register (R148). -/
inductive Filter where
  | shadow | stale | notOwner | applied
deriving DecidableEq, Repr

/-- R148 for a write of `cell` to entry i. A pair writes under its even cell. -/
def State.filterWrite (s : State) (i cell : Nat) : Filter :=
  if s.fld (Reg.SO_OWN i) 17 12 = cell then .shadow
  else if s.fld (Reg.LC_CTRL cell) 7 4 ≠ s.fld (Reg.SO_OWN i) 11 8 then .stale
  else if s.fld (Reg.SO_OWN i) 5 0 ≠ cell then .notOwner
  else .applied

/-- A discarded or shadow write is counted (R148, R152); `partner` is the owner's value applied on the same edge. -/
def State.filterCount (s : State) (f : Filter) (v : Word) (partner : Option Word) : State :=
  match f with
  | .applied => s
  | .stale => (s.satInc Reg.SO_STALEWR 31 0).setFlag Reg.SO_STAT 0 true
  | .notOwner => (s.satInc Reg.SO_NOTOWNWR 31 0).setFlag Reg.SO_STAT 1 true
  | .shadow => if partner == some v then s.satInc Reg.SO_MIGCMP 15 0 else s.satInc Reg.SO_MIGCMP 31 16

/-- EMUPOS takes a value; with EMUSRC = 16 the signed difference feeds the emulator (R134). -/
def State.emuposApply (s : State) (n : Nat) (v : Word) : State :=
  let d := signedOf 32 (v - s.reg (Reg.PI_EMUPOS n)).toNat
  let s := s.setReg (Reg.PI_EMUPOS n) v
  let s := if s.piEn n then s.cfgOk (Reg.PI_CFGCHK n) else s
  if s.fld (Reg.PI_EMUCTRL n) 12 8 = 16 then s.emuFeed n d else s

/-- EMUPOS_WRITE (R134, R148, R149). -/
def execEmuposWrite (n : Fin 16) (cell : Option (Fin 52)) (v : BitVec 32) (s : State) : Result :=
  let n := n.val
  if !s.unitOn domPi then .next s
  else match cell with
    | none => .next (s.windowOwned (96 + n) (Reg.PI_CFGCHK n) 176 fun s => s.emuposApply n v)
    | some c =>
      let f := s.filterWrite (96 + n) c
      .next (if f = .applied then s.emuposApply n v else s.filterCount f v none)

end Sys2Proof.Machine
end

