-- ==== Sys2Proof/Machine/Sorting.lean ====
section
/-! DEFINITION. The sorting office: routing table, timers, event inputs and outputs, ownership table (R139 to R155).
Deliveries and the landing of fabric writes are in Fabric. -/

namespace Sys2Proof.Machine

/-- The words of every routing entry's STAT are reset to 0: DCNT and INFLIGHT. -/
def State.routeClear (s : State) : State :=
  { s with regs := s.regs.filter fun p => !(decide (0x50058000 ≤ p.1) && decide (p.1 < 0x50060000) && p.1 % 16 == 12) }

/-- A write of SO_CTRL (R139, R144). Disabling discards every event in flight. -/
def State.soCtrlWrite (s : State) (v : Word) : State :=
  let drop := fun (s : State) => State.routeClear { s with so := { s.so with flights := [] } }
  s.unitWrite Reg.SO_CTRL Reg.SO_CFGCHK 0 v
    (fun s => failIf (!s.domOn domSo) 0x02 0xFF domSo ++ failIf (!s.clk.run) 0x03 0xFF 2) drop drop id 0xFFFF

/-- SO_ENABLE (R139). -/
def execSoEnable (v : BitVec 32) (s : State) : Result :=
  .next (s.whenOn domSo Reg.SO_CFGCHK fun s => s.soCtrlWrite v)

/-- EVOUT_PULSE_END (R142): 8 cycles after the last delivery. -/
def execEvoutPulseEnd (k : Fin 16) (s : State) : Result :=
  match mapGet 0 s.so.evout k with
  | 0 => .next s
  | e => let s := s.advanceTo e; .next { s with so := { s.so with evout := mapErase s.so.evout k } }

/-- EVIN_RAISE (R141): the second edge after the first high sample. -/
def execEvinRaise (k : Fin 32) (e : Nat) (s : State) : Result :=
  if !s.unitOn domSo then .next s else .next ((s.advanceTo (e + 2)).raiseNow (0x6B0 + k))

/-- The first edge after `t` at which (DEVTIME - PHASE) mod PERIOD = 0 (R141). -/
def nextTimerEdge (period phase t : Nat) : Nat :=
  let r := (t + 1 + period - phase % period) % period
  if r = 0 then t + 1 else t + 1 + (period - r)

/-- TIMER_RAISE (R141, R441): the source is raised and output TMRk is high for 8 cycles. -/
def execTimerRaise (k : Fin 16) (s : State) : Result :=
  let per := s.fld (Reg.SO_TMR_PER k) 23 0
  if !(s.unitOn domSo && s.flag (Reg.SO_TMR_PER k) 31) || per == 0 then .next s
  else
    let e := nextTimerEdge per (s.fld (Reg.SO_TMR_PH k) 23 0) (mapGet 0 s.so.tmrFrom k)
    let s := s.advanceTo e
    let s := { s with so := { s.so with tmrFrom := mapSet 0 s.so.tmrFrom k e, tmrOut := mapSet 0 s.so.tmrOut k (e + 8) } }
    .next (s.raiseNow (0x6D0 + k))

/-- TIMER_OUTPUT_PULSE_END (R441). -/
def execTimerOutputPulseEnd (k : Fin 16) (s : State) : Result :=
  match mapGet 0 s.so.tmrOut k with
  | 0 => .next s
  | e => let s := s.advanceTo e; .next { s with so := { s.so with tmrOut := mapErase s.so.tmrOut k } }

/-- A write of SO_TMRk_PER (R141, R155). -/
def State.timerWrite (s : State) (k : Nat) (v : Word) : State :=
  let d := 0x4000 + k
  s.unitWrite (Reg.SO_TMR_PER k) Reg.SO_CFGCHK 31 v
    (fun s =>
      let per := s.fld (Reg.SO_TMR_PER k) 23 0
      failIf (!s.domOn domSo) 0x02 0xFF domSo ++ failIf (!s.clk.run) 0x03 0xFF 2 ++ failIf (decide (per < 2)) 0x07 2 d ++
      failIf (decide (per ≤ s.fld (Reg.SO_TMR_PH k) 23 0)) 0x63 17 d)
    (fun s => { s with so := { s.so with tmrFrom := mapSet 0 s.so.tmrFrom k s.now } }) id id d

/-- SO_TIMER_ENABLE (R141). -/
def execSoTimerEnable (k : Fin 16) (v : BitVec 32) (s : State) : Result :=
  .next (s.whenOn domSo Reg.SO_CFGCHK fun s => s.timerWrite k (withField v 31 31 1))

/-- A write of SO_RAISE: the event enters 2 cycles later (R36, R141). -/
def State.soRaiseWrite (s : State) (v : Word) : State := s.raiseAt (0x700 + fieldOf v 5 0) (s.now + 2) 0

/-- SO_RAISE (R36). -/
def execSoRaise (v : BitVec 32) (s : State) : Result := .next (if s.unitOn domSo then s.soRaiseWrite v else s)

/-! Routing entries (R146, R155). -/

/-- A source ID of a reserved range is never raised (R140). -/
def reservedSource (src : Nat) : Bool :=
  (decide (0x6E0 ≤ src) && decide (src < 0x700)) || (decide (0x768 ≤ src) && decide (src < 0x770)) || decide (0x780 ≤ src)

/-- The failures of one destination field. -/
def destFails (src : Nat) (valid : Bool) (dest field : Nat) : List CfgFail :=
  failIf (valid && (reservedSource src || (decide (0x186 ≤ dest) && decide (dest ≤ 0x18F)))) 0x05 field src

/-- The landing check of a routing entry as it stands. -/
def State.routeFails (s : State) (src : Nat) : List CfgFail :=
  let a := s.reg (Reg.SO_RT_DA src)
  let b := s.reg (Reg.SO_RT_DB src)
  destFails src (bitOf a 31) (fieldOf a 24 16) 2 ++ destFails src (bitOf a 15) (fieldOf a 8 0) 5 ++
  destFails src (bitOf b 31) (fieldOf b 24 16) 18 ++ destFails src (bitOf b 15) (fieldOf b 8 0) 21

/-- A write to word w of a routing entry: stored, checked at landing; a CFG write restarts decimation (R144, R146). -/
def State.routeWrite (s : State) (src w : Nat) (v : Word) : State :=
  let s := s.store (Reg.SO_RT_DA src + 4 * w) Reg.SO_CFGCHK false v
  let s := if w = 2 then s.setFld (Reg.SO_RT_STAT src) 15 8 0 else s
  match pickFail (s.routeFails src) with
  | none => State.cfgOk { s with so := { s.so with rtFail := nsetDel s.so.rtFail src (src + 1) } } Reg.SO_CFGCHK
  | some f => State.cfgFail { s with so := { s.so with rtFail := nsetAdd s.so.rtFail src (src + 1) } } Reg.SO_CFGCHK f

/-- ROUTING_ENTRY_WRITE (R146). -/
def execRoutingEntryWrite (src : Fin 2048) (w : Fin 3) (v : BitVec 32) (s : State) : Result :=
  .next (if s.unitOn domSo then s.routeWrite src w v else s)

/-! Ownership (R148 to R155). -/

/-- The repair map lists the cell as failed: its ROLE is FAILED (R157). -/
def State.cellFailed (s : State) (c : Nat) : Bool := s.fld (Reg.LC_STAT c) 25 24 == 3

/-- The owner fault line of generator i is released when its owner is not in RECOVER or STOPPED: HOLDNOW returns to 0
(R231). -/
def State.holdRelease (s : State) (i : Nat) : State :=
  if i < 96 ∧ !s.ownerFault i then s.setFld (Reg.PWM_TRIPSTAT i) 15 8 0 else s

/-- The switch of entry i (R150): owner, epoch, shadow, flags, and the uncommitted coupled set. -/
def State.ownSwitch (s : State) (i : Nat) : State :=
  let w := s.reg (Reg.SO_OWN i)
  let w := withField w 5 0 (fieldOf w 23 18)
  let w := withField w 11 8 (fieldOf w 11 8 + 1)
  let w := withField (withField (withField w 17 12 0x3F) 31 31 0) 7 7 0
  let s := s.setReg (Reg.SO_OWN i) w
  let s := { s with switchAt := mapErase s.switchAt i, pendFrom := mapErase s.pendFrom i }
  if i < 96 then
    let s := if s.flag (Reg.PWM_STAT i) 8 then (s.setPwm i { s.pwm i with staged := [] }).setFlag (Reg.PWM_STAT i) 8 false else s
    s.holdRelease i
  else s

/-- Entries whose switch edge is `e` switch (R150); one edge acts for all of them. -/
def State.switchDue (s : State) (e : Nat) : State :=
  (List.range 112).foldl (fun s i => if mapGet 0 s.switchAt i = e ∧ e ≠ 0 then s.ownSwitch i else s) s

/-- The earliest switch edge. -/
def State.nextSwitch (s : State) : Option Nat :=
  s.switchAt.foldl (fun m p => match m with | none => some p.2 | some e => some (min e p.2)) none

/-- Switches due now are made before a write that lands on the same edge is judged (R24, R151). -/
def State.settleSwitch (s : State) : State :=
  match s.nextSwitch with
  | some e => if e ≤ s.now then s.switchDue e else s
  | none => s

/-- OWNERSHIP_SWITCH (R150). -/
def execOwnershipSwitch (s : State) : Result :=
  match s.nextSwitch with
  | none => .next s
  | some e => .next ((s.advanceTo e).switchDue e)

/-- The checks of an ownership entry write of w over the stored word o (R155). -/
def State.ownFails (s : State) (i : Nat) (o w : Word) : List CfgFail :=
  let d := 0x8000 + i
  let next := fieldOf w 23 18
  let shadow := fieldOf w 17 12
  let gen := fieldOf w 30 24
  let arm := bitOf w 31
  let odd (c : Nat) : Bool := decide (52 ≤ c) && c != 0x3F
  failIf (odd next) 0x05 2 d ++ failIf (odd shadow) 0x05 3 d ++ failIf (decide (96 ≤ gen) && gen != 0x7F) 0x05 1 d ++
  failIf (gen == 0x7F && decide (96 ≤ i) && arm && !s.flag (Reg.PI_EMUCTRL (i - 96)) 0) 0x07 1 d ++
  failIf (arm && decide (next < 52) && s.cellFailed next) 0x60 2 d ++
  failIf (decide (shadow < 52) && s.cellFailed shadow) 0x60 3 d ++
  failIf (arm && decide (next < 52) && s.fld (Reg.LC_CTRL next) 7 4 != (fieldOf o 11 8 + 1) % 16) 0x61 2 d ++
  failIf (shadow != fieldOf o 17 12 && shadow != 0x3F && (shadow == fieldOf o 5 0 || shadow == next)) 0x62 3 d

/-- An owner slot that is not armed awaits no switch. -/
def State.ownDisarm (s : State) (i : Nat) (w : Word) : State :=
  if bitOf w 31 then s
  else { s.setFlag (Reg.SO_OWN i) 7 false with switchAt := mapErase s.switchAt i, pendFrom := mapErase s.pendFrom i }

/-- What an ownership entry write of w leaves (R150, R151, R155): a failed check refuses it whole; where only an armed
entry's locked fields differ the rest is written. -/
def State.ownTake (s : State) (i : Nat) (w : Word) (fails : List CfgFail) (worst : Option CfgFail) : State :=
  match worst with
  | none => ((s.setReg (Reg.SO_OWN i) w).cfgOk Reg.SO_CFGCHK).ownDisarm i w
  | some f =>
    let s := s.cfgFail Reg.SO_CFGCHK f
    if !fails.isEmpty then s else (s.setReg (Reg.SO_OWN i) w).ownDisarm i w

/-- A write of SO_OWNi (R150, R151, R155). -/
def State.ownWrite (s : State) (i : Nat) (v : Word) : State :=
  let s := s.settleSwitch
  let a := Reg.SO_OWN i
  let o := s.reg a
  let armed := bitOf o 31
  let lock (hi lo : Nat) : Bool := armed && fieldOf o hi lo != fieldOf v hi lo
  let gen := if armed then fieldOf o 30 24 else fieldOf v 30 24
  let next := if armed then fieldOf o 23 18 else fieldOf v 23 18
  let w := withField (withField (withField (withField o 31 31 (fieldOf v 31 31)) 30 24 gen) 23 18 next) 17 12 (fieldOf v 17 12)
  let locked := failIf (lock 30 24) 0x0A 1 (0x8000 + i) ++ failIf (lock 23 18) 0x0A 2 (0x8000 + i)
  let fails := s.ownFails i o w
  s.ownTake i w fails (pickFail (fails ++ locked))

/-- OWNERSHIP_ENTRY_WRITE (R151). -/
def execOwnershipEntryWrite (i : Fin 112) (v : BitVec 32) (s : State) : Result :=
  .next (if s.unitOn domSo then s.ownWrite i v else s)

/-- A write of SO_MIGGO: every armed entry becomes pending; an emulation entry with SWGEN = 0x7F switches at once (R150). -/
def State.miggoWrite (s : State) : State :=
  let s := s.settleSwitch
  (List.range 112).foldl (fun s i =>
    let w := s.reg (Reg.SO_OWN i)
    if !bitOf w 31 || bitOf w 7 then s
    else
      let s := s.setFlag (Reg.SO_OWN i) 7 true
      if 96 ≤ i ∧ fieldOf w 30 24 = 0x7F then s.ownSwitch i
      else { s with pendFrom := mapSet 0 s.pendFrom i s.now }) s

/-- SO_MIGGO (R150). -/
def execSoMiggo (_v : BitVec 32) (s : State) : Result := .next (if s.unitOn domSo then s.miggoWrite else s)

end Sys2Proof.Machine
end

