-- ==== Sys2Proof/Machine/Memory.lean ====
section
/-! DEFINITION. Memories: bytes and words, the page code, SECDED, init masks, scrub, spare pages (R343 to R359). -/

namespace Sys2Proof.Machine

/-! Bytes and words, little-endian (R8). -/

/-- What an unlisted byte reads as: 0xFF in erased flash (0x0400_0000 to 0x04FF_FFFF), else 0. -/
def memDefault (k : Nat) : Byte := if 0x04000000 ≤ k ∧ k < 0x05000000 then 0xFF else 0

/-- The canonical form of the memory's list. -/
def Mems.wf (m : Mems) : Bool := mapWf memDefault m.bytes

/-- A byte of memory. -/
def State.byte (s : State) (k : Nat) : Byte := mapGet (memDefault k) s.mem.bytes k

/-- Write a byte of memory; the one place a byte changes. -/
def State.setByte (s : State) (k : Nat) (b : Byte) : State :=
  { s with mem := { s.mem with bytes := mapSet (memDefault k) s.mem.bytes k b } }

/-- n bytes from k as a number, lowest address least significant. -/
def State.bytesAt (s : State) (k : Nat) : Nat → Nat
  | 0 => 0
  | n + 1 => (s.byte k).toNat + 256 * s.bytesAt (k + 1) n

/-- Write the low n bytes of v from address k. -/
def State.setBytes (s : State) (k : Nat) : Nat → Nat → State
  | 0, _ => s
  | n + 1, v => (s.setByte k (BitVec.ofNat 8 v)).setBytes (k + 1) n (v / 256)

/-- A stored 32-bit word without its flipped bits, and as the array holds it. -/
def State.word (s : State) (a : Nat) : Word := BitVec.ofNat 32 (s.bytesAt a 4)
def State.flipsAt (s : State) (a : Nat) : Word := mapGet 0 s.mem.flips (a / 4)
def State.rawWord (s : State) (a : Nat) : Word := s.word a ^^^ s.flipsAt a

/-- Write a 32-bit word with valid check bits. -/
def State.setWord (s : State) (a : Nat) (v : Word) : State :=
  let s := s.setBytes a 4 v.toNat
  { s with mem := { s.mem with flips := mapErase s.mem.flips (a / 4) } }

/-- Drop every byte and flip of [a, b): the range reads as unlisted. -/
def State.wipe (s : State) (a b : Nat) : State :=
  let out (k : Nat) : Bool := decide (k < a) || decide (b ≤ k)
  { s with mem := { s.mem with
    bytes := s.mem.bytes.filter fun p => out p.1
    flips := s.mem.flips.filter fun p => out (4 * p.1) } }

/-- Number of 1 bits of a word. -/
def popcount (w : Word) : Nat := ((List.range 32).filter fun i => bitOf w i).length

/-- Time in CLK_LOOP edges of n CLK_CORE cycles at the present operating point (R37, R427). -/
def State.coreTime (s : State) (n : Nat) : Nat := (n * 2 ^ s.fld Reg.PM_OPSTAT 1 0 + 1) / 2

/-! Where an address lies (R52). -/

/-- The memories and ranges of the address map. -/
inductive Region where
  | bootFlash | otherFlash | bankA | bankB | otp | ledger | sram | tcm (n : Nat) | mapStore
  | cell (n off : Nat) | control | periph | mgmt | pcie | outside
deriving DecidableEq, Repr

/-- The range of an address. -/
def regionOf (a : Nat) : Region :=
  if a < 0x00800000 then .bootFlash
  else if a < 0x01000000 then .otherFlash
  else if 0x04000000 ≤ a ∧ a < 0x04800000 then .bankA
  else if 0x04800000 ≤ a ∧ a < 0x05000000 then .bankB
  else if 0x08000000 ≤ a ∧ a < 0x08010000 then .otp
  else if 0x10000000 ≤ a ∧ a < 0x10100000 then .ledger
  else if 0x20000000 ≤ a ∧ a < 0x20800000 then .sram
  else if 0x30000000 ≤ a ∧ a < 0x30100000 then .tcm (a % 0x100000 / 0x40000)
  else if 0x40000000 ≤ a ∧ a < 0x40040000 then .mapStore
  else if 0x41000000 ≤ a ∧ a < 0x41340000 then .cell (a % 0x1000000 / 0x10000) (a % 0x10000)
  else if 0x50000000 ≤ a ∧ a < 0x50080000 then .control
  else if 0x60000000 ≤ a ∧ a < 0x600C0000 then .periph
  else if 0x70000000 ≤ a ∧ a < 0x70080000 then .mgmt
  else if 0x80000000 ≤ a ∧ a < 0xC0000000 then .pcie
  else .outside

/-- The power domain of a memory address (R423). -/
def domMem (a : Nat) : Nat :=
  if 0x40000000 ≤ a ∧ a < 0x40040000 then 0x1E + a % 0x40000 / 0x20000
  else if 0x30000000 ≤ a ∧ a < 0x30100000 then 0x04 + a % 0x100000 / 0x40000
  else 0x08 + a / 0x100000 % 8

/-! Reports (R359). -/

/-- Report one memory event: memory code, kind, initiator, bits changed, address of the check word. -/
def State.memReport (s : State) (m kind init bits a : Nat) : State :=
  let page := decide (m < 2)
  let flag := if m = 4 then 5 else match kind with
    | 0 => if page then 0 else 3
    | 1 => if page then 1 else 4
    | 2 => 2
    | _ => 5
  let s := s.setFlag Reg.MG_MEMSTAT flag true
  let s := s.setReg Reg.MG_MEMERR (BitVec.ofNat 32 (2 ^ 28 * m + 2 ^ 26 * kind + 2 ^ 22 * init + min bits 255))
  let s := s.setReg Reg.MG_MEMERRADR (BitVec.ofNat 32 a)
  match kind with
  | 0 => (s.satInc Reg.MG_MEMCNT 31 16).pulseLine 392
  | 1 => (s.satInc Reg.MG_MEMCNT 15 8).pulseLine 393
  | 2 => (s.satInc Reg.MG_MEMCNT 7 0).pulseLine 393
  | _ => s.pulseLine 392

/-- A discarded write (R351): WRDISC beside the report. -/
def State.writeLost (s : State) (m init a : Nat) : State :=
  let s := s.memReport m 1 init 0 a
  (s.setFlag Reg.MG_MEMSTAT 6 true)

/-! Page-code memories (R344 to R351). -/

/-- How a read of a check word ends. -/
inductive MemRes where
  | ok | uncorr | unwritten
deriving DecidableEq, Repr

/-- t of the 64 KiB region of an address (R355). -/
def State.strength (s : State) (a : Nat) : Nat :=
  let code :=
    if a < 0x40000000 then
      let r := a / 0x10000 % 16
      s.fld (Reg.MG_ECCSTR (a % 0x800000 / 0x100000)) (2 * r + 1) (2 * r)
    else
      let r := a / 0x10000 % 4
      s.fld (Reg.MG_ECCSTR 8) (2 * r + 1) (2 * r)
  2 ^ code

/-- The init bit of the 64-bit word at `a`. -/
def State.written (s : State) (a : Nat) : Bool := nsetHas s.mem.init (a / 8)

/-- Flipped bits in the written words of the 256-byte page of `a`. -/
def State.pageErrors (s : State) (a : Nat) : Nat :=
  (s.mem.flips.filter fun p => p.1 / 64 == a / 256 && s.written (4 * p.1)).foldl (fun n p => n + popcount p.2) 0

/-- The 64-bit word at `a` fails its detection code. -/
def State.detects (s : State) (a : Nat) : Bool :=
  s.written a && (s.flipsAt (a / 8 * 8) != 0 || s.flipsAt (a / 8 * 8 + 4) != 0)

/-- Write the corrected page back: no flipped bit is left in it (R347). -/
def State.pageFix (s : State) (a : Nat) : State :=
  { s with mem := { s.mem with flips := s.mem.flips.filter fun p => p.1 / 64 != a / 256 } }

/-- The memory code of a page-code address. -/
def pageMem (a : Nat) : Nat := if a < 0x40000000 then 0 else 1

/-- Check the 64-bit word at `a` on a read by `init`: the page is corrected and reported where it must be (R346 to R348). -/
def State.pageCheck (s : State) (a init : Nat) : State × MemRes :=
  let w := a / 8 * 8
  if !s.written a then (s.memReport (pageMem a) 2 init 0 w, .unwritten)
  else if !s.detects a then (s, .ok)
  else
    let n := s.pageErrors a
    if n ≤ s.strength a then ((s.pageFix a).memReport (pageMem a) 0 init n w, .ok)
    else (s.memReport (pageMem a) 1 init 0 w, .uncorr)

/-- Write bytes inside the 64-bit word at `a` (R350, R351); false where the write is discarded. -/
def State.pageWrite (s : State) (a n v init : Nat) : State × Bool :=
  let w := a / 8 * 8
  if !s.written a then
    let s := (s.wipe w (w + 8)).setBytes a n v
    ({ s with mem := { s.mem with init := nsetAdd s.mem.init (a / 8) (a / 8 + 1) } }, true)
  else if s.detects a then
    let (s, r) := s.pageCheck a init
    if r = .ok then (s.setBytes a n v, true) else (s.setFlag Reg.MG_MEMSTAT 6 true, false)
  else (s.setBytes a n v, true)

/-- PAGE_CORRECTION (R347 to R349). -/
def execPageCorrection (a : BitVec 32) (port : Fin 16) (s : State) : Result :=
  match regionOf a.toNat with
  | .sram | .mapStore =>
    if s.domOn (domMem a.toNat) && s.detects a.toNat then .next (s.pageCheck a.toNat port).1 else .next s
  | _ => .next s

/-! SECDED memories (R352). -/

/-- Check the 32-bit word at `a` of a TCM, reported by `init`. -/
def State.secdedCheck (s : State) (a init : Nat) : State × MemRes :=
  match popcount (s.flipsAt a) with
  | 0 => (s, .ok)
  | 1 => (State.memReport { s with mem := { s.mem with flips := mapErase s.mem.flips (a / 4) } } 2 0 init 1 (a / 4 * 4), .ok)
  | _ => (s.memReport 2 1 init 0 (a / 4 * 4), .uncorr)

/-- Write n bytes inside the 32-bit word at `a` of a TCM: a narrow store on a double-bit error is discarded. -/
def State.secdedWrite (s : State) (a n v init : Nat) : State × Bool :=
  if n = 4 then (s.setWord a (BitVec.ofNat 32 v), true)
  else
    let (s, r) := s.secdedCheck a init
    if r = .ok then (s.setBytes a n v, true) else (s.setFlag Reg.MG_MEMSTAT 6 true, false)

/-! Init masks (R345, R355). -/

/-- Clear the init masks of [a, b) and start the clear; `edges` is its length. -/
def State.clearInit (s : State) (a b edges : Nat) : State :=
  let s := s.setFlag Reg.MG_MEMSTAT 7 true
  { s with mem := { s.mem with
    init := nsetDel s.mem.init (a / 8) (b / 8), initDue := max s.mem.initDue (s.now + edges) } }

/-- INIT_CLEAR_DONE (R345). -/
def execInitClearDone (s : State) : Result :=
  if s.flag Reg.MG_MEMSTAT 7 then .next ((s.advanceTo s.mem.initDue).setFlag Reg.MG_MEMSTAT 7 false) else .next s

/-- A write of MG_ECCSTRk (R355). -/
def State.strengthWrite (s : State) (k : Nat) (v : Word) : State :=
  let v := if k = 8 then BitVec.ofNat 32 (v.toNat % 256) else v
  let o := s.reg (Reg.MG_ECCSTR k)
  if v = o then s
  else
    let n := if k = 8 then 4 else 16
    let zero := (List.range n).any fun r => fieldOf v (2 * r + 1) (2 * r) == 0
    let ok := s.phase == 1 || s.phase == 3 || s.phase == 4
    match pickFail (failIf zero 0x05 k ++ failIf (!ok) 0x08 k s.phase) with
    | some f => s.cfgFail Reg.MG_MEMCFGCHK f
    | none =>
      let base := if k = 8 then 0x40000000 else 0x20000000 + 0x100000 * k
      let s := (s.setReg (Reg.MG_ECCSTR k) v).cfgOk Reg.MG_MEMCFGCHK
      (List.range n).foldl (fun s r =>
        if fieldOf v (2 * r + 1) (2 * r) = fieldOf o (2 * r + 1) (2 * r) then s
        else s.clearInit (base + 0x10000 * r) (base + 0x10000 * (r + 1)) (s.coreTime 256)) s

/-- ECC_STRENGTH_WRITE (R355). -/
def execEccStrengthWrite (k : Fin 9) (v : BitVec 32) (s : State) : Result := .next (s.strengthWrite k v)

/-! Repair (R56 to R59, R354). -/

/-- Free spares of the unit with fewest left, from how many each of `n` units of size `size` has used. -/
def fewestFree (m : SMap Nat) (n size each : Nat) : Nat :=
  (List.range n).foldl (fun k b => min k (each - (m.filter fun p => p.1 / size == b).length)) each

/-- MG_SPARESTAT follows the repair map and the roles (R59). -/
def State.sparesSync (s : State) : State :=
  let pg := fewestFree s.repairs.pages 8 0x1000 128
  let fl := fewestFree s.repairs.sectors 2 0x1000 8
  let lc := ((List.range 52).filter fun c => s.fld (Reg.LC_STAT c) 25 24 == 1).length
  let cs := (List.range 4).foldl (fun w g => if s.repairs.slices.any (fun p => p.1 == g) then w else w + 2 ^ g) 0
  s.setReg Reg.MG_SPARESTAT (BitVec.ofNat 32 (2 ^ 24 * pg + 2 ^ 16 * fl + lc * 2 ^ 8 + cs))

/-! Scrub (R356 to R358). -/

/-- The SCRUB resource of an address: bank 0 to 7, 8 for the map store, 9 to 12 for the TCMs. -/
def scrubRes (a : Nat) : Nat :=
  match regionOf a with
  | .sram => a % 0x800000 / 0x100000
  | .tcm n => 9 + n
  | _ => 8

/-- The checks of a pass. -/
def State.scrubFails (s : State) : List CfgFail :=
  let base := s.fld Reg.MG_SCRUBBASE 31 8 * 256
  let n := s.fld Reg.MG_SCRUBLEN 16 0
  let inside (lo hi : Nat) : Bool := decide (lo ≤ base) && decide (base + 256 * n ≤ hi)
  let tcm := (List.range 4).any fun k => inside (0x30000000 + 0x40000 * k) (0x30000000 + 0x40000 * (k + 1))
  failIf (s.flag Reg.MG_SCRUBCTL 0) 0x01 24 ++
  failIf (n == 0 || decide (32768 < n)) 0x07 26 ++
  failIf (!(inside 0x20000000 0x20800000 || inside 0x40000000 0x40040000 || tcm)) 0xDB 25 ++
  failIf (s.flag Reg.MG_SCRUBCTL 1 && tcm) 0xDC 24

/-- The pass begins: EN and an empty summary. -/
def State.scrubBegin (s : State) : State :=
  let s := (s.setFlag Reg.MG_SCRUBCTL 0 true).setFld Reg.MG_SCRUBCTL 5 4 1
  ((s.setReg Reg.MG_SCRUBCHK 0).setReg Reg.MG_SCRUBRES 0).setReg Reg.MG_SCRUBFIRST 0xFFFFFFFF

/-- A write of MG_SCRUBCTL with EN = 1 (R356, R358). -/
def State.scrubStart (s : State) (v : Word) : State :=
  let s := if bitOf v 8 then s.setFlag Reg.MG_SCRUBCTL 8 false else s
  if s.flag Reg.MG_SCRUBCTL 0 || s.mem.scrubTicket.isSome then s.cfgFail Reg.MG_MEMCFGCHK ⟨0x01, 24, 0⟩
  else
    let s := s.setFld Reg.MG_SCRUBCTL 1 1 (fieldOf v 1 1)
    match pickFail s.scrubFails with
    | some f => s.cfgFail Reg.MG_MEMCFGCHK f
    | none =>
      match s.arbRequest 1 (scrubRes (s.fld Reg.MG_SCRUBBASE 31 8 * 256)) with
      | (.accepted t, s) =>
        State.scrubBegin { s.cfgOk Reg.MG_MEMCFGCHK with mem := { s.mem with scrubTicket := some t } }
      | (.queued t, s) =>
        State.setFld { s.cfgOk Reg.MG_MEMCFGCHK with mem := { s.mem with scrubTicket := some t } } Reg.MG_SCRUBCTL 5 4 2
      | (.refused _ conf, s) => (s.setFld Reg.MG_SCRUBCTL 5 4 3).cfgFail Reg.MG_MEMCFGCHK ⟨0x06, 24, conf⟩
      | (.silent, s) => s

/-- SCRUB_START and CLEAR_START (R356, R357). -/
def execScrubStart (v : BitVec 32) (s : State) : Result := .next (s.scrubStart (withField (withField v 0 0 1) 1 1 0))
def execClearStart (v : BitVec 32) (s : State) : Result := .next (s.scrubStart (withField (withField v 0 0 1) 1 1 1))

/-- FIRST takes the first failing address. -/
def State.scrubFirst (s : State) (a : Nat) : State :=
  if s.reg Reg.MG_SCRUBFIRST = 0xFFFFFFFF then s.setReg Reg.MG_SCRUBFIRST (BitVec.ofNat 32 a) else s

/-- One page of a SCRUB pass over a page-code memory, then its summary. -/
def State.scrubPage (s : State) (a : Nat) : State :=
  let words := (List.range 32).map fun i => a + 8 * i
  let unwr := words.filter fun w => !s.written w
  let bad := words.filter fun w => s.detects w
  let s := s.setReg Reg.MG_SCRUBCHK (s.reg Reg.MG_SCRUBCHK + 32)
  let s := match bad with
    | [] => s
    | w :: _ =>
      let s := s.scrubFirst w
      let (s, r) := s.pageCheck w 9
      if r = .ok then s.satAdd Reg.MG_SCRUBRES 31 16 bad.length else
        let s := bad.tail.foldl (fun s w => (s.pageCheck w 9).1) s
        s.satAdd Reg.MG_SCRUBRES 15 8 bad.length
  match unwr.getLast? with
  | none => s
  | some w =>
    let s := s.satAdd Reg.MG_SCRUBRES 7 0 unwr.length
    (s.satAdd Reg.MG_MEMCNT 7 0 (unwr.length - 1)).memReport (pageMem a) 2 9 0 w

/-- One page of a SCRUB pass over a TCM: 64 words of 32 bits. -/
def State.scrubTcm (s : State) (a : Nat) : State :=
  let bad := (List.range 64).map (fun i => a + 4 * i) |>.filter fun w => s.flipsAt w != 0
  let s := s.setReg Reg.MG_SCRUBCHK (s.reg Reg.MG_SCRUBCHK + 64)
  bad.foldl (fun s w =>
    let s := s.scrubFirst w
    let (s, r) := s.secdedCheck w 9
    if r = .ok then s.satInc Reg.MG_SCRUBRES 31 16 else s.satInc Reg.MG_SCRUBRES 15 8) s

/-- `n` pages of the pass from BASE (R357). -/
def State.scrubRun (s : State) (n : Nat) : State :=
  let base := s.fld Reg.MG_SCRUBBASE 31 8 * 256
  let n := min n (s.fld Reg.MG_SCRUBLEN 16 0)
  if s.flag Reg.MG_SCRUBCTL 1 then
    { s with mem := { s.mem with init := nsetDel s.mem.init (base / 8) (base / 8 + 32 * n) } }
  else
    (List.range n).foldl (fun s i =>
      let a := base + 256 * i
      match regionOf a with
      | .tcm _ => s.scrubTcm a
      | _ => s.scrubPage a) s

/-- The pass ends: EN 0, DONE, its activity released. -/
def State.scrubEnd (s : State) : State :=
  let s := (s.setFlag Reg.MG_SCRUBCTL 0 false).setFlag Reg.MG_SCRUBCTL 8 true
  let s := s.setFld Reg.MG_SCRUBCTL 5 4 0
  match s.mem.scrubTicket with
  | some t => State.arbRelease { s with mem := { s.mem with scrubTicket := none } } t
  | none => s

/-- SCRUB_STOP (R357). A pass still queued is withdrawn. -/
def execScrubStop (v : BitVec 32) (pages : Nat) (s : State) : Result :=
  let s := if bitOf v 8 then s.setFlag Reg.MG_SCRUBCTL 8 false else s
  if s.flag Reg.MG_SCRUBCTL 0 then .next (s.scrubRun pages).scrubEnd
  else match s.mem.scrubTicket with
    | some t =>
      .next ((State.arbRelease { s with mem := { s.mem with scrubTicket := none } } t).setFld Reg.MG_SCRUBCTL 5 4 0)
    | none => .next s

/-- SCRUB_PASS_DONE (R357). -/
def execScrubPassDone (s : State) : Result :=
  if s.flag Reg.MG_SCRUBCTL 0 then .next ((s.scrubRun (s.fld Reg.MG_SCRUBLEN 16 0)).scrubEnd) else .next s

end Sys2Proof.Machine
end

