-- ==== Sys2Proof/Machine/Ledger.lean ====
section
/-! DEFINITION. The ledger's words, two-slot records and the repair map (R27, R28, R57, R59, R379 to R382, R421). -/

namespace Sys2Proof.Machine

/-- One byte into a reflected CRC with the reversed polynomial `poly`. -/
def crcReflected (poly : Nat) (r b : Nat) : Nat :=
  (List.range 8).foldl (fun r _ => if r % 2 = 1 then (r / 2) ^^^ poly else r / 2) (r ^^^ b)

/-- CRC-32 (ISO-HDLC) of n bytes from address a (R379). -/
def State.crc32 (s : State) (a n : Nat) : Nat :=
  (List.range n).foldl (fun r i => crcReflected 0xEDB88320 r (s.byte (a + i)).toNat) 0xFFFFFFFF ^^^ 0xFFFFFFFF

/-- Postmark p is later than q (R28). -/
def postLater (p q : Nat) : Bool :=
  let d := (p + 65536 - q % 65536) % 65536
  decide (1 ≤ d) && decide (d ≤ 32767)

/-! 64-bit words (R380). -/

/-- The ledger word at a. -/
def State.dword (s : State) (a : Nat) : Nat := s.bytesAt a 8

/-- One atomic write of the ledger word at a, with valid check bits. -/
def State.setDword (s : State) (a v : Nat) : State :=
  (s.setWord a (BitVec.ofNat 32 v)).setWord (a + 4) (BitVec.ofNat 32 (v / 2 ^ 32))

/-- Flipped bits of the word at a. -/
def State.dwordFlips (s : State) (a : Nat) : Nat := popcount (s.flipsAt a) + popcount (s.flipsAt (a + 4))

/-- Check the ledger word at a on a read: one flipped bit is corrected, more are uncorrectable. -/
def State.ledgerCheck (s : State) (a : Nat) : State × MemRes :=
  match s.dwordFlips (a / 8 * 8) with
  | 0 => (s, .ok)
  | 1 =>
    let s := s.setFlag Reg.LG_STAT 2 true
    ({ s with mem := { s.mem with flips := mapErase (mapErase s.mem.flips (a / 8 * 2)) (a / 8 * 2 + 1) } }, .ok)
  | _ => (s.setFlag Reg.LG_STAT 3 true, .uncorr)

/-- Check n words from a; `ok` where none is uncorrectable. -/
def State.ledgerCheckAll (s : State) (a n : Nat) : State × Bool :=
  (List.range n).foldl (fun (s, ok) i =>
    let (s, r) := s.ledgerCheck (a + 8 * i)
    (s, ok && r == .ok)) (s, true)

/-! Two-slot records (R381, R382). -/

/-- Is the slot of `size` words at a, whose length is taken from its header by `len`, committed? Its postmark if so. -/
def State.slotMark (s : State) (a size : Nat) (len : Nat → Nat) (maxLen : Nat) : State × Option Nat :=
  let c := s.dword (a + 8 * (size - 1))
  let h := s.dword a
  let n := len h
  let (s, ok) := s.ledgerCheckAll a (min n maxLen + 1)
  let (s, r) := s.ledgerCheck (a + 8 * (size - 1))
  if ok && r == .ok && c / 2 ^ 47 % 2 == 1 && c / 2 ^ 48 == h / 2 ^ 48 && decide (1 ≤ n) && decide (n ≤ maxLen) &&
      c % 2 ^ 32 == s.crc32 a (8 * (n + 1)) then
    (s, some (h / 2 ^ 48))
  else (s, none)

/-- The slot (0 or 1) that holds the record, and its postmark (R382). -/
def pickSlot : Option Nat → Option Nat → Option (Nat × Nat)
  | some p, some q => if postLater q p then some (1, q) else some (0, p)
  | some p, none => some (0, p)
  | none, some q => some (1, q)
  | none, none => none

/-- LEN of a settings header and of a repair-map header (R381, R421). -/
def setLen (h : Nat) : Nat := h / 2 ^ 32 % 256
def mapLen (h : Nat) : Nat := h / 2 ^ 32 % 65536

/-- The record of settings set k: its slot and postmark. -/
def State.setRecord (s : State) (k : Nat) : State × Option (Nat × Nat) :=
  let a := 0x10000000 + 0x400 * k
  let (s, p) := s.slotMark a 64 setLen 62
  let (s, q) := s.slotMark (a + 0x200) 64 setLen 62
  (s, pickSlot p q)

/-- The record of the repair map. -/
def State.mapRecord (s : State) : State × Option (Nat × Nat) :=
  let (s, p) := s.slotMark 0x10082000 512 mapLen 510
  let (s, q) := s.slotMark 0x10083000 512 mapLen 510
  (s, pickSlot p q)

/-! The repair map (R421). -/

/-- Bits of a set of numbers below n. -/
def setBits (t : NSet) (n : Nat) : Nat := (List.range n).foldl (fun w i => if nsetHas t i then w + 2 ^ i else w) 0

/-- The set of the bits of w below n. -/
def bitsSet (w n : Nat) : NSet := (List.range n).foldl (fun t i => if w / 2 ^ i % 2 = 1 then nsetAdd t i (i + 1) else t) []

/-- The last word of the map: 5 + 32 · 7 + 31. -/
def repairLen : Nat := 260

/-- Word j of the repair map, 1 to 260. -/
def repairWord (r : Repairs) (j : Nat) : Nat :=
  if j = 1 then setBits r.cells 52
  else if j = 2 then
    (List.range 4).foldl (fun w g => w + mapGet 0x1F r.slices g * 2 ^ (5 * g)) 0 + 2 ^ 32 * setBits r.cores 4
  else if j < 5 then (List.range 8).foldl (fun w i => w + mapGet 0xFF r.sectors (0x1000 * (j - 3) + i) * 2 ^ (8 * i)) 0
  else
    let b := (j - 5) / 32
    (List.range 4).foldl (fun w i =>
      match (r.pages.find? fun p => p.1 == 0x1000 * b + (j - 5) % 32 * 4 + i) with
      | some (_, p) => w + (2 ^ 15 + p % 0x1000) * 2 ^ (16 * i)
      | none => w) 0

/-- Commit the repair map into the slot that does not hold the record (R57, R383, R421). -/
def State.repairCommit (s : State) : State :=
  let (s, rec) := s.mapRecord
  let slot := match rec with | some (k, _) => 1 - k | none => 0
  let pm := match rec with | some (_, p) => (p + 1) % 65536 | none => 1
  let a := 0x10082000 + 0x1000 * slot
  let s := s.setDword (a + 8 * 511) 0
  let s := (List.range repairLen).foldl (fun s i => s.setDword (a + 8 * (i + 1)) (repairWord s.repairs (i + 1))) s
  let s := s.setDword a (2 ^ 48 * pm + 2 ^ 32 * repairLen)
  s.setDword (a + 8 * 511) (2 ^ 48 * pm + 2 ^ 47 + s.crc32 a (8 * (repairLen + 1)))

/-- The repair map read from the ledger; an empty one where no slot is committed. -/
def State.repairLoad (s : State) : State :=
  let (s, rec) := s.mapRecord
  match rec with
  | none => { s with repairs := {} }
  | some (k, _) =>
    let a := 0x10082000 + 0x1000 * k
    let w (j : Nat) : Nat := if j ≤ mapLen (s.dword a) then s.dword (a + 8 * j) else if j = 2 then 0xFFFFF else if j < 5 ∧ 2 < j then 2 ^ 64 - 1 else 0
    { s with repairs :=
      { cells := bitsSet (w 1) 52
        slices := (List.range 4).foldl (fun m g => mapSet 0x1F m g (w 2 / 2 ^ (5 * g) % 32)) []
        cores := bitsSet (w 2 / 2 ^ 32) 4
        sectors := (List.range 16).foldl (fun m i => mapSet 0xFF m (0x1000 * (i / 8) + i % 8) (w (3 + i / 8) / 2 ^ (8 * (i % 8)) % 256)) []
        pages := (List.range 1024).foldl (fun m i =>
          let e := w (5 + i / 4) / 2 ^ (16 * (i % 4)) % 65536
          if 32768 ≤ e then mapInsert m (0x1000 * (i / 128) + i % 128) (0x1000 * (i / 128) + e % 4096) else m) [] } }

/-- SRAM_PAGE_REMAP (R354): the firmware gives the page a spare of its bank; an uncorrectable page starts unwritten. -/
def execSramPageRemap (page : Fin 32768) (s : State) : Result :=
  let a := 0x20000000 + page.val * 256
  let bank := page.val / 0x1000
  let used := (s.repairs.pages.filter fun p => p.1 / 0x1000 == bank).length
  if 128 ≤ used then .next s
  else
    let bad := decide (s.strength a < s.pageErrors a)
    let s := { s with repairs := { s.repairs with pages := mapInsert s.repairs.pages (0x1000 * bank + used) page.val } }
    let s := s.pageFix a
    let s := if bad then { s with mem := { s.mem with init := nsetDel s.mem.init (a / 8) (a / 8 + 32) } } else s
    .next s.repairCommit.sparesSync

end Sys2Proof.Machine
end

