-- ==== Sys2Proof/Machine/Flash.lean ====
section
/-! DEFINITION. Code flash, its controller and the ledger service (R360 to R386). -/

namespace Sys2Proof.Machine

/-! Reading (R360 to R368). -/

/-- Bank record b. -/
def State.bank (s : State) (b : Nat) : FlashBank := mapGet {} s.flash.banks b

/-- Replace bank record b. -/
def State.setBank (s : State) (b : Nat) (r : FlashBank) : State :=
  { s with flash := { s.flash with banks := mapSet {} s.flash.banks b r } }

/-- Address of an offset through the fixed alias of its bank. -/
def flashAddr (b off : Nat) : Nat := 0x04000000 + 0x800000 * b + off

/-- Number of a page over both banks. -/
def pageOf (b off : Nat) : Nat := 16384 * b + off / 512

/-- t of a bank (R360, FC_CTRL); what the reserved code corrects is open. -/
def State.flashT (s : State) (b : Nat) : Nat :=
  match s.fld Reg.FC_CTRL (17 + 2 * b) (16 + 2 * b) with
  | 0 => (Config.openWord 0).toNat
  | c => 8 * c

/-- Bits in error in the page of an offset. -/
def State.flashErrors (s : State) (b off : Nat) : Nat :=
  let a := flashAddr b (off / 512 * 512)
  (s.mem.flips.filter fun p => p.1 / 128 == a / 512).foldl (fun n p => n + popcount p.2) 0

/-- The page of an offset is erased: no data bit programmed, at most t bits at 0 (R362). -/
def State.pageBlank (s : State) (b off : Nat) : Bool :=
  let a := flashAddr b (off / 512 * 512)
  !nsetHas s.flash.torn (pageOf b off) && !(s.mem.bytes.any fun p => p.1 / 512 == a / 512) &&
    decide (s.flashErrors b off ≤ s.flashT b)

/-- How the decode of a page ends. -/
inductive PageRead where
  | blank | data | uncorr
deriving DecidableEq, Repr

/-- Fetch and decode the page of an offset, for a read at address a (R362, R363). -/
def State.flashDecode (s : State) (b off a : Nat) : State × PageRead :=
  let s := s.setBank b { s.bank b with buf := some (off / 512) }
  let n := s.flashErrors b off
  if s.pageBlank b off then (s, .blank)
  else if n = 0 then (s, .data)
  else
    let s := s.setReg Reg.FC_ERRADR (BitVec.ofNat 32 a)
    if n ≤ s.flashT b then
      (State.pulseLine (((s.setFlag Reg.FC_ERR 0 true).setFld Reg.FC_ERR 15 8 (min n 255)).satInc Reg.FC_CNT 31 16) 402, .data)
    else
      (State.satInc (State.setBank (s.setFlag Reg.FC_ERR 1 true) b { s.bank b with buf := none }) Reg.FC_CNT 15 8, .uncorr)

/-- The bank a window address reaches, and the offset (R52, R368). -/
def State.flashPlace (s : State) (a : Nat) : Nat × Nat :=
  if a < 0x01000000 then
    let swapped := s.flag (Reg.FC_STAT 0) 8
    (bit ((decide (a < 0x00800000)) == swapped), a % 0x800000)
  else (a % 0x1000000 / 0x800000, a % 0x800000)

/-- The domain of a flash bank. -/
def domBank (b : Nat) : Nat := 0x2D + b

/-- A read of a bank that is busy, or of its suspended sector, is refused (R366). -/
def State.flashBusy (s : State) (b off : Nat) : Bool :=
  match s.fld (Reg.FC_STAT b) 31 30 with
  | 0 => false
  | 3 => match (s.bank b).op with | some o => off / 65536 == o.target / 65536 | none => false
  | _ => true

/-- The result of a flash read. -/
inductive FlashRead where
  | ok (v : Nat) | busy | uncorr
deriving DecidableEq, Repr

/-- Read n bytes at a flash window address, inside one page (R362, R363, R366). -/
def State.flashRead (s : State) (a n : Nat) : State × FlashRead :=
  let (b, off) := s.flashPlace a
  if s.flashBusy b off then (s.setFlag (Reg.FC_STAT b) 5 true, .busy)
  else
    let v := s.bytesAt (flashAddr b off) n
    if (s.bank b).buf = some (off / 512) then (s, .ok (if s.pageBlank b off then 2 ^ (8 * n) - 1 else v))
    else
      match s.flashDecode b off a with
      | (s, .blank) => (s, .ok (2 ^ (8 * n) - 1))
      | (s, .data) => (s, .ok v)
      | (s, .uncorr) => (s, .uncorr)

/-- The offset lies in an execute-only region (R367). -/
def State.xoHit (s : State) (b off : Nat) : Bool :=
  (List.range 16).any fun k =>
    let d := s.reg (Reg.FC_XO k)
    bitOf d 31 && fieldOf d 24 24 == b && decide (fieldOf d 22 16 ≤ off / 65536) && decide (off / 65536 ≤ fieldOf d 6 0)

/-- A data read of an execute-only region by an initiator that is no core (R367). -/
def State.xoViolation (s : State) (a : Nat) : State :=
  State.pulseLine (((s.setFlag Reg.FC_ERR 2 true).satInc Reg.FC_CNT 7 0).setReg Reg.FC_ERRADR (BitVec.ofNat 32 a)) 402

/-! Wait states (R364, R365). -/

/-- VDD_CORE as a VID code: while a change is in progress, the lower of the two. -/
def State.vddCode (s : State) : Nat :=
  let v := s.fld Reg.PM_OPSTAT 7 4
  match s.power.op with | some o => min o.oldVid v | none => v

/-- Least WS for a CLK_CORE divider step and a VID code; 16 where the combination does not occur. -/
def waitStates (fop vid : Nat) : Nat :=
  let v := if 8 ≤ vid then 0 else if 4 ≤ vid then 1 else if 2 ≤ vid then 2 else 3
  ([[8, 16, 16, 16], [4, 5, 16, 16], [2, 3, 3, 16], [1, 2, 2, 2]].getD fop []).getD v 16

/-! Sector words and intents (R375, R376). -/

/-- The sector number that holds sector k's state: its spare's after a remap (R374). -/
def State.sectorSlot (s : State) (b k : Nat) : Nat :=
  match (s.repairs.sectors.filter fun p => p.1 / 0x1000 == b && p.2 == k).getLast? with
  | some (i, _) => 128 + i % 0x1000
  | none => k

/-- Address of the sector word of sector k of bank b, and of the bank's intent word. -/
def State.sectorWord (s : State) (b k : Nat) : Nat := 0x10080100 + 8 * (136 * b + s.sectorSlot b k)
def intentWord (b : Nat) : Nat := 0x10080000 + 8 * b

/-- Set STATE of a sector word: 0 ERASED, 1 WRITTEN, 2 INCOMPLETE. -/
def State.setSector (s : State) (b k st : Nat) : State :=
  let a := s.sectorWord b k
  s.setDword a (2 ^ 62 * st + s.dword a % 2 ^ 32)

/-- STATE of a sector. -/
def State.sectorState (s : State) (b k : Nat) : Nat := s.dword (s.sectorWord b k) / 2 ^ 62

/-- An intent word. -/
def intentOf (kind state copy partner target : Nat) : Nat :=
  2 ^ 60 * kind + 2 ^ 56 * state + 2 ^ 55 * copy + 2 ^ 40 * partner + target

/-- Rewrite STATE of a bank's intent: 0 CLOSED, 1 OPEN, 2 SUSPENDED, 3 REPORTED. -/
def State.setIntent (s : State) (b st : Nat) : State :=
  let w := s.dword (intentWord b)
  s.setDword (intentWord b) (w - 2 ^ 56 * (w / 2 ^ 56 % 16) + 2 ^ 56 * st)

/-! Operations (R369 to R374). -/

/-- DETAIL of codes 0x82 to 0x87: bank in [15], sector in [7:0]. -/
def flashDetail (b off : Nat) : Nat := 32768 * b + off / 65536

/-- The copy area of a bank. -/
def copyArea (b : Nat) : Nat := 0x10081000 + 0x400 * b

/-- An operation ends: DONE, line 400 + b, its activity released. -/
def State.flashEnd (s : State) (b : Nat) : State :=
  let s := match (s.bank b).op with | some o => s.arbRelease o.ticket | none => s
  let s := s.setBank b { op := none, buf := none }
  let s := (s.setFld (Reg.FC_STAT b) 31 28 0).setFlag (Reg.FC_STAT b) 2 true
  s.pulseLine (400 + b)

/-- Copy the lower partner and write its check word (R370 step 3, R379). -/
def State.flashCopy (s : State) (b part : Nat) (ok : Bool) : State :=
  let a := flashAddr b part
  let s := (List.range 64).foldl (fun s i => s.setDword (copyArea b + 8 * i) (if ok then s.dword (a + 8 * i) else 0)) s
  s.setDword (copyArea b + 512) (2 ^ 32 * part + s.crc32 (copyArea b) 512)

/-- Steps 1 to 5 of a granted PROGRAM (R370). -/
def State.programStart (s : State) (b : Nat) (o : FlashOp) : State :=
  let off := o.target
  let s := s.setFld (Reg.FC_STAT b) 29 28 1
  let (s, r) := s.flashDecode b off (flashAddr b off)
  if r ≠ .blank then (s.cfgFail Reg.FC_CFGCHK ⟨0x83, 3, flashDetail b off⟩).flashEnd b
  else
    let upper := decide (4 ≤ off / 512 % 8)
    let part := if upper then off - 4 * 512 else off + 4 * 512
    let (s, r) := s.flashDecode b part (flashAddr b part)
    if !upper && r != .blank then (s.cfgFail Reg.FC_CFGCHK ⟨0x84, 3, flashDetail b off⟩).flashEnd b
    else
      let risk := upper && r != .blank
      let copy := risk && s.flag Reg.FC_CTRL 8
      let s := if copy then s.flashCopy b part (r == .data) else s
      let s := s.setDword (intentWord b) (intentOf 2 1 (bit copy) (if risk then part / 512 % 128 else 0xFF) off)
      let s := if s.sectorState b (off / 65536) = 0 then s.setSector b (off / 65536) 1 else s
      State.setFld (s.setBank b { op := some { o with started := true }, buf := none }) (Reg.FC_STAT b) 31 30 1

/-- Steps 1 and 2 of a granted ERASE (R371). -/
def State.eraseStart (s : State) (b : Nat) (o : FlashOp) : State :=
  let k := o.target / 65536
  let s := s.setDword (intentWord b) (intentOf 1 1 0 0 o.target)
  let a := s.sectorWord b k
  let s := s.setDword a (2 * 2 ^ 62 + (s.dword a + 1) % 2 ^ 32)
  let s := s.setBank b { op := some { o with started := true }, buf := none }
  (s.setFld (Reg.FC_STAT b) 29 28 1).setFld (Reg.FC_STAT b) 31 30 2

/-- The operation that waits on bank b is granted. -/
def State.flashGrant (s : State) (b : Nat) : State :=
  match (s.bank b).op with
  | some o => if o.started then s else if o.erase then s.eraseStart b o else s.programStart b o
  | none => s

/-- The landing checks of a command: OP, bank (R369, R386). -/
def State.flashFails (s : State) (op b off : Nat) : List CfgFail :=
  let st := s.fld (Reg.FC_STAT b) 31 30
  let d := flashDetail b off
  let recov := s.flag (Reg.FC_STAT b) 7
  let run := op == 1 || op == 2
  failIf (!s.domOn (domBank b)) 0x02 0xFF (domBank b) ++
  failIf (op == 0 || op == 6 || op == 7) 0x05 2 ++
  failIf (run && st != 3 && (s.bank b).op.isSome) 0x01 2 ++
  failIf (op == 1 && off % 512 != 0 || op == 2 && off % 65536 != 0) 0x80 3 ++
  failIf (op == 1 && s.sectorState b (off / 65536) == 2) 0x82 3 d ++
  failIf (run && recov) 0x85 2 d ++
  failIf (op == 3 && (st != 2 || ((s.bank b).op.any fun o => o.stopping)) || op == 4 && st != 3 || op == 5 && !recov) 0x86 2 d ++
  failIf (run && st == 3) 0x87 2 d

/-- A command ends its landing: a failure is reported, else `f` runs. -/
def State.flashCmd (s : State) (v : Word) (op : Nat) (f : State → Nat → Nat → State) : State :=
  let b := fieldOf v 8 8
  let off := s.fld Reg.FC_ADDR 22 0
  match pickFail (s.flashFails op b off) with
  | some e => s.cfgFail Reg.FC_CFGCHK e
  | none => f (s.cfgOk Reg.FC_CFGCHK) b off

/-- PROGRAM or ERASE asks for its activity. -/
def State.flashRequest (s : State) (erase : Bool) (b off : Nat) : State :=
  match s.arbRequest (if erase then 5 else 6) b with
  | (.accepted t, s) => (s.setBank b { s.bank b with op := some ⟨erase, off, t, false, false⟩ }).flashGrant b
  | (.queued t, s) =>
    State.setFld (s.setBank b { s.bank b with op := some ⟨erase, off, t, false, false⟩ }) (Reg.FC_STAT b) 29 28 2
  | (.refused r conf, s) => (s.setFld (Reg.FC_STAT b) 29 28 3).cfgFail Reg.FC_CFGCHK ⟨r, 2, conf⟩
  | (.silent, s) => s

/-- FLASH_PROGRAM and FLASH_ERASE (R369 to R371). -/
def execFlashProgram (v : BitVec 32) (s : State) : Result := .next (s.flashCmd v 1 fun s b off => s.flashRequest false b off)
def execFlashErase (v : BitVec 32) (s : State) : Result := .next (s.flashCmd v 2 fun s b off => s.flashRequest true b off)

/-- n words from a hold what the cut or failed operation left: data and flipped bits are free. -/
def State.scramble (s : State) (a n : Nat) : State :=
  let s := (List.range n).foldl (fun s i =>
    let s := s.setWord (a + 4 * i) (Config.openWord (s.free + 2 * i))
    { s with mem := { s.mem with flips := mapSet 0 s.mem.flips (a / 4 + i) (Config.openWord (s.free + 2 * i + 1)) } }) s
  { s with free := s.free + 2 * n }

/-- FLASH_PROGRAM_DONE (R370 steps 6 and 7). -/
def execFlashProgramDone (bank : Fin 2) (verified : Bool) (s : State) : Result :=
  match (s.bank bank).op with
  | some o =>
    if o.erase || !o.started then .next s
    else
      let a := flashAddr bank o.target
      let s :=
        if verified then (List.range 128).foldl (fun s i => s.setWord (a + 4 * i) (s.reg (Reg.FC_PBUF bank i))) s
        else (State.setFlag { s.scramble a 128 with flash := { s.flash with
          torn := nsetAdd s.flash.torn (pageOf bank o.target) (pageOf bank o.target + 1) } } (Reg.FC_STAT bank) 3 true)
      .next ((s.setIntent bank 0).flashEnd bank)
  | none => .next s

/-- The pages of a sector are blank, with no bit in error. -/
def State.sectorWipe (s : State) (b off : Nat) : State :=
  let a := flashAddr b (65536 * (off / 65536))
  let p := pageOf b (65536 * (off / 65536))
  State.wipe { s with flash := { s.flash with torn := nsetDel s.flash.torn p (p + 128) } } a (a + 65536)

/-- What a sector holds after an erase that did not verify or was cut short. -/
def State.sectorSpoil (s : State) (b off : Nat) : State :=
  let a := flashAddr b (65536 * (off / 65536))
  let p := pageOf b (65536 * (off / 65536))
  State.scramble { s with flash := { s.flash with torn := nsetAdd s.flash.torn p (p + 128) } } a 16384

/-- FLASH_ERASE_DONE (R371 steps 3 to 5). A SUSPEND still waiting is overtaken (R372). -/
def execFlashEraseDone (bank : Fin 2) (verified : Bool) (s : State) : Result :=
  match (s.bank bank).op with
  | some o =>
    if !o.erase || s.fld (Reg.FC_STAT bank) 31 30 != 2 then .next s
    else
      let s :=
        if verified then (s.sectorWipe bank o.target).setSector bank (o.target / 65536) 0
        else (s.sectorSpoil bank o.target).setFlag (Reg.FC_STAT bank) 4 true
      .next ((s.setIntent bank 0).flashEnd bank)
  | none => .next s

/-- FLASH_SUSPEND (R372): the erase stops within 20 us. -/
def execFlashSuspend (v : BitVec 32) (s : State) : Result :=
  .next (s.flashCmd v 3 fun s b _ => s.setBank b { s.bank b with op := (s.bank b).op.map fun o => { o with stopping := true } })

/-- ERASE_SUSPENDED (R372). -/
def execEraseSuspended (bank : Fin 2) (s : State) : Result :=
  match (s.bank bank).op with
  | some o =>
    if !o.stopping then .next s
    else
      let s := s.setBank bank { op := some { o with stopping := false }, buf := none }
      .next ((s.setIntent bank 2).setFld (Reg.FC_STAT bank) 31 30 3)
  | none => .next s

/-- FLASH_RESUME (R372). -/
def execFlashResume (v : BitVec 32) (s : State) : Result :=
  .next (s.flashCmd v 4 fun s b _ =>
    State.setFld ((s.setIntent b 1).setBank b { s.bank b with buf := none }) (Reg.FC_STAT b) 31 30 2)

/-- FLASH_ACKRECOV (R378): the intent is closed and the reports cleared. -/
def State.ackRecov (s : State) (b : Nat) : State :=
  ((s.setIntent b 0).setReg (Reg.FC_RECOV b) 0).setReg (Reg.FC_RISK b) 0 |>.setFlag (Reg.FC_STAT b) 7 false

def execFlashAckrecov (v : BitVec 32) (s : State) : Result := .next (s.flashCmd v 5 fun s b _ => s.ackRecov b)

/-! Boot scan (R377) and cuts. -/

/-- The reports of a REPORTED intent (R378). -/
def State.recovReport (s : State) (b : Nat) : State :=
  let w := s.dword (intentWord b)
  let kind := w / 2 ^ 60
  let part := w / 2 ^ 40 % 256
  let target := w % 2 ^ 23
  let s := s.setFlag (Reg.FC_STAT b) 7 true
  let s := s.setReg (Reg.FC_RECOV b) (BitVec.ofNat 32 (2 ^ 31 + 2 ^ 29 * (kind % 4) + 2 ^ 28 * (w / 2 ^ 55 % 2) + target))
  if kind = 2 ∧ part ≠ 0xFF then
    s.setReg (Reg.FC_RISK b) (BitVec.ofNat 32 (2 ^ 31 + 65536 * (target / 65536) + part * 512))
  else s

/-- The scan of one intent word at boot (R377). -/
def State.intentScan (s : State) (b : Nat) : State :=
  let w := s.dword (intentWord b)
  let kind := w / 2 ^ 60
  let st := w / 2 ^ 56 % 16
  let k := w % 2 ^ 23 / 65536
  if kind = 0 ∨ st = 0 then s
  else if st = 3 then s.recovReport b
  else if kind = 1 ∧ st = 1 ∧ s.sectorState b k = 0 then s.setIntent b 0
  else if kind = 1 then ((s.setSector b k 2).setIntent b 3).recovReport b
  else (s.setIntent b 3).recovReport b

/-- A reset cuts the operation of a bank short: the page or sector holds what its cells hold, and the lower partner of
an upper page may have become unreadable (R361, R377). -/
def State.flashCut (s : State) (b : Nat) : State :=
  match (s.bank b).op with
  | some o =>
    if !o.started then s
    else if o.erase then s.sectorSpoil b o.target
    else
      let s := s.scramble (flashAddr b o.target) 128
      let s := { s with flash := { s.flash with torn := nsetAdd s.flash.torn (pageOf b o.target) (pageOf b o.target + 1) } }
      if o.target / 512 % 8 < 4 then s
      else
        let a := flashAddr b (o.target - 2048)
        let s := (List.range 128).foldl (fun s i =>
          { s with mem := { s.mem with flips := mapSet 0 s.mem.flips (a / 4 + i) (Config.openWord (s.free + i)) } }) s
        { s with free := s.free + 128 }
  | none => s

/-! FC_CTRL, descriptors and remap. -/

/-- Every sector word of a bank reads ERASED. -/
def State.bankErased (s : State) (b : Nat) : Bool := (List.range 128).all fun k => s.sectorState b k == 0

/-- FC_CTRL_WRITE (R365, R386): discarded as a whole where it fails. -/
def State.fcCtrlWrite (s : State) (v : Word) : State :=
  let need := waitStates (s.fld Reg.PM_OPSTAT 1 0) s.vddCode
  let changed (b : Nat) : Bool := fieldOf v (17 + 2 * b) (16 + 2 * b) != s.fld Reg.FC_CTRL (17 + 2 * b) (16 + 2 * b)
  let bad := fieldOf v 17 16 == 0 || fieldOf v 19 18 == 0
  match pickFail (failIf bad 0x05 0 ++ failIf (decide (fieldOf v 3 0 < need)) 0x81 0 ++
      failIf (changed 0 && !s.bankErased 0 || changed 1 && !s.bankErased 1) 0x88 0) with
  | some f => s.cfgFail Reg.FC_CFGCHK f
  | none =>
    let s := if changed 0 || changed 1 then
        let m := s.dword 0x10080020
        s.setDword 0x10080020 (m / 16 * 16 + fieldOf v 19 16)
      else s
    (s.setReg Reg.FC_CTRL (v &&& 0x000F010F)).cfgOk Reg.FC_CFGCHK

def execFcCtrlWrite (v : BitVec 32) (s : State) : Result := .next (s.fcCtrlWrite v)

/-- FC_XO_WRITE (R367). -/
def State.xoWrite (s : State) (k : Nat) (v : Word) : State :=
  if s.flag (Reg.FC_XO k) 30 then s.cfgFail Reg.FC_CFGCHK ⟨0x89, 16 + k, 0⟩
  else if bitOf v 31 && decide (fieldOf v 6 0 < fieldOf v 22 16) then s.cfgFail Reg.FC_CFGCHK ⟨0x07, 16 + k, 0⟩
  else (s.setReg (Reg.FC_XO k) (v &&& 0xC17F007F)).cfgOk Reg.FC_CFGCHK

def execFcXoWrite (k : Fin 16) (v : BitVec 32) (s : State) : Result := .next (s.xoWrite k v)

/-- FC_PBUFb is static from the landing of PROGRAM until DONE (R370). -/
def State.pbufWrite (s : State) (b i : Nat) (v : Word) : State :=
  match (s.bank b).op with
  | some o => if o.erase then s.setReg (Reg.FC_PBUF b i) v else s.cfgFail Reg.FC_CFGCHK ⟨0x01, 2, 0⟩
  | none => s.setReg (Reg.FC_PBUF b i) v

/-- SECTOR_REMAP (R374): the sector keeps its offset; its spare, blank until now, takes its place. -/
def execSectorRemap (bank : Fin 2) (sector : Fin 128) (s : State) : Result :=
  let used := (s.repairs.sectors.filter fun p => p.1 / 0x1000 == bank.val).length
  if 8 ≤ used then .next s
  else
    let s := { s with repairs := { s.repairs with sectors := mapInsert s.repairs.sectors (0x1000 * bank.val + used) sector.val } }
    let s := (s.sectorWipe bank (65536 * sector.val)).setBank bank { s.bank bank with buf := none }
    .next s.repairCommit.sparesSync

/-! Ledger service (R383 to R385). -/

/-- Base of slot k of a set. -/
def slotAddr (set k : Nat) : Nat := 0x10000000 + 0x400 * set + k * 0x200

/-- The i-th word write of a COMMIT of n words (R383). -/
def State.commitWord (s : State) (o : LedgerOp) (i : Nat) : State :=
  let a := slotAddr o.set o.slot
  if i = 0 then s.setDword (a + 504) 0
  else if i ≤ o.len then
    (s.setWord (a + 8 * i) (s.reg (Reg.LG_BUF (2 * (i - 1))))).setWord (a + 8 * i + 4) (s.reg (Reg.LG_BUF (2 * (i - 1) + 1)))
  else if i = o.len + 1 then s.setDword a (2 ^ 48 * o.pm + 2 ^ 40 * o.set + 2 ^ 32 * o.len)
  else s.setDword (a + 504) (2 ^ 48 * o.pm + 2 ^ 47 + s.crc32 a (8 * (o.len + 1)))

/-- Edge by which the i-th word write of a COMMIT is done: 25 ns each, 200 ns for the CRC before the last. -/
def commitDue (o : LedgerOp) (i : Nat) : Nat := o.start + 10 * (i + 1) + (if i = o.len + 2 then 80 else 0)

/-- The word writes due by edge e are done, and no more. -/
def State.ledgerSync (s : State) (e : Nat) : State :=
  match s.flash.ledger with
  | some o =>
    if o.read then s
    else
      let due := ((List.range (o.len + 3)).filter fun i => decide (o.done ≤ i) && decide (commitDue o i ≤ e))
      let s := due.foldl (fun s i => s.commitWord o i) s
      { s with flash := { s.flash with ledger := some { o with done := o.done + due.length } } }
  | none => s

/-- LEDGER_COMMIT (R381 to R383). -/
def State.ledgerCommit (s : State) (v : Word) : State :=
  let n := fieldOf v 13 8
  match pickFail (failIf (s.flag Reg.LG_STAT 0) 0x01 0 ++ failIf (n == 0 || n == 63) 0x8A 0) with
  | some f => s.cfgFail Reg.LG_CFGCHK f
  | none =>
    let set := fieldOf v 23 16
    let (s, rec) := s.setRecord set
    let (slot, pm) := match rec with | some (k, p) => (1 - k, (p + 1) % 65536) | none => (0, 1)
    let o : LedgerOp := ⟨false, set, slot, n, pm, s.now, 0⟩
    State.setFlag { s.cfgOk Reg.LG_CFGCHK with flash := { s.flash with ledger := some o } } Reg.LG_STAT 0 true

def execLedgerCommit (v : BitVec 32) (s : State) : Result := .next (s.ledgerCommit v)

/-- LEDGER_READ (R384). -/
def State.ledgerRead (s : State) (v : Word) : State :=
  if s.flag Reg.LG_STAT 0 then s.cfgFail Reg.LG_CFGCHK ⟨0x01, 0, 0⟩
  else
    let set := fieldOf v 23 16
    match s.setRecord set with
    | (s, none) => s.cfgFail Reg.LG_CFGCHK ⟨0x8B, 0, 0⟩
    | (s, some (k, p)) =>
      let o : LedgerOp := ⟨true, set, k, setLen (s.dword (slotAddr set k)), p, s.now, 0⟩
      State.setFlag { s.cfgOk Reg.LG_CFGCHK with flash := { s.flash with ledger := some o } } Reg.LG_STAT 0 true

def execLedgerRead (v : BitVec 32) (s : State) : Result := .next (s.ledgerRead v)

/-- LEDGER_COMMAND_DONE (R383, R384): a COMMIT ends (LEN + 3) × 25 ns + 200 ns after it began. -/
def execLedgerCommandDone (s : State) : Result :=
  match s.flash.ledger with
  | some o =>
    let s :=
      if o.read then
        (List.range (2 * o.len)).foldl (fun s i => s.setReg (Reg.LG_BUF i) (s.word (slotAddr o.set o.slot + 8 + 4 * i))) s
      else
        let s := s.advanceTo (commitDue o (o.len + 2))
        s.ledgerSync s.now
    let s := { s with flash := { s.flash with ledger := none } }
    let s := (s.setFld Reg.LG_STAT 31 16 o.pm).setFld Reg.LG_STAT 15 8 o.len
    .next (((s.setFlag Reg.LG_STAT 0 false).setFlag Reg.LG_STAT 1 true).pulseLine 404)
  | none => .next s

/-- LG_BUF is refused while a command runs. -/
def State.lgBufWrite (s : State) (i : Nat) (v : Word) : State :=
  if s.flag Reg.LG_STAT 0 then s.cfgFail Reg.LG_CFGCHK ⟨0x01, 0, 0⟩ else s.setReg (Reg.LG_BUF i) v

/-! Direct accesses (R379, R380). -/

/-- A master may write the ledger at a: the user area any, the management area the management core, the rest none. -/
def ledgerMayWrite (a : Nat) (mgmt : Bool) : Bool :=
  if a < 0x10040000 then false else if a < 0x10080000 then true else mgmt

/-- Write n ≤ 8 bytes inside one ledger word; false where refused. -/
def State.ledgerWriteWord (s : State) (a n v : Nat) (mgmt : Bool) : State × Bool :=
  if !ledgerMayWrite a mgmt then (s.setFlag Reg.LG_STAT 4 true, false)
  else
    let w := a / 8 * 8
    let (s, r) := if n = 8 then (s, .ok) else s.ledgerCheck a
    let s := s.setBytes a n v
    if r = .ok then ({ s with mem := { s.mem with flips := mapErase (mapErase s.mem.flips (w / 4)) (w / 4 + 1) } }, true)
    else (s, true)

/-- Write n bytes of v from a, word by word in ascending order. -/
def State.ledgerWrite (s : State) (a n v : Nat) (mgmt : Bool) : State × Bool :=
  let s := s.ledgerSync s.now
  if n ≤ 8 then s.ledgerWriteWord a n v mgmt
  else (List.range (n / 8)).foldl (fun (s, ok) i =>
    let (s, k) := s.ledgerWriteWord (a + 8 * i) 8 (v / 2 ^ (64 * i) % 2 ^ 64) mgmt
    (s, ok && k)) (s, true)

/-- Read n bytes inside one aligned block of the ledger. -/
def State.ledgerReadBytes (s : State) (a n : Nat) : State × Option Nat :=
  let s := s.ledgerSync s.now
  let (s, ok) := s.ledgerCheckAll (a / 8 * 8) ((a % 8 + n + 7) / 8)
  (s, if ok then some (s.bytesAt a n) else none)

/-- LEDGER_DIRECT_WRITE (R379, R380). -/
def execLedgerDirectWrite (a : BitVec 32) (lg : Fin 6) (v : BitVec 256) (mgmt : Bool) (s : State) : Result :=
  match regionOf a.toNat with
  | .ledger =>
    let n := 2 ^ lg.val
    .next (s.ledgerWrite (a.toNat / n * n) n (v.toNat % 2 ^ (8 * n)) mgmt).1
  | _ => .next s

end Sys2Proof.Machine
end

