-- ==== Sys2Proof/Machine/Fp32.lean ====
section
/-! DEFINITION. Arithmetic shared by the loop cells and the cores: saturation, FP32 by the rules of R160, and the sine,
cosine and square root of the transforms (R166, R167, R501). Everything is exact integer arithmetic, rounded once. -/

namespace Sys2Proof.Machine

/-! Integers. -/

/-- Saturate to w bits, two's complement. -/
def satTo (w : Nat) (z : Int) : Int := clipInt (-(2 ^ (w - 1) : Nat)) ((2 ^ (w - 1) : Nat) - 1) z

/-- A saturated 32-bit result. -/
def sat32 (z : Int) : Word := Word.ofInt (satTo 32 z)

/-- A Q15 result: saturated to 16 bits and sign-extended (R160). -/
def sat16 (z : Int) : Word := Word.ofInt (satTo 16 z)

/-- The low 16 bits of a word as a signed number. -/
def low16 (a : Word) : Int := signedOf 16 (a.toNat % 65536)

/-- Number of significant bits of n. -/
def bitLen (n : Nat) : Nat := if n = 0 then 0 else Nat.log2 n + 1

/-- floor(sqrt n) by bits, from the highest of `k` candidate bits. -/
def isqrtGo (n : Nat) : Nat → Nat → Nat
  | 0, r => r
  | k + 1, r => let r' := r + 2 ^ k; isqrtGo n k (if r' * r' ≤ n then r' else r)

/-- floor(sqrt n). -/
def isqrt (n : Nat) : Nat := isqrtGo n (bitLen n / 2 + 1) 0

/-! FP32 (R160). -/

/-- A decoded binary32 value: NaN, an infinity, or m x 2^e with its sign; subnormals are read as zeros. -/
inductive Fp where
  | nan
  | inf (neg : Bool)
  | fin (neg : Bool) (m : Nat) (e : Int)
deriving DecidableEq, Repr

/-- Decode a word. -/
def fpOf (w : Word) : Fp :=
  let neg := bitOf w 31
  let x := fieldOf w 30 23
  let f := fieldOf w 22 0
  if x = 255 then (if f = 0 then .inf neg else .nan)
  else if x = 0 then .fin neg 0 0
  else .fin neg (f + 2 ^ 23) ((x : Int) - 150)

/-- Every NaN result. -/
def fpNaN : Word := 0x7FC00000

/-- A signed zero and a signed infinity. -/
def fpZero (neg : Bool) : Word := if neg then 0x80000000 else 0
def fpInf (neg : Bool) : Word := if neg then 0xFF800000 else 0x7F800000

/-- n / 2^k rounded to nearest, ties to even; `sticky` says that a lost part lies below n's last bit. -/
def shiftRne (n k : Nat) (sticky : Bool) : Nat :=
  let q := n / 2 ^ k
  let r := n % 2 ^ k
  let half := if k = 0 then 0 else 2 ^ (k - 1)
  if k = 0 then n
  else if half < r ∨ (r = half ∧ (sticky ∨ q % 2 = 1)) then q + 1
  else q

/-- Round the exact value (-1)^neg x m x 2^e (plus a lost part below it) to binary32: nearest even, subnormal results
to zero, overflow to infinity (R160). With a lost part, m has at least 25 bits. -/
def fpRound (neg : Bool) (m : Nat) (e : Int) (sticky : Bool) : Word :=
  if m = 0 then fpZero neg
  else
    let q : Int := max (e + bitLen m - 24) (-149)
    let r := if e < q then shiftRne m (q - e).toNat sticky else m * 2 ^ (e - q).toNat
    let (r, q) := if r = 2 ^ 24 then (2 ^ 23, q + 1) else (r, q)
    let x := q + 150
    if r < 2 ^ 23 then fpZero neg
    else if 255 ≤ x then fpInf neg
    else BitVec.ofNat 32 (2 ^ 31 * bit neg + 2 ^ 23 * x.toNat + (r - 2 ^ 23))

/-- The word of a decoded value that needs no rounding beyond binary32's. -/
def Fp.word : Fp → Word
  | .nan => fpNaN
  | .inf neg => fpInf neg
  | .fin neg m e => fpRound neg m e false

/-- Sum, rounded once. -/
def fpAddX : Fp → Fp → Word
  | .nan, _ => fpNaN
  | _, .nan => fpNaN
  | .inf a, .inf b => if a = b then fpInf a else fpNaN
  | .inf a, _ => fpInf a
  | _, .inf b => fpInf b
  | .fin a m e, .fin b n f =>
    if m = 0 ∧ n = 0 then fpZero (a && b)
    else
      let lo := if m = 0 then f else if n = 0 then e else min e f
      let x : Int := (if m = 0 then 0 else m * 2 ^ (e - lo).toNat : Nat)
      let y : Int := (if n = 0 then 0 else n * 2 ^ (f - lo).toNat : Nat)
      let z := (if a then -x else x) + (if b then -y else y)
      if z = 0 then fpZero false else fpRound (decide (z < 0)) z.natAbs lo false

/-- Exact product; NaN for infinity times zero. -/
def fpMulX : Fp → Fp → Fp
  | .nan, _ => .nan
  | _, .nan => .nan
  | .inf a, .inf b => .inf (a != b)
  | .inf a, .fin b n _ => if n = 0 then .nan else .inf (a != b)
  | .fin a m _, .inf b => if m = 0 then .nan else .inf (a != b)
  | .fin a m e, .fin b n f => .fin (a != b) (m * n) (e + f)

/-- The value with its sign inverted. -/
def Fp.neg : Fp → Fp
  | .nan => .nan
  | .inf a => .inf (!a)
  | .fin a m e => .fin (!a) m e

/-- FADD, FSUB, FMUL, and FMAD = c + a x b with one rounding. -/
def fpAdd (a b : Word) : Word := fpAddX (fpOf a) (fpOf b)
def fpSub (a b : Word) : Word := fpAddX (fpOf a) (fpOf b).neg
def fpMul (a b : Word) : Word := (fpMulX (fpOf a) (fpOf b)).word
def fpMad (a b c : Word) : Word := fpAddX (fpOf c) (fpMulX (fpOf a) (fpOf b))

/-- a < b on decoded values; false with a NaN. Zeros are equal. -/
def fpLtX : Fp → Fp → Bool
  | .nan, _ => false
  | _, .nan => false
  | .inf a, .inf b => a && !b
  | .inf a, .fin .. => a
  | .fin .., .inf b => !b
  | .fin a m e, .fin b n f =>
    let lo := if m = 0 then f else if n = 0 then e else min e f
    let x : Int := (if m = 0 then 0 else m * 2 ^ (e - lo).toNat : Nat)
    let y : Int := (if n = 0 then 0 else n * 2 ^ (f - lo).toNat : Nat)
    decide ((if a then -x else x) < (if b then -y else y))

def fpLt (a b : Word) : Bool := fpLtX (fpOf a) (fpOf b)
def isNaN (a : Word) : Bool := fpOf a == .nan

/-- A word as an operation returns it unchanged: subnormals flushed, NaN made 0x7FC0_0000. -/
def fpClean (a : Word) : Word :=
  match fpOf a with
  | .nan => fpNaN
  | .inf b => fpInf b
  | .fin neg m _ => if m = 0 then fpZero neg else a

/-- FMIN and FMAX: a NaN gives the other operand, two give NaN; of the zeros, -0 is the smaller. -/
def fpMin (a b : Word) : Word :=
  if isNaN a then fpClean b else if isNaN b then fpClean a
  else if fpLt a b then fpClean a else if fpLt b a then fpClean b
  else if bitOf a 31 then fpClean a else fpClean b

def fpMax (a b : Word) : Word :=
  if isNaN a then fpClean b else if isNaN b then fpClean a
  else if fpLt a b then fpClean b else if fpLt b a then fpClean a
  else if bitOf a 31 then fpClean b else fpClean a

/-- FABS and FNEG. -/
def fpAbs (a : Word) : Word := if isNaN a then fpNaN else withField (fpClean a) 31 31 0
def fpNeg (a : Word) : Word := if isNaN a then fpNaN else withField (fpClean a) 31 31 (1 - fieldOf a 31 31)

/-- An integer times 2^e as binary32. -/
def fpOfInt (z : Int) (e : Int) : Word := fpRound (decide (z < 0)) z.natAbs e false

/-- FCVT.QF and FCVT.IF. -/
def fcvtQF (a : Word) : Word := fpOfInt (signedOf 32 a.toNat) (-31)
def fcvtIF (a : Word) : Word := fpOfInt (signedOf 32 a.toNat) 0

/-- m x 2^e as an integer, to nearest even or truncated. -/
def toIntBy (even : Bool) (m : Nat) (e : Int) : Nat :=
  if 0 ≤ e then m * 2 ^ e.toNat else if even then shiftRne m (-e).toNat false else m / 2 ^ (-e).toNat

/-- FCVT.FQ: to Q31, nearest even, saturating, NaN gives 0. -/
def fcvtFQ (a : Word) : Word :=
  match fpOf a with
  | .nan => 0
  | .inf neg => if neg then 0x80000000 else 0x7FFFFFFF
  | .fin neg m e =>
    if 40 < e then (if m = 0 then 0 else if neg then 0x80000000 else 0x7FFFFFFF)
    else
      let n : Int := toIntBy true m (e + 31)
      sat32 (if neg then -n else n)

/-- FCVT.FI: to an integer, truncating, saturating, NaN gives 0. -/
def fcvtFI (a : Word) : Word :=
  match fpOf a with
  | .nan => 0
  | .inf neg => if neg then 0x80000000 else 0x7FFFFFFF
  | .fin neg m e =>
    if 40 < e then (if m = 0 then 0 else if neg then 0x80000000 else 0x7FFFFFFF)
    else
      let n : Int := toIntBy false m e
      sat32 (if neg then -n else n)

/-- FDIV, rounded once. -/
def fpDiv (a b : Word) : Word :=
  match fpOf a, fpOf b with
  | .nan, _ => fpNaN
  | _, .nan => fpNaN
  | .inf _, .inf _ => fpNaN
  | .inf x, .fin y _ _ => fpInf (x != y)
  | .fin x _ _, .inf y => fpZero (x != y)
  | .fin x m e, .fin y n f =>
    if n = 0 then (if m = 0 then fpNaN else fpInf (x != y))
    else if m = 0 then fpZero (x != y)
    else fpRound (x != y) (2 ^ 30 * m / n) (e - f - 30) (2 ^ 30 * m % n != 0)

/-- FSQRT, rounded once; NaN below zero, and the root of -0 is -0. -/
def fpSqrt (a : Word) : Word :=
  match fpOf a with
  | .nan => fpNaN
  | .inf neg => if neg then fpNaN else fpInf false
  | .fin neg m e =>
    if m = 0 then fpZero neg
    else if neg then fpNaN
    else
      let (m, e) := if e % 2 = 0 then (2 ^ 30 * m, e - 30) else (2 ^ 31 * m, e - 31)
      let r := isqrt m
      fpRound false r (e / 2) (r * r != m)

/-! Sine, cosine, and the transforms. -/

/-- Pi scaled by 2^64, and the square root of 3 scaled by 2^64. -/
def piFix : Nat := 57952155664616982739
def sqrt3Fix : Nat := isqrt (3 * 2 ^ 128)

/-- Taylor terms of x (scaled by 2^64): the running term, the sum, the next divisor k(k + 1). -/
def taylorGo (x2 : Int) : Nat → Int → Nat → Int → Int
  | 0, _, _, acc => acc
  | fuel + 1, t, k, acc =>
    let t' := -(t * x2 / 2 ^ 64) / ((k * (k + 1) : Nat) : Int)
    taylorGo x2 fuel t' (k + 2) (acc + t')

/-- sin and cos of the angle word r < 2^30 (a quarter turn), scaled by 2^64. -/
def quarterSin (r : Nat) : Int :=
  let x : Int := (2 * piFix * r / 2 ^ 32 : Nat)
  taylorGo (x * x / 2 ^ 64) 14 x 2 x
def quarterCos (r : Nat) : Int :=
  let x : Int := (2 * piFix * r / 2 ^ 32 : Nat)
  taylorGo (x * x / 2 ^ 64) 15 (2 ^ 64) 1 (2 ^ 64)

/-- The exact sine and cosine of an angle word (R160), scaled by 2^64, to within 2^-55. -/
def sinFix (th : Word) : Int :=
  let r := th.toNat % 2 ^ 30
  match th.toNat / 2 ^ 30 with
  | 0 => quarterSin r | 1 => quarterCos r | 2 => -quarterSin r | _ => -quarterCos r
def cosFix (th : Word) : Int :=
  let r := th.toNat % 2 ^ 30
  match th.toNat / 2 ^ 30 with
  | 0 => quarterCos r | 1 => -quarterSin r | 2 => -quarterCos r | _ => quarterSin r

/-- An error of the device's sine or cosine, within the stated 2^-24 (R167). -/
def trigErr (z : Int) : Int := clipInt (-(2 ^ 40)) (2 ^ 40) z

/-- The device's sine and cosine: the exact value with a free error of at most 2^-24 (R167). -/
def devSin (th : Word) : Int := sinFix th + trigErr (Config.sinErr th.toNat)
def devCos (th : Word) : Int := cosFix th + trigErr (Config.cosErr th.toNat)

/-- A value scaled by 2^64, rounded to nearest (R501), before it is saturated to Q31. -/
def q31Int (z : Int) : Int := roundDiv z (2 ^ 64)

/-- CLARKE's second result before saturation: (a + 2b) / sqrt 3, nearest (R166). -/
def clarkeInt (a b : Word) : Int :=
  let n := signedOf 32 a.toNat + 2 * signedOf 32 b.toNat
  let r : Int := ((isqrt (4 * n.natAbs * n.natAbs / 3) + 1) / 2 : Nat)
  if n < 0 then -r else r
def clarkeB (a b : Word) : Word := sat32 (clarkeInt a b)

/-- PARK and IPARK before saturation (R166). -/
def parkInts (x y th : Word) : Int × Int :=
  let a := signedOf 32 x.toNat
  let b := signedOf 32 y.toNat
  (q31Int (a * devCos th + b * devSin th), q31Int (-a * devSin th + b * devCos th))
def iparkInts (x y th : Word) : Int × Int :=
  let d := signedOf 32 x.toNat
  let q := signedOf 32 y.toNat
  (q31Int (d * devCos th - q * devSin th), q31Int (d * devSin th + q * devCos th))
def parkPair (x y th : Word) : Word × Word := let r := parkInts x y th; (sat32 r.1, sat32 r.2)
def iparkPair (x y th : Word) : Word × Word := let r := iparkInts x y th; (sat32 r.1, sat32 r.2)

/-- The sector of R167: b against sqrt 3 times a, compared by squares. -/
def svmSector (a b : Int) : Nat :=
  let steep := decide (3 * a * a ≤ b * b)
  if a = 0 ∧ b = 0 then 1
  else if 0 ≤ b then
    if 0 < a ∧ !steep then 1
    else if (0 ≤ a ∧ steep) ∨ (a < 0 ∧ decide (3 * a * a < b * b)) then 2
    else if b = 0 ∧ a < 0 then 4
    else 3
  else
    if a < 0 ∧ !steep then 4
    else if (a ≤ 0 ∧ steep) ∨ (0 < a ∧ decide (3 * a * a < b * b)) then 5
    else 6

/-- sin and cos of s x 60 degrees as the device has them. -/
def sixtySin (s : Nat) : Int :=
  let h : Int := (sqrt3Fix / 2 : Nat)
  (match s % 6 with | 0 => 0 | 1 => h | 2 => h | 3 => 0 | 4 => -h | _ => -h) + trigErr (Config.sinErr (2 ^ 32 + s))
def sixtyCos (s : Nat) : Int :=
  let h : Int := 2 ^ 63
  (match s % 6 with | 0 => 2 * h | 1 => h | 2 => -h | 3 => -2 * h | 4 => -h | _ => h) + trigErr (Config.cosErr (2 ^ 32 + s))

/-- SVM (R167): the sector word with ovm in bit 31, and t1, t2, t0 as Q31. -/
def svmOf (x y : Word) : Word × Word × Word × Word :=
  let a := signedOf 32 x.toNat
  let b := signedOf 32 y.toNat
  if a = 0 ∧ b = 0 then (1, 0, 0, 0x7FFFFFFF)
  else
    let s := svmSector a b
    let t1 := (sqrt3Fix : Int) * (sixtySin s * a - sixtyCos s * b)
    let t2 := (sqrt3Fix : Int) * (-sixtySin (s - 1) * a + sixtyCos (s - 1) * b)
    let one : Int := 2 ^ 159
    let q (z : Int) : Word := sat32 (roundDiv z (2 ^ 128))
    if one < t1 + t2 then
      let d := (t1 + t2).toNat
      (BitVec.ofNat 32 (2 ^ 31 + s), sat32 (roundDiv (2 ^ 31 * t1) d), sat32 (roundDiv (2 ^ 31 * t2) d), 0)
    else (BitVec.ofNat 32 s, q t1, q t2, q (one - t1 - t2))

end Sys2Proof.Machine
end

