-- ==== Sys2Proof/Machine/MapStore.lean ====
section
/-! DEFINITION. The map store: descriptors, table reads, interpolation, read ports, swaps (R182 to R193). -/

namespace Sys2Proof.Machine

/-- Byte address of word w. -/
def msAddr (w : Nat) : Nat := 0x40000000 + 4 * w

/-- The half of word w is usable. -/
def State.msHalf (s : State) (w : Nat) : Bool := s.domOn (0x1E + w / 0x8000)

/-! Descriptors (R184, R185). -/

/-- Fields of descriptor k. -/
def State.tdNx (s : State) (k : Nat) : Nat := s.fld (Reg.MS_TD_SHAPE k) 23 12 + 1
def State.tdNy (s : State) (k : Nat) : Nat := s.fld (Reg.MS_TD_SHAPE k) 11 0 + 1
def State.tdFmt (s : State) (k : Nat) : Nat := s.fld (Reg.MS_TD_SHAPE k) 25 24
def State.tdStride (s : State) (k : Nat) : Nat := s.fld (Reg.MS_TD_AXIS k) 31 16

/-- One axis (R185): index, fraction, and the index MS.LD uses. -/
def axisOf (arg ofs : Word) (sh n : Nat) : Nat × Nat × Nat :=
  let x := (clipInt 0 (2 ^ 32 - 1) (signedOf 32 arg.toNat - signedOf 32 ofs.toNat)).toNat
  let i := x / 2 ^ sh
  if n ≤ i + 1 then (n - 2, 65536, n - 1) else (i, 65536 * x / 2 ^ sh % 65536, i)

/-- The words a request reads, in order, with its fractions (R186). -/
def State.msWords (s : State) (q : MsReq) : List Nat × Nat × Nat :=
  let base := s.fld (Reg.MS_TD_BASE q.td) 15 0
  let (i, fx, il) := axisOf q.a (s.reg (Reg.MS_TD_XOFS q.td)) (s.fld (Reg.MS_TD_AXIS q.td) 4 0) (s.tdNx q.td)
  let ny := s.tdNy q.td
  let (j, fy, jl) := if ny = 1 then (0, 0, 0) else
    axisOf q.b (s.reg (Reg.MS_TD_YOFS q.td)) (s.fld (Reg.MS_TD_AXIS q.td) 12 8) ny
  let at' (i j : Nat) : Nat := (base + j * s.tdStride q.td + i) % 65536
  match q.kind with
  | .ld => ([at' il jl], 0, 0)
  | .lerp => ([at' i 0, at' (i + 1) 0], fx, 0)
  | .blerp => if ny = 1 then ([at' i 0, at' (i + 1) 0], fx, 0)
    else ([at' i j, at' (i + 1) j, at' i (j + 1), at' (i + 1) (j + 1)], fx, fy)

/-- An entry word as the format reads it. -/
def msEntry (fmt : Nat) (w : Word) : Word := if fmt = 0 then Word.ofInt (low16 w) else w

/-- lerp (R186). -/
def msLerp (fmt : Nat) (y0 y1 : Word) (f : Nat) : Word :=
  if fmt = 2 then
    let d := fpSub y1 y0
    fpAddX (fpOf y0) (fpMulX (fpOf d) (.fin false f (-16)))
  else
    let a := signedOf 32 y0.toNat
    let b := signedOf 32 y1.toNat
    Word.ofInt (a + ((b - a) * f + 32768) / 65536)

/-- The result from the entries read. -/
def msResult (fmt : Nat) (ws : List Word) (fx fy : Nat) : Word :=
  match ws.map (msEntry fmt) with
  | [y] => if fmt = 2 then fpClean y else y
  | [y0, y1] => msLerp fmt y0 y1 fx
  | [y00, y10, y01, y11] => msLerp fmt (msLerp fmt y00 y10 fx) (msLerp fmt y01 y11 fx) fy
  | _ => 0

/-- MS_DETECTION_HIT (R192): word w of descriptor td fails its code on a read by `cell`. A correction becomes due; an
unwritten word (R346) has none. -/
def State.msHit (s : State) (w td cell : Nat) : State :=
  let s := (s.setFlag Reg.MS_STAT 0 true).satInc Reg.MS_CNT 31 16
  let s := s.setReg Reg.MS_ERRADR (BitVec.ofNat 32 (2 ^ 26 * cell + 2 ^ 16 * td + w))
  let a := msAddr w
  if !s.written a then s.memReport 1 2 8 0 (a / 8 * 8)
  else
    let page := a / 256
    let s := s.setFlag Reg.MS_STAT 1 true
    if s.mem.corrections.any (fun p => p.1 == page) then s
    else { s with mem := { s.mem with corrections := s.mem.corrections ++ [(page, s.now + 256)] } }

/-- A granted request (R189, R192): what vd takes. -/
def State.msRead (s : State) (q : MsReq) (cell : Nat) : State × Word :=
  let (ws, fx, fy) := s.msWords q
  if !s.flag Reg.MS_CTRL 0 || !s.flag (Reg.MS_TD_SHAPE q.td) 31 || ws.any (fun w => !s.msHalf w) then
    (s.satInc Reg.MS_CNT 15 0, 0)
  else
    let vals := ws.map fun w => if s.written (msAddr w) then s.rawWord (msAddr w) else 0
    let s := ws.foldl (fun s w =>
      if !s.written (msAddr w) || s.detects (msAddr w) then s.msHit w q.td cell else s) s
    (s, msResult (s.tdFmt q.td) vals fx fy)

/-! Ports (R187, R188). -/

/-- Cell record c. -/
def State.cell (s : State) (c : Nat) : LoopCell := mapGet {} s.cells c

/-- Replace cell record c. -/
def State.setCell (s : State) (c : Nat) (r : LoopCell) : State := { s with cells := mapSet {} s.cells c r }

/-- LCn runs as the even cell of an enabled pair. -/
def State.paired (s : State) (c : Nat) : Bool :=
  c % 2 == 0 && s.flag (Reg.LC_CTRL c) 1 && s.flag (Reg.LC_CTRL c) 0

/-- Requesters of port p in arbitration order after the one granted last: cells ascending, then the service requester (52). -/
def portOrder (p last : Nat) : List Nat :=
  let all := (List.range 7).map (fun i => p + 8 * i) |>.filter (fun c => decide (c < 52))
  (all.filter fun c => decide (last < c)) ++ (if last = 52 then [] else [52]) ++
    (all.filter fun c => decide (c ≤ last)) ++ (if last = 52 then [52] else [])

/-- The edge of the next grant on port p while a cell is pending: not before a request's edge t + 1, one grant an edge. -/
def State.nextGrant (s : State) (p : Nat) : Option Nat :=
  let issued := (List.range 7).filterMap fun i => (s.cell (p + 8 * i)).ms.map (·.issued + 1)
  match issued with
  | [] => none
  | e :: es => some (max (es.foldl min e) (mapGet 0 s.ports.grantAt p + 1))

/-- One grant of port p (R187): the result is readable 5 edges after it, in the pair's two cells. -/
def State.msGrant (s : State) (p : Nat) (service : Bool) : State :=
  match s.nextGrant p with
  | none => s
  | some g =>
    let ready (c : Nat) : Bool :=
      if c = 52 then service else match (s.cell c).ms with | some q => decide (q.issued + 1 ≤ g) | none => false
    match (portOrder p (mapGet 52 s.ports.last p)).find? ready with
    | none => s
    | some c =>
      let s := s.advanceTo g
      let s := { s with ports := { last := mapSet 52 s.ports.last p c, grantAt := mapSet 0 s.ports.grantAt p g } }
      match (s.cell c).ms with
      | none => s
      | some q =>
        let (s, v) := s.msRead q c
        let put := fun (s : State) (c : Nat) =>
          let r := s.cell c
          s.setCell c { r with v := mapSet 0 r.v q.vd v, ready := mapSet 0 r.ready q.vd (g + 5) }
        let s := s.setCell c { s.cell c with ms := none }
        let s := put s c
        if s.paired c then put s (c + 1) else s

/-- MS_REQUEST_GRANT (R187). -/
def execMsRequestGrant (p : Fin 8) (service : Bool) (s : State) : Result :=
  .next (if s.unitOn domSo then s.msGrant p service else s)

/-- Grants until cell c has no request pending: at most seven others come first. -/
def State.msServe (s : State) (c : Nat) : State :=
  (List.range 8).foldl (fun s _ => if (s.cell c).ms.isSome then s.msGrant (c % 8) false else s) s

/-! Correction (R192, R348, R349). -/

/-- MS_PAGE_WRITEBACK: the page is corrected and written back, or stays as it is when uncorrectable. -/
def State.msWriteback (s : State) (page : Nat) : State :=
  let a := page * 256
  let n := s.pageErrors a
  let s := { s with mem := { s.mem with corrections := s.mem.corrections.filter fun p => p.1 != page } }
  let s := if s.mem.corrections.isEmpty then s.setFlag Reg.MS_STAT 1 false else s
  if n = 0 then s
  else if n ≤ s.strength a then (s.pageFix a).memReport 1 0 8 n (s.mem.flips.foldl (fun k p => if p.1 / 64 = page then p.1 / 2 * 8 else k) a)
  else s.memReport 1 1 8 0 a

/-- MS_PAGE_WRITEBACK (R192): the oldest page waiting, at most 256 cycles after its first hit. -/
def execMsPageWriteback (wait : Nat) (s : State) : Result :=
  match s.mem.corrections with
  | [] => .next s
  | (page, due) :: _ => .next ((s.advanceTo (due - wait)).msWriteback page)

/-- A correction that waits for the page of `a` is carried out before a window access to it (R192, R349). -/
def State.msSettle (s : State) (a : Nat) : State :=
  if s.mem.corrections.any (fun p => p.1 == a / 256) then s.msWriteback (a / 256) else s

/-- A window write of n bytes inside the 64-bit word at `a` by crossbar port `init` (R349, R351). -/
def State.msWindowWrite (s : State) (a n v init : Nat) : State × Bool := (s.msSettle a).pageWrite a n v init

/-- MAP_STORE_WINDOW_WRITE (R349). -/
def execMapStoreWindowWrite (w : Fin 65536) (v : BitVec 32) (port : Fin 8) (s : State) : Result :=
  .next (if s.msHalf w then (s.msWindowWrite (msAddr w) 4 v.toNat port).1 else s)

/-! Control and descriptor writes (R190, R191, R193). -/

/-- A write of MS_CTRL (R182). -/
def State.msCtrlWrite (s : State) (v : Word) : State :=
  s.unitWrite Reg.MS_CTRL Reg.MS_CFGCHK 0 v
    (fun s => failIf (!s.domOn domSo) 0x02 0xFF domSo ++ failIf (!s.clk.run) 0x03 0xFF 2) id id id

/-- MAP_STORE_ENABLE (R182). -/
def execMapStoreEnable (v : BitVec 32) (s : State) : Result :=
  .next (s.whenOn domSo Reg.MS_CFGCHK fun s => s.msCtrlWrite v)

/-- Last word of an area of descriptor k that begins at `b`. -/
def State.tdEnd (s : State) (k b : Nat) : Nat := b + (s.tdNy k - 1) * s.tdStride k + (s.tdNx k - 1)

/-- Two areas at distance d share a word: some row of one meets a row of the other (R193). -/
def areasMeet (d nx ny stride : Nat) : Bool :=
  let near (j : Nat) : Bool := decide (j < ny) &&
    (if j * stride ≤ d then decide (d - j * stride < nx) else decide (j * stride - d < nx))
  if ny = 1 then decide (d < nx) else near (d / stride) || near (d / stride + 1)

/-- The checks of descriptor k as it stands, with ARM newly set or not (R193). -/
def State.tdFails (s : State) (k : Nat) (arming : Bool) : List CfgFail :=
  let b := s.fld (Reg.MS_TD_BASE k) 15 0
  let alt := s.fld (Reg.MS_TD_BASE k) 31 16
  let nx := s.tdNx k
  let ny := s.tdNy k
  let st := s.tdStride k
  let eb := s.tdEnd k b
  let ea := s.tdEnd k alt
  let half (h : Nat) : Bool := !s.domOn (0x1E + h) &&
    [b, eb, alt, ea].any fun w => (if w < 0x8000 then 0 else 1) == h
  let d := if b ≤ alt then alt - b else b - alt
  failIf (half 0) 0x02 0xFF 0x1E ++ failIf (half 1) 0x02 0xFF 0x1F ++ failIf (s.tdFmt k == 3) 0x05 11 ++
  failIf (nx == 1) 0x07 12 ++ failIf (decide (65535 < ea)) 0x70 0 ++ failIf (decide (65535 < eb)) 0x70 1 ++
  failIf (decide (1 < ny) && (decide (st < nx) || decide (st % 8 < 2) || decide (6 < st % 8))) 0x71 16 ++
  failIf (arming && areasMeet d nx ny st) 0x72 0

/-- A check of descriptor k: CHKTD names it; a failing write leaves the state `old` (R193). -/
def State.tdJudge (s old : State) (k : Nat) (arming : Bool) : State :=
  match pickFail (s.tdFails k arming) with
  | none => (s.cfgOk Reg.MS_CFGCHK).setFld Reg.MS_STAT 21 16 k
  | some f => (old.cfgFail Reg.MS_CFGCHK f).setFld Reg.MS_STAT 21 16 k

/-- A FIELD_LOCKED report of descriptor k. -/
def State.tdLocked (s : State) (k field : Nat) : State :=
  (s.cfgFail Reg.MS_CFGCHK ⟨0x0A, field, 0⟩).setFld Reg.MS_STAT 21 16 k

/-- The lowest field of `fs` (row, hi, lo) in which two words differ. -/
def firstDiff (o v : Word) : List (Nat × Nat × Nat) → Option Nat
  | [] => none
  | (row, hi, lo) :: fs => if fieldOf o hi lo = fieldOf v hi lo then firstDiff o v fs else some row

/-- A write of the SHAPE word (R191). -/
def State.shapeWrite (s : State) (k : Nat) (v : Word) : State :=
  let a := Reg.MS_TD_SHAPE k
  let o := s.reg a
  if !bitOf v 31 then s.setReg a (withField v 30 30 0)
  else if !bitOf o 31 then (s.setReg a v).tdJudge s k (bitOf v 30)
  else
    match firstDiff o v [(10, 29, 26), (11, 25, 24), (12, 23, 12), (13, 11, 0)] with
    | some row => s.tdLocked k row
    | none => (s.setReg a v).tdJudge s k (bitOf v 30 && !bitOf o 30)

/-- A write of the BASE word (R191). -/
def State.baseWrite (s : State) (k : Nat) (v : Word) : State :=
  let a := Reg.MS_TD_BASE k
  let o := s.reg a
  if !s.flag (Reg.MS_TD_SHAPE k) 31 then s.setReg a v
  else
    let armed := s.flag (Reg.MS_TD_SHAPE k) 30
    let altDiff := fieldOf o 31 16 != fieldOf v 31 16
    let baseDiff := fieldOf o 15 0 != fieldOf v 15 0
    let s := if altDiff && !armed then (s.setFld a 31 16 (fieldOf v 31 16)).tdJudge s k false else s
    if altDiff && armed then s.tdLocked k 0
    else if baseDiff then s.tdLocked k 1
    else s

/-- A write of AXIS, XOFS or YOFS: discarded whole while VAL = 1 and a field differs (R191). -/
def State.axisWrite (s : State) (k w : Nat) (v : Word) : State :=
  let a := Reg.MS_TD_BASE k + 4 * w
  let rows := match w with
    | 2 => [(16, 31, 16), (18, 12, 8), (20, 4, 0)]
    | 3 => [(24, 31, 0)]
    | _ => [(32, 31, 0)]
  if s.flag (Reg.MS_TD_SHAPE k) 31 then
    match firstDiff (s.reg a) v rows with
    | some row => s.tdLocked k row
    | none => s
  else s.store a Reg.MS_CFGCHK false v

/-- A write to word w of descriptor k. -/
def State.tdWrite (s : State) (k w : Nat) (v : Word) : State :=
  match w with
  | 0 => s.baseWrite k v
  | 1 => s.shapeWrite k v
  | _ => s.axisWrite k w v

/-- DESCRIPTOR_WRITE (R191). -/
def execDescriptorWrite (k : Fin 64) (w : Fin 5) (v : BitVec 32) (s : State) : Result :=
  .next (if s.unitOn domSo then s.tdWrite k w v else s)

/-- TABLE_SWAP: a delivery on swap line l (R190). -/
def State.tableSwap (s : State) (l : Nat) : State :=
  (List.range 64).foldl (fun s k =>
    if s.flag (Reg.MS_TD_SHAPE k) 30 && s.fld (Reg.MS_TD_SHAPE k) 29 26 == l then
      let b := s.reg (Reg.MS_TD_BASE k)
      let s := s.setReg (Reg.MS_TD_BASE k) (BitVec.ofNat 32 (65536 * fieldOf b 15 0 + fieldOf b 31 16))
      (s.setFlag (Reg.MS_TD_SHAPE k) 30 false).modInc (Reg.MS_TD_SWAP k) 31 16
    else s) s

end Sys2Proof.Machine
end

