-- ==== Sys2Proof/Machine/Cells.lean ====
section
/-! DEFINITION. Loop cells: enable, events and handlers, faults, restarts, pairs and their recovery (R156 to R159, R168 to
R181). The instructions are in CellIsa. -/

namespace Sys2Proof.Machine

/-! Accessors. -/

/-- A cell's register vi. -/
def State.lcV (s : State) (c i : Nat) : Word := mapGet 0 (s.cell c).v i

/-- LCn_STAT.STATE. -/
def State.setCellState (s : State) (c k : Nat) : State := s.setFld (Reg.LC_STAT c) 30 28 k

/-- Byte addresses of a cell's program word and data word i. -/
def lcProg (c i : Nat) : Nat := 0x41000000 + 0x10000 * c + 4 * i
def lcData (c i : Nat) : Nat := 0x41004000 + 0x10000 * c + 4 * i

/-- LCn is the odd cell of an enabled pair. -/
def State.follows (s : State) (c : Nat) : Bool := c % 2 == 1 && s.paired (c - 1)

/-- The cells that act for cell c: both of an enabled pair, else the one. -/
def State.lcBoth (s : State) (c : Nat) : List Nat := if s.paired c then [c, c + 1] else [c]

/-- The queue and QDEPTH: waiting events, not counting one that an idle cell is about to start (R171). -/
def State.setQueue (s : State) (c : Nat) (q : List Waiting) : State :=
  let waiting := if s.cellState c = 3 then q.length - 1 else q.length
  (s.setCell c { s.cell c with queue := q }).setFld (Reg.LC_STAT c) 3 0 (min waiting 8)

/-- A single-bit error was corrected on a read of cell memory (R158). -/
def State.lcCorrected (s : State) (c : Nat) : State := (s.setFlag (Reg.LC_STAT c) 10 true).satInc (Reg.LC_CNT c) 7 0

/-- MAXRUN takes the length of the handler that ends now (R172). -/
def State.noteRun (s : State) (c : Nat) : State :=
  match (s.cell c).handler with
  | none => s
  | some h => s.setFld (Reg.LC_RUN c) 27 16 (max (s.fld (Reg.LC_RUN c) 27 16) (min (s.now - h.start) 4095))

/-! Faults and restarts (R175, R176, R179). -/

/-- The records of the cell or pair after a restart of kind L; port writes already issued complete. -/
def State.lcClear (s : State) (c : Nat) : State :=
  (s.lcBoth c).foldl (fun s k =>
    let r := s.cell k
    (s.setCell k { writes := r.writes, restarts := r.restarts }).setFld (Reg.LC_STAT k) 3 0 0) s

/-- STOPPED: halted until EN := 0. -/
def State.lcStop (s : State) (c : Nat) : State :=
  let r := s.cell c
  (s.setCell c { r with
    handler := none, ending := none, startAt := none, compareAt := none, copyAt := none, stores := [], ms := none }).setCellState c 6

/-- CELL_RESTART and CELL_PAIR_RECOVERY, or STOPPED where R176 forbids another one within 1 s. -/
def State.lcRestart (s : State) (c : Nat) (recover : Bool) : State :=
  let recent := (s.cell c).restarts.filter fun e => decide (s.now < e + 400000000)
  if 3 ≤ recent.length then (s.lcStop c).setFlag (Reg.LC_STAT c) 11 true
  else
    let s := (s.lcClear c).satInc (Reg.LC_CNT c) 15 8
    let r := { s.cell c with restarts := (s.now :: recent).take 3 }
    if recover then (s.setCell c { r with compareAt := some (s.now + 2056) }).setCellState c 5
    else (s.setCell c { r with startAt := some (s.now + 8) }).setCellState c 2

/-- A fault of cause `cause` in the cell or pair c on the edge now (R175). -/
def State.cellFaultAt (s : State) (c cause : Nat) : State :=
  let r := s.cell c
  let vec := match r.handler with | some h => h.vec.getD 0 | none => 0
  let inRst := match r.handler with | some h => h.vec.isNone | none => false
  let s := s.noteRun c
  let s := (s.setFld (Reg.LC_STAT c) 19 16 cause).setFlag (Reg.LC_STAT c) 6 true
  let s := s.setReg (Reg.LC_FAULT c) (BitVec.ofNat 32 (2 ^ 16 * bit inRst + 2 ^ 12 * vec + r.pc % 2048))
  if s.paired c then s.lcRestart c true
  else if cause = 6 ∨ cause = 7 then s.lcStop c
  else s.lcRestart c false

/-- CELL_MISMATCH: the compared outputs of a pair differ (R177). -/
def State.lcMismatch (s : State) (c kind addr : Nat) : State :=
  (s.setReg (Reg.LC_MISM c) (BitVec.ofNat 32 (2 ^ 30 * kind + addr % 4096))).cellFaultAt c 1

/-- An output of pair c differs, by its values, by an injected mismatch, or because the cells have parted (R177, R476);
the injection is used up. -/
def State.lcDiffer (s : State) (c : Nat) (differ : Bool) : State × Bool :=
  if !s.paired c then (s, false)
  else
    let inj := nsetHas s.mismCell c
    ({ s with mismCell := nsetDel s.mismCell c (c + 1) }, differ || inj || (s.cell c).split)

/-! Enable and disable (R174, R181). -/

/-- The enable checks of a cell (R181). -/
def State.lcFails (s : State) (c : Nat) : List CfgFail :=
  let pair := s.flag (Reg.LC_CTRL c) 1 && c % 2 == 0
  let vecs := (List.range 16).filter fun v => s.flag (Reg.LC_VEC c v) 31
  failIf (!s.domOn (domCell c)) 0x02 0xFF (domCell c) ++ failIf (!s.clk.run) 0x03 0xFF 2 ++
  failIf (s.fld (Reg.LC_RESTART c) 27 16 == 0) 0x07 3 ++
  (vecs.flatMap fun v => failIf (s.fld (Reg.LC_VEC c v) 30 19 == 0) 0x07 (16 + v)) ++
  failIf (s.cellFailed c) 0x64 0 c ++ failIf (pair && !s.cellFailed c && s.cellFailed (c + 1)) 0x64 0 (c + 1) ++
  failIf (pair && s.flag (Reg.LC_CTRL (c + 1)) 0) 0x65 0 1 ++ failIf (s.follows c) 0x65 0 0 ++
  (vecs.flatMap fun v =>
    failIf (vecs.any fun u => decide (u < v) && s.fld (Reg.LC_VEC c u) 18 12 == s.fld (Reg.LC_VEC c v) 18 12) 0x66 (16 + v) 12)

/-- EN becomes 1: RESTART on the next edge, or COPY for a pair. -/
def State.lcUp (s : State) (c : Nat) : State :=
  let r := { s.cell c with handler := none, ending := none, queue := [], startAt := none, copyAt := none, compareAt := none }
  if s.paired c then
    let s := (s.setCell c { r with copyAt := some (s.now + 1 + 2048) }).setCellState c 1
    (s.setCell (c + 1) { s.cell (c + 1) with split := false }).setCellState (c + 1) 7
  else (s.setCell c { r with startAt := some (s.now + 1) }).setCellState c 2

/-- EN becomes 0: the queue is emptied and nothing more is issued; the fault line is released. -/
def State.lcDown (s : State) (c : Nat) : State :=
  let pair := c % 2 == 0 && s.flag (Reg.LC_CTRL c) 1
  let faulted := s.cellFault c
  let s := s.noteRun c
  let r := s.cell c
  let s := s.setCell c { r with
    handler := none, ending := none, queue := [], startAt := none, copyAt := none, compareAt := none, stores := [],
    split := false }
  let s := (s.setCellState c 0).setFld (Reg.LC_STAT c) 3 0 0
  let s := if pair then s.setCellState (c + 1) 0 else s
  if faulted then s.holdReset c else s

/-- A write of LCn_CTRL (R174, R181). PAIR is reserved in odd cells; the odd cell of an enabled pair stores nothing. -/
def State.lcCtrlWrite (s : State) (c : Nat) (v : Word) : State :=
  let v := if c % 2 = 1 then withField v 1 1 0 else v
  if s.follows c then
    (if bitOf v 0 then match pickFail (s.lcFails c) with | some f => s.cfgFail (Reg.LC_CFGCHK c) f | none => s else s)
  else
    s.unitWrite (Reg.LC_CTRL c) (Reg.LC_CFGCHK c) 0 v (fun s => s.lcFails c) (fun s => s.lcUp c) (fun s => s.lcDown c) id

/-- CELL_ENABLE (R174). -/
def execCellEnable (n : Fin 52) (v : BitVec 32) (s : State) : Result :=
  .next (s.whenOn (domCell n) (Reg.LC_CFGCHK n) fun s => s.lcCtrlWrite n (withField v 0 0 1))

/-- CELL_DISABLE (R174). -/
def execCellDisable (n : Fin 52) (v : BitVec 32) (s : State) : Result :=
  .next (if s.unitOn (domCell n) then s.lcCtrlWrite n (withField v 0 0 0) else s)

/-- Copy 2,048 words from address a to b, corrected; an uncorrectable word stays so. -/
def State.lcCopy (s : State) (a b : Nat) : State :=
  let s := s.wipe b (b + 8192)
  let new := (s.mem.bytes.filter fun p => decide (a ≤ p.1) && decide (p.1 < a + 8192)).map fun p => (p.1 - a + b, p.2)
  let s := new.foldl (fun s p => s.setByte p.1 p.2) s
  let fl := (s.mem.flips.filter fun p => decide (a ≤ 4 * p.1) && decide (4 * p.1 < a + 8192) && decide (1 < popcount p.2)).map
    fun p => (p.1 - a / 4 + b / 4, p.2)
  { s with mem := { s.mem with flips := fl.foldl (fun m p => mapSet 0 m p.1 p.2) s.mem.flips } }

/-- The restart handler starts now (R174). -/
def State.lcStartRestart (s : State) (c : Nat) : State :=
  let h : Handler := ⟨none, s.now, s.fld (Reg.LC_RESTART c) 27 16, 0, 0⟩
  let r := s.cell c
  s.setCell c { r with
    handler := some h, ending := none, startAt := none, copyAt := none, compareAt := none, stack := [],
    pc := s.fld (Reg.LC_RESTART c) 10 0, nextIssue := s.now, split := false, stores := [] }

/-- CELL_COPY_DONE (R173). -/
def execCellCopyDone (n : Fin 52) (s : State) : Result :=
  let c := n.val
  match (s.cell c).copyAt with
  | none => .next s
  | some e =>
    if !s.unitOn (domCell c) then .next s
    else
      let s := s.advanceTo e
      let s := (s.lcCopy (lcProg c 0) (lcProg (c + 1) 0)).lcCopy (lcData c 0) (lcData (c + 1) 0)
      .next ((s.setCellState c 2).lcStartRestart c)

/-- RESTART_HANDLER_START (R174, R175). -/
def execRestartHandlerStart (n : Fin 52) (s : State) : Result :=
  let c := n.val
  match (s.cell c).startAt with
  | none => .next s
  | some e => if s.unitOn (domCell c) then .next (((s.advanceTo e).setCellState c 2).lcStartRestart c) else .next s

/-! Events and handlers (R170 to R172). -/

/-- CELL_EVENT_QUEUE: a delivery on line LE l (R170, R171, R173). -/
def State.cellDeliver (s : State) (l : Nat) : State :=
  (List.range 52).foldl (fun s c =>
    (List.range 16).foldl (fun s v =>
      let w := s.reg (Reg.LC_VEC c v)
      if !(bitOf w 31 && fieldOf w 18 12 == l && s.flag (Reg.LC_CTRL c) 0 && s.domOn (domCell c)) then s
      else match s.cellState c with
        | 2 | 5 => (s.setFlag (Reg.LC_STAT c) 8 true).satInc (Reg.LC_CNT c) 31 24
        | 3 | 4 =>
          let q := (s.cell c).queue
          let limit := if s.cellState c = 3 then 9 else 8
          if q.length < limit then s.setQueue c (q ++ [Waiting.mk v s.now])
          else (s.setFlag (Reg.LC_STAT c) 7 true).satInc (Reg.LC_CNT c) 23 16
        | _ => s) s) s

/-- HANDLER_START (R172): on the delivery edge, or on the edge on which the previous handler ended. -/
def execHandlerStart (n : Fin 52) (s : State) : Result :=
  let c := n.val
  let r := s.cell c
  match r.queue with
  | [] => .next s
  | w :: q =>
    if !(s.unitOn (domCell c) && s.cellState c == 3) then .next s
    else
      let t := max w.at' r.idleFrom
      let s := s.advanceTo t
      let s := (s.setCellState c 4).setQueue c q
      let e := s.reg (Reg.LC_VEC c w.vec)
      let h : Handler := ⟨some w.vec, t, fieldOf e 30 19, w.at', q.length⟩
      .next (s.setCell c { s.cell c with
        handler := some h, ending := none, stack := [], pc := fieldOf e 10 0, nextIssue := t, split := false, stores := [] })

/-- PAIR_STORE_FLUSH: the buffered words go to both data memories in order (R178). -/
def State.lcFlush (s : State) (c : Nat) : State :=
  let s := (s.cell c).stores.foldl (fun s p => (s.setWord (lcData c p.1) p.2).setWord (lcData (c + 1) p.1) p.2) s
  s.setCell c { s.cell c with stores := [] }

/-- HANDLER_END (R172, R178, R179). -/
def execHandlerEnd (n : Fin 52) (s : State) : Result :=
  let c := n.val
  match (s.cell c).ending with
  | none => .next s
  | some e =>
    if !s.unitOn (domCell c) then .next s
    else
      let s := s.advanceTo e
      let (s, bad) := s.lcDiffer c false
      if bad then .next (s.lcMismatch c 2 0)
      else
        let s := if s.paired c then s.lcFlush c else s
        let s := s.noteRun c
        let recovered := s.cellState c == 5
        let s := s.setCell c { s.cell c with handler := none, ending := none, idleFrom := e }
        let s := (s.setCellState c 3).setQueue c (s.cell c).queue
        .next (if recovered then s.holdReset c else s)

/-- HANDLER_BUDGET_FAULT (R172): an end on the very edge is in time. -/
def execHandlerBudgetFault (n : Fin 52) (s : State) : Result :=
  let c := n.val
  match (s.cell c).handler with
  | none => .next s
  | some h =>
    let limit := h.start + h.budget
    let inTime := match (s.cell c).ending with | some e => decide (e ≤ limit) | none => false
    if inTime || !s.unitOn (domCell c) then .next s else .next ((s.advanceTo limit).cellFaultAt c 2)

/-- One word of a pair's memories compared: true where the pair cannot be repaired (R179). -/
def State.lcCompareWord (s : State) (a b : Nat) : State × Bool :=
  if s.rawWord a = s.rawWord b then (s, false)
  else
    let fa := s.flipsAt a != 0
    let fb := s.flipsAt b != 0
    if fa && !fb then (s.setWord a (s.word b), false)
    else if fb && !fa then (s.setWord b (s.word a), false)
    else if fa && fb && (popcount (s.flipsAt a) == 1) && decide (1 < popcount (s.flipsAt b)) then
      ((s.setWord a (s.word a)).setWord b (s.word a), false)
    else if fa && fb && (popcount (s.flipsAt b) == 1) && decide (1 < popcount (s.flipsAt a)) then
      ((s.setWord b (s.word b)).setWord a (s.word b), false)
    else if fa && fb && (popcount (s.flipsAt a) == 1) && s.word a == s.word b then
      ((s.setWord a (s.word a)).setWord b (s.word b), false)
    else (s, true)

/-- RECOVERY_MEMORY_COMPARE_DONE (R179). -/
def execRecoveryMemoryCompareDone (n : Fin 52) (s : State) : Result :=
  let c := n.val
  match (s.cell c).compareAt with
  | none => .next s
  | some e =>
    if !s.unitOn (domCell c) then .next s
    else
      let s := s.advanceTo e
      let p := (List.range 2048).foldl (fun (p : State × Bool) i =>
        let (s, x) := p.1.lcCompareWord (lcProg c i) (lcProg (c + 1) i)
        let (s, y) := s.lcCompareWord (lcData c i) (lcData (c + 1) i)
        (s, p.2 || x || y)) (s, false)
      .next (if p.2 then p.1.lcStop c else p.1.lcStartRestart c)

/-! Windows and management (R157, R159). -/

/-- A window write to a cell's memory (R159). -/
def State.lcWindowWrite (s : State) (c : Nat) (data : Bool) (i : Nat) (v : Word) : State :=
  if data then
    let other := if c % 2 = 0 then c + 1 else c - 1
    let s := s.setWord (lcData c i) v
    if s.paired c || s.follows c then s.setWord (lcData other i) v else s
  else if s.flag (Reg.LC_CTRL c) 0 || s.follows c then s.cfgFail (Reg.LC_CFGCHK c) ⟨0x67, 0xFF, 0⟩
  else s.setWord (lcProg c i) v

/-- CELL_WINDOW_WRITE (R159). -/
def execCellWindowWrite (n : Fin 52) (data : Bool) (i : Fin 2048) (v : BitVec 32) (s : State) : Result :=
  .next (if s.unitOn (domCell n) then s.lcWindowWrite n data i v else s)

/-- CELL_RESTART_COMMAND (R12 L): the registers, queue and PC of one cell or pair; it enters RESTART 8 cycles later. -/
def execCellRestartCommand (n : Fin 52) (s : State) : Result :=
  let c := if s.follows n then n.val - 1 else n.val
  if s.unitOn (domCell c) && (s.cellState c == 2 || s.cellState c == 3 || s.cellState c == 4 || s.cellState c == 5) then
    let faulted := s.cellFault c
    let s := s.noteRun c
    let s := s.lcRestart c false
    .next (if faulted && s.cellState c != 6 then s.holdReset c else s)
  else .next s

/-- CELL_ROLE_SET (R157): a FAILED cell is entered in the repair map. -/
def execCellRoleSet (n : Fin 52) (role : BitVec 2) (s : State) : Result :=
  let s := s.setFld (Reg.LC_STAT n) 25 24 role.toNat
  if role = 3 then
    .next (State.repairCommit { s with repairs := { s.repairs with cells := nsetAdd s.repairs.cells n (n + 1) } }).sparesSync
  else .next s.sparesSync

end Sys2Proof.Machine
end

