-- ==== Sys2Proof/Machine/TestPort.lean ====
section
/-! DEFINITION. Perturbation, injection, debug control, boundary scan (R216, R474 to R480). What a halt does to a core is in
the cores' files: they execute nothing while HALTEDp reads 1. -/

namespace Sys2Proof.Machine

/-! Perturbations (R474, R475). -/

/-- CPACT and DPACT follow the settings in force. -/
def State.pertSync (s : State) : State :=
  let cp := s.reg Reg.TP_SODLY != 0 || s.reg Reg.TP_CSDLY != 0 || s.flag Reg.TP_DBGCTL 31 || !s.mismCell.isEmpty
  let dp := s.reg Reg.TP_XBDLY != 0 || s.reg Reg.TP_DMABP != 0 || !s.tp.mismPair.isEmpty
  (s.setFlag Reg.TP_STAT 1 cp).setFlag Reg.TP_STAT 0 dp

/-- The lowest enabled generator. -/
def State.lowestPwm (s : State) : Option Nat := (List.range 96).find? fun n => s.pwmEn n

/-- Why a write that creates a perturbation is refused (R474); `cp` for a control-plane one, `field` its register. -/
def State.pertFails (s : State) (cp : Bool) (field : Nat) : List CfgFail :=
  let live := s.phase == 3 && s.flag Reg.TP_CTRL 8
  failIf (s.phase != 3 && s.phase != 4) 0x08 field s.phase ++
  (match s.lowestPwm with | some n => failIf (cp && !live) 0xE0 field n | none => [])

/-- Judge a write: refused and reported, or carried out. -/
def State.pertJudge (s : State) (fails : List CfgFail) (f : State → State) : State :=
  match pickFail fails with
  | some x => s.cfgFail Reg.TP_CFGCHK x
  | none => (f (s.cfgOk Reg.TP_CFGCHK)).pertSync

/-- The register of a perturbation, and whether it is a control-plane one. -/
def pertAddr (r : PertReg) : Nat × Bool :=
  match r with
  | .xbdly => (Reg.TP_XBDLY, false) | .dmabp => (Reg.TP_DMABP, false)
  | .sodly => (Reg.TP_SODLY, true) | .csdly => (Reg.TP_CSDLY, true)

/-- A write of a perturbation register; one that leaves the reset value creates none. -/
def State.pertWrite (s : State) (r : PertReg) (v : Word) : State :=
  let (a, cp) := pertAddr r
  let field := (a - Reg.TP_CTRL) / 4
  let new := (s.store a Reg.TP_CFGCHK false v).reg a
  if new = 0 then (s.setReg a 0).pertSync
  else
    s.pertJudge (failIf (r == .sodly && decide (8 < fieldOf v 19 16)) 0x07 field ++ s.pertFails cp field) fun s => s.setReg a new

/-- PERTURBATION_WRITE (R474). -/
def execPerturbationWrite (r : PertReg) (v : BitVec 32) (s : State) : Result := .next (s.pertWrite r v)

/-- The control-plane halt ends (R478). -/
def State.haltEnd (s : State) : State :=
  if s.flag Reg.TP_DBGCTL 31 then
    (haltGroup (s.fld Reg.TP_DBGCTL 21 16)).foldl (fun s n => s.pwmResume n) (s.setFlag Reg.TP_DBGCTL 31 false)
  else s

/-- Every perturbation is removed (R475). -/
def State.pertClear (s : State) : State :=
  let s := [Reg.TP_XBDLY, Reg.TP_DMABP, Reg.TP_SODLY, Reg.TP_CSDLY].foldl (fun s a => s.setReg a 0) s
  State.pertSync (State.haltEnd { s with mismCell := [], tp := { s.tp with mismPair := [] } })

/-- A write of TP_CTRL. -/
def State.tpCtrlWrite (s : State) (v : Word) : State :=
  let s := s.setFld Reg.TP_CTRL 8 8 (fieldOf v 8 8)
  if bitOf v 0 then s.pertClear else s

/-- CLRALL (R475). -/
def execClrall (v : BitVec 32) (s : State) : Result := .next (s.tpCtrlWrite (withField v 0 0 1))

/-! Control-plane halt and debug control (R216, R477, R478). -/

/-- HALTEDp. -/
def State.halted (s : State) (p : Nat) : Bool := s.flag Reg.TP_DBGSTAT p

/-- The limits of CKPT_DUE restart in full when execution resumes. -/
def State.dueRestart (s : State) (p : Nat) : State :=
  { s with cores := s.cores.map fun q =>
    if q.1 / 2 = p then (q.1, { q.2 with timerAt := s.now, dueAt := q.2.dueAt.map fun _ => s.now }) else q }

/-- The pair's halt, step and resume as a write of TP_DBGCTL asks for them (R477). -/
def State.debugPair (s : State) (p : Nat) (v : Word) : State :=
  let halt := bitOf v (8 * p + 2)
  let s := s.setFlag Reg.TP_DBGCTL (8 * p + 4) (bitOf v (8 * p + 4))
  let s := s.setFlag Reg.TP_DBGCTL (8 * p + 2) halt
  let step := halt && s.halted p && bitOf v (8 * p + 3)
  let s := if s.halted p && !halt then s.dueRestart p else s
  let s := s.setFlag Reg.TP_DBGSTAT p halt
  { s with tp := { s.tp with stepArm := if step then nsetAdd s.tp.stepArm p (p + 1) else nsetDel s.tp.stepArm p (p + 1) } }

/-- A write of TP_DBGCTL. A halt of the control plane is a control-plane perturbation; a refused write is discarded. -/
def State.dbgWrite (s : State) (v : Word) : State :=
  let put := fun (s : State) => (s.debugPair 0 v).debugPair 1 v
  let old := s.flag Reg.TP_DBGCTL 31
  let oldGrp := s.fld Reg.TP_DBGCTL 21 16
  let grp := fieldOf v 21 16
  if bitOf v 31 then
    s.pertJudge (s.pertFails true 12) fun s =>
      let s := (s.setFlag Reg.TP_DBGCTL 31 true).setFld Reg.TP_DBGCTL 21 16 grp
      let s := if old then ((haltGroup oldGrp).filter fun n => !(haltGroup grp).contains n).foldl (fun s n => s.pwmResume n) s else s
      put ((haltGroup grp).foldl (fun s n => s.pwmHalt n) s)
  else
    put ((s.haltEnd.setFld Reg.TP_DBGCTL 21 16 grp).pertSync)

/-- CONTROL_PLANE_HALT and CONTROL_PLANE_HALT_END (R478). -/
def execControlPlaneHalt (v : BitVec 32) (s : State) : Result := .next (s.dbgWrite (withField v 31 31 1))
def execControlPlaneHaltEnd (v : BitVec 32) (s : State) : Result := .next (s.dbgWrite (withField v 31 31 0))

/-- TP_DBGCTL as it stands, with pair p's HALT and STEP bits set or cleared. -/
def State.dbgWord (s : State) (p : Nat) (halt step : Bool) : Word :=
  withField (withField (s.reg Reg.TP_DBGCTL) (8 * p + 2) (8 * p + 2) (bit halt)) (8 * p + 3) (8 * p + 3) (bit step)

/-- DEBUG_HALT (R477): the pair stops at its next retirement boundary, which is now: commands retire whole instructions. -/
def execDebugHalt (p : Fin 2) (s : State) : Result := .next (s.debugPair p (s.dbgWord p true false))

/-- DEBUG_STEP (R477). -/
def execDebugStep (p : Fin 2) (s : State) : Result :=
  .next (if s.halted p then s.debugPair p (s.dbgWord p true true) else s)

/-- DEBUG_RESUME (R477). -/
def execDebugResume (p : Fin 2) (s : State) : Result := .next (s.debugPair p (s.dbgWord p false false))

/-! Injection (R476). -/

/-- MISM_P0 and MISM_P1: the pair's next output is a mismatch. -/
def State.mismArm (s : State) (p : Nat) : State :=
  s.pertJudge (s.pertFails false 8) fun s => { s with tp := { s.tp with mismPair := nsetAdd s.tp.mismPair p (p + 1) } }
def execMismP0 (s : State) : Result := .next (s.mismArm 0)
def execMismP1 (s : State) : Result := .next (s.mismArm 1)

/-- MISM_CELL: the next compared output of a cell pair is a mismatch; an odd or unpaired cell is refused. -/
def State.mismCellArm (s : State) (c : Nat) : State :=
  let ok := decide (c < 52) && s.paired c
  s.pertJudge (s.pertFails true 8 ++ failIf (!ok) 0xE1 9) fun s => { s with mismCell := nsetAdd s.mismCell c (c + 1) }
def execMismCell (cell : BitVec 6) (s : State) : Result := .next (s.mismCellArm cell.toNat)

/-- Flip one bit of the 32-bit word at a. -/
def State.flipBit (s : State) (a i : Nat) : State :=
  { s with mem := { s.mem with
    flips := mapSet 0 s.mem.flips (a / 4) (s.flipsAt a ^^^ BitVec.ofNat 32 (2 ^ (i % 32))) } }

/-- An open bit position (R476 does not say which bit). -/
def State.openBit (s : State) : Nat × State := (Config.flipBit s.free, s.tick)

/-- Flip `n` different open bits of the check word at `a`, `w` bits wide. -/
def State.flipOpen (s : State) (a w n : Nat) : State :=
  let (x, s) := s.openBit
  let (y, s) := s.openBit
  let i := x % w
  let j := (i + 1 + y % (w - 1)) % w
  let base := if w = 64 then a / 8 * 8 else a / 4 * 4
  let s := s.flipBit (base + i / 32 * 4) (i % 32)
  if n = 2 then s.flipBit (base + j / 32 * 4) (j % 32) else s

/-- ECC1, ECC2 and ECCPAGE: `n` bits of the word, or (0) one bit in each of the first t + 1 words of the page. -/
def State.injectEcc (s : State) (n : Nat) : State :=
  let a := (s.reg Reg.TP_INJADR).toNat
  let (page, other, cp) := match regionOf a with
    | .sram => (true, false, false)
    | .mapStore => (true, false, true)
    | .tcm _ => (false, true, false)
    | .cell _ off => (false, decide (off < 0x2000) || (decide (0x4000 ≤ off) && decide (off < 0x6000)), true)
    | _ => (false, false, false)
  let target := page || (other && n != 0)
  s.pertJudge (s.pertFails cp 8 ++ failIf (!target) 0xE1 9 ++ failIf (page && !s.written a) 0xE2 9) fun s =>
    if n = 0 then (List.range (s.strength a + 1)).foldl (fun s i => s.flipOpen (a / 256 * 256 + 8 * i) 64 1) s
    else s.flipOpen a (if page then 64 else 32) n

def execEcc1 (s : State) : Result := .next (s.injectEcc 1)
def execEcc2 (s : State) : Result := .next (s.injectEcc 2)
def execEccpage (s : State) : Result := .next (s.injectEcc 0)

/-- A write of TP_INJ (R476); other kinds act on nothing. -/
def State.injWrite (s : State) (v : Word) : State :=
  match fieldOf v 31 28 with
  | 1 => s.mismArm 0
  | 2 => s.mismArm 1
  | 3 => s.mismCellArm (fieldOf v 5 0)
  | 4 => s.injectEcc 1
  | 5 => s.injectEcc 2
  | 6 => s.injectEcc 0
  | _ => s

/-! Boundary scan (R478, R479). -/

/-- The TAP takes an instruction with the data register it selects. -/
def State.tapTo (s : State) (ir : TapIr) (dr : Nat) : State :=
  { s with tp := { s.tp with tap := { s.tp.tap with ir := ir, dr := dr, refused := false } } }

/-- BYPASS: the one-bit bypass register. -/
def execBypass (s : State) : Result := .next (s.tapTo .bypass 0)

/-- SAMPLE/PRELOAD: the pads are captured and the boundary register is loaded. -/
def execSamplePreload (sampled preload : Nat) (s : State) : Result :=
  let s := s.tapTo .samplePreload sampled
  .next { s with tp := { s.tp with tap := { s.tp.tap with boundary := preload } } }

/-- EXTEST: drives the pads from the boundary register, or executes as BYPASS with EXTREF set (R478). -/
def execExtest (s : State) : Result :=
  if (s.phase == 3 || s.phase == 4) && s.lowestPwm.isNone then .next (s.tapTo .extest s.tp.tap.boundary)
  else
    let s := (s.tapTo .bypass 0).setFlag Reg.TP_DBGSTAT 8 true
    .next { s with tp := { s.tp with tap := { s.tp.tap with refused := true } } }

/-- IDCODE: the data register reads 0x1964_8A2B. -/
def execIdcode (s : State) : Result := .next (s.tapTo .idcode 0x19648A2B)

/-- DBGACC: gives the debug master its access. -/
def execDbgacc (s : State) : Result := .next (s.tapTo .dbgacc 0)

/-- TAP_RESET: TRSTn low resets the TAP only. -/
def execTapReset (s : State) : Result := .next { s with tp := { s.tp with tap := {} } }

end Sys2Proof.Machine
end

