-- ==== Sys2Proof/Machine/Cores.lean ====
section
/-! DEFINITION. Molpa cores: capabilities, registers and windows, TCMs, checkpoints, mismatches, rollback and restarts
(R236 to R245, R277, R282 to R286, R307 to R309, R324 to R339, R352, R353). -/

namespace Sys2Proof.Machine

/-! Capabilities (R282, R283). -/

/-- The 128-bit value of a capability. -/
def Cap.bits (c : Cap) : Nat :=
  2 ^ 96 * c.base.toNat + 2 ^ 64 * c.length.toNat + 2 ^ 48 * c.perms.toNat + 2 ^ 32 * c.otype.toNat + c.cursor.toNat

/-- The capability a 128-bit value and a tag stand for. -/
def capOf (v : Nat) (tag : Bool) : Cap :=
  ⟨BitVec.ofNat 32 (v / 2 ^ 96), BitVec.ofNat 32 (v / 2 ^ 64), BitVec.ofNat 16 (v / 2 ^ 48), BitVec.ofNat 16 (v / 2 ^ 32),
    BitVec.ofNat 32 v, tag⟩

/-- Permission k is granted. -/
def Cap.may (c : Cap) (k : Nat) : Bool := c.perms.toNat / 2 ^ k % 2 == 1

/-- OTYPE ≠ 0. -/
def Cap.isSealed (c : Cap) : Bool := c.otype != 0

/-- s bytes at ea lie within the segment, with 33-bit sums (R253). -/
def Cap.covers (c : Cap) (ea s : Nat) : Bool :=
  decide (c.base.toNat ≤ ea) && decide (ea + s ≤ c.base.toNat + c.length.toNat)

/-- PERMS bit numbers. -/
def permLoad : Nat := 0
def permStore : Nat := 1
def permExec : Nat := 2
def permLdcap : Nat := 3
def permStcap : Nat := 4
def permSeal : Nat := 5
def permUnseal : Nat := 6
def permSys : Nat := 7
def permDevice : Nat := 8
def permHold : Nat := 9
def permGlobal : Nat := 10

/-! Registers and windows (R236 to R240). -/

/-- Where general register r lives: a slot register's index in `win`. -/
def winIndex (slot r : Nat) : Nat :=
  if r < 16 then 16 * slot + (r - 8) else if r < 24 then 16 * slot + 8 + (r - 16) else 16 * ((slot + 1) % 8) + (r - 24)

/-- General register r of the current window; cm0 reads 0. -/
def Arch.get (a : Arch) (r : Nat) : Word :=
  if r = 0 then 0 else if r < 8 then mapGet 0 a.cm r else mapGet 0 a.win (winIndex a.slot r)

/-- Write general register r; a write of cm0 is discarded. -/
def Arch.set (a : Arch) (r : Nat) (v : Word) : Arch :=
  if r = 0 then a
  else if r < 8 then { a with cm := mapSet 0 a.cm r v }
  else { a with win := mapSet 0 a.win (winIndex a.slot r) v }

/-- Capability register k, and its write. -/
def Arch.cap (a : Arch) (k : Nat) : Cap := mapGet {} a.caps k
def Arch.setCap (a : Arch) (k : Nat) (c : Cap) : Arch := { a with caps := mapSet {} a.caps k c }

/-- Loop state and return register of the current window, and their write. -/
def Arch.win0 (a : Arch) : WinSlot := mapGet {} a.slots a.slot
def Arch.setWin0 (a : Arch) (w : WinSlot) : Arch := { a with slots := mapSet {} a.slots a.slot w }

/-- MC_WSTATE. -/
def Arch.wstate (a : Arch) : Word := BitVec.ofNat 32 (a.depth * 16 + a.slot)

/-- IPL, PA and STE of MC_STATUS. -/
def Arch.ipl (a : Arch) : Nat := fieldOf a.status 3 0
def Arch.pa (a : Arch) : Bool := bitOf a.status 8
def Arch.ste (a : Arch) : Bool := bitOf a.status 9

/-- The state of a core at its release, with c0's cursor at its entry address (R245, R286). -/
def releaseArch (k entry : Nat) : Arch :=
  let tcm := 0x30000000 + 0x40000 * k
  let all : BitVec 16 := 0x07FF
  { pc := entry
    caps := [(0, ⟨0, 0xFFFFFFFF, all, 0, BitVec.ofNat 32 entry, true⟩), (1, ⟨0, 0xFFFFFFFF, all, 0, 0, true⟩),
      (2, ⟨BitVec.ofNat 32 tcm, 0x0003FE00, 0x001B, 0, BitVec.ofNat 32 (tcm + 0x3FE00), true⟩)] }

/-! Cores and pairs (R324). -/

/-- Record of core k, and of pair p. -/
def State.core (s : State) (k : Nat) : Core := mapGet {} s.cores k
def State.pair (s : State) (p : Nat) : Pair := mapGet {} s.pairs p
def State.setPair (s : State) (p : Nat) (r : Pair) : State := { s with pairs := mapSet {} s.pairs p r }

/-- MODE of a pair: 0 LOCKSTEP, 1 SPLIT, 2 ALONE, 3 HALTED. -/
def State.pairMode (s : State) (p : Nat) : Nat := s.fld (Reg.RD_STAT p) 31 30
def State.setMode (s : State) (p m : Nat) : State := s.setFld (Reg.RD_STAT p) 31 30 m

/-- The repair map names core k as failed. -/
def State.coreFailed (s : State) (k : Nat) : Bool := nsetHas s.repairs.cores k

/-- The record that runs core k's program, if core k executes. -/
def State.lead (s : State) (k : Nat) : Option Nat :=
  match s.pairMode (k / 2) with
  | 0 => some (k / 2 * 2)
  | 1 => some k
  | 2 => if s.coreFailed k then none else some k
  | _ => none

/-- The core whose figures RD_PpSTAT shows. -/
def State.shown (s : State) (p : Nat) : Nat := if s.pairMode p = 2 ∧ s.coreFailed (2 * p) then 2 * p + 1 else 2 * p

/-- LOGOVF, DUEPEND, HOLDUSED and LOGUSED of a core in a status word. -/
def coreFields (w : Word) (c : Core) : Word :=
  withField (withField (withField (withField w 28 28 (bit c.logOvf)) 27 27 (bit c.dueAt.isSome)) 16 10 c.hold.length) 9 0
    c.undo.length

/-- RD_PpSTAT follows the cores; the secondary's view is at +0x20 in SPLIT. -/
def State.rdSync (s : State) (p : Nat) : State :=
  let a := Reg.RD_STAT p
  let s := s.setReg a (coreFields (s.reg a) (s.core (s.shown p)))
  s.setReg (Reg.RD_STAT2 p) (if s.pairMode p = 1 then coreFields 0 (s.core (2 * p + 1)) else 0)

/-- Replace core record k. -/
def State.setCore (s : State) (k : Nat) (c : Core) : State := State.rdSync { s with cores := mapSet {} s.cores k c } (k / 2)

/-- Change core record k. -/
def State.onCore (s : State) (k : Nat) (f : Core → Core) : State := s.setCore k (f (s.core k))

/-- Change the architectural state of record k. -/
def State.onArch (s : State) (k : Nat) (f : Arch → Arch) : State := s.onCore k fun c => { c with arch := f c.arch }

/-- The architectural state of record k. -/
def State.arch (s : State) (k : Nat) : Arch := (s.core k).arch

/-! Interrupt lines (R277). -/

/-- Line l is pending in a core's controller. -/
def State.linePend (s : State) (l : Nat) (w : Word) : Bool :=
  bitOf w 31 && (if bitOf w 8 || decide (448 ≤ l) then bitOf w 0 else nsetHas s.lines l)

/-- The winning pending line above a level, with its priority: highest PRIO, then lowest line. -/
def State.winner (s : State) (k ipl : Nat) : Option (Nat × Nat) :=
  (mapGet {} s.icfg k).icfg.foldl (fun best p =>
    let prio := fieldOf p.2 19 16
    if s.linePend p.1 p.2 && decide (ipl < prio) then
      match best with
      | some (_, q) => if q < prio then some (p.1, prio) else best
      | none => some (p.1, prio)
    else best) none

/-- MC_IACT of a core. -/
def State.iact (s : State) (k : Nat) : Word :=
  match s.winner k 0 with
  | some (l, prio) => BitVec.ofNat 32 (2 ^ 31 + 2 ^ 20 * prio + l)
  | none => 0

/-! Tags (R284, R285). -/

/-- An address lies in a region with tag memory. -/
def hasTags (a : Nat) : Bool := match regionOf a with | .sram | .tcm _ => true | _ => false

/-- Tag of the granule of a, and its write. -/
def State.tagAt (s : State) (a : Nat) : Bool := hasTags a && nsetHas s.tags (a / 16)
def State.setTag (s : State) (a : Nat) (t : Bool) : State :=
  { s with tags := if t && hasTags a then nsetAdd s.tags (a / 16) (a / 16 + 1) else nsetDel s.tags (a / 16) (a / 16 + 1) }

/-- A write of n bytes at a clears the tags of its granules. -/
def State.untag (s : State) (a n : Nat) : State := { s with tags := nsetDel s.tags (a / 16) ((a + n + 15) / 16) }

/-! TCMs (R325, R352, R353). -/

/-- Base of a TCM. -/
def tcmBase (t : Nat) : Nat := 0x30000000 + 0x40000 * t

/-- A JOIN copies pair p's TCM (R341). -/
def State.joining (s : State) (p : Nat) : Bool := (s.core (2 * p)).run == .join

/-- The TCMs a write at TCM t reaches. -/
def State.tcmCopies (s : State) (t : Nat) : List Nat :=
  if s.pairMode (t / 2) = 0 ∨ (s.joining (t / 2) ∧ t % 2 = 0) then [t / 2 * 2, t / 2 * 2 + 1] else [t]

/-- Check the 32-bit word at a TCM address on a read. In LOCKSTEP both copies are read, and a good one repairs the other. -/
def State.tcmCheck (s : State) (a init : Nat) : State × MemRes :=
  let t := a % 0x100000 / 0x40000
  let off := a % 0x40000 / 4 * 4
  if s.pairMode (t / 2) = 0 then
    let a0 := tcmBase (t / 2 * 2) + off
    let a1 := tcmBase (t / 2 * 2 + 1) + off
    let (s, r0) := s.secdedCheck a0 init
    let (s, r1) := s.secdedCheck a1 init
    match r0, r1 with
    | .ok, .ok => (s, .ok)
    | .ok, _ => (s.setWord a1 (s.word a0), .ok)
    | _, .ok => (s.setWord a0 (s.word a1), .ok)
    | _, _ => (s, .uncorr)
  else s.secdedCheck a init

/-- The address a read of a TCM address is served from: the primary's in LOCKSTEP. -/
def State.tcmServe (s : State) (a : Nat) : Nat :=
  let t := a % 0x100000 / 0x40000
  if s.pairMode (t / 2) = 0 then tcmBase (t / 2 * 2) + a % 0x40000 else a

/-- Read n bytes of a TCM. -/
def State.tcmRead (s : State) (a n init : Nat) : State × Option Nat :=
  let (s, ok) := (List.range ((a % 4 + n + 3) / 4)).foldl (fun (s, ok) i =>
    let (s, r) := s.tcmCheck (a / 4 * 4 + 4 * i) init
    (s, ok && r == .ok)) (s, true)
  (s, if ok then some (s.bytesAt (s.tcmServe a) n) else none)

/-- The pieces of n bytes at a that lie in one 32-bit word each: address, length, shift. -/
def wordPieces (a n : Nat) : List (Nat × Nat × Nat) :=
  (List.range ((a % 4 + n + 3) / 4)).map fun i =>
    let lo := max a (a / 4 * 4 + 4 * i)
    let hi := min (a + n) (a / 4 * 4 + 4 * i + 4)
    (lo, hi - lo, lo - a)

/-- Write n bytes at offset off of one TCM; false where a part is discarded. -/
def State.tcmPut (s : State) (t off n v init : Nat) : State × Bool :=
  let a := tcmBase t + off
  let s := s.untag a n
  (wordPieces a n).foldl (fun (s, ok) (b, k, sh) =>
    let (s, r) := s.secdedWrite b k (v / 256 ^ sh % 256 ^ k) init
    (s, ok && r)) (s, true)

/-- Write n bytes at a TCM address, in every copy the pair's mode names. -/
def State.tcmWrite (s : State) (a n v init : Nat) : State × Bool :=
  (s.tcmCopies (a % 0x100000 / 0x40000)).foldl (fun (s, ok) t =>
    let (s, r) := s.tcmPut t (a % 0x40000) n v init
    (s, ok && r)) (s, true)

/-- An address lies in the own TCM of record k. -/
def State.ownTcm (s : State) (k a : Nat) : Bool :=
  match regionOf a with
  | .tcm t => t == k || (s.pairMode (k / 2) == 0 && t / 2 == k / 2)
  | _ => false

/-- Set the tag of a TCM granule in every copy. -/
def State.tcmTag (s : State) (a : Nat) (b : Bool) : State :=
  (s.tcmCopies (a % 0x100000 / 0x40000)).foldl (fun s t => s.setTag (tcmBase t + a % 0x40000) b) s

/-! The undo log (R329). -/

/-- Log the granule of an own-TCM address before the core's own store to it. -/
def State.logGranule (s : State) (k a : Nat) : State :=
  let g := s.tcmServe a / 16
  let c := s.core k
  if c.undo.any fun u => u.granule == g then s
  else if c.undo.length < 512 then s.setCore k { c with undo := ⟨g, s.bytesAt (16 * g) 16, s.tagAt (16 * g)⟩ :: c.undo }
  else s.setCore k { c with logOvf := true }

/-- Play the log back, youngest entry first, into every copy. -/
def State.playback (s : State) (us : List Undo) : State :=
  us.foldl (fun s u =>
    let a := 16 * u.granule
    let s := (s.tcmCopies (a % 0x100000 / 0x40000)).foldl (fun s t =>
      (List.range 4).foldl (fun s i =>
        s.setWord (tcmBase t + a % 0x40000 + 4 * i) (BitVec.ofNat 32 (u.data / 2 ^ (32 * i)))) s) s
    s.tcmTag a u.tag) s

/-! Checkpoints and restarts (R328, R333 to R338). -/

/-- Commit a checkpoint of record k whose PC is its arch's. -/
def State.commitCkpt (s : State) (k : Nat) : State :=
  let f := mapGet {} s.icfg k
  let f' : LineFile := { f with rose := [] }
  let c := s.core k
  let s := s.setCore k { c with
    ckpt := some (c.arch, f'), undo := [], logOvf := false, dueAt := none, due := false, timerAt := s.now
    release := c.hold.length }
  let s := { s with icfg := mapSet {} s.icfg k f' }
  if k = s.shown (k / 2) then s.setReg (Reg.RD_CKTIME (k / 2)) (BitVec.ofNat 32 s.now) else s

/-- Kind P: pipeline, caches, store buffer and hold queue emptied, but for a release that has begun (R332, R334). -/
def coreReset (c : Core) : Core :=
  { c with sb := c.sb.take c.releaseSb, hold := c.hold.take c.release, out := none, arith := none, due := false, dcache := [], icache := [], invDue := none }

/-- Record k starts from its entry address as after a release, with a checkpoint of that state (R245, R286). -/
def State.startCore (s : State) (k : Nat) : State :=
  let c := s.core k
  let s := s.setCore k { c with arch := releaseArch k c.entry, run := .run }
  State.commitCkpt { s with icfg := mapErase s.icfg k } k

/-- A COLD restart of record k (R337). -/
def State.coldRestart (s : State) (k : Nat) : State :=
  let s := s.onCore k coreReset
  (s.startCore k).satInc (Reg.RD_CNT (k / 2)) 15 8

/-- ROLLBACK of record k, up to the end of step 2 (R334). -/
def State.rollback (s : State) (k : Nat) : State :=
  let c := s.core k
  if c.logOvf || c.ckpt.isNone then s.coldRestart k
  else
    let due := s.now + 800 + s.coreTime (32 + c.undo.length + 800)
    let s := s.playback c.undo
    s.setCore k { coreReset c with undo := [], run := .resume, resumeAt := due }

/-- Steps 3 and 4 of R334: the checkpoint's state, PEND of each edge line from the checkpoint or ROSE. -/
def State.rollResume (s : State) (k : Nat) : State :=
  match (s.core k).ckpt with
  | some (a, f) =>
    let rose := (mapGet {} s.icfg k).rose
    let icfg := f.icfg.map fun p => if nsetHas rose p.1 && bitOf p.2 8 then (p.1, withField p.2 0 0 1) else p
    let s := s.onCore k fun c => { c with arch := a, run := .run }
    State.satInc { s with icfg := mapSet {} s.icfg k { icfg := icfg, rose := rose } } (Reg.RD_CNT (k / 2)) 23 16
  | none => s.coldRestart k

/-- ROLLBACK_RESUME (R334). In LOCKSTEP the primary's record stands for both cores. -/
def execRollbackResume (n : Fin 4) (s : State) : Result :=
  match s.lead n with
  | some k =>
    if (s.core k).run = .resume then .next ((s.advanceTo (s.core k).resumeAt).rollResume k) else .next s
  | none => .next s

/-- MODE of a pair that executes again: LOCKSTEP, or ALONE where a core has failed. -/
def State.modeOf (s : State) (p : Nat) : Nat := if s.coreFailed (2 * p) || s.coreFailed (2 * p + 1) then 2 else 0

/-- What the management plane does after a rescue of record k (R338). -/
def State.rescueAction (s : State) (k : Nat) : State :=
  let p := k / 2
  match s.fld (Reg.RD_CTL p) 9 8 with
  | 0 => s.rollback k
  | 1 => s.coldRestart k
  | _ =>
    let s := s.onCore k coreReset
    if s.pairMode p = 1 then s.onCore k fun c => { c with run := .halt } else s.setMode p 3

/-! Mismatches (R327, R339). -/

/-- CORE_BIST is requested; a refused or silent request leaves the pair stopped. -/
def State.bistRequest (s : State) (p : Nat) : State :=
  match s.arbRequest 9 p with
  | (.accepted t, s) => s.setPair p { s.pair p with bist := some t, bistRun := true, bistAt := s.now }
  | (.queued t, s) => s.setPair p { s.pair p with bist := some t, bistRun := false }
  | (_, s) => s

/-- A mismatch of pair p in LOCKSTEP: its record, persistence, and recovery. -/
def State.mismatch (s : State) (p kind port addr : Nat) : State :=
  let k := 2 * p
  let s := s.satInc (Reg.RD_CNT p) 31 24
  let s := s.setReg (Reg.RD_MISM p) (BitVec.ofNat 32 (2 ^ 30 * kind + 2 ^ 29 * port))
  let s := s.setReg (Reg.RD_MISMADR p) (BitVec.ofNat 32 addr)
  let recent := (s.pair p).mism.filter fun e => decide (s.now ≤ e + 400000000)
  if 2 ≤ recent.length then
    let s := s.setPair p { s.pair p with mism := [] }
    let s := s.setFlag (Reg.RD_STAT p) 29 true
    if s.flag (Reg.RD_CTL p) 4 then (s.onCore k coreReset).setMode p 3
    else (s.onCore k fun c => { coreReset c with run := .stop }).bistRequest p
  else (s.setPair p { s.pair p with mism := s.now :: recent }).rollback k

/-- Record k executes now: its core is on, not halted by debug, and in `run`. -/
def State.mayRun (s : State) (k : Nat) : Bool :=
  s.unitOn k && (s.core k).run == .run &&
    (!s.halted (k / 2) || k % 2 == 1 && s.pairMode (k / 2) == 1 || nsetHas s.tp.stepArm (k / 2))

/-- CHECKER_MISMATCH (R326, R327): the differing outputs as the checker sees them. -/
def execCheckerMismatch (p : Fin 2) (kind : Fin 4) (port : Bool) (a : BitVec 32) (s : State) : Result :=
  let run := (s.core (2 * p)).run
  if s.pairMode p = 0 && (run == .run || run == .wait || run == .load) then
    .next (s.mismatch p kind (bit port) a.toNat)
  else .next s

/-- CORE_BIST_DONE (R339): 5 ms of BIST end; `ok0` and `ok1` say which core passed. -/
def execCoreBistDone (p : Fin 2) (ok0 ok1 : Bool) (s : State) : Result :=
  let r := s.pair p
  match r.bist with
  | some t =>
    if !r.bistRun then .next s
    else
      let s := ((s.advanceTo (r.bistAt + 2000000)).setPair p { r with bist := none, bistRun := false }).arbRelease t
      let k := 2 * p.val
      match ok0, ok1 with
      | true, true => .next (((s.setFld (Reg.RD_STAT p) 24 23 1).setMode p 0).rollback k)
      | false, false =>
        let s := s.setFld (Reg.RD_STAT p) 24 23 3
        let s := { s with repairs := { s.repairs with cores := nsetAdd s.repairs.cores k (k + 2) } }
        .next ((s.repairCommit.setMode p 3).onCore k fun c => { c with run := .halt })
      | _, _ =>
        let bad := if ok0 then k + 1 else k
        let s := ((s.setFld (Reg.RD_STAT p) 24 23 2).setFlag (Reg.RD_STAT p) 22 ok1).setMode p 2
        let s := { s with repairs := { s.repairs with cores := nsetAdd s.repairs.cores bad (bad + 1) } }
        let s := s.repairCommit
        if ok0 then .next (s.rollback k)
        else
          let c := s.core k
          let f : LineFile := mapGet {} s.icfg k
          let s := { s with icfg := mapSet ({} : LineFile) (mapErase s.icfg k) (k + 1) f }
          let own := c.undo.map fun u => { u with granule := u.granule + 0x40000 / 16 }
          .next (((s.setCore k {}).setCore (k + 1) { c with undo := own }).rollback (k + 1))
  | none => .next s

/-! CKPT_DUE (R333). -/

/-- Why CKPT_DUE is raised now, if it is: MAXINT reached, log or hold queue near its limit. -/
def State.dueWhy (s : State) (k : Nat) : Option Nat :=
  let c := s.core k
  if c.timerAt + 400 * s.fld (Reg.RD_CTL (k / 2)) 23 16 ≤ s.now then some 1
  else if 448 ≤ c.undo.length then some 2
  else if 48 ≤ c.hold.length then some 3
  else none

/-- CKPT_DUE_TIMEOUT (R333): no CKPT has committed within 50 us. -/
def execCkptDueTimeout (n : Fin 4) (s : State) : Result :=
  match s.lead n with
  | some k =>
    match (s.core k).dueAt with
    | some e =>
      if s.halted (k / 2) then .next s else .next ((s.advanceTo (e + 20000)).coldRestart k)
    | none => .next s
  | none => .next s

/-! Release and management restarts (R286, R324, R337). -/

/-- Release pair p at an entry address: LOCKSTEP, or ALONE on the core that has not failed. -/
def State.releasePair (s : State) (p entry : Nat) : State :=
  let put := fun (s : State) (k : Nat) => (s.onCore k fun c => { coreReset c with entry := entry }).startCore k
  if s.coreFailed (2 * p) && s.coreFailed (2 * p + 1) then s.setMode p 3
  else if s.coreFailed (2 * p) then put (s.setMode p 2) (2 * p + 1)
  else put (s.setMode p (s.modeOf p)) (2 * p)

/-- The record a HALTED or restarted pair runs on. -/
def State.pairRecord (s : State) (p : Nat) : Nat := if s.coreFailed (2 * p) then 2 * p + 1 else 2 * p

/-- PAIR_RESTART_COMMAND (R12, R337, R338): the management plane restarts a pair, COLD or from its checkpoint; a pair
whose two cores have failed is never released (R57). -/
def execPairRestartCommand (p : Fin 2) (cold : Bool) (s : State) : Result :=
  if s.coreFailed (2 * p) && s.coreFailed (2 * p + 1) then .next s
  else
    let s := if s.pairMode p = 3 then s.setMode p (s.modeOf p) else s
    let ks := if s.pairMode p = 1 then [2 * p.val, 2 * p.val + 1] else [s.pairRecord p]
    .next (ks.foldl (fun s k => if (s.core k).run = .off then s else if cold then s.coldRestart k else s.rollback k) s)

/-! Registers (R324). -/

/-- A write of RD_PpCTL: checked at landing, discarded where it fails. -/
def State.rdCtlWrite (s : State) (p : Nat) (v : Word) : State :=
  let m := fieldOf v 23 16
  match pickFail (failIf (m < 10 || 250 < m) 0x07 (16 * p) ++ failIf (fieldOf v 9 8 == 3) 0x05 (16 * p)) with
  | some f => s.cfgFail Reg.RD_CFGCHK f
  | none => (s.setReg (Reg.RD_CTL p) (v &&& 0x00FF0310)).cfgOk Reg.RD_CFGCHK

end Sys2Proof.Machine
end

