-- ==== Sys2Proof/Machine/Pins.lean ====
section
/-! DEFINITION. General pins, the signal crossbar and pin interrupts (R439 to R450). -/

namespace Sys2Proof.Machine

/-! The catalogue (R441). -/

/-- What a SEL value names. -/
inductive SigDir where
  | none | gpio | out | inp | bidir | reserved
deriving DecidableEq, Repr

/-- Directions of the 32 signals of a MAC. -/
def macDir (j : Nat) : SigDir :=
  if j < 6 then .out else if j < 16 then .inp else if j = 16 then .out else if j = 17 then .bidir
  else if j < 20 then .inp else if j < 26 then .out else .inp

/-- The catalogue of R441. -/
def sigDir (x : Nat) : SigDir :=
  if x = 0 then .none
  else if x = 1 then .gpio
  else if x < 0x010 then .reserved
  else if x < 0x0D0 then .out
  else if x < 0x1B0 then (if (x - 0x0D0) % 14 < 6 then .inp else .out)
  else if x < 0x1D0 then .inp
  else if x < 0x1F0 then .out
  else if x < 0x1F4 then .inp
  else if x < 0x1F8 then .reserved
  else if x < 0x1FC then .out
  else if x = 0x1FC then .inp
  else if x < 0x200 then .reserved
  else if x < 0x240 then macDir ((x - 0x200) % 32)
  else if x < 0x280 then .reserved
  else if x < 0x298 then ([.out, .inp, .out, .reserved] : List SigDir).getD (x % 4) .reserved
  else if x < 0x2A0 then .reserved
  else if x < 0x2E0 then ([.out, .inp, .out, .inp, .out] : List SigDir).getD (x % 8) .reserved
  else if x < 0x320 then ([.bidir, .bidir, .bidir, .bidir, .out, .out, .out] : List SigDir).getD (x % 8) .reserved
  else if x < 0x328 then .bidir
  else if x = 0x328 then .inp
  else if x < 0x32B then .out
  else if x < 0x330 then .reserved
  else if x < 0x341 then .out
  else if x < 0x348 then .reserved
  else if x < 0x350 then .out
  else if x < 0x360 then .reserved
  else .out

/-- The default of an input signal (R441). -/
def sigDefault (x : Nat) : Bool :=
  (decide (0x200 ≤ x) && decide (x < 0x240) && x % 32 == 17) ||
  (decide (0x280 ≤ x) && decide (x < 0x298) && x % 4 == 1) ||
  (decide (0x2A0 ≤ x) && decide (x < 0x2E0) && (x % 8 == 1 || x % 8 == 3)) ||
  (decide (0x2E0 ≤ x) && decide (x < 0x320) && x % 8 == 3) ||
  (decide (0x320 ≤ x) && decide (x < 0x329))

/-! Pins. -/

/-- Supply of a pin's bank: 0 absent, 1 at 1.8 V, 2 at 3.3 V. -/
def State.bankVio (s : State) (k : Nat) : Nat := s.fld (Reg.PX_BANK (k / 32)) 1 0

/-- The pins that select a signal. -/
def State.selecting (s : State) (x : Nat) : List Nat := (List.range 256).filter fun k => s.fld (Reg.PX_PIN k) 9 0 == x

/-- The lowest input or bidirectional signal that more than one pin selects (R446). -/
def State.conflict (s : State) : Option Nat :=
  (List.range 256).foldl (fun best k =>
    let x := s.fld (Reg.PX_PIN k) 9 0
    let inp := match sigDir x with | .inp | .bidir => true | _ => false
    if inp && decide (1 < (s.selecting x).length) then
      match best with | some b => some (min b x) | none => some x
    else best) none

/-- PIN_CONFLICT: CONFLICT, its record, and line 144 (R446). -/
def State.conflictSync (s : State) : State :=
  let s := match s.conflict with
    | some x =>
      if s.flag Reg.PX_CONF 31 then s
      else
        match s.selecting x with
        | a :: b :: _ => s.setReg Reg.PX_CONF (BitVec.ofNat 32 (2 ^ 31 + 2 ^ 16 * x + b * 2 ^ 8 + a))
        | _ => s
    | none => s
  s.setLine 144 (s.flag Reg.PX_CONF 31)

/-- The level an input signal delivers: its one pin's, or its default (R441, R446). -/
def State.sigLevel (s : State) (x : Nat) : Bool :=
  match s.selecting x with
  | [k] => s.flag (Reg.PX_PIN k) 31
  | _ => sigDefault x

/-- The first CLK_PER edge at or after a CLK_LOOP edge. -/
def perEdge (e : Nat) : Nat := (e + 1) / 2 * 2

/-- The checks of a write of PX_PINk (R449). -/
def State.pinFails (s : State) (k : Nat) (v : Word) : List CfgFail :=
  let x := fieldOf v 9 0
  failIf (sigDir x == .reserved) 0x05 11 k ++ failIf (fieldOf v 17 16 == 3) 0x05 6 k ++
  failIf (decide (k < 5) && x != s.fld (Reg.PX_PIN k) 9 0) 0xA0 11 k ++
  failIf (fieldOf v 13 12 == 3 && s.bankVio k == 1) 0xA1 9 k ++
  failIf (s.bankVio k == 0) 0xA2 0xFF k

/-- The bank of pin k is in pad hold (R437). -/
def State.pinHeld (s : State) (k : Nat) : Bool := s.flag Reg.PM_PADHOLD (k / 32)

/-- A write of PX_PINk: refused, or the hold sequence of R447, or the GPIO path of R444. -/
def State.pinWrite (s : State) (k : Nat) (v : Word) : State :=
  match pickFail (s.pinFails k v) with
  | some f => s.cfgFail Reg.PX_CFGCHK f
  | none =>
    let old := s.reg (Reg.PX_PIN k)
    let new := (old &&& 0x80000000) ||| (v &&& 0x030773FF)
    let s := (s.setReg (Reg.PX_PIN k) new).cfgOk Reg.PX_CFGCHK
    let e := perEdge s.now
    let p : Pad := mapGet {} s.pads k
    let p : Pad :=
      if s.pinHeld k then { p with old := new, at' := 0 }
      else if fieldOf new 9 0 = 1 ∧ (new ||| 0x03000000) = (old ||| 0x03000000) then
        { p with gpioOld := BitVec.ofNat 2 (fieldOf old 25 24), gpioAt := e + 4 }
      else { p with old := if s.now < p.at' then p.old else old, at' := e + 4 }
    State.conflictSync { s with pads := mapSet {} s.pads k p }

/-- PIN_CONFIGURATION_WRITE (R447). -/
def execPinConfigurationWrite (k : Fin 256) (v : BitVec 32) (s : State) : Result := .next (s.pinWrite k v)

/-- GPIO_WRITE (R444): OE and DOUT of a pin, the rest as it stands. -/
def execGpioWrite (k : Fin 256) (oe dout : Bool) (s : State) : Result :=
  .next (s.pinWrite k (withField (withField (s.reg (Reg.PX_PIN k)) 25 25 (bit oe)) 24 24 (bit dout)))

/-- The configuration of a pin in force now (R447). -/
def State.pinConfig (s : State) (k : Nat) : Word :=
  let p : Pad := mapGet {} s.pads k
  if s.now < p.at' then p.old else s.reg (Reg.PX_PIN k)

/-- OE and DOUT at the pad of a pin now (R444). -/
def State.gpioOut (s : State) (k : Nat) : BitVec 2 :=
  let p : Pad := mapGet {} s.pads k
  if s.now < p.gpioAt then p.gpioOld else BitVec.ofNat 2 (s.fld (Reg.PX_PIN k) 25 24)

/-- A W1C write of PX_CONF: a condition that holds leaves CONFLICT set (R446). -/
def State.confWrite (s : State) (v : Word) : State :=
  if bitOf v 31 && s.flag Reg.PX_CONF 31 then
    if s.conflict.isSome then s else (s.setFlag Reg.PX_CONF 31 false).conflictSync
  else s

/-! Pin interrupts (R450). -/

/-- The pin line n watches. -/
def State.pintPin (s : State) (n : Nat) : Nat := 16 * s.fld (Reg.PINT_CFG n) 3 0 + n

/-- Core line 128 + n follows PEND n and the level condition. -/
def State.pintSync (s : State) (n : Nat) : State :=
  let en := s.flag (Reg.PINT_CFG n) 31
  let lv : Option Bool := mapGet none s.pintLevel n
  let mode := s.fld (Reg.PINT_CFG n) 10 8
  let cond := en && (mode == 3 && lv == some true || mode == 4 && lv == some false)
  let s := s.setFlag Reg.PINT_STAT (16 + n) cond
  s.setLine (128 + n) (cond || s.flag Reg.PINT_STAT n)

/-- The synchronised level that line n's pin shows, in the line's record. -/
def State.pintSeen (s : State) (n : Nat) (level : Bool) : State := { s with pintLevel := mapSet none s.pintLevel n (some level) }

/-- Line n is disabled and its level forgotten. -/
def State.pintOff (s : State) (n : Nat) : State := { s.setFlag (Reg.PINT_CFG n) 31 false with pintLevel := mapErase s.pintLevel n }

/-- A write of PINT_CFGn; `level` is the first level its pin shows. -/
def State.pintWrite (s : State) (n : Nat) (v : Word) (level : Bool) : State :=
  let a := Reg.PINT_CFG n
  let w := v &&& 0x8000070F
  if s.flag a 31 then
    let same := fieldOf w 10 0 == fieldOf (s.reg a) 10 0
    let s := if same then s else s.cfgFail Reg.PINT_CFGCHK ⟨0x0A, n, 0⟩
    if bitOf v 31 then s
    else (s.pintOff n).pintSync n
  else
    let s := s.setReg a (withField w 31 31 0)
    if !bitOf v 31 then s
    else
      match pickFail (failIf (decide (5 ≤ fieldOf v 10 8)) 0x05 n ++ failIf (s.bankVio (s.pintPin n) == 0) 0xA2 0xFF) with
      | some f => s.cfgFail Reg.PINT_CFGCHK f
      | none =>
        let s := (s.setFlag a 31 true).cfgOk Reg.PINT_CFGCHK
        let s := s.setFlag (Reg.PX_PIN (s.pintPin n)) 31 level
        (s.pintSeen n level).pintSync n

/-- PINT_ENABLE (R450). -/
def execPintEnable (n : Fin 16) (v : BitVec 32) (level : Bool) (s : State) : Result :=
  .next (s.pintWrite n (withField v 31 31 1) level)

/-- PIN_INTERRUPT_EDGE (R450): the synchronised level of the pin that line n watches. -/
def execPinInterruptEdge (n : Fin 16) (level : Bool) (s : State) : Result :=
  let s := s.setFlag (Reg.PX_PIN (s.pintPin n)) 31 level
  if !s.flag (Reg.PINT_CFG n) 31 then .next s
  else
    let was : Option Bool := mapGet none s.pintLevel n
    let mode := s.fld (Reg.PINT_CFG n) 10 8
    let rise := was == some false && level
    let fall := was == some true && !level
    let hit := mode == 0 && rise || mode == 1 && fall || mode == 2 && (rise || fall)
    let s := if hit then s.setFlag Reg.PINT_STAT n true else s
    .next ((s.pintSeen n level).pintSync n)

/-- A W1C write of PINT_STAT. -/
def State.pintStatWrite (s : State) (v : Word) : State :=
  let s := s.setFld Reg.PINT_STAT 15 0 (s.fld Reg.PINT_STAT 15 0 &&& (65535 - fieldOf v 15 0))
  (List.range 16).foldl (fun s n => s.pintSync n) s

end Sys2Proof.Machine
end

