-- ==== Sys2Proof/Machine/Links.lean ====
section
/-! DEFINITION. Letterboxes, host-port registers, PCIe vectors, MAC time, CAN and serial ports (R451 to R459, R464 to R473).
What passes through the crossbar is in LinksRun. -/

namespace Sys2Proof.Machine

/-- The domain of the host port and the letterboxes. -/
def domHost : Nat := 0x34

/-! Letterboxes (R451 to R456). -/

/-- Ring of letterbox k, direction d: 0 AB, 1 BA. -/
def State.ring (s : State) (k d : Nat) : Ring := mapGet {} s.rings (2 * k + d)

/-- Letterbox k is enabled. -/
def State.lbxEn (s : State) (k : Nat) : Bool := s.flag (Reg.LBX_CFG k) 0

/-- BEND of a letterbox: 0 CORES, 1 HOST, 2 PCIE, 3 MGMT. -/
def State.bend (s : State) (k : Nat) : Nat := s.fld (Reg.LBX_CFG k) 5 4

/-- A message waits at end B. -/
def State.abHolds (s : State) (k : Nat) : Bool := !(s.ring k 0).msgs.isEmpty

/-- MSI-X vector v has an active source (R451, R466). -/
def State.msixActive (s : State) (v : Nat) : Bool :=
  let w := s.reg (Reg.PCIE_MSIXSRC v)
  (bitOf w 31 && (if bitOf w 5 then s.abHolds (fieldOf w 4 0) else bitOf w 8)) ||
  (List.range 32).any fun k => s.lbxEn k && s.bend k == 2 && s.fld (Reg.LBX_CFG k) 21 16 == v && s.abHolds k

/-- MSIX_RAISE: a source that becomes active raises its vector (R466). -/
def State.msixSync (s : State) : State :=
  (List.range 32).foldl (fun s v =>
    let on := s.msixActive v
    let was := nsetHas s.pcie.active v
    if on && !was then
      { s with pcie := { s.pcie with
        active := nsetAdd s.pcie.active v (v + 1), raised := mapSet 0 s.pcie.raised v (mapGet 0 s.pcie.raised v + 1) } }
    else if !on && was then { s with pcie := { s.pcie with active := nsetDel s.pcie.active v (v + 1) } }
    else s) s

/-- The receive registers, lines and vectors of a letterbox follow its rings (R453, R455). -/
def State.lbxSync (s : State) (k : Nat) : State :=
  let s := [0, 1].foldl (fun s d =>
    let m := (s.ring k d).msgs
    let put := fun (lo hi info : Word) => ((s.setReg (Reg.LBX_RXLO k d) lo).setReg (Reg.LBX_RXHI k d) hi).setReg
      (Reg.LBX_RXINFO k d) info
    match m with
    | (p, v) :: _ =>
      put (BitVec.ofNat 32 v.toNat) (BitVec.ofNat 32 (v.toNat / 2 ^ 32)) (BitVec.ofNat 32 (65536 * p + 32768 + m.length))
    | [] => put 0 0 0) s
  let s := s.setLine (64 + 2 * k) (s.flag (Reg.LBX_CFG k) 2 && !(s.ring k 1).msgs.isEmpty)
  let s := s.setLine (65 + 2 * k) (s.flag (Reg.LBX_CFG k) 3 && s.abHolds k)
  s.msixSync

/-- Replace a ring. -/
def State.setRing (s : State) (k d : Nat) (r : Ring) : State :=
  State.lbxSync { s with rings := mapSet {} s.rings (2 * k + d) r } k

/-- A flag of LBXk_STAT: ACKREF 3, GAP 2, FULL 1, DUP 0; BA at [11:8]. -/
def State.lbxFlag (s : State) (k d b : Nat) : State := s.setFlag (Reg.LBX_STAT k) (8 * d + b) true

/-- LETTERBOX_POST (R452). -/
def State.lbxPost (s : State) (k d p : Nat) : State :=
  if !(s.unitOn domHost && s.lbxEn k) then s
  else
    let sent := s.fld (Reg.LBX_PM k d) 31 16
    let m := (s.ring k d).msgs
    if !postLater p sent then (s.lbxFlag k d 0).satInc (Reg.LBX_CNT k) 15 8
    else if 64 ≤ m.length then (s.lbxFlag k d 1).satInc (Reg.LBX_CNT k) 23 16
    else
      let lost := (p + 65536 - sent + 65535) % 65536
      let s := if lost = 0 then s else (s.lbxFlag k d 2).satAdd (Reg.LBX_CNT k) 31 24 lost
      let v : DWord := BitVec.ofNat 64 (2 ^ 32 * (s.reg (Reg.LBX_TXHI k d)).toNat + (s.reg (Reg.LBX_TXLO k d)).toNat)
      (s.setFld (Reg.LBX_PM k d) 31 16 p).setRing k d ⟨m ++ [(p, v)]⟩

def execLetterboxPost (k : Fin 32) (d : Fin 2) (p : BitVec 16) (s : State) : Result := .next (s.lbxPost k d p.toNat)

/-- LETTERBOX_ACK (R453). -/
def State.lbxAck (s : State) (k d p : Nat) : State :=
  if !(s.unitOn domHost && s.lbxEn k) then s
  else
    let m := (s.ring k d).msgs
    if m.any fun q => q.1 == p then
      (s.setFld (Reg.LBX_PM k d) 15 0 p).setRing k d ⟨(m.dropWhile fun q => q.1 != p).drop 1⟩
    else s.lbxFlag k d 3

def execLetterboxAck (k : Fin 32) (d : Fin 2) (p : BitVec 16) (s : State) : Result := .next (s.lbxAck k d p.toNat)

/-- The checks of an enable (R473). -/
def State.lbxFails (s : State) (k : Nat) : List CfgFail :=
  let v := s.fld (Reg.LBX_CFG k) 21 16
  let dup := (List.range 32).any fun u => u == v && s.flag (Reg.PCIE_MSIXSRC u) 31 && !s.flag (Reg.PCIE_MSIXSRC u) 5
  failIf (s.bend k == 2 && decide (32 ≤ v)) 0x07 0 k ++
  failIf (s.bend k == 2 && (!s.unitOn 0x32 || dup)) 0xB0 0 k

/-- A letterbox that is disabled is empty, and its counters read 0. -/
def State.lbxOff (s : State) (k : Nat) : State :=
  let s := (s.setReg (Reg.LBX_PM k 0) 0).setReg (Reg.LBX_PM k 1) 0
  (s.setRing k 0 {}).setRing k 1 {}

/-- A write of LBXk_CFG. -/
def State.lbxCfgWrite (s : State) (k : Nat) (v : Word) : State :=
  s.whenOn domHost Reg.LBX_CFGCHK fun s =>
    s.unitWrite (Reg.LBX_CFG k) Reg.LBX_CFGCHK 0 v (fun s => s.lbxFails k) (fun s => s.lbxSync k) (fun s => (s.setFlag (Reg.LBX_CFG k) 0 false).lbxOff k)
      (fun s => s.lbxSync k) k

/-- LETTERBOX_ENABLE (R451): EN as written. -/
def execLetterboxEnable (k : Fin 32) (v : BitVec 32) (s : State) : Result := .next (s.lbxCfgWrite k v)

/-! Host port registers (R457, R459, R461). -/

/-- Line 160 is high while DROP, WRERR, RDREF or UNCORR is set (R472). -/
def State.hpLine (s : State) : State :=
  s.setLine 160 (s.flag Reg.HP_STAT 1 || s.flag Reg.HP_STAT 2 || s.flag Reg.HP_STAT 3 || s.flag Reg.HP_STAT 5)

/-- A flag of HP_STAT is set. -/
def State.hpFlag (s : State) (b : Nat) : State := (s.setFlag Reg.HP_STAT b true).hpLine

/-- The port runs. -/
def State.hpOn (s : State) : Bool := s.unitOn domHost && s.flag Reg.HP_CTRL 0

/-- HINTn: `none` is high impedance, else its level (R459). -/
def State.hintn (s : State) : Option Bool :=
  if !s.hpOn then none
  else
    let mail := (List.range 32).any fun k => s.lbxEn k && s.bend k == 1 && s.flag (Reg.LBX_CFG k) 3 && s.abHolds k
    some (!(s.flag Reg.HP_CTRL 1 && (mail || s.flag Reg.HP_CTRL 2)))

/-- HOST_PORT_ENABLE (R459): a write of HP_CTRL. -/
def State.hpCtrlWrite (s : State) (v : Word) : State :=
  s.whenOn domHost Reg.HP_CFGCHK fun s => s.unitWrite Reg.HP_CTRL Reg.HP_CFGCHK 0 v (fun _ => []) id
    (fun s => s.setFlag Reg.HP_CTRL 0 false) id

def execHostPortEnable (v : BitVec 32) (s : State) : Result := .next (s.hpCtrlWrite v)

/-- HOST_WINDOW_WRITE (R457): from the management core, or from another master. -/
def State.hpWinWrite (s : State) (n : Nat) (v : Word) (mgmt : Bool) : State :=
  if !mgmt then s.setFlag Reg.HP_STAT 4 true
  else
    let kind := fieldOf v 2 0
    let outside := match regionOf (2 ^ 18 * fieldOf v 31 18) with | .outside => true | _ => false
    match pickFail (failIf (decide (5 ≤ kind)) 0x05 (256 + n) ++ failIf (kind == 4 && s.phase != 4) 0xB1 (256 + n) ++
        failIf (kind == 3 && outside) 0xB2 (256 + n)) with
    | some f => s.cfgFail Reg.HP_CFGCHK f
    | none => (s.setReg (Reg.HP_WIN n) (v &&& 0xFFFC0007)).cfgOk Reg.HP_CFGCHK

def execHostWindowWrite (n : Fin 256) (v : BitVec 32) (mgmt : Bool) (s : State) : Result :=
  .next (if s.unitOn domHost then s.hpWinWrite n v mgmt else s)

/-- PCIE_BAR0MAP: the management core only, as HP_WINn. -/
def State.bar0Write (s : State) (v : Word) (mgmt : Bool) : State :=
  if mgmt then s.setReg Reg.PCIE_BAR0MAP (v &&& 0xFFF00000) else s.setFlag Reg.HP_STAT 4 true

/-- Word 0x0304 of a MIRROR window clears DROPPING (R461). -/
def State.resync (s : State) : State := s.setFlag Reg.HP_STAT 6 false

/-- RESYNC: a host write to that word. -/
def execResync (s : State) : Result := .next (if s.hpOn then s.resync else s)

/-- CREDIT follows the queue. -/
def State.setHpq (s : State) (q : List HostWrite) : State :=
  State.setFld { s with hp := { s.hp with queue := q } } Reg.HP_STAT 22 16 (64 - q.length)

/-- HOST_WRITE (R460, R461): captured, or dropped and counted. -/
def execHostWrite (ha : BitVec 24) (be : BitVec 4) (data : BitVec 32) (s : State) : Result :=
  if !s.hpOn then .next s
  else
    let mirror := s.fld (Reg.HP_WIN (ha.toNat / 65536)) 2 0 == 2
    if mirror && ha.toNat % 65536 == 0x0304 then .next s.resync
    else if s.flag Reg.HP_STAT 6 || decide (64 ≤ s.hp.queue.length) then
      .next (((s.setFlag Reg.HP_STAT 6 true).hpFlag 1).satInc Reg.HP_CNT 31 16)
    else .next (s.setHpq (s.hp.queue ++ [HostWrite.mk ha.toNat be.toNat data]))

/-! MAC time (R468). -/

/-- MAC record m. -/
def State.mac (s : State) (m : Nat) : Mac := mapGet {} s.macs m
def State.setMac (s : State) (m : Nat) (r : Mac) : State := { s with macs := mapSet {} s.macs m r }

/-- RATE of a MAC. -/
def State.macRate (s : State) (m : Nat) : Int := signedOf 32 (s.reg (Reg.MAC_RATE m)).toNat

/-- OFS on edge e, in 2^-32 ns: each DEVTIME unit adds RATE × 2^-32 × 2.5 ns. -/
def State.macOfs (s : State) (m e : Nat) : Int :=
  (s.mac m).ofs + 5 * s.macRate m * ((e : Int) - (s.mac m).at') / 2

/-- Network time on edge e, in 2^-32 ns. -/
def State.macTime (s : State) (m e : Nat) : Int := 2 ^ 31 * ((e : Int) * 5) + s.macOfs m e

/-- OFS is brought up to the edge now, before RATE changes or a step is added. -/
def State.macSync (s : State) (m : Nat) : State := s.setMac m { s.mac m with ofs := s.macOfs m s.now, at' := s.now }

/-- OFS as MACm_TOFSHI and TOFSLO show it, in 2^-16 ns. -/
def State.macShown (s : State) (m : Nat) : Nat := toBits 64 (s.macOfs m s.now / 2 ^ 16)

/-- A write of RATE. -/
def State.macRateWrite (s : State) (m : Nat) (v : Word) : State := (s.macSync m).setReg (Reg.MAC_RATE m) v

/-- A write of TADJLO, and of TADJHI, which applies the step. -/
def State.tadjLoWrite (s : State) (m : Nat) (v : Word) : State := s.setMac m { s.mac m with tadjLo := v }
def State.tadjHiWrite (s : State) (m : Nat) (v : Word) : State :=
  let s := s.macSync m
  let step := signedOf 64 (2 ^ 32 * v.toNat + (s.mac m).tadjLo.toNat)
  s.setMac m { s.mac m with ofs := (s.mac m).ofs + 2 ^ 16 * step }

/-- MAC_TIME_ADJUST (R468): both words of a step, the high one last. -/
def execMacTimeAdjust (m : Fin 2) (lo hi : BitVec 32) (s : State) : Result :=
  .next (if s.unitOn (0x30 + m) then (s.tadjLoWrite m lo).tadjHiWrite m hi else s)

/-- A write of a target-time word: the target waits to be reached again. -/
def State.tgtWrite (s : State) (m t : Nat) (hi : Bool) (v : Word) : State :=
  let s := s.setReg (if hi then Reg.MAC_TGTHI m t else Reg.MAC_TGTLO m t) v
  s.setMac m { s.mac m with reached := nsetDel (s.mac m).reached t (t + 1) }

/-- Target time t in 2^-16 ns, where it is enabled. -/
def State.macTarget (s : State) (m t : Nat) : Option Nat :=
  let hi := s.reg (Reg.MAC_TGTHI m t)
  if bitOf hi 31 then some (2 ^ 32 * fieldOf hi 30 0 + (s.reg (Reg.MAC_TGTLO m t)).toNat) else none

/-- The first edge, from now on, on which the network time reaches a target. -/
def State.targetEdge (s : State) (m g : Nat) : Nat :=
  let rate := s.macRate m
  let num : Int := 2 ^ 17 * (g : Int) - 2 * (s.mac m).ofs + 5 * rate * (s.mac m).at'
  let e := max s.now (-((-num) / (5 * 2 ^ 32 + 5 * rate))).toNat
  if 2 ^ 16 * (g : Int) ≤ s.macTime m e then e else e + 1

/-- MAC_TARGET_TIME (R468): the source is raised and the output driven for 8 CLK_LOOP cycles. -/
def execMacTargetTime (m : Fin 2) (t : Fin 4) (s : State) : Result :=
  match s.macTarget m t with
  | some g =>
    if !s.unitOn (0x30 + m) || nsetHas (s.mac m).reached t then .next s
    else
      let s := s.advanceTo (s.targetEdge m g)
      let r := s.mac m
      let s := s.setMac m { r with reached := nsetAdd r.reached t (t + 1), pulse := mapSet 0 r.pulse t (s.now + 8) }
      .next (s.raiseNow (0x760 + 4 * m.val + t.val))
  | none => .next s

/-- TARGET_TIME_PULSE_END (R468). -/
def execTargetTimePulseEnd (m : Fin 2) (t : Fin 4) (s : State) : Result :=
  match mapGet 0 (s.mac m).pulse t with
  | 0 => .next s
  | e =>
    let s := s.advanceTo e
    .next (s.setMac m { s.mac m with pulse := mapErase (s.mac m).pulse t })

/-! Frames (R467, R469, R470, R471). -/

/-- FRAME_RECEIVE (R467, R468): a frame of `len` bytes; an event message is timestamped; a bad or oversized frame raises
the error line. -/
def execFrameReceive (m : Fin 2) (len : Nat) (event bad : Bool) (s : State) : Result :=
  if !s.unitOn (0x30 + m) then .next s
  else if bad || decide (9216 < len) then .next (s.pulseLine (171 + 4 * m))
  else
    let s := s.pulseLine (168 + 4 * m)
    if event then .next ((s.setMac m { s.mac m with rxStamp := s.now }).pulseLine (170 + 4 * m)) else .next s

/-- FRAME_TRANSMIT (R468, R469): a frame of one of the eight queues, returned with its timestamp where it is an event. -/
def execFrameTransmit (m : Fin 2) (_queue : Fin 8) (event : Bool) (s : State) : Result :=
  if !s.unitOn (0x30 + m) then .next s
  else
    let s := s.pulseLine (169 + 4 * m)
    if event then .next ((s.setMac m { s.mac m with txStamp := s.now }).pulseLine (170 + 4 * m))
    else .next s

/-- Longest payload of a CAN format (R470). -/
def canMax (f : CanFormat) : Nat := match f with | .classical => 8 | .fd => 64 | .xl => 2048

/-- CAN_FRAME_RECEIVE (R470). -/
def execCanFrameReceive (n : Fin 6) (f : CanFormat) (len : Nat) (s : State) : Result :=
  if !s.unitOn 0x33 then .next s
  else if canMax f < len then .next (s.pulseLine (181 + 2 * n))
  else .next (State.pulseLine { s with canStamp := mapSet 0 s.canStamp n s.now } (180 + 2 * n))

/-- CAN_FRAME_TRANSMIT (R470, R472). -/
def execCanFrameTransmit (n : Fin 6) (error : Bool) (s : State) : Result :=
  if !s.unitOn 0x33 then .next s else .next (s.pulseLine (180 + 2 * n + bit error))

/-- SERIAL_PORT_TRANSFER (R471, R472). -/
def execSerialPortTransfer (u : SerialUnit) (s : State) : Result :=
  let line := match u with | .uart n => 192 + n.val | .spi n => 200 + n.val | .i3c n => 208 + n.val
  if !s.unitOn 0x33 then .next s else .next (s.pulseLine line)

/-- PCIE_LINK_STATE_CHANGE (R464, R472). -/
def execPcieLinkStateChange (up : Bool) (gen : Fin 4) (lanes : Fin 3) (d3hot perst : Bool) (s : State) : Result :=
  if !s.unitOn 0x32 then .next s
  else
    .next (State.pulseLine { s with pcie := { s.pcie with
      up := up, gen := gen, lanes := lanes, d3hot := d3hot, perst := perst } } 176)

end Sys2Proof.Machine
end

