-- ==== Sys2Proof/Machine/Power.lean ====
section
/-! DEFINITION. Power domains, operating points, sleep states, DEVTIME in sleep, pad hold (R43, R423 to R438). -/

namespace Sys2Proof.Machine

/-! Where the memories without a place in the map of R52 are kept. -/

/-- The post room (256 KiB, R462), the management RAM (256 KiB, R402), the MSI-X table (R465). -/
def postRoom : Nat := 0x100000000
def mgmtRam : Nat := 0x100100000
def msixTable : Nat := 0x100200000

/-! Domains (R423 to R426). -/

/-- The register ranges of a domain. -/
def domRegs (d : Nat) : List (Nat × Nat) :=
  if d = 0x10 then [(0x50030000, 0x50034000), (0x50050000, 0x50060000), (0x50070000, 0x50080000)]
  else if 0x11 ≤ d ∧ d ≤ 0x16 then [(0x50000000 + 0x1000 * (d - 0x11), 0x50000000 + 0x1000 * (d - 0x10))]
  else if d = 0x17 ∨ d = 0x18 then [(0x50010000 + 0xC00 * (d - 0x17), 0x50010000 + 0xC00 * (d - 0x16))]
  else if 0x19 ≤ d ∧ d ≤ 0x1C then
    let g := d - 0x19
    [(0x50020000 + 0x800 * g, 0x50020000 + 0x800 * (g + 1)), (0x50022000 + g * 0x80, 0x50022000 + (g + 1) * 0x80),
      (0x50028000 + g * 0x100, 0x50028000 + (g + 1) * 0x100)]
  else if d = 0x1D then [(0x50040000, 0x50042000)]
  else if 0x20 ≤ d ∧ d ≤ 0x2C then [(0x50060000 + 0x400 * (d - 0x20), 0x50060000 + 0x400 * (d - 0x1F))]
  else if d = 0x2F then [(0x60000000, 0x60010000)]
  else if d = 0x30 ∨ d = 0x31 then [(0x60010000 + 0x10000 * (d - 0x30), 0x60010000 + 0x10000 * (d - 0x2F))]
  else if d = 0x32 then [(0x60030000, 0x60040000)]
  else if d = 0x33 then [(0x60040000, 0x60060000)]
  else if d = 0x34 then [(0x60060000, 0x60080000), (0x600A0000, 0x600C0000)]
  else if d = 0x35 then [(0x70040000, 0x70050000)]
  else if d = 0x36 then [(0x60080000, 0x600A0000)]
  else if d = 0x3E then [(0x70070000, 0x70080000)]
  else if d = 0x3F then [(0x70030000, 0x70040000)]
  else []

/-- The memory ranges that a gated domain loses. -/
def domMems (d : Nat) : List (Nat × Nat) :=
  if 0x04 ≤ d ∧ d ≤ 0x07 then [(0x30000000 + 0x40000 * (d - 4), 0x30000000 + 0x40000 * (d - 3))]
  else if 0x08 ≤ d ∧ d ≤ 0x0F then [(0x20000000 + 0x100000 * (d - 8), 0x20000000 + 0x100000 * (d - 7))]
  else if d = 0x1E ∨ d = 0x1F then [(0x40000000 + 0x20000 * (d - 0x1E), 0x40000000 + 0x20000 * (d - 0x1D))]
  else if 0x20 ≤ d ∧ d ≤ 0x2C then [(0x41000000 + 0x40000 * (d - 0x20), 0x41000000 + 0x40000 * (d - 0x1F))]
  else if d = 0x32 then [(msixTable, msixTable + 0x1000)]
  else if d = 0x34 then [(postRoom, postRoom + 0x40000)]
  else []

/-- The domain of a register's address; none where the block is always on (R31, R423). -/
def domOfReg (a : Nat) : Option Nat :=
  (List.range 64).find? fun d => (domRegs d).any fun r => decide (r.1 ≤ a) && decide (a < r.2)

/-- Set or clear DOMSTAT of a domain. -/
def State.setDom (s : State) (d : Nat) (on : Bool) : State :=
  if d < 32 then s.setFlag Reg.PM_DOMSTAT0 d on else s.setFlag Reg.PM_DOMSTAT1 (d - 32) on

/-- The DOMCTL bit of a domain. -/
def State.domCtl (s : State) (d : Nat) : Bool :=
  if d < 32 then s.flag Reg.PM_DOMCTL0 d else s.flag Reg.PM_DOMCTL1 (d - 32)

/-- Registers in a range return to their reset values. -/
def State.clearRegs (s : State) (lo hi : Nat) : State :=
  { s with regs := s.regs.filter fun p => decide (p.1 < lo) || decide (hi ≤ p.1) }

/-- Entries of a map with keys in a range are dropped. -/
def mapDrop {α : Type} (m : SMap α) (lo hi : Nat) : SMap α := m.filter fun p => decide (p.1 < lo) || decide (hi ≤ p.1)

/-- A memory range loses its contents, init bits and tags. -/
def State.loseMem (s : State) (lo hi : Nat) : State :=
  let s := s.wipe lo hi
  { s with tags := nsetDel s.tags (lo / 16) (hi / 16), mem := { s.mem with init := nsetDel s.mem.init (lo / 8) (hi / 8) } }

/-- The state of a domain's units that no register shows is discarded. -/
def State.loseUnits (s : State) (d : Nat) : State :=
  if d < 4 then
    State.rdSync { s with
      cores := mapSet {} s.cores d { entry := (s.core d).entry }
      icfg := mapErase s.icfg d } (d / 2)
  else if d = 0x10 then
    { s with
      so := {}, ports := {}, switchAt := [], pendFrom := []
      conv := { s.conv with entFail := [], entFrom := [], stampAt := [] } }
  else if 0x11 ≤ d ∧ d ≤ 0x16 then { s with pwms := mapDrop s.pwms ((d - 0x11) * 16) ((d - 0x10) * 16) }
  else if d = 0x17 ∨ d = 0x18 then
    let ts := s.cmps.filterMap fun p => if p.1 / 48 = d - 0x17 then p.2.ticket else none
    let s := ts.foldl State.arbRelease s
    { s with cmps := mapDrop s.cmps ((d - 0x17) * 48) ((d - 0x16) * 48) }
  else if 0x19 ≤ d ∧ d ≤ 0x1C then
    let g := d - 0x19
    let r := s.group g
    let s := (r.calTicket.toList ++ r.diagTicket.toList).foldl State.arbRelease s
    { s with conv := { s.conv with
      slices := mapErase (mapDrop s.conv.slices (16 * g) (16 * g + 16)) (64 + g)
      groups := mapErase s.conv.groups g } }
  else if d = 0x1D then { s with pis := [] }
  else if 0x20 ≤ d ∧ d ≤ 0x2C then
    let c := (d - 0x20) * 4
    { s with cells := mapDrop s.cells c (c + 4), mismCell := nsetDel s.mismCell c (c + 4) }
  else if d = 0x2D ∨ d = 0x2E then { s with flash := { s.flash with banks := mapErase s.flash.banks (d - 0x2D) } }
  else if d = 0x2F then { s with dmas := [] }
  else if d = 0x30 ∨ d = 0x31 then { s with macs := mapErase s.macs (d - 0x30) }
  else if d = 0x32 then { s with pcie := {} }
  else if d = 0x33 then { s with canStamp := [] }
  else if d = 0x34 then { s with rings := [], hp := {} }
  else if d = 0x3E then { s with tp := {} }
  else s

/-- Lines that a domain's units held fall with it. -/
def State.dropLines (s : State) (d : Nat) : State :=
  if d = 0x2F then (List.range 32).foldl (fun s k => s.setLine (32 + k) false) s
  else if d = 0x34 then
    ((List.range 64).foldl (fun s k => s.setLine (64 + k) false) s).setLine 160 false |>.msixSync
  else s

/-- The domain is gated: everything it holds is discarded (R426). -/
def State.gateDomain (s : State) (d : Nat) : State :=
  let s := s.setDom d false
  let s := (domRegs d).foldl (fun s r => s.clearRegs r.1 r.2) s
  let s := (domMems d).foldl (fun s r => s.loseMem r.1 r.2) s
  let s := s.loseUnits d
  let s := { s with power := { s.power with up := mapErase s.power.up d } }
  s.dropLines d

/-- The repair map is applied to what the registers show: ROLE of failed cells, replaced slices, spares (R57, R94, R157). -/
def State.repairApply (s : State) : State :=
  let s := (List.range 52).foldl (fun s c => if nsetHas s.repairs.cells c then s.setFld (Reg.LC_STAT c) 25 24 3 else s) s
  let s := (List.range 4).foldl (fun s g =>
    let j := mapGet 0x1F s.repairs.slices g
    if j = 0x1F then s else (s.setFlag (Reg.CS_STAT (16 * g + j)) 4 true).setFld (Reg.CG_CALSTAT g) 12 8 j) s
  s.sparesSync

/-- The time from power to usable (R345, R424), in CLK_LOOP edges. -/
def State.domTime (s : State) (d : Nat) : Nat :=
  if 0x04 ≤ d ∧ d ≤ 0x07 then 800 + s.coreTime 8192
  else if 0x08 ≤ d ∧ d ≤ 0x0F then 800 + s.coreTime 4096
  else if 0x17 ≤ d ∧ d ≤ 0x1C then 40000
  else if d = 0x1E ∨ d = 0x1F then 800 + 512
  else if 0x20 ≤ d ∧ d ≤ 0x2C then 800 + 8192
  else if d = 0x2D ∨ d = 0x2E then 20000
  else if 0x30 ≤ d ∧ d ≤ 0x32 then 40000
  else 800

/-- A unit of the domain has EN = 1, or the domain is in use otherwise (R425). -/
def State.domInUse (s : State) (d : Nat) : Bool :=
  if d < 8 then s.pairMode (d % 4 / 2) != 3 && !s.coreFailed (d % 4)
  else if d = 0x10 then
    s.flag Reg.SO_CTRL 0 || s.flag Reg.MS_CTRL 0 || ((List.range 16).any fun n => s.flag (Reg.SQ_CTRL n) 0) ||
      (List.range 32).any fun k => s.flag (Reg.SO_TMR_PER k) 31
  else if 0x11 ≤ d ∧ d ≤ 0x16 then (List.range 16).any fun n => s.pwmEn (16 * (d - 0x11) + n)
  else if d = 0x17 ∨ d = 0x18 then (List.range 48).any fun n => s.flag (Reg.CMP_CTRL (48 * (d - 0x17) + n)) 0
  else if 0x19 ≤ d ∧ d ≤ 0x1C then
    let g := d - 0x19
    ((List.range 16).any fun n => s.sliceEn (16 * g + n)) || s.sliceEn (64 + g) || s.flag (Reg.CG_MPT g) 0 ||
      s.flag (Reg.CG_DIAG g) 0
  else if d = 0x1D then (List.range 16).any fun n => s.flag (Reg.PI_CTRL n) 0
  else if d = 0x1E ∨ d = 0x1F then
    (List.range 64).any fun k =>
      s.flag (Reg.MS_TD_SHAPE k) 31 &&
        [s.fld (Reg.MS_TD_BASE k) 15 0, s.fld (Reg.MS_TD_BASE k) 31 16].any fun b =>
          if d = 0x1E then decide (b < 0x8000) else decide (0x8000 ≤ s.tdEnd k b)
  else if 0x20 ≤ d ∧ d ≤ 0x2C then (List.range 4).any fun i => s.cellState (4 * (d - 0x20) + i) != 0
  else if d = 0x2D ∨ d = 0x2E then s.fld (Reg.FC_STAT (d - 0x2D)) 31 30 != 0
  else if d = 0x2F then (List.range 32).any fun k => s.flag (Reg.DMA_CTL k) 0
  else if d = 0x34 then s.flag Reg.HP_CTRL 0 || (List.range 32).any fun k => s.lbxEn k
  else if d = 0x3E then s.flag Reg.TP_TRACE 31
  else false

/-- Why gating a domain is refused: FIELD is the DOMCTL register, DETAIL the domain. -/
def State.gateFail (s : State) (d : Nat) : Option CfgFail :=
  if d = 0x36 ∨ d = 0x3F then some ⟨0x91, d / 32, d⟩
  else if s.domInUse d then some ⟨0x90, d / 32, d⟩
  else none

/-- A write of PM_DOMCTLx: domains power up in ascending order, one every 2 us; each gating is carried out or refused,
and the first refusal reported (R424, R425). -/
def State.domctlWrite (s : State) (x : Nat) (v : Word) : State :=
  let a := if x = 0 then Reg.PM_DOMCTL0 else Reg.PM_DOMCTL1
  let ds := (List.range 32).map (32 * x + ·)
  let want (d : Nat) : Bool := bitOf v (d - 32 * x)
  let up := ds.filter fun d => want d && !s.domCtl d
  let off := ds.filter fun d => !want d && s.domCtl d
  let fails := off.filterMap s.gateFail
  let go := off.filter fun d => (s.gateFail d).isNone
  let s := match fails with
    | f :: _ => s.cfgFail Reg.PM_CFGCHK f
    | [] => if off.isEmpty then s else s.cfgOk Reg.PM_CFGCHK
  let s := go.foldl (fun s d => (s.setFlag a (d - 32 * x) false).gateDomain d) s
  (up.zipIdx).foldl (fun s p =>
    let s := s.setFlag a (p.1 - 32 * x) true
    { s with power := { s.power with up := mapInsert s.power.up p.1 (s.now + 800 * p.2 + s.domTime p.1) } }) s

/-- DOMAIN_POWER_UP (R424). -/
def execDomainPowerUp (x : Fin 2) (v : BitVec 32) (s : State) : Result :=
  .next (s.domctlWrite x (v ||| s.reg (if x = 0 then Reg.PM_DOMCTL0 else Reg.PM_DOMCTL1)))

/-- DOMAIN_GATE (R425). -/
def execDomainGate (x : Fin 2) (v : BitVec 32) (s : State) : Result :=
  .next (s.domctlWrite x (v &&& s.reg (if x = 0 then Reg.PM_DOMCTL0 else Reg.PM_DOMCTL1)))

/-- The domain holds its reset values and initialised memories (R345, R424). -/
def State.domUsable (s : State) (d : Nat) : State :=
  let s := (s.setDom d true).repairApply
  { s with power := { s.power with up := mapErase s.power.up d } }

/-- DOMAIN_USABLE (R424). -/
def execDomainUsable (d : Fin 64) (s : State) : Result :=
  match mapGet none (s.power.up.map fun p => (p.1, some p.2)) d with
  | some e => .next ((s.advanceTo e).domUsable d)
  | none => .next s

/-! Operating points (R427 to R430). -/

/-- The VID code of an operating point. -/
def opVid (t : Nat) : Nat := ([8, 4, 2, 0] : List Nat).getD t 8

/-- The first alignment instant at or after an edge (R38). -/
def alignEdge (e : Nat) : Nat := (e + 15) / 16 * 16

/-- PM_OPSTAT: on the edge of a VID change the code still reads as before it. -/
def State.opstatRead (s : State) : Word :=
  match s.power.op with
  | some o => if o.vidAt = s.now then withField (s.reg Reg.PM_OPSTAT) 7 4 o.oldVid else s.reg Reg.PM_OPSTAT
  | none => s.reg Reg.PM_OPSTAT

/-- The change of operating point ends. -/
def State.opEnd (s : State) : State := State.setFlag { s with power := { s.power with op := none } } Reg.PM_OPSTAT 31 false

/-- A VID change: PGOOD is ignored for 5 us and the voltage is to be confirmed. -/
def State.opVidStep (s : State) (t fop : Nat) : State :=
  let o : OpChange := ⟨t, s.fld Reg.PM_OPSTAT 7 4, s.now, fop⟩
  let s := (s.setFld Reg.PM_OPSTAT 7 4 (opVid t)).setFlag Reg.PM_OPSTAT 30 false
  { s with power := { s.power with op := some o } }

/-- A write of OPREQ (R428). -/
def State.opctlWrite (s : State) (v : Word) : State :=
  let t := fieldOf v 1 0
  let fop := s.fld Reg.PM_OPSTAT 1 0
  let vid := s.fld Reg.PM_OPSTAT 7 4
  if s.flag Reg.PM_OPSTAT 31 then s.cfgFail Reg.PM_CFGCHK ⟨0x01, 5, 0⟩
  else
    let need := max (waitStates t (opVid t)) (if fop < t then waitStates t vid else if t < fop then waitStates fop (opVid t) else 0)
    if s.fld Reg.FC_CTRL 3 0 < need then s.cfgFail Reg.PM_CFGCHK ⟨0x81, 5, need⟩
    else
      let s := (s.setFld Reg.PM_OPCTL 1 0 t).cfgOk Reg.PM_CFGCHK
      if t = fop ∧ opVid t = vid then s
      else
        let s := s.setFlag Reg.PM_OPSTAT 31 true
        if fop < t then
          let s := (s.advanceTo (alignEdge s.now)).setFld Reg.PM_OPSTAT 1 0 t
          if opVid t = vid then s.opEnd else s.opVidStep t fop
        else s.opVidStep t fop

/-- OP_CHANGE (R428). -/
def execOpChange (v : BitVec 32) (s : State) : Result := .next (s.opctlWrite v)

/-- VOLTAGE_CONFIRMED (R428, R429): PGOOD reads high on a CLK_MGMT edge 5 us or more after the VID change; on the edge of
the timeout it still counts. -/
def execVoltageConfirmed (s : State) : Result :=
  match s.power.op with
  | none => .next s
  | some o =>
    let e := (max s.now (o.vidAt + 2000) + 3) / 4 * 4
    if o.vidAt + 400000 < e then .next s
    else
      let s := (s.advanceTo e).setFlag Reg.PM_OPSTAT 30 true
      let s := if o.target < o.oldFop then (s.advanceTo (alignEdge e)).setFld Reg.PM_OPSTAT 1 0 o.target else s
      .next s.opEnd

/-- PGOOD_TIMEOUT (R429). -/
def execPgoodTimeout (s : State) : Result :=
  match s.power.op with
  | none => .next s
  | some o =>
    let s := s.advanceTo (o.vidAt + 400000)
    let s := (s.setFlag Reg.PM_OPSTAT 29 true).cfgFail Reg.PM_CFGCHK ⟨0x95, 5, 0⟩
    let s := s.setFld Reg.PM_OPSTAT 7 4 (max o.oldVid (opVid o.target))
    .next (s.setFld Reg.PM_OPSTAT 1 0 (max o.oldFop o.target)).opEnd

/-- PGOOD_LOSS (R430). -/
def execPgoodLoss (s : State) : Result :=
  if s.power.op.isSome then .next s
  else
    let s := (s.advanceTo (alignEdge s.now)).setFld Reg.PM_OPSTAT 1 0 3
    let s := (s.setFlag Reg.PM_OPSTAT 28 true).setFlag Reg.PM_OPSTAT 30 false
    let s := State.pulseLine { s with clk := { s.clk with faultOut := true } } 387
    .next (s.raiseNow 0x772)

/-! Sleep entry (R431 to R433, R435, R437). -/

/-- The entries a sampling wake serves (R435). -/
def State.crocusEntries (s : State) : List Nat :=
  let q := s.fld Reg.PM_CROCUS 11 8
  let g := s.fld Reg.PM_CROCUS 1 0
  ((List.range 32).map (32 * q + ·)).filter fun e =>
    let w := s.reg (entReg e)
    bitOf w 31 && bitOf w 16 && !bitOf w 7 && fieldOf w 5 0 / 16 == g

/-- The conditions of Crocus hold (R435). -/
def State.crocusOk (s : State) : Bool :=
  let per := s.fld Reg.PM_CRPER 25 0
  !s.crocusEntries.isEmpty && (s.crocusEntries.all fun e => s.flag (Reg.CS_CTRL (s.fld (entReg e) 5 0)) 3) &&
    decide (50 ≤ per) && decide (per ≤ 60000000)

/-- The sleep state is not RUN. -/
def State.asleep (s : State) : Bool := s.fld Reg.PM_SLEEPSTAT 1 0 != 0 || s.power.off

/-- The checks of an entry, in the order in which one is reported (R432). -/
def State.sleepFails (s : State) (t : Nat) : List CfgFail :=
  failIf (t == 0) 0x05 7 ++
  failIf (s.phase != 2 && s.phase != 3) 0x08 7 s.phase ++
  failIf (s.flag Reg.PM_OPSTAT 31 || s.power.entry.isSome || s.asleep) 0x01 7 ++
  (match s.arb.granted with | h :: _ => [⟨0x06, 7, h.act⟩] | [] => []) ++
  failIf (s.lowestPwm.isSome) 0x92 7 ++
  failIf ((List.range 52).any fun c => s.cellState c != 0) 0x93 7 ++
  failIf (t == 1 && !s.crocusOk) 0x94 10 ++
  failIf ((t == 1 || t == 2) && s.fld Reg.PM_WAKEEN 4 1 == 0) 0x96 9

/-- The part as a cold reset leaves it: flash, ledger and OTP keep their contents (R12). -/
def State.coldKeep (s : State) : State :=
  let kept (k : Nat) : Bool := decide (k < 0x10100000)
  { State.reset with
    mem := { bytes := s.mem.bytes.filter fun p => kept p.1, flips := s.mem.flips.filter fun p => kept (4 * p.1) }
    flash := { torn := s.flash.torn }
    repairs := s.repairs
    pending := s.pending
    free := s.free }

/-- A cold reset: what a flash bank or the ledger service was writing is cut short (R12, R377, R383). -/
def State.coldReset (s : State) : State := (((s.ledgerSync s.now).flashCut 0).flashCut 1).coldKeep

/-- A write of PM_SLEEP (R432). In OFF every domain is gated and nothing but flash, ledger and OTP is kept. -/
def State.sleepWrite (s : State) (v : Word) : State :=
  let t := fieldOf v 1 0
  match s.sleepFails t with
  | f :: _ => s.cfgFail Reg.PM_CFGCHK f
  | [] =>
    let s := (s.cfgOk Reg.PM_CFGCHK).setFld Reg.PM_SLEEPSTAT 6 4 0
    if t = 3 then
      let s := s.coldReset
      { s with power := { s.power with off := true } }
    else { s with power := { s.power with entry := some t } }

/-- CROCUS_ENTRY, SNOWDROP_ENTRY, OFF_ENTRY (R431, R432). -/
def execCrocusEntry (s : State) : Result := .next (s.sleepWrite 1)
def execSnowdropEntry (s : State) : Result := .next (s.sleepWrite 2)
def execOffEntry (s : State) : Result := .next (s.sleepWrite 3)

/-- Record k has stopped for a sleep entry with its hold queue released, or does not execute. -/
def Core.stopped (c : Core) : Bool :=
  match c.run with
  | .hold => c.release == 0 && c.releaseSb == 0 && c.sb.isEmpty
  | .off | .halt => true
  | _ => false

/-- Every pair not HALTED has stopped (E1). -/
def State.pairsStopped (s : State) : Bool :=
  (List.range 4).all fun k =>
    match s.lead k with
    | some r => (s.core r).stopped
    | none => true

/-- The clocks that come from the PLL stop; DEVTIME goes to the crystal where it oscillates (R40, R43). -/
def State.pllStop (s : State) : State :=
  let w := s.reg Reg.MG_CLKSTAT
  let w := withField (withField w 2 0 0) 3 3 (fieldOf w 4 4)
  State.setReg { s with clk := { s.clk with run := false } } Reg.MG_CLKSTAT w

/-- GAP is set and GAPTICKS starts (R436). -/
def State.gapStart (s : State) : State := (s.setFlag Reg.PM_DTGAP 31 true).setFld Reg.PM_DTGAP 29 0 0

/-- What a home pad does, held or driven (R437). -/
def padCode (p : PadLevel) : Nat := match p with | .hiZ => 0 | .level false => 1 | .level true => 2
def State.homePad (s : State) (n : Nat) (b : Bool) : PadLevel :=
  if s.flag Reg.PM_PADHOLD (8 + n / 16) then
    match mapGet 0 s.power.latch.pwm (2 * n + bit b) with
    | 1 => .level false
    | 2 => .level true
    | _ => .hiZ
  else s.pwmPad n b

/-- E4: every bank not yet held keeps its level and output enable (R437). -/
def State.holdPads (s : State) : State :=
  let held := s.fld Reg.PM_PADHOLD 14 0
  let fresh (b : Nat) : Bool := held / 2 ^ b % 2 == 0
  let old := s.power.latch
  let pins := (List.range 256).foldl (fun m k => if fresh (k / 32) then mapSet 0 m k (s.pinConfig k) else m) old.pins
  let pwm := (List.range 192).foldl (fun m i =>
    if fresh (8 + i / 32) then mapSet 0 m i (padCode (s.pwmPad (i / 2) (i % 2 == 1))) else m) old.pwm
  let latch : PadLatch :=
    { pins := pins, pwm := pwm, hd := if fresh 14 then s.hp.hd else old.hd, hint := if fresh 14 then s.hintn else old.hint }
  State.setFld { s with power := { s.power with latch := latch } } Reg.PM_PADHOLD 14 0 0x7FFF

/-- A core in sleep: its caches are lost (R433). -/
def Core.cacheLost (c : Core) : Core := { c with dcache := [], icache := [], invDue := none }

/-- SLEEP_PAIRS_STOPPED (R432, R433, R436): E1 to E5. Everything whose DOMCTL bit is 1 keeps its contents in the
retention latches or in retention; a gated domain holds nothing already. -/
def execSleepPairsStopped (s : State) : Result :=
  match s.power.entry with
  | none => .next s
  | some t =>
    if !s.pairsStopped then .next s
    else
      let s := s.holdPads
      let s := { s with
        power := { s.power with entry := none, waking := false, sampling := false }
        cores := s.cores.map fun (p : Nat × Core) => (p.1, p.2.cacheLost) }
      let s := (s.setReg Reg.PM_DOMSTAT0 0).setReg Reg.PM_DOMSTAT1 (s.reg Reg.PM_DOMSTAT1 &&& 0x80400000)
      let s := (s.setFld Reg.PM_SLEEPSTAT 6 4 5).setFld Reg.PM_SLEEPSTAT 1 0 t
      let s := s.pllStop
      .next (if s.flag Reg.MG_CLKSTAT 4 then s else s.gapStart)

/-! Wake (R434, R436). -/

/-- `n` ticks of the sleep clock pass: the crystal moves DEVTIME (R43), or the RC oscillator counts GAPTICKS (R436). -/
def State.sleepTicks (s : State) (n : Nat) : State :=
  if s.clk.run then s
  else if s.flag Reg.MG_CLKSTAT 3 then
    let f := s.clk.dtFrac + n
    { s with clk := { s.clk with
      devtime := s.clk.devtime + BitVec.ofNat 64 (12207 * n + f / 32), dtFrac := f % 32 } }
  else if s.flag Reg.PM_DTGAP 31 && s.asleep then s.satAdd Reg.PM_DTGAP 29 0 n
  else s

/-- Pairs that stopped at a checkpoint for a sleep entry go on from it; the interval and the channels' timeouts do not
count the time asleep. -/
def State.sleepResume (s : State) : State :=
  let s := { s with
    cores := s.cores.map fun (p : Nat × Core) => (p.1, if p.2.run = .hold then { p.2 with run := .run, timerAt := s.now } else p.2)
    dmas := s.dmas.map fun (p : Nat × DmaChan) => (p.1, { p.2 with progress := s.now }) }
  [0, 1].foldl State.rdSync s

/-- A full wake begins with cause `src`. -/
def State.wakeBegin (s : State) (src : Nat) : State :=
  let s := { s with power := { s.power with waking := true, sampling := false } }
  s.setFld Reg.PM_SLEEPSTAT 10 8 src

/-- The source wakes from the state: TIMER in Snowdrop only, CROCUS in Crocus only (R431). -/
def State.wakes (s : State) (src state : Nat) : Bool :=
  s.flag Reg.PM_WAKEEN src && !(src == 2 && state != 2) && !(src == 3 && state != 1)

/-- WAKE_EVENT (R431, R434): from OFF a cold reset; before E4 the entry is abandoned; from a sleep state a wake starts. -/
def execWakeEvent (src : Fin 5) (ticks : Nat) (s : State) : Result :=
  if s.power.off then .next (if src = 0 then s.coldReset else s)
  else
    match s.power.entry with
    | some t =>
      if s.wakes src t then
        let s := State.sleepResume { s with power := { s.power with entry := none } }
        .next ((s.setFlag Reg.PM_SLEEPSTAT 11 true).setFld Reg.PM_SLEEPSTAT 10 8 src)
      else .next s
    | none =>
      let s := s.sleepTicks ticks
      if s.asleep && !s.power.waking && s.wakes src (s.fld Reg.PM_SLEEPSTAT 1 0) then .next (s.wakeBegin src) else .next s

/-- SNOWDROP_TIMER (R431). -/
def execSnowdropTimer (ticks : Nat) (s : State) : Result :=
  let s := s.sleepTicks ticks
  if s.fld Reg.PM_SLEEPSTAT 1 0 = 2 ∧ !s.power.waking ∧ s.wakes 2 2 then .next (s.wakeBegin 2) else .next s

/-- WAKE_COMPLETE (R433, R434): once the root is on the PLL, domains return, pairs and channels go on. -/
def execWakeComplete (s : State) : Result :=
  if !(s.power.waking && s.clk.run) then .next s
  else
    let s := { s with power := { s.power with waking := false } }
    let s := (s.setReg Reg.PM_DOMSTAT0 (s.reg Reg.PM_DOMCTL0)).setReg Reg.PM_DOMSTAT1 (s.reg Reg.PM_DOMCTL1)
    let s := (s.setFld Reg.PM_SLEEPSTAT 1 0 0).sleepResume
    .next ((s.pulseLine 386).raiseNow 0x773)

/-- X32OK_FALL (R436): DEVTIME holds and the gap is counted. -/
def execX32okFall (ticks : Nat) (s : State) : Result :=
  let s := s.sleepTicks ticks
  let was := s.flag Reg.MG_CLKSTAT 3
  let s := (s.setFlag Reg.MG_CLKSTAT 4 false).setFlag Reg.MG_CLKSTAT 3 false
  .next (if was && s.asleep then s.gapStart else s)

/-! Crocus sampling (R435). -/

/-- CROCUS_SAMPLING_WAKE: the group and SO are powered, window states are set to IN. -/
def execCrocusSamplingWake (ticks : Nat) (s : State) : Result :=
  let s := s.sleepTicks ticks
  if s.fld Reg.PM_SLEEPSTAT 1 0 = 1 ∧ !s.power.waking ∧ !s.power.sampling then
    let g := s.fld Reg.PM_CROCUS 1 0
    let s := { s with power := { s.power with sampling := true } }
    let s := (s.setDom (0x19 + g) true).setDom domSo true
    let s := (List.range 16).foldl (fun s j => s.winOff (16 * g + j)) s
    .next (s.modInc Reg.PM_SLEEPSTAT 31 16)
  else .next s

/-- The ring of a slice as the first `n` codes leave it. -/
def State.crocusRing (s : State) (slice n : Nat) (codes : List (BitVec 4)) : State :=
  let m := min n codes.length
  s.setSlice slice { s.slice slice with ring := ((codes.take m).reverse).take 256, ringAt := m }

/-- One round of results after `n` codes: each slice is evaluated once, each served entry takes the word. The second part
is the first slice with an exit result. -/
def State.crocusRound (s : State) (codes : List CrocusCodes) (n : Nat) (hit : Option Nat) : State × Option Nat :=
  let g := s.fld Reg.PM_CROCUS 1 0
  let s := codes.foldl (fun s c => s.crocusRing (if c.slice = 16 then 64 + g else 16 * g + c.slice) n c.codes) s
  let ents := s.crocusEntries
  (List.range 16).foldl (fun (s, hit) j =>
    let x := 16 * g + j
    let mine := ents.filter fun e => s.fld (entReg e) 5 0 == x
    if mine.isEmpty then (s, hit)
    else
      let sub := s.substAt x (n - 46)
      let (v, clip) := s.fastValueAt x (n - 46) 32
      let ovl := codes.any fun c => c.slice.val == (if sub then 16 else j) && c.ovld
      let (s, exit) := s.winEval x v
      let s := mine.foldl (fun s e => s.putFast e sub (clip || ovl) exit x v) s
      (s, if exit && hit.isNone then some j else hit)) (s, hit)

/-- The end of a decision: the slices' rings are put back, and the slice of the first exit result is shown. -/
def State.crocusEnd (s : State) (before : SMap Slice) (g : Nat) (hit : Option Nat) : State :=
  let s := (List.range 17).foldl (fun s j =>
    let x := if j = 16 then 64 + g else 16 * g + j
    let r := mapGet {} before x
    s.setSlice x { s.slice x with ring := r.ring, ringAt := r.ringAt }) s
  let s := { s with power := { s.power with sampling := false } }
  match hit with | some j => s.setFld Reg.PM_SLEEPSTAT 15 12 j | none => s

/-- CROCUS_DECISION: the results of k = 0 to CRN, then a full wake or the group and SO gated again. -/
def execCrocusDecision (codes : List CrocusCodes) (ticks : Nat) (s : State) : Result :=
  let s := s.sleepTicks ticks
  if !s.power.sampling then .next s
  else
    let g := s.fld Reg.PM_CROCUS 1 0
    let before := s.conv.slices
    let (s, hit) := (List.range (s.fld Reg.PM_CROCUS 7 4 + 1)).foldl
      (fun (s, hit) k => s.crocusRound codes (256 + 32 * k) hit) (s, none)
    let s := s.crocusEnd before g hit
    if hit.isSome && s.wakes 3 1 then .next (s.wakeBegin 3)
    else .next ((s.setDom (0x19 + g) false).setDom domSo false)

/-! Pad hold (R437). -/

/-- The domain of a hold bank: IO0 to IO7, PG0 to PG5, the Odoon port. -/
def holdDom (b : Nat) : Nat := if b < 8 then 0x36 + b else if b < 14 then 0x11 + (b - 8) else 0x34

/-- A write of PM_PADREL: held banks are released; one whose domain is gated stays held. -/
def State.padrelWrite (s : State) (v : Word) : State :=
  let bs := (List.range 15).filter fun b => bitOf v b
  let bad := bs.filter fun b => !s.domOn (holdDom b)
  let s := match bad with
    | b :: _ => s.cfgFail Reg.PM_CFGCHK ⟨0x02, 0xFF, holdDom b⟩
    | [] => if bs.isEmpty then s else s.cfgOk Reg.PM_CFGCHK
  (bs.filter fun b => s.domOn (holdDom b)).foldl (fun s b => s.setFlag Reg.PM_PADHOLD b false) s

/-- PAD_RELEASE (R437). -/
def execPadRelease (v : BitVec 32) (s : State) : Result := .next (s.padrelWrite v)

/-- A write of PM_WAKEEN, PM_CROCUS, PM_CRPER or the W1C bits of the power manager's status registers. -/
def State.pmWrite (s : State) (a : Nat) (v : Word) : State := s.store a Reg.PM_CFGCHK false v

end Sys2Proof.Machine
end

