-- ==== Sys2Proof/Machine/Access.lean ====
section
/-! DEFINITION. Accesses to memories through the crossbar (R45 to R54, R159, R284, R343 to R353, R366, R367, R380). The
registers are in Bus. -/

namespace Sys2Proof.Machine

/-- How an access ends: served, a decode error (R53), an error response with data 0, an uncorrectable or unwritten word
(R348), or a core's data read of an execute-only region (R367). -/
inductive BusRes where
  | ok | decode | error | uncorr | xo
deriving DecidableEq, Repr

/-- The crossbar port of a master (R45, R359). -/
def portOf (m : Master) : Nat :=
  match m with
  | .core n => n
  | .dma e => 4 + e.val
  | .host | .pcie => 6
  | .mgmt | .debug => 7

/-- The master is a core; the management core. -/
def isCore (m : Master) : Bool := match m with | .core _ => true | _ => false
def isMgmt (m : Master) : Bool := m == .mgmt

/-- The answer of a read: its value and how it ends. -/
abbrev Ans := State × Nat × BusRes

/-- A read of n bytes of the code flash, inside one page. -/
def State.flashAccess (s : State) (m : Master) (a n : Nat) : Ans :=
  let (b, off) := s.flashPlace a
  if !s.domOn (domBank b) then (s, 0, .decode)
  else if s.xoHit b off && !isMgmt m then
    if isCore m then (s, 0, .xo) else (s.xoViolation a, 0, .ok)
  else
    match s.flashRead a n with
    | (s, .ok v) => (s, v, .ok)
    | (s, .busy) => (s, 0, .error)
    | (s, .uncorr) => (s, 0, .uncorr)

/-- A read of a loop cell's memory: aligned 32-bit words only (R158, R159). -/
def State.cellAccess (s : State) (c a n : Nat) : Ans :=
  let off := a % 0x10000
  if !s.domOn (domCell c) || n != 4 || a % 4 != 0 then (s, 0, .decode)
  else if !(decide (off < 0x2000) || decide (0x4000 ≤ off) && decide (off < 0x6000)) then (s, 0, .ok)
  else
    match popcount (s.flipsAt a) with
    | 0 => (s, s.bytesAt a 4, .ok)
    | 1 =>
      (State.lcCorrected { s with mem := { s.mem with flips := mapErase s.mem.flips (a / 4) } } c, s.bytesAt a 4, .ok)
    | _ => (s, 0, .error)

/-- A read of n bytes inside one aligned 64-bit word of a memory. `ext` is what the outside answers through the PCIe
window. The identity seed reads 0 (R404). -/
def State.readPiece (s : State) (m : Master) (a n ext : Nat) : Ans :=
  let ofCheck (r : State × MemRes) : Ans := match r with | (s, .ok) => (s, s.bytesAt a n, .ok) | (s, _) => (s, 0, .uncorr)
  match regionOf a with
  | .bootFlash | .otherFlash | .bankA | .bankB => s.flashAccess m a n
  | .otp => (s, if 0x08008400 ≤ a / 8 * 8 ∧ a < 0x08008420 then 0 else s.bytesAt a n, .ok)
  | .ledger =>
    match s.ledgerReadBytes a n with
    | (s, some v) => (s, v, .ok)
    | (s, none) => (s, 0, .uncorr)
  | .sram => if !s.domOn (domMem a) then (s, 0, .decode) else ofCheck (s.pageCheck a (portOf m))
  | .mapStore => if !s.domOn (domMem a) then (s, 0, .decode) else ofCheck ((s.msSettle a).pageCheck a (portOf m))
  | .tcm _ =>
    if !s.domOn (domMem a) then (s, 0, .decode)
    else match s.tcmRead a n (portOf m) with
      | (s, some v) => (s, v, .ok)
      | (s, none) => (s, 0, .uncorr)
  | .cell c _ => s.cellAccess c a n
  | .pcie => if !s.domOn 0x32 then (s, 0, .decode) else if s.pcie.up then (s, ext % 256 ^ n, .ok) else (s, 0, .error)
  | _ => (s, 0, .decode)

/-- A write of n bytes inside one aligned 64-bit word of a memory. A write to the flash windows stores nothing; the OTP
window is read-only (R404); the secondary's TCM takes no write while a JOIN copies (R341). -/
def State.writePiece (s : State) (m : Master) (a n v : Nat) : State × BusRes :=
  let done (r : State × Bool) : State × BusRes := (r.1, if r.2 then .ok else .error)
  match regionOf a with
  | .bootFlash | .otherFlash | .bankA | .bankB =>
    (s, if s.domOn (domBank (s.flashPlace a).1) then .ok else .decode)
  | .otp => (s, .ok)
  | .ledger => done (s.ledgerWrite a n v (isMgmt m))
  | .sram => if !s.domOn (domMem a) then (s, .decode) else done ((s.untag a n).pageWrite a n v (portOf m))
  | .mapStore => if !s.domOn (domMem a) then (s, .decode) else done (s.msWindowWrite a n v (portOf m))
  | .tcm t =>
    if !s.domOn (domMem a) || t % 2 == 1 && s.joining (t / 2) then (s, .decode) else done (s.tcmWrite a n v (portOf m))
  | .cell c off =>
    if !s.domOn (domCell c) || n != 4 || a % 4 != 0 then (s, .decode)
    else if off < 0x2000 then (s.lcWindowWrite c false (off / 4) (BitVec.ofNat 32 v), .ok)
    else if 0x4000 ≤ off ∧ off < 0x6000 then (s.lcWindowWrite c true (off % 0x4000 / 4) (BitVec.ofNat 32 v), .ok)
    else (s, .ok)
  | .pcie => (s, if s.domOn 0x32 then .ok else .decode)
  | _ => (s, .decode)

/-- The pieces of n bytes at a that lie in one aligned 64-bit word each: address, length, offset from a. Cell memories
take 32-bit words. -/
def pieces (a n : Nat) : List (Nat × Nat × Nat) :=
  match regionOf a with
  | .cell _ _ => if a % 4 = 0 ∧ n % 4 = 0 then (List.range (n / 4)).map fun i => (a + 4 * i, 4, 4 * i) else [(a, n, 0)]
  | _ =>
    (List.range ((a % 8 + n + 7) / 8)).map fun i =>
      let lo := max a (a / 8 * 8 + 8 * i)
      let hi := min (a + n) (a / 8 * 8 + 8 * i + 8)
      (lo, hi - lo, lo - a)

/-- The worse of two answers: the first that is not `ok`. -/
def BusRes.and (x y : BusRes) : BusRes := if x = .ok then y else x

/-- Read n bytes of memory, lowest address least significant; every piece is read. -/
def State.memRead (s : State) (m : Master) (a n ext : Nat) : Ans :=
  (pieces a n).foldl (fun (s, v, r) (b, k, sh) =>
    let (s, w, q) := s.readPiece m b k (ext / 256 ^ sh)
    (s, v + w * 256 ^ sh, r.and q)) (s, 0, .ok)

/-- Write n bytes of memory in ascending order. -/
def State.memWrite (s : State) (m : Master) (a n v : Nat) : State × BusRes :=
  (pieces a n).foldl (fun (s, r) (b, k, sh) =>
    let (s, q) := s.writePiece m b k (v / 256 ^ sh % 256 ^ k)
    (s, r.and q)) (s, .ok)

end Sys2Proof.Machine
end

