-- ==== Sys2Proof/Machine/Mcode.lean ====
section
/-! DEFINITION. The MCODE block: staging area, match registers, arming, cancelling and installing a patch (R311, R312,
R318 to R323). A patch is opaque: a patched routine keeps its architectural meaning (log). -/

namespace Sys2Proof.Machine

/-- Base of the staged microwords and nano-words (R318). -/
def mcStage : Nat := 0x70061000

/-- Bits a staging-area word keeps: microwords [19:0], the last word of a nano-word [15:0]. -/
def stageMask (a : Nat) : Word :=
  if a < 0x70061400 then 0x000FFFFF else if a / 4 % 4 = 3 then 0x0000FFFF else 0xFFFFFFFF

/-- FIELD of a register or staging word of the block. -/
def mcField (a : Nat) : Nat :=
  if a < 0x70061000 then a % 0x1000 / 4 else if 0x70061C00 ≤ a then 0x80 + a % 0x400 / 4 else 0xFF

/-- Two enabled match registers name the same MADDR: the lowest second one. -/
def State.matchDup (s : State) : Option Nat :=
  (List.range 32).find? fun k =>
    s.flag (Reg.MCODE_MATCH k) 31 && (List.range k).any fun j =>
      s.flag (Reg.MCODE_MATCH j) 31 && s.fld (Reg.MCODE_MATCH j) 12 0 == s.fld (Reg.MCODE_MATCH k) 12 0

/-- The pairs of an ARM mask. -/
def armPairs (m : Nat) : List Nat := [0, 1].filter fun p => m / 4 ^ p % 4 != 0

/-- The checks of a write that sets ARM bits: `arm` are the bits as the write leaves them (R323). -/
def State.armFails (s : State) (arm new : Nat) : List CfgFail :=
  failIf ((armPairs new).any fun p => !s.arbHeld 8 p) 0x06 0 8 ++
  failIf ([0, 1].any fun p => s.pairMode p == 0 && (arm / 4 ^ p % 4 == 1 || arm / 4 ^ p % 4 == 2)) 0xDA 0 ++
  (match s.matchDup with | some k => [⟨0xD8, 0x80 + k, 0⟩] | none => []) ++
  failIf ((List.range 256).any fun i =>
    let w := s.word (mcStage + 4 * i)
    decide (0x480 ≤ fieldOf w 19 9) || fieldOf w 6 0 != 0) 0xD9 0xFF

/-- A pair with no ARM bit left gives its MCODE_PATCH back; with none at all the staging area unlocks (R320, R416). -/
def State.armDone (s : State) : State :=
  let arm := s.fld Reg.MCODE_CTRL 3 0
  let gone := s.mg.patches.filter fun r => r.armed && arm / 4 ^ r.pair % 4 == 0
  let s := gone.foldl (fun s r => s.arbRelease r.ticket) s
  let s := { s with mg := { s.mg with patches := s.mg.patches.filter fun r => !(r.armed && arm / 4 ^ r.pair % 4 == 0) } }
  if arm = 0 then s.setFlag Reg.MCODE_STAT 0 false else s

/-- A write of MCODE_CTRL: bits cleared cancel, bits set arm after the checks (R319, R320). -/
def State.armWrite (s : State) (v : Word) : State :=
  let old := s.fld Reg.MCODE_CTRL 3 0
  let arm := fieldOf v 3 0
  let new := arm &&& (15 - old)
  if new = 0 then (s.setFld Reg.MCODE_CTRL 3 0 arm).armDone
  else
    match pickFail (s.armFails arm new) with
    | some f => s.cfgFail Reg.MCODE_CFGCHK f
    | none => (((s.setFld Reg.MCODE_CTRL 3 0 arm).setFlag Reg.MCODE_STAT 0 true).cfgOk Reg.MCODE_CFGCHK).armDone

/-- A write to the MCODE block (R318, R319). -/
def State.mcodeWrite (s : State) (a : Nat) (v : Word) (mgmt : Bool) : State :=
  if a = Reg.MCODE_STAT then s.store a Reg.MCODE_CFGCHK false v
  else if !(a == Reg.MCODE_CTRL || a == Reg.MCODE_STAGEVER || a == Reg.MCODE_STAGEDIG ||
      decide (mcStage ≤ a) && decide (a < 0x70061C80)) then s
  else if !mgmt then s.setFlag Reg.MCODE_STAT 9 true
  else if a = Reg.MCODE_CTRL then s.armWrite v
  else if s.flag Reg.MCODE_STAT 0 then s.cfgFail Reg.MCODE_CFGCHK ⟨0x0A, mcField a, 0⟩
  else if mcStage ≤ a ∧ a < 0x70061C00 then s.setWord a (v &&& stageMask a)
  else s.store a Reg.MCODE_CFGCHK false v

/-- A read of the staging area by another master than the management core returns 0 (R318). -/
def State.stageRead (s : State) (a : Nat) (mgmt : Bool) : Word := if mgmt then s.word a else 0

/-- PATCH_ARM and PATCH_CANCEL (R319, R320). -/
def execPatchArm (v : BitVec 32) (mgmt : Bool) (s : State) : Result :=
  .next (s.mcodeWrite Reg.MCODE_CTRL (BitVec.ofNat 32 (s.fld Reg.MCODE_CTRL 3 0) ||| v) mgmt)
def execPatchCancel (v : BitVec 32) (mgmt : Bool) (s : State) : Result :=
  .next (s.mcodeWrite Reg.MCODE_CTRL (BitVec.ofNat 32 (s.fld Reg.MCODE_CTRL 3 0) &&& ~~~v) mgmt)

/-- The staged patch as a core holds it: microwords 0 to 255, nano-word quarters 256 to 767, match registers 768 to 799. -/
def State.stagedPatch (s : State) : SMap Word :=
  let m := (List.range 768).foldl (fun m i => mapSet 0 m i (s.word (mcStage + 4 * i))) []
  (List.range 32).foldl (fun m k => mapSet 0 m (768 + k) (s.reg (Reg.MCODE_MATCH k))) m

/-- Cores that take part when record k installs: both of a lockstep pair, else its own. -/
def State.patchCores (s : State) (k : Nat) : List Nat := if s.pairMode (k / 2) = 0 then [k / 2 * 2, k / 2 * 2 + 1] else [k]

/-- Record k takes the patch: registers of its cores (R320, R321). -/
def State.patchPut (s : State) (k : Nat) (patch : SMap Word) (ver : Nat) (dig : Word) : State :=
  let s := s.onCore k fun c => { c with patch := patch }
  (s.patchCores k).foldl (fun s n => (s.setFld (Reg.MCODE_VER n) 15 0 ver).setReg (Reg.MCODE_DIGEST n) dig) s

/-- How a core goes on after a checkpoint: stalled for a patch, held for a sleep entry or an update, or running. -/
def State.afterCkpt (s : State) (k : Nat) (patched : Bool) : CoreRun :=
  if !patched && s.flag Reg.MCODE_CTRL k then .patch
  else if s.power.entry.isSome || (s.mg.live.any fun l => l.waiting.contains (k / 2)) then .hold
  else .run

/-- The end of record k's install: the patch in place, or the core's own match registers off where the read-back failed. -/
def State.patchEnd (s : State) (k : Nat) (ok : Bool) : State :=
  let cores := s.patchCores k
  let s :=
    if ok then
      let s := s.patchPut k s.stagedPatch (s.fld Reg.MCODE_STAGEVER 15 0) (s.reg Reg.MCODE_STAGEDIG)
      let s := cores.foldl (fun s c => s.setFlag Reg.MCODE_STAT (4 + c) true) s
      { s with mg := { s.mg with mcode := s.mg.staged } }
    else
      let old := (s.core k).patch
      let off := (List.range 32).foldl (fun m i => mapSet 0 m (768 + i) (withField (mapGet 0 m (768 + i)) 31 31 0)) old
      (s.patchPut k off 0 0).setFlag Reg.MCODE_STAT 8 true
  let s := (cores.foldl (fun s c => s.setFlag Reg.MCODE_CTRL c false) s).armDone
  s.onCore k fun c => { c with run := s.afterCkpt k true }

/-- PATCH_INSTALL (R320, R321): copied and read back, `ok` where the read-back agrees. -/
def execPatchInstall (n : Fin 4) (ok : Bool) (s : State) : Result :=
  match s.lead n with
  | some k =>
    if !((s.core k).run == .patch && (s.core k).sb.isEmpty) then .next s
    else .next ((s.advanceTo (s.now + s.coreTime 1602)).patchEnd k ok)
  | none => .next s

end Sys2Proof.Machine
end

