-- ==== Sys2Proof/Machine/Sha3.lean ====
section
/-! DEFINITION. SHA3-256 (FIPS 202), which the spec names for images, keys and reports (R405, R406, R415). Byte strings are
numbers, first byte least significant. -/

namespace Sys2Proof.Machine

/-- A 64-bit lane rotated left. -/
def rotl64 (v n : Nat) : Nat := v * 2 ^ n % 2 ^ 64 + v / 2 ^ (64 - n)

/-- Lane (x, y) of a state of 25 lanes, at x + 5y. -/
def lane (a : List Nat) (x y : Nat) : Nat := a.getD (x % 5 + 5 * (y % 5)) 0

/-- Rotation offsets of the rho step, at x + 5y. -/
def rhoOffset : List Nat :=
  [0, 1, 62, 28, 27, 36, 44, 6, 55, 20, 3, 10, 43, 25, 39, 41, 45, 15, 21, 8, 18, 2, 61, 56, 14]

/-- Round constants of the iota step. -/
def iotaConst : List Nat :=
  [0x0000000000000001, 0x0000000000008082, 0x800000000000808A, 0x8000000080008000, 0x000000000000808B,
    0x0000000080000001, 0x8000000080008081, 0x8000000000008009, 0x000000000000008A, 0x0000000000000088,
    0x0000000080008009, 0x000000008000000A, 0x000000008000808B, 0x800000000000008B, 0x8000000000008089,
    0x8000000000008003, 0x8000000000008002, 0x8000000000000080, 0x000000000000800A, 0x800000008000000A,
    0x8000000080008081, 0x8000000000008080, 0x0000000080000001, 0x8000000080008008]

/-- One round of Keccak-f[1600]. -/
def keccakRound (a : List Nat) (rc : Nat) : List Nat :=
  let c := (List.range 5).map fun x => (List.range 5).foldl (fun w y => w ^^^ lane a x y) 0
  let d := (List.range 5).map fun x => c.getD ((x + 4) % 5) 0 ^^^ rotl64 (c.getD ((x + 1) % 5) 0) 1
  let b := (List.range 25).map fun i =>
    let x := (i % 5 + 3 * (i / 5)) % 5
    let y := i % 5
    rotl64 (lane a x y ^^^ d.getD x 0) (rhoOffset.getD (x + 5 * y) 0)
  (List.range 25).map fun i =>
    let w := lane b (i % 5) (i / 5) ^^^ ((2 ^ 64 - 1 - lane b (i % 5 + 1) (i / 5)) &&& lane b (i % 5 + 2) (i / 5))
    if i = 0 then w ^^^ rc else w

/-- Keccak-f[1600]. -/
def keccakF (a : List Nat) : List Nat := iotaConst.foldl keccakRound a

/-- SHA3-256 of n bytes, as the number of its 32 bytes. -/
def sha3 (v n : Nat) : Nat :=
  let len := (n / 136 + 1) * 136
  let m := v % 256 ^ n + 6 * 256 ^ n + 0x80 * 256 ^ (len - 1)
  let a := (List.range (n / 136 + 1)).foldl (fun a i =>
    let block := m / 256 ^ (136 * i)
    keccakF (a.zipIdx.map fun p => if p.2 < 17 then p.1 ^^^ (block / 2 ^ (64 * p.2) % 2 ^ 64) else p.1)) (List.replicate 25 0)
  (List.range 4).foldl (fun w i => w + a.getD i 0 % 2 ^ 64 * 2 ^ (64 * i)) 0

end Sys2Proof.Machine
end

