-- ==== Sys2Proof/Machine/Image.lean ====
section
/-! DEFINITION. Franked images: reading, verification, load maps (R404 to R407, R411). -/

namespace Sys2Proof.Machine

/-! OTP (R404). -/

/-- REVOKED, and SVNCTR: the number of thermometer bits at 1. -/
def State.revoked (s : State) (k : Nat) : Bool := (s.byte 0x08008080).toNat / 2 ^ k % 2 == 1
def State.svnctr (s : State) : Nat := ((List.range 64).filter fun i => s.bytesAt 0x08008088 8 / 2 ^ i % 2 == 1).length

/-- The identity seed, and the public identity key (R414). -/
def State.seed (s : State) : Nat := s.bytesAt 0x08008400 32
def State.identity (s : State) : Nat := Config.mldsaPublic s.seed

/-- Public key of slot k, and its digest in OTP. -/
def State.slotKey (s : State) (k : Nat) : Nat := s.bytesAt (0x08000000 + 0x800 * k) 1312
def State.slotDigest (s : State) (k : Nat) : Nat := s.bytesAt (0x08008000 + k * 0x20) 32

/-! Reading an image (R405, R406). -/

/-- The address through the fixed alias of its bank. -/
def State.aliasOf (s : State) (a : Nat) : Nat :=
  if a < 0x01000000 then
    let (b, off) := s.flashPlace a
    flashAddr b off
  else a

/-- The region an image may lie in, as its bounds. -/
def imgRegion (a : Nat) : Option (Nat × Nat) :=
  if mgmtRam ≤ a then some (mgmtRam, mgmtRam + 0x40000)
  else match regionOf a with
    | .bankA => some (0x04000000, 0x04800000)
    | .bankB => some (0x04800000, 0x05000000)
    | .ledger => some (0x10000000, 0x10100000)
    | .sram => some (0x20000000, 0x20800000)
    | .tcm t => some (tcmBase t, tcmBase (t + 1))
    | _ => none

/-- Read n bytes of an image; none where a page, a word or the bank cannot be read. -/
def State.imgRead (s : State) (a n : Nat) : State × Option Nat :=
  match regionOf a with
  | .bankA | .bankB =>
    let (b, off) := s.flashPlace a
    if !s.domOn (domBank b) then (s, none)
    else
      let (s, ok) := (List.range ((off % 512 + n + 511) / 512)).foldl (fun (s, ok) i =>
        let o := off / 512 * 512 + 512 * i
        if s.flashBusy b o then (s.setFlag (Reg.FC_STAT b) 5 true, false)
        else
          let (s, r) := s.flashDecode b o (flashAddr b o)
          (s, ok && r != .uncorr)) (s, true)
      (s, if ok then some (s.bytesAt a n) else none)
  | .outside => (s, some (s.bytesAt a n))
  | _ =>
    match s.memRead .mgmt a n 0 with
    | (s, v, .ok) => (s, some v)
    | (s, _, _) => (s, none)

/-- A load-map entry in use: payload offset, length, destination. -/
structure LoadSeg where
  off : Nat
  len : Nat
  dst : Nat
deriving DecidableEq, Repr

/-- An accepted image. -/
structure Img where
  addr : Nat
  kind : Nat
  slot : Nat
  version : Nat
  svn : Nat
  length : Nat
  entry0 : Nat
  entry1 : Nat
  bound : Bool
  digest : Nat
  segs : List LoadSeg
deriving DecidableEq, Repr

/-- The outcome of a verification: the image, or the code of its refusal. -/
inductive ImgRes where
  | ok (i : Img)
  | bad (code : Nat)
deriving DecidableEq, Repr

/-- Bytes lo to lo + n - 1 of a header. -/
def hdr (h lo n : Nat) : Nat := h / 256 ^ lo % 256 ^ n

/-- The used entries of a load map. -/
def hdrSegs (h : Nat) : List LoadSeg :=
  ((List.range 8).map fun i => (⟨hdr h (64 + 16 * i) 4, hdr h (68 + 16 * i) 4, hdr h (72 + 16 * i) 4⟩ : LoadSeg)).filter (·.len != 0)

/-- A range of the map store meets the BASE area of a valid descriptor (R407). -/
def State.hitsBase (s : State) (lo hi : Nat) : Bool :=
  (List.range 64).any fun k =>
    s.flag (Reg.MS_TD_SHAPE k) 31 && (List.range (s.tdNy k)).any fun j =>
      let w := 0x40000000 + 4 * (s.fld (Reg.MS_TD_BASE k) 15 0 + j * s.tdStride k)
      decide (w < hi) && decide (lo < w + 4 * s.tdNx k)

/-- A load-map entry keeps R407 for an image at a. -/
def State.segOk (s : State) (kind a len entry0 : Nat) (g : LoadSeg) : Bool :=
  let fits (lo hi : Nat) : Bool := decide (lo ≤ g.dst) && decide (g.dst + g.len ≤ hi)
  decide (g.off + g.len ≤ len) &&
  match kind with
  | 1 => fits 0 0x40000
  | 2 => fits 0x20000000 0x20800000 || ((List.range 4).any fun t => fits (tcmBase t) (tcmBase (t + 1))) ||
      (fits 0x04000000 0x05000000 && g.dst == a + 256 + g.off)
  | 3 => decide (entry0 < 52) && (fits (lcProg entry0 0) (lcProg entry0 0 + 0x2000) || fits (lcData entry0 0) (lcData entry0 0 + 0x2000))
  | 4 => fits 0x40000000 0x40040000 && !s.hitsBase g.dst (g.dst + g.len)
  | 5 => fits mcStage 0x70061C80
  | _ => false

/-- Verify the image at address a as the expected kind, in the order of R406. -/
def State.imgVerify (s : State) (addr kind : Nat) : State × ImgRes :=
  let a := s.aliasOf addr
  match imgRegion a with
  | none => (s, .bad 0xD2)
  | some (_, hi) =>
    if hi < a + 256 then (s, .bad 0xD2)
    else
      match s.imgRead a 256 with
      | (s, none) => (s, .bad 0xD2)
      | (s, some h) =>
        let len := hdr h 16 4
        let slot := hdr h 6 1
        let bind := hdr h 28 4
        let short := decide (kind = 6 ∨ kind = 7) && len != 16
        if hdr h 0 4 != 0x464C574B || hdr h 4 2 != kind || len % 16 != 0 || decide (hi < a + 256 + len + 2420) || short then
          (s, .bad 0xD2)
        else if decide (4 ≤ slot) || s.revoked slot || sha3 (s.slotKey slot) 1312 != s.slotDigest slot then (s, .bad 0xD3)
        else if bind != 0 && bind != sha3 s.identity 1312 % 2 ^ 32 then (s, .bad 0xD3)
        else if hdr h 12 4 < s.svnctr then (s, .bad 0xD5)
        else
          match s.imgRead a (256 + len + 2420) with
          | (s, none) => (s, .bad 0xD4)
          | (s, some v) =>
            let d := sha3 (v % 256 ^ (256 + len)) (256 + len)
            if !Config.mldsaVerify (s.slotKey slot) d (v / 256 ^ (256 + len)) then (s, .bad 0xD4)
            else if (hdrSegs h).any fun g => !s.segOk kind a len (hdr h 20 4) g then (s, .bad 0xD6)
            else
              (s, .ok ⟨a, kind, slot, hdr h 8 4, hdr h 12 4, len, hdr h 20 4, hdr h 24 4, bind != 0, d, hdrSegs h⟩)

/-- The payload of an accepted image, n bytes from offset k. -/
def State.payload (s : State) (i : Img) (k n : Nat) : Nat := s.bytesAt (i.addr + 256 + k) n

/-- The load map is carried out: segments in flash are executed in place, the others are copied (R407). -/
def State.loadSegs (s : State) (i : Img) : State :=
  i.segs.foldl (fun s g =>
    let v := s.payload i g.off g.len
    if i.kind = 1 then s.setBytes (mgmtRam + g.dst) g.len v
    else if i.kind = 5 then
      (List.range ((g.len + 3) / 4)).foldl (fun s j =>
        s.mcodeWrite (g.dst / 4 * 4 + 4 * j) (BitVec.ofNat 32 (v / 2 ^ (32 * j))) true) s
    else if g.dst < 0x05000000 then s
    else (s.memWrite .mgmt g.dst g.len v).1) s

/-- The images of a bank: addresses from offset 0, up to the first that has no MAGIC (R411). -/
def State.imgWalk (s : State) (b : Nat) : Nat → Nat → List Nat
  | 0, _ => []
  | n + 1, off =>
    let a := flashAddr b off
    if 0x800000 < off + 256 ∨ s.bytesAt a 4 ≠ 0x464C574B then []
    else a :: s.imgWalk b n (4096 * ((off + 256 + s.bytesAt (a + 16) 4 + 2420 + 4095) / 4096))

/-- The addresses of a bank's images. -/
def State.images (s : State) (b : Nat) : List Nat := s.imgWalk b 2048 0

/-- The address of a bank's MGFW and of its APP; the bank's start where the walk finds none. -/
def mgfwAddr (b : Nat) : Nat := flashAddr b 0
def State.appAddr (s : State) (b : Nat) : Nat := (s.images b).getD 1 (flashAddr b 0)

/-- DETAIL of an image refusal: address bits [27:12] (R419). -/
def imgDetail (a : Nat) : Nat := a / 4096 % 65536

end Sys2Proof.Machine
end

