-- ==== Sys2Proof/Machine/Manage.lean ====
section
/-! DEFINITION. The management plane in service: phases, the maintenance arbiter's commands and grants, service commands,
live update (R402, R403, R408, R409, R414 to R422). -/

namespace Sys2Proof.Machine

/-! Phases (R403). -/

/-- A phase change: line 386 and event 0x770; perturbations go when TEST is left (R475). -/
def State.setPhase (s : State) (p : Nat) : State :=
  let s := if s.phase = 3 ∧ p ≠ 3 then s.pertClear else s
  let s := { s with mg := { s.mg with permit := none } }
  ((s.setFld Reg.MG_PHASE 2 0 p).pulseLine 386).raiseNow 0x770

/-- PERMIT_EXPIRY (R403). -/
def execPermitExpiry (s : State) : Result :=
  match s.mg.permit with
  | some e => if s.phase = 3 then .next ((s.advanceTo e).setPhase 2) else .next s
  | none => .next s

/-! The arbiter's commands (R416, R417). -/

/-- RES of an activity is in range. -/
def resOk (act res : Nat) : Bool :=
  match act with
  | 1 => decide (res ≤ 12)
  | 2 | 3 => decide (res < 4)
  | 4 => decide (res < 96)
  | 5 | 6 | 8 | 9 => decide (res < 2)
  | _ => res == 0

/-- A refused MG_MREQ or MG_MREL: MG_MANS and MG_CFGCHK. -/
def State.mreqRefuse (s : State) (code conf : Nat) : State :=
  (s.setReg Reg.MG_MANS (mansWord 3 0 conf code)).cfgFail Reg.MG_CFGCHK ⟨code, 0xFF, conf⟩

/-- A write of MG_MREQ (R416): MIGRATE from any master, the other codes from the management core only. -/
def State.mreqWrite (s : State) (v : Word) (mgmt : Bool) : State :=
  let act := fieldOf v 7 0
  let res := fieldOf v 23 16
  if s.phase = 0 then s
  else if act = 0 ∨ 10 < act ∨ (act ≠ 10 ∧ !mgmt) then s.mreqRefuse 0x05 0
  else if !resOk act res then s.mreqRefuse 0x07 0
  else
    match s.arbRequest act res with
    | (.refused code conf, s) => s.cfgFail Reg.MG_CFGCHK ⟨code, 0xFF, conf⟩
    | (_, s) => s.cfgOk Reg.MG_CFGCHK

/-- MAINT_REQUEST (R417). -/
def execMaintRequest (v : BitVec 32) (mgmt : Bool) (s : State) : Result := .next (s.mreqWrite v mgmt)

/-- A write of MG_MREL (R417). -/
def State.mrelWrite (s : State) (v : Word) : State :=
  let t := fieldOf v 7 0
  if s.phase = 0 then s
  else if (s.arb.granted ++ s.arb.queue).any fun x => x.ticket == t then (s.arbRelease t).cfgOk Reg.MG_CFGCHK
  else s.mreqRefuse 0xD1 0

/-- MAINT_RELEASE (R417). -/
def execMaintRelease (v : BitVec 32) (s : State) : Result := .next (s.mrelWrite v)

/-- The image is staged and its pair armed (R319, R419); the code of a refused arm. -/
def State.patchArm (s : State) (r : PatchReq) : State × Nat :=
  match s.imgVerify r.image 5 with
  | (s, .bad code) => (s, code)
  | (s, .ok i) =>
    let s := s.mcodeWrite Reg.MCODE_STAGEVER (BitVec.ofNat 32 (i.version % 65536)) true
    let s := s.mcodeWrite Reg.MCODE_STAGEDIG (BitVec.ofNat 32 i.digest) true
    let s := s.loadSegs i
    let s := { s with mg := { s.mg with staged := i.digest } }
    let bits := (if s.pairMode r.pair = 2 ∧ s.coreFailed (2 * r.pair) then 2 else if s.pairMode r.pair = 2 then 1 else 3) * 4 ^ r.pair
    let s := s.mcodeWrite Reg.MCODE_CTRL (BitVec.ofNat 32 (s.fld Reg.MCODE_CTRL 3 0 ||| bits)) true
    let bad := fieldOf (s.reg Reg.MCODE_CFGCHK) 7 0
    if bad = 0 then
      ({ s with mg := { s.mg with patches := s.mg.patches.map fun x => if x.pair = r.pair then { x with armed := true } else x } }, 0)
    else
      let s := s.arbRelease r.ticket
      ({ s with mg := { s.mg with patches := s.mg.patches.filter (·.pair != r.pair) } }, bad)

/-- The outcome of the running service command; the first refusal stands. -/
def State.svcResult (s : State) (code detail : Nat) : State :=
  { s with mg := { s.mg with svc := s.mg.svc.map fun x => if x.code = 0 then { x with code := code, detail := detail } else x } }

/-- A granted activity starts (R90, R95, R108, R356, R369, R339, R419). -/
def State.granted (s : State) (t : Ticket) : State :=
  match t.act with
  | 1 => if s.mem.scrubTicket = some t.ticket then s.scrubBegin else s
  | 2 => if (s.group t.res).calTicket = some t.ticket then s.setFld (Reg.CG_CALSTAT t.res) 7 6 1 else s
  | 3 =>
    if (s.group t.res).diagTicket = some t.ticket then
      (s.setFld (Reg.CG_CALSTAT t.res) 15 14 1).setFlag (Reg.CG_DIAG t.res) 0 true
    else s
  | 4 =>
    if (s.cmp t.res).ticket = some t.ticket then (s.setFld (Reg.CMP_TEST t.res) 5 4 1).setFlag (Reg.CMP_TEST t.res) 6 true
    else s
  | 5 | 6 => if (s.bank t.res).op.any fun o => o.ticket == t.ticket then s.flashGrant t.res else s
  | 8 =>
    match s.mg.patches.find? fun r => r.ticket == t.ticket with
    | some r =>
      let (s, code) := s.patchArm r
      if code = 0 then s else s.svcResult code (imgDetail r.image)
    | none => s
  | 9 =>
    if (s.pair t.res).bist = some t.ticket then s.setPair t.res { s.pair t.res with bistRun := true, bistAt := s.now } else s
  | _ => s

/-- ARBITER_GRANT (R417): the first queued request that nothing blocks any more. -/
def execArbiterGrant (s : State) : Result :=
  match s.arbReady with
  | none => .next s
  | some t =>
    let s := { s with arb := { granted := s.arb.granted ++ [t], queue := s.arb.queue.filter (·.ticket != t.ticket) } }
    .next (((s.arbSync.pulseLine 385).raiseNow 0x771).granted t)

/-- LEDGER_COMPACT_END (R416). -/
def execLedgerCompactEnd (s : State) : Result :=
  match s.arb.granted.find? fun t => t.act == 7 with
  | some t => .next (s.arbRelease t.ticket)
  | none => .next s

/-! Service commands (R419). -/

/-- Words of MG_SVCBUF as a number of n bytes, and a write of n bytes to it. -/
def State.svcGet (s : State) (n : Nat) : Nat :=
  (List.range (n / 4)).foldl (fun v i => v + (s.reg (Reg.MG_SVCBUF i)).toNat * 2 ^ (32 * i)) 0
def State.svcPut (s : State) (v n : Nat) : State :=
  (List.range (n / 4)).foldl (fun s i => s.setReg (Reg.MG_SVCBUF i) (BitVec.ofNat 32 (v / 2 ^ (32 * i)))) s

/-- A service command has started: BUSY, its code, and no outcome yet. -/
def State.svcStarted (s : State) (op : Nat) : State :=
  let s := (s.setFlag Reg.MG_SVCSTAT 31 true).setFld Reg.MG_SVCSTAT 7 0 op
  { s with mg := { s.mg with svc := some ⟨op, 0, 0⟩ } }

/-- A write of MG_SVCCMD starts a command, or is refused with UNIT_BUSY; in COLD no firmware answers. -/
def State.svcStart (s : State) (op : Nat) (f : State → State) : State :=
  if s.phase = 0 then s
  else if s.flag Reg.MG_SVCSTAT 31 then s.cfgFail Reg.MG_CFGCHK ⟨0x01, 0xFF, 0⟩
  else f (s.svcStarted op)

/-- MG_SVCARG. -/
def State.svcArg (s : State) : Nat := (s.reg Reg.MG_SVCARG).toNat

/-- Verify an image for a service command: refused with its code and DETAIL, or used by `f`. -/
def State.svcImage (s : State) (a kind : Nat) (f : State → Img → State) : State :=
  match s.imgVerify a kind with
  | (s, .bad code) => s.svcResult code (imgDetail (s.aliasOf a))
  | (s, .ok i) => f s i

/-- The committed slots of the sets that have a record, in set order: their bytes and how many (R415). -/
def State.setsBytes (s : State) : State × Nat × Nat :=
  (List.range 256).foldl (fun (s, v, n) k =>
    match s.setRecord k with
    | (s, some (slot, _)) => (s, v + s.bytesAt (0x10000000 + 0x400 * k + slot * 0x200) 512 * 256 ^ n, n + 512)
    | (s, none) => (s, v, n)) (s, 0, 0)

/-- The entries of the BASE areas of valid descriptors, in descriptor order. -/
def State.tablesBytes (s : State) : Nat × Nat :=
  (List.range 64).foldl (fun (v, n) k =>
    if s.flag (Reg.MS_TD_SHAPE k) 31 then
      (List.range (s.tdNy k)).foldl (fun (v, n) j =>
        let a := 0x40000000 + 4 * (s.fld (Reg.MS_TD_BASE k) 15 0 + j * s.tdStride k)
        (v + s.bytesAt a (4 * s.tdNx k) * 256 ^ n, n + 4 * s.tdNx k)) (v, n)
    else (v, n)) (0, 0)

/-- The program memories of LC0 to LC51. -/
def State.progBytes (s : State) : Nat :=
  (List.range 52).foldl (fun v c => v + s.bytesAt (lcProg c 0) 0x2000 * 256 ^ (0x2000 * c)) 0

/-- A number from (value, bytes) parts, first part least significant. -/
def joinParts : List (Nat × Nat) → Nat
  | [] => 0
  | (v, n) :: r => v % 256 ^ n + 256 ^ n * joinParts r

/-- Bytes 0 to 271 of an attestation report over a nonce (R415). -/
def State.reportBytes (s : State) (nonce : Nat) : State × Nat :=
  let (s, sets, n) := s.setsBytes
  let (tabs, m) := s.tablesBytes
  let w (a : Nat) : Nat × Nat := ((s.reg a).toNat, 4)
  (s, joinParts
    [(1, 4), w Reg.MG_DEVID, (s.now, 8), (nonce, 32), (s.mg.mgfw, 32), (s.mg.app, 32), (sha3 s.progBytes (52 * 0x2000), 32),
      (sha3 tabs m, 32), w (Reg.MCODE_VER 0), w (Reg.MCODE_VER 1), w (Reg.MCODE_VER 2), w (Reg.MCODE_VER 3), (s.mg.mcode, 32),
      (sha3 sets n, 32), w Reg.MG_PHASE, (s.svnctr, 4), ((s.byte 0x08008080).toNat % 16, 4), w Reg.MG_BOOTSTAT])

/-- ATTEST (R415). -/
def State.attest (s : State) : State :=
  let (s, v) := s.reportBytes (s.svcGet 32)
  let sig := Config.mldsaSign s.seed (sha3 v 272) s.free
  State.svcPut s.tick (v + sig % 256 ^ 2420 * 256 ^ 272) 2692
def execAttest (s : State) : Result := .next (s.svcStart 1 State.attest)

/-- IDKEY (R414). -/
def State.idKey (s : State) : State := s.svcPut s.identity 1312
def execIdkey (s : State) : Result := .next (s.svcStart 2 State.idKey)

/-- The thermometer with its n lowest bits at 1. -/
def State.svnBlow (s : State) (n : Nat) : State :=
  if s.svnctr < n then s.setBytes 0x08008088 8 (2 ^ min n 64 - 1) else s

/-- The SVN mirror word of a value (R421). -/
def svnMirror (n : Nat) : Nat := 0x5A * 2 ^ 56 + n % 128

/-- SVN_ADVANCE (R408): the mirror first, then the OTP bits. -/
def State.svnAdvance (s : State) : State :=
  if s.svnctr < s.mg.svn then (s.setDword 0x10080018 (svnMirror s.mg.svn)).svnBlow s.mg.svn else s
def execSvnAdvance (s : State) : Result := .next (s.svcStart 3 State.svnAdvance)

/-- REVOKE (R409). -/
def State.revoke (s : State) : State :=
  let a := s.svcArg
  s.svcImage a 7 fun s i =>
    let k := s.payload i 0 1
    let left := (List.range 4).any fun j => j != k && !s.revoked j
    if 4 ≤ k ∨ k = i.slot ∨ !left then s.svcResult 0xD7 (imgDetail i.addr)
    else s.setByte 0x08008080 (BitVec.ofNat 8 ((s.byte 0x08008080).toNat ||| 2 ^ k))
def execRevoke (s : State) : Result := .next (s.svcStart 4 State.revoke)

/-- PHASE (R403, R419). -/
def State.phaseCmd (s : State) : State :=
  let p := s.phase
  let t := s.svcArg % 8
  if p = 3 ∧ t = 2 then s.setPhase 2
  else if (p = 2 ∧ t = 3) ∨ ((p = 2 ∨ p = 3) ∧ t = 4) then
    s.svcImage (s.reg (Reg.MG_SVCBUF 0)).toNat 6 fun s i =>
      let e := s.payload i 0 8
      if !i.bound || decide (e < s.now) then s.svcResult 0xD7 (imgDetail i.addr)
      else
        let s := s.setPhase t
        if t = 3 then { s with mg := { s.mg with permit := some e } } else s
  else s.svcResult 0x08 p
def execPhase (s : State) : Result := .next (s.svcStart 5 State.phaseCmd)

/-- The APP of an update is loaded and its pairs are released at their entries (R420 steps 3 and 4). -/
def State.liveRelease (s : State) (l : LiveUpdate) : State :=
  let s := { s with mg := { s.mg with live := none } }
  s.svcImage l.image 2 fun s i =>
    let s := s.loadSegs i
    let s := { s with mg := { s.mg with app := i.digest, svn := i.svn } }
    l.pairs.foldl (fun s p =>
      let e := if p = 0 then i.entry0 else i.entry1
      if p = 1 ∧ e = 0 then s else s.releasePair p e) s

/-- LIVEUPD (R420): the image is verified; the named pairs then stop one by one. -/
def State.liveUpd (s : State) : State :=
  let arg := s.svcArg
  let pairs := [0, 1].filter fun p => arg / 2 ^ (8 + p) % 2 == 1
  let a := s.appAddr (arg % 2)
  s.svcImage a 2 fun s i =>
    let l : LiveUpdate := ⟨i.addr, pairs, pairs⟩
    if pairs.isEmpty then s.liveRelease l else { s with mg := { s.mg with live := some l } }
def execLiveupd (s : State) : Result := .next (s.svcStart 6 State.liveUpd)

/-- Every core of a pair has stopped at a checkpoint with its held stores released, or does not execute. -/
def State.pairStopped (s : State) (p : Nat) : Bool :=
  [2 * p, 2 * p + 1].all fun k => match s.lead k with | some r => (s.core r).stopped | none => true

/-- LIVEUPD_PAIR_STOP (R420): a stopped pair takes its COLD restart and waits; after the last one the update goes on. -/
def execLiveupdPairStop (p : Fin 2) (s : State) : Result :=
  match s.mg.live with
  | some l =>
    if !(l.waiting.contains p.val && s.pairStopped p) then .next s
    else
      let ks := if s.pairMode p = 1 then [2 * p.val, 2 * p.val + 1] else if s.pairMode p = 3 then [] else [s.pairRecord p]
      let s := ks.foldl (fun s k =>
        if (s.core k).run = .off then s else (s.coldRestart k).onCore k fun c => { c with run := .hold }) s
      let l := { l with waiting := l.waiting.filter (· != p.val) }
      if l.waiting.isEmpty then .next (s.liveRelease l)
      else .next { s with mg := { s.mg with live := some l } }
  | none => .next s

/-- BANKSWAP (R368, R419). -/
def State.bankSwap (s : State) : State :=
  let b := s.svcArg % 2
  s.svcImage (s.appAddr b) 2 fun s _ => s.setDword 0x10080010 (if b = 1 then 0x5A else 0)
def execBankswap (s : State) : Result := .next (s.svcStart 7 State.bankSwap)

/-- LOADCELL (R419): the cell, or the pair it belongs to, must be disabled. -/
def State.loadCell (s : State) : State :=
  s.svcImage s.svcArg 3 fun s i =>
    let c := i.entry0
    let even := c / 2 * 2
    let busy := s.flag (Reg.LC_CTRL c) 0 || (s.flag (Reg.LC_CTRL even) 0 && s.flag (Reg.LC_CTRL even) 1)
    if 52 ≤ c then s.svcResult 0xD6 (imgDetail i.addr)
    else if !s.domOn (domCell c) then s.svcResult 0x02 (domCell c)
    else if busy then s.svcResult 0x01 c
    else s.loadSegs i
def execLoadcell (s : State) : Result := .next (s.svcStart 8 State.loadCell)

/-- LOADMAP (R419). -/
def State.loadMap (s : State) : State := s.svcImage s.svcArg 4 fun s i => s.loadSegs i
def execLoadmap (s : State) : Result := .next (s.svcStart 9 State.loadMap)

/-- MCODE_PATCH is requested for one pair of a LOADMCODE. -/
def State.patchRequest (s : State) (image p : Nat) : State :=
  match s.arbRequest 8 p with
  | (.accepted t, s) =>
    let r : PatchReq := ⟨p, t, image, false⟩
    let s := { s with mg := { s.mg with patches := s.mg.patches ++ [r] } }
    let (s, code) := s.patchArm r
    if code = 0 then s else s.svcResult code (imgDetail image)
  | (.queued t, s) => { s with mg := { s.mg with patches := s.mg.patches ++ [PatchReq.mk p t image false] } }
  | (.refused code conf, s) => s.svcResult code conf
  | (.silent, s) => s

/-- LOADMCODE (R319, R419): pairs in MG_SVCBUF word 0. -/
def State.loadMcode (s : State) : State :=
  let m := (s.reg (Reg.MG_SVCBUF 0)).toNat
  s.svcImage s.svcArg 5 fun s i =>
    ([0, 1].filter fun p => m / 2 ^ p % 2 == 1).foldl (fun s p => s.patchRequest i.addr p) s
def execLoadmcode (s : State) : Result := .next (s.svcStart 10 State.loadMcode)

/-- Whether a verification accepted. -/
def ImgRes.good : ImgRes → Bool
  | .ok _ => true
  | .bad _ => false

/-- An accepted image is loaded, a refused one leaves its code. -/
def ImgRes.load (r : ImgRes) (s : State) : State × Bool :=
  match r with
  | .ok i => ({ s.loadSegs i with mg := { s.mg with mgfw := i.digest, bare := false } }, true)
  | .bad code => (s.setFld Reg.MG_BOOTSTAT 23 16 code, false)

/-- The management firmware image of one bank is verified and, accepted, loaded (R412, R413). -/
def State.mgfwTry (s : State) (b : Nat) : State × Bool :=
  let r := s.imgVerify (mgfwAddr b) 1
  r.2.load r.1

/-- B5 (R411, R412): the MGFW of the boot-mapped bank, then of the other; its digest and RAM image, or a refusal. -/
def State.mgfwLoad (s : State) : State × Bool :=
  let first := bit (s.flag (Reg.FC_STAT 0) 8)
  let r := s.mgfwTry first
  if r.2 then r else r.1.mgfwTry (1 - first)

/-- A management reset (R12 M, R402): RAM cleared, B5 run again. An image in management RAM serves where the ROM waits for
one in RECOVERY (R413). -/
def State.mgReset (s : State) : State :=
  if s.mg.bare then
    let r := s.imgVerify mgmtRam 1
    if r.2.good then (r.2.load r.1).1 else s
  else (State.mgfwLoad (s.wipe mgmtRam (mgmtRam + 0x40000))).1

/-- MGRELOAD (R402, R419). -/
def execMgreload (s : State) : Result := .next (s.svcStart 11 State.mgReset)

/-- A running service command is abandoned: ABORT, and a live update's pairs go on. -/
def State.svcAbandon (s : State) : State :=
  if s.flag Reg.MG_SVCSTAT 31 then
    let s := if s.mg.live.isSome && s.power.entry.isNone then s.sleepResume else s
    { (s.setFlag Reg.MG_SVCSTAT 31 false).setFlag Reg.MG_SVCSTAT 29 true with mg := { s.mg with svc := none, live := none } }
  else s

/-- MANAGEMENT_RESET (R402): a running service command is abandoned. -/
def execManagementReset (s : State) : Result := .next (if s.phase = 0 then s else s.mgReset.svcAbandon)

/-- SERVICE_COMMAND_DONE (R419): the command's end, once nothing of it is outstanding. -/
def execServiceCommandDone (s : State) : Result :=
  match s.mg.svc with
  | some x =>
    let waits := s.mg.live.isSome || (x.op == 10 && x.code == 0 && s.mg.patches.any fun r => !r.armed)
    if waits then .next s
    else
      let s := (s.setFlag Reg.MG_SVCSTAT 31 false).setFlag Reg.MG_SVCSTAT 30 true
      let s := s.setReg Reg.MG_CFGCHK (if x.code = 0 then 0 else cfgWord ⟨x.code, 0xFF, x.detail⟩)
      .next (State.pulseLine { s with mg := { s.mg with svc := none } } 384)
  | none => .next s

/-- A write of MG_SVCCMD (R419). -/
def State.svcWrite (s : State) (v : Word) : State :=
  match fieldOf v 7 0 with
  | 1 => s.svcStart 1 State.attest
  | 2 => s.svcStart 2 State.idKey
  | 3 => s.svcStart 3 State.svnAdvance
  | 4 => s.svcStart 4 State.revoke
  | 5 => s.svcStart 5 State.phaseCmd
  | 6 => s.svcStart 6 State.liveUpd
  | 7 => s.svcStart 7 State.bankSwap
  | 8 => s.svcStart 8 State.loadCell
  | 9 => s.svcStart 9 State.loadMap
  | 10 => s.svcStart 10 State.loadMcode
  | 11 => s.svcStart 11 State.mgReset
  | _ => if s.flag Reg.MG_SVCSTAT 31 then s.cfgFail Reg.MG_CFGCHK ⟨0x01, 0xFF, 0⟩ else s.cfgFail Reg.MG_CFGCHK ⟨0x05, 0xFF, 0⟩

/-- A write of MG_SVCARG or MG_SVCBUF, static until DONE. -/
def State.svcDataWrite (s : State) (a : Nat) (v : Word) : State :=
  if s.flag Reg.MG_SVCSTAT 31 then s.cfgFail Reg.MG_CFGCHK ⟨0x0A, 0xFF, 0⟩ else s.setReg a v

end Sys2Proof.Machine
end

