-- ==== Sys2Proof/Machine/Boot.lean ====
section
/-! DEFINITION. Resets, clock sources and the boot sequences (R12, R39 to R43, R410 to R413), and the permanent replacement of
a slice (R94). -/

namespace Sys2Proof.Machine

/-! Clock sources (R39, R40, R43). -/

/-- The root switches to the PLL; DEVTIME is raised to a multiple of 16 and counts from CLK_LOOP (R39, R43). Generators
whose counters stood still go on (R216). -/
def State.pllStart (s : State) : State :=
  let e := alignEdge s.now
  let w := s.reg Reg.MG_CLKSTAT
  let w := withField (withField (withField w 2 1 1) 3 3 0) 0 0 1
  let s := State.setReg { s with clk := { s.clk with run := true, devtime := BitVec.ofNat 64 e } } Reg.MG_CLKSTAT w
  (List.range 96).foldl (fun s n => if s.flag Reg.TP_DBGCTL 31 && (haltGroup (s.fld Reg.TP_DBGCTL 21 16)).contains n then s else s.pwmResume n) s

/-- PLL_ROOT_SWITCH (R39): in a wake, or after a loss of lock. `ticks` of the sleep clock have passed. -/
def execPllRootSwitch (ticks : Nat) (s : State) : Result :=
  if s.clk.run || s.phase == 0 || s.asleep && !s.power.waking then .next s else .next (s.sleepTicks ticks).pllStart

/-- LOSS_OF_LOCK (R40, R216): PLL clocks stop; every generator acts by HALTACT. -/
def execLossOfLock (s : State) : Result :=
  if !s.clk.run then .next s
  else
    let s := (List.range 96).foldl (fun s n => s.pwmHalt n) s
    let s := s.pllStop.setFlag Reg.MG_CLKSTAT 7 true
    .next { s with clk := { s.clk with faultOut := true } }

/-! Resets (R12). -/

/-- COLD_RESET (R12). -/
def execColdReset (s : State) : Result := .next s.coldReset

/-- Registers outside AON return to their reset values. -/
def State.warmRegs (s : State) : State :=
  { s with regs := s.regs.filter fun p => match regAt p.1 with | some d => d.aon | none => false }

/-- Activities that a reset unit held or waited for end; MIGRATE and LEDGER_COMPACT stay (R416, R417). -/
def State.warmArb (s : State) : State :=
  let stays (t : Ticket) : Bool := t.act == 7 || t.act == 10
  State.arbSync { s with arb := { granted := s.arb.granted.filter stays, queue := s.arb.queue.filter stays } }

/-- A warm reset (R12): AON registers, DEVTIME, memories, repairs and the ledger service go on; everything else starts
anew. -/
def State.warmReset (s : State) : State :=
  let s := ((s.ledgerSync s.now).flashCut 0).flashCut 1
  let woke := s.asleep
  let busy := s.flag Reg.MG_SVCSTAT 31
  let s := s.warmRegs.wipe mcStage 0x70061C00
  let s : State :=
    { regs := s.regs
      clk := { s.clk with rstOut := true, faultOut := false }
      flt := s.flt
      mem := { s.mem with corrections := [], scrubTicket := none }
      repairs := s.repairs
      flash := { torn := s.flash.torn, ledger := s.flash.ledger }
      arb := s.arb
      power := { s.power with entry := none, waking := false, sampling := false }
      tp := { tap := s.tp.tap }
      mg := { s.mg with svc := none, permit := none, live := none, patches := [] }
      tags := s.tags
      pending := s.pending
      free := s.free }
  let s := s.warmArb
  let s := if woke then
      ((s.setFld Reg.PM_SLEEPSTAT 1 0 0).setReg Reg.PM_DOMSTAT0 (s.reg Reg.PM_DOMCTL0)).setReg Reg.PM_DOMSTAT1 (s.reg Reg.PM_DOMCTL1)
    else s
  let s := if busy then (s.setFlag Reg.MG_SVCSTAT 31 false).setFlag Reg.MG_SVCSTAT 29 true else s
  ((s.setReg Reg.MG_PHASE 1).pulseLine 386).repairApply

/-! Boot (R412, R413). -/

/-- STEP of MG_PHASE; from B6 on RSTOUTn is high (R485). -/
def State.bootStep (s : State) (n : Nat) : State :=
  let s := s.setFld Reg.MG_PHASE 15 8 n
  if n = 6 then { s with clk := { s.clk with rstOut := false } } else s

/-- The bank mapped at 0 (R368) and the BCH strengths of the boot mirror (R421). -/
def State.bankMap (s : State) : State :=
  let m := s.dword 0x10080020
  let s := s.setFlag (Reg.FC_STAT 0) 8 (s.dword 0x10080010 % 256 == 0x5A)
  s.setFld Reg.FC_CTRL 19 16 (m % 16)

/-- B4: intents, the SVN mirror, the repair map, BANKSWAP (R377, R408, R412). -/
def State.bootB4 (s : State) : State :=
  let s := ((s.bankMap.intentScan 0).intentScan 1).repairLoad
  let m := s.dword 0x10080018
  let v := m % 128
  let s := if m / 2 ^ 56 = 0x5A ∧ s.svnctr < v then s.svnBlow v
    else if m / 2 ^ 56 = 0x5A ∧ v = s.svnctr then s
    else s.setDword 0x10080018 (svnMirror s.svnctr)
  s.bootStep 4

/-- RECOVERY (R403, R410, R413): with no MGFW, FAULTOUTn is asserted and Odoon window 0 is mapped onto management RAM. -/
def State.recover (s : State) (bare : Bool) : State :=
  let s := s.setPhase 4
  if bare then
    State.setReg { s with clk := { s.clk with faultOut := true }, mg := { s.mg with bare := true } } (Reg.HP_WIN 0) 4
  else s

/-- B6: repairs applied, bulk SRAM cleared and filled with 0, TCMs cleared (R345, R412). -/
def State.bootB6 (s : State) : State :=
  let s := s.repairApply.wipe 0x20000000 0x20800000
  let s := s.wipe 0x30000000 0x30100000
  let s := { s with
    tags := []
    mem := { s.mem with init := nsetAdd s.mem.init (0x20000000 / 8) (0x20800000 / 8) } }
  s.bootStep 6

/-- B8: CORE_BIST of both pairs; a core that fails is recorded FAILED, and one FAILED already is not released (R57, R339). -/
def State.bootB8 (s : State) (pass : BitVec 4) : State :=
  let bad := (List.range 4).filter fun k => pass.toNat / 2 ^ k % 2 == 0
  let fresh := bad.filter fun k => !s.coreFailed k
  let s := { s with repairs := { s.repairs with cores := fresh.foldl (fun t k => nsetAdd t k (k + 1)) s.repairs.cores } }
  let s := if fresh.isEmpty then s else s.repairCommit
  let s := [0, 1].foldl (fun s p =>
    let b0 := bad.contains (2 * p)
    let b1 := bad.contains (2 * p + 1)
    let s := s.setFld (Reg.RD_STAT p) 24 23 (if b0 && b1 then 3 else if b0 || b1 then 2 else 1)
    s.setFlag (Reg.RD_STAT p) 22 (b0 && !b1)) s
  s.bootStep 8

/-- B9 and F1: the APP of the boot-mapped bank, else of the other; APPREASON keeps the last refusal. -/
def State.bootB9 (s : State) : State × Option Img :=
  let first := bit (s.flag (Reg.FC_STAT 0) 8)
  let take := fun (s : State) (i : Img) (b : Nat) =>
    let s := (s.setFlag Reg.MG_BOOTSTAT 0 true).setFlag Reg.MG_BOOTSTAT 8 (b == 1)
    { s with mg := { s.mg with app := i.digest, svn := i.svn } }
  match s.imgVerify (s.appAddr first) 2 with
  | (s, .ok i) => ((take s i first).bootStep 9, some i)
  | (s, .bad code) =>
    let s := (s.setFld Reg.MG_BOOTSTAT 31 24 code).setFlag Reg.MG_BOOTSTAT 2 true
    match s.imgVerify (s.appAddr (1 - first)) 2 with
    | (s, .ok i) => ((take s i (1 - first)).bootStep 9, some i)
    | (s, .bad code) => (s.setFld Reg.MG_BOOTSTAT 31 24 code, none)

/-- The bank's images of one kind are verified and used; a refusal is reported in APPREASON. -/
def State.bootImages (s : State) (b kind : Nat) (f : State → Img → State) : State :=
  (((s.images b).drop 2).filter fun a => s.bytesAt (a + 4) 2 == kind).foldl (fun s a =>
    match s.imgVerify a kind with
    | (s, .ok i) => f s i
    | (s, .bad code) => s.setFld Reg.MG_BOOTSTAT 31 24 code) s

/-- B11: the image is staged, checked and installed in every core; a patch that fails its check is skipped (R312, R323). -/
def State.bootPatch (s : State) (i : Img) : State :=
  let t := s.loadSegs i
  let bad := t.armFails 0 0
  match pickFail bad with
  | some f => t.setFld Reg.MG_BOOTSTAT 31 24 f.code
  | none =>
    let t := (t.setReg Reg.MCODE_STAGEVER (BitVec.ofNat 32 (i.version % 65536))).setReg Reg.MCODE_STAGEDIG (BitVec.ofNat 32 i.digest)
    let t := { t with mg := { t.mg with mcode := i.digest, staged := i.digest } }
    (List.range 4).foldl (fun s k =>
      let s := s.onCore k fun c => { c with patch := s.stagedPatch }
      (s.setFld (Reg.MCODE_VER k) 15 0 i.version).setReg (Reg.MCODE_DIGEST k) (BitVec.ofNat 32 i.digest)) t

/-- B15: the factory coefficients from OTP (R79, R404). -/
def State.bootCoeffs (s : State) : State :=
  (List.range 68).foldl (fun s n =>
    let w := s.bytesAt (0x08008100 + 8 * n) 8
    (s.setFld (Reg.CS_CALOFS n) 23 0 w).setFld (Reg.CS_CALGAIN n) 23 0 (w / 2 ^ 32)) s

/-- F2: each interrupted erase that the scan reported is acknowledged and its sector erased (R377, R412). -/
def State.bootErase (s : State) (b : Nat) : State :=
  let w := s.dword (intentWord b)
  if s.flag (Reg.FC_STAT b) 7 && w / 2 ^ 60 == 1 then
    let off := 65536 * (w % 2 ^ 23 / 65536)
    let s := (s.ackRecov b).sectorWipe b off
    (s.setSector b (off / 65536) 0).setFlag Reg.MG_BOOTSTAT 3 true
  else s

/-- The boot and version mirrors after an accepted boot (R421). -/
def State.bootMirrors (s : State) (b : Nat) : State :=
  let m := s.dword 0x10080020
  let s := s.setDword 0x10080020 (2 ^ 32 * ((m / 2 ^ 32 + 1) % 2 ^ 32) + b * 256 + m % 16)
  ((s.images b).take 16).zipIdx.foldl (fun s p =>
    let len := s.bytesAt (p.1 + 16) 4
    let d := sha3 (s.bytesAt p.1 (256 + len)) (256 + len)
    s.setDword (0x10080040 + 8 * p.2) (2 ^ 48 * s.bytesAt (p.1 + 4) 2 + 2 ^ 40 * (s.bytesAt (p.1 + 12) 4 % 256) + d % 2 ^ 32)) s

/-- B10 to B16 with an accepted APP (R412). -/
def State.bootApp (s : State) (i : Img) : State :=
  let b := bit (s.flag Reg.MG_BOOTSTAT 8)
  let s := (s.loadSegs i).bootStep 10
  let s := (s.bootImages b 5 State.bootPatch).bootStep 11
  let s := s.releasePair 0 i.entry0
  let s := if i.entry1 = 0 then s else s.releasePair 1 i.entry1
  let s := (s.bootStep 12).bootImages b 3 fun s i => s.loadSegs i
  let s := (s.bootStep 13).bootImages b 4 fun s i => s.loadSegs i
  let s := ((s.bootStep 14).bootCoeffs).bootStep 15
  let s := (s.bootErase 0).bootErase 1
  ((s.bootMirrors b).setPhase 2).bootStep 16

/-- B6 to B16, from the ledger scan on (R412, R413). -/
def State.bootRest (s : State) (x : BootIn) : State :=
  let s := s.bootB6.bootStep 7
  let s := s.bootB8 x.bist
  if s.mg.bootPins = 2 then (s.setFlag Reg.MG_BOOTSTAT 1 true).recover false
  else
    match s.bootB9 with
    | (s, some i) => s.bootApp i
    | (s, none) => s.recover false

/-- The supplies sensed at the I/O banks (R448). -/
def State.senseBanks (s : State) (vio : BitVec 16) : State :=
  (List.range 8).foldl (fun s k => s.setReg (Reg.PX_BANK k) (BitVec.ofNat 32 (vio.toNat / 4 ^ k % 4))) s

/-- B1 to B3 of a cold boot: pins and supplies sampled, clocks and domains up (R412). -/
def State.bootStart (s : State) (x : BootIn) : State :=
  let s := { s with mg := { s.mg with bootPins := x.pins } }
  let s := (s.bootStep 2).senseBanks x.vio
  let s := (s.setFlag Reg.MG_CLKSTAT 5 true).setFlag Reg.MG_CLKSTAT 4 x.x32
  let s := (s.setReg Reg.PM_DOMSTAT0 (s.reg Reg.PM_DOMCTL0)).setReg Reg.PM_DOMSTAT1 (s.reg Reg.PM_DOMCTL1)
  ((s.pllStart.setFld Reg.FC_CTRL 3 0 8).setFlag Reg.PM_OPSTAT 30 true).bootStep 3

/-- PORN_RELEASE (R412): the cold boot. -/
def execPornRelease (x : BootIn) (s : State) : Result :=
  if s.phase ≠ 0 ∨ s.power.off then .next s
  else
    let s := s.bootStart x
    let s := (s.advanceTo (s.now + x.edges)).bootB4
    let r := s.mgfwLoad
    if r.2 then .next (((r.1.setPhase 1).bootStep 5).bootRest x) else .next (r.1.recover true)

/-- The warm boot (R413): B4 and B6 to B16; the clocks run on, or are locked again where they had stopped. -/
def State.warmBoot (s : State) (x : BootIn) : State :=
  let s := s.senseBanks x.vio
  let s := if s.clk.run then s else s.pllStart
  let s := (s.advanceTo (s.now + x.edges)).bootB4
  if s.mg.bare then
    match s.mgfwLoad with
    | (s, true) => s.bootRest x
    | (s, false) => s.recover true
  else s.bootRest x

/-- WARM_RESET (R12, R413): by the pin the part waits for RESETn; by a request or a policy the warm boot runs at once, with
BOOT[1:0] as sampled last. -/
def execWarmReset (pin : Bool) (x : BootIn) (s : State) : Result :=
  if s.phase = 0 ∨ s.power.off then .next s
  else
    let s := s.warmReset
    if pin then .next { s with mg := { s.mg with resetLow := true } } else .next (s.warmBoot x)

/-- RESETN_RELEASE (R410, R413). -/
def execResetnRelease (x : BootIn) (s : State) : Result :=
  if !s.mg.resetLow then .next s
  else .next (State.warmBoot { s with mg := { s.mg with resetLow := false, bootPins := x.pins } } x)

/-! Permanent replacement of a slice (R57, R58, R94). -/

/-- PERMANENT_REPLACEMENT (R94): at the substitution edge of its SHADOW phase the spare takes slice n over for good, with the
correction the group has fitted. None starts while a step runs or TESTDAC is granted (R95), or with the spare used. -/
def execPermanentReplacement (n : Fin 64) (fitOfs : Int) (fitGain : BitVec 24) (s : State) : Result :=
  let g := n.val / 16
  if !(s.unitOn (0x19 + g) && s.spareFree g) || s.arbHeld 3 g || s.fld (Reg.CG_CALSTAT g) 12 8 != 0x1F then .next s
  else
    let r := s.group g
    let s := match r.calTicket with | some t => (s.arbRelease t).setFld (Reg.CG_CALSTAT g) 7 6 0 | none => s
    let s := s.setFlag (Reg.CG_CALCTL g) 0 false
    let s := s.setGroup g { r with calTicket := none, fitOfs := fitOfs, fitGain := fitGain.toNat }
    let s := s.setSlice (64 + g) { enAt := s.now, ringAt := s.now }
    let s := { s with repairs := { s.repairs with slices := mapInsert s.repairs.slices g (n.val % 16) } }
    .next s.repairCommit.repairApply

end Sys2Proof.Machine
end

