-- ==== Sys2Proof/Machine/Dma.lean ====
section
/-! DEFINITION. DMA channels: registers, requests, check values and the ends of envelopes as far as they need no access
to the crossbar (R387, R392, R393, R397, R401). The transfers are in DmaRun. -/

namespace Sys2Proof.Machine

/-- Channel record k. -/
def State.dma (s : State) (k : Nat) : DmaChan := mapGet {} s.dmas k

/-- Replace channel record k. -/
def State.setDma (s : State) (k : Nat) (r : DmaChan) : State := { s with dmas := mapSet {} s.dmas k r }

/-- The DMA domain is usable and CLK_CORE runs. -/
def State.dmaOn (s : State) : Bool := s.unitOn 0x2F

/-- Line 32 + k is high while HALF, FULL, ABORTED, ERR or TMO is set (R397). -/
def State.dmaLine (s : State) (k : Nat) : State := s.setLine (32 + k) (s.fld (Reg.DMA_STAT k) 5 1 != 0)

/-- A flag of DMA_CHk_STAT is set. -/
def State.dmaFlag (s : State) (k b : Nat) : State := (s.setFlag (Reg.DMA_STAT k) b true).dmaLine k

/-- STATE of a channel (R387): 0 IDLE, 1 MOVING, 2 WAITREQ, 3 ENDING. -/
def State.dmaState (s : State) (k v : Nat) : State := s.setFld (Reg.DMA_STAT k) 31 30 v

/-! Check values (R393). -/

/-- One byte into CRC16, most significant bit first. -/
def crc16Byte (r b : Nat) : Nat :=
  (List.range 8).foldl (fun r _ => if 32768 ≤ r then (r * 2 % 65536) ^^^ 0x1021 else r * 2) (r ^^^ (b * 256))

/-- One byte, the i-th of its envelope, into the running value of algorithm `chk`. -/
def checkByte (chk i r b : Nat) : Nat :=
  match chk with
  | 1 => crcReflected 0xEDB88320 r b
  | 2 => crcReflected 0x82F63B78 r b
  | 3 => crc16Byte r b
  | 4 => (r + b * 256 ^ (i % 4)) % 2 ^ 32
  | _ => r

/-- The bytes of v, n of them, from byte i of the envelope on. -/
def checkBytes (chk : Nat) : Nat → Nat → Nat → Nat → Nat
  | 0, _, r, _ => r
  | n + 1, i, r, v => checkBytes chk n (i + 1) (checkByte chk i r (v % 256)) (v / 256)

/-- RESULT from the running value: the final XOR. -/
def checkResult (chk r : Nat) : Nat := if chk = 1 ∨ chk = 2 then r ^^^ 0xFFFFFFFF else r

/-! Requests. -/

/-- DRQ_REQUEST: a delivery on line l (R392). -/
def State.drqDeliver (s : State) (l : Nat) : State :=
  if !s.dmaOn then s
  else
    (List.range 32).foldl (fun s k =>
      let ctrl := match (s.dma k).env with | some e => some e.ctrl | none => (s.dma k).prev.map (·.1)
      match ctrl with
      | none => s
      | some w =>
        if !(s.flag (Reg.DMA_CTL k) 0 && bitOf w 17 && fieldOf w 16 12 == l) then s
        else
          let s := s.setDma k { s.dma k with progress := s.now }
          if s.fld (Reg.DMA_STAT k) 15 8 = 255 then (s.setFlag (Reg.DMA_STAT k) 7 true).satInc (Reg.DMA_CNT k) 7 0
          else s.satInc (Reg.DMA_STAT k) 15 8) s

/-! Chains. -/

/-- CHAIN_END (R397). -/
def State.chainEnd (s : State) (k : Nat) : State :=
  let s := ((s.setFlag (Reg.DMA_CTL k) 0 false).setFlag (Reg.DMA_STAT k) 0 true).dmaState k 0
  (s.setDma k { progress := (s.dma k).progress, endedAt := some s.now }).setFld (Reg.DMA_STAT k) 15 8 0

/-- A write of DMA_CHk_CTL that does not abort a chain: the chain starts, or the write has no effect on the edge on which
a chain ends (R397, R398, R401). -/
def State.dmaStart (s : State) (k : Nat) (v : Word) : State :=
  if bitOf v 0 && (s.dma k).endedAt == some s.now then s.setFlag (Reg.DMA_STAT k) 6 true
  else
    s.unitWrite (Reg.DMA_CTL k) (Reg.DMA_CFGCHK k) 0 v
      (fun s => failIf (!s.domOn 0x2F) 0x02 0xFF 0x2F ++ failIf (!s.clk.run) 0x03 0xFF 1 ++
        failIf ((s.reg (Reg.DMA_ENV k)).toNat % 32 != 0) 0x78 2)
      (fun s => (s.setDma k { fetch := some (s.reg (Reg.DMA_ENV k)).toNat, progress := s.now }).dmaState k 1) id id

/-- DMA_ENABLE (R387, R398). -/
def execDmaEnable (k : Fin 32) (v : BitVec 32) (s : State) : Result :=
  .next (s.whenOn 0x2F (Reg.DMA_CFGCHK k) fun s => s.dmaStart k (withField v 0 0 1))

end Sys2Proof.Machine
end

