-- ==== Sys2Proof/Machine/Bus.lean ====
section
/-! DEFINITION. Register accesses: what a write of any register of the maps does, special reads, and accesses of any size to
any address (R9, R16, R17, R19, R53, R54, R426, R462). -/

namespace Sys2Proof.Machine

/-! Control plane. -/

/-- A write to PWMn at offset `off`. -/
def State.pwmBlock (s : State) (n off : Nat) (v : Word) : State :=
  let a := 0x50000000 + 0x100 * n + off
  let chk := Reg.PWM_CFGCHK n
  let owned := fun (f : State → State) => s.windowOwned n chk (off * 3) f
  if off = 0 then s.whenOn (domPwm n) chk fun s => s.pwmCtrlWrite n v
  else if 0x10 ≤ off ∧ off < 0x1C then owned fun s => s.pwmMemberWrite n (off / 4 - 4) v
  else if off = 0x1C then owned fun s => s.pwmPhaseWrite n v
  else if 0x20 ≤ off ∧ off < 0x30 then owned fun s => s.pwmMemberWrite n (off / 4 - 5) v
  else if off = 0x30 then owned fun s => s.pwmCommitWrite n
  else if off = 0x34 then s.pwmDtWrite n v
  else if off = 0xA4 then s.tripStatWrite n v
  else if off = 0x38 then (s.store a chk (s.pwmEn n) v).haltSafe n
  else s.store a chk (s.pwmEn n) v

/-- A write to CMPn. -/
def State.cmpBlock (s : State) (n off : Nat) (v : Word) : State :=
  match off with
  | 0x00 => s.whenOn (domCmp n) (Reg.CMP_CFGCHK n) fun s => s.cmpCtrlWrite n v
  | 0x08 => s.cmpRefWrite n v
  | 0x0C => s.cmpRampWrite n v
  | 0x10 => s.cmpBlankWrite n v
  | 0x14 => s.cmpStatWrite n v
  | 0x18 => s.cmpTestWrite n v
  | _ => s

/-- A write to CSn. WINEN = 0 puts the window comparator at rest (R82). -/
def State.csBlock (s : State) (n off : Nat) (v : Word) : State :=
  if off = 0 then s.whenOn (domSlice n) (Reg.CS_CFGCHK n) fun s => s.csCtrlWrite n v
  else s.store (0x50020000 + 0x80 * n + off) (Reg.CS_CFGCHK n) (s.sliceEn n) v

/-- A write to CGn. -/
def State.cgBlock (s : State) (g off : Nat) (v : Word) : State :=
  match off with
  | 0x00 => s.whenOn (0x19 + g) (Reg.CG_CFGCHK g) fun s => s.cgMptWrite g v
  | 0x10 => s.calctlWrite g v
  | 0x18 => s.diagWrite g v
  | _ => s.store (0x50028000 + 0x100 * g + off) (Reg.CG_CFGCHK g) false v

/-- A write to SQn. -/
def State.sqBlock (s : State) (n off : Nat) (v : Word) : State :=
  if off < 0x80 then s.sqEntWrite n (off / 4) v
  else if off = 0x100 then s.whenOn domSo (Reg.SQ_CFGCHK n) fun s => s.sqCtrlWrite n v
  else s.store (0x50030000 + 0x400 * n + off) (Reg.SQ_CFGCHK n) (s.flag (Reg.SQ_CTRL n) 0) v

/-- A write of a PIn register that is checked at landing while EN = 1 passes unless it is locked (R138, R502). -/
def State.piLive (s : State) (n a : Nat) (locked : Bool) (v : Word) : State :=
  s.store a (Reg.PI_CFGCHK n) locked v |> fun s' =>
    if s.piEn n && s'.reg (Reg.PI_CFGCHK n) == s.reg (Reg.PI_CFGCHK n) then s'.cfgOk (Reg.PI_CFGCHK n) else s'

/-- A write to PIn: EMUCTRL, EMURATIO and EMUCPR are static against EMUEN. -/
def State.piBlock (s : State) (n off : Nat) (v : Word) : State :=
  let a := 0x50040000 + 0x200 * n + off
  let chk := Reg.PI_CFGCHK n
  match off with
  | 0x00 => s.whenOn domPi chk fun s => s.piCtrlWrite n v
  | 0x0C => s.posWrite n false v
  | 0x10 => s.posWrite n true v
  | 0x14 => s.indexvalWrite n v
  | 0x18 =>
    let old := s.reg a
    let s' := s.store a chk (s.piEn n) v
    if s.piEn n && fieldOf old 18 16 == fieldOf v 18 16 then s'.cfgOk chk else s'
  | 0x34 => s.piLive n a false v
  | 0x4C => s.whenOn domPi chk fun s => s.emuCtrlWrite n v
  | 0x50 | 0x54 => s.store a chk (s.flag (Reg.PI_EMUCTRL n) 0) v
  | 0x58 => s.windowOwned (96 + n) chk 176 fun s => s.emuposApply n v
  | 0x60 => s.piLive n a false v
  | _ => s.store a chk (s.piEn n) v

/-- A write to the sorting office. A timer's PHASE is static while it runs; DETAIL names the timer (R155). -/
def State.soBlock (s : State) (off : Nat) (v : Word) : State :=
  let a := 0x50050000 + off
  if off = 0 then s.whenOn domSo Reg.SO_CFGCHK fun s => s.soCtrlWrite v
  else if off = 0x20 then s.soRaiseWrite v
  else if off = 0x28 then s.miggoWrite
  else if 0x100 ≤ off ∧ off < 0x200 then
    let k := (off - 0x100) / 8
    if off % 8 = 0 then s.timerWrite k v
    else s.store a Reg.SO_CFGCHK (s.flag (Reg.SO_TMR_PER k) 31) v (0x4000 + k)
  else if 0x1000 ≤ off ∧ off < 0x11C0 then s.ownWrite (off % 0x1000 / 4) v
  else if 0x8000 ≤ off ∧ off % 16 < 12 then s.routeWrite (off % 0x8000 / 16) (off % 16 / 4) v
  else s.store a Reg.SO_CFGCHK false v

/-- A write to LCn. -/
def State.lcBlock (s : State) (c off : Nat) (v : Word) : State :=
  if off = 0 then s.whenOn (domCell c) (Reg.LC_CFGCHK c) fun s => s.lcCtrlWrite c v
  else s.store (0x50060000 + 0x100 * c + off) (Reg.LC_CFGCHK c) (s.flag (Reg.LC_CTRL c) 0) v

/-- A write to the map store's registers. -/
def State.msBlock (s : State) (off : Nat) (v : Word) : State :=
  if off = 0 then s.whenOn domSo Reg.MS_CFGCHK fun s => s.msCtrlWrite v
  else if 0x800 ≤ off ∧ off < 0x1000 then (if off % 32 / 4 < 5 then s.tdWrite ((off - 0x800) / 32) (off % 32 / 4) v else s)
  else s.store (0x50070000 + off) Reg.MS_CFGCHK false v

/-- A write in the control-plane range. -/
def State.controlWrite (s : State) (a : Nat) (v : Word) : State :=
  if a < 0x50006000 then s.pwmBlock (a % 0x10000 / 0x100) (a % 0x100) v
  else if 0x50010000 ≤ a ∧ a < 0x50011800 then s.cmpBlock (a % 0x10000 / 0x40) (a % 0x40) v
  else if 0x50020000 ≤ a ∧ a < 0x50022200 then s.csBlock (a % 0x10000 / 0x80) (a % 0x80) v
  else if 0x50028000 ≤ a ∧ a < 0x50028400 then s.cgBlock (a % 0x8000 / 0x100) (a % 0x100) v
  else if 0x50030000 ≤ a ∧ a < 0x50034000 then s.sqBlock (a % 0x10000 / 0x400) (a % 0x400) v
  else if 0x50040000 ≤ a ∧ a < 0x50042000 then s.piBlock (a % 0x10000 / 0x200) (a % 0x200) v
  else if 0x50050000 ≤ a ∧ a < 0x50060000 then s.soBlock (a % 0x10000) v
  else if 0x50060000 ≤ a ∧ a < 0x50063400 then s.lcBlock (a % 0x10000 / 0x100) (a % 0x100) v
  else if 0x50070000 ≤ a ∧ a < 0x50080000 then s.msBlock (a % 0x10000) v
  else s

/-! Data plane. -/

/-- EN := 0 lands while a chain runs: its envelope ends before the command that wrote it is over (R398). -/
def State.dmaStop (s : State) (k : Nat) (v : Word) : State :=
  if s.flag (Reg.DMA_CTL k) 0 then s.setDma k { s.dma k with abort := true }
  else s.store (Reg.DMA_CTL k) (Reg.DMA_CFGCHK k) false (withField v 0 0 0)

/-- A write to a DMA channel's registers. -/
def State.dmaBlock (s : State) (k off : Nat) (v : Word) : State :=
  match off with
  | 0x00 =>
    s.whenOn 0x2F (Reg.DMA_CFGCHK k) fun s => if bitOf v 0 then s.dmaStart k v else s.dmaStop k v
  | 0x10 => (s.store (Reg.DMA_STAT k) (Reg.DMA_CFGCHK k) false v).dmaLine k
  | _ => s.store (0x60000000 + 0x40 * k + off) (Reg.DMA_CFGCHK k) (s.flag (Reg.DMA_CTL k) 0) v

/-- A write to a MAC's time registers. -/
def State.macBlock (s : State) (m off : Nat) (v : Word) : State :=
  if off = 0x808 then s.macRateWrite m v
  else if off = 0x80C then s.tadjLoWrite m v
  else if off = 0x810 then s.tadjHiWrite m v
  else if 0x820 ≤ off ∧ off < 0x840 then s.tgtWrite m ((off - 0x820) / 8) (off % 8 == 4) v
  else s

/-- A write to the PCIe registers. -/
def State.pcieBlock (s : State) (off : Nat) (v : Word) (mgmt : Bool) : State :=
  if off = 0x10 then s.bar0Write v mgmt else (s.store (0x60030000 + off) Reg.HP_CFGCHK false v).msixSync

/-- A write to a letterbox: k, the offset within it. -/
def State.lbxBlock (s : State) (k off : Nat) (v : Word) : State :=
  let a := 0x600B0000 + 0x80 * k + off
  let d := if off < 0x40 then 0 else 1
  if off = 0 then s.lbxCfgWrite k v
  else if off = 0x18 ∨ off = 0x48 then s.lbxPost k d (fieldOf v 15 0)
  else if off = 0x2C ∨ off = 0x5C then s.lbxAck k d (fieldOf v 15 0)
  else s.store a Reg.LBX_CFGCHK false v

/-- A write to the host port's registers. -/
def State.hpBlock (s : State) (off : Nat) (v : Word) (mgmt : Bool) : State :=
  if off = 0 then s.hpCtrlWrite v
  else if 0x400 ≤ off ∧ off < 0x800 then s.hpWinWrite ((off - 0x400) / 4) v mgmt
  else (s.store (0x600A0000 + off) Reg.HP_CFGCHK false v).hpLine

/-- A write to the pins' and pin interrupts' registers. -/
def State.pinBlock (s : State) (a : Nat) (v : Word) : State :=
  if a < 0x60080400 then s.pinWrite (a % 0x10000 / 4) v
  else if a = Reg.PX_CONF then s.confWrite v
  else if 0x60090000 ≤ a ∧ a < 0x60090040 then s.pintWrite (a % 0x10000 / 4) v (s.flag Reg.PINT_STAT (16 + a % 0x10000 / 4))
  else if a = Reg.PINT_STAT then s.pintStatWrite v
  else s

/-- A write in the data-plane range. -/
def State.periphWrite (s : State) (m : Master) (a : Nat) (v : Word) : State :=
  if a < 0x60000800 then s.dmaBlock (a % 0x10000 / 0x40) (a % 0x40) v
  else if 0x60010000 ≤ a ∧ a < 0x60030000 then s.macBlock ((a / 0x10000 + 1) % 2) (a % 0x10000) v
  else if 0x60030000 ≤ a ∧ a < 0x60040000 then s.pcieBlock (a % 0x10000) v (isMgmt m)
  else if 0x60080000 ≤ a ∧ a < 0x600A0000 then s.pinBlock a v
  else if 0x600A0000 ≤ a ∧ a < 0x600A0800 then s.hpBlock (a % 0x10000) v (isMgmt m)
  else if 0x600B0000 ≤ a ∧ a < 0x600B1000 then s.lbxBlock (a % 0x10000 / 0x80) (a % 0x80) v
  else s

/-! Management plane. -/

/-- A write of MG_SCRUBCTL: EN = 1 requests, EN = 0 takes no request back (R356, R357). -/
def State.scrubWrite (s : State) (v : Word) : State :=
  if bitOf v 0 then s.scrubStart v
  else
    let busy := s.flag Reg.MG_SCRUBCTL 0 || s.mem.scrubTicket.isSome
    let en := s.fld Reg.MG_SCRUBCTL 0 0
    (s.store Reg.MG_SCRUBCTL Reg.MG_MEMCFGCHK busy v).setFld Reg.MG_SCRUBCTL 0 0 en

/-- A write to the management block. -/
def State.mgBlock (s : State) (m : Master) (a : Nat) (v : Word) : State :=
  if a = Reg.MG_MREQ then s.mreqWrite v (isMgmt m)
  else if a = Reg.MG_MREL then s.mrelWrite v
  else if a = Reg.MG_SVCCMD then s.svcWrite v
  else if a = Reg.MG_SVCARG ∨ (0x70001000 ≤ a ∧ a < 0x70001B00) then s.svcDataWrite a v
  else if 0x70000400 ≤ a ∧ a < 0x70000424 then s.strengthWrite (a % 0x400 / 4) v
  else if a = Reg.MG_SCRUBCTL then s.scrubWrite v
  else s.store a Reg.MG_MEMCFGCHK (s.flag Reg.MG_SCRUBCTL 0 || s.mem.scrubTicket.isSome) v

/-- A write to the power manager. -/
def State.pmBlock (s : State) (a : Nat) (v : Word) : State :=
  if a = Reg.PM_DOMCTL0 then s.domctlWrite 0 v
  else if a = Reg.PM_DOMCTL1 then s.domctlWrite 1 v
  else if a = Reg.PM_OPCTL then s.opctlWrite v
  else if a = Reg.PM_SLEEP then s.sleepWrite v
  else if a = Reg.PM_PADREL then s.padrelWrite v
  else s.pmWrite a v

/-- A write of FC_CMD (R369). -/
def State.fcCmdWrite (s : State) (v : Word) : State :=
  let out (r : Result) : State := match r with | .next s => s | _ => s
  match fieldOf v 2 0 with
  | 1 => out (execFlashProgram v s)
  | 2 => out (execFlashErase v s)
  | 3 => out (execFlashSuspend v s)
  | 4 => out (execFlashResume v s)
  | 5 => out (execFlashAckrecov v s)
  | n => s.flashCmd v n fun s _ _ => s

/-- A write of LG_CMD (R383, R384). -/
def State.lgCmdWrite (s : State) (v : Word) : State :=
  match fieldOf v 1 0 with
  | 1 => s.ledgerCommit v
  | 2 => s.ledgerRead v
  | _ => s.cfgFail Reg.LG_CFGCHK ⟨if s.flag Reg.LG_STAT 0 then 0x01 else 0x05, 0, 0⟩

/-- A write to the flash controller or the ledger service. -/
def State.flashBlock (s : State) (a : Nat) (v : Word) : State :=
  if a = Reg.FC_CTRL then s.fcCtrlWrite v
  else if a = Reg.FC_CMD then s.fcCmdWrite v
  else if 0x70020040 ≤ a ∧ a < 0x70020080 then s.xoWrite (a % 0x40 / 4) v
  else if 0x70021000 ≤ a ∧ a < 0x70021400 then s.pbufWrite (a % 0x1000 / 0x200) (a % 0x200 / 4) v
  else if a = Reg.LG_CMD then s.lgCmdWrite v
  else if 0x70031000 ≤ a ∧ a < 0x700311F0 then s.lgBufWrite (a % 0x1000 / 4) v
  else s.store a (if a < 0x70030000 then Reg.FC_CFGCHK else Reg.LG_CFGCHK) false v

/-- A write to the test port. -/
def State.tpBlock (s : State) (a : Nat) (v : Word) : State :=
  if a = Reg.TP_CTRL then s.tpCtrlWrite v
  else if a = Reg.TP_XBDLY then s.pertWrite .xbdly v
  else if a = Reg.TP_DMABP then s.pertWrite .dmabp v
  else if a = Reg.TP_SODLY then s.pertWrite .sodly v
  else if a = Reg.TP_CSDLY then s.pertWrite .csdly v
  else if a = Reg.TP_INJ then s.injWrite v
  else if a = Reg.TP_DBGCTL then s.dbgWrite v
  else s.store a Reg.TP_CFGCHK false v

/-- A write in the management range. -/
def State.mgmtWrite (s : State) (m : Master) (a : Nat) (v : Word) : State :=
  if a < 0x70010000 then s.mgBlock m a v
  else if a < 0x70020000 then s.pmBlock a v
  else if a < 0x70040000 then s.flashBlock a v
  else if a < 0x70050000 then s
  else if a = Reg.RD_CTL 0 then s.rdCtlWrite 0 v
  else if a = Reg.RD_CTL 1 then s.rdCtlWrite 1 v
  else if a < 0x70060000 then s.store a Reg.RD_CFGCHK false v
  else if a < 0x70070000 then s.mcodeWrite a v (isMgmt m)
  else s.tpBlock a v

/-! Any register. -/

/-- The post room lies behind an address of the aperture: the word's place in it for port p (R462). -/
def State.postAt (s : State) (p a : Nat) : Option Nat :=
  if 0x60060000 ≤ a ∧ a < 0x60080000 then some (postRoom + 0x20000 * s.fld (Reg.HP_PRSEL p) 0 0 + a % 0x20000) else none

/-- A read of a post-room word, corrected or uncorrectable. -/
def State.postRead (s : State) (a : Nat) : State × Option Word :=
  match popcount (s.flipsAt a) with
  | 0 => (s, some (s.word a))
  | 1 => ({ s with mem := { s.mem with flips := mapErase s.mem.flips (a / 4) } }, some (s.word a))
  | _ => (s, none)

/-- The power domain of a register address is usable; an always-on block always is. -/
def State.regReach (s : State) (a : Nat) : Bool := match domOfReg a with | some d => s.domOn d | none => true

/-- A write of the aligned word at a (R9, R19, R426). -/
def State.regWrite (s : State) (m : Master) (a : Nat) (v : Word) : State × BusRes :=
  if !s.regReach a then (s, .decode)
  else match s.postAt (portOf m) a with
    | some b => (s.setWord b v, .ok)
    | none =>
      if a < 0x60000000 then (s.controlWrite a v, .ok)
      else if a < 0x70000000 then (s.periphWrite m a v, .ok)
      else (s.mgmtWrite m a v, .ok)

/-- What a register that follows something else reads as. -/
def State.specialRead (s : State) (m : Master) (a : Nat) : Word :=
  if a = Reg.MG_DEVTIMELO then BitVec.ofNat 32 s.now
  else if a = Reg.MG_DEVTIMEHI then BitVec.ofNat 32 (s.now / 2 ^ 32)
  else if a = Reg.PM_OPSTAT then s.opstatRead
  else if 0x50010000 ≤ a ∧ a < 0x50011800 ∧ a % 0x40 = 0x14 then s.cmpStatRead (a % 0x10000 / 0x40)
  else if a = Reg.MAC_TOFSLO 0 then BitVec.ofNat 32 (s.macShown 0)
  else if a = Reg.MAC_TOFSHI 0 then BitVec.ofNat 32 (s.macShown 0 / 2 ^ 32)
  else if a = Reg.MAC_TOFSLO 1 then BitVec.ofNat 32 (s.macShown 1)
  else if a = Reg.MAC_TOFSHI 1 then BitVec.ofNat 32 (s.macShown 1 / 2 ^ 32)
  else if mcStage ≤ a ∧ a < 0x70061C00 then s.stageRead a (isMgmt m)
  else s.reg a

/-- A read of the aligned word at a. -/
def State.regRead (s : State) (m : Master) (a : Nat) : Ans :=
  if !s.regReach a then (s, 0, .decode)
  else match s.postAt (portOf m) a with
    | some b =>
      match s.postRead b with
      | (s, some w) => (s, w.toNat, .ok)
      | (s, none) => (s, 0, .uncorr)
    | none => (s, (s.specialRead m a).toNat, .ok)

/-! Any address. -/

/-- An address of a register range. -/
def isReg (a : Nat) : Bool := match regionOf a with | .control | .periph | .mgmt => true | _ => false

/-- An aligned 64-bit register read is two 32-bit reads, the lower address first (R54). -/
def State.regRead8 (s : State) (m : Master) (a : Nat) : Ans :=
  let r := s.regRead m a
  let q := r.1.regRead m (a + 4)
  (q.1, r.2.1 + 2 ^ 32 * q.2.1, r.2.2.and q.2.2)

/-- A read of n bytes inside one aligned 64-bit word: registers as aligned 32-bit words (R54). -/
def State.busReadPiece (s : State) (m : Master) (a n ext : Nat) : Ans :=
  if isReg a then
    if a % 4 = 0 ∧ n = 4 then s.regRead m a
    else if a % 8 = 0 ∧ n = 8 then s.regRead8 m a
    else (s, 0, .decode)
  else s.readPiece m a n ext

/-- An aligned 64-bit register write is two 32-bit writes, the lower address first (R54). -/
def State.regWrite8 (s : State) (m : Master) (a v : Nat) : State × BusRes :=
  let r := s.regWrite m a (BitVec.ofNat 32 v)
  let q := r.1.regWrite m (a + 4) (BitVec.ofNat 32 (v / 2 ^ 32))
  (q.1, r.2.and q.2)

/-- A write of n bytes inside one aligned 64-bit word. -/
def State.busWritePiece (s : State) (m : Master) (a n v : Nat) : State × BusRes :=
  if isReg a then
    if a % 4 = 0 ∧ n = 4 then s.regWrite m a (BitVec.ofNat 32 v)
    else if a % 8 = 0 ∧ n = 8 then s.regWrite8 m a v
    else (s, .decode)
  else s.writePiece m a n v

/-- Read n bytes at a, up to a piece that fails; `ext` is what the outside answers through the PCIe window. -/
def State.busRead (s : State) (m : Master) (a n ext : Nat) : Ans :=
  (pieces a n).foldl (fun (s, v, r) (b, k, sh) =>
    if r ≠ .ok then (s, v, r)
    else
      let (s, w, q) := s.busReadPiece m b k (ext / 256 ^ sh)
      (s, v + w * 256 ^ sh, q)) (s, 0, .ok)

/-- Write n bytes at a, in ascending order. -/
def State.busWrite (s : State) (m : Master) (a n v : Nat) : State × BusRes :=
  (pieces a n).foldl (fun (s, r) (b, k, sh) =>
    let (s, q) := s.busWritePiece m b k (v / 256 ^ sh % 256 ^ k)
    (s, r.and q)) (s, .ok)

/-- An access to a and the n bytes from it on that ends in a decode error whatever it finds: an address outside every
range, a register accessed otherwise than as aligned words, or a gated domain (R53, R54, R426). -/
def State.badAccess (s : State) (a n : Nat) : Bool :=
  (pieces a n).any fun (b, k, _) =>
    match regionOf b with
    | .outside => true
    | .control | .periph | .mgmt => !(decide (b % 4 = 0) && decide (k % 4 = 0)) || !s.regReach b
    | .cell c _ => k != 4 || b % 4 != 0 || !s.domOn (domCell c)
    | .sram | .tcm _ | .mapStore => !s.domOn (domMem b)
    | .bootFlash | .otherFlash | .bankA | .bankB => !s.domOn (domBank (s.flashPlace b).1)
    | .pcie => !s.domOn 0x32
    | .otp | .ledger => false

end Sys2Proof.Machine
end

