-- ==== Sys2Proof/Machine/CellIsa.lean ====
section
/-! DEFINITION. Molpa-L, the loop cells' instructions (R160 to R169). Each command names the cell and gives the
instruction's decoded fields; `e` is the end bit. -/

namespace Sys2Proof.Machine

/-! Ports (R168, R169). -/

/-- The value view of SQn_RESk (R169); `x` is 32n + k. -/
def State.resultView (s : State) (x : Nat) : Word :=
  let w := s.reg (Reg.SQ_RES (x / 32) (x % 32))
  if s.flag (entReg x) 7 then BitVec.ofNat 32 (fieldOf w 23 0 * 256) else BitVec.ofNat 32 (65536 * fieldOf w 15 0)

/-- A read of port p by cell c: registers as they stand before edge t + 1 (R163, R168). -/
def State.portRead (s : State) (c p : Nat) : Word :=
  let h := (s.cell c).handler
  if p < 0x200 then s.reg (Reg.SQ_RES (p / 32) (p % 32))
  else if p < 0x400 then s.resultView (p - 0x200)
  else if p < 0x500 then
    let n := (p - 0x400) / 16
    match p % 16 with
    | 0 => s.reg (Reg.PI_POS n) | 1 => s.reg (Reg.PI_REV n) | 2 => s.reg (Reg.PI_EDGETS n)
    | 3 => s.reg (Reg.PI_SPDPER n) | 4 => s.reg (Reg.PI_STAT n) | 5 => s.reg (Reg.PI_INDEXPOS n)
    | 6 => s.reg (Reg.PI_INDEXERR n) | 7 => s.reg (Reg.PI_EMUCNT n) | 8 => s.reg (Reg.PI_EMUPOS n)
    | 9 => s.reg (Reg.PI_SSISTAT n) | _ => 0
  else if p < 0x560 then s.reg (Reg.CMP_REF (p - 0x500))
  else if 0x580 ≤ p ∧ p < 0x5E0 then s.cmpStatRead (p - 0x580)
  else if 0x600 ≤ p ∧ p < 0xC00 then
    let n := (p - 0x600) / 16
    match p % 16 with
    | 0 => s.reg (Reg.PWM_PER n) | 1 => s.reg (Reg.PWM_CMPA n) | 2 => s.reg (Reg.PWM_CMPB n)
    | 3 => s.reg (Reg.PWM_PHASE n) | 4 => s.reg (Reg.PWM_TRG n 0) | 5 => s.reg (Reg.PWM_TRG n 1)
    | 6 => s.reg (Reg.PWM_TRG n 2) | 7 => s.reg (Reg.PWM_TRG n 3) | _ => 0
  else if 0xC00 ≤ p ∧ p < 0xC40 then s.reg (Reg.CS_STAT (p - 0xC00))
  else if p = 0xF10 then BitVec.ofNat 32 s.now
  else if p = 0xF11 then BitVec.ofNat 32 (s.now / 2 ^ 32)
  else if p = 0xF12 then BitVec.ofNat 32 (match h with | some x => x.stamp | none => 0)
  else if p = 0xF13 then (match h with | some x => BitVec.ofNat 32 (x.depth * 16 + x.vec.getD 0) | none => 0)
  else if p = 0xF14 then BitVec.ofNat 32 (bit (s.paired c) * 256 + c)
  else 0

/-- A port that a cell may write (R168). -/
def portWritable (p : Nat) : Bool :=
  (decide (0x400 ≤ p) && decide (p < 0x500) && (p % 16 == 0 || p % 16 == 1 || p % 16 == 8)) ||
  (decide (0x500 ≤ p) && decide (p < 0x560)) ||
  (decide (0x600 ≤ p) && decide (p < 0xC00) && decide (p % 16 < 9)) || (decide (0xF00 ≤ p) && decide (p < 0xF04))

/-! Issue (R161, R162, R165, R172, R177, R178). -/

/-- What one cell does with an instruction: registers written, accumulator, next PC (none: the following instruction),
return stack, words stored, port writes, map-store request, fault cause, corrected loads. -/
structure LcOut where
  regs : List (Nat × Word) := []
  acc : Option (Bool × BitVec 80) := none
  target : Option Int := none
  stack : Option (List Nat) := none
  store : List (Nat × Word) := []
  port : List (Nat × Word) := []
  ms : Option MsReq := none
  fault : Option Nat := none
  corrected : Nat := 0
deriving DecidableEq, Repr

/-- The lowest of two optional fault codes (R175). -/
def lowFault : Option Nat → Option Nat → Option Nat
  | none, y => y
  | some x, none => some x
  | some x, some y => some (min x y)

/-- A fault of the fetch: past the last instruction, or an uncorrectable word (R166, R175). -/
def State.lcFetchFault (s : State) (k pc : Nat) : Option Nat :=
  if 2047 < pc then some 3 else if 1 < popcount (s.flipsAt (lcProg k pc)) then some 6 else none

/-- Everything one cell's result changes in its own record and counters. -/
def State.lcApply (s : State) (k t lat : Nat) (o : LcOut) : State :=
  let s := (List.range o.corrected).foldl (fun s _ => s.lcCorrected k) s
  let r := s.cell k
  let v := o.regs.foldl (fun m p => mapSet 0 m p.1 p.2) r.v
  let ready := o.regs.foldl (fun m p => mapSet 0 m p.1 (t + lat)) r.ready
  let r := { r with v := v, ready := ready }
  let r := match o.acc with
    | some (false, x) => { r with acc0 := x }
    | some (true, x) => { r with acc1 := x }
    | none => r
  s.setCell k r

/-- The issue edge of an instruction of cell c: when its sources and destinations have been written (R162), and for a
map-store instruction when the earlier request has been granted (R188). -/
def State.lcIssueAt (s : State) (c : Nat) (regs : List Nat) (isMs : Bool) : Nat :=
  let r := s.cell c
  let t := regs.foldl (fun t i => max t (mapGet 0 r.ready i)) r.nextIssue
  if isMs then max t (mapGet 0 s.ports.grantAt (c % 8)) else t

/-- The outputs of a pair's two cells differ: kind and address for LCn_MISM (R177). -/
def lcOutputs (x y : LcOut) : Option (Nat × Nat × Bool) :=
  match x.port, y.port, x.store, y.store, x.ms, y.ms with
  | p :: _, q, _, _, _, _ => some (0, p.1, p :: x.port.tail != q)
  | [], q :: _, _, _, _, _ => some (0, q.1, true)
  | [], [], p :: _, q, _, _ => some (1, p.1, p :: x.store.tail != q)
  | [], [], [], q :: _, _, _ => some (1, q.1, true)
  | [], [], [], [], some a, b => some (3, 0, some a != b)
  | [], [], [], [], none, some _ => some (3, 0, true)
  | [], [], [], [], none, none => none

/-- One instruction of cell or pair c: `srcs` and `dsts` are its registers, `cyc` and `lat` its issue cycles and
latency, `f` what one cell does with it. A cell that is not running a handler issues nothing. -/
def State.lcExec (s : State) (c : Nat) (e : Bool) (srcs dsts : List Nat) (cyc lat : Nat) (isMs : Bool)
    (f : State → Nat → LcOut) : State :=
  let st := s.cellState c
  match (s.cell c).handler with
  | none => s
  | some h =>
    if (s.cell c).ending.isSome || !s.unitOn (domCell c) || !(st == 2 || st == 4 || st == 5) then s
    else
      let wait := match (s.cell c).ms with | some q => isMs || (srcs ++ dsts).contains q.vd | none => false
      let s := if wait then s.msServe c else s
      let t := s.lcIssueAt c (srcs ++ dsts) isMs
      let limit := h.start + h.budget
      let pc := (s.cell c).pc
      let both := s.lcBoth c
      let late := fun (s : State) => (s.advanceTo limit).cellFaultAt c 2
      if limit ≤ t then late s
      else
        let s := (s.advanceTo t).setFld (Reg.LC_RUN c) 10 0 pc
        let early := both.foldl (fun x k => lowFault x (s.lcFetchFault k pc)) none
        if early.isSome then s.cellFaultAt c (early.getD 0)
        else
          let s := both.foldl (fun s k => if popcount (s.flipsAt (lcProg k pc)) = 1 then s.lcCorrected k else s) s
          let x := f s c
          let y := if s.paired c then f s (c + 1) else x
          let next := x.target.getD (pc + 1)
          let over32 := s.paired c && decide (32 < (s.cell c).stores.length + x.store.length)
          let range := match x.target with | some z => decide (z < 0) || decide (2047 < z) | none => false
          let fault := lowFault (lowFault x.fault y.fault)
            (lowFault (if range then some 3 else none) (if over32 then some 5 else none))
          match fault with
          | some cause => s.cellFaultAt c cause
          | none =>
            if limit < t + cyc then late s
            else
              let (s, bad) := match lcOutputs x y with
                | none => (s, none)
                | some (kind, addr, d) => let (s, b) := s.lcDiffer c d; (s, if b then some (kind, addr) else none)
              match bad with
              | some (kind, addr) => s.lcMismatch c kind addr
              | none =>
                let s := s.lcApply c t lat x
                let s := if s.paired c then s.lcApply (c + 1) t lat y else s
                let s := if s.paired c then s else x.store.foldl (fun s p => s.setWord (lcData c p.1) p.2) s
                let r := s.cell c
                s.setCell c { r with
                  pc := next.toNat
                  stack := x.stack.getD r.stack
                  split := r.split || (s.paired c && x.target != y.target)
                  stores := if s.paired c then r.stores ++ x.store else r.stores
                  writes := r.writes ++ x.port.map fun p => PortWrite.mk (t + 3) p.1 p.2
                  ms := match x.ms with | some q => some { q with issued := t } | none => r.ms
                  nextIssue := t + cyc
                  ending := if e then some (t + cyc) else none }

/-! Shapes of instructions. -/

/-- An operation on a and b. -/
def State.lcAlu (s : State) (c : Nat) (e : Bool) (d a b : Nat) (f : Word → Word → Word) : Result :=
  .next (s.lcExec c e [a, b] [d] 1 1 false fun s k => { regs := [(d, f (s.lcV k a) (s.lcV k b))] })

/-- An operation on a alone. -/
def State.lcAlu1 (s : State) (c : Nat) (e : Bool) (d a : Nat) (f : Word → Word) : Result :=
  .next (s.lcExec c e [a] [d] 1 1 false fun s k => { regs := [(d, f (s.lcV k a))] })

/-- An operation on a, b and c. -/
def State.lcAlu3 (s : State) (c : Nat) (e : Bool) (d a b x : Nat) (f : Word → Word → Word → Word) : Result :=
  .next (s.lcExec c e [a, b, x] [d] 1 1 false fun s k => { regs := [(d, f (s.lcV k a) (s.lcV k b) (s.lcV k x))] })

/-- An operation on no register. -/
def State.lcConst (s : State) (c : Nat) (e : Bool) (d : Nat) (w : Word) : Result :=
  .next (s.lcExec c e [] [d] 1 1 false fun _ _ => { regs := [(d, w)] })

/-- A shift by an immediate: bits [15:5] must be 0 (R165). -/
def State.lcShift (s : State) (c : Nat) (e : Bool) (d a : Nat) (imm : BitVec 16) (f : Word → Nat → Word) : Result :=
  .next (s.lcExec c e [a] [d] 1 1 false fun s k =>
    if 32 ≤ imm.toNat then { fault := some 3 } else { regs := [(d, f (s.lcV k a) imm.toNat)] })

/-- An accumulator of cell k. -/
def State.lcAcc (s : State) (k : Nat) (x : Bool) : Int := if x then (s.cell k).acc1.toInt else (s.cell k).acc0.toInt

/-- A saturated accumulator value (R160). -/
def satAcc (z : Int) : BitVec 80 := BitVec.ofInt 80 (clipInt (-(2 ^ 79 - 1)) (2 ^ 79 - 1) z)

/-- An operation that writes an accumulator. -/
def State.lcAccOp (s : State) (c : Nat) (e x : Bool) (srcs : List Nat) (f : State → Nat → Int → BitVec 80) : Result :=
  .next (s.lcExec c e srcs [] 1 1 false fun s k => { acc := some (x, f s k (s.lcAcc k x)) })

/-- Signed values of a word, and floor(x / 2^k). -/
def sv (w : Word) : Int := signedOf 32 w.toNat
def sra (z : Int) (k : Nat) : Int := z / (2 ^ k : Nat)

/-- A word of data memory as cell k loads it: the pair's buffer first, the youngest word (R178), else memory through
SECDED. The fault codes are R175's. -/
def State.lcLoad (s : State) (k : Nat) (addr align : Nat) : LcOut × Word :=
  if addr % align ≠ 0 ∨ 8192 < addr + align then ({ fault := some 4 }, 0)
  else
    let i := addr / 4
    let even := if s.follows k then k - 1 else k
    match ((s.cell even).stores.filter fun p => p.1 == i).getLast? with
    | some p => ({}, p.2)
    | none =>
      match popcount (s.flipsAt (lcData k i)) with
      | 0 => ({}, s.word (lcData k i))
      | 1 => ({ corrected := 1 }, s.word (lcData k i))
      | _ => ({ fault := some 7 }, 0)

/-- The address of a load or store: a + sext(imm16), modulo 2^32. -/
def State.lcAddr (s : State) (k a : Nat) (imm : BitVec 16) : Nat := (s.lcV k a + imm.signExtend 32).toNat

/-- The port of a P-format instruction (R166). -/
def State.lcPort (s : State) (k a : Nat) (x : Bool) (port : BitVec 12) : Nat :=
  if x then (port.toNat + (s.lcV k a).toNat) % 4096 else port.toNat

/-- The number under which cell k reads ports: the even cell's in a pair. -/
def State.lcSelf (s : State) (k : Nat) : Nat := if s.follows k then k - 1 else k

/-- A conditional branch (R166); E = 1 is illegal in format B (R165). -/
def State.lcBranch (s : State) (c : Nat) (e : Bool) (a b : Nat) (off : BitVec 13) (f : Word → Word → Bool) : Result :=
  .next (s.lcExec c false [a, b] [] 1 1 false fun s k =>
    if e then { fault := some 3 }
    else if f (s.lcV k a) (s.lcV k b) then { target := some ((s.cell c).pc + off.toInt) } else {})

/-- A map-store request (R186). -/
def State.lcMs (s : State) (c : Nat) (e : Bool) (d a : Nat) (b : Option Nat) (td : Nat) (kind : MsKind) : Result :=
  .next (s.lcExec c e (a :: b.toList) [d] 1 6 true fun s k =>
    { ms := some ⟨0, kind, td, s.lcV k a, (match b with | some i => s.lcV k i | none => 0), d⟩ })

/-! Instructions. -/

/-- LC_ADD (R166): vd := a + b. -/
def execLcAdd (c : Fin 52) (e : Bool) (d a b : Fin 32) (s : State) : Result :=
  s.lcAlu c e d a b fun x y => x + y

/-- LC_SUB (R166): vd := a - b. -/
def execLcSub (c : Fin 52) (e : Bool) (d a b : Fin 32) (s : State) : Result :=
  s.lcAlu c e d a b fun x y => x - y

/-- LC_AND (R166): vd := a and b. -/
def execLcAnd (c : Fin 52) (e : Bool) (d a b : Fin 32) (s : State) : Result :=
  s.lcAlu c e d a b fun x y => x &&& y

/-- LC_OR (R166): vd := a or b. -/
def execLcOr (c : Fin 52) (e : Bool) (d a b : Fin 32) (s : State) : Result :=
  s.lcAlu c e d a b fun x y => x ||| y

/-- LC_XOR (R166): vd := a xor b. -/
def execLcXor (c : Fin 52) (e : Bool) (d a b : Fin 32) (s : State) : Result :=
  s.lcAlu c e d a b fun x y => x ^^^ y

/-- LC_ANDN (R166): vd := a and not b. -/
def execLcAndn (c : Fin 52) (e : Bool) (d a b : Fin 32) (s : State) : Result :=
  s.lcAlu c e d a b fun x y => x &&& ~~~y

/-- LC_SLL (R166): vd := a << b[4:0]. -/
def execLcSll (c : Fin 52) (e : Bool) (d a b : Fin 32) (s : State) : Result :=
  s.lcAlu c e d a b fun x y => x <<< (y.toNat % 32)

/-- LC_SRL (R166): vd := a >> b[4:0], logical. -/
def execLcSrl (c : Fin 52) (e : Bool) (d a b : Fin 32) (s : State) : Result :=
  s.lcAlu c e d a b fun x y => x >>> (y.toNat % 32)

/-- LC_SRA (R166): vd := a >> b[4:0], arithmetic. -/
def execLcSra (c : Fin 52) (e : Bool) (d a b : Fin 32) (s : State) : Result :=
  s.lcAlu c e d a b fun x y => x.sshiftRight (y.toNat % 32)

/-- LC_SLT (R166): signed a < b. -/
def execLcSlt (c : Fin 52) (e : Bool) (d a b : Fin 32) (s : State) : Result :=
  s.lcAlu c e d a b fun x y => if sv x < sv y then 1 else 0

/-- LC_SLTU (R166): unsigned a < b. -/
def execLcSltu (c : Fin 52) (e : Bool) (d a b : Fin 32) (s : State) : Result :=
  s.lcAlu c e d a b fun x y => if x.toNat < y.toNat then 1 else 0

/-- LC_MIN (R166): signed minimum. -/
def execLcMin (c : Fin 52) (e : Bool) (d a b : Fin 32) (s : State) : Result :=
  s.lcAlu c e d a b fun x y => if sv y < sv x then y else x

/-- LC_MAX (R166): signed maximum. -/
def execLcMax (c : Fin 52) (e : Bool) (d a b : Fin 32) (s : State) : Result :=
  s.lcAlu c e d a b fun x y => if sv x < sv y then y else x

/-- LC_MUL (R166): low word of the product. -/
def execLcMul (c : Fin 52) (e : Bool) (d a b : Fin 32) (s : State) : Result :=
  s.lcAlu c e d a b fun x y => x * y

/-- LC_MULH (R166): high word of the signed product. -/
def execLcMulh (c : Fin 52) (e : Bool) (d a b : Fin 32) (s : State) : Result :=
  s.lcAlu c e d a b fun x y => Word.ofInt (sra (sv x * sv y) 32)

/-- LC_SEL (R166): vd := a if c is not 0, else b. -/
def execLcSel (c : Fin 52) (e : Bool) (d a b x : Fin 32) (s : State) : Result :=
  s.lcAlu3 c e d a b x fun x y z => if z = 0 then y else x

/-- LC_CLZ (R166): leading zeros. -/
def execLcClz (c : Fin 52) (e : Bool) (d a : Fin 32) (s : State) : Result :=
  s.lcAlu1 c e d a fun x => BitVec.ofNat 32 (32 - bitLen x.toNat)

/-- LC_ADD_S (R166): sat(a + b). -/
def execLcAddS (c : Fin 52) (e : Bool) (d a b : Fin 32) (s : State) : Result :=
  s.lcAlu c e d a b fun x y => sat32 (sv x + sv y)

/-- LC_SUB_S (R166): sat(a - b). -/
def execLcSubS (c : Fin 52) (e : Bool) (d a b : Fin 32) (s : State) : Result :=
  s.lcAlu c e d a b fun x y => sat32 (sv x - sv y)

/-- LC_NEG_S (R166): sat(-a). -/
def execLcNegS (c : Fin 52) (e : Bool) (d a : Fin 32) (s : State) : Result :=
  s.lcAlu1 c e d a fun x => sat32 (-sv x)

/-- LC_ABS_S (R166): sat(abs a). -/
def execLcAbsS (c : Fin 52) (e : Bool) (d a : Fin 32) (s : State) : Result :=
  s.lcAlu1 c e d a fun x => sat32 (sv x).natAbs

/-- LC_MULQ (R166): sat((a x b) >> 31). -/
def execLcMulq (c : Fin 52) (e : Bool) (d a b : Fin 32) (s : State) : Result :=
  s.lcAlu c e d a b fun x y => sat32 (sra (sv x * sv y) 31)

/-- LC_MADQ (R166): sat(c + ((a x b) >> 31)). -/
def execLcMadq (c : Fin 52) (e : Bool) (d a b x : Fin 32) (s : State) : Result :=
  s.lcAlu3 c e d a b x fun x y z => sat32 (sv z + sra (sv x * sv y) 31)

/-- LC_MULQ15 (R166): sat16 of the Q15 product. -/
def execLcMulq15 (c : Fin 52) (e : Bool) (d a b : Fin 32) (s : State) : Result :=
  s.lcAlu c e d a b fun x y => sat16 (sra (low16 x * low16 y) 15)

/-- LC_MADQ15 (R166): sat16(c + Q15 product). -/
def execLcMadq15 (c : Fin 52) (e : Bool) (d a b x : Fin 32) (s : State) : Result :=
  s.lcAlu3 c e d a b x fun x y z => sat16 (low16 z + sra (low16 x * low16 y) 15)

/-- LC_CLMP (R166): min(max(a, -b), b). -/
def execLcClmp (c : Fin 52) (e : Bool) (d a b : Fin 32) (s : State) : Result :=
  s.lcAlu c e d a b fun x y => Word.ofInt (min (max (sv x) (-sv y)) (sv y))

/-- LC_SHLS (R166): sat(a x 2^b[4:0]). -/
def execLcShls (c : Fin 52) (e : Bool) (d a b : Fin 32) (s : State) : Result :=
  s.lcAlu c e d a b fun x y => sat32 (sv x * (2 ^ (y.toNat % 32) : Nat))

/-- LC_RNDQ15 (R166): Q31 to Q15. -/
def execLcRndq15 (c : Fin 52) (e : Bool) (d a : Fin 32) (s : State) : Result :=
  s.lcAlu1 c e d a fun x => sat16 (sra (sv x + 32768) 16)

/-- LC_FADD (R166): FP32 a + b. -/
def execLcFadd (c : Fin 52) (e : Bool) (d a b : Fin 32) (s : State) : Result :=
  s.lcAlu c e d a b fun x y => fpAdd x y

/-- LC_FSUB (R166): FP32 a - b. -/
def execLcFsub (c : Fin 52) (e : Bool) (d a b : Fin 32) (s : State) : Result :=
  s.lcAlu c e d a b fun x y => fpSub x y

/-- LC_FMUL (R166): FP32 a x b. -/
def execLcFmul (c : Fin 52) (e : Bool) (d a b : Fin 32) (s : State) : Result :=
  s.lcAlu c e d a b fun x y => fpMul x y

/-- LC_FMAD (R166): FP32 c + a x b, one rounding. -/
def execLcFmad (c : Fin 52) (e : Bool) (d a b x : Fin 32) (s : State) : Result :=
  s.lcAlu3 c e d a b x fun x y z => fpMad x y z

/-- LC_FMIN (R166): FP32 minimum. -/
def execLcFmin (c : Fin 52) (e : Bool) (d a b : Fin 32) (s : State) : Result :=
  s.lcAlu c e d a b fun x y => fpMin x y

/-- LC_FMAX (R166): FP32 maximum. -/
def execLcFmax (c : Fin 52) (e : Bool) (d a b : Fin 32) (s : State) : Result :=
  s.lcAlu c e d a b fun x y => fpMax x y

/-- LC_FABS (R166): sign cleared. -/
def execLcFabs (c : Fin 52) (e : Bool) (d a : Fin 32) (s : State) : Result :=
  s.lcAlu1 c e d a fun x => fpAbs x

/-- LC_FNEG (R166): sign inverted. -/
def execLcFneg (c : Fin 52) (e : Bool) (d a : Fin 32) (s : State) : Result :=
  s.lcAlu1 c e d a fun x => fpNeg x

/-- LC_FCVT_QF (R166): Q31 to FP32. -/
def execLcFcvtQf (c : Fin 52) (e : Bool) (d a : Fin 32) (s : State) : Result :=
  s.lcAlu1 c e d a fun x => fcvtQF x

/-- LC_FCVT_FQ (R166): FP32 to Q31. -/
def execLcFcvtFq (c : Fin 52) (e : Bool) (d a : Fin 32) (s : State) : Result :=
  s.lcAlu1 c e d a fun x => fcvtFQ x

/-- LC_FCVT_IF (R166): integer to FP32. -/
def execLcFcvtIf (c : Fin 52) (e : Bool) (d a : Fin 32) (s : State) : Result :=
  s.lcAlu1 c e d a fun x => fcvtIF x

/-- LC_FCVT_FI (R166): FP32 to integer. -/
def execLcFcvtFi (c : Fin 52) (e : Bool) (d a : Fin 32) (s : State) : Result :=
  s.lcAlu1 c e d a fun x => fcvtFI x

/-- LC_FLT (R166): FP32 a < b. -/
def execLcFlt (c : Fin 52) (e : Bool) (d a b : Fin 32) (s : State) : Result :=
  s.lcAlu c e d a b fun x y => if fpLt x y then 1 else 0

/-- LC_MACA (R166): acc := sat(acc + a x b). -/
def execLcMaca (c : Fin 52) (e : Bool) (x : Bool) (a b : Fin 32) (s : State) : Result :=
  s.lcAccOp c e x [a, b] fun s k acc => satAcc (acc + sv (s.lcV k a) * sv (s.lcV k b))

/-- LC_MSUA (R166): acc := sat(acc - a x b). -/
def execLcMsua (c : Fin 52) (e : Bool) (x : Bool) (a b : Fin 32) (s : State) : Result :=
  s.lcAccOp c e x [a, b] fun s k acc => satAcc (acc - sv (s.lcV k a) * sv (s.lcV k b))

/-- LC_ACLR (R166): acc := 0. -/
def execLcAclr (c : Fin 52) (e : Bool) (x : Bool) (s : State) : Result :=
  s.lcAccOp c e x [] fun _ _ _ => 0

/-- LC_ALD (R166): acc := a x 2^31. -/
def execLcAld (c : Fin 52) (e : Bool) (x : Bool) (a : Fin 32) (s : State) : Result :=
  s.lcAccOp c e x [a] fun s k _ => BitVec.ofInt 80 (2 ^ 31 * sv (s.lcV k a))

/-- LC_ARD (R166): vd := sat32((acc + 2^30) >> 31). -/
def execLcArd (c : Fin 52) (e : Bool) (x : Bool) (d : Fin 32) (s : State) : Result :=
  .next (s.lcExec c e [] [d] 1 1 false fun s k => { regs := [(d, sat32 (sra (s.lcAcc k x + 2 ^ 30) 31))] })

/-- LC_ARD15 (R166): vd := sat32((acc + 2^14) >> 15). -/
def execLcArd15 (c : Fin 52) (e : Bool) (x : Bool) (d : Fin 32) (s : State) : Result :=
  .next (s.lcExec c e [] [d] 1 1 false fun s k => { regs := [(d, sat32 (sra (s.lcAcc k x + 2 ^ 14) 15))] })

/-- LC_CLARKE (R166): Clarke transform; vd even. -/
def execLcClarke (c : Fin 52) (e : Bool) (d a b : Fin 32) (s : State) : Result :=
  .next (s.lcExec c e [a, b] [d, d + 1] 1 1 false fun s k =>
    if d.val % 2 = 1 then { fault := some 3 }
    else { regs := [(d, s.lcV k a), (d + 1, clarkeB (s.lcV k a) (s.lcV k b))] })

/-- LC_PARK (R166): rotation by angle b; vd and va even. -/
def execLcPark (c : Fin 52) (e : Bool) (d a b : Fin 32) (s : State) : Result :=
  .next (s.lcExec c e [a, a + 1, b] [d, d + 1] 2 2 false fun s k =>
    if d.val % 2 = 1 ∨ a.val % 2 = 1 then { fault := some 3 }
    else
      let r := parkPair (s.lcV k a) (s.lcV k (a + 1)) (s.lcV k b)
      { regs := [(d, r.1), (d + 1, r.2)] })

/-- LC_IPARK (R166): rotation by angle b; vd and va even. -/
def execLcIpark (c : Fin 52) (e : Bool) (d a b : Fin 32) (s : State) : Result :=
  .next (s.lcExec c e [a, a + 1, b] [d, d + 1] 2 2 false fun s k =>
    if d.val % 2 = 1 ∨ a.val % 2 = 1 then { fault := some 3 }
    else
      let r := iparkPair (s.lcV k a) (s.lcV k (a + 1)) (s.lcV k b)
      { regs := [(d, r.1), (d + 1, r.2)] })

/-- LC_SVM (R166): space-vector times (R167). -/
def execLcSvm (c : Fin 52) (e : Bool) (d a : Fin 32) (s : State) : Result :=
  .next (s.lcExec c e [a, a + 1] [d, d + 1, d + 2, d + 3] 3 3 false fun s k =>
    if d.val % 4 ≠ 0 ∨ a.val % 2 = 1 then { fault := some 3 }
    else
      let r := svmOf (s.lcV k a) (s.lcV k (a + 1))
      { regs := [(d, r.1), (d + 1, r.2.1), (d + 2, r.2.2.1), (d + 3, r.2.2.2)] })

/-- LC_ADDI (R166): vd := a + sext(imm16). -/
def execLcAddi (c : Fin 52) (e : Bool) (d a : Fin 32) (imm : BitVec 16) (s : State) : Result :=
  s.lcAlu1 c e d a fun x => x + imm.signExtend 32

/-- LC_ANDI (R166): with imm16 zero-extended. -/
def execLcAndi (c : Fin 52) (e : Bool) (d a : Fin 32) (imm : BitVec 16) (s : State) : Result :=
  s.lcAlu1 c e d a fun x => x &&& imm.zeroExtend 32

/-- LC_ORI (R166): with imm16 zero-extended. -/
def execLcOri (c : Fin 52) (e : Bool) (d a : Fin 32) (imm : BitVec 16) (s : State) : Result :=
  s.lcAlu1 c e d a fun x => x ||| imm.zeroExtend 32

/-- LC_XORI (R166): with imm16 zero-extended. -/
def execLcXori (c : Fin 52) (e : Bool) (d a : Fin 32) (imm : BitVec 16) (s : State) : Result :=
  s.lcAlu1 c e d a fun x => x ^^^ imm.zeroExtend 32

/-- LC_SLLI (R166): shift by imm16[4:0]. -/
def execLcSlli (c : Fin 52) (e : Bool) (d a : Fin 32) (imm : BitVec 16) (s : State) : Result :=
  s.lcShift c e d a imm fun x n => x <<< n

/-- LC_SRLI (R166): shift by imm16[4:0]. -/
def execLcSrli (c : Fin 52) (e : Bool) (d a : Fin 32) (imm : BitVec 16) (s : State) : Result :=
  s.lcShift c e d a imm fun x n => x >>> n

/-- LC_SRAI (R166): shift by imm16[4:0]. -/
def execLcSrai (c : Fin 52) (e : Bool) (d a : Fin 32) (imm : BitVec 16) (s : State) : Result :=
  s.lcShift c e d a imm fun x n => x.sshiftRight n

/-- LC_LI (R166): vd := sext(imm16). -/
def execLcLi (c : Fin 52) (e : Bool) (d : Fin 32) (imm : BitVec 16) (s : State) : Result :=
  s.lcConst c e d (imm.signExtend 32)

/-- LC_LUI (R166): vd := imm16 << 16. -/
def execLcLui (c : Fin 52) (e : Bool) (d : Fin 32) (imm : BitVec 16) (s : State) : Result :=
  s.lcConst c e d (imm.zeroExtend 32 <<< 16)

/-- LC_LD (R166): load a data word. -/
def execLcLd (c : Fin 52) (e : Bool) (d a : Fin 32) (imm : BitVec 16) (s : State) : Result :=
  .next (s.lcExec c e [a] [d] 1 1 false fun s k =>
    let r := s.lcLoad k (s.lcAddr k a imm) 4
    { r.1 with regs := [(d, r.2)] })

/-- LC_LD_D (R166): load two data words; vd even. -/
def execLcLdD (c : Fin 52) (e : Bool) (d a : Fin 32) (imm : BitVec 16) (s : State) : Result :=
  .next (s.lcExec c e [a] [d, d + 1] 1 1 false fun s k =>
    if d.val % 2 = 1 then { fault := some 3 }
    else
      let x := s.lcAddr k a imm
      if x % 8 ≠ 0 then { fault := some 4 }
      else
        let p := s.lcLoad k x 4
        let q := s.lcLoad k (x + 4) 4
        { regs := [(d, p.2), (d + 1, q.2)], fault := lowFault p.1.fault q.1.fault, corrected := p.1.corrected + q.1.corrected })

/-- LC_ST (R166): store vd. -/
def execLcSt (c : Fin 52) (e : Bool) (d a : Fin 32) (imm : BitVec 16) (s : State) : Result :=
  .next (s.lcExec c e [a, d] [] 1 1 false fun s k =>
    let x := s.lcAddr k a imm
    if x % 4 ≠ 0 ∨ 8192 ≤ x then { fault := some 4 } else { store := [(x / 4, s.lcV k d)] })

/-- LC_ST_D (R166): store vd and vd + 1. -/
def execLcStD (c : Fin 52) (e : Bool) (d a : Fin 32) (imm : BitVec 16) (s : State) : Result :=
  .next (s.lcExec c e [a, d, d + 1] [] 1 1 false fun s k =>
    let x := s.lcAddr k a imm
    if d.val % 2 = 1 then { fault := some 3 }
    else if x % 8 ≠ 0 ∨ 8192 ≤ x then { fault := some 4 }
    else { store := [(x / 4, s.lcV k d), (x / 4 + 1, s.lcV k (d + 1))] })

/-- LC_PRD (R166): read port p. -/
def execLcPrd (c : Fin 52) (e : Bool) (d a : Fin 32) (x : Bool) (port : BitVec 12) (s : State) : Result :=
  .next (s.lcExec c e (if x then [a.val] else []) [d] 1 2 false fun s k =>
    { regs := [(d, s.portRead (s.lcSelf k) (s.lcPort k a x port))] })

/-- LC_PRD_D (R166): read ports p and p + 1. -/
def execLcPrdD (c : Fin 52) (e : Bool) (d a : Fin 32) (x : Bool) (port : BitVec 12) (s : State) : Result :=
  .next (s.lcExec c e (if x then [a.val] else []) [d, d + 1] 1 2 false fun s k =>
    let p := s.lcPort k a x port
    if d.val % 2 = 1 ∨ p % 2 = 1 then { fault := some 3 }
    else { regs := [(d, s.portRead (s.lcSelf k) p), (d + 1, s.portRead (s.lcSelf k) (p + 1))] })

/-- LC_PWR (R166): write port p; it lands on t + 3. -/
def execLcPwr (c : Fin 52) (e : Bool) (d a : Fin 32) (x : Bool) (port : BitVec 12) (s : State) : Result :=
  .next (s.lcExec c e (d.val :: (if x then [a.val] else [])) [] 1 1 false fun s k =>
    { port := [(s.lcPort k a x port, s.lcV k d)] })

/-- LC_PWR_D (R166): write ports p and p + 1. -/
def execLcPwrD (c : Fin 52) (e : Bool) (d a : Fin 32) (x : Bool) (port : BitVec 12) (s : State) : Result :=
  .next (s.lcExec c e (d.val :: (d.val + 1) :: (if x then [a.val] else [])) [] 1 1 false fun s k =>
    let p := s.lcPort k a x port
    if d.val % 2 = 1 ∨ p % 2 = 1 then { fault := some 3 }
    else { port := [(p, s.lcV k d), (p + 1, s.lcV k (d + 1))] })

/-- LC_MS_LD (R166): table entry. -/
def execLcMsLd (c : Fin 52) (e : Bool) (d a b : Fin 32) (td : Fin 64) (s : State) : Result :=
  s.lcMs c e d a (some b) td .ld

/-- LC_MS_LERP (R166): 1-D interpolation. -/
def execLcMsLerp (c : Fin 52) (e : Bool) (d a : Fin 32) (td : Fin 64) (s : State) : Result :=
  s.lcMs c e d a none td .lerp

/-- LC_MS_BLERP (R166): 2-D interpolation. -/
def execLcMsBlerp (c : Fin 52) (e : Bool) (d a b : Fin 32) (td : Fin 64) (s : State) : Result :=
  s.lcMs c e d a (some b) td .blerp

/-- LC_BR_EQ (R166): branch. -/
def execLcBrEq (c : Fin 52) (e : Bool) (a b : Fin 32) (off : BitVec 13) (s : State) : Result :=
  s.lcBranch c e a b off fun x y => x == y

/-- LC_BR_NE (R166): branch. -/
def execLcBrNe (c : Fin 52) (e : Bool) (a b : Fin 32) (off : BitVec 13) (s : State) : Result :=
  s.lcBranch c e a b off fun x y => x != y

/-- LC_BR_LT (R166): branch. -/
def execLcBrLt (c : Fin 52) (e : Bool) (a b : Fin 32) (off : BitVec 13) (s : State) : Result :=
  s.lcBranch c e a b off fun x y => decide (sv x < sv y)

/-- LC_BR_GE (R166): branch. -/
def execLcBrGe (c : Fin 52) (e : Bool) (a b : Fin 32) (off : BitVec 13) (s : State) : Result :=
  s.lcBranch c e a b off fun x y => decide (sv y ≤ sv x)

/-- LC_BR_LTU (R166): branch. -/
def execLcBrLtu (c : Fin 52) (e : Bool) (a b : Fin 32) (off : BitVec 13) (s : State) : Result :=
  s.lcBranch c e a b off fun x y => decide (x.toNat < y.toNat)

/-- LC_BR_GEU (R166): branch. -/
def execLcBrGeu (c : Fin 52) (e : Bool) (a b : Fin 32) (off : BitVec 13) (s : State) : Result :=
  s.lcBranch c e a b off fun x y => decide (y.toNat ≤ x.toNat)

/-- LC_DJNZ (R166): va := a - 1, branch if not 0. -/
def execLcDjnz (c : Fin 52) (e : Bool) (a : Fin 32) (off : BitVec 13) (s : State) : Result :=
  .next (s.lcExec c false [a] [a] 1 1 false fun s k =>
    let v := s.lcV k a - 1
    if e then { fault := some 3 }
    else { regs := [(a, v)], target := if v = 0 then none else some ((s.cell c).pc + off.toInt) })

/-- LC_BR_ALWAYS (R166): branch. -/
def execLcBrAlways (c : Fin 52) (e : Bool) (off : BitVec 13) (s : State) : Result :=
  .next (s.lcExec c false [] [] 1 1 false fun s _ =>
    if e then { fault := some 3 } else { target := some ((s.cell c).pc + off.toInt) })

/-- LC_CALL (R166): push PC + 1 and branch. -/
def execLcCall (c : Fin 52) (e : Bool) (off : BitVec 13) (s : State) : Result :=
  .next (s.lcExec c false [] [] 1 1 false fun s _ =>
    let r := s.cell c
    if e ∨ 4 ≤ r.stack.length then { fault := some 3 }
    else { target := some (r.pc + off.toInt), stack := some ((r.pc + 1) :: r.stack) })

/-- LC_RET (R166): pop PC. -/
def execLcRet (c : Fin 52) (e : Bool) (s : State) : Result :=
  .next (s.lcExec c false [] [] 1 1 false fun s _ =>
    match (s.cell c).stack with
    | [] => { fault := some 3 }
    | t :: rest => if e then { fault := some 3 } else { target := some t, stack := some rest })

end Sys2Proof.Machine
end

