-- ==== Sys2Proof/Machine/DmaRun.lean ====
section
/-! DEFINITION. DMA chains: fetching envelopes, bursts, readbacks and the four ends of an envelope (R388 to R401). Transfers
take no time of their own (log). -/

namespace Sys2Proof.Machine

/-- The master that channel k is: channels 16 to 31 issue on DMA1 (R387). -/
def dmaMaster (k : Nat) : Master := .dma (if k < 16 then 0 else 1)

/-- Bytes of an element, and largest burst in bytes (R390). -/
def Envelope.width (e : Envelope) : Nat := match fieldOf e.ctrl 21 20 with | 0 => 1 | 1 => 2 | 2 => 4 | _ => 32
def Envelope.burst (e : Envelope) : Nat := 32 * 2 ^ fieldOf e.ctrl 19 18

/-- POSTED; CHK; PACE. -/
def Envelope.posted (e : Envelope) : Bool := bitOf e.ctrl 28
def Envelope.chk (e : Envelope) : Nat := fieldOf e.ctrl 27 25
def Envelope.pace (e : Envelope) : Bool := bitOf e.ctrl 17

/-- Address of the element that begins at byte i. -/
def Envelope.srcAt (e : Envelope) (i : Nat) : Nat := if bitOf e.ctrl 23 then e.src + i else e.src
def Envelope.dstAt (e : Envelope) (i : Nat) : Nat := if bitOf e.ctrl 22 then e.dst + i else e.dst

/-- STATUS (R396). -/
def Envelope.status (e : Envelope) (aborted err tmo : Bool) (ecode : Nat) : Nat :=
  2 ^ 31 + 2 ^ 30 * bit aborted + 2 ^ 29 * bit err + 2 ^ 28 * bit tmo + 2 ^ 25 * ecode + (e.len - e.confirmed)

/-- How an envelope ends (R396). -/
inductive EnvEnd where
  | complete | aborted | error (ecode : Nat) | timeout
deriving DecidableEq, Repr

/-- ENVELOPE_END (R396, R397): RESULT and STATUS as one write, the flags, the event, the next envelope. -/
def State.envEnd (s : State) (k : Nat) (e : Envelope) (how : EnvEnd) : State :=
  let m := dmaMaster k
  let (result, s) :=
    if e.chk = 0 then ((Config.openWord s.free).toNat, s.tick) else (checkResult e.chk e.checkConf, s)
  let ecode := match how with | .error c => c | _ => 0
  let status := e.status (how == .aborted) (ecode != 0) (how == .timeout) ecode
  let (s, w) := s.busWrite m (e.at' + 24) 8 (result + 2 ^ 32 * status)
  let (s, w) := if e.posted then (s, w) else let (s, _, q) := s.busRead m (e.at' + 28) 4 0; (s, w.and q)
  let failed := ecode != 0 || w != .ok
  let s := s.setFld (Reg.DMA_RESID k) 24 0 (e.len - e.confirmed)
  let s := s.satInc (Reg.DMA_CNT k) 31 16
  let s := if failed then (s.satInc (Reg.DMA_CNT k) 15 8).dmaFlag k 4 else s
  let s := match how with
    | .complete => if bitOf e.ctrl 31 && !failed then s.dmaFlag k 2 else s
    | .aborted => s.dmaFlag k 3
    | .timeout => s.dmaFlag k 5
    | .error _ => s
  let s := if bitOf e.ctrl 29 then s.raiseNow (0x740 + k) else s
  if how == .complete && !failed && e.next != 0 then
    (s.setDma k { s.dma k with env := none, fetch := some e.next, prev := some (e.ctrl, e.check) }).dmaState k 1
  else s.chainEnd k

/-- The envelope at address a as the engine reads it: words 0 to 5. -/
def envOf (a v : Nat) : Envelope :=
  let word (i : Nat) : Nat := v / 2 ^ (32 * i) % 2 ^ 32
  let seed := word 5
  { at' := a, next := word 0, src := word 1, dst := word 2, len := word 3, ctrl := BitVec.ofNat 32 (word 4),
    check := seed, checkConf := seed }

/-- The checks of an envelope when it is fetched (R394, R401). -/
def State.envFails (s : State) (e : Envelope) (prev : Option (Word × Nat)) : List CfgFail :=
  let d := e.at' % 65536
  let w := e.width
  let contBad := match prev with | none => true | some (c, _) => fieldOf c 27 25 != e.chk
  failIf (decide (2 ^ 25 ≤ e.len)) 0x05 0x23 d ++
  failIf (decide (5 ≤ e.chk) || fieldOf e.ctrl 3 0 != 0) 0x05 0x24 d ++
  failIf (e.posted && !(s.phase == 1 || s.phase == 3 || s.phase == 4)) 0x08 0x24 s.phase ++
  failIf (e.next % 32 != 0) 0x78 0x20 d ++
  failIf (e.len == 0 || decide (16777216 < e.len) || e.len % w != 0) 0x79 0x23 d ++
  failIf (e.src % w != 0) 0x7A 0x21 d ++ failIf (e.dst % w != 0) 0x7A 0x22 d ++
  failIf (w != 4 && (isReg e.src || isReg e.dst)) 0x7B 0x24 d ++
  failIf (bitOf e.ctrl 24 && contBad) 0x7C 0x24 d ++
  failIf (e.pace && e.len % ((fieldOf e.ctrl 11 4 + 1) * w) != 0) 0x7E 0x24 d

/-- ENVELOPE_FETCH (R389, R392, R393, R399, R401). -/
def execEnvelopeFetch (k : Fin 32) (ext : Nat) (s : State) : Result :=
  let k := k.val
  let r := s.dma k
  match r.fetch with
  | none => .next s
  | some a =>
    if !s.dmaOn then .next s
    else
      let (s, v, res) := s.busRead (dmaMaster k) a 24 ext
      let s := s.setReg (Reg.DMA_CUR k) (BitVec.ofNat 32 a)
      if res ≠ .ok then
        let s := s.cfgFail (Reg.DMA_CFGCHK k) ⟨0x7D, 0x20, a % 65536⟩
        .next (((s.satInc (Reg.DMA_CNT k) 15 8).dmaFlag k 4).chainEnd k)
      else
        let e := envOf a v
        let e := match bitOf e.ctrl 24, r.prev with
          | true, some (_, p) => { e with check := p, checkConf := p }
          | _, _ => e
        let s := match r.prev with
          | some (c, _) => if fieldOf c 16 12 = fieldOf e.ctrl 16 12 then s else s.setFld (Reg.DMA_STAT k) 15 8 0
          | none => s
        let s := s.setFld (Reg.DMA_RESID k) 24 0 e.len
        match pickFail (s.envFails e r.prev) with
        | some f =>
          let e := { e with len := e.len % 2 ^ 25 }
          .next ((s.cfgFail (Reg.DMA_CFGCHK k) f).envEnd k e (.error 4))
        | none =>
          let s := s.setDma k { s.dma k with env := some e, fetch := none, progress := s.now }
          .next (s.dmaState k (if e.pace && s.fld (Reg.DMA_STAT k) 15 8 == 0 then 2 else 1))

/-- Bytes of the next burst (R391): whole elements, up to `left` of them, within BURST bytes and no BURST boundary of an
incrementing address. -/
def Envelope.burstBytes (e : Envelope) (left : Nat) : Nat :=
  let b := e.burst
  let room (inc : Bool) (a : Nat) : Nat := if inc then b - a % b else b
  min (left * e.width) (min (e.len - e.moved)
    (min (room (bitOf e.ctrl 23) (e.srcAt e.moved)) (room (bitOf e.ctrl 22) (e.dstAt e.moved))))

/-- Read the elements of a burst of n bytes. -/
def State.burstRead (s : State) (m : Master) (e : Envelope) (n ext : Nat) : Ans :=
  let w := e.width
  (List.range (n / w)).foldl (fun (s, v, r) i =>
    let (s, x, q) := s.busRead m (e.srcAt (e.moved + i * w)) w (ext / 256 ^ (i * w))
    (s, v + x * 256 ^ (i * w), r.and q)) (s, 0, .ok)

/-- Write the elements of a burst. -/
def State.burstWrite (s : State) (m : Master) (e : Envelope) (n v : Nat) : State × BusRes :=
  let w := e.width
  (List.range (n / w)).foldl (fun (s, r) i =>
    let (s, q) := s.busWrite m (e.dstAt (e.moved + i * w)) w (v / 256 ^ (i * w) % 256 ^ w)
    (s, r.and q)) (s, .ok)

/-- Bytes up to the end of the element that completes byte LEN / 2 (R395). -/
def Envelope.half (e : Envelope) : Nat := (e.len / 2 + e.width - 1) / e.width * e.width

/-- Data up to byte n are confirmed, with check value c there: progress, RESID, HALF (R394, R395, R400). -/
def State.confirm (s : State) (k : Nat) (e : Envelope) (n c : Nat) : State × Envelope :=
  let half := bitOf e.ctrl 30 && decide (e.confirmed < e.half) && decide (e.half ≤ n)
  let e := { e with confirmed := n, checkConf := c }
  let s := s.setDma k { s.dma k with env := some e, progress := s.now }
  let s := s.setFld (Reg.DMA_RESID k) 24 0 (e.len - n)
  (if half then s.dmaFlag k 1 else s, e)

/-- The end of a chain that EN := 0 stops (R397, R398): what has moved is read back in READBACK mode, and the envelope ends
aborted; an error met before ends it as an error. -/
def State.dmaAbort (s : State) (k : Nat) : State :=
  let s := s.setDma k { s.dma k with abort := false }
  match (s.dma k).env with
  | none => (s.dmaFlag k 3).chainEnd k
  | some e =>
    match e.err with
    | some c => (s.envEnd k e (.error c)).dmaFlag k 3
    | none =>
      if e.posted || e.moved == e.confirmed then s.envEnd k e .aborted
      else
        let (s, _, r) := s.busRead (dmaMaster k) (e.dstAt (e.moved - e.width)) e.width 0
        if r ≠ .ok then (s.envEnd k e (.error 3)).dmaFlag k 3
        else
          let (s, e) := s.confirm k e e.moved e.check
          s.envEnd k e .aborted

/-- The chains that a write has stopped end. -/
def State.settleAborts (s : State) : State :=
  s.dmas.foldl (fun s p => if (s.dma p.1).abort then s.dmaAbort p.1 else s) s

/-- A write of n bytes by any master with all it brings about: what every command that writes uses. -/
def State.write (s : State) (m : Master) (a n v : Nat) : State × BusRes :=
  let (s, r) := s.busWrite m a n v
  (s.settleAborts, r)

/-- DMA_BURST_READ_DATA (R388, R391 to R395): a request is taken where one is needed, a burst is read and its elements are
written; POSTED data are confirmed at once, READBACK data by the readbacks this issues. -/
def execDmaBurstReadData (k : Fin 32) (ext : Nat) (s : State) : Result :=
  let k := k.val
  let m := dmaMaster k
  match (s.dma k).env with
  | none => .next s
  | some e =>
    let pend := s.fld (Reg.DMA_STAT k) 15 8
    if !s.dmaOn || e.err.isSome || decide (e.len ≤ e.moved) || e.pace && e.request == 0 && pend == 0 then .next s
    else
      let (s, e) :=
        if e.pace && e.request == 0 then (s.setFld (Reg.DMA_STAT k) 15 8 (pend - 1), { e with request := fieldOf e.ctrl 11 4 + 1 })
        else (s, e)
      let w := e.width
      let n := e.burstBytes (if e.pace then e.request else e.len)
      let (s, v, r) := s.burstRead m e n ext
      let put := fun (s : State) (e : Envelope) => s.setDma k { s.dma k with env := some e }
      if r ≠ .ok then .next (put s { e with err := some 1 })
      else
        let (s, q) := s.burstWrite m e n v
        if q ≠ .ok then .next (put s { e with err := some 2 }).settleAborts
        else
          let check (b : Nat) : Nat := checkBytes e.chk b e.moved e.check v
          let upto := e.moved + n
          let atHalf := bitOf e.ctrl 30 && decide (e.moved < e.half) && decide (e.half ≤ upto)
          let backs :=
            if e.posted then []
            else
              (if atHalf && e.half != e.len then [(e.dstAt (e.half - w), e.half, check (e.half - e.moved))] else []) ++
              (if upto = e.len then [(e.dstAt (e.len - w), e.len, check n)] else [])
          let e := { e with
            moved := upto, check := check n, request := if e.pace then e.request - n / w else 0
            readbacks := e.readbacks ++ backs }
          let waits := e.pace && e.request == 0 && s.fld (Reg.DMA_STAT k) 15 8 == 0
          let s := (put s e).dmaState k (if upto = e.len then 3 else if waits then 2 else 1)
          if e.posted then
            let (s, e) := s.confirm k e upto e.check
            .next (if upto = e.len then s.envEnd k e .complete else s).settleAborts
          else .next s.settleAborts

/-- DMA_READBACK_RESPONSE (R394, R395): the oldest readback in flight answers. -/
def execDmaReadbackResponse (k : Fin 32) (s : State) : Result :=
  let k := k.val
  match (s.dma k).env with
  | none => .next s
  | some e =>
    match e.readbacks with
    | [] => .next s
    | (a, n, c) :: rest =>
      if !s.dmaOn || e.err.isSome then .next s
      else
        let (s, _, r) := s.busRead (dmaMaster k) a e.width 0
        let e := { e with readbacks := rest }
        if r ≠ .ok then .next (s.setDma k { s.dma k with env := some { e with err := some 3 } })
        else
          let (s, e) := s.confirm k e n c
          .next (if n = e.len then s.envEnd k e .complete else s)

/-- DMA_ERROR_RESPONSE (R399): an envelope that met an error response ends. -/
def execDmaErrorResponse (k : Fin 32) (s : State) : Result :=
  match (s.dma k).env with
  | none => .next s
  | some e =>
    match e.err with
    | some c => .next (s.envEnd k e (.error c))
    | none => .next s

/-- DMA_ABORT (R398). -/
def execDmaAbort (k : Fin 32) (v : BitVec 32) (s : State) : Result :=
  .next (if s.dmaOn then (s.dmaStop k v).settleAborts else s)

/-- DMA_TIMEOUT (R400). -/
def execDmaTimeout (k : Fin 32) (s : State) : Result :=
  let r := s.dma k
  let t := s.fld (Reg.DMA_TMO k) 15 0
  if !s.dmaOn || !s.flag (Reg.DMA_CTL k) 0 || t == 0 then .next s
  else
    match r.env with
    | some e => if e.err.isSome then .next s else .next ((s.advanceTo (r.progress + t * 400)).envEnd k e .timeout)
    | none => .next (((s.advanceTo (r.progress + t * 400)).dmaFlag k 5).chainEnd k)

/-- REGISTER_WRITE (R9, R17): an aligned word at an address of the register ranges; any other address is no register. -/
def execRegisterWrite (a : BitVec 32) (v : BitVec 32) (m : Master) (s : State) : Result :=
  .next (if isReg a.toNat && a.toNat % 4 == 0 then (s.write m a.toNat 4 v.toNat).1 else s)

end Sys2Proof.Machine
end

