-- ==== Sys2Proof/Machine/LinksRun.lean ====
section
/-! DEFINITION. The Odoon host port's reads and queued writes, and inbound PCIe accesses (R457, R458, R460, R462, R465). -/

namespace Sys2Proof.Machine

/-- What window n shows: KIND, MGMTRAM only in RECOVERY (R457). -/
def State.winKind (s : State) (n : Nat) : Nat :=
  let k := s.fld (Reg.HP_WIN n) 2 0
  if k = 4 ∧ s.phase ≠ 4 then 0 else k

/-- Register offset of port r of a position interface (R168). -/
def piPort (r : Nat) : Option Nat := [0x0C, 0x10, 0x24, 0x2C, 0x30, 0x1C, 0x20, 0x5C, 0x58, 0x48][r]?

/-- The register that a mirror word shows (R458). -/
def State.mirrorAt (s : State) (w : Nat) : Option Nat :=
  if w < 0x200 then some (Reg.SQ_RES (w / 32) (w % 32))
  else if w < 0x300 then (piPort (w % 16)).map fun o => 0x50040000 + 0x200 * ((w - 0x200) / 16) + o
  else if w = 0x300 then some Reg.MG_DEVTIMELO
  else if w = 0x301 then some Reg.MG_DEVTIMEHI
  else if w = 0x302 then some Reg.HP_STAT
  else if w = 0x303 then some Reg.HP_CNT
  else if 0x400 ≤ w ∧ w < 0x800 ∧ s.bend ((w - 0x400) / 32) = 1 then some (0x600B0000 + 0x80 * ((w - 0x400) / 32) + w % 32 * 4)
  else none

/-- RDREF is set (R457). -/
def State.rdRef (s : State) : State := s.hpFlag 3

/-- A host read of post-room address b: 0 and UNCORR where it cannot be corrected (R462). -/
def State.hostPostRead (s : State) (b : Nat) : State × Word :=
  match s.postRead b with
  | (s, some w) => (s, w)
  | (s, none) => (s.hpFlag 5, 0)

/-- The answer of a host read of word ha (R457, R458). -/
def State.hostRead (s : State) (ha : Nat) : State × Word :=
  let n := ha / 65536
  let w := ha % 65536
  match s.winKind n with
  | 1 => s.hostPostRead (postRoom + 4 * w)
  | 2 =>
    match s.mirrorAt w with
    | some a => (s, BitVec.ofNat 32 (s.regRead .host a).2.1)
    | none => (s, 0)
  | 4 => (s, s.word (mgmtRam + 4 * w))
  | _ => (s.rdRef, 0)

/-- HOST_READ (R458): HD shows the answer. -/
def execHostRead (ha : BitVec 24) (s : State) : Result :=
  if !s.hpOn then .next s
  else
    let (s, w) := s.hostRead ha.toNat
    .next { s with hp := { s.hp with hd := w } }

/-- The bytes that a host write enables: offset and value. -/
def hostBytes (q : HostWrite) : List (Nat × Nat) :=
  ((List.range 4).filter fun i => q.be / 2 ^ i % 2 == 1).map fun i => (i, q.data.toNat / 256 ^ i % 256)

/-- A host write to a word of a RAM that the host port holds. -/
def State.hostRamWrite (s : State) (b : Nat) (q : HostWrite) : State :=
  if q.be = 15 then s.setWord b q.data else (hostBytes q).foldl (fun s x => s.setByte (b + x.1) (BitVec.ofNat 8 x.2)) s

/-- A host write through the LINK port; a write that is not of a whole word is made byte by byte (R54). -/
def State.hostBusWrite (s : State) (a : Nat) (q : HostWrite) : State × BusRes :=
  if q.be = 15 then s.write .host a 4 q.data.toNat
  else
    (hostBytes q).foldl (fun (s, r) x =>
      let (s, p) := s.write .host (a + x.1) 1 x.2
      (s, r.and p)) (s, .ok)

/-- WRERR and WRERRCNT after an error response (R460). -/
def State.hostWriteErr (s : State) (r : BusRes) : State := if r = .ok then s else (s.hpFlag 2).satInc Reg.HP_CNT 15 0

/-- HOST_WRITE_APPLY (R457, R460): the oldest entry of the posted queue leaves it. -/
def execHostWriteApply (s : State) : Result :=
  match s.hp.queue with
  | [] => .next s
  | q :: rest =>
    if !s.hpOn then .next s
    else
      let s := s.setHpq rest
      let n := q.ha / 65536
      let w := q.ha % 65536
      match s.winKind n with
      | 1 => .next (s.hostRamWrite (postRoom + 4 * w) q)
      | 2 =>
        match s.mirrorAt w with
        | some a => let (s, r) := s.hostBusWrite a q; .next (s.hostWriteErr r)
        | none => .next s
      | 3 =>
        let (s, r) := s.hostBusWrite (2 ^ 18 * s.fld (Reg.HP_WIN n) 31 18 + 4 * w) q
        .next (s.hostWriteErr r)
      | 4 => .next (s.hostRamWrite (mgmtRam + 4 * w) q)
      | _ => .next s.rdRef

/-! PCIe inbound (R465). -/

/-- Where offset off of BAR1 lies in the memories that stand for it; the pending-bit array reads 0, since a vector is
delivered as it is raised. -/
def bar1At (off : Nat) : Option Nat :=
  if off < 0x40000 then some (postRoom + off) else if 0x40000 ≤ off ∧ off < 0x40200 then some (msixTable + off % 0x40000) else none

/-- One byte of BAR1 as a read finds it: a word of the post room with more than one wrong bit reads 0. -/
def State.bar1Byte (s : State) (off : Nat) : Nat :=
  match bar1At off with
  | some b => if 2 ≤ popcount (s.flipsAt b) then 0 else (s.byte b).toNat
  | none => 0

/-- An inbound write of n bytes. -/
def State.inWrite (s : State) (bar1 : Bool) (off n data : Nat) : State :=
  if bar1 then
    (List.range n).foldl (fun s i =>
      match bar1At (off + i) with
      | some b => s.setByte b (BitVec.ofNat 8 (data / 256 ^ i))
      | none => s) s
  else (s.write .pcie (2 ^ 20 * s.fld Reg.PCIE_BAR0MAP 31 20 + off) n data).1

/-- An inbound read of n bytes: the completion's data. -/
def State.inRead (s : State) (bar1 : Bool) (off n : Nat) : State × Nat :=
  if bar1 then (s, (List.range n).foldl (fun v i => v + s.bar1Byte (off + i) * 256 ^ i) 0)
  else
    let r := s.busRead .pcie (2 ^ 20 * s.fld Reg.PCIE_BAR0MAP 31 20 + off) n 0
    (r.1, r.2.1)

/-- PCIE_INBOUND_ACCESS (R465): inside its BAR, with the link up; BAR1's post room needs its own domain too. -/
def execPcieInboundAccess (bar1 : Bool) (off : BitVec 20) (n : Fin 513) (write : Bool) (data : Nat) (s : State) : Result :=
  let o := off.toNat
  if !s.unitOn 0x32 || !s.pcie.up || decide ((if bar1 then 0x80000 else 0x100000) < o + n) || bar1 && decide (o < 0x40000) && !s.domOn domHost
  then .next s
  else if write then .next (s.inWrite bar1 o n data)
  else
    let (s, v) := s.inRead bar1 o n
    .next { s with pcie := { s.pcie with answer := v } }

end Sys2Proof.Machine
end

