-- ==== Sys2Proof/Machine/CoreAccess.lean ====
section
/-! DEFINITION. What a Molpa core does with memory: store buffer, hold queue, caches, loads, capability checks, window spills
and fills (R237 to R244, R253 to R257, R268 to R273, R284, R285, R291, R292, R325, R329 to R332, R351). -/

namespace Sys2Proof.Machine

/-- A precise exception: number, ACC and CREG of MC_XCAUSE, and MC_XADDR; none where the spec states no address. -/
structure Exc where
  num : Nat
  acc : Nat := 7
  creg : Nat := 0x1F
  addr : Option Nat := none
deriving DecidableEq, Repr

/-- The bus master that record k is. -/
def coreMaster (k : Nat) : Master := .core (Fin.ofNat 4 k)

/-! Stores (R268, R284, R329, R330, R351). -/

/-- The tag of a granule in every copy that a pair's mode names. -/
def State.putTag (s : State) (a : Nat) (t : Bool) : State :=
  match regionOf a with
  | .tcm _ => s.tcmTag a t
  | _ => s.setTag a t

/-- A data-cache line's tag of the granule at byte offset o, and a line with it set. -/
def lineTag (line o : Nat) : Bool := line / 2 ^ (256 + o / 16) % 2 == 1
def lineSetTag (line o : Nat) (t : Bool) : Nat :=
  line - bit (lineTag line o) * 2 ^ (256 + o / 16) + bit t * 2 ^ (256 + o / 16)

/-- A line with n bytes at offset o replaced, as far as they lie in it; the granules they touch lose their tags. -/
def linePut (line o n v : Nat) : Nat :=
  (List.range n).foldl (fun l i =>
    if 32 ≤ o + i then l
    else lineSetTag (l - l / 256 ^ (o + i) % 256 * 256 ^ (o + i) + v / 256 ^ i % 256 * 256 ^ (o + i)) (o + i) false) line

/-- The own store reaches a line that the data cache holds (write-through, R272). -/
def Core.cachePut (c : Core) (a n v : Nat) (tag : Option Bool) : Core :=
  { c with dcache := c.dcache.map fun (p : Nat × Nat) =>
      if p.1 = a / 32 then
        let l := linePut p.2 (a % 32) n v
        (p.1, match tag with | some t => lineSetTag l (a % 32) t | none => l)
      else p }

/-- A store of record k reaches its target: the own TCM's granule is logged first where `log` says so, and an SC's upper
half sets the granule's tag. -/
def State.storeOut (s : State) (k : Nat) (log : Bool) (e : StoreEnt) : State × BusRes :=
  let s := if log && s.ownTcm k e.addr then s.logGranule k e.addr else s
  let (s, r) := s.write (coreMaster k) e.addr e.n e.val
  if r ≠ .ok then (s, r)
  else
    let s := match e.tag with | some t => s.putTag e.addr t | none => s
    (s.onCore k fun c => c.cachePut e.addr e.n e.val e.tag, .ok)

/-- Both halves of a split store reach their targets, or neither (R257, R351). -/
def State.splitOut (s : State) (k : Nat) (log : Bool) (e f : StoreEnt) : State :=
  let (s1, r1) := s.storeOut k log e
  if r1 ≠ .ok then s1
  else
    let (s2, r2) := s1.storeOut k log f
    if r2 = .ok then s2 else (s.storeOut k log f).1

/-- Entries leave in order. -/
def State.storesOut (s : State) (k : Nat) (log : Bool) : List StoreEnt → State
  | [] => s
  | [e] => (s.storeOut k log e).1
  | e :: f :: rest =>
    if e.joined then (s.splitOut k log e f).storesOut k log rest else ((s.storeOut k log e).1).storesOut k log (f :: rest)

/-- The oldest entry leaves the store buffer of record k: to its target, or into the hold queue. None where it cannot: the
buffer is empty, a release is not complete, or the queue is full. -/
def State.drainOne (s : State) (k : Nat) : Option State :=
  let c := s.core k
  if c.release ≠ 0 ∨ c.releaseSb ≠ 0 then none
  else
    match c.sb with
    | [] => none
    | e :: rest =>
      if e.hold then
        if c.hold.length < 64 then some (s.setCore k { c with sb := rest, hold := c.hold ++ [e] }) else none
      else
        match e.joined, rest with
        | true, f :: rest => some ((s.setCore k { c with sb := rest }).splitOut k true e f)
        | _, _ => some ((s.setCore k { c with sb := rest }).storeOut k true e).1

/-- Entries leave until the buffer is empty or `keep` of them stand; none where one cannot leave. -/
def State.drainTo (s : State) (k keep : Nat) : Nat → Option State
  | 0 => if (s.core k).sb.length ≤ keep then some s else none
  | f + 1 =>
    if (s.core k).sb.length ≤ keep then some s
    else match s.drainOne k with
      | some s => s.drainTo k keep f
      | none => none

/-- The store buffer is emptied. -/
def State.drainAll (s : State) (k : Nat) : Option State := s.drainTo k 0 32

/-- A store enters the buffer; while it is full, the oldest entries leave first (R268). -/
def State.pushStore (s : State) (k : Nat) (e : StoreEnt) : Option State :=
  match s.drainTo k 15 32 with
  | some s => some (s.onCore k fun c => { c with sb := c.sb ++ [e] })
  | none => none

/-- Several stores enter in order. -/
def State.pushStores (s : State) (k : Nat) : List StoreEnt → Option State
  | [] => some s
  | e :: es => match s.pushStore k e with | some s => s.pushStores k es | none => none

/-- The entries of n bytes at ea: one, or two halves split at an aligned 8-byte boundary (R256). -/
def storeEnts (ea n v : Nat) (hold : Bool) : List StoreEnt :=
  if ea % 8 + n ≤ 8 then [{ addr := ea, n := n, val := v, hold := hold }]
  else
    let lo := 8 - ea % 8
    [{ addr := ea, n := lo, val := v % 256 ^ lo, hold := hold, joined := true },
      { addr := ea + lo, n := n - lo, val := v / 256 ^ lo, hold := hold }]

/-- The entries of a doubleword store: two words, or the two halves of a split. -/
def storePair (ea v : Nat) (hold : Bool) : List StoreEnt :=
  if ea % 8 = 0 then
    [{ addr := ea, n := 4, val := v % 2 ^ 32, hold := hold }, { addr := ea + 4, n := 4, val := v / 2 ^ 32, hold := hold }]
  else storeEnts ea 8 v hold

/-- The entries of a capability store with tag t. -/
def storeCap (ea : Nat) (c : Cap) (t hold : Bool) : List StoreEnt :=
  [{ addr := ea, n := 8, val := c.bits % 2 ^ 64, hold := hold },
    { addr := ea + 8, n := 8, val := c.bits / 2 ^ 64, tag := some t, hold := hold }]

/-! Loads (R269 to R272, R331). -/

/-- Code flash and bulk SRAM are cacheable (R259). -/
def cacheable (a : Nat) : Bool :=
  match regionOf a with | .bootFlash | .otherFlash | .bankA | .bankB | .sram => true | _ => false

/-- What an entry covers. -/
def StoreEnt.touches (e : StoreEnt) (a n : Nat) : Bool := decide (e.addr < a + n) && decide (a < e.addr + e.n)
def StoreEnt.covers (e : StoreEnt) (a n : Nat) : Bool := decide (e.addr ≤ a) && decide (a + n ≤ e.addr + e.n)

/-- The value v of n bytes at a with an entry's bytes laid over it. -/
def StoreEnt.onto (e : StoreEnt) (a n v : Nat) : Nat :=
  (List.range n).foldl (fun v i =>
    if e.addr ≤ a + i ∧ a + i < e.addr + e.n then
      v - v / 256 ^ i % 256 * 256 ^ i + e.val / 256 ^ (a + i - e.addr) % 256 * 256 ^ i
    else v) v

/-- The tag t of the granule of a with an entry laid over it. -/
def StoreEnt.overTag (e : StoreEnt) (a : Nat) (t : Bool) : Bool :=
  if e.touches (a / 16 * 16) 16 then hasTags a && e.tag.getD false else t

/-- Lines of the same set of a two-way cache with 512 sets. -/
def sameSet (l m : Nat) : Bool := l % 512 == m % 512

/-- The line that a fill of line l replaces, if its set is full. -/
def victim (lines : List Nat) (l : Nat) (first : Bool) : Option Nat :=
  match lines.filter (sameSet l) with
  | a :: b :: _ => some (if first then a else b)
  | _ => none

/-- Data-cache line l of record k, filled where it is not held: its 32 bytes with the granule tags above. -/
def State.lineRead (s : State) (k l : Nat) : Ans :=
  match (s.core k).dcache.find? fun p => p.1 == l with
  | some p => (s, p.2, .ok)
  | none =>
    let (s, v, r) := s.busRead (coreMaster k) (32 * l) 32 0
    if r ≠ .ok then (s, 0, r)
    else
      let v := v + 2 ^ 256 * bit (s.tagAt (32 * l)) + 2 ^ 257 * bit (s.tagAt (32 * l + 16))
      let gone := victim ((s.core k).dcache.map (·.1)) l (Config.victim s.free)
      let s := s.tick.onCore k fun c =>
        let m := match gone with | some g => mapErase c.dcache g | none => c.dcache
        { c with dcache := mapInsert m l v }
      (s, v, .ok)

/-- n bytes at ea through the data cache. -/
def State.cacheRead (s : State) (k ea n : Nat) : Ans :=
  let (s, lo, r) := s.lineRead k (ea / 32)
  if r ≠ .ok then (s, 0, r)
  else if ea % 32 + n ≤ 32 then (s, lo % 2 ^ 256 / 256 ^ (ea % 32) % 256 ^ n, .ok)
  else
    let m := 32 - ea % 32
    let (s, hi, r) := s.lineRead k (ea / 32 + 1)
    if r ≠ .ok then (s, 0, r)
    else (s, lo % 2 ^ 256 / 256 ^ (ea % 32) + hi % 256 ^ (n - m) * 256 ^ m, .ok)

/-- How a load ends: with a value and the granule's tag, an error, a wait, or as a request sent through the PCIe window. -/
inductive LoadAns where
  | val (s : State) (v : Nat) (tag : Bool)
  | err (s : State) (r : BusRes)
  | stall
  | sent (s : State)
deriving DecidableEq, Repr

/-- MC_CCTL.BUSY (R273). -/
def State.cacheBusy (s : State) (k : Nat) : Bool :=
  match (s.core k).invDue with | some e => decide (s.now < e) | none => false

/-- The memory part of a load, after the stores it must wait for. -/
def State.loadMem (s : State) (k : Nat) (dev : Bool) (ea n : Nat) : LoadAns :=
  let pcie := match regionOf ea with | .pcie => s.domOn 0x32 && s.pcie.up | _ => false
  if pcie then .sent s
  else if cacheable ea && !dev then
    if s.cacheBusy k then .stall
    else match s.cacheRead k ea n with
      | (s, v, .ok) =>
        let tag := match (s.core k).dcache.find? fun p => p.1 == ea / 32 with | some p => lineTag p.2 (ea % 32) | none => false
        .val s v tag
      | (s, _, r) => .err s r
  else match s.busRead (coreMaster k) ea n 0 with
    | (s, v, .ok) =>
      let at' := match regionOf ea with | .tcm _ => s.tcmServe ea | _ => ea
      .val s v (s.tagAt at')
    | (s, _, r) => .err s r

/-- The hold queue's bytes and tags are laid over a loaded value (R331). -/
def State.heldOver (s : State) (k ea n : Nat) : LoadAns → LoadAns
  | .val s' v t =>
    let q := (s.core k).hold
    .val s' (q.foldl (fun v e => e.onto ea n v) v) (q.foldl (fun t e => e.overTag ea t) t)
  | x => x

/-- A load of n bytes at ea by record k. Outside the own TCM and the cacheable regions, and through DEVICE, the store buffer
is emptied first (R270, R292); elsewhere a load wholly inside the youngest store it touches is forwarded, and one that
touches stores otherwise waits until they have left (R269). -/
def State.coreLoad (s : State) (k : Nat) (dev : Bool) (ea n : Nat) : LoadAns :=
  let plain := !dev && (cacheable ea || s.ownTcm k ea)
  let read := fun (s : State) => s.heldOver k ea n (s.loadMem k dev ea n)
  if !plain then match s.drainAll k with | some s => read s | none => .stall
  else
    match ((s.core k).sb.filter fun e => e.touches ea n).reverse with
    | [] => read s
    | e :: _ =>
      if e.covers ea n then .val s (e.val / 256 ^ (ea - e.addr) % 256 ^ n) false
      else
        let younger := ((s.core k).sb.reverse.takeWhile fun e => !e.touches ea n).length
        match s.drainTo k younger 32 with | some s => read s | none => .stall

/-- A load in doublewords of up to 80 bytes: what a fill, a vector or a frame reads; a request through the PCIe window is
answered with a free value. -/
def State.loadWords (s : State) (k : Nat) (dev : Bool) (ea : Nat) : Nat → LoadAns
  | 0 => .val s 0 false
  | n + 1 =>
    match s.coreLoad k dev ea 8 with
    | .val s v _ => match s.loadWords k dev (ea + 8) n with | .val s w t => .val s (v + 2 ^ 64 * w) t | x => x
    | .sent s =>
      match s.tick.loadWords k dev (ea + 8) n with
      | .val s' w t => .val s' ((Config.openWord s.free).toNat + 2 ^ 64 * w) t
      | x => x
    | x => x

/-- A load of the 16 bytes and the tag at ea; an outbound one reads 0 untagged. -/
def State.loadCap (s : State) (k : Nat) (dev : Bool) (ea : Nat) : LoadAns :=
  match s.coreLoad k dev ea 16 with
  | .sent s => .val s 0 false
  | x => x

/-- The exception of a failed access (R254, R296). -/
def accessExc (r : BusRes) (acc creg ea : Nat) : Exc :=
  ⟨match r with | .uncorr => 0x0B | .xo => 0x0C | _ => 0x0A, acc, creg, some ea⟩

/-! Capability checks (R253, R242, R293). -/

/-- R253 on an access of n bytes at ea through capability register creg. -/
def capCheck (c : Cap) (creg acc ea n : Nat) (perms : List Nat) (aligned : Bool) : Option Exc :=
  let x (num : Nat) : Option Exc := some ⟨num, acc, creg, some ea⟩
  if !c.tag then x 0x04
  else if c.isSealed then x 0x05
  else if perms.any fun p => !c.may p then x 0x06
  else if !c.covers ea n then x 0x07
  else if aligned && ea % n != 0 then x 0x03
  else none

/-- R242: a store through c2 below the spill area's top. -/
def Arch.spillGuard (a : Arch) (creg ea : Nat) : Option Exc :=
  if creg = 2 ∧ ea < (a.cap 2).base.toNat + a.wsp.toNat then some ⟨0x08, 2, 2, some ea⟩ else none

/-- R250 on a target within a capability. -/
def targetCheck (c : Cap) (creg acc t : Nat) : Option Exc :=
  if t % 4 ≠ 0 then some ⟨0x03, acc, creg, some t⟩
  else if !c.covers t 4 then some ⟨0x07, acc, creg, some t⟩
  else none

/-- R293 on a capability to install, with its target. -/
def execCheck (c : Cap) (creg acc t : Nat) : Option Exc :=
  if !c.tag then some ⟨0x04, acc, creg, some t⟩
  else if c.isSealed then some ⟨0x05, acc, creg, some t⟩
  else if !c.may permExec then some ⟨0x06, acc, creg, some t⟩
  else targetCheck c creg acc t

/-! Windows (R237 to R244). -/

/-- How a slide, spill or fill ends. -/
inductive Slide where
  | ok (s : State)
  | exc (s : State) (e : Exc)
  | stall
deriving DecidableEq, Repr

/-- The 20 words of a spill frame of slot x (R241). -/
def Arch.spillFrame (a : Arch) (x : Nat) : List Word :=
  let w : WinSlot := mapGet {} a.slots x
  ((List.range 8).map fun i => mapGet 0 a.win (16 * x + 8 + i)) ++ ((List.range 8).map fun i => mapGet 0 a.win (16 * x + i)) ++
    [w.lstart, w.lend, w.lctl, w.link]

/-- The spill area's present offset as an address. -/
def Arch.spillAt (a : Arch) : Nat := ((a.cap 2).base.toNat + a.wsp.toNat) % 2 ^ 32

/-- Doublewords of a word list. -/
def pairUp : List Word → List Nat
  | x :: y :: r => (x.toNat + 2 ^ 32 * y.toNat) :: pairUp r
  | _ => []

/-- Spill the frame of slot x (R241). -/
def State.spill (s : State) (k x : Nat) : Slide :=
  let a := s.arch k
  let c2 := a.cap 2
  let at' := c2.base.toNat + a.wsp.toNat
  if !c2.tag || c2.isSealed || !c2.may permStore || decide (c2.cursor.toNat < at' + 80) then .exc s ⟨0x08, 2, 2, some a.spillAt⟩
  else if s.badAccess at' 80 then .exc s ⟨0x0A, 2, 2, some at'⟩
  else
    let ents := ((pairUp (a.spillFrame x)).zipIdx.map fun (v, i) => storeEnts (at' + 8 * i) 8 v (c2.may permHold)).flatten
    match s.pushStores k ents with
    | some s => .ok (s.onArch k fun a => { a with wsp := a.wsp + 80 })
    | none => .stall

/-- Fill slot x with the youngest spilled frame (R240, R241). -/
def State.fill (s : State) (k x : Nat) : Slide :=
  let a := s.arch k
  let c2 := a.cap 2
  if a.wsp.toNat < 80 then .exc s { num := 0x09, acc := 5 }
  else if !c2.tag || c2.isSealed || !c2.may permLoad then .exc s ⟨0x08, 1, 2, some a.spillAt⟩
  else
    let at' := c2.base.toNat + a.wsp.toNat - 80
    match s.loadWords k (c2.may permDevice) at' 10 with
    | .val s v _ =>
      let word (i : Nat) : Word := BitVec.ofNat 32 (v / 2 ^ (32 * i))
      .ok (s.onArch k fun a =>
        let win := (List.range 8).foldl (fun m i => mapSet 0 (mapSet 0 m (16 * x + 8 + i) (word i)) (16 * x + i) (word (8 + i))) a.win
        { a with
          win := win
          slots := mapSet {} a.slots x ⟨word 16 &&& 0xFFFFFFFC, word 17 &&& 0xFFFFFFFC, word 18 &&& 0x3F, word 19 &&& 0xFFFFFFFC⟩
          wsp := a.wsp - 80 })
    | .err s r => .exc s (accessExc r 1 2 at')
    | .sent _ | .stall => .stall

/-- Slide the window forward, MC_LINK of the new window := link; its desk registers are open (R239). -/
def State.slideFwd (s : State) (k link : Nat) : Slide :=
  let a := s.arch k
  let go := fun (s : State) =>
    let f := s.free
    let s := { s with free := s.free + 8 }
    s.onArch k fun a =>
      let x := (a.slot + 1) % 8
      let w : WinSlot := mapGet {} a.slots x
      { a with
        slot := x
        depth := min (a.depth + 1) 7
        win := (List.range 8).foldl (fun m i => mapSet 0 m (16 * x + 8 + i) (Config.openWord (f + i))) a.win
        slots := mapSet {} a.slots x { w with lctl := withField w.lctl 5 5 0, link := BitVec.ofNat 32 link } }
  if a.depth = 7 then match s.spill k ((a.slot + 2) % 8) with | .ok s => .ok (go s) | x => x
  else .ok (go s)

/-- Slide the window back (R240). -/
def State.slideBack (s : State) (k : Nat) : Slide :=
  let a := s.arch k
  let x := (a.slot + 7) % 8
  if a.depth = 1 then match s.fill k x with | .ok s => .ok (s.onArch k fun a => { a with slot := x }) | r => r
  else .ok (s.onArch k fun a => { a with slot := x, depth := a.depth - 1 })

end Sys2Proof.Machine
end

