-- ==== Sys2Proof/Machine/CoreRun.lean ====
section
/-! DEFINITION. How a Molpa core runs one instruction: fetch, checks, retirement, hardware loops, exceptions, entry and rescue
(R251, R252, R259, R265, R278, R279, R293, R296 to R309, R480). -/

namespace Sys2Proof.Machine

/-- What an instruction has done: retired with the next in sequence, with an arithmetic exception, with a taken transfer in
its window, or with one into another window; retired and then raised an exception; retired with an effect that follows;
raised an exception; set its own way on; or waits. -/
inductive Done where
  | next (s : State)
  | arith (s : State) (num : Nat)
  | jump (s : State) (t : Nat)
  | goto (s : State) (t : Nat)
  | after (s : State) (e : Exc)
  | post (s : State) (f : State → State)
  | exc (s : State) (e : Exc)
  | stop (s : State)
  | stall

/-! Trace and debug. -/

/-- A packet of record k, where its core is the traced one (R480). -/
def State.coreTrace (s : State) (k : Nat) (w : Nat) : State :=
  if s.traceOn k || s.pairMode (k / 2) == 0 && s.traceOn (k + 1) then s.tracePush (BitVec.ofNat 32 w) else s

/-- The step that STEPp allows has been made (R477). -/
def State.stepDone (s : State) (k : Nat) : State :=
  if k % 2 = 1 ∧ s.pairMode (k / 2) = 1 then s
  else { s with tp := { s.tp with stepArm := nsetDel s.tp.stepArm (k / 2) (k / 2 + 1) } }

/-- An armed MISM_Pp makes the pair's next output, at address a, a mismatch of KIND 1 (R476). -/
def State.outputMism (s : State) (k a : Nat) : Option State :=
  let p := k / 2
  if s.pairMode p = 0 ∧ nsetHas s.tp.mismPair p then
    let s := State.pertSync { s with tp := { s.tp with mismPair := nsetDel s.tp.mismPair p (p + 1) } }
    some (s.mismatch p 1 (bit (s.ownTcm k a)) a)
  else none

/-! Rescue (R307, R308). -/

/-- The four words of a capability, lowest address first. -/
def Cap.words (c : Cap) : List Nat := (List.range 4).map fun i => c.bits / 2 ^ (32 * i) % 2 ^ 32

/-- Tags of c0 to c15, and of MC_XSTK in bit 16. -/
def Arch.tagBits (a : Arch) : Nat :=
  (List.range 16).foldl (fun w i => w + bit (a.cap i).tag * 2 ^ i) 0 + 2 ^ 16 * bit a.xstk.tag

/-- The 128 words of the rescue record. -/
def rescueWords (a : Arch) (saved xc xa rc : Nat) : List Nat :=
  let w := a.win0
  [saved, a.status.toNat, xc, xa, rc, a.wstate.toNat, a.wsp.toNat, a.tagBits] ++ (List.range 32).map (fun r => (a.get r).toNat) ++
    [w.lstart.toNat, w.lend.toNat, w.lctl.toNat, w.link.toNat, 0, 0, 0, 0] ++ a.xstk.words ++ List.replicate 12 0 ++
    ((List.range 16).map fun i => (a.cap i).words).flatten

/-- Record k rescues with the architectural state it had before the entry. -/
def State.rescue (s : State) (k : Nat) (a : Arch) (saved xc xa rc : Nat) : State :=
  let s := s.onCore k fun c => { c with arch := a, sb := c.sb.take c.releaseSb }
  let ws := (rescueWords a saved xc xa rc).zipIdx
  let s := (s.tcmCopies k).foldl (fun s t =>
    let at' := tcmBase t + 0x3FE00
    (ws.foldl (fun s (w, i) => s.setWord (at' + 4 * i) (BitVec.ofNat 32 w)) s).untag at' 512) s
  s.rescueAction k

/-! Entry (R278, R279, R299, R300). -/

/-- The vector at a: none where the read waits, and no capability on a memory error. -/
def State.vector (s : State) (k a : Nat) : Option (State × Option Cap) :=
  match s.loadCap k false a with
  | .val s v t => some (s, some (capOf v t))
  | .err s _ => some (s, none)
  | .sent s => some (s, some {})
  | .stall => none

/-- A vector that can be taken (R278). -/
def Cap.vectorOk (c : Cap) : Bool := c.tag && !c.isSealed && c.may permExec

/-- Steps 2 to 6 of R299 with vector c: window, frame, PCAP, and then `fin`. None where the entry waits for the store buffer. -/
def State.enter (s : State) (k : Nat) (c : Cap) (saved xc xa : Nat) (fin : State → State) : Option State :=
  let a := s.arch k
  match s.slideFwd k 0 with
  | .stall => none
  | .exc s _ => some (s.rescue k a saved xc xa 2)
  | .ok s =>
    let x := a.xstk
    let n := x.cursor.toNat - 32
    if !x.tag || x.isSealed || !x.may permStore || !x.may permStcap || decide (x.cursor.toNat < 32) || n % 16 != 0 || !x.covers n 32
    then some (s.rescue k a saved xc xa 3)
    else if s.badAccess n 32 then some (s.rescue k a saved xc xa 4)
    else
      let c0 := { a.cap 0 with cursor := BitVec.ofNat 32 saved }
      let hold := x.may permHold
      match s.pushStores k (storePair n (saved + 2 ^ 32 * a.status.toNat) hold ++ storeCap (n + 16) c0 c0.tag hold) with
      | none => none
      | some s =>
        let s := s.onArch k fun a => { a.setCap 0 c with xstk := { x with cursor := BitVec.ofNat 32 n }, pc := c.cursor.toNat }
        some (fin ((s.onCore k fun c => { c with run := .run }).stepDone k))

/-- Exception e is taken at a boundary whose saved PC is `saved`. -/
def State.takeExc (s : State) (k : Nat) (e : Exc) (saved : Nat) (impr multi : Bool) : Option State :=
  let xa := match e.addr with | some a => a % 2 ^ 32 | none => (Config.openWord s.free).toNat
  let s := if e.addr.isNone then s.tick else s
  let xc := 2 ^ 31 * bit impr + 2 ^ 30 * bit multi + 2 ^ 16 * e.acc + e.creg * 2 ^ 8 + e.num
  let a := s.arch k
  match s.vector k (a.xvt.toNat + 16 * e.num) with
  | none => none
  | some (s, none) => some (s.rescue k a saved xc xa 4)
  | some (s, some c) =>
    if !c.vectorOk then some (s.rescue k a saved xc xa 1)
    else s.enter k c saved xc xa fun s =>
      (s.onArch k fun a => { a with xcause := BitVec.ofNat 32 xc, xaddr := BitVec.ofNat 32 xa }).coreTrace k
        (2 ^ 10 + e.num * 4 + 1)

/-- Entry clears PEND of an edge line (R277). -/
def State.clearPend (s : State) (k l : Nat) : State :=
  let f : LineFile := mapGet {} s.icfg k
  let w := mapGet 0 f.icfg l
  if bitOf w 8 then
    let f' : LineFile := { f with icfg := mapSet 0 f.icfg l (withField w 0 0 0) }
    { s with icfg := mapSet {} s.icfg k f' }
  else s

/-- Line l of priority prio is taken. -/
def State.takeInt (s : State) (k l prio saved : Nat) : Option State :=
  let a := s.arch k
  let xc := 7 * 2 ^ 16 + 0x1F * 2 ^ 8
  match s.vector k (a.ivt.toNat + 16 * l) with
  | none => none
  | some (s, none) => some (s.rescue k a saved xc l 4)
  | some (s, some c) =>
    if !c.vectorOk then s.takeExc k { num := 0x0D, addr := some l } saved false false
    else s.enter k c saved xc l fun s =>
      ((s.onArch k fun a => { a with status := withField a.status 3 0 prio }).clearPend k l).coreTrace k (2 ^ 11 * l + 1)

/-- The pending arithmetic exception is taken (R303). -/
def State.takeArith (s : State) (k : Nat) (r : Arith) (saved : Nat) : Option State :=
  (s.onCore k fun c => { c with arith := none }).takeExc k { num := r.num, addr := some 0 } saved true r.multi

/-- CKPT_DUE is taken (R333). -/
def State.takeDue (s : State) (k saved : Nat) : Option State :=
  (s.onCore k fun c => { c with due := false }).takeExc k { num := 0x13 } saved false false

/-- A precise exception of the instruction at the PC; a pending imprecise one is taken in its place (R298, R303). -/
def State.fault (s : State) (k : Nat) (e : Exc) : Option State :=
  let pc := (s.arch k).pc
  match (s.core k).arith with
  | some r => s.takeArith k r pc
  | none => s.takeExc k e pc false false

/-! Fetch (R259, R293). -/

/-- Fill line l of the instruction cache. -/
def State.codeFill (s : State) (k l : Nat) : State × BusRes :=
  let a := 32 * l
  match regionOf a with
  | .sram => let (s, _, r) := s.busRead (coreMaster k) a 32 0; (s, r)
  | _ =>
    if !s.domOn (domBank (s.flashPlace a).1) then (s, .decode)
    else match s.flashRead a 32 with
      | (s, .ok _) => (s, .ok)
      | (s, .busy) => (s, .error)
      | (s, .uncorr) => (s, .uncorr)

/-- Line l enters the instruction cache in place of one of a full set. -/
def State.codeHold (s : State) (k l : Nat) : State :=
  let gone := victim (s.core k).icache l (Config.victim s.free)
  s.tick.onCore k fun c => { c with icache := l :: c.icache.filter fun m => some m != gone }

/-- How a fetch ends. -/
inductive Fetch where
  | ok (s : State)
  | exc (s : State) (e : Exc)
  | stall
deriving DecidableEq, Repr

/-- The fetch of the instruction at pc. -/
def State.fetch (s : State) (k pc : Nat) : Fetch :=
  let refused (s : State) : Fetch := .exc s ⟨0x02, 0, 0x1F, some pc⟩
  if pc % 4 ≠ 0 then .exc s ⟨0x03, 0, 0, some pc⟩
  else if !((s.arch k).cap 0).covers pc 4 then .exc s ⟨0x07, 0, 0, some pc⟩
  else if s.ownTcm k pc then
    if !s.domOn (domMem pc) then refused s
    else match s.tcmCheck pc k with
      | (s, .ok) => .ok s
      | (s, _) => refused s
  else if cacheable pc then
    if s.cacheBusy k then .stall
    else if (s.core k).icache.contains (pc / 32) then .ok s
    else match s.codeFill k (pc / 32) with
      | (s, .ok) => .ok (s.codeHold k (pc / 32))
      | (s, _) => refused s
  else refused s

/-- The instruction word in memory at a; 0 where it cannot be fetched. -/
def State.codeWord (s : State) (k a : Nat) : Nat :=
  if s.ownTcm k a then s.bytesAt (s.tcmServe a) 4
  else
    match regionOf a with
    | .sram => s.bytesAt a 4
    | .bootFlash | .otherFlash | .bankA | .bankB => match s.flashRead a 4 with | (_, .ok v) => v | _ => 0
    | _ => 0

/-! Retirement (R251, R265, R303). -/

/-- The instruction at the PC is the last of an active hardware loop. -/
def Arch.lastInLoop (a : Arch) : Bool :=
  let w := a.win0
  bitOf w.lctl 5 && decide (a.pc + 4 = w.lend.toNat)

/-- ACT of the current window. -/
def Arch.act (a : Arch) : Bool := bitOf a.win0.lctl 5
def Arch.endLoop (a : Arch) : Arch := a.setWin0 { a.win0 with lctl := withField a.win0.lctl 5 5 0 }

/-- The last instruction's retirement: the count goes down, and the loop goes round or ends. -/
def Arch.loopBack (a : Arch) : Arch :=
  let w := a.win0
  let r := fieldOf w.lctl 4 0
  let v := a.get r - 1
  let a := a.set r v
  if v ≠ 0 then { a with pc := w.lstart.toNat } else { a.endLoop with pc := (w.lend.toNat + 4) % 2 ^ 32 }

/-- Record k retires an instruction and goes on at t, or as the loop says. -/
def State.retire (s : State) (k t : Nat) (last : Bool) : State :=
  (s.onCore k fun c =>
    { c with
      arch := if last && c.arch.act then c.arch.loopBack else { c.arch with pc := t % 2 ^ 32 }
      arith := c.arith.map fun r => { r with count := r.count + 1 } }).stepDone k

/-- A taken transfer from the body to an address outside the loop ends it (R252). -/
def Arch.leave (a : Arch) (t : Nat) : Arch :=
  let w := a.win0
  let inBody := a.act && decide (w.lstart.toNat ≤ a.pc) && decide (a.pc < w.lend.toNat)
  if inBody && !(decide (w.lstart.toNat ≤ t) && decide (t ≤ w.lend.toNat)) then a.endLoop else a

/-- A pending arithmetic exception is taken at the boundary after the sixteenth instruction. -/
def State.sixteenth (s : State) (k : Nat) : State :=
  match (s.core k).arith with
  | some r => if 16 ≤ r.count then (s.takeArith k r (s.arch k).pc).getD s else s
  | none => s

/-- What an instruction has done comes into force; s is the state before it, its word for ILLEGAL_INSN. -/
def State.settle (s : State) (k word : Nat) (d : Done) : Option State :=
  let a := s.arch k
  let pc := a.pc
  let last := a.lastInLoop
  let noEnd := last && s.codeWord k a.win0.lend.toNat != 0xC4000000
  let ill := (s.onArch k Arch.endLoop).fault k { num := 0x01, addr := some word }
  match d with
  | .stall => none
  | .stop s => some (s.stepDone k)
  | .exc s e => s.fault k e
  | .next s => if noEnd then ill else some ((s.retire k (pc + 4) last).sixteenth k)
  | .post s f => if noEnd then ill else some (f (s.retire k (pc + 4) last))
  | .after s e => if noEnd then ill else let s := s.retire k (pc + 4) last; s.takeExc k e (s.arch k).pc false false
  | .arith s num =>
    if noEnd then ill
    else
      let s := s.retire k (pc + 4) last
      if (s.arch k).pa then s.takeExc k { num := num, addr := some pc } (s.arch k).pc false false
      else
        let s := s.onCore k fun c =>
          { c with arith := match c.arith with | some r => some { r with multi := true } | none => some { num := num } }
        some (s.sixteenth k)
  | .jump s t => some (((s.onArch k fun a => a.leave t).retire k t false).coreTrace k t |>.sixteenth k)
  | .goto s t => some ((s.retire k t false).coreTrace k t |>.sixteenth k)

/-- Record k runs the instruction at its PC: what is pending comes first, then the fetch, the decode checks and `body`. -/
def State.instr (s : State) (k word : Nat) (serial transfer legal : Bool) (body : State → Nat → Done) : Option State :=
  let c := s.core k
  let pc := c.arch.pc
  match s.outputMism k pc, c.arith.filter fun r => serial || c.due || decide (16 ≤ r.count) with
  | some s, _ => some s
  | none, some r => s.takeArith k r pc
  | none, none =>
    if c.due then s.takeDue k pc
    else match s.fetch k pc with
      | .stall => none
      | .exc s e => s.fault k e
      | .ok s =>
        if !legal || transfer && c.arch.lastInLoop then s.fault k { num := 0x01, addr := some word }
        else s.settle k word (body s k)

/-- Core n runs an instruction; where it does not execute now, or waits, nothing changes. `serial`: R303 takes a pending
arithmetic exception before it. -/
def State.runCore (s : State) (n : Fin 4) (word : Nat) (serial transfer legal : Bool) (body : State → Nat → Done) : Result :=
  match s.lead n with
  | none => .next s
  | some k => if s.mayRun k then .next ((s.instr k word serial transfer legal body).getD s) else .next s

/-! Instruction words (R246). -/

/-- Formats A, I and M, B, and J. -/
def wordA (op fn d a b e : Nat) : Nat := 2 ^ 26 * op + 2 ^ 21 * d + 2 ^ 16 * a + 2 ^ 11 * b + e * 2 ^ 6 + fn
def wordI (op d a imm : Nat) : Nat := 2 ^ 26 * op + 2 ^ 21 * d + 2 ^ 16 * a + imm
def wordJ (op off : Nat) : Nat := 2 ^ 26 * op + off

/-- An opcode, with its fn where it has one, is assigned (R248). -/
def molpaAssigned (w : Nat) : Bool :=
  let op := w / 2 ^ 26
  let fn := w % 64
  let upTo (n : Nat) : Bool := decide (1 ≤ fn) && decide (fn ≤ n)
  match op with
  | 0x00 => upTo 0x12 | 0x01 => upTo 8 | 0x02 => upTo 0x0B | 0x03 => upTo 0x11 | 0x04 => upTo 4 | 0x05 => upTo 4
  | 0x0F => w / 2 ^ 14 % 4 != 3
  | 0x1A => upTo 6 | 0x1B => upTo 4 | 0x1F => upTo 4 | 0x28 => upTo 4 | 0x34 => upTo 0x0E | 0x38 => upTo 9 | 0x3C => upTo 2
  | 0x1C | 0x1D | 0x1E | 0x30 | 0x31 | 0x39 | 0x3A => true
  | op => decide (0x08 ≤ op) && decide (op ≤ 0x19) || decide (0x20 ≤ op) && decide (op ≤ 0x27)

end Sys2Proof.Machine
end

