-- ==== Sys2Proof/Machine/CoreAlu.lean ====
section
/-! DEFINITION. Molpa arithmetic: opcodes 0x00 to 0x05 and the immediates (R246 to R249, R160, R166, R167, R304). -/

namespace Sys2Proof.Machine

/-! Shapes. -/

/-- d := f(a, b, e); an unused field that is not 0 is illegal (R247). -/
def State.alu (s : State) (n : Fin 4) (op fn : Nat) (d a b e : Fin 32) (legal : Bool) (f : Word → Word → Word → Word) : Result :=
  s.runCore n (wordA op fn d a b e) false false legal fun s k =>
    .next (s.onArch k fun r => r.set d (f (r.get a) (r.get b) (r.get e)))

/-- An exact signed result: d takes it wrapped, and a result beyond 32 bits raises OVERFLOW (R248). -/
def State.aluV (s : State) (n : Fin 4) (op fn : Nat) (d a b e : Fin 32) (legal : Bool) (f : Word → Word → Int) : Result :=
  s.runCore n (wordA op fn d a b e) false false legal fun s k =>
    let r := s.arch k
    let z := f (r.get a) (r.get b)
    let s := s.onArch k fun r => r.set d (Word.ofInt z)
    if satTo 32 z = z then .next s else .arith s 0x10

/-- A division: by 0, DIV_ZERO, and d is not written (R249). -/
def State.aluDiv (s : State) (n : Fin 4) (op fn : Nat) (d a b e : Fin 32) (legal : Bool) (f : Word → Word → Word) : Result :=
  s.runCore n (wordA op fn d a b e) false false legal fun s k =>
    let r := s.arch k
    if r.get b = 0 then .arith s 0x11 else .next (s.onArch k fun r => r.set d (f (r.get a) (r.get b)))

/-- Saturation to w bits clips z. -/
def clipped (w : Nat) (z : Int) : Bool := satTo w z != z

/-- A saturating operation has run; a clipped result raises SAT_TRAP while STE = 1 (R249, R296). -/
def State.satDone (s : State) (k : Nat) (clip : Bool) : Done :=
  if clip && (s.arch k).ste then .arith s 0x12 else .next s

/-- d := the exact result saturated to w bits. -/
def State.aluSat (s : State) (n : Fin 4) (op fn : Nat) (d a b e : Fin 32) (legal : Bool) (w : Nat)
    (f : Word → Word → Word → Int) : Result :=
  s.runCore n (wordA op fn d a b e) false false legal fun s k =>
    let r := s.arch k
    let z := f (r.get a) (r.get b) (r.get e)
    (s.onArch k fun r => r.set d (Word.ofInt (satTo w z))).satDone k (clipped w z)

/-- Results for d, d + 1 and on, with whether one was clipped; d must be a multiple of `align` (R247). -/
def State.aluVec (s : State) (n : Fin 4) (op fn : Nat) (d a b e : Fin 32) (legal : Bool) (align : Nat)
    (f : Arch → List Word × Bool) : Result :=
  s.runCore n (wordA op fn d a b e) false false (legal && d.val % align == 0) fun s k =>
    let (ws, clip) := f (s.arch k)
    (s.onArch k fun r => ws.zipIdx.foldl (fun r (w, i) => r.set (d + i) w) r).satDone k clip

/-- d := f(a) with an immediate. -/
def State.coreImm (s : State) (n : Fin 4) (op : Nat) (d a : Fin 32) (imm : BitVec 16) (legal : Bool) (f : Word → Word) : Result :=
  s.runCore n (wordI op d a imm.toNat) false false legal fun s k => .next (s.onArch k fun r => r.set d (f (r.get a)))

/-- Trailing zeros of a word, 32 for 0. -/
def trailingZeros (w : Word) : Nat := ((List.range 32).find? fun i => bitOf w i).getD 32

/-- Byte order reversed. -/
def byteSwap (w : Word) : Word :=
  BitVec.ofNat 32 (fieldOf w 7 0 * 2 ^ 24 + fieldOf w 15 8 * 2 ^ 16 + fieldOf w 23 16 * 2 ^ 8 + fieldOf w 31 24)

/-- FEQ and FLE: 0 with a NaN (R248). -/
def fpEq (a b : Word) : Bool := !isNaN a && !isNaN b && !fpLt a b && !fpLt b a
def fpLe (a b : Word) : Bool := !isNaN a && !isNaN b && !fpLt b a

/-! Integer (opcode 0x00). -/

/-- MC_ADD (R248): d := a + b, modulo 2^32. -/
def execMcAdd (n : Fin 4) (d a b e : Fin 32) (s : State) : Result :=
  s.alu n 0x00 0x01 d a b e (e == 0) fun x y _ => x + y

/-- MC_SUB (R248): d := a - b, modulo 2^32. -/
def execMcSub (n : Fin 4) (d a b e : Fin 32) (s : State) : Result :=
  s.alu n 0x00 0x02 d a b e (e == 0) fun x y _ => x - y

/-- MC_AND (R248): d := a and b. -/
def execMcAnd (n : Fin 4) (d a b e : Fin 32) (s : State) : Result :=
  s.alu n 0x00 0x03 d a b e (e == 0) fun x y _ => x &&& y

/-- MC_OR (R248): d := a or b. -/
def execMcOr (n : Fin 4) (d a b e : Fin 32) (s : State) : Result :=
  s.alu n 0x00 0x04 d a b e (e == 0) fun x y _ => x ||| y

/-- MC_XOR (R248): d := a xor b. -/
def execMcXor (n : Fin 4) (d a b e : Fin 32) (s : State) : Result :=
  s.alu n 0x00 0x05 d a b e (e == 0) fun x y _ => x ^^^ y

/-- MC_ANDN (R248): d := a and not b. -/
def execMcAndn (n : Fin 4) (d a b e : Fin 32) (s : State) : Result :=
  s.alu n 0x00 0x06 d a b e (e == 0) fun x y _ => x &&& ~~~y

/-- MC_SLL (R248): d := a shifted left by b[4:0]. -/
def execMcSll (n : Fin 4) (d a b e : Fin 32) (s : State) : Result :=
  s.alu n 0x00 0x07 d a b e (e == 0) fun x y _ => x <<< (y.toNat % 32)

/-- MC_SRL (R248): d := a shifted right by b[4:0], logical. -/
def execMcSrl (n : Fin 4) (d a b e : Fin 32) (s : State) : Result :=
  s.alu n 0x00 0x08 d a b e (e == 0) fun x y _ => x >>> (y.toNat % 32)

/-- MC_SRA (R248): d := a shifted right by b[4:0], arithmetic. -/
def execMcSra (n : Fin 4) (d a b e : Fin 32) (s : State) : Result :=
  s.alu n 0x00 0x09 d a b e (e == 0) fun x y _ => x.sshiftRight (y.toNat % 32)

/-- MC_SLT (R248): d := 1 if a < b signed, else 0. -/
def execMcSlt (n : Fin 4) (d a b e : Fin 32) (s : State) : Result :=
  s.alu n 0x00 0x0A d a b e (e == 0) fun x y _ => BitVec.ofNat 32 (bit (x.slt y))

/-- MC_SLTU (R248): d := 1 if a < b unsigned, else 0. -/
def execMcSltu (n : Fin 4) (d a b e : Fin 32) (s : State) : Result :=
  s.alu n 0x00 0x0B d a b e (e == 0) fun x y _ => BitVec.ofNat 32 (bit (x.ult y))

/-- MC_MIN (R248): d := the signed minimum. -/
def execMcMin (n : Fin 4) (d a b e : Fin 32) (s : State) : Result :=
  s.alu n 0x00 0x0C d a b e (e == 0) fun x y _ => if x.slt y then x else y

/-- MC_MAX (R248): d := the signed maximum. -/
def execMcMax (n : Fin 4) (d a b e : Fin 32) (s : State) : Result :=
  s.alu n 0x00 0x0D d a b e (e == 0) fun x y _ => if x.slt y then y else x

/-- MC_MINU (R248): d := the unsigned minimum. -/
def execMcMinu (n : Fin 4) (d a b e : Fin 32) (s : State) : Result :=
  s.alu n 0x00 0x0E d a b e (e == 0) fun x y _ => if x.ult y then x else y

/-- MC_MAXU (R248): d := the unsigned maximum. -/
def execMcMaxu (n : Fin 4) (d a b e : Fin 32) (s : State) : Result :=
  s.alu n 0x00 0x0F d a b e (e == 0) fun x y _ => if x.ult y then y else x

/-- MC_ADDV (R248): as ADD; a signed overflow raises OVERFLOW, with the wrapped value written. -/
def execMcAddv (n : Fin 4) (d a b e : Fin 32) (s : State) : Result :=
  s.aluV n 0x00 0x10 d a b e (e == 0) fun x y => sv x + sv y

/-- MC_SUBV (R248): as SUB; a signed overflow raises OVERFLOW, with the wrapped value written. -/
def execMcSubv (n : Fin 4) (d a b e : Fin 32) (s : State) : Result :=
  s.aluV n 0x00 0x11 d a b e (e == 0) fun x y => sv x - sv y

/-- MC_SEL (R248): d := a if e is not 0, else b. -/
def execMcSel (n : Fin 4) (d a b e : Fin 32) (s : State) : Result :=
  s.alu n 0x00 0x12 d a b e (true) fun x y z => if z = 0 then y else x

/-! Multiply and divide (opcode 0x01). -/

/-- MC_MUL (R248): d := (a x b)[31:0]. -/
def execMcMul (n : Fin 4) (d a b e : Fin 32) (s : State) : Result :=
  s.alu n 0x01 0x01 d a b e (e == 0) fun x y _ => x * y

/-- MC_MULH (R248): d := (a x b)[63:32], signed. -/
def execMcMulh (n : Fin 4) (d a b e : Fin 32) (s : State) : Result :=
  s.alu n 0x01 0x02 d a b e (e == 0) fun x y _ => Word.ofInt (sra (sv x * sv y) 32)

/-- MC_MULHU (R248): d := (a x b)[63:32], unsigned. -/
def execMcMulhu (n : Fin 4) (d a b e : Fin 32) (s : State) : Result :=
  s.alu n 0x01 0x03 d a b e (e == 0) fun x y _ => BitVec.ofNat 32 (x.toNat * y.toNat / 2 ^ 32)

/-- MC_MULV (R248): as MUL; a signed product beyond 32 bits raises OVERFLOW. -/
def execMcMulv (n : Fin 4) (d a b e : Fin 32) (s : State) : Result :=
  s.aluV n 0x01 0x04 d a b e (e == 0) fun x y => sv x * sv y

/-- MC_DIV (R248): d := the quotient truncated towards 0, signed; by 0, DIV_ZERO and d unwritten (R249). -/
def execMcDiv (n : Fin 4) (d a b e : Fin 32) (s : State) : Result :=
  s.aluDiv n 0x01 0x05 d a b e (e == 0) fun x y => Word.ofInt ((sv x).tdiv (sv y))

/-- MC_DIVU (R248): d := the quotient, unsigned; by 0, DIV_ZERO and d unwritten (R249). -/
def execMcDivu (n : Fin 4) (d a b e : Fin 32) (s : State) : Result :=
  s.aluDiv n 0x01 0x06 d a b e (e == 0) fun x y => BitVec.ofNat 32 (x.toNat / y.toNat)

/-- MC_REM (R248): d := the remainder with the sign of a; by 0, DIV_ZERO and d unwritten (R249). -/
def execMcRem (n : Fin 4) (d a b e : Fin 32) (s : State) : Result :=
  s.aluDiv n 0x01 0x07 d a b e (e == 0) fun x y => Word.ofInt ((sv x).tmod (sv y))

/-- MC_REMU (R248): d := the remainder, unsigned; by 0, DIV_ZERO and d unwritten (R249). -/
def execMcRemu (n : Fin 4) (d a b e : Fin 32) (s : State) : Result :=
  s.aluDiv n 0x01 0x08 d a b e (e == 0) fun x y => BitVec.ofNat 32 (x.toNat % y.toNat)

/-! Fixed point (opcode 0x02, operations of R166). -/

/-- MC_ADD_S (R248): d := sat(a + b). -/
def execMcAddS (n : Fin 4) (d a b e : Fin 32) (s : State) : Result :=
  s.aluSat n 0x02 0x01 d a b e (e == 0) 32 fun x y _ => sv x + sv y

/-- MC_SUB_S (R248): d := sat(a - b). -/
def execMcSubS (n : Fin 4) (d a b e : Fin 32) (s : State) : Result :=
  s.aluSat n 0x02 0x02 d a b e (e == 0) 32 fun x y _ => sv x - sv y

/-- MC_NEG_S (R248): d := sat(-a). -/
def execMcNegS (n : Fin 4) (d a b e : Fin 32) (s : State) : Result :=
  s.aluSat n 0x02 0x03 d a b e (b == 0 && e == 0) 32 fun x _ _ => -sv x

/-- MC_ABS_S (R248): d := sat(abs a). -/
def execMcAbsS (n : Fin 4) (d a b e : Fin 32) (s : State) : Result :=
  s.aluSat n 0x02 0x04 d a b e (b == 0 && e == 0) 32 fun x _ _ => (sv x).natAbs

/-- MC_MULQ (R248): d := sat((a x b) >> 31). -/
def execMcMulq (n : Fin 4) (d a b e : Fin 32) (s : State) : Result :=
  s.aluSat n 0x02 0x05 d a b e (e == 0) 32 fun x y _ => sra (sv x * sv y) 31

/-- MC_MADQ (R248): d := sat(e + ((a x b) >> 31)). -/
def execMcMadq (n : Fin 4) (d a b e : Fin 32) (s : State) : Result :=
  s.aluSat n 0x02 0x06 d a b e (true) 32 fun x y z => sv z + sra (sv x * sv y) 31

/-- MC_MULQ15 (R248): d := sat16((a[15:0] x b[15:0]) >> 15). -/
def execMcMulq15 (n : Fin 4) (d a b e : Fin 32) (s : State) : Result :=
  s.aluSat n 0x02 0x07 d a b e (e == 0) 16 fun x y _ => sra (low16 x * low16 y) 15

/-- MC_MADQ15 (R248): d := sat16(e[15:0] + ((a[15:0] x b[15:0]) >> 15)). -/
def execMcMadq15 (n : Fin 4) (d a b e : Fin 32) (s : State) : Result :=
  s.aluSat n 0x02 0x08 d a b e (true) 16 fun x y z => low16 z + sra (low16 x * low16 y) 15

/-- MC_CLMP (R248): d := min(max(a, -b), b). -/
def execMcClmp (n : Fin 4) (d a b e : Fin 32) (s : State) : Result :=
  s.alu n 0x02 0x09 d a b e (e == 0) fun x y _ => Word.ofInt (min (max (sv x) (-sv y)) (sv y))

/-- MC_SHLS (R248): d := sat(a x 2^b[4:0]). -/
def execMcShls (n : Fin 4) (d a b e : Fin 32) (s : State) : Result :=
  s.aluSat n 0x02 0x0A d a b e (e == 0) 32 fun x y _ => sv x * (2 ^ (y.toNat % 32) : Nat)

/-- MC_RNDQ15 (R248): d := sat16((a + 2^15) >> 16). -/
def execMcRndq15 (n : Fin 4) (d a b e : Fin 32) (s : State) : Result :=
  s.aluSat n 0x02 0x0B d a b e (b == 0 && e == 0) 16 fun x _ _ => sra (sv x + 32768) 16

/-! FP32 (opcode 0x03, rules of R160). -/

/-- MC_FADD (R248): d := a + b. -/
def execMcFadd (n : Fin 4) (d a b e : Fin 32) (s : State) : Result :=
  s.alu n 0x03 0x01 d a b e (e == 0) fun x y _ => fpAdd x y

/-- MC_FSUB (R248): d := a - b. -/
def execMcFsub (n : Fin 4) (d a b e : Fin 32) (s : State) : Result :=
  s.alu n 0x03 0x02 d a b e (e == 0) fun x y _ => fpSub x y

/-- MC_FMUL (R248): d := a x b. -/
def execMcFmul (n : Fin 4) (d a b e : Fin 32) (s : State) : Result :=
  s.alu n 0x03 0x03 d a b e (e == 0) fun x y _ => fpMul x y

/-- MC_FMAD (R248): d := e + a x b, one rounding. -/
def execMcFmad (n : Fin 4) (d a b e : Fin 32) (s : State) : Result :=
  s.alu n 0x03 0x04 d a b e (true) fun x y z => fpMad x y z

/-- MC_FMIN (R248): d := the minimum; a NaN gives the other operand. -/
def execMcFmin (n : Fin 4) (d a b e : Fin 32) (s : State) : Result :=
  s.alu n 0x03 0x05 d a b e (e == 0) fun x y _ => fpMin x y

/-- MC_FMAX (R248): d := the maximum; a NaN gives the other operand. -/
def execMcFmax (n : Fin 4) (d a b e : Fin 32) (s : State) : Result :=
  s.alu n 0x03 0x06 d a b e (e == 0) fun x y _ => fpMax x y

/-- MC_FABS (R248): d := a with its sign cleared. -/
def execMcFabs (n : Fin 4) (d a b e : Fin 32) (s : State) : Result :=
  s.alu n 0x03 0x07 d a b e (b == 0 && e == 0) fun x _ _ => fpAbs x

/-- MC_FNEG (R248): d := a with its sign inverted. -/
def execMcFneg (n : Fin 4) (d a b e : Fin 32) (s : State) : Result :=
  s.alu n 0x03 0x08 d a b e (b == 0 && e == 0) fun x _ _ => fpNeg x

/-- MC_FCVT_QF (R248): Q31 to FP32. -/
def execMcFcvtQf (n : Fin 4) (d a b e : Fin 32) (s : State) : Result :=
  s.alu n 0x03 0x09 d a b e (b == 0 && e == 0) fun x _ _ => fcvtQF x

/-- MC_FCVT_FQ (R248): FP32 to Q31, saturating. -/
def execMcFcvtFq (n : Fin 4) (d a b e : Fin 32) (s : State) : Result :=
  s.alu n 0x03 0x0A d a b e (b == 0 && e == 0) fun x _ _ => fcvtFQ x

/-- MC_FCVT_IF (R248): integer to FP32. -/
def execMcFcvtIf (n : Fin 4) (d a b e : Fin 32) (s : State) : Result :=
  s.alu n 0x03 0x0B d a b e (b == 0 && e == 0) fun x _ _ => fcvtIF x

/-- MC_FCVT_FI (R248): FP32 to integer, saturating. -/
def execMcFcvtFi (n : Fin 4) (d a b e : Fin 32) (s : State) : Result :=
  s.alu n 0x03 0x0C d a b e (b == 0 && e == 0) fun x _ _ => fcvtFI x

/-- MC_FLT (R248): d := 1 if a < b, else 0; 0 with a NaN. -/
def execMcFlt (n : Fin 4) (d a b e : Fin 32) (s : State) : Result :=
  s.alu n 0x03 0x0D d a b e (e == 0) fun x y _ => BitVec.ofNat 32 (bit (fpLt x y))

/-- MC_FDIV (R248): d := a / b, one rounding. -/
def execMcFdiv (n : Fin 4) (d a b e : Fin 32) (s : State) : Result :=
  s.alu n 0x03 0x0E d a b e (e == 0) fun x y _ => fpDiv x y

/-- MC_FSQRT (R248): d := the square root of a, one rounding. -/
def execMcFsqrt (n : Fin 4) (d a b e : Fin 32) (s : State) : Result :=
  s.alu n 0x03 0x0F d a b e (b == 0 && e == 0) fun x _ _ => fpSqrt x

/-- MC_FEQ (R248): d := 1 if a = b, else 0; 0 with a NaN. -/
def execMcFeq (n : Fin 4) (d a b e : Fin 32) (s : State) : Result :=
  s.alu n 0x03 0x10 d a b e (e == 0) fun x y _ => BitVec.ofNat 32 (bit (fpEq x y))

/-- MC_FLE (R248): d := 1 if a <= b, else 0; 0 with a NaN. -/
def execMcFle (n : Fin 4) (d a b e : Fin 32) (s : State) : Result :=
  s.alu n 0x03 0x11 d a b e (e == 0) fun x y _ => BitVec.ofNat 32 (bit (fpLe x y))

/-! Transforms (opcode 0x04, operations of R166 and R167). -/

/-- MC_CLARKE (R248): d := a, d + 1 := sat((a + 2b) / sqrt 3). -/
def execMcClarke (n : Fin 4) (d a b e : Fin 32) (s : State) : Result :=
  s.aluVec n 0x04 0x01 d a b e (e == 0) 2 fun r =>
    let z := clarkeInt (r.get a) (r.get b)
    ([r.get a, sat32 z], clipped 32 z)

/-- MC_PARK (R248): the pair at a, rotated by the angle b, into the pair at d. -/
def execMcPark (n : Fin 4) (d a b e : Fin 32) (s : State) : Result :=
  s.aluVec n 0x04 0x02 d a b e (e == 0) 2 fun r =>
    let z := parkInts (r.get a) (r.get ((a.val + 1) % 32)) (r.get b)
    ([sat32 z.1, sat32 z.2], clipped 32 z.1 || clipped 32 z.2)

/-- MC_IPARK (R248): the pair at a, rotated back by the angle b, into the pair at d. -/
def execMcIpark (n : Fin 4) (d a b e : Fin 32) (s : State) : Result :=
  s.aluVec n 0x04 0x03 d a b e (e == 0) 2 fun r =>
    let z := iparkInts (r.get a) (r.get ((a.val + 1) % 32)) (r.get b)
    ([sat32 z.1, sat32 z.2], clipped 32 z.1 || clipped 32 z.2)

/-- MC_SVM (R248): space-vector times of the pair at a into d to d + 3. -/
def execMcSvm (n : Fin 4) (d a b e : Fin 32) (s : State) : Result :=
  s.aluVec n 0x04 0x04 d a b e (b == 0 && e == 0) 4 fun r =>
    let z := svmOf (r.get a) (r.get ((a.val + 1) % 32))
    ([z.1, z.2.1, z.2.2.1, z.2.2.2], bitOf z.1 31)

/-! Bit operations (opcode 0x05). -/

/-- MC_CLZ (R248): d := leading zeros of a, 0 to 32. -/
def execMcClz (n : Fin 4) (d a b e : Fin 32) (s : State) : Result :=
  s.alu n 0x05 0x01 d a b e (b == 0 && e == 0) fun x _ _ => BitVec.ofNat 32 (32 - bitLen x.toNat)

/-- MC_CTZ (R248): d := trailing zeros of a, 0 to 32. -/
def execMcCtz (n : Fin 4) (d a b e : Fin 32) (s : State) : Result :=
  s.alu n 0x05 0x02 d a b e (b == 0 && e == 0) fun x _ _ => BitVec.ofNat 32 (trailingZeros x)

/-- MC_POPC (R248): d := the number of ones in a. -/
def execMcPopc (n : Fin 4) (d a b e : Fin 32) (s : State) : Result :=
  s.alu n 0x05 0x03 d a b e (b == 0 && e == 0) fun x _ _ => BitVec.ofNat 32 (popcount x)

/-- MC_BSWAP (R248): d := a with its byte order reversed. -/
def execMcBswap (n : Fin 4) (d a b e : Fin 32) (s : State) : Result :=
  s.alu n 0x05 0x04 d a b e (b == 0 && e == 0) fun x _ _ => byteSwap x

/-! Immediates (opcodes 0x08 to 0x0F). -/

/-- MC_ADDI (R248): d := a + sext(imm16). -/
def execMcAddi (n : Fin 4) (d a : Fin 32) (imm : BitVec 16) (s : State) : Result :=
  s.coreImm n 0x08 d a imm (true) fun x => x + imm.signExtend 32

/-- MC_ANDI (R248): d := a and zext(imm16). -/
def execMcAndi (n : Fin 4) (d a : Fin 32) (imm : BitVec 16) (s : State) : Result :=
  s.coreImm n 0x09 d a imm (true) fun x => x &&& imm.zeroExtend 32

/-- MC_ORI (R248): d := a or zext(imm16). -/
def execMcOri (n : Fin 4) (d a : Fin 32) (imm : BitVec 16) (s : State) : Result :=
  s.coreImm n 0x0A d a imm (true) fun x => x ||| imm.zeroExtend 32

/-- MC_XORI (R248): d := a xor zext(imm16). -/
def execMcXori (n : Fin 4) (d a : Fin 32) (imm : BitVec 16) (s : State) : Result :=
  s.coreImm n 0x0B d a imm (true) fun x => x ^^^ imm.zeroExtend 32

/-- MC_SLTI (R248): d := 1 if a < sext(imm16) signed, else 0. -/
def execMcSlti (n : Fin 4) (d a : Fin 32) (imm : BitVec 16) (s : State) : Result :=
  s.coreImm n 0x0C d a imm (true) fun x => BitVec.ofNat 32 (bit (x.slt (imm.signExtend 32)))

/-- MC_SLTIU (R248): d := 1 if a < sext(imm16) unsigned, else 0. -/
def execMcSltiu (n : Fin 4) (d a : Fin 32) (imm : BitVec 16) (s : State) : Result :=
  s.coreImm n 0x0D d a imm (true) fun x => BitVec.ofNat 32 (bit (x.ult (imm.signExtend 32)))

/-- MC_LUI (R248): d := imm16 << 16; a = 0. -/
def execMcLui (n : Fin 4) (d a : Fin 32) (imm : BitVec 16) (s : State) : Result :=
  s.coreImm n 0x0E d a imm (a == 0) fun _ => imm.zeroExtend 32 <<< 16

/-- MC_SLLI (R248): d := a shifted left by imm16[4:0]. -/
def execMcSlli (n : Fin 4) (d a : Fin 32) (imm : BitVec 14) (s : State) : Result :=
  s.coreImm n 0x0F d a (BitVec.ofNat 16 (0 * 2 ^ 14 + imm.toNat)) (decide (imm.toNat < 32)) fun x => x <<< imm.toNat

/-- MC_SRLI (R248): d := a shifted right by imm16[4:0], logical. -/
def execMcSrli (n : Fin 4) (d a : Fin 32) (imm : BitVec 14) (s : State) : Result :=
  s.coreImm n 0x0F d a (BitVec.ofNat 16 (1 * 2 ^ 14 + imm.toNat)) (decide (imm.toNat < 32)) fun x => x >>> imm.toNat

/-- MC_SRAI (R248): d := a shifted right by imm16[4:0], arithmetic. -/
def execMcSrai (n : Fin 4) (d a : Fin 32) (imm : BitVec 14) (s : State) : Result :=
  s.coreImm n 0x0F d a (BitVec.ofNat 16 (2 * 2 ^ 14 + imm.toNat)) (decide (imm.toNat < 32)) fun x => x.sshiftRight imm.toNat

end Sys2Proof.Machine
end

