-- ==== Sys2Proof/Machine/CoreFlow.lean ====
section
/-! DEFINITION. Molpa control transfers, hardware loops and capability operations (R239, R240, R250 to R252, R287 to R290, R293). -/

namespace Sys2Proof.Machine

/-! Shapes. -/

/-- A slide that has been made goes on; a failed one is the instruction's exception. -/
def Slide.then : Slide → (State → Done) → Done
  | .ok s, f => f s
  | .exc s e, _ => .exc s e
  | .stall, _ => .stall

/-- PC + 4 x off, modulo 2^32. -/
def Arch.rel (r : Arch) (off : Word) : Nat := (BitVec.ofNat 32 r.pc + off <<< 2).toNat

/-- The check of a target within the present PCAP (R250). -/
def Arch.near (r : Arch) (t : Nat) : Option Exc := targetCheck (r.cap 0) 0 5 t

/-- A conditional branch; a branch that is not taken has no target to check. -/
def State.branch (s : State) (n : Fin 4) (op : Nat) (a b : Fin 32) (off : BitVec 16) (f : Word → Word → Bool) : Result :=
  s.runCore n (wordI op a b off.toNat) false true true fun s k =>
    let r := s.arch k
    let t := r.rel (off.signExtend 32)
    if f (r.get a) (r.get b) then match r.near t with | some x => .exc s x | none => .jump s t else .next s

/-- The exception of a capability operation, naming register i (R287, R290); no address is stated for it. -/
def capExc (num : Nat) (i : Fin 32) : Exc := { num := num, acc := 4, creg := i }

/-- Capability d := what f makes of the arch and capability a; c0 is no destination (R289). -/
def State.capDerive (s : State) (n : Fin 4) (word : Nat) (d a : Fin 32) (legal : Bool) (f : Arch → Cap → Except Exc Cap) : Result :=
  s.runCore n word false false (legal && d.val != 0 && d.val < 16 && a.val < 16) fun s k =>
    match f (s.arch k) ((s.arch k).cap a) with
    | .error x => .exc s x
    | .ok c => .next (s.onArch k fun r => r.setCap d c)

/-- A derivation of opcode 0x34. -/
def State.capOp (s : State) (n : Fin 4) (fn : Nat) (d a b e : Fin 32) (legal : Bool) (f : Arch → Cap → Except Exc Cap) : Result :=
  s.capDerive n (wordA 0x34 fn d a b e) d a legal f

/-- d := a field of capability a. -/
def State.capField (s : State) (n : Fin 4) (fn : Nat) (d a b e : Fin 32) (f : Cap → Word) : Result :=
  s.runCore n (wordA 0x34 fn d a b e) false false (a.val < 16 && b == 0 && e == 0) fun s k =>
    .next (s.onArch k fun r => r.set d (f (r.cap a)))

/-! Branches and jumps (R250). -/

/-- MC_BEQ (R248, R250): if a = b then PC := PC + 4 x sext(off16). -/
def execMcBeq (n : Fin 4) (a b : Fin 32) (off : BitVec 16) (s : State) : Result :=
  s.branch n 0x20 a b off fun x y => x == y

/-- MC_BNE (R248, R250): if a is not b then PC := PC + 4 x sext(off16). -/
def execMcBne (n : Fin 4) (a b : Fin 32) (off : BitVec 16) (s : State) : Result :=
  s.branch n 0x21 a b off fun x y => x != y

/-- MC_BLT (R248, R250): if a < b, signed then PC := PC + 4 x sext(off16). -/
def execMcBlt (n : Fin 4) (a b : Fin 32) (off : BitVec 16) (s : State) : Result :=
  s.branch n 0x22 a b off fun x y => x.slt y

/-- MC_BGE (R248, R250): if a >= b, signed then PC := PC + 4 x sext(off16). -/
def execMcBge (n : Fin 4) (a b : Fin 32) (off : BitVec 16) (s : State) : Result :=
  s.branch n 0x23 a b off fun x y => !x.slt y

/-- MC_BLTU (R248, R250): if a < b, unsigned then PC := PC + 4 x sext(off16). -/
def execMcBltu (n : Fin 4) (a b : Fin 32) (off : BitVec 16) (s : State) : Result :=
  s.branch n 0x24 a b off fun x y => x.ult y

/-- MC_BGEU (R248, R250): if a >= b, unsigned then PC := PC + 4 x sext(off16). -/
def execMcBgeu (n : Fin 4) (a b : Fin 32) (off : BitVec 16) (s : State) : Result :=
  s.branch n 0x25 a b off fun x y => !x.ult y

/-- MC_J (R248, R250): PC := PC + 4 x sext(off26). -/
def execMcJ (n : Fin 4) (off : BitVec 26) (s : State) : Result :=
  s.runCore n (wordJ 0x26 off.toNat) false true true fun s k =>
    let t := (s.arch k).rel (off.signExtend 32)
    match (s.arch k).near t with | some x => .exc s x | none => .jump s t

/-! Calls and returns (R239, R240, R250). -/

/-- MC_CALL (R239, R250): slide the window, MC_LINK := PC + 4, PC := PC + 4 x sext(off26). -/
def execMcCall (n : Fin 4) (off : BitVec 26) (s : State) : Result :=
  s.runCore n (wordJ 0x27 off.toNat) false true true fun s k =>
    let t := (s.arch k).rel (off.signExtend 32)
    match (s.arch k).near t with
    | some x => .exc s x
    | none => (s.slideFwd k ((s.arch k).pc + 4)).then fun s => .goto s t

/-- MC_JC (R250, R293): PCAP := capability a, PC := its cursor. -/
def execMcJc (n : Fin 4) (d a b e : Fin 32) (s : State) : Result :=
  s.runCore n (wordA 0x28 1 d a b e) true true (d == 0 && a.val < 16 && b == 0 && e == 0) fun s k =>
    let c := (s.arch k).cap a
    match execCheck c a 5 c.cursor.toNat with
    | some x => .exc s x
    | none => .jump (s.onArch k fun r => r.setCap 0 c) c.cursor.toNat

/-- MC_CALLC (R239, R250, R293): c14 := PCAP with its cursor at PC + 4; slide the window, MC_LINK := PC + 4; then as JC with capability a. -/
def execMcCallc (n : Fin 4) (d a b e : Fin 32) (s : State) : Result :=
  s.runCore n (wordA 0x28 2 d a b e) true true (d == 0 && a.val < 16 && b == 0 && e == 0) fun s k =>
    let r := s.arch k
    let c := r.cap a
    match execCheck c a 5 c.cursor.toNat with
    | some x => .exc s x
    | none => (s.slideFwd k (r.pc + 4)).then fun s =>
      .goto (s.onArch k fun r' => (r'.setCap 14 { r.cap 0 with cursor := BitVec.ofNat 32 (r.pc + 4) }).setCap 0 c) c.cursor.toNat

/-- MC_RETC (R240, R250, R293): slide the window back, then as JC with capability a. -/
def execMcRetc (n : Fin 4) (d a b e : Fin 32) (s : State) : Result :=
  s.runCore n (wordA 0x28 3 d a b e) true true (d == 0 && a.val < 16 && b == 0 && e == 0) fun s k =>
    let c := (s.arch k).cap a
    match execCheck c a 5 c.cursor.toNat with
    | some x => .exc s x
    | none => (s.slideBack k).then fun s => .goto (s.onArch k fun r => r.setCap 0 c) c.cursor.toNat

/-- MC_RET (R240, R250): PC := MC_LINK of the window left, within the present PCAP; slide the window back. -/
def execMcRet (n : Fin 4) (d a b e : Fin 32) (s : State) : Result :=
  s.runCore n (wordA 0x28 4 d a b e) false true (d == 0 && a == 0 && b == 0 && e == 0) fun s k =>
    let t := (s.arch k).win0.link.toNat
    match (s.arch k).near t with
    | some x => .exc s x
    | none => (s.slideBack k).then fun s => .goto s t

/-! Hardware loops (R251, R252). -/

/-- MC_LOOP (R251, R252): loop over the off16 - 1 instructions that follow, with count register a; with a count of 0 the body is skipped. z is the field [20:16], which is 0. -/
def execMcLoop (n : Fin 4) (a z : Fin 32) (off : BitVec 16) (s : State) : Result :=
  s.runCore n (wordI 0x30 a z off.toNat) false true (z == 0 && 2 ≤ off.toNat) fun s k =>
    let r := s.arch k
    let p := r.pc
    if r.act then .exc s { num := 0x01, addr := some (wordI 0x30 a z off.toNat) }
    else if r.get a = 0 then .goto s (p + 4 * off.toNat + 4)
    else .next (s.onArch k fun r => r.setWin0 { r.win0 with
      lstart := BitVec.ofNat 32 (p + 4), lend := BitVec.ofNat 32 (p + 4 * off.toNat), lctl := BitVec.ofNat 32 (32 + a.val) })

/-- MC_ENDLOOP (R251): acts as NOP; z is the field [25:0], which is 0. -/
def execMcEndloop (n : Fin 4) (z : BitVec 26) (s : State) : Result :=
  s.runCore n (wordJ 0x31 z.toNat) false false (z == 0) fun s _ => .next s

/-! Capabilities (opcode 0x34 and SGADDCI; R287 to R290). -/

/-- MC_SGMOV (R287): capability d := capability a. -/
def execMcSgmov (n : Fin 4) (d a b e : Fin 32) (s : State) : Result :=
  s.capOp n 1 d a b e (b == 0 && e == 0) fun _ c => .ok c

/-- MC_SGBASE (R287): d := BASE of capability a. -/
def execMcSgbase (n : Fin 4) (d a b e : Fin 32) (s : State) : Result :=
  s.capField n 2 d a b e fun c => c.base

/-- MC_SGLEN (R287): d := LENGTH of capability a. -/
def execMcSglen (n : Fin 4) (d a b e : Fin 32) (s : State) : Result :=
  s.capField n 3 d a b e fun c => c.length

/-- MC_SGPERM (R287): d := PERMS of capability a. -/
def execMcSgperm (n : Fin 4) (d a b e : Fin 32) (s : State) : Result :=
  s.capField n 4 d a b e fun c => c.perms.zeroExtend 32

/-- MC_SGTYPE (R287): d := OTYPE of capability a. -/
def execMcSgtype (n : Fin 4) (d a b e : Fin 32) (s : State) : Result :=
  s.capField n 5 d a b e fun c => c.otype.zeroExtend 32

/-- MC_SGTAG (R287): d := the tag of capability a. -/
def execMcSgtag (n : Fin 4) (d a b e : Fin 32) (s : State) : Result :=
  s.capField n 6 d a b e fun c => BitVec.ofNat 32 (bit c.tag)

/-- MC_SGCUR (R287): d := CURSOR of capability a. -/
def execMcSgcur (n : Fin 4) (d a b e : Fin 32) (s : State) : Result :=
  s.capField n 7 d a b e fun c => c.cursor

/-- MC_SGSETC (R287): capability d := capability a with CURSOR := b. -/
def execMcSgsetc (n : Fin 4) (d a b e : Fin 32) (s : State) : Result :=
  s.capOp n 8 d a b e (e == 0) fun r c =>
    if c.isSealed then .error (capExc 0x05 a) else .ok { c with cursor := r.get b }

/-- MC_SGADDC (R287): capability d := capability a with CURSOR + b. -/
def execMcSgaddc (n : Fin 4) (d a b e : Fin 32) (s : State) : Result :=
  s.capOp n 9 d a b e (e == 0) fun r c =>
    if c.isSealed then .error (capExc 0x05 a) else .ok { c with cursor := c.cursor + r.get b }

/-- MC_SGNARROW (R287): capability d := capability a with BASE + b, LENGTH := e, CURSOR := the new BASE. -/
def execMcSgnarrow (n : Fin 4) (d a b e : Fin 32) (s : State) : Result :=
  s.capOp n 10 d a b e true fun r c =>
    if !c.tag then .error (capExc 0x04 a)
    else if c.isSealed then .error (capExc 0x05 a)
    else if c.length.toNat < (r.get b).toNat + (r.get e).toNat then .error (capExc 0x07 a)
    else .ok { c with base := c.base + r.get b, length := r.get e, cursor := c.base + r.get b }

/-- MC_SGMASK (R287): capability d := capability a with PERMS and b[15:0]. -/
def execMcSgmask (n : Fin 4) (d a b e : Fin 32) (s : State) : Result :=
  s.capOp n 11 d a b e (e == 0) fun r c =>
    if !c.tag then .error (capExc 0x04 a)
    else if c.isSealed then .error (capExc 0x05 a)
    else .ok { c with perms := c.perms &&& (r.get b).truncate 16 }

/-- MC_SGSEAL (R290): capability d := capability a sealed with object type b under the authority of capability e. -/
def execMcSgseal (n : Fin 4) (d a b e : Fin 32) (s : State) : Result :=
  s.capOp n 12 d a b e (e.val < 16) fun r c =>
    let x := r.cap e
    let t := (r.get b).toNat
    if !c.tag then .error (capExc 0x04 a)
    else if !x.tag then .error (capExc 0x04 e)
    else if c.isSealed then .error (capExc 0x05 a)
    else if x.isSealed then .error (capExc 0x05 e)
    else if !x.may permSeal then .error (capExc 0x06 e)
    else if t = 0 ∨ 0xFFFF < t ∨ t < x.base.toNat ∨ x.base.toNat + x.length.toNat ≤ t then .error (capExc 0x07 e)
    else .ok { c with otype := BitVec.ofNat 16 t }

/-- MC_SGOPEN (R290): capability d := capability a unsealed under the authority of capability e. -/
def execMcSgopen (n : Fin 4) (d a b e : Fin 32) (s : State) : Result :=
  s.capOp n 13 d a b e (b == 0 && e.val < 16) fun r c =>
    let x := r.cap e
    let t := c.otype.toNat
    if !c.tag then .error (capExc 0x04 a)
    else if !x.tag then .error (capExc 0x04 e)
    else if !c.isSealed then .error (capExc 0x05 a)
    else if x.isSealed then .error (capExc 0x05 e)
    else if !x.may permUnseal then .error (capExc 0x06 e)
    else if t < x.base.toNat ∨ x.base.toNat + x.length.toNat ≤ t then .error (capExc 0x07 e)
    else .ok { c with otype := 0 }

/-- MC_SGVOID (R287): capability d := capability a with tag 0. -/
def execMcSgvoid (n : Fin 4) (d a b e : Fin 32) (s : State) : Result :=
  s.capOp n 14 d a b e (b == 0 && e == 0) fun _ c => .ok { c with tag := false }

/-- MC_SGADDCI (R287): capability d := capability c with CURSOR + sext(off16). -/
def execMcSgaddci (n : Fin 4) (d c : Fin 32) (off : BitVec 16) (s : State) : Result :=
  s.capDerive n (wordI 0x1E d c off.toNat) d c true fun _ x =>
    if x.isSealed then .error (capExc 0x05 c) else .ok { x with cursor := x.cursor + off.signExtend 32 }

end Sys2Proof.Machine
end

