-- ==== Sys2Proof/Machine/CoreMem.lean ====
section
/-! DEFINITION. Molpa loads, stores, atomic and block operations (R253 to R257, R268 to R272, R284, R285, R291, R292, R316, R465). -/

namespace Sys2Proof.Machine

/-! Loads. -/

/-- The operation of an AMO: SWAP, ADD, AND, OR. -/
def amoWord (op : Nat) (old b : Word) : Word :=
  match op with | 1 => b | 2 => old + b | 3 => old &&& b | _ => old ||| b

/-- What a load does with the value v and the tag t it has read. -/
def State.loadUse (s : State) (k ea v : Nat) (t : Bool) : LoadUse → State
  | .value n d sg => s.onArch k fun r => r.set d (if sg then Word.ofInt (signedOf (8 * n) v) else BitVec.ofNat 32 v)
  | .pair d => s.onArch k fun r => (r.set d (BitVec.ofNat 32 v)).set (d + 1) (BitVec.ofNat 32 (v / 2 ^ 32))
  | .cap d => s.onArch k fun r => r.setCap d (capOf v t)
  | .amo op d b =>
    let old : Word := BitVec.ofNat 32 v
    let s := (s.storeOut k true { addr := ea, n := 4, val := (amoWord op old b).toNat }).1
    s.onArch k fun r => r.set d old

/-- ACC of a load or an AMO. -/
def LoadUse.acc : LoadUse → Nat
  | .amo .. => 3
  | _ => 1

/-- How many bytes a load reads. -/
def LoadUse.size : LoadUse → Nat
  | .value n _ _ => n
  | .pair _ => 8
  | .cap _ => 16
  | .amo .. => 4

/-- A load of n bytes at ea through capability register creg, after its checks; through the PCIe window it waits. -/
def State.loadGo (s : State) (k word creg ea : Nat) (dev : Bool) (use : LoadUse) : Done :=
  match s.coreLoad k dev ea use.size with
  | .val s v t => .next (s.loadUse k ea v t use)
  | .err s r => .exc s (accessExc r use.acc creg ea)
  | .stall => .stall
  | .sent s => .stop (s.onCore k fun c => { c with run := .load, out := some ⟨ea, creg, use, s.now, word⟩ })

/-- An effective address (R253). -/
def Arch.eaOf (r : Arch) (creg : Nat) (off : Word) : Nat := ((r.cap creg).cursor + off).toNat

/-- A load instruction: R253, then the load. -/
def State.coreLoadOp (s : State) (n : Fin 4) (word : Nat) (legal : Bool) (creg : Nat) (off : Arch → Word) (size : Nat)
    (isCap : Bool) (use : LoadUse) : Result :=
  s.runCore n word false false legal fun s k =>
    let r := s.arch k
    let c := r.cap creg
    let ea := r.eaOf creg (off r)
    match capCheck c creg 1 ea size (if isCap then [permLoad, permLdcap] else [permLoad]) isCap with
    | some x => .exc s x
    | none => s.loadGo k word creg ea (c.may permDevice) use

/-- A load in format M. -/
def State.loadM (s : State) (n : Fin 4) (op : Nat) (d c : Fin 32) (off : BitVec 16) (legal : Bool) (size : Nat) (use : LoadUse) : Result :=
  s.coreLoadOp n (wordI op d c off.toNat) (legal && c.val < 16) c (fun _ => off.signExtend 32) size false use

/-- The offset of LX and SX: b << sc. -/
def Arch.scaled (r : Arch) (b e : Nat) : Word := r.get b <<< (e % 4)

/-- A load with register offset. -/
def State.loadX (s : State) (n : Fin 4) (fn : Nat) (d a b e : Fin 32) (legal : Bool) (size : Nat) (use : LoadUse) : Result :=
  s.coreLoadOp n (wordA 0x1A fn d a b e) (legal && a.val < 16 && e.val < 4) a (fun r => r.scaled b e) size false use

/-! Stores. -/

/-- A store of entries made from the address, through creg, after R253: R242, a decode error, and then the store buffer. -/
def State.storeGo (s : State) (k creg ea size : Nat) (ents : List StoreEnt) : Done :=
  match (s.arch k).spillGuard creg ea with
  | some x => .exc s x
  | none =>
    if s.badAccess ea size then .exc s ⟨0x0A, 2, creg, some ea⟩
    else match s.pushStores k ents with
      | some s => .next s
      | none => .stall

/-- A store instruction. -/
def State.coreStoreOp (s : State) (n : Fin 4) (word : Nat) (legal : Bool) (creg d : Nat) (off : Arch → Word) (size : Nat) : Result :=
  s.runCore n word false false legal fun s k =>
    let r := s.arch k
    let c := r.cap creg
    let ea := r.eaOf creg (off r)
    match capCheck c creg 2 ea size [permStore] false with
    | some x => .exc s x
    | none =>
      let hold := c.may permHold
      let v := (r.get d).toNat
      s.storeGo k creg ea size
        (if size = 8 then storePair ea (v + 2 ^ 32 * (r.get (d + 1)).toNat) hold else storeEnts ea size (v % 256 ^ size) hold)

/-- A store in format M, and with register offset. -/
def State.storeM (s : State) (n : Fin 4) (op : Nat) (d c : Fin 32) (off : BitVec 16) (legal : Bool) (size : Nat) : Result :=
  s.coreStoreOp n (wordI op d c off.toNat) (legal && c.val < 16) c d (fun _ => off.signExtend 32) size
def State.storeX (s : State) (n : Fin 4) (fn : Nat) (d a b e : Fin 32) (legal : Bool) (size : Nat) : Result :=
  s.coreStoreOp n (wordA 0x1B fn d a b e) (legal && a.val < 16 && e.val < 4) a d (fun r => r.scaled b e) size

/-- SC: a tagged capability keeps its tag with GLOBAL or through c2 (R291). -/
def State.storeCapM (s : State) (n : Fin 4) (d c : Fin 32) (off : BitVec 16) : Result :=
  s.runCore n (wordI 0x1D d c off.toNat) false false (d.val < 16 && c.val < 16) fun s k =>
    let r := s.arch k
    let cap := r.cap c
    let v := r.cap d
    let ea := r.eaOf c (off.signExtend 32)
    match capCheck cap c 2 ea 16 (if v.tag then [permStore, permStcap] else [permStore]) true with
    | some x => .exc s x
    | none => s.storeGo k c ea 16 (storeCap ea v (v.tag && (v.may permGlobal || c.val == 2)) (cap.may permHold))

/-! Atomic operations. -/

/-- An AMO: one read and one write, never held, with the store buffer empty (R270, R330). -/
def State.amoOp (s : State) (n : Fin 4) (fn : Nat) (d a b e : Fin 32) : Result :=
  s.runCore n (wordA 0x1F fn d a b e) false false (a.val < 16 && e == 0) fun s k =>
    let r := s.arch k
    let c := r.cap a
    let ea := c.cursor.toNat
    match capCheck c a 3 ea 4 [permLoad, permStore] true, r.spillGuard a ea with
    | some x, _ => .exc s x
    | none, some x => .exc s x
    | none, none =>
      if s.badAccess ea 4 then .exc s ⟨0x0A, 3, a, some ea⟩ else s.loadGo k (wordA 0x1F fn d a b e) a ea true (.amo fn d (r.get b))

/-! Block operations (R316). -/

/-- Parts of n bytes at a, each in one aligned 8-byte word: address, length, offset. -/
def blockParts (a n : Nat) : List (Nat × Nat × Nat) :=
  (List.range ((a % 8 + n + 7) / 8)).map fun i =>
    let lo := max a (a / 8 * 8 + 8 * i)
    let hi := min (a + n) (a / 8 * 8 + 8 * i + 8)
    (lo, hi - lo, lo - a)

/-- The bytes of a block as read: none where the read waits, an exception, or the value. -/
def State.blockRead (s : State) (k creg : Nat) (dev : Bool) (ext : Nat) : List (Nat × Nat × Nat) → Option (State × Except Exc Nat)
  | [] => some (s, .ok 0)
  | (a, n, o) :: rest =>
    let cont := fun (s : State) (v : Nat) =>
      match s.blockRead k creg dev ext rest with
      | some (s, .ok w) => some (s, .ok (v % 256 ^ n * 256 ^ o + w))
      | r => r
    match s.coreLoad k dev a n with
    | .val s v _ => cont s v
    | .sent s => cont s (ext / 256 ^ o)
    | .err s r => some (s, .error (accessExc r 1 creg a))
    | .stall => none

/-- One block of len bytes: read, written and committed. `src` is BCOPY's ca; without it every byte is `fill`. -/
def State.blockOne (s : State) (k d : Nat) (src : Option Nat) (b fill ext len : Nat) : Done :=
  let r := s.arch k
  let cd := r.cap d
  let dst := cd.cursor.toNat
  let got := match src with
    | some a => s.blockRead k a ((r.cap a).may permDevice) ext (blockParts (r.cap a).cursor.toNat len)
    | none => some (s, .ok ((List.range len).foldl (fun v i => v + fill * 256 ^ i) 0))
  match got with
  | none => .stall
  | some (s, .error x) => .exc s x
  | some (s, .ok v) =>
    let parts := blockParts dst len
    match parts.find? fun (a, n, _) => s.badAccess a n with
    | some (a, _, _) => .exc s ⟨0x0A, 2, d, some a⟩
    | none =>
      let ents := parts.map fun (a, n, o) => ({ addr := a, n := n, val := v / 256 ^ o % 256 ^ n, hold := cd.may permHold } : StoreEnt)
      match s.pushStores k ents with
      | none => .stall
      | some s =>
        .next (s.onArch k fun r =>
          let step (r : Arch) (i : Nat) (c : Cap) : Arch := r.setCap i { c with cursor := c.cursor + BitVec.ofNat 32 len }
          let r' := step r d cd
          let r' := match src with | some a => step r' a (r.cap a) | none => r'
          r'.set b (r.get b - BitVec.ofNat 32 len))

/-- The blocks of `left` bytes, at most m of them; the routine is abandoned where bytes are left. -/
def State.blockRun (s : State) (k d : Nat) (src : Option Nat) (b fill ext left : Nat) : Nat → Done
  | 0 => if left = 0 then .next s else .stop s
  | m + 1 =>
    if left = 0 then .next s
    else
      let len := min 64 left
      match s.blockOne k d src b fill ext len with
      | .next s => s.blockRun k d src b fill (ext / 256 ^ len) (left - len) m
      | .stall => .stop s
      | x => x

/-! Instructions. -/

/-! Format M. -/

/-- MC_LB (R253): d := a signed byte at c's cursor + sext(off16). -/
def execMcLb (n : Fin 4) (d c : Fin 32) (off : BitVec 16) (s : State) : Result :=
  s.loadM n 0x10 d c off true 1 (.value 1 d true)

/-- MC_LBU (R253): d := an unsigned byte at c's cursor + sext(off16). -/
def execMcLbu (n : Fin 4) (d c : Fin 32) (off : BitVec 16) (s : State) : Result :=
  s.loadM n 0x11 d c off true 1 (.value 1 d false)

/-- MC_LH (R253): d := a signed halfword at c's cursor + sext(off16). -/
def execMcLh (n : Fin 4) (d c : Fin 32) (off : BitVec 16) (s : State) : Result :=
  s.loadM n 0x12 d c off true 2 (.value 2 d true)

/-- MC_LHU (R253): d := an unsigned halfword at c's cursor + sext(off16). -/
def execMcLhu (n : Fin 4) (d c : Fin 32) (off : BitVec 16) (s : State) : Result :=
  s.loadM n 0x13 d c off true 2 (.value 2 d false)

/-- MC_LW (R253): d := a word at c's cursor + sext(off16). -/
def execMcLw (n : Fin 4) (d c : Fin 32) (off : BitVec 16) (s : State) : Result :=
  s.loadM n 0x14 d c off true 4 (.value 4 d false)

/-- MC_LD (R253): d := the word at c's cursor + sext(off16), d + 1 := the word after it; d even. -/
def execMcLd (n : Fin 4) (d c : Fin 32) (off : BitVec 16) (s : State) : Result :=
  s.loadM n 0x15 d c off (d.val % 2 == 0) 8 (.pair d)

/-- MC_SB (R253): the low byte of d stored at c's cursor + sext(off16). -/
def execMcSb (n : Fin 4) (d c : Fin 32) (off : BitVec 16) (s : State) : Result :=
  s.storeM n 0x16 d c off true 1

/-- MC_SH (R253): the low halfword of d stored at c's cursor + sext(off16). -/
def execMcSh (n : Fin 4) (d c : Fin 32) (off : BitVec 16) (s : State) : Result :=
  s.storeM n 0x17 d c off true 2

/-- MC_SW (R253): d stored at c's cursor + sext(off16). -/
def execMcSw (n : Fin 4) (d c : Fin 32) (off : BitVec 16) (s : State) : Result :=
  s.storeM n 0x18 d c off true 4

/-- MC_SD (R253): d and d + 1 stored at c's cursor + sext(off16); d even. -/
def execMcSd (n : Fin 4) (d c : Fin 32) (off : BitVec 16) (s : State) : Result :=
  s.storeM n 0x19 d c off (d.val % 2 == 0) 8

/-- MC_LC (R253, R284, R285, R289): capability d := 16 bytes and tag at c's cursor + sext(off16). -/
def execMcLc (n : Fin 4) (d c : Fin 32) (off : BitVec 16) (s : State) : Result :=
  s.coreLoadOp n (wordI 0x1C d c off.toNat) (d.val != 0 && d.val < 16 && c.val < 16) c (fun _ => off.signExtend 32) 16 true (.cap d)

/-- MC_SC (R253, R284, R285, R291): capability d stored at c's cursor + sext(off16), with its tag where R291 lets it. -/
def execMcSc (n : Fin 4) (d c : Fin 32) (off : BitVec 16) (s : State) : Result :=
  s.storeCapM n d c off

/-! Register offset (opcodes 0x1A and 0x1B). -/

/-- MC_LX_LB (R253): d := a signed byte at a's cursor + (b << e[1:0]). -/
def execMcLxLb (n : Fin 4) (d a b e : Fin 32) (s : State) : Result :=
  s.loadX n 1 d a b e true 1 (.value 1 d true)

/-- MC_LX_LBU (R253): d := an unsigned byte at a's cursor + (b << e[1:0]). -/
def execMcLxLbu (n : Fin 4) (d a b e : Fin 32) (s : State) : Result :=
  s.loadX n 2 d a b e true 1 (.value 1 d false)

/-- MC_LX_LH (R253): d := a signed halfword at a's cursor + (b << e[1:0]). -/
def execMcLxLh (n : Fin 4) (d a b e : Fin 32) (s : State) : Result :=
  s.loadX n 3 d a b e true 2 (.value 2 d true)

/-- MC_LX_LHU (R253): d := an unsigned halfword at a's cursor + (b << e[1:0]). -/
def execMcLxLhu (n : Fin 4) (d a b e : Fin 32) (s : State) : Result :=
  s.loadX n 4 d a b e true 2 (.value 2 d false)

/-- MC_LX_LW (R253): d := a word at a's cursor + (b << e[1:0]). -/
def execMcLxLw (n : Fin 4) (d a b e : Fin 32) (s : State) : Result :=
  s.loadX n 5 d a b e true 4 (.value 4 d false)

/-- MC_LX_LD (R253): d := the word at a's cursor + (b << e[1:0]), d + 1 := the word after it; d even. -/
def execMcLxLd (n : Fin 4) (d a b e : Fin 32) (s : State) : Result :=
  s.loadX n 6 d a b e (d.val % 2 == 0) 8 (.pair d)

/-- MC_SX_SB (R253): the low byte of d stored at a's cursor + (b << e[1:0]). -/
def execMcSxSb (n : Fin 4) (d a b e : Fin 32) (s : State) : Result :=
  s.storeX n 1 d a b e true 1

/-- MC_SX_SH (R253): the low halfword of d stored at a's cursor + (b << e[1:0]). -/
def execMcSxSh (n : Fin 4) (d a b e : Fin 32) (s : State) : Result :=
  s.storeX n 2 d a b e true 2

/-- MC_SX_SW (R253): d stored at a's cursor + (b << e[1:0]). -/
def execMcSxSw (n : Fin 4) (d a b e : Fin 32) (s : State) : Result :=
  s.storeX n 3 d a b e true 4

/-- MC_SX_SD (R253): d and d + 1 stored at a's cursor + (b << e[1:0]); d even. -/
def execMcSxSd (n : Fin 4) (d a b e : Fin 32) (s : State) : Result :=
  s.storeX n 4 d a b e (d.val % 2 == 0) 8

/-! Atomic operations (opcode 0x1F). -/

/-- MC_AMO_SWAP (R253, R255, R270): d := the old word at a's cursor; the word := b. -/
def execMcAmoSwap (n : Fin 4) (d a b e : Fin 32) (s : State) : Result :=
  s.amoOp n 1 d a b e

/-- MC_AMO_ADD (R253, R255, R270): d := the old word at a's cursor; the word := old + b. -/
def execMcAmoAdd (n : Fin 4) (d a b e : Fin 32) (s : State) : Result :=
  s.amoOp n 2 d a b e

/-- MC_AMO_AND (R253, R255, R270): d := the old word at a's cursor; the word := old and b. -/
def execMcAmoAnd (n : Fin 4) (d a b e : Fin 32) (s : State) : Result :=
  s.amoOp n 3 d a b e

/-- MC_AMO_OR (R253, R255, R270): d := the old word at a's cursor; the word := old or b. -/
def execMcAmoOr (n : Fin 4) (d a b e : Fin 32) (s : State) : Result :=
  s.amoOp n 4 d a b e

/-! Block operations (opcode 0x3C). -/

/-- MC_BCOPY (R248, R316): b bytes from a's cursor to d's cursor, in blocks of 64; the routine is abandoned after m blocks where more are left; `ext` is what the outside answers to loads through the PCIe window. -/
def execMcBcopy (n : Fin 4) (d a b e : Fin 32) (m ext : Nat) (s : State) : Result :=
  s.runCore n (wordA 0x3C 1 d a b e) false false (d.val != 0 && d.val < 16 && a.val != 0 && a.val < 16 && e == 0) fun s k =>
    let r := s.arch k
    let count := (r.get b).toNat
    match capCheck (r.cap a) a 1 (r.cap a).cursor.toNat count [permLoad] false, capCheck (r.cap d) d 2 (r.cap d).cursor.toNat count [permStore] false,
      r.spillGuard d (r.cap d).cursor.toNat with
    | some x, _, _ => .exc s x
    | none, some x, _ => .exc s x
    | none, none, some x => .exc s x
    | none, none, none => s.blockRun k d (some a.val) b 0 ext count m

/-- MC_BFILL (R248, R316): b bytes at d's cursor filled with e[7:0], in blocks of 64; the routine is abandoned after m blocks where more are left. -/
def execMcBfill (n : Fin 4) (d a b e : Fin 32) (m : Nat) (s : State) : Result :=
  s.runCore n (wordA 0x3C 2 d a b e) false false (d.val != 0 && d.val < 16 && a == 0) fun s k =>
    let r := s.arch k
    let count := (r.get b).toNat
    match capCheck (r.cap d) d 2 (r.cap d).cursor.toNat count [permStore] false, r.spillGuard d (r.cap d).cursor.toNat with
    | some x, _ => .exc s x
    | none, some x => .exc s x
    | none, none => s.blockRun k d none b ((r.get e).toNat % 256) 0 count m

/-! Outbound loads (R465). -/

/-- Record k's outbound load that waits. -/
def State.outLoad (s : State) (n : Fin 4) : Option (Nat × OutLoad) :=
  match s.lead n with
  | some k => if (s.core k).run = .load then (s.core k).out.map fun o => (k, o) else none
  | none => none

/-- The core runs on after its outbound load. -/
def State.outDone (s : State) (k : Nat) : State := s.onCore k fun c => { c with run := .run, out := none }

/-- PCIE_COMPLETION (R465): the completion's data arrive, and the load retires. -/
def execPcieCompletion (n : Fin 4) (data : Nat) (s : State) : Result :=
  match s.outLoad n with
  | none => .next s
  | some (k, o) =>
    let s := s.outDone k
    let got := s.heldOver k o.ea o.use.size (.val s (data % 256 ^ o.use.size) false)
    match got with
    | .val s v t => .next ((s.settle k o.word (.next (s.loadUse k o.ea v t o.use))).getD s)
    | _ => .next s

/-- PCIE_COMPLETION_TIMEOUT (R465): 50 ms without a completion end the load with BUS_ERROR. -/
def execPcieCompletionTimeout (n : Fin 4) (s : State) : Result :=
  match s.outLoad n with
  | none => .next s
  | some (k, o) =>
    let s := (s.advanceTo (o.at' + 20000000)).outDone k
    .next ((s.fault k (accessExc .error o.use.acc o.creg o.ea)).getD s)

end Sys2Proof.Machine
end

