-- ==== Sys2Proof/Machine/CoreSys.lean ====
section
/-! DEFINITION. Molpa system instructions, system registers, and what happens to a core from outside: entries, drains, releases,
CKPT_DUE, cache invalidation, JOIN's end (R238, R244, R271, R273, R276 to R281, R294, R295, R299 to R303, R320, R328 to R333,
R340 to R342, R477). -/

namespace Sys2Proof.Machine

/-- An opcode 0x38 instruction without operands. -/
def State.sysOp (s : State) (n : Fin 4) (fn : Nat) (d a b e : Fin 32) (serial transfer : Bool) (body : State → Nat → Done) : Result :=
  s.runCore n (wordA 0x38 fn d a b e) serial transfer (d == 0 && a == 0 && b == 0 && e == 0) body

/-! Store buffer, FENCE and checkpoints. -/

/-- The store buffer drains as far as it can: held stores that find the queue full stay, with what stands behind them (R328). -/
def State.drainPart (s : State) (k : Nat) : Nat → State
  | 0 => s
  | f + 1 => match s.drainOne k with | some s => s.drainPart k f | none => s

/-- A release that is not complete keeps every younger store in the checker (R332). -/
def State.releasing (s : State) (k : Nat) : Bool := (s.core k).release != 0 || (s.core k).releaseSb != 0

/-- MC_FENCE (R271): retires when the store buffer is empty. -/
def execMcFence (n : Fin 4) (d a b e : Fin 32) (s : State) : Result :=
  s.sysOp n 1 d a b e false false fun s k => match s.drainAll k with | some s => .next s | none => .stall

/-- The commit edge (R328, R332): the checkpoint, the release of every held store, and how the core goes on (R320, R420, R432). -/
def State.ckptCommit (s : State) (k : Nat) : State :=
  let s := s.commitCkpt k
  s.onCore k fun c => { c with releaseSb := c.sb.length, run := s.afterCkpt k false }

/-- MC_CKPT (R328). -/
def execMcCkpt (n : Fin 4) (d a b e : Fin 32) (s : State) : Result :=
  s.sysOp n 2 d a b e true false fun s k =>
    if s.releasing k then .stall else .post (s.drainPart k 32) fun s => s.ckptCommit k

/-! SPLIT and JOIN (R340 to R342). -/

/-- The conditions of R342 that SPLIT and JOIN share, with the codes that come first between them; 0 where all pass. -/
def State.pairCode (s : State) (p k : Nat) (mode : Option Nat) : Nat :=
  if s.arbHeld 8 p || s.arbHeld 9 p then 0x06
  else match mode with
    | some c => c
    | none =>
      if k % 2 = 1 then 0xC3
      else if s.fld Reg.MCODE_CTRL 3 0 / 4 ^ p % 4 ≠ 0 then 0xC4
      else if s.flag (Reg.RD_STAT p) 29 then 0xC5
      else 0

/-- SYS is missing in PCAP: CAP_PERM with CREG 0 (R294, R340). -/
def sysExc (acc : Nat) (addr : Option Nat) : Exc := ⟨0x06, acc, 0, addr⟩

/-- The secondary's record as SPLIT starts it (R340). -/
def State.splitOff (s : State) (k : Nat) (ca cb : Cap) : State :=
  let p := k / 2
  let c := s.core k
  let a : Arch := releaseArch (k + 1) cb.cursor.toNat
  let a := (a.setCap 0 cb).setCap 1 ca
  let s := s.setMode p 1
  let s := s.setCore (k + 1) { arch := a, run := .run, entry := c.entry, patch := c.patch }
  State.commitCkpt { s with icfg := mapErase s.icfg (k + 1) } (k + 1)

/-- MC_SPLIT (R340): as CKPT, with the secondary started on the commit edge; capability a is its data capability, b its start
vector. -/
def execMcSplit (n : Fin 4) (d a b e : Fin 32) (s : State) : Result :=
  s.runCore n (wordA 0x38 3 d a b e) true false (a.val < 16 && b.val < 16 && e == 0) fun s k =>
    let r := s.arch k
    let cb := r.cap b
    let ca := r.cap a
    if !(r.cap 0).may permSys then .exc s (sysExc 7 none)
    else match execCheck cb b 5 cb.cursor.toNat with
      | some x => .exc s x
      | none =>
        let p := k / 2
        let code := s.pairCode p k (if s.pairMode p = 0 then none else some 0xC0)
        if code ≠ 0 then .next (s.onArch k fun r => r.set d (BitVec.ofNat 32 code))
        else if s.releasing k then .stall
        else .post ((s.drainPart k 32).onArch k fun r => r.set d 0) fun s => (s.ckptCommit k).splitOff k ca cb

/-- The secondary stops as if it had executed CKPT: its stores leave, and its state is discarded (R341). -/
def State.joinStop (s : State) (k : Nat) : State :=
  let c := s.core k
  let s := s.storesOut k false (c.hold.take c.release ++ c.sb.take c.releaseSb)
  let s := s.setCore k { c with hold := c.hold.drop c.release, sb := c.sb.drop c.releaseSb, release := 0, releaseSb := 0 }
  let s := s.drainPart k 32
  let s := s.storesOut k false ((s.core k).hold ++ (s.core k).sb)
  let s := s.setCore k {}
  { s with icfg := mapErase s.icfg k }

/-- MC_JOIN (R341): the copy begins; JOIN retires with JOIN_RESYNC. -/
def execMcJoin (n : Fin 4) (d a b e : Fin 32) (s : State) : Result :=
  s.runCore n (wordA 0x38 4 d a b e) true false (a == 0 && b == 0 && e == 0) fun s k =>
    let p := k / 2
    if !((s.arch k).cap 0).may permSys then .exc s (sysExc 7 none)
    else
      let mode := match s.pairMode p with | 0 => some 0xC1 | 2 => some 0xC2 | _ => none
      let code := s.pairCode p k mode
      if code ≠ 0 then .next (s.onArch k fun r => r.set d (BitVec.ofNat 32 code))
      else if s.releasing k then .stall
      else
        let s := ((s.drainPart k 32).joinStop (k + 1)).onCore k fun c => { c with run := .join }
        .stop (s.setPair p { s.pair p with joinAt := s.now + s.coreTime 65536, joinD := d })

/-- The primary's TCM in the secondary's: bytes, tags, and words that cannot be corrected. -/
def State.tcmCopy (s : State) (p : Nat) : State :=
  let from' := tcmBase (2 * p)
  let dst := tcmBase (2 * p + 1)
  let inside (a : Nat) : Bool := decide (from' ≤ a) && decide (a < dst)
  let s := s.wipe dst (dst + 0x40000)
  let s := (s.mem.bytes.filter fun c => inside c.1).foldl (fun s c => s.setByte (c.1 + 0x40000) c.2) s
  let bad := s.mem.flips.filter fun (f : Nat × Word) => inside (4 * f.1) && 2 ≤ popcount f.2
  let s := { s with mem := { s.mem with flips := bad.foldl (fun (m : SMap Word) (f : Nat × Word) => mapInsert m (f.1 + 0x10000) f.2) s.mem.flips } }
  let tags := nsetDel s.tags (dst / 16) (dst / 16 + 0x4000)
  { s with tags := s.tags.foldl (fun (t : NSet) (i : Nat × Nat) =>
      let lo := max i.1 (from' / 16)
      let hi := min i.2 (dst / 16)
      if lo < hi then nsetAdd t (lo + 0x4000) (hi + 0x4000) else t) tags }

/-- The copy of 65,536 CLK_CORE cycles has ended, `extra` cycles more have passed for the rest, and the pair is in LOCKSTEP. -/
def State.joinCopied (s : State) (p extra : Nat) : State :=
  let k := 2 * p
  let r := s.pair p
  let s := (s.advanceTo (r.joinAt + s.coreTime extra)).tcmCopy p
  let s := s.onCore k fun c => { c with dcache := [], icache := [], invDue := none, run := .run }
  let s := (s.setReg (Reg.MCODE_VER (k + 1)) (s.reg (Reg.MCODE_VER k))).setReg (Reg.MCODE_DIGEST (k + 1)) (s.reg (Reg.MCODE_DIGEST k))
  (s.setMode p 0).setPair p { r with joinAt := 0, joinD := 0 }

/-- JOIN_RESYNC (R341): both cores go on in LOCKSTEP with JOIN's d = 0. -/
def execJoinResync (p : Fin 2) (extra : Fin 14465) (s : State) : Result :=
  let k := 2 * p.val
  let d := (s.pair p).joinD
  if (s.core k).run ≠ .join then .next s
  else
    let s := s.joinCopied p extra
    .next ((s.settle k (wordA 0x38 4 d 0 0 0) (.post (s.onArch k fun a => a.set d 0) fun s => s.ckptCommit k)).getD s)

/-! ERET, WFI, TRAP, STOW, BKPT. -/

/-- The checks of R301 on MC_XSTK. -/
def xstkCheck (x : Cap) : Option Exc :=
  let at' := x.cursor.toNat
  let e (num : Nat) : Option Exc := some ⟨num, 1, 0x10, some at'⟩
  if !x.tag then e 0x04
  else if x.isSealed then e 0x05
  else if !x.may permLoad || !x.may permLdcap then e 0x06
  else if !x.covers at' 32 then e 0x07
  else if at' % 16 ≠ 0 then e 0x03
  else none

/-- The frame that ERET reads: saved PC and status, and the saved c0. -/
def State.frameRead (s : State) (k : Nat) (x : Cap) : Except Done (State × Nat × Cap) :=
  let at' := x.cursor.toNat
  match s.loadWords k (x.may permDevice) at' 1 with
  | .err s r => .error (.exc s (accessExc r 1 0x10 at'))
  | .stall | .sent _ => .error .stall
  | .val s v _ =>
    match s.loadCap k (x.may permDevice) (at' + 16) with
    | .err s r => .error (.exc s (accessExc r 1 0x10 (at' + 16)))
    | .stall | .sent _ => .error .stall
    | .val s w t => .ok (s, v, capOf w t)

/-- The handler that ERET chains to (R280): line, priority and its valid vector. -/
def State.chain (s : State) (k ipl : Nat) : Option (State × Nat × Nat × Cap) :=
  match s.winner k ipl with
  | none => none
  | some (l, prio) =>
    match s.vector k ((s.arch k).ivt.toNat + 16 * l) with
    | some (s, some c) => if c.vectorOk then some (s, l, prio, c) else none
    | _ => none

/-- MC_ERET (R240, R280, R301). -/
def execMcEret (n : Fin 4) (d a b e : Fin 32) (s : State) : Result :=
  s.sysOp n 5 d a b e true true fun s k =>
    let x := (s.arch k).xstk
    if !((s.arch k).cap 0).may permSys then .exc s (sysExc 6 none)
    else match xstkCheck x with
      | some f => .exc s f
      | none =>
        match s.frameRead k x with
        | .error r => r
        | .ok (s, v, c) =>
          let pc := v % 2 ^ 32
          match execCheck c 0x10 5 pc with
          | some f => .exc s f
          | none =>
            let st : Word := BitVec.ofNat 32 (v / 2 ^ 32) &&& 0x30F
            match s.chain k (fieldOf st 3 0) with
            | some (s, l, prio, vec) =>
              let s := s.onArch k fun r => { r.setCap 0 vec with pc := vec.cursor.toNat, status := withField r.status 3 0 prio }
              .stop ((s.clearPend k l).coreTrace k (2 ^ 11 * l + 1))
            | none =>
              match s.slideBack k with
              | .stall => .stall
              | .exc s f => .exc s f
              | .ok s =>
                let c0 := { c with cursor := BitVec.ofNat 32 pc }
                .goto (s.onArch k fun r =>
                  { r.setCap 0 c0 with status := st, xstk := { x with cursor := x.cursor + 32 } }) pc

/-- MC_WFI (R281): retires at once where a line is eligible, else waits for INTERRUPT_ENTRY. -/
def execMcWfi (n : Fin 4) (d a b e : Fin 32) (s : State) : Result :=
  s.sysOp n 6 d a b e false false fun s k =>
    if (s.winner k (s.arch k).ipl).isSome then .next s else .stop (s.onCore k fun c => { c with run := .wait })

/-- MC_TRAP (R302). -/
def execMcTrap (n : Fin 4) (d a b e : Fin 32) (s : State) : Result :=
  s.sysOp n 7 d a b e true false fun s k => .after s { num := 0x0E, addr := some (s.arch k).pc }

/-- Spill the oldest frames until the current one is left (R244). -/
def State.stow (s : State) (k : Nat) : Nat → Slide
  | 0 => .ok s
  | f + 1 =>
    let a := s.arch k
    if a.depth ≤ 1 then .ok s
    else match s.spill k ((a.slot + 9 - a.depth) % 8) with
      | .ok s => (s.onArch k fun a => { a with depth := a.depth - 1 }).stow k f
      | x => x

/-- MC_STOW (R244). -/
def execMcStow (n : Fin 4) (d a b e : Fin 32) (s : State) : Result :=
  s.sysOp n 8 d a b e false false fun s k =>
    match s.stow k 7 with
    | .ok s => .next s
    | .exc s f => .exc s f
    | .stall => .stall

/-- MC_BKPT (R302, R477): with BKPp = 1 the pair halts after it; the secondary of a split pair is not halted by debug. -/
def execMcBkpt (n : Fin 4) (d a b e : Fin 32) (s : State) : Result :=
  s.sysOp n 9 d a b e true false fun s k =>
    let p := k / 2
    if s.flag Reg.TP_DBGCTL (8 * p + 4) && !(s.pairMode p == 1 && k % 2 == 1) then .next (s.setFlag Reg.TP_DBGSTAT p true)
    else .after s { num := 0x0F, addr := some (s.arch k).pc }

/-! System registers (R294, R295). -/

/-- MC_ICFG of line l as it reads (R277). -/
def State.icfgRead (s : State) (k l : Nat) : Word :=
  let f : LineFile := mapGet {} s.icfg k
  let w := mapGet 0 f.icfg l
  if bitOf w 8 || decide (448 ≤ l) then w else withField w 0 0 (bit (s.linePend l w))

/-- A write of MC_ICFG: PEND is cleared by 1 and set by SETPEND on an edge or a software line; a set stands (R23, R277). -/
def State.icfgWrite (s : State) (k l : Nat) (v : Word) : State :=
  let f : LineFile := mapGet {} s.icfg k
  let old := bitOf (mapGet 0 f.icfg l) 0 && !bitOf v 0
  let set := bitOf v 1 && (bitOf v 8 || decide (448 ≤ l))
  let f' : LineFile := { f with icfg := mapSet 0 f.icfg l (withField (v &&& 0x800F0100) 0 0 (bit (old || set))) }
  { s with icfg := mapSet {} s.icfg k f' }

/-- An invalidation of the caches that v names starts (R273). -/
def State.cctlWrite (s : State) (k : Nat) (v : Word) : State :=
  if !bitOf v 0 && !bitOf v 1 then s
  else
    s.onCore k fun c =>
      { c with
        dcache := if bitOf v 1 then [] else c.dcache
        icache := if bitOf v 0 then [] else c.icache
        invDue := some (s.now + s.coreTime 256) }

/-- A system register as it reads; none for an unassigned number. -/
def State.srRead (s : State) (k sr : Nat) : Option Word :=
  let a := s.arch k
  match sr with
  | 0x010 => some a.wstate
  | 0x011 => some a.wsp
  | 0x012 => some a.win0.lstart
  | 0x013 => some a.win0.lend
  | 0x014 => some a.win0.lctl
  | 0x015 => some a.win0.link
  | 0x020 => some a.isel
  | 0x021 => some (s.icfgRead k (fieldOf a.isel 8 0))
  | 0x022 => some (BitVec.ofNat 32 a.ipl)
  | 0x023 => some (s.iact k)
  | 0x024 => some a.ivt
  | 0x028 => some (BitVec.ofNat 32 (4 * bit (s.cacheBusy k)))
  | 0x030 => some a.status
  | 0x031 => some a.xcause
  | 0x032 => some a.xaddr
  | 0x033 => some a.xvt
  | _ => none

/-- The bits of a writable system register that are not reserved; none where a write is illegal. -/
def srMask (sr : Nat) : Option Word :=
  match sr with
  | 0x011 => some 0xFFFFFFF0
  | 0x012 | 0x013 | 0x015 => some 0xFFFFFFFC
  | 0x014 => some 0x3F
  | 0x020 => some 0x1FF
  | 0x021 => some 0x800F0103
  | 0x022 => some 0xF
  | 0x024 => some 0xFFFFE000
  | 0x028 => some 0x7
  | 0x030 => some 0x30F
  | 0x033 => some 0xFFFFFE00
  | _ => none

/-- A write of a writable system register. -/
def State.srWrite (s : State) (k sr : Nat) (v : Word) : State :=
  let arch (f : Arch → Arch) : State := s.onArch k f
  let win (f : WinSlot → WinSlot) : State := s.onArch k fun a => a.setWin0 (f a.win0)
  match sr with
  | 0x011 => arch fun a => { a with wsp := v }
  | 0x012 => win fun w => { w with lstart := v }
  | 0x013 => win fun w => { w with lend := v }
  | 0x014 => win fun w => { w with lctl := v }
  | 0x015 => win fun w => { w with link := v }
  | 0x020 => arch fun a => { a with isel := v }
  | 0x021 => s.icfgWrite k (fieldOf (s.arch k).isel 8 0) v
  | 0x022 => arch fun a => { a with status := withField a.status 3 0 v.toNat }
  | 0x024 => arch fun a => { a with ivt := v }
  | 0x028 => s.cctlWrite k v
  | 0x030 => arch fun a => { a with status := v }
  | 0x033 => arch fun a => { a with xvt := v }
  | _ => s

/-- SR numbers that hold capabilities; of them 0x040 is assigned. -/
def srIsCap (sr : Nat) : Bool := decide (0x040 ≤ sr) && decide (sr ≤ 0x04F)

/-- MC_MFSR (R294): an unassigned number reads an open value, and an open untagged capability from 0x041 to 0x04F. -/
def execMcMfsr (n : Fin 4) (d a : Fin 32) (imm : BitVec 16) (s : State) : Result :=
  let sr := imm.toNat
  s.runCore n (wordI 0x39 d a imm.toNat) false false (a == 0 && decide (sr < 4096) && !(srIsCap sr && (d.val == 0 || decide (16 ≤ d.val))))
    fun s k =>
      let r := s.arch k
      let free (i : Nat) : Word := Config.openWord (s.free + i)
      if !(r.cap 0).may permSys then .exc s (sysExc 6 (some sr))
      else if sr = 0x040 then .next (s.onArch k fun r => r.setCap d r.xstk)
      else if srIsCap sr then
        let c : Cap := ⟨free 0, free 1, (free 2).truncate 16, (free 2 >>> 16).truncate 16, free 3, false⟩
        .next (({ s with free := s.free + 4 } : State).onArch k fun r => r.setCap d c)
      else match s.srRead k sr with
        | some v => .next (s.onArch k fun r => r.set d v)
        | none => .next (s.tick.onArch k fun r => r.set d (free 0))

/-- MC_MTSR (R294, R295): an unassigned or read-only number, or a reserved bit that is not 0, is illegal. -/
def execMcMtsr (n : Fin 4) (d a : Fin 32) (imm : BitVec 16) (s : State) : Result :=
  let sr := imm.toNat
  let word := wordI 0x3A d a imm.toNat
  s.runCore n word true false (d == 0 && (srMask sr).isSome || d == 0 && sr == 0x040 && a.val < 16) fun s k =>
    let r := s.arch k
    let v := r.get a
    match srMask sr with
    | none =>
      if !(r.cap 0).may permSys then .exc s (sysExc 6 (some sr)) else .next (s.onArch k fun r => { r with xstk := r.cap a })
    | some m =>
      if v &&& ~~~m ≠ 0 then .exc s { num := 0x01, addr := some word }
      else if !(r.cap 0).may permSys then .exc s (sysExc 6 (some sr))
      else .next (s.srWrite k sr v)

/-! Events of a core. -/

/-- Record that runs core n's program, if it may take an entry now: it runs, or waits in WFI, and debug lets it. -/
def State.entryLead (s : State) (n : Nat) : Option Nat :=
  match s.lead n with
  | some k =>
    let run := (s.core k).run
    if (run == .run || run == .wait) && (s.onCore k fun c => { c with run := .run }).mayRun k then some k else none
  | none => none

/-- Record k leaves WFI as an eligible line asks for: WFI retires (R281). -/
def State.wake (s : State) (k : Nat) : State :=
  if (s.core k).run = .wait then
    (s.onCore k fun c => { c with run := .run }).retire k ((s.arch k).pc + 4) (s.arch k).lastInLoop
  else s

/-- What is taken at the present boundary before an interrupt: the pending arithmetic exception, then CKPT_DUE. -/
def State.pendingEntry (s : State) (k : Nat) : Option (Option State) :=
  let pc := (s.arch k).pc
  match (s.core k).arith with
  | some r => some (s.takeArith k r pc)
  | none => if (s.core k).due then some (s.takeDue k pc) else none

/-- INTERRUPT_ENTRY (R277 to R279, R298, R300): the winning line above IPL is taken, after any exception of the boundary. -/
def execInterruptEntry (n : Fin 4) (s : State) : Result :=
  match s.entryLead n with
  | none => .next s
  | some k =>
    match s.winner k (s.arch k).ipl with
    | none => .next s
    | some (l, prio) =>
      let t := s.wake k
      let at' := (t.arch k).pc
      match t.outputMism k ((t.arch k).ivt.toNat + 16 * l), t.pendingEntry k with
      | some u, _ => .next u
      | none, some r => .next (r.getD s)
      | none, none => .next ((t.takeInt k l prio at').getD s)

/-- EXCEPTION_ENTRY (R247, R298, R299, R303, R333): the exception that waits for a boundary is taken now; else the word `ill`
at the PC, whose opcode or fn is unassigned, raises ILLEGAL_INSN. -/
def execExceptionEntry (n : Fin 4) (ill : Option (BitVec 32)) (s : State) : Result :=
  match s.entryLead n with
  | none => .next s
  | some k =>
    match s.pendingEntry k, ill with
    | some r, _ => .next (r.getD s)
    | none, some w => if molpaAssigned w.toNat then .next s else s.runCore n w.toNat false false false fun s _ => .next s
    | none, none => .next s

/-- STORE_BUFFER_DRAIN (R268, R330): the oldest entry leaves. -/
def execStoreBufferDrain (n : Fin 4) (s : State) : Result :=
  match s.lead n with
  | none => .next s
  | some k =>
    match s.unitOn k, (s.core k).sb with
    | true, e :: _ =>
      match s.outputMism k e.addr with
      | some t => .next t
      | none => .next ((s.drainOne k).getD s)
    | _, _ => .next s

/-- HOLD_QUEUE_RELEASE (R332): the queue as it stood at the commit, then the held stores kept in the store buffer. -/
def execHoldQueueRelease (n : Fin 4) (s : State) : Result :=
  match s.lead n with
  | none => .next s
  | some k =>
    let c := s.core k
    if !s.unitOn k then .next s
    else
      let out := c.hold.take c.release ++ c.sb.take c.releaseSb
      let s := s.setCore k { c with hold := c.hold.drop c.release, sb := c.sb.drop c.releaseSb, release := 0, releaseSb := 0 }
      .next (s.storesOut k false out)

/-- CKPT_DUE_RAISE (R333): once per interval, when a limit is reached; the interval limit is waited for. -/
def execCkptDueRaise (n : Fin 4) (s : State) : Result :=
  match s.lead n with
  | none => .next s
  | some k =>
    let p := k / 2
    let c := s.core k
    let on := match c.run with | .run | .wait | .load | .patch => true | _ => false
    let exempt := s.halted p && !(s.pairMode p == 1 && k % 2 == 1)
    if !s.unitOn k || !on || exempt || c.dueAt.isSome then .next s
    else
      let t := if (s.dueWhy k).isSome then s else s.advanceTo (c.timerAt + 400 * s.fld (Reg.RD_CTL p) 23 16)
      let why := (t.dueWhy k).getD 1
      let t := t.onCore k fun c => { c with dueAt := some t.now, due := true }
      let t := t.setFld (Reg.RD_STAT p) 26 25 why
      .next (t.satInc (Reg.RD_CNT p) 7 0)

/-- SET_PENDING (R277): MC_ICFG written with SETPEND = 1 for the line in MC_ISEL. -/
def execSetPending (n : Fin 4) (v : BitVec 32) (s : State) : Result :=
  match s.lead n with
  | some k => .next (if s.mayRun k then s.icfgWrite k (fieldOf (s.arch k).isel 8 0) (withField v 1 1 1) else s)
  | none => .next s

/-- A write of MC_CCTL by core n. -/
def State.cctlBy (s : State) (n : Fin 4) (v : Word) : Result :=
  match s.lead n with
  | some k => .next (if s.mayRun k then s.cctlWrite k v else s)
  | none => .next s

/-- DATA_CACHE_INVALIDATE and INSTRUCTION_CACHE_INVALIDATE (R273). -/
def execDataCacheInvalidate (n : Fin 4) (s : State) : Result := s.cctlBy n 2
def execInstructionCacheInvalidate (n : Fin 4) (s : State) : Result := s.cctlBy n 1

/-- CACHE_INVALIDATION_DONE (R273): the 256 cycles end, and BUSY clears. -/
def execCacheInvalidationDone (n : Fin 4) (s : State) : Result :=
  match s.lead n with
  | some k =>
    match (s.core k).invDue with
    | some e => .next ((s.advanceTo e).onCore k fun c => { c with invDue := none })
    | none => .next s
  | none => .next s

end Sys2Proof.Machine
end

