-- ==== Sys2Proof/Machine/Fabric.lean ====
section
/-! DEFINITION. The sorting office's deliveries (R142, R143, R145, R147) and the landing of the cells' fabric writes
(R50, R148, R152, R168). -/

namespace Sys2Proof.Machine

/-! Deliveries. -/

/-- The earliest due edge of an event in flight. -/
def State.nextDelivery (s : State) : Option Nat :=
  s.so.flights.foldl (fun m f => match m with | none => some f.due | some e => some (min e f.due)) none

/-- One delivery to a destination other than a CT line (R142). -/
def State.deliver (s : State) (ssiLow : List (Fin 16)) (d : Nat) : State :=
  if 0x040 ≤ d ∧ d < 0x0C0 then s.cellDeliver (d - 0x040)
  else if 0x0C0 ≤ d ∧ d < 0x120 then (if s.unitOn (domPwm (d - 0x0C0)) then s.pwmSync (d - 0x0C0) s.now else s)
  else if 0x120 ≤ d ∧ d < 0x180 then s.setPwm (d - 0x120) { s.pwm (d - 0x120) with tripcmd := some s.now }
  else if 0x180 ≤ d ∧ d < 0x186 then
    let n := 16 * (d - 0x180)
    if s.unitOn (domPwm n) then s.pwmSync n s.now else s
  else if 0x190 ≤ d ∧ d < 0x1A0 then s.ssiStart (d - 0x190) (!(ssiLow.any fun p => p.val == d - 0x190))
  else if 0x1A0 ≤ d ∧ d < 0x1B0 then s.tableSwap (d - 0x1A0)
  else if 0x1B0 ≤ d ∧ d < 0x1C0 then
    { s with so := { s.so with evout := mapSet 0 s.so.evout (d - 0x1B0) (s.now + 8) } }
  else if 0x1C0 ≤ d ∧ d < 0x1E0 then s.pulseLine (d - 0x1C0)
  else if 0x1E0 ≤ d then s.drqDeliver (d - 0x1E0)
  else s

/-- How many times a number stands in a list. -/
def countOf (l : List Nat) (d : Nat) : Nat := (l.filter (· == d)).length

/-- Destinations of a list without repeats, in ascending order. -/
def distinctUpTo (n : Nat) (l : List Nat) : List Nat := (List.range n).filter fun d => l.contains d

/-- All deliveries of the flights `now'` (R143, R145, R147), with their trace packets (R480). CT lines take each
trigger; others act once. -/
def State.deliverAll (s : State) (ssiLow : List (Fin 16)) (now' : List Flight) : State :=
  let s := now'.foldl (fun s f =>
    if f.held then s.setFld (Reg.SO_RT_STAT f.src) 3 0 (s.fld (Reg.SO_RT_STAT f.src) 3 0 - 1) else s) s
  let all := s.fld Reg.TP_TRACE 26 16
  let s := now'.foldl (fun s f =>
    if s.traceOn 4 && !f.dests.isEmpty && (all == 0x7FF || all == f.src) then
      s.tracePush (BitVec.ofNat 32 (2 ^ 13 * (s.now % 65536) + f.src * 4 + 2))
    else s) s
  let dests := now'.flatMap (·.dests)
  let others := distinctUpTo 512 (dests.filter fun d => decide (0x40 ≤ d))
  let s := now'.foldl (fun s f => f.dests.foldl (fun s d => if d < 0x40 then s.trigger d f.inst else s) s) s
  others.foldl (fun s d =>
    let s := if 1 < countOf dests d then (s.setFlag Reg.SO_STAT 4 true).setFld Reg.SO_STAT 31 23 d else s
    s.deliver ssiLow d) s

/-- EVENT_DELIVERY (R143): every delivery of the earliest due edge. Ownership switches of that edge come first (R24). -/
def execEventDelivery (ssiLow : List (Fin 16)) (s : State) : Result :=
  match s.nextDelivery with
  | none => .next s
  | some e =>
    if !(s.unitOn domSo && s.flag Reg.SO_CTRL 0) then .next s
    else
      let s := s.advanceTo e
      let due := s.so.flights.filter fun f => f.due == e
      let s := { s with so := { s.so with flights := s.so.flights.filter fun f => f.due != e } }
      .next (s.deliverAll ssiLow due)

/-! Fabric writes. -/

/-- The earliest landing edge of a port write. -/
def State.nextLanding (s : State) : Option Nat :=
  s.cells.foldl (fun m p => p.2.writes.foldl (fun m w => match m with | none => some w.due | some e => some (min e w.due)) m) none

/-- The ownership entry of an owned register's port, if it is one (R149). -/
def portEntry (p : Nat) : Option Nat :=
  if 0x600 ≤ p ∧ p < 0xC00 then some ((p - 0x600) / 16)
  else if 0x400 ≤ p ∧ p < 0x500 ∧ p % 16 = 8 then some (96 + (p - 0x400) / 16)
  else none

/-- A port write that passed its filter is applied (R168). -/
def State.portApply (s : State) (c p : Nat) (v : Word) : State :=
  if 0x400 ≤ p ∧ p < 0x500 then
    let n := (p - 0x400) / 16
    if !s.unitOn domPi then s
    else if p % 16 = 8 then s.emuposApply n v
    else s.posWrite n (p % 16 == 1) v
  else if 0x500 ≤ p ∧ p < 0x560 then (if s.unitOn (domCmp (p - 0x500)) then s.cmpRefWrite (p - 0x500) v else s)
  else if 0x600 ≤ p ∧ p < 0xC00 then
    let n := (p - 0x600) / 16
    if !s.unitOn (domPwm n) then s
    else match p % 16 with
      | 3 => s.pwmPhaseWrite n v
      | 8 => s.pwmCommitWrite n
      | 0 => s.pwmMemberWrite n 0 v
      | 1 => s.pwmMemberWrite n 1 v
      | 2 => s.pwmMemberWrite n 2 v
      | r => s.pwmMemberWrite n (r - 1) v
  else s.raiseNow (0x5E0 + 4 * c + (p - 0xF00))

/-- The owner's value applied to port p among the writes that land together (R152). -/
def State.ownerValue (s : State) (i p : Nat) (all : List (Nat × PortWrite)) : Option Word :=
  (all.find? fun x => x.2.port == p && s.filterWrite i x.1 == .applied).map (·.2.val)

/-- One cell's port write lands (R148, R168): `all` are the writes of its edge. -/
def State.portLand (s : State) (all : List (Nat × PortWrite)) (c : Nat) (w : PortWrite) : State :=
  if !portWritable w.port then s.setFlag (Reg.LC_STAT c) 9 true
  else match portEntry w.port with
    | none => s.portApply c w.port w.val
    | some i =>
      match s.filterWrite i c with
      | .applied => s.portApply c w.port w.val
      | f => s.filterCount f w.val (s.ownerValue i w.port all)

/-- FABRIC_WRITE_LANDING (R50, R148): all port writes of the earliest landing edge, in ascending cell order. -/
def execFabricWriteLanding (s : State) : Result :=
  match s.nextLanding with
  | none => .next s
  | some e =>
    if !s.clk.run then .next s
    else
      let s := (s.advanceTo e).settleSwitch
      let all := (List.range 52).flatMap fun c => ((s.cell c).writes.filter fun w => w.due == e).map fun w => (c, w)
      let s := (List.range 52).foldl (fun s c =>
        s.setCell c { s.cell c with writes := (s.cell c).writes.filter fun w => w.due != e }) s
      .next (all.foldl (fun s x => s.portLand all x.1 x.2) s)

end Sys2Proof.Machine
end

