-- ==== Sys2Proof/Machine/Dispatch.lean ====
section
/-! DEFINITION. The meaning of every command, one arm per constructor. -/

namespace Sys2Proof.Machine

/-- The effect of a command on everything but the queue. -/
def exec (i : Instr) (s : State) : Host.Outcome State Fault Refusal :=
  match i with
  | .coldReset => Sys2Proof.Machine.execColdReset s
  | .warmReset pin x => Sys2Proof.Machine.execWarmReset pin x s
  | .pornRelease x => Sys2Proof.Machine.execPornRelease x s
  | .managementReset => Sys2Proof.Machine.execManagementReset s
  | .pllRootSwitch ticks => Sys2Proof.Machine.execPllRootSwitch ticks s
  | .lossOfLock => Sys2Proof.Machine.execLossOfLock s
  | .registerWrite a v m => Sys2Proof.Machine.execRegisterWrite a v m s
  | .sliceEnable n v => Sys2Proof.Machine.execSliceEnable n v s
  | .sliceDisable n v => Sys2Proof.Machine.execSliceDisable n v s
  | .sliceReady n => Sys2Proof.Machine.execSliceReady n s
  | .fastResultWrite n codes ovld => Sys2Proof.Machine.execFastResultWrite n codes ovld s
  | .freeRunningResult n codes ovld => Sys2Proof.Machine.execFreeRunningResult n codes ovld s
  | .groupEnable g v => Sys2Proof.Machine.execGroupEnable g v s
  | .integratingWindowEnd g sums => Sys2Proof.Machine.execIntegratingWindowEnd g sums s
  | .integratingResultWrite g => Sys2Proof.Machine.execIntegratingResultWrite g s
  | .mainsZeroCrossing g c => Sys2Proof.Machine.execMainsZeroCrossing g c s
  | .trackerNoSignal g => Sys2Proof.Machine.execTrackerNoSignal g s
  | .trackFirstWindowTimeout g => Sys2Proof.Machine.execTrackFirstWindowTimeout g s
  | .calStepStart g => Sys2Proof.Machine.execCalStepStart g s
  | .calSubstitution g fitOfs fitGain => Sys2Proof.Machine.execCalSubstitution g fitOfs fitGain s
  | .calPinRelease g => Sys2Proof.Machine.execCalPinRelease g s
  | .calReshadow g => Sys2Proof.Machine.execCalReshadow g s
  | .calHandback g ofs gain => Sys2Proof.Machine.execCalHandback g ofs gain s
  | .calSpareRelease g => Sys2Proof.Machine.execCalSpareRelease g s
  | .calRun g v => Sys2Proof.Machine.execCalRun g v s
  | .calStop g v => Sys2Proof.Machine.execCalStop g v s
  | .calPause g v => Sys2Proof.Machine.execCalPause g v s
  | .calResume g v => Sys2Proof.Machine.execCalResume g v s
  | .permanentReplacement n fitOfs fitGain => Sys2Proof.Machine.execPermanentReplacement n fitOfs fitGain s
  | .testdacRequest g v => Sys2Proof.Machine.execTestdacRequest g v s
  | .testdacRelease g v => Sys2Proof.Machine.execTestdacRelease g v s
  | .sequencerEnable n v => Sys2Proof.Machine.execSequencerEnable n v s
  | .sqEntryWrite n k v => Sys2Proof.Machine.execSqEntryWrite n k v s
  | .comparatorLatchSet n t => Sys2Proof.Machine.execComparatorLatchSet n t s
  | .comparatorRawChange n v t => Sys2Proof.Machine.execComparatorRawChange n v t s
  | .comparatorSetRecord n => Sys2Proof.Machine.execComparatorSetRecord n s
  | .latchClear n v => Sys2Proof.Machine.execLatchClear n v s
  | .blankingClose n => Sys2Proof.Machine.execBlankingClose n s
  | .refWrite n v => Sys2Proof.Machine.execRefWrite n v s
  | .comparatorLiveWrite n r v => Sys2Proof.Machine.execComparatorLiveWrite n r v s
  | .comparatorEnable n v => Sys2Proof.Machine.execComparatorEnable n v s
  | .comparatorSettled n => Sys2Proof.Machine.execComparatorSettled n s
  | .comparatorDisable n v => Sys2Proof.Machine.execComparatorDisable n v s
  | .selftestRequest n v => Sys2Proof.Machine.execSelftestRequest n v s
  | .selftestEnd n v => Sys2Proof.Machine.execSelftestEnd n v s
  | .interfaceEnable n v => Sys2Proof.Machine.execInterfaceEnable n v s
  | .levelAccept n a b z e => Sys2Proof.Machine.execLevelAccept n a b z e s
  | .wireFault n sig e => Sys2Proof.Machine.execWireFault n sig e s
  | .standstill n => Sys2Proof.Machine.execStandstill n s
  | .posWrite n rev v => Sys2Proof.Machine.execPosWrite n rev v s
  | .ssiFrameRecord n data crc => Sys2Proof.Machine.execSsiFrameRecord n data crc s
  | .ssiRelease n e => Sys2Proof.Machine.execSsiRelease n e s
  | .ssiTimeout n => Sys2Proof.Machine.execSsiTimeout n s
  | .emulatorEnable n v => Sys2Proof.Machine.execEmulatorEnable n v s
  | .emuposWrite n cell v => Sys2Proof.Machine.execEmuposWrite n cell v s
  | .emulatorEdge n => Sys2Proof.Machine.execEmulatorEdge n s
  | .soEnable v => Sys2Proof.Machine.execSoEnable v s
  | .eventDelivery ssiLow => Sys2Proof.Machine.execEventDelivery ssiLow s
  | .evoutPulseEnd k => Sys2Proof.Machine.execEvoutPulseEnd k s
  | .evinRaise k e => Sys2Proof.Machine.execEvinRaise k e s
  | .timerRaise k => Sys2Proof.Machine.execTimerRaise k s
  | .soTimerEnable k v => Sys2Proof.Machine.execSoTimerEnable k v s
  | .soRaise v => Sys2Proof.Machine.execSoRaise v s
  | .routingEntryWrite src w v => Sys2Proof.Machine.execRoutingEntryWrite src w v s
  | .ownershipEntryWrite w v => Sys2Proof.Machine.execOwnershipEntryWrite w v s
  | .soMiggo v => Sys2Proof.Machine.execSoMiggo v s
  | .ownershipSwitch => Sys2Proof.Machine.execOwnershipSwitch s
  | .fabricWriteLanding => Sys2Proof.Machine.execFabricWriteLanding s
  | .cellEnable n v => Sys2Proof.Machine.execCellEnable n v s
  | .cellDisable n v => Sys2Proof.Machine.execCellDisable n v s
  | .cellCopyDone n => Sys2Proof.Machine.execCellCopyDone n s
  | .restartHandlerStart n => Sys2Proof.Machine.execRestartHandlerStart n s
  | .handlerStart n => Sys2Proof.Machine.execHandlerStart n s
  | .handlerEnd n => Sys2Proof.Machine.execHandlerEnd n s
  | .handlerBudgetFault n => Sys2Proof.Machine.execHandlerBudgetFault n s
  | .recoveryMemoryCompareDone n => Sys2Proof.Machine.execRecoveryMemoryCompareDone n s
  | .cellWindowWrite n data w v => Sys2Proof.Machine.execCellWindowWrite n data w v s
  | .mapStoreEnable v => Sys2Proof.Machine.execMapStoreEnable v s
  | .msRequestGrant p service => Sys2Proof.Machine.execMsRequestGrant p service s
  | .msPageWriteback wait => Sys2Proof.Machine.execMsPageWriteback wait s
  | .mapStoreWindowWrite w v port => Sys2Proof.Machine.execMapStoreWindowWrite w v port s
  | .descriptorWrite k w v => Sys2Proof.Machine.execDescriptorWrite k w v s
  | .pwmEnable n v => Sys2Proof.Machine.execPwmEnable n v s
  | .pwmDisable n v => Sys2Proof.Machine.execPwmDisable n v s
  | .periodStart n flt => Sys2Proof.Machine.execPeriodStart n flt s
  | .pwmCentre n flt => Sys2Proof.Machine.execPwmCentre n flt s
  | .edgeInstance n x => Sys2Proof.Machine.execEdgeInstance n x s
  | .triggerInstance n k down => Sys2Proof.Machine.execTriggerInstance n k down s
  | .deadTimeEnd n b => Sys2Proof.Machine.execDeadTimeEnd n b s
  | .pulseEndSeen n t => Sys2Proof.Machine.execPulseEndSeen n t s
  | .cotTimeout n => Sys2Proof.Machine.execCotTimeout n s
  | .coffPulseEnd n t => Sys2Proof.Machine.execCoffPulseEnd n t s
  | .coffTimeout n => Sys2Proof.Machine.execCoffTimeout n s
  | .pwmCommit n v => Sys2Proof.Machine.execPwmCommit n v s
  | .cbcForce n k t flt => Sys2Proof.Machine.execCbcForce n k t flt s
  | .latchedTrip n k t flt => Sys2Proof.Machine.execLatchedTrip n k t flt s
  | .tripRecord n => Sys2Proof.Machine.execTripRecord n s
  | .padSenseMismatch n a b => Sys2Proof.Machine.execPadSenseMismatch n a b s
  | .tripClear n v flt => Sys2Proof.Machine.execTripClear n v flt s
  | .controlPlaneHalt v => Sys2Proof.Machine.execControlPlaneHalt v s
  | .controlPlaneHaltEnd v => Sys2Proof.Machine.execControlPlaneHaltEnd v s
  | .lcAdd c e d a b => Sys2Proof.Machine.execLcAdd c e d a b s
  | .lcSub c e d a b => Sys2Proof.Machine.execLcSub c e d a b s
  | .lcAnd c e d a b => Sys2Proof.Machine.execLcAnd c e d a b s
  | .lcOr c e d a b => Sys2Proof.Machine.execLcOr c e d a b s
  | .lcXor c e d a b => Sys2Proof.Machine.execLcXor c e d a b s
  | .lcAndn c e d a b => Sys2Proof.Machine.execLcAndn c e d a b s
  | .lcSll c e d a b => Sys2Proof.Machine.execLcSll c e d a b s
  | .lcSrl c e d a b => Sys2Proof.Machine.execLcSrl c e d a b s
  | .lcSra c e d a b => Sys2Proof.Machine.execLcSra c e d a b s
  | .lcSlt c e d a b => Sys2Proof.Machine.execLcSlt c e d a b s
  | .lcSltu c e d a b => Sys2Proof.Machine.execLcSltu c e d a b s
  | .lcMin c e d a b => Sys2Proof.Machine.execLcMin c e d a b s
  | .lcMax c e d a b => Sys2Proof.Machine.execLcMax c e d a b s
  | .lcMul c e d a b => Sys2Proof.Machine.execLcMul c e d a b s
  | .lcMulh c e d a b => Sys2Proof.Machine.execLcMulh c e d a b s
  | .lcSel c e d a b x => Sys2Proof.Machine.execLcSel c e d a b x s
  | .lcClz c e d a => Sys2Proof.Machine.execLcClz c e d a s
  | .lcAddS c e d a b => Sys2Proof.Machine.execLcAddS c e d a b s
  | .lcSubS c e d a b => Sys2Proof.Machine.execLcSubS c e d a b s
  | .lcNegS c e d a => Sys2Proof.Machine.execLcNegS c e d a s
  | .lcAbsS c e d a => Sys2Proof.Machine.execLcAbsS c e d a s
  | .lcMulq c e d a b => Sys2Proof.Machine.execLcMulq c e d a b s
  | .lcMadq c e d a b x => Sys2Proof.Machine.execLcMadq c e d a b x s
  | .lcMulq15 c e d a b => Sys2Proof.Machine.execLcMulq15 c e d a b s
  | .lcMadq15 c e d a b x => Sys2Proof.Machine.execLcMadq15 c e d a b x s
  | .lcClmp c e d a b => Sys2Proof.Machine.execLcClmp c e d a b s
  | .lcShls c e d a b => Sys2Proof.Machine.execLcShls c e d a b s
  | .lcRndq15 c e d a => Sys2Proof.Machine.execLcRndq15 c e d a s
  | .lcFadd c e d a b => Sys2Proof.Machine.execLcFadd c e d a b s
  | .lcFsub c e d a b => Sys2Proof.Machine.execLcFsub c e d a b s
  | .lcFmul c e d a b => Sys2Proof.Machine.execLcFmul c e d a b s
  | .lcFmad c e d a b x => Sys2Proof.Machine.execLcFmad c e d a b x s
  | .lcFmin c e d a b => Sys2Proof.Machine.execLcFmin c e d a b s
  | .lcFmax c e d a b => Sys2Proof.Machine.execLcFmax c e d a b s
  | .lcFabs c e d a => Sys2Proof.Machine.execLcFabs c e d a s
  | .lcFneg c e d a => Sys2Proof.Machine.execLcFneg c e d a s
  | .lcFcvtQf c e d a => Sys2Proof.Machine.execLcFcvtQf c e d a s
  | .lcFcvtFq c e d a => Sys2Proof.Machine.execLcFcvtFq c e d a s
  | .lcFcvtIf c e d a => Sys2Proof.Machine.execLcFcvtIf c e d a s
  | .lcFcvtFi c e d a => Sys2Proof.Machine.execLcFcvtFi c e d a s
  | .lcFlt c e d a b => Sys2Proof.Machine.execLcFlt c e d a b s
  | .lcMaca c e x a b => Sys2Proof.Machine.execLcMaca c e x a b s
  | .lcMsua c e x a b => Sys2Proof.Machine.execLcMsua c e x a b s
  | .lcAclr c e x => Sys2Proof.Machine.execLcAclr c e x s
  | .lcAld c e x a => Sys2Proof.Machine.execLcAld c e x a s
  | .lcArd c e x d => Sys2Proof.Machine.execLcArd c e x d s
  | .lcArd15 c e x d => Sys2Proof.Machine.execLcArd15 c e x d s
  | .lcClarke c e d a b => Sys2Proof.Machine.execLcClarke c e d a b s
  | .lcPark c e d a b => Sys2Proof.Machine.execLcPark c e d a b s
  | .lcIpark c e d a b => Sys2Proof.Machine.execLcIpark c e d a b s
  | .lcSvm c e d a => Sys2Proof.Machine.execLcSvm c e d a s
  | .lcAddi c e d a imm => Sys2Proof.Machine.execLcAddi c e d a imm s
  | .lcAndi c e d a imm => Sys2Proof.Machine.execLcAndi c e d a imm s
  | .lcOri c e d a imm => Sys2Proof.Machine.execLcOri c e d a imm s
  | .lcXori c e d a imm => Sys2Proof.Machine.execLcXori c e d a imm s
  | .lcSlli c e d a imm => Sys2Proof.Machine.execLcSlli c e d a imm s
  | .lcSrli c e d a imm => Sys2Proof.Machine.execLcSrli c e d a imm s
  | .lcSrai c e d a imm => Sys2Proof.Machine.execLcSrai c e d a imm s
  | .lcLi c e d imm => Sys2Proof.Machine.execLcLi c e d imm s
  | .lcLui c e d imm => Sys2Proof.Machine.execLcLui c e d imm s
  | .lcLd c e d a imm => Sys2Proof.Machine.execLcLd c e d a imm s
  | .lcLdD c e d a imm => Sys2Proof.Machine.execLcLdD c e d a imm s
  | .lcSt c e d a imm => Sys2Proof.Machine.execLcSt c e d a imm s
  | .lcStD c e d a imm => Sys2Proof.Machine.execLcStD c e d a imm s
  | .lcPrd c e d a x port => Sys2Proof.Machine.execLcPrd c e d a x port s
  | .lcPrdD c e d a x port => Sys2Proof.Machine.execLcPrdD c e d a x port s
  | .lcPwr c e d a x port => Sys2Proof.Machine.execLcPwr c e d a x port s
  | .lcPwrD c e d a x port => Sys2Proof.Machine.execLcPwrD c e d a x port s
  | .lcMsLd c e d a b td => Sys2Proof.Machine.execLcMsLd c e d a b td s
  | .lcMsLerp c e d a td => Sys2Proof.Machine.execLcMsLerp c e d a td s
  | .lcMsBlerp c e d a b td => Sys2Proof.Machine.execLcMsBlerp c e d a b td s
  | .lcBrEq c e a b off => Sys2Proof.Machine.execLcBrEq c e a b off s
  | .lcBrNe c e a b off => Sys2Proof.Machine.execLcBrNe c e a b off s
  | .lcBrLt c e a b off => Sys2Proof.Machine.execLcBrLt c e a b off s
  | .lcBrGe c e a b off => Sys2Proof.Machine.execLcBrGe c e a b off s
  | .lcBrLtu c e a b off => Sys2Proof.Machine.execLcBrLtu c e a b off s
  | .lcBrGeu c e a b off => Sys2Proof.Machine.execLcBrGeu c e a b off s
  | .lcDjnz c e a off => Sys2Proof.Machine.execLcDjnz c e a off s
  | .lcBrAlways c e off => Sys2Proof.Machine.execLcBrAlways c e off s
  | .lcCall c e off => Sys2Proof.Machine.execLcCall c e off s
  | .lcRet c e => Sys2Proof.Machine.execLcRet c e s
  | .mcAdd n d a b e => Sys2Proof.Machine.execMcAdd n d a b e s
  | .mcSub n d a b e => Sys2Proof.Machine.execMcSub n d a b e s
  | .mcAnd n d a b e => Sys2Proof.Machine.execMcAnd n d a b e s
  | .mcOr n d a b e => Sys2Proof.Machine.execMcOr n d a b e s
  | .mcXor n d a b e => Sys2Proof.Machine.execMcXor n d a b e s
  | .mcAndn n d a b e => Sys2Proof.Machine.execMcAndn n d a b e s
  | .mcSll n d a b e => Sys2Proof.Machine.execMcSll n d a b e s
  | .mcSrl n d a b e => Sys2Proof.Machine.execMcSrl n d a b e s
  | .mcSra n d a b e => Sys2Proof.Machine.execMcSra n d a b e s
  | .mcSlt n d a b e => Sys2Proof.Machine.execMcSlt n d a b e s
  | .mcSltu n d a b e => Sys2Proof.Machine.execMcSltu n d a b e s
  | .mcMin n d a b e => Sys2Proof.Machine.execMcMin n d a b e s
  | .mcMax n d a b e => Sys2Proof.Machine.execMcMax n d a b e s
  | .mcMinu n d a b e => Sys2Proof.Machine.execMcMinu n d a b e s
  | .mcMaxu n d a b e => Sys2Proof.Machine.execMcMaxu n d a b e s
  | .mcAddv n d a b e => Sys2Proof.Machine.execMcAddv n d a b e s
  | .mcSubv n d a b e => Sys2Proof.Machine.execMcSubv n d a b e s
  | .mcSel n d a b e => Sys2Proof.Machine.execMcSel n d a b e s
  | .mcMul n d a b e => Sys2Proof.Machine.execMcMul n d a b e s
  | .mcMulh n d a b e => Sys2Proof.Machine.execMcMulh n d a b e s
  | .mcMulhu n d a b e => Sys2Proof.Machine.execMcMulhu n d a b e s
  | .mcMulv n d a b e => Sys2Proof.Machine.execMcMulv n d a b e s
  | .mcDiv n d a b e => Sys2Proof.Machine.execMcDiv n d a b e s
  | .mcDivu n d a b e => Sys2Proof.Machine.execMcDivu n d a b e s
  | .mcRem n d a b e => Sys2Proof.Machine.execMcRem n d a b e s
  | .mcRemu n d a b e => Sys2Proof.Machine.execMcRemu n d a b e s
  | .mcAddS n d a b e => Sys2Proof.Machine.execMcAddS n d a b e s
  | .mcSubS n d a b e => Sys2Proof.Machine.execMcSubS n d a b e s
  | .mcNegS n d a b e => Sys2Proof.Machine.execMcNegS n d a b e s
  | .mcAbsS n d a b e => Sys2Proof.Machine.execMcAbsS n d a b e s
  | .mcMulq n d a b e => Sys2Proof.Machine.execMcMulq n d a b e s
  | .mcMadq n d a b e => Sys2Proof.Machine.execMcMadq n d a b e s
  | .mcMulq15 n d a b e => Sys2Proof.Machine.execMcMulq15 n d a b e s
  | .mcMadq15 n d a b e => Sys2Proof.Machine.execMcMadq15 n d a b e s
  | .mcClmp n d a b e => Sys2Proof.Machine.execMcClmp n d a b e s
  | .mcShls n d a b e => Sys2Proof.Machine.execMcShls n d a b e s
  | .mcRndq15 n d a b e => Sys2Proof.Machine.execMcRndq15 n d a b e s
  | .mcFadd n d a b e => Sys2Proof.Machine.execMcFadd n d a b e s
  | .mcFsub n d a b e => Sys2Proof.Machine.execMcFsub n d a b e s
  | .mcFmul n d a b e => Sys2Proof.Machine.execMcFmul n d a b e s
  | .mcFmad n d a b e => Sys2Proof.Machine.execMcFmad n d a b e s
  | .mcFmin n d a b e => Sys2Proof.Machine.execMcFmin n d a b e s
  | .mcFmax n d a b e => Sys2Proof.Machine.execMcFmax n d a b e s
  | .mcFabs n d a b e => Sys2Proof.Machine.execMcFabs n d a b e s
  | .mcFneg n d a b e => Sys2Proof.Machine.execMcFneg n d a b e s
  | .mcFcvtQf n d a b e => Sys2Proof.Machine.execMcFcvtQf n d a b e s
  | .mcFcvtFq n d a b e => Sys2Proof.Machine.execMcFcvtFq n d a b e s
  | .mcFcvtIf n d a b e => Sys2Proof.Machine.execMcFcvtIf n d a b e s
  | .mcFcvtFi n d a b e => Sys2Proof.Machine.execMcFcvtFi n d a b e s
  | .mcFlt n d a b e => Sys2Proof.Machine.execMcFlt n d a b e s
  | .mcFdiv n d a b e => Sys2Proof.Machine.execMcFdiv n d a b e s
  | .mcFsqrt n d a b e => Sys2Proof.Machine.execMcFsqrt n d a b e s
  | .mcFeq n d a b e => Sys2Proof.Machine.execMcFeq n d a b e s
  | .mcFle n d a b e => Sys2Proof.Machine.execMcFle n d a b e s
  | .mcClarke n d a b e => Sys2Proof.Machine.execMcClarke n d a b e s
  | .mcPark n d a b e => Sys2Proof.Machine.execMcPark n d a b e s
  | .mcIpark n d a b e => Sys2Proof.Machine.execMcIpark n d a b e s
  | .mcSvm n d a b e => Sys2Proof.Machine.execMcSvm n d a b e s
  | .mcClz n d a b e => Sys2Proof.Machine.execMcClz n d a b e s
  | .mcCtz n d a b e => Sys2Proof.Machine.execMcCtz n d a b e s
  | .mcPopc n d a b e => Sys2Proof.Machine.execMcPopc n d a b e s
  | .mcBswap n d a b e => Sys2Proof.Machine.execMcBswap n d a b e s
  | .mcAddi n d a imm => Sys2Proof.Machine.execMcAddi n d a imm s
  | .mcAndi n d a imm => Sys2Proof.Machine.execMcAndi n d a imm s
  | .mcOri n d a imm => Sys2Proof.Machine.execMcOri n d a imm s
  | .mcXori n d a imm => Sys2Proof.Machine.execMcXori n d a imm s
  | .mcSlti n d a imm => Sys2Proof.Machine.execMcSlti n d a imm s
  | .mcSltiu n d a imm => Sys2Proof.Machine.execMcSltiu n d a imm s
  | .mcLui n d a imm => Sys2Proof.Machine.execMcLui n d a imm s
  | .mcSlli n d a imm => Sys2Proof.Machine.execMcSlli n d a imm s
  | .mcSrli n d a imm => Sys2Proof.Machine.execMcSrli n d a imm s
  | .mcSrai n d a imm => Sys2Proof.Machine.execMcSrai n d a imm s
  | .mcLb n d c off => Sys2Proof.Machine.execMcLb n d c off s
  | .mcLbu n d c off => Sys2Proof.Machine.execMcLbu n d c off s
  | .mcLh n d c off => Sys2Proof.Machine.execMcLh n d c off s
  | .mcLhu n d c off => Sys2Proof.Machine.execMcLhu n d c off s
  | .mcLw n d c off => Sys2Proof.Machine.execMcLw n d c off s
  | .mcLd n d c off => Sys2Proof.Machine.execMcLd n d c off s
  | .mcSb n d c off => Sys2Proof.Machine.execMcSb n d c off s
  | .mcSh n d c off => Sys2Proof.Machine.execMcSh n d c off s
  | .mcSw n d c off => Sys2Proof.Machine.execMcSw n d c off s
  | .mcSd n d c off => Sys2Proof.Machine.execMcSd n d c off s
  | .mcLc n d c off => Sys2Proof.Machine.execMcLc n d c off s
  | .mcSc n d c off => Sys2Proof.Machine.execMcSc n d c off s
  | .mcSgaddci n d c off => Sys2Proof.Machine.execMcSgaddci n d c off s
  | .mcLxLb n d a b e => Sys2Proof.Machine.execMcLxLb n d a b e s
  | .mcLxLbu n d a b e => Sys2Proof.Machine.execMcLxLbu n d a b e s
  | .mcLxLh n d a b e => Sys2Proof.Machine.execMcLxLh n d a b e s
  | .mcLxLhu n d a b e => Sys2Proof.Machine.execMcLxLhu n d a b e s
  | .mcLxLw n d a b e => Sys2Proof.Machine.execMcLxLw n d a b e s
  | .mcLxLd n d a b e => Sys2Proof.Machine.execMcLxLd n d a b e s
  | .mcSxSb n d a b e => Sys2Proof.Machine.execMcSxSb n d a b e s
  | .mcSxSh n d a b e => Sys2Proof.Machine.execMcSxSh n d a b e s
  | .mcSxSw n d a b e => Sys2Proof.Machine.execMcSxSw n d a b e s
  | .mcSxSd n d a b e => Sys2Proof.Machine.execMcSxSd n d a b e s
  | .mcAmoSwap n d a b e => Sys2Proof.Machine.execMcAmoSwap n d a b e s
  | .mcAmoAdd n d a b e => Sys2Proof.Machine.execMcAmoAdd n d a b e s
  | .mcAmoAnd n d a b e => Sys2Proof.Machine.execMcAmoAnd n d a b e s
  | .mcAmoOr n d a b e => Sys2Proof.Machine.execMcAmoOr n d a b e s
  | .mcBeq n a b off => Sys2Proof.Machine.execMcBeq n a b off s
  | .mcBne n a b off => Sys2Proof.Machine.execMcBne n a b off s
  | .mcBlt n a b off => Sys2Proof.Machine.execMcBlt n a b off s
  | .mcBge n a b off => Sys2Proof.Machine.execMcBge n a b off s
  | .mcBltu n a b off => Sys2Proof.Machine.execMcBltu n a b off s
  | .mcBgeu n a b off => Sys2Proof.Machine.execMcBgeu n a b off s
  | .mcJ n off => Sys2Proof.Machine.execMcJ n off s
  | .mcCall n off => Sys2Proof.Machine.execMcCall n off s
  | .mcJc n d a b e => Sys2Proof.Machine.execMcJc n d a b e s
  | .mcCallc n d a b e => Sys2Proof.Machine.execMcCallc n d a b e s
  | .mcRetc n d a b e => Sys2Proof.Machine.execMcRetc n d a b e s
  | .mcRet n d a b e => Sys2Proof.Machine.execMcRet n d a b e s
  | .mcLoop n a z off => Sys2Proof.Machine.execMcLoop n a z off s
  | .mcEndloop n z => Sys2Proof.Machine.execMcEndloop n z s
  | .mcSgmov n d a b e => Sys2Proof.Machine.execMcSgmov n d a b e s
  | .mcSgbase n d a b e => Sys2Proof.Machine.execMcSgbase n d a b e s
  | .mcSglen n d a b e => Sys2Proof.Machine.execMcSglen n d a b e s
  | .mcSgperm n d a b e => Sys2Proof.Machine.execMcSgperm n d a b e s
  | .mcSgtype n d a b e => Sys2Proof.Machine.execMcSgtype n d a b e s
  | .mcSgtag n d a b e => Sys2Proof.Machine.execMcSgtag n d a b e s
  | .mcSgcur n d a b e => Sys2Proof.Machine.execMcSgcur n d a b e s
  | .mcSgsetc n d a b e => Sys2Proof.Machine.execMcSgsetc n d a b e s
  | .mcSgaddc n d a b e => Sys2Proof.Machine.execMcSgaddc n d a b e s
  | .mcSgnarrow n d a b e => Sys2Proof.Machine.execMcSgnarrow n d a b e s
  | .mcSgmask n d a b e => Sys2Proof.Machine.execMcSgmask n d a b e s
  | .mcSgseal n d a b e => Sys2Proof.Machine.execMcSgseal n d a b e s
  | .mcSgopen n d a b e => Sys2Proof.Machine.execMcSgopen n d a b e s
  | .mcSgvoid n d a b e => Sys2Proof.Machine.execMcSgvoid n d a b e s
  | .mcFence n d a b e => Sys2Proof.Machine.execMcFence n d a b e s
  | .mcCkpt n d a b e => Sys2Proof.Machine.execMcCkpt n d a b e s
  | .mcSplit n d a b e => Sys2Proof.Machine.execMcSplit n d a b e s
  | .mcJoin n d a b e => Sys2Proof.Machine.execMcJoin n d a b e s
  | .joinResync p extra => Sys2Proof.Machine.execJoinResync p extra s
  | .mcEret n d a b e => Sys2Proof.Machine.execMcEret n d a b e s
  | .mcWfi n d a b e => Sys2Proof.Machine.execMcWfi n d a b e s
  | .mcTrap n d a b e => Sys2Proof.Machine.execMcTrap n d a b e s
  | .mcStow n d a b e => Sys2Proof.Machine.execMcStow n d a b e s
  | .mcBkpt n d a b e => Sys2Proof.Machine.execMcBkpt n d a b e s
  | .mcMfsr n d a imm => Sys2Proof.Machine.execMcMfsr n d a imm s
  | .mcMtsr n d a imm => Sys2Proof.Machine.execMcMtsr n d a imm s
  | .mcBcopy n d a b e m ext => Sys2Proof.Machine.execMcBcopy n d a b e m ext s
  | .mcBfill n d a b e m => Sys2Proof.Machine.execMcBfill n d a b e m s
  | .dataCacheInvalidate n => Sys2Proof.Machine.execDataCacheInvalidate n s
  | .instructionCacheInvalidate n => Sys2Proof.Machine.execInstructionCacheInvalidate n s
  | .cacheInvalidationDone n => Sys2Proof.Machine.execCacheInvalidationDone n s
  | .setPending n v => Sys2Proof.Machine.execSetPending n v s
  | .storeBufferDrain n => Sys2Proof.Machine.execStoreBufferDrain n s
  | .interruptEntry n => Sys2Proof.Machine.execInterruptEntry n s
  | .exceptionEntry n ill => Sys2Proof.Machine.execExceptionEntry n ill s
  | .checkerMismatch p kind port a => Sys2Proof.Machine.execCheckerMismatch p kind port a s
  | .rollbackResume n => Sys2Proof.Machine.execRollbackResume n s
  | .coreBistDone p ok0 ok1 => Sys2Proof.Machine.execCoreBistDone p ok0 ok1 s
  | .holdQueueRelease n => Sys2Proof.Machine.execHoldQueueRelease n s
  | .ckptDueRaise n => Sys2Proof.Machine.execCkptDueRaise n s
  | .ckptDueTimeout n => Sys2Proof.Machine.execCkptDueTimeout n s
  | .patchArm v mgmt => Sys2Proof.Machine.execPatchArm v mgmt s
  | .patchCancel v mgmt => Sys2Proof.Machine.execPatchCancel v mgmt s
  | .patchInstall n ok => Sys2Proof.Machine.execPatchInstall n ok s
  | .pageCorrection a port => Sys2Proof.Machine.execPageCorrection a port s
  | .sramPageRemap page => Sys2Proof.Machine.execSramPageRemap page s
  | .eccStrengthWrite k v => Sys2Proof.Machine.execEccStrengthWrite k v s
  | .initClearDone => Sys2Proof.Machine.execInitClearDone s
  | .scrubStart v => Sys2Proof.Machine.execScrubStart v s
  | .clearStart v => Sys2Proof.Machine.execClearStart v s
  | .scrubStop v pages => Sys2Proof.Machine.execScrubStop v pages s
  | .scrubPassDone => Sys2Proof.Machine.execScrubPassDone s
  | .flashProgram v => Sys2Proof.Machine.execFlashProgram v s
  | .flashProgramDone bank verified => Sys2Proof.Machine.execFlashProgramDone bank verified s
  | .flashErase v => Sys2Proof.Machine.execFlashErase v s
  | .flashEraseDone bank verified => Sys2Proof.Machine.execFlashEraseDone bank verified s
  | .flashSuspend v => Sys2Proof.Machine.execFlashSuspend v s
  | .eraseSuspended bank => Sys2Proof.Machine.execEraseSuspended bank s
  | .flashResume v => Sys2Proof.Machine.execFlashResume v s
  | .flashAckrecov v => Sys2Proof.Machine.execFlashAckrecov v s
  | .fcCtrlWrite v => Sys2Proof.Machine.execFcCtrlWrite v s
  | .fcXoWrite k v => Sys2Proof.Machine.execFcXoWrite k v s
  | .sectorRemap bank sector => Sys2Proof.Machine.execSectorRemap bank sector s
  | .ledgerCommit v => Sys2Proof.Machine.execLedgerCommit v s
  | .ledgerRead v => Sys2Proof.Machine.execLedgerRead v s
  | .ledgerCommandDone => Sys2Proof.Machine.execLedgerCommandDone s
  | .ledgerDirectWrite a lg v mgmt => Sys2Proof.Machine.execLedgerDirectWrite a lg v mgmt s
  | .dmaEnable k v => Sys2Proof.Machine.execDmaEnable k v s
  | .dmaAbort k v => Sys2Proof.Machine.execDmaAbort k v s
  | .envelopeFetch k ext => Sys2Proof.Machine.execEnvelopeFetch k ext s
  | .dmaBurstReadData k ext => Sys2Proof.Machine.execDmaBurstReadData k ext s
  | .dmaReadbackResponse k => Sys2Proof.Machine.execDmaReadbackResponse k s
  | .dmaErrorResponse k => Sys2Proof.Machine.execDmaErrorResponse k s
  | .dmaTimeout k => Sys2Proof.Machine.execDmaTimeout k s
  | .attest => Sys2Proof.Machine.execAttest s
  | .idkey => Sys2Proof.Machine.execIdkey s
  | .svnAdvance => Sys2Proof.Machine.execSvnAdvance s
  | .revoke => Sys2Proof.Machine.execRevoke s
  | .phase => Sys2Proof.Machine.execPhase s
  | .liveupd => Sys2Proof.Machine.execLiveupd s
  | .liveupdPairStop p => Sys2Proof.Machine.execLiveupdPairStop p s
  | .bankswap => Sys2Proof.Machine.execBankswap s
  | .loadcell => Sys2Proof.Machine.execLoadcell s
  | .loadmap => Sys2Proof.Machine.execLoadmap s
  | .loadmcode => Sys2Proof.Machine.execLoadmcode s
  | .mgreload => Sys2Proof.Machine.execMgreload s
  | .serviceCommandDone => Sys2Proof.Machine.execServiceCommandDone s
  | .maintRequest v mgmt => Sys2Proof.Machine.execMaintRequest v mgmt s
  | .maintRelease v => Sys2Proof.Machine.execMaintRelease v s
  | .arbiterGrant => Sys2Proof.Machine.execArbiterGrant s
  | .permitExpiry => Sys2Proof.Machine.execPermitExpiry s
  | .domainPowerUp x v => Sys2Proof.Machine.execDomainPowerUp x v s
  | .domainUsable d => Sys2Proof.Machine.execDomainUsable d s
  | .domainGate x v => Sys2Proof.Machine.execDomainGate x v s
  | .opChange v => Sys2Proof.Machine.execOpChange v s
  | .voltageConfirmed => Sys2Proof.Machine.execVoltageConfirmed s
  | .pgoodTimeout => Sys2Proof.Machine.execPgoodTimeout s
  | .pgoodLoss => Sys2Proof.Machine.execPgoodLoss s
  | .crocusEntry => Sys2Proof.Machine.execCrocusEntry s
  | .snowdropEntry => Sys2Proof.Machine.execSnowdropEntry s
  | .offEntry => Sys2Proof.Machine.execOffEntry s
  | .sleepPairsStopped => Sys2Proof.Machine.execSleepPairsStopped s
  | .wakeEvent src ticks => Sys2Proof.Machine.execWakeEvent src ticks s
  | .wakeComplete => Sys2Proof.Machine.execWakeComplete s
  | .crocusSamplingWake ticks => Sys2Proof.Machine.execCrocusSamplingWake ticks s
  | .crocusDecision codes ticks => Sys2Proof.Machine.execCrocusDecision codes ticks s
  | .snowdropTimer ticks => Sys2Proof.Machine.execSnowdropTimer ticks s
  | .padRelease v => Sys2Proof.Machine.execPadRelease v s
  | .pinConfigurationWrite k v => Sys2Proof.Machine.execPinConfigurationWrite k v s
  | .gpioWrite k oe dout => Sys2Proof.Machine.execGpioWrite k oe dout s
  | .pintEnable n v level => Sys2Proof.Machine.execPintEnable n v level s
  | .pinInterruptEdge n level => Sys2Proof.Machine.execPinInterruptEdge n level s
  | .letterboxPost k d p => Sys2Proof.Machine.execLetterboxPost k d p s
  | .letterboxAck k d p => Sys2Proof.Machine.execLetterboxAck k d p s
  | .letterboxEnable k v => Sys2Proof.Machine.execLetterboxEnable k v s
  | .hostPortEnable v => Sys2Proof.Machine.execHostPortEnable v s
  | .hostWrite ha be data => Sys2Proof.Machine.execHostWrite ha be data s
  | .hostWriteApply => Sys2Proof.Machine.execHostWriteApply s
  | .hostRead ha => Sys2Proof.Machine.execHostRead ha s
  | .resync => Sys2Proof.Machine.execResync s
  | .hostWindowWrite n v mgmt => Sys2Proof.Machine.execHostWindowWrite n v mgmt s
  | .pcieInboundAccess bar1 off n write data => Sys2Proof.Machine.execPcieInboundAccess bar1 off n write data s
  | .pcieCompletion n data => Sys2Proof.Machine.execPcieCompletion n data s
  | .pcieCompletionTimeout n => Sys2Proof.Machine.execPcieCompletionTimeout n s
  | .macTimeAdjust m lo hi => Sys2Proof.Machine.execMacTimeAdjust m lo hi s
  | .macTargetTime m t => Sys2Proof.Machine.execMacTargetTime m t s
  | .frameReceive m len event bad => Sys2Proof.Machine.execFrameReceive m len event bad s
  | .frameTransmit m queue event => Sys2Proof.Machine.execFrameTransmit m queue event s
  | .canFrameReceive n f len => Sys2Proof.Machine.execCanFrameReceive n f len s
  | .perturbationWrite r v => Sys2Proof.Machine.execPerturbationWrite r v s
  | .clrall v => Sys2Proof.Machine.execClrall v s
  | .mismP0 => Sys2Proof.Machine.execMismP0 s
  | .mismP1 => Sys2Proof.Machine.execMismP1 s
  | .mismCell cell => Sys2Proof.Machine.execMismCell cell s
  | .ecc1 => Sys2Proof.Machine.execEcc1 s
  | .ecc2 => Sys2Proof.Machine.execEcc2 s
  | .eccpage => Sys2Proof.Machine.execEccpage s
  | .debugHalt p => Sys2Proof.Machine.execDebugHalt p s
  | .debugStep p => Sys2Proof.Machine.execDebugStep p s
  | .debugResume p => Sys2Proof.Machine.execDebugResume p s
  | .bypass => Sys2Proof.Machine.execBypass s
  | .samplePreload sampled preload => Sys2Proof.Machine.execSamplePreload sampled preload s
  | .extest => Sys2Proof.Machine.execExtest s
  | .idcode => Sys2Proof.Machine.execIdcode s
  | .dbgacc => Sys2Proof.Machine.execDbgacc s
  | .tapReset => Sys2Proof.Machine.execTapReset s
  | .resetnRelease x => Sys2Proof.Machine.execResetnRelease x s
  | .x32okFall ticks => Sys2Proof.Machine.execX32okFall ticks s
  | .ledgerCompactEnd => Sys2Proof.Machine.execLedgerCompactEnd s
  | .pairRestartCommand p cold => Sys2Proof.Machine.execPairRestartCommand p cold s
  | .cellRestartCommand n => Sys2Proof.Machine.execCellRestartCommand n s
  | .cellRoleSet n role => Sys2Proof.Machine.execCellRoleSet n role s
  | .timerOutputPulseEnd k => Sys2Proof.Machine.execTimerOutputPulseEnd k s
  | .targetTimePulseEnd m t => Sys2Proof.Machine.execTargetTimePulseEnd m t s
  | .pcieLinkStateChange up gen lanes d3hot perst => Sys2Proof.Machine.execPcieLinkStateChange up gen lanes d3hot perst s
  | .canFrameTransmit n error => Sys2Proof.Machine.execCanFrameTransmit n error s
  | .serialPortTransfer u => Sys2Proof.Machine.execSerialPortTransfer u s

end Sys2Proof.Machine
end

