-- ==== Sys2Proof/Machine/Step.lean ====
section
/-! DEFINITION. One step: the command at the front of the queue is taken and run; with an empty queue one CLK_LOOP cycle
passes. -/

namespace Sys2Proof.Machine

/-- What passes with no command: one CLK_LOOP cycle while the clocks run, and nothing otherwise (DESIGN CHOICE,
unsafe; log entry 3). -/
def State.idle (s : State) : State := if s.clk.run then s.advanceTo (s.now + 1) else s

/-- One step. -/
def step (s : State) : Host.Outcome State Fault Refusal :=
  match s.pending with
  | [] => .next s.idle
  | c :: rest => exec c { s with pending := rest }

/-- s with the command that a word spells put at the front of its queue; s where the word spells none. -/
def State.withFetchWord (s : State) (nbits w : Nat) : State :=
  match decodeTableWord nbits w with
  | some c => { s with pending := c :: s.pending }
  | none => s

end Sys2Proof.Machine
end

