-- ==== Sys2Proof/WellFormed.lean ====
section
/-! DEFINITION. Which commands are well formed: where the operand types let through what no outside world can supply, a check
says so. Core and cell instructions carry the raw fields of their words, since an illegal word has a meaning of its own (R165,
R247). -/

namespace Sys2Proof

/-- No number stands twice. -/
def distinct : List Nat → Bool
  | [] => true
  | x :: xs => !xs.contains x && distinct xs

/-- A command that can be sent: the two values around a crossing in order (R75), one sum and one run of codes a slice (R73,
R435), one low SSI line each (R130), a level that has changed (R113), an access inside its length (R465). -/
def Instr.wf : Instr → Bool
  | .mainsZeroCrossing _ x => match x with | .values e0 _ e1 _ => decide (e0 < e1) | .pin _ => true
  | .integratingWindowEnd _ sums => distinct (sums.map fun x => x.slice.val)
  | .eventDelivery low => distinct (low.map fun n => n.val)
  | .levelAccept _ a b z _ => a.isSome || b.isSome || z.isSome
  | .crocusDecision codes _ =>
    distinct (codes.map fun x => x.slice.val) && codes.all fun x => decide (256 ≤ x.codes.length) && x.codes.length % 32 == 0
  | .pcieInboundAccess _ _ n _ data => decide (0 < n.val) && decide (data < 256 ^ n.val)
  | .pcieCompletion _ data => decide (data < 2 ^ 128)
  | .coldReset | .warmReset .. | .pornRelease .. | .managementReset | .pllRootSwitch .. | .lossOfLock | .registerWrite ..
  | .sliceEnable .. | .sliceDisable .. | .sliceReady .. | .fastResultWrite .. | .freeRunningResult .. | .groupEnable ..
  | .integratingResultWrite .. | .trackerNoSignal .. | .trackFirstWindowTimeout .. | .calStepStart .. | .calSubstitution ..
  | .calPinRelease .. | .calReshadow .. | .calHandback .. | .calSpareRelease .. | .calRun .. | .calStop .. | .calPause ..
  | .calResume .. | .permanentReplacement .. | .testdacRequest .. | .testdacRelease .. | .sequencerEnable ..
  | .sqEntryWrite .. | .comparatorLatchSet .. | .comparatorRawChange .. | .comparatorSetRecord .. | .latchClear ..
  | .blankingClose .. | .refWrite .. | .comparatorLiveWrite .. | .comparatorEnable .. | .comparatorSettled ..
  | .comparatorDisable .. | .selftestRequest .. | .selftestEnd .. | .interfaceEnable .. | .wireFault .. | .standstill ..
  | .posWrite .. | .ssiFrameRecord .. | .ssiRelease .. | .ssiTimeout .. | .emulatorEnable .. | .emuposWrite ..
  | .emulatorEdge .. | .soEnable .. | .evoutPulseEnd .. | .evinRaise .. | .timerRaise .. | .soTimerEnable .. | .soRaise ..
  | .routingEntryWrite .. | .ownershipEntryWrite .. | .soMiggo .. | .ownershipSwitch | .fabricWriteLanding | .cellEnable ..
  | .cellDisable .. | .cellCopyDone .. | .restartHandlerStart .. | .handlerStart .. | .handlerEnd ..
  | .handlerBudgetFault .. | .recoveryMemoryCompareDone .. | .cellWindowWrite .. | .mapStoreEnable .. | .msRequestGrant ..
  | .msPageWriteback .. | .mapStoreWindowWrite .. | .descriptorWrite .. | .pwmEnable .. | .pwmDisable .. | .periodStart ..
  | .pwmCentre .. | .edgeInstance .. | .triggerInstance .. | .deadTimeEnd .. | .pulseEndSeen .. | .cotTimeout ..
  | .coffPulseEnd .. | .coffTimeout .. | .pwmCommit .. | .cbcForce .. | .latchedTrip .. | .tripRecord ..
  | .padSenseMismatch .. | .tripClear .. | .controlPlaneHalt .. | .controlPlaneHaltEnd .. | .lcAdd .. | .lcSub ..
  | .lcAnd .. | .lcOr .. | .lcXor .. | .lcAndn .. | .lcSll .. | .lcSrl .. | .lcSra .. | .lcSlt .. | .lcSltu .. | .lcMin ..
  | .lcMax .. | .lcMul .. | .lcMulh .. | .lcSel .. | .lcClz .. | .lcAddS .. | .lcSubS .. | .lcNegS .. | .lcAbsS ..
  | .lcMulq .. | .lcMadq .. | .lcMulq15 .. | .lcMadq15 .. | .lcClmp .. | .lcShls .. | .lcRndq15 .. | .lcFadd .. | .lcFsub ..
  | .lcFmul .. | .lcFmad .. | .lcFmin .. | .lcFmax .. | .lcFabs .. | .lcFneg .. | .lcFcvtQf .. | .lcFcvtFq .. | .lcFcvtIf ..
  | .lcFcvtFi .. | .lcFlt .. | .lcMaca .. | .lcMsua .. | .lcAclr .. | .lcAld .. | .lcArd .. | .lcArd15 .. | .lcClarke ..
  | .lcPark .. | .lcIpark .. | .lcSvm .. | .lcAddi .. | .lcAndi .. | .lcOri .. | .lcXori .. | .lcSlli .. | .lcSrli ..
  | .lcSrai .. | .lcLi .. | .lcLui .. | .lcLd .. | .lcLdD .. | .lcSt .. | .lcStD .. | .lcPrd .. | .lcPrdD .. | .lcPwr ..
  | .lcPwrD .. | .lcMsLd .. | .lcMsLerp .. | .lcMsBlerp .. | .lcBrEq .. | .lcBrNe .. | .lcBrLt .. | .lcBrGe .. | .lcBrLtu ..
  | .lcBrGeu .. | .lcDjnz .. | .lcBrAlways .. | .lcCall .. | .lcRet .. | .mcAdd .. | .mcSub .. | .mcAnd .. | .mcOr ..
  | .mcXor .. | .mcAndn .. | .mcSll .. | .mcSrl .. | .mcSra .. | .mcSlt .. | .mcSltu .. | .mcMin .. | .mcMax .. | .mcMinu ..
  | .mcMaxu .. | .mcAddv .. | .mcSubv .. | .mcSel .. | .mcMul .. | .mcMulh .. | .mcMulhu .. | .mcMulv .. | .mcDiv ..
  | .mcDivu .. | .mcRem .. | .mcRemu .. | .mcAddS .. | .mcSubS .. | .mcNegS .. | .mcAbsS .. | .mcMulq .. | .mcMadq ..
  | .mcMulq15 .. | .mcMadq15 .. | .mcClmp .. | .mcShls .. | .mcRndq15 .. | .mcFadd .. | .mcFsub .. | .mcFmul .. | .mcFmad ..
  | .mcFmin .. | .mcFmax .. | .mcFabs .. | .mcFneg .. | .mcFcvtQf .. | .mcFcvtFq .. | .mcFcvtIf .. | .mcFcvtFi ..
  | .mcFlt .. | .mcFdiv .. | .mcFsqrt .. | .mcFeq .. | .mcFle .. | .mcClarke .. | .mcPark .. | .mcIpark .. | .mcSvm ..
  | .mcClz .. | .mcCtz .. | .mcPopc .. | .mcBswap .. | .mcAddi .. | .mcAndi .. | .mcOri .. | .mcXori .. | .mcSlti ..
  | .mcSltiu .. | .mcLui .. | .mcSlli .. | .mcSrli .. | .mcSrai .. | .mcLb .. | .mcLbu .. | .mcLh .. | .mcLhu .. | .mcLw ..
  | .mcLd .. | .mcSb .. | .mcSh .. | .mcSw .. | .mcSd .. | .mcLc .. | .mcSc .. | .mcSgaddci .. | .mcLxLb .. | .mcLxLbu ..
  | .mcLxLh .. | .mcLxLhu .. | .mcLxLw .. | .mcLxLd .. | .mcSxSb .. | .mcSxSh .. | .mcSxSw .. | .mcSxSd .. | .mcAmoSwap ..
  | .mcAmoAdd .. | .mcAmoAnd .. | .mcAmoOr .. | .mcBeq .. | .mcBne .. | .mcBlt .. | .mcBge .. | .mcBltu .. | .mcBgeu ..
  | .mcJ .. | .mcCall .. | .mcJc .. | .mcCallc .. | .mcRetc .. | .mcRet .. | .mcLoop .. | .mcEndloop .. | .mcSgmov ..
  | .mcSgbase .. | .mcSglen .. | .mcSgperm .. | .mcSgtype .. | .mcSgtag .. | .mcSgcur .. | .mcSgsetc .. | .mcSgaddc ..
  | .mcSgnarrow .. | .mcSgmask .. | .mcSgseal .. | .mcSgopen .. | .mcSgvoid .. | .mcFence .. | .mcCkpt .. | .mcSplit ..
  | .mcJoin .. | .joinResync .. | .mcEret .. | .mcWfi .. | .mcTrap .. | .mcStow .. | .mcBkpt .. | .mcMfsr .. | .mcMtsr ..
  | .mcBcopy .. | .mcBfill .. | .dataCacheInvalidate .. | .instructionCacheInvalidate .. | .cacheInvalidationDone ..
  | .setPending .. | .storeBufferDrain .. | .interruptEntry .. | .exceptionEntry .. | .checkerMismatch ..
  | .rollbackResume .. | .coreBistDone .. | .holdQueueRelease .. | .ckptDueRaise .. | .ckptDueTimeout .. | .patchArm ..
  | .patchCancel .. | .patchInstall .. | .pageCorrection .. | .sramPageRemap .. | .eccStrengthWrite .. | .initClearDone
  | .scrubStart .. | .clearStart .. | .scrubStop .. | .scrubPassDone | .flashProgram .. | .flashProgramDone ..
  | .flashErase .. | .flashEraseDone .. | .flashSuspend .. | .eraseSuspended .. | .flashResume .. | .flashAckrecov ..
  | .fcCtrlWrite .. | .fcXoWrite .. | .sectorRemap .. | .ledgerCommit .. | .ledgerRead .. | .ledgerCommandDone
  | .ledgerDirectWrite .. | .dmaEnable .. | .dmaAbort .. | .envelopeFetch .. | .dmaBurstReadData ..
  | .dmaReadbackResponse .. | .dmaErrorResponse .. | .dmaTimeout .. | .attest | .idkey | .svnAdvance | .revoke | .phase
  | .liveupd | .liveupdPairStop .. | .bankswap | .loadcell | .loadmap | .loadmcode | .mgreload | .serviceCommandDone
  | .maintRequest .. | .maintRelease .. | .arbiterGrant | .permitExpiry | .domainPowerUp .. | .domainUsable ..
  | .domainGate .. | .opChange .. | .voltageConfirmed | .pgoodTimeout | .pgoodLoss | .crocusEntry | .snowdropEntry
  | .offEntry | .sleepPairsStopped | .wakeEvent .. | .wakeComplete | .crocusSamplingWake .. | .snowdropTimer ..
  | .padRelease .. | .pinConfigurationWrite .. | .gpioWrite .. | .pintEnable .. | .pinInterruptEdge .. | .letterboxPost ..
  | .letterboxAck .. | .letterboxEnable .. | .hostPortEnable .. | .hostWrite .. | .hostWriteApply | .hostRead .. | .resync
  | .hostWindowWrite .. | .pcieCompletionTimeout .. | .macTimeAdjust .. | .macTargetTime .. | .frameReceive ..
  | .frameTransmit .. | .canFrameReceive .. | .perturbationWrite .. | .clrall .. | .mismP0 | .mismP1 | .mismCell .. | .ecc1
  | .ecc2 | .eccpage | .debugHalt .. | .debugStep .. | .debugResume .. | .bypass | .samplePreload .. | .extest | .idcode
  | .dbgacc | .tapReset | .resetnRelease .. | .x32okFall .. | .ledgerCompactEnd | .pairRestartCommand ..
  | .cellRestartCommand .. | .cellRoleSet .. | .timerOutputPulseEnd .. | .targetTimePulseEnd .. | .pcieLinkStateChange ..
  | .canFrameTransmit .. | .serialPortTransfer .. => true

end Sys2Proof
end

