-- ==== Sys2Proof/Safety.lean ====
section
/-! DEFINITION. What the statements speak of: the canonical states, what an enabling write that passes its checks leaves, and
the bytes of memory. -/

namespace Sys2Proof

/-- The commands that store nothing in any memory, in any state. -/
def Instr.storesNothing : Instr → Bool
  | .pllRootSwitch .. | .lossOfLock .. | .sliceEnable .. | .sliceDisable .. | .sliceReady .. | .fastResultWrite ..
  | .freeRunningResult .. | .groupEnable .. | .integratingWindowEnd .. | .integratingResultWrite ..
  | .mainsZeroCrossing .. | .trackerNoSignal .. | .trackFirstWindowTimeout .. | .calStepStart .. | .calSubstitution ..
  | .calPinRelease .. | .calReshadow .. | .calHandback .. | .calSpareRelease .. | .calRun .. | .calStop ..
  | .calPause .. | .calResume .. | .testdacRequest .. | .testdacRelease .. | .sequencerEnable .. | .sqEntryWrite ..
  | .comparatorLatchSet .. | .comparatorRawChange .. | .comparatorSetRecord .. | .latchClear .. | .blankingClose ..
  | .refWrite .. | .comparatorLiveWrite .. | .comparatorEnable .. | .comparatorSettled .. | .comparatorDisable ..
  | .selftestRequest .. | .selftestEnd .. | .interfaceEnable .. | .levelAccept .. | .wireFault .. | .standstill ..
  | .posWrite .. | .ssiFrameRecord .. | .ssiRelease .. | .ssiTimeout .. | .emulatorEnable .. | .emuposWrite ..
  | .emulatorEdge .. | .eventDelivery .. | .evoutPulseEnd .. | .evinRaise .. | .timerRaise .. | .soTimerEnable ..
  | .soRaise .. | .routingEntryWrite .. | .ownershipEntryWrite .. | .soMiggo .. | .ownershipSwitch ..
  | .fabricWriteLanding .. | .cellEnable .. | .cellDisable .. | .restartHandlerStart .. | .handlerStart ..
  | .handlerBudgetFault .. | .mapStoreEnable .. | .msRequestGrant .. | .msPageWriteback .. | .descriptorWrite ..
  | .pwmEnable .. | .pwmDisable .. | .periodStart .. | .pwmCentre .. | .edgeInstance .. | .triggerInstance ..
  | .deadTimeEnd .. | .pulseEndSeen .. | .cotTimeout .. | .coffPulseEnd .. | .coffTimeout .. | .pwmCommit ..
  | .cbcForce .. | .latchedTrip .. | .tripRecord .. | .padSenseMismatch .. | .tripClear .. | .controlPlaneHalt ..
  | .controlPlaneHaltEnd .. | .dataCacheInvalidate .. | .instructionCacheInvalidate .. | .cacheInvalidationDone ..
  | .setPending .. | .rollbackResume .. | .ckptDueRaise .. | .ckptDueTimeout .. | .patchInstall .. | .pageCorrection ..
  | .eccStrengthWrite .. | .initClearDone .. | .scrubStart .. | .clearStart .. | .scrubStop .. | .scrubPassDone ..
  | .flashSuspend .. | .fcXoWrite .. | .ledgerCommit .. | .ledgerRead .. | .dmaEnable .. | .attest .. | .idkey ..
  | .serviceCommandDone .. | .maintRequest .. | .maintRelease .. | .permitExpiry .. | .domainUsable .. | .opChange ..
  | .voltageConfirmed .. | .pgoodTimeout .. | .pgoodLoss .. | .sleepPairsStopped .. | .wakeComplete ..
  | .crocusSamplingWake .. | .crocusDecision .. | .snowdropTimer .. | .padRelease .. | .pinConfigurationWrite ..
  | .gpioWrite .. | .pintEnable .. | .pinInterruptEdge .. | .hostPortEnable .. | .hostRead .. | .resync ..
  | .hostWindowWrite .. | .macTimeAdjust .. | .macTargetTime .. | .frameReceive .. | .frameTransmit ..
  | .canFrameReceive .. | .perturbationWrite .. | .clrall .. | .mismP0 .. | .mismP1 .. | .mismCell .. | .ecc1 ..
  | .ecc2 .. | .eccpage .. | .debugHalt .. | .debugStep .. | .debugResume .. | .bypass .. | .samplePreload ..
  | .extest .. | .idcode .. | .dbgacc .. | .tapReset .. | .x32okFall .. | .ledgerCompactEnd .. | .cellRestartCommand ..
  | .timerOutputPulseEnd .. | .targetTimePulseEnd .. | .pcieLinkStateChange .. | .canFrameTransmit ..
  | .serialPortTransfer .. => true
  | _ => false

/-- The core instructions that only write general register d of core n, whatever their operands, in the forms the encoding
allows. -/
def Instr.coreAlu : Instr → Option (Fin 4 × Fin 32)
  | .mcAdd n d _ _ x | .mcSub n d _ _ x | .mcAnd n d _ _ x | .mcOr n d _ _ x | .mcXor n d _ _ x | .mcAndn n d _ _ x |
    .mcSll n d _ _ x | .mcSrl n d _ _ x | .mcSra n d _ _ x | .mcSlt n d _ _ x | .mcSltu n d _ _ x | .mcMin n d _ _ x |
    .mcMax n d _ _ x | .mcMinu n d _ _ x | .mcMaxu n d _ _ x | .mcMul n d _ _ x | .mcMulh n d _ _ x | .mcMulhu n d _ _ x |
    .mcClmp n d _ _ x | .mcFadd n d _ _ x | .mcFsub n d _ _ x | .mcFmul n d _ _ x | .mcFmin n d _ _ x | .mcFmax n d _ _ x |
    .mcFlt n d _ _ x | .mcFdiv n d _ _ x | .mcFeq n d _ _ x | .mcFle n d _ _ x => if x = 0 then some (n, d) else none
  | .mcSel n d _ _ _ | .mcFmad n d _ _ _ => some (n, d)
  | .mcFabs n d _ x y | .mcFneg n d _ x y | .mcFcvtQf n d _ x y | .mcFcvtFq n d _ x y | .mcFcvtIf n d _ x y |
    .mcFcvtFi n d _ x y | .mcFsqrt n d _ x y | .mcClz n d _ x y | .mcCtz n d _ x y | .mcPopc n d _ x y | .mcBswap n d _ x y =>
    if x = 0 ∧ y = 0 then some (n, d) else none
  | .mcAddi n d _ _ | .mcAndi n d _ _ | .mcOri n d _ _ | .mcXori n d _ _ | .mcSlti n d _ _ | .mcSltiu n d _ _ => some (n, d)
  | .mcSlli n d _ x | .mcSrli n d _ x | .mcSrai n d _ x => if x.toNat < 32 then some (n, d) else none
  | .mcLui n d x _ => if x = 0 then some (n, d) else none
  | _ => none

/-- The cell instructions that only write register d of cell c, with the registers they wait for. -/
def Instr.cellAlu : Instr → Option (Fin 52 × List (Fin 32) × Fin 32)
  | .lcAdd c _ d a b | .lcSub c _ d a b | .lcAnd c _ d a b | .lcOr c _ d a b | .lcXor c _ d a b | .lcAndn c _ d a b |
    .lcSll c _ d a b | .lcSrl c _ d a b | .lcSra c _ d a b | .lcSlt c _ d a b | .lcSltu c _ d a b | .lcMin c _ d a b |
    .lcMax c _ d a b | .lcMul c _ d a b | .lcMulh c _ d a b | .lcAddS c _ d a b | .lcSubS c _ d a b | .lcMulq c _ d a b |
    .lcMulq15 c _ d a b | .lcClmp c _ d a b | .lcShls c _ d a b | .lcFadd c _ d a b | .lcFsub c _ d a b | .lcFmul c _ d a b |
    .lcFmin c _ d a b | .lcFmax c _ d a b | .lcFlt c _ d a b => some (c, [a, b, d], d)
  | .lcSel c _ d a b x | .lcMadq c _ d a b x | .lcMadq15 c _ d a b x | .lcFmad c _ d a b x => some (c, [a, b, x, d], d)
  | .lcClz c _ d a | .lcNegS c _ d a | .lcAbsS c _ d a | .lcRndq15 c _ d a | .lcFabs c _ d a | .lcFneg c _ d a |
    .lcFcvtQf c _ d a | .lcFcvtFq c _ d a | .lcFcvtIf c _ d a | .lcFcvtFi c _ d a | .lcAddi c _ d a _ | .lcAndi c _ d a _ |
    .lcOri c _ d a _ | .lcXori c _ d a _ => some (c, [a, d], d)
  | .lcArd c _ _ d | .lcArd15 c _ _ d | .lcLi c _ d _ | .lcLui c _ d _ => some (c, [d], d)
  | _ => none

end Sys2Proof

namespace Sys2Proof.Machine

/-- A canonical state: registers and memory bytes are listed once each, in rising order, and only where they differ from what
an unlisted one reads as; the trace FIFO holds at most 64 packets (R480), a letterbox ring at most 64 messages (R452), the
posted host queue at most 64 writes (R460), the arbiter's queue at most 16 requests (R417); every waiting command is well
formed. -/
structure State.Canon (s : State) : Prop where
  regs : mapWf regReset s.regs = true
  bytes : s.mem.wf = true
  trace : s.trace.fifo.length ≤ 64
  rings : ∀ p ∈ s.rings, p.2.msgs.length ≤ 64
  hq : s.hp.queue.length ≤ 64
  aq : s.arb.queue.length ≤ 16
  pending : s.pending.all Instr.wf = true

/-- What an enabling write that passes its checks leaves (R14): the fields written, EN 1, CFGCHK 0. -/
def State.enabled (s : State) (a chk en : Nat) (v : Word) : State :=
  ((s.store a chk false (withField v en en 0)).setFlag a en true).cfgOk chk

/-! Loop cells. -/

/-- Cell c, or the pair whose even cell it is, can issue its instruction on edge t with all its issue cycles inside the
handler's budget (R162, R166, R172): it runs a handler that has not ended, no map-store request is pending, and its
instruction word reads clean; a pair's store buffer holds at most 32 words (R178). `regs` are the instruction's sources and destinations. -/
structure State.LcReady (s : State) (c : Nat) (regs : List Nat) (isMs : Bool) (t cyc : Nat) : Prop where
  on : s.unitOn (domCell c) = true
  run : s.cellState c = 2 ∨ s.cellState c = 4 ∨ s.cellState c = 5
  handler : ∃ h, (s.cell c).handler = some h ∧ t < h.start + h.budget ∧ t + cyc ≤ h.start + h.budget
  going : (s.cell c).ending = none
  free : (s.cell c).ms = none
  issue : s.lcIssueAt c regs isMs = t
  pc : (s.cell c).pc ≤ 2047
  clean : ∀ k ∈ s.lcBoth c, s.flipsAt (lcProg k (s.cell c).pc) = 0
  room : (s.cell c).stores.length ≤ 32

/-- The state in which an instruction issued on edge t reads its operands: LCn_RUN shows its PC. -/
def State.lcStart (s : State) (c t : Nat) : State := (s.advanceTo t).setFld (Reg.LC_RUN c) 10 0 (s.cell c).pc

/-- The outputs `o k` of the cells that act for c raise no fault, and those of a pair agree (R165, R175, R177, R178). -/
structure State.LcFine (s : State) (c : Nat) (o : Nat → LcOut) : Prop where
  fault : ∀ k ∈ s.lcBoth c, (o k).fault = none
  target : ∀ z, (o c).target = some z → 0 ≤ z ∧ z ≤ 2047
  room : s.paired c = true → (s.cell c).stores.length + (o c).store.length ≤ 32
  agree : s.paired c = true → ∀ r, lcOutputs (o c) (o (c + 1)) = some r →
    r.2.2 = false ∧ nsetHas s.mismCell c = false ∧ (s.cell c).split = false

/-- What an instruction with outputs `o` leaves (R161, R166, R178): registers and accumulator, stores (buffered in a pair),
port writes that land on t + 3, the next PC, and the end of the handler where E = 1. -/
def State.lcDone (s : State) (c t cyc lat : Nat) (e : Bool) (o : Nat → LcOut) : State :=
  let x := o c
  let p := s.paired c
  let u := s.lcStart c t
  let u := if p && (lcOutputs x (o (c + 1))).isSome then { u with mismCell := nsetDel u.mismCell c (c + 1) } else u
  let u := u.lcApply c t lat x
  let u := if p then u.lcApply (c + 1) t lat (o (c + 1)) else u
  let u := if p then u else x.store.foldl (fun u w => u.setWord (lcData c w.1) w.2) u
  let r := u.cell c
  u.setCell c { r with
    pc := (x.target.getD ((s.cell c).pc + 1)).toNat
    stack := x.stack.getD r.stack
    split := r.split || (p && x.target != (o (c + 1)).target)
    stores := if p then r.stores ++ x.store else r.stores
    writes := r.writes ++ x.port.map fun w => PortWrite.mk (t + 3) w.1 w.2
    ms := match x.ms with | some q => some { q with issued := t } | none => r.ms
    nextIssue := t + cyc
    ending := if e then some (t + cyc) else none }

/-! Cores. -/

/-- Core n's program is run by record k, which runs its next instruction now with nothing pending before it (R298, R303, R333,
R476), whose fetch is clean (R259, R293), and which is not a loop's last instruction (R251). -/
structure State.CoreReady (s : State) (n : Fin 4) (k : Nat) : Prop where
  lead : s.lead n = some k
  runs : s.mayRun k = true
  agree : s.outputMism k (s.arch k).pc = none
  noArith : (s.core k).arith = none
  noDue : (s.core k).due = false
  fetched : s.fetch k (s.arch k).pc = .ok s
  noLoop : (s.arch k).lastInLoop = false

/-- Record k retires an instruction in sequence from state t; s is the state before the instruction. -/
def State.coreDone (s t : State) (k : Nat) : State := (t.retire k ((s.arch k).pc + 4) false).sixteenth k

/-- Record k retires an instruction that only changes its architectural state by f. -/
def State.coreSet (s : State) (k : Nat) (f : Arch → Arch) : State := (s.onArch k f).retire k ((s.arch k).pc + 4) false

/-- Record k makes a taken transfer to address a from state t. -/
def State.coreGoto (t : State) (k a : Nat) : State := (State.coreTrace (t.retire k a false) k a).sixteenth k

/-! What instructions leave alone. -/

/-- Of a cell's record, only register d, the edge from which it can be read, the PC, the next issue edge and the handler's end differ. -/
structure LoopCell.OnlyReg (r q : LoopCell) (d : Fin 32) : Prop where
  others : ∀ i, i ≠ d.val → mapGet 0 q.v i = mapGet 0 r.v i ∧ mapGet 0 q.ready i = mapGet 0 r.ready i
  rest : { q with v := r.v, ready := r.ready, pc := r.pc, nextIssue := r.nextIssue, ending := r.ending } = r

/-- From s to t only the cells that act for c change, the register that shows the PC of c, DEVTIME and the draining trace FIFO. -/
structure State.OnlyCells (s t : State) (c : Nat) : Prop where
  others : ∀ j, j ∉ s.lcBoth c → t.cell j = s.cell j
  regs : ∀ a, a ≠ Reg.LC_RUN c → t.reg a = s.reg a
  rest : { t with regs := s.regs, cells := s.cells, clk := s.clk, trace := s.trace } = s

/-- Of a core's architectural state, only general register d of the current window and the PC differ. -/
structure Arch.OnlyReg (r q : Arch) (d : Fin 32) : Prop where
  others : ∀ i : Fin 32, i ≠ d → q.get i = r.get i
  windows : ∀ j, d.val < 8 ∨ j ≠ winIndex r.slot d → mapGet 0 q.win j = mapGet 0 r.win j
  rest : { q with pc := r.pc, cm := r.cm, win := r.win } = r

/-- From s to t only core record k changes, the two status registers of its pair, and a debug step armed for the pair. -/
structure State.OnlyCore (s t : State) (k : Nat) : Prop where
  others : ∀ j, j ≠ k → t.core j = s.core j
  regs : ∀ a, a ≠ Reg.RD_STAT (k / 2) → a ≠ Reg.RD_STAT2 (k / 2) → t.reg a = s.reg a
  steps : ∀ p, p ≠ k / 2 → nsetHas t.tp.stepArm p = nsetHas s.tp.stepArm p
  rest : { t with regs := s.regs, cores := s.cores, tp := { t.tp with stepArm := s.tp.stepArm } } = s

/-- A tagged q is no wider than c: its segment lies within that of c, counted from the base of c, and its permissions are among
those of c (R288). -/
def Cap.Within (q c : Cap) : Prop :=
  q.tag = true → c.tag = true ∧ (∃ off : Word, q.base = c.base + off ∧ off.toNat + q.length.toNat ≤ c.length.toNat) ∧
    q.perms &&& c.perms = q.perms

/-- The state of a core that has run nothing since its reset: every general register reads 0, SLOT = 0, DEPTH = 1, MC_WSP = 0, and
in every slot MC_LINK is 0 and no loop is active (R245). -/
def Arch.Clear (a : Arch) : Prop :=
  (∀ i : Fin 32, a.get i = 0) ∧ a.slot = 0 ∧ a.depth = 1 ∧ a.wsp = 0 ∧
    ∀ x, (mapGet {} a.slots x : WinSlot).link = 0 ∧ bitOf (mapGet {} a.slots x : WinSlot).lctl 5 = false

/-- The ILLEGAL_INSN exception that instruction word w of record k takes, with the PC saved (R247, R297); s where its entry has to wait. -/
def State.illegal (s : State) (k w : Nat) : State :=
  (s.takeExc k { num := 0x01, addr := some w } (s.arch k).pc false false).getD s

/-! Injections. -/

/-- The address of an injection lies in a page-code memory, with its word written; `cp`: it is the map store (R476). -/
def State.injPage (s : State) (a : Nat) (cp : Bool) : Prop :=
  (regionOf a = .sram ∧ cp = false ∨ regionOf a = .mapStore ∧ cp = true) ∧ s.written a = true

/-- The address of an injection lies in a SECDED memory: a TCM, or a cell's program or data memory (`cp`; R476). -/
def injWord (a : Nat) (cp : Bool) : Prop :=
  (∃ k, regionOf a = .tcm k) ∧ cp = false ∨
    (∃ c off, regionOf a = .cell c off ∧ (off < 0x2000 ∨ 0x4000 ≤ off ∧ off < 0x6000)) ∧ cp = true

end Sys2Proof.Machine
end

