-- ==== Sys2Proof/Certificates/Slice0/Obligations.lean ====
section
/-! DEFINITION. The statements for the provers: what a step is, the canonical form, the frames, the rules of resets, capabilities,
exceptions, memory tags, time, events, letterboxes and latches; then, family by family, where each command completes and with
what. -/

open Sys2Proof Sys2Proof.Machine

/-- For every command c and state s with c at the front of its queue, step answers what exec answers for c on s with the queue's
rest. The queue is the model's own field (log entry 76). -/
def Obligations.StepRunsFrontCommand : Prop :=
  ∀ (s : State) (c : Instr) (q : List Instr), s.pending = c :: q → step s = exec c { s with pending := q }

/-- The model's choice (log entry 3): with no command waiting, a step lets one CLK_LOOP cycle pass while the clocks run, so that
DEVTIME rises by one and the trace FIFO drains, and nothing else changes; while the clocks do not run, the step leaves the
state as it is. The clause is for instants below 2^64. -/
def Obligations.EmptyQueuePassesOneCycle : Prop :=
  (∀ s : State, s.pending = [] → s.clk.run = true → s.now + 1 < 2 ^ 64 → ∃ t, step s = .next t ∧ t.now = s.now + 1 ∧ t.pending = [] ∧
    { t with clk := s.clk, trace := s.trace } = s ∧ t.clk = { s.clk with devtime := t.clk.devtime }) ∧
  (∀ s : State, s.pending = [] → s.clk.run = false → step s = .next s)

/-- State.reset meets Canon: registers and memory bytes stand in canonical form (keys strictly rising, no entry equal to what an
unlisted one reads as), the FIFOs and queues keep their bounds, and every waiting command is well formed. The form is the
model's (log entry 77); the bounds are those of R480, R452, R460 and R417. -/
def Obligations.ResetStateIsCanonical : Prop := State.reset.Canon

/-- For every state that meets Canon a step answers a next state that meets Canon too, and takes exactly the front command off the
queue. Canon says that registers and memory bytes are in canonical form (log entry 77), that every waiting command is well
formed, that the trace FIFO holds at most 64 packets, every letterbox ring at most 64 messages, the host port's queue at most
64 entries and the arbiter's queue at most 16 requests. It also says that no command stops the machine. -/
def Obligations.StepKeepsCanonicalForm : Prop :=
  ∀ s : State, s.Canon → ∃ t, step s = .next t ∧ t.Canon ∧ t.pending = s.pending.tail

/-- For every command that storesNothing names (in Sys2Proof/Safety.lean) exec answers a next state in which every byte of memory
reads as before: the register-only commands and instructions, the compares, the branches, the status and enable commands, in
every form and with every operand. -/
def Obligations.CommandsThatStoreNothingKeepMemory : Prop :=
  ∀ (i : Instr) (s : State), i.storesNothing = true → ∃ t, exec i s = .next t ∧ ∀ a, t.byte a = s.byte a

/-- The law of memory and of the register file: n bytes stored at a read back as the stored value modulo 256^n, every byte outside
them reads as before, the canonical form is kept, a register written reads as written while every other register keeps its
value, and a wipe of a range returns it to its default and leaves the rest. -/
def Obligations.StoredBytesReadBack : Prop :=
  (∀ (s : State) (a n v : Nat), (s.setBytes a n v).bytesAt a n = v % 256 ^ n) ∧
  (∀ (s : State) (a n v k : Nat), k < a ∨ a + n ≤ k → (s.setBytes a n v).byte k = s.byte k) ∧
  (∀ (s : State) (a n v : Nat), s.mem.wf = true → (s.setBytes a n v).mem.wf = true) ∧
  (∀ (s : State) (a : Nat) (v : Word), (s.setReg a v).reg a = v) ∧
  (∀ (s : State) (a b : Nat) (v : Word), b ≠ a → (s.setReg a v).reg b = s.reg b) ∧
  (∀ (s : State) (a b k : Nat), (s.wipe a b).byte k = if k < a ∨ b ≤ k then s.byte k else memDefault k)

/-- From every canonical state each command answers a next state with the same waiting commands (exec changes everything but the
queue), with at most 64 trace packets, at most 64 messages in each letterbox ring, at most 64 posted host writes and at most
16 requests at the arbiter. The bound of 16 is the model's reading of R417, that each requester has at most one request
waiting. -/
def Obligations.CommandsLeaveTheQueue : Prop :=
  ∀ (i : Instr) (s : State), s.Canon → ∃ t, exec i s = .next t ∧ t.pending = s.pending ∧ t.trace.fifo.length ≤ 64 ∧
    (∀ p ∈ t.rings, p.2.msgs.length ≤ 64) ∧ t.hp.queue.length ≤ 64 ∧ t.arb.queue.length ≤ 16

/-- R237's clause on cm0: in every core record register 0 reads 0 and a write to it leaves the record as it is; every other
register reads back what is written to it, and the write leaves the other 31 of the window as they are. -/
def Obligations.GeneralRegisterZeroReadsZero : Prop :=
  (∀ r : Arch, r.get 0 = 0) ∧ (∀ (r : Arch) (v : Word), r.set 0 v = r) ∧
  (∀ (r : Arch) (d : Fin 32) (v : Word), d ≠ 0 → (r.set d v).get d = v) ∧
  (∀ (r : Arch) (d : Fin 32) (v : Word) (i : Fin 32), i ≠ d → (r.set d v).get i = r.get i)

/-- A capability's 16 bytes hold CURSOR, OTYPE, PERMS, LENGTH and BASE at the places R282 gives; taking a capability apart and
putting it together again gives it back, in both directions, for every 128-bit value and tag. -/
def Obligations.CapabilityLayoutRoundTrips : Prop :=
  (∀ c : Cap, capOf c.bits c.tag = c) ∧ (∀ v t, v < 2 ^ 128 → (capOf v t).bits = v ∧ (capOf v t).tag = t) ∧
  (∀ c : Cap, c.bits < 2 ^ 128 ∧ c.bits % 2 ^ 32 = c.cursor.toNat ∧ c.bits / 2 ^ 96 = c.base.toNat ∧
    c.bits / 2 ^ 64 % 2 ^ 32 = c.length.toNat ∧ c.bits / 2 ^ 48 % 2 ^ 16 = c.perms.toNat ∧ c.bits / 2 ^ 32 % 2 ^ 16 = c.otype.toNat)

/-- The frame of the core's register-only instructions that Instr.coreAlu names (the integer, immediate, shift, saturating, FP32
and transform forms): on a ready core each answers a next state in which at most its destination register changed in the
architectural state, the PC moved on by 4, the core's own record changed only there, and of the rest of the state only the
pair's two status registers and a debug step armed for the pair. -/
def Obligations.CoreRegisterFrame : Prop :=
  ∀ (i : Instr) (n : Fin 4) (d : Fin 32) (s : State) (k : Nat), i.coreAlu = some (n, d) → s.CoreReady n k →
    ∃ t, exec i s = .next t ∧ s.OnlyCore t k ∧ { t.core k with arch := s.arch k } = s.core k ∧
      (s.arch k).OnlyReg (t.arch k) d ∧ (t.arch k).pc = ((s.arch k).pc + 4) % 2 ^ 32

/-- The frame of the loop cell's register-only instructions that Instr.cellAlu names: on a cell at its issue edge with its
operands ready each answers a next state in which only that cell, and its partner in a lockstep pair, changed, in each at most
the destination register beside the program counter and the scoreboard, and the program counter moved on by one. -/
def Obligations.CellRegisterFrame : Prop :=
  ∀ (i : Instr) (c : Fin 52) (regs : List (Fin 32)) (d : Fin 32) (s : State) (t : Nat), i.cellAlu = some (c, regs, d) →
    s.LcReady c (regs.map Fin.val) false t 1 →
    ∃ u, exec i s = .next u ∧ s.OnlyCells u c ∧ (∀ k ∈ s.lcBoth c, (s.cell k).OnlyReg (u.cell k) d) ∧
      (u.cell c).pc = (s.cell c).pc + 1

/-- A ready core that meets an illegal form takes the ILLEGAL_INSN exception with the instruction word: a field that must be zero
and is not, an accumulator or capability number out of range, c0 as the destination of a derivation, a destination not aligned
to its vector, a shift amount of 32 or more. The clauses name every register-format instruction that has such a field. -/
def Obligations.IllegalFormsTrap : Prop :=
  (∀ (s : State) (n : Fin 4) (k : Nat) (d a b e : Fin 32), s.CoreReady n k → e ≠ 0 →
    exec (.mcAdd n d a b e) s = .next (s.illegal k (wordA 0x00 0x01 d a b e)) ∧
    exec (.mcSub n d a b e) s = .next (s.illegal k (wordA 0x00 0x02 d a b e)) ∧
    exec (.mcAnd n d a b e) s = .next (s.illegal k (wordA 0x00 0x03 d a b e)) ∧
    exec (.mcOr n d a b e) s = .next (s.illegal k (wordA 0x00 0x04 d a b e)) ∧
    exec (.mcXor n d a b e) s = .next (s.illegal k (wordA 0x00 0x05 d a b e)) ∧
    exec (.mcAndn n d a b e) s = .next (s.illegal k (wordA 0x00 0x06 d a b e)) ∧
    exec (.mcSll n d a b e) s = .next (s.illegal k (wordA 0x00 0x07 d a b e)) ∧
    exec (.mcSrl n d a b e) s = .next (s.illegal k (wordA 0x00 0x08 d a b e)) ∧
    exec (.mcSra n d a b e) s = .next (s.illegal k (wordA 0x00 0x09 d a b e)) ∧
    exec (.mcSlt n d a b e) s = .next (s.illegal k (wordA 0x00 0x0A d a b e)) ∧
    exec (.mcSltu n d a b e) s = .next (s.illegal k (wordA 0x00 0x0B d a b e)) ∧
    exec (.mcMin n d a b e) s = .next (s.illegal k (wordA 0x00 0x0C d a b e)) ∧
    exec (.mcMax n d a b e) s = .next (s.illegal k (wordA 0x00 0x0D d a b e)) ∧
    exec (.mcMinu n d a b e) s = .next (s.illegal k (wordA 0x00 0x0E d a b e)) ∧
    exec (.mcMaxu n d a b e) s = .next (s.illegal k (wordA 0x00 0x0F d a b e)) ∧
    exec (.mcAddv n d a b e) s = .next (s.illegal k (wordA 0x00 0x10 d a b e)) ∧
    exec (.mcSubv n d a b e) s = .next (s.illegal k (wordA 0x00 0x11 d a b e)) ∧
    exec (.mcMul n d a b e) s = .next (s.illegal k (wordA 0x01 0x01 d a b e)) ∧
    exec (.mcMulh n d a b e) s = .next (s.illegal k (wordA 0x01 0x02 d a b e)) ∧
    exec (.mcMulhu n d a b e) s = .next (s.illegal k (wordA 0x01 0x03 d a b e)) ∧
    exec (.mcMulv n d a b e) s = .next (s.illegal k (wordA 0x01 0x04 d a b e)) ∧
    exec (.mcDiv n d a b e) s = .next (s.illegal k (wordA 0x01 0x05 d a b e)) ∧
    exec (.mcDivu n d a b e) s = .next (s.illegal k (wordA 0x01 0x06 d a b e)) ∧
    exec (.mcRem n d a b e) s = .next (s.illegal k (wordA 0x01 0x07 d a b e)) ∧
    exec (.mcRemu n d a b e) s = .next (s.illegal k (wordA 0x01 0x08 d a b e)) ∧
    exec (.mcAddS n d a b e) s = .next (s.illegal k (wordA 0x02 0x01 d a b e)) ∧
    exec (.mcSubS n d a b e) s = .next (s.illegal k (wordA 0x02 0x02 d a b e)) ∧
    exec (.mcMulq n d a b e) s = .next (s.illegal k (wordA 0x02 0x05 d a b e)) ∧
    exec (.mcMulq15 n d a b e) s = .next (s.illegal k (wordA 0x02 0x07 d a b e)) ∧
    exec (.mcClmp n d a b e) s = .next (s.illegal k (wordA 0x02 0x09 d a b e)) ∧
    exec (.mcShls n d a b e) s = .next (s.illegal k (wordA 0x02 0x0A d a b e)) ∧
    exec (.mcFadd n d a b e) s = .next (s.illegal k (wordA 0x03 0x01 d a b e)) ∧
    exec (.mcFsub n d a b e) s = .next (s.illegal k (wordA 0x03 0x02 d a b e)) ∧
    exec (.mcFmul n d a b e) s = .next (s.illegal k (wordA 0x03 0x03 d a b e)) ∧
    exec (.mcFmin n d a b e) s = .next (s.illegal k (wordA 0x03 0x05 d a b e)) ∧
    exec (.mcFmax n d a b e) s = .next (s.illegal k (wordA 0x03 0x06 d a b e)) ∧
    exec (.mcFlt n d a b e) s = .next (s.illegal k (wordA 0x03 0x0D d a b e)) ∧
    exec (.mcFdiv n d a b e) s = .next (s.illegal k (wordA 0x03 0x0E d a b e)) ∧
    exec (.mcFeq n d a b e) s = .next (s.illegal k (wordA 0x03 0x10 d a b e)) ∧
    exec (.mcFle n d a b e) s = .next (s.illegal k (wordA 0x03 0x11 d a b e))) ∧
  (∀ (s : State) (n : Fin 4) (k : Nat) (d a b e : Fin 32), s.CoreReady n k → b ≠ 0 ∨ e ≠ 0 →
    exec (.mcNegS n d a b e) s = .next (s.illegal k (wordA 0x02 0x03 d a b e)) ∧
    exec (.mcAbsS n d a b e) s = .next (s.illegal k (wordA 0x02 0x04 d a b e)) ∧
    exec (.mcRndq15 n d a b e) s = .next (s.illegal k (wordA 0x02 0x0B d a b e)) ∧
    exec (.mcFabs n d a b e) s = .next (s.illegal k (wordA 0x03 0x07 d a b e)) ∧
    exec (.mcFneg n d a b e) s = .next (s.illegal k (wordA 0x03 0x08 d a b e)) ∧
    exec (.mcFcvtQf n d a b e) s = .next (s.illegal k (wordA 0x03 0x09 d a b e)) ∧
    exec (.mcFcvtFq n d a b e) s = .next (s.illegal k (wordA 0x03 0x0A d a b e)) ∧
    exec (.mcFcvtIf n d a b e) s = .next (s.illegal k (wordA 0x03 0x0B d a b e)) ∧
    exec (.mcFcvtFi n d a b e) s = .next (s.illegal k (wordA 0x03 0x0C d a b e)) ∧
    exec (.mcFsqrt n d a b e) s = .next (s.illegal k (wordA 0x03 0x0F d a b e)) ∧
    exec (.mcClz n d a b e) s = .next (s.illegal k (wordA 0x05 0x01 d a b e)) ∧
    exec (.mcCtz n d a b e) s = .next (s.illegal k (wordA 0x05 0x02 d a b e)) ∧
    exec (.mcPopc n d a b e) s = .next (s.illegal k (wordA 0x05 0x03 d a b e)) ∧
    exec (.mcBswap n d a b e) s = .next (s.illegal k (wordA 0x05 0x04 d a b e))) ∧
  (∀ (s : State) (n : Fin 4) (k : Nat) (d a b e : Fin 32), s.CoreReady n k → e ≠ 0 ∨ d.val % 2 ≠ 0 →
    exec (.mcClarke n d a b e) s = .next (s.illegal k (wordA 0x04 0x01 d a b e)) ∧
    exec (.mcPark n d a b e) s = .next (s.illegal k (wordA 0x04 0x02 d a b e)) ∧
    exec (.mcIpark n d a b e) s = .next (s.illegal k (wordA 0x04 0x03 d a b e))) ∧
  (∀ (s : State) (n : Fin 4) (k : Nat) (d a b e : Fin 32), s.CoreReady n k → b ≠ 0 ∨ e ≠ 0 ∨ d.val % 4 ≠ 0 →
    exec (.mcSvm n d a b e) s = .next (s.illegal k (wordA 0x04 0x04 d a b e))) ∧
  (∀ (s : State) (n : Fin 4) (k : Nat) (d a b e : Fin 32), s.CoreReady n k → b ≠ 0 ∨ e ≠ 0 ∨ d = 0 ∨ 16 ≤ d.val ∨ 16 ≤ a.val →
    exec (.mcSgmov n d a b e) s = .next (s.illegal k (wordA 0x34 1 d a b e)) ∧
    exec (.mcSgvoid n d a b e) s = .next (s.illegal k (wordA 0x34 14 d a b e))) ∧
  (∀ (s : State) (n : Fin 4) (k : Nat) (d a b e : Fin 32), s.CoreReady n k → e ≠ 0 ∨ d = 0 ∨ 16 ≤ d.val ∨ 16 ≤ a.val →
    exec (.mcSgsetc n d a b e) s = .next (s.illegal k (wordA 0x34 8 d a b e)) ∧
    exec (.mcSgaddc n d a b e) s = .next (s.illegal k (wordA 0x34 9 d a b e)) ∧
    exec (.mcSgmask n d a b e) s = .next (s.illegal k (wordA 0x34 11 d a b e))) ∧
  (∀ (s : State) (n : Fin 4) (k : Nat) (d a b e : Fin 32), s.CoreReady n k → d = 0 ∨ 16 ≤ d.val ∨ 16 ≤ a.val →
    exec (.mcSgnarrow n d a b e) s = .next (s.illegal k (wordA 0x34 10 d a b e))) ∧
  (∀ (s : State) (n : Fin 4) (k : Nat) (d a b e : Fin 32), s.CoreReady n k → 16 ≤ e.val ∨ d = 0 ∨ 16 ≤ d.val ∨ 16 ≤ a.val →
    exec (.mcSgseal n d a b e) s = .next (s.illegal k (wordA 0x34 12 d a b e))) ∧
  (∀ (s : State) (n : Fin 4) (k : Nat) (d a b e : Fin 32), s.CoreReady n k → b ≠ 0 ∨ 16 ≤ e.val ∨ d = 0 ∨ 16 ≤ d.val ∨ 16 ≤ a.val →
    exec (.mcSgopen n d a b e) s = .next (s.illegal k (wordA 0x34 13 d a b e))) ∧
  (∀ (s : State) (n : Fin 4) (k : Nat) (d a b e : Fin 32), s.CoreReady n k → 16 ≤ a.val ∨ b ≠ 0 ∨ e ≠ 0 →
    exec (.mcSgbase n d a b e) s = .next (s.illegal k (wordA 0x34 2 d a b e)) ∧
    exec (.mcSglen n d a b e) s = .next (s.illegal k (wordA 0x34 3 d a b e)) ∧
    exec (.mcSgperm n d a b e) s = .next (s.illegal k (wordA 0x34 4 d a b e)) ∧
    exec (.mcSgtype n d a b e) s = .next (s.illegal k (wordA 0x34 5 d a b e)) ∧
    exec (.mcSgtag n d a b e) s = .next (s.illegal k (wordA 0x34 6 d a b e)) ∧
    exec (.mcSgcur n d a b e) s = .next (s.illegal k (wordA 0x34 7 d a b e))) ∧
  (∀ (s : State) (n : Fin 4) (k : Nat) (d a : Fin 32) (imm : BitVec 16), s.CoreReady n k → a ≠ 0 →
    exec (.mcLui n d a imm) s = .next (s.illegal k (wordI 0x0E d a imm.toNat))) ∧
  (∀ (s : State) (n : Fin 4) (k : Nat) (d a : Fin 32) (x : BitVec 14), s.CoreReady n k → 32 ≤ x.toNat →
    exec (.mcSlli n d a x) s = .next (s.illegal k (wordI 0x0F d a (0 * 2 ^ 14 + x.toNat))) ∧
    exec (.mcSrli n d a x) s = .next (s.illegal k (wordI 0x0F d a (1 * 2 ^ 14 + x.toNat))) ∧
    exec (.mcSrai n d a x) s = .next (s.illegal k (wordI 0x0F d a (2 * 2 ^ 14 + x.toNat)))) ∧
  (∀ (s : State) (n : Fin 4) (k : Nat) (d a : Fin 32) (off : BitVec 16), s.CoreReady n k → d = 0 ∨ 16 ≤ d.val ∨ 16 ≤ a.val →
    exec (.mcSgaddci n d a off) s = .next (s.illegal k (wordI 0x1E d a off.toNat)))

/-- On a ready core: a division or remainder by zero writes no register, retires and pends DIV_ZERO; the most negative number
divided by -1 gives the number itself and remainder 0; ADDV, SUBV and MULV whose exact result falls outside 32 bits write the
wrapped result and pend OVERFLOW; ADDS and SUBS that saturate write the bound and pend SATURATE exactly when STE is set. -/
def Obligations.ArithmeticExceptionsPend : Prop :=
  (∀ (s : State) (n : Fin 4) (k : Nat) (d a b : Fin 32), s.CoreReady n k → (s.arch k).get b = 0 → (s.arch k).pa = false →
    exec (.mcDiv n d a b 0) s = .next ((s.retire k ((s.arch k).pc + 4) false).onCore k fun c => { c with arith := some { num := 0x11 } }) ∧
    exec (.mcDivu n d a b 0) s = .next ((s.retire k ((s.arch k).pc + 4) false).onCore k fun c => { c with arith := some { num := 0x11 } }) ∧
    exec (.mcRem n d a b 0) s = .next ((s.retire k ((s.arch k).pc + 4) false).onCore k fun c => { c with arith := some { num := 0x11 } }) ∧
    exec (.mcRemu n d a b 0) s = .next ((s.retire k ((s.arch k).pc + 4) false).onCore k fun c => { c with arith := some { num := 0x11 } })) ∧
  (∀ (s : State) (n : Fin 4) (k : Nat) (d a b : Fin 32), s.CoreReady n k → (s.arch k).get a = 0x80000000 →
    (s.arch k).get b = 0xFFFFFFFF →
    exec (.mcDiv n d a b 0) s = .next (s.coreSet k fun r => r.set d 0x80000000) ∧
    exec (.mcRem n d a b 0) s = .next (s.coreSet k fun r => r.set d 0)) ∧
  (∀ (s : State) (n : Fin 4) (k : Nat) (d a b : Fin 32) (x y : Int), s.CoreReady n k → (s.arch k).pa = false →
    x = ((s.arch k).get a).toInt → y = ((s.arch k).get b).toInt →
    (x + y < -2 ^ 31 ∨ 2 ^ 31 ≤ x + y → exec (.mcAddv n d a b 0) s = .next ((s.coreSet k fun r => r.set d (r.get a + r.get b)).onCore k
      fun c => { c with arith := some { num := 0x10 } })) ∧
    (x - y < -2 ^ 31 ∨ 2 ^ 31 ≤ x - y → exec (.mcSubv n d a b 0) s = .next ((s.coreSet k fun r => r.set d (r.get a - r.get b)).onCore k
      fun c => { c with arith := some { num := 0x10 } })) ∧
    (x * y < -2 ^ 31 ∨ 2 ^ 31 ≤ x * y → exec (.mcMulv n d a b 0) s = .next ((s.coreSet k fun r => r.set d (r.get a * r.get b)).onCore k
      fun c => { c with arith := some { num := 0x10 } }))) ∧
  (∀ (s : State) (n : Fin 4) (k : Nat) (d a b : Fin 32) (x y : Int), s.CoreReady n k → (s.arch k).pa = false → (s.arch k).ste = true →
    x = ((s.arch k).get a).toInt → y = ((s.arch k).get b).toInt →
    (2 ^ 31 ≤ x + y → exec (.mcAddS n d a b 0) s = .next ((s.coreSet k fun r => r.set d 0x7FFFFFFF).onCore k
      fun c => { c with arith := some { num := 0x12 } })) ∧
    (x - y < -2 ^ 31 → exec (.mcSubS n d a b 0) s = .next ((s.coreSet k fun r => r.set d 0x80000000).onCore k
      fun c => { c with arith := some { num := 0x12 } }))) ∧
  (∀ (s : State) (n : Fin 4) (k : Nat) (d a b : Fin 32) (x y : Int), s.CoreReady n k → (s.arch k).ste = false →
    x = ((s.arch k).get a).toInt → y = ((s.arch k).get b).toInt →
    (2 ^ 31 ≤ x + y → exec (.mcAddS n d a b 0) s = .next (s.coreSet k fun r => r.set d 0x7FFFFFFF)) ∧
    (x - y < -2 ^ 31 → exec (.mcSubS n d a b 0) s = .next (s.coreSet k fun r => r.set d 0x80000000)))

/-- R288: on a ready core each derivation (SGMOV, SGVOID, SGSETC, SGADDC, SGADDCI, SGNARROW, SGMASK, SGSEAL, SGOPEN) answers a
next state in which the result, where it is tagged, has a segment within the source's, with exactly the bounds SGNARROW names,
and permissions among the source's; SGMOV copies; only SGSEAL and SGOPEN change OTYPE; no other capability register changes. -/
def Obligations.DerivedCapabilitiesAreNeverWider : Prop :=
  (∀ (s : State) (n : Fin 4) (k : Nat) (d a : Fin 32) (c : Cap), s.CoreReady n k → d.val ≠ 0 ∧ d.val < 16 → a.val < 16 → c = (s.arch k).cap a →
    (∃ t, exec (.mcSgmov n d a 0 0) s = .next t ∧ (t.arch k).cap d = c ∧ ∀ j, j ≠ d.val → (t.arch k).cap j = (s.arch k).cap j) ∧
    (∃ t, exec (.mcSgvoid n d a 0 0) s = .next t ∧ ((t.arch k).cap d).Within c ∧ ((t.arch k).cap d).otype = c.otype ∧
      ∀ j, j ≠ d.val → (t.arch k).cap j = (s.arch k).cap j) ∧
    (c.isSealed = false → ∀ (b : Fin 32) (off : BitVec 16),
      (∃ t, exec (.mcSgsetc n d a b 0) s = .next t ∧ ((t.arch k).cap d).Within c ∧ ((t.arch k).cap d).otype = c.otype ∧
        ∀ j, j ≠ d.val → (t.arch k).cap j = (s.arch k).cap j) ∧
      (∃ t, exec (.mcSgaddc n d a b 0) s = .next t ∧ ((t.arch k).cap d).Within c ∧ ((t.arch k).cap d).otype = c.otype ∧
        ∀ j, j ≠ d.val → (t.arch k).cap j = (s.arch k).cap j) ∧
      (∃ t, exec (.mcSgaddci n d a off) s = .next t ∧ ((t.arch k).cap d).Within c ∧ ((t.arch k).cap d).otype = c.otype ∧
        ∀ j, j ≠ d.val → (t.arch k).cap j = (s.arch k).cap j)) ∧
    (c.tag = true → c.isSealed = false → ∀ (b e : Fin 32),
      (((s.arch k).get b).toNat + ((s.arch k).get e).toNat ≤ c.length.toNat →
        ∃ t, exec (.mcSgnarrow n d a b e) s = .next t ∧ ((t.arch k).cap d).Within c ∧ ((t.arch k).cap d).otype = c.otype ∧
          ((t.arch k).cap d).base = c.base + (s.arch k).get b ∧ ((t.arch k).cap d).length = (s.arch k).get e ∧
          (c.base.toNat + c.length.toNat < 2 ^ 32 → c.base.toNat ≤ ((t.arch k).cap d).base.toNat ∧
            ((t.arch k).cap d).base.toNat + ((t.arch k).cap d).length.toNat ≤ c.base.toNat + c.length.toNat) ∧
          ∀ j, j ≠ d.val → (t.arch k).cap j = (s.arch k).cap j) ∧
      (∃ t, exec (.mcSgmask n d a b 0) s = .next t ∧ ((t.arch k).cap d).Within c ∧ ((t.arch k).cap d).otype = c.otype ∧
        ∀ j, j ≠ d.val → (t.arch k).cap j = (s.arch k).cap j)) ∧
    (c.tag = true → ∀ (b e : Fin 32) (x : Cap) (y : Nat), e.val < 16 → x = (s.arch k).cap e → x.tag = true → x.isSealed = false →
      (c.isSealed = false → x.may permSeal = true → y = ((s.arch k).get b).toNat → 0 < y ∧ y ≤ 0xFFFF →
        x.base.toNat ≤ y ∧ y < x.base.toNat + x.length.toNat →
        ∃ t, exec (.mcSgseal n d a b e) s = .next t ∧ ((t.arch k).cap d).Within c ∧ ((t.arch k).cap d).otype.toNat = y ∧
          ∀ j, j ≠ d.val → (t.arch k).cap j = (s.arch k).cap j) ∧
      (c.isSealed = true → x.may permUnseal = true → y = c.otype.toNat → x.base.toNat ≤ y ∧ y < x.base.toNat + x.length.toNat →
        ∃ t, exec (.mcSgopen n d a 0 e) s = .next t ∧ ((t.arch k).cap d).Within c ∧ ((t.arch k).cap d).otype = 0 ∧
          ∀ j, j ≠ d.val → (t.arch k).cap j = (s.arch k).cap j)))

/-- ST and ST.D of an unpaired cell at its issue edge, at an address the rules admit (aligned, below 8192): the words at the
address computed from the base register and offset hold the register's value (ST.D: the pair of registers, lower word first),
and every other byte of memory reads as before. -/
def Obligations.CellStoresWriteOnlyTheirWords : Prop :=
  ∀ (s : State) (c : Fin 52) (e : Bool) (d a : Fin 32) (imm : BitVec 16) (t x : Nat), s.paired c = false → x = s.lcAddr c a imm →
    (s.LcReady c [a, d] false t 1 → x % 4 = 0 ∧ x < 8192 →
      ∃ u, exec (.lcSt c e d a imm) s = .next u ∧ u.word (lcData c (x / 4)) = s.lcV c d ∧
        ∀ z, z < lcData c (x / 4) ∨ lcData c (x / 4) + 4 ≤ z → u.byte z = s.byte z) ∧
    (s.LcReady c [a, d, d + 1] false t 1 → d.val % 2 = 0 → x % 8 = 0 ∧ x < 8192 →
      ∃ u, exec (.lcStD c e d a imm) s = .next u ∧ u.word (lcData c (x / 4)) = s.lcV c d ∧
        u.word (lcData c (x / 4 + 1)) = s.lcV c (d + 1) ∧
        ∀ z, z < lcData c (x / 4) ∨ lcData c (x / 4) + 8 ≤ z → u.byte z = s.byte z)

/-- Exception entry with a usable vector and exception stack: the window slides forward, the saved PC and STATUS and the saved c0
with its tag go out through the store buffer in the 32 bytes below the exception stack's cursor, which moves down by 32, c0
becomes the vector capability, the PC its cursor, and XCAUSE and XADDR hold the cause and the address. -/
def Obligations.ExceptionEntrySavesAndTransfers : Prop :=
  ∀ (s t v w : State) (k xa saved xc n : Nat) (x : Exc) (impr multi : Bool) (c : Cap) (xs : Cap),
    x.addr = some xa → xc = 2 ^ 31 * bit impr + 2 ^ 30 * bit multi + 2 ^ 16 * x.acc + x.creg * 2 ^ 8 + x.num →
    s.vector k ((s.arch k).xvt.toNat + 16 * x.num) = some (t, some c) → c.vectorOk = true →
    t.slideFwd k 0 = .ok v → xs = (t.arch k).xstk → xs.tag = true → xs.isSealed = false → xs.may permStore = true →
    xs.may permStcap = true → 32 ≤ xs.cursor.toNat → n = xs.cursor.toNat - 32 → n % 16 = 0 → xs.covers n 32 = true → v.badAccess n 32 = false →
    v.pushStores k (storePair n (saved + 2 ^ 32 * (t.arch k).status.toNat) (xs.may permHold) ++
      storeCap (n + 16) { (t.arch k).cap 0 with cursor := BitVec.ofNat 32 saved } ((t.arch k).cap 0).tag (xs.may permHold)) = some w →
    ∃ u, s.takeExc k x saved impr multi = some u ∧ (u.core k).run = .run ∧
      (u.core k).sb = (w.core k).sb ∧ u.arch k = { w.arch k with
        caps := mapSet {} (w.arch k).caps 0 c, pc := c.cursor.toNat, xstk := { xs with cursor := BitVec.ofNat 32 n }
        xcause := BitVec.ofNat 32 xc, xaddr := BitVec.ofNat 32 (xa % 2 ^ 32) }

/-- While no spill is due (DEPTH below 7), a slide forward moves SLOT and DEPTH on by one, puts the link into the new window with
its loop inactive, makes the old outbox the new inbox and keeps cm0-cm7; a slide back after it restores SLOT, DEPTH and all 32
visible registers. The free values of the new desk stand in the free counter, which is why the frame names it. -/
def Obligations.WindowSlidesAndReturns : Prop :=
  (∀ (s : State) (k link : Nat), (s.arch k).slot < 8 → (s.arch k).depth < 7 → ∃ t, s.slideFwd k link = .ok t ∧
    (t.arch k).slot = ((s.arch k).slot + 1) % 8 ∧ (t.arch k).depth = (s.arch k).depth + 1 ∧ (t.arch k).win0.link = BitVec.ofNat 32 link ∧
    bitOf (t.arch k).win0.lctl 5 = false ∧ (∀ i < 8, (t.arch k).get (8 + i) = (s.arch k).get (24 + i)) ∧
    (∀ i < 8, (t.arch k).get i = (s.arch k).get i) ∧ (t.arch k).pc = (s.arch k).pc ∧ (t.arch k).caps = (s.arch k).caps ∧
    s.OnlyCore { t with free := s.free } k) ∧
  (∀ (s : State) (k link : Nat) (t : State), (s.arch k).slot < 8 → 1 ≤ (s.arch k).depth → (s.arch k).depth < 7 → s.slideFwd k link = .ok t →
    ∃ u, t.slideBack k = .ok u ∧ (u.arch k).slot = (s.arch k).slot ∧ (u.arch k).depth = (s.arch k).depth ∧
      ∀ i < 32, (u.arch k).get i = (s.arch k).get i)

/-- A cold reset and a warm reset leave every core with all registers 0, SLOT 0, DEPTH 1, MC_WSP 0, links 0 and no loop active
(R245); DEVTIME is 0 after a cold reset and kept by a warm one (R41); and the record of a released core has the capability
registers of R286's table with the PC at the entry address. -/
def Obligations.ResetsClearTheCores : Prop :=
  (∀ s : State, ∃ t, exec .coldReset s = .next t ∧ t.clk.devtime = 0 ∧ t.phase = 0 ∧ ∀ k, Arch.Clear (t.arch k)) ∧
  (∀ (s : State) (x : BootIn), s.phase ≠ 0 → s.power.off = false →
    ∃ t, exec (.warmReset true x) s = .next t ∧ t.clk.devtime = s.clk.devtime ∧ t.phase = 1 ∧ ∀ k, Arch.Clear (t.arch k)) ∧
  (∀ k entry, Arch.Clear (releaseArch k entry) ∧ (releaseArch k entry).pc = entry ∧
    (releaseArch k entry).cap 0 = ⟨0, 0xFFFFFFFF, 0x07FF, 0, BitVec.ofNat 32 entry, true⟩ ∧
    (releaseArch k entry).cap 1 = ⟨0, 0xFFFFFFFF, 0x07FF, 0, 0, true⟩ ∧
    (releaseArch k entry).cap 2 = ⟨BitVec.ofNat 32 (tcmBase k), 0x3FE00, 0x1B, 0, BitVec.ofNat 32 (tcmBase k + 0x3FE00), true⟩ ∧
    (∀ j, 3 ≤ j → (releaseArch k entry).cap j = {}) ∧ (releaseArch k entry).xstk = {})

/-- A write of n bytes at a clears the tag of every 16-byte granule it touches and no other tag; the store of a tagged capability
in a memory with tags sets exactly its granule's tag, and the store of an untagged one clears exactly that. The operation is
the one every store of the model goes through. -/
def Obligations.TagsFollowTheGranule : Prop :=
  (∀ (s : State) (a n x : Nat), (s.untag a n).tagAt x = (s.tagAt x && !(decide (a / 16 ≤ x / 16) && decide (x / 16 < (a + n + 15) / 16)))) ∧
  (∀ (s : State) (a n x : Nat), a ≤ x → x < a + n → (s.untag a n).tagAt x = false) ∧
  (∀ (s : State) (a x : Nat), hasTags a = true → (s.setTag a true).tagAt x = (s.tagAt x || (hasTags x && decide (x / 16 = a / 16)))) ∧
  (∀ (s : State) (a x : Nat), hasTags a = true → (s.setTag a false).tagAt x = (s.tagAt x && !decide (x / 16 = a / 16)))

/-- A CLRALL write leaves every perturbation register 0, no forced mismatch in a cell or a pair waiting, the ENABLE bit of the
debug control and the two perturbation flags of TP_STAT clear: R475's clause on CLRALL. -/
def Obligations.PerturbationsAreRemoved : Prop :=
  (∀ (s : State) (v : BitVec 32), ∃ t, exec (.clrall v) s = .next t ∧ t.reg Reg.TP_XBDLY = 0 ∧ t.reg Reg.TP_DMABP = 0 ∧ t.reg Reg.TP_SODLY = 0 ∧
    t.reg Reg.TP_CSDLY = 0 ∧ t.mismCell = [] ∧ t.tp.mismPair = [] ∧ t.flag Reg.TP_DBGCTL 31 = false ∧ t.flag Reg.TP_STAT 0 = false ∧
    t.flag Reg.TP_STAT 1 = false)

/-- A write to an ECC strength register that changes a region: outside BOOT, TEST and RECOVERY it is discarded and WRONG_PHASE is
reported; in those phases the register takes the value, the report is cleared, exactly the init masks of the changed regions
are cleared, and the clearing is busy for 256 core cycles. The premise that no field is 0 excludes the reserved strength. -/
def Obligations.EccStrengthWritesFollowThePhase : Prop :=
  ∀ (s : State) (k : Fin 9) (v w : Word) (n base : Nat), w = (if k.val = 8 then BitVec.ofNat 32 (v.toNat % 256) else v) →
    n = (if k.val = 8 then 4 else 16) → base = (if k.val = 8 then 0x40000000 else 0x20000000 + 0x100000 * k.val) →
    w ≠ s.reg (Reg.MG_ECCSTR k) → (∀ r < n, fieldOf w (2 * r + 1) (2 * r) ≠ 0) →
    (s.phase ≠ 1 → s.phase ≠ 3 → s.phase ≠ 4 → exec (.eccStrengthWrite k v) s = .next (s.cfgFail Reg.MG_MEMCFGCHK ⟨0x08, k, s.phase⟩)) ∧
    (s.phase = 1 ∨ s.phase = 3 ∨ s.phase = 4 → ∃ t, exec (.eccStrengthWrite k v) s = .next t ∧ t.reg (Reg.MG_ECCSTR k) = w ∧
      t.reg Reg.MG_MEMCFGCHK = 0 ∧
      (∀ g, nsetHas t.mem.init g = (nsetHas s.mem.init g && !(List.range n).any fun r =>
        fieldOf w (2 * r + 1) (2 * r) != s.fld (Reg.MG_ECCSTR k) (2 * r + 1) (2 * r) &&
          decide ((base + 0x10000 * r) / 8 ≤ g) && decide (g < (base + 0x10000 * (r + 1)) / 8))) ∧
      ((∃ r < n, fieldOf w (2 * r + 1) (2 * r) ≠ s.fld (Reg.MG_ECCSTR k) (2 * r + 1) (2 * r)) →
        t.flag Reg.MG_MEMSTAT 7 = true ∧ t.mem.initDue = max s.mem.initDue (s.now + s.coreTime 256)))

/-- A POST to an enabled letterbox: with the last accepted postmark or an older one (modulo 2^16) it is discarded as a duplicate
and counted; with a newer one and the ring full it is discarded as an overflow and counted; with a newer one and room it is
appended with the message of TXHI and TXLO, SENT becomes the postmark, and the transmit registers keep their values. -/
def Obligations.LetterboxPostsAreOrdered : Prop :=
  ∀ (s : State) (k : Fin 32) (d : Fin 2) (p : BitVec 16) (sent : Nat), s.unitOn domHost = true → s.lbxEn k = true →
    sent = s.fld (Reg.LBX_PM k d) 31 16 →
    ((p.toNat + 65536 - sent) % 65536 = 0 ∨ 32768 ≤ (p.toNat + 65536 - sent) % 65536 →
      ∃ t, exec (.letterboxPost k d p) s = .next t ∧ t.rings = s.rings ∧ t.fld (Reg.LBX_PM k d) 31 16 = sent ∧
        t.flag (Reg.LBX_STAT k) (8 * d) = true ∧ t.fld (Reg.LBX_CNT k) 15 8 = min (s.fld (Reg.LBX_CNT k) 15 8 + 1) 255 ∧
        ∀ a, a ≠ Reg.LBX_STAT k → a ≠ Reg.LBX_CNT k → t.reg a = s.reg a) ∧
    ((p.toNat + 65536 - sent) % 65536 ≠ 0 → (p.toNat + 65536 - sent) % 65536 < 32768 → 64 ≤ (s.ring k d).msgs.length →
      ∃ t, exec (.letterboxPost k d p) s = .next t ∧ t.rings = s.rings ∧ t.fld (Reg.LBX_PM k d) 31 16 = sent ∧
        t.flag (Reg.LBX_STAT k) (8 * d + 1) = true ∧ t.fld (Reg.LBX_CNT k) 23 16 = min (s.fld (Reg.LBX_CNT k) 23 16 + 1) 255 ∧
        ∀ a, a ≠ Reg.LBX_STAT k → a ≠ Reg.LBX_CNT k → t.reg a = s.reg a) ∧
    ((p.toNat + 65536 - sent) % 65536 ≠ 0 → (p.toNat + 65536 - sent) % 65536 < 32768 → (s.ring k d).msgs.length < 64 →
      ∃ t, exec (.letterboxPost k d p) s = .next t ∧ (t.ring k d).msgs = (s.ring k d).msgs ++ [(p.toNat,
          BitVec.ofNat 64 (2 ^ 32 * (s.reg (Reg.LBX_TXHI k d)).toNat + (s.reg (Reg.LBX_TXLO k d)).toNat))] ∧
        t.fld (Reg.LBX_PM k d) 31 16 = p.toNat ∧ t.reg (Reg.LBX_TXHI k d) = s.reg (Reg.LBX_TXHI k d) ∧
        t.reg (Reg.LBX_TXLO k d) = s.reg (Reg.LBX_TXLO k d))

/-- A write of 1 to CMPn_STAT.LATCH while the set condition holds leaves the state as it is; without the condition the latch and
its trip line go inactive, and no other register changes. -/
def Obligations.ComparatorLatchSetWins : Prop :=
  ∀ (s : State) (n : Fin 96) (v : BitVec 32), s.unitOn (domCmp n) = true →
    (s.setCondition n (s.now * 128) = true → exec (.latchClear n v) s = .next s) ∧
    (s.setCondition n (s.now * 128) = false → ∃ t, exec (.latchClear n v) s = .next t ∧ t.flag (Reg.CMP_STAT n) 0 = false ∧
      t.tripLine n = false ∧ ∀ a, a ≠ Reg.CMP_STAT n → t.reg a = s.reg a)

/-- A write of 1 to TRIPLATCH of a tripped generator: while an enabled LATCHED selector has an active source the trip, its source
record and the pads stay and CLRREF is set; with no active source and no HOLD condition the trip clears, and with it LATSRC
and HOLDTRIP. -/
def Obligations.TripClearsOnlyWithoutSource : Prop :=
  ∀ (s : State) (n : Fin 96) (v : BitVec 32) (flt : BitVec 24), s.unitOn (domPwm n) = true → s.flag (Reg.PWM_TRIPSTAT n) 0 = true →
    ((∃ k < 8, (s.setFlt flt).selActive n k true = true) → ∃ t, exec (.tripClear n v flt) s = .next t ∧
      t.flag (Reg.PWM_TRIPSTAT n) 0 = true ∧ t.flag (Reg.PWM_TRIPSTAT n) 6 = true ∧ t.fld (Reg.PWM_TRIPSTAT n) 31 24 = s.fld (Reg.PWM_TRIPSTAT n) 31 24 ∧
      t.pwms = s.pwms) ∧
    ((∀ k < 8, (s.setFlt flt).selActive n k true = false) → s.flag (Reg.PWM_TRIPSTAT n) 7 = false →
      ∃ t, exec (.tripClear n v flt) s = .next t ∧ t.flag (Reg.PWM_TRIPSTAT n) 0 = false ∧ t.fld (Reg.PWM_TRIPSTAT n) 31 24 = 0 ∧
        t.flag (Reg.PWM_TRIPSTAT n) 7 = false)

/-- R143: an event raised on edge e by a source whose entry forwards it (the office powered and enabled, the entry free to take
it, no added perturbation delay) joins the flights with its due edge e + 2 + DELAY, the entry's destinations and the instant e
+ DELAY with f kept, whatever other events are in flight; and EVENT_DELIVERY with the earliest due event carries out the
deliveries of that edge to the destinations they name, on that edge. -/
def Obligations.EventsArriveAfterTheirDelay : Prop :=
  (∀ (s : State) (src e f delay : Nat), s.unitOn domSo = true → s.flag Reg.SO_CTRL 0 = true → nsetHas s.so.rtFail src = false →
    delay = s.fld (Reg.SO_RT_CFG src) 7 0 → s.fld (Reg.SO_RT_STAT src) 15 8 = 0 → delay = 0 ∨ s.fld (Reg.SO_RT_STAT src) 3 0 < 8 →
    s.flag Reg.TP_SODLY 31 = false →
    (s.raiseAt src e f).so.flights = s.so.flights ++ [⟨src, e + 2 + delay, (e + delay) * 128 + f, s.routeDests src, delay != 0⟩]) ∧
  (∀ (s : State) (l : List (Fin 16)) (x : Flight), s.unitOn domSo = true → s.flag Reg.SO_CTRL 0 = true → x ∈ s.so.flights →
    (∀ y ∈ s.so.flights, x.due ≤ y.due) → exec (.eventDelivery l) s = .next (State.deliverAll { s.advanceTo x.due with so := { s.so with
      flights := s.so.flights.filter fun y => y.due != x.due } } l (s.so.flights.filter fun y => y.due == x.due)))

/-- The model's own operation for reaching an instant (log entry 3): the clock becomes the later of the two instants, nothing but
the clock and the trace FIFO changes, the clock changes only in DEVTIME, and the FIFO only drains. -/
def Obligations.TimeNeverRunsBack : Prop :=
  ∀ (s : State) (e : Nat), e < 2 ^ 64 → (s.advanceTo e).now = max s.now e ∧
    { s.advanceTo e with clk := s.clk, trace := s.trace } = s ∧ (s.advanceTo e).clk = { s.clk with devtime := (s.advanceTo e).clk.devtime } ∧
    (s.advanceTo e).trace.fifo.length ≤ s.trace.fifo.length

/-- The same seed always gives the same identity key (R414); and IDKEY in a phase after cold reset with no service running puts
that key's 328 words into the service buffer, sets BUSY with its number, and leaves memory as it is. The generation of the key
from the seed is a Config constant of the model. -/
def Obligations.IdentityFollowsTheSeed : Prop :=
  (∀ s t : State, s.seed = t.seed → s.identity = t.identity) ∧
  (∀ s : State, s.phase ≠ 0 → s.flag Reg.MG_SVCSTAT 31 = false → ∃ t, exec .idkey s = .next t ∧
    (∀ i < 328, t.reg (Reg.MG_SVCBUF i) = BitVec.ofNat 32 (s.identity / 2 ^ (32 * i))) ∧ t.flag Reg.MG_SVCSTAT 31 = true ∧
    t.fld Reg.MG_SVCSTAT 7 0 = 2 ∧ t.mem = s.mem)

/-- Converter slice and group commands complete: in each clause the command, in the state its hypotheses describe, answers a next
state, which the clause gives. The hypotheses are on the state before the command and on its operands. Commands: SLICE_ENABLE,
SLICE_DISABLE, SLICE_READY, FAST_RESULT_WRITE, FREE_RUNNING_RESULT, GROUP_ENABLE, INTEGRATING_WINDOW_END,
INTEGRATING_RESULT_WRITE, MAINS_ZERO_CROSSING, TRACKER_NO_SIGNAL, TRACK_FIRST_WINDOW_TIMEOUT, SEQUENCER_ENABLE,
SQ_ENTRY_WRITE. -/
def Obligations.ConverterCommandsComplete : Prop :=
  (∀ (s : State) (n : Fin 64) (v : BitVec 32),
    s.unitOn (domSlice n) = true → s.sliceEn n = false →
    (s.store (Reg.CS_CTRL n) (Reg.CS_CFGCHK n) false (withField (withField v 0 0 1) 0 0 0)).sliceFails n = [] →
    exec (.sliceEnable n v) s = .next (((s.enabled (Reg.CS_CTRL n) (Reg.CS_CFGCHK n) 0 (withField v 0 0 1)).setSlice n
      { enAt := s.now, ringAt := s.now }).setFlag (Reg.CS_STAT n) 0 false)) ∧
  (∀ (s : State) (n : Fin 64) (v : BitVec 32),
    s.unitOn (domSlice n) = true → s.sliceEn n = true →
    exec (.sliceDisable n v) s =
      .next ((s.store (Reg.CS_CTRL n) (Reg.CS_CFGCHK n) true (withField v 0 0 0)).sliceDown n) ∧
    exec (.sliceReady n) s = .next ((s.advanceTo ((s.slice n).enAt + 256)).setFlag (Reg.CS_STAT n) 0 true)) ∧
  (∀ (s : State) (n : Fin 64) (codes : List (BitVec 4)) (ovld : Bool) (e : Engine),
    s.unitOn (domSlice n) = true → firstDue (s.slice n).engines = some e →
    (∃ t, exec (.fastResultWrite n codes ovld) s = .next t ∧
      (t.slice n).engines = (s.slice n).engines.filter fun x => x.centre != e.centre)) ∧
  (∀ (s : State) (n : Fin 64) (codes : List (BitVec 4)) (ovld : Bool),
    s.unitOn (domSlice n) = true → s.sliceEn n = true → s.flag (Reg.CS_STAT n) 0 = true → s.freeEntries n ≠ [] →
    (∃ t, exec (.freeRunningResult n codes ovld) s = .next t ∧
      (t.slice n).freeLast = some ((s.feedRing n codes).freeCentre n))) ∧
  (∀ (s : State) (g : Fin 4) (v : BitVec 32),
    s.unitOn (0x19 + g) = true → s.flag (Reg.CG_MPT g) 0 = false →
    (s.store (Reg.CG_MPT g) (Reg.CG_CFGCHK g) false (withField (withField v 0 0 1) 0 0 0)).groupFails g = [] →
    (∃ t, exec (.groupEnable g v) s = .next t ∧ t.flag (Reg.CG_MPT g) 0 = true ∧ t.reg (Reg.CG_CFGCHK g) = 0 ∧
      t.flag (Reg.CG_MPTSTAT g) 0 = false)) ∧
  (∀ (s : State) (g : Fin 4) (sums : List WindowSum) (st : Nat),
    s.unitOn (0x19 + g) = true → s.flag (Reg.CG_MPT g) 0 = true → (s.group g).winStart = some st →
    (∃ t, exec (.integratingWindowEnd g sums) s = .next t ∧
      (t.group g).winStart = some (st + (s.group g).winLen) ∧
      (t.group g).done.length = (s.group g).done.length + sums.length ∧
      t.fld (Reg.CG_MPTSTAT g) 31 16 = (s.fld (Reg.CG_MPTSTAT g) 31 16 + 1) % 2 ^ 16)) ∧
  (∀ (s : State) (g : Fin 4) (d : IntDone) (ds : List IntDone),
    s.unitOn (0x19 + g) = true → (s.group g).done = d :: ds →
    (∃ t, exec (.integratingResultWrite g) s = .next t ∧
      (t.group g).done = (d :: ds).filter fun x => x.due != ds.foldl (fun m x => min m x.due) d.due)) ∧
  (∀ (s : State) (g : Fin 4) (c : Crossing) (e : Nat),
    s.unitOn (0x19 + g) = true → s.flag (Reg.CG_MPT g) 0 = true → s.flag (Reg.CG_MPT g) 1 = false →
    (s.flag (Reg.CG_MPT g) 2 = match c with | .pin _ => true | .values .. => false) → crossingEdge c = some e →
    (∃ t, exec (.mainsZeroCrossing g c) s = .next t ∧ (t.group g).lastCross = some e)) ∧
  (∀ (s : State) (g : Fin 4),
    s.unitOn (0x19 + g) = true → s.flag (Reg.CG_MPT g) 0 = true → s.flag (Reg.CG_MPT g) 1 = false →
    exec (.trackerNoSignal g) s =
      .next ((s.advanceTo ((s.group g).lastCross.getD (s.group g).enAt + 40000000)).setFld (Reg.CG_MPTSTAT g) 2 0 6)) ∧
  (∀ (s : State) (g : Fin 4),
    s.unitOn (0x19 + g) = true → s.flag (Reg.CG_MPT g) 0 = true → s.flag (Reg.CG_MPT g) 1 = false →
    (s.group g).winStart = none →
    exec (.trackFirstWindowTimeout g) s =
      .next ((s.advanceTo ((s.group g).enAt + 40000000)).winBegin g ((s.group g).enAt + 40000000))) ∧
  (∀ (s : State) (n : Fin 16) (v : BitVec 32),
    s.unitOn domSo = true → s.flag (Reg.SQ_CTRL n) 0 = false →
    (s.store (Reg.SQ_CTRL n) (Reg.SQ_CFGCHK n) false (withField (withField v 0 0 1) 0 0 0)).seqFails n = [] →
    (∃ t, exec (.sequencerEnable n v) s = .next t ∧ t.flag (Reg.SQ_CTRL n) 0 = true ∧ t.reg (Reg.SQ_CFGCHK n) = 0 ∧
      t.conv.entFail = nsetDel s.conv.entFail (32 * n) (32 * n + 32))) ∧
  (∀ (s : State) (n : Fin 16) (k : Fin 32) (v : BitVec 32),
    s.unitOn domSo = true → s.flag (Reg.SQ_CTRL n) 0 = false →
    (∃ t, exec (.sqEntryWrite n k v) s = .next t ∧
      t.reg (Reg.SQ_ENT n k) = (s.store (Reg.SQ_ENT n k) (Reg.SQ_CFGCHK n) false v).reg (Reg.SQ_ENT n k) ∧
      t.conv.entFail = nsetDel s.conv.entFail (32 * n + k) (32 * n + k + 1)))

/-- Calibration and test-DAC commands complete: in each clause the command, in the state its hypotheses describe, answers a next
state, which the clause gives. The hypotheses are on the state before the command and on its operands. Commands:
CAL_STEP_START, CAL_SUBSTITUTION, CAL_PIN_RELEASE, CAL_RESHADOW, CAL_HANDBACK, CAL_SPARE_RELEASE, CAL_RUN, CAL_STOP,
CAL_PAUSE, CAL_RESUME, TESTDAC_REQUEST, TESTDAC_RELEASE, PERMANENT_REPLACEMENT. -/
def Obligations.CalibrationCommandsComplete : Prop :=
  (∀ (s : State) (g : Fin 4) (j : Nat),
    s.unitOn (0x19 + g) = true → s.flag (Reg.CG_CALCTL g) 0 = true → s.flag (Reg.CG_CALCTL g) 1 = false → s.arbHeld 2 g = true →
    s.arbHeld 3 g = false → (s.arb.queue.any (fun t => t.act == 3 && t.res == g.val) = false) → (s.group g).calStart = none →
    (s.group g).calStop = false → nextUnmasked (s.fld (Reg.CG_CALCTL g) 31 16) (s.group g).nextSlice = some j →
    exec (.calStepStart g) s = .next (((s.setGroup g { s.group g with calStart := some s.now, nextSlice := j + 1 }).setFld
      (Reg.CG_CALSTAT g) 5 4 (if s.sliceEn (16 * g + j) then 1 else 2)).setFld (Reg.CG_CALSTAT g) 3 0 j)) ∧
  (∀ (s : State) (g : Fin 4) (fitOfs : Int) (fitGain : BitVec 24) (st : Nat),
    (s.group g).calStart = some st → s.fld (Reg.CG_CALSTAT g) 5 4 = 1 → s.sliceEn (s.stepSlice g) = true → s.stepSlice g < 64 →
    (∃ t, exec (.calSubstitution g fitOfs fitGain) s = .next t ∧ t.flag (Reg.CS_STAT (s.stepSlice g)) 3 = true ∧
      (t.group g).subst = some (s.stepSlice g % 16, st + 400000))) ∧
  (∀ (s : State) (g : Fin 4) (st : Nat),
    (s.group g).calStart = some st → s.fld (Reg.CG_CALSTAT g) 5 4 = 2 →
    exec (.calPinRelease g) s =
      .next ((s.advanceTo (st + 400064)).setGroup g { (s.advanceTo (st + 400064)).group g with pinsOff := true }) ∧
    exec (.calReshadow g) s = .next (((s.advanceTo (st + 3600000)).setGroup g
      { (s.advanceTo (st + 3600000)).group g with pinsOff := false }).setFld (Reg.CG_CALSTAT g) 5 4 3)) ∧
  (∀ (s : State) (g : Fin 4) (ofs : Int) (gain : BitVec 24) (st : Nat),
    (s.group g).calStart = some st → 2 ≤ s.fld (Reg.CG_CALSTAT g) 5 4 →
    (∃ t, exec (.calHandback g ofs gain) s = .next t ∧ (t.group g).calStart = none ∧ (t.group g).subst = none ∧
      (t.group g).spareHeld = some (st + 4000000) ∧ t.fld (Reg.CG_CALSTAT g) 5 4 = 0)) ∧
  (∀ (s : State) (g : Fin 4) (e : Nat),
    (s.group g).spareHeld = some e →
    exec (.calSpareRelease g) s = .next (((s.advanceTo (e + 64)).setGroup g
      { (s.advanceTo (e + 64)).group g with spareHeld := none }).calMaybeRelease g)) ∧
  (∀ (s : State) (g : Fin 4) (v : BitVec 32) (k : Nat) (u : State),
    s.unitOn (0x19 + g) = true → s.flag (Reg.CG_CALCTL g) 0 = false → s.flag (Reg.CG_CALCTL g) 1 = false → bitOf v 1 = false →
    s.fld (Reg.CG_CALSTAT g) 12 8 = 0x1F → (s.group g).calTicket = none →
    (s.store (Reg.CG_CALCTL g) (Reg.CG_CFGCHK g) false (withField v 0 0 1)).arbRequest 2 g = (.accepted k, u) →
    exec (.calRun g v) s = .next (((u.setGroup g { u.group g with calTicket := some k, calStop := false }).setFld
      (Reg.CG_CALSTAT g) 7 6 1).cfgOk (Reg.CG_CFGCHK g))) ∧
  (∀ (s : State) (g : Fin 4) (v : BitVec 32),
    s.unitOn (0x19 + g) = true → s.flag (Reg.CG_CALCTL g) 0 = true → s.flag (Reg.CG_CALCTL g) 1 = bitOf v 1 →
    (((s.store (Reg.CG_CALCTL g) (Reg.CG_CFGCHK g) false (withField v 0 0 0)).calHold g).calMaybeRelease g).flag (Reg.CG_CALCTL g) 0 = false →
    exec (.calStop g v) s = .next
      (((s.store (Reg.CG_CALCTL g) (Reg.CG_CFGCHK g) false (withField v 0 0 0)).calHold g).calMaybeRelease g)) ∧
  (∀ (s : State) (g : Fin 4) (v : BitVec 32),
    s.unitOn (0x19 + g) = true → s.flag (Reg.CG_CALCTL g) 0 = bitOf v 0 → s.flag (Reg.CG_CALCTL g) 1 = false →
    exec (.calPause g v) s =
      .next ((s.store (Reg.CG_CALCTL g) (Reg.CG_CFGCHK g) false (withField v 1 1 1)).calHold g)) ∧
  (∀ (s : State) (g : Fin 4) (v : BitVec 32),
    s.unitOn (0x19 + g) = true → s.flag (Reg.CG_CALCTL g) 0 = true → s.flag (Reg.CG_CALCTL g) 1 = true → bitOf v 0 = true →
    (s.store (Reg.CG_CALCTL g) (Reg.CG_CFGCHK g) false (withField v 1 1 0)).flag (Reg.CG_CALCTL g) 0 = true →
    exec (.calResume g v) s =
      .next ((s.store (Reg.CG_CALCTL g) (Reg.CG_CFGCHK g) false (withField v 1 1 0)).setGroup g
        { (s.store (Reg.CG_CALCTL g) (Reg.CG_CFGCHK g) false (withField v 1 1 0)).group g with calStop := false })) ∧
  (∀ (s : State) (g : Fin 4) (v : BitVec 32) (k : Nat) (u : State),
    s.unitOn (0x19 + g) = true → s.flag (Reg.CG_DIAG g) 0 = false → (s.group g).diagTicket = none →
    (s.store (Reg.CG_DIAG g) (Reg.CG_CFGCHK g) false (withField (withField v 0 0 1) 0 0 0)).diagFails g = [] →
    (s.store (Reg.CG_DIAG g) (Reg.CG_CFGCHK g) false (withField (withField v 0 0 1) 0 0 0)).arbRequest 3 g = (.accepted k, u) →
    exec (.testdacRequest g v) s = .next ((((u.setGroup g { u.group g with diagTicket := some k }).setFld
      (Reg.CG_CALSTAT g) 15 14 1).setFlag (Reg.CG_DIAG g) 0 true).cfgOk (Reg.CG_CFGCHK g))) ∧
  (∀ (s : State) (g : Fin 4) (v : BitVec 32) (k : Nat),
    s.unitOn (0x19 + g) = true → s.flag (Reg.CG_DIAG g) 0 = true → (s.group g).diagTicket = some k →
    (∃ t, exec (.testdacRelease g v) s = .next t ∧ (t.group g).diagTicket = none ∧ t.fld (Reg.CG_CALSTAT g) 15 14 = 0)) ∧
  (∀ (s : State) (n : Fin 64) (fo : Int) (fg : BitVec 24),
    s.unitOn (0x19 + n.val / 16) = true → s.spareFree (n.val / 16) = true → s.arbHeld 3 (n.val / 16) = false →
    s.fld (Reg.CG_CALSTAT (n.val / 16)) 12 8 = 0x1F →
    (∃ u, exec (.permanentReplacement n fo fg) s = .next (State.repairApply (State.repairCommit u)) ∧
      mapGet 0x1F u.repairs.slices (n.val / 16) = n.val % 16))

/-- Comparator commands complete: in each clause the command, in the state its hypotheses describe, answers a next state, which
the clause gives. The hypotheses are on the state before the command and on its operands. Commands: COMPARATOR_LATCH_SET,
COMPARATOR_RAW_CHANGE, COMPARATOR_SET_RECORD, LATCH_CLEAR, BLANKING_CLOSE, REF_WRITE, COMPARATOR_LIVE_WRITE,
COMPARATOR_ENABLE, COMPARATOR_DISABLE, COMPARATOR_SETTLED, SELFTEST_REQUEST, SELFTEST_END. -/
def Obligations.ComparatorCommandsComplete : Prop :=
  (∀ (s : State) (n : Fin 96) (t : Nat),
    (s.advanceTo (t / 128)).setCondition n t = true →
    (∃ u, exec (.comparatorLatchSet n t) s = .next u ∧ u.flag (Reg.CMP_STAT n) 0 = true)) ∧
  (∀ (s : State) (n : Fin 96) (v t : Nat),
    s.domOn (domCmp n) = true →
    exec (.comparatorRawChange n v t) s = .next ((s.advanceTo (t / 128)).setCmp n { (s.advanceTo (t / 128)).cmp n with
      vplus := v, raw := (s.advanceTo (t / 128)).rawNext n v t
      rawAt := if (s.advanceTo (t / 128)).rawNext n v t = ((s.advanceTo (t / 128)).cmp n).raw
        then ((s.advanceTo (t / 128)).cmp n).rawAt else t })) ∧
  (∀ (s : State) (n : Fin 96) (e : Nat),
    s.unitOn (domCmp n) = true → (s.cmp n).record = some e →
    exec (.comparatorSetRecord n) s = .next (((((s.advanceTo e).setCmp n { (s.advanceTo e).cmp n with record := none }).modInc
      (Reg.CMP_STAT n) 31 16)).raiseAt (0x500 + n) e 0)) ∧
  (∀ (s : State) (n : Fin 96) (v : BitVec 32),
    s.unitOn (domCmp n) = true → s.setCondition n (s.now * 128) = false →
    exec (.latchClear n v) s = .next (s.setFlag (Reg.CMP_STAT n) 0 false)) ∧
  (∀ (s : State) (n : Fin 96) (e : Nat),
    s.unitOn (domCmp n) = true → (s.cmp n).blankTill = some e →
    (∃ u, exec (.blankingClose n) s = .next u ∧ (u.cmp n).blankTill = none)) ∧
  (∀ (s : State) (n : Fin 96) (v : BitVec 32),
    s.unitOn (domCmp n) = true →
    (∃ u, exec (.refWrite n v) s = .next u ∧ u.fld (Reg.CMP_REF n) 11 0 = fieldOf v 11 0 ∧
      (s.flag (Reg.CMP_CTRL n) 9 = false → u.fld (Reg.CMP_REF n) 27 16 = fieldOf v 11 0))) ∧
  (∀ (s : State) (n : Fin 96) (v : BitVec 32),
    s.unitOn (domCmp n) = true → s.rampFails n (fieldOf v 9 0) = [] →
    (∃ u, exec (.comparatorLiveWrite n .ramp v) s = .next u ∧ u.fld (Reg.CMP_RAMP n) 9 0 = fieldOf v 9 0)) ∧
  (∀ (s : State) (n : Fin 96) (v : BitVec 32),
    s.unitOn (domCmp n) = true → s.blankFails n v = [] →
    (∃ u, exec (.comparatorLiveWrite n .blank v) s = .next u ∧
      u.reg (Reg.CMP_BLANK n) = (s.store (Reg.CMP_BLANK n) (Reg.CMP_CFGCHK n) false v).reg (Reg.CMP_BLANK n))) ∧
  (∀ (s : State) (n : Fin 96) (v : BitVec 32),
    s.unitOn (domCmp n) = true → s.flag (Reg.CMP_CTRL n) 0 = true →
    exec (.comparatorLiveWrite n .ctrl v) s = .next ((s.cfgOk (Reg.CMP_CFGCHK n)).store (Reg.CMP_CTRL n)
      (Reg.CMP_CFGCHK n) true (withField v 0 0 1)) ∧
    exec (.comparatorDisable n v) s =
      .next ((s.store (Reg.CMP_CTRL n) (Reg.CMP_CFGCHK n) true (withField v 0 0 0)).cmpDown n)) ∧
  (∀ (s : State) (n : Fin 96) (v : BitVec 32),
    s.unitOn (domCmp n) = true → s.flag (Reg.CMP_CTRL n) 0 = false →
    (s.store (Reg.CMP_CTRL n) (Reg.CMP_CFGCHK n) false (withField (withField v 0 0 1) 0 0 0)).cmpFails n = [] →
    exec (.comparatorEnable n v) s =
      .next ((s.enabled (Reg.CMP_CTRL n) (Reg.CMP_CFGCHK n) 0 (withField v 0 0 1)).cmpSettle n)) ∧
  (∀ (s : State) (n : Fin 96) (e : Nat),
    s.unitOn (domCmp n) = true → s.flag (Reg.CMP_CTRL n) 0 = true → (s.cmp n).settle = some e →
    (∃ u, exec (.comparatorSettled n) s = .next u ∧ (u.cmp n).settle = none ∧ u.flag (Reg.CMP_STAT n) 2 = true)) ∧
  (∀ (s : State) (n : Fin 96) (v : BitVec 32) (k : Nat) (u : State),
    s.unitOn (domCmp n) = true → fieldOf v 1 0 ≠ 0 → s.flag (Reg.CMP_TEST n) 6 = false → s.cmpInUse n = false →
    s.flag (Reg.CMP_CTRL n) 0 = true → s.flag (Reg.CMP_STAT n) 2 = true → s.arbRequest 4 n = (.accepted k, u) →
    exec (.selftestRequest n v) s = .next (((u.setCmp n { u.cmp n with ticket := some k }).setReg (Reg.CMP_TEST n)
      (BitVec.ofNat 32 (80 + fieldOf v 1 0))).cfgOk (Reg.CMP_CFGCHK n))) ∧
  (∀ (s : State) (n : Fin 96) (v : BitVec 32),
    s.unitOn (domCmp n) = true → s.flag (Reg.CMP_TEST n) 6 = true →
    exec (.selftestEnd n v) s = .next ((s.selftestStop n).cmpSettle n))

/-- Position interface commands complete: in each clause the command, in the state its hypotheses describe, answers a next state,
which the clause gives. The hypotheses are on the state before the command and on its operands. Commands: EMULATOR_EDGE,
EMULATOR_ENABLE, LEVEL_ACCEPT, WIRE_FAULT, STANDSTILL, POS_WRITE, INTERFACE_ENABLE, SSI_FRAME_RECORD, SSI_RELEASE,
SSI_TIMEOUT, EMUPOS_WRITE. -/
def Obligations.PositionCommandsComplete : Prop :=
  (∀ (s : State) (n : Fin 16),
    s.unitOn domPi = true → s.flag (Reg.PI_EMUCTRL n) 0 = true → (s.pos n).lag ≠ 0 →
    (∃ u c : _, exec (.emulatorEdge n) s = .next (if c = 0 then State.piEvent u n 7 else u) ∧
      c = (if 0 < (s.pos n).lag then ((s.reg (Reg.PI_EMUCNT n)).toNat + 1) % (s.reg (Reg.PI_EMUCPR n)).toNat
        else ((s.reg (Reg.PI_EMUCNT n)).toNat + (s.reg (Reg.PI_EMUCPR n)).toNat - 1) % (s.reg (Reg.PI_EMUCPR n)).toNat))) ∧
  (∀ (s : State) (n : Fin 16) (v : BitVec 32),
    s.unitOn domPi = true → s.flag (Reg.PI_EMUCTRL n) 0 = false → bitOf v 0 = true →
    (s.store (Reg.PI_EMUCTRL n) (Reg.PI_CFGCHK n) false (withField v 0 0 0)).emuFails n = [] →
    exec (.emulatorEnable n v) s = .next
      (((((s.enabled (Reg.PI_EMUCTRL n) (Reg.PI_CFGCHK n) 0 v).setPos n { s.pos n with acc := 0, lag := 0, emitted := none, lagFrom := 0 }).setFld
        (Reg.PI_EMULAG n) 31 16 0).emuDrive n))) ∧
  (∀ (s : State) (n : Fin 16) (a b z : Option Bool) (e : Nat),
    s.unitOn domPi = true → s.piEn n = true → s.piMode n = 0 → (s.pos n).enAt < e → s.now ≤ e + 2 + s.fld (Reg.PI_CTRL n) 15 8 →
    (∃ u, exec (.levelAccept n a b z e) s = .next (State.indexStep u n))) ∧
  (∀ (s : State) (n : Fin 16) (g : Fin 3) (e : Nat),
    s.unitOn domPi = true → s.piEn n = true → s.flag (Reg.PI_CTRL n) 3 = true → (s.pos n).enAt < e → (s.piMode n ≠ 2 ∨ g = 0) →
    (∀ t, (match g with | 0 => (s.pos n).wireA | 1 => (s.pos n).wireB | 2 => (s.pos n).wireZ) = some t → t < e) →
    (∃ u, exec (.wireFault n g e) s = .next (State.piEvent u n 4) ∧ u.flag (Reg.PI_STAT n) (7 + g) = true ∧
      u.now = (s.advanceTo (e + s.fld (Reg.PI_CTRL n) 27 16)).now)) ∧
  (∀ (s : State) (n : Fin 16),
    s.unitOn domPi = true → s.piEn n = true → s.flag (Reg.PI_STAT n) 2 = false →
    exec (.standstill n) s = .next (((((s.advanceTo ((s.pos n).lastCount + 4000 * s.fld (Reg.PI_SPDCFG n) 31 16)).setPos n
      { (s.advanceTo ((s.pos n).lastCount + 4000 * s.fld (Reg.PI_SPDCFG n) 31 16)).pos n with stamps := [] }).setFlag
        (Reg.PI_STAT n) 2 true).setReg (Reg.PI_SPDPER n) 0xFFFFFFFF).piEvent n 6)) ∧
  (∀ (s : State) (n : Fin 16) (v : BitVec 32),
    s.unitOn domPi = true → (s.piEn n = true → s.piMode n ≠ 2 → v.toNat < s.piMod n) →
    (∃ u, exec (.posWrite n false v) s = .next u ∧ u.reg (Reg.PI_POS n) = v)) ∧
  (∀ (s : State) (n : Fin 16) (v : BitVec 32),
    s.unitOn domPi = true →
    (∃ u, exec (.posWrite n true v) s = .next u ∧
      u.reg (Reg.PI_REV n) = (s.store (Reg.PI_REV n) (Reg.PI_CFGCHK n) false v).reg (Reg.PI_REV n))) ∧
  (∀ (s : State) (n : Fin 16) (v : BitVec 32),
    s.unitOn domPi = true → s.flag (Reg.PI_CTRL n) 0 = false →
    (s.store (Reg.PI_CTRL n) (Reg.PI_CFGCHK n) false (withField (withField v 0 0 1) 0 0 0)).piFails n = [] →
    (∃ u, exec (.interfaceEnable n v) s = .next u ∧ u.flag (Reg.PI_CTRL n) 0 = true ∧
      u.reg (Reg.PI_SPDPER n) = 0xFFFFFFFF ∧ u.flag (Reg.PI_STAT n) 2 = true ∧ u.flag (Reg.PI_STAT n) 0 = false)) ∧
  (∀ (s : State) (n : Fin 16) (data : BitVec 48) (crc : BitVec 8) (t0 : Nat),
    s.unitOn domPi = true → s.piEn n = true → (s.pos n).ssiT0 = some t0 → (s.pos n).ssiDone = false →
    s.fld (Reg.PI_SSICFG n) 19 16 = 0 → s.flag (Reg.PI_SSICFG n) 15 = false →
    (∃ u, exec (.ssiFrameRecord n data crc) s = .next (State.piEvent u n 5) ∧
      u.reg (Reg.PI_POS n) = BitVec.ofNat 32 (data.toNat % 2 ^ s.fld (Reg.PI_SSICFG n) 5 0 % 2 ^ s.fld (Reg.PI_SSICFG n) 13 8))) ∧
  (∀ (s : State) (n : Fin 16) (e t0 : Nat),
    s.unitOn domPi = true → s.piEn n = true → s.flag (Reg.PI_STAT n) 3 = true → (s.pos n).ssiT0 = some t0 → s.ssiLast n t0 < e →
    exec (.ssiRelease n e) s =
      .next ((s.advanceTo (e + s.fld (Reg.PI_SSITIME n) 15 0)).setFlag (Reg.PI_STAT n) 3 false)) ∧
  (∀ (s : State) (n : Fin 16) (t0 : Nat),
    s.unitOn domPi = true → s.piEn n = true → s.flag (Reg.PI_STAT n) 3 = true → (s.pos n).ssiT0 = some t0 →
    (s.pos n).ssiLate = false →
    exec (.ssiTimeout n) s = .next (((s.advanceTo (s.ssiLast n t0 + s.fld (Reg.PI_SSITIME n) 31 16)).setPos n
      { (s.advanceTo (s.ssiLast n t0 + s.fld (Reg.PI_SSITIME n) 31 16)).pos n with ssiLate := true }).setFlag
        (Reg.PI_STAT n) 12 true)) ∧
  (∀ (s : State) (n : Fin 16) (v : BitVec 32),
    s.unitOn domPi = true → s.ownerOf (96 + n) = none →
    exec (.emuposWrite n none v) s = .next (s.emuposApply n v)) ∧
  (∀ (s : State) (n : Fin 16) (c : Fin 52) (v : BitVec 32),
    s.unitOn domPi = true → s.filterWrite (96 + n) c = .applied →
    exec (.emuposWrite n (some c) v) s = .next (s.emuposApply n v))

/-- Sorting office, timer and ownership commands complete: in each clause the command, in the state its hypotheses describe,
answers a next state, which the clause gives. The hypotheses are on the state before the command and on its operands.
Commands: SO_ENABLE, EVOUT_PULSE_END, EVIN_RAISE, TIMER_RAISE, TIMER_OUTPUT_PULSE_END, SO_TIMER_ENABLE, SO_RAISE,
ROUTING_ENTRY_WRITE, OWNERSHIP_SWITCH, OWNERSHIP_ENTRY_WRITE, SO_MIGGO, EVENT_DELIVERY, FABRIC_WRITE_LANDING. -/
def Obligations.SortingOfficeCommandsComplete : Prop :=
  (∀ (s : State) (v : BitVec 32),
    s.unitOn domSo = true → s.flag Reg.SO_CTRL 0 = false → bitOf v 0 = true →
    exec (.soEnable v) s = .next (State.routeClear { s.enabled Reg.SO_CTRL Reg.SO_CFGCHK 0 v with so := { s.so with flights := [] } })) ∧
  (∀ (s : State) (k : Fin 16),
    mapGet 0 s.so.evout k ≠ 0 →
    exec (.evoutPulseEnd k) s = .next { s.advanceTo (mapGet 0 s.so.evout k) with
      so := { (s.advanceTo (mapGet 0 s.so.evout k)).so with
        evout := mapErase (s.advanceTo (mapGet 0 s.so.evout k)).so.evout k } }) ∧
  (∀ (s : State) (k : Fin 32) (e : Nat) (v : BitVec 32) (src : Fin 2048) (w : Fin 3),
    s.unitOn domSo = true →
    exec (.evinRaise k e) s = .next ((s.advanceTo (e + 2)).raiseNow (0x6B0 + k)) ∧
    exec (.soRaise v) s = .next (s.soRaiseWrite v) ∧
    (∃ u, exec (.routingEntryWrite src w v) s = .next u ∧
      u.reg (Reg.SO_RT_DA src + 4 * w) = (s.store (Reg.SO_RT_DA src + 4 * w) Reg.SO_CFGCHK false v).reg (Reg.SO_RT_DA src + 4 * w) ∧
      (w = 2 → u.fld (Reg.SO_RT_STAT src) 15 8 = 0)) ∧
    exec (.soMiggo v) s = .next s.miggoWrite) ∧
  (∀ (s : State) (k : Fin 16),
    s.unitOn domSo = true → s.flag (Reg.SO_TMR_PER k) 31 = true → s.fld (Reg.SO_TMR_PER k) 23 0 ≠ 0 →
    (∃ u e, exec (.timerRaise k) s = .next (State.raiseNow u (0x6D0 + k)) ∧
      e = nextTimerEdge (s.fld (Reg.SO_TMR_PER k) 23 0) (s.fld (Reg.SO_TMR_PH k) 23 0) (mapGet 0 s.so.tmrFrom k) ∧
      mapGet 0 u.so.tmrOut k = e + 8)) ∧
  (∀ (s : State) (k : Fin 16),
    mapGet 0 s.so.tmrOut k ≠ 0 →
    exec (.timerOutputPulseEnd k) s = .next { s.advanceTo (mapGet 0 s.so.tmrOut k) with
      so := { (s.advanceTo (mapGet 0 s.so.tmrOut k)).so with
        tmrOut := mapErase (s.advanceTo (mapGet 0 s.so.tmrOut k)).so.tmrOut k } }) ∧
  (∀ (s : State) (k : Fin 16) (v : BitVec 32),
    s.unitOn domSo = true → s.flag (Reg.SO_TMR_PER k) 31 = false →
    2 ≤ (s.store (Reg.SO_TMR_PER k) Reg.SO_CFGCHK false (withField (withField v 31 31 1) 31 31 0)).fld (Reg.SO_TMR_PER k) 23 0 →
    s.fld (Reg.SO_TMR_PH k) 23 0 < (s.store (Reg.SO_TMR_PER k) Reg.SO_CFGCHK false (withField (withField v 31 31 1) 31 31 0)).fld (Reg.SO_TMR_PER k) 23 0 →
    (∃ u, exec (.soTimerEnable k v) s = .next u ∧ u.flag (Reg.SO_TMR_PER k) 31 = true ∧ mapGet 0 u.so.tmrFrom k = s.now)) ∧
  (∀ (s : State) (e : Nat),
    s.nextSwitch = some e →
    exec .ownershipSwitch s = .next ((s.advanceTo e).switchDue e)) ∧
  (∀ (s : State) (i : Fin 112) (v : BitVec 32),
    s.unitOn domSo = true → s.nextSwitch = none → s.flag (Reg.SO_OWN i) 31 = false → bitOf v 31 = true →
    s.ownFails i (s.reg (Reg.SO_OWN i)) (withField (withField (withField (withField (s.reg (Reg.SO_OWN i)) 31 31 1) 30 24 (fieldOf v 30 24)) 23 18 (fieldOf v 23 18)) 17 12 (fieldOf v 17 12)) = [] →
    exec (.ownershipEntryWrite i v) s = .next ((s.setReg (Reg.SO_OWN i) (withField (withField (withField (withField
      (s.reg (Reg.SO_OWN i)) 31 31 1) 30 24 (fieldOf v 30 24)) 23 18 (fieldOf v 23 18)) 17 12 (fieldOf v 17 12))).cfgOk
        Reg.SO_CFGCHK)) ∧
  (∀ (s : State) (l : List (Fin 16)) (t : Nat),
    s.unitOn domSo = true → s.flag Reg.SO_CTRL 0 = true → s.nextDelivery = some t →
    exec (.eventDelivery l) s = .next (State.deliverAll { s.advanceTo t with so := { (s.advanceTo t).so with
      flights := (s.advanceTo t).so.flights.filter fun f => f.due != t } } l
        ((s.advanceTo t).so.flights.filter fun f => f.due == t))) ∧
  (∀ (s : State) (t : Nat) (u : State) (all : List (Nat × PortWrite)),
    s.clk.run = true → s.nextLanding = some t → u = (s.advanceTo t).settleSwitch →
    (all = (List.range 52).flatMap fun c => ((u.cell c).writes.filter fun w => w.due == t).map fun w => (c, w)) →
    exec .fabricWriteLanding s = .next (all.foldl (fun u x => u.portLand all x.1 x.2) ((List.range 52).foldl (fun u c =>
      u.setCell c { u.cell c with writes := (u.cell c).writes.filter fun w => w.due != t }) u)))

/-- Loop cell control commands complete: in each clause the command, in the state its hypotheses describe, answers a next state,
which the clause gives. The hypotheses are on the state before the command and on its operands. Commands: CELL_ENABLE,
CELL_DISABLE, CELL_COPY_DONE, RESTART_HANDLER_START, HANDLER_START, HANDLER_END, HANDLER_BUDGET_FAULT,
RECOVERY_MEMORY_COMPARE_DONE, CELL_WINDOW_WRITE, CELL_RESTART_COMMAND, CELL_ROLE_SET. -/
def Obligations.CellControlCommandsComplete : Prop :=
  (∀ (s : State) (n : Fin 52) (v : BitVec 32) (w : Word),
    s.unitOn (domCell n) = true → s.follows n = false → s.flag (Reg.LC_CTRL n) 0 = false →
    (w = if n.val % 2 = 1 then withField (withField v 0 0 1) 1 1 0 else withField v 0 0 1) →
    (s.store (Reg.LC_CTRL n) (Reg.LC_CFGCHK n) false (withField w 0 0 0)).lcFails n = [] →
    exec (.cellEnable n v) s = .next ((s.enabled (Reg.LC_CTRL n) (Reg.LC_CFGCHK n) 0 w).lcUp n)) ∧
  (∀ (s : State) (n : Fin 52) (v : BitVec 32) (w : Word),
    s.unitOn (domCell n) = true → s.follows n = false → s.flag (Reg.LC_CTRL n) 0 = true →
    (w = if n.val % 2 = 1 then withField (withField v 0 0 0) 1 1 0 else withField v 0 0 0) →
    exec (.cellDisable n v) s = .next ((s.store (Reg.LC_CTRL n) (Reg.LC_CFGCHK n) true w).lcDown n)) ∧
  (∀ (s : State) (n : Fin 52) (t : Nat),
    s.unitOn (domCell n) = true → (s.cell n).copyAt = some t →
    exec (.cellCopyDone n) s = .next ((State.setCellState (((s.advanceTo t).lcCopy (lcProg n 0) (lcProg (n + 1) 0)).lcCopy
      (lcData n 0) (lcData (n + 1) 0)) n 2).lcStartRestart n)) ∧
  (∀ (s : State) (n : Fin 52) (t : Nat),
    s.unitOn (domCell n) = true → (s.cell n).startAt = some t →
    (∃ u, exec (.restartHandlerStart n) s = .next u ∧ u.cellState n = 2 ∧
      (u.cell n).handler = some ⟨none, (s.advanceTo t).now, s.fld (Reg.LC_RESTART n) 27 16, 0, 0⟩ ∧
      (u.cell n).pc = s.fld (Reg.LC_RESTART n) 10 0)) ∧
  (∀ (s : State) (n : Fin 52) (w : Waiting) (q : List Waiting),
    s.unitOn (domCell n) = true → s.cellState n = 3 → (s.cell n).queue = w :: q →
    (∃ u, exec (.handlerStart n) s = .next u ∧ u.cellState n = 4 ∧ (u.cell n).pc = s.fld (Reg.LC_VEC n w.vec) 10 0 ∧
      (u.cell n).queue = q ∧ (u.cell n).handler = some ⟨some w.vec, max w.at' (s.cell n).idleFrom,
        s.fld (Reg.LC_VEC n w.vec) 30 19, w.at', q.length⟩)) ∧
  (∀ (s : State) (n : Fin 52) (t : Nat),
    s.unitOn (domCell n) = true → (s.cell n).ending = some t →
    (s.paired n = true → nsetHas s.mismCell n = false ∧ (s.cell n).split = false) →
    (∃ u, exec (.handlerEnd n) s = .next (if s.cellState n = 5 then State.holdReset u n else u) ∧ u.cellState n = 3 ∧ (u.cell n).handler = none ∧ (u.cell n).ending = none ∧
      (u.cell n).idleFrom = t)) ∧
  (∀ (s : State) (n : Fin 52) (d : Handler),
    s.unitOn (domCell n) = true → (s.cell n).handler = some d → (∀ t, (s.cell n).ending = some t → d.start + d.budget < t) →
    exec (.handlerBudgetFault n) s = .next ((s.advanceTo (d.start + d.budget)).cellFaultAt n 2)) ∧
  (∀ (s : State) (n : Fin 52) (t : Nat) (p : State × Bool),
    s.unitOn (domCell n) = true → (s.cell n).compareAt = some t →
    (p = (List.range 2048).foldl (fun (p : State × Bool) i =>
        let (s, x) := p.1.lcCompareWord (lcProg n i) (lcProg (n + 1) i)
        let (s, y) := s.lcCompareWord (lcData n i) (lcData (n + 1) i)
        (s, p.2 || x || y)) (s.advanceTo t, false)) →
    exec (.recoveryMemoryCompareDone n) s = .next (if p.2 then p.1.lcStop n else p.1.lcStartRestart n)) ∧
  (∀ (s : State) (n : Fin 52) (i : Fin 2048) (v : BitVec 32),
    s.unitOn (domCell n) = true →
    (∃ u, exec (.cellWindowWrite n true i v) s = .next u ∧ u.word (lcData n i) = v)) ∧
  (∀ (s : State) (n : Fin 52) (i : Fin 2048) (v : BitVec 32),
    s.unitOn (domCell n) = true → s.flag (Reg.LC_CTRL n) 0 = false → s.follows n = false →
    exec (.cellWindowWrite n false i v) s = .next (s.setWord (lcProg n i) v)) ∧
  (∀ (s : State) (n : Fin 52),
    s.unitOn (domCell n) = true → s.follows n = false → (s.cellState n = 2 ∨ s.cellState n = 3 ∨ s.cellState n = 4) →
    s.cellFault n = false →
    exec (.cellRestartCommand n) s = .next ((s.noteRun n).lcRestart n false)) ∧
  (∀ (s : State) (n : Fin 52) (r : BitVec 2),
    r ≠ 3 →
    exec (.cellRoleSet n r) s = .next (s.setFld (Reg.LC_STAT n) 25 24 r.toNat).sparesSync) ∧
  (∀ (s : State) (n : Fin 52),
    (∃ u, exec (.cellRoleSet n 3) s = .next (State.sparesSync (State.repairCommit u)) ∧ nsetHas u.repairs.cells n = true ∧
      u.fld (Reg.LC_STAT n) 25 24 = 3))

/-- Loop cell integer instructions complete with their result: in each clause the command, in the state its hypotheses describe,
answers a next state, which the clause gives. The hypotheses name the running cell and its issue edge (LcReady) and the
operands. Commands: LC_ADD, LC_SUB, LC_AND, LC_OR, LC_XOR, LC_ANDN, LC_SLL, LC_SRL, LC_SRA, LC_SLT, LC_SLTU, LC_MIN, LC_MAX,
LC_MUL, LC_MULH, LC_SEL, LC_CLZ, LC_ADDI, LC_ANDI, LC_ORI, LC_XORI, LC_SLLI, LC_SRLI, LC_SRAI, LC_LI, LC_LUI. -/
def Obligations.CellIntegerInstructionsComplete : Prop :=
  (∀ (s : State) (t : Nat) (c : Fin 52) (e : Bool) (d a b : Fin 32),
    s.LcReady c [a, b, d] false t 1 →
    exec (.lcAdd c e d a b) s = .next (s.lcDone c t 1 1 e fun k => { regs := [(d, (s.lcV k a) + (s.lcV k b))] }) ∧
    exec (.lcSub c e d a b) s = .next (s.lcDone c t 1 1 e fun k => { regs := [(d, (s.lcV k a) - (s.lcV k b))] }) ∧
    exec (.lcAnd c e d a b) s = .next (s.lcDone c t 1 1 e fun k => { regs := [(d, (s.lcV k a) &&& (s.lcV k b))] }) ∧
    exec (.lcOr c e d a b) s = .next (s.lcDone c t 1 1 e fun k => { regs := [(d, (s.lcV k a) ||| (s.lcV k b))] }) ∧
    exec (.lcXor c e d a b) s = .next (s.lcDone c t 1 1 e fun k => { regs := [(d, (s.lcV k a) ^^^ (s.lcV k b))] }) ∧
    exec (.lcAndn c e d a b) s = .next (s.lcDone c t 1 1 e fun k => { regs := [(d, (s.lcV k a) &&& ~~~(s.lcV k b))] }) ∧
    exec (.lcSll c e d a b) s = .next (s.lcDone c t 1 1 e fun k => { regs := [(d, (s.lcV k a) <<< ((s.lcV k b).toNat % 32))] }) ∧
    exec (.lcSrl c e d a b) s = .next (s.lcDone c t 1 1 e fun k => { regs := [(d, (s.lcV k a) >>> ((s.lcV k b).toNat % 32))] }) ∧
    exec (.lcSra c e d a b) s = .next (s.lcDone c t 1 1 e fun k => { regs := [(d, (s.lcV k a).sshiftRight ((s.lcV k b).toNat % 32))] }) ∧
    exec (.lcSlt c e d a b) s = .next (s.lcDone c t 1 1 e fun k => { regs := [(d, if sv (s.lcV k a) < sv (s.lcV k b) then 1 else 0)] }) ∧
    exec (.lcSltu c e d a b) s = .next (s.lcDone c t 1 1 e fun k => { regs := [(d, if (s.lcV k a).toNat < (s.lcV k b).toNat then 1 else 0)] }) ∧
    exec (.lcMin c e d a b) s = .next (s.lcDone c t 1 1 e fun k => { regs := [(d, if sv (s.lcV k b) < sv (s.lcV k a) then (s.lcV k b) else (s.lcV k a))] }) ∧
    exec (.lcMax c e d a b) s = .next (s.lcDone c t 1 1 e fun k => { regs := [(d, if sv (s.lcV k a) < sv (s.lcV k b) then (s.lcV k b) else (s.lcV k a))] }) ∧
    exec (.lcMul c e d a b) s = .next (s.lcDone c t 1 1 e fun k => { regs := [(d, (s.lcV k a) * (s.lcV k b))] }) ∧
    exec (.lcMulh c e d a b) s = .next (s.lcDone c t 1 1 e fun k => { regs := [(d, Word.ofInt (sra (sv (s.lcV k a) * sv (s.lcV k b)) 32))] })) ∧
  (∀ (s : State) (t : Nat) (c : Fin 52) (e : Bool) (d a b x : Fin 32),
    s.LcReady c [a, b, x, d] false t 1 →
    exec (.lcSel c e d a b x) s = .next (s.lcDone c t 1 1 e fun k => { regs := [(d, if (s.lcV k x) = 0 then (s.lcV k b) else (s.lcV k a))] })) ∧
  (∀ (s : State) (t : Nat) (c : Fin 52) (e : Bool) (d a : Fin 32) (imm : BitVec 16),
    s.LcReady c [a, d] false t 1 →
    exec (.lcClz c e d a) s = .next (s.lcDone c t 1 1 e fun k => { regs := [(d, BitVec.ofNat 32 (32 - bitLen (s.lcV k a).toNat))] }) ∧
    exec (.lcAddi c e d a imm) s = .next (s.lcDone c t 1 1 e fun k => { regs := [(d, (s.lcV k a) + imm.signExtend 32)] }) ∧
    exec (.lcAndi c e d a imm) s = .next (s.lcDone c t 1 1 e fun k => { regs := [(d, (s.lcV k a) &&& imm.zeroExtend 32)] }) ∧
    exec (.lcOri c e d a imm) s = .next (s.lcDone c t 1 1 e fun k => { regs := [(d, (s.lcV k a) ||| imm.zeroExtend 32)] }) ∧
    exec (.lcXori c e d a imm) s = .next (s.lcDone c t 1 1 e fun k => { regs := [(d, (s.lcV k a) ^^^ imm.zeroExtend 32)] })) ∧
  (∀ (s : State) (t : Nat) (c : Fin 52) (e : Bool) (d a : Fin 32) (imm : BitVec 16),
    s.LcReady c [a, d] false t 1 → imm.toNat < 32 →
    exec (.lcSlli c e d a imm) s = .next (s.lcDone c t 1 1 e fun k => { regs := [(d, (s.lcV k a) <<< imm.toNat)] }) ∧
    exec (.lcSrli c e d a imm) s = .next (s.lcDone c t 1 1 e fun k => { regs := [(d, (s.lcV k a) >>> imm.toNat)] }) ∧
    exec (.lcSrai c e d a imm) s = .next (s.lcDone c t 1 1 e fun k => { regs := [(d, (s.lcV k a).sshiftRight imm.toNat)] })) ∧
  (∀ (s : State) (t : Nat) (c : Fin 52) (e : Bool) (d : Fin 32) (imm : BitVec 16),
    s.LcReady c [d] false t 1 →
    exec (.lcLi c e d imm) s = .next (s.lcDone c t 1 1 e fun _ => { regs := [(d, imm.signExtend 32)] }) ∧
    exec (.lcLui c e d imm) s = .next (s.lcDone c t 1 1 e fun _ => { regs := [(d, imm.zeroExtend 32 <<< 16)] }))

/-- Loop cell fixed-point and FP32 instructions complete with their result: in each clause the command, in the state its
hypotheses describe, answers a next state, which the clause gives. The hypotheses name the running cell and its issue edge
(LcReady) and the operands. Commands: LC_ADD_S, LC_SUB_S, LC_NEG_S, LC_ABS_S, LC_MULQ, LC_MADQ, LC_MULQ15, LC_MADQ15, LC_CLMP,
LC_SHLS, LC_RNDQ15, LC_FADD, LC_FSUB, LC_FMUL, LC_FMAD, LC_FMIN, LC_FMAX, LC_FABS, LC_FNEG, LC_FCVT_QF, LC_FCVT_FQ,
LC_FCVT_IF, LC_FCVT_FI, LC_FLT. -/
def Obligations.CellDspAndFloatInstructionsComplete : Prop :=
  (∀ (s : State) (t : Nat) (c : Fin 52) (e : Bool) (d a b : Fin 32),
    s.LcReady c [a, b, d] false t 1 →
    exec (.lcAddS c e d a b) s = .next (s.lcDone c t 1 1 e fun k => { regs := [(d, sat32 (sv (s.lcV k a) + sv (s.lcV k b)))] }) ∧
    exec (.lcSubS c e d a b) s = .next (s.lcDone c t 1 1 e fun k => { regs := [(d, sat32 (sv (s.lcV k a) - sv (s.lcV k b)))] }) ∧
    exec (.lcMulq c e d a b) s = .next (s.lcDone c t 1 1 e fun k => { regs := [(d, sat32 (sra (sv (s.lcV k a) * sv (s.lcV k b)) 31))] }) ∧
    exec (.lcMulq15 c e d a b) s = .next (s.lcDone c t 1 1 e fun k => { regs := [(d, sat16 (sra (low16 (s.lcV k a) * low16 (s.lcV k b)) 15))] }) ∧
    exec (.lcClmp c e d a b) s = .next (s.lcDone c t 1 1 e fun k => { regs := [(d, Word.ofInt (min (max (sv (s.lcV k a)) (-sv (s.lcV k b))) (sv (s.lcV k b))))] }) ∧
    exec (.lcShls c e d a b) s = .next (s.lcDone c t 1 1 e fun k => { regs := [(d, sat32 (sv (s.lcV k a) * (2 ^ ((s.lcV k b).toNat % 32) : Nat)))] }) ∧
    exec (.lcFadd c e d a b) s = .next (s.lcDone c t 1 1 e fun k => { regs := [(d, fpAdd (s.lcV k a) (s.lcV k b))] }) ∧
    exec (.lcFsub c e d a b) s = .next (s.lcDone c t 1 1 e fun k => { regs := [(d, fpSub (s.lcV k a) (s.lcV k b))] }) ∧
    exec (.lcFmul c e d a b) s = .next (s.lcDone c t 1 1 e fun k => { regs := [(d, fpMul (s.lcV k a) (s.lcV k b))] }) ∧
    exec (.lcFmin c e d a b) s = .next (s.lcDone c t 1 1 e fun k => { regs := [(d, fpMin (s.lcV k a) (s.lcV k b))] }) ∧
    exec (.lcFmax c e d a b) s = .next (s.lcDone c t 1 1 e fun k => { regs := [(d, fpMax (s.lcV k a) (s.lcV k b))] }) ∧
    exec (.lcFlt c e d a b) s = .next (s.lcDone c t 1 1 e fun k => { regs := [(d, if fpLt (s.lcV k a) (s.lcV k b) then 1 else 0)] })) ∧
  (∀ (s : State) (t : Nat) (c : Fin 52) (e : Bool) (d a : Fin 32),
    s.LcReady c [a, d] false t 1 →
    exec (.lcNegS c e d a) s = .next (s.lcDone c t 1 1 e fun k => { regs := [(d, sat32 (-sv (s.lcV k a)))] }) ∧
    exec (.lcAbsS c e d a) s = .next (s.lcDone c t 1 1 e fun k => { regs := [(d, sat32 (sv (s.lcV k a)).natAbs)] }) ∧
    exec (.lcRndq15 c e d a) s = .next (s.lcDone c t 1 1 e fun k => { regs := [(d, sat16 (sra (sv (s.lcV k a) + 32768) 16))] }) ∧
    exec (.lcFabs c e d a) s = .next (s.lcDone c t 1 1 e fun k => { regs := [(d, fpAbs (s.lcV k a))] }) ∧
    exec (.lcFneg c e d a) s = .next (s.lcDone c t 1 1 e fun k => { regs := [(d, fpNeg (s.lcV k a))] }) ∧
    exec (.lcFcvtQf c e d a) s = .next (s.lcDone c t 1 1 e fun k => { regs := [(d, fcvtQF (s.lcV k a))] }) ∧
    exec (.lcFcvtFq c e d a) s = .next (s.lcDone c t 1 1 e fun k => { regs := [(d, fcvtFQ (s.lcV k a))] }) ∧
    exec (.lcFcvtIf c e d a) s = .next (s.lcDone c t 1 1 e fun k => { regs := [(d, fcvtIF (s.lcV k a))] }) ∧
    exec (.lcFcvtFi c e d a) s = .next (s.lcDone c t 1 1 e fun k => { regs := [(d, fcvtFI (s.lcV k a))] })) ∧
  (∀ (s : State) (t : Nat) (c : Fin 52) (e : Bool) (d a b x : Fin 32),
    s.LcReady c [a, b, x, d] false t 1 →
    exec (.lcMadq c e d a b x) s = .next (s.lcDone c t 1 1 e fun k => { regs := [(d, sat32 (sv (s.lcV k x) + sra (sv (s.lcV k a) * sv (s.lcV k b)) 31))] }) ∧
    exec (.lcMadq15 c e d a b x) s = .next (s.lcDone c t 1 1 e fun k => { regs := [(d, sat16 (low16 (s.lcV k x) + sra (low16 (s.lcV k a) * low16 (s.lcV k b)) 15))] }) ∧
    exec (.lcFmad c e d a b x) s = .next (s.lcDone c t 1 1 e fun k => { regs := [(d, fpMad (s.lcV k a) (s.lcV k b) (s.lcV k x))] }))

/-- Loop cell accumulator and transform instructions complete with their result: in each clause the command, in the state its
hypotheses describe, answers a next state, which the clause gives. The hypotheses name the running cell and its issue edge
(LcReady) and the operands. Commands: LC_MACA, LC_MSUA, LC_ACLR, LC_ALD, LC_ARD, LC_ARD15, LC_CLARKE, LC_PARK, LC_IPARK,
LC_SVM. -/
def Obligations.CellAccumulatorAndTransformInstructionsComplete : Prop :=
  (∀ (s : State) (t : Nat) (c : Fin 52) (e x : Bool) (a b : Fin 32),
    s.LcReady c [a, b] false t 1 →
    exec (.lcMaca c e x a b) s = .next (s.lcDone c t 1 1 e fun k => { acc := some (x, satAcc (s.lcAcc k x + sv (s.lcV k a) * sv (s.lcV k b))) }) ∧
    exec (.lcMsua c e x a b) s = .next (s.lcDone c t 1 1 e fun k => { acc := some (x, satAcc (s.lcAcc k x - sv (s.lcV k a) * sv (s.lcV k b))) })) ∧
  (∀ (s : State) (t : Nat) (c : Fin 52) (e x : Bool),
    s.LcReady c [] false t 1 →
    exec (.lcAclr c e x) s = .next (s.lcDone c t 1 1 e fun _ => { acc := some (x, 0) })) ∧
  (∀ (s : State) (t : Nat) (c : Fin 52) (e x : Bool) (a : Fin 32),
    s.LcReady c [a] false t 1 →
    exec (.lcAld c e x a) s = .next (s.lcDone c t 1 1 e fun k => { acc := some (x, BitVec.ofInt 80 (2 ^ 31 * sv (s.lcV k a))) })) ∧
  (∀ (s : State) (t : Nat) (c : Fin 52) (e x : Bool) (d : Fin 32),
    s.LcReady c [d] false t 1 →
    exec (.lcArd c e x d) s = .next (s.lcDone c t 1 1 e fun k => { regs := [(d, sat32 (sra (s.lcAcc k x + 2 ^ 30) 31))] }) ∧
    exec (.lcArd15 c e x d) s = .next (s.lcDone c t 1 1 e fun k => { regs := [(d, sat32 (sra (s.lcAcc k x + 2 ^ 14) 15))] })) ∧
  (∀ (s : State) (t : Nat) (c : Fin 52) (e : Bool) (d a b : Fin 32),
    s.LcReady c [a, b, d, d + 1] false t 1 → d.val % 2 = 0 →
    exec (.lcClarke c e d a b) s = .next (s.lcDone c t 1 1 e fun k => { regs := [(d, s.lcV k a), (d + 1, clarkeB (s.lcV k a) (s.lcV k b))] })) ∧
  (∀ (s : State) (t : Nat) (c : Fin 52) (e : Bool) (d a b : Fin 32),
    s.LcReady c [a, a + 1, b, d, d + 1] false t 2 → d.val % 2 = 0 → a.val % 2 = 0 →
    exec (.lcPark c e d a b) s = .next (s.lcDone c t 2 2 e fun k => { regs := [(d, (parkPair (s.lcV k a) (s.lcV k (a + 1)) (s.lcV k b)).1), (d + 1, (parkPair (s.lcV k a) (s.lcV k (a + 1)) (s.lcV k b)).2)] }) ∧
    exec (.lcIpark c e d a b) s = .next (s.lcDone c t 2 2 e fun k => { regs := [(d, (iparkPair (s.lcV k a) (s.lcV k (a + 1)) (s.lcV k b)).1), (d + 1, (iparkPair (s.lcV k a) (s.lcV k (a + 1)) (s.lcV k b)).2)] })) ∧
  (∀ (s : State) (t : Nat) (c : Fin 52) (e : Bool) (d a : Fin 32),
    s.LcReady c [a, a + 1, d, d + 1, d + 2, d + 3] false t 3 → d.val % 4 = 0 → a.val % 2 = 0 →
    exec (.lcSvm c e d a) s = .next (s.lcDone c t 3 3 e fun k => { regs := [(d, (svmOf (s.lcV k a) (s.lcV k (a + 1))).1), (d + 1, (svmOf (s.lcV k a) (s.lcV k (a + 1))).2.1), (d + 2, (svmOf (s.lcV k a) (s.lcV k (a + 1))).2.2.1),
      (d + 3, (svmOf (s.lcV k a) (s.lcV k (a + 1))).2.2.2)] }))

/-- Loop cell load, store, port and map-store instructions complete: in each clause the command, in the state its hypotheses
describe, answers a next state, which the clause gives. The hypotheses name the running cell and its issue edge (LcReady) and
the operands. Commands: LC_LD, LC_LD_D, LC_ST, LC_ST_D, LC_PRD, LC_PRD_D, LC_PWR, LC_PWR_D, LC_MS_LD, LC_MS_LERP, LC_MS_BLERP. -/
def Obligations.CellLoadStorePortInstructionsComplete : Prop :=
  (∀ (s : State) (t : Nat) (c : Fin 52) (e : Bool) (d a : Fin 32) (imm : BitVec 16),
    s.LcReady c [a, d] false t 1 →
    (s.LcFine c fun k => { (s.lcLoad k (s.lcAddr k a imm) 4).1 with regs := [(d, (s.lcLoad k (s.lcAddr k a imm) 4).2)] }) →
    exec (.lcLd c e d a imm) s = .next (s.lcDone c t 1 1 e fun k => { (s.lcLoad k (s.lcAddr k a imm) 4).1 with regs := [(d, (s.lcLoad k (s.lcAddr k a imm) 4).2)] })) ∧
  (∀ (s : State) (t : Nat) (c : Fin 52) (e : Bool) (d a : Fin 32) (imm : BitVec 16),
    s.LcReady c [a, d, d + 1] false t 1 → d.val % 2 = 0 → (∀ k ∈ s.lcBoth c, s.lcAddr k a imm % 8 = 0) →
    (s.LcFine c fun k => { regs := [(d, (s.lcLoad k (s.lcAddr k a imm) 4).2), (d + 1, (s.lcLoad k (s.lcAddr k a imm + 4) 4).2)], fault := lowFault (s.lcLoad k (s.lcAddr k a imm) 4).1.fault (s.lcLoad k (s.lcAddr k a imm + 4) 4).1.fault, corrected := (s.lcLoad k (s.lcAddr k a imm) 4).1.corrected + (s.lcLoad k (s.lcAddr k a imm + 4) 4).1.corrected }) →
    exec (.lcLdD c e d a imm) s = .next (s.lcDone c t 1 1 e fun k => { regs := [(d, (s.lcLoad k (s.lcAddr k a imm) 4).2), (d + 1, (s.lcLoad k (s.lcAddr k a imm + 4) 4).2)], fault := lowFault (s.lcLoad k (s.lcAddr k a imm) 4).1.fault (s.lcLoad k (s.lcAddr k a imm + 4) 4).1.fault, corrected := (s.lcLoad k (s.lcAddr k a imm) 4).1.corrected + (s.lcLoad k (s.lcAddr k a imm + 4) 4).1.corrected })) ∧
  (∀ (s : State) (t : Nat) (c : Fin 52) (e : Bool) (d a : Fin 32) (imm : BitVec 16),
    s.LcReady c [a, d] false t 1 → (∀ k ∈ s.lcBoth c, s.lcAddr k a imm % 4 = 0 ∧ s.lcAddr k a imm < 8192) →
    (s.LcFine c fun k => { store := [(s.lcAddr k a imm / 4, s.lcV k d)] }) →
    exec (.lcSt c e d a imm) s = .next (s.lcDone c t 1 1 e fun k => { store := [(s.lcAddr k a imm / 4, s.lcV k d)] })) ∧
  (∀ (s : State) (t : Nat) (c : Fin 52) (e : Bool) (d a : Fin 32) (imm : BitVec 16),
    s.LcReady c [a, d, d + 1] false t 1 → d.val % 2 = 0 →
    (∀ k ∈ s.lcBoth c, s.lcAddr k a imm % 8 = 0 ∧ s.lcAddr k a imm < 8192) →
    (s.LcFine c fun k => { store := [(s.lcAddr k a imm / 4, s.lcV k d), (s.lcAddr k a imm / 4 + 1, s.lcV k (d + 1))] }) →
    exec (.lcStD c e d a imm) s = .next (s.lcDone c t 1 1 e fun k => { store := [(s.lcAddr k a imm / 4, s.lcV k d), (s.lcAddr k a imm / 4 + 1, s.lcV k (d + 1))] })) ∧
  (∀ (s : State) (t : Nat) (c : Fin 52) (e : Bool) (d a : Fin 32) (x : Bool) (port : BitVec 12),
    s.LcReady c ((if x then [a.val] else []) ++ [d.val]) false t 1 →
    exec (.lcPrd c e d a x port) s = .next (s.lcDone c t 1 2 e fun k => { regs := [(d, (s.lcStart c t).portRead (s.lcSelf k) (s.lcPort k a x port))] })) ∧
  (∀ (s : State) (t : Nat) (c : Fin 52) (e : Bool) (d a : Fin 32) (x : Bool) (port : BitVec 12),
    s.LcReady c ((if x then [a.val] else []) ++ [d.val, d.val + 1]) false t 1 → d.val % 2 = 0 →
    (∀ k ∈ s.lcBoth c, (s.lcPort k a x port) % 2 = 0) →
    exec (.lcPrdD c e d a x port) s = .next (s.lcDone c t 1 2 e fun k => { regs := [(d, (s.lcStart c t).portRead (s.lcSelf k) (s.lcPort k a x port)),
      (d + 1, (s.lcStart c t).portRead (s.lcSelf k) ((s.lcPort k a x port) + 1))] })) ∧
  (∀ (s : State) (t : Nat) (c : Fin 52) (e : Bool) (d a : Fin 32) (x : Bool) (port : BitVec 12),
    s.LcReady c (d.val :: (if x then [a.val] else []) ++ []) false t 1 →
    (s.LcFine c fun k => { port := [((s.lcPort k a x port), s.lcV k d)] }) →
    exec (.lcPwr c e d a x port) s = .next (s.lcDone c t 1 1 e fun k => { port := [((s.lcPort k a x port), s.lcV k d)] })) ∧
  (∀ (s : State) (t : Nat) (c : Fin 52) (e : Bool) (d a : Fin 32) (x : Bool) (port : BitVec 12),
    s.LcReady c (d.val :: (d.val + 1) :: (if x then [a.val] else []) ++ []) false t 1 → d.val % 2 = 0 →
    (∀ k ∈ s.lcBoth c, (s.lcPort k a x port) % 2 = 0) →
    (s.LcFine c fun k => { port := [((s.lcPort k a x port), s.lcV k d), ((s.lcPort k a x port) + 1, s.lcV k (d + 1))] }) →
    exec (.lcPwrD c e d a x port) s = .next (s.lcDone c t 1 1 e fun k => { port := [((s.lcPort k a x port), s.lcV k d), ((s.lcPort k a x port) + 1, s.lcV k (d + 1))] })) ∧
  (∀ (s : State) (t : Nat) (c : Fin 52) (e : Bool) (d a b : Fin 32) (td : Fin 64),
    s.LcReady c [a, b, d] true t 1 → (s.LcFine c fun k => { ms := some ⟨0, .ld, td, s.lcV k a, s.lcV k b, d⟩ }) →
    exec (.lcMsLd c e d a b td) s = .next (s.lcDone c t 1 6 e fun k => { ms := some ⟨0, .ld, td, s.lcV k a, s.lcV k b, d⟩ })) ∧
  (∀ (s : State) (t : Nat) (c : Fin 52) (e : Bool) (d a : Fin 32) (td : Fin 64),
    s.LcReady c [a, d] true t 1 → (s.LcFine c fun k => { ms := some ⟨0, .lerp, td, s.lcV k a, 0, d⟩ }) →
    exec (.lcMsLerp c e d a td) s = .next (s.lcDone c t 1 6 e fun k => { ms := some ⟨0, .lerp, td, s.lcV k a, 0, d⟩ })) ∧
  (∀ (s : State) (t : Nat) (c : Fin 52) (e : Bool) (d a b : Fin 32) (td : Fin 64),
    s.LcReady c [a, b, d] true t 1 → (s.LcFine c fun k => { ms := some ⟨0, .blerp, td, s.lcV k a, s.lcV k b, d⟩ }) →
    exec (.lcMsBlerp c e d a b td) s = .next (s.lcDone c t 1 6 e fun k => { ms := some ⟨0, .blerp, td, s.lcV k a, s.lcV k b, d⟩ }))

/-- Loop cell branches, jumps, calls and returns complete: in each clause the command, in the state its hypotheses describe,
answers a next state, which the clause gives. The hypotheses name the running cell and its issue edge (LcReady) and the
operands. Commands: LC_BR_EQ, LC_BR_NE, LC_BR_LT, LC_BR_GE, LC_BR_LTU, LC_BR_GEU, LC_DJNZ, LC_BR_ALWAYS, LC_CALL, LC_RET. -/
def Obligations.CellControlFlowInstructionsComplete : Prop :=
  (∀ (s : State) (t : Nat) (c : Fin 52) (a b : Fin 32) (off : BitVec 13),
    s.LcReady c [a, b] false t 1 →
    (s.LcFine c fun k => if (s.lcV k a) == (s.lcV k b) then { target := some ((s.cell c).pc + off.toInt) } else {}) →
    exec (.lcBrEq c false a b off) s = .next (s.lcDone c t 1 1 false fun k => if (s.lcV k a) == (s.lcV k b) then { target := some ((s.cell c).pc + off.toInt) } else {})) ∧
  (∀ (s : State) (t : Nat) (c : Fin 52) (a b : Fin 32) (off : BitVec 13),
    s.LcReady c [a, b] false t 1 →
    (s.LcFine c fun k => if (s.lcV k a) != (s.lcV k b) then { target := some ((s.cell c).pc + off.toInt) } else {}) →
    exec (.lcBrNe c false a b off) s = .next (s.lcDone c t 1 1 false fun k => if (s.lcV k a) != (s.lcV k b) then { target := some ((s.cell c).pc + off.toInt) } else {})) ∧
  (∀ (s : State) (t : Nat) (c : Fin 52) (a b : Fin 32) (off : BitVec 13),
    s.LcReady c [a, b] false t 1 →
    (s.LcFine c fun k => if decide (sv (s.lcV k a) < sv (s.lcV k b)) then { target := some ((s.cell c).pc + off.toInt) } else {}) →
    exec (.lcBrLt c false a b off) s = .next (s.lcDone c t 1 1 false fun k => if decide (sv (s.lcV k a) < sv (s.lcV k b)) then { target := some ((s.cell c).pc + off.toInt) } else {})) ∧
  (∀ (s : State) (t : Nat) (c : Fin 52) (a b : Fin 32) (off : BitVec 13),
    s.LcReady c [a, b] false t 1 →
    (s.LcFine c fun k => if decide (sv (s.lcV k b) ≤ sv (s.lcV k a)) then { target := some ((s.cell c).pc + off.toInt) } else {}) →
    exec (.lcBrGe c false a b off) s = .next (s.lcDone c t 1 1 false fun k => if decide (sv (s.lcV k b) ≤ sv (s.lcV k a)) then { target := some ((s.cell c).pc + off.toInt) } else {})) ∧
  (∀ (s : State) (t : Nat) (c : Fin 52) (a b : Fin 32) (off : BitVec 13),
    s.LcReady c [a, b] false t 1 →
    (s.LcFine c fun k => if decide ((s.lcV k a).toNat < (s.lcV k b).toNat) then { target := some ((s.cell c).pc + off.toInt) } else {}) →
    exec (.lcBrLtu c false a b off) s = .next (s.lcDone c t 1 1 false fun k => if decide ((s.lcV k a).toNat < (s.lcV k b).toNat) then { target := some ((s.cell c).pc + off.toInt) } else {})) ∧
  (∀ (s : State) (t : Nat) (c : Fin 52) (a b : Fin 32) (off : BitVec 13),
    s.LcReady c [a, b] false t 1 →
    (s.LcFine c fun k => if decide ((s.lcV k b).toNat ≤ (s.lcV k a).toNat) then { target := some ((s.cell c).pc + off.toInt) } else {}) →
    exec (.lcBrGeu c false a b off) s = .next (s.lcDone c t 1 1 false fun k => if decide ((s.lcV k b).toNat ≤ (s.lcV k a).toNat) then { target := some ((s.cell c).pc + off.toInt) } else {})) ∧
  (∀ (s : State) (t : Nat) (c : Fin 52) (a : Fin 32) (off : BitVec 13),
    s.LcReady c [a, a] false t 1 →
    (s.LcFine c fun k => { regs := [(a, s.lcV k a - 1)], target := if s.lcV k a - 1 = 0 then none else some ((s.cell c).pc + off.toInt) }) →
    exec (.lcDjnz c false a off) s = .next (s.lcDone c t 1 1 false fun k => { regs := [(a, s.lcV k a - 1)], target := if s.lcV k a - 1 = 0 then none else some ((s.cell c).pc + off.toInt) })) ∧
  (∀ (s : State) (t : Nat) (c : Fin 52) (off : BitVec 13),
    s.LcReady c [] false t 1 → (s.LcFine c fun _ => { target := some ((s.cell c).pc + off.toInt) }) →
    exec (.lcBrAlways c false off) s = .next (s.lcDone c t 1 1 false fun _ => { target := some ((s.cell c).pc + off.toInt) })) ∧
  (∀ (s : State) (t : Nat) (c : Fin 52) (off : BitVec 13),
    s.LcReady c [] false t 1 → (s.cell c).stack.length < 4 →
    (s.LcFine c fun _ => { target := some ((s.cell c).pc + off.toInt), stack := some (((s.cell c).pc + 1) :: (s.cell c).stack) }) →
    exec (.lcCall c false off) s = .next (s.lcDone c t 1 1 false fun _ => { target := some ((s.cell c).pc + off.toInt), stack := some (((s.cell c).pc + 1) :: (s.cell c).stack) })) ∧
  (∀ (s : State) (t : Nat) (c : Fin 52) (r : Nat) (l : List Nat),
    s.LcReady c [] false t 1 → (s.cell c).stack = r :: l → (s.LcFine c fun _ => { target := some (r : Int), stack := some l }) →
    exec (.lcRet c false) s = .next (s.lcDone c t 1 1 false fun _ => { target := some (r : Int), stack := some l }))

/-- Map store commands complete: in each clause the command, in the state its hypotheses describe, answers a next state, which the
clause gives. The hypotheses are on the state before the command and on its operands. Commands: MS_REQUEST_GRANT,
MS_PAGE_WRITEBACK, MAP_STORE_WINDOW_WRITE, MAP_STORE_ENABLE, DESCRIPTOR_WRITE. -/
def Obligations.MapStoreCommandsComplete : Prop :=
  (∀ (s : State) (p : Fin 8) (sv : Bool) (g c : Nat) (q : MsReq),
    s.unitOn domSo = true → s.nextGrant p = some g →
    ((portOrder p (mapGet 52 s.ports.last p)).find? (fun c => if c = 52 then sv else match (s.cell c).ms with | some q => decide (q.issued + 1 ≤ g) | none => false) = some c) →
    (s.cell c).ms = some q →
    (∃ u, exec (.msRequestGrant p sv) s = .next u ∧ (u.cell c).ms = none ∧ mapGet 0 (u.cell c).ready q.vd = g + 5 ∧
      mapGet 0 (u.cell c).v q.vd = (State.msRead { s.advanceTo g with ports := {
        last := mapSet 52 s.ports.last p c, grantAt := mapSet 0 s.ports.grantAt p g } } q c).2)) ∧
  (∀ (s : State) (n page due : Nat) (l : List (Nat × Nat)),
    s.mem.corrections = (page, due) :: l →
    exec (.msPageWriteback n) s = .next ((s.advanceTo (due - n)).msWriteback page)) ∧
  (∀ (s : State) (w : Fin 65536) (v : BitVec 32) (p : Fin 8),
    s.msHalf w = true → s.mem.corrections = [] → s.detects (msAddr w) = false →
    (∃ u, exec (.mapStoreWindowWrite w v p) s = .next u ∧ u.word (msAddr w) = v ∧ u.written (msAddr w) = true)) ∧
  (∀ (s : State) (v : BitVec 32),
    s.unitOn domSo = true → s.flag Reg.MS_CTRL 0 = false → bitOf v 0 = true →
    exec (.mapStoreEnable v) s = .next (s.enabled Reg.MS_CTRL Reg.MS_CFGCHK 0 v)) ∧
  (∀ (s : State) (k : Fin 64) (v : BitVec 32),
    s.unitOn domSo = true → s.flag (Reg.MS_TD_SHAPE k) 31 = false →
    exec (.descriptorWrite k 0 v) s = .next (s.setReg (Reg.MS_TD_BASE k) v)) ∧
  (∀ (s : State) (k : Fin 64) (v : BitVec 32),
    s.unitOn domSo = true → s.flag (Reg.MS_TD_SHAPE k) 31 = false →
    (s.setReg (Reg.MS_TD_SHAPE k) v).tdFails k (bitOf v 30) = [] → bitOf v 31 = true →
    exec (.descriptorWrite k 1 v) s =
      .next (((s.setReg (Reg.MS_TD_SHAPE k) v).cfgOk Reg.MS_CFGCHK).setFld Reg.MS_STAT 21 16 k)) ∧
  (∀ (s : State) (k : Fin 64) (w : Fin 5) (v : BitVec 32),
    2 ≤ w → s.unitOn domSo = true → s.flag (Reg.MS_TD_SHAPE k) 31 = false →
    exec (.descriptorWrite k w v) s = .next (s.store (Reg.MS_TD_BASE k + 4 * w) Reg.MS_CFGCHK false v))

/-- PWM generator commands complete: in each clause the command, in the state its hypotheses describe, answers a next state, which
the clause gives. The hypotheses are on the state before the command and on its operands. Commands: EDGE_INSTANCE,
TRIGGER_INSTANCE, DEAD_TIME_END, PERIOD_START, PWM_CENTRE, PWM_COMMIT, PULSE_END_SEEN, COT_TIMEOUT, COFF_PULSE_END,
COFF_TIMEOUT, PWM_ENABLE, PWM_DISABLE. -/
def Obligations.PwmCommandsComplete : Prop :=
  (∀ (s : State) (n : Fin 96) (i : PwmInst) (t : Nat),
    s.pwmRuns n = true → s.instDue n i = some t → (i = .raRise ∨ i = .raFall ∨ i = .rbRise ∨ i = .rbFall) →
    exec (.edgeInstance n i) s = .next ((s.advanceTo (t / 128)).fireEdge n i t)) ∧
  (∀ (s : State) (n : Fin 96) (k : Fin 4) (down : Bool) (t : Nat),
    s.pwmRuns n = true → s.instDue n (.trg k down) = some t →
    exec (.triggerInstance n k down) s = .next ((s.advanceTo (t / 128)).fireTrg n k down t)) ∧
  (∀ (s : State) (n : Fin 96) (b : Bool) (t : Nat),
    s.pwmRuns n = true → (if b then (s.pwm n).riseB else (s.pwm n).riseA) = some t →
    (∃ u : State, exec (.deadTimeEnd n b) s = .next (if !b && u.outMode n == 2 then u.outTarget n true true 0 t else u) ∧
      u = ((s.advanceTo (t / 128)).setPwm n
        (if b then { s.pwm n with riseB := none } else { s.pwm n with riseA := none })).outEdge n b true t)) ∧
  (∀ (s : State) (n : Fin 96) (flt : BitVec 24) (t : Nat),
    (s.setFlt flt).pwmLive n = true → ((s.setFlt flt).pwm n).early.contains ((s.setFlt flt).pwm n).start = false →
    (s.setFlt flt).nextStart n = some t →
    exec (.periodStart n flt) s = .next (((s.setFlt flt).advanceTo (t / 128)).periodStart n t 0 (reloadEdge t))) ∧
  (∀ (s : State) (n : Fin 96) (flt : BitVec 24) (t : Nat),
    (s.setFlt flt).pwmRuns n = true → (s.setFlt flt).instDue n .centre = some t →
    exec (.pwmCentre n flt) s = .next (((s.setFlt flt).advanceTo (t / 128)).centre n t)) ∧
  (∀ (s : State) (n : Fin 96) (v : BitVec 32),
    s.unitOn (domPwm n) = true → s.ownerOf n = none →
    exec (.pwmCommit n v) s = .next (s.pwmCommitWrite n)) ∧
  (∀ (s : State) (n : Fin 96) (t : Nat),
    s.pwmRuns n = true → s.carrier n = 2 → s.pulseEnd n = true → (s.pwm n).endAt = none →
    reloadEdge (seenAt t ((s.pwm n).start + s.cmpaF n + s.cmpbF n)) ≤ reloadEdge ((s.pwm n).start + s.perF n) →
    exec (.pulseEndSeen n t) s =
      .next ((s.advanceTo (seenAt t ((s.pwm n).start + s.cmpaF n + s.cmpbF n) / 128)).setPwm n
        { s.pwm n with endAt := some (seenAt t ((s.pwm n).start + s.cmpaF n + s.cmpbF n)) })) ∧
  (∀ (s : State) (n : Fin 96),
    s.pwmRuns n = true → s.carrier n = 2 → (s.pwm n).endAt = none →
    exec (.cotTimeout n) s = .next (((s.advanceTo (((s.pwm n).start + s.perF n) / 128)).setPwm n
      { s.pwm n with endAt := some ((s.pwm n).start + s.perF n) }).pwmTimeout n)) ∧
  (∀ (s : State) (n : Fin 96) (t : Nat),
    s.pwmRuns n = true → s.carrier n = 3 → s.pulseEnd n = true → (s.pwm n).resolved = none →
    max t (s.pwm n).start < (s.pwm n).start + s.cmpbF n →
    (∃ u, exec (.coffPulseEnd n t) s = .next u ∧
      u = (((s.advanceTo (max t (s.pwm n).start / 128)).setPwm n
        { (s.advanceTo (max t (s.pwm n).start / 128)).pwm n with
          resolved := some (seenAt (max t (s.pwm n).start) (s.pwm n).start)
          endAt := some (seenAt (max t (s.pwm n).start) (s.pwm n).start + (s.advanceTo (max t (s.pwm n).start / 128)).cmpaF n) }).fireEdge n
        .raFall (max t (s.pwm n).start)))) ∧
  (∀ (s : State) (n : Fin 96),
    s.pwmRuns n = true → s.carrier n = 3 → (s.pwm n).resolved = none →
    (∃ u, exec (.coffTimeout n) s = .next u ∧
      u = (((s.advanceTo (((s.pwm n).start + s.cmpbF n) / 128)).setPwm n
        { (s.advanceTo (((s.pwm n).start + s.cmpbF n) / 128)).pwm n with
          resolved := some ((s.pwm n).start + s.cmpbF n)
          endAt := some ((s.pwm n).start + s.cmpbF n + (s.advanceTo (((s.pwm n).start + s.cmpbF n) / 128)).cmpaF n) }).fireEdge n
        .raFall ((s.pwm n).start + s.cmpbF n)).pwmTimeout n)) ∧
  (∀ (s : State) (n : Fin 96) (v : BitVec 32),
    s.unitOn (domPwm n) = true → s.flag (Reg.PWM_CTRL n) 0 = false →
    (s.store (Reg.PWM_CTRL n) (Reg.PWM_CFGCHK n) false (withField (withField v 0 0 1) 0 0 0)).pwmFails n = [] →
    exec (.pwmEnable n v) s =
      .next ((s.enabled (Reg.PWM_CTRL n) (Reg.PWM_CFGCHK n) 0 (withField v 0 0 1)).pwmUp n)) ∧
  (∀ (s : State) (n : Fin 96) (v : BitVec 32),
    s.unitOn (domPwm n) = true → s.flag (Reg.PWM_CTRL n) 0 = true →
    exec (.pwmDisable n v) s =
      .next ((s.store (Reg.PWM_CTRL n) (Reg.PWM_CFGCHK n) true (withField v 0 0 0)).pwmDown n))

/-- PWM protection commands complete: in each clause the command, in the state its hypotheses describe, answers a next state,
which the clause gives. The hypotheses are on the state before the command and on its operands. Commands: CBC_FORCE,
LATCHED_TRIP, TRIP_RECORD, PAD_SENSE_MISMATCH, TRIP_CLEAR. -/
def Obligations.PwmProtectionCommandsComplete : Prop :=
  (∀ (s : State) (n : Fin 96) (k : Fin 8) (t : Nat) (flt : BitVec 24),
    ((s.advanceTo (t / 128)).setFlt flt).pwmRuns n = true → ((s.advanceTo (t / 128)).setFlt flt).selActive n k false = true →
    (∃ u : State, exec (.cbcForce n k t flt) s = .next (u.outputs n t) ∧ u.flag (Reg.PWM_TRIPSTAT n) 1 = true ∧
      u.flag (Reg.PWM_TRIPSTAT n) (16 + k) = true ∧ (u.pwm n).cbcSeen = true)) ∧
  (∀ (s : State) (n : Fin 96) (k : Fin 8) (t : Nat) (flt : BitVec 24),
    ((s.advanceTo (t / 128)).setFlt flt).domOn (domPwm n) = true → ((s.advanceTo (t / 128)).setFlt flt).pwmEn n = true →
    ((s.advanceTo (t / 128)).setFlt flt).selActive n k true = true →
    exec (.latchedTrip n k t flt) s = .next (((s.advanceTo (t / 128)).setFlt flt).tripSet n t (some k))) ∧
  (∀ (s : State) (n : Fin 96) (e k : Nat) (rest : List (Nat × Nat)),
    s.unitOn (domPwm n) = true → (s.pwm n).records = (e, k) :: rest → k < 8 →
    exec (.tripRecord n) s = .next (((((s.advanceTo e).setPwm n { (s.advanceTo e).pwm n with records := rest }).setFlag
      (Reg.PWM_TRIPSTAT n) (24 + k) true).satInc (Reg.PWM_TRIPCNT n) 31 24).raiseAt (8 * n + 6) e 0)) ∧
  (∀ (s : State) (n : Fin 96) (a b : Bool) (e : Nat),
    s.unitOn (domPwm n) = true → (s.pwm n).senseFrom = some e → s.flag (Reg.PWM_TRIPSTAT n) 2 = true →
    (¬(a = s.flag (Reg.PWM_TRIPCTL n) 2 ∧ b = s.flag (Reg.PWM_TRIPCTL n) 3)) →
    (∃ u, exec (.padSenseMismatch n a b) s = .next u ∧ (u.pwm n).senseFrom = none ∧ u.flag (Reg.PWM_TRIPSTAT n) 4 = true)) ∧
  (∀ (s : State) (n : Fin 96) (v : BitVec 32) (flt : BitVec 24),
    s.unitOn (domPwm n) = true →
    exec (.tripClear n v flt) s = .next ((s.setFlt flt).tripStatWrite n (withField v 0 0 1)))

/-- Core integer and immediate instructions complete with their result: in each clause the command, in the state its hypotheses
describe, answers a next state, which the clause gives. The hypotheses name the ready core (CoreReady) and what the operands
must be. Commands: MC_ADD, MC_SUB, MC_AND, MC_OR, MC_XOR, MC_ANDN, MC_SLL, MC_SRL, MC_SRA, MC_SLT, MC_SLTU, MC_MIN, MC_MAX,
MC_MINU, MC_MAXU, MC_ADDV, MC_SUBV, MC_SEL, MC_MUL, MC_MULH, MC_MULHU, MC_MULV, MC_DIV, MC_DIVU, MC_REM, MC_REMU, MC_CLZ,
MC_CTZ, MC_POPC, MC_BSWAP, MC_ADDI, MC_ANDI, MC_ORI, MC_XORI, MC_SLTI, MC_SLTIU, MC_LUI, MC_SLLI, MC_SRLI, MC_SRAI. -/
def Obligations.CoreIntegerInstructionsComplete : Prop :=
  (∀ (s : State) (n : Fin 4) (k : Nat) (d a b e : Fin 32) (imm : BitVec 16),
    s.CoreReady n k →
    exec (.mcAdd n d a b 0) s = .next (s.coreSet k fun r => r.set d ((r.get a) + (r.get b))) ∧
    exec (.mcSub n d a b 0) s = .next (s.coreSet k fun r => r.set d ((r.get a) - (r.get b))) ∧
    exec (.mcAnd n d a b 0) s = .next (s.coreSet k fun r => r.set d ((r.get a) &&& (r.get b))) ∧
    exec (.mcOr n d a b 0) s = .next (s.coreSet k fun r => r.set d ((r.get a) ||| (r.get b))) ∧
    exec (.mcXor n d a b 0) s = .next (s.coreSet k fun r => r.set d ((r.get a) ^^^ (r.get b))) ∧
    exec (.mcAndn n d a b 0) s = .next (s.coreSet k fun r => r.set d ((r.get a) &&& ~~~(r.get b))) ∧
    exec (.mcSll n d a b 0) s = .next (s.coreSet k fun r => r.set d ((r.get a) <<< ((r.get b).toNat % 32))) ∧
    exec (.mcSrl n d a b 0) s = .next (s.coreSet k fun r => r.set d ((r.get a) >>> ((r.get b).toNat % 32))) ∧
    exec (.mcSra n d a b 0) s = .next (s.coreSet k fun r => r.set d ((r.get a).sshiftRight ((r.get b).toNat % 32))) ∧
    exec (.mcSlt n d a b 0) s = .next (s.coreSet k fun r => r.set d (BitVec.ofNat 32 (bit ((r.get a).slt (r.get b))))) ∧
    exec (.mcSltu n d a b 0) s = .next (s.coreSet k fun r => r.set d (BitVec.ofNat 32 (bit ((r.get a).ult (r.get b))))) ∧
    exec (.mcMin n d a b 0) s = .next (s.coreSet k fun r => r.set d (if (r.get a).slt (r.get b) then (r.get a) else (r.get b))) ∧
    exec (.mcMax n d a b 0) s = .next (s.coreSet k fun r => r.set d (if (r.get a).slt (r.get b) then (r.get b) else (r.get a))) ∧
    exec (.mcMinu n d a b 0) s = .next (s.coreSet k fun r => r.set d (if (r.get a).ult (r.get b) then (r.get a) else (r.get b))) ∧
    exec (.mcMaxu n d a b 0) s = .next (s.coreSet k fun r => r.set d (if (r.get a).ult (r.get b) then (r.get b) else (r.get a))) ∧
    exec (.mcSel n d a b e) s = .next (s.coreSet k fun r => r.set d (if (r.get e) = 0 then (r.get b) else (r.get a))) ∧
    exec (.mcMul n d a b 0) s = .next (s.coreSet k fun r => r.set d ((r.get a) * (r.get b))) ∧
    exec (.mcMulh n d a b 0) s = .next (s.coreSet k fun r => r.set d (Word.ofInt (sra (sv (r.get a) * sv (r.get b)) 32))) ∧
    exec (.mcMulhu n d a b 0) s = .next (s.coreSet k fun r => r.set d (BitVec.ofNat 32 ((r.get a).toNat * (r.get b).toNat / 2 ^ 32))) ∧
    exec (.mcClz n d a 0 0) s = .next (s.coreSet k fun r => r.set d (BitVec.ofNat 32 (32 - bitLen (r.get a).toNat))) ∧
    exec (.mcCtz n d a 0 0) s = .next (s.coreSet k fun r => r.set d (BitVec.ofNat 32 (trailingZeros (r.get a)))) ∧
    exec (.mcPopc n d a 0 0) s = .next (s.coreSet k fun r => r.set d (BitVec.ofNat 32 (popcount (r.get a)))) ∧
    exec (.mcBswap n d a 0 0) s = .next (s.coreSet k fun r => r.set d (byteSwap (r.get a))) ∧
    exec (.mcAddi n d a imm) s = .next (s.coreSet k fun r => r.set d ((r.get a) + imm.signExtend 32)) ∧
    exec (.mcAndi n d a imm) s = .next (s.coreSet k fun r => r.set d ((r.get a) &&& imm.zeroExtend 32)) ∧
    exec (.mcOri n d a imm) s = .next (s.coreSet k fun r => r.set d ((r.get a) ||| imm.zeroExtend 32)) ∧
    exec (.mcXori n d a imm) s = .next (s.coreSet k fun r => r.set d ((r.get a) ^^^ imm.zeroExtend 32)) ∧
    exec (.mcSlti n d a imm) s = .next (s.coreSet k fun r => r.set d (BitVec.ofNat 32 (bit ((r.get a).slt (imm.signExtend 32))))) ∧
    exec (.mcSltiu n d a imm) s = .next (s.coreSet k fun r => r.set d (BitVec.ofNat 32 (bit ((r.get a).ult (imm.signExtend 32))))) ∧
    exec (.mcLui n d 0 imm) s = .next (s.coreSet k fun r => r.set d (imm.zeroExtend 32 <<< 16))) ∧
  (∀ (s : State) (n : Fin 4) (k : Nat) (d a b : Fin 32) (z : Int),
    s.CoreReady n k → z = sv ((s.arch k).get a) + sv ((s.arch k).get b) → satTo 32 z = z →
    exec (.mcAddv n d a b 0) s = .next (s.coreSet k fun r => r.set d (Word.ofInt z))) ∧
  (∀ (s : State) (n : Fin 4) (k : Nat) (d a b : Fin 32) (z : Int),
    s.CoreReady n k → z = sv ((s.arch k).get a) - sv ((s.arch k).get b) → satTo 32 z = z →
    exec (.mcSubv n d a b 0) s = .next (s.coreSet k fun r => r.set d (Word.ofInt z))) ∧
  (∀ (s : State) (n : Fin 4) (k : Nat) (d a b : Fin 32) (z : Int),
    s.CoreReady n k → z = sv ((s.arch k).get a) * sv ((s.arch k).get b) → satTo 32 z = z →
    exec (.mcMulv n d a b 0) s = .next (s.coreSet k fun r => r.set d (Word.ofInt z))) ∧
  (∀ (s : State) (n : Fin 4) (k : Nat) (d a b : Fin 32),
    s.CoreReady n k → (s.arch k).get b ≠ 0 →
    exec (.mcDiv n d a b 0) s = .next (s.coreSet k fun r => r.set d (Word.ofInt ((sv (r.get a)).tdiv (sv (r.get b))))) ∧
    exec (.mcDivu n d a b 0) s = .next (s.coreSet k fun r => r.set d (BitVec.ofNat 32 ((r.get a).toNat / (r.get b).toNat))) ∧
    exec (.mcRem n d a b 0) s = .next (s.coreSet k fun r => r.set d (Word.ofInt ((sv (r.get a)).tmod (sv (r.get b))))) ∧
    exec (.mcRemu n d a b 0) s = .next (s.coreSet k fun r => r.set d (BitVec.ofNat 32 ((r.get a).toNat % (r.get b).toNat)))) ∧
  (∀ (s : State) (n : Fin 4) (k : Nat) (d a : Fin 32) (imm : BitVec 14),
    imm.toNat < 32 → s.CoreReady n k →
    exec (.mcSlli n d a imm) s = .next (s.coreSet k fun r => r.set d ((r.get a) <<< imm.toNat)) ∧
    exec (.mcSrli n d a imm) s = .next (s.coreSet k fun r => r.set d ((r.get a) >>> imm.toNat)) ∧
    exec (.mcSrai n d a imm) s = .next (s.coreSet k fun r => r.set d ((r.get a).sshiftRight imm.toNat)))

/-- Core fixed-point, FP32 and transform instructions complete with their result: in each clause the command, in the state its
hypotheses describe, answers a next state, which the clause gives. The hypotheses name the ready core (CoreReady) and what the
operands must be. Commands: MC_ADD_S, MC_SUB_S, MC_NEG_S, MC_ABS_S, MC_MULQ, MC_MADQ, MC_MULQ15, MC_MADQ15, MC_CLMP, MC_SHLS,
MC_RNDQ15, MC_FADD, MC_FSUB, MC_FMUL, MC_FMAD, MC_FMIN, MC_FMAX, MC_FABS, MC_FNEG, MC_FCVT_QF, MC_FCVT_FQ, MC_FCVT_IF,
MC_FCVT_FI, MC_FLT, MC_FDIV, MC_FSQRT, MC_FEQ, MC_FLE, MC_CLARKE, MC_PARK, MC_IPARK, MC_SVM. -/
def Obligations.CoreDspAndFloatInstructionsComplete : Prop :=
  (∀ (s : State) (n : Fin 4) (k : Nat) (d a b : Fin 32) (z : Int),
    s.CoreReady n k → z = sv ((s.arch k).get a) + sv ((s.arch k).get b) → (satTo 32 z = z ∨ (s.arch k).ste = false) →
    exec (.mcAddS n d a b 0) s = .next (s.coreSet k fun r => r.set d (Word.ofInt (satTo 32 z)))) ∧
  (∀ (s : State) (n : Fin 4) (k : Nat) (d a b : Fin 32) (z : Int),
    s.CoreReady n k → z = sv ((s.arch k).get a) - sv ((s.arch k).get b) → (satTo 32 z = z ∨ (s.arch k).ste = false) →
    exec (.mcSubS n d a b 0) s = .next (s.coreSet k fun r => r.set d (Word.ofInt (satTo 32 z)))) ∧
  (∀ (s : State) (n : Fin 4) (k : Nat) (d a : Fin 32) (z : Int),
    s.CoreReady n k → z = -sv ((s.arch k).get a) → (satTo 32 z = z ∨ (s.arch k).ste = false) →
    exec (.mcNegS n d a 0 0) s = .next (s.coreSet k fun r => r.set d (Word.ofInt (satTo 32 z)))) ∧
  (∀ (s : State) (n : Fin 4) (k : Nat) (d a : Fin 32) (z : Int),
    s.CoreReady n k → z = (sv ((s.arch k).get a)).natAbs → (satTo 32 z = z ∨ (s.arch k).ste = false) →
    exec (.mcAbsS n d a 0 0) s = .next (s.coreSet k fun r => r.set d (Word.ofInt (satTo 32 z)))) ∧
  (∀ (s : State) (n : Fin 4) (k : Nat) (d a b : Fin 32) (z : Int),
    s.CoreReady n k → z = sra (sv ((s.arch k).get a) * sv ((s.arch k).get b)) 31 → (satTo 32 z = z ∨ (s.arch k).ste = false) →
    exec (.mcMulq n d a b 0) s = .next (s.coreSet k fun r => r.set d (Word.ofInt (satTo 32 z)))) ∧
  (∀ (s : State) (n : Fin 4) (k : Nat) (d a b e : Fin 32) (z : Int),
    s.CoreReady n k → z = sv ((s.arch k).get e) + sra (sv ((s.arch k).get a) * sv ((s.arch k).get b)) 31 →
    (satTo 32 z = z ∨ (s.arch k).ste = false) →
    exec (.mcMadq n d a b e) s = .next (s.coreSet k fun r => r.set d (Word.ofInt (satTo 32 z)))) ∧
  (∀ (s : State) (n : Fin 4) (k : Nat) (d a b : Fin 32) (z : Int),
    s.CoreReady n k → z = sra (low16 ((s.arch k).get a) * low16 ((s.arch k).get b)) 15 →
    (satTo 16 z = z ∨ (s.arch k).ste = false) →
    exec (.mcMulq15 n d a b 0) s = .next (s.coreSet k fun r => r.set d (Word.ofInt (satTo 16 z)))) ∧
  (∀ (s : State) (n : Fin 4) (k : Nat) (d a b e : Fin 32) (z : Int),
    s.CoreReady n k → z = low16 ((s.arch k).get e) + sra (low16 ((s.arch k).get a) * low16 ((s.arch k).get b)) 15 →
    (satTo 16 z = z ∨ (s.arch k).ste = false) →
    exec (.mcMadq15 n d a b e) s = .next (s.coreSet k fun r => r.set d (Word.ofInt (satTo 16 z)))) ∧
  (∀ (s : State) (n : Fin 4) (k : Nat) (d a b e : Fin 32),
    s.CoreReady n k →
    exec (.mcClmp n d a b 0) s = .next (s.coreSet k fun r => r.set d (Word.ofInt (min (max (sv (r.get a)) (-sv (r.get b))) (sv (r.get b))))) ∧
    exec (.mcFadd n d a b 0) s = .next (s.coreSet k fun r => r.set d (fpAdd (r.get a) (r.get b))) ∧
    exec (.mcFsub n d a b 0) s = .next (s.coreSet k fun r => r.set d (fpSub (r.get a) (r.get b))) ∧
    exec (.mcFmul n d a b 0) s = .next (s.coreSet k fun r => r.set d (fpMul (r.get a) (r.get b))) ∧
    exec (.mcFmad n d a b e) s = .next (s.coreSet k fun r => r.set d (fpMad (r.get a) (r.get b) (r.get e))) ∧
    exec (.mcFmin n d a b 0) s = .next (s.coreSet k fun r => r.set d (fpMin (r.get a) (r.get b))) ∧
    exec (.mcFmax n d a b 0) s = .next (s.coreSet k fun r => r.set d (fpMax (r.get a) (r.get b))) ∧
    exec (.mcFabs n d a 0 0) s = .next (s.coreSet k fun r => r.set d (fpAbs (r.get a))) ∧
    exec (.mcFneg n d a 0 0) s = .next (s.coreSet k fun r => r.set d (fpNeg (r.get a))) ∧
    exec (.mcFcvtQf n d a 0 0) s = .next (s.coreSet k fun r => r.set d (fcvtQF (r.get a))) ∧
    exec (.mcFcvtFq n d a 0 0) s = .next (s.coreSet k fun r => r.set d (fcvtFQ (r.get a))) ∧
    exec (.mcFcvtIf n d a 0 0) s = .next (s.coreSet k fun r => r.set d (fcvtIF (r.get a))) ∧
    exec (.mcFcvtFi n d a 0 0) s = .next (s.coreSet k fun r => r.set d (fcvtFI (r.get a))) ∧
    exec (.mcFlt n d a b 0) s = .next (s.coreSet k fun r => r.set d (BitVec.ofNat 32 (bit (fpLt (r.get a) (r.get b))))) ∧
    exec (.mcFdiv n d a b 0) s = .next (s.coreSet k fun r => r.set d (fpDiv (r.get a) (r.get b))) ∧
    exec (.mcFsqrt n d a 0 0) s = .next (s.coreSet k fun r => r.set d (fpSqrt (r.get a))) ∧
    exec (.mcFeq n d a b 0) s = .next (s.coreSet k fun r => r.set d (BitVec.ofNat 32 (bit (fpEq (r.get a) (r.get b))))) ∧
    exec (.mcFle n d a b 0) s = .next (s.coreSet k fun r => r.set d (BitVec.ofNat 32 (bit (fpLe (r.get a) (r.get b)))))) ∧
  (∀ (s : State) (n : Fin 4) (k : Nat) (d a b : Fin 32) (z : Int),
    s.CoreReady n k → z = sv ((s.arch k).get a) * (2 ^ (((s.arch k).get b).toNat % 32) : Nat) →
    (satTo 32 z = z ∨ (s.arch k).ste = false) →
    exec (.mcShls n d a b 0) s = .next (s.coreSet k fun r => r.set d (Word.ofInt (satTo 32 z)))) ∧
  (∀ (s : State) (n : Fin 4) (k : Nat) (d a : Fin 32) (z : Int),
    s.CoreReady n k → z = sra (sv ((s.arch k).get a) + 32768) 16 → (satTo 16 z = z ∨ (s.arch k).ste = false) →
    exec (.mcRndq15 n d a 0 0) s = .next (s.coreSet k fun r => r.set d (Word.ofInt (satTo 16 z)))) ∧
  (∀ (s : State) (n : Fin 4) (k : Nat) (d a b : Fin 32) (z : Int),
    s.CoreReady n k → d.val % 2 = 0 → z = clarkeInt ((s.arch k).get a) ((s.arch k).get b) →
    ((clipped 32 z) = false ∨ (s.arch k).ste = false) →
    exec (.mcClarke n d a b 0) s = .next (s.coreSet k fun r => [r.get a, sat32 z].zipIdx.foldl (fun r (w, i) => r.set (d + i) w) r)) ∧
  (∀ (s : State) (n : Fin 4) (k : Nat) (d a b : Fin 32) (z : Int × Int),
    s.CoreReady n k → d.val % 2 = 0 → z = parkInts ((s.arch k).get a) ((s.arch k).get ((a.val + 1) % 32)) ((s.arch k).get b) →
    ((clipped 32 z.1 || clipped 32 z.2) = false ∨ (s.arch k).ste = false) →
    exec (.mcPark n d a b 0) s = .next (s.coreSet k fun r => [sat32 z.1, sat32 z.2].zipIdx.foldl (fun r (w, i) => r.set (d + i) w) r)) ∧
  (∀ (s : State) (n : Fin 4) (k : Nat) (d a b : Fin 32) (z : Int × Int),
    s.CoreReady n k → d.val % 2 = 0 → z = iparkInts ((s.arch k).get a) ((s.arch k).get ((a.val + 1) % 32)) ((s.arch k).get b) →
    ((clipped 32 z.1 || clipped 32 z.2) = false ∨ (s.arch k).ste = false) →
    exec (.mcIpark n d a b 0) s = .next (s.coreSet k fun r => [sat32 z.1, sat32 z.2].zipIdx.foldl (fun r (w, i) => r.set (d + i) w) r)) ∧
  (∀ (s : State) (n : Fin 4) (k : Nat) (d a : Fin 32) (z : Word × Word × Word × Word),
    s.CoreReady n k → d.val % 4 = 0 → z = svmOf ((s.arch k).get a) ((s.arch k).get ((a.val + 1) % 32)) →
    ((bitOf z.1 31) = false ∨ (s.arch k).ste = false) →
    exec (.mcSvm n d a 0 0) s = .next (s.coreSet k fun r => [z.1, z.2.1, z.2.2.1, z.2.2.2].zipIdx.foldl (fun r (w, i) => r.set (d + i) w) r))

/-- Core loads complete: in each clause the command, in the state its hypotheses describe, answers a next state, which the clause
gives. The hypotheses name the ready core (CoreReady) and what the operands must be. Commands: MC_LB, MC_LBU, MC_LH, MC_LHU,
MC_LW, MC_LD, MC_LX_LB, MC_LX_LBU, MC_LX_LH, MC_LX_LHU, MC_LX_LW, MC_LX_LD, MC_LC. -/
def Obligations.CoreLoadInstructionsComplete : Prop :=
  (∀ (s t : State) (n : Fin 4) (k : Nat) (d c : Fin 32) (off : BitVec 16) (ea v : Nat) (tag : Bool),
    s.CoreReady n k → c.val < 16 → ea = (s.arch k).eaOf c (off.signExtend 32) →
    capCheck ((s.arch k).cap c) c 1 ea 1 [permLoad] false = none →
    s.coreLoad k (((s.arch k).cap c).may permDevice) ea 1 = .val t v tag →
    exec (.mcLb n d c off) s = .next (s.coreDone (t.loadUse k ea v tag (.value 1 d true)) k) ∧
    exec (.mcLbu n d c off) s = .next (s.coreDone (t.loadUse k ea v tag (.value 1 d false)) k)) ∧
  (∀ (s t : State) (n : Fin 4) (k : Nat) (d c : Fin 32) (off : BitVec 16) (ea v : Nat) (tag : Bool),
    s.CoreReady n k → c.val < 16 → ea = (s.arch k).eaOf c (off.signExtend 32) →
    capCheck ((s.arch k).cap c) c 1 ea 2 [permLoad] false = none →
    s.coreLoad k (((s.arch k).cap c).may permDevice) ea 2 = .val t v tag →
    exec (.mcLh n d c off) s = .next (s.coreDone (t.loadUse k ea v tag (.value 2 d true)) k) ∧
    exec (.mcLhu n d c off) s = .next (s.coreDone (t.loadUse k ea v tag (.value 2 d false)) k)) ∧
  (∀ (s t : State) (n : Fin 4) (k : Nat) (d c : Fin 32) (off : BitVec 16) (ea v : Nat) (tag : Bool),
    s.CoreReady n k → c.val < 16 → ea = (s.arch k).eaOf c (off.signExtend 32) →
    capCheck ((s.arch k).cap c) c 1 ea 4 [permLoad] false = none →
    s.coreLoad k (((s.arch k).cap c).may permDevice) ea 4 = .val t v tag →
    exec (.mcLw n d c off) s = .next (s.coreDone (t.loadUse k ea v tag (.value 4 d false)) k)) ∧
  (∀ (s t : State) (n : Fin 4) (k : Nat) (d c : Fin 32) (off : BitVec 16) (ea v : Nat) (tag : Bool),
    s.CoreReady n k → c.val < 16 → d.val % 2 = 0 → ea = (s.arch k).eaOf c (off.signExtend 32) →
    capCheck ((s.arch k).cap c) c 1 ea 8 [permLoad] false = none →
    s.coreLoad k (((s.arch k).cap c).may permDevice) ea 8 = .val t v tag →
    exec (.mcLd n d c off) s = .next (s.coreDone (t.loadUse k ea v tag (.pair d)) k)) ∧
  (∀ (s t : State) (n : Fin 4) (k : Nat) (d a b e : Fin 32) (ea v : Nat) (tag : Bool),
    s.CoreReady n k → a.val < 16 → e.val < 4 → ea = (s.arch k).eaOf a ((s.arch k).scaled b e) →
    capCheck ((s.arch k).cap a) a 1 ea 1 [permLoad] false = none →
    s.coreLoad k (((s.arch k).cap a).may permDevice) ea 1 = .val t v tag →
    exec (.mcLxLb n d a b e) s = .next (s.coreDone (t.loadUse k ea v tag (.value 1 d true)) k) ∧
    exec (.mcLxLbu n d a b e) s = .next (s.coreDone (t.loadUse k ea v tag (.value 1 d false)) k)) ∧
  (∀ (s t : State) (n : Fin 4) (k : Nat) (d a b e : Fin 32) (ea v : Nat) (tag : Bool),
    s.CoreReady n k → a.val < 16 → e.val < 4 → ea = (s.arch k).eaOf a ((s.arch k).scaled b e) →
    capCheck ((s.arch k).cap a) a 1 ea 2 [permLoad] false = none →
    s.coreLoad k (((s.arch k).cap a).may permDevice) ea 2 = .val t v tag →
    exec (.mcLxLh n d a b e) s = .next (s.coreDone (t.loadUse k ea v tag (.value 2 d true)) k) ∧
    exec (.mcLxLhu n d a b e) s = .next (s.coreDone (t.loadUse k ea v tag (.value 2 d false)) k)) ∧
  (∀ (s t : State) (n : Fin 4) (k : Nat) (d a b e : Fin 32) (ea v : Nat) (tag : Bool),
    s.CoreReady n k → a.val < 16 → e.val < 4 → ea = (s.arch k).eaOf a ((s.arch k).scaled b e) →
    capCheck ((s.arch k).cap a) a 1 ea 4 [permLoad] false = none →
    s.coreLoad k (((s.arch k).cap a).may permDevice) ea 4 = .val t v tag →
    exec (.mcLxLw n d a b e) s = .next (s.coreDone (t.loadUse k ea v tag (.value 4 d false)) k)) ∧
  (∀ (s t : State) (n : Fin 4) (k : Nat) (d a b e : Fin 32) (ea v : Nat) (tag : Bool),
    s.CoreReady n k → a.val < 16 → e.val < 4 → d.val % 2 = 0 → ea = (s.arch k).eaOf a ((s.arch k).scaled b e) →
    capCheck ((s.arch k).cap a) a 1 ea 8 [permLoad] false = none →
    s.coreLoad k (((s.arch k).cap a).may permDevice) ea 8 = .val t v tag →
    exec (.mcLxLd n d a b e) s = .next (s.coreDone (t.loadUse k ea v tag (.pair d)) k)) ∧
  (∀ (s t : State) (n : Fin 4) (k : Nat) (d c : Fin 32) (off : BitVec 16) (ea v : Nat) (tag : Bool),
    s.CoreReady n k → c.val < 16 → (d.val ≠ 0 ∧ d.val < 16) → ea = (s.arch k).eaOf c (off.signExtend 32) →
    capCheck ((s.arch k).cap c) c 1 ea 16 [permLoad, permLdcap] true = none →
    s.coreLoad k (((s.arch k).cap c).may permDevice) ea 16 = .val t v tag →
    exec (.mcLc n d c off) s = .next (s.coreDone (t.loadUse k ea v tag (.cap d)) k))

/-- Core stores, atomics and block operations complete: in each clause the command, in the state its hypotheses describe, answers
a next state, which the clause gives. The hypotheses name the ready core (CoreReady) and what the operands must be. Commands:
MC_SB, MC_SH, MC_SW, MC_SD, MC_SX_SB, MC_SX_SH, MC_SX_SW, MC_SX_SD, MC_SC, MC_AMO_SWAP, MC_AMO_ADD, MC_AMO_AND, MC_AMO_OR,
MC_BCOPY, MC_BFILL, PCIE_COMPLETION, PCIE_COMPLETION_TIMEOUT. -/
def Obligations.CoreStoreAtomicBlockInstructionsComplete : Prop :=
  (∀ (s t : State) (n : Fin 4) (k : Nat) (d c : Fin 32) (off : BitVec 16) (ea : Nat),
    s.CoreReady n k → c.val < 16 → ea = (s.arch k).eaOf c (off.signExtend 32) →
    capCheck ((s.arch k).cap c) c 2 ea 1 [permStore] false = none → (s.arch k).spillGuard c ea = none →
    s.badAccess ea 1 = false →
    s.pushStores k (storeEnts ea 1 (((s.arch k).get d).toNat % 256 ^ 1) (((s.arch k).cap c).may permHold)) = some t →
    exec (.mcSb n d c off) s = .next (s.coreDone t k)) ∧
  (∀ (s t : State) (n : Fin 4) (k : Nat) (d c : Fin 32) (off : BitVec 16) (ea : Nat),
    s.CoreReady n k → c.val < 16 → ea = (s.arch k).eaOf c (off.signExtend 32) →
    capCheck ((s.arch k).cap c) c 2 ea 2 [permStore] false = none → (s.arch k).spillGuard c ea = none →
    s.badAccess ea 2 = false →
    s.pushStores k (storeEnts ea 2 (((s.arch k).get d).toNat % 256 ^ 2) (((s.arch k).cap c).may permHold)) = some t →
    exec (.mcSh n d c off) s = .next (s.coreDone t k)) ∧
  (∀ (s t : State) (n : Fin 4) (k : Nat) (d c : Fin 32) (off : BitVec 16) (ea : Nat),
    s.CoreReady n k → c.val < 16 → ea = (s.arch k).eaOf c (off.signExtend 32) →
    capCheck ((s.arch k).cap c) c 2 ea 4 [permStore] false = none → (s.arch k).spillGuard c ea = none →
    s.badAccess ea 4 = false →
    s.pushStores k (storeEnts ea 4 (((s.arch k).get d).toNat % 256 ^ 4) (((s.arch k).cap c).may permHold)) = some t →
    exec (.mcSw n d c off) s = .next (s.coreDone t k)) ∧
  (∀ (s t : State) (n : Fin 4) (k : Nat) (d c : Fin 32) (off : BitVec 16) (ea : Nat),
    s.CoreReady n k → c.val < 16 → d.val % 2 = 0 → ea = (s.arch k).eaOf c (off.signExtend 32) →
    capCheck ((s.arch k).cap c) c 2 ea 8 [permStore] false = none → (s.arch k).spillGuard c ea = none →
    s.badAccess ea 8 = false →
    s.pushStores k (storePair ea (((s.arch k).get d).toNat + 2 ^ 32 * ((s.arch k).get (d + 1)).toNat) (((s.arch k).cap c).may permHold)) = some t →
    exec (.mcSd n d c off) s = .next (s.coreDone t k)) ∧
  (∀ (s t : State) (n : Fin 4) (k : Nat) (d a b e : Fin 32) (ea : Nat),
    s.CoreReady n k → a.val < 16 → e.val < 4 → ea = (s.arch k).eaOf a ((s.arch k).scaled b e) →
    capCheck ((s.arch k).cap a) a 2 ea 1 [permStore] false = none → (s.arch k).spillGuard a ea = none →
    s.badAccess ea 1 = false →
    s.pushStores k (storeEnts ea 1 (((s.arch k).get d).toNat % 256 ^ 1) (((s.arch k).cap a).may permHold)) = some t →
    exec (.mcSxSb n d a b e) s = .next (s.coreDone t k)) ∧
  (∀ (s t : State) (n : Fin 4) (k : Nat) (d a b e : Fin 32) (ea : Nat),
    s.CoreReady n k → a.val < 16 → e.val < 4 → ea = (s.arch k).eaOf a ((s.arch k).scaled b e) →
    capCheck ((s.arch k).cap a) a 2 ea 2 [permStore] false = none → (s.arch k).spillGuard a ea = none →
    s.badAccess ea 2 = false →
    s.pushStores k (storeEnts ea 2 (((s.arch k).get d).toNat % 256 ^ 2) (((s.arch k).cap a).may permHold)) = some t →
    exec (.mcSxSh n d a b e) s = .next (s.coreDone t k)) ∧
  (∀ (s t : State) (n : Fin 4) (k : Nat) (d a b e : Fin 32) (ea : Nat),
    s.CoreReady n k → a.val < 16 → e.val < 4 → ea = (s.arch k).eaOf a ((s.arch k).scaled b e) →
    capCheck ((s.arch k).cap a) a 2 ea 4 [permStore] false = none → (s.arch k).spillGuard a ea = none →
    s.badAccess ea 4 = false →
    s.pushStores k (storeEnts ea 4 (((s.arch k).get d).toNat % 256 ^ 4) (((s.arch k).cap a).may permHold)) = some t →
    exec (.mcSxSw n d a b e) s = .next (s.coreDone t k)) ∧
  (∀ (s t : State) (n : Fin 4) (k : Nat) (d a b e : Fin 32) (ea : Nat),
    s.CoreReady n k → a.val < 16 → e.val < 4 → d.val % 2 = 0 → ea = (s.arch k).eaOf a ((s.arch k).scaled b e) →
    capCheck ((s.arch k).cap a) a 2 ea 8 [permStore] false = none → (s.arch k).spillGuard a ea = none →
    s.badAccess ea 8 = false →
    s.pushStores k (storePair ea (((s.arch k).get d).toNat + 2 ^ 32 * ((s.arch k).get (d + 1)).toNat) (((s.arch k).cap a).may permHold)) = some t →
    exec (.mcSxSd n d a b e) s = .next (s.coreDone t k)) ∧
  (∀ (s t : State) (n : Fin 4) (k : Nat) (d c : Fin 32) (off : BitVec 16) (ea : Nat),
    s.CoreReady n k → c.val < 16 → d.val < 16 → ea = (s.arch k).eaOf c (off.signExtend 32) →
    capCheck ((s.arch k).cap c) c 2 ea 16 (if ((s.arch k).cap d).tag then [permStore, permStcap] else [permStore]) true = none →
    (s.arch k).spillGuard c ea = none → s.badAccess ea 16 = false →
    s.pushStores k (storeCap ea ((s.arch k).cap d) (((s.arch k).cap d).tag && (((s.arch k).cap d).may permGlobal || c.val == 2)) (((s.arch k).cap c).may permHold)) = some t →
    exec (.mcSc n d c off) s = .next (s.coreDone t k)) ∧
  (∀ (s t : State) (n : Fin 4) (k : Nat) (d a b : Fin 32) (ea v : Nat) (tag : Bool),
    s.CoreReady n k → a < 16 → ea = ((s.arch k).cap a).cursor.toNat →
    capCheck ((s.arch k).cap a) a 3 ea 4 [permLoad, permStore] true = none → (s.arch k).spillGuard a ea = none →
    s.badAccess ea 4 = false → s.coreLoad k true ea 4 = .val t v tag →
    exec (.mcAmoSwap n d a b 0) s = .next (s.coreDone (t.loadUse k ea v tag (.amo 1 d ((s.arch k).get b))) k) ∧
    exec (.mcAmoAdd n d a b 0) s = .next (s.coreDone (t.loadUse k ea v tag (.amo 2 d ((s.arch k).get b))) k) ∧
    exec (.mcAmoAnd n d a b 0) s = .next (s.coreDone (t.loadUse k ea v tag (.amo 3 d ((s.arch k).get b))) k) ∧
    exec (.mcAmoOr n d a b 0) s = .next (s.coreDone (t.loadUse k ea v tag (.amo 4 d ((s.arch k).get b))) k)) ∧
  (∀ (s t : State) (n : Fin 4) (k : Nat) (d a b : Fin 32) (m ext count : Nat),
    s.CoreReady n k → (a.val ≠ 0 ∧ a.val < 16) → (d.val ≠ 0 ∧ d.val < 16) → count = ((s.arch k).get b).toNat →
    capCheck ((s.arch k).cap a) a 1 ((s.arch k).cap a).cursor.toNat count [permLoad] false = none →
    capCheck ((s.arch k).cap d) d 2 ((s.arch k).cap d).cursor.toNat count [permStore] false = none →
    (s.arch k).spillGuard d ((s.arch k).cap d).cursor.toNat = none → s.blockRun k d (some a.val) b 0 ext count m = .next t →
    exec (.mcBcopy n d a b 0 m ext) s = .next (s.coreDone t k)) ∧
  (∀ (s t : State) (n : Fin 4) (k : Nat) (d a b : Fin 32) (m ext count : Nat),
    s.CoreReady n k → (a.val ≠ 0 ∧ a.val < 16) → (d.val ≠ 0 ∧ d.val < 16) → count = ((s.arch k).get b).toNat →
    capCheck ((s.arch k).cap a) a 1 ((s.arch k).cap a).cursor.toNat count [permLoad] false = none →
    capCheck ((s.arch k).cap d) d 2 ((s.arch k).cap d).cursor.toNat count [permStore] false = none →
    (s.arch k).spillGuard d ((s.arch k).cap d).cursor.toNat = none → s.blockRun k d (some a.val) b 0 ext count m = .stop t →
    exec (.mcBcopy n d a b 0 m ext) s = .next (t.stepDone k)) ∧
  (∀ (s t : State) (n : Fin 4) (k : Nat) (d b e : Fin 32) (m count : Nat),
    s.CoreReady n k → (d.val ≠ 0 ∧ d.val < 16) → count = ((s.arch k).get b).toNat →
    capCheck ((s.arch k).cap d) d 2 ((s.arch k).cap d).cursor.toNat count [permStore] false = none →
    (s.arch k).spillGuard d ((s.arch k).cap d).cursor.toNat = none →
    s.blockRun k d none b (((s.arch k).get e).toNat % 256) 0 count m = .next t →
    exec (.mcBfill n d 0 b e m) s = .next (s.coreDone t k)) ∧
  (∀ (s t : State) (n : Fin 4) (k data : Nat) (o : OutLoad) (v : Nat) (tag : Bool) (u : State),
    s.outLoad n = some (k, o) →
    (s.outDone k).heldOver k o.ea o.use.size (.val (s.outDone k) (data % 256 ^ o.use.size) false) = .val t v tag →
    ((t.arch k).lastInLoop) = false → u = t.loadUse k o.ea v tag o.use →
    exec (.pcieCompletion n data) s = .next (t.coreDone u k)) ∧
  (∀ (s : State) (n : Fin 4) (k : Nat) (o : OutLoad) (u w : State),
    s.outLoad n = some (k, o) → u = (s.advanceTo (o.at' + 20000000)).outDone k →
    u.fault k (accessExc .error o.use.acc o.creg o.ea) = some w →
    exec (.pcieCompletionTimeout n) s = .next w)

/-- Core branches, jumps, calls, returns and loops complete: in each clause the command, in the state its hypotheses describe,
answers a next state, which the clause gives. The hypotheses name the ready core (CoreReady) and what the operands must be.
Commands: MC_BEQ, MC_BNE, MC_BLT, MC_BGE, MC_BLTU, MC_BGEU, MC_J, MC_CALL, MC_JC, MC_CALLC, MC_RETC, MC_RET, MC_LOOP,
MC_ENDLOOP. -/
def Obligations.CoreControlFlowInstructionsComplete : Prop :=
  (∀ (s : State) (n : Fin 4) (k : Nat) (a b : Fin 32) (off : BitVec 16) (x : Nat),
    s.CoreReady n k → ((s.arch k).get a == (s.arch k).get b) = true → x = (s.arch k).rel (off.signExtend 32) →
    (s.arch k).near x = none →
    exec (.mcBeq n a b off) s = .next ((s.onArch k fun r => r.leave x).coreGoto k x)) ∧
  (∀ (s : State) (n : Fin 4) (k : Nat) (a b : Fin 32) (off : BitVec 16),
    s.CoreReady n k → ((s.arch k).get a == (s.arch k).get b) = false →
    exec (.mcBeq n a b off) s = .next (s.coreDone s k)) ∧
  (∀ (s : State) (n : Fin 4) (k : Nat) (a b : Fin 32) (off : BitVec 16) (x : Nat),
    s.CoreReady n k → ((s.arch k).get a != (s.arch k).get b) = true → x = (s.arch k).rel (off.signExtend 32) →
    (s.arch k).near x = none →
    exec (.mcBne n a b off) s = .next ((s.onArch k fun r => r.leave x).coreGoto k x)) ∧
  (∀ (s : State) (n : Fin 4) (k : Nat) (a b : Fin 32) (off : BitVec 16),
    s.CoreReady n k → ((s.arch k).get a != (s.arch k).get b) = false →
    exec (.mcBne n a b off) s = .next (s.coreDone s k)) ∧
  (∀ (s : State) (n : Fin 4) (k : Nat) (a b : Fin 32) (off : BitVec 16) (x : Nat),
    s.CoreReady n k → ((s.arch k).get a).slt ((s.arch k).get b) = true → x = (s.arch k).rel (off.signExtend 32) →
    (s.arch k).near x = none →
    exec (.mcBlt n a b off) s = .next ((s.onArch k fun r => r.leave x).coreGoto k x)) ∧
  (∀ (s : State) (n : Fin 4) (k : Nat) (a b : Fin 32) (off : BitVec 16),
    s.CoreReady n k → ((s.arch k).get a).slt ((s.arch k).get b) = false →
    exec (.mcBlt n a b off) s = .next (s.coreDone s k)) ∧
  (∀ (s : State) (n : Fin 4) (k : Nat) (a b : Fin 32) (off : BitVec 16) (x : Nat),
    s.CoreReady n k → (!((s.arch k).get a).slt ((s.arch k).get b)) = true → x = (s.arch k).rel (off.signExtend 32) →
    (s.arch k).near x = none →
    exec (.mcBge n a b off) s = .next ((s.onArch k fun r => r.leave x).coreGoto k x)) ∧
  (∀ (s : State) (n : Fin 4) (k : Nat) (a b : Fin 32) (off : BitVec 16),
    s.CoreReady n k → (!((s.arch k).get a).slt ((s.arch k).get b)) = false →
    exec (.mcBge n a b off) s = .next (s.coreDone s k)) ∧
  (∀ (s : State) (n : Fin 4) (k : Nat) (a b : Fin 32) (off : BitVec 16) (x : Nat),
    s.CoreReady n k → ((s.arch k).get a).ult ((s.arch k).get b) = true → x = (s.arch k).rel (off.signExtend 32) →
    (s.arch k).near x = none →
    exec (.mcBltu n a b off) s = .next ((s.onArch k fun r => r.leave x).coreGoto k x)) ∧
  (∀ (s : State) (n : Fin 4) (k : Nat) (a b : Fin 32) (off : BitVec 16),
    s.CoreReady n k → ((s.arch k).get a).ult ((s.arch k).get b) = false →
    exec (.mcBltu n a b off) s = .next (s.coreDone s k)) ∧
  (∀ (s : State) (n : Fin 4) (k : Nat) (a b : Fin 32) (off : BitVec 16) (x : Nat),
    s.CoreReady n k → (!((s.arch k).get a).ult ((s.arch k).get b)) = true → x = (s.arch k).rel (off.signExtend 32) →
    (s.arch k).near x = none →
    exec (.mcBgeu n a b off) s = .next ((s.onArch k fun r => r.leave x).coreGoto k x)) ∧
  (∀ (s : State) (n : Fin 4) (k : Nat) (a b : Fin 32) (off : BitVec 16),
    s.CoreReady n k → (!((s.arch k).get a).ult ((s.arch k).get b)) = false →
    exec (.mcBgeu n a b off) s = .next (s.coreDone s k)) ∧
  (∀ (s : State) (n : Fin 4) (k : Nat) (off : BitVec 26) (x : Nat),
    s.CoreReady n k → x = (s.arch k).rel (off.signExtend 32) → (s.arch k).near x = none →
    exec (.mcJ n off) s = .next ((s.onArch k fun r => r.leave x).coreGoto k x)) ∧
  (∀ (s t : State) (n : Fin 4) (k : Nat) (off : BitVec 26) (x : Nat),
    s.CoreReady n k → x = (s.arch k).rel (off.signExtend 32) → (s.arch k).near x = none →
    s.slideFwd k ((s.arch k).pc + 4) = .ok t →
    exec (.mcCall n off) s = .next (t.coreGoto k x)) ∧
  (∀ (s : State) (n : Fin 4) (k : Nat) (a : Fin 32) (c : Cap),
    s.CoreReady n k → a.val < 16 → c = (s.arch k).cap a → execCheck c a 5 c.cursor.toNat = none →
    exec (.mcJc n 0 a 0 0) s = .next (((s.onArch k fun r => r.setCap 0 c).onArch k fun r => r.leave c.cursor.toNat).coreGoto k
      c.cursor.toNat)) ∧
  (∀ (s t : State) (n : Fin 4) (k : Nat) (a : Fin 32) (c : Cap),
    s.CoreReady n k → a.val < 16 → c = (s.arch k).cap a → execCheck c a 5 c.cursor.toNat = none →
    s.slideFwd k ((s.arch k).pc + 4) = .ok t →
    exec (.mcCallc n 0 a 0 0) s = .next ((t.onArch k fun r => (r.setCap 14 { (s.arch k).cap 0 with
      cursor := BitVec.ofNat 32 ((s.arch k).pc + 4) }).setCap 0 c).coreGoto k c.cursor.toNat)) ∧
  (∀ (s t : State) (n : Fin 4) (k : Nat) (a : Fin 32) (c : Cap),
    s.CoreReady n k → a.val < 16 → c = (s.arch k).cap a → execCheck c a 5 c.cursor.toNat = none → s.slideBack k = .ok t →
    exec (.mcRetc n 0 a 0 0) s = .next ((t.onArch k fun r => r.setCap 0 c).coreGoto k c.cursor.toNat)) ∧
  (∀ (s t : State) (n : Fin 4) (k x : Nat),
    s.CoreReady n k → x = (s.arch k).win0.link.toNat → (s.arch k).near x = none → s.slideBack k = .ok t →
    exec (.mcRet n 0 0 0 0) s = .next (t.coreGoto k x)) ∧
  (∀ (s : State) (n : Fin 4) (k : Nat) (a : Fin 32) (off : BitVec 16),
    s.CoreReady n k → 2 ≤ off.toNat → (s.arch k).act = false → (s.arch k).get a ≠ 0 →
    exec (.mcLoop n a 0 off) s = .next (s.coreSet k fun r => r.setWin0 { r.win0 with
      lstart := BitVec.ofNat 32 ((s.arch k).pc + 4)
      lend := BitVec.ofNat 32 ((s.arch k).pc + 4 * off.toNat)
      lctl := BitVec.ofNat 32 (32 + a.val) })) ∧
  (∀ (s : State) (n : Fin 4) (k : Nat) (a : Fin 32) (off : BitVec 16),
    s.CoreReady n k → 2 ≤ off.toNat → (s.arch k).act = false → (s.arch k).get a = 0 →
    exec (.mcLoop n a 0 off) s = .next (s.coreGoto k ((s.arch k).pc + 4 * off.toNat + 4))) ∧
  (∀ (s : State) (n : Fin 4) (k : Nat),
    s.CoreReady n k →
    exec (.mcEndloop n 0) s = .next (s.coreDone s k))

/-- Core capability instructions complete with their result: in each clause the command, in the state its hypotheses describe,
answers a next state, which the clause gives. The hypotheses name the ready core (CoreReady) and what the operands must be.
Commands: MC_SGMOV, MC_SGBASE, MC_SGLEN, MC_SGPERM, MC_SGTYPE, MC_SGTAG, MC_SGCUR, MC_SGSETC, MC_SGADDC, MC_SGNARROW,
MC_SGMASK, MC_SGSEAL, MC_SGOPEN, MC_SGVOID, MC_SGADDCI. -/
def Obligations.CoreCapabilityInstructionsComplete : Prop :=
  (∀ (s : State) (n : Fin 4) (k : Nat) (d a : Fin 32),
    s.CoreReady n k → (d.val ≠ 0 ∧ d < 16) → a < 16 →
    exec (.mcSgmov n d a 0 0) s = .next (s.coreSet k fun r => r.setCap d ((s.arch k).cap a))) ∧
  (∀ (s : State) (n : Fin 4) (k : Nat) (d a : Fin 32),
    s.CoreReady n k → a < 16 →
    exec (.mcSgbase n d a 0 0) s = .next (s.coreSet k fun r => r.set d (r.cap a).base) ∧
    exec (.mcSglen n d a 0 0) s = .next (s.coreSet k fun r => r.set d (r.cap a).length) ∧
    exec (.mcSgperm n d a 0 0) s = .next (s.coreSet k fun r => r.set d ((r.cap a).perms.zeroExtend 32)) ∧
    exec (.mcSgtype n d a 0 0) s = .next (s.coreSet k fun r => r.set d ((r.cap a).otype.zeroExtend 32)) ∧
    exec (.mcSgtag n d a 0 0) s = .next (s.coreSet k fun r => r.set d (BitVec.ofNat 32 (bit (r.cap a).tag))) ∧
    exec (.mcSgcur n d a 0 0) s = .next (s.coreSet k fun r => r.set d (r.cap a).cursor)) ∧
  (∀ (s : State) (n : Fin 4) (k : Nat) (d a b : Fin 32) (c : Cap),
    s.CoreReady n k → (d.val ≠ 0 ∧ d < 16) → a < 16 → c = (s.arch k).cap a → c.isSealed = false →
    exec (.mcSgsetc n d a b 0) s = .next (s.coreSet k fun r => r.setCap d { c with cursor := (s.arch k).get b }) ∧
    exec (.mcSgaddc n d a b 0) s = .next (s.coreSet k fun r => r.setCap d { c with cursor := c.cursor + (s.arch k).get b })) ∧
  (∀ (s : State) (n : Fin 4) (k : Nat) (d a b e : Fin 32) (c : Cap),
    s.CoreReady n k → (d.val ≠ 0 ∧ d < 16) → a < 16 → c = (s.arch k).cap a → c.tag = true → c.isSealed = false →
    ((s.arch k).get b).toNat + ((s.arch k).get e).toNat ≤ c.length.toNat →
    exec (.mcSgnarrow n d a b e) s = .next (s.coreSet k fun r => r.setCap d { c with
      base := c.base + (s.arch k).get b, length := (s.arch k).get e, cursor := c.base + (s.arch k).get b })) ∧
  (∀ (s : State) (n : Fin 4) (k : Nat) (d a b : Fin 32) (c : Cap),
    s.CoreReady n k → (d.val ≠ 0 ∧ d < 16) → a < 16 → c = (s.arch k).cap a → c.tag = true → c.isSealed = false →
    exec (.mcSgmask n d a b 0) s = .next (s.coreSet k fun r => r.setCap d { c with perms := c.perms &&& ((s.arch k).get b).truncate 16 })) ∧
  (∀ (s : State) (n : Fin 4) (k : Nat) (d a b e : Fin 32) (c x : Cap) (y : Nat),
    s.CoreReady n k → (d.val ≠ 0 ∧ d < 16) → a < 16 → e.val < 16 → c = (s.arch k).cap a → x = (s.arch k).cap e →
    y = ((s.arch k).get b).toNat → c.tag = true → x.tag = true → c.isSealed = false → x.isSealed = false →
    x.may permSeal = true → (0 < y ∧ y ≤ 0xFFFF) → (x.base.toNat ≤ y ∧ y < x.base.toNat + x.length.toNat) →
    exec (.mcSgseal n d a b e) s = .next (s.coreSet k fun r => r.setCap d { c with otype := BitVec.ofNat 16 y })) ∧
  (∀ (s : State) (n : Fin 4) (k : Nat) (d a e : Fin 32) (c x : Cap) (y : Nat),
    s.CoreReady n k → (d.val ≠ 0 ∧ d < 16) → a < 16 → e.val < 16 → c = (s.arch k).cap a → x = (s.arch k).cap e →
    y = c.otype.toNat → c.tag = true → x.tag = true → c.isSealed = true → x.isSealed = false → x.may permUnseal = true →
    (x.base.toNat ≤ y ∧ y < x.base.toNat + x.length.toNat) →
    exec (.mcSgopen n d a 0 e) s = .next (s.coreSet k fun r => r.setCap d { c with otype := 0 })) ∧
  (∀ (s : State) (n : Fin 4) (k : Nat) (d a : Fin 32) (c : Cap),
    s.CoreReady n k → (d.val ≠ 0 ∧ d < 16) → a < 16 → c = (s.arch k).cap a →
    exec (.mcSgvoid n d a 0 0) s = .next (s.coreSet k fun r => r.setCap d { c with tag := false })) ∧
  (∀ (s : State) (n : Fin 4) (k : Nat) (d c : Fin 32) (off : BitVec 16) (x : Cap),
    s.CoreReady n k → (d.val ≠ 0 ∧ d < 16) → c < 16 → x = (s.arch k).cap c → x.isSealed = false →
    exec (.mcSgaddci n d c off) s = .next (s.coreSet k fun r => r.setCap d { x with cursor := x.cursor + off.signExtend 32 }))

/-- Core system instructions and system registers complete: in each clause the command, in the state its hypotheses describe,
answers a next state, which the clause gives. The hypotheses name the ready core (CoreReady) and what the operands must be.
Commands: MC_FENCE, MC_CKPT, MC_SPLIT, MC_JOIN, JOIN_RESYNC, MC_ERET, MC_WFI, MC_TRAP, MC_STOW, MC_BKPT, MC_MFSR, MC_MTSR. -/
def Obligations.CoreSystemInstructionsComplete : Prop :=
  (∀ (s t : State) (n : Fin 4) (k : Nat),
    s.CoreReady n k → s.drainAll k = some t →
    exec (.mcFence n 0 0 0 0) s = .next (s.coreDone t k)) ∧
  (∀ (s : State) (n : Fin 4) (k : Nat),
    s.CoreReady n k → s.releasing k = false →
    exec (.mcCkpt n 0 0 0 0) s = .next (((s.drainPart k 32).retire k ((s.arch k).pc + 4) false).ckptCommit k)) ∧
  (∀ (s : State) (n : Fin 4) (k : Nat) (d a b : Fin 32),
    s.CoreReady n k → a.val < 16 → b.val < 16 → ((s.arch k).cap 0).may permSys = true →
    execCheck ((s.arch k).cap b) b 5 ((s.arch k).cap b).cursor.toNat = none → s.pairMode (k / 2) = 0 →
    s.pairCode (k / 2) k none = 0 → s.releasing k = false →
    exec (.mcSplit n d a b 0) s = .next (State.splitOff ((((s.drainPart k 32).onArch k fun r => r.set d 0).retire k ((s.arch k).pc + 4)
      false).ckptCommit k) k ((s.arch k).cap a) ((s.arch k).cap b))) ∧
  (∀ (s : State) (n : Fin 4) (k : Nat) (d a b : Fin 32) (code : Nat),
    s.CoreReady n k → a.val < 16 → b.val < 16 → ((s.arch k).cap 0).may permSys = true →
    execCheck ((s.arch k).cap b) b 5 ((s.arch k).cap b).cursor.toNat = none →
    code = s.pairCode (k / 2) k (if s.pairMode (k / 2) = 0 then none else some 0xC0) → code ≠ 0 →
    exec (.mcSplit n d a b 0) s = .next (s.coreSet k fun r => r.set d (BitVec.ofNat 32 code))) ∧
  (∀ (s : State) (n : Fin 4) (k : Nat) (d : Fin 32) (u : State),
    s.CoreReady n k → ((s.arch k).cap 0).may permSys = true → s.pairMode (k / 2) = 1 → s.pairCode (k / 2) k none = 0 →
    s.releasing k = false → (u = ((s.drainPart k 32).joinStop (k + 1)).onCore k fun c => { c with run := .join }) →
    exec (.mcJoin n d 0 0 0) s = .next ((u.setPair (k / 2) { u.pair (k / 2) with
      joinAt := u.now + u.coreTime 65536, joinD := d }).stepDone k)) ∧
  (∀ (s : State) (n : Fin 4) (k : Nat) (d : Fin 32),
    s.CoreReady n k → ((s.arch k).cap 0).may permSys = true → s.pairMode (k / 2) = 0 →
    (s.arbHeld 8 (k / 2) = false ∧ s.arbHeld 9 (k / 2) = false) →
    exec (.mcJoin n d 0 0 0) s = .next (s.coreSet k fun r => r.set d 0xC1)) ∧
  (∀ (s : State) (p : Fin 2) (extra : Fin 14465) (u : State),
    (s.core (2 * p.val)).run = .join → u = s.joinCopied p extra → (u.arch (2 * p.val)).lastInLoop = false →
    exec (.joinResync p extra) s = .next (((u.onArch (2 * p.val) fun a => a.set (s.pair p).joinD 0).retire (2 * p.val)
      ((u.arch (2 * p.val)).pc + 4) false).ckptCommit (2 * p.val))) ∧
  (∀ (s : State) (n : Fin 4) (k : Nat) (x c : Cap) (u w : State) (v pc : Nat) (st : Word),
    s.CoreReady n k → ((s.arch k).cap 0).may permSys = true → x = (s.arch k).xstk → xstkCheck x = none →
    s.frameRead k x = .ok (u, v, c) → pc = v % 2 ^ 32 → execCheck c 0x10 5 pc = none →
    st = BitVec.ofNat 32 (v / 2 ^ 32) &&& 0x30F → u.chain k (fieldOf st 3 0) = none → u.slideBack k = .ok w →
    exec (.mcEret n 0 0 0 0) s = .next ((w.onArch k fun r => { r.setCap 0 { c with cursor := BitVec.ofNat 32 pc } with
      status := st, xstk := { x with cursor := x.cursor + 32 } }).coreGoto k pc)) ∧
  (∀ (s : State) (n : Fin 4) (k : Nat) (x c vec : Cap) (u w : State) (v pc l prio : Nat) (st : Word),
    s.CoreReady n k → ((s.arch k).cap 0).may permSys = true → x = (s.arch k).xstk → xstkCheck x = none →
    s.frameRead k x = .ok (u, v, c) → pc = v % 2 ^ 32 → execCheck c 0x10 5 pc = none →
    st = BitVec.ofNat 32 (v / 2 ^ 32) &&& 0x30F → u.chain k (fieldOf st 3 0) = some (w, l, prio, vec) →
    exec (.mcEret n 0 0 0 0) s = .next ((((w.onArch k fun r => { r.setCap 0 vec with
      pc := vec.cursor.toNat, status := withField r.status 3 0 prio }).clearPend k l).coreTrace k (2 ^ 11 * l + 1)).stepDone k)) ∧
  (∀ (s : State) (n : Fin 4) (k : Nat),
    s.CoreReady n k → s.winner k (s.arch k).ipl = none →
    exec (.mcWfi n 0 0 0 0) s = .next ((s.onCore k fun c => { c with run := .wait }).stepDone k)) ∧
  (∀ (s : State) (n : Fin 4) (k : Nat) (l : Nat × Nat),
    s.CoreReady n k → s.winner k (s.arch k).ipl = some l →
    exec (.mcWfi n 0 0 0 0) s = .next (s.coreDone s k)) ∧
  (∀ (s : State) (n : Fin 4) (k : Nat) (r u : State),
    s.CoreReady n k → r = s.retire k ((s.arch k).pc + 4) false →
    r.takeExc k { num := 0x0E, addr := some (s.arch k).pc } (r.arch k).pc false false = some u →
    exec (.mcTrap n 0 0 0 0) s = .next u) ∧
  (∀ (s t : State) (n : Fin 4) (k : Nat),
    s.CoreReady n k → s.stow k 7 = .ok t →
    exec (.mcStow n 0 0 0 0) s = .next (s.coreDone t k)) ∧
  (∀ (s : State) (n : Fin 4) (k : Nat),
    s.CoreReady n k → s.flag Reg.TP_DBGCTL (8 * (k / 2) + 4) = true → (¬ (s.pairMode (k / 2) = 1 ∧ k % 2 = 1)) →
    exec (.mcBkpt n 0 0 0 0) s = .next (s.coreDone (s.setFlag Reg.TP_DBGSTAT (k / 2) true) k)) ∧
  (∀ (s : State) (n : Fin 4) (k : Nat) (r u : State),
    s.CoreReady n k → s.flag Reg.TP_DBGCTL (8 * (k / 2) + 4) = false → r = s.retire k ((s.arch k).pc + 4) false →
    r.takeExc k { num := 0x0F, addr := some (s.arch k).pc } (r.arch k).pc false false = some u →
    exec (.mcBkpt n 0 0 0 0) s = .next u) ∧
  (∀ (s : State) (n : Fin 4) (k : Nat) (d : Fin 32) (imm : BitVec 16) (v : Word),
    s.CoreReady n k → ((s.arch k).cap 0).may permSys = true → imm.toNat < 0x40 → s.srRead k imm.toNat = some v →
    exec (.mcMfsr n d 0 imm) s = .next (s.coreSet k fun r => r.set d v)) ∧
  (∀ (s : State) (n : Fin 4) (k : Nat) (d : Fin 32),
    s.CoreReady n k → ((s.arch k).cap 0).may permSys = true → (d.val ≠ 0 ∧ d.val < 16) →
    exec (.mcMfsr n d 0 0x40) s = .next (s.coreSet k fun r => r.setCap d r.xstk)) ∧
  (∀ (s : State) (n : Fin 4) (k : Nat) (a : Fin 32) (imm : BitVec 16) (m : Word),
    s.CoreReady n k → ((s.arch k).cap 0).may permSys = true → srMask imm.toNat = some m → (s.arch k).get a &&& ~~~m = 0 →
    exec (.mcMtsr n 0 a imm) s = .next (s.coreDone (s.srWrite k imm.toNat ((s.arch k).get a)) k)) ∧
  (∀ (s : State) (n : Fin 4) (k : Nat) (a : Fin 32),
    s.CoreReady n k → ((s.arch k).cap 0).may permSys = true → a.val < 16 →
    exec (.mcMtsr n 0 a 0x40) s = .next (s.coreSet k fun r => { r with xstk := r.cap a }))

/-- Core entries, releases, store-buffer and cache commands complete: in each clause the command, in the state its hypotheses
describe, answers a next state, which the clause gives. The hypotheses are on the state before the command and on its
operands. Commands: INTERRUPT_ENTRY, EXCEPTION_ENTRY, STORE_BUFFER_DRAIN, HOLD_QUEUE_RELEASE, CKPT_DUE_RAISE, SET_PENDING,
DATA_CACHE_INVALIDATE, INSTRUCTION_CACHE_INVALIDATE, CACHE_INVALIDATION_DONE. -/
def Obligations.CoreEntryAndQueueCommandsComplete : Prop :=
  (∀ (s : State) (n : Fin 4) (k l prio : Nat) (u w : State),
    s.entryLead n = some k → s.winner k (s.arch k).ipl = some (l, prio) → u = s.wake k →
    u.outputMism k ((u.arch k).ivt.toNat + 16 * l) = none → (u.core k).arith = none → (u.core k).due = false →
    u.takeInt k l prio (u.arch k).pc = some w →
    exec (.interruptEntry n) s = .next w) ∧
  (∀ (s : State) (n : Fin 4) (k : Nat) (ill : Option (BitVec 32)) (r : Arith) (u : State),
    s.entryLead n = some k → (s.core k).arith = some r → s.takeArith k r (s.arch k).pc = some u →
    exec (.exceptionEntry n ill) s = .next u) ∧
  (∀ (s : State) (n : Fin 4) (k : Nat) (ill : Option (BitVec 32)) (u : State),
    s.entryLead n = some k → (s.core k).arith = none → (s.core k).due = true → s.takeDue k (s.arch k).pc = some u →
    exec (.exceptionEntry n ill) s = .next u) ∧
  (∀ (s : State) (n : Fin 4) (k : Nat) (w : BitVec 32) (u : State),
    s.entryLead n = some k → s.CoreReady n k → molpaAssigned w.toNat = false →
    s.takeExc k { num := 0x01, addr := some w.toNat } (s.arch k).pc false false = some u →
    exec (.exceptionEntry n (some w)) s = .next u) ∧
  (∀ (s t : State) (n : Fin 4) (k : Nat) (e : StoreEnt) (l : List StoreEnt),
    s.lead n = some k → s.unitOn k = true → (s.core k).sb = e :: l → s.outputMism k e.addr = none → s.drainOne k = some t →
    exec (.storeBufferDrain n) s = .next t) ∧
  (∀ (s : State) (n : Fin 4) (k : Nat) (c : Core),
    s.lead n = some k → s.unitOn k = true → c = s.core k →
    exec (.holdQueueRelease n) s = .next ((s.setCore k { c with
      hold := c.hold.drop c.release, sb := c.sb.drop c.releaseSb, release := 0, releaseSb := 0 }).storesOut k false
        (c.hold.take c.release ++ c.sb.take c.releaseSb))) ∧
  (∀ (s : State) (n : Fin 4) (k why : Nat) (u : State),
    s.lead n = some k → s.unitOn k = true → (s.core k).run = .run → s.halted (k / 2) = false → (s.core k).dueAt = none →
    s.dueWhy k = some why → (u = s.onCore k fun c => { c with dueAt := some s.now, due := true }) →
    exec (.ckptDueRaise n) s = .next ((u.setFld (Reg.RD_STAT (k / 2)) 26 25 why).satInc (Reg.RD_CNT (k / 2)) 7 0)) ∧
  (∀ (s : State) (n : Fin 4) (k : Nat) (v : BitVec 32),
    s.lead n = some k → s.mayRun k = true →
    exec (.setPending n v) s = .next (s.icfgWrite k (fieldOf (s.arch k).isel 8 0) (withField v 1 1 1)) ∧
    exec (.dataCacheInvalidate n) s = .next (s.onCore k fun c => { c with
      dcache := [], invDue := some (s.now + s.coreTime 256) }) ∧
    exec (.instructionCacheInvalidate n) s = .next (s.onCore k fun c => { c with
      icache := [], invDue := some (s.now + s.coreTime 256) })) ∧
  (∀ (s : State) (n : Fin 4) (k e : Nat),
    s.lead n = some k → (s.core k).invDue = some e →
    exec (.cacheInvalidationDone n) s = .next ((s.advanceTo e).onCore k fun c => { c with invDue := none }))

/-- Redundancy and microcode patch commands complete: in each clause the command, in the state its hypotheses describe, answers a
next state, which the clause gives. The hypotheses are on the state before the command and on its operands. Commands:
ROLLBACK_RESUME, CHECKER_MISMATCH, CORE_BIST_DONE, CKPT_DUE_TIMEOUT, PAIR_RESTART_COMMAND, PATCH_ARM, PATCH_CANCEL,
PATCH_INSTALL. -/
def Obligations.RedundancyAndPatchCommandsComplete : Prop :=
  (∀ (s : State) (n : Fin 4) (k : Nat),
    s.lead n = some k → (s.core k).run = .resume →
    exec (.rollbackResume n) s = .next ((s.advanceTo (s.core k).resumeAt).rollResume k)) ∧
  (∀ (s : State) (p : Fin 2) (kind : Fin 4) (port : Bool) (a : BitVec 32),
    s.pairMode p = 0 → ((s.core (2 * p)).run = .run ∨ (s.core (2 * p)).run = .wait ∨ (s.core (2 * p)).run = .load) →
    exec (.checkerMismatch p kind port a) s = .next (s.mismatch p kind (bit port) a.toNat)) ∧
  (∀ (s : State) (p : Fin 2) (t : Nat),
    (s.pair p).bist = some t → (s.pair p).bistRun = true →
    exec (.coreBistDone p true true) s = .next (((((((s.advanceTo ((s.pair p).bistAt + 2000000)).setPair p { s.pair p with
      bist := none, bistRun := false }).arbRelease t).setFld (Reg.RD_STAT p) 24 23 1).setMode p 0).rollback (2 * p))) ∧
    (∃ u, exec (.coreBistDone p false false) s = .next ((((State.repairCommit u).setMode p 3).onCore (2 * p) fun c =>
      { c with run := .halt })) ∧ nsetHas u.repairs.cores (2 * p) = true ∧ nsetHas u.repairs.cores (2 * p + 1) = true) ∧
    (∃ u, exec (.coreBistDone p true false) s = .next ((State.repairCommit u).rollback (2 * p)) ∧
      nsetHas u.repairs.cores (2 * p + 1) = true) ∧
    (∃ u v f, exec (.coreBistDone p false true) s = .next (State.rollback (State.setCore (State.setCore { v with icfg := f } (2 * p) {})
      (2 * p + 1) { v.core (2 * p) with undo := (v.core (2 * p)).undo.map fun x => { x with granule := x.granule + 0x40000 / 16 } })
        (2 * p + 1)) ∧ v = State.repairCommit u ∧ nsetHas u.repairs.cores (2 * p) = true)) ∧
  (∀ (s : State) (n : Fin 4) (k e : Nat),
    s.lead n = some k → (s.core k).dueAt = some e → s.halted (k / 2) = false →
    exec (.ckptDueTimeout n) s = .next ((s.advanceTo (e + 20000)).coldRestart k)) ∧
  (∀ (s : State) (p : Fin 2) (cold : Bool),
    s.coreFailed (2 * p) = false → s.pairMode p = 0 → (s.core (2 * p)).run ≠ .off →
    exec (.pairRestartCommand p cold) s = .next (if cold then s.coldRestart (2 * p) else s.rollback (2 * p))) ∧
  (∀ (s : State) (v : BitVec 32) (w : Word),
    w = BitVec.ofNat 32 (s.fld Reg.MCODE_CTRL 3 0) ||| v → fieldOf w 3 0 &&& (15 - s.fld Reg.MCODE_CTRL 3 0) ≠ 0 →
    s.armFails (fieldOf w 3 0) (fieldOf w 3 0 &&& (15 - s.fld Reg.MCODE_CTRL 3 0)) = [] →
    exec (.patchArm v true) s = .next ((((s.setFld Reg.MCODE_CTRL 3 0 (fieldOf w 3 0)).setFlag Reg.MCODE_STAT 0 true).cfgOk
      Reg.MCODE_CFGCHK).armDone)) ∧
  (∀ (s : State) (v : BitVec 32) (w : Word),
    w = BitVec.ofNat 32 (s.fld Reg.MCODE_CTRL 3 0) &&& ~~~v → fieldOf w 3 0 &&& (15 - s.fld Reg.MCODE_CTRL 3 0) = 0 →
    exec (.patchCancel v true) s = .next ((s.setFld Reg.MCODE_CTRL 3 0 (fieldOf w 3 0)).armDone)) ∧
  (∀ (s : State) (v : BitVec 32),
    exec (.patchArm v false) s = .next (s.setFlag Reg.MCODE_STAT 9 true) ∧
    exec (.patchCancel v false) s = .next (s.setFlag Reg.MCODE_STAT 9 true)) ∧
  (∀ (s : State) (n : Fin 4) (ok : Bool) (k : Nat),
    s.lead n = some k → (s.core k).run = .patch → (s.core k).sb = [] →
    exec (.patchInstall n ok) s = .next ((s.advanceTo (s.now + s.coreTime 1602)).patchEnd k ok))

/-- Memory correction, scrub and clear commands complete: in each clause the command, in the state its hypotheses describe,
answers a next state, which the clause gives. The hypotheses are on the state before the command and on its operands.
Commands: PAGE_CORRECTION, INIT_CLEAR_DONE, ECC_STRENGTH_WRITE, SCRUB_START, CLEAR_START, SCRUB_STOP, SCRUB_PASS_DONE,
SRAM_PAGE_REMAP. -/
def Obligations.MemoryMaintenanceCommandsComplete : Prop :=
  (∀ (s : State) (a : BitVec 32) (p : Fin 16),
    (regionOf a.toNat = .sram ∨ regionOf a.toNat = .mapStore) → s.domOn (domMem a.toNat) = true → s.detects a.toNat = true →
    s.pageErrors a.toNat ≤ s.strength a.toNat →
    exec (.pageCorrection a p) s = .next ((s.pageFix a.toNat).memReport (pageMem a.toNat) 0 p (s.pageErrors a.toNat)
      (a.toNat / 8 * 8))) ∧
  (∀ (s : State),
    s.flag Reg.MG_MEMSTAT 7 = true →
    exec .initClearDone s = .next ((s.advanceTo s.mem.initDue).setFlag Reg.MG_MEMSTAT 7 false)) ∧
  (∀ (s : State) (k : Fin 9) (v : BitVec 32),
    (if k.val = 8 then BitVec.ofNat 32 (v.toNat % 256) else v) ≠ s.reg (Reg.MG_ECCSTR k) →
    (s.phase = 1 ∨ s.phase = 3 ∨ s.phase = 4) →
    (∀ r < (if k.val = 8 then 4 else 16), fieldOf (if k.val = 8 then BitVec.ofNat 32 (v.toNat % 256) else v) (2 * r + 1) (2 * r) ≠ 0) →
    (∃ u, exec (.eccStrengthWrite k v) s = .next u ∧
      u.reg (Reg.MG_ECCSTR k) = (if k.val = 8 then BitVec.ofNat 32 (v.toNat % 256) else v) ∧ u.reg Reg.MG_MEMCFGCHK = 0)) ∧
  (∀ (s : State) (v : BitVec 32) (t : Nat) (w : State),
    bitOf v 8 = false → s.flag Reg.MG_SCRUBCTL 0 = false → s.mem.scrubTicket = none →
    (s.setFld Reg.MG_SCRUBCTL 1 1 0).scrubFails = [] →
    (s.setFld Reg.MG_SCRUBCTL 1 1 0).arbRequest 1 (scrubRes (s.fld Reg.MG_SCRUBBASE 31 8 * 256)) = (.accepted t, w) →
    (∃ u, exec (.scrubStart v) s = .next u ∧ u.flag Reg.MG_SCRUBCTL 0 = true ∧ u.mem.scrubTicket = some t)) ∧
  (∀ (s : State) (v : BitVec 32) (t : Nat) (w : State),
    bitOf v 8 = false → s.flag Reg.MG_SCRUBCTL 0 = false → s.mem.scrubTicket = none →
    (s.setFld Reg.MG_SCRUBCTL 1 1 1).scrubFails = [] →
    (s.setFld Reg.MG_SCRUBCTL 1 1 1).arbRequest 1 (scrubRes (s.fld Reg.MG_SCRUBBASE 31 8 * 256)) = (.accepted t, w) →
    (∃ u, exec (.clearStart v) s = .next u ∧ u.flag Reg.MG_SCRUBCTL 0 = true ∧ u.mem.scrubTicket = some t)) ∧
  (∀ (s : State) (v : BitVec 32) (n : Nat),
    bitOf v 8 = false → s.flag Reg.MG_SCRUBCTL 0 = true →
    exec (.scrubStop v n) s = .next (s.scrubRun n).scrubEnd) ∧
  (∀ (s : State),
    s.flag Reg.MG_SCRUBCTL 0 = true →
    exec .scrubPassDone s = .next (s.scrubRun (s.fld Reg.MG_SCRUBLEN 16 0)).scrubEnd) ∧
  (∀ (s : State) (p : Fin 32768),
    ((s.repairs.pages.filter fun q => q.1 / 0x1000 == p.val / 0x1000).length < 128) →
    (∃ u, exec (.sramPageRemap p) s = .next (State.sparesSync (State.repairCommit u)) ∧
      mapGet 0 u.repairs.pages (0x1000 * (p.val / 0x1000) + (s.repairs.pages.filter fun q => q.1 / 0x1000 == p.val / 0x1000).length)
        = p))

/-- Flash and ledger commands complete: in each clause the command, in the state its hypotheses describe, answers a next state,
which the clause gives. The hypotheses are on the state before the command and on its operands. Commands: FLASH_PROGRAM,
FLASH_ERASE, FLASH_PROGRAM_DONE, FLASH_ERASE_DONE, FLASH_SUSPEND, ERASE_SUSPENDED, FLASH_RESUME, FLASH_ACKRECOV,
FC_CTRL_WRITE, FC_XO_WRITE, SECTOR_REMAP, LEDGER_COMMIT, LEDGER_READ, LEDGER_COMMAND_DONE, LEDGER_DIRECT_WRITE. -/
def Obligations.FlashAndLedgerCommandsComplete : Prop :=
  (∀ (s : State) (v : BitVec 32) (t : Nat) (u : State),
    s.flashFails 1 (fieldOf v 8 8) (s.fld Reg.FC_ADDR 22 0) = [] →
    (s.cfgOk Reg.FC_CFGCHK).arbRequest 6 (fieldOf v 8 8) = (.accepted t, u) →
    exec (.flashProgram v) s = .next ((u.setBank (fieldOf v 8 8) { u.bank (fieldOf v 8 8) with
      op := some ⟨false, s.fld Reg.FC_ADDR 22 0, t, false, false⟩ }).flashGrant (fieldOf v 8 8))) ∧
  (∀ (s : State) (v : BitVec 32) (t : Nat) (u : State),
    s.flashFails 2 (fieldOf v 8 8) (s.fld Reg.FC_ADDR 22 0) = [] →
    (s.cfgOk Reg.FC_CFGCHK).arbRequest 5 (fieldOf v 8 8) = (.accepted t, u) →
    exec (.flashErase v) s = .next ((u.setBank (fieldOf v 8 8) { u.bank (fieldOf v 8 8) with
      op := some ⟨true, s.fld Reg.FC_ADDR 22 0, t, false, false⟩ }).flashGrant (fieldOf v 8 8))) ∧
  (∀ (s : State) (b : Fin 2) (o : FlashOp),
    (s.bank b).op = some o → o.erase = false → o.started = true →
    exec (.flashProgramDone b true) s = .next ((((List.range 128).foldl (fun u i =>
      u.setWord (flashAddr b o.target + 4 * i) (u.reg (Reg.FC_PBUF b i))) s).setIntent b 0).flashEnd b) ∧
    (∃ u : State, exec (.flashProgramDone b false) s = .next ((u.setIntent b 0).flashEnd b) ∧ u.flag (Reg.FC_STAT b) 3 = true)) ∧
  (∀ (s : State) (b : Fin 2) (o : FlashOp),
    (s.bank b).op = some o → o.erase = true → s.fld (Reg.FC_STAT b) 31 30 = 2 →
    exec (.flashEraseDone b true) s = .next ((((s.sectorWipe b o.target).setSector b (o.target / 65536) 0).setIntent b 0).flashEnd b) ∧
    (∃ u : State, exec (.flashEraseDone b false) s = .next ((u.setIntent b 0).flashEnd b) ∧ u.flag (Reg.FC_STAT b) 4 = true)) ∧
  (∀ (s : State) (v : BitVec 32) (o : FlashOp),
    s.flashFails 3 (fieldOf v 8 8) (s.fld Reg.FC_ADDR 22 0) = [] → (s.bank (fieldOf v 8 8)).op = some o →
    (∃ u, exec (.flashSuspend v) s = .next u ∧ (u.bank (fieldOf v 8 8)).op = some { o with stopping := true })) ∧
  (∀ (s : State) (b : Fin 2) (o : FlashOp),
    (s.bank b).op = some o → o.stopping = true →
    (∃ u, exec (.eraseSuspended b) s = .next u ∧ u.fld (Reg.FC_STAT b) 31 30 = 3)) ∧
  (∀ (s : State) (v : BitVec 32),
    s.flashFails 4 (fieldOf v 8 8) (s.fld Reg.FC_ADDR 22 0) = [] →
    (∃ u, exec (.flashResume v) s = .next u ∧ u.fld (Reg.FC_STAT (fieldOf v 8 8)) 31 30 = 2)) ∧
  (∀ (s : State) (v : BitVec 32),
    s.flashFails 5 (fieldOf v 8 8) (s.fld Reg.FC_ADDR 22 0) = [] →
    (∃ u, exec (.flashAckrecov v) s = .next u ∧ u.reg (Reg.FC_RECOV (fieldOf v 8 8)) = 0 ∧ u.reg (Reg.FC_RISK (fieldOf v 8 8)) = 0 ∧
      u.flag (Reg.FC_STAT (fieldOf v 8 8)) 7 = false)) ∧
  (∀ (s : State) (v : BitVec 32),
    fieldOf v 17 16 ≠ 0 → fieldOf v 19 18 ≠ 0 → waitStates (s.fld Reg.PM_OPSTAT 1 0) s.vddCode ≤ fieldOf v 3 0 →
    fieldOf v 17 16 = s.fld Reg.FC_CTRL 17 16 → fieldOf v 19 18 = s.fld Reg.FC_CTRL 19 18 →
    exec (.fcCtrlWrite v) s = .next ((s.setReg Reg.FC_CTRL (v &&& 0x000F010F)).cfgOk Reg.FC_CFGCHK)) ∧
  (∀ (s : State) (k : Fin 16) (v : BitVec 32),
    s.flag (Reg.FC_XO k) 30 = false → (bitOf v 31 = true → fieldOf v 22 16 ≤ fieldOf v 6 0) →
    exec (.fcXoWrite k v) s = .next ((s.setReg (Reg.FC_XO k) (v &&& 0xC17F007F)).cfgOk Reg.FC_CFGCHK)) ∧
  (∀ (s : State) (b : Fin 2) (k : Fin 128),
    ((s.repairs.sectors.filter fun p => p.1 / 0x1000 == b.val).length < 8) →
    (∃ u, exec (.sectorRemap b k) s = .next (State.sparesSync (State.repairCommit u)) ∧ mapGet 0 u.repairs.sectors (0x1000 * b.val +
      (s.repairs.sectors.filter fun p => p.1 / 0x1000 == b.val).length) = k ∧ (u.bank b).buf = none)) ∧
  (∀ (s : State) (v : BitVec 32),
    s.flag Reg.LG_STAT 0 = false → fieldOf v 13 8 ≠ 0 → fieldOf v 13 8 ≠ 63 →
    (∃ u w : State, ∃ r, s.setRecord (fieldOf v 23 16) = (w, r) ∧ exec (.ledgerCommit v) s = .next u ∧ u.flag Reg.LG_STAT 0 = true ∧
      u.flash.ledger = some ⟨false, fieldOf v 23 16, (match r with | some (k, _) => 1 - k | none => 0), fieldOf v 13 8,
        (match r with | some (_, p) => (p + 1) % 65536 | none => 1), w.now, 0⟩)) ∧
  (∀ (s : State) (v : BitVec 32) (w : State) (k p : Nat),
    s.flag Reg.LG_STAT 0 = false → s.setRecord (fieldOf v 23 16) = (w, some (k, p)) →
    (∃ u, exec (.ledgerRead v) s = .next u ∧ u.flag Reg.LG_STAT 0 = true ∧ u.flash.ledger = some ⟨true, fieldOf v 23 16, k,
      setLen (w.dword (slotAddr (fieldOf v 23 16) k)), p, w.now, 0⟩)) ∧
  (∀ (s : State) (o : LedgerOp),
    s.flash.ledger = some o →
    (∃ u : State, exec .ledgerCommandDone s = .next (State.pulseLine u 404) ∧ u.flash.ledger = none ∧
      u.fld Reg.LG_STAT 31 16 = o.pm % 2 ^ 16 ∧ u.fld Reg.LG_STAT 15 8 = o.len % 2 ^ 8 ∧ u.flag Reg.LG_STAT 0 = false ∧
      u.flag Reg.LG_STAT 1 = true)) ∧
  (∀ (s : State) (a : BitVec 32) (n : Fin 6) (v : BitVec 256) (m : Bool),
    regionOf a.toNat = .ledger →
    exec (.ledgerDirectWrite a n v m) s = .next (s.ledgerWrite (a.toNat / 2 ^ n.val * 2 ^ n.val) (2 ^ n.val)
      (v.toNat % 2 ^ (8 * 2 ^ n.val)) m).1)

/-- DMA commands complete: in each clause the command, in the state its hypotheses describe, answers a next state, which the
clause gives. The hypotheses are on the state before the command and on its operands. Commands: DMA_ENABLE, ENVELOPE_FETCH,
DMA_BURST_READ_DATA, DMA_READBACK_RESPONSE, DMA_ERROR_RESPONSE, DMA_ABORT, DMA_TIMEOUT, REGISTER_WRITE. -/
def Obligations.DmaCommandsComplete : Prop :=
  (∀ (s : State) (k : Fin 32) (v : BitVec 32),
    s.unitOn 0x2F = true → s.flag (Reg.DMA_CTL k) 0 = false → (s.dma k).endedAt ≠ some s.now →
    (s.reg (Reg.DMA_ENV k)).toNat % 32 = 0 →
    (∃ u, exec (.dmaEnable k v) s = .next u ∧ u.flag (Reg.DMA_CTL k) 0 = true ∧
      (u.dma k).fetch = some (s.reg (Reg.DMA_ENV k)).toNat ∧ u.fld (Reg.DMA_STAT k) 31 30 = 1)) ∧
  (∀ (s : State) (k : Fin 32) (ext a v : Nat) (t w : State) (e : Envelope),
    (s.dma k).fetch = some a → (s.dma k).prev = none → s.dmaOn = true → s.busRead (dmaMaster k) a 24 ext = (t, v, .ok) →
    e = envOf a v → w = (t.setReg (Reg.DMA_CUR k) (BitVec.ofNat 32 a)).setFld (Reg.DMA_RESID k) 24 0 e.len →
    w.envFails e none = [] →
    exec (.envelopeFetch k ext) s = .next (State.dmaState (w.setDma k { w.dma k with env := some e, fetch := none, progress := w.now }) k
      (if e.pace && (State.setDma w k { w.dma k with env := some e, fetch := none, progress := w.now }).fld (Reg.DMA_STAT k) 15 8 == 0
        then 2 else 1))) ∧
  (∀ (s : State) (k : Fin 32) (ext a v : Nat) (t w : State) (e : Envelope) (f : CfgFail),
    (s.dma k).fetch = some a → (s.dma k).prev = none → s.dmaOn = true → s.busRead (dmaMaster k) a 24 ext = (t, v, .ok) →
    e = envOf a v → w = (t.setReg (Reg.DMA_CUR k) (BitVec.ofNat 32 a)).setFld (Reg.DMA_RESID k) 24 0 e.len →
    pickFail (w.envFails e none) = some f →
    exec (.envelopeFetch k ext) s = .next ((w.cfgFail (Reg.DMA_CFGCHK k) f).envEnd k { e with len := e.len % 2 ^ 25 } (.error 4))) ∧
  (∀ (s : State) (k : Fin 32) (ext : Nat) (e : Envelope) (t u : State) (n v : Nat),
    (s.dma k).env = some e → s.dmaOn = true → e.err = none → bitOf e.ctrl 17 = false → bitOf e.ctrl 28 = false →
    n = e.burstBytes e.len → s.burstRead (dmaMaster k) e n ext = (t, v, .ok) → t.burstWrite (dmaMaster k) e n v = (u, .ok) →
    e.moved + n < e.len → bitOf e.ctrl 30 = false →
    exec (.dmaBurstReadData k ext) s = .next (State.settleAborts ((u.setDma k { u.dma k with env := some { e with
      moved := e.moved + n, check := checkBytes e.chk n e.moved e.check v, request := 0, readbacks := e.readbacks } }).dmaState k 1))) ∧
  (∀ (s : State) (k : Fin 32) (ext : Nat) (e e' : Envelope) (t u : State) (n v : Nat) (w : State × Envelope),
    (s.dma k).env = some e → s.dmaOn = true → e.err = none → bitOf e.ctrl 17 = false → bitOf e.ctrl 28 = true →
    n = e.burstBytes e.len → s.burstRead (dmaMaster k) e n ext = (t, v, .ok) → t.burstWrite (dmaMaster k) e n v = (u, .ok) →
    e.moved + n = e.len → n ≠ 0 →
    e' = { e with
      moved := e.moved + n, check := checkBytes e.chk n e.moved e.check v, request := 0, err := none } →
    w = State.confirm (State.dmaState (u.setDma k { u.dma k with env := some e' }) k 3) k e' (e.moved + n) e'.check →
    exec (.dmaBurstReadData k ext) s = .next (State.settleAborts (State.envEnd w.1 k w.2 .complete))) ∧
  (∀ (s : State) (k : Fin 32) (e e' : Envelope) (a n c v : Nat) (rest : List (Nat × Nat × Nat)) (t : State) (w : State × Envelope),
    (s.dma k).env = some e → e.readbacks = (a, n, c) :: rest → s.dmaOn = true → e.err = none →
    s.busRead (dmaMaster k) a e.width 0 = (t, v, .ok) → e' = { e with readbacks := rest, err := none } →
    w = t.confirm k e' n c →
    exec (.dmaReadbackResponse k) s = .next (if n = e.len then State.envEnd w.1 k w.2 .complete else w.1)) ∧
  (∀ (s : State) (k : Fin 32) (e : Envelope) (c : Nat),
    (s.dma k).env = some e → e.err = some c →
    exec (.dmaErrorResponse k) s = .next (s.envEnd k e (.error c))) ∧
  (∀ (s : State) (k : Fin 32) (v : BitVec 32),
    s.dmaOn = true →
    exec (.dmaAbort k v) s = .next (s.dmaStop k v).settleAborts) ∧
  (∀ (s : State) (k : Fin 32) (e : Envelope) (r t : Nat),
    s.dmaOn = true → s.flag (Reg.DMA_CTL k) 0 = true → s.fld (Reg.DMA_TMO k) 15 0 = t + 1 → (s.dma k).env = some e →
    e.err = none → r = (s.dma k).progress + (t + 1) * 400 →
    exec (.dmaTimeout k) s = .next ((s.advanceTo r).envEnd k e .timeout)) ∧
  (∀ (s : State) (k : Fin 32) (r t : Nat),
    s.dmaOn = true → s.flag (Reg.DMA_CTL k) 0 = true → s.fld (Reg.DMA_TMO k) 15 0 = t + 1 → (s.dma k).env = none →
    r = (s.dma k).progress + (t + 1) * 400 →
    exec (.dmaTimeout k) s = .next (((s.advanceTo r).dmaFlag k 5).chainEnd k)) ∧
  (∀ (s : State) (a v : BitVec 32) (m : Master),
    isReg a.toNat = true → a.toNat % 4 = 0 →
    exec (.registerWrite a v m) s = .next (s.write m a.toNat 4 v.toNat).1)

/-- Management service commands complete: in each clause the command, in the state its hypotheses describe, answers a next state,
which the clause gives. The hypotheses are on the state before the command and on its operands. Where a command verifies an
image, the hypothesis is that imgVerify accepts it; the ML-DSA check in it is an uninterpreted Config constant (log entry 50),
so its witness assumes a signature that the check accepts. Commands: ATTEST, IDKEY, SVN_ADVANCE, REVOKE, PHASE, LIVEUPD,
BANKSWAP, LOADCELL, LOADMAP, LOADMCODE, MGRELOAD, MANAGEMENT_RESET, LIVEUPD_PAIR_STOP, SERVICE_COMMAND_DONE. -/
def Obligations.ServiceCommandsComplete : Prop :=
  (∀ (s u : State) (v : Nat),
    s.phase ≠ 0 → s.flag Reg.MG_SVCSTAT 31 = false → (s.svcStarted 1).reportBytes ((s.svcStarted 1).svcGet 32) = (u, v) →
    exec .attest s = .next (State.svcPut u.tick (v + Config.mldsaSign u.seed (sha3 v 272) u.free % 256 ^ 2420 * 256 ^ 272) 2692)) ∧
  (∀ (s : State),
    s.phase ≠ 0 → s.flag Reg.MG_SVCSTAT 31 = false →
    exec .idkey s = .next ((s.svcStarted 2).svcPut (s.svcStarted 2).identity 1312)) ∧
  (∀ (s t : State),
    s.phase ≠ 0 → s.flag Reg.MG_SVCSTAT 31 = false → t = s.svcStarted 3 →
    exec .svnAdvance s = .next (if t.svnctr < t.mg.svn then (t.setDword 0x10080018 (svnMirror t.mg.svn)).svnBlow t.mg.svn
      else t)) ∧
  (∀ (s u : State) (i : Img) (k : Nat),
    s.phase ≠ 0 → s.flag Reg.MG_SVCSTAT 31 = false → (s.svcStarted 4).imgVerify (s.svcStarted 4).svcArg 7 = (u, .ok i) →
    k = u.payload i 0 1 → k < 4 → k ≠ i.slot → (∃ j < 4, j ≠ k ∧ u.revoked j = false) →
    exec .revoke s = .next (u.setByte 0x08008080 (BitVec.ofNat 8 ((u.byte 0x08008080).toNat ||| 2 ^ k)))) ∧
  (∀ (s : State),
    s.phase ≠ 0 → s.flag Reg.MG_SVCSTAT 31 = false → (s.svcStarted 5).phase = 3 → (s.svcStarted 5).svcArg % 8 = 2 →
    exec .phase s = .next ((s.svcStarted 5).setPhase 2)) ∧
  (∀ (s u : State) (i : Img) (w : State),
    s.phase ≠ 0 → s.flag Reg.MG_SVCSTAT 31 = false → (s.svcStarted 5).phase = 2 → (s.svcStarted 5).svcArg % 8 = 3 →
    (s.svcStarted 5).imgVerify ((s.svcStarted 5).reg (Reg.MG_SVCBUF 0)).toNat 6 = (u, .ok i) → i.bound = true →
    u.now ≤ u.payload i 0 8 → w = u.setPhase 3 →
    exec .phase s = .next { w with mg := { w.mg with permit := some (u.payload i 0 8) } }) ∧
  (∀ (s t u : State) (i : Img) (pairs : List Nat),
    s.phase ≠ 0 → s.flag Reg.MG_SVCSTAT 31 = false → t = s.svcStarted 6 →
    t.imgVerify (t.appAddr (t.svcArg % 2)) 2 = (u, .ok i) → (pairs = [0, 1].filter fun p => t.svcArg / 2 ^ (8 + p) % 2 == 1) →
    pairs ≠ [] →
    exec .liveupd s = .next { u with mg := { u.mg with live := some ⟨i.addr, pairs, pairs⟩ } }) ∧
  (∀ (s t u : State) (i : Img),
    s.phase ≠ 0 → s.flag Reg.MG_SVCSTAT 31 = false → t = s.svcStarted 7 →
    t.imgVerify (t.appAddr (t.svcArg % 2)) 2 = (u, .ok i) →
    exec .bankswap s = .next (u.setDword 0x10080010 (if t.svcArg % 2 = 1 then 0x5A else 0))) ∧
  (∀ (s t u : State) (i : Img),
    s.phase ≠ 0 → s.flag Reg.MG_SVCSTAT 31 = false → t = s.svcStarted 8 → t.imgVerify t.svcArg 3 = (u, .ok i) → i.entry0 < 52 →
    u.domOn (domCell i.entry0) = true → u.flag (Reg.LC_CTRL i.entry0) 0 = false →
    u.flag (Reg.LC_CTRL (i.entry0 / 2 * 2)) 0 = false →
    exec .loadcell s = .next (u.loadSegs i)) ∧
  (∀ (s t u : State) (i : Img),
    s.phase ≠ 0 → s.flag Reg.MG_SVCSTAT 31 = false → t = s.svcStarted 9 → t.imgVerify t.svcArg 4 = (u, .ok i) →
    exec .loadmap s = .next (u.loadSegs i)) ∧
  (∀ (s t u : State) (i : Img),
    s.phase ≠ 0 → s.flag Reg.MG_SVCSTAT 31 = false → t = s.svcStarted 10 → t.imgVerify t.svcArg 5 = (u, .ok i) →
    exec .loadmcode s = .next (([0, 1].filter fun p => (t.reg (Reg.MG_SVCBUF 0)).toNat / 2 ^ p % 2 == 1).foldl
      (fun s p => s.patchRequest i.addr p) u)) ∧
  (∀ (s : State),
    s.phase ≠ 0 → s.flag Reg.MG_SVCSTAT 31 = false → (s.svcStarted 11).mg.bare = false →
    exec .mgreload s = .next (State.mgfwLoad ((s.svcStarted 11).wipe mgmtRam (mgmtRam + 0x40000))).1) ∧
  (∀ (s : State),
    s.phase ≠ 0 → s.mg.bare = false →
    exec .managementReset s =
    .next (State.svcAbandon (State.mgfwLoad (s.wipe mgmtRam (mgmtRam + 0x40000))).1)) ∧
  (∀ (s : State) (p : Fin 2) (l : LiveUpdate) (u : State),
    s.mg.live = some l → (l.waiting.contains p.val) = true → s.pairStopped p = true → s.pairMode p = 0 →
    (s.core (s.pairRecord p)).run ≠ .off →
    (u = (s.coldRestart (s.pairRecord p)).onCore (s.pairRecord p) fun c => { c with run := .hold }) →
    l.waiting.filter (· != p.val) ≠ [] →
    exec (.liveupdPairStop p) s = .next { u with mg := { u.mg with live := some { l with
      waiting := l.waiting.filter (· != p.val) } } }) ∧
  (∀ (s : State) (x : Service) (u : State),
    s.mg.svc = some x → s.mg.live = none → (x.op = 10 → x.code = 0 → ∀ r ∈ s.mg.patches, r.armed = true) →
    u = (((s.setFlag Reg.MG_SVCSTAT 31 false).setFlag Reg.MG_SVCSTAT 30 true).setReg Reg.MG_CFGCHK (if x.code = 0 then 0 else cfgWord ⟨x.code, 0xFF, x.detail⟩)) →
    exec .serviceCommandDone s = .next (State.pulseLine { u with mg := { u.mg with svc := none } } 384))

/-- Reset, clock, permit and arbiter commands complete: in each clause the command, in the state its hypotheses describe, answers
a next state, which the clause gives. The hypotheses are on the state before the command and on its operands. Where a command
verifies an image, the hypothesis is that imgVerify accepts it; the ML-DSA check in it is an uninterpreted Config constant
(log entry 50), so its witness assumes a signature that the check accepts. Commands: PERMIT_EXPIRY, MAINT_REQUEST,
MAINT_RELEASE, ARBITER_GRANT, LEDGER_COMPACT_END, PLL_ROOT_SWITCH, LOSS_OF_LOCK, COLD_RESET, PORN_RELEASE, WARM_RESET,
RESETN_RELEASE. -/
def Obligations.ResetClockAndArbiterCommandsComplete : Prop :=
  (∀ (s : State) (e : Nat),
    s.mg.permit = some e → s.phase = 3 →
    exec .permitExpiry s = .next ((s.advanceTo e).setPhase 2)) ∧
  (∀ (s : State) (v : BitVec 32) (mgmt : Bool) (t : Nat) (u : State),
    s.phase ≠ 0 → fieldOf v 7 0 ≠ 0 → fieldOf v 7 0 ≤ 10 → (mgmt = true ∨ fieldOf v 7 0 = 10) →
    resOk (fieldOf v 7 0) (fieldOf v 23 16) = true →
    (s.arbRequest (fieldOf v 7 0) (fieldOf v 23 16) = (.accepted t, u) ∨ s.arbRequest (fieldOf v 7 0) (fieldOf v 23 16) = (.queued t, u)) →
    exec (.maintRequest v mgmt) s = .next (u.cfgOk Reg.MG_CFGCHK)) ∧
  (∀ (s : State) (v : BitVec 32),
    s.phase ≠ 0 → (((s.arb.granted ++ s.arb.queue).any fun x => x.ticket == fieldOf v 7 0) = true) →
    exec (.maintRelease v) s = .next ((s.arbRelease (fieldOf v 7 0)).cfgOk Reg.MG_CFGCHK)) ∧
  (∀ (s : State) (t : Ticket) (u : State),
    s.arbReady = some t →
    u = { s with arb := { granted := s.arb.granted ++ [t], queue := s.arb.queue.filter (·.ticket != t.ticket) } } →
    exec .arbiterGrant s = .next (((u.arbSync.pulseLine 385).raiseNow 0x771).granted t)) ∧
  (∀ (s : State) (t : Ticket),
    (s.arb.granted.find? (fun t => t.act == 7) = some t) →
    exec .ledgerCompactEnd s = .next (s.arbRelease t.ticket)) ∧
  (∀ (s : State) (ticks : Nat),
    s.clk.run = false → s.phase ≠ 0 → (s.asleep = true → s.power.waking = true) →
    exec (.pllRootSwitch ticks) s = .next (s.sleepTicks ticks).pllStart) ∧
  (∀ (s u : State),
    s.clk.run = true → (u = (State.pllStop ((List.range 96).foldl (fun s n => s.pwmHalt n) s)).setFlag Reg.MG_CLKSTAT 7 true) →
    exec .lossOfLock s = .next { u with clk := { u.clk with faultOut := true } }) ∧
  (∀ (s : State),
    exec .coldReset s = .next s.coldReset) ∧
  (∀ (s : State) (x : BootIn) (u : State),
    s.phase = 0 → s.power.off = false →
    State.mgfwLoad (State.bootB4 (State.advanceTo (s.bootStart x) ((s.bootStart x).now + x.edges))) = (u, true) →
    exec (.pornRelease x) s = .next (((u.setPhase 1).bootStep 5).bootRest x)) ∧
  (∀ (s : State) (x : BootIn) (u : State),
    s.phase = 0 → s.power.off = false →
    State.mgfwLoad (State.bootB4 (State.advanceTo (s.bootStart x) ((s.bootStart x).now + x.edges))) = (u, false) →
    exec (.pornRelease x) s = .next (u.recover true)) ∧
  (∀ (s : State) (x : BootIn),
    s.phase ≠ 0 → s.power.off = false →
    exec (.warmReset false x) s = .next (s.warmReset.warmBoot x)) ∧
  (∀ (s : State) (x : BootIn) (u : State),
    s.phase ≠ 0 → s.power.off = false → u = s.warmReset →
    exec (.warmReset true x) s = .next { u with mg := { u.mg with resetLow := true } }) ∧
  (∀ (s : State) (x : BootIn),
    s.mg.resetLow = true →
    exec (.resetnRelease x) s = .next (State.warmBoot { s with mg := { s.mg with resetLow := false, bootPins := x.pins } } x))

/-- Power-state and domain commands complete: in each clause the command, in the state its hypotheses describe, answers a next
state, which the clause gives. The hypotheses are on the state before the command and on its operands. Where a command
verifies an image, the hypothesis is that imgVerify accepts it; the ML-DSA check in it is an uninterpreted Config constant
(log entry 50), so its witness assumes a signature that the check accepts. Commands: DOMAIN_POWER_UP, DOMAIN_GATE,
DOMAIN_USABLE, OP_CHANGE, VOLTAGE_CONFIRMED, PGOOD_TIMEOUT, PGOOD_LOSS, CROCUS_ENTRY, SNOWDROP_ENTRY, OFF_ENTRY,
SLEEP_PAIRS_STOPPED, WAKE_EVENT, SNOWDROP_TIMER, WAKE_COMPLETE, X32OK_FALL, CROCUS_SAMPLING_WAKE, CROCUS_DECISION. -/
def Obligations.PowerStateCommandsComplete : Prop :=
  (∀ (s : State) (x : Fin 2) (v : BitVec 32) (w : Word),
    w = v ||| s.reg (if x = 0 then Reg.PM_DOMCTL0 else Reg.PM_DOMCTL1) →
    exec (.domainPowerUp x v) s = .next (s.domctlWrite x w)) ∧
  (∀ (s : State) (x : Fin 2) (v : BitVec 32) (w : Word),
    w = v &&& s.reg (if x = 0 then Reg.PM_DOMCTL0 else Reg.PM_DOMCTL1) →
    exec (.domainGate x v) s = .next (s.domctlWrite x w)) ∧
  (∀ (s : State) (d : Fin 64) (e : Nat),
    (mapGet none (s.power.up.map fun p => (p.1, some p.2)) d = some e) →
    exec (.domainUsable d) s = .next ((s.advanceTo e).domUsable d)) ∧
  (∀ (s : State) (v : BitVec 32) (u : State),
    s.flag Reg.PM_OPSTAT 31 = false →
    (max (waitStates (fieldOf v 1 0) (opVid (fieldOf v 1 0))) (if s.fld Reg.PM_OPSTAT 1 0 < fieldOf v 1 0 then waitStates (fieldOf v 1 0) (s.fld Reg.PM_OPSTAT 7 4) else if fieldOf v 1 0 < s.fld Reg.PM_OPSTAT 1 0 then waitStates (s.fld Reg.PM_OPSTAT 1 0) (opVid (fieldOf v 1 0)) else 0) ≤ s.fld Reg.FC_CTRL 3 0) →
    u = (((s.setFld Reg.PM_OPCTL 1 0 (fieldOf v 1 0)).cfgOk Reg.PM_CFGCHK).setFlag Reg.PM_OPSTAT 31 true) →
    (¬ (fieldOf v 1 0 = s.fld Reg.PM_OPSTAT 1 0 ∧ opVid (fieldOf v 1 0) = s.fld Reg.PM_OPSTAT 7 4)) →
    exec (.opChange v) s = .next (if s.fld Reg.PM_OPSTAT 1 0 < fieldOf v 1 0 then
      (if opVid (fieldOf v 1 0) = s.fld Reg.PM_OPSTAT 7 4 then
        ((u.advanceTo (alignEdge u.now)).setFld Reg.PM_OPSTAT 1 0 (fieldOf v 1 0)).opEnd
      else ((u.advanceTo (alignEdge u.now)).setFld Reg.PM_OPSTAT 1 0 (fieldOf v 1 0)).opVidStep (fieldOf v 1 0)
        (s.fld Reg.PM_OPSTAT 1 0))
      else u.opVidStep (fieldOf v 1 0) (s.fld Reg.PM_OPSTAT 1 0))) ∧
  (∀ (s : State) (v : BitVec 32) (need : Nat),
    s.flag Reg.PM_OPSTAT 31 = false →
    (need = max (waitStates (fieldOf v 1 0) (opVid (fieldOf v 1 0))) (if s.fld Reg.PM_OPSTAT 1 0 < fieldOf v 1 0 then waitStates (fieldOf v 1 0) (s.fld Reg.PM_OPSTAT 7 4) else if fieldOf v 1 0 < s.fld Reg.PM_OPSTAT 1 0 then waitStates (s.fld Reg.PM_OPSTAT 1 0) (opVid (fieldOf v 1 0)) else 0)) →
    s.fld Reg.FC_CTRL 3 0 < need →
    exec (.opChange v) s = .next (s.cfgFail Reg.PM_CFGCHK ⟨0x81, 5, need⟩)) ∧
  (∀ (s : State) (o : OpChange) (e : Nat),
    s.power.op = some o → e = (max s.now (o.vidAt + 2000) + 3) / 4 * 4 → e ≤ o.vidAt + 400000 →
    exec .voltageConfirmed s = .next (State.opEnd (if o.target < o.oldFop then
      (((s.advanceTo e).setFlag Reg.PM_OPSTAT 30 true).advanceTo (alignEdge e)).setFld Reg.PM_OPSTAT 1 0 o.target
      else (s.advanceTo e).setFlag Reg.PM_OPSTAT 30 true))) ∧
  (∀ (s : State) (o : OpChange),
    s.power.op = some o →
    exec .pgoodTimeout s = .next (State.opEnd (((((s.advanceTo (o.vidAt + 400000)).setFlag Reg.PM_OPSTAT 29 true).cfgFail
      Reg.PM_CFGCHK ⟨0x95, 5, 0⟩).setFld Reg.PM_OPSTAT 7 4 (max o.oldVid (opVid o.target))).setFld Reg.PM_OPSTAT 1 0
        (max o.oldFop o.target)))) ∧
  (∀ (s u : State),
    s.power.op = none →
    u = (((s.advanceTo (alignEdge s.now)).setFld Reg.PM_OPSTAT 1 0 3).setFlag Reg.PM_OPSTAT 28 true).setFlag Reg.PM_OPSTAT 30 false →
    exec .pgoodLoss s = .next ((State.pulseLine { u with clk := { u.clk with faultOut := true } } 387).raiseNow 0x772)) ∧
  (∀ (s u : State),
    s.sleepFails 1 = [] → u = (s.cfgOk Reg.PM_CFGCHK).setFld Reg.PM_SLEEPSTAT 6 4 0 →
    exec .crocusEntry s = .next { u with power := { u.power with entry := some 1 } }) ∧
  (∀ (s u : State),
    s.sleepFails 2 = [] → u = (s.cfgOk Reg.PM_CFGCHK).setFld Reg.PM_SLEEPSTAT 6 4 0 →
    exec .snowdropEntry s = .next { u with power := { u.power with entry := some 2 } }) ∧
  (∀ (s u : State),
    s.sleepFails 3 = [] → u = ((s.cfgOk Reg.PM_CFGCHK).setFld Reg.PM_SLEEPSTAT 6 4 0).coldReset →
    exec .offEntry s = .next { u with power := { u.power with off := true } }) ∧
  (∀ (s : State) (t : Nat) (u w : State),
    s.power.entry = some t → s.pairsStopped = true →
    (u = { s.holdPads with
      power := { s.holdPads.power with entry := none, waking := false, sampling := false }
      cores := s.holdPads.cores.map fun (p : Nat × Core) => (p.1, p.2.cacheLost) }) →
    w = ((((u.setReg Reg.PM_DOMSTAT0 0).setReg Reg.PM_DOMSTAT1 (u.reg Reg.PM_DOMSTAT1 &&& 0x80400000)).setFld Reg.PM_SLEEPSTAT 6 4 5).setFld Reg.PM_SLEEPSTAT 1 0 t).pllStop →
    exec .sleepPairsStopped s = .next (if w.flag Reg.MG_CLKSTAT 4 then w else w.gapStart)) ∧
  (∀ (s : State) (src : Fin 5) (ticks : Nat) (u : State),
    s.power.off = false → s.power.entry = none → u = s.sleepTicks ticks → u.asleep = true → s.power.waking = false →
    u.wakes src (u.fld Reg.PM_SLEEPSTAT 1 0) = true →
    exec (.wakeEvent src ticks) s = .next (u.wakeBegin src)) ∧
  (∀ (s : State) (src : Fin 5) (ticks t : Nat),
    s.power.off = false → s.power.entry = some t → s.wakes src t = true →
    exec (.wakeEvent src ticks) s = .next (((State.sleepResume { s with power := { s.power with entry := none } }).setFlag
      Reg.PM_SLEEPSTAT 11 true).setFld Reg.PM_SLEEPSTAT 10 8 src)) ∧
  (∀ (s : State) (ticks : Nat),
    s.power.off = true →
    exec (.wakeEvent 0 ticks) s = .next s.coldReset) ∧
  (∀ (s : State) (ticks : Nat) (u : State),
    u = s.sleepTicks ticks → u.fld Reg.PM_SLEEPSTAT 1 0 = 2 → s.power.waking = false → u.flag Reg.PM_WAKEEN 2 = true →
    exec (.snowdropTimer ticks) s = .next (u.wakeBegin 2)) ∧
  (∀ (s u : State),
    s.power.waking = true → s.clk.run = true → u = { s with power := { s.power with waking := false } } →
    exec .wakeComplete s = .next (((((((u.setReg Reg.PM_DOMSTAT0 (u.reg Reg.PM_DOMCTL0)).setReg Reg.PM_DOMSTAT1
      (u.reg Reg.PM_DOMCTL1)).setFld Reg.PM_SLEEPSTAT 1 0 0).sleepResume).pulseLine
        386).raiseNow 0x773))) ∧
  (∀ (s : State) (ticks : Nat) (u : State),
    u = s.sleepTicks ticks →
    (∃ t, exec (.x32okFall ticks) s = .next t ∧ t.flag Reg.MG_CLKSTAT 4 = false ∧ t.flag Reg.MG_CLKSTAT 3 = false)) ∧
  (∀ (s : State) (ticks : Nat) (u : State) (g : Nat),
    u = s.sleepTicks ticks → u.fld Reg.PM_SLEEPSTAT 1 0 = 1 → s.power.waking = false → s.power.sampling = false →
    g = u.fld Reg.PM_CROCUS 1 0 →
    exec (.crocusSamplingWake ticks) s = .next (State.modInc ((List.range 16).foldl (fun s j => s.winOff (16 * g + j))
      ((State.setDom { u with power := { u.power with sampling := true } } (0x19 + g) true).setDom domSo true))
        Reg.PM_SLEEPSTAT 31 16)) ∧
  (∀ (s : State) (codes : List CrocusCodes) (ticks : Nat) (u : State),
    u = s.sleepTicks ticks → s.power.sampling = true →
    (∃ w hit, exec (.crocusDecision codes ticks) s = .next (if Option.isSome hit && State.wakes w 3 1 then State.wakeBegin w 3
      else (State.setDom w (0x19 + u.fld Reg.PM_CROCUS 1 0) false).setDom domSo false) ∧ w.power.sampling = false ∧
      hit = ((List.range (u.fld Reg.PM_CROCUS 7 4 + 1)).foldl
        (fun x k => State.crocusRound x.1 codes (256 + 32 * k) x.2) (u, none)).2))

/-- Pin and pin-interrupt commands complete: in each clause the command, in the state its hypotheses describe, answers a next
state, which the clause gives. The hypotheses are on the state before the command and on its operands. Commands:
PIN_CONFIGURATION_WRITE, GPIO_WRITE, PINT_ENABLE, PIN_INTERRUPT_EDGE, PAD_RELEASE. -/
def Obligations.PinCommandsComplete : Prop :=
  (∀ (s : State) (k : Fin 256) (v : BitVec 32),
    s.pinFails k v = [] →
    (∃ u, exec (.pinConfigurationWrite k v) s = .next u ∧
      u.reg (Reg.PX_PIN k) = (s.reg (Reg.PX_PIN k) &&& 0x80000000) ||| (v &&& 0x030773FF))) ∧
  (∀ (s : State) (k : Fin 256) (oe d : Bool) (w : Word),
    w = withField (withField (s.reg (Reg.PX_PIN k)) 25 25 (bit oe)) 24 24 (bit d) → s.pinFails k w = [] →
    (∃ u, exec (.gpioWrite k oe d) s = .next u ∧
      u.reg (Reg.PX_PIN k) = (s.reg (Reg.PX_PIN k) &&& 0x80000000) ||| (w &&& 0x030773FF))) ∧
  (∀ (s : State) (n : Fin 16) (v : BitVec 32) (l : Bool) (w : State),
    s.flag (Reg.PINT_CFG n) 31 = false → fieldOf v 10 8 < 5 →
    w = s.setReg (Reg.PINT_CFG n) (withField (withField v 31 31 1 &&& 0x8000070F) 31 31 0) → w.bankVio (w.pintPin n) ≠ 0 →
    (∃ u, exec (.pintEnable n v l) s = .next (State.pintSync u n) ∧ mapGet none u.pintLevel n = some l ∧
      u.flag (Reg.PINT_CFG n) 31 = true)) ∧
  (∀ (s : State) (n : Fin 16) (l : Bool),
    s.flag (Reg.PINT_CFG n) 31 = true →
    (∃ u, exec (.pinInterruptEdge n l) s = .next (State.pintSync u n) ∧ mapGet none u.pintLevel n = some l ∧
      (s.fld (Reg.PINT_CFG n) 10 8 = 2 → mapGet none s.pintLevel n = some (!l) → u.flag Reg.PINT_STAT n = true))) ∧
  (∀ (s : State) (v : BitVec 32),
    (∀ b < 15, bitOf v b = true → s.domOn (holdDom b) = true) → (((List.range 15).filter fun b => bitOf v b) ≠ []) →
    exec (.padRelease v) s = .next (((List.range 15).filter fun b => bitOf v b).foldl (fun s b => s.setFlag Reg.PM_PADHOLD b false)
      (s.cfgOk Reg.PM_CFGCHK)))

/-- Letterbox and host port commands complete: in each clause the command, in the state its hypotheses describe, answers a next
state, which the clause gives. The hypotheses are on the state before the command and on its operands. Commands:
LETTERBOX_POST, LETTERBOX_ACK, LETTERBOX_ENABLE, HOST_PORT_ENABLE, HOST_WINDOW_WRITE, RESYNC, HOST_WRITE, HOST_READ,
HOST_WRITE_APPLY. -/
def Obligations.LetterboxAndHostPortCommandsComplete : Prop :=
  (∀ (s : State) (k : Fin 32) (d : Fin 2) (p : BitVec 16) (lost : Nat) (v : DWord),
    (s.unitOn domHost && s.lbxEn k) = true → postLater p.toNat (s.fld (Reg.LBX_PM k d) 31 16) = true →
    (s.ring k d).msgs.length < 64 → lost = (p.toNat + 65536 - s.fld (Reg.LBX_PM k d) 31 16 + 65535) % 65536 →
    v = BitVec.ofNat 64 (2 ^ 32 * (s.reg (Reg.LBX_TXHI k d)).toNat + (s.reg (Reg.LBX_TXLO k d)).toNat) →
    (∃ t, exec (.letterboxPost k d p) s = .next t ∧ (t.ring k d).msgs = (s.ring k d).msgs ++ [(p.toNat, v)] ∧
      t = (((if lost = 0 then s else (s.lbxFlag k d 2).satAdd (Reg.LBX_CNT k) 31 24 lost).setFld (Reg.LBX_PM k d) 31 16
        p.toNat).setRing k d ⟨(s.ring k d).msgs ++ [(p.toNat, v)]⟩))) ∧
  (∀ (s : State) (k : Fin 32) (d : Fin 2) (p : BitVec 16),
    (s.unitOn domHost && s.lbxEn k) = true → ((s.ring k d).msgs.any (fun q => q.1 == p.toNat) = true) →
    (∃ t, exec (.letterboxAck k d p) s = .next t ∧
      (t.ring k d).msgs = ((s.ring k d).msgs.dropWhile fun q => q.1 != p.toNat).drop 1)) ∧
  (∀ (s : State) (k : Fin 32) (v : BitVec 32),
    s.unitOn domHost = true → s.flag (Reg.LBX_CFG k) 0 = false → bitOf v 0 = true →
    (s.store (Reg.LBX_CFG k) Reg.LBX_CFGCHK false (withField v 0 0 0)).lbxFails k = [] →
    exec (.letterboxEnable k v) s = .next ((s.enabled (Reg.LBX_CFG k) Reg.LBX_CFGCHK 0 v).lbxSync k)) ∧
  (∀ (s : State) (v : BitVec 32),
    s.unitOn domHost = true → s.flag Reg.HP_CTRL 0 = false → bitOf v 0 = true →
    exec (.hostPortEnable v) s = .next (s.enabled Reg.HP_CTRL Reg.HP_CFGCHK 0 v)) ∧
  (∀ (s : State) (n : Fin 256) (v : BitVec 32),
    s.unitOn domHost = true → fieldOf v 2 0 < 3 →
    exec (.hostWindowWrite n v true) s = .next ((s.setReg (Reg.HP_WIN n) (v &&& 0xFFFC0007)).cfgOk Reg.HP_CFGCHK)) ∧
  (∀ (s : State) (n : Fin 256) (v : BitVec 32),
    s.unitOn domHost = true →
    exec (.hostWindowWrite n v false) s = .next (s.setFlag Reg.HP_STAT 4 true)) ∧
  (∀ (s : State),
    s.hpOn = true →
    exec .resync s = .next (s.setFlag Reg.HP_STAT 6 false)) ∧
  (∀ (s : State) (ha : BitVec 24) (be : BitVec 4) (data : BitVec 32),
    s.hpOn = true → (¬ (s.fld (Reg.HP_WIN (ha.toNat / 65536)) 2 0 = 2 ∧ ha.toNat % 65536 = 0x0304)) →
    s.flag Reg.HP_STAT 6 = false → s.hp.queue.length < 64 →
    exec (.hostWrite ha be data) s = .next (s.setHpq (s.hp.queue ++ [HostWrite.mk ha.toNat be.toNat data]))) ∧
  (∀ (s : State) (ha : BitVec 24) (t : State) (w : Word),
    s.hpOn = true → s.hostRead ha.toNat = (t, w) →
    exec (.hostRead ha) s = .next { t with hp := { t.hp with hd := w } }) ∧
  (∀ (s : State) (ha : BitVec 24) (t : State) (w : Word),
    s.hpOn = true → s.fld (Reg.HP_WIN (ha.toNat / 65536)) 2 0 = 1 →
    s.postRead (postRoom + 4 * (ha.toNat % 65536)) = (t, some w) →
    exec (.hostRead ha) s = .next { t with hp := { t.hp with hd := w } }) ∧
  (∀ (s : State) (q : HostWrite) (rest : List HostWrite),
    s.hpOn = true → s.hp.queue = q :: rest → s.fld (Reg.HP_WIN (q.ha / 65536)) 2 0 = 1 → q.be = 15 → q.ha / 65536 < 256 →
    exec .hostWriteApply s = .next ((s.setHpq rest).setWord (postRoom + 4 * (q.ha % 65536)) q.data)) ∧
  (∀ (s : State) (q : HostWrite) (rest : List HostWrite) (t : State) (r : BusRes),
    s.hpOn = true → s.hp.queue = q :: rest → (s.setHpq rest).winKind (q.ha / 65536) = 3 →
    (s.setHpq rest).hostBusWrite (2 ^ 18 * (s.setHpq rest).fld (Reg.HP_WIN (q.ha / 65536)) 31 18 + 4 * (q.ha % 65536)) q = (t, r) →
    exec .hostWriteApply s = .next (t.hostWriteErr r))

/-- Ethernet, PCI Express, CAN and serial commands complete: in each clause the command, in the state its hypotheses describe,
answers a next state, which the clause gives. The hypotheses are on the state before the command and on its operands.
Commands: MAC_TIME_ADJUST, MAC_TARGET_TIME, TARGET_TIME_PULSE_END, FRAME_RECEIVE, FRAME_TRANSMIT, CAN_FRAME_RECEIVE,
CAN_FRAME_TRANSMIT, SERIAL_PORT_TRANSFER, PCIE_LINK_STATE_CHANGE, PCIE_INBOUND_ACCESS. -/
def Obligations.LinkCommandsComplete : Prop :=
  (∀ (s : State) (m : Fin 2) (lo hi : BitVec 32),
    s.unitOn (0x30 + m) = true →
    (∃ t, exec (.macTimeAdjust m lo hi) s = .next t ∧
      (t.mac m).ofs = s.macOfs m s.now + 2 ^ 16 * signedOf 64 (2 ^ 32 * hi.toNat + lo.toNat) ∧ (t.mac m).at' = s.now)) ∧
  (∀ (s : State) (m : Fin 2) (t : Fin 4) (g : Nat) (u : State),
    s.macTarget m t = some g → s.unitOn (0x30 + m) = true → nsetHas (s.mac m).reached t = false →
    u = s.advanceTo (s.targetEdge m g) →
    exec (.macTargetTime m t) s = .next (State.raiseNow (u.setMac m { u.mac m with
      reached := nsetAdd (u.mac m).reached t (t + 1), pulse := mapSet 0 (u.mac m).pulse t (u.now + 8) })
        (0x760 + 4 * m.val + t.val))) ∧
  (∀ (s : State) (m : Fin 2) (t : Fin 4) (e : Nat) (u : State),
    mapGet 0 (s.mac m).pulse t = e + 1 → u = s.advanceTo (e + 1) →
    exec (.targetTimePulseEnd m t) s = .next (u.setMac m { u.mac m with pulse := mapErase (u.mac m).pulse t })) ∧
  (∀ (s : State) (m : Fin 2) (len : Nat) (event : Bool) (u : State),
    s.unitOn (0x30 + m) = true → len ≤ 9216 → u = s.pulseLine (168 + 4 * m) →
    exec (.frameReceive m len event false) s = .next (if event then
      (u.setMac m { u.mac m with rxStamp := u.now }).pulseLine (170 + 4 * m) else u)) ∧
  (∀ (s : State) (m : Fin 2) (len : Nat) (event bad : Bool),
    s.unitOn (0x30 + m) = true → (bad = true ∨ 9216 < len) →
    exec (.frameReceive m len event bad) s = .next (s.pulseLine (171 + 4 * m))) ∧
  (∀ (s : State) (m : Fin 2) (q : Fin 8) (event : Bool) (u : State),
    s.unitOn (0x30 + m) = true → u = s.pulseLine (169 + 4 * m) →
    exec (.frameTransmit m q event) s = .next (if event then
      (u.setMac m { u.mac m with txStamp := u.now }).pulseLine (170 + 4 * m) else u)) ∧
  (∀ (s : State) (n : Fin 6) (f : CanFormat) (len : Nat),
    s.unitOn 0x33 = true → len ≤ canMax f →
    exec (.canFrameReceive n f len) s =
      .next (State.pulseLine { s with canStamp := mapSet 0 s.canStamp n s.now } (180 + 2 * n))) ∧
  (∀ (s : State) (n : Fin 6) (e : Bool) (u : SerialUnit),
    s.unitOn 0x33 = true →
    exec (.canFrameTransmit n e) s = .next (s.pulseLine (180 + 2 * n + bit e)) ∧
    exec (.serialPortTransfer u) s = .next (s.pulseLine (match u with
      | .uart n => 192 + n.val | .spi n => 200 + n.val | .i3c n => 208 + n.val))) ∧
  (∀ (s : State) (up : Bool) (gen : Fin 4) (lanes : Fin 3) (d3hot perst : Bool),
    s.unitOn 0x32 = true →
    exec (.pcieLinkStateChange up gen lanes d3hot perst) s = .next (State.pulseLine { s with pcie := { s.pcie with
      up := up, gen := gen, lanes := lanes, d3hot := d3hot, perst := perst } } 176)) ∧
  (∀ (s : State) (bar1 : Bool) (off : BitVec 20) (n : Fin 513) (data : Nat),
    s.unitOn 0x32 = true → s.pcie.up = true → (off.toNat + n ≤ if bar1 then 0x80000 else 0x100000) →
    (bar1 = true → off.toNat < 0x40000 → s.domOn domHost = true) →
    exec (.pcieInboundAccess bar1 off n true data) s = .next (s.inWrite bar1 off.toNat n data)) ∧
  (∀ (s : State) (bar1 : Bool) (off : BitVec 20) (n : Fin 513) (data : Nat) (t : State) (v : Nat),
    s.unitOn 0x32 = true → s.pcie.up = true → (off.toNat + n ≤ if bar1 then 0x80000 else 0x100000) →
    (bar1 = true → off.toNat < 0x40000 → s.domOn domHost = true) → s.inRead bar1 off.toNat n = (t, v) →
    exec (.pcieInboundAccess bar1 off n false data) s = .next { t with pcie := { t.pcie with answer := v } })

/-- Perturbation, injection, debug and test-port commands complete: in each clause the command, in the state its hypotheses
describe, answers a next state, which the clause gives. The hypotheses are on the state before the command and on its
operands. Commands: PERTURBATION_WRITE, CLRALL, CONTROL_PLANE_HALT, CONTROL_PLANE_HALT_END, DEBUG_HALT, DEBUG_STEP,
DEBUG_RESUME, MISM_P0, MISM_P1, MISM_CELL, ECC1, ECC2, ECCPAGE, BYPASS, SAMPLE_PRELOAD, EXTEST, IDCODE, DBGACC, TAP_RESET. -/
def Obligations.PerturbationDebugAndTestPortCommandsComplete : Prop :=
  (∀ (s : State) (r : PertReg) (v : BitVec 32) (w : Word),
    w = (s.store (pertAddr r).1 Reg.TP_CFGCHK false v).reg (pertAddr r).1 → w ≠ 0 →
    s.pertFails (pertAddr r).2 (((pertAddr r).1 - Reg.TP_CTRL) / 4) = [] → (r = .sodly → fieldOf v 19 16 ≤ 8) →
    exec (.perturbationWrite r v) s = .next (((s.cfgOk Reg.TP_CFGCHK).setReg (pertAddr r).1 w).pertSync)) ∧
  (∀ (s : State) (v : BitVec 32) (p : Fin 2) (a b : Nat),
    exec (.clrall v) s = .next (s.setFld Reg.TP_CTRL 8 8 (fieldOf v 8 8)).pertClear ∧
    exec (.controlPlaneHaltEnd v) s = .next ((((s.haltEnd.setFld Reg.TP_DBGCTL 21 16 (fieldOf v 21 16)).pertSync).debugPair 0
      (withField v 31 31 0)).debugPair 1 (withField v 31 31 0)) ∧
    (∃ u, exec (.debugHalt p) s = .next u ∧ u.halted p = true) ∧
    (∃ u, exec (.debugResume p) s = .next u ∧ u.halted p = false) ∧
    exec .bypass s = .next { s with tp := { s.tp with tap := { s.tp.tap with ir := .bypass, dr := 0, refused := false } } } ∧
    exec (.samplePreload a b) s = .next { s with tp := { s.tp with tap := { s.tp.tap with
    ir := .samplePreload, dr := a, refused := false, boundary := b } } } ∧
    exec .idcode s = .next { s with tp := { s.tp with tap := { s.tp.tap with
    ir := .idcode, dr := 0x19648A2B, refused := false } } } ∧
    exec .dbgacc s = .next { s with tp := { s.tp with tap := { s.tp.tap with
    ir := .dbgacc, dr := 0, refused := false } } } ∧
    exec .tapReset s = .next { s with tp := { s.tp with tap := {} } }) ∧
  (∀ (s : State) (v : BitVec 32),
    s.pertFails true 12 = [] → s.flag Reg.TP_DBGCTL 31 = false →
    (∃ u w : State, exec (.controlPlaneHalt v) s = .next u ∧ u = State.pertSync ((w.debugPair 0 (withField v 31 31 1)).debugPair 1 (withField v 31 31 1)) ∧
      w = (haltGroup (fieldOf v 21 16)).foldl (fun s n => s.pwmHalt n)
        (((s.cfgOk Reg.TP_CFGCHK).setFlag Reg.TP_DBGCTL 31 true).setFld Reg.TP_DBGCTL 21 16 (fieldOf v 21 16)))) ∧
  (∀ (s : State) (p : Fin 2),
    s.halted p = true →
    (∃ u, exec (.debugStep p) s = .next u ∧ u.halted p = true ∧ nsetHas u.tp.stepArm p = true)) ∧
  (∀ (s : State),
    s.pertFails false 8 = [] →
    (∃ u, exec .mismP0 s = .next u ∧ nsetHas u.tp.mismPair 0 = true) ∧
    (∃ u, exec .mismP1 s = .next u ∧ nsetHas u.tp.mismPair 1 = true)) ∧
  (∀ (s : State) (c : BitVec 6),
    s.pertFails true 8 = [] → c.toNat < 52 → s.paired c.toNat = true →
    (∃ u, exec (.mismCell c) s = .next u ∧ nsetHas u.mismCell c.toNat = true)) ∧
  (∀ (s : State) (cp : Bool),
    s.injPage (s.reg Reg.TP_INJADR).toNat cp → s.pertFails cp 8 = [] →
    exec .ecc1 s = .next ((s.cfgOk Reg.TP_CFGCHK).flipOpen (s.reg Reg.TP_INJADR).toNat 64 1).pertSync ∧
    exec .ecc2 s = .next ((s.cfgOk Reg.TP_CFGCHK).flipOpen (s.reg Reg.TP_INJADR).toNat 64 2).pertSync ∧
    exec .eccpage s = .next (State.pertSync ((List.range ((s.cfgOk Reg.TP_CFGCHK).strength (s.reg Reg.TP_INJADR).toNat + 1)).foldl
      (fun s' i => s'.flipOpen ((s.reg Reg.TP_INJADR).toNat / 256 * 256 + 8 * i) 64 1) (s.cfgOk Reg.TP_CFGCHK)))) ∧
  (∀ (s : State) (cp : Bool),
    injWord (s.reg Reg.TP_INJADR).toNat cp → s.pertFails cp 8 = [] →
    exec .ecc1 s = .next ((s.cfgOk Reg.TP_CFGCHK).flipOpen (s.reg Reg.TP_INJADR).toNat 32 1).pertSync ∧
    exec .ecc2 s = .next ((s.cfgOk Reg.TP_CFGCHK).flipOpen (s.reg Reg.TP_INJADR).toNat 32 2).pertSync) ∧
  (∀ (s : State),
    (s.phase = 3 ∨ s.phase = 4) → s.lowestPwm = none →
    exec .extest s = .next { s with tp := { s.tp with tap := { s.tp.tap with
      ir := .extest, dr := s.tp.tap.boundary, refused := false } } })
end

