-- ==== Sys2Proof/Laws/Maps.lean ====
section
/-! SUPPORT. What the sparse maps do: a read after a write, and the canonical form that every write keeps. -/

namespace Sys2Proof.Machine

variable {α : Type}

@[simp] theorem mapGet_erase_same (d : α) (m : SMap α) (k : Nat) : mapGet d (mapErase m k) k = d := by
  induction m with
  | nil => rfl
  | cons p m ih => simp only [mapErase]; split <;> simp_all [mapGet]

theorem mapGet_erase_ne (d : α) (m : SMap α) {k j : Nat} (h : j ≠ k) : mapGet d (mapErase m k) j = mapGet d m j := by
  induction m with
  | nil => rfl
  | cons p m ih =>
    simp only [mapErase]
    split
    · rename_i hk; simp [mapGet, ih, hk, h.symm]
    · simp [mapGet, ih]

@[simp] theorem mapGet_insert_same (d : α) (m : SMap α) (k : Nat) (v : α) : mapGet d (mapInsert m k v) k = v := by
  induction m with
  | nil => simp [mapInsert, mapGet]
  | cons p m ih =>
    simp only [mapInsert]
    split
    · simp [mapGet]
    · split
      · simp [mapGet]
      · rename_i h1 h2; simp [mapGet, ih, Ne.symm h2]

theorem mapGet_insert_ne (d : α) (m : SMap α) {k j : Nat} (v : α) (h : j ≠ k) :
    mapGet d (mapInsert m k v) j = mapGet d m j := by
  induction m with
  | nil => simp [mapInsert, mapGet, h.symm]
  | cons p m ih =>
    simp only [mapInsert]
    split
    · simp [mapGet, h.symm]
    · split
      · rename_i h2; simp [mapGet, h.symm, ← h2]
      · simp [mapGet, ih]

/-- A read at the key written gives the value written. -/
@[simp] theorem mapGet_set_same [DecidableEq α] (d : α) (m : SMap α) (k : Nat) (v : α) : mapGet d (mapSet d m k v) k = v := by
  unfold mapSet; split <;> simp_all

/-- A read at another key gives what it gave before. -/
theorem mapGet_set_ne [DecidableEq α] (d d' : α) (m : SMap α) {k j : Nat} (v : α) (h : j ≠ k) :
    mapGet d (mapSet d' m k v) j = mapGet d m j := by
  unfold mapSet
  split
  · exact mapGet_erase_ne d m h
  · exact mapGet_insert_ne d m v h

theorem mapGet_set [DecidableEq α] (d : α) (m : SMap α) (k j : Nat) (v : α) :
    mapGet d (mapSet d m k v) j = if j = k then v else mapGet d m j := by
  split
  · rename_i h; subst h; simp
  · rename_i h; exact mapGet_set_ne d d m v h

/-! Canonical form. -/

/-- Every key of a sorted map lies above the bound, and the map is sorted without a bound or with a lower one. -/
theorem mapSorted_weaken {b b' : Nat} (m : SMap α) (h : mapSorted (some b) m = true) (hb : b' ≤ b) :
    mapSorted (some b') m = true := by
  cases m with
  | nil => rfl
  | cons p m =>
    simp only [mapSorted, Bool.and_eq_true, decide_eq_true_eq] at h ⊢
    exact ⟨by omega, h.2⟩

theorem mapSorted_none {b : Nat} (m : SMap α) (h : mapSorted (some b) m = true) : mapSorted none m = true := by
  cases m with
  | nil => rfl
  | cons p m => simp only [mapSorted, Bool.and_eq_true] at h ⊢; exact h.2

theorem mapSorted_erase_some {b : Nat} (m : SMap α) (k : Nat) (h : mapSorted (some b) m = true) :
    mapSorted (some b) (mapErase m k) = true := by
  induction m generalizing b with
  | nil => rfl
  | cons p m ih =>
    simp only [mapSorted, Bool.and_eq_true, decide_eq_true_eq] at h
    simp only [mapErase]
    split
    · exact ih (mapSorted_weaken m h.2 (by omega))
    · simp only [mapSorted, Bool.and_eq_true, decide_eq_true_eq]; exact ⟨h.1, ih h.2⟩

theorem mapSorted_erase (m : SMap α) (k : Nat) (h : mapSorted none m = true) : mapSorted none (mapErase m k) = true := by
  cases m with
  | nil => rfl
  | cons p m =>
    simp only [mapSorted] at h
    simp only [mapErase]
    split
    · exact mapSorted_none _ (mapSorted_erase_some m k h)
    · simp only [mapSorted]; exact mapSorted_erase_some m k h

theorem mapSorted_insert_some {b : Nat} (m : SMap α) (k : Nat) (v : α) (hb : b < k) (h : mapSorted (some b) m = true) :
    mapSorted (some b) (mapInsert m k v) = true := by
  induction m generalizing b with
  | nil => simp [mapInsert, mapSorted, hb]
  | cons p m ih =>
    simp only [mapSorted, Bool.and_eq_true, decide_eq_true_eq] at h
    simp only [mapInsert]
    split
    · simp only [mapSorted, Bool.and_eq_true, decide_eq_true_eq]; exact ⟨hb, by assumption, h.2⟩
    · split
      · rename_i h2; subst h2; simp only [mapSorted, Bool.and_eq_true, decide_eq_true_eq]; exact ⟨hb, h.2⟩
      · simp only [mapSorted, Bool.and_eq_true, decide_eq_true_eq]; exact ⟨h.1, ih (by omega) h.2⟩

theorem mapSorted_insert (m : SMap α) (k : Nat) (v : α) (h : mapSorted none m = true) :
    mapSorted none (mapInsert m k v) = true := by
  cases m with
  | nil => rfl
  | cons p m =>
    simp only [mapSorted] at h
    simp only [mapInsert]
    split
    · simp only [mapSorted, Bool.and_eq_true, decide_eq_true_eq]; exact ⟨by assumption, h⟩
    · split
      · rename_i h2; subst h2; simpa only [mapSorted] using h
      · simp only [mapSorted]; exact mapSorted_insert_some m k v (by omega) h

theorem mapLean_erase [DecidableEq α] (d : Nat → α) (m : SMap α) (k : Nat) (h : mapLean d m = true) :
    mapLean d (mapErase m k) = true := by
  induction m with
  | nil => rfl
  | cons p m ih =>
    simp only [mapLean, Bool.and_eq_true] at h
    simp only [mapErase]
    split
    · exact ih h.2
    · simp only [mapLean, Bool.and_eq_true]; exact ⟨h.1, ih h.2⟩

theorem mapLean_insert [DecidableEq α] (d : Nat → α) (m : SMap α) (k : Nat) (v : α) (hv : v ≠ d k) (h : mapLean d m = true) :
    mapLean d (mapInsert m k v) = true := by
  induction m with
  | nil => simp [mapInsert, mapLean, hv]
  | cons p m ih =>
    have h' := h
    simp only [mapLean, Bool.and_eq_true] at h
    simp only [mapInsert]
    split
    · simp only [mapLean, Bool.and_eq_true, decide_eq_true_eq]; exact ⟨hv, by simpa [mapLean] using h'⟩
    · split
      · simp only [mapLean, Bool.and_eq_true, decide_eq_true_eq]; exact ⟨hv, h.2⟩
      · simp only [mapLean, Bool.and_eq_true]; exact ⟨h.1, ih h.2⟩

/-- A write keeps the canonical form. -/
theorem mapWf_set [DecidableEq α] (d : Nat → α) (m : SMap α) (k : Nat) (v : α) (h : mapWf d m = true) :
    mapWf d (mapSet (d k) m k v) = true := by
  simp only [mapWf, Bool.and_eq_true] at h ⊢
  unfold mapSet
  split
  · exact ⟨mapSorted_erase m k h.1, mapLean_erase d m k h.2⟩
  · rename_i hv; exact ⟨mapSorted_insert m k v h.1, mapLean_insert d m k v hv h.2⟩

@[simp] theorem mapWf_nil [DecidableEq α] (d : Nat → α) : mapWf d ([] : SMap α) = true := rfl

/-- Keeping the entries that pass a test keeps the canonical form. -/
theorem mapSorted_filter_some (f : Nat × α → Bool) {b : Nat} (m : SMap α) (h : mapSorted (some b) m = true) :
    mapSorted (some b) (m.filter f) = true := by
  induction m generalizing b with
  | nil => rfl
  | cons p m ih =>
    simp only [mapSorted, Bool.and_eq_true, decide_eq_true_eq] at h
    by_cases hp : f p
    · simp only [List.filter_cons_of_pos hp, mapSorted, Bool.and_eq_true, decide_eq_true_eq]; exact ⟨h.1, ih h.2⟩
    · rw [List.filter_cons_of_neg hp]; exact ih (mapSorted_weaken m h.2 (by omega))

theorem mapSorted_filter (f : Nat × α → Bool) (m : SMap α) (h : mapSorted none m = true) : mapSorted none (m.filter f) = true := by
  cases m with
  | nil => rfl
  | cons p m =>
    simp only [mapSorted] at h
    by_cases hp : f p
    · simp only [List.filter_cons_of_pos hp, mapSorted]; exact mapSorted_filter_some f m h
    · rw [List.filter_cons_of_neg hp]; exact mapSorted_none _ (mapSorted_filter_some f m h)

theorem mapLean_filter [DecidableEq α] (d : Nat → α) (f : Nat × α → Bool) (m : SMap α) (h : mapLean d m = true) :
    mapLean d (m.filter f) = true := by
  induction m with
  | nil => rfl
  | cons p m ih =>
    simp only [mapLean, Bool.and_eq_true] at h
    by_cases hp : f p
    · simp only [List.filter_cons_of_pos hp, mapLean, Bool.and_eq_true]; exact ⟨h.1, ih h.2⟩
    · rw [List.filter_cons_of_neg hp]; exact ih h.2

theorem mapWf_filter [DecidableEq α] (d : Nat → α) (f : Nat × α → Bool) (m : SMap α) (h : mapWf d m = true) :
    mapWf d (m.filter f) = true := by
  simp only [mapWf, Bool.and_eq_true] at h ⊢
  exact ⟨mapSorted_filter f m h.1, mapLean_filter d f m h.2⟩

end Sys2Proof.Machine
end

