-- ==== Sys2Proof/Laws/CanonBase.lean ====
section
/-! SUPPORT. The canonical form of the state (State.Canon of Safety): what keeps it, for records, conditionals, folds and the
answers that carry a state; and that a register or a byte written keeps it. The other Canon files go through every
operation of the machine with these. -/

namespace Sys2Proof.Machine

variable {pq : List Instr}
theorem mapMem_erase {α : Type} {m : SMap α} {k : Nat} {p : Nat × α} (h : p ∈ mapErase m k) : p ∈ m := by
  induction m with
  | nil => exact h
  | cons q m ih =>
    simp only [mapErase] at h
    split at h
    · exact List.mem_cons_of_mem _ (ih h)
    · rcases List.mem_cons.1 h with rfl | h
      · exact List.mem_cons_self
      · exact List.mem_cons_of_mem _ (ih h)
theorem mapMem_insert {α : Type} {m : SMap α} {k : Nat} {v : α} {p : Nat × α} (h : p ∈ mapInsert m k v) : p = (k, v) ∨ p ∈ m := by
  induction m with
  | nil => simpa [mapInsert] using h
  | cons q m ih =>
    simp only [mapInsert] at h
    split at h
    · simpa using h
    · split at h
      · rcases List.mem_cons.1 h with rfl | h
        · exact .inl rfl
        · exact .inr (List.mem_cons_of_mem _ h)
      · rcases List.mem_cons.1 h with rfl | h
        · exact .inr List.mem_cons_self
        · exact (ih h).imp id (List.mem_cons_of_mem _)
theorem mapMem_set {α : Type} [DecidableEq α] {d : α} {m : SMap α} {k : Nat} {v : α} {p : Nat × α} (h : p ∈ mapSet d m k v) :
    p.2 = v ∨ p ∈ m := by
  unfold mapSet at h
  split at h
  · exact .inr (mapMem_erase h)
  · exact (mapMem_insert h).imp (fun e => by rw [e]) id
theorem mapGet_mem {α : Type} (d : α) (m : SMap α) (k : Nat) : mapGet d m k = d ∨ ∃ p ∈ m, mapGet d m k = p.2 := by
  induction m with
  | nil => exact .inl rfl
  | cons q m ih =>
    simp only [mapGet]
    split
    · exact .inr ⟨q, List.mem_cons_self, rfl⟩
    · exact ih.imp id fun ⟨p, hp, h⟩ => ⟨p, List.mem_cons_of_mem _ hp, h⟩

/-- A canonical state whose queue is pq, the wellformedness of the waiting commands apart. -/
structure State.Held (pq : List Instr) (s : State) : Prop where
  regs : mapWf regReset s.regs = true
  bytes : s.mem.wf = true
  trace : s.trace.fifo.length ≤ 64
  rings : ∀ p ∈ s.rings, p.2.msgs.length ≤ 64
  hq : s.hp.queue.length ≤ 64
  aq : s.arb.queue.length ≤ 16
  queue : s.pending = pq

theorem State.Canon.held {s : State} (h : s.Canon) : s.Held s.pending := ⟨h.regs, h.bytes, h.trace, h.rings, h.hq, h.aq, rfl⟩

theorem State.Held.canon {s : State} (h : s.Held pq) (hw : pq.all Instr.wf = true) : s.Canon :=
  ⟨h.regs, h.bytes, h.trace, h.rings, h.hq, h.aq, by rw [h.queue]; exact hw⟩

theorem State.Held.of_eq {s t : State} (h : t.Held pq) (e1 : s.regs = t.regs) (e2 : s.mem.bytes = t.mem.bytes)
    (e3 : s.trace.fifo = t.trace.fifo) (e4 : s.rings = t.rings) (e5 : s.hp.queue = t.hp.queue) (e6 : s.arb.queue = t.arb.queue)
    (e7 : s.pending = t.pending) : s.Held pq :=
  ⟨e1 ▸ h.regs, by rw [Mems.wf, e2]; exact h.bytes, e3 ▸ h.trace, e4 ▸ h.rings, e5 ▸ h.hq, e6 ▸ h.aq, e7.trans h.queue⟩

theorem canon_mk {x0} {x1} {x2} {x3} {x4} {x5} {x6} {x7} {x8} {x9} {x10} {x11} {x12} {x13} {x14} {x15} {x16} {x17} {x18} {x19} {x20} {x21} {x22} {x23} {x24} {x25} {x26} {x27} {x28} {x29} {x30} {x31} {x32} {x33} {x34} {x35} {t : State} (h : t.Held pq) (e1 : x0 = t.regs) (e2 : Mems.bytes x14 = t.mem.bytes)
    (e3 : Trace.fifo x4 = t.trace.fifo) (e4 : x25 = t.rings) (e5 : HostPort.queue x26 = t.hp.queue)
    (e6 : Arbiter.queue x19 = t.arb.queue) (e7 : x34 = t.pending) :
    (State.mk x0 x1 x2 x3 x4 x5 x6 x7 x8 x9 x10 x11 x12 x13 x14 x15 x16 x17 x18 x19 x20 x21 x22 x23 x24 x25 x26 x27 x28 x29 x30 x31 x32 x33 x34 x35).Held pq := h.of_eq e1 e2 e3 e4 e5 e6 e7

theorem canon_mkE {x0} {x1} {x2} {x3} {x4} {x5} {x6} {x7} {x8} {x9} {x10} {x11} {x12} {x13} {x14} {x15} {x16} {x17} {x18} {x19} {x20} {x21} {x22} {x23} {x24} {x25} {x26} {x27} {x28} {x29} {x30} {x31} {x32} {x33} {x34} {x35} {t : State} (h : t.Held pq) (e1 : x0 = t.regs) (e2 : Mems.bytes x14 = t.mem.bytes)
    (e3 : Trace.fifo x4 = t.trace.fifo ∨ Trace.fifo x4 = []) (e4 : x25 = t.rings ∨ x25 = [])
    (e5 : HostPort.queue x26 = t.hp.queue ∨ HostPort.queue x26 = [])
    (e6 : Arbiter.queue x19 = t.arb.queue ∨ Arbiter.queue x19 = []) (e7 : x34 = t.pending) :
    (State.mk x0 x1 x2 x3 x4 x5 x6 x7 x8 x9 x10 x11 x12 x13 x14 x15 x16 x17 x18 x19 x20 x21 x22 x23 x24 x25 x26 x27 x28 x29 x30 x31 x32 x33 x34 x35).Held pq := by
  refine ⟨e1 ▸ h.regs, by rw [Mems.wf, e2]; exact h.bytes, ?_, ?_, ?_, ?_, e7.trans h.queue⟩
  · rcases e3 with e | e
    · exact e ▸ h.trace
    · exact e ▸ Nat.zero_le _
  · rcases e4 with e | e
    · exact e ▸ h.rings
    · exact e ▸ nofun
  · rcases e5 with e | e
    · exact e ▸ h.hq
    · exact e ▸ Nat.zero_le _
  · rcases e6 with e | e
    · exact e ▸ h.aq
    · exact e ▸ Nat.zero_le _

def canonR (pq : List Instr) (r : Result) : Prop := ∃ t : State, r = .next t ∧ t.Held pq
def canonO (pq : List Instr) : Option State → Prop | some s => s.Held pq | none => True
def canonOP (pq : List Instr) {α : Type} : Option (State × α) → Prop | some p => p.1.Held pq | none => True
def canonD (pq : List Instr) : Done → Prop
  | .next s | .stop s => s.Held pq
  | .arith s _ | .jump s _ | .goto s _ => s.Held pq
  | .after s _ | .exc s _ => s.Held pq
  | .post s f => s.Held pq ∧ ∀ t : State, t.Held pq → (f t).Held pq
  | .stall => True
def canonL (pq : List Instr) : Slide → Prop | .ok s => s.Held pq | .exc s _ => s.Held pq | .stall => True
def canonA (pq : List Instr) : LoadAns → Prop | .val s _ _ => s.Held pq | .err s _ => s.Held pq | .sent s => s.Held pq | .stall => True
def canonF (pq : List Instr) : Fetch → Prop | .ok s => s.Held pq | .exc s _ => s.Held pq | .stall => True

theorem canon_id {s : State} (h : s.Held pq) : (id s).Held pq := h
theorem canonR_next {s : State} (h : s.Held pq) : canonR pq (.next s) := ⟨s, rfl, h⟩
theorem canonO_some {s : State} (h : s.Held pq) : canonO pq (some s) := h
theorem canonO_none : canonO pq none := trivial
theorem canonOP_some {α : Type} {s : State} {x : α} (h : s.Held pq) : canonOP pq (some (s, x)) := h
theorem canonOP_none {α : Type} : canonOP pq (none : Option (State × α)) := trivial
theorem canonP_mk {α : Type} {s : State} {x : α} (h : s.Held pq) : (s, x).1.Held pq := h
theorem canonQ_mk {α : Type} {s : State} {x : α} (h : s.Held pq) : (x, s).2.Held pq := h
theorem canon_ite {c : Prop} [Decidable c] {a b : State} (ha : a.Held pq) (hb : b.Held pq) : (ite c a b).Held pq := by split <;> assumption
theorem canonR_ite {c : Prop} [Decidable c] {a b : Result} (ha : canonR pq a) (hb : canonR pq b) : canonR pq (ite c a b) := by split <;> assumption
theorem canonO_ite {c : Prop} [Decidable c] {a b : Option State} (ha : canonO pq a) (hb : canonO pq b) : canonO pq (ite c a b) := by split <;> assumption
theorem canonD_ite {c : Prop} [Decidable c] {a b : Done} (ha : canonD pq a) (hb : canonD pq b) : canonD pq (ite c a b) := by split <;> assumption
theorem canonL_ite {c : Prop} [Decidable c] {a b : Slide} (ha : canonL pq a) (hb : canonL pq b) : canonL pq (ite c a b) := by split <;> assumption
theorem canonA_ite {c : Prop} [Decidable c] {a b : LoadAns} (ha : canonA pq a) (hb : canonA pq b) : canonA pq (ite c a b) := by split <;> assumption
theorem canonF_ite {c : Prop} [Decidable c] {a b : Fetch} (ha : canonF pq a) (hb : canonF pq b) : canonF pq (ite c a b) := by split <;> assumption
theorem canonP_ite {α : Type} {c : Prop} [Decidable c] {a b : State × α} (ha : a.1.Held pq) (hb : b.1.Held pq) : (ite c a b).1.Held pq := by split <;> assumption
theorem canonQ_ite {α : Type} {c : Prop} [Decidable c] {a b : α × State} (ha : a.2.Held pq) (hb : b.2.Held pq) : (ite c a b).2.Held pq := by split <;> assumption
theorem canonOP_ite {α : Type} {c : Prop} [Decidable c] {a b : Option (State × α)} (ha : canonOP pq a) (hb : canonOP pq b) : canonOP pq (ite c a b) := by split <;> assumption
theorem canonP_of_eq {α : Type} {p : State × α} {s : State} {r : α} (h : p = (s, r)) (hp : p.1.Held pq) : s.Held pq := by subst h; exact hp
theorem canonQ_of_eq {α : Type} {p : α × State} {s : State} {r : α} (h : p = (r, s)) (hp : p.2.Held pq) : s.Held pq := by subst h; exact hp
theorem canonO_of_eq {p : Option State} {s : State} (h : p = some s) (hp : canonO pq p) : s.Held pq := by subst h; exact hp
theorem canonOP_of_eq {α : Type} {p : Option (State × α)} {s : State} {r : α} (h : p = some (s, r)) (hp : canonOP pq p) : s.Held pq := by subst h; exact hp
theorem canonL_of_ok {p : Slide} {s : State} (h : p = .ok s) (hp : canonL pq p) : s.Held pq := by subst h; exact hp
theorem canonL_of_exc {p : Slide} {s : State} {e : Exc} (h : p = .exc s e) (hp : canonL pq p) : s.Held pq := by subst h; exact hp
theorem canonF_of_ok {p : Fetch} {s : State} (h : p = .ok s) (hp : canonF pq p) : s.Held pq := by subst h; exact hp
theorem canonF_of_exc {p : Fetch} {s : State} {e : Exc} (h : p = .exc s e) (hp : canonF pq p) : s.Held pq := by subst h; exact hp
theorem canonA_of_val {p : LoadAns} {s : State} {v : Nat} {t : Bool} (h : p = .val s v t) (hp : canonA pq p) : s.Held pq := by subst h; exact hp
theorem canonA_of_err {p : LoadAns} {s : State} {r : BusRes} (h : p = .err s r) (hp : canonA pq p) : s.Held pq := by subst h; exact hp
theorem canonA_of_sent {p : LoadAns} {s : State} (h : p = .sent s) (hp : canonA pq p) : s.Held pq := by subst h; exact hp
theorem canonD_next {s : State} (h : s.Held pq) : canonD pq (.next s) := h
theorem canonD_stop {s : State} (h : s.Held pq) : canonD pq (.stop s) := h
theorem canonD_arith {s : State} {n : Nat} (h : s.Held pq) : canonD pq (.arith s n) := h
theorem canonD_jump {s : State} {n : Nat} (h : s.Held pq) : canonD pq (.jump s n) := h
theorem canonD_goto {s : State} {n : Nat} (h : s.Held pq) : canonD pq (.goto s n) := h
theorem canonD_after {s : State} {e : Exc} (h : s.Held pq) : canonD pq (.after s e) := h
theorem canonD_exc {s : State} {e : Exc} (h : s.Held pq) : canonD pq (.exc s e) := h
theorem canonD_post {s : State} {f : State → State} (h : s.Held pq) (hf : ∀ t : State, t.Held pq → (f t).Held pq) : canonD pq (.post s f) := ⟨h, hf⟩
theorem canonD_stall : canonD pq .stall := trivial
theorem canonL_ok {s : State} (h : s.Held pq) : canonL pq (.ok s) := h
theorem canonL_exc {s : State} {e : Exc} (h : s.Held pq) : canonL pq (.exc s e) := h
theorem canonL_stall : canonL pq .stall := trivial
theorem canonF_ok {s : State} (h : s.Held pq) : canonF pq (.ok s) := h
theorem canonF_exc {s : State} {e : Exc} (h : s.Held pq) : canonF pq (.exc s e) := h
theorem canonF_stall : canonF pq .stall := trivial
theorem canonA_val {s : State} {v : Nat} {t : Bool} (h : s.Held pq) : canonA pq (.val s v t) := h
theorem canonA_err {s : State} {r : BusRes} (h : s.Held pq) : canonA pq (.err s r) := h
theorem canonA_sent {s : State} (h : s.Held pq) : canonA pq (.sent s) := h
theorem canonA_stall : canonA pq .stall := trivial
theorem canon_foldl {α : Type} {f : State → α → State} (hf : ∀ (s : State) (x : α), s.Held pq → (f s x).Held pq) {s : State}
    (h : s.Held pq) (l : List α) : (l.foldl f s).Held pq := by
  induction l generalizing s with
  | nil => exact h
  | cons x l ih => exact ih (hf s x h)
theorem canonP_foldl {α β : Type} {f : State × β → α → State × β} (hf : ∀ (p : State × β) (x : α), p.1.Held pq → (f p x).1.Held pq)
    {p : State × β} (h : p.1.Held pq) (l : List α) : (l.foldl f p).1.Held pq := by
  induction l generalizing p with
  | nil => exact h
  | cons x l ih => exact ih (hf p x h)
theorem canonO_getD {o : Option State} {s : State} (ho : canonO pq o) (h : s.Held pq) : (o.getD s).Held pq := by
  cases o with
  | none => exact h
  | some t => exact ho
theorem canonO_orElse {o : Option State} {f : Unit → Option State} (ho : canonO pq o) (h : canonO pq (f ())) : canonO pq (o.orElse f) := by
  cases o with
  | none => exact h
  | some t => exact ho

theorem State.setReg_canon {s : State} (a : Nat) (v : Word) (h : s.Held pq) : (s.setReg a v).Held pq :=
  ⟨mapWf_set regReset s.regs a v h.regs, h.bytes, h.trace, h.rings, h.hq, h.aq, h.queue⟩
theorem State.setByte_canon {s : State} (a : Nat) (v : Byte) (h : s.Held pq) : (s.setByte a v).Held pq :=
  ⟨h.regs, mapWf_set memDefault s.mem.bytes a v h.bytes, h.trace, h.rings, h.hq, h.aq, h.queue⟩
end Sys2Proof.Machine
end

