-- ==== Sys2Proof/Laws/CanonFrontEnd.lean ====
section
/-! SUPPORT. The canonical form of the state is kept by the converters, comparators, generators, position interfaces and sorting: one lemma an operation. -/

namespace Sys2Proof.Machine

variable {pq : List Instr}

/-! Ops. -/

theorem State.setFld_canon {s : State} (a hi lo v : Nat) (hc : s.Held pq) :
    (State.setFld s a hi lo v).Held pq := by
  unfold State.setFld
  with_reducible repeat' first | assumption | apply State.setReg_canon

theorem State.setFlag_canon {s : State} (a i : Nat) (b : Bool) (hc : s.Held pq) :
    (State.setFlag s a i b).Held pq := by
  unfold State.setFlag
  with_reducible repeat' first | assumption | apply State.setFld_canon

theorem State.satInc_canon {s : State} (a hi lo : Nat) (hc : s.Held pq) :
    (State.satInc s a hi lo).Held pq := by
  unfold State.satInc
  with_reducible repeat' first | assumption | apply State.setFld_canon

theorem State.satAdd_canon {s : State} (a hi lo n : Nat) (hc : s.Held pq) :
    (State.satAdd s a hi lo n).Held pq := by
  unfold State.satAdd
  with_reducible repeat' first | assumption | apply State.setFld_canon

theorem State.modInc_canon {s : State} (a hi lo : Nat) (hc : s.Held pq) :
    (State.modInc s a hi lo).Held pq := by
  unfold State.modInc
  with_reducible repeat' first | assumption | apply State.setFld_canon

theorem State.tick_canon {s : State} (hc : s.Held pq) :
    (State.tick s).Held pq := by
  unfold State.tick
  with_reducible repeat' first | assumption | (fail_if_no_progress refine canon_mk ?_ rfl rfl rfl rfl rfl rfl rfl)

theorem State.cfgFail_canon {s : State} (a : Nat) (f : CfgFail) (hc : s.Held pq) :
    (State.cfgFail s a f).Held pq := by
  unfold State.cfgFail
  with_reducible repeat' first | assumption | apply State.setReg_canon

theorem State.cfgOk_canon {s : State} (a : Nat) (hc : s.Held pq) :
    (State.cfgOk s a).Held pq := by
  unfold State.cfgOk
  with_reducible repeat' first | assumption | apply State.setReg_canon

theorem State.store_canon {s : State} (a chk : Nat) (locked : Bool) (v : Word) (detail : Nat) (hc : s.Held pq) :
    (State.store s a chk locked v detail).Held pq := by
  unfold State.store
  with_reducible repeat' first | assumption | apply State.cfgFail_canon | apply State.setReg_canon | split

theorem State.unitWrite_canon {s : State} (a chk en : Nat) (v : Word) (fails : State → List CfgFail) (onEnable onDisable onLive : State → State) (detail : Nat) (hc : s.Held pq) (hconEnable : ∀ t : State, t.Held pq → (onEnable t).Held pq) (hconDisable : ∀ t : State, t.Held pq → (onDisable t).Held pq) (hconLive : ∀ t : State, t.Held pq → (onLive t).Held pq) :
    (State.unitWrite s a chk en v fails onEnable onDisable onLive detail).Held pq := by
  unfold State.unitWrite
  with_reducible repeat' first | assumption | apply hconEnable | apply hconDisable | apply hconLive | apply State.cfgFail_canon | apply State.cfgOk_canon | apply State.setFlag_canon | apply State.store_canon | dsimp only | split

theorem State.advanceTo_canon {s : State} (e : Nat) (h : s.Held pq) : (s.advanceTo e).Held pq := by
  unfold State.advanceTo
  split
  · have ht : (s.trace.fifo.drop (e / 4 - s.now / 4)).length ≤ 64 := by
      have := h.trace; simp only [List.length_drop]; omega
    exact ⟨h.regs, h.bytes, ht, h.rings, h.hq, h.aq, h.queue⟩
  · exact h

theorem State.whenOn_canon {s : State} (d chk : Nat) (f : State → State) (hc : s.Held pq) (hcf : ∀ t : State, t.Held pq → (f t).Held pq) :
    (State.whenOn s d chk f).Held pq := by
  unfold State.whenOn
  with_reducible repeat' first | assumption | apply canon_ite | apply hcf | apply State.cfgFail_canon

theorem State.tracePush_canon {s : State} (w : Word) (h : s.Held pq) : (s.tracePush w).Held pq := by
  unfold State.tracePush
  split
  · rename_i h1
    split
    · have ht : (s.trace.fifo ++ [w]).length ≤ 64 := by simp only [List.length_append, List.length_singleton]; omega
      exact ⟨h.regs, h.bytes, ht, h.rings, h.hq, h.aq, h.queue⟩
    · split
      · exact ⟨h.regs, h.bytes, by simp only [List.length_append, List.length_cons, List.length_nil]; omega,
          h.rings, h.hq, h.aq, h.queue⟩
      · exact ⟨h.regs, h.bytes, by simp only [List.length_append, List.length_cons, List.length_nil]; omega,
          h.rings, h.hq, h.aq, h.queue⟩
  · apply State.setFlag_canon
    exact canon_mk h rfl rfl rfl rfl rfl rfl rfl

theorem State.pulseLine_canon {s : State} (l : Nat) (hc : s.Held pq) :
    (State.pulseLine s l).Held pq := by
  unfold State.pulseLine
  with_reducible repeat' first | assumption | (fail_if_no_progress refine canon_mk ?_ rfl rfl rfl rfl rfl rfl rfl)

theorem State.setLine_canon {s : State} (l : Nat) (high : Bool) (hc : s.Held pq) :
    (State.setLine s l high).Held pq := by
  unfold State.setLine
  with_reducible repeat' first | assumption | (fail_if_no_progress refine canon_mk ?_ rfl rfl rfl rfl rfl rfl rfl) | split

theorem State.raiseAt_canon {s : State} (src e f : Nat) (hc : s.Held pq) :
    (State.raiseAt s src e f).Held pq := by
  unfold State.raiseAt
  with_reducible repeat' first | assumption | apply State.modInc_canon | apply State.setFlag_canon | apply State.setFld_canon | (fail_if_no_progress refine canon_mk ?_ rfl rfl rfl rfl rfl rfl rfl) | dsimp only | split

theorem State.raiseNow_canon {s : State} (src : Nat) (hc : s.Held pq) :
    (State.raiseNow s src).Held pq := by
  unfold State.raiseNow
  with_reducible repeat' first | assumption | apply State.raiseAt_canon

/-! Arbiter. -/

theorem State.arbSync_canon {s : State} (hc : s.Held pq) :
    (State.arbSync s).Held pq := by
  unfold State.arbSync
  with_reducible repeat' first | assumption | apply State.setReg_canon

theorem State.arbRequest_canon {s : State} (act res : Nat) (h : s.Held pq) : (s.arbRequest act res).2.Held pq := by
  unfold State.arbRequest
  dsimp only
  split
  · exact h
  · split
    · exact State.setReg_canon _ _ h
    · split
      · exact State.setReg_canon _ _ h
      · split
        · apply State.setReg_canon
          apply State.arbSync_canon
          exact canon_mk h rfl rfl rfl rfl rfl rfl rfl
        · split
          · exact State.setReg_canon _ _ h
          · apply State.setReg_canon
            apply State.arbSync_canon
            exact ⟨h.regs, h.bytes, h.trace, h.rings, h.hq, by
              simp only [State.tick, List.length_append, List.length_singleton]; omega, h.queue⟩

theorem State.arbRelease_canon {s : State} (t : Nat) (h : s.Held pq) : (s.arbRelease t).Held pq := by
  unfold State.arbRelease
  apply State.arbSync_canon
  exact ⟨h.regs, h.bytes, h.trace, h.rings, h.hq, Nat.le_trans (List.length_filter_le _ _) h.aq, h.queue⟩

/-! Converters. -/

theorem State.setSlice_canon {s : State} (n : Nat) (r : Slice) (hc : s.Held pq) :
    (State.setSlice s n r).Held pq := by
  unfold State.setSlice
  with_reducible repeat' first | assumption | (fail_if_no_progress refine canon_mk ?_ rfl rfl rfl rfl rfl rfl rfl)

theorem State.setGroup_canon {s : State} (g : Nat) (r : Group) (hc : s.Held pq) :
    (State.setGroup s g r).Held pq := by
  unfold State.setGroup
  with_reducible repeat' first | assumption | (fail_if_no_progress refine canon_mk ?_ rfl rfl rfl rfl rfl rfl rfl)

theorem State.miss_canon {s : State} (e : Nat) (hc : s.Held pq) :
    (State.miss s e).Held pq := by
  unfold State.miss
  with_reducible repeat' first | assumption | apply State.satInc_canon

theorem State.feedRing_canon {s : State} (n : Nat) (codes : List (BitVec 4)) (hc : s.Held pq) :
    (State.feedRing s n codes).Held pq := by
  unfold State.feedRing
  with_reducible repeat' first | assumption | apply State.setSlice_canon

theorem State.winEval_canon {s : State} (n : Nat) (v : Int) (hc : s.Held pq) :
    (State.winEval s n v).1.Held pq := by
  unfold State.winEval
  with_reducible repeat' first | assumption | apply canonP_ite | apply State.setFlag_canon | apply State.setSlice_canon

theorem State.winOff_canon {s : State} (n : Nat) (hc : s.Held pq) :
    (State.winOff s n).Held pq := by
  unfold State.winOff
  with_reducible repeat' first | assumption | apply State.setFlag_canon | apply State.setSlice_canon

theorem State.putResult_canon {s : State} (e : Nat) (subst range win : Bool) (value : Int) (hc : s.Held pq) :
    (State.putResult s e subst range win value).Held pq := by
  unfold State.putResult
  with_reducible repeat' first | assumption | apply State.setReg_canon

theorem State.putFast_canon {s : State} (e : Nat) (subst range exit : Bool) (n : Nat) (v : Int) (hc : s.Held pq) :
    (State.putFast s e subst range exit n v).Held pq := by
  unfold State.putFast
  with_reducible repeat' first | assumption | apply canon_ite | apply State.putResult_canon | apply State.raiseNow_canon

theorem State.putStamp_canon {s : State} (c : Nat) (v : Serve) (hc : s.Held pq) :
    (State.putStamp s c v).Held pq := by
  unfold State.putStamp
  with_reducible repeat' first | assumption | apply State.setReg_canon | (fail_if_no_progress refine canon_mk ?_ rfl rfl rfl rfl rfl rfl rfl) | dsimp only | split

theorem execFastResultWrite_canon (n : Fin 64) (codes : List (BitVec 4)) (ovld : Bool) {s : State} (hc : s.Held pq) :
    canonR pq (execFastResultWrite n codes ovld s) := by
  unfold execFastResultWrite
  with_reducible repeat' first | assumption | intro _ | apply canonR_next | apply canon_foldl | apply State.advanceTo_canon | apply State.feedRing_canon | apply State.putFast_canon | apply State.putStamp_canon | apply State.setFlag_canon | apply State.setSlice_canon | apply State.winEval_canon | dsimp only | split

theorem State.freeResult_canon {s : State} (n c : Nat) (ents : List Nat) (ovld : Bool) (hc : s.Held pq) :
    (State.freeResult s n c ents ovld).Held pq := by
  unfold State.freeResult
  with_reducible repeat' first | assumption | intro _ | apply canon_ite | apply canon_foldl | apply State.putFast_canon | apply State.setFlag_canon | apply State.setSlice_canon | apply State.winEval_canon

theorem execFreeRunningResult_canon (n : Fin 64) (codes : List (BitVec 4)) (ovld : Bool) {s : State} (hc : s.Held pq) :
    canonR pq (execFreeRunningResult n codes ovld s) := by
  unfold execFreeRunningResult
  with_reducible repeat' first | assumption | intro _ | apply canonR_next | apply canonR_ite | apply State.advanceTo_canon | apply State.feedRing_canon | apply State.freeResult_canon

theorem State.trigSlice_canon {s : State} (n : Nat) (ents : List Nat) (c : Nat) (resid : Int) (hc : s.Held pq) :
    (State.trigSlice s n ents c resid).Held pq := by
  unfold State.trigSlice
  with_reducible repeat' first | assumption | apply canon_ite | apply canon_foldl | apply State.miss_canon | apply State.setFlag_canon | apply State.setSlice_canon

theorem State.trigger_canon {s : State} (line inst : Nat) (hc : s.Held pq) :
    (State.trigger s line inst).Held pq := by
  unfold State.trigger
  with_reducible repeat' first | assumption | intro _ | apply canon_ite | apply canon_foldl | apply State.miss_canon | apply State.trigSlice_canon

theorem State.sliceDown_canon {s : State} (n : Nat) (hc : s.Held pq) :
    (State.sliceDown s n).Held pq := by
  unfold State.sliceDown
  with_reducible repeat' first | assumption | intro _ | apply canon_foldl | apply State.miss_canon | apply State.setFld_canon | apply State.setGroup_canon | apply State.setSlice_canon | dsimp only | split

theorem State.csCtrlWrite_canon {s : State} (n : Nat) (v : Word) (hc : s.Held pq) :
    (State.csCtrlWrite s n v).Held pq := by
  unfold State.csCtrlWrite
  with_reducible repeat' first | assumption | intro _ | apply canon_ite | apply State.setFlag_canon | apply State.setSlice_canon | apply State.sliceDown_canon | apply State.unitWrite_canon | apply State.winOff_canon

theorem execSliceEnable_canon (n : Fin 64) (v : BitVec 32) {s : State} (hc : s.Held pq) :
    canonR pq (execSliceEnable n v s) := by
  unfold execSliceEnable
  with_reducible repeat' first | assumption | intro _ | apply canonR_next | apply State.csCtrlWrite_canon | apply State.whenOn_canon

theorem execSliceDisable_canon (n : Fin 64) (v : BitVec 32) {s : State} (hc : s.Held pq) :
    canonR pq (execSliceDisable n v s) := by
  unfold execSliceDisable
  with_reducible repeat' first | assumption | apply canonR_next | apply State.csCtrlWrite_canon | split

theorem execSliceReady_canon (n : Fin 64) {s : State} (hc : s.Held pq) :
    canonR pq (execSliceReady n s) := by
  unfold execSliceReady
  with_reducible repeat' first | assumption | apply canonR_next | apply canon_ite | apply State.advanceTo_canon | apply State.setFlag_canon

theorem State.winBegin_canon {s : State} (g e : Nat) (hc : s.Held pq) :
    (State.winBegin s g e).Held pq := by
  unfold State.winBegin
  with_reducible repeat' first | assumption | apply State.setGroup_canon

theorem State.cgMptWrite_canon {s : State} (g : Nat) (v : Word) (hc : s.Held pq) :
    (State.cgMptWrite s g v).Held pq := by
  unfold State.cgMptWrite
  with_reducible repeat' first | assumption | intro _ | apply canon_ite | apply State.setFlag_canon | apply State.setGroup_canon | apply State.setReg_canon | apply State.unitWrite_canon | apply State.winBegin_canon | apply canon_id

theorem execGroupEnable_canon (g : Fin 4) (v : BitVec 32) {s : State} (hc : s.Held pq) :
    canonR pq (execGroupEnable g v s) := by
  unfold execGroupEnable
  with_reducible repeat' first | assumption | intro _ | apply canonR_next | apply State.cgMptWrite_canon | apply State.whenOn_canon

theorem execIntegratingWindowEnd_canon (g : Fin 4) (sums : List WindowSum) {s : State} (hc : s.Held pq) :
    canonR pq (execIntegratingWindowEnd g sums s) := by
  unfold execIntegratingWindowEnd
  with_reducible repeat' first | assumption | apply canonR_next | apply State.advanceTo_canon | apply State.modInc_canon | apply State.setGroup_canon | apply State.winBegin_canon | split

theorem State.putInt_canon {s : State} (g : Nat) (d : IntDone) (hc : s.Held pq) :
    (State.putInt s g d).Held pq := by
  unfold State.putInt
  with_reducible repeat' first | assumption | intro _ | apply canon_ite | apply canon_foldl | apply State.putResult_canon | apply State.raiseNow_canon

theorem execIntegratingResultWrite_canon (g : Fin 4) {s : State} (hc : s.Held pq) :
    canonR pq (execIntegratingResultWrite g s) := by
  unfold execIntegratingResultWrite
  with_reducible repeat' first | assumption | intro _ | apply canonR_next | apply canon_foldl | apply State.advanceTo_canon | apply State.putInt_canon | apply State.setGroup_canon | split

theorem State.trackPeriod_canon {s : State} (g p : Nat) (hc : s.Held pq) :
    (State.trackPeriod s g p).1.Held pq := by
  unfold State.trackPeriod
  with_reducible repeat' first | assumption | apply State.setFlag_canon | apply State.setGroup_canon | apply State.setReg_canon | dsimp only | split

theorem execMainsZeroCrossing_canon (g : Fin 4) (c : Crossing) {s : State} (hc : s.Held pq) :
    canonR pq (execMainsZeroCrossing g c s) := by
  unfold execMainsZeroCrossing
  with_reducible repeat' first | assumption | apply canonR_next | apply State.advanceTo_canon | apply State.setGroup_canon | apply State.trackPeriod_canon | apply State.winBegin_canon | dsimp only | split

theorem execTrackerNoSignal_canon (g : Fin 4) {s : State} (hc : s.Held pq) :
    canonR pq (execTrackerNoSignal g s) := by
  unfold execTrackerNoSignal
  with_reducible repeat' first | assumption | apply canonR_next | apply State.advanceTo_canon | apply State.setFld_canon | dsimp only | split

theorem execTrackFirstWindowTimeout_canon (g : Fin 4) {s : State} (hc : s.Held pq) :
    canonR pq (execTrackFirstWindowTimeout g s) := by
  unfold execTrackFirstWindowTimeout
  with_reducible repeat' first | assumption | apply canonR_next | apply canonR_ite | apply State.advanceTo_canon | apply State.winBegin_canon

theorem execCalStepStart_canon (g : Fin 4) {s : State} (hc : s.Held pq) :
    canonR pq (execCalStepStart g s) := by
  unfold execCalStepStart
  with_reducible repeat' first | assumption | apply canonR_next | apply State.modInc_canon | apply State.setFld_canon | apply State.setGroup_canon | dsimp only | split

theorem execCalSubstitution_canon (g : Fin 4) (fitOfs : Int) (fitGain : BitVec 24) {s : State} (hc : s.Held pq) :
    canonR pq (execCalSubstitution g fitOfs fitGain s) := by
  unfold execCalSubstitution
  with_reducible repeat' first | assumption | apply canonR_next | apply State.advanceTo_canon | apply State.setFlag_canon | apply State.setFld_canon | apply State.setGroup_canon | apply State.setSlice_canon | dsimp only | split

theorem execCalPinRelease_canon (g : Fin 4) {s : State} (hc : s.Held pq) :
    canonR pq (execCalPinRelease g s) := by
  unfold execCalPinRelease
  with_reducible repeat' first | assumption | apply canonR_next | apply State.advanceTo_canon | apply State.setGroup_canon | dsimp only | split

theorem execCalReshadow_canon (g : Fin 4) {s : State} (hc : s.Held pq) :
    canonR pq (execCalReshadow g s) := by
  unfold execCalReshadow
  with_reducible repeat' first | assumption | apply canonR_next | apply State.advanceTo_canon | apply State.setFld_canon | apply State.setGroup_canon | dsimp only | split

theorem execCalHandback_canon (g : Fin 4) (ofs : Int) (gain : BitVec 24) {s : State} (hc : s.Held pq) :
    canonR pq (execCalHandback g ofs gain s) := by
  unfold execCalHandback
  with_reducible repeat' first | assumption | apply canonR_next | apply State.advanceTo_canon | apply State.setFlag_canon | apply State.setFld_canon | apply State.setGroup_canon | dsimp only | split

theorem State.calMaybeRelease_canon {s : State} (g : Nat) (hc : s.Held pq) :
    (State.calMaybeRelease s g).Held pq := by
  unfold State.calMaybeRelease
  with_reducible repeat' first | assumption | apply State.arbRelease_canon | apply State.setFld_canon | apply State.setGroup_canon | dsimp only | split

theorem execCalSpareRelease_canon (g : Fin 4) {s : State} (hc : s.Held pq) :
    canonR pq (execCalSpareRelease g s) := by
  unfold execCalSpareRelease
  with_reducible repeat' first | assumption | apply canonR_next | apply State.advanceTo_canon | apply State.calMaybeRelease_canon | apply State.setGroup_canon | split

theorem State.calHold_canon {s : State} (g : Nat) (hc : s.Held pq) :
    (State.calHold s g).Held pq := by
  unfold State.calHold
  with_reducible repeat' first | assumption | apply State.setFld_canon | apply State.setGroup_canon | dsimp only | split

theorem State.calctlWrite_canon {s : State} (g : Nat) (v : Word) (hc : s.Held pq) :
    (State.calctlWrite s g v).Held pq := by
  unfold State.calctlWrite
  with_reducible repeat' first | assumption | apply State.arbRequest_canon | apply State.calHold_canon | apply State.calMaybeRelease_canon | apply State.cfgFail_canon | apply State.cfgOk_canon | apply State.setFlag_canon | apply State.setFld_canon | apply State.setGroup_canon | apply State.store_canon | (apply canonQ_of_eq; assumption) | dsimp only | split

theorem execCalRun_canon (g : Fin 4) (v : BitVec 32) {s : State} (hc : s.Held pq) :
    canonR pq (execCalRun g v s) := by
  unfold execCalRun
  with_reducible repeat' first | assumption | apply canonR_next | apply State.calctlWrite_canon | split

theorem execCalStop_canon (g : Fin 4) (v : BitVec 32) {s : State} (hc : s.Held pq) :
    canonR pq (execCalStop g v s) := by
  unfold execCalStop
  with_reducible repeat' first | assumption | apply canonR_next | apply State.calctlWrite_canon | split

theorem execCalPause_canon (g : Fin 4) (v : BitVec 32) {s : State} (hc : s.Held pq) :
    canonR pq (execCalPause g v s) := by
  unfold execCalPause
  with_reducible repeat' first | assumption | apply canonR_next | apply State.calctlWrite_canon | split

theorem execCalResume_canon (g : Fin 4) (v : BitVec 32) {s : State} (hc : s.Held pq) :
    canonR pq (execCalResume g v s) := by
  unfold execCalResume
  with_reducible repeat' first | assumption | apply canonR_next | apply State.calctlWrite_canon | split

theorem State.diagWrite_canon {s : State} (g : Nat) (v : Word) (hc : s.Held pq) :
    (State.diagWrite s g v).Held pq := by
  unfold State.diagWrite
  with_reducible repeat' first | assumption | apply canon_ite | apply State.arbRelease_canon | apply State.arbRequest_canon | apply State.cfgFail_canon | apply State.cfgOk_canon | apply State.setFlag_canon | apply State.setFld_canon | apply State.setGroup_canon | apply State.store_canon | (apply canonQ_of_eq; assumption) | dsimp only | split

theorem execTestdacRequest_canon (g : Fin 4) (v : BitVec 32) {s : State} (hc : s.Held pq) :
    canonR pq (execTestdacRequest g v s) := by
  unfold execTestdacRequest
  with_reducible repeat' first | assumption | intro _ | apply canonR_next | apply State.diagWrite_canon | split

theorem execTestdacRelease_canon (g : Fin 4) (v : BitVec 32) {s : State} (hc : s.Held pq) :
    canonR pq (execTestdacRelease g v s) := by
  unfold execTestdacRelease
  with_reducible repeat' first | assumption | intro _ | apply canonR_next | apply State.diagWrite_canon | split

theorem State.sqCtrlWrite_canon {s : State} (n : Nat) (v : Word) (hc : s.Held pq) :
    (State.sqCtrlWrite s n v).Held pq := by
  unfold State.sqCtrlWrite
  with_reducible repeat' first | assumption | intro _ | apply State.unitWrite_canon | apply canon_id | (fail_if_no_progress refine canon_mk ?_ rfl rfl rfl rfl rfl rfl rfl)

theorem execSequencerEnable_canon (n : Fin 16) (v : BitVec 32) {s : State} (hc : s.Held pq) :
    canonR pq (execSequencerEnable n v s) := by
  unfold execSequencerEnable
  with_reducible repeat' first | assumption | intro _ | apply canonR_next | apply State.sqCtrlWrite_canon | apply State.whenOn_canon

theorem State.sqEntWrite_canon {s : State} (n k : Nat) (v : Word) (hc : s.Held pq) :
    (State.sqEntWrite s n k v).Held pq := by
  unfold State.sqEntWrite
  with_reducible repeat' first | assumption | apply canon_ite | apply State.cfgFail_canon | apply State.cfgOk_canon | apply State.store_canon | (fail_if_no_progress refine canon_mk ?_ rfl rfl rfl rfl rfl rfl rfl) | split

theorem execSqEntryWrite_canon (n : Fin 16) (k : Fin 32) (v : BitVec 32) {s : State} (hc : s.Held pq) :
    canonR pq (execSqEntryWrite n k v s) := by
  unfold execSqEntryWrite
  with_reducible repeat' first | assumption | apply canonR_next | apply canon_ite | apply canonR_ite | apply State.sqEntWrite_canon

/-! Comparators. -/

theorem State.setCmp_canon {s : State} (n : Nat) (r : Cmp) (hc : s.Held pq) :
    (State.setCmp s n r).Held pq := by
  unfold State.setCmp
  with_reducible repeat' first | assumption | (fail_if_no_progress refine canon_mk ?_ rfl rfl rfl rfl rfl rfl rfl)

theorem State.latchSet_canon {s : State} (n t : Nat) (hc : s.Held pq) :
    (State.latchSet s n t).Held pq := by
  unfold State.latchSet
  with_reducible repeat' first | assumption | apply canon_ite | apply State.setCmp_canon | apply State.setFlag_canon

theorem State.latchClear_canon {s : State} (n t : Nat) (hc : s.Held pq) :
    (State.latchClear s n t).Held pq := by
  unfold State.latchClear
  with_reducible repeat' first | assumption | apply canon_ite | apply State.setFlag_canon

theorem execComparatorLatchSet_canon (n : Fin 96) (t : Nat) {s : State} (hc : s.Held pq) :
    canonR pq (execComparatorLatchSet n t s) := by
  unfold execComparatorLatchSet
  with_reducible repeat' first | assumption | apply canonR_next | apply canon_ite | apply State.advanceTo_canon | apply State.latchSet_canon

theorem execComparatorRawChange_canon (n : Fin 96) (v t : Nat) {s : State} (hc : s.Held pq) :
    canonR pq (execComparatorRawChange n v t s) := by
  unfold execComparatorRawChange
  with_reducible repeat' first | assumption | apply canonR_next | apply canonR_ite | apply State.advanceTo_canon | apply State.setCmp_canon

theorem execComparatorSetRecord_canon (n : Fin 96) {s : State} (hc : s.Held pq) :
    canonR pq (execComparatorSetRecord n s) := by
  unfold execComparatorSetRecord
  with_reducible repeat' first | assumption | apply canonR_next | apply State.advanceTo_canon | apply State.modInc_canon | apply State.raiseAt_canon | apply State.setCmp_canon | split

theorem State.cmpStatWrite_canon {s : State} (n : Nat) (v : Word) (hc : s.Held pq) :
    (State.cmpStatWrite s n v).Held pq := by
  unfold State.cmpStatWrite
  with_reducible repeat' first | assumption | apply canon_ite | apply State.latchClear_canon

theorem execLatchClear_canon (n : Fin 96) (v : BitVec 32) {s : State} (hc : s.Held pq) :
    canonR pq (execLatchClear n v s) := by
  unfold execLatchClear
  with_reducible repeat' first | assumption | apply canonR_next | apply State.cmpStatWrite_canon | split

theorem execBlankingClose_canon (n : Fin 96) {s : State} (hc : s.Held pq) :
    canonR pq (execBlankingClose n s) := by
  unfold execBlankingClose
  with_reducible repeat' first | assumption | apply canonR_next | apply State.advanceTo_canon | apply State.latchSet_canon | apply State.setCmp_canon | split

theorem State.blankOpen_canon {s : State} (g kind t : Nat) (hc : s.Held pq) :
    (State.blankOpen s g kind t).Held pq := by
  unfold State.blankOpen
  with_reducible repeat' first | assumption | intro _ | apply canon_ite | apply canon_foldl | apply State.setCmp_canon

theorem State.cmpPeriodStart_canon {s : State} (g t : Nat) (hc : s.Held pq) :
    (State.cmpPeriodStart s g t).Held pq := by
  unfold State.cmpPeriodStart
  with_reducible repeat' first | assumption | intro _ | apply canon_ite | apply canon_foldl | apply State.blankOpen_canon | apply State.latchClear_canon | apply State.setCmp_canon | apply State.setFld_canon

theorem State.cmpGenReset_canon {s : State} (g : Nat) (hc : s.Held pq) :
    (State.cmpGenReset s g).Held pq := by
  unfold State.cmpGenReset
  with_reducible repeat' first | assumption | intro _ | apply canon_ite | apply canon_foldl | apply State.setCmp_canon

theorem State.cmpRefWrite_canon {s : State} (n : Nat) (v : Word) (hc : s.Held pq) :
    (State.cmpRefWrite s n v).Held pq := by
  unfold State.cmpRefWrite
  with_reducible repeat' first | assumption | apply canon_ite | apply State.setCmp_canon | apply State.setFld_canon

theorem execRefWrite_canon (n : Fin 96) (v : BitVec 32) {s : State} (hc : s.Held pq) :
    canonR pq (execRefWrite n v s) := by
  unfold execRefWrite
  with_reducible repeat' first | assumption | apply canonR_next | apply State.cmpRefWrite_canon | split

theorem State.selftestStop_canon {s : State} (n : Nat) (hc : s.Held pq) :
    (State.selftestStop s n).Held pq := by
  unfold State.selftestStop
  with_reducible repeat' first | assumption | apply State.arbRelease_canon | apply State.setCmp_canon | apply State.setFlag_canon | apply State.setFld_canon | split

theorem State.cmpSettle_canon {s : State} (n : Nat) (hc : s.Held pq) :
    (State.cmpSettle s n).Held pq := by
  unfold State.cmpSettle
  with_reducible repeat' first | assumption | apply State.setCmp_canon | apply State.setFlag_canon

theorem State.cmpDown_canon {s : State} (n : Nat) (hc : s.Held pq) :
    (State.cmpDown s n).Held pq := by
  unfold State.cmpDown
  with_reducible repeat' first | assumption | apply State.selftestStop_canon | apply State.setCmp_canon | apply State.setFlag_canon

theorem State.cmpCtrlWrite_canon {s : State} (n : Nat) (v : Word) (hc : s.Held pq) :
    (State.cmpCtrlWrite s n v).Held pq := by
  unfold State.cmpCtrlWrite
  with_reducible repeat' first | assumption | intro _ | apply canon_ite | apply State.cfgOk_canon | apply State.cmpDown_canon | apply State.cmpSettle_canon | apply State.store_canon | apply State.unitWrite_canon | apply canon_id

theorem State.cmpRampWrite_canon {s : State} (n : Nat) (v : Word) (hc : s.Held pq) :
    (State.cmpRampWrite s n v).Held pq := by
  unfold State.cmpRampWrite
  with_reducible repeat' first | assumption | apply State.cfgFail_canon | apply State.cfgOk_canon | apply State.setCmp_canon | apply State.setFld_canon | dsimp only | split

theorem State.cmpBlankWrite_canon {s : State} (n : Nat) (v : Word) (hc : s.Held pq) :
    (State.cmpBlankWrite s n v).Held pq := by
  unfold State.cmpBlankWrite
  with_reducible repeat' first | assumption | apply State.cfgFail_canon | apply State.cfgOk_canon | apply State.store_canon | split

theorem execComparatorLiveWrite_canon (n : Fin 96) (r : CmpLive) (v : BitVec 32) {s : State} (hc : s.Held pq) :
    canonR pq (execComparatorLiveWrite n r v s) := by
  unfold execComparatorLiveWrite
  with_reducible repeat' first | assumption | apply canonR_next | apply canonR_ite | apply State.cmpBlankWrite_canon | apply State.cmpCtrlWrite_canon | apply State.cmpRampWrite_canon | split

theorem execComparatorEnable_canon (n : Fin 96) (v : BitVec 32) {s : State} (hc : s.Held pq) :
    canonR pq (execComparatorEnable n v s) := by
  unfold execComparatorEnable
  with_reducible repeat' first | assumption | intro _ | apply canonR_next | apply State.cmpCtrlWrite_canon | apply State.whenOn_canon

theorem execComparatorDisable_canon (n : Fin 96) (v : BitVec 32) {s : State} (hc : s.Held pq) :
    canonR pq (execComparatorDisable n v s) := by
  unfold execComparatorDisable
  with_reducible repeat' first | assumption | apply canonR_next | apply State.cmpCtrlWrite_canon | split

theorem execComparatorSettled_canon (n : Fin 96) {s : State} (hc : s.Held pq) :
    canonR pq (execComparatorSettled n s) := by
  unfold execComparatorSettled
  with_reducible repeat' first | assumption | apply canonR_next | apply State.advanceTo_canon | apply State.latchSet_canon | apply State.setCmp_canon | apply State.setFlag_canon | split

theorem State.cmpTestWrite_canon {s : State} (n : Nat) (v : Word) (hc : s.Held pq) :
    (State.cmpTestWrite s n v).Held pq := by
  unfold State.cmpTestWrite
  with_reducible repeat' first | assumption | apply canon_ite | apply State.arbRequest_canon | apply State.cfgFail_canon | apply State.cfgOk_canon | apply State.cmpSettle_canon | apply State.selftestStop_canon | apply State.setCmp_canon | apply State.setFld_canon | apply State.setReg_canon | (apply canonQ_of_eq; assumption) | split

theorem execSelftestRequest_canon (n : Fin 96) (v : BitVec 32) {s : State} (hc : s.Held pq) :
    canonR pq (execSelftestRequest n v s) := by
  unfold execSelftestRequest
  with_reducible repeat' first | assumption | intro _ | apply canonR_next | apply State.cmpTestWrite_canon | split

theorem execSelftestEnd_canon (n : Fin 96) (v : BitVec 32) {s : State} (hc : s.Held pq) :
    canonR pq (execSelftestEnd n v s) := by
  unfold execSelftestEnd
  with_reducible repeat' first | assumption | intro _ | apply canonR_next | apply State.cmpTestWrite_canon | split

/-! Pwm. -/

theorem State.setPwm_canon {s : State} (n : Nat) (r : Pwm) (hc : s.Held pq) :
    (State.setPwm s n r).Held pq := by
  unfold State.setPwm
  with_reducible repeat' first | assumption | (fail_if_no_progress refine canon_mk ?_ rfl rfl rfl rfl rfl rfl rfl)

theorem State.setFlt_canon {s : State} (flt : BitVec 24) (hc : s.Held pq) :
    (State.setFlt s flt).Held pq := by
  unfold State.setFlt
  with_reducible repeat' first | assumption | (fail_if_no_progress refine canon_mk ?_ rfl rfl rfl rfl rfl rfl rfl)

theorem State.outEdge_canon {s : State} (n : Nat) (b level : Bool) (t : Nat) (hc : s.Held pq) :
    (State.outEdge s n b level t).Held pq := by
  unfold State.outEdge
  with_reducible repeat' first | assumption | apply canon_ite | apply State.blankOpen_canon | apply State.satInc_canon | apply State.setFlag_canon | apply State.setPwm_canon

theorem State.outTarget_canon {s : State} (n : Nat) (b target : Bool) (delay t : Nat) (hc : s.Held pq) :
    (State.outTarget s n b target delay t).Held pq := by
  unfold State.outTarget
  with_reducible repeat' first | assumption | apply State.outEdge_canon | apply State.setPwm_canon | dsimp only | split

theorem State.outputs_canon {s : State} (n t : Nat) (hc : s.Held pq) :
    (State.outputs s n t).Held pq := by
  unfold State.outputs
  with_reducible repeat' first | assumption | intro _ | apply canon_ite | apply State.outTarget_canon | split

theorem State.markFired_canon {s : State} (n : Nat) (i : PwmInst) (hc : s.Held pq) :
    (State.markFired s n i).Held pq := by
  unfold State.markFired
  with_reducible repeat' first | assumption | apply State.setPwm_canon

theorem State.fireEdge_canon {s : State} (n : Nat) (i : PwmInst) (t : Nat) (hc : s.Held pq) :
    (State.fireEdge s n i t).Held pq := by
  unfold State.fireEdge
  with_reducible repeat' first | assumption | apply State.markFired_canon | apply State.outputs_canon | apply State.setPwm_canon | split

theorem State.fireTrg_canon {s : State} (n : Nat) (k : Fin 4) (down : Bool) (t : Nat) (hc : s.Held pq) :
    (State.fireTrg s n k down t).Held pq := by
  unfold State.fireTrg
  with_reducible repeat' first | assumption | apply State.markFired_canon | apply State.raiseAt_canon

theorem execEdgeInstance_canon (n : Fin 96) (i : PwmInst) {s : State} (hc : s.Held pq) :
    canonR pq (execEdgeInstance n i s) := by
  unfold execEdgeInstance
  with_reducible repeat' first | assumption | apply canonR_next | apply State.advanceTo_canon | apply State.fireEdge_canon | split

theorem execTriggerInstance_canon (n : Fin 96) (k : Fin 4) (down : Bool) {s : State} (hc : s.Held pq) :
    canonR pq (execTriggerInstance n k down s) := by
  unfold execTriggerInstance
  with_reducible repeat' first | assumption | apply canonR_next | apply State.advanceTo_canon | apply State.fireTrg_canon | split

theorem execDeadTimeEnd_canon (n : Fin 96) (b : Bool) {s : State} (hc : s.Held pq) :
    canonR pq (execDeadTimeEnd n b s) := by
  unfold execDeadTimeEnd
  with_reducible repeat' first | assumption | apply canonR_next | apply State.advanceTo_canon | apply State.outEdge_canon | apply State.outTarget_canon | apply State.setPwm_canon | dsimp only | split

theorem State.memberForce_canon {s : State} (n m : Nat) (hc : s.Held pq) :
    (State.memberForce s n m).Held pq := by
  unfold State.memberForce
  with_reducible repeat' first | assumption | apply State.setPwm_canon | apply State.setReg_canon | split

theorem State.judgeInst_canon {s : State} (n L : Nat) (i : PwmInst) (hc : s.Held pq) :
    (State.judgeInst s n L i).Held pq := by
  unfold State.judgeInst
  with_reducible repeat' first | assumption | apply State.fireEdge_canon | apply State.fireTrg_canon | apply State.markFired_canon | apply State.setFlag_canon | dsimp only | split

theorem State.memberNow_canon {s : State} (n L m : Nat) (hc : s.Held pq) :
    (State.memberNow s n L m).Held pq := by
  unfold State.memberNow
  with_reducible repeat' first | assumption | intro _ | apply canon_foldl | apply State.judgeInst_canon | apply State.memberForce_canon | apply State.setPwm_canon | dsimp only | split

theorem State.cbcRelease_canon {s : State} (n : Nat) (hc : s.Held pq) :
    (State.cbcRelease s n).Held pq := by
  unfold State.cbcRelease
  with_reducible repeat' first | assumption | intro _ | apply canon_ite | apply canon_foldl | apply State.satInc_canon | apply State.setFlag_canon | apply State.setPwm_canon

theorem State.tripAction_canon {s : State} (n record : Nat) (hc : s.Held pq) :
    (State.tripAction s n record).Held pq := by
  unfold State.tripAction
  with_reducible repeat' first | assumption | apply State.satInc_canon | apply State.setFlag_canon | apply State.setPwm_canon | dsimp only | split

theorem State.tripSet_canon {s : State} (n t : Nat) (k : Option Nat) (hc : s.Held pq) :
    (State.tripSet s n t k).Held pq := by
  unfold State.tripSet
  with_reducible repeat' first | assumption | apply State.setFlag_canon | apply State.setPwm_canon | apply State.tripAction_canon | split

theorem State.holdCount_canon {s : State} (n t : Nat) (hc : s.Held pq) :
    (State.holdCount s n t).Held pq := by
  unfold State.holdCount
  with_reducible repeat' first | assumption | apply State.setFlag_canon | apply State.setFld_canon | apply State.tripSet_canon | dsimp only | split

theorem State.holdReset_canon {s : State} (c : Nat) (hc : s.Held pq) :
    (State.holdReset s c).Held pq := by
  unfold State.holdReset
  with_reducible repeat' first | assumption | intro _ | apply canon_ite | apply canon_foldl | apply State.setFld_canon

theorem State.padsFree_canon {s : State} (n : Nat) (hc : s.Held pq) :
    (State.padsFree s n).Held pq := by
  unfold State.padsFree
  with_reducible repeat' first | assumption | apply State.setFlag_canon | apply State.setFld_canon | apply State.setPwm_canon

theorem State.tripResume_canon {s : State} (n r : Nat) (hc : s.Held pq) :
    (State.tripResume s n r).Held pq := by
  unfold State.tripResume
  with_reducible repeat' first | assumption | apply State.padsFree_canon | split

theorem State.startLoad_canon {s : State} (n : Nat) (hc : s.Held pq) :
    (State.startLoad s n).Held pq := by
  unfold State.startLoad
  with_reducible repeat' first | assumption | intro _ | apply canon_ite | apply canon_foldl | apply State.memberForce_canon | apply State.satInc_canon | apply State.setFlag_canon | apply State.setPwm_canon

theorem State.noteSwitch_canon {s : State} (n t : Nat) (hc : s.Held pq) :
    (State.noteSwitch s n t).Held pq := by
  unfold State.noteSwitch
  with_reducible repeat' first | assumption | intro _ | apply canon_ite | apply canon_foldl | (fail_if_no_progress refine canon_mk ?_ rfl rfl rfl rfl rfl rfl rfl)

theorem State.periodStart_canon {s : State} (n t pos r : Nat) (hc : s.Held pq) :
    (State.periodStart s n t pos r).Held pq := by
  unfold State.periodStart
  with_reducible repeat' first | assumption | intro _ | apply canon_ite | apply canon_foldl | apply State.cbcRelease_canon | apply State.cmpPeriodStart_canon | apply State.holdCount_canon | apply State.noteSwitch_canon | apply State.outputs_canon | apply State.raiseAt_canon | apply State.setFlag_canon | apply State.setPwm_canon | apply State.startLoad_canon | apply State.tripResume_canon

theorem execPeriodStart_canon (n : Fin 96) (flt : BitVec 24) {s : State} (hc : s.Held pq) :
    canonR pq (execPeriodStart n flt s) := by
  unfold execPeriodStart
  with_reducible repeat' first | assumption | apply canonR_next | apply State.advanceTo_canon | apply State.periodStart_canon | apply State.setFlt_canon | apply State.setPwm_canon | dsimp only | split

theorem State.centre_canon {s : State} (n t : Nat) (hc : s.Held pq) :
    (State.centre s n t).Held pq := by
  unfold State.centre
  with_reducible repeat' first | assumption | intro _ | apply canon_ite | apply canon_foldl | apply State.cbcRelease_canon | apply State.markFired_canon | apply State.memberForce_canon | apply State.outputs_canon | apply State.raiseAt_canon

theorem execPwmCentre_canon (n : Fin 96) (flt : BitVec 24) {s : State} (hc : s.Held pq) :
    canonR pq (execPwmCentre n flt s) := by
  unfold execPwmCentre
  with_reducible repeat' first | assumption | apply canonR_next | apply State.advanceTo_canon | apply State.centre_canon | apply State.setFlt_canon | dsimp only | split

theorem State.lateReload_canon {s : State} (n : Nat) (hc : s.Held pq) :
    (State.lateReload s n).1.Held pq := by
  unfold State.lateReload
  with_reducible repeat' first | assumption | apply canonO_some | apply canonO_none | apply State.centre_canon | apply State.periodStart_canon | apply State.setPwm_canon | (apply canonO_of_eq; assumption) | dsimp only | split

theorem State.lateNote_canon {s : State} (n : Nat) (late : Bool) (hc : s.Held pq) :
    (State.lateNote s n late).Held pq := by
  unfold State.lateNote
  with_reducible repeat' first | assumption | apply State.raiseNow_canon | apply State.satInc_canon | apply State.setFlag_canon | split

theorem State.pwmMemberWrite_canon {s : State} (n m : Nat) (v : Word) (hc : s.Held pq) :
    (State.pwmMemberWrite s n m v).Held pq := by
  unfold State.pwmMemberWrite
  with_reducible repeat' first | assumption | apply canon_ite | apply State.lateNote_canon | apply State.lateReload_canon | apply State.memberNow_canon | apply State.setFlag_canon | apply State.setPwm_canon | apply State.setReg_canon

theorem State.pwmPhaseWrite_canon {s : State} (n : Nat) (v : Word) (hc : s.Held pq) :
    (State.pwmPhaseWrite s n v).Held pq := by
  unfold State.pwmPhaseWrite
  with_reducible repeat' first | assumption | apply State.setReg_canon

theorem State.pwmCommitWrite_canon {s : State} (n : Nat) (hc : s.Held pq) :
    (State.pwmCommitWrite s n).Held pq := by
  unfold State.pwmCommitWrite
  with_reducible repeat' first | assumption | intro _ | apply canon_ite | apply canon_foldl | apply State.lateNote_canon | apply State.lateReload_canon | apply State.memberNow_canon | apply State.setFlag_canon | apply State.setPwm_canon

theorem State.pwmDtWrite_canon {s : State} (n : Nat) (v : Word) (hc : s.Held pq) :
    (State.pwmDtWrite s n v).Held pq := by
  unfold State.pwmDtWrite
  with_reducible repeat' first | assumption | apply State.lateNote_canon | apply State.lateReload_canon | apply State.setReg_canon

theorem State.windowOwned_canon {s : State} (i chk fld : Nat) (f : State → State) (hc : s.Held pq) (hcf : ∀ t : State, t.Held pq → (f t).Held pq) :
    (State.windowOwned s i chk fld f).Held pq := by
  unfold State.windowOwned
  with_reducible repeat' first | assumption | apply hcf | apply State.cfgFail_canon | apply State.setFlag_canon | split

theorem execPwmCommit_canon (n : Fin 96) (_v : BitVec 32) {s : State} (hc : s.Held pq) :
    canonR pq (execPwmCommit n _v s) := by
  unfold execPwmCommit
  with_reducible repeat' first | assumption | intro _ | apply canonR_next | apply canon_ite | apply State.pwmCommitWrite_canon | apply State.windowOwned_canon

theorem State.pwmSync_canon {s : State} (n e : Nat) (hc : s.Held pq) :
    (State.pwmSync s n e).Held pq := by
  unfold State.pwmSync
  with_reducible repeat' first | assumption | apply State.outputs_canon | apply State.periodStart_canon | apply State.setPwm_canon | dsimp only | split

theorem State.pwmTimeout_canon {s : State} (n : Nat) (hc : s.Held pq) :
    (State.pwmTimeout s n).Held pq := by
  unfold State.pwmTimeout
  with_reducible repeat' first | assumption | apply State.satInc_canon | apply State.setFlag_canon

theorem execPulseEndSeen_canon (n : Fin 96) (t : Nat) {s : State} (hc : s.Held pq) :
    canonR pq (execPulseEndSeen n t s) := by
  unfold execPulseEndSeen
  with_reducible repeat' first | assumption | apply canonR_next | apply canonR_ite | apply State.advanceTo_canon | apply State.setPwm_canon

theorem execCotTimeout_canon (n : Fin 96) {s : State} (hc : s.Held pq) :
    canonR pq (execCotTimeout n s) := by
  unfold execCotTimeout
  with_reducible repeat' first | assumption | apply canonR_next | apply State.advanceTo_canon | apply State.pwmTimeout_canon | apply State.setPwm_canon | dsimp only | split

theorem execCoffPulseEnd_canon (n : Fin 96) (t : Nat) {s : State} (hc : s.Held pq) :
    canonR pq (execCoffPulseEnd n t s) := by
  unfold execCoffPulseEnd
  with_reducible repeat' first | assumption | apply canonR_next | apply State.advanceTo_canon | apply State.fireEdge_canon | apply State.setPwm_canon | dsimp only | split

theorem execCoffTimeout_canon (n : Fin 96) {s : State} (hc : s.Held pq) :
    canonR pq (execCoffTimeout n s) := by
  unfold execCoffTimeout
  with_reducible repeat' first | assumption | apply canonR_next | apply canonR_ite | apply State.advanceTo_canon | apply State.fireEdge_canon | apply State.pwmTimeout_canon | apply State.setPwm_canon

theorem execCbcForce_canon (n : Fin 96) (k : Fin 8) (t : Nat) (flt : BitVec 24) {s : State} (hc : s.Held pq) :
    canonR pq (execCbcForce n k t flt s) := by
  unfold execCbcForce
  with_reducible repeat' first | assumption | apply canonR_next | apply canon_ite | apply canonR_ite | apply State.advanceTo_canon | apply State.outputs_canon | apply State.satInc_canon | apply State.setFlag_canon | apply State.setFlt_canon | apply State.setPwm_canon

theorem execLatchedTrip_canon (n : Fin 96) (k : Fin 8) (t : Nat) (flt : BitVec 24) {s : State} (hc : s.Held pq) :
    canonR pq (execLatchedTrip n k t flt s) := by
  unfold execLatchedTrip
  with_reducible repeat' first | assumption | apply canonR_next | apply State.advanceTo_canon | apply State.setFlt_canon | apply State.tripSet_canon | split

theorem execTripRecord_canon (n : Fin 96) {s : State} (hc : s.Held pq) :
    canonR pq (execTripRecord n s) := by
  unfold execTripRecord
  with_reducible repeat' first | assumption | apply canonR_next | apply State.advanceTo_canon | apply State.raiseAt_canon | apply State.satInc_canon | apply State.setFlag_canon | apply State.setPwm_canon | split

theorem execPadSenseMismatch_canon (n : Fin 96) (a b : Bool) {s : State} (hc : s.Held pq) :
    canonR pq (execPadSenseMismatch n a b s) := by
  unfold execPadSenseMismatch
  with_reducible repeat' first | assumption | apply canonR_next | apply State.advanceTo_canon | apply State.satInc_canon | apply State.setFlag_canon | apply State.setFld_canon | apply State.setPwm_canon | dsimp only | split

theorem State.tripStatWrite_canon {s : State} (n : Nat) (v : Word) (hc : s.Held pq) :
    (State.tripStatWrite s n v).Held pq := by
  unfold State.tripStatWrite
  with_reducible repeat' first | assumption | apply State.padsFree_canon | apply State.setFlag_canon | apply State.setFld_canon | apply State.setPwm_canon | apply State.setReg_canon | dsimp only | split

theorem execTripClear_canon (n : Fin 96) (v : BitVec 32) (flt : BitVec 24) {s : State} (hc : s.Held pq) :
    canonR pq (execTripClear n v flt s) := by
  unfold execTripClear
  with_reducible repeat' first | assumption | apply canonR_next | apply canon_ite | apply State.setFlt_canon | apply State.tripStatWrite_canon

theorem State.haltSafe_canon {s : State} (n : Nat) (hc : s.Held pq) :
    (State.haltSafe s n).Held pq := by
  unfold State.haltSafe
  with_reducible repeat' first | assumption | apply State.setFlag_canon | apply State.setPwm_canon | apply State.tripAction_canon | split

theorem State.pwmHalt_canon {s : State} (n : Nat) (hc : s.Held pq) :
    (State.pwmHalt s n).Held pq := by
  unfold State.pwmHalt
  with_reducible repeat' first | assumption | apply canon_ite | apply State.haltSafe_canon | apply State.setPwm_canon

theorem State.pwmResume_canon {s : State} (n : Nat) (hc : s.Held pq) :
    (State.pwmResume s n).Held pq := by
  unfold State.pwmResume
  with_reducible repeat' first | assumption | apply State.setPwm_canon | split

theorem State.dropPerturb_canon {s : State} (hc : s.Held pq) :
    (State.dropPerturb s).Held pq := by
  unfold State.dropPerturb
  with_reducible repeat' first | assumption | apply canon_foldl | apply State.pwmResume_canon | apply State.setFlag_canon | apply State.setReg_canon | (fail_if_no_progress refine canon_mk ?_ rfl rfl rfl rfl rfl rfl rfl) | split

theorem State.pwmUp_canon {s : State} (n : Nat) (hc : s.Held pq) :
    (State.pwmUp s n).Held pq := by
  unfold State.pwmUp
  with_reducible repeat' first | assumption | intro _ | apply canon_foldl | apply State.cmpGenReset_canon | apply State.dropPerturb_canon | apply State.memberForce_canon | apply State.setFld_canon | apply State.setPwm_canon

theorem State.pwmDown_canon {s : State} (n : Nat) (hc : s.Held pq) :
    (State.pwmDown s n).Held pq := by
  unfold State.pwmDown
  with_reducible repeat' first | assumption | intro _ | apply canon_ite | apply canon_foldl | apply State.cmpGenReset_canon | apply State.padsFree_canon | apply State.setFlag_canon | apply State.setFld_canon | apply State.setPwm_canon

theorem State.pwmCtrlWrite_canon {s : State} (n : Nat) (v : Word) (hc : s.Held pq) :
    (State.pwmCtrlWrite s n v).Held pq := by
  unfold State.pwmCtrlWrite
  with_reducible repeat' first | assumption | intro _ | apply State.pwmDown_canon | apply State.pwmUp_canon | apply State.unitWrite_canon | apply canon_id

theorem execPwmEnable_canon (n : Fin 96) (v : BitVec 32) {s : State} (hc : s.Held pq) :
    canonR pq (execPwmEnable n v s) := by
  unfold execPwmEnable
  with_reducible repeat' first | assumption | intro _ | apply canonR_next | apply State.pwmCtrlWrite_canon | apply State.whenOn_canon

theorem execPwmDisable_canon (n : Fin 96) (v : BitVec 32) {s : State} (hc : s.Held pq) :
    canonR pq (execPwmDisable n v s) := by
  unfold execPwmDisable
  with_reducible repeat' first | assumption | apply canonR_next | apply State.pwmCtrlWrite_canon | split

/-! Position. -/

theorem State.setPos_canon {s : State} (n : Nat) (r : Pos) (hc : s.Held pq) :
    (State.setPos s n r).Held pq := by
  unfold State.setPos
  with_reducible repeat' first | assumption | (fail_if_no_progress refine canon_mk ?_ rfl rfl rfl rfl rfl rfl rfl)

theorem State.piEvent_canon {s : State} (n k : Nat) (hc : s.Held pq) :
    (State.piEvent s n k).Held pq := by
  unfold State.piEvent
  with_reducible repeat' first | assumption | apply State.raiseNow_canon

theorem State.emuLagShow_canon {s : State} (n : Nat) (hc : s.Held pq) :
    (State.emuLagShow s n).Held pq := by
  unfold State.emuLagShow
  with_reducible repeat' first | assumption | apply canon_ite | apply State.setFlag_canon | apply State.setFld_canon

theorem State.emuFeed_canon {s : State} (n : Nat) (d : Int) (hc : s.Held pq) :
    (State.emuFeed s n d).Held pq := by
  unfold State.emuFeed
  with_reducible repeat' first | assumption | apply canon_ite | apply State.emuLagShow_canon | apply State.setPos_canon

theorem State.emuDrive_canon {s : State} (n : Nat) (hc : s.Held pq) :
    (State.emuDrive s n).Held pq := by
  unfold State.emuDrive
  with_reducible repeat' first | assumption | apply State.setPos_canon

theorem execEmulatorEdge_canon (n : Fin 16) {s : State} (hc : s.Held pq) :
    canonR pq (execEmulatorEdge n s) := by
  unfold execEmulatorEdge
  with_reducible repeat' first | assumption | apply canonR_next | apply canon_ite | apply canonR_ite | apply State.advanceTo_canon | apply State.emuDrive_canon | apply State.emuLagShow_canon | apply State.piEvent_canon | apply State.setPos_canon | apply State.setReg_canon

theorem State.emuCtrlWrite_canon {s : State} (n : Nat) (v : Word) (hc : s.Held pq) :
    (State.emuCtrlWrite s n v).Held pq := by
  unfold State.emuCtrlWrite
  with_reducible repeat' first | assumption | intro _ | apply State.emuDrive_canon | apply State.setFld_canon | apply State.setPos_canon | apply State.unitWrite_canon | apply canon_id

theorem execEmulatorEnable_canon (n : Fin 16) (v : BitVec 32) {s : State} (hc : s.Held pq) :
    canonR pq (execEmulatorEnable n v s) := by
  unfold execEmulatorEnable
  with_reducible repeat' first | assumption | intro _ | apply canonR_next | apply State.emuCtrlWrite_canon | apply State.whenOn_canon

theorem State.posMove_canon {s : State} (n : Nat) (d : Int) (hc : s.Held pq) :
    (State.posMove s n d).Held pq := by
  unfold State.posMove
  with_reducible repeat' first | assumption | apply State.setFld_canon | apply State.setReg_canon

theorem State.speedEdge_canon {s : State} (n : Nat) (down : Bool) (stamp : Nat) (hc : s.Held pq) :
    (State.speedEdge s n down stamp).Held pq := by
  unfold State.speedEdge
  with_reducible repeat' first | assumption | apply State.piEvent_canon | apply State.setFlag_canon | apply State.setPos_canon | apply State.setReg_canon | apply State.tick_canon | dsimp only | split

theorem State.piCount_canon {s : State} (n : Nat) (up : Bool) (stamp : Nat) (hc : s.Held pq) :
    (State.piCount s n up stamp).Held pq := by
  unfold State.piCount
  with_reducible repeat' first | assumption | intro _ | apply canon_ite | apply canon_foldl | apply State.emuFeed_canon | apply State.piEvent_canon | apply State.posMove_canon | apply State.setReg_canon | apply State.speedEdge_canon

theorem State.phaseErr_canon {s : State} (n : Nat) (hc : s.Held pq) :
    (State.phaseErr s n).Held pq := by
  unfold State.phaseErr
  with_reducible repeat' first | assumption | apply State.piEvent_canon | apply State.satInc_canon | apply State.setFlag_canon

theorem State.hallErr_canon {s : State} (n b : Nat) (hc : s.Held pq) :
    (State.hallErr s n b).Held pq := by
  unfold State.hallErr
  with_reducible repeat' first | assumption | apply State.piEvent_canon | apply State.satInc_canon | apply State.setFlag_canon

theorem State.quadStep_canon {s : State} (n : Nat) (a b a' b' : Bool) (stamp : Nat) (hc : s.Held pq) :
    (State.quadStep s n a b a' b' stamp).Held pq := by
  unfold State.quadStep
  with_reducible repeat' first | assumption | apply State.phaseErr_canon | apply State.piCount_canon | split

theorem State.hallStep_canon {s : State} (n h stamp : Nat) (hc : s.Held pq) :
    (State.hallStep s n h stamp).Held pq := by
  unfold State.hallStep
  with_reducible repeat' first | assumption | apply State.hallErr_canon | apply State.piCount_canon | apply State.setPos_canon | dsimp only | split

theorem State.piIndex_canon {s : State} (n : Nat) (hc : s.Held pq) :
    (State.piIndex s n).Held pq := by
  unfold State.piIndex
  with_reducible repeat' first | assumption | apply canon_ite | apply State.piEvent_canon | apply State.posMove_canon | apply State.setFlag_canon | apply State.setReg_canon

theorem State.indexStep_canon {s : State} (n : Nat) (hc : s.Held pq) :
    (State.indexStep s n).Held pq := by
  unfold State.indexStep
  with_reducible repeat' first | assumption | apply State.piIndex_canon | apply State.setPos_canon | dsimp only | split

theorem execLevelAccept_canon (n : Fin 16) (a b z : Option Bool) (e : Nat) {s : State} (hc : s.Held pq) :
    canonR pq (execLevelAccept n a b z e s) := by
  unfold execLevelAccept
  with_reducible repeat' first | assumption | apply canonR_next | apply State.advanceTo_canon | apply State.hallStep_canon | apply State.indexStep_canon | apply State.piCount_canon | apply State.quadStep_canon | apply State.setPos_canon | dsimp only | split

theorem execWireFault_canon (n : Fin 16) (sig : Fin 3) (e : Nat) {s : State} (hc : s.Held pq) :
    canonR pq (execWireFault n sig e s) := by
  unfold execWireFault
  with_reducible repeat' first | assumption | apply canonR_next | apply canonR_ite | apply State.advanceTo_canon | apply State.piEvent_canon | apply State.setFlag_canon | apply State.setPos_canon

theorem execStandstill_canon (n : Fin 16) {s : State} (hc : s.Held pq) :
    canonR pq (execStandstill n s) := by
  unfold execStandstill
  with_reducible repeat' first | assumption | apply canonR_next | apply canonR_ite | apply State.advanceTo_canon | apply State.piEvent_canon | apply State.setFlag_canon | apply State.setPos_canon | apply State.setReg_canon

theorem State.posWrite_canon {s : State} (n : Nat) (rev : Bool) (v : Word) (hc : s.Held pq) :
    (State.posWrite s n rev v).Held pq := by
  unfold State.posWrite
  with_reducible repeat' first | assumption | apply canon_ite | apply State.cfgFail_canon | apply State.cfgOk_canon | apply State.setReg_canon | apply State.store_canon

theorem execPosWrite_canon (n : Fin 16) (rev : Bool) (v : BitVec 32) {s : State} (hc : s.Held pq) :
    canonR pq (execPosWrite n rev v s) := by
  unfold execPosWrite
  with_reducible repeat' first | assumption | apply canonR_next | apply State.posWrite_canon | split

theorem State.indexvalWrite_canon {s : State} (n : Nat) (v : Word) (hc : s.Held pq) :
    (State.indexvalWrite s n v).Held pq := by
  unfold State.indexvalWrite
  with_reducible repeat' first | assumption | apply State.cfgFail_canon | apply State.cfgOk_canon | apply State.setReg_canon | dsimp only | split

theorem State.piCtrlWrite_canon {s : State} (n : Nat) (v : Word) (hc : s.Held pq) :
    (State.piCtrlWrite s n v).Held pq := by
  unfold State.piCtrlWrite
  with_reducible repeat' first | assumption | intro _ | apply State.setFlag_canon | apply State.setPos_canon | apply State.setReg_canon | apply State.unitWrite_canon | apply canon_id

theorem execInterfaceEnable_canon (n : Fin 16) (v : BitVec 32) {s : State} (hc : s.Held pq) :
    canonR pq (execInterfaceEnable n v s) := by
  unfold execInterfaceEnable
  with_reducible repeat' first | assumption | intro _ | apply canonR_next | apply State.piCtrlWrite_canon | apply State.whenOn_canon

theorem State.ssiStart_canon {s : State} (n : Nat) (high : Bool) (hc : s.Held pq) :
    (State.ssiStart s n high).Held pq := by
  unfold State.ssiStart
  with_reducible repeat' first | assumption | apply State.satInc_canon | apply State.setFlag_canon | apply State.setPos_canon | dsimp only | split

theorem execSsiFrameRecord_canon (n : Fin 16) (data : BitVec 48) (crc : BitVec 8) {s : State} (hc : s.Held pq) :
    canonR pq (execSsiFrameRecord n data crc s) := by
  unfold execSsiFrameRecord
  with_reducible repeat' first | assumption | apply canonR_next | apply State.advanceTo_canon | apply State.modInc_canon | apply State.piEvent_canon | apply State.satInc_canon | apply State.setFlag_canon | apply State.setFld_canon | apply State.setPos_canon | apply State.setReg_canon | dsimp only | split

theorem execSsiRelease_canon (n : Fin 16) (e : Nat) {s : State} (hc : s.Held pq) :
    canonR pq (execSsiRelease n e s) := by
  unfold execSsiRelease
  with_reducible repeat' first | assumption | apply canonR_next | apply State.advanceTo_canon | apply State.setFlag_canon | dsimp only | split

theorem execSsiTimeout_canon (n : Fin 16) {s : State} (hc : s.Held pq) :
    canonR pq (execSsiTimeout n s) := by
  unfold execSsiTimeout
  with_reducible repeat' first | assumption | apply canonR_next | apply State.advanceTo_canon | apply State.setFlag_canon | apply State.setPos_canon | dsimp only | split

theorem State.filterCount_canon {s : State} (f : Filter) (v : Word) (partner : Option Word) (hc : s.Held pq) :
    (State.filterCount s f v partner).Held pq := by
  unfold State.filterCount
  with_reducible repeat' first | assumption | apply State.satInc_canon | apply State.setFlag_canon | split

theorem State.emuposApply_canon {s : State} (n : Nat) (v : Word) (hc : s.Held pq) :
    (State.emuposApply s n v).Held pq := by
  unfold State.emuposApply
  with_reducible repeat' first | assumption | apply State.cfgOk_canon | apply State.emuFeed_canon | apply State.setReg_canon | dsimp only | split

theorem execEmuposWrite_canon (n : Fin 16) (cell : Option (Fin 52)) (v : BitVec 32) {s : State} (hc : s.Held pq) :
    canonR pq (execEmuposWrite n cell v s) := by
  unfold execEmuposWrite
  with_reducible repeat' first | assumption | intro _ | apply canonR_next | apply State.emuposApply_canon | apply State.filterCount_canon | apply State.windowOwned_canon | split

/-! Sorting. -/

theorem State.routeClear_canon {s : State} (hc : s.Held pq) : (s.routeClear).Held pq :=
  ⟨mapWf_filter regReset _ s.regs hc.regs, hc.bytes, hc.trace, hc.rings, hc.hq, hc.aq, hc.queue⟩

theorem State.soCtrlWrite_canon {s : State} (v : Word) (hc : s.Held pq) :
    (State.soCtrlWrite s v).Held pq := by
  unfold State.soCtrlWrite
  with_reducible repeat' first | assumption | intro _ | apply State.routeClear_canon | apply State.unitWrite_canon | apply canon_id | (fail_if_no_progress refine canon_mk ?_ rfl rfl rfl rfl rfl rfl rfl)

theorem execSoEnable_canon (v : BitVec 32) {s : State} (hc : s.Held pq) :
    canonR pq (execSoEnable v s) := by
  unfold execSoEnable
  with_reducible repeat' first | assumption | intro _ | apply canonR_next | apply State.soCtrlWrite_canon | apply State.whenOn_canon

theorem execEvoutPulseEnd_canon (k : Fin 16) {s : State} (hc : s.Held pq) :
    canonR pq (execEvoutPulseEnd k s) := by
  unfold execEvoutPulseEnd
  with_reducible repeat' first | assumption | apply canonR_next | apply State.advanceTo_canon | (fail_if_no_progress refine canon_mk ?_ rfl rfl rfl rfl rfl rfl rfl) | split

theorem execEvinRaise_canon (k : Fin 32) (e : Nat) {s : State} (hc : s.Held pq) :
    canonR pq (execEvinRaise k e s) := by
  unfold execEvinRaise
  with_reducible repeat' first | assumption | apply canonR_next | apply canonR_ite | apply State.advanceTo_canon | apply State.raiseNow_canon

theorem execTimerRaise_canon (k : Fin 16) {s : State} (hc : s.Held pq) :
    canonR pq (execTimerRaise k s) := by
  unfold execTimerRaise
  with_reducible repeat' first | assumption | apply canonR_next | apply canonR_ite | apply State.advanceTo_canon | apply State.raiseNow_canon | (fail_if_no_progress refine canon_mk ?_ rfl rfl rfl rfl rfl rfl rfl)

theorem execTimerOutputPulseEnd_canon (k : Fin 16) {s : State} (hc : s.Held pq) :
    canonR pq (execTimerOutputPulseEnd k s) := by
  unfold execTimerOutputPulseEnd
  with_reducible repeat' first | assumption | apply canonR_next | apply State.advanceTo_canon | (fail_if_no_progress refine canon_mk ?_ rfl rfl rfl rfl rfl rfl rfl) | split

theorem State.timerWrite_canon {s : State} (k : Nat) (v : Word) (hc : s.Held pq) :
    (State.timerWrite s k v).Held pq := by
  unfold State.timerWrite
  with_reducible repeat' first | assumption | intro _ | apply State.unitWrite_canon | apply canon_id | (fail_if_no_progress refine canon_mk ?_ rfl rfl rfl rfl rfl rfl rfl)

theorem execSoTimerEnable_canon (k : Fin 16) (v : BitVec 32) {s : State} (hc : s.Held pq) :
    canonR pq (execSoTimerEnable k v s) := by
  unfold execSoTimerEnable
  with_reducible repeat' first | assumption | intro _ | apply canonR_next | apply State.timerWrite_canon | apply State.whenOn_canon

theorem State.soRaiseWrite_canon {s : State} (v : Word) (hc : s.Held pq) :
    (State.soRaiseWrite s v).Held pq := by
  unfold State.soRaiseWrite
  with_reducible repeat' first | assumption | apply State.raiseAt_canon

theorem execSoRaise_canon (v : BitVec 32) {s : State} (hc : s.Held pq) :
    canonR pq (execSoRaise v s) := by
  unfold execSoRaise
  with_reducible repeat' first | assumption | apply canonR_next | apply State.soRaiseWrite_canon | split

theorem State.routeWrite_canon {s : State} (src w : Nat) (v : Word) (hc : s.Held pq) :
    (State.routeWrite s src w v).Held pq := by
  unfold State.routeWrite
  with_reducible repeat' first | assumption | apply State.cfgFail_canon | apply State.cfgOk_canon | apply State.setFld_canon | apply State.store_canon | (fail_if_no_progress refine canon_mk ?_ rfl rfl rfl rfl rfl rfl rfl) | dsimp only | split

theorem execRoutingEntryWrite_canon (src : Fin 2048) (w : Fin 3) (v : BitVec 32) {s : State} (hc : s.Held pq) :
    canonR pq (execRoutingEntryWrite src w v s) := by
  unfold execRoutingEntryWrite
  with_reducible repeat' first | assumption | apply canonR_next | apply State.routeWrite_canon | split

theorem State.holdRelease_canon {s : State} (i : Nat) (hc : s.Held pq) :
    (State.holdRelease s i).Held pq := by
  unfold State.holdRelease
  with_reducible repeat' first | assumption | apply canon_ite | apply State.setFld_canon

theorem State.ownSwitch_canon {s : State} (i : Nat) (hc : s.Held pq) :
    (State.ownSwitch s i).Held pq := by
  unfold State.ownSwitch
  with_reducible repeat' first | assumption | apply canon_ite | apply State.holdRelease_canon | apply State.setFlag_canon | apply State.setPwm_canon | apply State.setReg_canon | (fail_if_no_progress refine canon_mk ?_ rfl rfl rfl rfl rfl rfl rfl)

theorem State.switchDue_canon {s : State} (e : Nat) (hc : s.Held pq) :
    (State.switchDue s e).Held pq := by
  unfold State.switchDue
  with_reducible repeat' first | assumption | intro _ | apply canon_ite | apply canon_foldl | apply State.ownSwitch_canon

theorem State.settleSwitch_canon {s : State} (hc : s.Held pq) :
    (State.settleSwitch s).Held pq := by
  unfold State.settleSwitch
  with_reducible repeat' first | assumption | apply State.switchDue_canon | split

theorem execOwnershipSwitch_canon {s : State} (hc : s.Held pq) :
    canonR pq (execOwnershipSwitch s) := by
  unfold execOwnershipSwitch
  with_reducible repeat' first | assumption | apply canonR_next | apply State.advanceTo_canon | apply State.switchDue_canon | split

theorem State.ownDisarm_canon {s : State} (i : Nat) (w : Word) (hc : s.Held pq) :
    (State.ownDisarm s i w).Held pq := by
  unfold State.ownDisarm
  with_reducible repeat' first | assumption | apply State.setFlag_canon | (fail_if_no_progress refine canon_mk ?_ rfl rfl rfl rfl rfl rfl rfl) | split

theorem State.ownTake_canon {s : State} (i : Nat) (w : Word) (fails : List CfgFail) (worst : Option CfgFail) (hc : s.Held pq) :
    (State.ownTake s i w fails worst).Held pq := by
  unfold State.ownTake
  with_reducible repeat' first | assumption | apply State.cfgFail_canon | apply State.cfgOk_canon | apply State.ownDisarm_canon | apply State.setReg_canon | split

theorem State.ownWrite_canon {s : State} (i : Nat) (v : Word) (hc : s.Held pq) :
    (State.ownWrite s i v).Held pq := by
  unfold State.ownWrite
  with_reducible repeat' first | assumption | apply State.ownTake_canon | apply State.settleSwitch_canon

theorem execOwnershipEntryWrite_canon (i : Fin 112) (v : BitVec 32) {s : State} (hc : s.Held pq) :
    canonR pq (execOwnershipEntryWrite i v s) := by
  unfold execOwnershipEntryWrite
  with_reducible repeat' first | assumption | apply canonR_next | apply State.ownWrite_canon | split

theorem State.miggoWrite_canon {s : State} (hc : s.Held pq) :
    (State.miggoWrite s).Held pq := by
  unfold State.miggoWrite
  with_reducible repeat' first | assumption | intro _ | apply canon_ite | apply canon_foldl | apply State.ownSwitch_canon | apply State.setFlag_canon | apply State.settleSwitch_canon | (fail_if_no_progress refine canon_mk ?_ rfl rfl rfl rfl rfl rfl rfl)

theorem execSoMiggo_canon (_v : BitVec 32) {s : State} (hc : s.Held pq) :
    canonR pq (execSoMiggo _v s) := by
  unfold execSoMiggo
  with_reducible repeat' first | assumption | apply canonR_next | apply State.miggoWrite_canon | split

end Sys2Proof.Machine
end

