-- ==== Sys2Proof/Laws/CanonCells.lean ====
section
/-! SUPPORT. The canonical form of the state is kept by the memories, the ledger, the map store, the loop cells, the fabric, the test port and the flash: one lemma an operation. -/

namespace Sys2Proof.Machine

variable {pq : List Instr}

/-! Memory. -/

theorem State.setBytes_canon {s : State} (k : Nat) (n v : Nat) (hc : s.Held pq) : (s.setBytes k n v).Held pq := by
  induction n generalizing s k v with
  | zero => exact hc
  | succ n ih => exact ih _ _ (State.setByte_canon _ _ hc)

theorem State.setWord_canon {s : State} (a : Nat) (v : Word) (hc : s.Held pq) :
    (State.setWord s a v).Held pq := by
  unfold State.setWord
  with_reducible repeat' first | assumption | apply State.setBytes_canon | (fail_if_no_progress refine canon_mk ?_ rfl rfl rfl rfl rfl rfl rfl)

theorem State.wipe_canon {s : State} (a b : Nat) (hc : s.Held pq) : (s.wipe a b).Held pq :=
  ⟨hc.regs, mapWf_filter memDefault _ s.mem.bytes hc.bytes, hc.trace, hc.rings, hc.hq, hc.aq, hc.queue⟩

theorem State.memReport_canon {s : State} (m kind init bits a : Nat) (hc : s.Held pq) :
    (State.memReport s m kind init bits a).Held pq := by
  unfold State.memReport
  with_reducible repeat' first | assumption | apply State.pulseLine_canon | apply State.satInc_canon | apply State.setFlag_canon | apply State.setReg_canon | split

theorem State.writeLost_canon {s : State} (m init a : Nat) (hc : s.Held pq) :
    (State.writeLost s m init a).Held pq := by
  unfold State.writeLost
  with_reducible repeat' first | assumption | apply State.memReport_canon | apply State.setFlag_canon

theorem State.pageFix_canon {s : State} (a : Nat) (hc : s.Held pq) : (s.pageFix a).Held pq :=
  hc.of_eq rfl rfl rfl rfl rfl rfl rfl

theorem State.pageCheck_canon {s : State} (a init : Nat) (hc : s.Held pq) :
    (State.pageCheck s a init).1.Held pq := by
  unfold State.pageCheck
  with_reducible repeat' first | assumption | apply canonP_ite | apply State.memReport_canon | apply State.pageFix_canon

theorem State.pageWrite_canon {s : State} (a n v init : Nat) (hc : s.Held pq) :
    (State.pageWrite s a n v init).1.Held pq := by
  unfold State.pageWrite
  with_reducible repeat' first | assumption | apply canonP_ite | apply State.pageCheck_canon | apply State.setBytes_canon | apply State.setFlag_canon | apply State.wipe_canon | (fail_if_no_progress refine canon_mk ?_ rfl rfl rfl rfl rfl rfl rfl)

theorem execPageCorrection_canon (a : BitVec 32) (port : Fin 16) {s : State} (hc : s.Held pq) :
    canonR pq (execPageCorrection a port s) := by
  unfold execPageCorrection
  with_reducible repeat' first | assumption | apply canonR_next | apply State.pageCheck_canon | split

theorem State.secdedCheck_canon {s : State} (a init : Nat) (hc : s.Held pq) :
    (State.secdedCheck s a init).1.Held pq := by
  unfold State.secdedCheck
  with_reducible repeat' first | assumption | apply State.memReport_canon | (fail_if_no_progress refine canon_mk ?_ rfl rfl rfl rfl rfl rfl rfl) | split

theorem State.secdedWrite_canon {s : State} (a n v init : Nat) (hc : s.Held pq) :
    (State.secdedWrite s a n v init).1.Held pq := by
  unfold State.secdedWrite
  with_reducible repeat' first | assumption | apply canonP_ite | apply State.secdedCheck_canon | apply State.setBytes_canon | apply State.setFlag_canon | apply State.setWord_canon

theorem State.clearInit_canon {s : State} (a b edges : Nat) (hc : s.Held pq) :
    (State.clearInit s a b edges).Held pq := by
  unfold State.clearInit
  with_reducible repeat' first | assumption | apply State.setFlag_canon | (fail_if_no_progress refine canon_mk ?_ rfl rfl rfl rfl rfl rfl rfl)

theorem execInitClearDone_canon {s : State} (hc : s.Held pq) :
    canonR pq (execInitClearDone s) := by
  unfold execInitClearDone
  with_reducible repeat' first | assumption | apply canonR_next | apply canonR_ite | apply State.advanceTo_canon | apply State.setFlag_canon

theorem State.strengthWrite_canon {s : State} (k : Nat) (v : Word) (hc : s.Held pq) :
    (State.strengthWrite s k v).Held pq := by
  unfold State.strengthWrite
  with_reducible repeat' first | assumption | intro _ | apply canon_foldl | apply State.cfgFail_canon | apply State.cfgOk_canon | apply State.clearInit_canon | apply State.setReg_canon | dsimp only | split

theorem execEccStrengthWrite_canon (k : Fin 9) (v : BitVec 32) {s : State} (hc : s.Held pq) :
    canonR pq (execEccStrengthWrite k v s) := by
  unfold execEccStrengthWrite
  with_reducible repeat' first | assumption | apply canonR_next | apply State.strengthWrite_canon

theorem State.sparesSync_canon {s : State} (hc : s.Held pq) :
    (State.sparesSync s).Held pq := by
  unfold State.sparesSync
  with_reducible repeat' first | assumption | apply State.setReg_canon

theorem State.scrubBegin_canon {s : State} (hc : s.Held pq) :
    (State.scrubBegin s).Held pq := by
  unfold State.scrubBegin
  with_reducible repeat' first | assumption | apply State.setFlag_canon | apply State.setFld_canon | apply State.setReg_canon

theorem State.scrubStart_canon {s : State} (v : Word) (hc : s.Held pq) :
    (State.scrubStart s v).Held pq := by
  unfold State.scrubStart
  with_reducible repeat' first | assumption | apply State.arbRequest_canon | apply State.cfgFail_canon | apply State.cfgOk_canon | apply State.scrubBegin_canon | apply State.setFlag_canon | apply State.setFld_canon | (apply canonQ_of_eq; assumption) | (fail_if_no_progress refine canon_mk ?_ rfl rfl rfl rfl rfl rfl rfl) | dsimp only | split

theorem execScrubStart_canon (v : BitVec 32) {s : State} (hc : s.Held pq) :
    canonR pq (execScrubStart v s) := by
  unfold execScrubStart
  with_reducible repeat' first | assumption | apply canonR_next | apply State.scrubStart_canon

theorem execClearStart_canon (v : BitVec 32) {s : State} (hc : s.Held pq) :
    canonR pq (execClearStart v s) := by
  unfold execClearStart
  with_reducible repeat' first | assumption | apply canonR_next | apply State.scrubStart_canon

theorem State.scrubFirst_canon {s : State} (a : Nat) (hc : s.Held pq) :
    (State.scrubFirst s a).Held pq := by
  unfold State.scrubFirst
  with_reducible repeat' first | assumption | apply canon_ite | apply State.setReg_canon

theorem State.scrubPage_canon {s : State} (a : Nat) (hc : s.Held pq) :
    (State.scrubPage s a).Held pq := by
  unfold State.scrubPage
  with_reducible repeat' first | assumption | intro _ | apply canon_foldl | apply State.memReport_canon | apply State.pageCheck_canon | apply State.satAdd_canon | apply State.scrubFirst_canon | apply State.setReg_canon | dsimp only | split

theorem State.scrubTcm_canon {s : State} (a : Nat) (hc : s.Held pq) :
    (State.scrubTcm s a).Held pq := by
  unfold State.scrubTcm
  with_reducible repeat' first | assumption | intro _ | apply canon_ite | apply canon_foldl | apply State.satInc_canon | apply State.scrubFirst_canon | apply State.secdedCheck_canon | apply State.setReg_canon

theorem State.scrubRun_canon {s : State} (n : Nat) (hc : s.Held pq) :
    (State.scrubRun s n).Held pq := by
  unfold State.scrubRun
  with_reducible repeat' first | assumption | intro _ | apply canon_foldl | apply State.scrubPage_canon | apply State.scrubTcm_canon | (fail_if_no_progress refine canon_mk ?_ rfl rfl rfl rfl rfl rfl rfl) | dsimp only | split

theorem State.scrubEnd_canon {s : State} (hc : s.Held pq) :
    (State.scrubEnd s).Held pq := by
  unfold State.scrubEnd
  with_reducible repeat' first | assumption | apply State.arbRelease_canon | apply State.setFlag_canon | apply State.setFld_canon | (fail_if_no_progress refine canon_mk ?_ rfl rfl rfl rfl rfl rfl rfl) | dsimp only | split

theorem execScrubStop_canon (v : BitVec 32) (pages : Nat) {s : State} (hc : s.Held pq) :
    canonR pq (execScrubStop v pages s) := by
  unfold execScrubStop
  with_reducible repeat' first | assumption | apply canonR_next | apply State.arbRelease_canon | apply State.scrubEnd_canon | apply State.scrubRun_canon | apply State.setFlag_canon | apply State.setFld_canon | (fail_if_no_progress refine canon_mk ?_ rfl rfl rfl rfl rfl rfl rfl) | dsimp only | split

theorem execScrubPassDone_canon {s : State} (hc : s.Held pq) :
    canonR pq (execScrubPassDone s) := by
  unfold execScrubPassDone
  with_reducible repeat' first | assumption | apply canonR_next | apply canonR_ite | apply State.scrubEnd_canon | apply State.scrubRun_canon

/-! Ledger. -/

theorem State.setDword_canon {s : State} (a v : Nat) (hc : s.Held pq) :
    (State.setDword s a v).Held pq := by
  unfold State.setDword
  with_reducible repeat' first | assumption | apply State.setWord_canon

theorem State.ledgerCheck_canon {s : State} (a : Nat) (hc : s.Held pq) :
    (State.ledgerCheck s a).1.Held pq := by
  unfold State.ledgerCheck
  with_reducible repeat' first | assumption | apply State.setFlag_canon | (fail_if_no_progress refine canon_mk ?_ rfl rfl rfl rfl rfl rfl rfl) | split

theorem State.ledgerCheckAll_canon {s : State} (a n : Nat) (hc : s.Held pq) :
    (State.ledgerCheckAll s a n).1.Held pq := by
  unfold State.ledgerCheckAll
  with_reducible repeat' first | assumption | intro _ | apply canonP_foldl | apply State.ledgerCheck_canon

theorem State.slotMark_canon {s : State} (a size : Nat) (len : Nat → Nat) (maxLen : Nat) (hc : s.Held pq) :
    (State.slotMark s a size len maxLen).1.Held pq := by
  unfold State.slotMark
  with_reducible repeat' first | assumption | apply canonP_ite | apply State.ledgerCheck_canon | apply State.ledgerCheckAll_canon

theorem State.setRecord_canon {s : State} (k : Nat) (hc : s.Held pq) :
    (State.setRecord s k).1.Held pq := by
  unfold State.setRecord
  with_reducible repeat' first | assumption | apply State.slotMark_canon

theorem State.mapRecord_canon {s : State} (hc : s.Held pq) :
    (State.mapRecord s).1.Held pq := by
  unfold State.mapRecord
  with_reducible repeat' first | assumption | apply State.slotMark_canon

theorem State.repairCommit_canon {s : State} (hc : s.Held pq) :
    (State.repairCommit s).Held pq := by
  unfold State.repairCommit
  with_reducible repeat' first | assumption | intro _ | apply canon_foldl | apply State.mapRecord_canon | apply State.setDword_canon

theorem State.repairLoad_canon {s : State} (hc : s.Held pq) :
    (State.repairLoad s).Held pq := by
  unfold State.repairLoad
  with_reducible repeat' first | assumption | apply State.mapRecord_canon | (fail_if_no_progress refine canon_mk ?_ rfl rfl rfl rfl rfl rfl rfl) | dsimp only | split

theorem execSramPageRemap_canon (page : Fin 32768) {s : State} (hc : s.Held pq) :
    canonR pq (execSramPageRemap page s) := by
  unfold execSramPageRemap
  with_reducible repeat' first | assumption | apply canonR_next | apply State.pageFix_canon | apply State.repairCommit_canon | apply State.sparesSync_canon | (fail_if_no_progress refine canon_mk ?_ rfl rfl rfl rfl rfl rfl rfl) | dsimp only | split

/-! MapStore. -/

theorem State.msHit_canon {s : State} (w td cell : Nat) (hc : s.Held pq) :
    (State.msHit s w td cell).Held pq := by
  unfold State.msHit
  with_reducible repeat' first | assumption | apply canon_ite | apply State.memReport_canon | apply State.satInc_canon | apply State.setFlag_canon | apply State.setReg_canon | (fail_if_no_progress refine canon_mk ?_ rfl rfl rfl rfl rfl rfl rfl)

theorem State.msRead_canon {s : State} (q : MsReq) (cell : Nat) (hc : s.Held pq) :
    (State.msRead s q cell).1.Held pq := by
  unfold State.msRead
  with_reducible repeat' first | assumption | intro _ | apply canon_ite | apply canonP_ite | apply canon_foldl | apply State.msHit_canon | apply State.satInc_canon

theorem State.setCell_canon {s : State} (c : Nat) (r : LoopCell) (hc : s.Held pq) :
    (State.setCell s c r).Held pq := by
  unfold State.setCell
  with_reducible repeat' first | assumption | (fail_if_no_progress refine canon_mk ?_ rfl rfl rfl rfl rfl rfl rfl)

theorem State.msGrant_canon {s : State} (p : Nat) (service : Bool) (hc : s.Held pq) :
    (State.msGrant s p service).Held pq := by
  unfold State.msGrant
  with_reducible repeat' first | assumption | apply State.advanceTo_canon | apply State.msRead_canon | apply State.setCell_canon | (fail_if_no_progress refine canon_mk ?_ rfl rfl rfl rfl rfl rfl rfl) | dsimp only | split

theorem execMsRequestGrant_canon (p : Fin 8) (service : Bool) {s : State} (hc : s.Held pq) :
    canonR pq (execMsRequestGrant p service s) := by
  unfold execMsRequestGrant
  with_reducible repeat' first | assumption | apply canonR_next | apply canon_ite | apply State.msGrant_canon

theorem State.msServe_canon {s : State} (c : Nat) (hc : s.Held pq) :
    (State.msServe s c).Held pq := by
  unfold State.msServe
  with_reducible repeat' first | assumption | intro _ | apply canon_ite | apply canon_foldl | apply State.msGrant_canon

theorem State.msWriteback_canon {s : State} (page : Nat) (hc : s.Held pq) :
    (State.msWriteback s page).Held pq := by
  unfold State.msWriteback
  with_reducible repeat' first | assumption | apply State.memReport_canon | apply State.pageFix_canon | apply State.setFlag_canon | (fail_if_no_progress refine canon_mk ?_ rfl rfl rfl rfl rfl rfl rfl) | dsimp only | split

theorem execMsPageWriteback_canon (wait : Nat) {s : State} (hc : s.Held pq) :
    canonR pq (execMsPageWriteback wait s) := by
  unfold execMsPageWriteback
  with_reducible repeat' first | assumption | apply canonR_next | apply State.advanceTo_canon | apply State.msWriteback_canon | split

theorem State.msSettle_canon {s : State} (a : Nat) (hc : s.Held pq) :
    (State.msSettle s a).Held pq := by
  unfold State.msSettle
  with_reducible repeat' first | assumption | apply canon_ite | apply State.msWriteback_canon

theorem State.msWindowWrite_canon {s : State} (a n v init : Nat) (hc : s.Held pq) :
    (State.msWindowWrite s a n v init).1.Held pq := by
  unfold State.msWindowWrite
  with_reducible repeat' first | assumption | apply State.msSettle_canon | apply State.pageWrite_canon

theorem execMapStoreWindowWrite_canon (w : Fin 65536) (v : BitVec 32) (port : Fin 8) {s : State} (hc : s.Held pq) :
    canonR pq (execMapStoreWindowWrite w v port s) := by
  unfold execMapStoreWindowWrite
  with_reducible repeat' first | assumption | apply canonR_next | apply State.msWindowWrite_canon | split

theorem State.msCtrlWrite_canon {s : State} (v : Word) (hc : s.Held pq) :
    (State.msCtrlWrite s v).Held pq := by
  unfold State.msCtrlWrite
  with_reducible repeat' first | assumption | apply State.unitWrite_canon | apply canon_id

theorem execMapStoreEnable_canon (v : BitVec 32) {s : State} (hc : s.Held pq) :
    canonR pq (execMapStoreEnable v s) := by
  unfold execMapStoreEnable
  with_reducible repeat' first | assumption | intro _ | apply canonR_next | apply State.msCtrlWrite_canon | apply State.whenOn_canon

theorem State.tdJudge_canon {s : State} {old : State} (k : Nat) (arming : Bool) (hc : s.Held pq) (hcold : old.Held pq) :
    (State.tdJudge s old k arming).Held pq := by
  unfold State.tdJudge
  with_reducible repeat' first | assumption | apply State.cfgFail_canon | apply State.cfgOk_canon | apply State.setFld_canon | split

theorem State.tdLocked_canon {s : State} (k field : Nat) (hc : s.Held pq) :
    (State.tdLocked s k field).Held pq := by
  unfold State.tdLocked
  with_reducible repeat' first | assumption | apply State.cfgFail_canon | apply State.setFld_canon

theorem State.shapeWrite_canon {s : State} (k : Nat) (v : Word) (hc : s.Held pq) :
    (State.shapeWrite s k v).Held pq := by
  unfold State.shapeWrite
  with_reducible repeat' first | assumption | apply State.setReg_canon | apply State.tdJudge_canon | apply State.tdLocked_canon | dsimp only | split

theorem State.baseWrite_canon {s : State} (k : Nat) (v : Word) (hc : s.Held pq) :
    (State.baseWrite s k v).Held pq := by
  unfold State.baseWrite
  with_reducible repeat' first | assumption | apply canon_ite | apply State.setFld_canon | apply State.setReg_canon | apply State.tdJudge_canon | apply State.tdLocked_canon

theorem State.axisWrite_canon {s : State} (k w : Nat) (v : Word) (hc : s.Held pq) :
    (State.axisWrite s k w v).Held pq := by
  unfold State.axisWrite
  with_reducible repeat' first | assumption | apply State.store_canon | apply State.tdLocked_canon | dsimp only | split

theorem State.tdWrite_canon {s : State} (k w : Nat) (v : Word) (hc : s.Held pq) :
    (State.tdWrite s k w v).Held pq := by
  unfold State.tdWrite
  with_reducible repeat' first | assumption | apply State.axisWrite_canon | apply State.baseWrite_canon | apply State.shapeWrite_canon | split

theorem execDescriptorWrite_canon (k : Fin 64) (w : Fin 5) (v : BitVec 32) {s : State} (hc : s.Held pq) :
    canonR pq (execDescriptorWrite k w v s) := by
  unfold execDescriptorWrite
  with_reducible repeat' first | assumption | apply canonR_next | apply State.tdWrite_canon | split

theorem State.tableSwap_canon {s : State} (l : Nat) (hc : s.Held pq) :
    (State.tableSwap s l).Held pq := by
  unfold State.tableSwap
  with_reducible repeat' first | assumption | intro _ | apply canon_ite | apply canon_foldl | apply State.modInc_canon | apply State.setFlag_canon | apply State.setReg_canon

/-! Cells. -/

theorem State.setCellState_canon {s : State} (c k : Nat) (hc : s.Held pq) :
    (State.setCellState s c k).Held pq := by
  unfold State.setCellState
  with_reducible repeat' first | assumption | apply State.setFld_canon

theorem State.setQueue_canon {s : State} (c : Nat) (q : List Waiting) (hc : s.Held pq) :
    (State.setQueue s c q).Held pq := by
  unfold State.setQueue
  with_reducible repeat' first | assumption | apply State.setCell_canon | apply State.setFld_canon

theorem State.lcCorrected_canon {s : State} (c : Nat) (hc : s.Held pq) :
    (State.lcCorrected s c).Held pq := by
  unfold State.lcCorrected
  with_reducible repeat' first | assumption | apply State.satInc_canon | apply State.setFlag_canon

theorem State.noteRun_canon {s : State} (c : Nat) (hc : s.Held pq) :
    (State.noteRun s c).Held pq := by
  unfold State.noteRun
  with_reducible repeat' first | assumption | apply State.setFld_canon | split

theorem State.lcClear_canon {s : State} (c : Nat) (hc : s.Held pq) :
    (State.lcClear s c).Held pq := by
  unfold State.lcClear
  with_reducible repeat' first | assumption | intro _ | apply canon_foldl | apply State.setCell_canon | apply State.setFld_canon

theorem State.lcStop_canon {s : State} (c : Nat) (hc : s.Held pq) :
    (State.lcStop s c).Held pq := by
  unfold State.lcStop
  with_reducible repeat' first | assumption | apply State.setCell_canon | apply State.setCellState_canon

theorem State.lcRestart_canon {s : State} (c : Nat) (recover : Bool) (hc : s.Held pq) :
    (State.lcRestart s c recover).Held pq := by
  unfold State.lcRestart
  with_reducible repeat' first | assumption | apply canon_ite | apply State.lcClear_canon | apply State.lcStop_canon | apply State.satInc_canon | apply State.setCell_canon | apply State.setCellState_canon | apply State.setFlag_canon

theorem State.cellFaultAt_canon {s : State} (c cause : Nat) (hc : s.Held pq) :
    (State.cellFaultAt s c cause).Held pq := by
  unfold State.cellFaultAt
  with_reducible repeat' first | assumption | apply State.lcRestart_canon | apply State.lcStop_canon | apply State.noteRun_canon | apply State.setFlag_canon | apply State.setFld_canon | apply State.setReg_canon | dsimp only | split

theorem State.lcMismatch_canon {s : State} (c kind addr : Nat) (hc : s.Held pq) :
    (State.lcMismatch s c kind addr).Held pq := by
  unfold State.lcMismatch
  with_reducible repeat' first | assumption | apply State.cellFaultAt_canon | apply State.setReg_canon

theorem State.lcDiffer_canon {s : State} (c : Nat) (differ : Bool) (hc : s.Held pq) :
    (State.lcDiffer s c differ).1.Held pq := by
  unfold State.lcDiffer
  with_reducible repeat' first | assumption | (fail_if_no_progress refine canon_mk ?_ rfl rfl rfl rfl rfl rfl rfl) | split

theorem State.lcUp_canon {s : State} (c : Nat) (hc : s.Held pq) :
    (State.lcUp s c).Held pq := by
  unfold State.lcUp
  with_reducible repeat' first | assumption | apply canon_ite | apply State.setCell_canon | apply State.setCellState_canon

theorem State.lcDown_canon {s : State} (c : Nat) (hc : s.Held pq) :
    (State.lcDown s c).Held pq := by
  unfold State.lcDown
  with_reducible repeat' first | assumption | apply State.holdReset_canon | apply State.noteRun_canon | apply State.setCell_canon | apply State.setCellState_canon | apply State.setFld_canon | dsimp only | split

theorem State.lcCtrlWrite_canon {s : State} (c : Nat) (v : Word) (hc : s.Held pq) :
    (State.lcCtrlWrite s c v).Held pq := by
  unfold State.lcCtrlWrite
  with_reducible repeat' first | assumption | intro _ | apply State.cfgFail_canon | apply State.lcDown_canon | apply State.lcUp_canon | apply State.unitWrite_canon | apply canon_id | dsimp only | split

theorem execCellEnable_canon (n : Fin 52) (v : BitVec 32) {s : State} (hc : s.Held pq) :
    canonR pq (execCellEnable n v s) := by
  unfold execCellEnable
  with_reducible repeat' first | assumption | intro _ | apply canonR_next | apply State.lcCtrlWrite_canon | apply State.whenOn_canon

theorem execCellDisable_canon (n : Fin 52) (v : BitVec 32) {s : State} (hc : s.Held pq) :
    canonR pq (execCellDisable n v s) := by
  unfold execCellDisable
  with_reducible repeat' first | assumption | apply canonR_next | apply State.lcCtrlWrite_canon | split

theorem State.lcCopy_canon {s : State} (a b : Nat) (hc : s.Held pq) :
    (State.lcCopy s a b).Held pq := by
  unfold State.lcCopy
  with_reducible repeat' first | assumption | intro _ | apply canon_foldl | apply State.setByte_canon | apply State.wipe_canon | (fail_if_no_progress refine canon_mk ?_ rfl rfl rfl rfl rfl rfl rfl)

theorem State.lcStartRestart_canon {s : State} (c : Nat) (hc : s.Held pq) :
    (State.lcStartRestart s c).Held pq := by
  unfold State.lcStartRestart
  with_reducible repeat' first | assumption | apply State.setCell_canon

theorem execCellCopyDone_canon (n : Fin 52) {s : State} (hc : s.Held pq) :
    canonR pq (execCellCopyDone n s) := by
  unfold execCellCopyDone
  with_reducible repeat' first | assumption | apply canonR_next | apply State.advanceTo_canon | apply State.lcCopy_canon | apply State.lcStartRestart_canon | apply State.setCellState_canon | dsimp only | split

theorem execRestartHandlerStart_canon (n : Fin 52) {s : State} (hc : s.Held pq) :
    canonR pq (execRestartHandlerStart n s) := by
  unfold execRestartHandlerStart
  with_reducible repeat' first | assumption | apply canonR_next | apply State.advanceTo_canon | apply State.lcStartRestart_canon | apply State.setCellState_canon | dsimp only | split

theorem State.cellDeliver_canon {s : State} (l : Nat) (hc : s.Held pq) :
    (State.cellDeliver s l).Held pq := by
  unfold State.cellDeliver
  with_reducible repeat' first | assumption | intro _ | apply canon_foldl | apply State.satInc_canon | apply State.setFlag_canon | apply State.setQueue_canon | dsimp only | split

theorem execHandlerStart_canon (n : Fin 52) {s : State} (hc : s.Held pq) :
    canonR pq (execHandlerStart n s) := by
  unfold execHandlerStart
  with_reducible repeat' first | assumption | apply canonR_next | apply State.advanceTo_canon | apply State.setCell_canon | apply State.setCellState_canon | apply State.setQueue_canon | dsimp only | split

theorem State.lcFlush_canon {s : State} (c : Nat) (hc : s.Held pq) :
    (State.lcFlush s c).Held pq := by
  unfold State.lcFlush
  with_reducible repeat' first | assumption | intro _ | apply canon_foldl | apply State.setCell_canon | apply State.setWord_canon

theorem execHandlerEnd_canon (n : Fin 52) {s : State} (hc : s.Held pq) :
    canonR pq (execHandlerEnd n s) := by
  unfold execHandlerEnd
  with_reducible repeat' first | assumption | apply canonR_next | apply State.advanceTo_canon | apply State.holdReset_canon | apply State.lcDiffer_canon | apply State.lcFlush_canon | apply State.lcMismatch_canon | apply State.noteRun_canon | apply State.setCell_canon | apply State.setCellState_canon | apply State.setQueue_canon | dsimp only | split

theorem execHandlerBudgetFault_canon (n : Fin 52) {s : State} (hc : s.Held pq) :
    canonR pq (execHandlerBudgetFault n s) := by
  unfold execHandlerBudgetFault
  with_reducible repeat' first | assumption | apply canonR_next | apply State.advanceTo_canon | apply State.cellFaultAt_canon | dsimp only | split

theorem State.lcCompareWord_canon {s : State} (a b : Nat) (hc : s.Held pq) :
    (State.lcCompareWord s a b).1.Held pq := by
  unfold State.lcCompareWord
  with_reducible repeat' first | assumption | apply canonP_ite | apply State.setWord_canon

theorem execRecoveryMemoryCompareDone_canon (n : Fin 52) {s : State} (hc : s.Held pq) :
    canonR pq (execRecoveryMemoryCompareDone n s) := by
  unfold execRecoveryMemoryCompareDone
  with_reducible repeat' first | assumption | intro _ | apply canonR_next | apply canonP_foldl | apply State.advanceTo_canon | apply State.lcCompareWord_canon | apply State.lcStartRestart_canon | apply State.lcStop_canon | dsimp only | split

theorem State.lcWindowWrite_canon {s : State} (c : Nat) (data : Bool) (i : Nat) (v : Word) (hc : s.Held pq) :
    (State.lcWindowWrite s c data i v).Held pq := by
  unfold State.lcWindowWrite
  with_reducible repeat' first | assumption | apply canon_ite | apply State.cfgFail_canon | apply State.setWord_canon

theorem execCellWindowWrite_canon (n : Fin 52) (data : Bool) (i : Fin 2048) (v : BitVec 32) {s : State} (hc : s.Held pq) :
    canonR pq (execCellWindowWrite n data i v s) := by
  unfold execCellWindowWrite
  with_reducible repeat' first | assumption | apply canonR_next | apply State.lcWindowWrite_canon | split

theorem execCellRestartCommand_canon (n : Fin 52) {s : State} (hc : s.Held pq) :
    canonR pq (execCellRestartCommand n s) := by
  unfold execCellRestartCommand
  with_reducible repeat' first | assumption | apply canonR_next | apply State.holdReset_canon | apply State.lcRestart_canon | apply State.noteRun_canon | dsimp only | split

theorem execCellRoleSet_canon (n : Fin 52) (role : BitVec 2) {s : State} (hc : s.Held pq) :
    canonR pq (execCellRoleSet n role s) := by
  unfold execCellRoleSet
  with_reducible repeat' first | assumption | apply canonR_next | apply State.repairCommit_canon | apply State.setFld_canon | apply State.sparesSync_canon | (fail_if_no_progress refine canon_mk ?_ rfl rfl rfl rfl rfl rfl rfl) | split

/-! CellIsa. -/

theorem State.lcApply_canon {s : State} (k t lat : Nat) (o : LcOut) (hc : s.Held pq) :
    (State.lcApply s k t lat o).Held pq := by
  unfold State.lcApply
  with_reducible repeat' first | assumption | intro _ | apply canon_foldl | apply State.lcCorrected_canon | apply State.setCell_canon

theorem State.lcExec_canon {s : State} (c : Nat) (e : Bool) (srcs dsts : List Nat) (cyc lat : Nat) (isMs : Bool) (f : State → Nat → LcOut) (hc : s.Held pq) :
    (State.lcExec s c e srcs dsts cyc lat isMs f).Held pq := by
  unfold State.lcExec
  with_reducible repeat' first | assumption | intro _ | apply canon_ite | apply canon_foldl | apply State.advanceTo_canon | apply State.cellFaultAt_canon | apply State.lcApply_canon | apply State.lcCorrected_canon | apply State.lcDiffer_canon | apply State.lcMismatch_canon | apply State.msServe_canon | apply State.setCell_canon | apply State.setFld_canon | apply State.setWord_canon | dsimp only | split

theorem State.lcAlu_canon {s : State} (c : Nat) (e : Bool) (d a b : Nat) (f : Word → Word → Word) (hc : s.Held pq) :
    canonR pq (State.lcAlu s c e d a b f) := by
  unfold State.lcAlu
  with_reducible repeat' first | assumption | apply canonR_next | apply canon_ite | apply State.lcExec_canon | (fail_if_no_progress refine canon_mk ?_ rfl rfl rfl rfl rfl rfl rfl)

theorem State.lcAlu1_canon {s : State} (c : Nat) (e : Bool) (d a : Nat) (f : Word → Word) (hc : s.Held pq) :
    canonR pq (State.lcAlu1 s c e d a f) := by
  unfold State.lcAlu1
  with_reducible repeat' first | assumption | apply canonR_next | apply canon_ite | apply State.lcExec_canon | (fail_if_no_progress refine canon_mk ?_ rfl rfl rfl rfl rfl rfl rfl)

theorem State.lcAlu3_canon {s : State} (c : Nat) (e : Bool) (d a b x : Nat) (f : Word → Word → Word → Word) (hc : s.Held pq) :
    canonR pq (State.lcAlu3 s c e d a b x f) := by
  unfold State.lcAlu3
  with_reducible repeat' first | assumption | apply canonR_next | apply canon_ite | apply State.lcExec_canon | (fail_if_no_progress refine canon_mk ?_ rfl rfl rfl rfl rfl rfl rfl)

theorem State.lcConst_canon {s : State} (c : Nat) (e : Bool) (d : Nat) (w : Word) (hc : s.Held pq) :
    canonR pq (State.lcConst s c e d w) := by
  unfold State.lcConst
  with_reducible repeat' first | assumption | apply canonR_next | apply canon_ite | apply State.lcExec_canon | (fail_if_no_progress refine canon_mk ?_ rfl rfl rfl rfl rfl rfl rfl)

theorem State.lcShift_canon {s : State} (c : Nat) (e : Bool) (d a : Nat) (imm : BitVec 16) (f : Word → Nat → Word) (hc : s.Held pq) :
    canonR pq (State.lcShift s c e d a imm f) := by
  unfold State.lcShift
  with_reducible repeat' first | assumption | apply canonR_next | apply canon_ite | apply State.lcExec_canon | (fail_if_no_progress refine canon_mk ?_ rfl rfl rfl rfl rfl rfl rfl)

theorem State.lcAccOp_canon {s : State} (c : Nat) (e x : Bool) (srcs : List Nat) (f : State → Nat → Int → BitVec 80) (hc : s.Held pq) :
    canonR pq (State.lcAccOp s c e x srcs f) := by
  unfold State.lcAccOp
  with_reducible repeat' first | assumption | apply canonR_next | apply canon_ite | apply State.lcExec_canon | (fail_if_no_progress refine canon_mk ?_ rfl rfl rfl rfl rfl rfl rfl)

theorem State.lcBranch_canon {s : State} (c : Nat) (e : Bool) (a b : Nat) (off : BitVec 13) (f : Word → Word → Bool) (hc : s.Held pq) :
    canonR pq (State.lcBranch s c e a b off f) := by
  unfold State.lcBranch
  with_reducible repeat' first | assumption | apply canonR_next | apply canon_ite | apply State.lcExec_canon | (fail_if_no_progress refine canon_mk ?_ rfl rfl rfl rfl rfl rfl rfl)

theorem State.lcMs_canon {s : State} (c : Nat) (e : Bool) (d a : Nat) (b : Option Nat) (td : Nat) (kind : MsKind) (hc : s.Held pq) :
    canonR pq (State.lcMs s c e d a b td kind) := by
  unfold State.lcMs
  with_reducible repeat' first | assumption | apply canonR_next | apply canon_ite | apply State.lcExec_canon | (fail_if_no_progress refine canon_mk ?_ rfl rfl rfl rfl rfl rfl rfl)

theorem execLcAdd_canon (c : Fin 52) (e : Bool) (d a b : Fin 32) {s : State} (hc : s.Held pq) :
    canonR pq (execLcAdd c e d a b s) := by
  unfold execLcAdd
  with_reducible repeat' first | assumption | apply State.lcAlu_canon

theorem execLcSub_canon (c : Fin 52) (e : Bool) (d a b : Fin 32) {s : State} (hc : s.Held pq) :
    canonR pq (execLcSub c e d a b s) := by
  unfold execLcSub
  with_reducible repeat' first | assumption | apply State.lcAlu_canon

theorem execLcAnd_canon (c : Fin 52) (e : Bool) (d a b : Fin 32) {s : State} (hc : s.Held pq) :
    canonR pq (execLcAnd c e d a b s) := by
  unfold execLcAnd
  with_reducible repeat' first | assumption | apply State.lcAlu_canon

theorem execLcOr_canon (c : Fin 52) (e : Bool) (d a b : Fin 32) {s : State} (hc : s.Held pq) :
    canonR pq (execLcOr c e d a b s) := by
  unfold execLcOr
  with_reducible repeat' first | assumption | apply State.lcAlu_canon

theorem execLcXor_canon (c : Fin 52) (e : Bool) (d a b : Fin 32) {s : State} (hc : s.Held pq) :
    canonR pq (execLcXor c e d a b s) := by
  unfold execLcXor
  with_reducible repeat' first | assumption | apply State.lcAlu_canon

theorem execLcAndn_canon (c : Fin 52) (e : Bool) (d a b : Fin 32) {s : State} (hc : s.Held pq) :
    canonR pq (execLcAndn c e d a b s) := by
  unfold execLcAndn
  with_reducible repeat' first | assumption | apply State.lcAlu_canon

theorem execLcSll_canon (c : Fin 52) (e : Bool) (d a b : Fin 32) {s : State} (hc : s.Held pq) :
    canonR pq (execLcSll c e d a b s) := by
  unfold execLcSll
  with_reducible repeat' first | assumption | apply State.lcAlu_canon

theorem execLcSrl_canon (c : Fin 52) (e : Bool) (d a b : Fin 32) {s : State} (hc : s.Held pq) :
    canonR pq (execLcSrl c e d a b s) := by
  unfold execLcSrl
  with_reducible repeat' first | assumption | apply State.lcAlu_canon

theorem execLcSra_canon (c : Fin 52) (e : Bool) (d a b : Fin 32) {s : State} (hc : s.Held pq) :
    canonR pq (execLcSra c e d a b s) := by
  unfold execLcSra
  with_reducible repeat' first | assumption | apply State.lcAlu_canon

theorem execLcSlt_canon (c : Fin 52) (e : Bool) (d a b : Fin 32) {s : State} (hc : s.Held pq) :
    canonR pq (execLcSlt c e d a b s) := by
  unfold execLcSlt
  with_reducible repeat' first | assumption | apply State.lcAlu_canon

theorem execLcSltu_canon (c : Fin 52) (e : Bool) (d a b : Fin 32) {s : State} (hc : s.Held pq) :
    canonR pq (execLcSltu c e d a b s) := by
  unfold execLcSltu
  with_reducible repeat' first | assumption | apply State.lcAlu_canon

theorem execLcMin_canon (c : Fin 52) (e : Bool) (d a b : Fin 32) {s : State} (hc : s.Held pq) :
    canonR pq (execLcMin c e d a b s) := by
  unfold execLcMin
  with_reducible repeat' first | assumption | apply State.lcAlu_canon

theorem execLcMax_canon (c : Fin 52) (e : Bool) (d a b : Fin 32) {s : State} (hc : s.Held pq) :
    canonR pq (execLcMax c e d a b s) := by
  unfold execLcMax
  with_reducible repeat' first | assumption | apply State.lcAlu_canon

theorem execLcMul_canon (c : Fin 52) (e : Bool) (d a b : Fin 32) {s : State} (hc : s.Held pq) :
    canonR pq (execLcMul c e d a b s) := by
  unfold execLcMul
  with_reducible repeat' first | assumption | apply State.lcAlu_canon

theorem execLcMulh_canon (c : Fin 52) (e : Bool) (d a b : Fin 32) {s : State} (hc : s.Held pq) :
    canonR pq (execLcMulh c e d a b s) := by
  unfold execLcMulh
  with_reducible repeat' first | assumption | apply State.lcAlu_canon

theorem execLcSel_canon (c : Fin 52) (e : Bool) (d a b x : Fin 32) {s : State} (hc : s.Held pq) :
    canonR pq (execLcSel c e d a b x s) := by
  unfold execLcSel
  with_reducible repeat' first | assumption | apply State.lcAlu3_canon

theorem execLcClz_canon (c : Fin 52) (e : Bool) (d a : Fin 32) {s : State} (hc : s.Held pq) :
    canonR pq (execLcClz c e d a s) := by
  unfold execLcClz
  with_reducible repeat' first | assumption | apply State.lcAlu1_canon

theorem execLcAddS_canon (c : Fin 52) (e : Bool) (d a b : Fin 32) {s : State} (hc : s.Held pq) :
    canonR pq (execLcAddS c e d a b s) := by
  unfold execLcAddS
  with_reducible repeat' first | assumption | apply State.lcAlu_canon

theorem execLcSubS_canon (c : Fin 52) (e : Bool) (d a b : Fin 32) {s : State} (hc : s.Held pq) :
    canonR pq (execLcSubS c e d a b s) := by
  unfold execLcSubS
  with_reducible repeat' first | assumption | apply State.lcAlu_canon

theorem execLcNegS_canon (c : Fin 52) (e : Bool) (d a : Fin 32) {s : State} (hc : s.Held pq) :
    canonR pq (execLcNegS c e d a s) := by
  unfold execLcNegS
  with_reducible repeat' first | assumption | apply State.lcAlu1_canon

theorem execLcAbsS_canon (c : Fin 52) (e : Bool) (d a : Fin 32) {s : State} (hc : s.Held pq) :
    canonR pq (execLcAbsS c e d a s) := by
  unfold execLcAbsS
  with_reducible repeat' first | assumption | apply State.lcAlu1_canon

theorem execLcMulq_canon (c : Fin 52) (e : Bool) (d a b : Fin 32) {s : State} (hc : s.Held pq) :
    canonR pq (execLcMulq c e d a b s) := by
  unfold execLcMulq
  with_reducible repeat' first | assumption | apply State.lcAlu_canon

theorem execLcMadq_canon (c : Fin 52) (e : Bool) (d a b x : Fin 32) {s : State} (hc : s.Held pq) :
    canonR pq (execLcMadq c e d a b x s) := by
  unfold execLcMadq
  with_reducible repeat' first | assumption | apply State.lcAlu3_canon

theorem execLcMulq15_canon (c : Fin 52) (e : Bool) (d a b : Fin 32) {s : State} (hc : s.Held pq) :
    canonR pq (execLcMulq15 c e d a b s) := by
  unfold execLcMulq15
  with_reducible repeat' first | assumption | apply State.lcAlu_canon

theorem execLcMadq15_canon (c : Fin 52) (e : Bool) (d a b x : Fin 32) {s : State} (hc : s.Held pq) :
    canonR pq (execLcMadq15 c e d a b x s) := by
  unfold execLcMadq15
  with_reducible repeat' first | assumption | apply State.lcAlu3_canon

theorem execLcClmp_canon (c : Fin 52) (e : Bool) (d a b : Fin 32) {s : State} (hc : s.Held pq) :
    canonR pq (execLcClmp c e d a b s) := by
  unfold execLcClmp
  with_reducible repeat' first | assumption | apply State.lcAlu_canon

theorem execLcShls_canon (c : Fin 52) (e : Bool) (d a b : Fin 32) {s : State} (hc : s.Held pq) :
    canonR pq (execLcShls c e d a b s) := by
  unfold execLcShls
  with_reducible repeat' first | assumption | apply State.lcAlu_canon

theorem execLcRndq15_canon (c : Fin 52) (e : Bool) (d a : Fin 32) {s : State} (hc : s.Held pq) :
    canonR pq (execLcRndq15 c e d a s) := by
  unfold execLcRndq15
  with_reducible repeat' first | assumption | apply State.lcAlu1_canon

theorem execLcFadd_canon (c : Fin 52) (e : Bool) (d a b : Fin 32) {s : State} (hc : s.Held pq) :
    canonR pq (execLcFadd c e d a b s) := by
  unfold execLcFadd
  with_reducible repeat' first | assumption | apply State.lcAlu_canon

theorem execLcFsub_canon (c : Fin 52) (e : Bool) (d a b : Fin 32) {s : State} (hc : s.Held pq) :
    canonR pq (execLcFsub c e d a b s) := by
  unfold execLcFsub
  with_reducible repeat' first | assumption | apply State.lcAlu_canon

theorem execLcFmul_canon (c : Fin 52) (e : Bool) (d a b : Fin 32) {s : State} (hc : s.Held pq) :
    canonR pq (execLcFmul c e d a b s) := by
  unfold execLcFmul
  with_reducible repeat' first | assumption | apply State.lcAlu_canon

theorem execLcFmad_canon (c : Fin 52) (e : Bool) (d a b x : Fin 32) {s : State} (hc : s.Held pq) :
    canonR pq (execLcFmad c e d a b x s) := by
  unfold execLcFmad
  with_reducible repeat' first | assumption | apply State.lcAlu3_canon

theorem execLcFmin_canon (c : Fin 52) (e : Bool) (d a b : Fin 32) {s : State} (hc : s.Held pq) :
    canonR pq (execLcFmin c e d a b s) := by
  unfold execLcFmin
  with_reducible repeat' first | assumption | apply State.lcAlu_canon

theorem execLcFmax_canon (c : Fin 52) (e : Bool) (d a b : Fin 32) {s : State} (hc : s.Held pq) :
    canonR pq (execLcFmax c e d a b s) := by
  unfold execLcFmax
  with_reducible repeat' first | assumption | apply State.lcAlu_canon

theorem execLcFabs_canon (c : Fin 52) (e : Bool) (d a : Fin 32) {s : State} (hc : s.Held pq) :
    canonR pq (execLcFabs c e d a s) := by
  unfold execLcFabs
  with_reducible repeat' first | assumption | apply State.lcAlu1_canon

theorem execLcFneg_canon (c : Fin 52) (e : Bool) (d a : Fin 32) {s : State} (hc : s.Held pq) :
    canonR pq (execLcFneg c e d a s) := by
  unfold execLcFneg
  with_reducible repeat' first | assumption | apply State.lcAlu1_canon

theorem execLcFcvtQf_canon (c : Fin 52) (e : Bool) (d a : Fin 32) {s : State} (hc : s.Held pq) :
    canonR pq (execLcFcvtQf c e d a s) := by
  unfold execLcFcvtQf
  with_reducible repeat' first | assumption | apply State.lcAlu1_canon

theorem execLcFcvtFq_canon (c : Fin 52) (e : Bool) (d a : Fin 32) {s : State} (hc : s.Held pq) :
    canonR pq (execLcFcvtFq c e d a s) := by
  unfold execLcFcvtFq
  with_reducible repeat' first | assumption | apply State.lcAlu1_canon

theorem execLcFcvtIf_canon (c : Fin 52) (e : Bool) (d a : Fin 32) {s : State} (hc : s.Held pq) :
    canonR pq (execLcFcvtIf c e d a s) := by
  unfold execLcFcvtIf
  with_reducible repeat' first | assumption | apply State.lcAlu1_canon

theorem execLcFcvtFi_canon (c : Fin 52) (e : Bool) (d a : Fin 32) {s : State} (hc : s.Held pq) :
    canonR pq (execLcFcvtFi c e d a s) := by
  unfold execLcFcvtFi
  with_reducible repeat' first | assumption | apply State.lcAlu1_canon

theorem execLcFlt_canon (c : Fin 52) (e : Bool) (d a b : Fin 32) {s : State} (hc : s.Held pq) :
    canonR pq (execLcFlt c e d a b s) := by
  unfold execLcFlt
  with_reducible repeat' first | assumption | apply State.lcAlu_canon

theorem execLcMaca_canon (c : Fin 52) (e : Bool) (x : Bool) (a b : Fin 32) {s : State} (hc : s.Held pq) :
    canonR pq (execLcMaca c e x a b s) := by
  unfold execLcMaca
  with_reducible repeat' first | assumption | apply State.lcAccOp_canon

theorem execLcMsua_canon (c : Fin 52) (e : Bool) (x : Bool) (a b : Fin 32) {s : State} (hc : s.Held pq) :
    canonR pq (execLcMsua c e x a b s) := by
  unfold execLcMsua
  with_reducible repeat' first | assumption | apply State.lcAccOp_canon

theorem execLcAclr_canon (c : Fin 52) (e : Bool) (x : Bool) {s : State} (hc : s.Held pq) :
    canonR pq (execLcAclr c e x s) := by
  unfold execLcAclr
  with_reducible repeat' first | assumption | apply State.lcAccOp_canon

theorem execLcAld_canon (c : Fin 52) (e : Bool) (x : Bool) (a : Fin 32) {s : State} (hc : s.Held pq) :
    canonR pq (execLcAld c e x a s) := by
  unfold execLcAld
  with_reducible repeat' first | assumption | apply State.lcAccOp_canon

theorem execLcArd_canon (c : Fin 52) (e : Bool) (x : Bool) (d : Fin 32) {s : State} (hc : s.Held pq) :
    canonR pq (execLcArd c e x d s) := by
  unfold execLcArd
  with_reducible repeat' first | assumption | apply canonR_next | apply canon_ite | apply State.lcExec_canon | (fail_if_no_progress refine canon_mk ?_ rfl rfl rfl rfl rfl rfl rfl)

theorem execLcArd15_canon (c : Fin 52) (e : Bool) (x : Bool) (d : Fin 32) {s : State} (hc : s.Held pq) :
    canonR pq (execLcArd15 c e x d s) := by
  unfold execLcArd15
  with_reducible repeat' first | assumption | apply canonR_next | apply canon_ite | apply State.lcExec_canon | (fail_if_no_progress refine canon_mk ?_ rfl rfl rfl rfl rfl rfl rfl)

theorem execLcClarke_canon (c : Fin 52) (e : Bool) (d a b : Fin 32) {s : State} (hc : s.Held pq) :
    canonR pq (execLcClarke c e d a b s) := by
  unfold execLcClarke
  with_reducible repeat' first | assumption | apply canonR_next | apply canon_ite | apply State.lcExec_canon | (fail_if_no_progress refine canon_mk ?_ rfl rfl rfl rfl rfl rfl rfl)

theorem execLcPark_canon (c : Fin 52) (e : Bool) (d a b : Fin 32) {s : State} (hc : s.Held pq) :
    canonR pq (execLcPark c e d a b s) := by
  unfold execLcPark
  with_reducible repeat' first | assumption | apply canonR_next | apply canon_ite | apply State.lcExec_canon | (fail_if_no_progress refine canon_mk ?_ rfl rfl rfl rfl rfl rfl rfl)

theorem execLcIpark_canon (c : Fin 52) (e : Bool) (d a b : Fin 32) {s : State} (hc : s.Held pq) :
    canonR pq (execLcIpark c e d a b s) := by
  unfold execLcIpark
  with_reducible repeat' first | assumption | apply canonR_next | apply canon_ite | apply State.lcExec_canon | (fail_if_no_progress refine canon_mk ?_ rfl rfl rfl rfl rfl rfl rfl)

theorem execLcSvm_canon (c : Fin 52) (e : Bool) (d a : Fin 32) {s : State} (hc : s.Held pq) :
    canonR pq (execLcSvm c e d a s) := by
  unfold execLcSvm
  with_reducible repeat' first | assumption | apply canonR_next | apply canon_ite | apply State.lcExec_canon | (fail_if_no_progress refine canon_mk ?_ rfl rfl rfl rfl rfl rfl rfl)

theorem execLcAddi_canon (c : Fin 52) (e : Bool) (d a : Fin 32) (imm : BitVec 16) {s : State} (hc : s.Held pq) :
    canonR pq (execLcAddi c e d a imm s) := by
  unfold execLcAddi
  with_reducible repeat' first | assumption | apply State.lcAlu1_canon

theorem execLcAndi_canon (c : Fin 52) (e : Bool) (d a : Fin 32) (imm : BitVec 16) {s : State} (hc : s.Held pq) :
    canonR pq (execLcAndi c e d a imm s) := by
  unfold execLcAndi
  with_reducible repeat' first | assumption | apply State.lcAlu1_canon

theorem execLcOri_canon (c : Fin 52) (e : Bool) (d a : Fin 32) (imm : BitVec 16) {s : State} (hc : s.Held pq) :
    canonR pq (execLcOri c e d a imm s) := by
  unfold execLcOri
  with_reducible repeat' first | assumption | apply State.lcAlu1_canon

theorem execLcXori_canon (c : Fin 52) (e : Bool) (d a : Fin 32) (imm : BitVec 16) {s : State} (hc : s.Held pq) :
    canonR pq (execLcXori c e d a imm s) := by
  unfold execLcXori
  with_reducible repeat' first | assumption | apply State.lcAlu1_canon

theorem execLcSlli_canon (c : Fin 52) (e : Bool) (d a : Fin 32) (imm : BitVec 16) {s : State} (hc : s.Held pq) :
    canonR pq (execLcSlli c e d a imm s) := by
  unfold execLcSlli
  with_reducible repeat' first | assumption | apply State.lcShift_canon

theorem execLcSrli_canon (c : Fin 52) (e : Bool) (d a : Fin 32) (imm : BitVec 16) {s : State} (hc : s.Held pq) :
    canonR pq (execLcSrli c e d a imm s) := by
  unfold execLcSrli
  with_reducible repeat' first | assumption | apply State.lcShift_canon

theorem execLcSrai_canon (c : Fin 52) (e : Bool) (d a : Fin 32) (imm : BitVec 16) {s : State} (hc : s.Held pq) :
    canonR pq (execLcSrai c e d a imm s) := by
  unfold execLcSrai
  with_reducible repeat' first | assumption | apply State.lcShift_canon

theorem execLcLi_canon (c : Fin 52) (e : Bool) (d : Fin 32) (imm : BitVec 16) {s : State} (hc : s.Held pq) :
    canonR pq (execLcLi c e d imm s) := by
  unfold execLcLi
  with_reducible repeat' first | assumption | apply State.lcConst_canon

theorem execLcLui_canon (c : Fin 52) (e : Bool) (d : Fin 32) (imm : BitVec 16) {s : State} (hc : s.Held pq) :
    canonR pq (execLcLui c e d imm s) := by
  unfold execLcLui
  with_reducible repeat' first | assumption | apply State.lcConst_canon

theorem execLcLd_canon (c : Fin 52) (e : Bool) (d a : Fin 32) (imm : BitVec 16) {s : State} (hc : s.Held pq) :
    canonR pq (execLcLd c e d a imm s) := by
  unfold execLcLd
  with_reducible repeat' first | assumption | apply canonR_next | apply canon_ite | apply State.lcExec_canon | (fail_if_no_progress refine canon_mk ?_ rfl rfl rfl rfl rfl rfl rfl)

theorem execLcLdD_canon (c : Fin 52) (e : Bool) (d a : Fin 32) (imm : BitVec 16) {s : State} (hc : s.Held pq) :
    canonR pq (execLcLdD c e d a imm s) := by
  unfold execLcLdD
  with_reducible repeat' first | assumption | apply canonR_next | apply canon_ite | apply State.lcExec_canon | (fail_if_no_progress refine canon_mk ?_ rfl rfl rfl rfl rfl rfl rfl)

theorem execLcSt_canon (c : Fin 52) (e : Bool) (d a : Fin 32) (imm : BitVec 16) {s : State} (hc : s.Held pq) :
    canonR pq (execLcSt c e d a imm s) := by
  unfold execLcSt
  with_reducible repeat' first | assumption | apply canonR_next | apply canonR_ite | apply State.lcExec_canon | apply State.store_canon

theorem execLcStD_canon (c : Fin 52) (e : Bool) (d a : Fin 32) (imm : BitVec 16) {s : State} (hc : s.Held pq) :
    canonR pq (execLcStD c e d a imm s) := by
  unfold execLcStD
  with_reducible repeat' first | assumption | apply canonR_next | apply canonR_ite | apply State.lcExec_canon | apply State.store_canon

theorem execLcPrd_canon (c : Fin 52) (e : Bool) (d a : Fin 32) (x : Bool) (port : BitVec 12) {s : State} (hc : s.Held pq) :
    canonR pq (execLcPrd c e d a x port s) := by
  unfold execLcPrd
  with_reducible repeat' first | assumption | apply canonR_next | apply canon_ite | apply State.lcExec_canon | (fail_if_no_progress refine canon_mk ?_ rfl rfl rfl rfl rfl rfl rfl)

theorem execLcPrdD_canon (c : Fin 52) (e : Bool) (d a : Fin 32) (x : Bool) (port : BitVec 12) {s : State} (hc : s.Held pq) :
    canonR pq (execLcPrdD c e d a x port s) := by
  unfold execLcPrdD
  with_reducible repeat' first | assumption | apply canonR_next | apply canon_ite | apply State.lcExec_canon | (fail_if_no_progress refine canon_mk ?_ rfl rfl rfl rfl rfl rfl rfl)

theorem execLcPwr_canon (c : Fin 52) (e : Bool) (d a : Fin 32) (x : Bool) (port : BitVec 12) {s : State} (hc : s.Held pq) :
    canonR pq (execLcPwr c e d a x port s) := by
  unfold execLcPwr
  with_reducible repeat' first | assumption | apply canonR_next | apply canon_ite | apply State.lcExec_canon | (fail_if_no_progress refine canon_mk ?_ rfl rfl rfl rfl rfl rfl rfl)

theorem execLcPwrD_canon (c : Fin 52) (e : Bool) (d a : Fin 32) (x : Bool) (port : BitVec 12) {s : State} (hc : s.Held pq) :
    canonR pq (execLcPwrD c e d a x port s) := by
  unfold execLcPwrD
  with_reducible repeat' first | assumption | apply canonR_next | apply canon_ite | apply State.lcExec_canon | (fail_if_no_progress refine canon_mk ?_ rfl rfl rfl rfl rfl rfl rfl)

theorem execLcMsLd_canon (c : Fin 52) (e : Bool) (d a b : Fin 32) (td : Fin 64) {s : State} (hc : s.Held pq) :
    canonR pq (execLcMsLd c e d a b td s) := by
  unfold execLcMsLd
  with_reducible repeat' first | assumption | apply State.lcMs_canon

theorem execLcMsLerp_canon (c : Fin 52) (e : Bool) (d a : Fin 32) (td : Fin 64) {s : State} (hc : s.Held pq) :
    canonR pq (execLcMsLerp c e d a td s) := by
  unfold execLcMsLerp
  with_reducible repeat' first | assumption | apply State.lcMs_canon

theorem execLcMsBlerp_canon (c : Fin 52) (e : Bool) (d a b : Fin 32) (td : Fin 64) {s : State} (hc : s.Held pq) :
    canonR pq (execLcMsBlerp c e d a b td s) := by
  unfold execLcMsBlerp
  with_reducible repeat' first | assumption | apply State.lcMs_canon

theorem execLcBrEq_canon (c : Fin 52) (e : Bool) (a b : Fin 32) (off : BitVec 13) {s : State} (hc : s.Held pq) :
    canonR pq (execLcBrEq c e a b off s) := by
  unfold execLcBrEq
  with_reducible repeat' first | assumption | apply State.lcBranch_canon

theorem execLcBrNe_canon (c : Fin 52) (e : Bool) (a b : Fin 32) (off : BitVec 13) {s : State} (hc : s.Held pq) :
    canonR pq (execLcBrNe c e a b off s) := by
  unfold execLcBrNe
  with_reducible repeat' first | assumption | apply State.lcBranch_canon

theorem execLcBrLt_canon (c : Fin 52) (e : Bool) (a b : Fin 32) (off : BitVec 13) {s : State} (hc : s.Held pq) :
    canonR pq (execLcBrLt c e a b off s) := by
  unfold execLcBrLt
  with_reducible repeat' first | assumption | apply State.lcBranch_canon

theorem execLcBrGe_canon (c : Fin 52) (e : Bool) (a b : Fin 32) (off : BitVec 13) {s : State} (hc : s.Held pq) :
    canonR pq (execLcBrGe c e a b off s) := by
  unfold execLcBrGe
  with_reducible repeat' first | assumption | apply State.lcBranch_canon

theorem execLcBrLtu_canon (c : Fin 52) (e : Bool) (a b : Fin 32) (off : BitVec 13) {s : State} (hc : s.Held pq) :
    canonR pq (execLcBrLtu c e a b off s) := by
  unfold execLcBrLtu
  with_reducible repeat' first | assumption | apply State.lcBranch_canon

theorem execLcBrGeu_canon (c : Fin 52) (e : Bool) (a b : Fin 32) (off : BitVec 13) {s : State} (hc : s.Held pq) :
    canonR pq (execLcBrGeu c e a b off s) := by
  unfold execLcBrGeu
  with_reducible repeat' first | assumption | apply State.lcBranch_canon

theorem execLcDjnz_canon (c : Fin 52) (e : Bool) (a : Fin 32) (off : BitVec 13) {s : State} (hc : s.Held pq) :
    canonR pq (execLcDjnz c e a off s) := by
  unfold execLcDjnz
  with_reducible repeat' first | assumption | apply canonR_next | apply canon_ite | apply State.lcExec_canon | (fail_if_no_progress refine canon_mk ?_ rfl rfl rfl rfl rfl rfl rfl)

theorem execLcBrAlways_canon (c : Fin 52) (e : Bool) (off : BitVec 13) {s : State} (hc : s.Held pq) :
    canonR pq (execLcBrAlways c e off s) := by
  unfold execLcBrAlways
  with_reducible repeat' first | assumption | apply canonR_next | apply canon_ite | apply State.lcExec_canon | (fail_if_no_progress refine canon_mk ?_ rfl rfl rfl rfl rfl rfl rfl)

theorem execLcCall_canon (c : Fin 52) (e : Bool) (off : BitVec 13) {s : State} (hc : s.Held pq) :
    canonR pq (execLcCall c e off s) := by
  unfold execLcCall
  with_reducible repeat' first | assumption | apply canonR_next | apply canon_ite | apply State.lcExec_canon | (fail_if_no_progress refine canon_mk ?_ rfl rfl rfl rfl rfl rfl rfl)

theorem execLcRet_canon (c : Fin 52) (e : Bool) {s : State} (hc : s.Held pq) :
    canonR pq (execLcRet c e s) := by
  unfold execLcRet
  with_reducible repeat' first | assumption | apply canonR_next | apply canon_ite | apply State.lcExec_canon | (fail_if_no_progress refine canon_mk ?_ rfl rfl rfl rfl rfl rfl rfl)

/-! Dma. -/

theorem State.setDma_canon {s : State} (k : Nat) (r : DmaChan) (hc : s.Held pq) :
    (State.setDma s k r).Held pq := by
  unfold State.setDma
  with_reducible repeat' first | assumption | (fail_if_no_progress refine canon_mk ?_ rfl rfl rfl rfl rfl rfl rfl)

theorem State.dmaLine_canon {s : State} (k : Nat) (hc : s.Held pq) :
    (State.dmaLine s k).Held pq := by
  unfold State.dmaLine
  with_reducible repeat' first | assumption | apply State.setLine_canon

theorem State.dmaFlag_canon {s : State} (k b : Nat) (hc : s.Held pq) :
    (State.dmaFlag s k b).Held pq := by
  unfold State.dmaFlag
  with_reducible repeat' first | assumption | apply State.dmaLine_canon | apply State.setFlag_canon

theorem State.dmaState_canon {s : State} (k v : Nat) (hc : s.Held pq) :
    (State.dmaState s k v).Held pq := by
  unfold State.dmaState
  with_reducible repeat' first | assumption | apply State.setFld_canon

theorem State.drqDeliver_canon {s : State} (l : Nat) (hc : s.Held pq) :
    (State.drqDeliver s l).Held pq := by
  unfold State.drqDeliver
  with_reducible repeat' first | assumption | intro _ | apply canon_foldl | apply State.satInc_canon | apply State.setDma_canon | apply State.setFlag_canon | dsimp only | split

theorem State.chainEnd_canon {s : State} (k : Nat) (hc : s.Held pq) :
    (State.chainEnd s k).Held pq := by
  unfold State.chainEnd
  with_reducible repeat' first | assumption | apply State.dmaState_canon | apply State.setDma_canon | apply State.setFlag_canon | apply State.setFld_canon

theorem State.dmaStart_canon {s : State} (k : Nat) (v : Word) (hc : s.Held pq) :
    (State.dmaStart s k v).Held pq := by
  unfold State.dmaStart
  with_reducible repeat' first | assumption | intro _ | apply canon_ite | apply State.dmaState_canon | apply State.setDma_canon | apply State.setFlag_canon | apply State.unitWrite_canon | apply canon_id

theorem execDmaEnable_canon (k : Fin 32) (v : BitVec 32) {s : State} (hc : s.Held pq) :
    canonR pq (execDmaEnable k v s) := by
  unfold execDmaEnable
  with_reducible repeat' first | assumption | intro _ | apply canonR_next | apply State.dmaStart_canon | apply State.whenOn_canon

/-! Fabric. -/

theorem State.deliver_canon {s : State} (ssiLow : List (Fin 16)) (d : Nat) (hc : s.Held pq) :
    (State.deliver s ssiLow d).Held pq := by
  unfold State.deliver
  with_reducible repeat' first | assumption | apply State.cellDeliver_canon | apply State.drqDeliver_canon | apply State.pulseLine_canon | apply State.pwmSync_canon | apply State.setPwm_canon | apply State.ssiStart_canon | apply State.tableSwap_canon | (fail_if_no_progress refine canon_mk ?_ rfl rfl rfl rfl rfl rfl rfl) | dsimp only | split

theorem State.deliverAll_canon {s : State} (ssiLow : List (Fin 16)) (now' : List Flight) (hc : s.Held pq) :
    (State.deliverAll s ssiLow now').Held pq := by
  unfold State.deliverAll
  with_reducible repeat' first | assumption | intro _ | apply canon_ite | apply canon_foldl | apply State.deliver_canon | apply State.setFlag_canon | apply State.setFld_canon | apply State.tracePush_canon | apply State.trigger_canon

theorem execEventDelivery_canon (ssiLow : List (Fin 16)) {s : State} (hc : s.Held pq) :
    canonR pq (execEventDelivery ssiLow s) := by
  unfold execEventDelivery
  with_reducible repeat' first | assumption | apply canonR_next | apply State.advanceTo_canon | apply State.deliverAll_canon | (fail_if_no_progress refine canon_mk ?_ rfl rfl rfl rfl rfl rfl rfl) | split

theorem State.portApply_canon {s : State} (c p : Nat) (v : Word) (hc : s.Held pq) :
    (State.portApply s c p v).Held pq := by
  unfold State.portApply
  with_reducible repeat' first | assumption | apply State.cmpRefWrite_canon | apply State.emuposApply_canon | apply State.posWrite_canon | apply State.pwmCommitWrite_canon | apply State.pwmMemberWrite_canon | apply State.pwmPhaseWrite_canon | apply State.raiseNow_canon | dsimp only | split

theorem State.portLand_canon {s : State} (all : List (Nat × PortWrite)) (c : Nat) (w : PortWrite) (hc : s.Held pq) :
    (State.portLand s all c w).Held pq := by
  unfold State.portLand
  with_reducible repeat' first | assumption | apply State.filterCount_canon | apply State.portApply_canon | apply State.setFlag_canon | split

theorem execFabricWriteLanding_canon {s : State} (hc : s.Held pq) :
    canonR pq (execFabricWriteLanding s) := by
  unfold execFabricWriteLanding
  with_reducible repeat' first | assumption | intro _ | apply canonR_next | apply canon_foldl | apply State.advanceTo_canon | apply State.portLand_canon | apply State.setCell_canon | apply State.settleSwitch_canon | split

/-! TestPort. -/

theorem State.pertSync_canon {s : State} (hc : s.Held pq) :
    (State.pertSync s).Held pq := by
  unfold State.pertSync
  with_reducible repeat' first | assumption | apply State.setFlag_canon

theorem State.pertJudge_canon {s : State} (fails : List CfgFail) (f : State → State) (hc : s.Held pq) (hcf : ∀ t : State, t.Held pq → (f t).Held pq) :
    (State.pertJudge s fails f).Held pq := by
  unfold State.pertJudge
  with_reducible repeat' first | assumption | apply hcf | apply State.cfgFail_canon | apply State.cfgOk_canon | apply State.pertSync_canon | split

theorem State.pertWrite_canon {s : State} (r : PertReg) (v : Word) (hc : s.Held pq) :
    (State.pertWrite s r v).Held pq := by
  unfold State.pertWrite
  with_reducible repeat' first | assumption | intro _ | apply canon_ite | apply State.pertJudge_canon | apply State.pertSync_canon | apply State.setReg_canon

theorem execPerturbationWrite_canon (r : PertReg) (v : BitVec 32) {s : State} (hc : s.Held pq) :
    canonR pq (execPerturbationWrite r v s) := by
  unfold execPerturbationWrite
  with_reducible repeat' first | assumption | apply canonR_next | apply State.pertWrite_canon

theorem State.haltEnd_canon {s : State} (hc : s.Held pq) :
    (State.haltEnd s).Held pq := by
  unfold State.haltEnd
  with_reducible repeat' first | assumption | apply canon_ite | apply canon_foldl | apply State.pwmResume_canon | apply State.setFlag_canon

theorem State.pertClear_canon {s : State} (hc : s.Held pq) :
    (State.pertClear s).Held pq := by
  unfold State.pertClear
  with_reducible repeat' first | assumption | intro _ | apply canon_foldl | apply State.haltEnd_canon | apply State.pertSync_canon | apply State.setReg_canon | (fail_if_no_progress refine canon_mk ?_ rfl rfl rfl rfl rfl rfl rfl)

theorem State.tpCtrlWrite_canon {s : State} (v : Word) (hc : s.Held pq) :
    (State.tpCtrlWrite s v).Held pq := by
  unfold State.tpCtrlWrite
  with_reducible repeat' first | assumption | apply canon_ite | apply State.pertClear_canon | apply State.setFld_canon

theorem execClrall_canon (v : BitVec 32) {s : State} (hc : s.Held pq) :
    canonR pq (execClrall v s) := by
  unfold execClrall
  with_reducible repeat' first | assumption | apply canonR_next | apply State.tpCtrlWrite_canon

theorem State.dueRestart_canon {s : State} (p : Nat) (hc : s.Held pq) :
    (State.dueRestart s p).Held pq := by
  unfold State.dueRestart
  with_reducible repeat' first | assumption | (fail_if_no_progress refine canon_mk ?_ rfl rfl rfl rfl rfl rfl rfl)

theorem State.debugPair_canon {s : State} (p : Nat) (v : Word) (hc : s.Held pq) :
    (State.debugPair s p v).Held pq := by
  unfold State.debugPair
  with_reducible repeat' first | assumption | apply canon_ite | apply State.dueRestart_canon | apply State.setFlag_canon | (fail_if_no_progress refine canon_mk ?_ rfl rfl rfl rfl rfl rfl rfl)

theorem State.dbgWrite_canon {s : State} (v : Word) (hc : s.Held pq) :
    (State.dbgWrite s v).Held pq := by
  unfold State.dbgWrite
  with_reducible repeat' first | assumption | intro _ | apply canon_ite | apply canon_foldl | apply State.debugPair_canon | apply State.haltEnd_canon | apply State.pertJudge_canon | apply State.pertSync_canon | apply State.pwmHalt_canon | apply State.pwmResume_canon | apply State.setFlag_canon | apply State.setFld_canon

theorem execControlPlaneHalt_canon (v : BitVec 32) {s : State} (hc : s.Held pq) :
    canonR pq (execControlPlaneHalt v s) := by
  unfold execControlPlaneHalt
  with_reducible repeat' first | assumption | apply canonR_next | apply State.dbgWrite_canon

theorem execControlPlaneHaltEnd_canon (v : BitVec 32) {s : State} (hc : s.Held pq) :
    canonR pq (execControlPlaneHaltEnd v s) := by
  unfold execControlPlaneHaltEnd
  with_reducible repeat' first | assumption | apply canonR_next | apply State.dbgWrite_canon

theorem execDebugHalt_canon (p : Fin 2) {s : State} (hc : s.Held pq) :
    canonR pq (execDebugHalt p s) := by
  unfold execDebugHalt
  with_reducible repeat' first | assumption | apply canonR_next | apply State.debugPair_canon

theorem execDebugStep_canon (p : Fin 2) {s : State} (hc : s.Held pq) :
    canonR pq (execDebugStep p s) := by
  unfold execDebugStep
  with_reducible repeat' first | assumption | apply canonR_next | apply State.debugPair_canon | split

theorem execDebugResume_canon (p : Fin 2) {s : State} (hc : s.Held pq) :
    canonR pq (execDebugResume p s) := by
  unfold execDebugResume
  with_reducible repeat' first | assumption | apply canonR_next | apply State.debugPair_canon

theorem State.mismArm_canon {s : State} (p : Nat) (hc : s.Held pq) :
    (State.mismArm s p).Held pq := by
  unfold State.mismArm
  with_reducible repeat' first | assumption | intro _ | apply State.pertJudge_canon | (fail_if_no_progress refine canon_mk ?_ rfl rfl rfl rfl rfl rfl rfl)

theorem execMismP0_canon {s : State} (hc : s.Held pq) :
    canonR pq (execMismP0 s) := by
  unfold execMismP0
  with_reducible repeat' first | assumption | apply canonR_next | apply State.mismArm_canon

theorem execMismP1_canon {s : State} (hc : s.Held pq) :
    canonR pq (execMismP1 s) := by
  unfold execMismP1
  with_reducible repeat' first | assumption | apply canonR_next | apply State.mismArm_canon

theorem State.mismCellArm_canon {s : State} (c : Nat) (hc : s.Held pq) :
    (State.mismCellArm s c).Held pq := by
  unfold State.mismCellArm
  with_reducible repeat' first | assumption | intro _ | apply State.pertJudge_canon | (fail_if_no_progress refine canon_mk ?_ rfl rfl rfl rfl rfl rfl rfl)

theorem execMismCell_canon (cell : BitVec 6) {s : State} (hc : s.Held pq) :
    canonR pq (execMismCell cell s) := by
  unfold execMismCell
  with_reducible repeat' first | assumption | apply canonR_next | apply State.mismCellArm_canon

theorem State.flipBit_canon {s : State} (a i : Nat) (hc : s.Held pq) : (s.flipBit a i).Held pq :=
  hc.of_eq rfl rfl rfl rfl rfl rfl rfl

theorem State.openBit_canon {s : State} (hc : s.Held pq) :
    (State.openBit s).2.Held pq := by
  unfold State.openBit
  with_reducible repeat' first | assumption | apply State.tick_canon

theorem State.flipOpen_canon {s : State} (a w n : Nat) (hc : s.Held pq) :
    (State.flipOpen s a w n).Held pq := by
  unfold State.flipOpen
  with_reducible repeat' first | assumption | apply canon_ite | apply State.flipBit_canon | apply State.openBit_canon

theorem State.injectEcc_canon {s : State} (n : Nat) (hc : s.Held pq) :
    (State.injectEcc s n).Held pq := by
  unfold State.injectEcc
  with_reducible repeat' first | assumption | intro _ | apply canon_ite | apply canon_foldl | apply State.flipOpen_canon | apply State.pertJudge_canon

theorem execEcc1_canon {s : State} (hc : s.Held pq) :
    canonR pq (execEcc1 s) := by
  unfold execEcc1
  with_reducible repeat' first | assumption | apply canonR_next | apply State.injectEcc_canon

theorem execEcc2_canon {s : State} (hc : s.Held pq) :
    canonR pq (execEcc2 s) := by
  unfold execEcc2
  with_reducible repeat' first | assumption | apply canonR_next | apply State.injectEcc_canon

theorem execEccpage_canon {s : State} (hc : s.Held pq) :
    canonR pq (execEccpage s) := by
  unfold execEccpage
  with_reducible repeat' first | assumption | apply canonR_next | apply State.injectEcc_canon

theorem State.injWrite_canon {s : State} (v : Word) (hc : s.Held pq) :
    (State.injWrite s v).Held pq := by
  unfold State.injWrite
  with_reducible repeat' first | assumption | apply State.injectEcc_canon | apply State.mismArm_canon | apply State.mismCellArm_canon | split

theorem State.tapTo_canon {s : State} (ir : TapIr) (dr : Nat) (hc : s.Held pq) :
    (State.tapTo s ir dr).Held pq := by
  unfold State.tapTo
  with_reducible repeat' first | assumption | (fail_if_no_progress refine canon_mk ?_ rfl rfl rfl rfl rfl rfl rfl)

theorem execBypass_canon {s : State} (hc : s.Held pq) :
    canonR pq (execBypass s) := by
  unfold execBypass
  with_reducible repeat' first | assumption | apply canonR_next | apply State.tapTo_canon

theorem execSamplePreload_canon (sampled preload : Nat) {s : State} (hc : s.Held pq) :
    canonR pq (execSamplePreload sampled preload s) := by
  unfold execSamplePreload
  with_reducible repeat' first | assumption | apply canonR_next | apply State.tapTo_canon | (fail_if_no_progress refine canon_mk ?_ rfl rfl rfl rfl rfl rfl rfl)

theorem execExtest_canon {s : State} (hc : s.Held pq) :
    canonR pq (execExtest s) := by
  unfold execExtest
  with_reducible repeat' first | assumption | apply canonR_next | apply canonR_ite | apply State.setFlag_canon | apply State.tapTo_canon | (fail_if_no_progress refine canon_mk ?_ rfl rfl rfl rfl rfl rfl rfl)

theorem execIdcode_canon {s : State} (hc : s.Held pq) :
    canonR pq (execIdcode s) := by
  unfold execIdcode
  with_reducible repeat' first | assumption | apply canonR_next | apply State.tapTo_canon

theorem execDbgacc_canon {s : State} (hc : s.Held pq) :
    canonR pq (execDbgacc s) := by
  unfold execDbgacc
  with_reducible repeat' first | assumption | apply canonR_next | apply State.tapTo_canon

theorem execTapReset_canon {s : State} (hc : s.Held pq) :
    canonR pq (execTapReset s) := by
  unfold execTapReset
  with_reducible repeat' first | assumption | apply canonR_next | (fail_if_no_progress refine canon_mk ?_ rfl rfl rfl rfl rfl rfl rfl)

/-! Flash. -/

theorem State.setBank_canon {s : State} (b : Nat) (r : FlashBank) (hc : s.Held pq) :
    (State.setBank s b r).Held pq := by
  unfold State.setBank
  with_reducible repeat' first | assumption | (fail_if_no_progress refine canon_mk ?_ rfl rfl rfl rfl rfl rfl rfl)

theorem State.flashDecode_canon {s : State} (b off a : Nat) (hc : s.Held pq) :
    (State.flashDecode s b off a).1.Held pq := by
  unfold State.flashDecode
  with_reducible repeat' first | assumption | apply canonP_ite | apply State.pulseLine_canon | apply State.satInc_canon | apply State.setBank_canon | apply State.setFlag_canon | apply State.setFld_canon | apply State.setReg_canon

theorem State.flashRead_canon {s : State} (a n : Nat) (hc : s.Held pq) :
    (State.flashRead s a n).1.Held pq := by
  unfold State.flashRead
  with_reducible repeat' first | assumption | apply State.flashDecode_canon | apply State.setFlag_canon | (apply canonP_of_eq; assumption) | split

theorem State.xoViolation_canon {s : State} (a : Nat) (hc : s.Held pq) :
    (State.xoViolation s a).Held pq := by
  unfold State.xoViolation
  with_reducible repeat' first | assumption | apply State.pulseLine_canon | apply State.satInc_canon | apply State.setFlag_canon | apply State.setReg_canon

theorem State.setSector_canon {s : State} (b k st : Nat) (hc : s.Held pq) :
    (State.setSector s b k st).Held pq := by
  unfold State.setSector
  with_reducible repeat' first | assumption | apply State.setDword_canon

theorem State.setIntent_canon {s : State} (b st : Nat) (hc : s.Held pq) :
    (State.setIntent s b st).Held pq := by
  unfold State.setIntent
  with_reducible repeat' first | assumption | apply State.setDword_canon

theorem State.flashEnd_canon {s : State} (b : Nat) (hc : s.Held pq) :
    (State.flashEnd s b).Held pq := by
  unfold State.flashEnd
  with_reducible repeat' first | assumption | apply State.arbRelease_canon | apply State.pulseLine_canon | apply State.setBank_canon | apply State.setFlag_canon | apply State.setFld_canon | split

theorem State.flashCopy_canon {s : State} (b part : Nat) (ok : Bool) (hc : s.Held pq) :
    (State.flashCopy s b part ok).Held pq := by
  unfold State.flashCopy
  with_reducible repeat' first | assumption | intro _ | apply canon_foldl | apply State.setDword_canon

theorem State.programStart_canon {s : State} (b : Nat) (o : FlashOp) (hc : s.Held pq) :
    (State.programStart s b o).Held pq := by
  unfold State.programStart
  with_reducible repeat' first | assumption | apply canon_ite | apply State.cfgFail_canon | apply State.flashCopy_canon | apply State.flashDecode_canon | apply State.flashEnd_canon | apply State.setBank_canon | apply State.setDword_canon | apply State.setFld_canon | apply State.setSector_canon

theorem State.eraseStart_canon {s : State} (b : Nat) (o : FlashOp) (hc : s.Held pq) :
    (State.eraseStart s b o).Held pq := by
  unfold State.eraseStart
  with_reducible repeat' first | assumption | apply State.setBank_canon | apply State.setDword_canon | apply State.setFld_canon

theorem State.flashGrant_canon {s : State} (b : Nat) (hc : s.Held pq) :
    (State.flashGrant s b).Held pq := by
  unfold State.flashGrant
  with_reducible repeat' first | assumption | apply State.eraseStart_canon | apply State.programStart_canon | split

theorem State.flashCmd_canon {s : State} (v : Word) (op : Nat) (f : State → Nat → Nat → State) (hc : s.Held pq) (hcf : ∀ (t : State) (a b : Nat), t.Held pq → (f t a b).Held pq) :
    (State.flashCmd s v op f).Held pq := by
  unfold State.flashCmd
  with_reducible repeat' first | assumption | apply hcf | apply State.cfgFail_canon | apply State.cfgOk_canon | dsimp only | split

theorem State.flashRequest_canon {s : State} (erase : Bool) (b off : Nat) (hc : s.Held pq) :
    (State.flashRequest s erase b off).Held pq := by
  unfold State.flashRequest
  with_reducible repeat' first | assumption | apply State.arbRequest_canon | apply State.cfgFail_canon | apply State.flashGrant_canon | apply State.setBank_canon | apply State.setFld_canon | (apply canonQ_of_eq; assumption) | split

theorem execFlashProgram_canon (v : BitVec 32) {s : State} (hc : s.Held pq) :
    canonR pq (execFlashProgram v s) := by
  unfold execFlashProgram
  with_reducible repeat' first | assumption | intro _ | apply canonR_next | apply State.flashCmd_canon | apply State.flashRequest_canon

theorem execFlashErase_canon (v : BitVec 32) {s : State} (hc : s.Held pq) :
    canonR pq (execFlashErase v s) := by
  unfold execFlashErase
  with_reducible repeat' first | assumption | intro _ | apply canonR_next | apply State.flashCmd_canon | apply State.flashRequest_canon

theorem State.scramble_canon {s : State} (a n : Nat) (hc : s.Held pq) :
    (State.scramble s a n).Held pq := by
  unfold State.scramble
  with_reducible repeat' first | assumption | intro _ | apply canon_foldl | apply State.setWord_canon | (fail_if_no_progress refine canon_mk ?_ rfl rfl rfl rfl rfl rfl rfl)

theorem execFlashProgramDone_canon (bank : Fin 2) (verified : Bool) {s : State} (hc : s.Held pq) :
    canonR pq (execFlashProgramDone bank verified s) := by
  unfold execFlashProgramDone
  with_reducible repeat' first | assumption | intro _ | apply canonR_next | apply canon_foldl | apply State.flashEnd_canon | apply State.scramble_canon | apply State.setFlag_canon | apply State.setIntent_canon | apply State.setWord_canon | (fail_if_no_progress refine canon_mk ?_ rfl rfl rfl rfl rfl rfl rfl) | split

theorem State.sectorWipe_canon {s : State} (b off : Nat) (hc : s.Held pq) :
    (State.sectorWipe s b off).Held pq := by
  unfold State.sectorWipe
  with_reducible repeat' first | assumption | apply State.wipe_canon | (fail_if_no_progress refine canon_mk ?_ rfl rfl rfl rfl rfl rfl rfl)

theorem State.sectorSpoil_canon {s : State} (b off : Nat) (hc : s.Held pq) :
    (State.sectorSpoil s b off).Held pq := by
  unfold State.sectorSpoil
  with_reducible repeat' first | assumption | apply State.scramble_canon | (fail_if_no_progress refine canon_mk ?_ rfl rfl rfl rfl rfl rfl rfl)

theorem execFlashEraseDone_canon (bank : Fin 2) (verified : Bool) {s : State} (hc : s.Held pq) :
    canonR pq (execFlashEraseDone bank verified s) := by
  unfold execFlashEraseDone
  with_reducible repeat' first | assumption | apply canonR_next | apply State.flashEnd_canon | apply State.sectorSpoil_canon | apply State.sectorWipe_canon | apply State.setFlag_canon | apply State.setIntent_canon | apply State.setSector_canon | split

theorem execFlashSuspend_canon (v : BitVec 32) {s : State} (hc : s.Held pq) :
    canonR pq (execFlashSuspend v s) := by
  unfold execFlashSuspend
  with_reducible repeat' first | assumption | intro _ | apply canonR_next | apply State.flashCmd_canon | apply State.setBank_canon

theorem execEraseSuspended_canon (bank : Fin 2) {s : State} (hc : s.Held pq) :
    canonR pq (execEraseSuspended bank s) := by
  unfold execEraseSuspended
  with_reducible repeat' first | assumption | apply canonR_next | apply State.setBank_canon | apply State.setFld_canon | apply State.setIntent_canon | split

theorem execFlashResume_canon (v : BitVec 32) {s : State} (hc : s.Held pq) :
    canonR pq (execFlashResume v s) := by
  unfold execFlashResume
  with_reducible repeat' first | assumption | intro _ | apply canonR_next | apply State.flashCmd_canon | apply State.setBank_canon | apply State.setFld_canon | apply State.setIntent_canon

theorem State.ackRecov_canon {s : State} (b : Nat) (hc : s.Held pq) :
    (State.ackRecov s b).Held pq := by
  unfold State.ackRecov
  with_reducible repeat' first | assumption | apply State.setFlag_canon | apply State.setIntent_canon | apply State.setReg_canon

theorem execFlashAckrecov_canon (v : BitVec 32) {s : State} (hc : s.Held pq) :
    canonR pq (execFlashAckrecov v s) := by
  unfold execFlashAckrecov
  with_reducible repeat' first | assumption | intro _ | apply canonR_next | apply State.ackRecov_canon | apply State.flashCmd_canon

theorem State.recovReport_canon {s : State} (b : Nat) (hc : s.Held pq) :
    (State.recovReport s b).Held pq := by
  unfold State.recovReport
  with_reducible repeat' first | assumption | apply canon_ite | apply State.setFlag_canon | apply State.setReg_canon

theorem State.intentScan_canon {s : State} (b : Nat) (hc : s.Held pq) :
    (State.intentScan s b).Held pq := by
  unfold State.intentScan
  dsimp only
  with_reducible repeat' first | assumption | apply State.recovReport_canon | apply State.setIntent_canon | apply State.setSector_canon | split

theorem State.flashCut_canon {s : State} (b : Nat) (hc : s.Held pq) :
    (State.flashCut s b).Held pq := by
  unfold State.flashCut
  with_reducible repeat' first | assumption | intro _ | apply canon_foldl | apply State.scramble_canon | apply State.sectorSpoil_canon | (fail_if_no_progress refine canon_mk ?_ rfl rfl rfl rfl rfl rfl rfl) | split

theorem State.fcCtrlWrite_canon {s : State} (v : Word) (hc : s.Held pq) :
    (State.fcCtrlWrite s v).Held pq := by
  unfold State.fcCtrlWrite
  with_reducible repeat' first | assumption | apply State.cfgFail_canon | apply State.cfgOk_canon | apply State.setDword_canon | apply State.setReg_canon | dsimp only | split

theorem execFcCtrlWrite_canon (v : BitVec 32) {s : State} (hc : s.Held pq) :
    canonR pq (execFcCtrlWrite v s) := by
  unfold execFcCtrlWrite
  with_reducible repeat' first | assumption | apply canonR_next | apply State.fcCtrlWrite_canon

theorem State.xoWrite_canon {s : State} (k : Nat) (v : Word) (hc : s.Held pq) :
    (State.xoWrite s k v).Held pq := by
  unfold State.xoWrite
  with_reducible repeat' first | assumption | apply State.cfgFail_canon | apply State.cfgOk_canon | apply State.setReg_canon | split

theorem execFcXoWrite_canon (k : Fin 16) (v : BitVec 32) {s : State} (hc : s.Held pq) :
    canonR pq (execFcXoWrite k v s) := by
  unfold execFcXoWrite
  with_reducible repeat' first | assumption | apply canonR_next | apply State.xoWrite_canon

theorem State.pbufWrite_canon {s : State} (b i : Nat) (v : Word) (hc : s.Held pq) :
    (State.pbufWrite s b i v).Held pq := by
  unfold State.pbufWrite
  with_reducible repeat' first | assumption | apply State.cfgFail_canon | apply State.setReg_canon | split

theorem execSectorRemap_canon (bank : Fin 2) (sector : Fin 128) {s : State} (hc : s.Held pq) :
    canonR pq (execSectorRemap bank sector s) := by
  unfold execSectorRemap
  with_reducible repeat' first | assumption | apply canonR_next | apply canonR_ite | apply State.repairCommit_canon | apply State.sectorWipe_canon | apply State.setBank_canon | apply State.sparesSync_canon | (fail_if_no_progress refine canon_mk ?_ rfl rfl rfl rfl rfl rfl rfl)

theorem State.commitWord_canon {s : State} (o : LedgerOp) (i : Nat) (hc : s.Held pq) :
    (State.commitWord s o i).Held pq := by
  unfold State.commitWord
  with_reducible repeat' first | assumption | apply canon_ite | apply State.setDword_canon | apply State.setWord_canon

theorem State.ledgerSync_canon {s : State} (e : Nat) (hc : s.Held pq) :
    (State.ledgerSync s e).Held pq := by
  unfold State.ledgerSync
  with_reducible repeat' first | assumption | intro _ | apply canon_foldl | apply State.commitWord_canon | (fail_if_no_progress refine canon_mk ?_ rfl rfl rfl rfl rfl rfl rfl) | split

theorem State.ledgerCommit_canon {s : State} (v : Word) (hc : s.Held pq) :
    (State.ledgerCommit s v).Held pq := by
  unfold State.ledgerCommit
  with_reducible repeat' first | assumption | apply State.cfgFail_canon | apply State.cfgOk_canon | apply State.setFlag_canon | apply State.setRecord_canon | (fail_if_no_progress refine canon_mk ?_ rfl rfl rfl rfl rfl rfl rfl) | dsimp only | split

theorem execLedgerCommit_canon (v : BitVec 32) {s : State} (hc : s.Held pq) :
    canonR pq (execLedgerCommit v s) := by
  unfold execLedgerCommit
  with_reducible repeat' first | assumption | apply canonR_next | apply State.ledgerCommit_canon

theorem State.ledgerRead_canon {s : State} (v : Word) (hc : s.Held pq) :
    (State.ledgerRead s v).Held pq := by
  unfold State.ledgerRead
  with_reducible repeat' first | assumption | apply State.cfgFail_canon | apply State.cfgOk_canon | apply State.setFlag_canon | apply State.setRecord_canon | (apply canonP_of_eq; assumption) | (fail_if_no_progress refine canon_mk ?_ rfl rfl rfl rfl rfl rfl rfl) | dsimp only | split

theorem execLedgerRead_canon (v : BitVec 32) {s : State} (hc : s.Held pq) :
    canonR pq (execLedgerRead v s) := by
  unfold execLedgerRead
  with_reducible repeat' first | assumption | apply canonR_next | apply State.ledgerRead_canon

theorem execLedgerCommandDone_canon {s : State} (hc : s.Held pq) :
    canonR pq (execLedgerCommandDone s) := by
  unfold execLedgerCommandDone
  with_reducible repeat' first | assumption | intro _ | apply canonR_next | apply canon_foldl | apply State.advanceTo_canon | apply State.ledgerSync_canon | apply State.pulseLine_canon | apply State.setFlag_canon | apply State.setFld_canon | apply State.setReg_canon | (fail_if_no_progress refine canon_mk ?_ rfl rfl rfl rfl rfl rfl rfl) | split

theorem State.lgBufWrite_canon {s : State} (i : Nat) (v : Word) (hc : s.Held pq) :
    (State.lgBufWrite s i v).Held pq := by
  unfold State.lgBufWrite
  with_reducible repeat' first | assumption | apply canon_ite | apply State.cfgFail_canon | apply State.setReg_canon

theorem State.ledgerWriteWord_canon {s : State} (a n v : Nat) (mgmt : Bool) (hc : s.Held pq) :
    (State.ledgerWriteWord s a n v mgmt).1.Held pq := by
  unfold State.ledgerWriteWord
  with_reducible repeat' first | assumption | apply canonP_ite | apply State.ledgerCheck_canon | apply State.setBytes_canon | apply State.setFlag_canon | (fail_if_no_progress refine canon_mk ?_ rfl rfl rfl rfl rfl rfl rfl)

theorem State.ledgerWrite_canon {s : State} (a n v : Nat) (mgmt : Bool) (hc : s.Held pq) :
    (State.ledgerWrite s a n v mgmt).1.Held pq := by
  unfold State.ledgerWrite
  with_reducible repeat' first | assumption | intro _ | apply canonP_ite | apply canonP_foldl | apply State.ledgerSync_canon | apply State.ledgerWriteWord_canon

theorem State.ledgerReadBytes_canon {s : State} (a n : Nat) (hc : s.Held pq) :
    (State.ledgerReadBytes s a n).1.Held pq := by
  unfold State.ledgerReadBytes
  with_reducible repeat' first | assumption | apply State.ledgerCheckAll_canon | apply State.ledgerSync_canon

theorem execLedgerDirectWrite_canon (a : BitVec 32) (lg : Fin 6) (v : BitVec 256) (mgmt : Bool) {s : State} (hc : s.Held pq) :
    canonR pq (execLedgerDirectWrite a lg v mgmt s) := by
  unfold execLedgerDirectWrite
  with_reducible repeat' first | assumption | apply canonR_next | apply State.ledgerWrite_canon | split

end Sys2Proof.Machine
end

