-- ==== Sys2Proof/Laws/CanonManage.lean ====
section
/-! SUPPORT. The canonical form of the state is kept by redundancy, pins, links, power, images, management and boot: one lemma an operation. -/

namespace Sys2Proof.Machine

variable {pq : List Instr}

/-! Cores. -/

theorem State.setPair_canon {s : State} (p : Nat) (r : Pair) (hc : s.Held pq) :
    (State.setPair s p r).Held pq := by
  unfold State.setPair
  with_reducible repeat' first | assumption | (fail_if_no_progress refine canon_mk ?_ rfl rfl rfl rfl rfl rfl rfl)

theorem State.setMode_canon {s : State} (p m : Nat) (hc : s.Held pq) :
    (State.setMode s p m).Held pq := by
  unfold State.setMode
  with_reducible repeat' first | assumption | apply State.setFld_canon

theorem State.rdSync_canon {s : State} (p : Nat) (hc : s.Held pq) :
    (State.rdSync s p).Held pq := by
  unfold State.rdSync
  with_reducible repeat' first | assumption | apply State.setReg_canon

theorem State.setCore_canon {s : State} (k : Nat) (c : Core) (hc : s.Held pq) :
    (State.setCore s k c).Held pq := by
  unfold State.setCore
  with_reducible repeat' first | assumption | apply State.rdSync_canon | (fail_if_no_progress refine canon_mk ?_ rfl rfl rfl rfl rfl rfl rfl)

theorem State.onCore_canon {s : State} (k : Nat) (f : Core → Core) (hc : s.Held pq) :
    (State.onCore s k f).Held pq := by
  unfold State.onCore
  with_reducible repeat' first | assumption | apply State.setCore_canon

theorem State.onArch_canon {s : State} (k : Nat) (f : Arch → Arch) (hc : s.Held pq) :
    (State.onArch s k f).Held pq := by
  unfold State.onArch
  with_reducible repeat' first | assumption | apply State.onCore_canon

theorem State.setTag_canon {s : State} (a : Nat) (t : Bool) (hc : s.Held pq) :
    (State.setTag s a t).Held pq := by
  unfold State.setTag
  with_reducible repeat' first | assumption | (fail_if_no_progress refine canon_mk ?_ rfl rfl rfl rfl rfl rfl rfl)

theorem State.untag_canon {s : State} (a n : Nat) (hc : s.Held pq) :
    (State.untag s a n).Held pq := by
  unfold State.untag
  with_reducible repeat' first | assumption | (fail_if_no_progress refine canon_mk ?_ rfl rfl rfl rfl rfl rfl rfl)

theorem State.tcmCheck_canon {s : State} (a init : Nat) (hc : s.Held pq) :
    (State.tcmCheck s a init).1.Held pq := by
  unfold State.tcmCheck
  with_reducible repeat' first | assumption | apply State.secdedCheck_canon | apply State.setWord_canon | dsimp only | split

theorem State.tcmRead_canon {s : State} (a n init : Nat) (hc : s.Held pq) :
    (State.tcmRead s a n init).1.Held pq := by
  unfold State.tcmRead
  with_reducible repeat' first | assumption | intro _ | apply canonP_foldl | apply State.tcmCheck_canon

theorem State.tcmPut_canon {s : State} (t off n v init : Nat) (hc : s.Held pq) :
    (State.tcmPut s t off n v init).1.Held pq := by
  unfold State.tcmPut
  with_reducible repeat' first | assumption | intro _ | apply canonP_foldl | apply State.secdedWrite_canon | apply State.untag_canon

theorem State.tcmWrite_canon {s : State} (a n v init : Nat) (hc : s.Held pq) :
    (State.tcmWrite s a n v init).1.Held pq := by
  unfold State.tcmWrite
  with_reducible repeat' first | assumption | intro _ | apply canonP_foldl | apply State.tcmPut_canon

theorem State.tcmTag_canon {s : State} (a : Nat) (b : Bool) (hc : s.Held pq) :
    (State.tcmTag s a b).Held pq := by
  unfold State.tcmTag
  with_reducible repeat' first | assumption | intro _ | apply canon_foldl | apply State.setTag_canon

theorem State.logGranule_canon {s : State} (k a : Nat) (hc : s.Held pq) :
    (State.logGranule s k a).Held pq := by
  unfold State.logGranule
  with_reducible repeat' first | assumption | apply canon_ite | apply State.setCore_canon

theorem State.playback_canon {s : State} (us : List Undo) (hc : s.Held pq) :
    (State.playback s us).Held pq := by
  unfold State.playback
  with_reducible repeat' first | assumption | intro _ | apply canon_foldl | apply State.setWord_canon | apply State.tcmTag_canon

theorem State.commitCkpt_canon {s : State} (k : Nat) (hc : s.Held pq) :
    (State.commitCkpt s k).Held pq := by
  unfold State.commitCkpt
  with_reducible repeat' first | assumption | apply canon_ite | apply State.setCore_canon | apply State.setReg_canon | (fail_if_no_progress refine canon_mk ?_ rfl rfl rfl rfl rfl rfl rfl)

theorem State.startCore_canon {s : State} (k : Nat) (hc : s.Held pq) :
    (State.startCore s k).Held pq := by
  unfold State.startCore
  with_reducible repeat' first | assumption | apply State.commitCkpt_canon | apply State.setCore_canon | (fail_if_no_progress refine canon_mk ?_ rfl rfl rfl rfl rfl rfl rfl)

theorem State.coldRestart_canon {s : State} (k : Nat) (hc : s.Held pq) :
    (State.coldRestart s k).Held pq := by
  unfold State.coldRestart
  with_reducible repeat' first | assumption | apply State.onCore_canon | apply State.satInc_canon | apply State.startCore_canon

theorem State.rollback_canon {s : State} (k : Nat) (hc : s.Held pq) :
    (State.rollback s k).Held pq := by
  unfold State.rollback
  with_reducible repeat' first | assumption | apply State.coldRestart_canon | apply State.playback_canon | apply State.setCore_canon | dsimp only | split

theorem State.rollResume_canon {s : State} (k : Nat) (hc : s.Held pq) :
    (State.rollResume s k).Held pq := by
  unfold State.rollResume
  with_reducible repeat' first | assumption | apply State.coldRestart_canon | apply State.onCore_canon | apply State.satInc_canon | (fail_if_no_progress refine canon_mk ?_ rfl rfl rfl rfl rfl rfl rfl) | split

theorem execRollbackResume_canon (n : Fin 4) {s : State} (hc : s.Held pq) :
    canonR pq (execRollbackResume n s) := by
  unfold execRollbackResume
  with_reducible repeat' first | assumption | apply canonR_next | apply State.advanceTo_canon | apply State.rollResume_canon | split

theorem State.rescueAction_canon {s : State} (k : Nat) (hc : s.Held pq) :
    (State.rescueAction s k).Held pq := by
  unfold State.rescueAction
  with_reducible repeat' first | assumption | apply State.coldRestart_canon | apply State.onCore_canon | apply State.rollback_canon | apply State.setMode_canon | dsimp only | split

theorem State.bistRequest_canon {s : State} (p : Nat) (hc : s.Held pq) :
    (State.bistRequest s p).Held pq := by
  unfold State.bistRequest
  with_reducible repeat' first | assumption | apply State.arbRequest_canon | apply State.setPair_canon | (apply canonQ_of_eq; assumption) | split

theorem State.mismatch_canon {s : State} (p kind port addr : Nat) (hc : s.Held pq) :
    (State.mismatch s p kind port addr).Held pq := by
  unfold State.mismatch
  with_reducible repeat' first | assumption | apply canon_ite | apply State.bistRequest_canon | apply State.onCore_canon | apply State.rollback_canon | apply State.satInc_canon | apply State.setFlag_canon | apply State.setMode_canon | apply State.setPair_canon | apply State.setReg_canon

theorem execCheckerMismatch_canon (p : Fin 2) (kind : Fin 4) (port : Bool) (a : BitVec 32) {s : State} (hc : s.Held pq) :
    canonR pq (execCheckerMismatch p kind port a s) := by
  unfold execCheckerMismatch
  with_reducible repeat' first | assumption | apply canonR_next | apply State.mismatch_canon | dsimp only | split

theorem execCoreBistDone_canon (p : Fin 2) (ok0 ok1 : Bool) {s : State} (hc : s.Held pq) :
    canonR pq (execCoreBistDone p ok0 ok1 s) := by
  unfold execCoreBistDone
  with_reducible repeat' first | assumption | apply canonR_next | apply State.advanceTo_canon | apply State.arbRelease_canon | apply State.onCore_canon | apply State.repairCommit_canon | apply State.rollback_canon | apply State.setCore_canon | apply State.setFlag_canon | apply State.setFld_canon | apply State.setMode_canon | apply State.setPair_canon | (fail_if_no_progress refine canon_mk ?_ rfl rfl rfl rfl rfl rfl rfl) | dsimp only | split

theorem execCkptDueTimeout_canon (n : Fin 4) {s : State} (hc : s.Held pq) :
    canonR pq (execCkptDueTimeout n s) := by
  unfold execCkptDueTimeout
  with_reducible repeat' first | assumption | apply canonR_next | apply State.advanceTo_canon | apply State.coldRestart_canon | split

theorem State.releasePair_canon {s : State} (p entry : Nat) (hc : s.Held pq) :
    (State.releasePair s p entry).Held pq := by
  unfold State.releasePair
  with_reducible repeat' first | assumption | apply canon_ite | apply State.onCore_canon | apply State.setMode_canon | apply State.startCore_canon

theorem execPairRestartCommand_canon (p : Fin 2) (cold : Bool) {s : State} (hc : s.Held pq) :
    canonR pq (execPairRestartCommand p cold s) := by
  unfold execPairRestartCommand
  with_reducible repeat' first | assumption | intro _ | apply canonR_next | apply canon_ite | apply canonR_ite | apply canon_foldl | apply State.coldRestart_canon | apply State.rollback_canon | apply State.setMode_canon

theorem State.rdCtlWrite_canon {s : State} (p : Nat) (v : Word) (hc : s.Held pq) :
    (State.rdCtlWrite s p v).Held pq := by
  unfold State.rdCtlWrite
  with_reducible repeat' first | assumption | apply State.cfgFail_canon | apply State.cfgOk_canon | apply State.setReg_canon | dsimp only | split

/-! Pins. -/

theorem State.conflictSync_canon {s : State} (hc : s.Held pq) :
    (State.conflictSync s).Held pq := by
  unfold State.conflictSync
  with_reducible repeat' first | assumption | apply State.setLine_canon | apply State.setReg_canon | split

theorem State.pinWrite_canon {s : State} (k : Nat) (v : Word) (hc : s.Held pq) :
    (State.pinWrite s k v).Held pq := by
  unfold State.pinWrite
  with_reducible repeat' first | assumption | apply State.cfgFail_canon | apply State.cfgOk_canon | apply State.conflictSync_canon | apply State.setReg_canon | (fail_if_no_progress refine canon_mk ?_ rfl rfl rfl rfl rfl rfl rfl) | split

theorem execPinConfigurationWrite_canon (k : Fin 256) (v : BitVec 32) {s : State} (hc : s.Held pq) :
    canonR pq (execPinConfigurationWrite k v s) := by
  unfold execPinConfigurationWrite
  with_reducible repeat' first | assumption | apply canonR_next | apply State.pinWrite_canon

theorem execGpioWrite_canon (k : Fin 256) (oe dout : Bool) {s : State} (hc : s.Held pq) :
    canonR pq (execGpioWrite k oe dout s) := by
  unfold execGpioWrite
  with_reducible repeat' first | assumption | apply canonR_next | apply State.pinWrite_canon

theorem State.confWrite_canon {s : State} (v : Word) (hc : s.Held pq) :
    (State.confWrite s v).Held pq := by
  unfold State.confWrite
  with_reducible repeat' first | assumption | apply canon_ite | apply State.conflictSync_canon | apply State.setFlag_canon

theorem State.pintSync_canon {s : State} (n : Nat) (hc : s.Held pq) :
    (State.pintSync s n).Held pq := by
  unfold State.pintSync
  with_reducible repeat' first | assumption | apply State.setFlag_canon | apply State.setLine_canon

theorem State.pintSeen_canon {s : State} (n : Nat) (level : Bool) (hc : s.Held pq) : (State.pintSeen s n level).Held pq := by
  unfold State.pintSeen
  with_reducible repeat' first | assumption | (fail_if_no_progress refine canon_mk ?_ rfl rfl rfl rfl rfl rfl rfl)

theorem State.pintOff_canon {s : State} (n : Nat) (hc : s.Held pq) : (State.pintOff s n).Held pq := by
  unfold State.pintOff
  with_reducible repeat' first | assumption | apply State.setFlag_canon | (fail_if_no_progress refine canon_mk ?_ rfl rfl rfl rfl rfl rfl rfl)

theorem State.pintWrite_canon {s : State} (n : Nat) (v : Word) (level : Bool) (hc : s.Held pq) :
    (State.pintWrite s n v level).Held pq := by
  unfold State.pintWrite
  with_reducible repeat' first | assumption | apply State.cfgFail_canon | apply State.cfgOk_canon | apply State.pintSync_canon | apply State.pintSeen_canon | apply State.pintOff_canon | apply State.setFlag_canon | apply State.setReg_canon | dsimp only | split

theorem execPintEnable_canon (n : Fin 16) (v : BitVec 32) (level : Bool) {s : State} (hc : s.Held pq) :
    canonR pq (execPintEnable n v level s) := by
  unfold execPintEnable
  with_reducible repeat' first | assumption | apply canonR_next | apply State.pintWrite_canon

theorem execPinInterruptEdge_canon (n : Fin 16) (level : Bool) {s : State} (hc : s.Held pq) :
    canonR pq (execPinInterruptEdge n level s) := by
  unfold execPinInterruptEdge
  with_reducible repeat' first | assumption | apply canonR_next | apply canon_ite | apply canonR_ite | apply State.pintSync_canon | apply State.pintSeen_canon | apply State.setFlag_canon

theorem State.pintStatWrite_canon {s : State} (v : Word) (hc : s.Held pq) :
    (State.pintStatWrite s v).Held pq := by
  unfold State.pintStatWrite
  with_reducible repeat' first | assumption | apply canon_foldl | apply State.pintSync_canon | apply State.setFld_canon

/-! Links. -/

theorem State.msixSync_canon {s : State} (hc : s.Held pq) :
    (State.msixSync s).Held pq := by
  unfold State.msixSync
  with_reducible repeat' first | assumption | intro _ | apply canon_ite | apply canon_foldl | (fail_if_no_progress refine canon_mk ?_ rfl rfl rfl rfl rfl rfl rfl)

theorem State.lbxSync_canon {s : State} (k : Nat) (hc : s.Held pq) : (s.lbxSync k).Held pq := by
  unfold State.lbxSync
  apply State.msixSync_canon
  apply State.setLine_canon
  apply State.setLine_canon
  apply canon_foldl
  · intro s d hs
    dsimp only
    split <;> exact State.setReg_canon _ _ (State.setReg_canon _ _ (State.setReg_canon _ _ hs))
  · exact hc

theorem State.setRing_canon {s : State} (k d : Nat) (r : Ring) (hc : s.Held pq) (hr : r.msgs.length ≤ 64) : (s.setRing k d r).Held pq := by
  unfold State.setRing
  apply State.lbxSync_canon
  refine ⟨hc.regs, hc.bytes, hc.trace, fun p hp => ?_, hc.hq, hc.aq, hc.queue⟩
  rcases mapMem_set hp with h | h
  · exact h ▸ hr
  · exact hc.rings p h
theorem State.ring_len {s : State} (k d : Nat) (hc : s.Held pq) : (s.ring k d).msgs.length ≤ 64 := by
  unfold State.ring
  rcases mapGet_mem {} s.rings (2 * k + d) with h | ⟨p, hp, h⟩
  · rw [h]; decide
  · rw [h]; exact hc.rings p hp

theorem State.lbxFlag_canon {s : State} (k d b : Nat) (hc : s.Held pq) :
    (State.lbxFlag s k d b).Held pq := by
  unfold State.lbxFlag
  with_reducible repeat' first | assumption | apply State.setFlag_canon

theorem State.lbxPost_canon {s : State} (k d p : Nat) (hc : s.Held pq) : (s.lbxPost k d p).Held pq := by
  unfold State.lbxPost
  dsimp only
  split
  · exact hc
  · split
    · exact State.satInc_canon _ _ _ (State.lbxFlag_canon _ _ _ hc)
    · split
      · exact State.satInc_canon _ _ _ (State.lbxFlag_canon _ _ _ hc)
      · refine State.setRing_canon _ _ _ (State.setFld_canon _ _ _ _ ?_) (by simp only [List.length_append, List.length_singleton]; omega)
        split
        · exact hc
        · exact State.satAdd_canon _ _ _ _ (State.lbxFlag_canon _ _ _ hc)

theorem execLetterboxPost_canon (k : Fin 32) (d : Fin 2) (p : BitVec 16) {s : State} (hc : s.Held pq) :
    canonR pq (execLetterboxPost k d p s) := by
  unfold execLetterboxPost
  with_reducible repeat' first | assumption | apply canonR_next | apply State.lbxPost_canon

theorem State.lbxAck_canon {s : State} (k d p : Nat) (hc : s.Held pq) : (s.lbxAck k d p).Held pq := by
  unfold State.lbxAck
  dsimp only
  split
  · exact hc
  · split
    · refine State.setRing_canon _ _ _ (State.setFld_canon _ _ _ _ hc) ?_
      exact Nat.le_trans (List.drop_sublist _ _).length_le (Nat.le_trans (List.dropWhile_suffix _).length_le (State.ring_len k d hc))
    · exact State.lbxFlag_canon _ _ _ hc

theorem execLetterboxAck_canon (k : Fin 32) (d : Fin 2) (p : BitVec 16) {s : State} (hc : s.Held pq) :
    canonR pq (execLetterboxAck k d p s) := by
  unfold execLetterboxAck
  with_reducible repeat' first | assumption | apply canonR_next | apply State.lbxAck_canon

theorem State.lbxOff_canon {s : State} (k : Nat) (hc : s.Held pq) : (s.lbxOff k).Held pq := by
  unfold State.lbxOff
  exact State.setRing_canon _ _ _ (State.setRing_canon _ _ _ (State.setReg_canon _ _ (State.setReg_canon _ _ hc)) (by decide)) (by decide)

theorem State.lbxCfgWrite_canon {s : State} (k : Nat) (v : Word) (hc : s.Held pq) :
    (State.lbxCfgWrite s k v).Held pq := by
  unfold State.lbxCfgWrite
  with_reducible repeat' first | assumption | intro _ | apply State.lbxOff_canon | apply State.lbxSync_canon | apply State.setFlag_canon | apply State.unitWrite_canon | apply State.whenOn_canon

theorem execLetterboxEnable_canon (k : Fin 32) (v : BitVec 32) {s : State} (hc : s.Held pq) :
    canonR pq (execLetterboxEnable k v s) := by
  unfold execLetterboxEnable
  with_reducible repeat' first | assumption | apply canonR_next | apply State.lbxCfgWrite_canon

theorem State.hpLine_canon {s : State} (hc : s.Held pq) :
    (State.hpLine s).Held pq := by
  unfold State.hpLine
  with_reducible repeat' first | assumption | apply State.setLine_canon

theorem State.hpFlag_canon {s : State} (b : Nat) (hc : s.Held pq) :
    (State.hpFlag s b).Held pq := by
  unfold State.hpFlag
  with_reducible repeat' first | assumption | apply State.hpLine_canon | apply State.setFlag_canon

theorem State.hpCtrlWrite_canon {s : State} (v : Word) (hc : s.Held pq) :
    (State.hpCtrlWrite s v).Held pq := by
  unfold State.hpCtrlWrite
  with_reducible repeat' first | assumption | intro _ | apply State.setFlag_canon | apply State.unitWrite_canon | apply State.whenOn_canon | apply canon_id

theorem execHostPortEnable_canon (v : BitVec 32) {s : State} (hc : s.Held pq) :
    canonR pq (execHostPortEnable v s) := by
  unfold execHostPortEnable
  with_reducible repeat' first | assumption | apply canonR_next | apply State.hpCtrlWrite_canon

theorem State.hpWinWrite_canon {s : State} (n : Nat) (v : Word) (mgmt : Bool) (hc : s.Held pq) :
    (State.hpWinWrite s n v mgmt).Held pq := by
  unfold State.hpWinWrite
  with_reducible repeat' first | assumption | apply State.cfgFail_canon | apply State.cfgOk_canon | apply State.setFlag_canon | apply State.setReg_canon | dsimp only | split

theorem execHostWindowWrite_canon (n : Fin 256) (v : BitVec 32) (mgmt : Bool) {s : State} (hc : s.Held pq) :
    canonR pq (execHostWindowWrite n v mgmt s) := by
  unfold execHostWindowWrite
  with_reducible repeat' first | assumption | apply canonR_next | apply State.hpWinWrite_canon | split

theorem State.bar0Write_canon {s : State} (v : Word) (mgmt : Bool) (hc : s.Held pq) :
    (State.bar0Write s v mgmt).Held pq := by
  unfold State.bar0Write
  with_reducible repeat' first | assumption | apply canon_ite | apply State.setFlag_canon | apply State.setReg_canon

theorem State.resync_canon {s : State} (hc : s.Held pq) :
    (State.resync s).Held pq := by
  unfold State.resync
  with_reducible repeat' first | assumption | apply State.setFlag_canon

theorem execResync_canon {s : State} (hc : s.Held pq) :
    canonR pq (execResync s) := by
  unfold execResync
  with_reducible repeat' first | assumption | apply canonR_next | apply State.resync_canon | split

theorem State.setHpq_canon {s : State} (q : List HostWrite) (hc : s.Held pq) (hq : q.length ≤ 64) : (s.setHpq q).Held pq :=
  State.setFld_canon _ _ _ _ ⟨hc.regs, hc.bytes, hc.trace, hc.rings, hq, hc.aq, hc.queue⟩

theorem execHostWrite_canon (ha : BitVec 24) (be : BitVec 4) (data : BitVec 32) {s : State} (hc : s.Held pq) :
    canonR pq (execHostWrite ha be data s) := by
  unfold execHostWrite
  dsimp only
  split
  · exact canonR_next hc
  · split
    · exact canonR_next (State.resync_canon hc)
    · split
      · exact canonR_next (State.satInc_canon _ _ _ (State.hpFlag_canon _ (State.setFlag_canon _ _ _ hc)))
      · rename_i h
        refine canonR_next (State.setHpq_canon _ hc ?_)
        simp only [Bool.or_eq_true, decide_eq_true_eq, not_or] at h
        simp only [List.length_append, List.length_singleton]; omega

theorem State.setMac_canon {s : State} (m : Nat) (r : Mac) (hc : s.Held pq) :
    (State.setMac s m r).Held pq := by
  unfold State.setMac
  with_reducible repeat' first | assumption | (fail_if_no_progress refine canon_mk ?_ rfl rfl rfl rfl rfl rfl rfl)

theorem State.macSync_canon {s : State} (m : Nat) (hc : s.Held pq) :
    (State.macSync s m).Held pq := by
  unfold State.macSync
  with_reducible repeat' first | assumption | apply State.setMac_canon

theorem State.macRateWrite_canon {s : State} (m : Nat) (v : Word) (hc : s.Held pq) :
    (State.macRateWrite s m v).Held pq := by
  unfold State.macRateWrite
  with_reducible repeat' first | assumption | apply State.macSync_canon | apply State.setReg_canon

theorem State.tadjLoWrite_canon {s : State} (m : Nat) (v : Word) (hc : s.Held pq) :
    (State.tadjLoWrite s m v).Held pq := by
  unfold State.tadjLoWrite
  with_reducible repeat' first | assumption | apply State.setMac_canon

theorem State.tadjHiWrite_canon {s : State} (m : Nat) (v : Word) (hc : s.Held pq) :
    (State.tadjHiWrite s m v).Held pq := by
  unfold State.tadjHiWrite
  with_reducible repeat' first | assumption | apply State.macSync_canon | apply State.setMac_canon

theorem execMacTimeAdjust_canon (m : Fin 2) (lo hi : BitVec 32) {s : State} (hc : s.Held pq) :
    canonR pq (execMacTimeAdjust m lo hi s) := by
  unfold execMacTimeAdjust
  with_reducible repeat' first | assumption | apply canonR_next | apply canon_ite | apply State.tadjHiWrite_canon | apply State.tadjLoWrite_canon

theorem State.tgtWrite_canon {s : State} (m t : Nat) (hi : Bool) (v : Word) (hc : s.Held pq) :
    (State.tgtWrite s m t hi v).Held pq := by
  unfold State.tgtWrite
  with_reducible repeat' first | assumption | apply State.setMac_canon | apply State.setReg_canon

theorem execMacTargetTime_canon (m : Fin 2) (t : Fin 4) {s : State} (hc : s.Held pq) :
    canonR pq (execMacTargetTime m t s) := by
  unfold execMacTargetTime
  with_reducible repeat' first | assumption | apply canonR_next | apply State.advanceTo_canon | apply State.raiseNow_canon | apply State.setMac_canon | split

theorem execTargetTimePulseEnd_canon (m : Fin 2) (t : Fin 4) {s : State} (hc : s.Held pq) :
    canonR pq (execTargetTimePulseEnd m t s) := by
  unfold execTargetTimePulseEnd
  with_reducible repeat' first | assumption | apply canonR_next | apply State.advanceTo_canon | apply State.setMac_canon | split

theorem execFrameReceive_canon (m : Fin 2) (len : Nat) (event bad : Bool) {s : State} (hc : s.Held pq) :
    canonR pq (execFrameReceive m len event bad s) := by
  unfold execFrameReceive
  with_reducible repeat' first | assumption | apply canonR_next | apply canonR_ite | apply State.pulseLine_canon | apply State.setMac_canon

theorem execFrameTransmit_canon (m : Fin 2) (_queue : Fin 8) (event : Bool) {s : State} (hc : s.Held pq) :
    canonR pq (execFrameTransmit m _queue event s) := by
  unfold execFrameTransmit
  with_reducible repeat' first | assumption | apply canonR_next | apply canonR_ite | apply State.pulseLine_canon | apply State.setMac_canon

theorem execCanFrameReceive_canon (n : Fin 6) (f : CanFormat) (len : Nat) {s : State} (hc : s.Held pq) :
    canonR pq (execCanFrameReceive n f len s) := by
  unfold execCanFrameReceive
  with_reducible repeat' first | assumption | apply canonR_next | apply State.pulseLine_canon | (fail_if_no_progress refine canon_mk ?_ rfl rfl rfl rfl rfl rfl rfl) | split

theorem execCanFrameTransmit_canon (n : Fin 6) (error : Bool) {s : State} (hc : s.Held pq) :
    canonR pq (execCanFrameTransmit n error s) := by
  unfold execCanFrameTransmit
  with_reducible repeat' first | assumption | apply canonR_next | apply State.pulseLine_canon | split

theorem execSerialPortTransfer_canon (u : SerialUnit) {s : State} (hc : s.Held pq) :
    canonR pq (execSerialPortTransfer u s) := by
  unfold execSerialPortTransfer
  with_reducible repeat' first | assumption | apply canonR_next | apply State.pulseLine_canon | split

theorem execPcieLinkStateChange_canon (up : Bool) (gen : Fin 4) (lanes : Fin 3) (d3hot perst : Bool) {s : State} (hc : s.Held pq) :
    canonR pq (execPcieLinkStateChange up gen lanes d3hot perst s) := by
  unfold execPcieLinkStateChange
  with_reducible repeat' first | assumption | apply canonR_next | apply State.pulseLine_canon | (fail_if_no_progress refine canon_mk ?_ rfl rfl rfl rfl rfl rfl rfl) | split

/-! Power. -/

theorem State.setDom_canon {s : State} (d : Nat) (on : Bool) (hc : s.Held pq) :
    (State.setDom s d on).Held pq := by
  unfold State.setDom
  with_reducible repeat' first | assumption | apply canon_ite | apply State.setFlag_canon

theorem State.clearRegs_canon {s : State} (lo hi : Nat) (hc : s.Held pq) : (s.clearRegs lo hi).Held pq :=
  ⟨mapWf_filter regReset _ s.regs hc.regs, hc.bytes, hc.trace, hc.rings, hc.hq, hc.aq, hc.queue⟩

theorem State.loseMem_canon {s : State} (lo hi : Nat) (hc : s.Held pq) :
    (State.loseMem s lo hi).Held pq := by
  unfold State.loseMem
  with_reducible repeat' first | assumption | apply State.wipe_canon | (fail_if_no_progress refine canon_mk ?_ rfl rfl rfl rfl rfl rfl rfl)

theorem State.loseUnits_canon {s : State} (d : Nat) (hc : s.Held pq) :
    (State.loseUnits s d).Held pq := by
  unfold State.loseUnits
  with_reducible repeat' first | assumption | apply canon_ite | apply canon_foldl | apply State.arbRelease_canon | apply State.rdSync_canon | (fail_if_no_progress refine canon_mkE ?_ rfl rfl (by first | exact .inl rfl | exact .inr rfl) (by first | exact .inl rfl | exact .inr rfl) (by first | exact .inl rfl | exact .inr rfl) (by first | exact .inl rfl | exact .inr rfl) rfl)

theorem State.dropLines_canon {s : State} (d : Nat) (hc : s.Held pq) :
    (State.dropLines s d).Held pq := by
  unfold State.dropLines
  with_reducible repeat' first | assumption | intro _ | apply canon_ite | apply canon_foldl | apply State.msixSync_canon | apply State.setLine_canon

theorem State.gateDomain_canon {s : State} (d : Nat) (hc : s.Held pq) :
    (State.gateDomain s d).Held pq := by
  unfold State.gateDomain
  with_reducible repeat' first | assumption | intro _ | apply canon_foldl | apply State.clearRegs_canon | apply State.dropLines_canon | apply State.loseMem_canon | apply State.loseUnits_canon | apply State.setDom_canon | (fail_if_no_progress refine canon_mk ?_ rfl rfl rfl rfl rfl rfl rfl)

theorem State.repairApply_canon {s : State} (hc : s.Held pq) :
    (State.repairApply s).Held pq := by
  unfold State.repairApply
  with_reducible repeat' first | assumption | intro _ | apply canon_ite | apply canon_foldl | apply State.setFlag_canon | apply State.setFld_canon | apply State.sparesSync_canon

theorem State.domctlWrite_canon {s : State} (x : Nat) (v : Word) (hc : s.Held pq) :
    (State.domctlWrite s x v).Held pq := by
  unfold State.domctlWrite
  with_reducible repeat' first | assumption | intro _ | apply canon_foldl | apply State.cfgFail_canon | apply State.cfgOk_canon | apply State.gateDomain_canon | apply State.setFlag_canon | (fail_if_no_progress refine canon_mk ?_ rfl rfl rfl rfl rfl rfl rfl) | split

theorem execDomainPowerUp_canon (x : Fin 2) (v : BitVec 32) {s : State} (hc : s.Held pq) :
    canonR pq (execDomainPowerUp x v s) := by
  unfold execDomainPowerUp
  with_reducible repeat' first | assumption | apply canonR_next | apply State.domctlWrite_canon

theorem execDomainGate_canon (x : Fin 2) (v : BitVec 32) {s : State} (hc : s.Held pq) :
    canonR pq (execDomainGate x v s) := by
  unfold execDomainGate
  with_reducible repeat' first | assumption | apply canonR_next | apply State.domctlWrite_canon

theorem State.domUsable_canon {s : State} (d : Nat) (hc : s.Held pq) :
    (State.domUsable s d).Held pq := by
  unfold State.domUsable
  with_reducible repeat' first | assumption | apply State.repairApply_canon | apply State.setDom_canon | (fail_if_no_progress refine canon_mk ?_ rfl rfl rfl rfl rfl rfl rfl)

theorem execDomainUsable_canon (d : Fin 64) {s : State} (hc : s.Held pq) :
    canonR pq (execDomainUsable d s) := by
  unfold execDomainUsable
  with_reducible repeat' first | assumption | apply canonR_next | apply State.advanceTo_canon | apply State.domUsable_canon | split

theorem State.opEnd_canon {s : State} (hc : s.Held pq) :
    (State.opEnd s).Held pq := by
  unfold State.opEnd
  with_reducible repeat' first | assumption | apply State.setFlag_canon | (fail_if_no_progress refine canon_mk ?_ rfl rfl rfl rfl rfl rfl rfl)

theorem State.opVidStep_canon {s : State} (t fop : Nat) (hc : s.Held pq) :
    (State.opVidStep s t fop).Held pq := by
  unfold State.opVidStep
  with_reducible repeat' first | assumption | apply State.setFlag_canon | apply State.setFld_canon | (fail_if_no_progress refine canon_mk ?_ rfl rfl rfl rfl rfl rfl rfl)

theorem State.opctlWrite_canon {s : State} (v : Word) (hc : s.Held pq) :
    (State.opctlWrite s v).Held pq := by
  unfold State.opctlWrite
  with_reducible repeat' first | assumption | apply canon_ite | apply State.advanceTo_canon | apply State.cfgFail_canon | apply State.cfgOk_canon | apply State.opEnd_canon | apply State.opVidStep_canon | apply State.setFlag_canon | apply State.setFld_canon

theorem execOpChange_canon (v : BitVec 32) {s : State} (hc : s.Held pq) :
    canonR pq (execOpChange v s) := by
  unfold execOpChange
  with_reducible repeat' first | assumption | apply canonR_next | apply State.opctlWrite_canon

theorem execVoltageConfirmed_canon {s : State} (hc : s.Held pq) :
    canonR pq (execVoltageConfirmed s) := by
  unfold execVoltageConfirmed
  with_reducible repeat' first | assumption | apply canonR_next | apply State.advanceTo_canon | apply State.opEnd_canon | apply State.setFlag_canon | apply State.setFld_canon | dsimp only | split

theorem execPgoodTimeout_canon {s : State} (hc : s.Held pq) :
    canonR pq (execPgoodTimeout s) := by
  unfold execPgoodTimeout
  with_reducible repeat' first | assumption | apply canonR_next | apply State.advanceTo_canon | apply State.cfgFail_canon | apply State.opEnd_canon | apply State.setFlag_canon | apply State.setFld_canon | split

theorem execPgoodLoss_canon {s : State} (hc : s.Held pq) :
    canonR pq (execPgoodLoss s) := by
  unfold execPgoodLoss
  with_reducible repeat' first | assumption | apply canonR_next | apply State.advanceTo_canon | apply State.pulseLine_canon | apply State.raiseNow_canon | apply State.setFlag_canon | apply State.setFld_canon | (fail_if_no_progress refine canon_mk ?_ rfl rfl rfl rfl rfl rfl rfl) | split

theorem State.coldKeep_canon {s : State} (hc : s.Held pq) : (s.coldKeep).Held pq :=
  ⟨mapWf_nil _, mapWf_filter memDefault _ s.mem.bytes hc.bytes, Nat.zero_le _, nofun, Nat.zero_le _, Nat.zero_le _, hc.queue⟩

theorem State.coldReset_canon {s : State} (hc : s.Held pq) :
    (State.coldReset s).Held pq := by
  unfold State.coldReset
  with_reducible repeat' first | assumption | apply State.coldKeep_canon | apply State.flashCut_canon | apply State.ledgerSync_canon

theorem State.sleepWrite_canon {s : State} (v : Word) (hc : s.Held pq) :
    (State.sleepWrite s v).Held pq := by
  unfold State.sleepWrite
  with_reducible repeat' first | assumption | apply State.cfgFail_canon | apply State.cfgOk_canon | apply State.coldReset_canon | apply State.setFld_canon | (fail_if_no_progress refine canon_mk ?_ rfl rfl rfl rfl rfl rfl rfl) | dsimp only | split

theorem execCrocusEntry_canon {s : State} (hc : s.Held pq) :
    canonR pq (execCrocusEntry s) := by
  unfold execCrocusEntry
  with_reducible repeat' first | assumption | apply canonR_next | apply State.sleepWrite_canon

theorem execSnowdropEntry_canon {s : State} (hc : s.Held pq) :
    canonR pq (execSnowdropEntry s) := by
  unfold execSnowdropEntry
  with_reducible repeat' first | assumption | apply canonR_next | apply State.sleepWrite_canon

theorem execOffEntry_canon {s : State} (hc : s.Held pq) :
    canonR pq (execOffEntry s) := by
  unfold execOffEntry
  with_reducible repeat' first | assumption | apply canonR_next | apply State.sleepWrite_canon

theorem State.pllStop_canon {s : State} (hc : s.Held pq) :
    (State.pllStop s).Held pq := by
  unfold State.pllStop
  with_reducible repeat' first | assumption | apply State.setReg_canon | (fail_if_no_progress refine canon_mk ?_ rfl rfl rfl rfl rfl rfl rfl)

theorem State.gapStart_canon {s : State} (hc : s.Held pq) :
    (State.gapStart s).Held pq := by
  unfold State.gapStart
  with_reducible repeat' first | assumption | apply State.setFlag_canon | apply State.setFld_canon

theorem State.holdPads_canon {s : State} (hc : s.Held pq) :
    (State.holdPads s).Held pq := by
  unfold State.holdPads
  with_reducible repeat' first | assumption | apply State.setFld_canon | (fail_if_no_progress refine canon_mk ?_ rfl rfl rfl rfl rfl rfl rfl)

theorem execSleepPairsStopped_canon {s : State} (hc : s.Held pq) :
    canonR pq (execSleepPairsStopped s) := by
  unfold execSleepPairsStopped
  with_reducible repeat' first | assumption | apply canonR_next | apply State.gapStart_canon | apply State.holdPads_canon | apply State.pllStop_canon | apply State.setFld_canon | apply State.setReg_canon | (fail_if_no_progress refine canon_mk ?_ rfl rfl rfl rfl rfl rfl rfl) | split

theorem State.sleepTicks_canon {s : State} (n : Nat) (hc : s.Held pq) :
    (State.sleepTicks s n).Held pq := by
  unfold State.sleepTicks
  with_reducible repeat' first | assumption | apply State.satAdd_canon | (fail_if_no_progress refine canon_mk ?_ rfl rfl rfl rfl rfl rfl rfl) | split

theorem State.sleepResume_canon {s : State} (hc : s.Held pq) :
    (State.sleepResume s).Held pq := by
  unfold State.sleepResume
  with_reducible repeat' first | assumption | apply canon_foldl | apply State.rdSync_canon | (fail_if_no_progress refine canon_mk ?_ rfl rfl rfl rfl rfl rfl rfl)

theorem State.wakeBegin_canon {s : State} (src : Nat) (hc : s.Held pq) :
    (State.wakeBegin s src).Held pq := by
  unfold State.wakeBegin
  with_reducible repeat' first | assumption | apply State.setFld_canon | (fail_if_no_progress refine canon_mk ?_ rfl rfl rfl rfl rfl rfl rfl)

theorem execWakeEvent_canon (src : Fin 5) (ticks : Nat) {s : State} (hc : s.Held pq) :
    canonR pq (execWakeEvent src ticks s) := by
  unfold execWakeEvent
  with_reducible repeat' first | assumption | apply canonR_next | apply State.coldReset_canon | apply State.setFlag_canon | apply State.setFld_canon | apply State.sleepResume_canon | apply State.sleepTicks_canon | apply State.wakeBegin_canon | (fail_if_no_progress refine canon_mk ?_ rfl rfl rfl rfl rfl rfl rfl) | dsimp only | split

theorem execSnowdropTimer_canon (ticks : Nat) {s : State} (hc : s.Held pq) :
    canonR pq (execSnowdropTimer ticks s) := by
  unfold execSnowdropTimer
  with_reducible repeat' first | assumption | apply canonR_next | apply canonR_ite | apply State.sleepTicks_canon | apply State.wakeBegin_canon

theorem execWakeComplete_canon {s : State} (hc : s.Held pq) :
    canonR pq (execWakeComplete s) := by
  unfold execWakeComplete
  with_reducible repeat' first | assumption | apply canonR_next | apply State.pulseLine_canon | apply State.raiseNow_canon | apply State.setFld_canon | apply State.setReg_canon | apply State.sleepResume_canon | (fail_if_no_progress refine canon_mk ?_ rfl rfl rfl rfl rfl rfl rfl) | split

theorem execX32okFall_canon (ticks : Nat) {s : State} (hc : s.Held pq) :
    canonR pq (execX32okFall ticks s) := by
  unfold execX32okFall
  with_reducible repeat' first | assumption | apply canonR_next | apply State.gapStart_canon | apply State.setFlag_canon | apply State.sleepTicks_canon | split

theorem execCrocusSamplingWake_canon (ticks : Nat) {s : State} (hc : s.Held pq) :
    canonR pq (execCrocusSamplingWake ticks s) := by
  unfold execCrocusSamplingWake
  with_reducible repeat' first | assumption | intro _ | apply canonR_next | apply canonR_ite | apply canon_foldl | apply State.modInc_canon | apply State.setDom_canon | apply State.sleepTicks_canon | apply State.winOff_canon | (fail_if_no_progress refine canon_mk ?_ rfl rfl rfl rfl rfl rfl rfl)

theorem State.crocusRing_canon {s : State} (slice n : Nat) (codes : List (BitVec 4)) (hc : s.Held pq) :
    (State.crocusRing s slice n codes).Held pq := by
  unfold State.crocusRing
  with_reducible repeat' first | assumption | apply State.setSlice_canon

theorem State.crocusRound_canon {s : State} (codes : List CrocusCodes) (n : Nat) (hit : Option Nat) (hc : s.Held pq) :
    (State.crocusRound s codes n hit).1.Held pq := by
  unfold State.crocusRound
  with_reducible repeat' first | assumption | intro _ | apply canonP_ite | apply canon_foldl | apply canonP_foldl | apply State.crocusRing_canon | apply State.putFast_canon | apply State.winEval_canon

theorem State.crocusEnd_canon {s : State} (before : SMap Slice) (g : Nat) (hit : Option Nat) (hc : s.Held pq) :
    (State.crocusEnd s before g hit).Held pq := by
  unfold State.crocusEnd
  with_reducible repeat' first | assumption | intro _ | apply canon_foldl | apply State.setFld_canon | apply State.setSlice_canon | (fail_if_no_progress refine canon_mk ?_ rfl rfl rfl rfl rfl rfl rfl) | split

theorem execCrocusDecision_canon (codes : List CrocusCodes) (ticks : Nat) {s : State} (hc : s.Held pq) :
    canonR pq (execCrocusDecision codes ticks s) := by
  unfold execCrocusDecision
  with_reducible repeat' first | assumption | intro _ | apply canonR_next | apply canonP_foldl | apply State.crocusEnd_canon | apply State.crocusRound_canon | apply State.setDom_canon | apply State.sleepTicks_canon | apply State.wakeBegin_canon | dsimp only | split

theorem State.padrelWrite_canon {s : State} (v : Word) (hc : s.Held pq) :
    (State.padrelWrite s v).Held pq := by
  unfold State.padrelWrite
  with_reducible repeat' first | assumption | intro _ | apply canon_foldl | apply State.cfgFail_canon | apply State.cfgOk_canon | apply State.setFlag_canon | split

theorem execPadRelease_canon (v : BitVec 32) {s : State} (hc : s.Held pq) :
    canonR pq (execPadRelease v s) := by
  unfold execPadRelease
  with_reducible repeat' first | assumption | apply canonR_next | apply State.padrelWrite_canon

theorem State.pmWrite_canon {s : State} (a : Nat) (v : Word) (hc : s.Held pq) :
    (State.pmWrite s a v).Held pq := by
  unfold State.pmWrite
  with_reducible repeat' first | assumption | apply State.store_canon

/-! Access. -/

theorem State.flashAccess_canon {s : State} (m : Master) (a n : Nat) (hc : s.Held pq) :
    (State.flashAccess s m a n).1.Held pq := by
  unfold State.flashAccess
  with_reducible repeat' first | assumption | apply State.flashRead_canon | apply State.xoViolation_canon | (apply canonP_of_eq; assumption) | split

theorem State.cellAccess_canon {s : State} (c a n : Nat) (hc : s.Held pq) :
    (State.cellAccess s c a n).1.Held pq := by
  unfold State.cellAccess
  with_reducible repeat' first | assumption | apply State.lcCorrected_canon | (fail_if_no_progress refine canon_mk ?_ rfl rfl rfl rfl rfl rfl rfl) | dsimp only | split

theorem State.readPiece_canon {s : State} (m : Master) (a n ext : Nat) (hc : s.Held pq) : (State.readPiece s m a n ext).1.Held pq := by
  unfold State.readPiece
  lift_lets -underBinder
  intro x
  have hx : ∀ r : State × MemRes, r.1.Held pq → (x r).1.Held pq := by
    rintro ⟨t, r⟩ h
    cases r <;> exact h
  clear_value x
  with_reducible repeat' first | assumption | apply canonP_ite | apply State.cellAccess_canon | apply State.flashAccess_canon | apply State.ledgerReadBytes_canon | apply State.msSettle_canon | apply State.pageCheck_canon | apply State.tcmRead_canon | apply_assumption | (apply canonP_of_eq; assumption) | split

theorem State.writePiece_canon {s : State} (m : Master) (a n v : Nat) (hc : s.Held pq) : (State.writePiece s m a n v).1.Held pq := by
  unfold State.writePiece
  lift_lets -underBinder
  intro x
  have hx : ∀ r : State × Bool, r.1.Held pq → (x r).1.Held pq := fun r h => h
  clear_value x
  with_reducible repeat' first | assumption | apply canonP_ite | apply State.lcWindowWrite_canon | apply State.ledgerWrite_canon | apply State.msWindowWrite_canon | apply State.pageWrite_canon | apply State.tcmWrite_canon | apply State.untag_canon | apply_assumption | split

theorem State.memRead_canon {s : State} (m : Master) (a n ext : Nat) (hc : s.Held pq) :
    (State.memRead s m a n ext).1.Held pq := by
  unfold State.memRead
  with_reducible repeat' first | assumption | intro _ | apply canon_foldl | apply canonP_foldl | apply State.readPiece_canon

theorem State.memWrite_canon {s : State} (m : Master) (a n v : Nat) (hc : s.Held pq) :
    (State.memWrite s m a n v).1.Held pq := by
  unfold State.memWrite
  with_reducible repeat' first | assumption | intro _ | apply canon_foldl | apply canonP_foldl | apply State.writePiece_canon

/-! Mcode. -/

theorem State.armDone_canon {s : State} (hc : s.Held pq) :
    (State.armDone s).Held pq := by
  unfold State.armDone
  with_reducible repeat' first | assumption | intro _ | apply canon_ite | apply canon_foldl | apply State.arbRelease_canon | apply State.setFlag_canon | (fail_if_no_progress refine canon_mk ?_ rfl rfl rfl rfl rfl rfl rfl)

theorem State.armWrite_canon {s : State} (v : Word) (hc : s.Held pq) :
    (State.armWrite s v).Held pq := by
  unfold State.armWrite
  with_reducible repeat' first | assumption | apply State.armDone_canon | apply State.cfgFail_canon | apply State.cfgOk_canon | apply State.setFlag_canon | apply State.setFld_canon | dsimp only | split

theorem State.mcodeWrite_canon {s : State} (a : Nat) (v : Word) (mgmt : Bool) (hc : s.Held pq) :
    (State.mcodeWrite s a v mgmt).Held pq := by
  unfold State.mcodeWrite
  with_reducible repeat' first | assumption | apply State.armWrite_canon | apply State.cfgFail_canon | apply State.setFlag_canon | apply State.setWord_canon | apply State.store_canon | split

theorem execPatchArm_canon (v : BitVec 32) (mgmt : Bool) {s : State} (hc : s.Held pq) :
    canonR pq (execPatchArm v mgmt s) := by
  unfold execPatchArm
  with_reducible repeat' first | assumption | apply canonR_next | apply State.mcodeWrite_canon

theorem execPatchCancel_canon (v : BitVec 32) (mgmt : Bool) {s : State} (hc : s.Held pq) :
    canonR pq (execPatchCancel v mgmt s) := by
  unfold execPatchCancel
  with_reducible repeat' first | assumption | apply canonR_next | apply State.mcodeWrite_canon

theorem State.patchPut_canon {s : State} (k : Nat) (patch : SMap Word) (ver : Nat) (dig : Word) (hc : s.Held pq) :
    (State.patchPut s k patch ver dig).Held pq := by
  unfold State.patchPut
  with_reducible repeat' first | assumption | intro _ | apply canon_foldl | apply State.onCore_canon | apply State.setFld_canon | apply State.setReg_canon

theorem State.patchEnd_canon {s : State} (k : Nat) (ok : Bool) (hc : s.Held pq) : (State.patchEnd s k ok).Held pq := by
  unfold State.patchEnd
  with_reducible repeat' first | assumption | intro _ | apply canon_foldl | apply State.armDone_canon | apply State.onCore_canon | apply State.patchPut_canon | apply State.setFlag_canon | (fail_if_no_progress refine canon_mk ?_ rfl rfl rfl rfl rfl rfl rfl) | split

theorem execPatchInstall_canon (n : Fin 4) (ok : Bool) {s : State} (hc : s.Held pq) :
    canonR pq (execPatchInstall n ok s) := by
  unfold execPatchInstall
  with_reducible repeat' first | assumption | apply canonR_next | apply State.advanceTo_canon | apply State.patchEnd_canon | split

/-! Image. -/

theorem State.imgRead_canon {s : State} (a n : Nat) (hc : s.Held pq) :
    (State.imgRead s a n).1.Held pq := by
  unfold State.imgRead
  with_reducible repeat' first | assumption | intro _ | apply canonP_foldl | apply State.flashDecode_canon | apply State.memRead_canon | apply State.setFlag_canon | (apply canonP_of_eq; assumption) | dsimp only | split

theorem State.imgVerify_canon {s : State} (addr kind : Nat) (hc : s.Held pq) :
    (State.imgVerify s addr kind).1.Held pq := by
  unfold State.imgVerify
  with_reducible repeat' first | assumption | apply State.imgRead_canon | (apply canonP_of_eq; assumption) | dsimp only | split

theorem State.loadSegs_canon {s : State} (i : Img) (hc : s.Held pq) :
    (State.loadSegs s i).Held pq := by
  unfold State.loadSegs
  with_reducible repeat' first | assumption | intro _ | apply canon_ite | apply canon_foldl | apply State.mcodeWrite_canon | apply State.memWrite_canon | apply State.setBytes_canon

/-! Manage. -/

theorem State.setPhase_canon {s : State} (p : Nat) (hc : s.Held pq) :
    (State.setPhase s p).Held pq := by
  unfold State.setPhase
  with_reducible repeat' first | assumption | apply canon_ite | apply State.pertClear_canon | apply State.pulseLine_canon | apply State.raiseNow_canon | apply State.setFld_canon | (fail_if_no_progress refine canon_mk ?_ rfl rfl rfl rfl rfl rfl rfl)

theorem execPermitExpiry_canon {s : State} (hc : s.Held pq) :
    canonR pq (execPermitExpiry s) := by
  unfold execPermitExpiry
  with_reducible repeat' first | assumption | apply canonR_next | apply State.advanceTo_canon | apply State.setPhase_canon | split

theorem State.mreqRefuse_canon {s : State} (code conf : Nat) (hc : s.Held pq) :
    (State.mreqRefuse s code conf).Held pq := by
  unfold State.mreqRefuse
  with_reducible repeat' first | assumption | apply State.cfgFail_canon | apply State.setReg_canon

theorem State.mreqWrite_canon {s : State} (v : Word) (mgmt : Bool) (hc : s.Held pq) :
    (State.mreqWrite s v mgmt).Held pq := by
  unfold State.mreqWrite
  with_reducible repeat' first | assumption | apply State.arbRequest_canon | apply State.cfgFail_canon | apply State.cfgOk_canon | apply State.mreqRefuse_canon | (apply canonQ_of_eq; assumption) | dsimp only | split

theorem execMaintRequest_canon (v : BitVec 32) (mgmt : Bool) {s : State} (hc : s.Held pq) :
    canonR pq (execMaintRequest v mgmt s) := by
  unfold execMaintRequest
  with_reducible repeat' first | assumption | apply canonR_next | apply State.mreqWrite_canon

theorem State.mrelWrite_canon {s : State} (v : Word) (hc : s.Held pq) :
    (State.mrelWrite s v).Held pq := by
  unfold State.mrelWrite
  with_reducible repeat' first | assumption | apply State.arbRelease_canon | apply State.cfgOk_canon | apply State.mreqRefuse_canon | dsimp only | split

theorem execMaintRelease_canon (v : BitVec 32) {s : State} (hc : s.Held pq) :
    canonR pq (execMaintRelease v s) := by
  unfold execMaintRelease
  with_reducible repeat' first | assumption | apply canonR_next | apply State.mrelWrite_canon

theorem State.patchArm_canon {s : State} (r : PatchReq) (hc : s.Held pq) :
    (State.patchArm s r).1.Held pq := by
  unfold State.patchArm
  with_reducible repeat' first | assumption | apply State.arbRelease_canon | apply State.imgVerify_canon | apply State.loadSegs_canon | apply State.mcodeWrite_canon | (apply canonP_of_eq; assumption) | (fail_if_no_progress refine canon_mk ?_ rfl rfl rfl rfl rfl rfl rfl) | dsimp only | split

theorem State.svcResult_canon {s : State} (code detail : Nat) (hc : s.Held pq) :
    (State.svcResult s code detail).Held pq := by
  unfold State.svcResult
  with_reducible repeat' first | assumption | (fail_if_no_progress refine canon_mk ?_ rfl rfl rfl rfl rfl rfl rfl)

theorem State.granted_canon {s : State} (t : Ticket) (hc : s.Held pq) :
    (State.granted s t).Held pq := by
  unfold State.granted
  with_reducible repeat' first | assumption | apply State.flashGrant_canon | apply State.patchArm_canon | apply State.scrubBegin_canon | apply State.setFlag_canon | apply State.setFld_canon | apply State.setPair_canon | apply State.svcResult_canon | dsimp only | split

theorem execArbiterGrant_canon {s : State} (hc : s.Held pq) : canonR pq (execArbiterGrant s) := by
  unfold execArbiterGrant
  split
  · exact canonR_next hc
  · refine canonR_next (State.granted_canon _ (State.raiseNow_canon _ (State.pulseLine_canon _ (State.arbSync_canon ?_))))
    exact ⟨hc.regs, hc.bytes, hc.trace, hc.rings, hc.hq, Nat.le_trans (List.length_filter_le _ _) hc.aq, hc.queue⟩

theorem execLedgerCompactEnd_canon {s : State} (hc : s.Held pq) :
    canonR pq (execLedgerCompactEnd s) := by
  unfold execLedgerCompactEnd
  with_reducible repeat' first | assumption | apply canonR_next | apply State.arbRelease_canon | split

theorem State.svcPut_canon {s : State} (v n : Nat) (hc : s.Held pq) :
    (State.svcPut s v n).Held pq := by
  unfold State.svcPut
  with_reducible repeat' first | assumption | intro _ | apply canon_foldl | apply State.setReg_canon

theorem State.svcStarted_canon {s : State} (op : Nat) (hc : s.Held pq) : (State.svcStarted s op).Held pq := by
  unfold State.svcStarted
  with_reducible repeat' first | assumption | apply State.setFlag_canon | apply State.setFld_canon | (fail_if_no_progress refine canon_mk ?_ rfl rfl rfl rfl rfl rfl rfl)

theorem State.svcStart_canon {s : State} (op : Nat) (f : State → State) (hc : s.Held pq) (hcf : ∀ t : State, t.Held pq → (f t).Held pq) :
    (State.svcStart s op f).Held pq := by
  unfold State.svcStart
  with_reducible repeat' first | assumption | apply canon_ite | apply hcf | apply State.cfgFail_canon | apply State.svcStarted_canon

theorem State.svcImage_canon {s : State} (a kind : Nat) (f : State → Img → State) (hc : s.Held pq) (hcf : ∀ (t : State) (a : Img), t.Held pq → (f t a).Held pq) :
    (State.svcImage s a kind f).Held pq := by
  unfold State.svcImage
  with_reducible repeat' first | assumption | apply hcf | apply State.imgVerify_canon | apply State.svcResult_canon | (apply canonP_of_eq; assumption) | split

theorem State.setsBytes_canon {s : State} (hc : s.Held pq) :
    (State.setsBytes s).1.Held pq := by
  unfold State.setsBytes
  with_reducible repeat' first | assumption | intro _ | apply canonP_foldl | apply State.setRecord_canon | (apply canonP_of_eq; assumption) | split

theorem State.reportBytes_canon {s : State} (nonce : Nat) (hc : s.Held pq) :
    (State.reportBytes s nonce).1.Held pq := by
  unfold State.reportBytes
  with_reducible repeat' first | assumption | apply State.setsBytes_canon

theorem State.attest_canon {s : State} (hc : s.Held pq) :
    (State.attest s).Held pq := by
  unfold State.attest
  with_reducible repeat' first | assumption | apply State.reportBytes_canon | apply State.svcPut_canon | apply State.tick_canon

theorem execAttest_canon {s : State} (hc : s.Held pq) :
    canonR pq (execAttest s) := by
  unfold execAttest
  with_reducible repeat' first | assumption | apply canonR_next | apply State.attest_canon | apply State.svcStart_canon

theorem State.idKey_canon {s : State} (hc : s.Held pq) :
    (State.idKey s).Held pq := by
  unfold State.idKey
  with_reducible repeat' first | assumption | apply State.svcPut_canon

theorem execIdkey_canon {s : State} (hc : s.Held pq) :
    canonR pq (execIdkey s) := by
  unfold execIdkey
  with_reducible repeat' first | assumption | apply canonR_next | apply State.idKey_canon | apply State.svcStart_canon

theorem State.svnBlow_canon {s : State} (n : Nat) (hc : s.Held pq) :
    (State.svnBlow s n).Held pq := by
  unfold State.svnBlow
  with_reducible repeat' first | assumption | apply canon_ite | apply State.setBytes_canon

theorem State.svnAdvance_canon {s : State} (hc : s.Held pq) :
    (State.svnAdvance s).Held pq := by
  unfold State.svnAdvance
  with_reducible repeat' first | assumption | apply canon_ite | apply State.setDword_canon | apply State.svnBlow_canon

theorem execSvnAdvance_canon {s : State} (hc : s.Held pq) :
    canonR pq (execSvnAdvance s) := by
  unfold execSvnAdvance
  with_reducible repeat' first | assumption | apply canonR_next | apply State.svcStart_canon | apply State.svnAdvance_canon

theorem State.revoke_canon {s : State} (hc : s.Held pq) :
    (State.revoke s).Held pq := by
  unfold State.revoke
  with_reducible repeat' first | assumption | intro _ | apply canon_ite | apply State.setByte_canon | apply State.svcImage_canon | apply State.svcResult_canon

theorem execRevoke_canon {s : State} (hc : s.Held pq) :
    canonR pq (execRevoke s) := by
  unfold execRevoke
  with_reducible repeat' first | assumption | apply canonR_next | apply State.revoke_canon | apply State.svcStart_canon

theorem State.phaseCmd_canon {s : State} (hc : s.Held pq) :
    (State.phaseCmd s).Held pq := by
  unfold State.phaseCmd
  with_reducible repeat' first | assumption | intro _ | apply canon_ite | apply State.setPhase_canon | apply State.svcImage_canon | apply State.svcResult_canon | (fail_if_no_progress refine canon_mk ?_ rfl rfl rfl rfl rfl rfl rfl)

theorem execPhase_canon {s : State} (hc : s.Held pq) :
    canonR pq (execPhase s) := by
  unfold execPhase
  with_reducible repeat' first | assumption | apply canonR_next | apply State.phaseCmd_canon | apply State.svcStart_canon

theorem State.liveRelease_canon {s : State} (l : LiveUpdate) (hc : s.Held pq) :
    (State.liveRelease s l).Held pq := by
  unfold State.liveRelease
  with_reducible repeat' first | assumption | intro _ | apply canon_ite | apply canon_foldl | apply State.loadSegs_canon | apply State.releasePair_canon | apply State.svcImage_canon | (fail_if_no_progress refine canon_mk ?_ rfl rfl rfl rfl rfl rfl rfl)

theorem State.liveUpd_canon {s : State} (hc : s.Held pq) :
    (State.liveUpd s).Held pq := by
  unfold State.liveUpd
  with_reducible repeat' first | assumption | intro _ | apply canon_ite | apply State.liveRelease_canon | apply State.svcImage_canon | (fail_if_no_progress refine canon_mk ?_ rfl rfl rfl rfl rfl rfl rfl)

theorem execLiveupd_canon {s : State} (hc : s.Held pq) :
    canonR pq (execLiveupd s) := by
  unfold execLiveupd
  with_reducible repeat' first | assumption | apply canonR_next | apply State.liveUpd_canon | apply State.svcStart_canon

theorem execLiveupdPairStop_canon (p : Fin 2) {s : State} (hc : s.Held pq) :
    canonR pq (execLiveupdPairStop p s) := by
  unfold execLiveupdPairStop
  with_reducible repeat' first | assumption | intro _ | apply canonR_next | apply canon_foldl | apply State.coldRestart_canon | apply State.liveRelease_canon | apply State.onCore_canon | (fail_if_no_progress refine canon_mk ?_ rfl rfl rfl rfl rfl rfl rfl) | dsimp only | split

theorem State.bankSwap_canon {s : State} (hc : s.Held pq) :
    (State.bankSwap s).Held pq := by
  unfold State.bankSwap
  with_reducible repeat' first | assumption | intro _ | apply State.setDword_canon | apply State.svcImage_canon

theorem execBankswap_canon {s : State} (hc : s.Held pq) :
    canonR pq (execBankswap s) := by
  unfold execBankswap
  with_reducible repeat' first | assumption | apply canonR_next | apply State.bankSwap_canon | apply State.svcStart_canon

theorem State.loadCell_canon {s : State} (hc : s.Held pq) :
    (State.loadCell s).Held pq := by
  unfold State.loadCell
  with_reducible repeat' first | assumption | intro _ | apply canon_ite | apply State.loadSegs_canon | apply State.svcImage_canon | apply State.svcResult_canon

theorem execLoadcell_canon {s : State} (hc : s.Held pq) :
    canonR pq (execLoadcell s) := by
  unfold execLoadcell
  with_reducible repeat' first | assumption | apply canonR_next | apply State.loadCell_canon | apply State.svcStart_canon

theorem State.loadMap_canon {s : State} (hc : s.Held pq) :
    (State.loadMap s).Held pq := by
  unfold State.loadMap
  with_reducible repeat' first | assumption | apply State.loadSegs_canon | apply State.svcImage_canon

theorem execLoadmap_canon {s : State} (hc : s.Held pq) :
    canonR pq (execLoadmap s) := by
  unfold execLoadmap
  with_reducible repeat' first | assumption | apply canonR_next | apply State.loadMap_canon | apply State.svcStart_canon

theorem State.patchRequest_canon {s : State} (image p : Nat) (hc : s.Held pq) :
    (State.patchRequest s image p).Held pq := by
  unfold State.patchRequest
  with_reducible repeat' first | assumption | apply State.arbRequest_canon | apply State.patchArm_canon | apply State.svcResult_canon | (apply canonQ_of_eq; assumption) | (fail_if_no_progress refine canon_mk ?_ rfl rfl rfl rfl rfl rfl rfl) | dsimp only | split

theorem State.loadMcode_canon {s : State} (hc : s.Held pq) :
    (State.loadMcode s).Held pq := by
  unfold State.loadMcode
  with_reducible repeat' first | assumption | intro _ | apply canon_foldl | apply State.patchRequest_canon | apply State.svcImage_canon

theorem execLoadmcode_canon {s : State} (hc : s.Held pq) :
    canonR pq (execLoadmcode s) := by
  unfold execLoadmcode
  with_reducible repeat' first | assumption | apply canonR_next | apply State.loadMcode_canon | apply State.svcStart_canon

theorem ImgRes.load_canon (r : ImgRes) {s : State} (hc : s.Held pq) :
    (ImgRes.load r s).1.Held pq := by
  unfold ImgRes.load
  with_reducible repeat' first | assumption | apply State.loadSegs_canon | apply State.setFld_canon | (fail_if_no_progress refine canon_mk ?_ rfl rfl rfl rfl rfl rfl rfl) | split

theorem State.mgfwTry_canon {s : State} (b : Nat) (hc : s.Held pq) : (s.mgfwTry b).1.Held pq := by
  rw [show s.mgfwTry b = (s.imgVerify (mgfwAddr b) 1).2.load (s.imgVerify (mgfwAddr b) 1).1 from rfl]
  exact ImgRes.load_canon _ (State.imgVerify_canon _ _ hc)

theorem State.mgfwLoad_canon {s : State} (hc : s.Held pq) : (s.mgfwLoad).1.Held pq := by
  have h : ∀ (r : State × Bool) (b : Nat), r.1.Held pq → (if r.2 then r else r.1.mgfwTry b).1.Held pq := by
    intro r b hr
    split
    · exact hr
    · exact State.mgfwTry_canon _ hr
  rw [show s.mgfwLoad = if (s.mgfwTry (bit (s.flag (Reg.FC_STAT 0) 8))).2 then s.mgfwTry (bit (s.flag (Reg.FC_STAT 0) 8))
    else (s.mgfwTry (bit (s.flag (Reg.FC_STAT 0) 8))).1.mgfwTry (1 - bit (s.flag (Reg.FC_STAT 0) 8)) from rfl]
  exact h _ _ (State.mgfwTry_canon _ hc)

theorem State.mgReset_canon {s : State} (hc : s.Held pq) : (s.mgReset).Held pq := by
  unfold State.mgReset
  have h := State.imgVerify_canon mgmtRam 1 hc
  generalize s.imgVerify mgmtRam 1 = x at h ⊢
  dsimp only
  split
  · split
    · exact ImgRes.load_canon _ h
    · exact hc
  · exact State.mgfwLoad_canon (State.wipe_canon _ _ hc)

theorem execMgreload_canon {s : State} (hc : s.Held pq) :
    canonR pq (execMgreload s) := by
  unfold execMgreload
  with_reducible repeat' first | assumption | apply canonR_next | apply State.mgReset_canon | apply State.svcStart_canon

theorem State.svcAbandon_canon {s : State} (hc : s.Held pq) : (State.svcAbandon s).Held pq := by
  unfold State.svcAbandon
  with_reducible repeat' first | assumption | apply State.setFlag_canon | apply State.sleepResume_canon | (fail_if_no_progress refine canon_mk ?_ rfl rfl rfl rfl rfl rfl rfl) | split

theorem execManagementReset_canon {s : State} (hc : s.Held pq) :
    canonR pq (execManagementReset s) := by
  unfold execManagementReset
  with_reducible repeat' first | assumption | apply canonR_next | apply canon_ite | apply State.mgReset_canon | apply State.svcAbandon_canon

theorem execServiceCommandDone_canon {s : State} (hc : s.Held pq) :
    canonR pq (execServiceCommandDone s) := by
  unfold execServiceCommandDone
  with_reducible repeat' first | assumption | apply canonR_next | apply State.pulseLine_canon | apply State.setFlag_canon | apply State.setReg_canon | (fail_if_no_progress refine canon_mk ?_ rfl rfl rfl rfl rfl rfl rfl) | dsimp only | split

theorem State.svcWrite_canon {s : State} (v : Word) (hc : s.Held pq) :
    (State.svcWrite s v).Held pq := by
  unfold State.svcWrite
  with_reducible repeat' first | assumption | apply State.attest_canon | apply State.bankSwap_canon | apply State.cfgFail_canon | apply State.idKey_canon | apply State.liveUpd_canon | apply State.loadCell_canon | apply State.loadMap_canon | apply State.loadMcode_canon | apply State.mgReset_canon | apply State.phaseCmd_canon | apply State.revoke_canon | apply State.svcStart_canon | apply State.svnAdvance_canon | split

theorem State.svcDataWrite_canon {s : State} (a : Nat) (v : Word) (hc : s.Held pq) :
    (State.svcDataWrite s a v).Held pq := by
  unfold State.svcDataWrite
  with_reducible repeat' first | assumption | apply canon_ite | apply State.cfgFail_canon | apply State.setReg_canon

/-! Boot. -/

theorem State.pllStart_canon {s : State} (hc : s.Held pq) :
    (State.pllStart s).Held pq := by
  unfold State.pllStart
  with_reducible repeat' first | assumption | intro _ | apply canon_ite | apply canon_foldl | apply State.pwmResume_canon | apply State.setReg_canon | (fail_if_no_progress refine canon_mk ?_ rfl rfl rfl rfl rfl rfl rfl)

theorem execPllRootSwitch_canon (ticks : Nat) {s : State} (hc : s.Held pq) :
    canonR pq (execPllRootSwitch ticks s) := by
  unfold execPllRootSwitch
  with_reducible repeat' first | assumption | apply canonR_next | apply canonR_ite | apply State.pllStart_canon | apply State.sleepTicks_canon

theorem execLossOfLock_canon {s : State} (hc : s.Held pq) :
    canonR pq (execLossOfLock s) := by
  unfold execLossOfLock
  with_reducible repeat' first | assumption | apply canonR_next | apply canon_foldl | apply State.pllStop_canon | apply State.pwmHalt_canon | apply State.setFlag_canon | (fail_if_no_progress refine canon_mk ?_ rfl rfl rfl rfl rfl rfl rfl) | split

theorem execColdReset_canon {s : State} (hc : s.Held pq) :
    canonR pq (execColdReset s) := by
  unfold execColdReset
  with_reducible repeat' first | assumption | apply canonR_next | apply State.coldReset_canon

theorem State.warmRegs_canon {s : State} (hc : s.Held pq) : (s.warmRegs).Held pq :=
  ⟨mapWf_filter regReset _ s.regs hc.regs, hc.bytes, hc.trace, hc.rings, hc.hq, hc.aq, hc.queue⟩

theorem State.warmArb_canon {s : State} (hc : s.Held pq) : (s.warmArb).Held pq :=
  State.arbSync_canon ⟨hc.regs, hc.bytes, hc.trace, hc.rings, hc.hq, Nat.le_trans (List.length_filter_le _ _) hc.aq, hc.queue⟩

theorem State.warmReset_canon {s : State} (hc : s.Held pq) :
    (State.warmReset s).Held pq := by
  unfold State.warmReset
  with_reducible repeat' first | assumption | apply State.flashCut_canon | apply State.ledgerSync_canon | apply State.pulseLine_canon | apply State.repairApply_canon | apply State.setFlag_canon | apply State.setFld_canon | apply State.setReg_canon | apply State.warmArb_canon | apply State.warmRegs_canon | apply State.wipe_canon | (fail_if_no_progress refine canon_mkE ?_ rfl rfl (by first | exact .inl rfl | exact .inr rfl) (by first | exact .inl rfl | exact .inr rfl) (by first | exact .inl rfl | exact .inr rfl) (by first | exact .inl rfl | exact .inr rfl) rfl) | split

theorem State.bootStep_canon {s : State} (n : Nat) (hc : s.Held pq) :
    (State.bootStep s n).Held pq := by
  unfold State.bootStep
  with_reducible repeat' first | assumption | apply State.setFld_canon | (fail_if_no_progress refine canon_mk ?_ rfl rfl rfl rfl rfl rfl rfl) | split

theorem State.bankMap_canon {s : State} (hc : s.Held pq) :
    (State.bankMap s).Held pq := by
  unfold State.bankMap
  with_reducible repeat' first | assumption | apply State.setFlag_canon | apply State.setFld_canon

theorem State.bootB4_canon {s : State} (hc : s.Held pq) :
    (State.bootB4 s).Held pq := by
  unfold State.bootB4
  with_reducible repeat' first | assumption | apply canon_ite | apply State.bankMap_canon | apply State.bootStep_canon | apply State.intentScan_canon | apply State.repairLoad_canon | apply State.setDword_canon | apply State.svnBlow_canon

theorem State.recover_canon {s : State} (bare : Bool) (hc : s.Held pq) :
    (State.recover s bare).Held pq := by
  unfold State.recover
  with_reducible repeat' first | assumption | apply canon_ite | apply State.setPhase_canon | apply State.setReg_canon | (fail_if_no_progress refine canon_mk ?_ rfl rfl rfl rfl rfl rfl rfl)

theorem State.bootB6_canon {s : State} (hc : s.Held pq) :
    (State.bootB6 s).Held pq := by
  unfold State.bootB6
  with_reducible repeat' first | assumption | apply State.bootStep_canon | apply State.repairApply_canon | apply State.wipe_canon | (fail_if_no_progress refine canon_mk ?_ rfl rfl rfl rfl rfl rfl rfl)

theorem State.bootB8_canon {s : State} (pass : BitVec 4) (hc : s.Held pq) :
    (State.bootB8 s pass).Held pq := by
  unfold State.bootB8
  with_reducible repeat' first | assumption | intro _ | apply canon_ite | apply canon_foldl | apply State.bootStep_canon | apply State.repairCommit_canon | apply State.setFlag_canon | apply State.setFld_canon | (fail_if_no_progress refine canon_mk ?_ rfl rfl rfl rfl rfl rfl rfl)

theorem State.bootB9_canon {s : State} (hc : s.Held pq) :
    (State.bootB9 s).1.Held pq := by
  unfold State.bootB9
  with_reducible repeat' first | assumption | apply State.bootStep_canon | apply State.imgVerify_canon | apply State.setFlag_canon | apply State.setFld_canon | (apply canonP_of_eq; assumption) | (fail_if_no_progress refine canon_mk ?_ rfl rfl rfl rfl rfl rfl rfl) | dsimp only | split

theorem State.bootImages_canon {s : State} (b kind : Nat) (f : State → Img → State) (hc : s.Held pq) (hcf : ∀ (t : State) (a : Img), t.Held pq → (f t a).Held pq) :
    (State.bootImages s b kind f).Held pq := by
  unfold State.bootImages
  with_reducible repeat' first | assumption | intro _ | apply canon_foldl | apply hcf | apply State.imgVerify_canon | apply State.setFld_canon | (apply canonP_of_eq; assumption) | split

theorem State.bootPatch_canon {s : State} (i : Img) (hc : s.Held pq) :
    (State.bootPatch s i).Held pq := by
  unfold State.bootPatch
  with_reducible repeat' first | assumption | intro _ | apply canon_foldl | apply State.loadSegs_canon | apply State.onCore_canon | apply State.setFld_canon | apply State.setReg_canon | (fail_if_no_progress refine canon_mk ?_ rfl rfl rfl rfl rfl rfl rfl) | dsimp only | split

theorem State.bootCoeffs_canon {s : State} (hc : s.Held pq) :
    (State.bootCoeffs s).Held pq := by
  unfold State.bootCoeffs
  with_reducible repeat' first | assumption | intro _ | apply canon_foldl | apply State.setFld_canon

theorem State.bootErase_canon {s : State} (b : Nat) (hc : s.Held pq) :
    (State.bootErase s b).Held pq := by
  unfold State.bootErase
  with_reducible repeat' first | assumption | apply canon_ite | apply State.ackRecov_canon | apply State.sectorWipe_canon | apply State.setFlag_canon | apply State.setSector_canon

theorem State.bootMirrors_canon {s : State} (b : Nat) (hc : s.Held pq) :
    (State.bootMirrors s b).Held pq := by
  unfold State.bootMirrors
  with_reducible repeat' first | assumption | intro _ | apply canon_foldl | apply State.setDword_canon

theorem State.bootApp_canon {s : State} (i : Img) (hc : s.Held pq) :
    (State.bootApp s i).Held pq := by
  unfold State.bootApp
  with_reducible repeat' first | assumption | apply canon_ite | apply State.bootCoeffs_canon | apply State.bootErase_canon | apply State.bootImages_canon | apply State.bootMirrors_canon | apply State.bootPatch_canon | apply State.bootStep_canon | apply State.loadSegs_canon | apply State.releasePair_canon | apply State.setPhase_canon

theorem State.bootRest_canon {s : State} (x : BootIn) (hc : s.Held pq) :
    (State.bootRest s x).Held pq := by
  unfold State.bootRest
  with_reducible repeat' first | assumption | apply State.bootApp_canon | apply State.bootB6_canon | apply State.bootB8_canon | apply State.bootB9_canon | apply State.bootStep_canon | apply State.recover_canon | apply State.setFlag_canon | (apply canonP_of_eq; assumption) | dsimp only | split

theorem State.senseBanks_canon {s : State} (vio : BitVec 16) (hc : s.Held pq) :
    (State.senseBanks s vio).Held pq := by
  unfold State.senseBanks
  with_reducible repeat' first | assumption | intro _ | apply canon_foldl | apply State.setReg_canon

theorem State.bootStart_canon {s : State} (x : BootIn) (hc : s.Held pq) : (State.bootStart s x).Held pq := by
  unfold State.bootStart
  with_reducible repeat' first | assumption | apply State.bootStep_canon | apply State.pllStart_canon | apply State.senseBanks_canon | apply State.setFlag_canon | apply State.setFld_canon | apply State.setReg_canon | (fail_if_no_progress refine canon_mk ?_ rfl rfl rfl rfl rfl rfl rfl)

theorem execPornRelease_canon (x : BootIn) {s : State} (hc : s.Held pq) :
    canonR pq (execPornRelease x s) := by
  unfold execPornRelease
  with_reducible repeat' first | assumption | apply canonR_next | apply canonR_ite | apply State.advanceTo_canon | apply State.bootB4_canon | apply State.bootRest_canon | apply State.bootStep_canon | apply State.mgfwLoad_canon | apply State.recover_canon | apply State.setPhase_canon | apply State.bootStart_canon

theorem State.warmBoot_canon {s : State} (x : BootIn) (hc : s.Held pq) :
    (State.warmBoot s x).Held pq := by
  unfold State.warmBoot
  with_reducible repeat' first | assumption | apply State.advanceTo_canon | apply State.bootB4_canon | apply State.bootRest_canon | apply State.mgfwLoad_canon | apply State.pllStart_canon | apply State.recover_canon | apply State.senseBanks_canon | (apply canonP_of_eq; assumption) | dsimp only | split

theorem execWarmReset_canon (pin : Bool) (x : BootIn) {s : State} (hc : s.Held pq) :
    canonR pq (execWarmReset pin x s) := by
  unfold execWarmReset
  with_reducible repeat' first | assumption | apply canonR_next | apply canonR_ite | apply State.warmBoot_canon | apply State.warmReset_canon | (fail_if_no_progress refine canon_mk ?_ rfl rfl rfl rfl rfl rfl rfl)

theorem execResetnRelease_canon (x : BootIn) {s : State} (hc : s.Held pq) :
    canonR pq (execResetnRelease x s) := by
  unfold execResetnRelease
  with_reducible repeat' first | assumption | apply canonR_next | apply State.warmBoot_canon | (fail_if_no_progress refine canon_mk ?_ rfl rfl rfl rfl rfl rfl rfl) | split

theorem execPermanentReplacement_canon (n : Fin 64) (fitOfs : Int) (fitGain : BitVec 24) {s : State} (hc : s.Held pq) :
    canonR pq (execPermanentReplacement n fitOfs fitGain s) := by
  unfold execPermanentReplacement
  with_reducible repeat' first | assumption | apply canonR_next | apply State.arbRelease_canon | apply State.repairApply_canon | apply State.repairCommit_canon | apply State.setFlag_canon | apply State.setFld_canon | apply State.setGroup_canon | apply State.setSlice_canon | (fail_if_no_progress refine canon_mk ?_ rfl rfl rfl rfl rfl rfl rfl) | dsimp only | split

end Sys2Proof.Machine
end

