-- ==== Sys2Proof/Laws/CanonBus.lean ====
section
/-! SUPPORT. The canonical form of the state is kept by the bus, DMA and what passes through the crossbar: one lemma an operation. -/

namespace Sys2Proof.Machine

variable {pq : List Instr}

/-! Bus. -/

theorem State.pwmBlock_canon {s : State} (n off : Nat) (v : Word) (hc : s.Held pq) :
    (State.pwmBlock s n off v).Held pq := by
  unfold State.pwmBlock
  with_reducible repeat' first | assumption | intro _ | apply canon_ite | apply State.haltSafe_canon | apply State.pwmCommitWrite_canon | apply State.pwmCtrlWrite_canon | apply State.pwmDtWrite_canon | apply State.pwmMemberWrite_canon | apply State.pwmPhaseWrite_canon | apply State.store_canon | apply State.tripStatWrite_canon | apply State.whenOn_canon | apply State.windowOwned_canon

theorem State.cmpBlock_canon {s : State} (n off : Nat) (v : Word) (hc : s.Held pq) :
    (State.cmpBlock s n off v).Held pq := by
  unfold State.cmpBlock
  with_reducible repeat' first | assumption | intro _ | apply State.cmpBlankWrite_canon | apply State.cmpCtrlWrite_canon | apply State.cmpRampWrite_canon | apply State.cmpRefWrite_canon | apply State.cmpStatWrite_canon | apply State.cmpTestWrite_canon | apply State.whenOn_canon | split

theorem State.csBlock_canon {s : State} (n off : Nat) (v : Word) (hc : s.Held pq) :
    (State.csBlock s n off v).Held pq := by
  unfold State.csBlock
  with_reducible repeat' first | assumption | intro _ | apply canon_ite | apply State.csCtrlWrite_canon | apply State.store_canon | apply State.whenOn_canon

theorem State.cgBlock_canon {s : State} (g off : Nat) (v : Word) (hc : s.Held pq) :
    (State.cgBlock s g off v).Held pq := by
  unfold State.cgBlock
  with_reducible repeat' first | assumption | intro _ | apply State.calctlWrite_canon | apply State.cgMptWrite_canon | apply State.diagWrite_canon | apply State.store_canon | apply State.whenOn_canon | split

theorem State.sqBlock_canon {s : State} (n off : Nat) (v : Word) (hc : s.Held pq) :
    (State.sqBlock s n off v).Held pq := by
  unfold State.sqBlock
  with_reducible repeat' first | assumption | intro _ | apply canon_ite | apply State.sqCtrlWrite_canon | apply State.sqEntWrite_canon | apply State.store_canon | apply State.whenOn_canon

theorem State.piLive_canon {s : State} (n a : Nat) (locked : Bool) (v : Word) (hc : s.Held pq) :
    (State.piLive s n a locked v).Held pq := by
  unfold State.piLive
  with_reducible repeat' first | assumption | apply canon_ite | apply State.cfgOk_canon | apply State.store_canon

theorem State.piBlock_canon {s : State} (n off : Nat) (v : Word) (hc : s.Held pq) :
    (State.piBlock s n off v).Held pq := by
  unfold State.piBlock
  with_reducible repeat' first | assumption | intro _ | apply State.cfgOk_canon | apply State.emuCtrlWrite_canon | apply State.emuposApply_canon | apply State.indexvalWrite_canon | apply State.piCtrlWrite_canon | apply State.piLive_canon | apply State.posWrite_canon | apply State.store_canon | apply State.whenOn_canon | apply State.windowOwned_canon | dsimp only | split

theorem State.soBlock_canon {s : State} (off : Nat) (v : Word) (hc : s.Held pq) :
    (State.soBlock s off v).Held pq := by
  unfold State.soBlock
  with_reducible repeat' first | assumption | intro _ | apply canon_ite | apply State.miggoWrite_canon | apply State.ownWrite_canon | apply State.routeWrite_canon | apply State.soCtrlWrite_canon | apply State.soRaiseWrite_canon | apply State.store_canon | apply State.timerWrite_canon | apply State.whenOn_canon

theorem State.lcBlock_canon {s : State} (c off : Nat) (v : Word) (hc : s.Held pq) :
    (State.lcBlock s c off v).Held pq := by
  unfold State.lcBlock
  with_reducible repeat' first | assumption | intro _ | apply canon_ite | apply State.lcCtrlWrite_canon | apply State.store_canon | apply State.whenOn_canon

theorem State.msBlock_canon {s : State} (off : Nat) (v : Word) (hc : s.Held pq) :
    (State.msBlock s off v).Held pq := by
  unfold State.msBlock
  with_reducible repeat' first | assumption | intro _ | apply canon_ite | apply State.msCtrlWrite_canon | apply State.store_canon | apply State.tdWrite_canon | apply State.whenOn_canon

theorem State.controlWrite_canon {s : State} (a : Nat) (v : Word) (hc : s.Held pq) :
    (State.controlWrite s a v).Held pq := by
  unfold State.controlWrite
  with_reducible repeat' first | assumption | apply canon_ite | apply State.cgBlock_canon | apply State.cmpBlock_canon | apply State.csBlock_canon | apply State.lcBlock_canon | apply State.msBlock_canon | apply State.piBlock_canon | apply State.pwmBlock_canon | apply State.soBlock_canon | apply State.sqBlock_canon

theorem State.dmaStop_canon {s : State} (k : Nat) (v : Word) (hc : s.Held pq) :
    (State.dmaStop s k v).Held pq := by
  unfold State.dmaStop
  with_reducible repeat' first | assumption | apply canon_ite | apply State.setDma_canon | apply State.store_canon

theorem State.dmaBlock_canon {s : State} (k off : Nat) (v : Word) (hc : s.Held pq) :
    (State.dmaBlock s k off v).Held pq := by
  unfold State.dmaBlock
  with_reducible repeat' first | assumption | intro _ | apply State.dmaLine_canon | apply State.dmaStart_canon | apply State.dmaStop_canon | apply State.store_canon | apply State.whenOn_canon | split

theorem State.macBlock_canon {s : State} (m off : Nat) (v : Word) (hc : s.Held pq) :
    (State.macBlock s m off v).Held pq := by
  unfold State.macBlock
  with_reducible repeat' first | assumption | apply canon_ite | apply State.macRateWrite_canon | apply State.tadjHiWrite_canon | apply State.tadjLoWrite_canon | apply State.tgtWrite_canon

theorem State.pcieBlock_canon {s : State} (off : Nat) (v : Word) (mgmt : Bool) (hc : s.Held pq) :
    (State.pcieBlock s off v mgmt).Held pq := by
  unfold State.pcieBlock
  with_reducible repeat' first | assumption | apply State.bar0Write_canon | apply State.msixSync_canon | apply State.store_canon | split

theorem State.lbxBlock_canon {s : State} (k off : Nat) (v : Word) (hc : s.Held pq) :
    (State.lbxBlock s k off v).Held pq := by
  unfold State.lbxBlock
  with_reducible repeat' first | assumption | apply canon_ite | apply State.lbxAck_canon | apply State.lbxCfgWrite_canon | apply State.lbxPost_canon | apply State.store_canon

theorem State.hpBlock_canon {s : State} (off : Nat) (v : Word) (mgmt : Bool) (hc : s.Held pq) :
    (State.hpBlock s off v mgmt).Held pq := by
  unfold State.hpBlock
  with_reducible repeat' first | assumption | apply canon_ite | apply State.hpCtrlWrite_canon | apply State.hpLine_canon | apply State.hpWinWrite_canon | apply State.store_canon

theorem State.pinBlock_canon {s : State} (a : Nat) (v : Word) (hc : s.Held pq) :
    (State.pinBlock s a v).Held pq := by
  unfold State.pinBlock
  with_reducible repeat' first | assumption | apply canon_ite | apply State.confWrite_canon | apply State.pinWrite_canon | apply State.pintStatWrite_canon | apply State.pintWrite_canon

theorem State.periphWrite_canon {s : State} (m : Master) (a : Nat) (v : Word) (hc : s.Held pq) :
    (State.periphWrite s m a v).Held pq := by
  unfold State.periphWrite
  with_reducible repeat' first | assumption | apply canon_ite | apply State.dmaBlock_canon | apply State.hpBlock_canon | apply State.lbxBlock_canon | apply State.macBlock_canon | apply State.pcieBlock_canon | apply State.pinBlock_canon

theorem State.scrubWrite_canon {s : State} (v : Word) (hc : s.Held pq) :
    (State.scrubWrite s v).Held pq := by
  unfold State.scrubWrite
  with_reducible repeat' first | assumption | apply State.scrubStart_canon | apply State.setFld_canon | apply State.store_canon | split

theorem State.mgBlock_canon {s : State} (m : Master) (a : Nat) (v : Word) (hc : s.Held pq) :
    (State.mgBlock s m a v).Held pq := by
  unfold State.mgBlock
  with_reducible repeat' first | assumption | apply canon_ite | apply State.mrelWrite_canon | apply State.mreqWrite_canon | apply State.scrubWrite_canon | apply State.store_canon | apply State.strengthWrite_canon | apply State.svcDataWrite_canon | apply State.svcWrite_canon

theorem State.pmBlock_canon {s : State} (a : Nat) (v : Word) (hc : s.Held pq) :
    (State.pmBlock s a v).Held pq := by
  unfold State.pmBlock
  with_reducible repeat' first | assumption | apply State.domctlWrite_canon | apply State.opctlWrite_canon | apply State.padrelWrite_canon | apply State.pmWrite_canon | apply State.sleepWrite_canon | split

theorem canonR_out {r : Result} (h : canonR pq r) {s : State} (hs : s.Held pq) :
    State.Held pq (match r with | .next s => s | _ => s) := by
  obtain ⟨t, rfl, ht⟩ := h
  exact ht
theorem State.fcCmdWrite_canon {s : State} (v : Word) (hc : s.Held pq) : (s.fcCmdWrite v).Held pq := by
  unfold State.fcCmdWrite
  dsimp only
  split
  · exact canonR_out (execFlashProgram_canon _ hc) hc
  · exact canonR_out (execFlashErase_canon _ hc) hc
  · exact canonR_out (execFlashSuspend_canon _ hc) hc
  · exact canonR_out (execFlashResume_canon _ hc) hc
  · exact canonR_out (execFlashAckrecov_canon _ hc) hc
  · exact State.flashCmd_canon _ _ _ hc (fun _ _ _ h => h)

theorem State.lgCmdWrite_canon {s : State} (v : Word) (hc : s.Held pq) :
    (State.lgCmdWrite s v).Held pq := by
  unfold State.lgCmdWrite
  with_reducible repeat' first | assumption | apply State.cfgFail_canon | apply State.ledgerCommit_canon | apply State.ledgerRead_canon | split

theorem State.flashBlock_canon {s : State} (a : Nat) (v : Word) (hc : s.Held pq) :
    (State.flashBlock s a v).Held pq := by
  unfold State.flashBlock
  with_reducible repeat' first | assumption | apply canon_ite | apply State.fcCmdWrite_canon | apply State.fcCtrlWrite_canon | apply State.lgBufWrite_canon | apply State.lgCmdWrite_canon | apply State.pbufWrite_canon | apply State.store_canon | apply State.xoWrite_canon

theorem State.tpBlock_canon {s : State} (a : Nat) (v : Word) (hc : s.Held pq) :
    (State.tpBlock s a v).Held pq := by
  unfold State.tpBlock
  with_reducible repeat' first | assumption | apply State.dbgWrite_canon | apply State.injWrite_canon | apply State.pertWrite_canon | apply State.store_canon | apply State.tpCtrlWrite_canon | split

theorem State.mgmtWrite_canon {s : State} (m : Master) (a : Nat) (v : Word) (hc : s.Held pq) :
    (State.mgmtWrite s m a v).Held pq := by
  unfold State.mgmtWrite
  with_reducible repeat' first | assumption | apply canon_ite | apply State.flashBlock_canon | apply State.mcodeWrite_canon | apply State.mgBlock_canon | apply State.pmBlock_canon | apply State.rdCtlWrite_canon | apply State.store_canon | apply State.tpBlock_canon

theorem State.postRead_canon {s : State} (a : Nat) (hc : s.Held pq) :
    (State.postRead s a).1.Held pq := by
  unfold State.postRead
  with_reducible repeat' first | assumption | (fail_if_no_progress refine canon_mk ?_ rfl rfl rfl rfl rfl rfl rfl) | split

theorem State.regWrite_canon {s : State} (m : Master) (a : Nat) (v : Word) (hc : s.Held pq) :
    (State.regWrite s m a v).1.Held pq := by
  unfold State.regWrite
  with_reducible repeat' first | assumption | apply State.controlWrite_canon | apply State.mgmtWrite_canon | apply State.periphWrite_canon | apply State.setWord_canon | split

theorem State.regRead_canon {s : State} (m : Master) (a : Nat) (hc : s.Held pq) :
    (State.regRead s m a).1.Held pq := by
  unfold State.regRead
  with_reducible repeat' first | assumption | apply State.postRead_canon | (apply canonP_of_eq; assumption) | split

theorem State.regRead8_canon {s : State} (m : Master) (a : Nat) (hc : s.Held pq) : (s.regRead8 m a).1.Held pq := by
  rewrite [State.regRead8]
  exact State.regRead_canon _ _ (State.regRead_canon _ _ hc)

theorem State.busReadPiece_canon {s : State} (m : Master) (a n ext : Nat) (hc : s.Held pq) :
    (State.busReadPiece s m a n ext).1.Held pq := by
  unfold State.busReadPiece
  with_reducible repeat' first | assumption | apply canonP_ite | apply State.readPiece_canon | apply State.regRead_canon | apply State.regRead8_canon

theorem State.regWrite8_canon {s : State} (m : Master) (a v : Nat) (hc : s.Held pq) : (s.regWrite8 m a v).1.Held pq := by
  rewrite [State.regWrite8]
  exact State.regWrite_canon _ _ _ (State.regWrite_canon _ _ _ hc)

theorem State.busWritePiece_canon {s : State} (m : Master) (a n v : Nat) (hc : s.Held pq) :
    (State.busWritePiece s m a n v).1.Held pq := by
  unfold State.busWritePiece
  with_reducible repeat' first | assumption | apply canonP_ite | apply State.regWrite_canon | apply State.regWrite8_canon | apply State.writePiece_canon

theorem State.busRead_canon {s : State} (m : Master) (a n ext : Nat) (hc : s.Held pq) :
    (State.busRead s m a n ext).1.Held pq := by
  unfold State.busRead
  with_reducible repeat' first | assumption | intro _ | apply canonP_foldl | apply State.busReadPiece_canon | split

theorem State.busWrite_canon {s : State} (m : Master) (a n v : Nat) (hc : s.Held pq) :
    (State.busWrite s m a n v).1.Held pq := by
  unfold State.busWrite
  with_reducible repeat' first | assumption | intro _ | apply canonP_foldl | apply State.busWritePiece_canon

/-! DmaRun. -/

theorem State.envEnd_canon {s : State} (k : Nat) (e : Envelope) (how : EnvEnd) (hc : s.Held pq) :
    (State.envEnd s k e how).Held pq := by
  unfold State.envEnd
  with_reducible repeat' first | assumption | apply canon_ite | apply State.busRead_canon | apply State.busWrite_canon | apply State.chainEnd_canon | apply State.dmaFlag_canon | apply State.dmaState_canon | apply State.raiseNow_canon | apply State.satInc_canon | apply State.setDma_canon | apply State.setFld_canon | apply State.tick_canon | split

theorem execEnvelopeFetch_canon (k : Fin 32) (ext : Nat) {s : State} (hc : s.Held pq) :
    canonR pq (execEnvelopeFetch k ext s) := by
  unfold execEnvelopeFetch
  with_reducible repeat' first | assumption | apply canonR_next | apply State.busRead_canon | apply State.cfgFail_canon | apply State.chainEnd_canon | apply State.dmaFlag_canon | apply State.dmaState_canon | apply State.envEnd_canon | apply State.satInc_canon | apply State.setDma_canon | apply State.setFld_canon | apply State.setReg_canon | dsimp only | split

theorem State.burstRead_canon {s : State} (m : Master) (e : Envelope) (n ext : Nat) (hc : s.Held pq) :
    (State.burstRead s m e n ext).1.Held pq := by
  unfold State.burstRead
  with_reducible repeat' first | assumption | intro _ | apply canonP_foldl | apply State.busRead_canon

theorem State.burstWrite_canon {s : State} (m : Master) (e : Envelope) (n v : Nat) (hc : s.Held pq) :
    (State.burstWrite s m e n v).1.Held pq := by
  unfold State.burstWrite
  with_reducible repeat' first | assumption | intro _ | apply canonP_foldl | apply State.busWrite_canon

theorem State.confirm_canon {s : State} (k : Nat) (e : Envelope) (n c : Nat) (hc : s.Held pq) :
    (State.confirm s k e n c).1.Held pq := by
  unfold State.confirm
  with_reducible repeat' first | assumption | apply State.dmaFlag_canon | apply State.setDma_canon | apply State.setFld_canon | dsimp only | split

theorem State.dmaAbort_canon {s : State} (k : Nat) (hc : s.Held pq) :
    (State.dmaAbort s k).Held pq := by
  unfold State.dmaAbort
  with_reducible repeat' first | assumption | intro _ | apply State.busRead_canon | apply State.chainEnd_canon | apply State.confirm_canon | apply State.dmaFlag_canon | apply State.envEnd_canon | apply State.setDma_canon | dsimp only | split

theorem State.settleAborts_canon {s : State} (hc : s.Held pq) :
    (State.settleAborts s).Held pq := by
  unfold State.settleAborts
  with_reducible repeat' first | assumption | intro _ | apply canon_ite | apply canon_foldl | apply State.dmaAbort_canon

theorem State.write_canon {s : State} (m : Master) (a n v : Nat) (hc : s.Held pq) :
    (State.write s m a n v).1.Held pq := by
  unfold State.write
  with_reducible repeat' first | assumption | apply State.busWrite_canon | apply State.settleAborts_canon

theorem execDmaBurstReadData_canon (k : Fin 32) (ext : Nat) {s : State} (hc : s.Held pq) :
    canonR pq (execDmaBurstReadData k ext s) := by
  unfold execDmaBurstReadData
  with_reducible repeat' first | assumption | apply canonR_next | apply canon_ite | apply canonR_ite | apply State.burstRead_canon | apply State.burstWrite_canon | apply State.confirm_canon | apply State.dmaState_canon | apply State.envEnd_canon | apply State.setDma_canon | apply State.setFld_canon | apply State.settleAborts_canon | dsimp only | split

theorem execDmaReadbackResponse_canon (k : Fin 32) {s : State} (hc : s.Held pq) :
    canonR pq (execDmaReadbackResponse k s) := by
  unfold execDmaReadbackResponse
  with_reducible repeat' first | assumption | intro _ | apply canonR_next | apply State.busRead_canon | apply State.confirm_canon | apply State.envEnd_canon | apply State.setDma_canon | dsimp only | split

theorem execDmaErrorResponse_canon (k : Fin 32) {s : State} (hc : s.Held pq) :
    canonR pq (execDmaErrorResponse k s) := by
  unfold execDmaErrorResponse
  with_reducible repeat' first | assumption | apply canonR_next | apply canon_ite | apply State.envEnd_canon | split

theorem execDmaAbort_canon (k : Fin 32) (v : BitVec 32) {s : State} (hc : s.Held pq) :
    canonR pq (execDmaAbort k v s) := by
  unfold execDmaAbort
  with_reducible repeat' first | assumption | apply canonR_next | apply canon_ite | apply State.dmaStop_canon | apply State.settleAborts_canon

theorem execDmaTimeout_canon (k : Fin 32) {s : State} (hc : s.Held pq) :
    canonR pq (execDmaTimeout k s) := by
  unfold execDmaTimeout
  with_reducible repeat' first | assumption | apply canonR_next | apply State.advanceTo_canon | apply State.chainEnd_canon | apply State.dmaFlag_canon | apply State.envEnd_canon | dsimp only | split

theorem execRegisterWrite_canon (a : BitVec 32) (v : BitVec 32) (m : Master) {s : State} (hc : s.Held pq) :
    canonR pq (execRegisterWrite a v m s) := by
  unfold execRegisterWrite
  with_reducible repeat' first | assumption | apply canonR_next | apply State.write_canon | split

/-! LinksRun. -/

theorem State.rdRef_canon {s : State} (hc : s.Held pq) :
    (State.rdRef s).Held pq := by
  unfold State.rdRef
  with_reducible repeat' first | assumption | apply State.hpFlag_canon

theorem State.hostPostRead_canon {s : State} (b : Nat) (hc : s.Held pq) :
    (State.hostPostRead s b).1.Held pq := by
  unfold State.hostPostRead
  with_reducible repeat' first | assumption | apply State.hpFlag_canon | apply State.postRead_canon | (apply canonP_of_eq; assumption) | split

theorem State.hostRead_canon {s : State} (ha : Nat) (hc : s.Held pq) :
    (State.hostRead s ha).1.Held pq := by
  unfold State.hostRead
  with_reducible repeat' first | assumption | apply State.hostPostRead_canon | apply State.rdRef_canon | dsimp only | split

theorem execHostRead_canon (ha : BitVec 24) {s : State} (hc : s.Held pq) : canonR pq (execHostRead ha s) := by
  unfold execHostRead
  split
  · exact canonR_next hc
  · exact canonR_next (canon_mk (State.hostRead_canon _ hc) rfl rfl rfl rfl rfl rfl rfl)

theorem State.hostRamWrite_canon {s : State} (b : Nat) (q : HostWrite) (hc : s.Held pq) :
    (State.hostRamWrite s b q).Held pq := by
  unfold State.hostRamWrite
  with_reducible repeat' first | assumption | intro _ | apply canon_ite | apply canon_foldl | apply State.setByte_canon | apply State.setWord_canon

theorem State.hostBusWrite_canon {s : State} (a : Nat) (q : HostWrite) (hc : s.Held pq) :
    (State.hostBusWrite s a q).1.Held pq := by
  unfold State.hostBusWrite
  with_reducible repeat' first | assumption | intro _ | apply canonP_foldl | apply State.write_canon | split

theorem State.hostWriteErr_canon {s : State} (r : BusRes) (hc : s.Held pq) :
    (State.hostWriteErr s r).Held pq := by
  unfold State.hostWriteErr
  with_reducible repeat' first | assumption | apply canon_ite | apply State.hpFlag_canon | apply State.satInc_canon

theorem execHostWriteApply_canon {s : State} (hc : s.Held pq) : canonR pq (execHostWriteApply s) := by
  unfold execHostWriteApply
  split
  · exact canonR_next hc
  · rename_i q rest hq
    have hr : (s.setHpq rest).Held pq := State.setHpq_canon _ hc (by have := hc.hq; rw [hq] at this; exact Nat.le_of_succ_le this)
    generalize s.setHpq rest = t at hr ⊢
    with_reducible repeat' first | assumption | apply canonR_next | apply State.hostBusWrite_canon | apply State.hostRamWrite_canon | apply State.hostWriteErr_canon | apply State.rdRef_canon | dsimp only | split

theorem State.inWrite_canon {s : State} (bar1 : Bool) (off n data : Nat) (hc : s.Held pq) :
    (State.inWrite s bar1 off n data).Held pq := by
  unfold State.inWrite
  with_reducible repeat' first | assumption | intro _ | apply canon_foldl | apply State.setByte_canon | apply State.write_canon | split

theorem State.inRead_canon {s : State} (bar1 : Bool) (off n : Nat) (hc : s.Held pq) : (s.inRead bar1 off n).1.Held pq := by
  unfold State.inRead
  split
  · exact hc
  · exact State.busRead_canon .pcie (2 ^ 20 * s.fld Reg.PCIE_BAR0MAP 31 20 + off) n 0 hc

theorem execPcieInboundAccess_canon (bar1 : Bool) (off : BitVec 20) (n : Fin 513) (write : Bool) (data : Nat) {s : State} (hc : s.Held pq) :
    canonR pq (execPcieInboundAccess bar1 off n write data s) := by
  unfold execPcieInboundAccess
  with_reducible repeat' first | assumption | apply canonR_next | apply State.inRead_canon | apply State.inWrite_canon | (fail_if_no_progress refine canon_mk ?_ rfl rfl rfl rfl rfl rfl rfl) | dsimp only | split

end Sys2Proof.Machine
end

