-- ==== Sys2Proof/Laws/CanonCores.lean ====
section
/-! SUPPORT. The canonical form of the state is kept by the Molpa cores: one lemma an operation. -/

namespace Sys2Proof.Machine

variable {pq : List Instr}

/-! CoreAccess. -/

theorem State.putTag_canon {s : State} (a : Nat) (t : Bool) (hc : s.Held pq) :
    (State.putTag s a t).Held pq := by
  unfold State.putTag
  with_reducible repeat' first | assumption | apply State.setTag_canon | apply State.tcmTag_canon | split

theorem State.storeOut_canon {s : State} (k : Nat) (log : Bool) (e : StoreEnt) (hc : s.Held pq) :
    (State.storeOut s k log e).1.Held pq := by
  unfold State.storeOut
  with_reducible repeat' first | assumption | apply canonP_ite | apply State.logGranule_canon | apply State.onCore_canon | apply State.putTag_canon | apply State.write_canon | split

theorem State.splitOut_canon {s : State} (k : Nat) (log : Bool) (e f : StoreEnt) (hc : s.Held pq) :
    (State.splitOut s k log e f).Held pq := by
  unfold State.splitOut
  with_reducible repeat' first | assumption | apply canon_ite | apply State.storeOut_canon

theorem State.storesOut_canon {s : State} (k : Nat) (log : Bool) (l : List StoreEnt) (hc : s.Held pq) : (s.storesOut k log l).Held pq := by
  match l with
  | [] => exact hc
  | [e] => exact State.storeOut_canon k log e hc
  | e :: f :: rest =>
    unfold State.storesOut
    split
    · exact State.storesOut_canon k log rest (State.splitOut_canon k log e f hc)
    · exact State.storesOut_canon k log (f :: rest) (State.storeOut_canon k log e hc)

theorem State.drainOne_canon {s : State} (k : Nat) (hc : s.Held pq) :
    canonO pq (State.drainOne s k) := by
  unfold State.drainOne
  with_reducible repeat' first | assumption | apply canonO_some | apply canonO_none | apply State.setCore_canon | apply State.splitOut_canon | apply State.storeOut_canon | dsimp only | split

theorem State.drainTo_canon {s : State} (k keep n : Nat) (hc : s.Held pq) : canonO pq (s.drainTo k keep n) := by
  induction n generalizing s with
  | zero => unfold State.drainTo; with_reducible repeat' first | assumption | apply canonO_some | apply canonO_none | apply canon_ite | apply canonO_ite | (fail_if_no_progress refine canon_mk ?_ rfl rfl rfl rfl rfl rfl rfl) | dsimp only | split
  | succ n ih => unfold State.drainTo; with_reducible repeat' first | assumption | intro _ | apply canonO_some | apply canonO_none | apply ih | apply State.drainOne_canon | (apply canonO_of_eq; assumption) | split

theorem State.drainAll_canon {s : State} (k : Nat) (hc : s.Held pq) :
    canonO pq (State.drainAll s k) := by
  unfold State.drainAll
  with_reducible repeat' first | assumption | apply State.drainTo_canon

theorem State.pushStore_canon {s : State} (k : Nat) (e : StoreEnt) (hc : s.Held pq) :
    canonO pq (State.pushStore s k e) := by
  unfold State.pushStore
  with_reducible repeat' first | assumption | apply canonO_some | apply canonO_none | apply State.drainTo_canon | apply State.onCore_canon | (apply canonO_of_eq; assumption) | split

theorem State.pushStores_canon {s : State} (k : Nat) (es : List StoreEnt) (hc : s.Held pq) : canonO pq (s.pushStores k es) := by
  induction es generalizing s with
  | nil => exact hc
  | cons e es ih => unfold State.pushStores; with_reducible repeat' first | assumption | apply canonO_none | apply ih | apply State.pushStore_canon | (apply canonO_of_eq; assumption) | split

theorem State.lineRead_canon {s : State} (k l : Nat) (hc : s.Held pq) :
    (State.lineRead s k l).1.Held pq := by
  unfold State.lineRead
  with_reducible repeat' first | assumption | apply State.busRead_canon | apply State.onCore_canon | apply State.tick_canon | dsimp only | split

theorem State.cacheRead_canon {s : State} (k ea n : Nat) (hc : s.Held pq) :
    (State.cacheRead s k ea n).1.Held pq := by
  unfold State.cacheRead
  with_reducible repeat' first | assumption | apply canonP_ite | apply State.lineRead_canon

theorem State.loadMem_canon {s : State} (k : Nat) (dev : Bool) (ea n : Nat) (hc : s.Held pq) :
    canonA pq (State.loadMem s k dev ea n) := by
  unfold State.loadMem
  with_reducible repeat' first | assumption | apply canonA_val | apply canonA_err | apply canonA_sent | apply canonA_stall | apply canonA_ite | apply State.busRead_canon | apply State.cacheRead_canon | (apply canonP_of_eq; assumption) | split

theorem State.heldOver_canon {s : State} (k ea n : Nat) {x : LoadAns} (h : canonA pq x) : canonA pq (s.heldOver k ea n x) := by
  cases x <;> exact h

theorem State.coreLoad_canon {s : State} (k : Nat) (dev : Bool) (ea n : Nat) (hc : s.Held pq) :
    canonA pq (State.coreLoad s k dev ea n) := by
  unfold State.coreLoad
  with_reducible repeat' first | assumption | apply canonA_ite | apply State.drainAll_canon | apply State.drainTo_canon | apply State.heldOver_canon | apply State.loadMem_canon | apply_assumption | (apply canonO_of_eq; assumption) | dsimp only | split

theorem State.loadWords_canon {s : State} (k : Nat) (dev : Bool) (ea n : Nat) (hc : s.Held pq) : canonA pq (s.loadWords k dev ea n) := by
  induction n generalizing s ea with
  | zero => exact hc
  | succ n ih =>
    unfold State.loadWords
    have h1 := State.coreLoad_canon k dev ea 8 hc
    revert h1
    generalize s.coreLoad k dev ea 8 = x
    intro h1
    cases x with
    | val t v b =>
      have h2 := ih (s := t) (ea + 8) h1
      revert h2
      dsimp only
      generalize t.loadWords k dev (ea + 8) n = y
      intro h2
      cases y <;> exact h2
    | err t r => exact h1
    | sent t =>
      have h2 := ih (s := t.tick) (ea + 8) (State.tick_canon h1)
      revert h2
      dsimp only
      generalize t.tick.loadWords k dev (ea + 8) n = y
      intro h2
      cases y <;> exact h2
    | stall => trivial

theorem State.loadCap_canon {s : State} (k : Nat) (dev : Bool) (ea : Nat) (hc : s.Held pq) : canonA pq (s.loadCap k dev ea) := by
  unfold State.loadCap
  have h := State.coreLoad_canon k dev ea 16 hc
  generalize s.coreLoad k dev ea 16 = x at h ⊢
  cases x <;> exact h

theorem State.spill_canon {s : State} (k x : Nat) (hc : s.Held pq) :
    canonL pq (State.spill s k x) := by
  unfold State.spill
  with_reducible repeat' first | assumption | apply canonL_ok | apply canonL_exc | apply canonL_stall | apply State.onArch_canon | apply State.pushStores_canon | (apply canonO_of_eq; assumption) | dsimp only | split

theorem State.fill_canon {s : State} (k x : Nat) (hc : s.Held pq) :
    canonL pq (State.fill s k x) := by
  unfold State.fill
  with_reducible repeat' first | assumption | apply canonL_ok | apply canonL_exc | apply canonL_stall | apply State.loadWords_canon | apply State.onArch_canon | (apply canonA_of_val; assumption) | (apply canonA_of_err; assumption) | dsimp only | split

theorem State.slideFwd_canon {s : State} (k link : Nat) (hc : s.Held pq) :
    canonL pq (State.slideFwd s k link) := by
  unfold State.slideFwd
  with_reducible repeat' first | assumption | apply canonL_ok | apply canonL_ite | apply State.onArch_canon | apply State.spill_canon | (apply canonL_of_ok; assumption) | (fail_if_no_progress refine canon_mk ?_ rfl rfl rfl rfl rfl rfl rfl) | split

theorem State.slideBack_canon {s : State} (k : Nat) (hc : s.Held pq) :
    canonL pq (State.slideBack s k) := by
  unfold State.slideBack
  with_reducible repeat' first | assumption | apply canonL_ok | apply State.fill_canon | apply State.onArch_canon | (apply canonL_of_ok; assumption) | dsimp only | split

/-! CoreRun. -/

theorem State.coreTrace_canon {s : State} (k : Nat) (w : Nat) (hc : s.Held pq) :
    (State.coreTrace s k w).Held pq := by
  unfold State.coreTrace
  with_reducible repeat' first | assumption | apply canon_ite | apply State.tracePush_canon

theorem State.stepDone_canon {s : State} (k : Nat) (hc : s.Held pq) :
    (State.stepDone s k).Held pq := by
  unfold State.stepDone
  with_reducible repeat' first | assumption | (fail_if_no_progress refine canon_mk ?_ rfl rfl rfl rfl rfl rfl rfl) | split

theorem State.outputMism_canon {s : State} (k a : Nat) (hc : s.Held pq) :
    canonO pq (State.outputMism s k a) := by
  unfold State.outputMism
  with_reducible repeat' first | assumption | apply canonO_some | apply canonO_none | apply canonO_ite | apply State.mismatch_canon | apply State.pertSync_canon | (fail_if_no_progress refine canon_mk ?_ rfl rfl rfl rfl rfl rfl rfl)

theorem State.rescue_canon {s : State} (k : Nat) (a : Arch) (saved xc xa rc : Nat) (hc : s.Held pq) :
    (State.rescue s k a saved xc xa rc).Held pq := by
  unfold State.rescue
  with_reducible repeat' first | assumption | intro _ | apply canon_foldl | apply State.onCore_canon | apply State.rescueAction_canon | apply State.setWord_canon | apply State.untag_canon

theorem State.vector_canon {s : State} (k a : Nat) (hc : s.Held pq) :
    canonOP pq (State.vector s k a) := by
  unfold State.vector
  with_reducible repeat' first | assumption | apply canonOP_some | apply canonOP_none | apply State.loadCap_canon | (apply canonA_of_val; assumption) | (apply canonA_of_err; assumption) | (apply canonA_of_sent; assumption) | split

theorem State.enter_canon {s : State} (k : Nat) (c : Cap) (saved xc xa : Nat) (fin : State → State) (hc : s.Held pq) (hcfin : ∀ t : State, t.Held pq → (fin t).Held pq) :
    canonO pq (State.enter s k c saved xc xa fin) := by
  unfold State.enter
  with_reducible repeat' first | assumption | apply canonO_some | apply canonO_none | apply hcfin | apply State.onArch_canon | apply State.onCore_canon | apply State.pushStores_canon | apply State.rescue_canon | apply State.slideFwd_canon | apply State.stepDone_canon | (apply canonO_of_eq; assumption) | (apply canonL_of_ok; assumption) | (apply canonL_of_exc; assumption) | dsimp only | split

theorem State.takeExc_canon {s : State} (k : Nat) (e : Exc) (saved : Nat) (impr multi : Bool) (hc : s.Held pq) :
    canonO pq (State.takeExc s k e saved impr multi) := by
  unfold State.takeExc
  with_reducible repeat' first | assumption | intro _ | apply canonO_some | apply canonO_none | apply State.coreTrace_canon | apply State.enter_canon | apply State.onArch_canon | apply State.rescue_canon | apply State.tick_canon | apply State.vector_canon | (apply canonOP_of_eq; assumption) | dsimp only | split

theorem State.clearPend_canon {s : State} (k l : Nat) (hc : s.Held pq) :
    (State.clearPend s k l).Held pq := by
  unfold State.clearPend
  with_reducible repeat' first | assumption | (fail_if_no_progress refine canon_mk ?_ rfl rfl rfl rfl rfl rfl rfl) | dsimp only | split

theorem State.takeInt_canon {s : State} (k l prio saved : Nat) (hc : s.Held pq) :
    canonO pq (State.takeInt s k l prio saved) := by
  unfold State.takeInt
  with_reducible repeat' first | assumption | intro _ | apply canonO_some | apply canonO_none | apply State.clearPend_canon | apply State.coreTrace_canon | apply State.enter_canon | apply State.onArch_canon | apply State.rescue_canon | apply State.takeExc_canon | apply State.vector_canon | (apply canonOP_of_eq; assumption) | dsimp only | split

theorem State.takeArith_canon {s : State} (k : Nat) (r : Arith) (saved : Nat) (hc : s.Held pq) :
    canonO pq (State.takeArith s k r saved) := by
  unfold State.takeArith
  with_reducible repeat' first | assumption | apply State.onCore_canon | apply State.takeExc_canon

theorem State.takeDue_canon {s : State} (k saved : Nat) (hc : s.Held pq) :
    canonO pq (State.takeDue s k saved) := by
  unfold State.takeDue
  with_reducible repeat' first | assumption | apply State.onCore_canon | apply State.takeExc_canon

theorem State.fault_canon {s : State} (k : Nat) (e : Exc) (hc : s.Held pq) :
    canonO pq (State.fault s k e) := by
  unfold State.fault
  with_reducible repeat' first | assumption | apply State.takeArith_canon | apply State.takeExc_canon | split

theorem State.codeFill_canon {s : State} (k l : Nat) (hc : s.Held pq) :
    (State.codeFill s k l).1.Held pq := by
  unfold State.codeFill
  with_reducible repeat' first | assumption | apply State.busRead_canon | apply State.flashRead_canon | (apply canonP_of_eq; assumption) | dsimp only | split

theorem State.codeHold_canon {s : State} (k l : Nat) (hc : s.Held pq) :
    (State.codeHold s k l).Held pq := by
  unfold State.codeHold
  with_reducible repeat' first | assumption | apply State.onCore_canon | apply State.tick_canon

theorem State.fetch_canon {s : State} (k pc : Nat) (hc : s.Held pq) : canonF pq (s.fetch k pc) := by
  have h1 : (s.tcmCheck pc k).1.Held pq := State.tcmCheck_canon _ _ hc
  have h2 : (s.codeFill k (pc / 32)).1.Held pq := State.codeFill_canon _ _ hc
  unfold State.fetch
  generalize s.tcmCheck pc k = x at h1 ⊢
  generalize s.codeFill k (pc / 32) = y at h2 ⊢
  dsimp only
  repeat' (first | exact hc | exact h1 | exact h2 | trivial | exact State.codeHold_canon _ _ h2 | split)

theorem State.retire_canon {s : State} (k t : Nat) (last : Bool) (hc : s.Held pq) :
    (State.retire s k t last).Held pq := by
  unfold State.retire
  with_reducible repeat' first | assumption | apply State.onCore_canon | apply State.stepDone_canon

theorem State.sixteenth_canon {s : State} (k : Nat) (hc : s.Held pq) :
    (State.sixteenth s k).Held pq := by
  unfold State.sixteenth
  with_reducible repeat' first | assumption | apply canonO_getD | apply State.takeArith_canon | split

theorem State.settle_canon {s : State} (k word : Nat) {d : Done} (hc : s.Held pq) (hd : canonD pq d) : canonO pq (s.settle k word d) := by
  have hill : canonO pq ((s.onArch k Arch.endLoop).fault k { num := 0x01, addr := some word }) :=
    State.fault_canon _ _ (State.onArch_canon _ _ hc)
  unfold State.settle
  dsimp only
  generalize (s.onArch k Arch.endLoop).fault k { num := 0x01, addr := some word } = il at hill ⊢
  cases d with
  | stall => trivial
  | stop t => exact State.stepDone_canon _ hd
  | exc t e => exact State.fault_canon _ _ hd
  | next t =>
    dsimp only
    split
    · exact hill
    · exact State.sixteenth_canon _ (State.retire_canon _ _ _ hd)
  | post t f =>
    dsimp only
    split
    · exact hill
    · exact hd.2 _ (State.retire_canon _ _ _ hd.1)
  | after t e =>
    dsimp only
    split
    · exact hill
    · exact State.takeExc_canon _ _ _ _ _ (State.retire_canon _ _ _ hd)
  | arith t n =>
    dsimp only
    split
    · exact hill
    · split
      · exact State.takeExc_canon _ _ _ _ _ (State.retire_canon _ _ _ hd)
      · exact State.sixteenth_canon _ (State.onCore_canon _ _ (State.retire_canon _ _ _ hd))
  | jump t n => exact State.sixteenth_canon _ (State.coreTrace_canon _ _ (State.retire_canon _ _ _ (State.onArch_canon _ _ hd)))
  | goto t n => exact State.sixteenth_canon _ (State.coreTrace_canon _ _ (State.retire_canon _ _ _ hd))

theorem State.instr_canon {s : State} (k word : Nat) (serial transfer legal : Bool) (body : State → Nat → Done) (hc : s.Held pq) (hcbody : ∀ (t : State) (a : Nat), t.Held pq → canonD pq (body t a)) :
    canonO pq (State.instr s k word serial transfer legal body) := by
  unfold State.instr
  with_reducible repeat' first | assumption | apply canonO_some | apply canonO_none | apply hcbody | apply State.fault_canon | apply State.fetch_canon | apply State.outputMism_canon | apply State.settle_canon | apply State.takeArith_canon | apply State.takeDue_canon | (apply canonO_of_eq; assumption) | (apply canonF_of_ok; assumption) | (apply canonF_of_exc; assumption) | dsimp only | split

theorem State.runCore_canon {s : State} (n : Fin 4) (word : Nat) (serial transfer legal : Bool) (body : State → Nat → Done) (hc : s.Held pq) (hcbody : ∀ (t : State) (a : Nat), t.Held pq → canonD pq (body t a)) :
    canonR pq (State.runCore s n word serial transfer legal body) := by
  unfold State.runCore
  with_reducible repeat' first | assumption | apply canonR_next | apply canonO_getD | apply State.instr_canon | split

/-! CoreAlu. -/

theorem State.alu_canon {s : State} (n : Fin 4) (op fn : Nat) (d a b e : Fin 32) (legal : Bool) (f : Word → Word → Word → Word) (hc : s.Held pq) :
    canonR pq (State.alu s n op fn d a b e legal f) := by
  unfold State.alu
  with_reducible repeat' first | assumption | intro _ | apply canonD_next | apply State.onArch_canon | apply State.runCore_canon

theorem State.aluV_canon {s : State} (n : Fin 4) (op fn : Nat) (d a b e : Fin 32) (legal : Bool) (f : Word → Word → Int) (hc : s.Held pq) :
    canonR pq (State.aluV s n op fn d a b e legal f) := by
  unfold State.aluV
  with_reducible repeat' first | assumption | intro _ | apply canonD_next | apply canonD_arith | apply canonD_ite | apply State.onArch_canon | apply State.runCore_canon

theorem State.aluDiv_canon {s : State} (n : Fin 4) (op fn : Nat) (d a b e : Fin 32) (legal : Bool) (f : Word → Word → Word) (hc : s.Held pq) :
    canonR pq (State.aluDiv s n op fn d a b e legal f) := by
  unfold State.aluDiv
  with_reducible repeat' first | assumption | intro _ | apply canonD_next | apply canonD_arith | apply canonD_ite | apply State.onArch_canon | apply State.runCore_canon

theorem State.satDone_canon {s : State} (k : Nat) (clip : Bool) (hc : s.Held pq) :
    canonD pq (State.satDone s k clip) := by
  unfold State.satDone
  with_reducible repeat' first | assumption | apply canonD_next | apply canonD_arith | split

theorem State.aluSat_canon {s : State} (n : Fin 4) (op fn : Nat) (d a b e : Fin 32) (legal : Bool) (w : Nat) (f : Word → Word → Word → Int) (hc : s.Held pq) :
    canonR pq (State.aluSat s n op fn d a b e legal w f) := by
  unfold State.aluSat
  with_reducible repeat' first | assumption | intro _ | apply State.onArch_canon | apply State.runCore_canon | apply State.satDone_canon

theorem State.aluVec_canon {s : State} (n : Fin 4) (op fn : Nat) (d a b e : Fin 32) (legal : Bool) (align : Nat) (f : Arch → List Word × Bool) (hc : s.Held pq) :
    canonR pq (State.aluVec s n op fn d a b e legal align f) := by
  unfold State.aluVec
  with_reducible repeat' first | assumption | intro _ | apply State.onArch_canon | apply State.runCore_canon | apply State.satDone_canon

theorem State.coreImm_canon {s : State} (n : Fin 4) (op : Nat) (d a : Fin 32) (imm : BitVec 16) (legal : Bool) (f : Word → Word) (hc : s.Held pq) :
    canonR pq (State.coreImm s n op d a imm legal f) := by
  unfold State.coreImm
  with_reducible repeat' first | assumption | intro _ | apply canonD_next | apply State.onArch_canon | apply State.runCore_canon

theorem execMcAdd_canon (n : Fin 4) (d a b e : Fin 32) {s : State} (hc : s.Held pq) :
    canonR pq (execMcAdd n d a b e s) := by
  unfold execMcAdd
  with_reducible repeat' first | assumption | apply State.alu_canon

theorem execMcSub_canon (n : Fin 4) (d a b e : Fin 32) {s : State} (hc : s.Held pq) :
    canonR pq (execMcSub n d a b e s) := by
  unfold execMcSub
  with_reducible repeat' first | assumption | apply State.alu_canon

theorem execMcAnd_canon (n : Fin 4) (d a b e : Fin 32) {s : State} (hc : s.Held pq) :
    canonR pq (execMcAnd n d a b e s) := by
  unfold execMcAnd
  with_reducible repeat' first | assumption | apply State.alu_canon

theorem execMcOr_canon (n : Fin 4) (d a b e : Fin 32) {s : State} (hc : s.Held pq) :
    canonR pq (execMcOr n d a b e s) := by
  unfold execMcOr
  with_reducible repeat' first | assumption | apply State.alu_canon

theorem execMcXor_canon (n : Fin 4) (d a b e : Fin 32) {s : State} (hc : s.Held pq) :
    canonR pq (execMcXor n d a b e s) := by
  unfold execMcXor
  with_reducible repeat' first | assumption | apply State.alu_canon

theorem execMcAndn_canon (n : Fin 4) (d a b e : Fin 32) {s : State} (hc : s.Held pq) :
    canonR pq (execMcAndn n d a b e s) := by
  unfold execMcAndn
  with_reducible repeat' first | assumption | apply State.alu_canon

theorem execMcSll_canon (n : Fin 4) (d a b e : Fin 32) {s : State} (hc : s.Held pq) :
    canonR pq (execMcSll n d a b e s) := by
  unfold execMcSll
  with_reducible repeat' first | assumption | apply State.alu_canon

theorem execMcSrl_canon (n : Fin 4) (d a b e : Fin 32) {s : State} (hc : s.Held pq) :
    canonR pq (execMcSrl n d a b e s) := by
  unfold execMcSrl
  with_reducible repeat' first | assumption | apply State.alu_canon

theorem execMcSra_canon (n : Fin 4) (d a b e : Fin 32) {s : State} (hc : s.Held pq) :
    canonR pq (execMcSra n d a b e s) := by
  unfold execMcSra
  with_reducible repeat' first | assumption | apply State.alu_canon

theorem execMcSlt_canon (n : Fin 4) (d a b e : Fin 32) {s : State} (hc : s.Held pq) :
    canonR pq (execMcSlt n d a b e s) := by
  unfold execMcSlt
  with_reducible repeat' first | assumption | apply State.alu_canon

theorem execMcSltu_canon (n : Fin 4) (d a b e : Fin 32) {s : State} (hc : s.Held pq) :
    canonR pq (execMcSltu n d a b e s) := by
  unfold execMcSltu
  with_reducible repeat' first | assumption | apply State.alu_canon

theorem execMcMin_canon (n : Fin 4) (d a b e : Fin 32) {s : State} (hc : s.Held pq) :
    canonR pq (execMcMin n d a b e s) := by
  unfold execMcMin
  with_reducible repeat' first | assumption | apply State.alu_canon

theorem execMcMax_canon (n : Fin 4) (d a b e : Fin 32) {s : State} (hc : s.Held pq) :
    canonR pq (execMcMax n d a b e s) := by
  unfold execMcMax
  with_reducible repeat' first | assumption | apply State.alu_canon

theorem execMcMinu_canon (n : Fin 4) (d a b e : Fin 32) {s : State} (hc : s.Held pq) :
    canonR pq (execMcMinu n d a b e s) := by
  unfold execMcMinu
  with_reducible repeat' first | assumption | apply State.alu_canon

theorem execMcMaxu_canon (n : Fin 4) (d a b e : Fin 32) {s : State} (hc : s.Held pq) :
    canonR pq (execMcMaxu n d a b e s) := by
  unfold execMcMaxu
  with_reducible repeat' first | assumption | apply State.alu_canon

theorem execMcAddv_canon (n : Fin 4) (d a b e : Fin 32) {s : State} (hc : s.Held pq) :
    canonR pq (execMcAddv n d a b e s) := by
  unfold execMcAddv
  with_reducible repeat' first | assumption | apply State.aluV_canon

theorem execMcSubv_canon (n : Fin 4) (d a b e : Fin 32) {s : State} (hc : s.Held pq) :
    canonR pq (execMcSubv n d a b e s) := by
  unfold execMcSubv
  with_reducible repeat' first | assumption | apply State.aluV_canon

theorem execMcSel_canon (n : Fin 4) (d a b e : Fin 32) {s : State} (hc : s.Held pq) :
    canonR pq (execMcSel n d a b e s) := by
  unfold execMcSel
  with_reducible repeat' first | assumption | apply State.alu_canon

theorem execMcMul_canon (n : Fin 4) (d a b e : Fin 32) {s : State} (hc : s.Held pq) :
    canonR pq (execMcMul n d a b e s) := by
  unfold execMcMul
  with_reducible repeat' first | assumption | apply State.alu_canon

theorem execMcMulh_canon (n : Fin 4) (d a b e : Fin 32) {s : State} (hc : s.Held pq) :
    canonR pq (execMcMulh n d a b e s) := by
  unfold execMcMulh
  with_reducible repeat' first | assumption | apply State.alu_canon

theorem execMcMulhu_canon (n : Fin 4) (d a b e : Fin 32) {s : State} (hc : s.Held pq) :
    canonR pq (execMcMulhu n d a b e s) := by
  unfold execMcMulhu
  with_reducible repeat' first | assumption | apply State.alu_canon

theorem execMcMulv_canon (n : Fin 4) (d a b e : Fin 32) {s : State} (hc : s.Held pq) :
    canonR pq (execMcMulv n d a b e s) := by
  unfold execMcMulv
  with_reducible repeat' first | assumption | apply State.aluV_canon

theorem execMcDiv_canon (n : Fin 4) (d a b e : Fin 32) {s : State} (hc : s.Held pq) :
    canonR pq (execMcDiv n d a b e s) := by
  unfold execMcDiv
  with_reducible repeat' first | assumption | apply State.aluDiv_canon

theorem execMcDivu_canon (n : Fin 4) (d a b e : Fin 32) {s : State} (hc : s.Held pq) :
    canonR pq (execMcDivu n d a b e s) := by
  unfold execMcDivu
  with_reducible repeat' first | assumption | apply State.aluDiv_canon

theorem execMcRem_canon (n : Fin 4) (d a b e : Fin 32) {s : State} (hc : s.Held pq) :
    canonR pq (execMcRem n d a b e s) := by
  unfold execMcRem
  with_reducible repeat' first | assumption | apply State.aluDiv_canon

theorem execMcRemu_canon (n : Fin 4) (d a b e : Fin 32) {s : State} (hc : s.Held pq) :
    canonR pq (execMcRemu n d a b e s) := by
  unfold execMcRemu
  with_reducible repeat' first | assumption | apply State.aluDiv_canon

theorem execMcAddS_canon (n : Fin 4) (d a b e : Fin 32) {s : State} (hc : s.Held pq) :
    canonR pq (execMcAddS n d a b e s) := by
  unfold execMcAddS
  with_reducible repeat' first | assumption | apply State.aluSat_canon

theorem execMcSubS_canon (n : Fin 4) (d a b e : Fin 32) {s : State} (hc : s.Held pq) :
    canonR pq (execMcSubS n d a b e s) := by
  unfold execMcSubS
  with_reducible repeat' first | assumption | apply State.aluSat_canon

theorem execMcNegS_canon (n : Fin 4) (d a b e : Fin 32) {s : State} (hc : s.Held pq) :
    canonR pq (execMcNegS n d a b e s) := by
  unfold execMcNegS
  with_reducible repeat' first | assumption | apply State.aluSat_canon

theorem execMcAbsS_canon (n : Fin 4) (d a b e : Fin 32) {s : State} (hc : s.Held pq) :
    canonR pq (execMcAbsS n d a b e s) := by
  unfold execMcAbsS
  with_reducible repeat' first | assumption | apply State.aluSat_canon

theorem execMcMulq_canon (n : Fin 4) (d a b e : Fin 32) {s : State} (hc : s.Held pq) :
    canonR pq (execMcMulq n d a b e s) := by
  unfold execMcMulq
  with_reducible repeat' first | assumption | apply State.aluSat_canon

theorem execMcMadq_canon (n : Fin 4) (d a b e : Fin 32) {s : State} (hc : s.Held pq) :
    canonR pq (execMcMadq n d a b e s) := by
  unfold execMcMadq
  with_reducible repeat' first | assumption | apply State.aluSat_canon

theorem execMcMulq15_canon (n : Fin 4) (d a b e : Fin 32) {s : State} (hc : s.Held pq) :
    canonR pq (execMcMulq15 n d a b e s) := by
  unfold execMcMulq15
  with_reducible repeat' first | assumption | apply State.aluSat_canon

theorem execMcMadq15_canon (n : Fin 4) (d a b e : Fin 32) {s : State} (hc : s.Held pq) :
    canonR pq (execMcMadq15 n d a b e s) := by
  unfold execMcMadq15
  with_reducible repeat' first | assumption | apply State.aluSat_canon

theorem execMcClmp_canon (n : Fin 4) (d a b e : Fin 32) {s : State} (hc : s.Held pq) :
    canonR pq (execMcClmp n d a b e s) := by
  unfold execMcClmp
  with_reducible repeat' first | assumption | apply State.alu_canon

theorem execMcShls_canon (n : Fin 4) (d a b e : Fin 32) {s : State} (hc : s.Held pq) :
    canonR pq (execMcShls n d a b e s) := by
  unfold execMcShls
  with_reducible repeat' first | assumption | apply State.aluSat_canon

theorem execMcRndq15_canon (n : Fin 4) (d a b e : Fin 32) {s : State} (hc : s.Held pq) :
    canonR pq (execMcRndq15 n d a b e s) := by
  unfold execMcRndq15
  with_reducible repeat' first | assumption | apply State.aluSat_canon

theorem execMcFadd_canon (n : Fin 4) (d a b e : Fin 32) {s : State} (hc : s.Held pq) :
    canonR pq (execMcFadd n d a b e s) := by
  unfold execMcFadd
  with_reducible repeat' first | assumption | apply State.alu_canon

theorem execMcFsub_canon (n : Fin 4) (d a b e : Fin 32) {s : State} (hc : s.Held pq) :
    canonR pq (execMcFsub n d a b e s) := by
  unfold execMcFsub
  with_reducible repeat' first | assumption | apply State.alu_canon

theorem execMcFmul_canon (n : Fin 4) (d a b e : Fin 32) {s : State} (hc : s.Held pq) :
    canonR pq (execMcFmul n d a b e s) := by
  unfold execMcFmul
  with_reducible repeat' first | assumption | apply State.alu_canon

theorem execMcFmad_canon (n : Fin 4) (d a b e : Fin 32) {s : State} (hc : s.Held pq) :
    canonR pq (execMcFmad n d a b e s) := by
  unfold execMcFmad
  with_reducible repeat' first | assumption | apply State.alu_canon

theorem execMcFmin_canon (n : Fin 4) (d a b e : Fin 32) {s : State} (hc : s.Held pq) :
    canonR pq (execMcFmin n d a b e s) := by
  unfold execMcFmin
  with_reducible repeat' first | assumption | apply State.alu_canon

theorem execMcFmax_canon (n : Fin 4) (d a b e : Fin 32) {s : State} (hc : s.Held pq) :
    canonR pq (execMcFmax n d a b e s) := by
  unfold execMcFmax
  with_reducible repeat' first | assumption | apply State.alu_canon

theorem execMcFabs_canon (n : Fin 4) (d a b e : Fin 32) {s : State} (hc : s.Held pq) :
    canonR pq (execMcFabs n d a b e s) := by
  unfold execMcFabs
  with_reducible repeat' first | assumption | apply State.alu_canon

theorem execMcFneg_canon (n : Fin 4) (d a b e : Fin 32) {s : State} (hc : s.Held pq) :
    canonR pq (execMcFneg n d a b e s) := by
  unfold execMcFneg
  with_reducible repeat' first | assumption | apply State.alu_canon

theorem execMcFcvtQf_canon (n : Fin 4) (d a b e : Fin 32) {s : State} (hc : s.Held pq) :
    canonR pq (execMcFcvtQf n d a b e s) := by
  unfold execMcFcvtQf
  with_reducible repeat' first | assumption | apply State.alu_canon

theorem execMcFcvtFq_canon (n : Fin 4) (d a b e : Fin 32) {s : State} (hc : s.Held pq) :
    canonR pq (execMcFcvtFq n d a b e s) := by
  unfold execMcFcvtFq
  with_reducible repeat' first | assumption | apply State.alu_canon

theorem execMcFcvtIf_canon (n : Fin 4) (d a b e : Fin 32) {s : State} (hc : s.Held pq) :
    canonR pq (execMcFcvtIf n d a b e s) := by
  unfold execMcFcvtIf
  with_reducible repeat' first | assumption | apply State.alu_canon

theorem execMcFcvtFi_canon (n : Fin 4) (d a b e : Fin 32) {s : State} (hc : s.Held pq) :
    canonR pq (execMcFcvtFi n d a b e s) := by
  unfold execMcFcvtFi
  with_reducible repeat' first | assumption | apply State.alu_canon

theorem execMcFlt_canon (n : Fin 4) (d a b e : Fin 32) {s : State} (hc : s.Held pq) :
    canonR pq (execMcFlt n d a b e s) := by
  unfold execMcFlt
  with_reducible repeat' first | assumption | apply State.alu_canon

theorem execMcFdiv_canon (n : Fin 4) (d a b e : Fin 32) {s : State} (hc : s.Held pq) :
    canonR pq (execMcFdiv n d a b e s) := by
  unfold execMcFdiv
  with_reducible repeat' first | assumption | apply State.alu_canon

theorem execMcFsqrt_canon (n : Fin 4) (d a b e : Fin 32) {s : State} (hc : s.Held pq) :
    canonR pq (execMcFsqrt n d a b e s) := by
  unfold execMcFsqrt
  with_reducible repeat' first | assumption | apply State.alu_canon

theorem execMcFeq_canon (n : Fin 4) (d a b e : Fin 32) {s : State} (hc : s.Held pq) :
    canonR pq (execMcFeq n d a b e s) := by
  unfold execMcFeq
  with_reducible repeat' first | assumption | apply State.alu_canon

theorem execMcFle_canon (n : Fin 4) (d a b e : Fin 32) {s : State} (hc : s.Held pq) :
    canonR pq (execMcFle n d a b e s) := by
  unfold execMcFle
  with_reducible repeat' first | assumption | apply State.alu_canon

theorem execMcClarke_canon (n : Fin 4) (d a b e : Fin 32) {s : State} (hc : s.Held pq) :
    canonR pq (execMcClarke n d a b e s) := by
  unfold execMcClarke
  with_reducible repeat' first | assumption | apply State.aluVec_canon

theorem execMcPark_canon (n : Fin 4) (d a b e : Fin 32) {s : State} (hc : s.Held pq) :
    canonR pq (execMcPark n d a b e s) := by
  unfold execMcPark
  with_reducible repeat' first | assumption | apply State.aluVec_canon

theorem execMcIpark_canon (n : Fin 4) (d a b e : Fin 32) {s : State} (hc : s.Held pq) :
    canonR pq (execMcIpark n d a b e s) := by
  unfold execMcIpark
  with_reducible repeat' first | assumption | apply State.aluVec_canon

theorem execMcSvm_canon (n : Fin 4) (d a b e : Fin 32) {s : State} (hc : s.Held pq) :
    canonR pq (execMcSvm n d a b e s) := by
  unfold execMcSvm
  with_reducible repeat' first | assumption | apply State.aluVec_canon

theorem execMcClz_canon (n : Fin 4) (d a b e : Fin 32) {s : State} (hc : s.Held pq) :
    canonR pq (execMcClz n d a b e s) := by
  unfold execMcClz
  with_reducible repeat' first | assumption | apply State.alu_canon

theorem execMcCtz_canon (n : Fin 4) (d a b e : Fin 32) {s : State} (hc : s.Held pq) :
    canonR pq (execMcCtz n d a b e s) := by
  unfold execMcCtz
  with_reducible repeat' first | assumption | apply State.alu_canon

theorem execMcPopc_canon (n : Fin 4) (d a b e : Fin 32) {s : State} (hc : s.Held pq) :
    canonR pq (execMcPopc n d a b e s) := by
  unfold execMcPopc
  with_reducible repeat' first | assumption | apply State.alu_canon

theorem execMcBswap_canon (n : Fin 4) (d a b e : Fin 32) {s : State} (hc : s.Held pq) :
    canonR pq (execMcBswap n d a b e s) := by
  unfold execMcBswap
  with_reducible repeat' first | assumption | apply State.alu_canon

theorem execMcAddi_canon (n : Fin 4) (d a : Fin 32) (imm : BitVec 16) {s : State} (hc : s.Held pq) :
    canonR pq (execMcAddi n d a imm s) := by
  unfold execMcAddi
  with_reducible repeat' first | assumption | apply State.coreImm_canon

theorem execMcAndi_canon (n : Fin 4) (d a : Fin 32) (imm : BitVec 16) {s : State} (hc : s.Held pq) :
    canonR pq (execMcAndi n d a imm s) := by
  unfold execMcAndi
  with_reducible repeat' first | assumption | apply State.coreImm_canon

theorem execMcOri_canon (n : Fin 4) (d a : Fin 32) (imm : BitVec 16) {s : State} (hc : s.Held pq) :
    canonR pq (execMcOri n d a imm s) := by
  unfold execMcOri
  with_reducible repeat' first | assumption | apply State.coreImm_canon

theorem execMcXori_canon (n : Fin 4) (d a : Fin 32) (imm : BitVec 16) {s : State} (hc : s.Held pq) :
    canonR pq (execMcXori n d a imm s) := by
  unfold execMcXori
  with_reducible repeat' first | assumption | apply State.coreImm_canon

theorem execMcSlti_canon (n : Fin 4) (d a : Fin 32) (imm : BitVec 16) {s : State} (hc : s.Held pq) :
    canonR pq (execMcSlti n d a imm s) := by
  unfold execMcSlti
  with_reducible repeat' first | assumption | apply State.coreImm_canon

theorem execMcSltiu_canon (n : Fin 4) (d a : Fin 32) (imm : BitVec 16) {s : State} (hc : s.Held pq) :
    canonR pq (execMcSltiu n d a imm s) := by
  unfold execMcSltiu
  with_reducible repeat' first | assumption | apply State.coreImm_canon

theorem execMcLui_canon (n : Fin 4) (d a : Fin 32) (imm : BitVec 16) {s : State} (hc : s.Held pq) :
    canonR pq (execMcLui n d a imm s) := by
  unfold execMcLui
  with_reducible repeat' first | assumption | apply State.coreImm_canon

theorem execMcSlli_canon (n : Fin 4) (d a : Fin 32) (imm : BitVec 14) {s : State} (hc : s.Held pq) :
    canonR pq (execMcSlli n d a imm s) := by
  unfold execMcSlli
  with_reducible repeat' first | assumption | apply State.coreImm_canon

theorem execMcSrli_canon (n : Fin 4) (d a : Fin 32) (imm : BitVec 14) {s : State} (hc : s.Held pq) :
    canonR pq (execMcSrli n d a imm s) := by
  unfold execMcSrli
  with_reducible repeat' first | assumption | apply State.coreImm_canon

theorem execMcSrai_canon (n : Fin 4) (d a : Fin 32) (imm : BitVec 14) {s : State} (hc : s.Held pq) :
    canonR pq (execMcSrai n d a imm s) := by
  unfold execMcSrai
  with_reducible repeat' first | assumption | apply State.coreImm_canon

/-! CoreMem. -/

theorem State.loadUse_canon {s : State} (k ea v : Nat) (t : Bool) (u : LoadUse) (hc : s.Held pq) : (s.loadUse k ea v t u).Held pq := by
  cases u <;> unfold State.loadUse <;> dsimp only
  · exact State.onArch_canon _ _ hc
  · exact State.onArch_canon _ _ hc
  · exact State.onArch_canon _ _ hc
  · exact State.onArch_canon _ _ (State.storeOut_canon _ _ _ hc)

theorem State.loadGo_canon {s : State} (k word creg ea : Nat) (dev : Bool) (use : LoadUse) (hc : s.Held pq) :
    canonD pq (State.loadGo s k word creg ea dev use) := by
  unfold State.loadGo
  with_reducible repeat' first | assumption | apply canonD_next | apply canonD_stop | apply canonD_exc | apply canonD_stall | apply State.coreLoad_canon | apply State.loadUse_canon | apply State.onCore_canon | (apply canonA_of_val; assumption) | (apply canonA_of_err; assumption) | (apply canonA_of_sent; assumption) | split

theorem State.coreLoadOp_canon {s : State} (n : Fin 4) (word : Nat) (legal : Bool) (creg : Nat) (off : Arch → Word) (size : Nat) (isCap : Bool) (use : LoadUse) (hc : s.Held pq) :
    canonR pq (State.coreLoadOp s n word legal creg off size isCap use) := by
  unfold State.coreLoadOp
  with_reducible repeat' first | assumption | intro _ | apply canonD_exc | apply State.loadGo_canon | apply State.runCore_canon | dsimp only | split

theorem State.loadM_canon {s : State} (n : Fin 4) (op : Nat) (d c : Fin 32) (off : BitVec 16) (legal : Bool) (size : Nat) (use : LoadUse) (hc : s.Held pq) :
    canonR pq (State.loadM s n op d c off legal size use) := by
  unfold State.loadM
  with_reducible repeat' first | assumption | apply State.coreLoadOp_canon

theorem State.loadX_canon {s : State} (n : Fin 4) (fn : Nat) (d a b e : Fin 32) (legal : Bool) (size : Nat) (use : LoadUse) (hc : s.Held pq) :
    canonR pq (State.loadX s n fn d a b e legal size use) := by
  unfold State.loadX
  with_reducible repeat' first | assumption | apply State.coreLoadOp_canon

theorem State.storeGo_canon {s : State} (k creg ea size : Nat) (ents : List StoreEnt) (hc : s.Held pq) :
    canonD pq (State.storeGo s k creg ea size ents) := by
  unfold State.storeGo
  with_reducible repeat' first | assumption | apply canonD_next | apply canonD_exc | apply canonD_stall | apply State.pushStores_canon | (apply canonO_of_eq; assumption) | split

theorem State.coreStoreOp_canon {s : State} (n : Fin 4) (word : Nat) (legal : Bool) (creg d : Nat) (off : Arch → Word) (size : Nat) (hc : s.Held pq) :
    canonR pq (State.coreStoreOp s n word legal creg d off size) := by
  unfold State.coreStoreOp
  with_reducible repeat' first | assumption | intro _ | apply canonD_exc | apply State.runCore_canon | apply State.storeGo_canon | dsimp only | split

theorem State.storeM_canon {s : State} (n : Fin 4) (op : Nat) (d c : Fin 32) (off : BitVec 16) (legal : Bool) (size : Nat) (hc : s.Held pq) :
    canonR pq (State.storeM s n op d c off legal size) := by
  unfold State.storeM
  with_reducible repeat' first | assumption | apply State.coreStoreOp_canon

theorem State.storeX_canon {s : State} (n : Fin 4) (fn : Nat) (d a b e : Fin 32) (legal : Bool) (size : Nat) (hc : s.Held pq) :
    canonR pq (State.storeX s n fn d a b e legal size) := by
  unfold State.storeX
  with_reducible repeat' first | assumption | apply State.coreStoreOp_canon

theorem State.storeCapM_canon {s : State} (n : Fin 4) (d c : Fin 32) (off : BitVec 16) (hc : s.Held pq) :
    canonR pq (State.storeCapM s n d c off) := by
  unfold State.storeCapM
  with_reducible repeat' first | assumption | intro _ | apply canonD_exc | apply State.runCore_canon | apply State.storeGo_canon | dsimp only | split

theorem State.amoOp_canon {s : State} (n : Fin 4) (fn : Nat) (d a b e : Fin 32) (hc : s.Held pq) :
    canonR pq (State.amoOp s n fn d a b e) := by
  unfold State.amoOp
  with_reducible repeat' first | assumption | intro _ | apply canonD_exc | apply State.loadGo_canon | apply State.runCore_canon | dsimp only | split

theorem State.blockRead_canon {s : State} (k creg : Nat) (dev : Bool) (ext : Nat) (l : List (Nat × Nat × Nat)) (hc : s.Held pq) :
    canonOP pq (s.blockRead k creg dev ext l) := by
  induction l generalizing s with
  | nil => exact hc
  | cons p l ih =>
    obtain ⟨a, n, o⟩ := p
    unfold State.blockRead
    have h1 := State.coreLoad_canon k dev a n hc
    revert h1
    dsimp only
    generalize s.coreLoad k dev a n = x
    intro h1
    cases x with
    | val t v b =>
      have h2 := ih (s := t) h1
      revert h2
      dsimp only
      generalize t.blockRead k creg dev ext l = y
      intro h2
      split
      · exact h2
      · exact h2
    | err t r => exact h1
    | sent t =>
      have h2 := ih (s := t) h1
      revert h2
      dsimp only
      generalize t.blockRead k creg dev ext l = y
      intro h2
      split
      · exact h2
      · exact h2
    | stall => trivial

theorem State.blockOne_canon {s : State} (k d : Nat) (src : Option Nat) (b fill ext len : Nat) (hc : s.Held pq) :
    canonD pq (State.blockOne s k d src b fill ext len) := by
  unfold State.blockOne
  with_reducible repeat' first | assumption | apply canonOP_some | apply canonD_next | apply canonD_exc | apply canonD_stall | apply State.blockRead_canon | apply State.onArch_canon | apply State.pushStores_canon | (apply canonO_of_eq; assumption) | (apply canonOP_of_eq; assumption) | dsimp only | split

theorem State.blockRun_canon {s : State} (k d : Nat) (src : Option Nat) (b fill ext left m : Nat) (hc : s.Held pq) :
    canonD pq (s.blockRun k d src b fill ext left m) := by
  induction m generalizing s ext left with
  | zero =>
    unfold State.blockRun
    split <;> exact hc
  | succ m ih =>
    unfold State.blockRun
    dsimp only
    split
    · exact hc
    · have h1 := State.blockOne_canon k d src b fill ext (min 64 left) hc
      revert h1
      generalize s.blockOne k d src b fill ext (min 64 left) = x
      intro h1
      cases x with
      | next t => exact ih _ _ h1
      | stall => exact hc
      | stop t => exact h1
      | arith t r => exact h1
      | jump t r => exact h1
      | goto t r => exact h1
      | after t r => exact h1
      | exc t r => exact h1
      | post t f => exact h1

theorem execMcLb_canon (n : Fin 4) (d c : Fin 32) (off : BitVec 16) {s : State} (hc : s.Held pq) :
    canonR pq (execMcLb n d c off s) := by
  unfold execMcLb
  with_reducible repeat' first | assumption | apply State.loadM_canon

theorem execMcLbu_canon (n : Fin 4) (d c : Fin 32) (off : BitVec 16) {s : State} (hc : s.Held pq) :
    canonR pq (execMcLbu n d c off s) := by
  unfold execMcLbu
  with_reducible repeat' first | assumption | apply State.loadM_canon

theorem execMcLh_canon (n : Fin 4) (d c : Fin 32) (off : BitVec 16) {s : State} (hc : s.Held pq) :
    canonR pq (execMcLh n d c off s) := by
  unfold execMcLh
  with_reducible repeat' first | assumption | apply State.loadM_canon

theorem execMcLhu_canon (n : Fin 4) (d c : Fin 32) (off : BitVec 16) {s : State} (hc : s.Held pq) :
    canonR pq (execMcLhu n d c off s) := by
  unfold execMcLhu
  with_reducible repeat' first | assumption | apply State.loadM_canon

theorem execMcLw_canon (n : Fin 4) (d c : Fin 32) (off : BitVec 16) {s : State} (hc : s.Held pq) :
    canonR pq (execMcLw n d c off s) := by
  unfold execMcLw
  with_reducible repeat' first | assumption | apply State.loadM_canon

theorem execMcLd_canon (n : Fin 4) (d c : Fin 32) (off : BitVec 16) {s : State} (hc : s.Held pq) :
    canonR pq (execMcLd n d c off s) := by
  unfold execMcLd
  with_reducible repeat' first | assumption | apply State.loadM_canon

theorem execMcSb_canon (n : Fin 4) (d c : Fin 32) (off : BitVec 16) {s : State} (hc : s.Held pq) :
    canonR pq (execMcSb n d c off s) := by
  unfold execMcSb
  with_reducible repeat' first | assumption | apply State.storeM_canon

theorem execMcSh_canon (n : Fin 4) (d c : Fin 32) (off : BitVec 16) {s : State} (hc : s.Held pq) :
    canonR pq (execMcSh n d c off s) := by
  unfold execMcSh
  with_reducible repeat' first | assumption | apply State.storeM_canon

theorem execMcSw_canon (n : Fin 4) (d c : Fin 32) (off : BitVec 16) {s : State} (hc : s.Held pq) :
    canonR pq (execMcSw n d c off s) := by
  unfold execMcSw
  with_reducible repeat' first | assumption | apply State.storeM_canon

theorem execMcSd_canon (n : Fin 4) (d c : Fin 32) (off : BitVec 16) {s : State} (hc : s.Held pq) :
    canonR pq (execMcSd n d c off s) := by
  unfold execMcSd
  with_reducible repeat' first | assumption | apply State.storeM_canon

theorem execMcLc_canon (n : Fin 4) (d c : Fin 32) (off : BitVec 16) {s : State} (hc : s.Held pq) :
    canonR pq (execMcLc n d c off s) := by
  unfold execMcLc
  with_reducible repeat' first | assumption | apply State.coreLoadOp_canon

theorem execMcSc_canon (n : Fin 4) (d c : Fin 32) (off : BitVec 16) {s : State} (hc : s.Held pq) :
    canonR pq (execMcSc n d c off s) := by
  unfold execMcSc
  with_reducible repeat' first | assumption | apply State.storeCapM_canon

theorem execMcLxLb_canon (n : Fin 4) (d a b e : Fin 32) {s : State} (hc : s.Held pq) :
    canonR pq (execMcLxLb n d a b e s) := by
  unfold execMcLxLb
  with_reducible repeat' first | assumption | apply State.loadX_canon

theorem execMcLxLbu_canon (n : Fin 4) (d a b e : Fin 32) {s : State} (hc : s.Held pq) :
    canonR pq (execMcLxLbu n d a b e s) := by
  unfold execMcLxLbu
  with_reducible repeat' first | assumption | apply State.loadX_canon

theorem execMcLxLh_canon (n : Fin 4) (d a b e : Fin 32) {s : State} (hc : s.Held pq) :
    canonR pq (execMcLxLh n d a b e s) := by
  unfold execMcLxLh
  with_reducible repeat' first | assumption | apply State.loadX_canon

theorem execMcLxLhu_canon (n : Fin 4) (d a b e : Fin 32) {s : State} (hc : s.Held pq) :
    canonR pq (execMcLxLhu n d a b e s) := by
  unfold execMcLxLhu
  with_reducible repeat' first | assumption | apply State.loadX_canon

theorem execMcLxLw_canon (n : Fin 4) (d a b e : Fin 32) {s : State} (hc : s.Held pq) :
    canonR pq (execMcLxLw n d a b e s) := by
  unfold execMcLxLw
  with_reducible repeat' first | assumption | apply State.loadX_canon

theorem execMcLxLd_canon (n : Fin 4) (d a b e : Fin 32) {s : State} (hc : s.Held pq) :
    canonR pq (execMcLxLd n d a b e s) := by
  unfold execMcLxLd
  with_reducible repeat' first | assumption | apply State.loadX_canon

theorem execMcSxSb_canon (n : Fin 4) (d a b e : Fin 32) {s : State} (hc : s.Held pq) :
    canonR pq (execMcSxSb n d a b e s) := by
  unfold execMcSxSb
  with_reducible repeat' first | assumption | apply State.storeX_canon

theorem execMcSxSh_canon (n : Fin 4) (d a b e : Fin 32) {s : State} (hc : s.Held pq) :
    canonR pq (execMcSxSh n d a b e s) := by
  unfold execMcSxSh
  with_reducible repeat' first | assumption | apply State.storeX_canon

theorem execMcSxSw_canon (n : Fin 4) (d a b e : Fin 32) {s : State} (hc : s.Held pq) :
    canonR pq (execMcSxSw n d a b e s) := by
  unfold execMcSxSw
  with_reducible repeat' first | assumption | apply State.storeX_canon

theorem execMcSxSd_canon (n : Fin 4) (d a b e : Fin 32) {s : State} (hc : s.Held pq) :
    canonR pq (execMcSxSd n d a b e s) := by
  unfold execMcSxSd
  with_reducible repeat' first | assumption | apply State.storeX_canon

theorem execMcAmoSwap_canon (n : Fin 4) (d a b e : Fin 32) {s : State} (hc : s.Held pq) :
    canonR pq (execMcAmoSwap n d a b e s) := by
  unfold execMcAmoSwap
  with_reducible repeat' first | assumption | apply State.amoOp_canon

theorem execMcAmoAdd_canon (n : Fin 4) (d a b e : Fin 32) {s : State} (hc : s.Held pq) :
    canonR pq (execMcAmoAdd n d a b e s) := by
  unfold execMcAmoAdd
  with_reducible repeat' first | assumption | apply State.amoOp_canon

theorem execMcAmoAnd_canon (n : Fin 4) (d a b e : Fin 32) {s : State} (hc : s.Held pq) :
    canonR pq (execMcAmoAnd n d a b e s) := by
  unfold execMcAmoAnd
  with_reducible repeat' first | assumption | apply State.amoOp_canon

theorem execMcAmoOr_canon (n : Fin 4) (d a b e : Fin 32) {s : State} (hc : s.Held pq) :
    canonR pq (execMcAmoOr n d a b e s) := by
  unfold execMcAmoOr
  with_reducible repeat' first | assumption | apply State.amoOp_canon

theorem execMcBcopy_canon (n : Fin 4) (d a b e : Fin 32) (m ext : Nat) {s : State} (hc : s.Held pq) :
    canonR pq (execMcBcopy n d a b e m ext s) := by
  unfold execMcBcopy
  with_reducible repeat' first | assumption | intro _ | apply canonD_exc | apply State.blockRun_canon | apply State.runCore_canon | dsimp only | split

theorem execMcBfill_canon (n : Fin 4) (d a b e : Fin 32) (m : Nat) {s : State} (hc : s.Held pq) :
    canonR pq (execMcBfill n d a b e m s) := by
  unfold execMcBfill
  with_reducible repeat' first | assumption | intro _ | apply canonD_exc | apply State.blockRun_canon | apply State.runCore_canon | dsimp only | split

theorem State.outDone_canon {s : State} (k : Nat) (hc : s.Held pq) :
    (State.outDone s k).Held pq := by
  unfold State.outDone
  with_reducible repeat' first | assumption | apply State.onCore_canon

theorem execPcieCompletion_canon (n : Fin 4) (data : Nat) {s : State} (hc : s.Held pq) : canonR pq (execPcieCompletion n data s) := by
  unfold execPcieCompletion
  split
  · exact canonR_next hc
  · rename_i k o _
    have h1 : (s.outDone k).Held pq := State.outDone_canon _ hc
    generalize s.outDone k = t at h1 ⊢
    have h2 : canonA pq (t.heldOver k o.ea o.use.size (.val t (data % 256 ^ o.use.size) false)) := State.heldOver_canon _ _ _ h1
    dsimp only
    generalize t.heldOver k o.ea o.use.size (.val t (data % 256 ^ o.use.size) false) = x at h2 ⊢
    cases x with
    | val u v b =>
      exact canonR_next (canonO_getD (State.settle_canon _ _ h2 (canonD_next (State.loadUse_canon _ _ _ _ _ h2))) h2)
    | err u r => exact canonR_next h1
    | sent u => exact canonR_next h1
    | stall => exact canonR_next h1

theorem execPcieCompletionTimeout_canon (n : Fin 4) {s : State} (hc : s.Held pq) :
    canonR pq (execPcieCompletionTimeout n s) := by
  unfold execPcieCompletionTimeout
  with_reducible repeat' first | assumption | apply canonR_next | apply canonO_getD | apply State.advanceTo_canon | apply State.fault_canon | apply State.outDone_canon | split

/-! CoreFlow. -/

theorem Slide.then_canon {x : Slide} {f : State → Done} (hx : canonL pq x) (hf : ∀ t : State, t.Held pq → canonD pq (f t)) : canonD pq (x.then f) := by
  cases x with
  | ok t => exact hf t hx
  | exc t e => exact hx
  | stall => trivial

theorem State.branch_canon {s : State} (n : Fin 4) (op : Nat) (a b : Fin 32) (off : BitVec 16) (f : Word → Word → Bool) (hc : s.Held pq) :
    canonR pq (State.branch s n op a b off f) := by
  unfold State.branch
  with_reducible repeat' first | assumption | intro _ | apply canonD_next | apply canonD_jump | apply canonD_exc | apply State.runCore_canon | dsimp only | split

theorem State.capDerive_canon {s : State} (n : Fin 4) (word : Nat) (d a : Fin 32) (legal : Bool) (f : Arch → Cap → Except Exc Cap) (hc : s.Held pq) :
    canonR pq (State.capDerive s n word d a legal f) := by
  unfold State.capDerive
  with_reducible repeat' first | assumption | intro _ | apply canonD_next | apply canonD_exc | apply State.onArch_canon | apply State.runCore_canon | split

theorem State.capOp_canon {s : State} (n : Fin 4) (fn : Nat) (d a b e : Fin 32) (legal : Bool) (f : Arch → Cap → Except Exc Cap) (hc : s.Held pq) :
    canonR pq (State.capOp s n fn d a b e legal f) := by
  unfold State.capOp
  with_reducible repeat' first | assumption | apply State.capDerive_canon

theorem State.capField_canon {s : State} (n : Fin 4) (fn : Nat) (d a b e : Fin 32) (f : Cap → Word) (hc : s.Held pq) :
    canonR pq (State.capField s n fn d a b e f) := by
  unfold State.capField
  with_reducible repeat' first | assumption | intro _ | apply canonD_next | apply State.onArch_canon | apply State.runCore_canon

theorem execMcBeq_canon (n : Fin 4) (a b : Fin 32) (off : BitVec 16) {s : State} (hc : s.Held pq) :
    canonR pq (execMcBeq n a b off s) := by
  unfold execMcBeq
  with_reducible repeat' first | assumption | apply State.branch_canon

theorem execMcBne_canon (n : Fin 4) (a b : Fin 32) (off : BitVec 16) {s : State} (hc : s.Held pq) :
    canonR pq (execMcBne n a b off s) := by
  unfold execMcBne
  with_reducible repeat' first | assumption | apply State.branch_canon

theorem execMcBlt_canon (n : Fin 4) (a b : Fin 32) (off : BitVec 16) {s : State} (hc : s.Held pq) :
    canonR pq (execMcBlt n a b off s) := by
  unfold execMcBlt
  with_reducible repeat' first | assumption | apply State.branch_canon

theorem execMcBge_canon (n : Fin 4) (a b : Fin 32) (off : BitVec 16) {s : State} (hc : s.Held pq) :
    canonR pq (execMcBge n a b off s) := by
  unfold execMcBge
  with_reducible repeat' first | assumption | apply State.branch_canon

theorem execMcBltu_canon (n : Fin 4) (a b : Fin 32) (off : BitVec 16) {s : State} (hc : s.Held pq) :
    canonR pq (execMcBltu n a b off s) := by
  unfold execMcBltu
  with_reducible repeat' first | assumption | apply State.branch_canon

theorem execMcBgeu_canon (n : Fin 4) (a b : Fin 32) (off : BitVec 16) {s : State} (hc : s.Held pq) :
    canonR pq (execMcBgeu n a b off s) := by
  unfold execMcBgeu
  with_reducible repeat' first | assumption | apply State.branch_canon

theorem execMcJ_canon (n : Fin 4) (off : BitVec 26) {s : State} (hc : s.Held pq) :
    canonR pq (execMcJ n off s) := by
  unfold execMcJ
  with_reducible repeat' first | assumption | intro _ | apply canonD_jump | apply canonD_exc | apply State.runCore_canon | dsimp only | split

theorem execMcCall_canon (n : Fin 4) (off : BitVec 26) {s : State} (hc : s.Held pq) :
    canonR pq (execMcCall n off s) := by
  unfold execMcCall
  with_reducible repeat' first | assumption | intro _ | apply canonD_goto | apply canonD_exc | apply State.runCore_canon | apply State.slideFwd_canon | apply Slide.then_canon | dsimp only | split

theorem execMcJc_canon (n : Fin 4) (d a b e : Fin 32) {s : State} (hc : s.Held pq) :
    canonR pq (execMcJc n d a b e s) := by
  unfold execMcJc
  with_reducible repeat' first | assumption | intro _ | apply canonD_jump | apply canonD_exc | apply State.onArch_canon | apply State.runCore_canon | dsimp only | split

theorem execMcCallc_canon (n : Fin 4) (d a b e : Fin 32) {s : State} (hc : s.Held pq) :
    canonR pq (execMcCallc n d a b e s) := by
  unfold execMcCallc
  with_reducible repeat' first | assumption | intro _ | apply canonD_goto | apply canonD_exc | apply State.onArch_canon | apply State.runCore_canon | apply State.slideFwd_canon | apply Slide.then_canon | dsimp only | split

theorem execMcRetc_canon (n : Fin 4) (d a b e : Fin 32) {s : State} (hc : s.Held pq) :
    canonR pq (execMcRetc n d a b e s) := by
  unfold execMcRetc
  with_reducible repeat' first | assumption | intro _ | apply canonD_goto | apply canonD_exc | apply State.onArch_canon | apply State.runCore_canon | apply State.slideBack_canon | apply Slide.then_canon | dsimp only | split

theorem execMcRet_canon (n : Fin 4) (d a b e : Fin 32) {s : State} (hc : s.Held pq) :
    canonR pq (execMcRet n d a b e s) := by
  unfold execMcRet
  with_reducible repeat' first | assumption | intro _ | apply canonD_goto | apply canonD_exc | apply State.runCore_canon | apply State.slideBack_canon | apply Slide.then_canon | dsimp only | split

theorem execMcLoop_canon (n : Fin 4) (a z : Fin 32) (off : BitVec 16) {s : State} (hc : s.Held pq) :
    canonR pq (execMcLoop n a z off s) := by
  unfold execMcLoop
  with_reducible repeat' first | assumption | intro _ | apply canonD_next | apply canonD_goto | apply canonD_exc | apply State.onArch_canon | apply State.runCore_canon | dsimp only | split

theorem execMcEndloop_canon (n : Fin 4) (z : BitVec 26) {s : State} (hc : s.Held pq) :
    canonR pq (execMcEndloop n z s) := by
  unfold execMcEndloop
  with_reducible repeat' first | assumption | intro _ | apply canonD_next | apply State.runCore_canon

theorem execMcSgmov_canon (n : Fin 4) (d a b e : Fin 32) {s : State} (hc : s.Held pq) :
    canonR pq (execMcSgmov n d a b e s) := by
  unfold execMcSgmov
  with_reducible repeat' first | assumption | apply State.capOp_canon

theorem execMcSgbase_canon (n : Fin 4) (d a b e : Fin 32) {s : State} (hc : s.Held pq) :
    canonR pq (execMcSgbase n d a b e s) := by
  unfold execMcSgbase
  with_reducible repeat' first | assumption | apply State.capField_canon

theorem execMcSglen_canon (n : Fin 4) (d a b e : Fin 32) {s : State} (hc : s.Held pq) :
    canonR pq (execMcSglen n d a b e s) := by
  unfold execMcSglen
  with_reducible repeat' first | assumption | apply State.capField_canon

theorem execMcSgperm_canon (n : Fin 4) (d a b e : Fin 32) {s : State} (hc : s.Held pq) :
    canonR pq (execMcSgperm n d a b e s) := by
  unfold execMcSgperm
  with_reducible repeat' first | assumption | apply State.capField_canon

theorem execMcSgtype_canon (n : Fin 4) (d a b e : Fin 32) {s : State} (hc : s.Held pq) :
    canonR pq (execMcSgtype n d a b e s) := by
  unfold execMcSgtype
  with_reducible repeat' first | assumption | apply State.capField_canon

theorem execMcSgtag_canon (n : Fin 4) (d a b e : Fin 32) {s : State} (hc : s.Held pq) :
    canonR pq (execMcSgtag n d a b e s) := by
  unfold execMcSgtag
  with_reducible repeat' first | assumption | apply State.capField_canon

theorem execMcSgcur_canon (n : Fin 4) (d a b e : Fin 32) {s : State} (hc : s.Held pq) :
    canonR pq (execMcSgcur n d a b e s) := by
  unfold execMcSgcur
  with_reducible repeat' first | assumption | apply State.capField_canon

theorem execMcSgsetc_canon (n : Fin 4) (d a b e : Fin 32) {s : State} (hc : s.Held pq) :
    canonR pq (execMcSgsetc n d a b e s) := by
  unfold execMcSgsetc
  with_reducible repeat' first | assumption | apply State.capOp_canon

theorem execMcSgaddc_canon (n : Fin 4) (d a b e : Fin 32) {s : State} (hc : s.Held pq) :
    canonR pq (execMcSgaddc n d a b e s) := by
  unfold execMcSgaddc
  with_reducible repeat' first | assumption | apply State.capOp_canon

theorem execMcSgnarrow_canon (n : Fin 4) (d a b e : Fin 32) {s : State} (hc : s.Held pq) :
    canonR pq (execMcSgnarrow n d a b e s) := by
  unfold execMcSgnarrow
  with_reducible repeat' first | assumption | apply State.capOp_canon

theorem execMcSgmask_canon (n : Fin 4) (d a b e : Fin 32) {s : State} (hc : s.Held pq) :
    canonR pq (execMcSgmask n d a b e s) := by
  unfold execMcSgmask
  with_reducible repeat' first | assumption | apply State.capOp_canon

theorem execMcSgseal_canon (n : Fin 4) (d a b e : Fin 32) {s : State} (hc : s.Held pq) :
    canonR pq (execMcSgseal n d a b e s) := by
  unfold execMcSgseal
  with_reducible repeat' first | assumption | apply State.capOp_canon

theorem execMcSgopen_canon (n : Fin 4) (d a b e : Fin 32) {s : State} (hc : s.Held pq) :
    canonR pq (execMcSgopen n d a b e s) := by
  unfold execMcSgopen
  with_reducible repeat' first | assumption | apply State.capOp_canon

theorem execMcSgvoid_canon (n : Fin 4) (d a b e : Fin 32) {s : State} (hc : s.Held pq) :
    canonR pq (execMcSgvoid n d a b e s) := by
  unfold execMcSgvoid
  with_reducible repeat' first | assumption | apply State.capOp_canon

theorem execMcSgaddci_canon (n : Fin 4) (d c : Fin 32) (off : BitVec 16) {s : State} (hc : s.Held pq) :
    canonR pq (execMcSgaddci n d c off s) := by
  unfold execMcSgaddci
  with_reducible repeat' first | assumption | apply State.capDerive_canon

/-! CoreSys. -/

theorem State.sysOp_canon {s : State} (n : Fin 4) (fn : Nat) (d a b e : Fin 32) (serial transfer : Bool) (body : State → Nat → Done) (hc : s.Held pq) (hcbody : ∀ (t : State) (a : Nat), t.Held pq → canonD pq (body t a)) :
    canonR pq (State.sysOp s n fn d a b e serial transfer body) := by
  unfold State.sysOp
  with_reducible repeat' first | assumption | apply State.runCore_canon

theorem State.drainPart_canon {s : State} (k n : Nat) (hc : s.Held pq) : (s.drainPart k n).Held pq := by
  induction n generalizing s with
  | zero => exact hc
  | succ n ih => unfold State.drainPart; with_reducible repeat' first | assumption | apply ih | apply State.drainOne_canon | (apply canonO_of_eq; assumption) | split

theorem execMcFence_canon (n : Fin 4) (d a b e : Fin 32) {s : State} (hc : s.Held pq) :
    canonR pq (execMcFence n d a b e s) := by
  unfold execMcFence
  with_reducible repeat' first | assumption | intro _ | apply canonD_next | apply canonD_stall | apply State.drainAll_canon | apply State.sysOp_canon | (apply canonO_of_eq; assumption) | split

theorem State.ckptCommit_canon {s : State} (k : Nat) (hc : s.Held pq) :
    (State.ckptCommit s k).Held pq := by
  unfold State.ckptCommit
  with_reducible repeat' first | assumption | apply State.commitCkpt_canon | apply State.onCore_canon

theorem execMcCkpt_canon (n : Fin 4) (d a b e : Fin 32) {s : State} (hc : s.Held pq) :
    canonR pq (execMcCkpt n d a b e s) := by
  unfold execMcCkpt
  with_reducible repeat' first | assumption | intro _ | apply canonD_post | apply canonD_stall | apply canonD_ite | apply State.ckptCommit_canon | apply State.drainPart_canon | apply State.sysOp_canon

theorem State.splitOff_canon {s : State} (k : Nat) (ca cb : Cap) (hc : s.Held pq) :
    (State.splitOff s k ca cb).Held pq := by
  unfold State.splitOff
  with_reducible repeat' first | assumption | apply State.commitCkpt_canon | apply State.setCore_canon | apply State.setMode_canon | (fail_if_no_progress refine canon_mk ?_ rfl rfl rfl rfl rfl rfl rfl)

theorem execMcSplit_canon (n : Fin 4) (d a b e : Fin 32) {s : State} (hc : s.Held pq) :
    canonR pq (execMcSplit n d a b e s) := by
  unfold execMcSplit
  with_reducible repeat' first | assumption | intro _ | apply canonD_next | apply canonD_exc | apply canonD_post | apply canonD_stall | apply State.ckptCommit_canon | apply State.drainPart_canon | apply State.onArch_canon | apply State.runCore_canon | apply State.splitOff_canon | dsimp only | split

theorem State.joinStop_canon {s : State} (k : Nat) (hc : s.Held pq) :
    (State.joinStop s k).Held pq := by
  unfold State.joinStop
  with_reducible repeat' first | assumption | apply State.drainPart_canon | apply State.setCore_canon | apply State.storesOut_canon | (fail_if_no_progress refine canon_mk ?_ rfl rfl rfl rfl rfl rfl rfl)

theorem execMcJoin_canon (n : Fin 4) (d a b e : Fin 32) {s : State} (hc : s.Held pq) :
    canonR pq (execMcJoin n d a b e s) := by
  unfold execMcJoin
  with_reducible repeat' first | assumption | intro _ | apply canonD_next | apply canonD_stop | apply canonD_exc | apply canonD_stall | apply canonD_ite | apply State.drainPart_canon | apply State.joinStop_canon | apply State.onArch_canon | apply State.onCore_canon | apply State.runCore_canon | apply State.setPair_canon

theorem State.tcmCopy_canon {s : State} (p : Nat) (hc : s.Held pq) :
    (State.tcmCopy s p).Held pq := by
  unfold State.tcmCopy
  with_reducible repeat' first | assumption | intro _ | apply canon_foldl | apply State.setByte_canon | apply State.wipe_canon | (fail_if_no_progress refine canon_mk ?_ rfl rfl rfl rfl rfl rfl rfl)

theorem State.joinCopied_canon {s : State} (p extra : Nat) (hc : s.Held pq) : (State.joinCopied s p extra).Held pq := by
  unfold State.joinCopied
  with_reducible repeat' first | assumption | apply State.advanceTo_canon | apply State.onCore_canon | apply State.setMode_canon | apply State.setPair_canon | apply State.setReg_canon | apply State.tcmCopy_canon | dsimp only

theorem execJoinResync_canon (p : Fin 2) (extra : Fin 14465) {s : State} (hc : s.Held pq) :
    canonR pq (execJoinResync p extra s) := by
  unfold execJoinResync
  with_reducible repeat' first | assumption | intro _ | apply canonR_next | apply canonD_post | apply canonO_getD | apply State.ckptCommit_canon | apply State.onArch_canon | apply State.settle_canon | apply State.joinCopied_canon | dsimp only | split

def canonE (pq : List Instr) {α : Type} : Except Done (State × α) → Prop | .error d => canonD pq d | .ok p => p.1.Held pq
theorem State.frameRead_canon {s : State} (k : Nat) (x : Cap) (hc : s.Held pq) : canonE pq (s.frameRead k x) := by
  unfold State.frameRead
  have h1 := State.loadWords_canon k (x.may permDevice) x.cursor.toNat 1 hc
  dsimp only
  generalize s.loadWords k (x.may permDevice) x.cursor.toNat 1 = y at h1 ⊢
  cases y with
  | err t r => exact h1
  | stall => trivial
  | sent t => trivial
  | val t v b =>
    have h2 := State.loadCap_canon k (x.may permDevice) (x.cursor.toNat + 16) (s := t) h1
    dsimp only
    generalize t.loadCap k (x.may permDevice) (x.cursor.toNat + 16) = z at h2 ⊢
    cases z with
    | err t r => exact h2
    | stall => trivial
    | sent t => trivial
    | val t v b => exact h2

theorem State.chain_canon {s : State} (k ipl : Nat) (hc : s.Held pq) :
    canonOP pq (State.chain s k ipl) := by
  unfold State.chain
  with_reducible repeat' first | assumption | apply canonOP_some | apply canonOP_none | apply State.vector_canon | (apply canonOP_of_eq; assumption) | split

theorem execMcEret_canon (n : Fin 4) (d a b e : Fin 32) {s : State} (hc : s.Held pq) : canonR pq (execMcEret n d a b e s) := by
  unfold execMcEret
  refine State.sysOp_canon _ _ _ _ _ _ _ _ _ hc fun s k hc => ?_
  dsimp only
  split
  · exact hc
  · split
    · exact hc
    · have h1 := State.frameRead_canon k (s.arch k).xstk hc
      generalize s.frameRead k (s.arch k).xstk = y at h1 ⊢
      rcases y with r | ⟨t, v, c⟩
      · exact h1
      · have ht : t.Held pq := h1
        dsimp only
        split
        · exact ht
        · split
          · rename_i h
            have h2 := canonOP_of_eq h (State.chain_canon _ _ ht)
            exact State.coreTrace_canon _ _ (State.clearPend_canon _ _ (State.onArch_canon _ _ h2))
          · have h2 := State.slideBack_canon k ht
            generalize t.slideBack k = z at h2 ⊢
            cases z with
            | stall => trivial
            | exc u f => exact h2
            | ok u => exact State.onArch_canon _ _ h2

theorem execMcWfi_canon (n : Fin 4) (d a b e : Fin 32) {s : State} (hc : s.Held pq) :
    canonR pq (execMcWfi n d a b e s) := by
  unfold execMcWfi
  with_reducible repeat' first | assumption | intro _ | apply canonD_next | apply canonD_stop | apply State.onCore_canon | apply State.sysOp_canon | split

theorem execMcTrap_canon (n : Fin 4) (d a b e : Fin 32) {s : State} (hc : s.Held pq) :
    canonR pq (execMcTrap n d a b e s) := by
  unfold execMcTrap
  with_reducible repeat' first | assumption | intro _ | apply canonD_after | apply State.sysOp_canon

theorem State.stow_canon {s : State} (k n : Nat) (hc : s.Held pq) : canonL pq (s.stow k n) := by
  induction n generalizing s with
  | zero => exact hc
  | succ n ih =>
    unfold State.stow
    dsimp only
    split
    · exact hc
    · have h := State.spill_canon k (((s.arch k).slot + 9 - (s.arch k).depth) % 8) hc
      generalize s.spill k (((s.arch k).slot + 9 - (s.arch k).depth) % 8) = x at h ⊢
      cases x with
      | ok t => exact ih (State.onArch_canon _ _ h)
      | exc t e => exact h
      | stall => trivial

theorem execMcStow_canon (n : Fin 4) (d a b e : Fin 32) {s : State} (hc : s.Held pq) :
    canonR pq (execMcStow n d a b e s) := by
  unfold execMcStow
  with_reducible repeat' first | assumption | intro _ | apply canonD_next | apply canonD_exc | apply canonD_stall | apply State.stow_canon | apply State.sysOp_canon | (apply canonL_of_ok; assumption) | (apply canonL_of_exc; assumption) | split

theorem execMcBkpt_canon (n : Fin 4) (d a b e : Fin 32) {s : State} (hc : s.Held pq) :
    canonR pq (execMcBkpt n d a b e s) := by
  unfold execMcBkpt
  with_reducible repeat' first | assumption | intro _ | apply canonD_next | apply canonD_after | apply State.setFlag_canon | apply State.sysOp_canon | dsimp only | split

theorem State.icfgWrite_canon {s : State} (k l : Nat) (v : Word) (hc : s.Held pq) :
    (State.icfgWrite s k l v).Held pq := by
  unfold State.icfgWrite
  with_reducible repeat' first | assumption | (fail_if_no_progress refine canon_mk ?_ rfl rfl rfl rfl rfl rfl rfl)

theorem State.cctlWrite_canon {s : State} (k : Nat) (v : Word) (hc : s.Held pq) :
    (State.cctlWrite s k v).Held pq := by
  unfold State.cctlWrite
  with_reducible repeat' first | assumption | apply canon_ite | apply State.onCore_canon

theorem State.srWrite_canon {s : State} (k sr : Nat) (v : Word) (hc : s.Held pq) : (s.srWrite k sr v).Held pq := by
  unfold State.srWrite
  lift_lets -underBinder
  intro arch win
  have ha : ∀ f, (arch f).Held pq := fun f => State.onArch_canon _ _ hc
  have hw : ∀ f, (win f).Held pq := fun f => State.onArch_canon _ _ hc
  clear_value arch win
  split <;> first | exact ha _ | exact hw _ | exact hc | exact State.icfgWrite_canon _ _ _ hc | exact State.cctlWrite_canon _ _ hc

theorem execMcMfsr_canon (n : Fin 4) (d a : Fin 32) (imm : BitVec 16) {s : State} (hc : s.Held pq) :
    canonR pq (execMcMfsr n d a imm s) := by
  unfold execMcMfsr
  with_reducible repeat' first | assumption | intro _ | apply canonD_next | apply canonD_exc | apply State.onArch_canon | apply State.runCore_canon | apply State.tick_canon | (fail_if_no_progress refine canon_mk ?_ rfl rfl rfl rfl rfl rfl rfl) | dsimp only | split

theorem execMcMtsr_canon (n : Fin 4) (d a : Fin 32) (imm : BitVec 16) {s : State} (hc : s.Held pq) :
    canonR pq (execMcMtsr n d a imm s) := by
  unfold execMcMtsr
  with_reducible repeat' first | assumption | intro _ | apply canonD_next | apply canonD_exc | apply State.onArch_canon | apply State.runCore_canon | apply State.srWrite_canon | dsimp only | split

theorem State.wake_canon {s : State} (k : Nat) (hc : s.Held pq) :
    (State.wake s k).Held pq := by
  unfold State.wake
  with_reducible repeat' first | assumption | apply canon_ite | apply State.onCore_canon | apply State.retire_canon

theorem State.pendingEntry_canon {s : State} (k : Nat) {r : Option State} (hc : s.Held pq) (h : s.pendingEntry k = some r) : canonO pq r := by
  unfold State.pendingEntry at h
  dsimp only at h
  split at h
  · cases h; exact State.takeArith_canon _ _ _ hc
  · split at h
    · cases h; exact State.takeDue_canon _ _ hc
    · cases h

theorem execInterruptEntry_canon (n : Fin 4) {s : State} (hc : s.Held pq) : canonR pq (execInterruptEntry n s) := by
  unfold execInterruptEntry
  split
  · exact canonR_next hc
  · split
    · exact canonR_next hc
    · rename_i k _ _ l p _
      have ht : (s.wake k).Held pq := State.wake_canon _ hc
      dsimp only
      split
      · rename_i h
        exact canonR_next (canonO_of_eq h (State.outputMism_canon _ _ ht))
      · rename_i h
        exact canonR_next (canonO_getD (State.pendingEntry_canon _ ht h) hc)
      · exact canonR_next (canonO_getD (State.takeInt_canon _ _ _ _ ht) hc)

theorem execExceptionEntry_canon (n : Fin 4) (ill : Option (BitVec 32)) {s : State} (hc : s.Held pq) : canonR pq (execExceptionEntry n ill s) := by
  unfold execExceptionEntry
  split
  · exact canonR_next hc
  · split
    · rename_i h
      exact canonR_next (canonO_getD (State.pendingEntry_canon _ hc h) hc)
    · split
      · exact canonR_next hc
      · exact State.runCore_canon _ _ _ _ _ _ hc (fun _ _ h => h)
    · exact canonR_next hc

theorem execStoreBufferDrain_canon (n : Fin 4) {s : State} (hc : s.Held pq) :
    canonR pq (execStoreBufferDrain n s) := by
  unfold execStoreBufferDrain
  with_reducible repeat' first | assumption | apply canonR_next | apply canonO_getD | apply State.drainOne_canon | apply State.outputMism_canon | (apply canonO_of_eq; assumption) | split

theorem execHoldQueueRelease_canon (n : Fin 4) {s : State} (hc : s.Held pq) :
    canonR pq (execHoldQueueRelease n s) := by
  unfold execHoldQueueRelease
  with_reducible repeat' first | assumption | apply canonR_next | apply State.setCore_canon | apply State.storesOut_canon | split

theorem execCkptDueRaise_canon (n : Fin 4) {s : State} (hc : s.Held pq) :
    canonR pq (execCkptDueRaise n s) := by
  unfold execCkptDueRaise
  with_reducible repeat' first | assumption | apply canonR_next | apply State.advanceTo_canon | apply State.onCore_canon | apply State.satInc_canon | apply State.setFld_canon | dsimp only | split

theorem execSetPending_canon (n : Fin 4) (v : BitVec 32) {s : State} (hc : s.Held pq) :
    canonR pq (execSetPending n v s) := by
  unfold execSetPending
  with_reducible repeat' first | assumption | apply canonR_next | apply State.icfgWrite_canon | split

theorem State.cctlBy_canon {s : State} (n : Fin 4) (v : Word) (hc : s.Held pq) :
    canonR pq (State.cctlBy s n v) := by
  unfold State.cctlBy
  with_reducible repeat' first | assumption | apply canonR_next | apply State.cctlWrite_canon | split

theorem execDataCacheInvalidate_canon (n : Fin 4) {s : State} (hc : s.Held pq) :
    canonR pq (execDataCacheInvalidate n s) := by
  unfold execDataCacheInvalidate
  with_reducible repeat' first | assumption | apply State.cctlBy_canon

theorem execInstructionCacheInvalidate_canon (n : Fin 4) {s : State} (hc : s.Held pq) :
    canonR pq (execInstructionCacheInvalidate n s) := by
  unfold execInstructionCacheInvalidate
  with_reducible repeat' first | assumption | apply State.cctlBy_canon

theorem execCacheInvalidationDone_canon (n : Fin 4) {s : State} (hc : s.Held pq) :
    canonR pq (execCacheInvalidationDone n s) := by
  unfold execCacheInvalidationDone
  with_reducible repeat' first | assumption | apply canonR_next | apply State.advanceTo_canon | apply State.onCore_canon | split

end Sys2Proof.Machine
end

