-- ==== Sys2Proof/Laws/Exec.lean ====
section
/-! SUPPORT. The arms of `exec`, one lemma each: a command runs its meaning. -/

namespace Sys2Proof.Machine

theorem exec_coldReset (s : State) : exec (.coldReset) s = execColdReset s := rfl
theorem exec_warmReset {pin} {x} (s : State) : exec (.warmReset pin x) s = execWarmReset pin x s := rfl
theorem exec_pornRelease {x} (s : State) : exec (.pornRelease x) s = execPornRelease x s := rfl
theorem exec_managementReset (s : State) : exec (.managementReset) s = execManagementReset s := rfl
theorem exec_pllRootSwitch {ticks} (s : State) : exec (.pllRootSwitch ticks) s = execPllRootSwitch ticks s := rfl
theorem exec_lossOfLock (s : State) : exec (.lossOfLock) s = execLossOfLock s := rfl
theorem exec_registerWrite {a} {v} {m} (s : State) : exec (.registerWrite a v m) s = execRegisterWrite a v m s := rfl
theorem exec_sliceEnable {n} {v} (s : State) : exec (.sliceEnable n v) s = execSliceEnable n v s := rfl
theorem exec_sliceDisable {n} {v} (s : State) : exec (.sliceDisable n v) s = execSliceDisable n v s := rfl
theorem exec_sliceReady {n} (s : State) : exec (.sliceReady n) s = execSliceReady n s := rfl
theorem exec_fastResultWrite {n} {codes} {ovld} (s : State) : exec (.fastResultWrite n codes ovld) s = execFastResultWrite n codes ovld s := rfl
theorem exec_freeRunningResult {n} {codes} {ovld} (s : State) : exec (.freeRunningResult n codes ovld) s = execFreeRunningResult n codes ovld s := rfl
theorem exec_groupEnable {g} {v} (s : State) : exec (.groupEnable g v) s = execGroupEnable g v s := rfl
theorem exec_integratingWindowEnd {g} {sums} (s : State) : exec (.integratingWindowEnd g sums) s = execIntegratingWindowEnd g sums s := rfl
theorem exec_integratingResultWrite {g} (s : State) : exec (.integratingResultWrite g) s = execIntegratingResultWrite g s := rfl
theorem exec_mainsZeroCrossing {g} {c} (s : State) : exec (.mainsZeroCrossing g c) s = execMainsZeroCrossing g c s := rfl
theorem exec_trackerNoSignal {g} (s : State) : exec (.trackerNoSignal g) s = execTrackerNoSignal g s := rfl
theorem exec_trackFirstWindowTimeout {g} (s : State) : exec (.trackFirstWindowTimeout g) s = execTrackFirstWindowTimeout g s := rfl
theorem exec_calStepStart {g} (s : State) : exec (.calStepStart g) s = execCalStepStart g s := rfl
theorem exec_calSubstitution {g} {fitOfs} {fitGain} (s : State) : exec (.calSubstitution g fitOfs fitGain) s = execCalSubstitution g fitOfs fitGain s := rfl
theorem exec_calPinRelease {g} (s : State) : exec (.calPinRelease g) s = execCalPinRelease g s := rfl
theorem exec_calReshadow {g} (s : State) : exec (.calReshadow g) s = execCalReshadow g s := rfl
theorem exec_calHandback {g} {ofs} {gain} (s : State) : exec (.calHandback g ofs gain) s = execCalHandback g ofs gain s := rfl
theorem exec_calSpareRelease {g} (s : State) : exec (.calSpareRelease g) s = execCalSpareRelease g s := rfl
theorem exec_calRun {g} {v} (s : State) : exec (.calRun g v) s = execCalRun g v s := rfl
theorem exec_calStop {g} {v} (s : State) : exec (.calStop g v) s = execCalStop g v s := rfl
theorem exec_calPause {g} {v} (s : State) : exec (.calPause g v) s = execCalPause g v s := rfl
theorem exec_calResume {g} {v} (s : State) : exec (.calResume g v) s = execCalResume g v s := rfl
theorem exec_permanentReplacement {n} {fitOfs} {fitGain} (s : State) : exec (.permanentReplacement n fitOfs fitGain) s = execPermanentReplacement n fitOfs fitGain s := rfl
theorem exec_testdacRequest {g} {v} (s : State) : exec (.testdacRequest g v) s = execTestdacRequest g v s := rfl
theorem exec_testdacRelease {g} {v} (s : State) : exec (.testdacRelease g v) s = execTestdacRelease g v s := rfl
theorem exec_sequencerEnable {n} {v} (s : State) : exec (.sequencerEnable n v) s = execSequencerEnable n v s := rfl
theorem exec_sqEntryWrite {n} {k} {v} (s : State) : exec (.sqEntryWrite n k v) s = execSqEntryWrite n k v s := rfl
theorem exec_comparatorLatchSet {n} {t} (s : State) : exec (.comparatorLatchSet n t) s = execComparatorLatchSet n t s := rfl
theorem exec_comparatorRawChange {n} {v} {t} (s : State) : exec (.comparatorRawChange n v t) s = execComparatorRawChange n v t s := rfl
theorem exec_comparatorSetRecord {n} (s : State) : exec (.comparatorSetRecord n) s = execComparatorSetRecord n s := rfl
theorem exec_latchClear {n} {v} (s : State) : exec (.latchClear n v) s = execLatchClear n v s := rfl
theorem exec_blankingClose {n} (s : State) : exec (.blankingClose n) s = execBlankingClose n s := rfl
theorem exec_refWrite {n} {v} (s : State) : exec (.refWrite n v) s = execRefWrite n v s := rfl
theorem exec_comparatorLiveWrite {n} {r} {v} (s : State) : exec (.comparatorLiveWrite n r v) s = execComparatorLiveWrite n r v s := rfl
theorem exec_comparatorEnable {n} {v} (s : State) : exec (.comparatorEnable n v) s = execComparatorEnable n v s := rfl
theorem exec_comparatorSettled {n} (s : State) : exec (.comparatorSettled n) s = execComparatorSettled n s := rfl
theorem exec_comparatorDisable {n} {v} (s : State) : exec (.comparatorDisable n v) s = execComparatorDisable n v s := rfl
theorem exec_selftestRequest {n} {v} (s : State) : exec (.selftestRequest n v) s = execSelftestRequest n v s := rfl
theorem exec_selftestEnd {n} {v} (s : State) : exec (.selftestEnd n v) s = execSelftestEnd n v s := rfl
theorem exec_interfaceEnable {n} {v} (s : State) : exec (.interfaceEnable n v) s = execInterfaceEnable n v s := rfl
theorem exec_levelAccept {n} {a} {b} {z} {e} (s : State) : exec (.levelAccept n a b z e) s = execLevelAccept n a b z e s := rfl
theorem exec_wireFault {n} {sig} {e} (s : State) : exec (.wireFault n sig e) s = execWireFault n sig e s := rfl
theorem exec_standstill {n} (s : State) : exec (.standstill n) s = execStandstill n s := rfl
theorem exec_posWrite {n} {rev} {v} (s : State) : exec (.posWrite n rev v) s = execPosWrite n rev v s := rfl
theorem exec_ssiFrameRecord {n} {data} {crc} (s : State) : exec (.ssiFrameRecord n data crc) s = execSsiFrameRecord n data crc s := rfl
theorem exec_ssiRelease {n} {e} (s : State) : exec (.ssiRelease n e) s = execSsiRelease n e s := rfl
theorem exec_ssiTimeout {n} (s : State) : exec (.ssiTimeout n) s = execSsiTimeout n s := rfl
theorem exec_emulatorEnable {n} {v} (s : State) : exec (.emulatorEnable n v) s = execEmulatorEnable n v s := rfl
theorem exec_emuposWrite {n} {cell} {v} (s : State) : exec (.emuposWrite n cell v) s = execEmuposWrite n cell v s := rfl
theorem exec_emulatorEdge {n} (s : State) : exec (.emulatorEdge n) s = execEmulatorEdge n s := rfl
theorem exec_soEnable {v} (s : State) : exec (.soEnable v) s = execSoEnable v s := rfl
theorem exec_eventDelivery {ssiLow} (s : State) : exec (.eventDelivery ssiLow) s = execEventDelivery ssiLow s := rfl
theorem exec_evoutPulseEnd {k} (s : State) : exec (.evoutPulseEnd k) s = execEvoutPulseEnd k s := rfl
theorem exec_evinRaise {k} {e} (s : State) : exec (.evinRaise k e) s = execEvinRaise k e s := rfl
theorem exec_timerRaise {k} (s : State) : exec (.timerRaise k) s = execTimerRaise k s := rfl
theorem exec_soTimerEnable {k} {v} (s : State) : exec (.soTimerEnable k v) s = execSoTimerEnable k v s := rfl
theorem exec_soRaise {v} (s : State) : exec (.soRaise v) s = execSoRaise v s := rfl
theorem exec_routingEntryWrite {src} {w} {v} (s : State) : exec (.routingEntryWrite src w v) s = execRoutingEntryWrite src w v s := rfl
theorem exec_ownershipEntryWrite {i} {v} (s : State) : exec (.ownershipEntryWrite i v) s = execOwnershipEntryWrite i v s := rfl
theorem exec_soMiggo {v} (s : State) : exec (.soMiggo v) s = execSoMiggo v s := rfl
theorem exec_ownershipSwitch (s : State) : exec (.ownershipSwitch) s = execOwnershipSwitch s := rfl
theorem exec_fabricWriteLanding (s : State) : exec (.fabricWriteLanding) s = execFabricWriteLanding s := rfl
theorem exec_cellEnable {n} {v} (s : State) : exec (.cellEnable n v) s = execCellEnable n v s := rfl
theorem exec_cellDisable {n} {v} (s : State) : exec (.cellDisable n v) s = execCellDisable n v s := rfl
theorem exec_cellCopyDone {n} (s : State) : exec (.cellCopyDone n) s = execCellCopyDone n s := rfl
theorem exec_restartHandlerStart {n} (s : State) : exec (.restartHandlerStart n) s = execRestartHandlerStart n s := rfl
theorem exec_handlerStart {n} (s : State) : exec (.handlerStart n) s = execHandlerStart n s := rfl
theorem exec_handlerEnd {n} (s : State) : exec (.handlerEnd n) s = execHandlerEnd n s := rfl
theorem exec_handlerBudgetFault {n} (s : State) : exec (.handlerBudgetFault n) s = execHandlerBudgetFault n s := rfl
theorem exec_recoveryMemoryCompareDone {n} (s : State) : exec (.recoveryMemoryCompareDone n) s = execRecoveryMemoryCompareDone n s := rfl
theorem exec_cellWindowWrite {n} {data} {i} {v} (s : State) : exec (.cellWindowWrite n data i v) s = execCellWindowWrite n data i v s := rfl
theorem exec_mapStoreEnable {v} (s : State) : exec (.mapStoreEnable v) s = execMapStoreEnable v s := rfl
theorem exec_msRequestGrant {p} {service} (s : State) : exec (.msRequestGrant p service) s = execMsRequestGrant p service s := rfl
theorem exec_msPageWriteback {wait} (s : State) : exec (.msPageWriteback wait) s = execMsPageWriteback wait s := rfl
theorem exec_mapStoreWindowWrite {w} {v} {port} (s : State) : exec (.mapStoreWindowWrite w v port) s = execMapStoreWindowWrite w v port s := rfl
theorem exec_descriptorWrite {k} {w} {v} (s : State) : exec (.descriptorWrite k w v) s = execDescriptorWrite k w v s := rfl
theorem exec_pwmEnable {n} {v} (s : State) : exec (.pwmEnable n v) s = execPwmEnable n v s := rfl
theorem exec_pwmDisable {n} {v} (s : State) : exec (.pwmDisable n v) s = execPwmDisable n v s := rfl
theorem exec_periodStart {n} {flt} (s : State) : exec (.periodStart n flt) s = execPeriodStart n flt s := rfl
theorem exec_pwmCentre {n} {flt} (s : State) : exec (.pwmCentre n flt) s = execPwmCentre n flt s := rfl
theorem exec_edgeInstance {n} {i} (s : State) : exec (.edgeInstance n i) s = execEdgeInstance n i s := rfl
theorem exec_triggerInstance {n} {k} {down} (s : State) : exec (.triggerInstance n k down) s = execTriggerInstance n k down s := rfl
theorem exec_deadTimeEnd {n} {b} (s : State) : exec (.deadTimeEnd n b) s = execDeadTimeEnd n b s := rfl
theorem exec_pulseEndSeen {n} {t} (s : State) : exec (.pulseEndSeen n t) s = execPulseEndSeen n t s := rfl
theorem exec_cotTimeout {n} (s : State) : exec (.cotTimeout n) s = execCotTimeout n s := rfl
theorem exec_coffPulseEnd {n} {t} (s : State) : exec (.coffPulseEnd n t) s = execCoffPulseEnd n t s := rfl
theorem exec_coffTimeout {n} (s : State) : exec (.coffTimeout n) s = execCoffTimeout n s := rfl
theorem exec_pwmCommit {n} {v} (s : State) : exec (.pwmCommit n v) s = execPwmCommit n v s := rfl
theorem exec_cbcForce {n} {k} {t} {flt} (s : State) : exec (.cbcForce n k t flt) s = execCbcForce n k t flt s := rfl
theorem exec_latchedTrip {n} {k} {t} {flt} (s : State) : exec (.latchedTrip n k t flt) s = execLatchedTrip n k t flt s := rfl
theorem exec_tripRecord {n} (s : State) : exec (.tripRecord n) s = execTripRecord n s := rfl
theorem exec_padSenseMismatch {n} {a} {b} (s : State) : exec (.padSenseMismatch n a b) s = execPadSenseMismatch n a b s := rfl
theorem exec_tripClear {n} {v} {flt} (s : State) : exec (.tripClear n v flt) s = execTripClear n v flt s := rfl
theorem exec_controlPlaneHalt {v} (s : State) : exec (.controlPlaneHalt v) s = execControlPlaneHalt v s := rfl
theorem exec_controlPlaneHaltEnd {v} (s : State) : exec (.controlPlaneHaltEnd v) s = execControlPlaneHaltEnd v s := rfl
theorem exec_lcAdd {c} {e} {d} {a} {b} (s : State) : exec (.lcAdd c e d a b) s = execLcAdd c e d a b s := rfl
theorem exec_lcSub {c} {e} {d} {a} {b} (s : State) : exec (.lcSub c e d a b) s = execLcSub c e d a b s := rfl
theorem exec_lcAnd {c} {e} {d} {a} {b} (s : State) : exec (.lcAnd c e d a b) s = execLcAnd c e d a b s := rfl
theorem exec_lcOr {c} {e} {d} {a} {b} (s : State) : exec (.lcOr c e d a b) s = execLcOr c e d a b s := rfl
theorem exec_lcXor {c} {e} {d} {a} {b} (s : State) : exec (.lcXor c e d a b) s = execLcXor c e d a b s := rfl
theorem exec_lcAndn {c} {e} {d} {a} {b} (s : State) : exec (.lcAndn c e d a b) s = execLcAndn c e d a b s := rfl
theorem exec_lcSll {c} {e} {d} {a} {b} (s : State) : exec (.lcSll c e d a b) s = execLcSll c e d a b s := rfl
theorem exec_lcSrl {c} {e} {d} {a} {b} (s : State) : exec (.lcSrl c e d a b) s = execLcSrl c e d a b s := rfl
theorem exec_lcSra {c} {e} {d} {a} {b} (s : State) : exec (.lcSra c e d a b) s = execLcSra c e d a b s := rfl
theorem exec_lcSlt {c} {e} {d} {a} {b} (s : State) : exec (.lcSlt c e d a b) s = execLcSlt c e d a b s := rfl
theorem exec_lcSltu {c} {e} {d} {a} {b} (s : State) : exec (.lcSltu c e d a b) s = execLcSltu c e d a b s := rfl
theorem exec_lcMin {c} {e} {d} {a} {b} (s : State) : exec (.lcMin c e d a b) s = execLcMin c e d a b s := rfl
theorem exec_lcMax {c} {e} {d} {a} {b} (s : State) : exec (.lcMax c e d a b) s = execLcMax c e d a b s := rfl
theorem exec_lcMul {c} {e} {d} {a} {b} (s : State) : exec (.lcMul c e d a b) s = execLcMul c e d a b s := rfl
theorem exec_lcMulh {c} {e} {d} {a} {b} (s : State) : exec (.lcMulh c e d a b) s = execLcMulh c e d a b s := rfl
theorem exec_lcSel {c} {e} {d} {a} {b} {x} (s : State) : exec (.lcSel c e d a b x) s = execLcSel c e d a b x s := rfl
theorem exec_lcClz {c} {e} {d} {a} (s : State) : exec (.lcClz c e d a) s = execLcClz c e d a s := rfl
theorem exec_lcAddS {c} {e} {d} {a} {b} (s : State) : exec (.lcAddS c e d a b) s = execLcAddS c e d a b s := rfl
theorem exec_lcSubS {c} {e} {d} {a} {b} (s : State) : exec (.lcSubS c e d a b) s = execLcSubS c e d a b s := rfl
theorem exec_lcNegS {c} {e} {d} {a} (s : State) : exec (.lcNegS c e d a) s = execLcNegS c e d a s := rfl
theorem exec_lcAbsS {c} {e} {d} {a} (s : State) : exec (.lcAbsS c e d a) s = execLcAbsS c e d a s := rfl
theorem exec_lcMulq {c} {e} {d} {a} {b} (s : State) : exec (.lcMulq c e d a b) s = execLcMulq c e d a b s := rfl
theorem exec_lcMadq {c} {e} {d} {a} {b} {x} (s : State) : exec (.lcMadq c e d a b x) s = execLcMadq c e d a b x s := rfl
theorem exec_lcMulq15 {c} {e} {d} {a} {b} (s : State) : exec (.lcMulq15 c e d a b) s = execLcMulq15 c e d a b s := rfl
theorem exec_lcMadq15 {c} {e} {d} {a} {b} {x} (s : State) : exec (.lcMadq15 c e d a b x) s = execLcMadq15 c e d a b x s := rfl
theorem exec_lcClmp {c} {e} {d} {a} {b} (s : State) : exec (.lcClmp c e d a b) s = execLcClmp c e d a b s := rfl
theorem exec_lcShls {c} {e} {d} {a} {b} (s : State) : exec (.lcShls c e d a b) s = execLcShls c e d a b s := rfl
theorem exec_lcRndq15 {c} {e} {d} {a} (s : State) : exec (.lcRndq15 c e d a) s = execLcRndq15 c e d a s := rfl
theorem exec_lcFadd {c} {e} {d} {a} {b} (s : State) : exec (.lcFadd c e d a b) s = execLcFadd c e d a b s := rfl
theorem exec_lcFsub {c} {e} {d} {a} {b} (s : State) : exec (.lcFsub c e d a b) s = execLcFsub c e d a b s := rfl
theorem exec_lcFmul {c} {e} {d} {a} {b} (s : State) : exec (.lcFmul c e d a b) s = execLcFmul c e d a b s := rfl
theorem exec_lcFmad {c} {e} {d} {a} {b} {x} (s : State) : exec (.lcFmad c e d a b x) s = execLcFmad c e d a b x s := rfl
theorem exec_lcFmin {c} {e} {d} {a} {b} (s : State) : exec (.lcFmin c e d a b) s = execLcFmin c e d a b s := rfl
theorem exec_lcFmax {c} {e} {d} {a} {b} (s : State) : exec (.lcFmax c e d a b) s = execLcFmax c e d a b s := rfl
theorem exec_lcFabs {c} {e} {d} {a} (s : State) : exec (.lcFabs c e d a) s = execLcFabs c e d a s := rfl
theorem exec_lcFneg {c} {e} {d} {a} (s : State) : exec (.lcFneg c e d a) s = execLcFneg c e d a s := rfl
theorem exec_lcFcvtQf {c} {e} {d} {a} (s : State) : exec (.lcFcvtQf c e d a) s = execLcFcvtQf c e d a s := rfl
theorem exec_lcFcvtFq {c} {e} {d} {a} (s : State) : exec (.lcFcvtFq c e d a) s = execLcFcvtFq c e d a s := rfl
theorem exec_lcFcvtIf {c} {e} {d} {a} (s : State) : exec (.lcFcvtIf c e d a) s = execLcFcvtIf c e d a s := rfl
theorem exec_lcFcvtFi {c} {e} {d} {a} (s : State) : exec (.lcFcvtFi c e d a) s = execLcFcvtFi c e d a s := rfl
theorem exec_lcFlt {c} {e} {d} {a} {b} (s : State) : exec (.lcFlt c e d a b) s = execLcFlt c e d a b s := rfl
theorem exec_lcMaca {c} {e} {x} {a} {b} (s : State) : exec (.lcMaca c e x a b) s = execLcMaca c e x a b s := rfl
theorem exec_lcMsua {c} {e} {x} {a} {b} (s : State) : exec (.lcMsua c e x a b) s = execLcMsua c e x a b s := rfl
theorem exec_lcAclr {c} {e} {x} (s : State) : exec (.lcAclr c e x) s = execLcAclr c e x s := rfl
theorem exec_lcAld {c} {e} {x} {a} (s : State) : exec (.lcAld c e x a) s = execLcAld c e x a s := rfl
theorem exec_lcArd {c} {e} {x} {d} (s : State) : exec (.lcArd c e x d) s = execLcArd c e x d s := rfl
theorem exec_lcArd15 {c} {e} {x} {d} (s : State) : exec (.lcArd15 c e x d) s = execLcArd15 c e x d s := rfl
theorem exec_lcClarke {c} {e} {d} {a} {b} (s : State) : exec (.lcClarke c e d a b) s = execLcClarke c e d a b s := rfl
theorem exec_lcPark {c} {e} {d} {a} {b} (s : State) : exec (.lcPark c e d a b) s = execLcPark c e d a b s := rfl
theorem exec_lcIpark {c} {e} {d} {a} {b} (s : State) : exec (.lcIpark c e d a b) s = execLcIpark c e d a b s := rfl
theorem exec_lcSvm {c} {e} {d} {a} (s : State) : exec (.lcSvm c e d a) s = execLcSvm c e d a s := rfl
theorem exec_lcAddi {c} {e} {d} {a} {imm} (s : State) : exec (.lcAddi c e d a imm) s = execLcAddi c e d a imm s := rfl
theorem exec_lcAndi {c} {e} {d} {a} {imm} (s : State) : exec (.lcAndi c e d a imm) s = execLcAndi c e d a imm s := rfl
theorem exec_lcOri {c} {e} {d} {a} {imm} (s : State) : exec (.lcOri c e d a imm) s = execLcOri c e d a imm s := rfl
theorem exec_lcXori {c} {e} {d} {a} {imm} (s : State) : exec (.lcXori c e d a imm) s = execLcXori c e d a imm s := rfl
theorem exec_lcSlli {c} {e} {d} {a} {imm} (s : State) : exec (.lcSlli c e d a imm) s = execLcSlli c e d a imm s := rfl
theorem exec_lcSrli {c} {e} {d} {a} {imm} (s : State) : exec (.lcSrli c e d a imm) s = execLcSrli c e d a imm s := rfl
theorem exec_lcSrai {c} {e} {d} {a} {imm} (s : State) : exec (.lcSrai c e d a imm) s = execLcSrai c e d a imm s := rfl
theorem exec_lcLi {c} {e} {d} {imm} (s : State) : exec (.lcLi c e d imm) s = execLcLi c e d imm s := rfl
theorem exec_lcLui {c} {e} {d} {imm} (s : State) : exec (.lcLui c e d imm) s = execLcLui c e d imm s := rfl
theorem exec_lcLd {c} {e} {d} {a} {imm} (s : State) : exec (.lcLd c e d a imm) s = execLcLd c e d a imm s := rfl
theorem exec_lcLdD {c} {e} {d} {a} {imm} (s : State) : exec (.lcLdD c e d a imm) s = execLcLdD c e d a imm s := rfl
theorem exec_lcSt {c} {e} {d} {a} {imm} (s : State) : exec (.lcSt c e d a imm) s = execLcSt c e d a imm s := rfl
theorem exec_lcStD {c} {e} {d} {a} {imm} (s : State) : exec (.lcStD c e d a imm) s = execLcStD c e d a imm s := rfl
theorem exec_lcPrd {c} {e} {d} {a} {x} {port} (s : State) : exec (.lcPrd c e d a x port) s = execLcPrd c e d a x port s := rfl
theorem exec_lcPrdD {c} {e} {d} {a} {x} {port} (s : State) : exec (.lcPrdD c e d a x port) s = execLcPrdD c e d a x port s := rfl
theorem exec_lcPwr {c} {e} {d} {a} {x} {port} (s : State) : exec (.lcPwr c e d a x port) s = execLcPwr c e d a x port s := rfl
theorem exec_lcPwrD {c} {e} {d} {a} {x} {port} (s : State) : exec (.lcPwrD c e d a x port) s = execLcPwrD c e d a x port s := rfl
theorem exec_lcMsLd {c} {e} {d} {a} {b} {td} (s : State) : exec (.lcMsLd c e d a b td) s = execLcMsLd c e d a b td s := rfl
theorem exec_lcMsLerp {c} {e} {d} {a} {td} (s : State) : exec (.lcMsLerp c e d a td) s = execLcMsLerp c e d a td s := rfl
theorem exec_lcMsBlerp {c} {e} {d} {a} {b} {td} (s : State) : exec (.lcMsBlerp c e d a b td) s = execLcMsBlerp c e d a b td s := rfl
theorem exec_lcBrEq {c} {e} {a} {b} {off} (s : State) : exec (.lcBrEq c e a b off) s = execLcBrEq c e a b off s := rfl
theorem exec_lcBrNe {c} {e} {a} {b} {off} (s : State) : exec (.lcBrNe c e a b off) s = execLcBrNe c e a b off s := rfl
theorem exec_lcBrLt {c} {e} {a} {b} {off} (s : State) : exec (.lcBrLt c e a b off) s = execLcBrLt c e a b off s := rfl
theorem exec_lcBrGe {c} {e} {a} {b} {off} (s : State) : exec (.lcBrGe c e a b off) s = execLcBrGe c e a b off s := rfl
theorem exec_lcBrLtu {c} {e} {a} {b} {off} (s : State) : exec (.lcBrLtu c e a b off) s = execLcBrLtu c e a b off s := rfl
theorem exec_lcBrGeu {c} {e} {a} {b} {off} (s : State) : exec (.lcBrGeu c e a b off) s = execLcBrGeu c e a b off s := rfl
theorem exec_lcDjnz {c} {e} {a} {off} (s : State) : exec (.lcDjnz c e a off) s = execLcDjnz c e a off s := rfl
theorem exec_lcBrAlways {c} {e} {off} (s : State) : exec (.lcBrAlways c e off) s = execLcBrAlways c e off s := rfl
theorem exec_lcCall {c} {e} {off} (s : State) : exec (.lcCall c e off) s = execLcCall c e off s := rfl
theorem exec_lcRet {c} {e} (s : State) : exec (.lcRet c e) s = execLcRet c e s := rfl
theorem exec_mcAdd {n} {d} {a} {b} {e} (s : State) : exec (.mcAdd n d a b e) s = execMcAdd n d a b e s := rfl
theorem exec_mcSub {n} {d} {a} {b} {e} (s : State) : exec (.mcSub n d a b e) s = execMcSub n d a b e s := rfl
theorem exec_mcAnd {n} {d} {a} {b} {e} (s : State) : exec (.mcAnd n d a b e) s = execMcAnd n d a b e s := rfl
theorem exec_mcOr {n} {d} {a} {b} {e} (s : State) : exec (.mcOr n d a b e) s = execMcOr n d a b e s := rfl
theorem exec_mcXor {n} {d} {a} {b} {e} (s : State) : exec (.mcXor n d a b e) s = execMcXor n d a b e s := rfl
theorem exec_mcAndn {n} {d} {a} {b} {e} (s : State) : exec (.mcAndn n d a b e) s = execMcAndn n d a b e s := rfl
theorem exec_mcSll {n} {d} {a} {b} {e} (s : State) : exec (.mcSll n d a b e) s = execMcSll n d a b e s := rfl
theorem exec_mcSrl {n} {d} {a} {b} {e} (s : State) : exec (.mcSrl n d a b e) s = execMcSrl n d a b e s := rfl
theorem exec_mcSra {n} {d} {a} {b} {e} (s : State) : exec (.mcSra n d a b e) s = execMcSra n d a b e s := rfl
theorem exec_mcSlt {n} {d} {a} {b} {e} (s : State) : exec (.mcSlt n d a b e) s = execMcSlt n d a b e s := rfl
theorem exec_mcSltu {n} {d} {a} {b} {e} (s : State) : exec (.mcSltu n d a b e) s = execMcSltu n d a b e s := rfl
theorem exec_mcMin {n} {d} {a} {b} {e} (s : State) : exec (.mcMin n d a b e) s = execMcMin n d a b e s := rfl
theorem exec_mcMax {n} {d} {a} {b} {e} (s : State) : exec (.mcMax n d a b e) s = execMcMax n d a b e s := rfl
theorem exec_mcMinu {n} {d} {a} {b} {e} (s : State) : exec (.mcMinu n d a b e) s = execMcMinu n d a b e s := rfl
theorem exec_mcMaxu {n} {d} {a} {b} {e} (s : State) : exec (.mcMaxu n d a b e) s = execMcMaxu n d a b e s := rfl
theorem exec_mcAddv {n} {d} {a} {b} {e} (s : State) : exec (.mcAddv n d a b e) s = execMcAddv n d a b e s := rfl
theorem exec_mcSubv {n} {d} {a} {b} {e} (s : State) : exec (.mcSubv n d a b e) s = execMcSubv n d a b e s := rfl
theorem exec_mcSel {n} {d} {a} {b} {e} (s : State) : exec (.mcSel n d a b e) s = execMcSel n d a b e s := rfl
theorem exec_mcMul {n} {d} {a} {b} {e} (s : State) : exec (.mcMul n d a b e) s = execMcMul n d a b e s := rfl
theorem exec_mcMulh {n} {d} {a} {b} {e} (s : State) : exec (.mcMulh n d a b e) s = execMcMulh n d a b e s := rfl
theorem exec_mcMulhu {n} {d} {a} {b} {e} (s : State) : exec (.mcMulhu n d a b e) s = execMcMulhu n d a b e s := rfl
theorem exec_mcMulv {n} {d} {a} {b} {e} (s : State) : exec (.mcMulv n d a b e) s = execMcMulv n d a b e s := rfl
theorem exec_mcDiv {n} {d} {a} {b} {e} (s : State) : exec (.mcDiv n d a b e) s = execMcDiv n d a b e s := rfl
theorem exec_mcDivu {n} {d} {a} {b} {e} (s : State) : exec (.mcDivu n d a b e) s = execMcDivu n d a b e s := rfl
theorem exec_mcRem {n} {d} {a} {b} {e} (s : State) : exec (.mcRem n d a b e) s = execMcRem n d a b e s := rfl
theorem exec_mcRemu {n} {d} {a} {b} {e} (s : State) : exec (.mcRemu n d a b e) s = execMcRemu n d a b e s := rfl
theorem exec_mcAddS {n} {d} {a} {b} {e} (s : State) : exec (.mcAddS n d a b e) s = execMcAddS n d a b e s := rfl
theorem exec_mcSubS {n} {d} {a} {b} {e} (s : State) : exec (.mcSubS n d a b e) s = execMcSubS n d a b e s := rfl
theorem exec_mcNegS {n} {d} {a} {b} {e} (s : State) : exec (.mcNegS n d a b e) s = execMcNegS n d a b e s := rfl
theorem exec_mcAbsS {n} {d} {a} {b} {e} (s : State) : exec (.mcAbsS n d a b e) s = execMcAbsS n d a b e s := rfl
theorem exec_mcMulq {n} {d} {a} {b} {e} (s : State) : exec (.mcMulq n d a b e) s = execMcMulq n d a b e s := rfl
theorem exec_mcMadq {n} {d} {a} {b} {e} (s : State) : exec (.mcMadq n d a b e) s = execMcMadq n d a b e s := rfl
theorem exec_mcMulq15 {n} {d} {a} {b} {e} (s : State) : exec (.mcMulq15 n d a b e) s = execMcMulq15 n d a b e s := rfl
theorem exec_mcMadq15 {n} {d} {a} {b} {e} (s : State) : exec (.mcMadq15 n d a b e) s = execMcMadq15 n d a b e s := rfl
theorem exec_mcClmp {n} {d} {a} {b} {e} (s : State) : exec (.mcClmp n d a b e) s = execMcClmp n d a b e s := rfl
theorem exec_mcShls {n} {d} {a} {b} {e} (s : State) : exec (.mcShls n d a b e) s = execMcShls n d a b e s := rfl
theorem exec_mcRndq15 {n} {d} {a} {b} {e} (s : State) : exec (.mcRndq15 n d a b e) s = execMcRndq15 n d a b e s := rfl
theorem exec_mcFadd {n} {d} {a} {b} {e} (s : State) : exec (.mcFadd n d a b e) s = execMcFadd n d a b e s := rfl
theorem exec_mcFsub {n} {d} {a} {b} {e} (s : State) : exec (.mcFsub n d a b e) s = execMcFsub n d a b e s := rfl
theorem exec_mcFmul {n} {d} {a} {b} {e} (s : State) : exec (.mcFmul n d a b e) s = execMcFmul n d a b e s := rfl
theorem exec_mcFmad {n} {d} {a} {b} {e} (s : State) : exec (.mcFmad n d a b e) s = execMcFmad n d a b e s := rfl
theorem exec_mcFmin {n} {d} {a} {b} {e} (s : State) : exec (.mcFmin n d a b e) s = execMcFmin n d a b e s := rfl
theorem exec_mcFmax {n} {d} {a} {b} {e} (s : State) : exec (.mcFmax n d a b e) s = execMcFmax n d a b e s := rfl
theorem exec_mcFabs {n} {d} {a} {b} {e} (s : State) : exec (.mcFabs n d a b e) s = execMcFabs n d a b e s := rfl
theorem exec_mcFneg {n} {d} {a} {b} {e} (s : State) : exec (.mcFneg n d a b e) s = execMcFneg n d a b e s := rfl
theorem exec_mcFcvtQf {n} {d} {a} {b} {e} (s : State) : exec (.mcFcvtQf n d a b e) s = execMcFcvtQf n d a b e s := rfl
theorem exec_mcFcvtFq {n} {d} {a} {b} {e} (s : State) : exec (.mcFcvtFq n d a b e) s = execMcFcvtFq n d a b e s := rfl
theorem exec_mcFcvtIf {n} {d} {a} {b} {e} (s : State) : exec (.mcFcvtIf n d a b e) s = execMcFcvtIf n d a b e s := rfl
theorem exec_mcFcvtFi {n} {d} {a} {b} {e} (s : State) : exec (.mcFcvtFi n d a b e) s = execMcFcvtFi n d a b e s := rfl
theorem exec_mcFlt {n} {d} {a} {b} {e} (s : State) : exec (.mcFlt n d a b e) s = execMcFlt n d a b e s := rfl
theorem exec_mcFdiv {n} {d} {a} {b} {e} (s : State) : exec (.mcFdiv n d a b e) s = execMcFdiv n d a b e s := rfl
theorem exec_mcFsqrt {n} {d} {a} {b} {e} (s : State) : exec (.mcFsqrt n d a b e) s = execMcFsqrt n d a b e s := rfl
theorem exec_mcFeq {n} {d} {a} {b} {e} (s : State) : exec (.mcFeq n d a b e) s = execMcFeq n d a b e s := rfl
theorem exec_mcFle {n} {d} {a} {b} {e} (s : State) : exec (.mcFle n d a b e) s = execMcFle n d a b e s := rfl
theorem exec_mcClarke {n} {d} {a} {b} {e} (s : State) : exec (.mcClarke n d a b e) s = execMcClarke n d a b e s := rfl
theorem exec_mcPark {n} {d} {a} {b} {e} (s : State) : exec (.mcPark n d a b e) s = execMcPark n d a b e s := rfl
theorem exec_mcIpark {n} {d} {a} {b} {e} (s : State) : exec (.mcIpark n d a b e) s = execMcIpark n d a b e s := rfl
theorem exec_mcSvm {n} {d} {a} {b} {e} (s : State) : exec (.mcSvm n d a b e) s = execMcSvm n d a b e s := rfl
theorem exec_mcClz {n} {d} {a} {b} {e} (s : State) : exec (.mcClz n d a b e) s = execMcClz n d a b e s := rfl
theorem exec_mcCtz {n} {d} {a} {b} {e} (s : State) : exec (.mcCtz n d a b e) s = execMcCtz n d a b e s := rfl
theorem exec_mcPopc {n} {d} {a} {b} {e} (s : State) : exec (.mcPopc n d a b e) s = execMcPopc n d a b e s := rfl
theorem exec_mcBswap {n} {d} {a} {b} {e} (s : State) : exec (.mcBswap n d a b e) s = execMcBswap n d a b e s := rfl
theorem exec_mcAddi {n} {d} {a} {imm} (s : State) : exec (.mcAddi n d a imm) s = execMcAddi n d a imm s := rfl
theorem exec_mcAndi {n} {d} {a} {imm} (s : State) : exec (.mcAndi n d a imm) s = execMcAndi n d a imm s := rfl
theorem exec_mcOri {n} {d} {a} {imm} (s : State) : exec (.mcOri n d a imm) s = execMcOri n d a imm s := rfl
theorem exec_mcXori {n} {d} {a} {imm} (s : State) : exec (.mcXori n d a imm) s = execMcXori n d a imm s := rfl
theorem exec_mcSlti {n} {d} {a} {imm} (s : State) : exec (.mcSlti n d a imm) s = execMcSlti n d a imm s := rfl
theorem exec_mcSltiu {n} {d} {a} {imm} (s : State) : exec (.mcSltiu n d a imm) s = execMcSltiu n d a imm s := rfl
theorem exec_mcLui {n} {d} {a} {imm} (s : State) : exec (.mcLui n d a imm) s = execMcLui n d a imm s := rfl
theorem exec_mcSlli {n} {d} {a} {imm} (s : State) : exec (.mcSlli n d a imm) s = execMcSlli n d a imm s := rfl
theorem exec_mcSrli {n} {d} {a} {imm} (s : State) : exec (.mcSrli n d a imm) s = execMcSrli n d a imm s := rfl
theorem exec_mcSrai {n} {d} {a} {imm} (s : State) : exec (.mcSrai n d a imm) s = execMcSrai n d a imm s := rfl
theorem exec_mcLb {n} {d} {c} {off} (s : State) : exec (.mcLb n d c off) s = execMcLb n d c off s := rfl
theorem exec_mcLbu {n} {d} {c} {off} (s : State) : exec (.mcLbu n d c off) s = execMcLbu n d c off s := rfl
theorem exec_mcLh {n} {d} {c} {off} (s : State) : exec (.mcLh n d c off) s = execMcLh n d c off s := rfl
theorem exec_mcLhu {n} {d} {c} {off} (s : State) : exec (.mcLhu n d c off) s = execMcLhu n d c off s := rfl
theorem exec_mcLw {n} {d} {c} {off} (s : State) : exec (.mcLw n d c off) s = execMcLw n d c off s := rfl
theorem exec_mcLd {n} {d} {c} {off} (s : State) : exec (.mcLd n d c off) s = execMcLd n d c off s := rfl
theorem exec_mcSb {n} {d} {c} {off} (s : State) : exec (.mcSb n d c off) s = execMcSb n d c off s := rfl
theorem exec_mcSh {n} {d} {c} {off} (s : State) : exec (.mcSh n d c off) s = execMcSh n d c off s := rfl
theorem exec_mcSw {n} {d} {c} {off} (s : State) : exec (.mcSw n d c off) s = execMcSw n d c off s := rfl
theorem exec_mcSd {n} {d} {c} {off} (s : State) : exec (.mcSd n d c off) s = execMcSd n d c off s := rfl
theorem exec_mcLc {n} {d} {c} {off} (s : State) : exec (.mcLc n d c off) s = execMcLc n d c off s := rfl
theorem exec_mcSc {n} {d} {c} {off} (s : State) : exec (.mcSc n d c off) s = execMcSc n d c off s := rfl
theorem exec_mcSgaddci {n} {d} {c} {off} (s : State) : exec (.mcSgaddci n d c off) s = execMcSgaddci n d c off s := rfl
theorem exec_mcLxLb {n} {d} {a} {b} {e} (s : State) : exec (.mcLxLb n d a b e) s = execMcLxLb n d a b e s := rfl
theorem exec_mcLxLbu {n} {d} {a} {b} {e} (s : State) : exec (.mcLxLbu n d a b e) s = execMcLxLbu n d a b e s := rfl
theorem exec_mcLxLh {n} {d} {a} {b} {e} (s : State) : exec (.mcLxLh n d a b e) s = execMcLxLh n d a b e s := rfl
theorem exec_mcLxLhu {n} {d} {a} {b} {e} (s : State) : exec (.mcLxLhu n d a b e) s = execMcLxLhu n d a b e s := rfl
theorem exec_mcLxLw {n} {d} {a} {b} {e} (s : State) : exec (.mcLxLw n d a b e) s = execMcLxLw n d a b e s := rfl
theorem exec_mcLxLd {n} {d} {a} {b} {e} (s : State) : exec (.mcLxLd n d a b e) s = execMcLxLd n d a b e s := rfl
theorem exec_mcSxSb {n} {d} {a} {b} {e} (s : State) : exec (.mcSxSb n d a b e) s = execMcSxSb n d a b e s := rfl
theorem exec_mcSxSh {n} {d} {a} {b} {e} (s : State) : exec (.mcSxSh n d a b e) s = execMcSxSh n d a b e s := rfl
theorem exec_mcSxSw {n} {d} {a} {b} {e} (s : State) : exec (.mcSxSw n d a b e) s = execMcSxSw n d a b e s := rfl
theorem exec_mcSxSd {n} {d} {a} {b} {e} (s : State) : exec (.mcSxSd n d a b e) s = execMcSxSd n d a b e s := rfl
theorem exec_mcAmoSwap {n} {d} {a} {b} {e} (s : State) : exec (.mcAmoSwap n d a b e) s = execMcAmoSwap n d a b e s := rfl
theorem exec_mcAmoAdd {n} {d} {a} {b} {e} (s : State) : exec (.mcAmoAdd n d a b e) s = execMcAmoAdd n d a b e s := rfl
theorem exec_mcAmoAnd {n} {d} {a} {b} {e} (s : State) : exec (.mcAmoAnd n d a b e) s = execMcAmoAnd n d a b e s := rfl
theorem exec_mcAmoOr {n} {d} {a} {b} {e} (s : State) : exec (.mcAmoOr n d a b e) s = execMcAmoOr n d a b e s := rfl
theorem exec_mcBeq {n} {a} {b} {off} (s : State) : exec (.mcBeq n a b off) s = execMcBeq n a b off s := rfl
theorem exec_mcBne {n} {a} {b} {off} (s : State) : exec (.mcBne n a b off) s = execMcBne n a b off s := rfl
theorem exec_mcBlt {n} {a} {b} {off} (s : State) : exec (.mcBlt n a b off) s = execMcBlt n a b off s := rfl
theorem exec_mcBge {n} {a} {b} {off} (s : State) : exec (.mcBge n a b off) s = execMcBge n a b off s := rfl
theorem exec_mcBltu {n} {a} {b} {off} (s : State) : exec (.mcBltu n a b off) s = execMcBltu n a b off s := rfl
theorem exec_mcBgeu {n} {a} {b} {off} (s : State) : exec (.mcBgeu n a b off) s = execMcBgeu n a b off s := rfl
theorem exec_mcJ {n} {off} (s : State) : exec (.mcJ n off) s = execMcJ n off s := rfl
theorem exec_mcCall {n} {off} (s : State) : exec (.mcCall n off) s = execMcCall n off s := rfl
theorem exec_mcJc {n} {d} {a} {b} {e} (s : State) : exec (.mcJc n d a b e) s = execMcJc n d a b e s := rfl
theorem exec_mcCallc {n} {d} {a} {b} {e} (s : State) : exec (.mcCallc n d a b e) s = execMcCallc n d a b e s := rfl
theorem exec_mcRetc {n} {d} {a} {b} {e} (s : State) : exec (.mcRetc n d a b e) s = execMcRetc n d a b e s := rfl
theorem exec_mcRet {n} {d} {a} {b} {e} (s : State) : exec (.mcRet n d a b e) s = execMcRet n d a b e s := rfl
theorem exec_mcLoop {n} {a} {z} {off} (s : State) : exec (.mcLoop n a z off) s = execMcLoop n a z off s := rfl
theorem exec_mcEndloop {n} {z} (s : State) : exec (.mcEndloop n z) s = execMcEndloop n z s := rfl
theorem exec_mcSgmov {n} {d} {a} {b} {e} (s : State) : exec (.mcSgmov n d a b e) s = execMcSgmov n d a b e s := rfl
theorem exec_mcSgbase {n} {d} {a} {b} {e} (s : State) : exec (.mcSgbase n d a b e) s = execMcSgbase n d a b e s := rfl
theorem exec_mcSglen {n} {d} {a} {b} {e} (s : State) : exec (.mcSglen n d a b e) s = execMcSglen n d a b e s := rfl
theorem exec_mcSgperm {n} {d} {a} {b} {e} (s : State) : exec (.mcSgperm n d a b e) s = execMcSgperm n d a b e s := rfl
theorem exec_mcSgtype {n} {d} {a} {b} {e} (s : State) : exec (.mcSgtype n d a b e) s = execMcSgtype n d a b e s := rfl
theorem exec_mcSgtag {n} {d} {a} {b} {e} (s : State) : exec (.mcSgtag n d a b e) s = execMcSgtag n d a b e s := rfl
theorem exec_mcSgcur {n} {d} {a} {b} {e} (s : State) : exec (.mcSgcur n d a b e) s = execMcSgcur n d a b e s := rfl
theorem exec_mcSgsetc {n} {d} {a} {b} {e} (s : State) : exec (.mcSgsetc n d a b e) s = execMcSgsetc n d a b e s := rfl
theorem exec_mcSgaddc {n} {d} {a} {b} {e} (s : State) : exec (.mcSgaddc n d a b e) s = execMcSgaddc n d a b e s := rfl
theorem exec_mcSgnarrow {n} {d} {a} {b} {e} (s : State) : exec (.mcSgnarrow n d a b e) s = execMcSgnarrow n d a b e s := rfl
theorem exec_mcSgmask {n} {d} {a} {b} {e} (s : State) : exec (.mcSgmask n d a b e) s = execMcSgmask n d a b e s := rfl
theorem exec_mcSgseal {n} {d} {a} {b} {e} (s : State) : exec (.mcSgseal n d a b e) s = execMcSgseal n d a b e s := rfl
theorem exec_mcSgopen {n} {d} {a} {b} {e} (s : State) : exec (.mcSgopen n d a b e) s = execMcSgopen n d a b e s := rfl
theorem exec_mcSgvoid {n} {d} {a} {b} {e} (s : State) : exec (.mcSgvoid n d a b e) s = execMcSgvoid n d a b e s := rfl
theorem exec_mcFence {n} {d} {a} {b} {e} (s : State) : exec (.mcFence n d a b e) s = execMcFence n d a b e s := rfl
theorem exec_mcCkpt {n} {d} {a} {b} {e} (s : State) : exec (.mcCkpt n d a b e) s = execMcCkpt n d a b e s := rfl
theorem exec_mcSplit {n} {d} {a} {b} {e} (s : State) : exec (.mcSplit n d a b e) s = execMcSplit n d a b e s := rfl
theorem exec_mcJoin {n} {d} {a} {b} {e} (s : State) : exec (.mcJoin n d a b e) s = execMcJoin n d a b e s := rfl
theorem exec_joinResync {p} {extra} (s : State) : exec (.joinResync p extra) s = execJoinResync p extra s := rfl
theorem exec_mcEret {n} {d} {a} {b} {e} (s : State) : exec (.mcEret n d a b e) s = execMcEret n d a b e s := rfl
theorem exec_mcWfi {n} {d} {a} {b} {e} (s : State) : exec (.mcWfi n d a b e) s = execMcWfi n d a b e s := rfl
theorem exec_mcTrap {n} {d} {a} {b} {e} (s : State) : exec (.mcTrap n d a b e) s = execMcTrap n d a b e s := rfl
theorem exec_mcStow {n} {d} {a} {b} {e} (s : State) : exec (.mcStow n d a b e) s = execMcStow n d a b e s := rfl
theorem exec_mcBkpt {n} {d} {a} {b} {e} (s : State) : exec (.mcBkpt n d a b e) s = execMcBkpt n d a b e s := rfl
theorem exec_mcMfsr {n} {d} {a} {imm} (s : State) : exec (.mcMfsr n d a imm) s = execMcMfsr n d a imm s := rfl
theorem exec_mcMtsr {n} {d} {a} {imm} (s : State) : exec (.mcMtsr n d a imm) s = execMcMtsr n d a imm s := rfl
theorem exec_mcBcopy {n} {d} {a} {b} {e} {m} {ext} (s : State) : exec (.mcBcopy n d a b e m ext) s = execMcBcopy n d a b e m ext s := rfl
theorem exec_mcBfill {n} {d} {a} {b} {e} {m} (s : State) : exec (.mcBfill n d a b e m) s = execMcBfill n d a b e m s := rfl
theorem exec_dataCacheInvalidate {n} (s : State) : exec (.dataCacheInvalidate n) s = execDataCacheInvalidate n s := rfl
theorem exec_instructionCacheInvalidate {n} (s : State) : exec (.instructionCacheInvalidate n) s = execInstructionCacheInvalidate n s := rfl
theorem exec_cacheInvalidationDone {n} (s : State) : exec (.cacheInvalidationDone n) s = execCacheInvalidationDone n s := rfl
theorem exec_setPending {n} {v} (s : State) : exec (.setPending n v) s = execSetPending n v s := rfl
theorem exec_storeBufferDrain {n} (s : State) : exec (.storeBufferDrain n) s = execStoreBufferDrain n s := rfl
theorem exec_interruptEntry {n} (s : State) : exec (.interruptEntry n) s = execInterruptEntry n s := rfl
theorem exec_exceptionEntry {n} {ill} (s : State) : exec (.exceptionEntry n ill) s = execExceptionEntry n ill s := rfl
theorem exec_checkerMismatch {p} {kind} {port} {a} (s : State) : exec (.checkerMismatch p kind port a) s = execCheckerMismatch p kind port a s := rfl
theorem exec_rollbackResume {n} (s : State) : exec (.rollbackResume n) s = execRollbackResume n s := rfl
theorem exec_coreBistDone {p} {ok0} {ok1} (s : State) : exec (.coreBistDone p ok0 ok1) s = execCoreBistDone p ok0 ok1 s := rfl
theorem exec_holdQueueRelease {n} (s : State) : exec (.holdQueueRelease n) s = execHoldQueueRelease n s := rfl
theorem exec_ckptDueRaise {n} (s : State) : exec (.ckptDueRaise n) s = execCkptDueRaise n s := rfl
theorem exec_ckptDueTimeout {n} (s : State) : exec (.ckptDueTimeout n) s = execCkptDueTimeout n s := rfl
theorem exec_patchArm {v} {mgmt} (s : State) : exec (.patchArm v mgmt) s = execPatchArm v mgmt s := rfl
theorem exec_patchCancel {v} {mgmt} (s : State) : exec (.patchCancel v mgmt) s = execPatchCancel v mgmt s := rfl
theorem exec_patchInstall {n} {ok} (s : State) : exec (.patchInstall n ok) s = execPatchInstall n ok s := rfl
theorem exec_pageCorrection {a} {port} (s : State) : exec (.pageCorrection a port) s = execPageCorrection a port s := rfl
theorem exec_sramPageRemap {page} (s : State) : exec (.sramPageRemap page) s = execSramPageRemap page s := rfl
theorem exec_eccStrengthWrite {k} {v} (s : State) : exec (.eccStrengthWrite k v) s = execEccStrengthWrite k v s := rfl
theorem exec_initClearDone (s : State) : exec (.initClearDone) s = execInitClearDone s := rfl
theorem exec_scrubStart {v} (s : State) : exec (.scrubStart v) s = execScrubStart v s := rfl
theorem exec_clearStart {v} (s : State) : exec (.clearStart v) s = execClearStart v s := rfl
theorem exec_scrubStop {v} {pages} (s : State) : exec (.scrubStop v pages) s = execScrubStop v pages s := rfl
theorem exec_scrubPassDone (s : State) : exec (.scrubPassDone) s = execScrubPassDone s := rfl
theorem exec_flashProgram {v} (s : State) : exec (.flashProgram v) s = execFlashProgram v s := rfl
theorem exec_flashProgramDone {bank} {verified} (s : State) : exec (.flashProgramDone bank verified) s = execFlashProgramDone bank verified s := rfl
theorem exec_flashErase {v} (s : State) : exec (.flashErase v) s = execFlashErase v s := rfl
theorem exec_flashEraseDone {bank} {verified} (s : State) : exec (.flashEraseDone bank verified) s = execFlashEraseDone bank verified s := rfl
theorem exec_flashSuspend {v} (s : State) : exec (.flashSuspend v) s = execFlashSuspend v s := rfl
theorem exec_eraseSuspended {bank} (s : State) : exec (.eraseSuspended bank) s = execEraseSuspended bank s := rfl
theorem exec_flashResume {v} (s : State) : exec (.flashResume v) s = execFlashResume v s := rfl
theorem exec_flashAckrecov {v} (s : State) : exec (.flashAckrecov v) s = execFlashAckrecov v s := rfl
theorem exec_fcCtrlWrite {v} (s : State) : exec (.fcCtrlWrite v) s = execFcCtrlWrite v s := rfl
theorem exec_fcXoWrite {k} {v} (s : State) : exec (.fcXoWrite k v) s = execFcXoWrite k v s := rfl
theorem exec_sectorRemap {bank} {sector} (s : State) : exec (.sectorRemap bank sector) s = execSectorRemap bank sector s := rfl
theorem exec_ledgerCommit {v} (s : State) : exec (.ledgerCommit v) s = execLedgerCommit v s := rfl
theorem exec_ledgerRead {v} (s : State) : exec (.ledgerRead v) s = execLedgerRead v s := rfl
theorem exec_ledgerCommandDone (s : State) : exec (.ledgerCommandDone) s = execLedgerCommandDone s := rfl
theorem exec_ledgerDirectWrite {a} {lg} {v} {mgmt} (s : State) : exec (.ledgerDirectWrite a lg v mgmt) s = execLedgerDirectWrite a lg v mgmt s := rfl
theorem exec_dmaEnable {k} {v} (s : State) : exec (.dmaEnable k v) s = execDmaEnable k v s := rfl
theorem exec_dmaAbort {k} {v} (s : State) : exec (.dmaAbort k v) s = execDmaAbort k v s := rfl
theorem exec_envelopeFetch {k} {ext} (s : State) : exec (.envelopeFetch k ext) s = execEnvelopeFetch k ext s := rfl
theorem exec_dmaBurstReadData {k} {ext} (s : State) : exec (.dmaBurstReadData k ext) s = execDmaBurstReadData k ext s := rfl
theorem exec_dmaReadbackResponse {k} (s : State) : exec (.dmaReadbackResponse k) s = execDmaReadbackResponse k s := rfl
theorem exec_dmaErrorResponse {k} (s : State) : exec (.dmaErrorResponse k) s = execDmaErrorResponse k s := rfl
theorem exec_dmaTimeout {k} (s : State) : exec (.dmaTimeout k) s = execDmaTimeout k s := rfl
theorem exec_attest (s : State) : exec (.attest) s = execAttest s := rfl
theorem exec_idkey (s : State) : exec (.idkey) s = execIdkey s := rfl
theorem exec_svnAdvance (s : State) : exec (.svnAdvance) s = execSvnAdvance s := rfl
theorem exec_revoke (s : State) : exec (.revoke) s = execRevoke s := rfl
theorem exec_phase (s : State) : exec (.phase) s = execPhase s := rfl
theorem exec_liveupd (s : State) : exec (.liveupd) s = execLiveupd s := rfl
theorem exec_liveupdPairStop {p} (s : State) : exec (.liveupdPairStop p) s = execLiveupdPairStop p s := rfl
theorem exec_bankswap (s : State) : exec (.bankswap) s = execBankswap s := rfl
theorem exec_loadcell (s : State) : exec (.loadcell) s = execLoadcell s := rfl
theorem exec_loadmap (s : State) : exec (.loadmap) s = execLoadmap s := rfl
theorem exec_loadmcode (s : State) : exec (.loadmcode) s = execLoadmcode s := rfl
theorem exec_mgreload (s : State) : exec (.mgreload) s = execMgreload s := rfl
theorem exec_serviceCommandDone (s : State) : exec (.serviceCommandDone) s = execServiceCommandDone s := rfl
theorem exec_maintRequest {v} {mgmt} (s : State) : exec (.maintRequest v mgmt) s = execMaintRequest v mgmt s := rfl
theorem exec_maintRelease {v} (s : State) : exec (.maintRelease v) s = execMaintRelease v s := rfl
theorem exec_arbiterGrant (s : State) : exec (.arbiterGrant) s = execArbiterGrant s := rfl
theorem exec_permitExpiry (s : State) : exec (.permitExpiry) s = execPermitExpiry s := rfl
theorem exec_domainPowerUp {x} {v} (s : State) : exec (.domainPowerUp x v) s = execDomainPowerUp x v s := rfl
theorem exec_domainUsable {d} (s : State) : exec (.domainUsable d) s = execDomainUsable d s := rfl
theorem exec_domainGate {x} {v} (s : State) : exec (.domainGate x v) s = execDomainGate x v s := rfl
theorem exec_opChange {v} (s : State) : exec (.opChange v) s = execOpChange v s := rfl
theorem exec_voltageConfirmed (s : State) : exec (.voltageConfirmed) s = execVoltageConfirmed s := rfl
theorem exec_pgoodTimeout (s : State) : exec (.pgoodTimeout) s = execPgoodTimeout s := rfl
theorem exec_pgoodLoss (s : State) : exec (.pgoodLoss) s = execPgoodLoss s := rfl
theorem exec_crocusEntry (s : State) : exec (.crocusEntry) s = execCrocusEntry s := rfl
theorem exec_snowdropEntry (s : State) : exec (.snowdropEntry) s = execSnowdropEntry s := rfl
theorem exec_offEntry (s : State) : exec (.offEntry) s = execOffEntry s := rfl
theorem exec_sleepPairsStopped (s : State) : exec (.sleepPairsStopped) s = execSleepPairsStopped s := rfl
theorem exec_wakeEvent {src} {ticks} (s : State) : exec (.wakeEvent src ticks) s = execWakeEvent src ticks s := rfl
theorem exec_wakeComplete (s : State) : exec (.wakeComplete) s = execWakeComplete s := rfl
theorem exec_crocusSamplingWake {ticks} (s : State) : exec (.crocusSamplingWake ticks) s = execCrocusSamplingWake ticks s := rfl
theorem exec_crocusDecision {codes} {ticks} (s : State) : exec (.crocusDecision codes ticks) s = execCrocusDecision codes ticks s := rfl
theorem exec_snowdropTimer {ticks} (s : State) : exec (.snowdropTimer ticks) s = execSnowdropTimer ticks s := rfl
theorem exec_padRelease {v} (s : State) : exec (.padRelease v) s = execPadRelease v s := rfl
theorem exec_pinConfigurationWrite {k} {v} (s : State) : exec (.pinConfigurationWrite k v) s = execPinConfigurationWrite k v s := rfl
theorem exec_gpioWrite {k} {oe} {dout} (s : State) : exec (.gpioWrite k oe dout) s = execGpioWrite k oe dout s := rfl
theorem exec_pintEnable {n} {v} {level} (s : State) : exec (.pintEnable n v level) s = execPintEnable n v level s := rfl
theorem exec_pinInterruptEdge {n} {level} (s : State) : exec (.pinInterruptEdge n level) s = execPinInterruptEdge n level s := rfl
theorem exec_letterboxPost {k} {d} {p} (s : State) : exec (.letterboxPost k d p) s = execLetterboxPost k d p s := rfl
theorem exec_letterboxAck {k} {d} {p} (s : State) : exec (.letterboxAck k d p) s = execLetterboxAck k d p s := rfl
theorem exec_letterboxEnable {k} {v} (s : State) : exec (.letterboxEnable k v) s = execLetterboxEnable k v s := rfl
theorem exec_hostPortEnable {v} (s : State) : exec (.hostPortEnable v) s = execHostPortEnable v s := rfl
theorem exec_hostWrite {ha} {be} {data} (s : State) : exec (.hostWrite ha be data) s = execHostWrite ha be data s := rfl
theorem exec_hostWriteApply (s : State) : exec (.hostWriteApply) s = execHostWriteApply s := rfl
theorem exec_hostRead {ha} (s : State) : exec (.hostRead ha) s = execHostRead ha s := rfl
theorem exec_resync (s : State) : exec (.resync) s = execResync s := rfl
theorem exec_hostWindowWrite {n} {v} {mgmt} (s : State) : exec (.hostWindowWrite n v mgmt) s = execHostWindowWrite n v mgmt s := rfl
theorem exec_pcieInboundAccess {bar1} {off} {n} {write} {data} (s : State) : exec (.pcieInboundAccess bar1 off n write data) s = execPcieInboundAccess bar1 off n write data s := rfl
theorem exec_pcieCompletion {n} {data} (s : State) : exec (.pcieCompletion n data) s = execPcieCompletion n data s := rfl
theorem exec_pcieCompletionTimeout {n} (s : State) : exec (.pcieCompletionTimeout n) s = execPcieCompletionTimeout n s := rfl
theorem exec_macTimeAdjust {m} {lo} {hi} (s : State) : exec (.macTimeAdjust m lo hi) s = execMacTimeAdjust m lo hi s := rfl
theorem exec_macTargetTime {m} {t} (s : State) : exec (.macTargetTime m t) s = execMacTargetTime m t s := rfl
theorem exec_frameReceive {m} {len} {event} {bad} (s : State) : exec (.frameReceive m len event bad) s = execFrameReceive m len event bad s := rfl
theorem exec_frameTransmit {m} {queue} {event} (s : State) : exec (.frameTransmit m queue event) s = execFrameTransmit m queue event s := rfl
theorem exec_canFrameReceive {n} {f} {len} (s : State) : exec (.canFrameReceive n f len) s = execCanFrameReceive n f len s := rfl
theorem exec_perturbationWrite {r} {v} (s : State) : exec (.perturbationWrite r v) s = execPerturbationWrite r v s := rfl
theorem exec_clrall {v} (s : State) : exec (.clrall v) s = execClrall v s := rfl
theorem exec_mismP0 (s : State) : exec (.mismP0) s = execMismP0 s := rfl
theorem exec_mismP1 (s : State) : exec (.mismP1) s = execMismP1 s := rfl
theorem exec_mismCell {cell} (s : State) : exec (.mismCell cell) s = execMismCell cell s := rfl
theorem exec_ecc1 (s : State) : exec (.ecc1) s = execEcc1 s := rfl
theorem exec_ecc2 (s : State) : exec (.ecc2) s = execEcc2 s := rfl
theorem exec_eccpage (s : State) : exec (.eccpage) s = execEccpage s := rfl
theorem exec_debugHalt {p} (s : State) : exec (.debugHalt p) s = execDebugHalt p s := rfl
theorem exec_debugStep {p} (s : State) : exec (.debugStep p) s = execDebugStep p s := rfl
theorem exec_debugResume {p} (s : State) : exec (.debugResume p) s = execDebugResume p s := rfl
theorem exec_bypass (s : State) : exec (.bypass) s = execBypass s := rfl
theorem exec_samplePreload {sampled} {preload} (s : State) : exec (.samplePreload sampled preload) s = execSamplePreload sampled preload s := rfl
theorem exec_extest (s : State) : exec (.extest) s = execExtest s := rfl
theorem exec_idcode (s : State) : exec (.idcode) s = execIdcode s := rfl
theorem exec_dbgacc (s : State) : exec (.dbgacc) s = execDbgacc s := rfl
theorem exec_tapReset (s : State) : exec (.tapReset) s = execTapReset s := rfl
theorem exec_resetnRelease {x} (s : State) : exec (.resetnRelease x) s = execResetnRelease x s := rfl
theorem exec_x32okFall {ticks} (s : State) : exec (.x32okFall ticks) s = execX32okFall ticks s := rfl
theorem exec_ledgerCompactEnd (s : State) : exec (.ledgerCompactEnd) s = execLedgerCompactEnd s := rfl
theorem exec_pairRestartCommand {p} {cold} (s : State) : exec (.pairRestartCommand p cold) s = execPairRestartCommand p cold s := rfl
theorem exec_cellRestartCommand {n} (s : State) : exec (.cellRestartCommand n) s = execCellRestartCommand n s := rfl
theorem exec_cellRoleSet {n} {role} (s : State) : exec (.cellRoleSet n role) s = execCellRoleSet n role s := rfl
theorem exec_timerOutputPulseEnd {k} (s : State) : exec (.timerOutputPulseEnd k) s = execTimerOutputPulseEnd k s := rfl
theorem exec_targetTimePulseEnd {m} {t} (s : State) : exec (.targetTimePulseEnd m t) s = execTargetTimePulseEnd m t s := rfl
theorem exec_pcieLinkStateChange {up} {gen} {lanes} {d3hot} {perst} (s : State) : exec (.pcieLinkStateChange up gen lanes d3hot perst) s = execPcieLinkStateChange up gen lanes d3hot perst s := rfl
theorem exec_canFrameTransmit {n} {error} (s : State) : exec (.canFrameTransmit n error) s = execCanFrameTransmit n error s := rfl
theorem exec_serialPortTransfer {u} (s : State) : exec (.serialPortTransfer u) s = execSerialPortTransfer u s := rfl

end Sys2Proof.Machine
end

