-- ==== Sys2Proof/Laws/Canon.lean ====
section
/-! SUPPORT. The canonical form of the state is kept by every command. -/

namespace Sys2Proof.Machine

variable {pq : List Instr}

/-- Every command answers a next state, which is canonical where the state is, with the queue as it was. -/
theorem exec_held (i : Instr) {s : State} (hc : s.Held pq) : canonR pq (exec i s) := by
  cases i with
  | coldReset => exact execColdReset_canon hc
  | warmReset pin x => exact execWarmReset_canon pin x hc
  | pornRelease x => exact execPornRelease_canon x hc
  | managementReset => exact execManagementReset_canon hc
  | pllRootSwitch ticks => exact execPllRootSwitch_canon ticks hc
  | lossOfLock => exact execLossOfLock_canon hc
  | registerWrite a v m => exact execRegisterWrite_canon a v m hc
  | sliceEnable n v => exact execSliceEnable_canon n v hc
  | sliceDisable n v => exact execSliceDisable_canon n v hc
  | sliceReady n => exact execSliceReady_canon n hc
  | fastResultWrite n codes ovld => exact execFastResultWrite_canon n codes ovld hc
  | freeRunningResult n codes ovld =>
    rw [exec_freeRunningResult]
    exact execFreeRunningResult_canon n codes ovld hc
  | groupEnable g v => exact execGroupEnable_canon g v hc
  | integratingWindowEnd g sums => exact execIntegratingWindowEnd_canon g sums hc
  | integratingResultWrite g => exact execIntegratingResultWrite_canon g hc
  | mainsZeroCrossing g c => exact execMainsZeroCrossing_canon g c hc
  | trackerNoSignal g => exact execTrackerNoSignal_canon g hc
  | trackFirstWindowTimeout g => exact execTrackFirstWindowTimeout_canon g hc
  | calStepStart g => exact execCalStepStart_canon g hc
  | calSubstitution g fitOfs fitGain => exact execCalSubstitution_canon g fitOfs fitGain hc
  | calPinRelease g => exact execCalPinRelease_canon g hc
  | calReshadow g => exact execCalReshadow_canon g hc
  | calHandback g ofs gain => exact execCalHandback_canon g ofs gain hc
  | calSpareRelease g => exact execCalSpareRelease_canon g hc
  | calRun g v => exact execCalRun_canon g v hc
  | calStop g v => exact execCalStop_canon g v hc
  | calPause g v => exact execCalPause_canon g v hc
  | calResume g v => exact execCalResume_canon g v hc
  | permanentReplacement n fitOfs fitGain => exact execPermanentReplacement_canon n fitOfs fitGain hc
  | testdacRequest g v => exact execTestdacRequest_canon g v hc
  | testdacRelease g v => exact execTestdacRelease_canon g v hc
  | sequencerEnable n v => exact execSequencerEnable_canon n v hc
  | sqEntryWrite n k v => exact execSqEntryWrite_canon n k v hc
  | comparatorLatchSet n t => exact execComparatorLatchSet_canon n t hc
  | comparatorRawChange n v t => exact execComparatorRawChange_canon n v t hc
  | comparatorSetRecord n => exact execComparatorSetRecord_canon n hc
  | latchClear n v => exact execLatchClear_canon n v hc
  | blankingClose n => exact execBlankingClose_canon n hc
  | refWrite n v => exact execRefWrite_canon n v hc
  | comparatorLiveWrite n r v => exact execComparatorLiveWrite_canon n r v hc
  | comparatorEnable n v => exact execComparatorEnable_canon n v hc
  | comparatorSettled n => exact execComparatorSettled_canon n hc
  | comparatorDisable n v => exact execComparatorDisable_canon n v hc
  | selftestRequest n v => exact execSelftestRequest_canon n v hc
  | selftestEnd n v => exact execSelftestEnd_canon n v hc
  | interfaceEnable n v => exact execInterfaceEnable_canon n v hc
  | levelAccept n a b z e => exact execLevelAccept_canon n a b z e hc
  | wireFault n sig e => exact execWireFault_canon n sig e hc
  | standstill n => exact execStandstill_canon n hc
  | posWrite n rev v => exact execPosWrite_canon n rev v hc
  | ssiFrameRecord n data crc => exact execSsiFrameRecord_canon n data crc hc
  | ssiRelease n e => exact execSsiRelease_canon n e hc
  | ssiTimeout n => exact execSsiTimeout_canon n hc
  | emulatorEnable n v => exact execEmulatorEnable_canon n v hc
  | emuposWrite n cell v => exact execEmuposWrite_canon n cell v hc
  | emulatorEdge n => exact execEmulatorEdge_canon n hc
  | soEnable v => exact execSoEnable_canon v hc
  | eventDelivery ssiLow => exact execEventDelivery_canon ssiLow hc
  | evoutPulseEnd k => exact execEvoutPulseEnd_canon k hc
  | evinRaise k e => exact execEvinRaise_canon k e hc
  | timerRaise k => exact execTimerRaise_canon k hc
  | soTimerEnable k v => exact execSoTimerEnable_canon k v hc
  | soRaise v => exact execSoRaise_canon v hc
  | routingEntryWrite src w v => exact execRoutingEntryWrite_canon src w v hc
  | ownershipEntryWrite i v => exact execOwnershipEntryWrite_canon i v hc
  | soMiggo v => exact execSoMiggo_canon v hc
  | ownershipSwitch => exact execOwnershipSwitch_canon hc
  | fabricWriteLanding => exact execFabricWriteLanding_canon hc
  | cellEnable n v => exact execCellEnable_canon n v hc
  | cellDisable n v => exact execCellDisable_canon n v hc
  | cellCopyDone n => exact execCellCopyDone_canon n hc
  | restartHandlerStart n => exact execRestartHandlerStart_canon n hc
  | handlerStart n => exact execHandlerStart_canon n hc
  | handlerEnd n => exact execHandlerEnd_canon n hc
  | handlerBudgetFault n => exact execHandlerBudgetFault_canon n hc
  | recoveryMemoryCompareDone n => exact execRecoveryMemoryCompareDone_canon n hc
  | cellWindowWrite n data i v => exact execCellWindowWrite_canon n data i v hc
  | mapStoreEnable v => exact execMapStoreEnable_canon v hc
  | msRequestGrant p service => exact execMsRequestGrant_canon p service hc
  | msPageWriteback wait => exact execMsPageWriteback_canon wait hc
  | mapStoreWindowWrite w v port => exact execMapStoreWindowWrite_canon w v port hc
  | descriptorWrite k w v => exact execDescriptorWrite_canon k w v hc
  | pwmEnable n v => exact execPwmEnable_canon n v hc
  | pwmDisable n v => exact execPwmDisable_canon n v hc
  | periodStart n flt => exact execPeriodStart_canon n flt hc
  | pwmCentre n flt => exact execPwmCentre_canon n flt hc
  | edgeInstance n i => exact execEdgeInstance_canon n i hc
  | triggerInstance n k down => exact execTriggerInstance_canon n k down hc
  | deadTimeEnd n b => exact execDeadTimeEnd_canon n b hc
  | pulseEndSeen n t => exact execPulseEndSeen_canon n t hc
  | cotTimeout n => exact execCotTimeout_canon n hc
  | coffPulseEnd n t => exact execCoffPulseEnd_canon n t hc
  | coffTimeout n => exact execCoffTimeout_canon n hc
  | pwmCommit n v => exact execPwmCommit_canon n v hc
  | cbcForce n k t flt => exact execCbcForce_canon n k t flt hc
  | latchedTrip n k t flt => exact execLatchedTrip_canon n k t flt hc
  | tripRecord n => exact execTripRecord_canon n hc
  | padSenseMismatch n a b => exact execPadSenseMismatch_canon n a b hc
  | tripClear n v flt => exact execTripClear_canon n v flt hc
  | controlPlaneHalt v => exact execControlPlaneHalt_canon v hc
  | controlPlaneHaltEnd v => exact execControlPlaneHaltEnd_canon v hc
  | lcAdd c e d a b => exact execLcAdd_canon c e d a b hc
  | lcSub c e d a b => exact execLcSub_canon c e d a b hc
  | lcAnd c e d a b => exact execLcAnd_canon c e d a b hc
  | lcOr c e d a b => exact execLcOr_canon c e d a b hc
  | lcXor c e d a b => exact execLcXor_canon c e d a b hc
  | lcAndn c e d a b => exact execLcAndn_canon c e d a b hc
  | lcSll c e d a b => exact execLcSll_canon c e d a b hc
  | lcSrl c e d a b => exact execLcSrl_canon c e d a b hc
  | lcSra c e d a b => exact execLcSra_canon c e d a b hc
  | lcSlt c e d a b => exact execLcSlt_canon c e d a b hc
  | lcSltu c e d a b => exact execLcSltu_canon c e d a b hc
  | lcMin c e d a b => exact execLcMin_canon c e d a b hc
  | lcMax c e d a b => exact execLcMax_canon c e d a b hc
  | lcMul c e d a b => exact execLcMul_canon c e d a b hc
  | lcMulh c e d a b => exact execLcMulh_canon c e d a b hc
  | lcSel c e d a b x => exact execLcSel_canon c e d a b x hc
  | lcClz c e d a => exact execLcClz_canon c e d a hc
  | lcAddS c e d a b => exact execLcAddS_canon c e d a b hc
  | lcSubS c e d a b => exact execLcSubS_canon c e d a b hc
  | lcNegS c e d a => exact execLcNegS_canon c e d a hc
  | lcAbsS c e d a => exact execLcAbsS_canon c e d a hc
  | lcMulq c e d a b => exact execLcMulq_canon c e d a b hc
  | lcMadq c e d a b x => exact execLcMadq_canon c e d a b x hc
  | lcMulq15 c e d a b => exact execLcMulq15_canon c e d a b hc
  | lcMadq15 c e d a b x => exact execLcMadq15_canon c e d a b x hc
  | lcClmp c e d a b => exact execLcClmp_canon c e d a b hc
  | lcShls c e d a b => exact execLcShls_canon c e d a b hc
  | lcRndq15 c e d a => exact execLcRndq15_canon c e d a hc
  | lcFadd c e d a b => exact execLcFadd_canon c e d a b hc
  | lcFsub c e d a b => exact execLcFsub_canon c e d a b hc
  | lcFmul c e d a b => exact execLcFmul_canon c e d a b hc
  | lcFmad c e d a b x => exact execLcFmad_canon c e d a b x hc
  | lcFmin c e d a b => exact execLcFmin_canon c e d a b hc
  | lcFmax c e d a b => exact execLcFmax_canon c e d a b hc
  | lcFabs c e d a => exact execLcFabs_canon c e d a hc
  | lcFneg c e d a => exact execLcFneg_canon c e d a hc
  | lcFcvtQf c e d a => exact execLcFcvtQf_canon c e d a hc
  | lcFcvtFq c e d a => exact execLcFcvtFq_canon c e d a hc
  | lcFcvtIf c e d a => exact execLcFcvtIf_canon c e d a hc
  | lcFcvtFi c e d a => exact execLcFcvtFi_canon c e d a hc
  | lcFlt c e d a b => exact execLcFlt_canon c e d a b hc
  | lcMaca c e x a b => exact execLcMaca_canon c e x a b hc
  | lcMsua c e x a b => exact execLcMsua_canon c e x a b hc
  | lcAclr c e x => exact execLcAclr_canon c e x hc
  | lcAld c e x a => exact execLcAld_canon c e x a hc
  | lcArd c e x d => exact execLcArd_canon c e x d hc
  | lcArd15 c e x d => exact execLcArd15_canon c e x d hc
  | lcClarke c e d a b => exact execLcClarke_canon c e d a b hc
  | lcPark c e d a b => exact execLcPark_canon c e d a b hc
  | lcIpark c e d a b => exact execLcIpark_canon c e d a b hc
  | lcSvm c e d a => exact execLcSvm_canon c e d a hc
  | lcAddi c e d a imm => exact execLcAddi_canon c e d a imm hc
  | lcAndi c e d a imm => exact execLcAndi_canon c e d a imm hc
  | lcOri c e d a imm => exact execLcOri_canon c e d a imm hc
  | lcXori c e d a imm => exact execLcXori_canon c e d a imm hc
  | lcSlli c e d a imm => exact execLcSlli_canon c e d a imm hc
  | lcSrli c e d a imm => exact execLcSrli_canon c e d a imm hc
  | lcSrai c e d a imm => exact execLcSrai_canon c e d a imm hc
  | lcLi c e d imm => exact execLcLi_canon c e d imm hc
  | lcLui c e d imm => exact execLcLui_canon c e d imm hc
  | lcLd c e d a imm => exact execLcLd_canon c e d a imm hc
  | lcLdD c e d a imm => exact execLcLdD_canon c e d a imm hc
  | lcSt c e d a imm => exact execLcSt_canon c e d a imm hc
  | lcStD c e d a imm => exact execLcStD_canon c e d a imm hc
  | lcPrd c e d a x port => exact execLcPrd_canon c e d a x port hc
  | lcPrdD c e d a x port => exact execLcPrdD_canon c e d a x port hc
  | lcPwr c e d a x port => exact execLcPwr_canon c e d a x port hc
  | lcPwrD c e d a x port => exact execLcPwrD_canon c e d a x port hc
  | lcMsLd c e d a b td => exact execLcMsLd_canon c e d a b td hc
  | lcMsLerp c e d a td => exact execLcMsLerp_canon c e d a td hc
  | lcMsBlerp c e d a b td => exact execLcMsBlerp_canon c e d a b td hc
  | lcBrEq c e a b off => exact execLcBrEq_canon c e a b off hc
  | lcBrNe c e a b off => exact execLcBrNe_canon c e a b off hc
  | lcBrLt c e a b off => exact execLcBrLt_canon c e a b off hc
  | lcBrGe c e a b off => exact execLcBrGe_canon c e a b off hc
  | lcBrLtu c e a b off => exact execLcBrLtu_canon c e a b off hc
  | lcBrGeu c e a b off => exact execLcBrGeu_canon c e a b off hc
  | lcDjnz c e a off => exact execLcDjnz_canon c e a off hc
  | lcBrAlways c e off => exact execLcBrAlways_canon c e off hc
  | lcCall c e off => exact execLcCall_canon c e off hc
  | lcRet c e => exact execLcRet_canon c e hc
  | mcAdd n d a b e => exact execMcAdd_canon n d a b e hc
  | mcSub n d a b e => exact execMcSub_canon n d a b e hc
  | mcAnd n d a b e => exact execMcAnd_canon n d a b e hc
  | mcOr n d a b e => exact execMcOr_canon n d a b e hc
  | mcXor n d a b e => exact execMcXor_canon n d a b e hc
  | mcAndn n d a b e => exact execMcAndn_canon n d a b e hc
  | mcSll n d a b e => exact execMcSll_canon n d a b e hc
  | mcSrl n d a b e => exact execMcSrl_canon n d a b e hc
  | mcSra n d a b e => exact execMcSra_canon n d a b e hc
  | mcSlt n d a b e => exact execMcSlt_canon n d a b e hc
  | mcSltu n d a b e => exact execMcSltu_canon n d a b e hc
  | mcMin n d a b e => exact execMcMin_canon n d a b e hc
  | mcMax n d a b e => exact execMcMax_canon n d a b e hc
  | mcMinu n d a b e => exact execMcMinu_canon n d a b e hc
  | mcMaxu n d a b e => exact execMcMaxu_canon n d a b e hc
  | mcAddv n d a b e => exact execMcAddv_canon n d a b e hc
  | mcSubv n d a b e => exact execMcSubv_canon n d a b e hc
  | mcSel n d a b e => exact execMcSel_canon n d a b e hc
  | mcMul n d a b e => exact execMcMul_canon n d a b e hc
  | mcMulh n d a b e => exact execMcMulh_canon n d a b e hc
  | mcMulhu n d a b e => exact execMcMulhu_canon n d a b e hc
  | mcMulv n d a b e => exact execMcMulv_canon n d a b e hc
  | mcDiv n d a b e => exact execMcDiv_canon n d a b e hc
  | mcDivu n d a b e => exact execMcDivu_canon n d a b e hc
  | mcRem n d a b e => exact execMcRem_canon n d a b e hc
  | mcRemu n d a b e => exact execMcRemu_canon n d a b e hc
  | mcAddS n d a b e => exact execMcAddS_canon n d a b e hc
  | mcSubS n d a b e => exact execMcSubS_canon n d a b e hc
  | mcNegS n d a b e => exact execMcNegS_canon n d a b e hc
  | mcAbsS n d a b e => exact execMcAbsS_canon n d a b e hc
  | mcMulq n d a b e => exact execMcMulq_canon n d a b e hc
  | mcMadq n d a b e => exact execMcMadq_canon n d a b e hc
  | mcMulq15 n d a b e => exact execMcMulq15_canon n d a b e hc
  | mcMadq15 n d a b e => exact execMcMadq15_canon n d a b e hc
  | mcClmp n d a b e => exact execMcClmp_canon n d a b e hc
  | mcShls n d a b e => exact execMcShls_canon n d a b e hc
  | mcRndq15 n d a b e => exact execMcRndq15_canon n d a b e hc
  | mcFadd n d a b e => exact execMcFadd_canon n d a b e hc
  | mcFsub n d a b e => exact execMcFsub_canon n d a b e hc
  | mcFmul n d a b e => exact execMcFmul_canon n d a b e hc
  | mcFmad n d a b e => exact execMcFmad_canon n d a b e hc
  | mcFmin n d a b e => exact execMcFmin_canon n d a b e hc
  | mcFmax n d a b e => exact execMcFmax_canon n d a b e hc
  | mcFabs n d a b e => exact execMcFabs_canon n d a b e hc
  | mcFneg n d a b e => exact execMcFneg_canon n d a b e hc
  | mcFcvtQf n d a b e => exact execMcFcvtQf_canon n d a b e hc
  | mcFcvtFq n d a b e => exact execMcFcvtFq_canon n d a b e hc
  | mcFcvtIf n d a b e => exact execMcFcvtIf_canon n d a b e hc
  | mcFcvtFi n d a b e => exact execMcFcvtFi_canon n d a b e hc
  | mcFlt n d a b e => exact execMcFlt_canon n d a b e hc
  | mcFdiv n d a b e => exact execMcFdiv_canon n d a b e hc
  | mcFsqrt n d a b e => exact execMcFsqrt_canon n d a b e hc
  | mcFeq n d a b e => exact execMcFeq_canon n d a b e hc
  | mcFle n d a b e => exact execMcFle_canon n d a b e hc
  | mcClarke n d a b e => exact execMcClarke_canon n d a b e hc
  | mcPark n d a b e => exact execMcPark_canon n d a b e hc
  | mcIpark n d a b e => exact execMcIpark_canon n d a b e hc
  | mcSvm n d a b e => exact execMcSvm_canon n d a b e hc
  | mcClz n d a b e => exact execMcClz_canon n d a b e hc
  | mcCtz n d a b e => exact execMcCtz_canon n d a b e hc
  | mcPopc n d a b e => exact execMcPopc_canon n d a b e hc
  | mcBswap n d a b e => exact execMcBswap_canon n d a b e hc
  | mcAddi n d a imm => exact execMcAddi_canon n d a imm hc
  | mcAndi n d a imm => exact execMcAndi_canon n d a imm hc
  | mcOri n d a imm => exact execMcOri_canon n d a imm hc
  | mcXori n d a imm => exact execMcXori_canon n d a imm hc
  | mcSlti n d a imm => exact execMcSlti_canon n d a imm hc
  | mcSltiu n d a imm => exact execMcSltiu_canon n d a imm hc
  | mcLui n d a imm => exact execMcLui_canon n d a imm hc
  | mcSlli n d a imm => exact execMcSlli_canon n d a imm hc
  | mcSrli n d a imm => exact execMcSrli_canon n d a imm hc
  | mcSrai n d a imm => exact execMcSrai_canon n d a imm hc
  | mcLb n d c off => exact execMcLb_canon n d c off hc
  | mcLbu n d c off => exact execMcLbu_canon n d c off hc
  | mcLh n d c off => exact execMcLh_canon n d c off hc
  | mcLhu n d c off => exact execMcLhu_canon n d c off hc
  | mcLw n d c off => exact execMcLw_canon n d c off hc
  | mcLd n d c off => exact execMcLd_canon n d c off hc
  | mcSb n d c off => exact execMcSb_canon n d c off hc
  | mcSh n d c off => exact execMcSh_canon n d c off hc
  | mcSw n d c off => exact execMcSw_canon n d c off hc
  | mcSd n d c off => exact execMcSd_canon n d c off hc
  | mcLc n d c off => exact execMcLc_canon n d c off hc
  | mcSc n d c off => exact execMcSc_canon n d c off hc
  | mcSgaddci n d c off => exact execMcSgaddci_canon n d c off hc
  | mcLxLb n d a b e => exact execMcLxLb_canon n d a b e hc
  | mcLxLbu n d a b e => exact execMcLxLbu_canon n d a b e hc
  | mcLxLh n d a b e => exact execMcLxLh_canon n d a b e hc
  | mcLxLhu n d a b e => exact execMcLxLhu_canon n d a b e hc
  | mcLxLw n d a b e => exact execMcLxLw_canon n d a b e hc
  | mcLxLd n d a b e => exact execMcLxLd_canon n d a b e hc
  | mcSxSb n d a b e => exact execMcSxSb_canon n d a b e hc
  | mcSxSh n d a b e => exact execMcSxSh_canon n d a b e hc
  | mcSxSw n d a b e => exact execMcSxSw_canon n d a b e hc
  | mcSxSd n d a b e => exact execMcSxSd_canon n d a b e hc
  | mcAmoSwap n d a b e => exact execMcAmoSwap_canon n d a b e hc
  | mcAmoAdd n d a b e => exact execMcAmoAdd_canon n d a b e hc
  | mcAmoAnd n d a b e => exact execMcAmoAnd_canon n d a b e hc
  | mcAmoOr n d a b e => exact execMcAmoOr_canon n d a b e hc
  | mcBeq n a b off => exact execMcBeq_canon n a b off hc
  | mcBne n a b off => exact execMcBne_canon n a b off hc
  | mcBlt n a b off => exact execMcBlt_canon n a b off hc
  | mcBge n a b off => exact execMcBge_canon n a b off hc
  | mcBltu n a b off => exact execMcBltu_canon n a b off hc
  | mcBgeu n a b off => exact execMcBgeu_canon n a b off hc
  | mcJ n off => exact execMcJ_canon n off hc
  | mcCall n off => exact execMcCall_canon n off hc
  | mcJc n d a b e => exact execMcJc_canon n d a b e hc
  | mcCallc n d a b e => exact execMcCallc_canon n d a b e hc
  | mcRetc n d a b e => exact execMcRetc_canon n d a b e hc
  | mcRet n d a b e => exact execMcRet_canon n d a b e hc
  | mcLoop n a z off => exact execMcLoop_canon n a z off hc
  | mcEndloop n z => exact execMcEndloop_canon n z hc
  | mcSgmov n d a b e => exact execMcSgmov_canon n d a b e hc
  | mcSgbase n d a b e => exact execMcSgbase_canon n d a b e hc
  | mcSglen n d a b e => exact execMcSglen_canon n d a b e hc
  | mcSgperm n d a b e => exact execMcSgperm_canon n d a b e hc
  | mcSgtype n d a b e => exact execMcSgtype_canon n d a b e hc
  | mcSgtag n d a b e => exact execMcSgtag_canon n d a b e hc
  | mcSgcur n d a b e => exact execMcSgcur_canon n d a b e hc
  | mcSgsetc n d a b e => exact execMcSgsetc_canon n d a b e hc
  | mcSgaddc n d a b e => exact execMcSgaddc_canon n d a b e hc
  | mcSgnarrow n d a b e => exact execMcSgnarrow_canon n d a b e hc
  | mcSgmask n d a b e => exact execMcSgmask_canon n d a b e hc
  | mcSgseal n d a b e => exact execMcSgseal_canon n d a b e hc
  | mcSgopen n d a b e => exact execMcSgopen_canon n d a b e hc
  | mcSgvoid n d a b e => exact execMcSgvoid_canon n d a b e hc
  | mcFence n d a b e => exact execMcFence_canon n d a b e hc
  | mcCkpt n d a b e => exact execMcCkpt_canon n d a b e hc
  | mcSplit n d a b e => exact execMcSplit_canon n d a b e hc
  | mcJoin n d a b e => exact execMcJoin_canon n d a b e hc
  | joinResync p extra => exact execJoinResync_canon p extra hc
  | mcEret n d a b e => exact execMcEret_canon n d a b e hc
  | mcWfi n d a b e => exact execMcWfi_canon n d a b e hc
  | mcTrap n d a b e => exact execMcTrap_canon n d a b e hc
  | mcStow n d a b e => exact execMcStow_canon n d a b e hc
  | mcBkpt n d a b e => exact execMcBkpt_canon n d a b e hc
  | mcMfsr n d a imm => exact execMcMfsr_canon n d a imm hc
  | mcMtsr n d a imm => exact execMcMtsr_canon n d a imm hc
  | mcBcopy n d a b e m ext => exact execMcBcopy_canon n d a b e m ext hc
  | mcBfill n d a b e m => exact execMcBfill_canon n d a b e m hc
  | dataCacheInvalidate n => exact execDataCacheInvalidate_canon n hc
  | instructionCacheInvalidate n => exact execInstructionCacheInvalidate_canon n hc
  | cacheInvalidationDone n => exact execCacheInvalidationDone_canon n hc
  | setPending n v => exact execSetPending_canon n v hc
  | storeBufferDrain n => exact execStoreBufferDrain_canon n hc
  | interruptEntry n => exact execInterruptEntry_canon n hc
  | exceptionEntry n ill => exact execExceptionEntry_canon n ill hc
  | checkerMismatch p kind port a => exact execCheckerMismatch_canon p kind port a hc
  | rollbackResume n => exact execRollbackResume_canon n hc
  | coreBistDone p ok0 ok1 => exact execCoreBistDone_canon p ok0 ok1 hc
  | holdQueueRelease n => exact execHoldQueueRelease_canon n hc
  | ckptDueRaise n => exact execCkptDueRaise_canon n hc
  | ckptDueTimeout n => exact execCkptDueTimeout_canon n hc
  | patchArm v mgmt => exact execPatchArm_canon v mgmt hc
  | patchCancel v mgmt => exact execPatchCancel_canon v mgmt hc
  | patchInstall n ok => exact execPatchInstall_canon n ok hc
  | pageCorrection a port => exact execPageCorrection_canon a port hc
  | sramPageRemap page => exact execSramPageRemap_canon page hc
  | eccStrengthWrite k v => exact execEccStrengthWrite_canon k v hc
  | initClearDone => exact execInitClearDone_canon hc
  | scrubStart v => exact execScrubStart_canon v hc
  | clearStart v => exact execClearStart_canon v hc
  | scrubStop v pages => exact execScrubStop_canon v pages hc
  | scrubPassDone => exact execScrubPassDone_canon hc
  | flashProgram v => exact execFlashProgram_canon v hc
  | flashProgramDone bank verified => exact execFlashProgramDone_canon bank verified hc
  | flashErase v => exact execFlashErase_canon v hc
  | flashEraseDone bank verified => exact execFlashEraseDone_canon bank verified hc
  | flashSuspend v => exact execFlashSuspend_canon v hc
  | eraseSuspended bank => exact execEraseSuspended_canon bank hc
  | flashResume v => exact execFlashResume_canon v hc
  | flashAckrecov v => exact execFlashAckrecov_canon v hc
  | fcCtrlWrite v => exact execFcCtrlWrite_canon v hc
  | fcXoWrite k v => exact execFcXoWrite_canon k v hc
  | sectorRemap bank sector => exact execSectorRemap_canon bank sector hc
  | ledgerCommit v => exact execLedgerCommit_canon v hc
  | ledgerRead v => exact execLedgerRead_canon v hc
  | ledgerCommandDone => exact execLedgerCommandDone_canon hc
  | ledgerDirectWrite a lg v mgmt => exact execLedgerDirectWrite_canon a lg v mgmt hc
  | dmaEnable k v => exact execDmaEnable_canon k v hc
  | dmaAbort k v => exact execDmaAbort_canon k v hc
  | envelopeFetch k ext => exact execEnvelopeFetch_canon k ext hc
  | dmaBurstReadData k ext => exact execDmaBurstReadData_canon k ext hc
  | dmaReadbackResponse k => exact execDmaReadbackResponse_canon k hc
  | dmaErrorResponse k => exact execDmaErrorResponse_canon k hc
  | dmaTimeout k => exact execDmaTimeout_canon k hc
  | attest => exact execAttest_canon hc
  | idkey => exact execIdkey_canon hc
  | svnAdvance => exact execSvnAdvance_canon hc
  | revoke => exact execRevoke_canon hc
  | phase => exact execPhase_canon hc
  | liveupd => exact execLiveupd_canon hc
  | liveupdPairStop p => exact execLiveupdPairStop_canon p hc
  | bankswap => exact execBankswap_canon hc
  | loadcell => exact execLoadcell_canon hc
  | loadmap => exact execLoadmap_canon hc
  | loadmcode => exact execLoadmcode_canon hc
  | mgreload => exact execMgreload_canon hc
  | serviceCommandDone => exact execServiceCommandDone_canon hc
  | maintRequest v mgmt => exact execMaintRequest_canon v mgmt hc
  | maintRelease v => exact execMaintRelease_canon v hc
  | arbiterGrant => exact execArbiterGrant_canon hc
  | permitExpiry => exact execPermitExpiry_canon hc
  | domainPowerUp x v => exact execDomainPowerUp_canon x v hc
  | domainUsable d => exact execDomainUsable_canon d hc
  | domainGate x v => exact execDomainGate_canon x v hc
  | opChange v => exact execOpChange_canon v hc
  | voltageConfirmed => exact execVoltageConfirmed_canon hc
  | pgoodTimeout => exact execPgoodTimeout_canon hc
  | pgoodLoss => exact execPgoodLoss_canon hc
  | crocusEntry => exact execCrocusEntry_canon hc
  | snowdropEntry => exact execSnowdropEntry_canon hc
  | offEntry => exact execOffEntry_canon hc
  | sleepPairsStopped => exact execSleepPairsStopped_canon hc
  | wakeEvent src ticks => exact execWakeEvent_canon src ticks hc
  | wakeComplete => exact execWakeComplete_canon hc
  | crocusSamplingWake ticks => exact execCrocusSamplingWake_canon ticks hc
  | crocusDecision codes ticks => exact execCrocusDecision_canon codes ticks hc
  | snowdropTimer ticks => exact execSnowdropTimer_canon ticks hc
  | padRelease v => exact execPadRelease_canon v hc
  | pinConfigurationWrite k v => exact execPinConfigurationWrite_canon k v hc
  | gpioWrite k oe dout => exact execGpioWrite_canon k oe dout hc
  | pintEnable n v level => exact execPintEnable_canon n v level hc
  | pinInterruptEdge n level => exact execPinInterruptEdge_canon n level hc
  | letterboxPost k d p => exact execLetterboxPost_canon k d p hc
  | letterboxAck k d p => exact execLetterboxAck_canon k d p hc
  | letterboxEnable k v => exact execLetterboxEnable_canon k v hc
  | hostPortEnable v => exact execHostPortEnable_canon v hc
  | hostWrite ha be data => exact execHostWrite_canon ha be data hc
  | hostWriteApply => exact execHostWriteApply_canon hc
  | hostRead ha => exact execHostRead_canon ha hc
  | resync => exact execResync_canon hc
  | hostWindowWrite n v mgmt => exact execHostWindowWrite_canon n v mgmt hc
  | pcieInboundAccess bar1 off n write data => exact execPcieInboundAccess_canon bar1 off n write data hc
  | pcieCompletion n data => exact execPcieCompletion_canon n data hc
  | pcieCompletionTimeout n => exact execPcieCompletionTimeout_canon n hc
  | macTimeAdjust m lo hi => exact execMacTimeAdjust_canon m lo hi hc
  | macTargetTime m t => exact execMacTargetTime_canon m t hc
  | frameReceive m len event bad => exact execFrameReceive_canon m len event bad hc
  | frameTransmit m queue event => exact execFrameTransmit_canon m queue event hc
  | canFrameReceive n f len => exact execCanFrameReceive_canon n f len hc
  | perturbationWrite r v => exact execPerturbationWrite_canon r v hc
  | clrall v => exact execClrall_canon v hc
  | mismP0 => exact execMismP0_canon hc
  | mismP1 => exact execMismP1_canon hc
  | mismCell cell => exact execMismCell_canon cell hc
  | ecc1 => exact execEcc1_canon hc
  | ecc2 => exact execEcc2_canon hc
  | eccpage => exact execEccpage_canon hc
  | debugHalt p => exact execDebugHalt_canon p hc
  | debugStep p => exact execDebugStep_canon p hc
  | debugResume p => exact execDebugResume_canon p hc
  | bypass => exact execBypass_canon hc
  | samplePreload sampled preload => exact execSamplePreload_canon sampled preload hc
  | extest => exact execExtest_canon hc
  | idcode => exact execIdcode_canon hc
  | dbgacc => exact execDbgacc_canon hc
  | tapReset => exact execTapReset_canon hc
  | resetnRelease x => exact execResetnRelease_canon x hc
  | x32okFall ticks => exact execX32okFall_canon ticks hc
  | ledgerCompactEnd => exact execLedgerCompactEnd_canon hc
  | pairRestartCommand p cold => exact execPairRestartCommand_canon p cold hc
  | cellRestartCommand n => exact execCellRestartCommand_canon n hc
  | cellRoleSet n role => exact execCellRoleSet_canon n role hc
  | timerOutputPulseEnd k => exact execTimerOutputPulseEnd_canon k hc
  | targetTimePulseEnd m t => exact execTargetTimePulseEnd_canon m t hc
  | pcieLinkStateChange up gen lanes d3hot perst => exact execPcieLinkStateChange_canon up gen lanes d3hot perst hc
  | canFrameTransmit n error => exact execCanFrameTransmit_canon n error hc
  | serialPortTransfer u => exact execSerialPortTransfer_canon u hc

/-- Every command answers a next state; from a canonical state that state is canonical, with the queue as it was. -/
theorem exec_canon (i : Instr) {s : State} (hc : s.Canon) : ∃ t, exec i s = .next t ∧ t.Canon ∧ t.pending = s.pending :=
  let ⟨t, h, hh⟩ := exec_held i hc.held
  ⟨t, h, hh.canon hc.pending, hh.queue⟩

end Sys2Proof.Machine
end

