-- ==== Sys2Proof/Laws/Fields.lean ====
section
/-! SUPPORT. What bit fields and register updates do: a field reads back as it was written, and nothing else changes. -/

namespace Sys2Proof.Machine

/-! Fields of a word. -/

theorem fieldOf_testBit (w : Word) (hi lo i : Nat) :
    (fieldOf w hi lo).testBit i = (decide (i < hi + 1 - lo) && w.getLsbD (i + lo)) := by
  simp [fieldOf, Nat.testBit_mod_two_pow, Nat.testBit_div_two_pow, BitVec.getLsbD, Nat.add_comm]

/-- The number a field replacement keeps: what lies above, the new value, what lies below. -/
theorem withField_nat {x lo k v : Nat} :
    x - x / 2 ^ lo % 2 ^ k * 2 ^ lo + v % 2 ^ k * 2 ^ lo =
      2 ^ (lo + k) * (x / 2 ^ (lo + k)) + (2 ^ lo * (v % 2 ^ k) + x % 2 ^ lo) := by
  have h1 : x = 2 ^ lo * (x / 2 ^ lo) + x % 2 ^ lo := (Nat.div_add_mod x (2 ^ lo)).symm
  have h2 : x / 2 ^ lo = 2 ^ k * (x / 2 ^ lo / 2 ^ k) + x / 2 ^ lo % 2 ^ k := (Nat.div_add_mod _ _).symm
  have h3 : x / 2 ^ (lo + k) = x / 2 ^ lo / 2 ^ k := by rw [Nat.pow_add, Nat.div_div_eq_div_mul]
  rw [h3]
  generalize x / 2 ^ lo / 2 ^ k = a at *
  generalize x / 2 ^ lo % 2 ^ k = b at *
  generalize x % 2 ^ lo = c at *
  have h4 : x = 2 ^ (lo + k) * a + (b * 2 ^ lo + c) := by
    rw [h1, h2, Nat.pow_add]; ring
  rw [h4, show 2 ^ (lo + k) * a + (b * 2 ^ lo + c) - b * 2 ^ lo = 2 ^ (lo + k) * a + c by omega, Nat.mul_comm (v % 2 ^ k)]
  omega

theorem withField_testBit (w : Word) {hi lo : Nat} (v i : Nat) (h : lo ≤ hi + 1) (hh : hi < 32) :
    (withField w hi lo v).getLsbD i =
      (decide (i < 32) && if lo ≤ i ∧ i ≤ hi then v.testBit (i - lo) else w.getLsbD i) := by
  have hk : lo + (hi + 1 - lo) = hi + 1 := by omega
  rw [withField, fieldOf, withField_nat, BitVec.getLsbD_ofNat, hk]
  congr 1
  have hb : 2 ^ lo * (v % 2 ^ (hi + 1 - lo)) + w.toNat % 2 ^ lo < 2 ^ (hi + 1) := by
    have h1 : v % 2 ^ (hi + 1 - lo) + 1 ≤ 2 ^ (hi + 1 - lo) := Nat.mod_lt _ (Nat.two_pow_pos _)
    have h2 : w.toNat % 2 ^ lo < 2 ^ lo := Nat.mod_lt _ (Nat.two_pow_pos _)
    have h3 : 2 ^ lo * (v % 2 ^ (hi + 1 - lo) + 1) ≤ 2 ^ lo * 2 ^ (hi + 1 - lo) := Nat.mul_le_mul_left _ h1
    rw [← Nat.pow_add, hk] at h3
    rw [Nat.mul_add] at h3
    omega
  rw [Nat.testBit_two_pow_mul_add _ hb]
  by_cases h1 : i < hi + 1
  · rw [if_pos h1, Nat.testBit_two_pow_mul_add _ (Nat.mod_lt _ (Nat.two_pow_pos _))]
    by_cases h2 : i < lo
    · rw [if_pos h2, if_neg (by omega), Nat.testBit_mod_two_pow]; simp [h2, BitVec.getLsbD]
    · rw [if_neg h2, if_pos (by omega), Nat.testBit_mod_two_pow]
      simp only [Bool.and_eq_right_iff_imp, decide_eq_true_eq]
      omega
  · rw [if_neg h1, if_neg (by omega), Nat.testBit_div_two_pow, BitVec.getLsbD]
    congr 1; omega

/-- A field reads back as it was written, cut to its width. -/
theorem fieldOf_withField (w : Word) {hi lo : Nat} (v : Nat) (h : lo ≤ hi + 1) (hh : hi < 32) :
    fieldOf (withField w hi lo v) hi lo = v % 2 ^ (hi + 1 - lo) := by
  apply Nat.eq_of_testBit_eq; intro i
  rw [fieldOf_testBit, withField_testBit w v _ h hh, Nat.testBit_mod_two_pow]
  by_cases hi' : i < hi + 1 - lo
  · simp [hi', show i + lo < 32 by omega, show i + lo ≤ hi by omega]
  · simp [hi']

/-- Another field keeps its content. -/
theorem fieldOf_withField_ne (w : Word) {hi lo hi' lo' : Nat} (v : Nat) (h : lo ≤ hi + 1) (hh : hi < 32)
    (hd : hi' < lo ∨ hi < lo') : fieldOf (withField w hi lo v) hi' lo' = fieldOf w hi' lo' := by
  apply Nat.eq_of_testBit_eq; intro i
  rw [fieldOf_testBit, fieldOf_testBit, withField_testBit w v _ h hh]
  by_cases hi1 : i < hi' + 1 - lo'
  · by_cases h32 : i + lo' < 32
    · simp only [hi1, h32, decide_true, Bool.true_and]; rw [if_neg (by omega)]
    · simp [hi1, h32, BitVec.getLsbD_of_ge w (i + lo') (by omega)]
  · simp [hi1]

/-- A bit reads back as it was written. -/
theorem bitOf_withField (w : Word) {i : Nat} (b : Bool) (h : i < 32) : bitOf (withField w i i (bit b)) i = b := by
  rw [bitOf, fieldOf_withField w _ (by omega) h]
  cases b <;> simp [bit]

theorem bitOf_withField_one (w : Word) {i : Nat} (h : i < 32) : bitOf (withField w i i 1) i = true :=
  bitOf_withField w true h

theorem bitOf_withField_zero (w : Word) {i : Nat} (h : i < 32) : bitOf (withField w i i 0) i = false :=
  bitOf_withField w false h

theorem bitOf_withField_ne (w : Word) {hi lo i : Nat} (v : Nat) (h : lo ≤ hi + 1) (hh : hi < 32) (hd : i < lo ∨ hi < i) :
    bitOf (withField w hi lo v) i = bitOf w i := by
  rw [bitOf, fieldOf_withField_ne w v h hh hd]; rfl

/-! Registers. -/

@[simp] theorem State.reg_setReg_same (s : State) (a : Nat) (v : Word) : (s.setReg a v).reg a = v :=
  mapGet_set_same _ _ _ _

theorem State.reg_setReg_ne (s : State) {a b : Nat} (v : Word) (h : b ≠ a) : (s.setReg a v).reg b = s.reg b :=
  mapGet_set_ne _ _ _ _ h

theorem State.reg_setReg (s : State) (a b : Nat) (v : Word) : (s.setReg a v).reg b = if b = a then v else s.reg b := by
  split
  · subst b; exact s.reg_setReg_same a v
  · exact s.reg_setReg_ne v ‹_›

theorem State.reg_setFld_ne (s : State) {a b : Nat} (hi lo v : Nat) (h : b ≠ a) : (s.setFld a hi lo v).reg b = s.reg b :=
  s.reg_setReg_ne _ h

theorem State.fld_setFld_same (s : State) (a : Nat) {hi lo : Nat} (v : Nat) (h : lo ≤ hi + 1) (hh : hi < 32) :
    (s.setFld a hi lo v).fld a hi lo = v % 2 ^ (hi + 1 - lo) := by
  rw [State.fld, State.setFld, State.reg_setReg_same, fieldOf_withField _ _ h hh]

theorem State.flag_setFlag_same (s : State) (a : Nat) {i : Nat} (b : Bool) (h : i < 32) : (s.setFlag a i b).flag a i = b := by
  rw [State.flag, State.setFlag, State.setFld, State.reg_setReg_same, bitOf_withField _ _ h]

theorem State.fld_setReg_ne (s : State) {a b : Nat} (v : Word) (hi lo : Nat) (h : b ≠ a) :
    (s.setReg a v).fld b hi lo = s.fld b hi lo := by rw [State.fld, State.reg_setReg_ne s v h]; rfl

theorem State.flag_setReg_ne (s : State) {a b : Nat} (v : Word) (i : Nat) (h : b ≠ a) :
    (s.setReg a v).flag b i = s.flag b i := by rw [State.flag, State.reg_setReg_ne s v h]; rfl

theorem State.fld_setFld_ne (s : State) {a b : Nat} (hi lo v hi' lo' : Nat) (h : b ≠ a) :
    (s.setFld a hi lo v).fld b hi' lo' = s.fld b hi' lo' := s.fld_setReg_ne _ _ _ h

theorem State.flag_setFld_ne (s : State) {a b : Nat} (hi lo v i : Nat) (h : b ≠ a) :
    (s.setFld a hi lo v).flag b i = s.flag b i := s.flag_setReg_ne _ _ h

theorem State.flag_setFlag_ne (s : State) {a b : Nat} (i : Nat) (x : Bool) (j : Nat) (h : b ≠ a) :
    (s.setFlag a i x).flag b j = s.flag b j := s.flag_setReg_ne _ _ h

theorem State.fld_setFlag_ne (s : State) {a b : Nat} (i : Nat) (x : Bool) (hi lo : Nat) (h : b ≠ a) :
    (s.setFlag a i x).fld b hi lo = s.fld b hi lo := s.fld_setReg_ne _ _ _ h

theorem State.flag_setFld_disjoint (s : State) (a : Nat) {hi lo i : Nat} (v : Nat) (h : lo ≤ hi + 1) (hh : hi < 32)
    (hd : i < lo ∨ hi < i) : (s.setFld a hi lo v).flag a i = s.flag a i := by
  rw [State.flag, State.setFld, State.reg_setReg_same, bitOf_withField_ne _ _ h hh hd]; rfl

theorem State.fld_setFld_disjoint (s : State) (a : Nat) {hi lo hi' lo' : Nat} (v : Nat) (h : lo ≤ hi + 1) (hh : hi < 32)
    (hd : hi' < lo ∨ hi < lo') : (s.setFld a hi lo v).fld a hi' lo' = s.fld a hi' lo' := by
  rw [State.fld, State.setFld, State.reg_setReg_same, fieldOf_withField_ne _ _ h hh hd]; rfl

theorem State.flag_setFlag_disjoint (s : State) (a : Nat) {i j : Nat} (x : Bool) (h : i < 32) (hd : j ≠ i) :
    (s.setFlag a i x).flag a j = s.flag a j := s.flag_setFld_disjoint a _ (by omega) h (by omega)

/-- A fold whose every step keeps a quantity keeps it. -/
theorem foldl_keep {σ α β : Type} (q : σ → β) (f : σ → α → σ) (h : ∀ s x, q (f s x) = q s) (l : List α) (s : σ) :
    q (l.foldl f s) = q s := by
  induction l generalizing s with
  | nil => rfl
  | cons x l ih => rw [List.foldl_cons, ih, h]

/-! Configuration checks. -/

theorem pickFail_eq_none {l : List CfgFail} : pickFail l = none ↔ l = [] := by
  cases l with
  | nil => simp [pickFail]
  | cons f fs => simp only [pickFail]; split <;> [simp; (split <;> simp)]

/-- A stored write changes registers only. -/
theorem State.store_eq (s : State) (a chk : Nat) (l : Bool) (v : Word) (d : Nat := 0) :
    ∃ r, s.store a chk l v d = { s with regs := r } := by
  unfold State.store
  split
  · exact ⟨_, rfl⟩
  · dsimp only
    split
    · exact ⟨_, rfl⟩
    · exact ⟨_, rfl⟩

@[simp] theorem State.store_now (s : State) (a chk : Nat) (l : Bool) (v : Word) (d : Nat) :
    (s.store a chk l v d).now = s.now := by obtain ⟨r, h⟩ := s.store_eq a chk l v d; rw [h]; rfl

/-- A stored write leaves every other register as it was. -/
theorem State.reg_store_ne (s : State) {a chk b : Nat} (l : Bool) (v : Word) (d : Nat) (ha : b ≠ a) (hc : b ≠ chk) :
    (s.store a chk l v d).reg b = s.reg b := by
  unfold State.store
  split
  · rfl
  · dsimp only
    split
    · exact s.reg_setReg_ne _ ha
    · rw [State.cfgFail, State.reg_setReg_ne _ _ hc]; exact s.reg_setReg_ne _ ha

theorem State.fld_store_ne (s : State) {a chk b : Nat} (l : Bool) (v : Word) (d hi lo : Nat) (ha : b ≠ a) (hc : b ≠ chk) :
    (s.store a chk l v d).fld b hi lo = s.fld b hi lo := by rw [State.fld, s.reg_store_ne l v d ha hc]; rfl

theorem State.flag_store_ne (s : State) {a chk b : Nat} (l : Bool) (v : Word) (d i : Nat) (ha : b ≠ a) (hc : b ≠ chk) :
    (s.store a chk l v d).flag b i = s.flag b i := by rw [State.flag, s.reg_store_ne l v d ha hc]; rfl

/-- What an enabling write whose checks pass leaves of a unit's registers (R14). -/
theorem State.unitWrite_enable (s : State) (a chk en : Nat) (v : Word) (fails : State → List CfgFail)
    (on off live : State → State) (d : Nat) (h0 : s.flag a en = false) (h1 : bitOf v en = true)
    (hf : fails (s.store a chk false (withField v en en 0)) = []) :
    s.unitWrite a chk en v fails on off live d =
      on (((s.store a chk false (withField v en en 0)).setFlag a en true).cfgOk chk) := by
  simp [State.unitWrite, h0, h1, hf, pickFail]

/-- An enabling write that fails a check reports it and enables nothing (R14, R16). -/
theorem State.unitWrite_refuse (s : State) (a chk en : Nat) (v : Word) (fails : State → List CfgFail)
    (on off live : State → State) (d : Nat) (h0 : s.flag a en = false) (h1 : bitOf v en = true) {f : CfgFail}
    (hf : pickFail (fails (s.store a chk false (withField v en en 0))) = some f) :
    s.unitWrite a chk en v fails on off live d = (s.store a chk false (withField v en en 0)).cfgFail chk f := by
  simp [State.unitWrite, h0, h1, hf]

theorem State.unitWrite_disable (s : State) (a chk en : Nat) (v : Word) (fails : State → List CfgFail)
    (on off live : State → State) (d : Nat) (h0 : s.flag a en = true) (h1 : bitOf v en = false) :
    s.unitWrite a chk en v fails on off live d = off (s.store a chk true v d) := by
  simp [State.unitWrite, h0, h1]

theorem State.whenOn_on (s : State) (d chk : Nat) (f : State → State) (h : s.unitOn d = true) : s.whenOn d chk f = f s := by
  simp only [State.unitOn, Bool.and_eq_true] at h
  simp [State.whenOn, h]

end Sys2Proof.Machine
end

