-- ==== Sys2Proof/Laws/Memory.lean ====
section
/-! SUPPORT. Interval sets and the bytes of memory: what a write reads back as, what it leaves, and that the canonical form is
kept. -/

namespace Sys2Proof.Machine

/-! Interval sets. -/

theorem nsetHas_add (m : NSet) (a b k : Nat) : nsetHas (nsetAdd m a b) k = (nsetHas m k || (decide (a ≤ k) && decide (k < b))) := by
  induction m generalizing a b with
  | nil =>
    rw [nsetAdd, Bool.eq_iff_iff]
    split <;> simp [nsetHas] <;> omega
  | cons p m ih =>
    obtain ⟨lo, hi⟩ := p
    rw [nsetAdd, Bool.eq_iff_iff]
    split
    · simp only [nsetHas, ih, Bool.or_eq_true, Bool.and_eq_true, decide_eq_true_eq]; tauto
    · split
      · split
        · simp only [nsetHas, Bool.or_eq_true, Bool.and_eq_true, decide_eq_true_eq]; tauto
        · cases h : nsetHas m k <;> simp [nsetHas, h] <;> omega
      · cases h : nsetHas m k <;> simp [nsetHas, ih, h] <;> omega

theorem nsetHas_append (m n : NSet) (k : Nat) : nsetHas (m ++ n) k = (nsetHas m k || nsetHas n k) := by
  induction m with
  | nil => simp [nsetHas]
  | cons p m ih => simp [nsetHas, ih, Bool.or_assoc]

theorem nsetHas_del (m : NSet) (a b k : Nat) : nsetHas (nsetDel m a b) k = (nsetHas m k && !(decide (a ≤ k) && decide (k < b))) := by
  induction m with
  | nil => rfl
  | cons p m ih =>
    obtain ⟨lo, hi⟩ := p
    rw [nsetDel, Bool.eq_iff_iff]
    split
    · cases h : nsetHas m k <;> simp [nsetHas, ih, h] <;> omega
    · rw [nsetHas_append, nsetHas_append, ih]
      split <;> split <;> cases h : nsetHas m k <;> simp [nsetHas, h] <;> omega

/-! Bytes. -/

@[simp] theorem State.byte_setByte_same (s : State) (k : Nat) (b : Byte) : (s.setByte k b).byte k = b := mapGet_set_same _ _ _ _

theorem State.byte_setByte_ne (s : State) {k j : Nat} (b : Byte) (h : j ≠ k) : (s.setByte k b).byte j = s.byte j :=
  mapGet_set_ne _ _ _ _ h

/-- A write of n bytes changes no byte outside them. -/
theorem State.byte_setBytes_out (s : State) {a n v k : Nat} (h : k < a ∨ a + n ≤ k) : (s.setBytes a n v).byte k = s.byte k := by
  induction n generalizing s a v with
  | zero => rfl
  | succ n ih => rw [State.setBytes, ih _ (by omega), s.byte_setByte_ne _ (by omega)]

/-- A read of n bytes sees nothing but those bytes. -/
theorem State.bytesAt_congr {s t : State} {a n : Nat} (h : ∀ k, a ≤ k → k < a + n → t.byte k = s.byte k) :
    t.bytesAt a n = s.bytesAt a n := by
  induction n generalizing a with
  | zero => rfl
  | succ n ih => rw [State.bytesAt, State.bytesAt, h a (by omega) (by omega), ih fun k h1 h2 => h k (by omega) (by omega)]

/-- n bytes read back as the number written, cut to n bytes. -/
theorem State.bytesAt_setBytes (s : State) (a n v : Nat) : (s.setBytes a n v).bytesAt a n = v % 256 ^ n := by
  induction n generalizing s a v with
  | zero => simp [State.bytesAt, Nat.mod_one]
  | succ n ih =>
    rw [State.bytesAt, State.setBytes, ih, State.byte_setBytes_out _ (by omega), State.byte_setByte_same]
    rw [BitVec.toNat_ofNat, show 256 ^ (n + 1) = 256 * 256 ^ n from by ring, Nat.mod_mul]

/-- Bytes that a write does not touch read as before. -/
theorem State.bytesAt_setBytes_out (s : State) {a n v b m : Nat} (h : b + m ≤ a ∨ a + n ≤ b) :
    (s.setBytes a n v).bytesAt b m = s.bytesAt b m :=
  State.bytesAt_congr fun k h1 h2 => s.byte_setBytes_out (by omega)

theorem State.word_setBytes (s : State) (a : Nat) (v : Word) : (s.setBytes a 4 v.toNat).word a = v := by
  rw [State.word, State.bytesAt_setBytes]
  apply BitVec.eq_of_toNat_eq
  rw [BitVec.toNat_ofNat]
  omega

/-- A dropped range reads as unlisted, and the rest of memory as before. -/
theorem State.byte_wipe (s : State) (a b k : Nat) :
    (s.wipe a b).byte k = if k < a ∨ b ≤ k then s.byte k else memDefault k := by
  rw [State.byte, State.wipe]
  dsimp only
  rw [State.byte]
  generalize s.mem.bytes = m
  induction m with
  | nil => simp [mapGet]
  | cons p m ih =>
    obtain ⟨j, v⟩ := p
    rw [List.filter_cons]
    split <;> rename_i h1 <;> simp only [Bool.or_eq_true, decide_eq_true_eq] at h1
    · rw [mapGet, mapGet]
      split
      · subst j
        rw [if_pos h1]
      · exact ih
    · rw [ih, mapGet]
      by_cases h2 : j = k
      · subst j
        rw [if_neg h1, if_neg h1]
      · rw [if_neg h2]

/-! Writing bytes changes memory alone. -/

theorem State.setBytes_eq (s : State) (a n v : Nat) : ∃ m, s.setBytes a n v = { s with mem := m } := by
  induction n generalizing s a v with
  | zero => exact ⟨s.mem, rfl⟩
  | succ n ih => obtain ⟨m, h⟩ := ih (s.setByte a (BitVec.ofNat 8 v)) (a + 1) (v / 256); exact ⟨m, h⟩

theorem State.setWord_eq (s : State) (a : Nat) (v : Word) : ∃ m, s.setWord a v = { s with mem := m } := by
  obtain ⟨m, h⟩ := s.setBytes_eq a 4 v.toNat
  rw [State.setWord, h]
  exact ⟨_, rfl⟩

theorem State.byte_setWord (s : State) (a : Nat) (v : Word) (k : Nat) : (s.setWord a v).byte k = (s.setBytes a 4 v.toNat).byte k := by
  rw [State.setWord]
  generalize s.setBytes a 4 v.toNat = u
  rfl

theorem State.word_setWord (s : State) (a : Nat) (v : Word) : (s.setWord a v).word a = v := by
  rw [State.word, State.bytesAt_congr fun k _ _ => s.byte_setWord a v k]
  exact s.word_setBytes a v

/-- A word that a word write does not touch reads as before. -/
theorem State.word_setWord_out (s : State) {a b : Nat} (v : Word) (h : b + 4 ≤ a ∨ a + 4 ≤ b) : (s.setWord a v).word b = s.word b := by
  rw [State.word, State.bytesAt_congr fun k _ _ => s.byte_setWord a v k, s.bytesAt_setBytes_out h]
  rfl

@[simp] theorem State.setBytes_reg (s : State) (a n v x : Nat) : (s.setBytes a n v).reg x = s.reg x := by
  obtain ⟨m, h⟩ := s.setBytes_eq a n v; rw [h]; rfl

@[simp] theorem State.setWord_reg (s : State) (a : Nat) (v : Word) (x : Nat) : (s.setWord a v).reg x = s.reg x := by
  obtain ⟨m, h⟩ := s.setWord_eq a v; rw [h]; rfl

@[simp] theorem State.setWord_cells (s : State) (a : Nat) (v : Word) : (s.setWord a v).cells = s.cells := by
  obtain ⟨m, h⟩ := s.setWord_eq a v; rw [h]

/-! The canonical form of memory. -/

theorem Mems.wf_eq (m : Mems) : m.wf = mapWf memDefault m.bytes := rfl

theorem State.setByte_wf (s : State) (k : Nat) (b : Byte) (h : s.mem.wf = true) : (s.setByte k b).mem.wf = true :=
  mapWf_set memDefault _ _ _ h

theorem State.setBytes_wf (s : State) (a n v : Nat) (h : s.mem.wf = true) : (s.setBytes a n v).mem.wf = true := by
  induction n generalizing s a v with
  | zero => exact h
  | succ n ih => exact ih _ _ _ (s.setByte_wf _ _ h)

theorem State.setWord_wf (s : State) (a : Nat) (v : Word) (h : s.mem.wf = true) : (s.setWord a v).mem.wf = true :=
  s.setBytes_wf _ _ _ h

theorem State.wipe_wf (s : State) (a b : Nat) (h : s.mem.wf = true) : (s.wipe a b).mem.wf = true :=
  mapWf_filter _ _ _ h

theorem State.reset_memory_wf : State.reset.mem.wf = true := rfl

end Sys2Proof.Machine
end

