-- ==== Sys2Proof/Laws/State.lean ====
section
/-! SUPPORT. What each update of State leaves as it was: one lemma a field and update, and the registers and memory bytes that
an update of another field keeps. -/

namespace Sys2Proof.Machine

variable (s : State)

@[simp] theorem State.reg_with_clk (x : Clock) (a : Nat) : State.reg { s with clk := x } a = s.reg a := rfl
@[simp] theorem State.reg_with_conv (x : Conv) (a : Nat) : State.reg { s with conv := x } a = s.reg a := rfl
@[simp] theorem State.reg_with_so (x : Sorting) (a : Nat) : State.reg { s with so := x } a = s.reg a := rfl
@[simp] theorem State.reg_with_trace (x : Trace) (a : Nat) : State.reg { s with trace := x } a = s.reg a := rfl
@[simp] theorem State.reg_with_cmps (x : SMap Cmp) (a : Nat) : State.reg { s with cmps := x } a = s.reg a := rfl
@[simp] theorem State.reg_with_pwms (x : SMap Pwm) (a : Nat) : State.reg { s with pwms := x } a = s.reg a := rfl
@[simp] theorem State.reg_with_flt (x : BitVec 24) (a : Nat) : State.reg { s with flt := x } a = s.reg a := rfl
@[simp] theorem State.reg_with_switchAt (x : SMap Nat) (a : Nat) : State.reg { s with switchAt := x } a = s.reg a := rfl
@[simp] theorem State.reg_with_pendFrom (x : SMap Nat) (a : Nat) : State.reg { s with pendFrom := x } a = s.reg a := rfl
@[simp] theorem State.reg_with_pis (x : SMap Pos) (a : Nat) : State.reg { s with pis := x } a = s.reg a := rfl
@[simp] theorem State.reg_with_cells (x : SMap LoopCell) (a : Nat) : State.reg { s with cells := x } a = s.reg a := rfl
@[simp] theorem State.reg_with_ports (x : MapPorts) (a : Nat) : State.reg { s with ports := x } a = s.reg a := rfl
@[simp] theorem State.reg_with_mismCell (x : NSet) (a : Nat) : State.reg { s with mismCell := x } a = s.reg a := rfl
@[simp] theorem State.reg_with_mem (x : Mems) (a : Nat) : State.reg { s with mem := x } a = s.reg a := rfl
@[simp] theorem State.reg_with_repairs (x : Repairs) (a : Nat) : State.reg { s with repairs := x } a = s.reg a := rfl
@[simp] theorem State.reg_with_flash (x : Flash) (a : Nat) : State.reg { s with flash := x } a = s.reg a := rfl
@[simp] theorem State.reg_with_dmas (x : SMap DmaChan) (a : Nat) : State.reg { s with dmas := x } a = s.reg a := rfl
@[simp] theorem State.reg_with_mg (x : Manage) (a : Nat) : State.reg { s with mg := x } a = s.reg a := rfl
@[simp] theorem State.reg_with_arb (x : Arbiter) (a : Nat) : State.reg { s with arb := x } a = s.reg a := rfl
@[simp] theorem State.reg_with_lines (x : NSet) (a : Nat) : State.reg { s with lines := x } a = s.reg a := rfl
@[simp] theorem State.reg_with_icfg (x : SMap LineFile) (a : Nat) : State.reg { s with icfg := x } a = s.reg a := rfl
@[simp] theorem State.reg_with_power (x : Power) (a : Nat) : State.reg { s with power := x } a = s.reg a := rfl
@[simp] theorem State.reg_with_pads (x : SMap Pad) (a : Nat) : State.reg { s with pads := x } a = s.reg a := rfl
@[simp] theorem State.reg_with_pintLevel (x : SMap (Option Bool)) (a : Nat) : State.reg { s with pintLevel := x } a = s.reg a := rfl
@[simp] theorem State.reg_with_rings (x : SMap Ring) (a : Nat) : State.reg { s with rings := x } a = s.reg a := rfl
@[simp] theorem State.reg_with_hp (x : HostPort) (a : Nat) : State.reg { s with hp := x } a = s.reg a := rfl
@[simp] theorem State.reg_with_macs (x : SMap Mac) (a : Nat) : State.reg { s with macs := x } a = s.reg a := rfl
@[simp] theorem State.reg_with_pcie (x : Pcie) (a : Nat) : State.reg { s with pcie := x } a = s.reg a := rfl
@[simp] theorem State.reg_with_canStamp (x : SMap Nat) (a : Nat) : State.reg { s with canStamp := x } a = s.reg a := rfl
@[simp] theorem State.reg_with_tp (x : TestPort) (a : Nat) : State.reg { s with tp := x } a = s.reg a := rfl
@[simp] theorem State.reg_with_cores (x : SMap Core) (a : Nat) : State.reg { s with cores := x } a = s.reg a := rfl
@[simp] theorem State.reg_with_pairs (x : SMap Pair) (a : Nat) : State.reg { s with pairs := x } a = s.reg a := rfl
@[simp] theorem State.reg_with_tags (x : NSet) (a : Nat) : State.reg { s with tags := x } a = s.reg a := rfl
@[simp] theorem State.reg_with_pending (x : List Instr) (a : Nat) : State.reg { s with pending := x } a = s.reg a := rfl
@[simp] theorem State.reg_with_free (x : Nat) (a : Nat) : State.reg { s with free := x } a = s.reg a := rfl
@[simp] theorem State.byte_with_regs (x : SMap Word) (k : Nat) : State.byte { s with regs := x } k = s.byte k := rfl
@[simp] theorem State.byte_with_clk (x : Clock) (k : Nat) : State.byte { s with clk := x } k = s.byte k := rfl
@[simp] theorem State.byte_with_conv (x : Conv) (k : Nat) : State.byte { s with conv := x } k = s.byte k := rfl
@[simp] theorem State.byte_with_so (x : Sorting) (k : Nat) : State.byte { s with so := x } k = s.byte k := rfl
@[simp] theorem State.byte_with_trace (x : Trace) (k : Nat) : State.byte { s with trace := x } k = s.byte k := rfl
@[simp] theorem State.byte_with_cmps (x : SMap Cmp) (k : Nat) : State.byte { s with cmps := x } k = s.byte k := rfl
@[simp] theorem State.byte_with_pwms (x : SMap Pwm) (k : Nat) : State.byte { s with pwms := x } k = s.byte k := rfl
@[simp] theorem State.byte_with_flt (x : BitVec 24) (k : Nat) : State.byte { s with flt := x } k = s.byte k := rfl
@[simp] theorem State.byte_with_switchAt (x : SMap Nat) (k : Nat) : State.byte { s with switchAt := x } k = s.byte k := rfl
@[simp] theorem State.byte_with_pendFrom (x : SMap Nat) (k : Nat) : State.byte { s with pendFrom := x } k = s.byte k := rfl
@[simp] theorem State.byte_with_pis (x : SMap Pos) (k : Nat) : State.byte { s with pis := x } k = s.byte k := rfl
@[simp] theorem State.byte_with_cells (x : SMap LoopCell) (k : Nat) : State.byte { s with cells := x } k = s.byte k := rfl
@[simp] theorem State.byte_with_ports (x : MapPorts) (k : Nat) : State.byte { s with ports := x } k = s.byte k := rfl
@[simp] theorem State.byte_with_mismCell (x : NSet) (k : Nat) : State.byte { s with mismCell := x } k = s.byte k := rfl
@[simp] theorem State.byte_with_repairs (x : Repairs) (k : Nat) : State.byte { s with repairs := x } k = s.byte k := rfl
@[simp] theorem State.byte_with_flash (x : Flash) (k : Nat) : State.byte { s with flash := x } k = s.byte k := rfl
@[simp] theorem State.byte_with_dmas (x : SMap DmaChan) (k : Nat) : State.byte { s with dmas := x } k = s.byte k := rfl
@[simp] theorem State.byte_with_mg (x : Manage) (k : Nat) : State.byte { s with mg := x } k = s.byte k := rfl
@[simp] theorem State.byte_with_arb (x : Arbiter) (k : Nat) : State.byte { s with arb := x } k = s.byte k := rfl
@[simp] theorem State.byte_with_lines (x : NSet) (k : Nat) : State.byte { s with lines := x } k = s.byte k := rfl
@[simp] theorem State.byte_with_icfg (x : SMap LineFile) (k : Nat) : State.byte { s with icfg := x } k = s.byte k := rfl
@[simp] theorem State.byte_with_power (x : Power) (k : Nat) : State.byte { s with power := x } k = s.byte k := rfl
@[simp] theorem State.byte_with_pads (x : SMap Pad) (k : Nat) : State.byte { s with pads := x } k = s.byte k := rfl
@[simp] theorem State.byte_with_pintLevel (x : SMap (Option Bool)) (k : Nat) : State.byte { s with pintLevel := x } k = s.byte k := rfl
@[simp] theorem State.byte_with_rings (x : SMap Ring) (k : Nat) : State.byte { s with rings := x } k = s.byte k := rfl
@[simp] theorem State.byte_with_hp (x : HostPort) (k : Nat) : State.byte { s with hp := x } k = s.byte k := rfl
@[simp] theorem State.byte_with_macs (x : SMap Mac) (k : Nat) : State.byte { s with macs := x } k = s.byte k := rfl
@[simp] theorem State.byte_with_pcie (x : Pcie) (k : Nat) : State.byte { s with pcie := x } k = s.byte k := rfl
@[simp] theorem State.byte_with_canStamp (x : SMap Nat) (k : Nat) : State.byte { s with canStamp := x } k = s.byte k := rfl
@[simp] theorem State.byte_with_tp (x : TestPort) (k : Nat) : State.byte { s with tp := x } k = s.byte k := rfl
@[simp] theorem State.byte_with_cores (x : SMap Core) (k : Nat) : State.byte { s with cores := x } k = s.byte k := rfl
@[simp] theorem State.byte_with_pairs (x : SMap Pair) (k : Nat) : State.byte { s with pairs := x } k = s.byte k := rfl
@[simp] theorem State.byte_with_tags (x : NSet) (k : Nat) : State.byte { s with tags := x } k = s.byte k := rfl
@[simp] theorem State.byte_with_pending (x : List Instr) (k : Nat) : State.byte { s with pending := x } k = s.byte k := rfl
@[simp] theorem State.byte_with_free (x : Nat) (k : Nat) : State.byte { s with free := x } k = s.byte k := rfl

/-! setReg -/

@[simp] theorem State.setReg_clk (a : Nat) (v : Word) : (s.setReg a v).clk = s.clk := rfl
@[simp] theorem State.setReg_conv (a : Nat) (v : Word) : (s.setReg a v).conv = s.conv := rfl
@[simp] theorem State.setReg_so (a : Nat) (v : Word) : (s.setReg a v).so = s.so := rfl
@[simp] theorem State.setReg_trace (a : Nat) (v : Word) : (s.setReg a v).trace = s.trace := rfl
@[simp] theorem State.setReg_cmps (a : Nat) (v : Word) : (s.setReg a v).cmps = s.cmps := rfl
@[simp] theorem State.setReg_pwms (a : Nat) (v : Word) : (s.setReg a v).pwms = s.pwms := rfl
@[simp] theorem State.setReg_flt (a : Nat) (v : Word) : (s.setReg a v).flt = s.flt := rfl
@[simp] theorem State.setReg_switchAt (a : Nat) (v : Word) : (s.setReg a v).switchAt = s.switchAt := rfl
@[simp] theorem State.setReg_pendFrom (a : Nat) (v : Word) : (s.setReg a v).pendFrom = s.pendFrom := rfl
@[simp] theorem State.setReg_pis (a : Nat) (v : Word) : (s.setReg a v).pis = s.pis := rfl
@[simp] theorem State.setReg_cells (a : Nat) (v : Word) : (s.setReg a v).cells = s.cells := rfl
@[simp] theorem State.setReg_ports (a : Nat) (v : Word) : (s.setReg a v).ports = s.ports := rfl
@[simp] theorem State.setReg_mismCell (a : Nat) (v : Word) : (s.setReg a v).mismCell = s.mismCell := rfl
@[simp] theorem State.setReg_mem (a : Nat) (v : Word) : (s.setReg a v).mem = s.mem := rfl
@[simp] theorem State.setReg_repairs (a : Nat) (v : Word) : (s.setReg a v).repairs = s.repairs := rfl
@[simp] theorem State.setReg_flash (a : Nat) (v : Word) : (s.setReg a v).flash = s.flash := rfl
@[simp] theorem State.setReg_dmas (a : Nat) (v : Word) : (s.setReg a v).dmas = s.dmas := rfl
@[simp] theorem State.setReg_mg (a : Nat) (v : Word) : (s.setReg a v).mg = s.mg := rfl
@[simp] theorem State.setReg_arb (a : Nat) (v : Word) : (s.setReg a v).arb = s.arb := rfl
@[simp] theorem State.setReg_lines (a : Nat) (v : Word) : (s.setReg a v).lines = s.lines := rfl
@[simp] theorem State.setReg_icfg (a : Nat) (v : Word) : (s.setReg a v).icfg = s.icfg := rfl
@[simp] theorem State.setReg_power (a : Nat) (v : Word) : (s.setReg a v).power = s.power := rfl
@[simp] theorem State.setReg_pads (a : Nat) (v : Word) : (s.setReg a v).pads = s.pads := rfl
@[simp] theorem State.setReg_pintLevel (a : Nat) (v : Word) : (s.setReg a v).pintLevel = s.pintLevel := rfl
@[simp] theorem State.setReg_rings (a : Nat) (v : Word) : (s.setReg a v).rings = s.rings := rfl
@[simp] theorem State.setReg_hp (a : Nat) (v : Word) : (s.setReg a v).hp = s.hp := rfl
@[simp] theorem State.setReg_macs (a : Nat) (v : Word) : (s.setReg a v).macs = s.macs := rfl
@[simp] theorem State.setReg_pcie (a : Nat) (v : Word) : (s.setReg a v).pcie = s.pcie := rfl
@[simp] theorem State.setReg_canStamp (a : Nat) (v : Word) : (s.setReg a v).canStamp = s.canStamp := rfl
@[simp] theorem State.setReg_tp (a : Nat) (v : Word) : (s.setReg a v).tp = s.tp := rfl
@[simp] theorem State.setReg_cores (a : Nat) (v : Word) : (s.setReg a v).cores = s.cores := rfl
@[simp] theorem State.setReg_pairs (a : Nat) (v : Word) : (s.setReg a v).pairs = s.pairs := rfl
@[simp] theorem State.setReg_tags (a : Nat) (v : Word) : (s.setReg a v).tags = s.tags := rfl
@[simp] theorem State.setReg_pending (a : Nat) (v : Word) : (s.setReg a v).pending = s.pending := rfl
@[simp] theorem State.setReg_free (a : Nat) (v : Word) : (s.setReg a v).free = s.free := rfl

/-! setFld -/

@[simp] theorem State.setFld_clk (a hi lo v : Nat) : (s.setFld a hi lo v).clk = s.clk := rfl
@[simp] theorem State.setFld_conv (a hi lo v : Nat) : (s.setFld a hi lo v).conv = s.conv := rfl
@[simp] theorem State.setFld_so (a hi lo v : Nat) : (s.setFld a hi lo v).so = s.so := rfl
@[simp] theorem State.setFld_trace (a hi lo v : Nat) : (s.setFld a hi lo v).trace = s.trace := rfl
@[simp] theorem State.setFld_cmps (a hi lo v : Nat) : (s.setFld a hi lo v).cmps = s.cmps := rfl
@[simp] theorem State.setFld_pwms (a hi lo v : Nat) : (s.setFld a hi lo v).pwms = s.pwms := rfl
@[simp] theorem State.setFld_flt (a hi lo v : Nat) : (s.setFld a hi lo v).flt = s.flt := rfl
@[simp] theorem State.setFld_switchAt (a hi lo v : Nat) : (s.setFld a hi lo v).switchAt = s.switchAt := rfl
@[simp] theorem State.setFld_pendFrom (a hi lo v : Nat) : (s.setFld a hi lo v).pendFrom = s.pendFrom := rfl
@[simp] theorem State.setFld_pis (a hi lo v : Nat) : (s.setFld a hi lo v).pis = s.pis := rfl
@[simp] theorem State.setFld_cells (a hi lo v : Nat) : (s.setFld a hi lo v).cells = s.cells := rfl
@[simp] theorem State.setFld_ports (a hi lo v : Nat) : (s.setFld a hi lo v).ports = s.ports := rfl
@[simp] theorem State.setFld_mismCell (a hi lo v : Nat) : (s.setFld a hi lo v).mismCell = s.mismCell := rfl
@[simp] theorem State.setFld_mem (a hi lo v : Nat) : (s.setFld a hi lo v).mem = s.mem := rfl
@[simp] theorem State.setFld_repairs (a hi lo v : Nat) : (s.setFld a hi lo v).repairs = s.repairs := rfl
@[simp] theorem State.setFld_flash (a hi lo v : Nat) : (s.setFld a hi lo v).flash = s.flash := rfl
@[simp] theorem State.setFld_dmas (a hi lo v : Nat) : (s.setFld a hi lo v).dmas = s.dmas := rfl
@[simp] theorem State.setFld_mg (a hi lo v : Nat) : (s.setFld a hi lo v).mg = s.mg := rfl
@[simp] theorem State.setFld_arb (a hi lo v : Nat) : (s.setFld a hi lo v).arb = s.arb := rfl
@[simp] theorem State.setFld_lines (a hi lo v : Nat) : (s.setFld a hi lo v).lines = s.lines := rfl
@[simp] theorem State.setFld_icfg (a hi lo v : Nat) : (s.setFld a hi lo v).icfg = s.icfg := rfl
@[simp] theorem State.setFld_power (a hi lo v : Nat) : (s.setFld a hi lo v).power = s.power := rfl
@[simp] theorem State.setFld_pads (a hi lo v : Nat) : (s.setFld a hi lo v).pads = s.pads := rfl
@[simp] theorem State.setFld_pintLevel (a hi lo v : Nat) : (s.setFld a hi lo v).pintLevel = s.pintLevel := rfl
@[simp] theorem State.setFld_rings (a hi lo v : Nat) : (s.setFld a hi lo v).rings = s.rings := rfl
@[simp] theorem State.setFld_hp (a hi lo v : Nat) : (s.setFld a hi lo v).hp = s.hp := rfl
@[simp] theorem State.setFld_macs (a hi lo v : Nat) : (s.setFld a hi lo v).macs = s.macs := rfl
@[simp] theorem State.setFld_pcie (a hi lo v : Nat) : (s.setFld a hi lo v).pcie = s.pcie := rfl
@[simp] theorem State.setFld_canStamp (a hi lo v : Nat) : (s.setFld a hi lo v).canStamp = s.canStamp := rfl
@[simp] theorem State.setFld_tp (a hi lo v : Nat) : (s.setFld a hi lo v).tp = s.tp := rfl
@[simp] theorem State.setFld_cores (a hi lo v : Nat) : (s.setFld a hi lo v).cores = s.cores := rfl
@[simp] theorem State.setFld_pairs (a hi lo v : Nat) : (s.setFld a hi lo v).pairs = s.pairs := rfl
@[simp] theorem State.setFld_tags (a hi lo v : Nat) : (s.setFld a hi lo v).tags = s.tags := rfl
@[simp] theorem State.setFld_pending (a hi lo v : Nat) : (s.setFld a hi lo v).pending = s.pending := rfl
@[simp] theorem State.setFld_free (a hi lo v : Nat) : (s.setFld a hi lo v).free = s.free := rfl

/-! setFlag -/

@[simp] theorem State.setFlag_clk (a i : Nat) (b : Bool) : (s.setFlag a i b).clk = s.clk := rfl
@[simp] theorem State.setFlag_conv (a i : Nat) (b : Bool) : (s.setFlag a i b).conv = s.conv := rfl
@[simp] theorem State.setFlag_so (a i : Nat) (b : Bool) : (s.setFlag a i b).so = s.so := rfl
@[simp] theorem State.setFlag_trace (a i : Nat) (b : Bool) : (s.setFlag a i b).trace = s.trace := rfl
@[simp] theorem State.setFlag_cmps (a i : Nat) (b : Bool) : (s.setFlag a i b).cmps = s.cmps := rfl
@[simp] theorem State.setFlag_pwms (a i : Nat) (b : Bool) : (s.setFlag a i b).pwms = s.pwms := rfl
@[simp] theorem State.setFlag_flt (a i : Nat) (b : Bool) : (s.setFlag a i b).flt = s.flt := rfl
@[simp] theorem State.setFlag_switchAt (a i : Nat) (b : Bool) : (s.setFlag a i b).switchAt = s.switchAt := rfl
@[simp] theorem State.setFlag_pendFrom (a i : Nat) (b : Bool) : (s.setFlag a i b).pendFrom = s.pendFrom := rfl
@[simp] theorem State.setFlag_pis (a i : Nat) (b : Bool) : (s.setFlag a i b).pis = s.pis := rfl
@[simp] theorem State.setFlag_cells (a i : Nat) (b : Bool) : (s.setFlag a i b).cells = s.cells := rfl
@[simp] theorem State.setFlag_ports (a i : Nat) (b : Bool) : (s.setFlag a i b).ports = s.ports := rfl
@[simp] theorem State.setFlag_mismCell (a i : Nat) (b : Bool) : (s.setFlag a i b).mismCell = s.mismCell := rfl
@[simp] theorem State.setFlag_mem (a i : Nat) (b : Bool) : (s.setFlag a i b).mem = s.mem := rfl
@[simp] theorem State.setFlag_repairs (a i : Nat) (b : Bool) : (s.setFlag a i b).repairs = s.repairs := rfl
@[simp] theorem State.setFlag_flash (a i : Nat) (b : Bool) : (s.setFlag a i b).flash = s.flash := rfl
@[simp] theorem State.setFlag_dmas (a i : Nat) (b : Bool) : (s.setFlag a i b).dmas = s.dmas := rfl
@[simp] theorem State.setFlag_mg (a i : Nat) (b : Bool) : (s.setFlag a i b).mg = s.mg := rfl
@[simp] theorem State.setFlag_arb (a i : Nat) (b : Bool) : (s.setFlag a i b).arb = s.arb := rfl
@[simp] theorem State.setFlag_lines (a i : Nat) (b : Bool) : (s.setFlag a i b).lines = s.lines := rfl
@[simp] theorem State.setFlag_icfg (a i : Nat) (b : Bool) : (s.setFlag a i b).icfg = s.icfg := rfl
@[simp] theorem State.setFlag_power (a i : Nat) (b : Bool) : (s.setFlag a i b).power = s.power := rfl
@[simp] theorem State.setFlag_pads (a i : Nat) (b : Bool) : (s.setFlag a i b).pads = s.pads := rfl
@[simp] theorem State.setFlag_pintLevel (a i : Nat) (b : Bool) : (s.setFlag a i b).pintLevel = s.pintLevel := rfl
@[simp] theorem State.setFlag_rings (a i : Nat) (b : Bool) : (s.setFlag a i b).rings = s.rings := rfl
@[simp] theorem State.setFlag_hp (a i : Nat) (b : Bool) : (s.setFlag a i b).hp = s.hp := rfl
@[simp] theorem State.setFlag_macs (a i : Nat) (b : Bool) : (s.setFlag a i b).macs = s.macs := rfl
@[simp] theorem State.setFlag_pcie (a i : Nat) (b : Bool) : (s.setFlag a i b).pcie = s.pcie := rfl
@[simp] theorem State.setFlag_canStamp (a i : Nat) (b : Bool) : (s.setFlag a i b).canStamp = s.canStamp := rfl
@[simp] theorem State.setFlag_tp (a i : Nat) (b : Bool) : (s.setFlag a i b).tp = s.tp := rfl
@[simp] theorem State.setFlag_cores (a i : Nat) (b : Bool) : (s.setFlag a i b).cores = s.cores := rfl
@[simp] theorem State.setFlag_pairs (a i : Nat) (b : Bool) : (s.setFlag a i b).pairs = s.pairs := rfl
@[simp] theorem State.setFlag_tags (a i : Nat) (b : Bool) : (s.setFlag a i b).tags = s.tags := rfl
@[simp] theorem State.setFlag_pending (a i : Nat) (b : Bool) : (s.setFlag a i b).pending = s.pending := rfl
@[simp] theorem State.setFlag_free (a i : Nat) (b : Bool) : (s.setFlag a i b).free = s.free := rfl

/-! satInc -/

@[simp] theorem State.satInc_clk (a hi lo : Nat) : (s.satInc a hi lo).clk = s.clk := rfl
@[simp] theorem State.satInc_conv (a hi lo : Nat) : (s.satInc a hi lo).conv = s.conv := rfl
@[simp] theorem State.satInc_so (a hi lo : Nat) : (s.satInc a hi lo).so = s.so := rfl
@[simp] theorem State.satInc_trace (a hi lo : Nat) : (s.satInc a hi lo).trace = s.trace := rfl
@[simp] theorem State.satInc_cmps (a hi lo : Nat) : (s.satInc a hi lo).cmps = s.cmps := rfl
@[simp] theorem State.satInc_pwms (a hi lo : Nat) : (s.satInc a hi lo).pwms = s.pwms := rfl
@[simp] theorem State.satInc_flt (a hi lo : Nat) : (s.satInc a hi lo).flt = s.flt := rfl
@[simp] theorem State.satInc_switchAt (a hi lo : Nat) : (s.satInc a hi lo).switchAt = s.switchAt := rfl
@[simp] theorem State.satInc_pendFrom (a hi lo : Nat) : (s.satInc a hi lo).pendFrom = s.pendFrom := rfl
@[simp] theorem State.satInc_pis (a hi lo : Nat) : (s.satInc a hi lo).pis = s.pis := rfl
@[simp] theorem State.satInc_cells (a hi lo : Nat) : (s.satInc a hi lo).cells = s.cells := rfl
@[simp] theorem State.satInc_ports (a hi lo : Nat) : (s.satInc a hi lo).ports = s.ports := rfl
@[simp] theorem State.satInc_mismCell (a hi lo : Nat) : (s.satInc a hi lo).mismCell = s.mismCell := rfl
@[simp] theorem State.satInc_mem (a hi lo : Nat) : (s.satInc a hi lo).mem = s.mem := rfl
@[simp] theorem State.satInc_repairs (a hi lo : Nat) : (s.satInc a hi lo).repairs = s.repairs := rfl
@[simp] theorem State.satInc_flash (a hi lo : Nat) : (s.satInc a hi lo).flash = s.flash := rfl
@[simp] theorem State.satInc_dmas (a hi lo : Nat) : (s.satInc a hi lo).dmas = s.dmas := rfl
@[simp] theorem State.satInc_mg (a hi lo : Nat) : (s.satInc a hi lo).mg = s.mg := rfl
@[simp] theorem State.satInc_arb (a hi lo : Nat) : (s.satInc a hi lo).arb = s.arb := rfl
@[simp] theorem State.satInc_lines (a hi lo : Nat) : (s.satInc a hi lo).lines = s.lines := rfl
@[simp] theorem State.satInc_icfg (a hi lo : Nat) : (s.satInc a hi lo).icfg = s.icfg := rfl
@[simp] theorem State.satInc_power (a hi lo : Nat) : (s.satInc a hi lo).power = s.power := rfl
@[simp] theorem State.satInc_pads (a hi lo : Nat) : (s.satInc a hi lo).pads = s.pads := rfl
@[simp] theorem State.satInc_pintLevel (a hi lo : Nat) : (s.satInc a hi lo).pintLevel = s.pintLevel := rfl
@[simp] theorem State.satInc_rings (a hi lo : Nat) : (s.satInc a hi lo).rings = s.rings := rfl
@[simp] theorem State.satInc_hp (a hi lo : Nat) : (s.satInc a hi lo).hp = s.hp := rfl
@[simp] theorem State.satInc_macs (a hi lo : Nat) : (s.satInc a hi lo).macs = s.macs := rfl
@[simp] theorem State.satInc_pcie (a hi lo : Nat) : (s.satInc a hi lo).pcie = s.pcie := rfl
@[simp] theorem State.satInc_canStamp (a hi lo : Nat) : (s.satInc a hi lo).canStamp = s.canStamp := rfl
@[simp] theorem State.satInc_tp (a hi lo : Nat) : (s.satInc a hi lo).tp = s.tp := rfl
@[simp] theorem State.satInc_cores (a hi lo : Nat) : (s.satInc a hi lo).cores = s.cores := rfl
@[simp] theorem State.satInc_pairs (a hi lo : Nat) : (s.satInc a hi lo).pairs = s.pairs := rfl
@[simp] theorem State.satInc_tags (a hi lo : Nat) : (s.satInc a hi lo).tags = s.tags := rfl
@[simp] theorem State.satInc_pending (a hi lo : Nat) : (s.satInc a hi lo).pending = s.pending := rfl
@[simp] theorem State.satInc_free (a hi lo : Nat) : (s.satInc a hi lo).free = s.free := rfl

/-! satAdd -/

@[simp] theorem State.satAdd_clk (a hi lo n : Nat) : (s.satAdd a hi lo n).clk = s.clk := rfl
@[simp] theorem State.satAdd_conv (a hi lo n : Nat) : (s.satAdd a hi lo n).conv = s.conv := rfl
@[simp] theorem State.satAdd_so (a hi lo n : Nat) : (s.satAdd a hi lo n).so = s.so := rfl
@[simp] theorem State.satAdd_trace (a hi lo n : Nat) : (s.satAdd a hi lo n).trace = s.trace := rfl
@[simp] theorem State.satAdd_cmps (a hi lo n : Nat) : (s.satAdd a hi lo n).cmps = s.cmps := rfl
@[simp] theorem State.satAdd_pwms (a hi lo n : Nat) : (s.satAdd a hi lo n).pwms = s.pwms := rfl
@[simp] theorem State.satAdd_flt (a hi lo n : Nat) : (s.satAdd a hi lo n).flt = s.flt := rfl
@[simp] theorem State.satAdd_switchAt (a hi lo n : Nat) : (s.satAdd a hi lo n).switchAt = s.switchAt := rfl
@[simp] theorem State.satAdd_pendFrom (a hi lo n : Nat) : (s.satAdd a hi lo n).pendFrom = s.pendFrom := rfl
@[simp] theorem State.satAdd_pis (a hi lo n : Nat) : (s.satAdd a hi lo n).pis = s.pis := rfl
@[simp] theorem State.satAdd_cells (a hi lo n : Nat) : (s.satAdd a hi lo n).cells = s.cells := rfl
@[simp] theorem State.satAdd_ports (a hi lo n : Nat) : (s.satAdd a hi lo n).ports = s.ports := rfl
@[simp] theorem State.satAdd_mismCell (a hi lo n : Nat) : (s.satAdd a hi lo n).mismCell = s.mismCell := rfl
@[simp] theorem State.satAdd_mem (a hi lo n : Nat) : (s.satAdd a hi lo n).mem = s.mem := rfl
@[simp] theorem State.satAdd_repairs (a hi lo n : Nat) : (s.satAdd a hi lo n).repairs = s.repairs := rfl
@[simp] theorem State.satAdd_flash (a hi lo n : Nat) : (s.satAdd a hi lo n).flash = s.flash := rfl
@[simp] theorem State.satAdd_dmas (a hi lo n : Nat) : (s.satAdd a hi lo n).dmas = s.dmas := rfl
@[simp] theorem State.satAdd_mg (a hi lo n : Nat) : (s.satAdd a hi lo n).mg = s.mg := rfl
@[simp] theorem State.satAdd_arb (a hi lo n : Nat) : (s.satAdd a hi lo n).arb = s.arb := rfl
@[simp] theorem State.satAdd_lines (a hi lo n : Nat) : (s.satAdd a hi lo n).lines = s.lines := rfl
@[simp] theorem State.satAdd_icfg (a hi lo n : Nat) : (s.satAdd a hi lo n).icfg = s.icfg := rfl
@[simp] theorem State.satAdd_power (a hi lo n : Nat) : (s.satAdd a hi lo n).power = s.power := rfl
@[simp] theorem State.satAdd_pads (a hi lo n : Nat) : (s.satAdd a hi lo n).pads = s.pads := rfl
@[simp] theorem State.satAdd_pintLevel (a hi lo n : Nat) : (s.satAdd a hi lo n).pintLevel = s.pintLevel := rfl
@[simp] theorem State.satAdd_rings (a hi lo n : Nat) : (s.satAdd a hi lo n).rings = s.rings := rfl
@[simp] theorem State.satAdd_hp (a hi lo n : Nat) : (s.satAdd a hi lo n).hp = s.hp := rfl
@[simp] theorem State.satAdd_macs (a hi lo n : Nat) : (s.satAdd a hi lo n).macs = s.macs := rfl
@[simp] theorem State.satAdd_pcie (a hi lo n : Nat) : (s.satAdd a hi lo n).pcie = s.pcie := rfl
@[simp] theorem State.satAdd_canStamp (a hi lo n : Nat) : (s.satAdd a hi lo n).canStamp = s.canStamp := rfl
@[simp] theorem State.satAdd_tp (a hi lo n : Nat) : (s.satAdd a hi lo n).tp = s.tp := rfl
@[simp] theorem State.satAdd_cores (a hi lo n : Nat) : (s.satAdd a hi lo n).cores = s.cores := rfl
@[simp] theorem State.satAdd_pairs (a hi lo n : Nat) : (s.satAdd a hi lo n).pairs = s.pairs := rfl
@[simp] theorem State.satAdd_tags (a hi lo n : Nat) : (s.satAdd a hi lo n).tags = s.tags := rfl
@[simp] theorem State.satAdd_pending (a hi lo n : Nat) : (s.satAdd a hi lo n).pending = s.pending := rfl
@[simp] theorem State.satAdd_free (a hi lo n : Nat) : (s.satAdd a hi lo n).free = s.free := rfl

/-! modInc -/

@[simp] theorem State.modInc_clk (a hi lo : Nat) : (s.modInc a hi lo).clk = s.clk := rfl
@[simp] theorem State.modInc_conv (a hi lo : Nat) : (s.modInc a hi lo).conv = s.conv := rfl
@[simp] theorem State.modInc_so (a hi lo : Nat) : (s.modInc a hi lo).so = s.so := rfl
@[simp] theorem State.modInc_trace (a hi lo : Nat) : (s.modInc a hi lo).trace = s.trace := rfl
@[simp] theorem State.modInc_cmps (a hi lo : Nat) : (s.modInc a hi lo).cmps = s.cmps := rfl
@[simp] theorem State.modInc_pwms (a hi lo : Nat) : (s.modInc a hi lo).pwms = s.pwms := rfl
@[simp] theorem State.modInc_flt (a hi lo : Nat) : (s.modInc a hi lo).flt = s.flt := rfl
@[simp] theorem State.modInc_switchAt (a hi lo : Nat) : (s.modInc a hi lo).switchAt = s.switchAt := rfl
@[simp] theorem State.modInc_pendFrom (a hi lo : Nat) : (s.modInc a hi lo).pendFrom = s.pendFrom := rfl
@[simp] theorem State.modInc_pis (a hi lo : Nat) : (s.modInc a hi lo).pis = s.pis := rfl
@[simp] theorem State.modInc_cells (a hi lo : Nat) : (s.modInc a hi lo).cells = s.cells := rfl
@[simp] theorem State.modInc_ports (a hi lo : Nat) : (s.modInc a hi lo).ports = s.ports := rfl
@[simp] theorem State.modInc_mismCell (a hi lo : Nat) : (s.modInc a hi lo).mismCell = s.mismCell := rfl
@[simp] theorem State.modInc_mem (a hi lo : Nat) : (s.modInc a hi lo).mem = s.mem := rfl
@[simp] theorem State.modInc_repairs (a hi lo : Nat) : (s.modInc a hi lo).repairs = s.repairs := rfl
@[simp] theorem State.modInc_flash (a hi lo : Nat) : (s.modInc a hi lo).flash = s.flash := rfl
@[simp] theorem State.modInc_dmas (a hi lo : Nat) : (s.modInc a hi lo).dmas = s.dmas := rfl
@[simp] theorem State.modInc_mg (a hi lo : Nat) : (s.modInc a hi lo).mg = s.mg := rfl
@[simp] theorem State.modInc_arb (a hi lo : Nat) : (s.modInc a hi lo).arb = s.arb := rfl
@[simp] theorem State.modInc_lines (a hi lo : Nat) : (s.modInc a hi lo).lines = s.lines := rfl
@[simp] theorem State.modInc_icfg (a hi lo : Nat) : (s.modInc a hi lo).icfg = s.icfg := rfl
@[simp] theorem State.modInc_power (a hi lo : Nat) : (s.modInc a hi lo).power = s.power := rfl
@[simp] theorem State.modInc_pads (a hi lo : Nat) : (s.modInc a hi lo).pads = s.pads := rfl
@[simp] theorem State.modInc_pintLevel (a hi lo : Nat) : (s.modInc a hi lo).pintLevel = s.pintLevel := rfl
@[simp] theorem State.modInc_rings (a hi lo : Nat) : (s.modInc a hi lo).rings = s.rings := rfl
@[simp] theorem State.modInc_hp (a hi lo : Nat) : (s.modInc a hi lo).hp = s.hp := rfl
@[simp] theorem State.modInc_macs (a hi lo : Nat) : (s.modInc a hi lo).macs = s.macs := rfl
@[simp] theorem State.modInc_pcie (a hi lo : Nat) : (s.modInc a hi lo).pcie = s.pcie := rfl
@[simp] theorem State.modInc_canStamp (a hi lo : Nat) : (s.modInc a hi lo).canStamp = s.canStamp := rfl
@[simp] theorem State.modInc_tp (a hi lo : Nat) : (s.modInc a hi lo).tp = s.tp := rfl
@[simp] theorem State.modInc_cores (a hi lo : Nat) : (s.modInc a hi lo).cores = s.cores := rfl
@[simp] theorem State.modInc_pairs (a hi lo : Nat) : (s.modInc a hi lo).pairs = s.pairs := rfl
@[simp] theorem State.modInc_tags (a hi lo : Nat) : (s.modInc a hi lo).tags = s.tags := rfl
@[simp] theorem State.modInc_pending (a hi lo : Nat) : (s.modInc a hi lo).pending = s.pending := rfl
@[simp] theorem State.modInc_free (a hi lo : Nat) : (s.modInc a hi lo).free = s.free := rfl

/-! cfgOk -/

@[simp] theorem State.cfgOk_clk (a : Nat) : (s.cfgOk a).clk = s.clk := rfl
@[simp] theorem State.cfgOk_conv (a : Nat) : (s.cfgOk a).conv = s.conv := rfl
@[simp] theorem State.cfgOk_so (a : Nat) : (s.cfgOk a).so = s.so := rfl
@[simp] theorem State.cfgOk_trace (a : Nat) : (s.cfgOk a).trace = s.trace := rfl
@[simp] theorem State.cfgOk_cmps (a : Nat) : (s.cfgOk a).cmps = s.cmps := rfl
@[simp] theorem State.cfgOk_pwms (a : Nat) : (s.cfgOk a).pwms = s.pwms := rfl
@[simp] theorem State.cfgOk_flt (a : Nat) : (s.cfgOk a).flt = s.flt := rfl
@[simp] theorem State.cfgOk_switchAt (a : Nat) : (s.cfgOk a).switchAt = s.switchAt := rfl
@[simp] theorem State.cfgOk_pendFrom (a : Nat) : (s.cfgOk a).pendFrom = s.pendFrom := rfl
@[simp] theorem State.cfgOk_pis (a : Nat) : (s.cfgOk a).pis = s.pis := rfl
@[simp] theorem State.cfgOk_cells (a : Nat) : (s.cfgOk a).cells = s.cells := rfl
@[simp] theorem State.cfgOk_ports (a : Nat) : (s.cfgOk a).ports = s.ports := rfl
@[simp] theorem State.cfgOk_mismCell (a : Nat) : (s.cfgOk a).mismCell = s.mismCell := rfl
@[simp] theorem State.cfgOk_mem (a : Nat) : (s.cfgOk a).mem = s.mem := rfl
@[simp] theorem State.cfgOk_repairs (a : Nat) : (s.cfgOk a).repairs = s.repairs := rfl
@[simp] theorem State.cfgOk_flash (a : Nat) : (s.cfgOk a).flash = s.flash := rfl
@[simp] theorem State.cfgOk_dmas (a : Nat) : (s.cfgOk a).dmas = s.dmas := rfl
@[simp] theorem State.cfgOk_mg (a : Nat) : (s.cfgOk a).mg = s.mg := rfl
@[simp] theorem State.cfgOk_arb (a : Nat) : (s.cfgOk a).arb = s.arb := rfl
@[simp] theorem State.cfgOk_lines (a : Nat) : (s.cfgOk a).lines = s.lines := rfl
@[simp] theorem State.cfgOk_icfg (a : Nat) : (s.cfgOk a).icfg = s.icfg := rfl
@[simp] theorem State.cfgOk_power (a : Nat) : (s.cfgOk a).power = s.power := rfl
@[simp] theorem State.cfgOk_pads (a : Nat) : (s.cfgOk a).pads = s.pads := rfl
@[simp] theorem State.cfgOk_pintLevel (a : Nat) : (s.cfgOk a).pintLevel = s.pintLevel := rfl
@[simp] theorem State.cfgOk_rings (a : Nat) : (s.cfgOk a).rings = s.rings := rfl
@[simp] theorem State.cfgOk_hp (a : Nat) : (s.cfgOk a).hp = s.hp := rfl
@[simp] theorem State.cfgOk_macs (a : Nat) : (s.cfgOk a).macs = s.macs := rfl
@[simp] theorem State.cfgOk_pcie (a : Nat) : (s.cfgOk a).pcie = s.pcie := rfl
@[simp] theorem State.cfgOk_canStamp (a : Nat) : (s.cfgOk a).canStamp = s.canStamp := rfl
@[simp] theorem State.cfgOk_tp (a : Nat) : (s.cfgOk a).tp = s.tp := rfl
@[simp] theorem State.cfgOk_cores (a : Nat) : (s.cfgOk a).cores = s.cores := rfl
@[simp] theorem State.cfgOk_pairs (a : Nat) : (s.cfgOk a).pairs = s.pairs := rfl
@[simp] theorem State.cfgOk_tags (a : Nat) : (s.cfgOk a).tags = s.tags := rfl
@[simp] theorem State.cfgOk_pending (a : Nat) : (s.cfgOk a).pending = s.pending := rfl
@[simp] theorem State.cfgOk_free (a : Nat) : (s.cfgOk a).free = s.free := rfl

/-! cfgFail -/

@[simp] theorem State.cfgFail_clk (a : Nat) (f : CfgFail) : (s.cfgFail a f).clk = s.clk := rfl
@[simp] theorem State.cfgFail_conv (a : Nat) (f : CfgFail) : (s.cfgFail a f).conv = s.conv := rfl
@[simp] theorem State.cfgFail_so (a : Nat) (f : CfgFail) : (s.cfgFail a f).so = s.so := rfl
@[simp] theorem State.cfgFail_trace (a : Nat) (f : CfgFail) : (s.cfgFail a f).trace = s.trace := rfl
@[simp] theorem State.cfgFail_cmps (a : Nat) (f : CfgFail) : (s.cfgFail a f).cmps = s.cmps := rfl
@[simp] theorem State.cfgFail_pwms (a : Nat) (f : CfgFail) : (s.cfgFail a f).pwms = s.pwms := rfl
@[simp] theorem State.cfgFail_flt (a : Nat) (f : CfgFail) : (s.cfgFail a f).flt = s.flt := rfl
@[simp] theorem State.cfgFail_switchAt (a : Nat) (f : CfgFail) : (s.cfgFail a f).switchAt = s.switchAt := rfl
@[simp] theorem State.cfgFail_pendFrom (a : Nat) (f : CfgFail) : (s.cfgFail a f).pendFrom = s.pendFrom := rfl
@[simp] theorem State.cfgFail_pis (a : Nat) (f : CfgFail) : (s.cfgFail a f).pis = s.pis := rfl
@[simp] theorem State.cfgFail_cells (a : Nat) (f : CfgFail) : (s.cfgFail a f).cells = s.cells := rfl
@[simp] theorem State.cfgFail_ports (a : Nat) (f : CfgFail) : (s.cfgFail a f).ports = s.ports := rfl
@[simp] theorem State.cfgFail_mismCell (a : Nat) (f : CfgFail) : (s.cfgFail a f).mismCell = s.mismCell := rfl
@[simp] theorem State.cfgFail_mem (a : Nat) (f : CfgFail) : (s.cfgFail a f).mem = s.mem := rfl
@[simp] theorem State.cfgFail_repairs (a : Nat) (f : CfgFail) : (s.cfgFail a f).repairs = s.repairs := rfl
@[simp] theorem State.cfgFail_flash (a : Nat) (f : CfgFail) : (s.cfgFail a f).flash = s.flash := rfl
@[simp] theorem State.cfgFail_dmas (a : Nat) (f : CfgFail) : (s.cfgFail a f).dmas = s.dmas := rfl
@[simp] theorem State.cfgFail_mg (a : Nat) (f : CfgFail) : (s.cfgFail a f).mg = s.mg := rfl
@[simp] theorem State.cfgFail_arb (a : Nat) (f : CfgFail) : (s.cfgFail a f).arb = s.arb := rfl
@[simp] theorem State.cfgFail_lines (a : Nat) (f : CfgFail) : (s.cfgFail a f).lines = s.lines := rfl
@[simp] theorem State.cfgFail_icfg (a : Nat) (f : CfgFail) : (s.cfgFail a f).icfg = s.icfg := rfl
@[simp] theorem State.cfgFail_power (a : Nat) (f : CfgFail) : (s.cfgFail a f).power = s.power := rfl
@[simp] theorem State.cfgFail_pads (a : Nat) (f : CfgFail) : (s.cfgFail a f).pads = s.pads := rfl
@[simp] theorem State.cfgFail_pintLevel (a : Nat) (f : CfgFail) : (s.cfgFail a f).pintLevel = s.pintLevel := rfl
@[simp] theorem State.cfgFail_rings (a : Nat) (f : CfgFail) : (s.cfgFail a f).rings = s.rings := rfl
@[simp] theorem State.cfgFail_hp (a : Nat) (f : CfgFail) : (s.cfgFail a f).hp = s.hp := rfl
@[simp] theorem State.cfgFail_macs (a : Nat) (f : CfgFail) : (s.cfgFail a f).macs = s.macs := rfl
@[simp] theorem State.cfgFail_pcie (a : Nat) (f : CfgFail) : (s.cfgFail a f).pcie = s.pcie := rfl
@[simp] theorem State.cfgFail_canStamp (a : Nat) (f : CfgFail) : (s.cfgFail a f).canStamp = s.canStamp := rfl
@[simp] theorem State.cfgFail_tp (a : Nat) (f : CfgFail) : (s.cfgFail a f).tp = s.tp := rfl
@[simp] theorem State.cfgFail_cores (a : Nat) (f : CfgFail) : (s.cfgFail a f).cores = s.cores := rfl
@[simp] theorem State.cfgFail_pairs (a : Nat) (f : CfgFail) : (s.cfgFail a f).pairs = s.pairs := rfl
@[simp] theorem State.cfgFail_tags (a : Nat) (f : CfgFail) : (s.cfgFail a f).tags = s.tags := rfl
@[simp] theorem State.cfgFail_pending (a : Nat) (f : CfgFail) : (s.cfgFail a f).pending = s.pending := rfl
@[simp] theorem State.cfgFail_free (a : Nat) (f : CfgFail) : (s.cfgFail a f).free = s.free := rfl

/-! tick -/

@[simp] theorem State.tick_regs : s.tick.regs = s.regs := rfl
@[simp] theorem State.tick_clk : s.tick.clk = s.clk := rfl
@[simp] theorem State.tick_conv : s.tick.conv = s.conv := rfl
@[simp] theorem State.tick_so : s.tick.so = s.so := rfl
@[simp] theorem State.tick_trace : s.tick.trace = s.trace := rfl
@[simp] theorem State.tick_cmps : s.tick.cmps = s.cmps := rfl
@[simp] theorem State.tick_pwms : s.tick.pwms = s.pwms := rfl
@[simp] theorem State.tick_flt : s.tick.flt = s.flt := rfl
@[simp] theorem State.tick_switchAt : s.tick.switchAt = s.switchAt := rfl
@[simp] theorem State.tick_pendFrom : s.tick.pendFrom = s.pendFrom := rfl
@[simp] theorem State.tick_pis : s.tick.pis = s.pis := rfl
@[simp] theorem State.tick_cells : s.tick.cells = s.cells := rfl
@[simp] theorem State.tick_ports : s.tick.ports = s.ports := rfl
@[simp] theorem State.tick_mismCell : s.tick.mismCell = s.mismCell := rfl
@[simp] theorem State.tick_mem : s.tick.mem = s.mem := rfl
@[simp] theorem State.tick_repairs : s.tick.repairs = s.repairs := rfl
@[simp] theorem State.tick_flash : s.tick.flash = s.flash := rfl
@[simp] theorem State.tick_dmas : s.tick.dmas = s.dmas := rfl
@[simp] theorem State.tick_mg : s.tick.mg = s.mg := rfl
@[simp] theorem State.tick_arb : s.tick.arb = s.arb := rfl
@[simp] theorem State.tick_lines : s.tick.lines = s.lines := rfl
@[simp] theorem State.tick_icfg : s.tick.icfg = s.icfg := rfl
@[simp] theorem State.tick_power : s.tick.power = s.power := rfl
@[simp] theorem State.tick_pads : s.tick.pads = s.pads := rfl
@[simp] theorem State.tick_pintLevel : s.tick.pintLevel = s.pintLevel := rfl
@[simp] theorem State.tick_rings : s.tick.rings = s.rings := rfl
@[simp] theorem State.tick_hp : s.tick.hp = s.hp := rfl
@[simp] theorem State.tick_macs : s.tick.macs = s.macs := rfl
@[simp] theorem State.tick_pcie : s.tick.pcie = s.pcie := rfl
@[simp] theorem State.tick_canStamp : s.tick.canStamp = s.canStamp := rfl
@[simp] theorem State.tick_tp : s.tick.tp = s.tp := rfl
@[simp] theorem State.tick_cores : s.tick.cores = s.cores := rfl
@[simp] theorem State.tick_pairs : s.tick.pairs = s.pairs := rfl
@[simp] theorem State.tick_tags : s.tick.tags = s.tags := rfl
@[simp] theorem State.tick_pending : s.tick.pending = s.pending := rfl
@[simp] theorem State.tick_reg (x : Nat) : (s.tick).reg x = s.reg x := rfl

/-! advanceTo -/

@[simp] theorem State.advanceTo_regs (e : Nat) : (s.advanceTo e).regs = s.regs := by unfold State.advanceTo; split <;> rfl
@[simp] theorem State.advanceTo_conv (e : Nat) : (s.advanceTo e).conv = s.conv := by unfold State.advanceTo; split <;> rfl
@[simp] theorem State.advanceTo_so (e : Nat) : (s.advanceTo e).so = s.so := by unfold State.advanceTo; split <;> rfl
@[simp] theorem State.advanceTo_cmps (e : Nat) : (s.advanceTo e).cmps = s.cmps := by unfold State.advanceTo; split <;> rfl
@[simp] theorem State.advanceTo_pwms (e : Nat) : (s.advanceTo e).pwms = s.pwms := by unfold State.advanceTo; split <;> rfl
@[simp] theorem State.advanceTo_flt (e : Nat) : (s.advanceTo e).flt = s.flt := by unfold State.advanceTo; split <;> rfl
@[simp] theorem State.advanceTo_switchAt (e : Nat) : (s.advanceTo e).switchAt = s.switchAt := by unfold State.advanceTo; split <;> rfl
@[simp] theorem State.advanceTo_pendFrom (e : Nat) : (s.advanceTo e).pendFrom = s.pendFrom := by unfold State.advanceTo; split <;> rfl
@[simp] theorem State.advanceTo_pis (e : Nat) : (s.advanceTo e).pis = s.pis := by unfold State.advanceTo; split <;> rfl
@[simp] theorem State.advanceTo_cells (e : Nat) : (s.advanceTo e).cells = s.cells := by unfold State.advanceTo; split <;> rfl
@[simp] theorem State.advanceTo_ports (e : Nat) : (s.advanceTo e).ports = s.ports := by unfold State.advanceTo; split <;> rfl
@[simp] theorem State.advanceTo_mismCell (e : Nat) : (s.advanceTo e).mismCell = s.mismCell := by unfold State.advanceTo; split <;> rfl
@[simp] theorem State.advanceTo_mem (e : Nat) : (s.advanceTo e).mem = s.mem := by unfold State.advanceTo; split <;> rfl
@[simp] theorem State.advanceTo_repairs (e : Nat) : (s.advanceTo e).repairs = s.repairs := by unfold State.advanceTo; split <;> rfl
@[simp] theorem State.advanceTo_flash (e : Nat) : (s.advanceTo e).flash = s.flash := by unfold State.advanceTo; split <;> rfl
@[simp] theorem State.advanceTo_dmas (e : Nat) : (s.advanceTo e).dmas = s.dmas := by unfold State.advanceTo; split <;> rfl
@[simp] theorem State.advanceTo_mg (e : Nat) : (s.advanceTo e).mg = s.mg := by unfold State.advanceTo; split <;> rfl
@[simp] theorem State.advanceTo_arb (e : Nat) : (s.advanceTo e).arb = s.arb := by unfold State.advanceTo; split <;> rfl
@[simp] theorem State.advanceTo_lines (e : Nat) : (s.advanceTo e).lines = s.lines := by unfold State.advanceTo; split <;> rfl
@[simp] theorem State.advanceTo_icfg (e : Nat) : (s.advanceTo e).icfg = s.icfg := by unfold State.advanceTo; split <;> rfl
@[simp] theorem State.advanceTo_power (e : Nat) : (s.advanceTo e).power = s.power := by unfold State.advanceTo; split <;> rfl
@[simp] theorem State.advanceTo_pads (e : Nat) : (s.advanceTo e).pads = s.pads := by unfold State.advanceTo; split <;> rfl
@[simp] theorem State.advanceTo_pintLevel (e : Nat) : (s.advanceTo e).pintLevel = s.pintLevel := by unfold State.advanceTo; split <;> rfl
@[simp] theorem State.advanceTo_rings (e : Nat) : (s.advanceTo e).rings = s.rings := by unfold State.advanceTo; split <;> rfl
@[simp] theorem State.advanceTo_hp (e : Nat) : (s.advanceTo e).hp = s.hp := by unfold State.advanceTo; split <;> rfl
@[simp] theorem State.advanceTo_macs (e : Nat) : (s.advanceTo e).macs = s.macs := by unfold State.advanceTo; split <;> rfl
@[simp] theorem State.advanceTo_pcie (e : Nat) : (s.advanceTo e).pcie = s.pcie := by unfold State.advanceTo; split <;> rfl
@[simp] theorem State.advanceTo_canStamp (e : Nat) : (s.advanceTo e).canStamp = s.canStamp := by unfold State.advanceTo; split <;> rfl
@[simp] theorem State.advanceTo_tp (e : Nat) : (s.advanceTo e).tp = s.tp := by unfold State.advanceTo; split <;> rfl
@[simp] theorem State.advanceTo_cores (e : Nat) : (s.advanceTo e).cores = s.cores := by unfold State.advanceTo; split <;> rfl
@[simp] theorem State.advanceTo_pairs (e : Nat) : (s.advanceTo e).pairs = s.pairs := by unfold State.advanceTo; split <;> rfl
@[simp] theorem State.advanceTo_tags (e : Nat) : (s.advanceTo e).tags = s.tags := by unfold State.advanceTo; split <;> rfl
@[simp] theorem State.advanceTo_pending (e : Nat) : (s.advanceTo e).pending = s.pending := by unfold State.advanceTo; split <;> rfl
@[simp] theorem State.advanceTo_free (e : Nat) : (s.advanceTo e).free = s.free := by unfold State.advanceTo; split <;> rfl

/-! pulseLine -/

@[simp] theorem State.pulseLine_regs (l : Nat) : (s.pulseLine l).regs = s.regs := rfl
@[simp] theorem State.pulseLine_clk (l : Nat) : (s.pulseLine l).clk = s.clk := rfl
@[simp] theorem State.pulseLine_conv (l : Nat) : (s.pulseLine l).conv = s.conv := rfl
@[simp] theorem State.pulseLine_so (l : Nat) : (s.pulseLine l).so = s.so := rfl
@[simp] theorem State.pulseLine_trace (l : Nat) : (s.pulseLine l).trace = s.trace := rfl
@[simp] theorem State.pulseLine_cmps (l : Nat) : (s.pulseLine l).cmps = s.cmps := rfl
@[simp] theorem State.pulseLine_pwms (l : Nat) : (s.pulseLine l).pwms = s.pwms := rfl
@[simp] theorem State.pulseLine_flt (l : Nat) : (s.pulseLine l).flt = s.flt := rfl
@[simp] theorem State.pulseLine_switchAt (l : Nat) : (s.pulseLine l).switchAt = s.switchAt := rfl
@[simp] theorem State.pulseLine_pendFrom (l : Nat) : (s.pulseLine l).pendFrom = s.pendFrom := rfl
@[simp] theorem State.pulseLine_pis (l : Nat) : (s.pulseLine l).pis = s.pis := rfl
@[simp] theorem State.pulseLine_cells (l : Nat) : (s.pulseLine l).cells = s.cells := rfl
@[simp] theorem State.pulseLine_ports (l : Nat) : (s.pulseLine l).ports = s.ports := rfl
@[simp] theorem State.pulseLine_mismCell (l : Nat) : (s.pulseLine l).mismCell = s.mismCell := rfl
@[simp] theorem State.pulseLine_mem (l : Nat) : (s.pulseLine l).mem = s.mem := rfl
@[simp] theorem State.pulseLine_repairs (l : Nat) : (s.pulseLine l).repairs = s.repairs := rfl
@[simp] theorem State.pulseLine_flash (l : Nat) : (s.pulseLine l).flash = s.flash := rfl
@[simp] theorem State.pulseLine_dmas (l : Nat) : (s.pulseLine l).dmas = s.dmas := rfl
@[simp] theorem State.pulseLine_mg (l : Nat) : (s.pulseLine l).mg = s.mg := rfl
@[simp] theorem State.pulseLine_arb (l : Nat) : (s.pulseLine l).arb = s.arb := rfl
@[simp] theorem State.pulseLine_lines (l : Nat) : (s.pulseLine l).lines = s.lines := rfl
@[simp] theorem State.pulseLine_power (l : Nat) : (s.pulseLine l).power = s.power := rfl
@[simp] theorem State.pulseLine_pads (l : Nat) : (s.pulseLine l).pads = s.pads := rfl
@[simp] theorem State.pulseLine_pintLevel (l : Nat) : (s.pulseLine l).pintLevel = s.pintLevel := rfl
@[simp] theorem State.pulseLine_rings (l : Nat) : (s.pulseLine l).rings = s.rings := rfl
@[simp] theorem State.pulseLine_hp (l : Nat) : (s.pulseLine l).hp = s.hp := rfl
@[simp] theorem State.pulseLine_macs (l : Nat) : (s.pulseLine l).macs = s.macs := rfl
@[simp] theorem State.pulseLine_pcie (l : Nat) : (s.pulseLine l).pcie = s.pcie := rfl
@[simp] theorem State.pulseLine_canStamp (l : Nat) : (s.pulseLine l).canStamp = s.canStamp := rfl
@[simp] theorem State.pulseLine_tp (l : Nat) : (s.pulseLine l).tp = s.tp := rfl
@[simp] theorem State.pulseLine_cores (l : Nat) : (s.pulseLine l).cores = s.cores := rfl
@[simp] theorem State.pulseLine_pairs (l : Nat) : (s.pulseLine l).pairs = s.pairs := rfl
@[simp] theorem State.pulseLine_tags (l : Nat) : (s.pulseLine l).tags = s.tags := rfl
@[simp] theorem State.pulseLine_pending (l : Nat) : (s.pulseLine l).pending = s.pending := rfl
@[simp] theorem State.pulseLine_free (l : Nat) : (s.pulseLine l).free = s.free := rfl
@[simp] theorem State.pulseLine_reg (l : Nat) (x : Nat) : (s.pulseLine l).reg x = s.reg x := rfl

/-! setCmp -/

@[simp] theorem State.setCmp_regs (n : Nat) (r : Cmp) : (s.setCmp n r).regs = s.regs := rfl
@[simp] theorem State.setCmp_clk (n : Nat) (r : Cmp) : (s.setCmp n r).clk = s.clk := rfl
@[simp] theorem State.setCmp_conv (n : Nat) (r : Cmp) : (s.setCmp n r).conv = s.conv := rfl
@[simp] theorem State.setCmp_so (n : Nat) (r : Cmp) : (s.setCmp n r).so = s.so := rfl
@[simp] theorem State.setCmp_trace (n : Nat) (r : Cmp) : (s.setCmp n r).trace = s.trace := rfl
@[simp] theorem State.setCmp_pwms (n : Nat) (r : Cmp) : (s.setCmp n r).pwms = s.pwms := rfl
@[simp] theorem State.setCmp_flt (n : Nat) (r : Cmp) : (s.setCmp n r).flt = s.flt := rfl
@[simp] theorem State.setCmp_switchAt (n : Nat) (r : Cmp) : (s.setCmp n r).switchAt = s.switchAt := rfl
@[simp] theorem State.setCmp_pendFrom (n : Nat) (r : Cmp) : (s.setCmp n r).pendFrom = s.pendFrom := rfl
@[simp] theorem State.setCmp_pis (n : Nat) (r : Cmp) : (s.setCmp n r).pis = s.pis := rfl
@[simp] theorem State.setCmp_cells (n : Nat) (r : Cmp) : (s.setCmp n r).cells = s.cells := rfl
@[simp] theorem State.setCmp_ports (n : Nat) (r : Cmp) : (s.setCmp n r).ports = s.ports := rfl
@[simp] theorem State.setCmp_mismCell (n : Nat) (r : Cmp) : (s.setCmp n r).mismCell = s.mismCell := rfl
@[simp] theorem State.setCmp_mem (n : Nat) (r : Cmp) : (s.setCmp n r).mem = s.mem := rfl
@[simp] theorem State.setCmp_repairs (n : Nat) (r : Cmp) : (s.setCmp n r).repairs = s.repairs := rfl
@[simp] theorem State.setCmp_flash (n : Nat) (r : Cmp) : (s.setCmp n r).flash = s.flash := rfl
@[simp] theorem State.setCmp_dmas (n : Nat) (r : Cmp) : (s.setCmp n r).dmas = s.dmas := rfl
@[simp] theorem State.setCmp_mg (n : Nat) (r : Cmp) : (s.setCmp n r).mg = s.mg := rfl
@[simp] theorem State.setCmp_arb (n : Nat) (r : Cmp) : (s.setCmp n r).arb = s.arb := rfl
@[simp] theorem State.setCmp_lines (n : Nat) (r : Cmp) : (s.setCmp n r).lines = s.lines := rfl
@[simp] theorem State.setCmp_icfg (n : Nat) (r : Cmp) : (s.setCmp n r).icfg = s.icfg := rfl
@[simp] theorem State.setCmp_power (n : Nat) (r : Cmp) : (s.setCmp n r).power = s.power := rfl
@[simp] theorem State.setCmp_pads (n : Nat) (r : Cmp) : (s.setCmp n r).pads = s.pads := rfl
@[simp] theorem State.setCmp_pintLevel (n : Nat) (r : Cmp) : (s.setCmp n r).pintLevel = s.pintLevel := rfl
@[simp] theorem State.setCmp_rings (n : Nat) (r : Cmp) : (s.setCmp n r).rings = s.rings := rfl
@[simp] theorem State.setCmp_hp (n : Nat) (r : Cmp) : (s.setCmp n r).hp = s.hp := rfl
@[simp] theorem State.setCmp_macs (n : Nat) (r : Cmp) : (s.setCmp n r).macs = s.macs := rfl
@[simp] theorem State.setCmp_pcie (n : Nat) (r : Cmp) : (s.setCmp n r).pcie = s.pcie := rfl
@[simp] theorem State.setCmp_canStamp (n : Nat) (r : Cmp) : (s.setCmp n r).canStamp = s.canStamp := rfl
@[simp] theorem State.setCmp_tp (n : Nat) (r : Cmp) : (s.setCmp n r).tp = s.tp := rfl
@[simp] theorem State.setCmp_cores (n : Nat) (r : Cmp) : (s.setCmp n r).cores = s.cores := rfl
@[simp] theorem State.setCmp_pairs (n : Nat) (r : Cmp) : (s.setCmp n r).pairs = s.pairs := rfl
@[simp] theorem State.setCmp_tags (n : Nat) (r : Cmp) : (s.setCmp n r).tags = s.tags := rfl
@[simp] theorem State.setCmp_pending (n : Nat) (r : Cmp) : (s.setCmp n r).pending = s.pending := rfl
@[simp] theorem State.setCmp_free (n : Nat) (r : Cmp) : (s.setCmp n r).free = s.free := rfl
@[simp] theorem State.setCmp_reg (n : Nat) (r : Cmp) (x : Nat) : (s.setCmp n r).reg x = s.reg x := rfl

/-! setPwm -/

@[simp] theorem State.setPwm_regs (n : Nat) (r : Pwm) : (s.setPwm n r).regs = s.regs := rfl
@[simp] theorem State.setPwm_clk (n : Nat) (r : Pwm) : (s.setPwm n r).clk = s.clk := rfl
@[simp] theorem State.setPwm_conv (n : Nat) (r : Pwm) : (s.setPwm n r).conv = s.conv := rfl
@[simp] theorem State.setPwm_so (n : Nat) (r : Pwm) : (s.setPwm n r).so = s.so := rfl
@[simp] theorem State.setPwm_trace (n : Nat) (r : Pwm) : (s.setPwm n r).trace = s.trace := rfl
@[simp] theorem State.setPwm_cmps (n : Nat) (r : Pwm) : (s.setPwm n r).cmps = s.cmps := rfl
@[simp] theorem State.setPwm_flt (n : Nat) (r : Pwm) : (s.setPwm n r).flt = s.flt := rfl
@[simp] theorem State.setPwm_switchAt (n : Nat) (r : Pwm) : (s.setPwm n r).switchAt = s.switchAt := rfl
@[simp] theorem State.setPwm_pendFrom (n : Nat) (r : Pwm) : (s.setPwm n r).pendFrom = s.pendFrom := rfl
@[simp] theorem State.setPwm_pis (n : Nat) (r : Pwm) : (s.setPwm n r).pis = s.pis := rfl
@[simp] theorem State.setPwm_cells (n : Nat) (r : Pwm) : (s.setPwm n r).cells = s.cells := rfl
@[simp] theorem State.setPwm_ports (n : Nat) (r : Pwm) : (s.setPwm n r).ports = s.ports := rfl
@[simp] theorem State.setPwm_mismCell (n : Nat) (r : Pwm) : (s.setPwm n r).mismCell = s.mismCell := rfl
@[simp] theorem State.setPwm_mem (n : Nat) (r : Pwm) : (s.setPwm n r).mem = s.mem := rfl
@[simp] theorem State.setPwm_repairs (n : Nat) (r : Pwm) : (s.setPwm n r).repairs = s.repairs := rfl
@[simp] theorem State.setPwm_flash (n : Nat) (r : Pwm) : (s.setPwm n r).flash = s.flash := rfl
@[simp] theorem State.setPwm_dmas (n : Nat) (r : Pwm) : (s.setPwm n r).dmas = s.dmas := rfl
@[simp] theorem State.setPwm_mg (n : Nat) (r : Pwm) : (s.setPwm n r).mg = s.mg := rfl
@[simp] theorem State.setPwm_arb (n : Nat) (r : Pwm) : (s.setPwm n r).arb = s.arb := rfl
@[simp] theorem State.setPwm_lines (n : Nat) (r : Pwm) : (s.setPwm n r).lines = s.lines := rfl
@[simp] theorem State.setPwm_icfg (n : Nat) (r : Pwm) : (s.setPwm n r).icfg = s.icfg := rfl
@[simp] theorem State.setPwm_power (n : Nat) (r : Pwm) : (s.setPwm n r).power = s.power := rfl
@[simp] theorem State.setPwm_pads (n : Nat) (r : Pwm) : (s.setPwm n r).pads = s.pads := rfl
@[simp] theorem State.setPwm_pintLevel (n : Nat) (r : Pwm) : (s.setPwm n r).pintLevel = s.pintLevel := rfl
@[simp] theorem State.setPwm_rings (n : Nat) (r : Pwm) : (s.setPwm n r).rings = s.rings := rfl
@[simp] theorem State.setPwm_hp (n : Nat) (r : Pwm) : (s.setPwm n r).hp = s.hp := rfl
@[simp] theorem State.setPwm_macs (n : Nat) (r : Pwm) : (s.setPwm n r).macs = s.macs := rfl
@[simp] theorem State.setPwm_pcie (n : Nat) (r : Pwm) : (s.setPwm n r).pcie = s.pcie := rfl
@[simp] theorem State.setPwm_canStamp (n : Nat) (r : Pwm) : (s.setPwm n r).canStamp = s.canStamp := rfl
@[simp] theorem State.setPwm_tp (n : Nat) (r : Pwm) : (s.setPwm n r).tp = s.tp := rfl
@[simp] theorem State.setPwm_cores (n : Nat) (r : Pwm) : (s.setPwm n r).cores = s.cores := rfl
@[simp] theorem State.setPwm_pairs (n : Nat) (r : Pwm) : (s.setPwm n r).pairs = s.pairs := rfl
@[simp] theorem State.setPwm_tags (n : Nat) (r : Pwm) : (s.setPwm n r).tags = s.tags := rfl
@[simp] theorem State.setPwm_pending (n : Nat) (r : Pwm) : (s.setPwm n r).pending = s.pending := rfl
@[simp] theorem State.setPwm_free (n : Nat) (r : Pwm) : (s.setPwm n r).free = s.free := rfl
@[simp] theorem State.setPwm_reg (n : Nat) (r : Pwm) (x : Nat) : (s.setPwm n r).reg x = s.reg x := rfl

/-! setPos -/

@[simp] theorem State.setPos_regs (n : Nat) (r : Pos) : (s.setPos n r).regs = s.regs := rfl
@[simp] theorem State.setPos_clk (n : Nat) (r : Pos) : (s.setPos n r).clk = s.clk := rfl
@[simp] theorem State.setPos_conv (n : Nat) (r : Pos) : (s.setPos n r).conv = s.conv := rfl
@[simp] theorem State.setPos_so (n : Nat) (r : Pos) : (s.setPos n r).so = s.so := rfl
@[simp] theorem State.setPos_trace (n : Nat) (r : Pos) : (s.setPos n r).trace = s.trace := rfl
@[simp] theorem State.setPos_cmps (n : Nat) (r : Pos) : (s.setPos n r).cmps = s.cmps := rfl
@[simp] theorem State.setPos_pwms (n : Nat) (r : Pos) : (s.setPos n r).pwms = s.pwms := rfl
@[simp] theorem State.setPos_flt (n : Nat) (r : Pos) : (s.setPos n r).flt = s.flt := rfl
@[simp] theorem State.setPos_switchAt (n : Nat) (r : Pos) : (s.setPos n r).switchAt = s.switchAt := rfl
@[simp] theorem State.setPos_pendFrom (n : Nat) (r : Pos) : (s.setPos n r).pendFrom = s.pendFrom := rfl
@[simp] theorem State.setPos_cells (n : Nat) (r : Pos) : (s.setPos n r).cells = s.cells := rfl
@[simp] theorem State.setPos_ports (n : Nat) (r : Pos) : (s.setPos n r).ports = s.ports := rfl
@[simp] theorem State.setPos_mismCell (n : Nat) (r : Pos) : (s.setPos n r).mismCell = s.mismCell := rfl
@[simp] theorem State.setPos_mem (n : Nat) (r : Pos) : (s.setPos n r).mem = s.mem := rfl
@[simp] theorem State.setPos_repairs (n : Nat) (r : Pos) : (s.setPos n r).repairs = s.repairs := rfl
@[simp] theorem State.setPos_flash (n : Nat) (r : Pos) : (s.setPos n r).flash = s.flash := rfl
@[simp] theorem State.setPos_dmas (n : Nat) (r : Pos) : (s.setPos n r).dmas = s.dmas := rfl
@[simp] theorem State.setPos_mg (n : Nat) (r : Pos) : (s.setPos n r).mg = s.mg := rfl
@[simp] theorem State.setPos_arb (n : Nat) (r : Pos) : (s.setPos n r).arb = s.arb := rfl
@[simp] theorem State.setPos_lines (n : Nat) (r : Pos) : (s.setPos n r).lines = s.lines := rfl
@[simp] theorem State.setPos_icfg (n : Nat) (r : Pos) : (s.setPos n r).icfg = s.icfg := rfl
@[simp] theorem State.setPos_power (n : Nat) (r : Pos) : (s.setPos n r).power = s.power := rfl
@[simp] theorem State.setPos_pads (n : Nat) (r : Pos) : (s.setPos n r).pads = s.pads := rfl
@[simp] theorem State.setPos_pintLevel (n : Nat) (r : Pos) : (s.setPos n r).pintLevel = s.pintLevel := rfl
@[simp] theorem State.setPos_rings (n : Nat) (r : Pos) : (s.setPos n r).rings = s.rings := rfl
@[simp] theorem State.setPos_hp (n : Nat) (r : Pos) : (s.setPos n r).hp = s.hp := rfl
@[simp] theorem State.setPos_macs (n : Nat) (r : Pos) : (s.setPos n r).macs = s.macs := rfl
@[simp] theorem State.setPos_pcie (n : Nat) (r : Pos) : (s.setPos n r).pcie = s.pcie := rfl
@[simp] theorem State.setPos_canStamp (n : Nat) (r : Pos) : (s.setPos n r).canStamp = s.canStamp := rfl
@[simp] theorem State.setPos_tp (n : Nat) (r : Pos) : (s.setPos n r).tp = s.tp := rfl
@[simp] theorem State.setPos_cores (n : Nat) (r : Pos) : (s.setPos n r).cores = s.cores := rfl
@[simp] theorem State.setPos_pairs (n : Nat) (r : Pos) : (s.setPos n r).pairs = s.pairs := rfl
@[simp] theorem State.setPos_tags (n : Nat) (r : Pos) : (s.setPos n r).tags = s.tags := rfl
@[simp] theorem State.setPos_pending (n : Nat) (r : Pos) : (s.setPos n r).pending = s.pending := rfl
@[simp] theorem State.setPos_free (n : Nat) (r : Pos) : (s.setPos n r).free = s.free := rfl
@[simp] theorem State.setPos_reg (n : Nat) (r : Pos) (x : Nat) : (s.setPos n r).reg x = s.reg x := rfl

/-! setCell -/

@[simp] theorem State.setCell_regs (n : Nat) (r : LoopCell) : (s.setCell n r).regs = s.regs := rfl
@[simp] theorem State.setCell_clk (n : Nat) (r : LoopCell) : (s.setCell n r).clk = s.clk := rfl
@[simp] theorem State.setCell_conv (n : Nat) (r : LoopCell) : (s.setCell n r).conv = s.conv := rfl
@[simp] theorem State.setCell_so (n : Nat) (r : LoopCell) : (s.setCell n r).so = s.so := rfl
@[simp] theorem State.setCell_trace (n : Nat) (r : LoopCell) : (s.setCell n r).trace = s.trace := rfl
@[simp] theorem State.setCell_cmps (n : Nat) (r : LoopCell) : (s.setCell n r).cmps = s.cmps := rfl
@[simp] theorem State.setCell_pwms (n : Nat) (r : LoopCell) : (s.setCell n r).pwms = s.pwms := rfl
@[simp] theorem State.setCell_flt (n : Nat) (r : LoopCell) : (s.setCell n r).flt = s.flt := rfl
@[simp] theorem State.setCell_switchAt (n : Nat) (r : LoopCell) : (s.setCell n r).switchAt = s.switchAt := rfl
@[simp] theorem State.setCell_pendFrom (n : Nat) (r : LoopCell) : (s.setCell n r).pendFrom = s.pendFrom := rfl
@[simp] theorem State.setCell_pis (n : Nat) (r : LoopCell) : (s.setCell n r).pis = s.pis := rfl
@[simp] theorem State.setCell_ports (n : Nat) (r : LoopCell) : (s.setCell n r).ports = s.ports := rfl
@[simp] theorem State.setCell_mismCell (n : Nat) (r : LoopCell) : (s.setCell n r).mismCell = s.mismCell := rfl
@[simp] theorem State.setCell_mem (n : Nat) (r : LoopCell) : (s.setCell n r).mem = s.mem := rfl
@[simp] theorem State.setCell_repairs (n : Nat) (r : LoopCell) : (s.setCell n r).repairs = s.repairs := rfl
@[simp] theorem State.setCell_flash (n : Nat) (r : LoopCell) : (s.setCell n r).flash = s.flash := rfl
@[simp] theorem State.setCell_dmas (n : Nat) (r : LoopCell) : (s.setCell n r).dmas = s.dmas := rfl
@[simp] theorem State.setCell_mg (n : Nat) (r : LoopCell) : (s.setCell n r).mg = s.mg := rfl
@[simp] theorem State.setCell_arb (n : Nat) (r : LoopCell) : (s.setCell n r).arb = s.arb := rfl
@[simp] theorem State.setCell_lines (n : Nat) (r : LoopCell) : (s.setCell n r).lines = s.lines := rfl
@[simp] theorem State.setCell_icfg (n : Nat) (r : LoopCell) : (s.setCell n r).icfg = s.icfg := rfl
@[simp] theorem State.setCell_power (n : Nat) (r : LoopCell) : (s.setCell n r).power = s.power := rfl
@[simp] theorem State.setCell_pads (n : Nat) (r : LoopCell) : (s.setCell n r).pads = s.pads := rfl
@[simp] theorem State.setCell_pintLevel (n : Nat) (r : LoopCell) : (s.setCell n r).pintLevel = s.pintLevel := rfl
@[simp] theorem State.setCell_rings (n : Nat) (r : LoopCell) : (s.setCell n r).rings = s.rings := rfl
@[simp] theorem State.setCell_hp (n : Nat) (r : LoopCell) : (s.setCell n r).hp = s.hp := rfl
@[simp] theorem State.setCell_macs (n : Nat) (r : LoopCell) : (s.setCell n r).macs = s.macs := rfl
@[simp] theorem State.setCell_pcie (n : Nat) (r : LoopCell) : (s.setCell n r).pcie = s.pcie := rfl
@[simp] theorem State.setCell_canStamp (n : Nat) (r : LoopCell) : (s.setCell n r).canStamp = s.canStamp := rfl
@[simp] theorem State.setCell_tp (n : Nat) (r : LoopCell) : (s.setCell n r).tp = s.tp := rfl
@[simp] theorem State.setCell_cores (n : Nat) (r : LoopCell) : (s.setCell n r).cores = s.cores := rfl
@[simp] theorem State.setCell_pairs (n : Nat) (r : LoopCell) : (s.setCell n r).pairs = s.pairs := rfl
@[simp] theorem State.setCell_tags (n : Nat) (r : LoopCell) : (s.setCell n r).tags = s.tags := rfl
@[simp] theorem State.setCell_pending (n : Nat) (r : LoopCell) : (s.setCell n r).pending = s.pending := rfl
@[simp] theorem State.setCell_free (n : Nat) (r : LoopCell) : (s.setCell n r).free = s.free := rfl
@[simp] theorem State.setCell_reg (n : Nat) (r : LoopCell) (x : Nat) : (s.setCell n r).reg x = s.reg x := rfl

/-! setDma -/

@[simp] theorem State.setDma_regs (n : Nat) (r : DmaChan) : (s.setDma n r).regs = s.regs := rfl
@[simp] theorem State.setDma_clk (n : Nat) (r : DmaChan) : (s.setDma n r).clk = s.clk := rfl
@[simp] theorem State.setDma_conv (n : Nat) (r : DmaChan) : (s.setDma n r).conv = s.conv := rfl
@[simp] theorem State.setDma_so (n : Nat) (r : DmaChan) : (s.setDma n r).so = s.so := rfl
@[simp] theorem State.setDma_trace (n : Nat) (r : DmaChan) : (s.setDma n r).trace = s.trace := rfl
@[simp] theorem State.setDma_cmps (n : Nat) (r : DmaChan) : (s.setDma n r).cmps = s.cmps := rfl
@[simp] theorem State.setDma_pwms (n : Nat) (r : DmaChan) : (s.setDma n r).pwms = s.pwms := rfl
@[simp] theorem State.setDma_flt (n : Nat) (r : DmaChan) : (s.setDma n r).flt = s.flt := rfl
@[simp] theorem State.setDma_switchAt (n : Nat) (r : DmaChan) : (s.setDma n r).switchAt = s.switchAt := rfl
@[simp] theorem State.setDma_pendFrom (n : Nat) (r : DmaChan) : (s.setDma n r).pendFrom = s.pendFrom := rfl
@[simp] theorem State.setDma_pis (n : Nat) (r : DmaChan) : (s.setDma n r).pis = s.pis := rfl
@[simp] theorem State.setDma_cells (n : Nat) (r : DmaChan) : (s.setDma n r).cells = s.cells := rfl
@[simp] theorem State.setDma_ports (n : Nat) (r : DmaChan) : (s.setDma n r).ports = s.ports := rfl
@[simp] theorem State.setDma_mismCell (n : Nat) (r : DmaChan) : (s.setDma n r).mismCell = s.mismCell := rfl
@[simp] theorem State.setDma_mem (n : Nat) (r : DmaChan) : (s.setDma n r).mem = s.mem := rfl
@[simp] theorem State.setDma_repairs (n : Nat) (r : DmaChan) : (s.setDma n r).repairs = s.repairs := rfl
@[simp] theorem State.setDma_flash (n : Nat) (r : DmaChan) : (s.setDma n r).flash = s.flash := rfl
@[simp] theorem State.setDma_mg (n : Nat) (r : DmaChan) : (s.setDma n r).mg = s.mg := rfl
@[simp] theorem State.setDma_arb (n : Nat) (r : DmaChan) : (s.setDma n r).arb = s.arb := rfl
@[simp] theorem State.setDma_lines (n : Nat) (r : DmaChan) : (s.setDma n r).lines = s.lines := rfl
@[simp] theorem State.setDma_icfg (n : Nat) (r : DmaChan) : (s.setDma n r).icfg = s.icfg := rfl
@[simp] theorem State.setDma_power (n : Nat) (r : DmaChan) : (s.setDma n r).power = s.power := rfl
@[simp] theorem State.setDma_pads (n : Nat) (r : DmaChan) : (s.setDma n r).pads = s.pads := rfl
@[simp] theorem State.setDma_pintLevel (n : Nat) (r : DmaChan) : (s.setDma n r).pintLevel = s.pintLevel := rfl
@[simp] theorem State.setDma_rings (n : Nat) (r : DmaChan) : (s.setDma n r).rings = s.rings := rfl
@[simp] theorem State.setDma_hp (n : Nat) (r : DmaChan) : (s.setDma n r).hp = s.hp := rfl
@[simp] theorem State.setDma_macs (n : Nat) (r : DmaChan) : (s.setDma n r).macs = s.macs := rfl
@[simp] theorem State.setDma_pcie (n : Nat) (r : DmaChan) : (s.setDma n r).pcie = s.pcie := rfl
@[simp] theorem State.setDma_canStamp (n : Nat) (r : DmaChan) : (s.setDma n r).canStamp = s.canStamp := rfl
@[simp] theorem State.setDma_tp (n : Nat) (r : DmaChan) : (s.setDma n r).tp = s.tp := rfl
@[simp] theorem State.setDma_cores (n : Nat) (r : DmaChan) : (s.setDma n r).cores = s.cores := rfl
@[simp] theorem State.setDma_pairs (n : Nat) (r : DmaChan) : (s.setDma n r).pairs = s.pairs := rfl
@[simp] theorem State.setDma_tags (n : Nat) (r : DmaChan) : (s.setDma n r).tags = s.tags := rfl
@[simp] theorem State.setDma_pending (n : Nat) (r : DmaChan) : (s.setDma n r).pending = s.pending := rfl
@[simp] theorem State.setDma_free (n : Nat) (r : DmaChan) : (s.setDma n r).free = s.free := rfl
@[simp] theorem State.setDma_reg (n : Nat) (r : DmaChan) (x : Nat) : (s.setDma n r).reg x = s.reg x := rfl

/-! setPair -/

@[simp] theorem State.setPair_regs (n : Nat) (r : Pair) : (s.setPair n r).regs = s.regs := rfl
@[simp] theorem State.setPair_clk (n : Nat) (r : Pair) : (s.setPair n r).clk = s.clk := rfl
@[simp] theorem State.setPair_conv (n : Nat) (r : Pair) : (s.setPair n r).conv = s.conv := rfl
@[simp] theorem State.setPair_so (n : Nat) (r : Pair) : (s.setPair n r).so = s.so := rfl
@[simp] theorem State.setPair_trace (n : Nat) (r : Pair) : (s.setPair n r).trace = s.trace := rfl
@[simp] theorem State.setPair_cmps (n : Nat) (r : Pair) : (s.setPair n r).cmps = s.cmps := rfl
@[simp] theorem State.setPair_pwms (n : Nat) (r : Pair) : (s.setPair n r).pwms = s.pwms := rfl
@[simp] theorem State.setPair_flt (n : Nat) (r : Pair) : (s.setPair n r).flt = s.flt := rfl
@[simp] theorem State.setPair_switchAt (n : Nat) (r : Pair) : (s.setPair n r).switchAt = s.switchAt := rfl
@[simp] theorem State.setPair_pendFrom (n : Nat) (r : Pair) : (s.setPair n r).pendFrom = s.pendFrom := rfl
@[simp] theorem State.setPair_pis (n : Nat) (r : Pair) : (s.setPair n r).pis = s.pis := rfl
@[simp] theorem State.setPair_cells (n : Nat) (r : Pair) : (s.setPair n r).cells = s.cells := rfl
@[simp] theorem State.setPair_ports (n : Nat) (r : Pair) : (s.setPair n r).ports = s.ports := rfl
@[simp] theorem State.setPair_mismCell (n : Nat) (r : Pair) : (s.setPair n r).mismCell = s.mismCell := rfl
@[simp] theorem State.setPair_mem (n : Nat) (r : Pair) : (s.setPair n r).mem = s.mem := rfl
@[simp] theorem State.setPair_repairs (n : Nat) (r : Pair) : (s.setPair n r).repairs = s.repairs := rfl
@[simp] theorem State.setPair_flash (n : Nat) (r : Pair) : (s.setPair n r).flash = s.flash := rfl
@[simp] theorem State.setPair_dmas (n : Nat) (r : Pair) : (s.setPair n r).dmas = s.dmas := rfl
@[simp] theorem State.setPair_mg (n : Nat) (r : Pair) : (s.setPair n r).mg = s.mg := rfl
@[simp] theorem State.setPair_arb (n : Nat) (r : Pair) : (s.setPair n r).arb = s.arb := rfl
@[simp] theorem State.setPair_lines (n : Nat) (r : Pair) : (s.setPair n r).lines = s.lines := rfl
@[simp] theorem State.setPair_icfg (n : Nat) (r : Pair) : (s.setPair n r).icfg = s.icfg := rfl
@[simp] theorem State.setPair_power (n : Nat) (r : Pair) : (s.setPair n r).power = s.power := rfl
@[simp] theorem State.setPair_pads (n : Nat) (r : Pair) : (s.setPair n r).pads = s.pads := rfl
@[simp] theorem State.setPair_pintLevel (n : Nat) (r : Pair) : (s.setPair n r).pintLevel = s.pintLevel := rfl
@[simp] theorem State.setPair_rings (n : Nat) (r : Pair) : (s.setPair n r).rings = s.rings := rfl
@[simp] theorem State.setPair_hp (n : Nat) (r : Pair) : (s.setPair n r).hp = s.hp := rfl
@[simp] theorem State.setPair_macs (n : Nat) (r : Pair) : (s.setPair n r).macs = s.macs := rfl
@[simp] theorem State.setPair_pcie (n : Nat) (r : Pair) : (s.setPair n r).pcie = s.pcie := rfl
@[simp] theorem State.setPair_canStamp (n : Nat) (r : Pair) : (s.setPair n r).canStamp = s.canStamp := rfl
@[simp] theorem State.setPair_tp (n : Nat) (r : Pair) : (s.setPair n r).tp = s.tp := rfl
@[simp] theorem State.setPair_cores (n : Nat) (r : Pair) : (s.setPair n r).cores = s.cores := rfl
@[simp] theorem State.setPair_tags (n : Nat) (r : Pair) : (s.setPair n r).tags = s.tags := rfl
@[simp] theorem State.setPair_pending (n : Nat) (r : Pair) : (s.setPair n r).pending = s.pending := rfl
@[simp] theorem State.setPair_free (n : Nat) (r : Pair) : (s.setPair n r).free = s.free := rfl
@[simp] theorem State.setPair_reg (n : Nat) (r : Pair) (x : Nat) : (s.setPair n r).reg x = s.reg x := rfl

/-! setMac -/

@[simp] theorem State.setMac_regs (n : Nat) (r : Mac) : (s.setMac n r).regs = s.regs := rfl
@[simp] theorem State.setMac_clk (n : Nat) (r : Mac) : (s.setMac n r).clk = s.clk := rfl
@[simp] theorem State.setMac_conv (n : Nat) (r : Mac) : (s.setMac n r).conv = s.conv := rfl
@[simp] theorem State.setMac_so (n : Nat) (r : Mac) : (s.setMac n r).so = s.so := rfl
@[simp] theorem State.setMac_trace (n : Nat) (r : Mac) : (s.setMac n r).trace = s.trace := rfl
@[simp] theorem State.setMac_cmps (n : Nat) (r : Mac) : (s.setMac n r).cmps = s.cmps := rfl
@[simp] theorem State.setMac_pwms (n : Nat) (r : Mac) : (s.setMac n r).pwms = s.pwms := rfl
@[simp] theorem State.setMac_flt (n : Nat) (r : Mac) : (s.setMac n r).flt = s.flt := rfl
@[simp] theorem State.setMac_switchAt (n : Nat) (r : Mac) : (s.setMac n r).switchAt = s.switchAt := rfl
@[simp] theorem State.setMac_pendFrom (n : Nat) (r : Mac) : (s.setMac n r).pendFrom = s.pendFrom := rfl
@[simp] theorem State.setMac_pis (n : Nat) (r : Mac) : (s.setMac n r).pis = s.pis := rfl
@[simp] theorem State.setMac_cells (n : Nat) (r : Mac) : (s.setMac n r).cells = s.cells := rfl
@[simp] theorem State.setMac_ports (n : Nat) (r : Mac) : (s.setMac n r).ports = s.ports := rfl
@[simp] theorem State.setMac_mismCell (n : Nat) (r : Mac) : (s.setMac n r).mismCell = s.mismCell := rfl
@[simp] theorem State.setMac_mem (n : Nat) (r : Mac) : (s.setMac n r).mem = s.mem := rfl
@[simp] theorem State.setMac_repairs (n : Nat) (r : Mac) : (s.setMac n r).repairs = s.repairs := rfl
@[simp] theorem State.setMac_flash (n : Nat) (r : Mac) : (s.setMac n r).flash = s.flash := rfl
@[simp] theorem State.setMac_dmas (n : Nat) (r : Mac) : (s.setMac n r).dmas = s.dmas := rfl
@[simp] theorem State.setMac_mg (n : Nat) (r : Mac) : (s.setMac n r).mg = s.mg := rfl
@[simp] theorem State.setMac_arb (n : Nat) (r : Mac) : (s.setMac n r).arb = s.arb := rfl
@[simp] theorem State.setMac_lines (n : Nat) (r : Mac) : (s.setMac n r).lines = s.lines := rfl
@[simp] theorem State.setMac_icfg (n : Nat) (r : Mac) : (s.setMac n r).icfg = s.icfg := rfl
@[simp] theorem State.setMac_power (n : Nat) (r : Mac) : (s.setMac n r).power = s.power := rfl
@[simp] theorem State.setMac_pads (n : Nat) (r : Mac) : (s.setMac n r).pads = s.pads := rfl
@[simp] theorem State.setMac_pintLevel (n : Nat) (r : Mac) : (s.setMac n r).pintLevel = s.pintLevel := rfl
@[simp] theorem State.setMac_rings (n : Nat) (r : Mac) : (s.setMac n r).rings = s.rings := rfl
@[simp] theorem State.setMac_hp (n : Nat) (r : Mac) : (s.setMac n r).hp = s.hp := rfl
@[simp] theorem State.setMac_pcie (n : Nat) (r : Mac) : (s.setMac n r).pcie = s.pcie := rfl
@[simp] theorem State.setMac_canStamp (n : Nat) (r : Mac) : (s.setMac n r).canStamp = s.canStamp := rfl
@[simp] theorem State.setMac_tp (n : Nat) (r : Mac) : (s.setMac n r).tp = s.tp := rfl
@[simp] theorem State.setMac_cores (n : Nat) (r : Mac) : (s.setMac n r).cores = s.cores := rfl
@[simp] theorem State.setMac_pairs (n : Nat) (r : Mac) : (s.setMac n r).pairs = s.pairs := rfl
@[simp] theorem State.setMac_tags (n : Nat) (r : Mac) : (s.setMac n r).tags = s.tags := rfl
@[simp] theorem State.setMac_pending (n : Nat) (r : Mac) : (s.setMac n r).pending = s.pending := rfl
@[simp] theorem State.setMac_free (n : Nat) (r : Mac) : (s.setMac n r).free = s.free := rfl
@[simp] theorem State.setMac_reg (n : Nat) (r : Mac) (x : Nat) : (s.setMac n r).reg x = s.reg x := rfl

/-! setByte -/

@[simp] theorem State.setByte_regs (k : Nat) (b : Byte) : (s.setByte k b).regs = s.regs := rfl
@[simp] theorem State.setByte_clk (k : Nat) (b : Byte) : (s.setByte k b).clk = s.clk := rfl
@[simp] theorem State.setByte_conv (k : Nat) (b : Byte) : (s.setByte k b).conv = s.conv := rfl
@[simp] theorem State.setByte_so (k : Nat) (b : Byte) : (s.setByte k b).so = s.so := rfl
@[simp] theorem State.setByte_trace (k : Nat) (b : Byte) : (s.setByte k b).trace = s.trace := rfl
@[simp] theorem State.setByte_cmps (k : Nat) (b : Byte) : (s.setByte k b).cmps = s.cmps := rfl
@[simp] theorem State.setByte_pwms (k : Nat) (b : Byte) : (s.setByte k b).pwms = s.pwms := rfl
@[simp] theorem State.setByte_flt (k : Nat) (b : Byte) : (s.setByte k b).flt = s.flt := rfl
@[simp] theorem State.setByte_switchAt (k : Nat) (b : Byte) : (s.setByte k b).switchAt = s.switchAt := rfl
@[simp] theorem State.setByte_pendFrom (k : Nat) (b : Byte) : (s.setByte k b).pendFrom = s.pendFrom := rfl
@[simp] theorem State.setByte_pis (k : Nat) (b : Byte) : (s.setByte k b).pis = s.pis := rfl
@[simp] theorem State.setByte_cells (k : Nat) (b : Byte) : (s.setByte k b).cells = s.cells := rfl
@[simp] theorem State.setByte_ports (k : Nat) (b : Byte) : (s.setByte k b).ports = s.ports := rfl
@[simp] theorem State.setByte_mismCell (k : Nat) (b : Byte) : (s.setByte k b).mismCell = s.mismCell := rfl
@[simp] theorem State.setByte_repairs (k : Nat) (b : Byte) : (s.setByte k b).repairs = s.repairs := rfl
@[simp] theorem State.setByte_flash (k : Nat) (b : Byte) : (s.setByte k b).flash = s.flash := rfl
@[simp] theorem State.setByte_dmas (k : Nat) (b : Byte) : (s.setByte k b).dmas = s.dmas := rfl
@[simp] theorem State.setByte_mg (k : Nat) (b : Byte) : (s.setByte k b).mg = s.mg := rfl
@[simp] theorem State.setByte_arb (k : Nat) (b : Byte) : (s.setByte k b).arb = s.arb := rfl
@[simp] theorem State.setByte_lines (k : Nat) (b : Byte) : (s.setByte k b).lines = s.lines := rfl
@[simp] theorem State.setByte_icfg (k : Nat) (b : Byte) : (s.setByte k b).icfg = s.icfg := rfl
@[simp] theorem State.setByte_power (k : Nat) (b : Byte) : (s.setByte k b).power = s.power := rfl
@[simp] theorem State.setByte_pads (k : Nat) (b : Byte) : (s.setByte k b).pads = s.pads := rfl
@[simp] theorem State.setByte_pintLevel (k : Nat) (b : Byte) : (s.setByte k b).pintLevel = s.pintLevel := rfl
@[simp] theorem State.setByte_rings (k : Nat) (b : Byte) : (s.setByte k b).rings = s.rings := rfl
@[simp] theorem State.setByte_hp (k : Nat) (b : Byte) : (s.setByte k b).hp = s.hp := rfl
@[simp] theorem State.setByte_macs (k : Nat) (b : Byte) : (s.setByte k b).macs = s.macs := rfl
@[simp] theorem State.setByte_pcie (k : Nat) (b : Byte) : (s.setByte k b).pcie = s.pcie := rfl
@[simp] theorem State.setByte_canStamp (k : Nat) (b : Byte) : (s.setByte k b).canStamp = s.canStamp := rfl
@[simp] theorem State.setByte_tp (k : Nat) (b : Byte) : (s.setByte k b).tp = s.tp := rfl
@[simp] theorem State.setByte_cores (k : Nat) (b : Byte) : (s.setByte k b).cores = s.cores := rfl
@[simp] theorem State.setByte_pairs (k : Nat) (b : Byte) : (s.setByte k b).pairs = s.pairs := rfl
@[simp] theorem State.setByte_tags (k : Nat) (b : Byte) : (s.setByte k b).tags = s.tags := rfl
@[simp] theorem State.setByte_pending (k : Nat) (b : Byte) : (s.setByte k b).pending = s.pending := rfl
@[simp] theorem State.setByte_free (k : Nat) (b : Byte) : (s.setByte k b).free = s.free := rfl
@[simp] theorem State.setByte_reg (k : Nat) (b : Byte) (x : Nat) : (s.setByte k b).reg x = s.reg x := rfl

/-! setSlice -/

@[simp] theorem State.setSlice_regs (n : Nat) (r : Slice) : (s.setSlice n r).regs = s.regs := rfl
@[simp] theorem State.setSlice_clk (n : Nat) (r : Slice) : (s.setSlice n r).clk = s.clk := rfl
@[simp] theorem State.setSlice_so (n : Nat) (r : Slice) : (s.setSlice n r).so = s.so := rfl
@[simp] theorem State.setSlice_trace (n : Nat) (r : Slice) : (s.setSlice n r).trace = s.trace := rfl
@[simp] theorem State.setSlice_cmps (n : Nat) (r : Slice) : (s.setSlice n r).cmps = s.cmps := rfl
@[simp] theorem State.setSlice_pwms (n : Nat) (r : Slice) : (s.setSlice n r).pwms = s.pwms := rfl
@[simp] theorem State.setSlice_flt (n : Nat) (r : Slice) : (s.setSlice n r).flt = s.flt := rfl
@[simp] theorem State.setSlice_switchAt (n : Nat) (r : Slice) : (s.setSlice n r).switchAt = s.switchAt := rfl
@[simp] theorem State.setSlice_pendFrom (n : Nat) (r : Slice) : (s.setSlice n r).pendFrom = s.pendFrom := rfl
@[simp] theorem State.setSlice_pis (n : Nat) (r : Slice) : (s.setSlice n r).pis = s.pis := rfl
@[simp] theorem State.setSlice_cells (n : Nat) (r : Slice) : (s.setSlice n r).cells = s.cells := rfl
@[simp] theorem State.setSlice_ports (n : Nat) (r : Slice) : (s.setSlice n r).ports = s.ports := rfl
@[simp] theorem State.setSlice_mismCell (n : Nat) (r : Slice) : (s.setSlice n r).mismCell = s.mismCell := rfl
@[simp] theorem State.setSlice_mem (n : Nat) (r : Slice) : (s.setSlice n r).mem = s.mem := rfl
@[simp] theorem State.setSlice_repairs (n : Nat) (r : Slice) : (s.setSlice n r).repairs = s.repairs := rfl
@[simp] theorem State.setSlice_flash (n : Nat) (r : Slice) : (s.setSlice n r).flash = s.flash := rfl
@[simp] theorem State.setSlice_dmas (n : Nat) (r : Slice) : (s.setSlice n r).dmas = s.dmas := rfl
@[simp] theorem State.setSlice_mg (n : Nat) (r : Slice) : (s.setSlice n r).mg = s.mg := rfl
@[simp] theorem State.setSlice_arb (n : Nat) (r : Slice) : (s.setSlice n r).arb = s.arb := rfl
@[simp] theorem State.setSlice_lines (n : Nat) (r : Slice) : (s.setSlice n r).lines = s.lines := rfl
@[simp] theorem State.setSlice_icfg (n : Nat) (r : Slice) : (s.setSlice n r).icfg = s.icfg := rfl
@[simp] theorem State.setSlice_power (n : Nat) (r : Slice) : (s.setSlice n r).power = s.power := rfl
@[simp] theorem State.setSlice_pads (n : Nat) (r : Slice) : (s.setSlice n r).pads = s.pads := rfl
@[simp] theorem State.setSlice_pintLevel (n : Nat) (r : Slice) : (s.setSlice n r).pintLevel = s.pintLevel := rfl
@[simp] theorem State.setSlice_rings (n : Nat) (r : Slice) : (s.setSlice n r).rings = s.rings := rfl
@[simp] theorem State.setSlice_hp (n : Nat) (r : Slice) : (s.setSlice n r).hp = s.hp := rfl
@[simp] theorem State.setSlice_macs (n : Nat) (r : Slice) : (s.setSlice n r).macs = s.macs := rfl
@[simp] theorem State.setSlice_pcie (n : Nat) (r : Slice) : (s.setSlice n r).pcie = s.pcie := rfl
@[simp] theorem State.setSlice_canStamp (n : Nat) (r : Slice) : (s.setSlice n r).canStamp = s.canStamp := rfl
@[simp] theorem State.setSlice_tp (n : Nat) (r : Slice) : (s.setSlice n r).tp = s.tp := rfl
@[simp] theorem State.setSlice_cores (n : Nat) (r : Slice) : (s.setSlice n r).cores = s.cores := rfl
@[simp] theorem State.setSlice_pairs (n : Nat) (r : Slice) : (s.setSlice n r).pairs = s.pairs := rfl
@[simp] theorem State.setSlice_tags (n : Nat) (r : Slice) : (s.setSlice n r).tags = s.tags := rfl
@[simp] theorem State.setSlice_pending (n : Nat) (r : Slice) : (s.setSlice n r).pending = s.pending := rfl
@[simp] theorem State.setSlice_free (n : Nat) (r : Slice) : (s.setSlice n r).free = s.free := rfl
@[simp] theorem State.setSlice_reg (n : Nat) (r : Slice) (x : Nat) : (s.setSlice n r).reg x = s.reg x := rfl

/-! setGroup -/

@[simp] theorem State.setGroup_regs (n : Nat) (r : Group) : (s.setGroup n r).regs = s.regs := rfl
@[simp] theorem State.setGroup_clk (n : Nat) (r : Group) : (s.setGroup n r).clk = s.clk := rfl
@[simp] theorem State.setGroup_so (n : Nat) (r : Group) : (s.setGroup n r).so = s.so := rfl
@[simp] theorem State.setGroup_trace (n : Nat) (r : Group) : (s.setGroup n r).trace = s.trace := rfl
@[simp] theorem State.setGroup_cmps (n : Nat) (r : Group) : (s.setGroup n r).cmps = s.cmps := rfl
@[simp] theorem State.setGroup_pwms (n : Nat) (r : Group) : (s.setGroup n r).pwms = s.pwms := rfl
@[simp] theorem State.setGroup_flt (n : Nat) (r : Group) : (s.setGroup n r).flt = s.flt := rfl
@[simp] theorem State.setGroup_switchAt (n : Nat) (r : Group) : (s.setGroup n r).switchAt = s.switchAt := rfl
@[simp] theorem State.setGroup_pendFrom (n : Nat) (r : Group) : (s.setGroup n r).pendFrom = s.pendFrom := rfl
@[simp] theorem State.setGroup_pis (n : Nat) (r : Group) : (s.setGroup n r).pis = s.pis := rfl
@[simp] theorem State.setGroup_cells (n : Nat) (r : Group) : (s.setGroup n r).cells = s.cells := rfl
@[simp] theorem State.setGroup_ports (n : Nat) (r : Group) : (s.setGroup n r).ports = s.ports := rfl
@[simp] theorem State.setGroup_mismCell (n : Nat) (r : Group) : (s.setGroup n r).mismCell = s.mismCell := rfl
@[simp] theorem State.setGroup_mem (n : Nat) (r : Group) : (s.setGroup n r).mem = s.mem := rfl
@[simp] theorem State.setGroup_repairs (n : Nat) (r : Group) : (s.setGroup n r).repairs = s.repairs := rfl
@[simp] theorem State.setGroup_flash (n : Nat) (r : Group) : (s.setGroup n r).flash = s.flash := rfl
@[simp] theorem State.setGroup_dmas (n : Nat) (r : Group) : (s.setGroup n r).dmas = s.dmas := rfl
@[simp] theorem State.setGroup_mg (n : Nat) (r : Group) : (s.setGroup n r).mg = s.mg := rfl
@[simp] theorem State.setGroup_arb (n : Nat) (r : Group) : (s.setGroup n r).arb = s.arb := rfl
@[simp] theorem State.setGroup_lines (n : Nat) (r : Group) : (s.setGroup n r).lines = s.lines := rfl
@[simp] theorem State.setGroup_icfg (n : Nat) (r : Group) : (s.setGroup n r).icfg = s.icfg := rfl
@[simp] theorem State.setGroup_power (n : Nat) (r : Group) : (s.setGroup n r).power = s.power := rfl
@[simp] theorem State.setGroup_pads (n : Nat) (r : Group) : (s.setGroup n r).pads = s.pads := rfl
@[simp] theorem State.setGroup_pintLevel (n : Nat) (r : Group) : (s.setGroup n r).pintLevel = s.pintLevel := rfl
@[simp] theorem State.setGroup_rings (n : Nat) (r : Group) : (s.setGroup n r).rings = s.rings := rfl
@[simp] theorem State.setGroup_hp (n : Nat) (r : Group) : (s.setGroup n r).hp = s.hp := rfl
@[simp] theorem State.setGroup_macs (n : Nat) (r : Group) : (s.setGroup n r).macs = s.macs := rfl
@[simp] theorem State.setGroup_pcie (n : Nat) (r : Group) : (s.setGroup n r).pcie = s.pcie := rfl
@[simp] theorem State.setGroup_canStamp (n : Nat) (r : Group) : (s.setGroup n r).canStamp = s.canStamp := rfl
@[simp] theorem State.setGroup_tp (n : Nat) (r : Group) : (s.setGroup n r).tp = s.tp := rfl
@[simp] theorem State.setGroup_cores (n : Nat) (r : Group) : (s.setGroup n r).cores = s.cores := rfl
@[simp] theorem State.setGroup_pairs (n : Nat) (r : Group) : (s.setGroup n r).pairs = s.pairs := rfl
@[simp] theorem State.setGroup_tags (n : Nat) (r : Group) : (s.setGroup n r).tags = s.tags := rfl
@[simp] theorem State.setGroup_pending (n : Nat) (r : Group) : (s.setGroup n r).pending = s.pending := rfl
@[simp] theorem State.setGroup_free (n : Nat) (r : Group) : (s.setGroup n r).free = s.free := rfl
@[simp] theorem State.setGroup_reg (n : Nat) (r : Group) (x : Nat) : (s.setGroup n r).reg x = s.reg x := rfl

/-! setBank -/

@[simp] theorem State.setBank_regs (n : Nat) (r : FlashBank) : (s.setBank n r).regs = s.regs := rfl
@[simp] theorem State.setBank_clk (n : Nat) (r : FlashBank) : (s.setBank n r).clk = s.clk := rfl
@[simp] theorem State.setBank_conv (n : Nat) (r : FlashBank) : (s.setBank n r).conv = s.conv := rfl
@[simp] theorem State.setBank_so (n : Nat) (r : FlashBank) : (s.setBank n r).so = s.so := rfl
@[simp] theorem State.setBank_trace (n : Nat) (r : FlashBank) : (s.setBank n r).trace = s.trace := rfl
@[simp] theorem State.setBank_cmps (n : Nat) (r : FlashBank) : (s.setBank n r).cmps = s.cmps := rfl
@[simp] theorem State.setBank_pwms (n : Nat) (r : FlashBank) : (s.setBank n r).pwms = s.pwms := rfl
@[simp] theorem State.setBank_flt (n : Nat) (r : FlashBank) : (s.setBank n r).flt = s.flt := rfl
@[simp] theorem State.setBank_switchAt (n : Nat) (r : FlashBank) : (s.setBank n r).switchAt = s.switchAt := rfl
@[simp] theorem State.setBank_pendFrom (n : Nat) (r : FlashBank) : (s.setBank n r).pendFrom = s.pendFrom := rfl
@[simp] theorem State.setBank_pis (n : Nat) (r : FlashBank) : (s.setBank n r).pis = s.pis := rfl
@[simp] theorem State.setBank_cells (n : Nat) (r : FlashBank) : (s.setBank n r).cells = s.cells := rfl
@[simp] theorem State.setBank_ports (n : Nat) (r : FlashBank) : (s.setBank n r).ports = s.ports := rfl
@[simp] theorem State.setBank_mismCell (n : Nat) (r : FlashBank) : (s.setBank n r).mismCell = s.mismCell := rfl
@[simp] theorem State.setBank_mem (n : Nat) (r : FlashBank) : (s.setBank n r).mem = s.mem := rfl
@[simp] theorem State.setBank_repairs (n : Nat) (r : FlashBank) : (s.setBank n r).repairs = s.repairs := rfl
@[simp] theorem State.setBank_dmas (n : Nat) (r : FlashBank) : (s.setBank n r).dmas = s.dmas := rfl
@[simp] theorem State.setBank_mg (n : Nat) (r : FlashBank) : (s.setBank n r).mg = s.mg := rfl
@[simp] theorem State.setBank_arb (n : Nat) (r : FlashBank) : (s.setBank n r).arb = s.arb := rfl
@[simp] theorem State.setBank_lines (n : Nat) (r : FlashBank) : (s.setBank n r).lines = s.lines := rfl
@[simp] theorem State.setBank_icfg (n : Nat) (r : FlashBank) : (s.setBank n r).icfg = s.icfg := rfl
@[simp] theorem State.setBank_power (n : Nat) (r : FlashBank) : (s.setBank n r).power = s.power := rfl
@[simp] theorem State.setBank_pads (n : Nat) (r : FlashBank) : (s.setBank n r).pads = s.pads := rfl
@[simp] theorem State.setBank_pintLevel (n : Nat) (r : FlashBank) : (s.setBank n r).pintLevel = s.pintLevel := rfl
@[simp] theorem State.setBank_rings (n : Nat) (r : FlashBank) : (s.setBank n r).rings = s.rings := rfl
@[simp] theorem State.setBank_hp (n : Nat) (r : FlashBank) : (s.setBank n r).hp = s.hp := rfl
@[simp] theorem State.setBank_macs (n : Nat) (r : FlashBank) : (s.setBank n r).macs = s.macs := rfl
@[simp] theorem State.setBank_pcie (n : Nat) (r : FlashBank) : (s.setBank n r).pcie = s.pcie := rfl
@[simp] theorem State.setBank_canStamp (n : Nat) (r : FlashBank) : (s.setBank n r).canStamp = s.canStamp := rfl
@[simp] theorem State.setBank_tp (n : Nat) (r : FlashBank) : (s.setBank n r).tp = s.tp := rfl
@[simp] theorem State.setBank_cores (n : Nat) (r : FlashBank) : (s.setBank n r).cores = s.cores := rfl
@[simp] theorem State.setBank_pairs (n : Nat) (r : FlashBank) : (s.setBank n r).pairs = s.pairs := rfl
@[simp] theorem State.setBank_tags (n : Nat) (r : FlashBank) : (s.setBank n r).tags = s.tags := rfl
@[simp] theorem State.setBank_pending (n : Nat) (r : FlashBank) : (s.setBank n r).pending = s.pending := rfl
@[simp] theorem State.setBank_free (n : Nat) (r : FlashBank) : (s.setBank n r).free = s.free := rfl
@[simp] theorem State.setBank_reg (n : Nat) (r : FlashBank) (x : Nat) : (s.setBank n r).reg x = s.reg x := rfl

/-! setLine -/

theorem State.setLine_reg (l : Nat) (b : Bool) (a : Nat) : (s.setLine l b).reg a = s.reg a := by
  rw [State.setLine, State.reg, State.reg]
  split
  · split <;> dsimp only
  · dsimp only

end Sys2Proof.Machine
end

