-- ==== Sys2Proof/Laws/CellIssue.lean ====
section
/-! SUPPORT. How a loop cell's instruction issues: what State.lcExec leaves when the cell is ready and no output is at fault
(R161 to R166, R172, R175 to R178). -/

namespace Sys2Proof.Machine

variable {s : State}

theorem State.lcStart_cells (s : State) (c t : Nat) : (s.lcStart c t).cells = s.cells := s.advanceTo_cells t

theorem State.lcStart_cell (s : State) (c t k : Nat) : (s.lcStart c t).cell k = s.cell k := by
  rw [State.cell, State.cell, State.lcStart_cells]

theorem State.lcStart_mem (s : State) (c t : Nat) : (s.lcStart c t).mem = s.mem := s.advanceTo_mem t

@[simp] theorem State.lcStart_lcV (s : State) (c t k i : Nat) : (s.lcStart c t).lcV k i = s.lcV k i := by
  rw [State.lcV, State.lcV, State.lcStart_cell]

@[simp] theorem State.lcStart_lcAcc (s : State) (c t k : Nat) (x : Bool) : (s.lcStart c t).lcAcc k x = s.lcAcc k x := by
  rw [State.lcAcc, State.lcAcc, State.lcStart_cell]

theorem State.advanceTo_reg' (s : State) (e a : Nat) : (s.advanceTo e).reg a = s.reg a := by
  unfold State.advanceTo; split <;> rfl

/-- Two states with the same LCn_CTRL agree on which cells are paired. -/
theorem State.paired_congr {s t : State} (c : Nat) (h : t.reg (Reg.LC_CTRL c) = s.reg (Reg.LC_CTRL c)) :
    t.paired c = s.paired c := by
  rw [State.paired, State.paired, State.flag, State.flag, State.flag, State.flag, h]

theorem State.lcStart_paired (s : State) (c t k : Nat) : (s.lcStart c t).paired k = s.paired k := by
  apply State.paired_congr
  rw [State.lcStart, State.reg_setFld_ne _ _ _ _ (by simp only [Reg.LC_CTRL, Reg.LC_RUN]; omega), State.advanceTo_reg']

theorem State.lcCorrected_ctrl (s : State) (c k : Nat) (_ : c < 64) (_ : k < 64) :
    (s.lcCorrected k).reg (Reg.LC_CTRL c) = s.reg (Reg.LC_CTRL c) := by
  rw [State.lcCorrected, State.satInc, State.reg_setFld_ne _ _ _ _ (by simp only [Reg.LC_CTRL, Reg.LC_CNT]; omega),
    State.setFlag, State.reg_setFld_ne _ _ _ _ (by simp only [Reg.LC_CTRL, Reg.LC_STAT]; omega)]

theorem State.lcApply_ctrl (s : State) (c k t lat : Nat) (o : LcOut) (h : c < 64) (hk : k < 64) :
    (s.lcApply k t lat o).reg (Reg.LC_CTRL c) = s.reg (Reg.LC_CTRL c) := by
  have h1 : (s.lcApply k t lat o).reg (Reg.LC_CTRL c) =
      ((List.range o.corrected).foldl (fun s _ => s.lcCorrected k) s).reg (Reg.LC_CTRL c) := rfl
  rw [h1, foldl_keep (fun u : State => u.reg (Reg.LC_CTRL c)) _ fun u _ => u.lcCorrected_ctrl c k h hk]

/-- A ready cell or pair whose instruction is at no fault carries it out. -/
theorem State.lcExec_ready {c cyc lat t : Nat} {e isMs : Bool} {srcs dsts : List Nat} {f : State → Nat → LcOut} {o : Nat → LcOut}
    (hc : c < 52) (h : s.LcReady c (srcs ++ dsts) isMs t cyc) (hf : ∀ k ∈ s.lcBoth c, f (s.lcStart c t) k = o k) (ho : s.LcFine c o) :
    s.lcExec c e srcs dsts cyc lat isMs f = s.lcDone c t cyc lat e o := by
  obtain ⟨hd, hh, hlt, hle⟩ := h.handler
  have hst : (s.cellState c == 2 || s.cellState c == 4 || s.cellState c == 5) = true := by
    rcases h.run with h | h | h <;> rw [h] <;> rfl
  have hp : State.paired ((s.advanceTo t).setFld (Reg.LC_RUN c) 10 0 (s.cell c).pc) c = s.paired c := s.lcStart_paired c t c
  have hfl : ∀ k i, State.flipsAt ((s.advanceTo t).setFld (Reg.LC_RUN c) 10 0 (s.cell c).pc) (lcProg k i) = s.flipsAt (lcProg k i) := by
    intro k i
    rw [State.flipsAt, State.flipsAt]
    exact congrArg (fun m : Mems => mapGet 0 m.flips _) (s.lcStart_mem c t)
  have hfetch : ∀ k ∈ s.lcBoth c, State.lcFetchFault ((s.advanceTo t).setFld (Reg.LC_RUN c) 10 0 (s.cell c).pc) k (s.cell c).pc = none := by
    intro k hk
    rw [State.lcFetchFault, hfl, h.clean k hk, if_neg (by have := h.pc; omega), if_neg (by decide)]
  have hearly : (s.lcBoth c).foldl (fun x k => lowFault x
      (State.lcFetchFault ((s.advanceTo t).setFld (Reg.LC_RUN c) 10 0 (s.cell c).pc) k (s.cell c).pc)) none = none := by
    revert hfetch
    generalize s.lcBoth c = l
    induction l with
    | nil => intro _; rfl
    | cons k l ih =>
      intro hl
      rw [List.foldl_cons, hl k (by simp)]
      exact ih fun k hk => hl k (by simp [hk])
  have hcorr : (s.lcBoth c).foldl (fun u k => if popcount (u.flipsAt (lcProg k (s.cell c).pc)) = 1 then u.lcCorrected k else u)
      ((s.advanceTo t).setFld (Reg.LC_RUN c) 10 0 (s.cell c).pc) = (s.advanceTo t).setFld (Reg.LC_RUN c) 10 0 (s.cell c).pc := by
    have hcl : ∀ k ∈ s.lcBoth c, State.flipsAt ((s.advanceTo t).setFld (Reg.LC_RUN c) 10 0 (s.cell c).pc)
        (lcProg k (s.cell c).pc) = 0 := fun k hk => (hfl k _).trans (h.clean k hk)
    revert hcl
    generalize s.lcBoth c = l
    induction l with
    | nil => intro _; rfl
    | cons k l ih =>
      intro hl
      rw [List.foldl_cons, hl k (by simp), if_neg (by decide)]
      exact ih fun k hk => hl k (by simp [hk])
  have hcell : State.cell ((s.advanceTo t).setFld (Reg.LC_RUN c) 10 0 (s.cell c).pc) c = s.cell c := s.lcStart_cell c t c
  have hlim : ¬ hd.start + hd.budget ≤ t := by omega
  have hlim2 : ¬ hd.start + hd.budget < t + cyc := by omega
  have hroom : (s.paired c && decide (32 < (s.cell c).stores.length + (o c).store.length)) = false := by
    cases hq : s.paired c with
    | false => rfl
    | true => have := ho.room hq; simp; omega
  have hm : c ∈ s.lcBoth c := by rw [State.lcBoth]; split <;> simp
  have hfx : (o c).fault = none := ho.fault c hm
  have hfy : (if s.paired c then o (c + 1) else o c).fault = none := by
    cases hq : s.paired c with
    | false => exact hfx
    | true => exact ho.fault (c + 1) (by rw [State.lcBoth, hq]; simp)
  rw [State.lcExec, hh]
  dsimp only
  rw [if_neg (by rw [h.going, h.on, hst]; decide), h.free]
  simp only [Bool.false_eq_true, ↓reduceIte]
  rw [h.issue, if_neg hlim]
  rw [hearly]
  simp only [Option.isSome_none, Bool.false_eq_true, ↓reduceIte]
  have hs : f ((s.advanceTo t).setFld (Reg.LC_RUN c) 10 0 (s.cell c).pc) c = o c := hf c hm
  have hs2 : (if s.paired c then f ((s.advanceTo t).setFld (Reg.LC_RUN c) 10 0 (s.cell c).pc) (c + 1) else o c) =
      if s.paired c then o (c + 1) else o c := by
    cases hq : s.paired c with
    | false => rfl
    | true => exact hf (c + 1) (by rw [State.lcBoth, hq]; simp)
  rw [hcorr, hp, hs, hs2, hcell]
  clear hs hs2
  generalize hR : lowFault (lowFault (o c).fault _) (lowFault _ _) = R
  obtain rfl : R = none := by
    rw [← hR, hfx, hfy, hroom]
    cases hz : (o c).target with
    | none => rfl
    | some z =>
      have hz := ho.target z hz
      dsimp only
      simp [lowFault, not_lt.2 hz.1, not_lt.2 hz.2]
  clear hR
  dsimp only
  rw [if_neg hlim2]
  have hag := ho.agree
  have hmis : ((s.advanceTo t).setFld (Reg.LC_RUN c) 10 0 (s.cell c).pc).mismCell = s.mismCell := s.advanceTo_mismCell t
  generalize hx : o c = x at *
  generalize hy : o (c + 1) = y at *
  rw [State.lcDone, hx, hy, State.lcStart]
  generalize hU : (s.advanceTo t).setFld (Reg.LC_RUN c) 10 0 (s.cell c).pc = U at *
  have hap : ∀ (u : State) (k : Nat) (w : LcOut), k < 64 → (u.lcApply k t lat w).paired c = u.paired c := fun u k w hk =>
    State.paired_congr c (u.lcApply_ctrl c k t lat w (by omega) hk)
  have hmp : ∀ m, State.paired { U with mismCell := m } c = s.paired c := fun m => hp
  cases hq : s.paired c with
  | false =>
    have hdf : ∀ d, U.lcDiffer c d = (U, false) := by
      intro d
      rw [State.lcDiffer, hp, hq]
      rfl
    rw [hq] at hroom hp
    have hW : (x.store.foldl (fun u w => u.setWord (lcData c w.1) w.2) (U.lcApply c t lat x)).paired c = false := by
      rw [State.paired_congr c (s := U), hp]
      exact (foldl_keep (fun u : State => u.reg (Reg.LC_CTRL c)) (fun (u : State) (w : Nat × Word) => u.setWord (lcData c w.1) w.2)
        (fun u w => u.setWord_reg _ _ _) _ _).trans (State.lcApply_ctrl _ _ _ _ _ _ (by omega) (by omega))
    have hV : (U.lcApply c t lat x).paired c = false := (hap _ _ _ (by omega)).trans hp
    simp only [Bool.false_eq_true, ↓reduceIte, Bool.false_and]
    cases hl : lcOutputs x x with
    | none =>
      simp only [hV, Bool.false_eq_true, ↓reduceIte]
      simp only [hW, Bool.false_eq_true, ↓reduceIte, Bool.false_and, Bool.or_false]
      try rfl
    | some r =>
      obtain ⟨kd, ad, d⟩ := r
      simp only [hdf, Bool.false_eq_true, ↓reduceIte]
      simp only [hV, Bool.false_eq_true, ↓reduceIte]
      simp only [hW, Bool.false_eq_true, ↓reduceIte, Bool.false_and, Bool.or_false]
      try rfl
  | true =>
    simp only [↓reduceIte]
    cases hl : lcOutputs x y with
    | none =>
      have hV : (U.lcApply c t lat x).paired c = true := (hap _ _ _ (by omega)).trans (hp.trans hq)
      have hW : ((U.lcApply c t lat x).lcApply (c + 1) t lat y).paired c = true := (hap _ _ _ (by omega)).trans hV
      simp only [hV, ↓reduceIte]
      simp only [hW, ↓reduceIte, Option.isSome_none, Bool.and_false, Bool.false_eq_true, Bool.true_and]
      try rfl
    | some r =>
      obtain ⟨kd, ad, d⟩ := r
      have ha : d = false ∧ nsetHas s.mismCell c = false ∧ (s.cell c).split = false := hag hq _ hl
      have hdf : U.lcDiffer c d = ({ U with mismCell := nsetDel U.mismCell c (c + 1) }, false) := by
        rw [State.lcDiffer, hp, hq, hcell, ha.1, ha.2.2, hmis, ha.2.1]
        rfl
      generalize hU2 : ({ U with mismCell := nsetDel U.mismCell c (c + 1) } : State) = U2 at *
      have hp2 : U2.paired c = true := by rw [← hU2]; exact (hmp _).trans hq
      have hV : (U2.lcApply c t lat x).paired c = true := (hap _ _ _ (by omega)).trans hp2
      have hW : ((U2.lcApply c t lat x).lcApply (c + 1) t lat y).paired c = true := (hap _ _ _ (by omega)).trans hV
      simp only [hdf, Bool.false_eq_true, ↓reduceIte]
      simp only [hV, ↓reduceIte]
      simp only [hW, ↓reduceIte, Option.isSome_some, Bool.and_true, Bool.true_and]
      try rfl

theorem State.lcStart_follows (s : State) (c t k : Nat) : (s.lcStart c t).follows k = s.follows k := by
  rw [State.follows, State.follows, State.lcStart_paired]

theorem State.lcStart_lcLoad (s : State) (c t k x n : Nat) : (s.lcStart c t).lcLoad k x n = s.lcLoad k x n := by
  have h1 : ∀ a, (s.lcStart c t).flipsAt a = s.flipsAt a := fun a => by
    rw [State.flipsAt, State.flipsAt, State.lcStart_mem]
  have h2 : ∀ a, (s.lcStart c t).word a = s.word a := fun a => by
    rw [State.word, State.word, State.bytesAt_congr]
    intro k _ _
    rw [State.byte, State.byte, State.lcStart_mem]
  simp only [State.lcLoad, State.lcStart_follows, State.lcStart_cell, h1, h2]

@[simp] theorem State.lcStart_lcAddr (s : State) (c t k a : Nat) (i : BitVec 16) : (s.lcStart c t).lcAddr k a i = s.lcAddr k a i := by
  rw [State.lcAddr, State.lcAddr, State.lcStart_lcV]

@[simp] theorem State.lcStart_lcPort (s : State) (c t k a : Nat) (x : Bool) (p : BitVec 12) :
    (s.lcStart c t).lcPort k a x p = s.lcPort k a x p := by
  rw [State.lcPort, State.lcPort, State.lcStart_lcV]

@[simp] theorem State.lcStart_lcSelf (s : State) (c t k : Nat) : (s.lcStart c t).lcSelf k = s.lcSelf k := by
  rw [State.lcSelf, State.lcSelf, State.lcStart_follows]

/-- Outputs that write registers and the accumulator only, or nothing, are at no fault. -/
theorem State.lcFine_plain {c : Nat} {o : Nat → LcOut} (hf : ∀ k, (o k).fault = none) (ht : (o c).target = none)
    (hs : ∀ k, (o k).store = []) (hp : ∀ k, (o k).port = []) (hm : ∀ k, (o k).ms = none)
    (hr : (s.cell c).stores.length ≤ 32) : s.LcFine c o where
  fault := fun k _ => hf k
  target := fun z h => absurd (ht.symm.trans h) (by simp)
  room := fun _ => by rw [hs]; exact hr
  agree := fun _ r h => by
    have : lcOutputs (o c) (o (c + 1)) = none := by
      rw [lcOutputs, hp, hp, hs, hs, hm, hm]
    rw [this] at h
    exact absurd h (by simp)

/-! The shapes of instructions. -/

variable {c t : Nat} {e : Bool}

theorem State.lcAlu_ready {d a b : Nat} {f : Word → Word → Word} (hc : c < 52) (h : s.LcReady c [a, b, d] false t 1) :
    s.lcAlu c e d a b f = .next (s.lcDone c t 1 1 e fun k => { regs := [(d, f (s.lcV k a) (s.lcV k b))] }) :=
  congrArg _ (State.lcExec_ready hc h (fun k _ => by simp only [State.lcStart_lcV])
    (State.lcFine_plain (fun _ => rfl) rfl (fun _ => rfl) (fun _ => rfl) (fun _ => rfl) h.room))

theorem State.lcAlu1_ready {d a : Nat} {f : Word → Word} (hc : c < 52) (h : s.LcReady c [a, d] false t 1) :
    s.lcAlu1 c e d a f = .next (s.lcDone c t 1 1 e fun k => { regs := [(d, f (s.lcV k a))] }) :=
  congrArg _ (State.lcExec_ready hc h (fun k _ => by simp only [State.lcStart_lcV])
    (State.lcFine_plain (fun _ => rfl) rfl (fun _ => rfl) (fun _ => rfl) (fun _ => rfl) h.room))

theorem State.lcAlu3_ready {d a b x : Nat} {f : Word → Word → Word → Word} (hc : c < 52)
    (h : s.LcReady c [a, b, x, d] false t 1) :
    s.lcAlu3 c e d a b x f =
      .next (s.lcDone c t 1 1 e fun k => { regs := [(d, f (s.lcV k a) (s.lcV k b) (s.lcV k x))] }) :=
  congrArg _ (State.lcExec_ready hc h (fun k _ => by simp only [State.lcStart_lcV])
    (State.lcFine_plain (fun _ => rfl) rfl (fun _ => rfl) (fun _ => rfl) (fun _ => rfl) h.room))

theorem State.lcConst_ready {d : Nat} {w : Word} (hc : c < 52) (h : s.LcReady c [d] false t 1) :
    s.lcConst c e d w = .next (s.lcDone c t 1 1 e fun _ => { regs := [(d, w)] }) :=
  congrArg _ (State.lcExec_ready hc h (fun _ _ => rfl)
    (State.lcFine_plain (fun _ => rfl) rfl (fun _ => rfl) (fun _ => rfl) (fun _ => rfl) h.room))

theorem State.lcShift_ready {d a : Nat} {imm : BitVec 16} {f : Word → Nat → Word} (hc : c < 52) (hi : imm.toNat < 32)
    (h : s.LcReady c [a, d] false t 1) :
    s.lcShift c e d a imm f = .next (s.lcDone c t 1 1 e fun k => { regs := [(d, f (s.lcV k a) imm.toNat)] }) :=
  congrArg _ (State.lcExec_ready hc h (fun k _ => by rw [if_neg (by omega), State.lcStart_lcV])
    (State.lcFine_plain (fun _ => rfl) rfl (fun _ => rfl) (fun _ => rfl) (fun _ => rfl) h.room))

theorem State.lcAccOp_ready {x : Bool} {srcs : List Nat} {f : State → Nat → Int → BitVec 80} (hc : c < 52)
    (h : s.LcReady c srcs false t 1) (hf : ∀ k z, f (s.lcStart c t) k z = f s k z) :
    s.lcAccOp c e x srcs f = .next (s.lcDone c t 1 1 e fun k => { acc := some (x, f s k (s.lcAcc k x)) }) :=
  congrArg _ (State.lcExec_ready hc (by rw [List.append_nil]; exact h) (fun k _ => by rw [hf, State.lcStart_lcAcc])
    (State.lcFine_plain (fun _ => rfl) rfl (fun _ => rfl) (fun _ => rfl) (fun _ => rfl) h.room))

/-- A branch that is taken, and one that is not. -/
theorem State.lcBranch_ready {a b : Nat} {off : BitVec 13} {f : Word → Word → Bool} (hc : c < 52)
    (h : s.LcReady c [a, b] false t 1)
    (ho : s.LcFine c fun k => if f (s.lcV k a) (s.lcV k b) then { target := some ((s.cell c).pc + off.toInt) } else {}) :
    s.lcBranch c false a b off f = .next (s.lcDone c t 1 1 false fun k =>
      if f (s.lcV k a) (s.lcV k b) then { target := some ((s.cell c).pc + off.toInt) } else {}) :=
  congrArg _ (State.lcExec_ready hc h (fun k _ => by
    simp only [Bool.false_eq_true, ↓reduceIte, State.lcStart_lcV, State.lcStart_cell]) ho)

theorem State.lcMs_ready {d a td : Nat} {b : Option Nat} {kind : MsKind} (hc : c < 52)
    (h : s.LcReady c (a :: b.toList ++ [d]) true t 1)
    (ho : s.LcFine c fun k => { ms := some ⟨0, kind, td, s.lcV k a, b.elim 0 fun i => s.lcV k i, d⟩ }) :
    s.lcMs c e d a b td kind = .next (s.lcDone c t 1 6 e fun k =>
      { ms := some ⟨0, kind, td, s.lcV k a, b.elim 0 fun i => s.lcV k i, d⟩ }) := by
  refine congrArg _ (State.lcExec_ready hc h (fun k _ => ?_) ho)
  cases b <;> simp only [State.lcStart_lcV, Option.elim]

end Sys2Proof.Machine
end

