-- ==== Sys2Proof/Laws/CoreIssue.lean ====
section
/-! SUPPORT. How a Molpa core's instruction runs: what State.runCore leaves when the core is ready, by the way in which the
instruction ends (R251, R252, R298 to R303), and the shapes that instructions share. -/

namespace Sys2Proof.Machine

variable {s t : State} {n : Fin 4} {k w : Nat} {serial transfer legal : Bool} {body : State → Nat → Done}

theorem State.rdSync_cores (s : State) (p : Nat) : (s.rdSync p).cores = s.cores := by
  rw [State.rdSync, State.setReg_cores, State.setReg_cores]

theorem State.setCore_core (s : State) (k : Nat) (c : Core) : (s.setCore k c).core k = c := by
  rw [State.setCore, State.core, State.rdSync_cores]
  exact mapGet_set_same ({} : Core) s.cores k c

theorem State.onCore_core (s : State) (k : Nat) (f : Core → Core) : (s.onCore k f).core k = f (s.core k) := s.setCore_core k _

theorem State.onArch_core (s : State) (k : Nat) (f : Arch → Arch) : (s.onArch k f).core k = { s.core k with arch := f (s.core k).arch } :=
  s.onCore_core k _

/-- The architectural state after a change of it. -/
theorem State.onArch_arch (s : State) (k : Nat) (f : Arch → Arch) : (s.onArch k f).arch k = f (s.arch k) := by
  rw [State.arch, State.onArch_core]
  rfl

theorem State.stepDone_core (s : State) (k j : Nat) : (s.stepDone k).core j = s.core j := by
  rw [State.stepDone]
  split <;> rfl

/-- What retirement makes of a record. -/
theorem State.retire_core (s : State) (k t : Nat) (last : Bool) : (s.retire k t last).core k = { s.core k with
    arch := if last && (s.core k).arch.act then (s.core k).arch.loopBack else { (s.core k).arch with pc := t % 2 ^ 32 }
    arith := (s.core k).arith.map fun r => { r with count := r.count + 1 } } := by
  rw [State.retire, State.stepDone_core, State.onCore_core]

theorem State.sixteenth_none (h : (s.core k).arith = none) : s.sixteenth k = s := by rw [State.sixteenth, h]

theorem State.retire_sixteenth {a : Nat} {last : Bool} (h : (s.core k).arith = none) :
    (s.retire k a last).sixteenth k = s.retire k a last :=
  State.sixteenth_none (by rw [State.retire_core, h]; rfl)

/-- A ready core runs the body of a legal instruction. -/
theorem State.runCore_ready (h : s.CoreReady n k) (hl : legal = true) :
    s.runCore n w serial transfer legal body = .next ((s.settle k w (body s k)).getD s) := by
  have hp := h.agree
  have ha := h.noArith
  have hd := h.noDue
  have hf := h.fetched
  have hn := h.noLoop
  rw [State.arch] at hp hf hn
  rw [State.runCore, h.lead]
  simp only [h.runs, ↓reduceIte, State.instr, hp, ha, Option.filter_none, hd, Bool.false_eq_true, hf, hl, hn, Bool.not_true, Bool.and_false,
    Bool.or_self]

/-- A ready core takes ILLEGAL_INSN for an illegal instruction. -/
theorem State.runCore_illegal (h : s.CoreReady n k) (hl : legal = false) :
    s.runCore n w serial transfer legal body = .next (s.illegal k w) := by
  have hp := h.agree
  have ha := h.noArith
  have hd := h.noDue
  have hf := h.fetched
  rw [State.arch] at hp hf
  rw [State.runCore, h.lead]
  simp only [h.runs, ↓reduceIte, State.instr, hp, ha, Option.filter_none, hd, Bool.false_eq_true, hf, hl, Bool.not_false, Bool.true_or,
    State.fault, State.illegal]

/-- An instruction that raises an arithmetic exception while PA = 0 retires, and the exception is pending (R303). -/
theorem State.runCore_pends (h : s.CoreReady n k) (hl : legal = true) {x : Nat} (hb : body s k = .arith t x)
    (ha : (t.core k).arith = none) (hp : (t.arch k).pa = false) :
    s.runCore n w serial transfer legal body =
      .next ((t.retire k ((s.arch k).pc + 4) false).onCore k fun c => { c with arith := some { num := x } }) := by
  have e : (t.retire k ((s.arch k).pc + 4) false).core k =
      { t.core k with arch := { t.arch k with pc := ((s.arch k).pc + 4) % 2 ^ 32 } } := by
    rw [State.retire_core]
    simp only [Bool.false_and, Bool.false_eq_true, ↓reduceIte, ha, Option.map_none]
    rfl
  have hq : ((t.retire k ((s.arch k).pc + 4) false).arch k).pa = false := by rw [State.arch, e]; exact hp
  rw [State.runCore_ready h hl, hb]
  simp only [State.settle, h.noLoop, Bool.false_and, Bool.false_eq_true, ↓reduceIte]
  generalize t.retire k ((s.arch k).pc + 4) false = u at e hq
  rw [hq]
  simp only [Bool.false_eq_true, ↓reduceIte, Option.getD_some]
  have hx : (u.setCore k { u.core k with arith := some { num := x } }).sixteenth k =
      u.onCore k fun c => { c with arith := some { num := x } } := by
    rw [State.sixteenth, State.setCore_core]
    rfl
  refine congrArg _ (Eq.trans (congrArg (fun g => (u.setCore k g).sixteenth k) ?_) hx)
  have ha' : (u.core k).arith = none := by rw [e]; exact ha
  simp only [ha']

theorem State.settle_next (h : s.CoreReady n k) : s.settle k w (.next t) = some (s.coreDone t k) := by
  simp only [State.settle, h.noLoop, Bool.false_and, Bool.false_eq_true, ↓reduceIte, State.coreDone]

theorem State.settle_post {f : State → State} (h : s.CoreReady n k) :
    s.settle k w (.post t f) = some (f (t.retire k ((s.arch k).pc + 4) false)) := by
  simp only [State.settle, h.noLoop, Bool.false_and, Bool.false_eq_true, ↓reduceIte]

theorem State.runCore_next (h : s.CoreReady n k) (hl : legal = true) (hb : body s k = .next t) :
    s.runCore n w serial transfer legal body = .next (s.coreDone t k) := by
  rw [State.runCore_ready h hl, hb, State.settle_next h, Option.getD_some]

theorem State.coreDone_onArch (h : s.CoreReady n k) (f : Arch → Arch) : s.coreDone (s.onArch k f) k = s.coreSet k f := by
  rw [State.coreDone, State.coreSet, State.retire_sixteenth]
  rw [State.onArch_core]
  exact h.noArith

/-- An instruction that only changes its record's architectural state. -/
theorem State.runCore_set (h : s.CoreReady n k) (hl : legal = true) {f : Arch → Arch} (hb : body s k = .next (s.onArch k f)) :
    s.runCore n w serial transfer legal body = .next (s.coreSet k f) := by
  rw [State.runCore_next h hl hb, State.coreDone_onArch h]

theorem State.runCore_post (h : s.CoreReady n k) (hl : legal = true) {f : State → State} (hb : body s k = .post t f) :
    s.runCore n w serial transfer legal body = .next (f (t.retire k ((s.arch k).pc + 4) false)) := by
  rw [State.runCore_ready h hl, hb, State.settle_post h, Option.getD_some]

theorem State.runCore_jump (h : s.CoreReady n k) (hl : legal = true) {a : Nat} (hb : body s k = .jump t a) :
    s.runCore n w serial transfer legal body = .next ((t.onArch k fun r => r.leave a).coreGoto k a) := by
  rw [State.runCore_ready h hl, hb]
  rfl

theorem State.runCore_goto (h : s.CoreReady n k) (hl : legal = true) {a : Nat} (hb : body s k = .goto t a) :
    s.runCore n w serial transfer legal body = .next (t.coreGoto k a) := by
  rw [State.runCore_ready h hl, hb]
  rfl

theorem State.runCore_stop (h : s.CoreReady n k) (hl : legal = true) (hb : body s k = .stop t) :
    s.runCore n w serial transfer legal body = .next (t.stepDone k) := by
  rw [State.runCore_ready h hl, hb]
  rfl

/-- An instruction that retires and then raises an exception whose entry takes it to state u. -/
theorem State.runCore_after (h : s.CoreReady n k) (hl : legal = true) {x : Exc} {u : State} (hb : body s k = .after t x)
    (hx : (t.retire k ((s.arch k).pc + 4) false).takeExc k x ((t.retire k ((s.arch k).pc + 4) false).arch k).pc false false = some u) :
    s.runCore n w serial transfer legal body = .next u := by
  rw [State.runCore_ready h hl, hb]
  simp only [State.settle, h.noLoop, Bool.false_and, Bool.false_eq_true, ↓reduceIte, hx, Option.getD_some]

/-! Arithmetic shapes. -/

variable {op fn : Nat} {d a b e : Fin 32} {imm : BitVec 16}

theorem State.alu_runs (h : s.CoreReady n k) (hl : legal = true) (f : Word → Word → Word → Word) :
    s.alu n op fn d a b e legal f = .next (s.coreSet k fun r => r.set d (f (r.get a) (r.get b) (r.get e))) := by
  rw [State.alu, State.runCore_set h hl rfl]

theorem State.coreImm_runs (h : s.CoreReady n k) (hl : legal = true) (f : Word → Word) :
    s.coreImm n op d a imm legal f = .next (s.coreSet k fun r => r.set d (f (r.get a))) := by
  rw [State.coreImm, State.runCore_set h hl rfl]

theorem State.aluV_runs (h : s.CoreReady n k) (hl : legal = true) (f : Word → Word → Int)
    (hz : satTo 32 (f ((s.arch k).get a) ((s.arch k).get b)) = f ((s.arch k).get a) ((s.arch k).get b)) :
    s.aluV n op fn d a b e legal f = .next (s.coreSet k fun r => r.set d (Word.ofInt (f ((s.arch k).get a) ((s.arch k).get b)))) := by
  rw [State.aluV]
  exact State.runCore_set h hl (if_pos hz)

theorem State.aluDiv_runs (h : s.CoreReady n k) (hl : legal = true) (f : Word → Word → Word) (hz : (s.arch k).get b ≠ 0) :
    s.aluDiv n op fn d a b e legal f = .next (s.coreSet k fun r => r.set d (f (r.get a) (r.get b))) := by
  rw [State.aluDiv]
  exact State.runCore_set h hl (if_neg hz)

theorem State.satDone_runs {clip : Bool} (hz : clip = false ∨ (s.arch k).ste = false) : s.satDone k clip = .next s := by
  rw [State.satDone, if_neg]
  rcases hz with h | h <;> rw [h] <;> simp

theorem Arch.set_ste (r : Arch) (i : Nat) (v : Word) : (r.set i v).ste = r.ste := by
  rw [Arch.set]
  repeat' split
  all_goals rfl

theorem State.aluSat_runs (h : s.CoreReady n k) (hl : legal = true) (m : Nat) (f : Word → Word → Word → Int) {z : Int}
    (hz : z = f ((s.arch k).get a) ((s.arch k).get b) ((s.arch k).get e)) (hc : satTo m z = z ∨ (s.arch k).ste = false) :
    s.aluSat n op fn d a b e legal m f = .next (s.coreSet k fun r => r.set d (Word.ofInt (satTo m z))) := by
  rw [State.aluSat]
  refine State.runCore_set h hl ?_
  dsimp only
  rw [← hz, State.satDone_runs]
  rcases hc with hc | hc
  · exact .inl (by rw [clipped, hc]; exact bne_self_eq_false z)
  · exact .inr (by rw [State.onArch_arch, Arch.set_ste]; exact hc)

theorem State.aluVec_runs (h : s.CoreReady n k) (hl : legal = true) {al : Nat} (hd : d.val % al = 0) (f : Arch → List Word × Bool)
    {ws : List Word} {clip : Bool} (hf : f (s.arch k) = (ws, clip)) (hc : clip = false ∨ (s.arch k).ste = false) :
    s.aluVec n op fn d a b e legal al f = .next (s.coreSet k fun r => ws.zipIdx.foldl (fun r (w, i) => r.set (d + i) w) r) := by
  rw [State.aluVec]
  refine State.runCore_set h (by rw [hl, hd]; rfl) ?_
  dsimp only
  rw [hf]
  dsimp only
  rw [State.satDone_runs]
  rcases hc with hc | hc
  · exact .inl hc
  · refine .inr ?_
    rw [State.onArch_arch, foldl_keep (fun r : Arch => r.ste) _ (fun r x => by exact r.set_ste _ _)]
    exact hc

/-! Loads and stores. -/

theorem State.coreLoadOp_runs (h : s.CoreReady n k) (hl : legal = true) {creg size ea v : Nat} {off : Arch → Word} {isCap tag : Bool}
    {use : LoadUse} (hea : ea = (s.arch k).eaOf creg (off (s.arch k))) (hs : use.size = size)
    (hc : capCheck ((s.arch k).cap creg) creg 1 ea size (if isCap then [permLoad, permLdcap] else [permLoad]) isCap = none)
    (hv : s.coreLoad k (((s.arch k).cap creg).may permDevice) ea size = .val t v tag) :
    s.coreLoadOp n w legal creg off size isCap use = .next (s.coreDone (t.loadUse k ea v tag use) k) := by
  rw [State.coreLoadOp]
  refine State.runCore_next h hl ?_
  dsimp only
  rw [← hea, hc]
  dsimp only
  rw [State.loadGo, hs, hv]

theorem State.storeGo_runs {creg size ea : Nat} {l : List StoreEnt} (hg : (s.arch k).spillGuard creg ea = none)
    (hb : s.badAccess ea size = false) (hp : s.pushStores k l = some t) : s.storeGo k creg ea size l = .next t := by
  rw [State.storeGo, hg]
  dsimp only
  rw [hb, if_neg (by decide), hp]

theorem State.coreStoreOp_runs (h : s.CoreReady n k) (hl : legal = true) {creg size ea v i : Nat} {off : Arch → Word}
    {l : List StoreEnt} (hea : ea = (s.arch k).eaOf creg (off (s.arch k)))
    (hc : capCheck ((s.arch k).cap creg) creg 2 ea size [permStore] false = none)
    (hg : (s.arch k).spillGuard creg ea = none) (hb : s.badAccess ea size = false) (hv : v = ((s.arch k).get i).toNat)
    (hs : l = if size = 8 then storePair ea (v + 2 ^ 32 * ((s.arch k).get (i + 1)).toNat) (((s.arch k).cap creg).may permHold)
      else storeEnts ea size (v % 256 ^ size) (((s.arch k).cap creg).may permHold)) (hp : s.pushStores k l = some t) :
    s.coreStoreOp n w legal creg i off size = .next (s.coreDone t k) := by
  rw [State.coreStoreOp]
  refine State.runCore_next h hl ?_
  dsimp only
  rw [← hea, hc]
  dsimp only
  rw [← hv, ← hs]
  exact State.storeGo_runs hg hb hp

theorem State.amoOp_runs (h : s.CoreReady n k) (ha : a < 16) {ea v : Nat} {tag : Bool} (hea : ea = ((s.arch k).cap a).cursor.toNat)
    (hc : capCheck ((s.arch k).cap a) a 3 ea 4 [permLoad, permStore] true = none) (hg : (s.arch k).spillGuard a ea = none)
    (hb : s.badAccess ea 4 = false) (hv : s.coreLoad k true ea 4 = .val t v tag) :
    s.amoOp n fn d a b 0 = .next (s.coreDone (t.loadUse k ea v tag (.amo fn d ((s.arch k).get b))) k) := by
  rw [State.amoOp]
  refine State.runCore_next h (by rw [decide_eq_true (show a.val < 16 from ha)]; rfl) ?_
  dsimp only
  rw [← hea, hc, hg]
  dsimp only
  rw [hb, if_neg (by decide), State.loadGo]
  have e : LoadUse.size (.amo fn d ((s.arch k).get b)) = 4 := rfl
  rw [e, hv]

/-! Transfers and capabilities. -/

theorem State.branch_taken {off : BitVec 16} {f : Word → Word → Bool} (h : s.CoreReady n k) {x : Nat}
    (hx : x = (s.arch k).rel (off.signExtend 32)) (hf : f ((s.arch k).get a) ((s.arch k).get b) = true) (ht : (s.arch k).near x = none) :
    s.branch n op a b off f = .next ((s.onArch k fun r => r.leave x).coreGoto k x) := by
  rw [State.branch]
  refine State.runCore_jump h rfl ?_
  dsimp only
  rw [hf, if_pos rfl, ← hx, ht]

theorem State.branch_passed {off : BitVec 16} {f : Word → Word → Bool} (h : s.CoreReady n k)
    (hf : f ((s.arch k).get a) ((s.arch k).get b) = false) : s.branch n op a b off f = .next (s.coreDone s k) := by
  rw [State.branch]
  refine State.runCore_next h rfl ?_
  dsimp only
  rw [hf, if_neg (by decide)]

theorem State.capDerive_runs (h : s.CoreReady n k) (hl : legal = true) (hd : d.val ≠ 0 ∧ d < 16) (ha : a < 16)
    {f : Arch → Cap → Except Exc Cap} {c : Cap} (hf : f (s.arch k) ((s.arch k).cap a) = .ok c) :
    s.capDerive n w d a legal f = .next (s.coreSet k fun r => r.setCap d c) := by
  have h1 : (legal && d.val != 0 && decide (d < 16) && decide (a < 16)) = true := by
    rw [hl, bne_iff_ne.mpr hd.1, decide_eq_true hd.2, decide_eq_true ha]
    rfl
  rw [State.capDerive]
  refine State.runCore_set h h1 ?_
  rw [hf]

theorem State.capField_runs (h : s.CoreReady n k) (ha : a < 16) (f : Cap → Word) :
    s.capField n fn d a 0 0 f = .next (s.coreSet k fun r => r.set d (f (r.cap a))) := by
  rw [State.capField]
  exact State.runCore_set h (by rw [decide_eq_true (show a.val < 16 from ha)]; rfl) rfl

/-! Entry. -/

/-- An exception whose vector is read and valid, whose frame can be written and for whose stores the buffer has room: R299's
steps in order. -/
theorem State.takeExc_taken {x : Exc} {xa saved xc : Nat} {impr multi : Bool} {c : Cap} {u : State} (h : x.addr = some xa)
    (hx : xc = 2 ^ 31 * bit impr + 2 ^ 30 * bit multi + 2 ^ 16 * x.acc + x.creg * 2 ^ 8 + x.num)
    (hv : s.vector k ((s.arch k).xvt.toNat + 16 * x.num) = some (t, some c)) (hc : c.vectorOk = true)
    (hu : t.enter k c saved xc (xa % 2 ^ 32) (fun s => (s.onArch k fun a => { a with
      xcause := BitVec.ofNat 32 xc, xaddr := BitVec.ofNat 32 (xa % 2 ^ 32) }).coreTrace k (2 ^ 10 + x.num * 4 + 1)) = some u) :
    s.takeExc k x saved impr multi = some u := by
  rw [State.takeExc]
  simp only [h, Option.isNone_some, Bool.false_eq_true, ↓reduceIte, ← hx, hv, hc, Bool.not_true]
  exact hu

end Sys2Proof.Machine
end

