-- ==== Sys2Proof/Laws/Frames.lean ====
section
/-! SUPPORT. What an instruction that only writes a register leaves alone: State.OnlyCore, Arch.OnlyReg, State.OnlyCells and
LoopCell.OnlyReg of Safety, for the operations that such an instruction uses. -/

namespace Sys2Proof.Machine

variable {s t u : State} {k : Nat}

/-! Cores. -/

theorem State.OnlyCore.form (h : s.OnlyCore t k) :
    ∃ m q z, t = { s with regs := m, cores := q, tp := { s.tp with stepArm := z } } := by
  refine ⟨t.regs, t.cores, t.tp.stepArm, ?_⟩
  conv_rhs => rw [← h.rest]

theorem State.OnlyCore.refl (s : State) (k : Nat) : s.OnlyCore s k :=
  ⟨fun _ _ => rfl, fun _ _ _ => rfl, fun _ _ => rfl, rfl⟩

theorem State.OnlyCore.trans (h : s.OnlyCore t k) (g : t.OnlyCore u k) : s.OnlyCore u k := by
  refine ⟨fun j hj => (g.others j hj).trans (h.others j hj), fun a h1 h2 => (g.regs a h1 h2).trans (h.regs a h1 h2),
    fun p hp => (g.steps p hp).trans (h.steps p hp), ?_⟩
  obtain ⟨m, q, z, rfl⟩ := h.form
  obtain ⟨m', q', z', rfl⟩ := g.form
  rfl

theorem State.rdSync_reg_ne {p a : Nat} (h1 : a ≠ Reg.RD_STAT p) (h2 : a ≠ Reg.RD_STAT2 p) : (s.rdSync p).reg a = s.reg a := by
  rw [State.rdSync, State.reg_setReg_ne _ _ h2, State.reg_setReg_ne _ _ h1]

theorem State.setCore_core_ne (c : Core) {j : Nat} (h : j ≠ k) : (s.setCore k c).core j = s.core j := by
  rw [State.setCore, State.core, State.rdSync_cores, State.core]
  exact mapGet_set_ne (α := Core) _ _ _ _ h

theorem State.setReg_form (s : State) (a : Nat) (v : Word) : ∃ m, s.setReg a v = { s with regs := m } := ⟨_, rfl⟩

theorem State.rdSync_form (s : State) (p : Nat) : ∃ m, s.rdSync p = { s with regs := m } := by
  rw [State.rdSync]
  obtain ⟨m, e⟩ := s.setReg_form (Reg.RD_STAT p) (coreFields (s.reg (Reg.RD_STAT p)) (s.core (s.shown p)))
  obtain ⟨n, e'⟩ := State.setReg_form { s with regs := m } (Reg.RD_STAT2 p)
    (if State.pairMode { s with regs := m } p = 1 then coreFields 0 (State.core { s with regs := m } (2 * p + 1)) else 0)
  exact ⟨n, by rw [e]; exact e'⟩

theorem State.setCore_only (s : State) (k : Nat) (c : Core) : s.OnlyCore (s.setCore k c) k := by
  have h1 := fun j (h : j ≠ k) => State.setCore_core_ne (s := s) c h
  have h2 := fun a (x : a ≠ Reg.RD_STAT (k / 2)) (y : a ≠ Reg.RD_STAT2 (k / 2)) =>
    State.rdSync_reg_ne (s := { s with cores := mapSet {} s.cores k c }) x y
  obtain ⟨m, e⟩ := State.rdSync_form { s with cores := mapSet {} s.cores k c } (k / 2)
  rw [State.setCore] at *
  refine ⟨h1, fun a x y => (h2 a x y).trans rfl, fun _ _ => ?_, ?_⟩ <;> rw [e]

theorem State.onCore_only (s : State) (k : Nat) (f : Core → Core) : s.OnlyCore (s.onCore k f) k := s.setCore_only k _

theorem State.stepDone_only (s : State) (k : Nat) : s.OnlyCore (s.stepDone k) k := by
  refine ⟨fun j _ => State.stepDone_core s k j, fun a _ _ => ?_, fun p hp => ?_, ?_⟩ <;> rw [State.stepDone] <;> split
  · rfl
  · rfl
  · rfl
  · refine (nsetHas_del s.tp.stepArm (k / 2) (k / 2 + 1) p).trans ?_
    rw [show (decide (k / 2 ≤ p) && decide (p < k / 2 + 1)) = false by rw [← Bool.decide_and]; exact decide_eq_false (by omega),
      Bool.not_false, Bool.and_true]
  · rfl
  · rfl

theorem State.retire_only (s : State) (k a : Nat) (last : Bool) : s.OnlyCore (s.retire k a last) k :=
  (s.onCore_only k _).trans (State.stepDone_only _ k)

/-- What an instruction that changes its architectural state by f leaves. -/
theorem State.coreSet_only {n : Fin 4} (h : s.CoreReady n k) (f : Arch → Arch) :
    s.OnlyCore (s.coreSet k f) k ∧ { (s.coreSet k f).core k with arch := s.arch k } = s.core k ∧
    (s.coreSet k f).arch k = { f (s.arch k) with pc := ((s.arch k).pc + 4) % 2 ^ 32 } := by
  have hc : (s.coreSet k f).core k = { s.core k with arch := { f (s.arch k) with pc := ((s.arch k).pc + 4) % 2 ^ 32 } } := by
    rw [State.coreSet, State.retire_core, State.onArch_core]
    simp only [Bool.false_and, Bool.false_eq_true, ↓reduceIte, h.noArith, Option.map_none]
    rfl
  exact ⟨(s.onCore_only k _).trans (State.retire_only _ _ _ _), by rw [hc]; rfl, by rw [State.arch, hc]⟩

theorem winIndex_inj {sl i d : Nat} (hi : 8 ≤ i ∧ i < 32) (hd : 8 ≤ d ∧ d < 32) (h : i ≠ d) : winIndex sl i ≠ winIndex sl d := by
  unfold winIndex
  split <;> split <;> (try split) <;> (try split) <;> omega

/-- A general register written leaves the others, in every window. -/
theorem Arch.set_only (r : Arch) (d : Fin 32) (v : Word) (p : Nat) : r.OnlyReg { r.set d v with pc := p } d := by
  have hd := d.isLt
  unfold Arch.set
  split
  · exact ⟨fun i hi => rfl, fun j hj => rfl, rfl⟩
  · split
    · refine ⟨fun i hi => ?_, fun j hj => rfl, rfl⟩
      have hne : i.val ≠ d.val := fun e => hi (Fin.ext e)
      unfold Arch.get
      split
      · rfl
      · split
        · exact mapGet_set_ne (α := Word) _ _ _ _ hne
        · rfl
    · refine ⟨fun i hi => ?_, fun j hj => ?_, rfl⟩
      · have hne : i.val ≠ d.val := fun e => hi (Fin.ext e)
        unfold Arch.get
        split
        · rfl
        · split
          · rfl
          · exact mapGet_set_ne (α := Word) _ _ _ _ (winIndex_inj (by omega) (by omega) hne)
      · rcases hj with hj | hj
        · omega
        · exact mapGet_set_ne (α := Word) _ _ _ _ hj

/-! Cells. -/

/-- What the apply step of an instruction that only writes register d makes of a cell. -/
theorem State.lcApply_reg (s : State) (k t lat d : Nat) (w : Word) :
    s.lcApply k t lat { regs := [(d, w)] } =
      s.setCell k { s.cell k with v := mapSet 0 (s.cell k).v d w, ready := mapSet 0 (s.cell k).ready d (t + lat) } := rfl

theorem State.setCell_cell (s : State) (k : Nat) (r : LoopCell) : (s.setCell k r).cell k = r :=
  mapGet_set_same (α := LoopCell) _ _ _ _

theorem State.setCell_cell_ne (s : State) (r : LoopCell) {j k : Nat} (h : j ≠ k) : (s.setCell k r).cell j = s.cell j :=
  mapGet_set_ne (α := LoopCell) _ _ _ _ h

theorem State.lcStart_form (s : State) (c t : Nat) :
    ∃ m k f, s.lcStart c t = { s with regs := m, clk := k, trace := f } := by
  rw [State.lcStart, State.advanceTo]
  split <;> exact ⟨_, _, _, rfl⟩

theorem State.lcStart_reg_ne (s : State) {c t a : Nat} (h : a ≠ Reg.LC_RUN c) : (s.lcStart c t).reg a = s.reg a := by
  rw [State.lcStart, State.setFld, State.reg_setReg_ne _ _ h, State.advanceTo_reg']

/-- What an instruction that only writes register d of its cells leaves. -/
theorem State.lcDone_only {s : State} {c t cyc lat : Nat} {e : Bool} {d : Fin 32} (w : Nat → Word) :
    let u := s.lcDone c t cyc lat e fun k => { regs := [(d.val, w k)] }
    s.OnlyCells u c ∧ (∀ k ∈ s.lcBoth c, (s.cell k).OnlyReg (u.cell k) d) ∧ (u.cell c).pc = (s.cell c).pc + 1 := by
  dsimp only
  obtain ⟨m, k, f, he⟩ := s.lcStart_form c t
  have hr := fun a => s.lcStart_reg_ne (c := c) (t := t) (a := a)
  have hd : ∀ i : Nat, i ≠ d.val → ∀ (r : LoopCell) (x : Word) (y : Nat),
      mapGet 0 (mapSet 0 r.v d.val x) i = mapGet 0 r.v i ∧ mapGet 0 (mapSet 0 r.ready d.val y) i = mapGet 0 r.ready i :=
    fun i hi r x y => ⟨mapGet_set_ne (α := Word) _ _ _ _ hi, mapGet_set_ne (α := Nat) _ _ _ _ hi⟩
  rw [State.lcDone]
  generalize s.lcStart c t = z at he hr
  subst he
  simp only [lcOutputs, Option.isSome_none, Bool.and_false, Bool.false_eq_true, ↓reduceIte, State.lcApply_reg, List.foldl_nil,
    ite_self, List.map_nil, List.append_nil, Option.getD_none, bne_self_eq_false, Bool.or_false]
  by_cases hp : s.paired c = true
  · simp only [hp, ↓reduceIte, State.lcBoth, List.mem_cons, List.not_mem_nil, or_false, not_or]
    refine ⟨⟨fun j hj => ?_, fun a ha => hr a ha, rfl⟩, fun j hj => ?_, ?_⟩
    · simp only [State.lcBoth, hp, ↓reduceIte, List.mem_cons, List.not_mem_nil, or_false, not_or] at hj
      rw [State.setCell_cell_ne _ _ hj.1, State.setCell_cell_ne _ _ hj.2, State.setCell_cell_ne _ _ hj.1]
      rfl
    · rcases hj with rfl | rfl
      · rw [State.setCell_cell, State.setCell_cell_ne _ _ (by omega), State.setCell_cell]
        exact ⟨fun i hi => hd i hi _ _ _, rfl⟩
      · rw [State.setCell_cell_ne _ _ (by omega), State.setCell_cell, State.setCell_cell_ne _ _ (by omega)]
        exact ⟨fun i hi => hd i hi _ _ _, rfl⟩
    · rw [State.setCell_cell]
      rfl
  · simp only [hp, Bool.false_eq_true, ↓reduceIte, State.lcBoth, List.mem_cons, List.not_mem_nil, or_false]
    refine ⟨⟨fun j hj => ?_, fun a ha => hr a ha, rfl⟩, fun j hj => ?_, ?_⟩
    · simp only [State.lcBoth, hp, Bool.false_eq_true, ↓reduceIte, List.mem_cons, List.not_mem_nil, or_false] at hj
      rw [State.setCell_cell_ne _ _ hj, State.setCell_cell_ne _ _ hj]
      rfl
    · subst hj
      rw [State.setCell_cell, State.setCell_cell]
      exact ⟨fun i hi => hd i hi _ _ _, rfl⟩
    · rw [State.setCell_cell]
      rfl

end Sys2Proof.Machine
end

