-- ==== Sys2Proof/Laws/KeptBase.lean ====
section
/-! SUPPORT. Memory that a command leaves as it was: State.Kept mb says that the memory holds the bytes mb; what keeps it, for
records, conditionals, folds and the answers that carry a state. The other Kept files go through every operation that stores
nothing. -/

namespace Sys2Proof.Machine

/-- The memory holds the bytes mb. -/
def State.Kept (mb : SMap Byte) (s : State) : Prop := s.mem.bytes = mb

/-- Memory that holds the bytes it held reads, at every address, what it read. -/
theorem State.Kept.byte {s t : State} (h : t.Kept s.mem.bytes) (k : Nat) : t.byte k = s.byte k :=
  congrArg (fun m => mapGet (memDefault k) m k) h

theorem kept_mk {x0} {x1} {x2} {x3} {x4} {x5} {x6} {x7} {x8} {x9} {x10} {x11} {x12} {x13} {x14} {x15} {x16} {x17} {x18} {x19} {x20} {x21} {x22} {x23} {x24} {x25} {x26} {x27} {x28} {x29} {x30} {x31} {x32} {x33} {x34} {x35} {mb : SMap Byte} {t : State} (h : t.Kept mb) (_ : x0 = t.regs)
    (e2 : Mems.bytes x14 = t.mem.bytes) (_ : Trace.fifo x4 = t.trace.fifo) (_ : x25 = t.rings) (_ : HostPort.queue x26 = t.hp.queue)
    (_ : Arbiter.queue x19 = t.arb.queue) (_ : x34 = t.pending) :
    (State.mk x0 x1 x2 x3 x4 x5 x6 x7 x8 x9 x10 x11 x12 x13 x14 x15 x16 x17 x18 x19 x20 x21 x22 x23 x24 x25 x26 x27 x28 x29 x30 x31
      x32 x33 x34 x35).Kept mb := e2.trans h

theorem kept_mkE {x0} {x1} {x2} {x3} {x4} {x5} {x6} {x7} {x8} {x9} {x10} {x11} {x12} {x13} {x14} {x15} {x16} {x17} {x18} {x19} {x20} {x21} {x22} {x23} {x24} {x25} {x26} {x27} {x28} {x29} {x30} {x31} {x32} {x33} {x34} {x35} {mb : SMap Byte} {t : State} (h : t.Kept mb) (_ : x0 = t.regs) (e2 : Mems.bytes x14 = t.mem.bytes)
    (_ : Trace.fifo x4 = t.trace.fifo ∨ Trace.fifo x4 = []) (_ : x25 = t.rings ∨ x25 = [])
    (_ : HostPort.queue x26 = t.hp.queue ∨ HostPort.queue x26 = [])
    (_ : Arbiter.queue x19 = t.arb.queue ∨ Arbiter.queue x19 = []) (_ : x34 = t.pending) :
    (State.mk x0 x1 x2 x3 x4 x5 x6 x7 x8 x9 x10 x11 x12 x13 x14 x15 x16 x17 x18 x19 x20 x21 x22 x23 x24 x25 x26 x27 x28 x29 x30 x31
      x32 x33 x34 x35).Kept mb := e2.trans h

def keptR (mb : SMap Byte) (r : Result) : Prop := ∃ t : State, r = .next t ∧ t.Kept mb
def keptO (mb : SMap Byte)  : Option State → Prop | some s => s.Kept mb | none => True
def keptOP (mb : SMap Byte) {α : Type}  : Option (State × α) → Prop | some p => p.1.Kept mb | none => True
def keptD (mb : SMap Byte)  : Done → Prop
  | .next s | .stop s => s.Kept mb
  | .arith s _ | .jump s _ | .goto s _ => s.Kept mb
  | .after s _ | .exc s _ => s.Kept mb
  | .post s f => s.Kept mb ∧ ∀ t : State, t.Kept mb → (f t).Kept mb
  | .stall => True
def keptL (mb : SMap Byte)  : Slide → Prop | .ok s => s.Kept mb | .exc s _ => s.Kept mb | .stall => True
def keptA (mb : SMap Byte)  : LoadAns → Prop | .val s _ _ => s.Kept mb | .err s _ => s.Kept mb | .sent s => s.Kept mb | .stall => True
def keptF (mb : SMap Byte)  : Fetch → Prop | .ok s => s.Kept mb | .exc s _ => s.Kept mb | .stall => True

theorem kept_id {mb : SMap Byte} {s : State} (h : s.Kept mb) : (id s).Kept mb := h
theorem keptR_next {mb : SMap Byte} {s : State} (h : s.Kept mb) : keptR mb (.next s) := ⟨s, rfl, h⟩
theorem keptO_some {mb : SMap Byte} {s : State} (h : s.Kept mb) : keptO mb (some s) := h
theorem keptO_none {mb : SMap Byte} : keptO mb none := trivial
theorem keptOP_some {mb : SMap Byte} {α : Type} {s : State} {x : α} (h : s.Kept mb) : keptOP mb (some (s, x)) := h
theorem keptOP_none {mb : SMap Byte} {α : Type} : keptOP mb (none : Option (State × α)) := trivial
theorem keptP_mk {mb : SMap Byte} {α : Type} {s : State} {x : α} (h : s.Kept mb) : (s, x).1.Kept mb := h
theorem keptQ_mk {mb : SMap Byte} {α : Type} {s : State} {x : α} (h : s.Kept mb) : (x, s).2.Kept mb := h
theorem kept_ite {mb : SMap Byte} {c : Prop} [Decidable c] {a b : State} (ha : a.Kept mb) (hb : b.Kept mb) : (ite c a b).Kept mb := by split <;> assumption
theorem keptR_ite {mb : SMap Byte} {c : Prop} [Decidable c] {a b : Result} (ha : keptR mb a) (hb : keptR mb b) : keptR mb (ite c a b) := by split <;> assumption
theorem keptO_ite {mb : SMap Byte} {c : Prop} [Decidable c] {a b : Option State} (ha : keptO mb a) (hb : keptO mb b) : keptO mb (ite c a b) := by split <;> assumption
theorem keptD_ite {mb : SMap Byte} {c : Prop} [Decidable c] {a b : Done} (ha : keptD mb a) (hb : keptD mb b) : keptD mb (ite c a b) := by split <;> assumption
theorem keptL_ite {mb : SMap Byte} {c : Prop} [Decidable c] {a b : Slide} (ha : keptL mb a) (hb : keptL mb b) : keptL mb (ite c a b) := by split <;> assumption
theorem keptA_ite {mb : SMap Byte} {c : Prop} [Decidable c] {a b : LoadAns} (ha : keptA mb a) (hb : keptA mb b) : keptA mb (ite c a b) := by split <;> assumption
theorem keptF_ite {mb : SMap Byte} {c : Prop} [Decidable c] {a b : Fetch} (ha : keptF mb a) (hb : keptF mb b) : keptF mb (ite c a b) := by split <;> assumption
theorem keptP_ite {mb : SMap Byte} {α : Type} {c : Prop} [Decidable c] {a b : State × α} (ha : a.1.Kept mb) (hb : b.1.Kept mb) : (ite c a b).1.Kept mb := by split <;> assumption
theorem keptQ_ite {mb : SMap Byte} {α : Type} {c : Prop} [Decidable c] {a b : α × State} (ha : a.2.Kept mb) (hb : b.2.Kept mb) : (ite c a b).2.Kept mb := by split <;> assumption
theorem keptOP_ite {mb : SMap Byte} {α : Type} {c : Prop} [Decidable c] {a b : Option (State × α)} (ha : keptOP mb a) (hb : keptOP mb b) : keptOP mb (ite c a b) := by split <;> assumption
theorem keptP_of_eq {mb : SMap Byte} {α : Type} {p : State × α} {s : State} {r : α} (h : p = (s, r)) (hp : p.1.Kept mb) : s.Kept mb := by subst h; exact hp
theorem keptQ_of_eq {mb : SMap Byte} {α : Type} {p : α × State} {s : State} {r : α} (h : p = (r, s)) (hp : p.2.Kept mb) : s.Kept mb := by subst h; exact hp
theorem keptO_of_eq {mb : SMap Byte} {p : Option State} {s : State} (h : p = some s) (hp : keptO mb p) : s.Kept mb := by subst h; exact hp
theorem keptOP_of_eq {mb : SMap Byte} {α : Type} {p : Option (State × α)} {s : State} {r : α} (h : p = some (s, r)) (hp : keptOP mb p) : s.Kept mb := by subst h; exact hp
theorem keptL_of_ok {mb : SMap Byte} {p : Slide} {s : State} (h : p = .ok s) (hp : keptL mb p) : s.Kept mb := by subst h; exact hp
theorem keptL_of_exc {mb : SMap Byte} {p : Slide} {s : State} {e : Exc} (h : p = .exc s e) (hp : keptL mb p) : s.Kept mb := by subst h; exact hp
theorem keptF_of_ok {mb : SMap Byte} {p : Fetch} {s : State} (h : p = .ok s) (hp : keptF mb p) : s.Kept mb := by subst h; exact hp
theorem keptF_of_exc {mb : SMap Byte} {p : Fetch} {s : State} {e : Exc} (h : p = .exc s e) (hp : keptF mb p) : s.Kept mb := by subst h; exact hp
theorem keptA_of_val {mb : SMap Byte} {p : LoadAns} {s : State} {v : Nat} {t : Bool} (h : p = .val s v t) (hp : keptA mb p) : s.Kept mb := by subst h; exact hp
theorem keptA_of_err {mb : SMap Byte} {p : LoadAns} {s : State} {r : BusRes} (h : p = .err s r) (hp : keptA mb p) : s.Kept mb := by subst h; exact hp
theorem keptA_of_sent {mb : SMap Byte} {p : LoadAns} {s : State} (h : p = .sent s) (hp : keptA mb p) : s.Kept mb := by subst h; exact hp
theorem keptD_next {mb : SMap Byte} {s : State} (h : s.Kept mb) : keptD mb (.next s) := h
theorem keptD_stop {mb : SMap Byte} {s : State} (h : s.Kept mb) : keptD mb (.stop s) := h
theorem keptD_arith {mb : SMap Byte} {s : State} {n : Nat} (h : s.Kept mb) : keptD mb (.arith s n) := h
theorem keptD_jump {mb : SMap Byte} {s : State} {n : Nat} (h : s.Kept mb) : keptD mb (.jump s n) := h
theorem keptD_goto {mb : SMap Byte} {s : State} {n : Nat} (h : s.Kept mb) : keptD mb (.goto s n) := h
theorem keptD_after {mb : SMap Byte} {s : State} {e : Exc} (h : s.Kept mb) : keptD mb (.after s e) := h
theorem keptD_exc {mb : SMap Byte} {s : State} {e : Exc} (h : s.Kept mb) : keptD mb (.exc s e) := h
theorem keptD_post {mb : SMap Byte} {s : State} {f : State → State} (h : s.Kept mb) (hf : ∀ t : State, t.Kept mb → (f t).Kept mb) : keptD mb (.post s f) := ⟨h, hf⟩
theorem keptD_stall {mb : SMap Byte} : keptD mb .stall := trivial
theorem keptL_ok {mb : SMap Byte} {s : State} (h : s.Kept mb) : keptL mb (.ok s) := h
theorem keptL_exc {mb : SMap Byte} {s : State} {e : Exc} (h : s.Kept mb) : keptL mb (.exc s e) := h
theorem keptL_stall {mb : SMap Byte} : keptL mb .stall := trivial
theorem keptF_ok {mb : SMap Byte} {s : State} (h : s.Kept mb) : keptF mb (.ok s) := h
theorem keptF_exc {mb : SMap Byte} {s : State} {e : Exc} (h : s.Kept mb) : keptF mb (.exc s e) := h
theorem keptF_stall {mb : SMap Byte} : keptF mb .stall := trivial
theorem keptA_val {mb : SMap Byte} {s : State} {v : Nat} {t : Bool} (h : s.Kept mb) : keptA mb (.val s v t) := h
theorem keptA_err {mb : SMap Byte} {s : State} {r : BusRes} (h : s.Kept mb) : keptA mb (.err s r) := h
theorem keptA_sent {mb : SMap Byte} {s : State} (h : s.Kept mb) : keptA mb (.sent s) := h
theorem keptA_stall {mb : SMap Byte} : keptA mb .stall := trivial
theorem kept_foldl {mb : SMap Byte} {α : Type} {f : State → α → State} (hf : ∀ (s : State) (x : α), s.Kept mb → (f s x).Kept mb) {s : State}
    (h : s.Kept mb) (l : List α) : (l.foldl f s).Kept mb := by
  induction l generalizing s with
  | nil => exact h
  | cons x l ih => exact ih (hf s x h)
theorem keptP_foldl {mb : SMap Byte} {α β : Type} {f : State × β → α → State × β} (hf : ∀ (p : State × β) (x : α), p.1.Kept mb → (f p x).1.Kept mb)
    {p : State × β} (h : p.1.Kept mb) (l : List α) : (l.foldl f p).1.Kept mb := by
  induction l generalizing p with
  | nil => exact h
  | cons x l ih => exact ih (hf p x h)
theorem keptO_getD {mb : SMap Byte} {o : Option State} {s : State} (ho : keptO mb o) (h : s.Kept mb) : (o.getD s).Kept mb := by
  cases o with
  | none => exact h
  | some t => exact ho
theorem keptO_orElse {mb : SMap Byte} {o : Option State} {f : Unit → Option State} (ho : keptO mb o) (h : keptO mb (f ())) : keptO mb (o.orElse f) := by
  cases o with
  | none => exact h
  | some t => exact ho


theorem State.setReg_kept {mb : SMap Byte} {s : State} (a : Nat) (v : Word) (h : s.Kept mb) : (s.setReg a v).Kept mb := h

end Sys2Proof.Machine
end

