-- ==== Sys2Proof/Laws/KeptFrontEnd.lean ====
section
/-! SUPPORT. The bytes of memory are left as they were by the converters, comparators, generators, position interfaces and sorting, where an operation stores nothing: one lemma an operation. -/

namespace Sys2Proof.Machine

theorem State.setFld_kept {mb : SMap Byte} {s : State} (a hi lo v : Nat) (hc : s.Kept mb) :
    (State.setFld s a hi lo v).Kept mb := by
  unfold State.setFld
  with_reducible repeat' first | assumption | apply State.setReg_kept

theorem State.setFlag_kept {mb : SMap Byte} {s : State} (a i : Nat) (b : Bool) (hc : s.Kept mb) :
    (State.setFlag s a i b).Kept mb := by
  unfold State.setFlag
  with_reducible repeat' first | assumption | apply State.setFld_kept

theorem State.satInc_kept {mb : SMap Byte} {s : State} (a hi lo : Nat) (hc : s.Kept mb) :
    (State.satInc s a hi lo).Kept mb := by
  unfold State.satInc
  with_reducible repeat' first | assumption | apply State.setFld_kept

theorem State.satAdd_kept {mb : SMap Byte} {s : State} (a hi lo n : Nat) (hc : s.Kept mb) :
    (State.satAdd s a hi lo n).Kept mb := by
  unfold State.satAdd
  with_reducible repeat' first | assumption | apply State.setFld_kept

theorem State.modInc_kept {mb : SMap Byte} {s : State} (a hi lo : Nat) (hc : s.Kept mb) :
    (State.modInc s a hi lo).Kept mb := by
  unfold State.modInc
  with_reducible repeat' first | assumption | apply State.setFld_kept

theorem State.tick_kept {mb : SMap Byte} {s : State} (hc : s.Kept mb) :
    (State.tick s).Kept mb := by
  unfold State.tick
  with_reducible repeat' first | assumption | (fail_if_no_progress refine kept_mk ?_ rfl rfl rfl rfl rfl rfl rfl)

theorem State.cfgFail_kept {mb : SMap Byte} {s : State} (a : Nat) (f : CfgFail) (hc : s.Kept mb) :
    (State.cfgFail s a f).Kept mb := by
  unfold State.cfgFail
  with_reducible repeat' first | assumption | apply State.setReg_kept

theorem State.cfgOk_kept {mb : SMap Byte} {s : State} (a : Nat) (hc : s.Kept mb) :
    (State.cfgOk s a).Kept mb := by
  unfold State.cfgOk
  with_reducible repeat' first | assumption | apply State.setReg_kept

theorem State.store_kept {mb : SMap Byte} {s : State} (a chk : Nat) (locked : Bool) (v : Word) (detail : Nat) (hc : s.Kept mb) :
    (State.store s a chk locked v detail).Kept mb := by
  unfold State.store
  with_reducible repeat' first | assumption | apply State.cfgFail_kept | apply State.setReg_kept | split

theorem State.unitWrite_kept {mb : SMap Byte} {s : State} (a chk en : Nat) (v : Word) (fails : State → List CfgFail) (onEnable onDisable onLive : State → State) (detail : Nat) (hc : s.Kept mb) (hconEnable : ∀ t : State, t.Kept mb → (onEnable t).Kept mb) (hconDisable : ∀ t : State, t.Kept mb → (onDisable t).Kept mb) (hconLive : ∀ t : State, t.Kept mb → (onLive t).Kept mb) :
    (State.unitWrite s a chk en v fails onEnable onDisable onLive detail).Kept mb := by
  unfold State.unitWrite
  with_reducible repeat' first | assumption | apply hconEnable | apply hconDisable | apply hconLive | apply State.cfgFail_kept | apply State.cfgOk_kept | apply State.setFlag_kept | apply State.store_kept | dsimp only | split

theorem State.advanceTo_kept {mb : SMap Byte} {s : State} (e : Nat) (h : s.Kept mb) : (s.advanceTo e).Kept mb := by
  unfold State.advanceTo
  split
  · exact h
  · exact h

theorem State.whenOn_kept {mb : SMap Byte} {s : State} (d chk : Nat) (f : State → State) (hc : s.Kept mb) (hcf : ∀ t : State, t.Kept mb → (f t).Kept mb) :
    (State.whenOn s d chk f).Kept mb := by
  unfold State.whenOn
  with_reducible repeat' first | assumption | apply kept_ite | apply hcf | apply State.cfgFail_kept

theorem State.tracePush_kept {mb : SMap Byte} {s : State} (w : Word) (h : s.Kept mb) : (s.tracePush w).Kept mb := by
  unfold State.tracePush
  split
  · rename_i h1
    split
    · exact h
    · split
      · exact h
      · exact h
  · apply State.setFlag_kept
    exact kept_mk h rfl rfl rfl rfl rfl rfl rfl

theorem State.pulseLine_kept {mb : SMap Byte} {s : State} (l : Nat) (hc : s.Kept mb) :
    (State.pulseLine s l).Kept mb := by
  unfold State.pulseLine
  with_reducible repeat' first | assumption | (fail_if_no_progress refine kept_mk ?_ rfl rfl rfl rfl rfl rfl rfl)

theorem State.setLine_kept {mb : SMap Byte} {s : State} (l : Nat) (high : Bool) (hc : s.Kept mb) :
    (State.setLine s l high).Kept mb := by
  unfold State.setLine
  with_reducible repeat' first | assumption | (fail_if_no_progress refine kept_mk ?_ rfl rfl rfl rfl rfl rfl rfl) | split

theorem State.raiseAt_kept {mb : SMap Byte} {s : State} (src e f : Nat) (hc : s.Kept mb) :
    (State.raiseAt s src e f).Kept mb := by
  unfold State.raiseAt
  with_reducible repeat' first | assumption | apply State.modInc_kept | apply State.setFlag_kept | apply State.setFld_kept | (fail_if_no_progress refine kept_mk ?_ rfl rfl rfl rfl rfl rfl rfl) | dsimp only | split

theorem State.raiseNow_kept {mb : SMap Byte} {s : State} (src : Nat) (hc : s.Kept mb) :
    (State.raiseNow s src).Kept mb := by
  unfold State.raiseNow
  with_reducible repeat' first | assumption | apply State.raiseAt_kept

theorem State.arbSync_kept {mb : SMap Byte} {s : State} (hc : s.Kept mb) :
    (State.arbSync s).Kept mb := by
  unfold State.arbSync
  with_reducible repeat' first | assumption | apply State.setReg_kept

theorem State.arbRequest_kept {mb : SMap Byte} {s : State} (act res : Nat) (h : s.Kept mb) : (s.arbRequest act res).2.Kept mb := by
  unfold State.arbRequest
  dsimp only
  split
  · exact h
  · split
    · exact State.setReg_kept _ _ h
    · split
      · exact State.setReg_kept _ _ h
      · split
        · apply State.setReg_kept
          apply State.arbSync_kept
          exact kept_mk h rfl rfl rfl rfl rfl rfl rfl
        · split
          · exact State.setReg_kept _ _ h
          · apply State.setReg_kept
            apply State.arbSync_kept
            exact h

theorem State.arbRelease_kept {mb : SMap Byte} {s : State} (t : Nat) (h : s.Kept mb) : (s.arbRelease t).Kept mb := by
  unfold State.arbRelease
  apply State.arbSync_kept
  exact h

theorem State.setSlice_kept {mb : SMap Byte} {s : State} (n : Nat) (r : Slice) (hc : s.Kept mb) :
    (State.setSlice s n r).Kept mb := by
  unfold State.setSlice
  with_reducible repeat' first | assumption | (fail_if_no_progress refine kept_mk ?_ rfl rfl rfl rfl rfl rfl rfl)

theorem State.setGroup_kept {mb : SMap Byte} {s : State} (g : Nat) (r : Group) (hc : s.Kept mb) :
    (State.setGroup s g r).Kept mb := by
  unfold State.setGroup
  with_reducible repeat' first | assumption | (fail_if_no_progress refine kept_mk ?_ rfl rfl rfl rfl rfl rfl rfl)

theorem State.miss_kept {mb : SMap Byte} {s : State} (e : Nat) (hc : s.Kept mb) :
    (State.miss s e).Kept mb := by
  unfold State.miss
  with_reducible repeat' first | assumption | apply State.satInc_kept

theorem State.feedRing_kept {mb : SMap Byte} {s : State} (n : Nat) (codes : List (BitVec 4)) (hc : s.Kept mb) :
    (State.feedRing s n codes).Kept mb := by
  unfold State.feedRing
  with_reducible repeat' first | assumption | apply State.setSlice_kept

theorem State.winEval_kept {mb : SMap Byte} {s : State} (n : Nat) (v : Int) (hc : s.Kept mb) :
    (State.winEval s n v).1.Kept mb := by
  unfold State.winEval
  with_reducible repeat' first | assumption | apply keptP_ite | apply State.setFlag_kept | apply State.setSlice_kept

theorem State.winOff_kept {mb : SMap Byte} {s : State} (n : Nat) (hc : s.Kept mb) :
    (State.winOff s n).Kept mb := by
  unfold State.winOff
  with_reducible repeat' first | assumption | apply State.setFlag_kept | apply State.setSlice_kept

theorem State.putResult_kept {mb : SMap Byte} {s : State} (e : Nat) (subst range win : Bool) (value : Int) (hc : s.Kept mb) :
    (State.putResult s e subst range win value).Kept mb := by
  unfold State.putResult
  with_reducible repeat' first | assumption | apply State.setReg_kept

theorem State.putFast_kept {mb : SMap Byte} {s : State} (e : Nat) (subst range exit : Bool) (n : Nat) (v : Int) (hc : s.Kept mb) :
    (State.putFast s e subst range exit n v).Kept mb := by
  unfold State.putFast
  with_reducible repeat' first | assumption | apply kept_ite | apply State.putResult_kept | apply State.raiseNow_kept

theorem State.putStamp_kept {mb : SMap Byte} {s : State} (c : Nat) (v : Serve) (hc : s.Kept mb) :
    (State.putStamp s c v).Kept mb := by
  unfold State.putStamp
  with_reducible repeat' first | assumption | apply State.setReg_kept | (fail_if_no_progress refine kept_mk ?_ rfl rfl rfl rfl rfl rfl rfl) | dsimp only | split

theorem execFastResultWrite_kept (n : Fin 64) (codes : List (BitVec 4)) (ovld : Bool) {mb : SMap Byte} {s : State} (hc : s.Kept mb) :
    keptR mb (execFastResultWrite n codes ovld s) := by
  unfold execFastResultWrite
  with_reducible repeat' first | assumption | intro _ | apply keptR_next | apply kept_foldl | apply State.advanceTo_kept | apply State.feedRing_kept | apply State.putFast_kept | apply State.putStamp_kept | apply State.setFlag_kept | apply State.setSlice_kept | apply State.winEval_kept | dsimp only | split

theorem State.freeResult_kept {mb : SMap Byte} {s : State} (n c : Nat) (ents : List Nat) (ovld : Bool) (hc : s.Kept mb) :
    (State.freeResult s n c ents ovld).Kept mb := by
  unfold State.freeResult
  with_reducible repeat' first | assumption | intro _ | apply kept_ite | apply kept_foldl | apply State.putFast_kept | apply State.setFlag_kept | apply State.setSlice_kept | apply State.winEval_kept

theorem execFreeRunningResult_kept (n : Fin 64) (codes : List (BitVec 4)) (ovld : Bool) {mb : SMap Byte} {s : State} (hc : s.Kept mb) :
    keptR mb (execFreeRunningResult n codes ovld s) := by
  unfold execFreeRunningResult
  with_reducible repeat' first | assumption | intro _ | apply keptR_next | apply keptR_ite | apply State.advanceTo_kept | apply State.feedRing_kept | apply State.freeResult_kept

theorem State.trigSlice_kept {mb : SMap Byte} {s : State} (n : Nat) (ents : List Nat) (c : Nat) (resid : Int) (hc : s.Kept mb) :
    (State.trigSlice s n ents c resid).Kept mb := by
  unfold State.trigSlice
  with_reducible repeat' first | assumption | apply kept_ite | apply kept_foldl | apply State.miss_kept | apply State.setFlag_kept | apply State.setSlice_kept

theorem State.trigger_kept {mb : SMap Byte} {s : State} (line inst : Nat) (hc : s.Kept mb) :
    (State.trigger s line inst).Kept mb := by
  unfold State.trigger
  with_reducible repeat' first | assumption | intro _ | apply kept_ite | apply kept_foldl | apply State.miss_kept | apply State.trigSlice_kept

theorem State.sliceDown_kept {mb : SMap Byte} {s : State} (n : Nat) (hc : s.Kept mb) :
    (State.sliceDown s n).Kept mb := by
  unfold State.sliceDown
  with_reducible repeat' first | assumption | intro _ | apply kept_foldl | apply State.miss_kept | apply State.setFld_kept | apply State.setGroup_kept | apply State.setSlice_kept | dsimp only | split

theorem State.csCtrlWrite_kept {mb : SMap Byte} {s : State} (n : Nat) (v : Word) (hc : s.Kept mb) :
    (State.csCtrlWrite s n v).Kept mb := by
  unfold State.csCtrlWrite
  with_reducible repeat' first | assumption | intro _ | apply kept_ite | apply State.setFlag_kept | apply State.setSlice_kept | apply State.sliceDown_kept | apply State.unitWrite_kept | apply State.winOff_kept

theorem execSliceEnable_kept (n : Fin 64) (v : BitVec 32) {mb : SMap Byte} {s : State} (hc : s.Kept mb) :
    keptR mb (execSliceEnable n v s) := by
  unfold execSliceEnable
  with_reducible repeat' first | assumption | intro _ | apply keptR_next | apply State.csCtrlWrite_kept | apply State.whenOn_kept

theorem execSliceDisable_kept (n : Fin 64) (v : BitVec 32) {mb : SMap Byte} {s : State} (hc : s.Kept mb) :
    keptR mb (execSliceDisable n v s) := by
  unfold execSliceDisable
  with_reducible repeat' first | assumption | apply keptR_next | apply State.csCtrlWrite_kept | split

theorem execSliceReady_kept (n : Fin 64) {mb : SMap Byte} {s : State} (hc : s.Kept mb) :
    keptR mb (execSliceReady n s) := by
  unfold execSliceReady
  with_reducible repeat' first | assumption | apply keptR_next | apply kept_ite | apply State.advanceTo_kept | apply State.setFlag_kept

theorem State.winBegin_kept {mb : SMap Byte} {s : State} (g e : Nat) (hc : s.Kept mb) :
    (State.winBegin s g e).Kept mb := by
  unfold State.winBegin
  with_reducible repeat' first | assumption | apply State.setGroup_kept

theorem State.cgMptWrite_kept {mb : SMap Byte} {s : State} (g : Nat) (v : Word) (hc : s.Kept mb) :
    (State.cgMptWrite s g v).Kept mb := by
  unfold State.cgMptWrite
  with_reducible repeat' first | assumption | intro _ | apply kept_ite | apply State.setFlag_kept | apply State.setGroup_kept | apply State.setReg_kept | apply State.unitWrite_kept | apply State.winBegin_kept | apply kept_id

theorem execGroupEnable_kept (g : Fin 4) (v : BitVec 32) {mb : SMap Byte} {s : State} (hc : s.Kept mb) :
    keptR mb (execGroupEnable g v s) := by
  unfold execGroupEnable
  with_reducible repeat' first | assumption | intro _ | apply keptR_next | apply State.cgMptWrite_kept | apply State.whenOn_kept

theorem execIntegratingWindowEnd_kept (g : Fin 4) (sums : List WindowSum) {mb : SMap Byte} {s : State} (hc : s.Kept mb) :
    keptR mb (execIntegratingWindowEnd g sums s) := by
  unfold execIntegratingWindowEnd
  with_reducible repeat' first | assumption | apply keptR_next | apply State.advanceTo_kept | apply State.modInc_kept | apply State.setGroup_kept | apply State.winBegin_kept | split

theorem State.putInt_kept {mb : SMap Byte} {s : State} (g : Nat) (d : IntDone) (hc : s.Kept mb) :
    (State.putInt s g d).Kept mb := by
  unfold State.putInt
  with_reducible repeat' first | assumption | intro _ | apply kept_ite | apply kept_foldl | apply State.putResult_kept | apply State.raiseNow_kept

theorem execIntegratingResultWrite_kept (g : Fin 4) {mb : SMap Byte} {s : State} (hc : s.Kept mb) :
    keptR mb (execIntegratingResultWrite g s) := by
  unfold execIntegratingResultWrite
  with_reducible repeat' first | assumption | intro _ | apply keptR_next | apply kept_foldl | apply State.advanceTo_kept | apply State.putInt_kept | apply State.setGroup_kept | split

theorem State.trackPeriod_kept {mb : SMap Byte} {s : State} (g p : Nat) (hc : s.Kept mb) :
    (State.trackPeriod s g p).1.Kept mb := by
  unfold State.trackPeriod
  with_reducible repeat' first | assumption | apply State.setFlag_kept | apply State.setGroup_kept | apply State.setReg_kept | dsimp only | split

theorem execMainsZeroCrossing_kept (g : Fin 4) (c : Crossing) {mb : SMap Byte} {s : State} (hc : s.Kept mb) :
    keptR mb (execMainsZeroCrossing g c s) := by
  unfold execMainsZeroCrossing
  with_reducible repeat' first | assumption | apply keptR_next | apply State.advanceTo_kept | apply State.setGroup_kept | apply State.trackPeriod_kept | apply State.winBegin_kept | dsimp only | split

theorem execTrackerNoSignal_kept (g : Fin 4) {mb : SMap Byte} {s : State} (hc : s.Kept mb) :
    keptR mb (execTrackerNoSignal g s) := by
  unfold execTrackerNoSignal
  with_reducible repeat' first | assumption | apply keptR_next | apply State.advanceTo_kept | apply State.setFld_kept | dsimp only | split

theorem execTrackFirstWindowTimeout_kept (g : Fin 4) {mb : SMap Byte} {s : State} (hc : s.Kept mb) :
    keptR mb (execTrackFirstWindowTimeout g s) := by
  unfold execTrackFirstWindowTimeout
  with_reducible repeat' first | assumption | apply keptR_next | apply keptR_ite | apply State.advanceTo_kept | apply State.winBegin_kept

theorem execCalStepStart_kept (g : Fin 4) {mb : SMap Byte} {s : State} (hc : s.Kept mb) :
    keptR mb (execCalStepStart g s) := by
  unfold execCalStepStart
  with_reducible repeat' first | assumption | apply keptR_next | apply State.modInc_kept | apply State.setFld_kept | apply State.setGroup_kept | dsimp only | split

theorem execCalSubstitution_kept (g : Fin 4) (fitOfs : Int) (fitGain : BitVec 24) {mb : SMap Byte} {s : State} (hc : s.Kept mb) :
    keptR mb (execCalSubstitution g fitOfs fitGain s) := by
  unfold execCalSubstitution
  with_reducible repeat' first | assumption | apply keptR_next | apply State.advanceTo_kept | apply State.setFlag_kept | apply State.setFld_kept | apply State.setGroup_kept | apply State.setSlice_kept | dsimp only | split

theorem execCalPinRelease_kept (g : Fin 4) {mb : SMap Byte} {s : State} (hc : s.Kept mb) :
    keptR mb (execCalPinRelease g s) := by
  unfold execCalPinRelease
  with_reducible repeat' first | assumption | apply keptR_next | apply State.advanceTo_kept | apply State.setGroup_kept | dsimp only | split

theorem execCalReshadow_kept (g : Fin 4) {mb : SMap Byte} {s : State} (hc : s.Kept mb) :
    keptR mb (execCalReshadow g s) := by
  unfold execCalReshadow
  with_reducible repeat' first | assumption | apply keptR_next | apply State.advanceTo_kept | apply State.setFld_kept | apply State.setGroup_kept | dsimp only | split

theorem execCalHandback_kept (g : Fin 4) (ofs : Int) (gain : BitVec 24) {mb : SMap Byte} {s : State} (hc : s.Kept mb) :
    keptR mb (execCalHandback g ofs gain s) := by
  unfold execCalHandback
  with_reducible repeat' first | assumption | apply keptR_next | apply State.advanceTo_kept | apply State.setFlag_kept | apply State.setFld_kept | apply State.setGroup_kept | dsimp only | split

theorem State.calMaybeRelease_kept {mb : SMap Byte} {s : State} (g : Nat) (hc : s.Kept mb) :
    (State.calMaybeRelease s g).Kept mb := by
  unfold State.calMaybeRelease
  with_reducible repeat' first | assumption | apply State.arbRelease_kept | apply State.setFld_kept | apply State.setGroup_kept | dsimp only | split

theorem execCalSpareRelease_kept (g : Fin 4) {mb : SMap Byte} {s : State} (hc : s.Kept mb) :
    keptR mb (execCalSpareRelease g s) := by
  unfold execCalSpareRelease
  with_reducible repeat' first | assumption | apply keptR_next | apply State.advanceTo_kept | apply State.calMaybeRelease_kept | apply State.setGroup_kept | split

theorem State.calHold_kept {mb : SMap Byte} {s : State} (g : Nat) (hc : s.Kept mb) :
    (State.calHold s g).Kept mb := by
  unfold State.calHold
  with_reducible repeat' first | assumption | apply State.setFld_kept | apply State.setGroup_kept | dsimp only | split

theorem State.calctlWrite_kept {mb : SMap Byte} {s : State} (g : Nat) (v : Word) (hc : s.Kept mb) :
    (State.calctlWrite s g v).Kept mb := by
  unfold State.calctlWrite
  with_reducible repeat' first | assumption | apply State.arbRequest_kept | apply State.calHold_kept | apply State.calMaybeRelease_kept | apply State.cfgFail_kept | apply State.cfgOk_kept | apply State.setFlag_kept | apply State.setFld_kept | apply State.setGroup_kept | apply State.store_kept | (apply keptQ_of_eq; assumption) | dsimp only | split

theorem execCalRun_kept (g : Fin 4) (v : BitVec 32) {mb : SMap Byte} {s : State} (hc : s.Kept mb) :
    keptR mb (execCalRun g v s) := by
  unfold execCalRun
  with_reducible repeat' first | assumption | apply keptR_next | apply State.calctlWrite_kept | split

theorem execCalStop_kept (g : Fin 4) (v : BitVec 32) {mb : SMap Byte} {s : State} (hc : s.Kept mb) :
    keptR mb (execCalStop g v s) := by
  unfold execCalStop
  with_reducible repeat' first | assumption | apply keptR_next | apply State.calctlWrite_kept | split

theorem execCalPause_kept (g : Fin 4) (v : BitVec 32) {mb : SMap Byte} {s : State} (hc : s.Kept mb) :
    keptR mb (execCalPause g v s) := by
  unfold execCalPause
  with_reducible repeat' first | assumption | apply keptR_next | apply State.calctlWrite_kept | split

theorem execCalResume_kept (g : Fin 4) (v : BitVec 32) {mb : SMap Byte} {s : State} (hc : s.Kept mb) :
    keptR mb (execCalResume g v s) := by
  unfold execCalResume
  with_reducible repeat' first | assumption | apply keptR_next | apply State.calctlWrite_kept | split

theorem State.diagWrite_kept {mb : SMap Byte} {s : State} (g : Nat) (v : Word) (hc : s.Kept mb) :
    (State.diagWrite s g v).Kept mb := by
  unfold State.diagWrite
  with_reducible repeat' first | assumption | apply kept_ite | apply State.arbRelease_kept | apply State.arbRequest_kept | apply State.cfgFail_kept | apply State.cfgOk_kept | apply State.setFlag_kept | apply State.setFld_kept | apply State.setGroup_kept | apply State.store_kept | (apply keptQ_of_eq; assumption) | dsimp only | split

theorem execTestdacRequest_kept (g : Fin 4) (v : BitVec 32) {mb : SMap Byte} {s : State} (hc : s.Kept mb) :
    keptR mb (execTestdacRequest g v s) := by
  unfold execTestdacRequest
  with_reducible repeat' first | assumption | intro _ | apply keptR_next | apply State.diagWrite_kept | split

theorem execTestdacRelease_kept (g : Fin 4) (v : BitVec 32) {mb : SMap Byte} {s : State} (hc : s.Kept mb) :
    keptR mb (execTestdacRelease g v s) := by
  unfold execTestdacRelease
  with_reducible repeat' first | assumption | intro _ | apply keptR_next | apply State.diagWrite_kept | split

theorem State.sqCtrlWrite_kept {mb : SMap Byte} {s : State} (n : Nat) (v : Word) (hc : s.Kept mb) :
    (State.sqCtrlWrite s n v).Kept mb := by
  unfold State.sqCtrlWrite
  with_reducible repeat' first | assumption | intro _ | apply State.unitWrite_kept | apply kept_id | (fail_if_no_progress refine kept_mk ?_ rfl rfl rfl rfl rfl rfl rfl)

theorem execSequencerEnable_kept (n : Fin 16) (v : BitVec 32) {mb : SMap Byte} {s : State} (hc : s.Kept mb) :
    keptR mb (execSequencerEnable n v s) := by
  unfold execSequencerEnable
  with_reducible repeat' first | assumption | intro _ | apply keptR_next | apply State.sqCtrlWrite_kept | apply State.whenOn_kept

theorem State.sqEntWrite_kept {mb : SMap Byte} {s : State} (n k : Nat) (v : Word) (hc : s.Kept mb) :
    (State.sqEntWrite s n k v).Kept mb := by
  unfold State.sqEntWrite
  with_reducible repeat' first | assumption | apply kept_ite | apply State.cfgFail_kept | apply State.cfgOk_kept | apply State.store_kept | (fail_if_no_progress refine kept_mk ?_ rfl rfl rfl rfl rfl rfl rfl) | split

theorem execSqEntryWrite_kept (n : Fin 16) (k : Fin 32) (v : BitVec 32) {mb : SMap Byte} {s : State} (hc : s.Kept mb) :
    keptR mb (execSqEntryWrite n k v s) := by
  unfold execSqEntryWrite
  with_reducible repeat' first | assumption | apply keptR_next | apply kept_ite | apply keptR_ite | apply State.sqEntWrite_kept

theorem State.setCmp_kept {mb : SMap Byte} {s : State} (n : Nat) (r : Cmp) (hc : s.Kept mb) :
    (State.setCmp s n r).Kept mb := by
  unfold State.setCmp
  with_reducible repeat' first | assumption | (fail_if_no_progress refine kept_mk ?_ rfl rfl rfl rfl rfl rfl rfl)

theorem State.latchSet_kept {mb : SMap Byte} {s : State} (n t : Nat) (hc : s.Kept mb) :
    (State.latchSet s n t).Kept mb := by
  unfold State.latchSet
  with_reducible repeat' first | assumption | apply kept_ite | apply State.setCmp_kept | apply State.setFlag_kept

theorem State.latchClear_kept {mb : SMap Byte} {s : State} (n t : Nat) (hc : s.Kept mb) :
    (State.latchClear s n t).Kept mb := by
  unfold State.latchClear
  with_reducible repeat' first | assumption | apply kept_ite | apply State.setFlag_kept

theorem execComparatorLatchSet_kept (n : Fin 96) (t : Nat) {mb : SMap Byte} {s : State} (hc : s.Kept mb) :
    keptR mb (execComparatorLatchSet n t s) := by
  unfold execComparatorLatchSet
  with_reducible repeat' first | assumption | apply keptR_next | apply kept_ite | apply State.advanceTo_kept | apply State.latchSet_kept

theorem execComparatorRawChange_kept (n : Fin 96) (v t : Nat) {mb : SMap Byte} {s : State} (hc : s.Kept mb) :
    keptR mb (execComparatorRawChange n v t s) := by
  unfold execComparatorRawChange
  with_reducible repeat' first | assumption | apply keptR_next | apply keptR_ite | apply State.advanceTo_kept | apply State.setCmp_kept

theorem execComparatorSetRecord_kept (n : Fin 96) {mb : SMap Byte} {s : State} (hc : s.Kept mb) :
    keptR mb (execComparatorSetRecord n s) := by
  unfold execComparatorSetRecord
  with_reducible repeat' first | assumption | apply keptR_next | apply State.advanceTo_kept | apply State.modInc_kept | apply State.raiseAt_kept | apply State.setCmp_kept | split

theorem State.cmpStatWrite_kept {mb : SMap Byte} {s : State} (n : Nat) (v : Word) (hc : s.Kept mb) :
    (State.cmpStatWrite s n v).Kept mb := by
  unfold State.cmpStatWrite
  with_reducible repeat' first | assumption | apply kept_ite | apply State.latchClear_kept

theorem execLatchClear_kept (n : Fin 96) (v : BitVec 32) {mb : SMap Byte} {s : State} (hc : s.Kept mb) :
    keptR mb (execLatchClear n v s) := by
  unfold execLatchClear
  with_reducible repeat' first | assumption | apply keptR_next | apply State.cmpStatWrite_kept | split

theorem execBlankingClose_kept (n : Fin 96) {mb : SMap Byte} {s : State} (hc : s.Kept mb) :
    keptR mb (execBlankingClose n s) := by
  unfold execBlankingClose
  with_reducible repeat' first | assumption | apply keptR_next | apply State.advanceTo_kept | apply State.latchSet_kept | apply State.setCmp_kept | split

theorem State.blankOpen_kept {mb : SMap Byte} {s : State} (g kind t : Nat) (hc : s.Kept mb) :
    (State.blankOpen s g kind t).Kept mb := by
  unfold State.blankOpen
  with_reducible repeat' first | assumption | intro _ | apply kept_ite | apply kept_foldl | apply State.setCmp_kept

theorem State.cmpPeriodStart_kept {mb : SMap Byte} {s : State} (g t : Nat) (hc : s.Kept mb) :
    (State.cmpPeriodStart s g t).Kept mb := by
  unfold State.cmpPeriodStart
  with_reducible repeat' first | assumption | intro _ | apply kept_ite | apply kept_foldl | apply State.blankOpen_kept | apply State.latchClear_kept | apply State.setCmp_kept | apply State.setFld_kept

theorem State.cmpGenReset_kept {mb : SMap Byte} {s : State} (g : Nat) (hc : s.Kept mb) :
    (State.cmpGenReset s g).Kept mb := by
  unfold State.cmpGenReset
  with_reducible repeat' first | assumption | intro _ | apply kept_ite | apply kept_foldl | apply State.setCmp_kept

theorem State.cmpRefWrite_kept {mb : SMap Byte} {s : State} (n : Nat) (v : Word) (hc : s.Kept mb) :
    (State.cmpRefWrite s n v).Kept mb := by
  unfold State.cmpRefWrite
  with_reducible repeat' first | assumption | apply kept_ite | apply State.setCmp_kept | apply State.setFld_kept

theorem execRefWrite_kept (n : Fin 96) (v : BitVec 32) {mb : SMap Byte} {s : State} (hc : s.Kept mb) :
    keptR mb (execRefWrite n v s) := by
  unfold execRefWrite
  with_reducible repeat' first | assumption | apply keptR_next | apply State.cmpRefWrite_kept | split

theorem State.selftestStop_kept {mb : SMap Byte} {s : State} (n : Nat) (hc : s.Kept mb) :
    (State.selftestStop s n).Kept mb := by
  unfold State.selftestStop
  with_reducible repeat' first | assumption | apply State.arbRelease_kept | apply State.setCmp_kept | apply State.setFlag_kept | apply State.setFld_kept | split

theorem State.cmpSettle_kept {mb : SMap Byte} {s : State} (n : Nat) (hc : s.Kept mb) :
    (State.cmpSettle s n).Kept mb := by
  unfold State.cmpSettle
  with_reducible repeat' first | assumption | apply State.setCmp_kept | apply State.setFlag_kept

theorem State.cmpDown_kept {mb : SMap Byte} {s : State} (n : Nat) (hc : s.Kept mb) :
    (State.cmpDown s n).Kept mb := by
  unfold State.cmpDown
  with_reducible repeat' first | assumption | apply State.selftestStop_kept | apply State.setCmp_kept | apply State.setFlag_kept

theorem State.cmpCtrlWrite_kept {mb : SMap Byte} {s : State} (n : Nat) (v : Word) (hc : s.Kept mb) :
    (State.cmpCtrlWrite s n v).Kept mb := by
  unfold State.cmpCtrlWrite
  with_reducible repeat' first | assumption | intro _ | apply kept_ite | apply State.cfgOk_kept | apply State.cmpDown_kept | apply State.cmpSettle_kept | apply State.store_kept | apply State.unitWrite_kept | apply kept_id

theorem State.cmpRampWrite_kept {mb : SMap Byte} {s : State} (n : Nat) (v : Word) (hc : s.Kept mb) :
    (State.cmpRampWrite s n v).Kept mb := by
  unfold State.cmpRampWrite
  with_reducible repeat' first | assumption | apply State.cfgFail_kept | apply State.cfgOk_kept | apply State.setCmp_kept | apply State.setFld_kept | dsimp only | split

theorem State.cmpBlankWrite_kept {mb : SMap Byte} {s : State} (n : Nat) (v : Word) (hc : s.Kept mb) :
    (State.cmpBlankWrite s n v).Kept mb := by
  unfold State.cmpBlankWrite
  with_reducible repeat' first | assumption | apply State.cfgFail_kept | apply State.cfgOk_kept | apply State.store_kept | split

theorem execComparatorLiveWrite_kept (n : Fin 96) (r : CmpLive) (v : BitVec 32) {mb : SMap Byte} {s : State} (hc : s.Kept mb) :
    keptR mb (execComparatorLiveWrite n r v s) := by
  unfold execComparatorLiveWrite
  with_reducible repeat' first | assumption | apply keptR_next | apply keptR_ite | apply State.cmpBlankWrite_kept | apply State.cmpCtrlWrite_kept | apply State.cmpRampWrite_kept | split

theorem execComparatorEnable_kept (n : Fin 96) (v : BitVec 32) {mb : SMap Byte} {s : State} (hc : s.Kept mb) :
    keptR mb (execComparatorEnable n v s) := by
  unfold execComparatorEnable
  with_reducible repeat' first | assumption | intro _ | apply keptR_next | apply State.cmpCtrlWrite_kept | apply State.whenOn_kept

theorem execComparatorDisable_kept (n : Fin 96) (v : BitVec 32) {mb : SMap Byte} {s : State} (hc : s.Kept mb) :
    keptR mb (execComparatorDisable n v s) := by
  unfold execComparatorDisable
  with_reducible repeat' first | assumption | apply keptR_next | apply State.cmpCtrlWrite_kept | split

theorem execComparatorSettled_kept (n : Fin 96) {mb : SMap Byte} {s : State} (hc : s.Kept mb) :
    keptR mb (execComparatorSettled n s) := by
  unfold execComparatorSettled
  with_reducible repeat' first | assumption | apply keptR_next | apply State.advanceTo_kept | apply State.latchSet_kept | apply State.setCmp_kept | apply State.setFlag_kept | split

theorem State.cmpTestWrite_kept {mb : SMap Byte} {s : State} (n : Nat) (v : Word) (hc : s.Kept mb) :
    (State.cmpTestWrite s n v).Kept mb := by
  unfold State.cmpTestWrite
  with_reducible repeat' first | assumption | apply kept_ite | apply State.arbRequest_kept | apply State.cfgFail_kept | apply State.cfgOk_kept | apply State.cmpSettle_kept | apply State.selftestStop_kept | apply State.setCmp_kept | apply State.setFld_kept | apply State.setReg_kept | (apply keptQ_of_eq; assumption) | split

theorem execSelftestRequest_kept (n : Fin 96) (v : BitVec 32) {mb : SMap Byte} {s : State} (hc : s.Kept mb) :
    keptR mb (execSelftestRequest n v s) := by
  unfold execSelftestRequest
  with_reducible repeat' first | assumption | intro _ | apply keptR_next | apply State.cmpTestWrite_kept | split

theorem execSelftestEnd_kept (n : Fin 96) (v : BitVec 32) {mb : SMap Byte} {s : State} (hc : s.Kept mb) :
    keptR mb (execSelftestEnd n v s) := by
  unfold execSelftestEnd
  with_reducible repeat' first | assumption | intro _ | apply keptR_next | apply State.cmpTestWrite_kept | split

theorem State.setPwm_kept {mb : SMap Byte} {s : State} (n : Nat) (r : Pwm) (hc : s.Kept mb) :
    (State.setPwm s n r).Kept mb := by
  unfold State.setPwm
  with_reducible repeat' first | assumption | (fail_if_no_progress refine kept_mk ?_ rfl rfl rfl rfl rfl rfl rfl)

theorem State.setFlt_kept {mb : SMap Byte} {s : State} (flt : BitVec 24) (hc : s.Kept mb) :
    (State.setFlt s flt).Kept mb := by
  unfold State.setFlt
  with_reducible repeat' first | assumption | (fail_if_no_progress refine kept_mk ?_ rfl rfl rfl rfl rfl rfl rfl)

theorem State.outEdge_kept {mb : SMap Byte} {s : State} (n : Nat) (b level : Bool) (t : Nat) (hc : s.Kept mb) :
    (State.outEdge s n b level t).Kept mb := by
  unfold State.outEdge
  with_reducible repeat' first | assumption | apply kept_ite | apply State.blankOpen_kept | apply State.satInc_kept | apply State.setFlag_kept | apply State.setPwm_kept

theorem State.outTarget_kept {mb : SMap Byte} {s : State} (n : Nat) (b target : Bool) (delay t : Nat) (hc : s.Kept mb) :
    (State.outTarget s n b target delay t).Kept mb := by
  unfold State.outTarget
  with_reducible repeat' first | assumption | apply State.outEdge_kept | apply State.setPwm_kept | dsimp only | split

theorem State.outputs_kept {mb : SMap Byte} {s : State} (n t : Nat) (hc : s.Kept mb) :
    (State.outputs s n t).Kept mb := by
  unfold State.outputs
  with_reducible repeat' first | assumption | intro _ | apply kept_ite | apply State.outTarget_kept | split

theorem State.markFired_kept {mb : SMap Byte} {s : State} (n : Nat) (i : PwmInst) (hc : s.Kept mb) :
    (State.markFired s n i).Kept mb := by
  unfold State.markFired
  with_reducible repeat' first | assumption | apply State.setPwm_kept

theorem State.fireEdge_kept {mb : SMap Byte} {s : State} (n : Nat) (i : PwmInst) (t : Nat) (hc : s.Kept mb) :
    (State.fireEdge s n i t).Kept mb := by
  unfold State.fireEdge
  with_reducible repeat' first | assumption | apply State.markFired_kept | apply State.outputs_kept | apply State.setPwm_kept | split

theorem State.fireTrg_kept {mb : SMap Byte} {s : State} (n : Nat) (k : Fin 4) (down : Bool) (t : Nat) (hc : s.Kept mb) :
    (State.fireTrg s n k down t).Kept mb := by
  unfold State.fireTrg
  with_reducible repeat' first | assumption | apply State.markFired_kept | apply State.raiseAt_kept

theorem execEdgeInstance_kept (n : Fin 96) (i : PwmInst) {mb : SMap Byte} {s : State} (hc : s.Kept mb) :
    keptR mb (execEdgeInstance n i s) := by
  unfold execEdgeInstance
  with_reducible repeat' first | assumption | apply keptR_next | apply State.advanceTo_kept | apply State.fireEdge_kept | split

theorem execTriggerInstance_kept (n : Fin 96) (k : Fin 4) (down : Bool) {mb : SMap Byte} {s : State} (hc : s.Kept mb) :
    keptR mb (execTriggerInstance n k down s) := by
  unfold execTriggerInstance
  with_reducible repeat' first | assumption | apply keptR_next | apply State.advanceTo_kept | apply State.fireTrg_kept | split

theorem execDeadTimeEnd_kept (n : Fin 96) (b : Bool) {mb : SMap Byte} {s : State} (hc : s.Kept mb) :
    keptR mb (execDeadTimeEnd n b s) := by
  unfold execDeadTimeEnd
  with_reducible repeat' first | assumption | apply keptR_next | apply State.advanceTo_kept | apply State.outEdge_kept | apply State.outTarget_kept | apply State.setPwm_kept | dsimp only | split

theorem State.memberForce_kept {mb : SMap Byte} {s : State} (n m : Nat) (hc : s.Kept mb) :
    (State.memberForce s n m).Kept mb := by
  unfold State.memberForce
  with_reducible repeat' first | assumption | apply State.setPwm_kept | apply State.setReg_kept | split

theorem State.judgeInst_kept {mb : SMap Byte} {s : State} (n L : Nat) (i : PwmInst) (hc : s.Kept mb) :
    (State.judgeInst s n L i).Kept mb := by
  unfold State.judgeInst
  with_reducible repeat' first | assumption | apply State.fireEdge_kept | apply State.fireTrg_kept | apply State.markFired_kept | apply State.setFlag_kept | dsimp only | split

theorem State.memberNow_kept {mb : SMap Byte} {s : State} (n L m : Nat) (hc : s.Kept mb) :
    (State.memberNow s n L m).Kept mb := by
  unfold State.memberNow
  with_reducible repeat' first | assumption | intro _ | apply kept_foldl | apply State.judgeInst_kept | apply State.memberForce_kept | apply State.setPwm_kept | dsimp only | split

theorem State.cbcRelease_kept {mb : SMap Byte} {s : State} (n : Nat) (hc : s.Kept mb) :
    (State.cbcRelease s n).Kept mb := by
  unfold State.cbcRelease
  with_reducible repeat' first | assumption | intro _ | apply kept_ite | apply kept_foldl | apply State.satInc_kept | apply State.setFlag_kept | apply State.setPwm_kept

theorem State.tripAction_kept {mb : SMap Byte} {s : State} (n record : Nat) (hc : s.Kept mb) :
    (State.tripAction s n record).Kept mb := by
  unfold State.tripAction
  with_reducible repeat' first | assumption | apply State.satInc_kept | apply State.setFlag_kept | apply State.setPwm_kept | dsimp only | split

theorem State.tripSet_kept {mb : SMap Byte} {s : State} (n t : Nat) (k : Option Nat) (hc : s.Kept mb) :
    (State.tripSet s n t k).Kept mb := by
  unfold State.tripSet
  with_reducible repeat' first | assumption | apply State.setFlag_kept | apply State.setPwm_kept | apply State.tripAction_kept | split

theorem State.holdCount_kept {mb : SMap Byte} {s : State} (n t : Nat) (hc : s.Kept mb) :
    (State.holdCount s n t).Kept mb := by
  unfold State.holdCount
  with_reducible repeat' first | assumption | apply State.setFlag_kept | apply State.setFld_kept | apply State.tripSet_kept | dsimp only | split

theorem State.holdReset_kept {mb : SMap Byte} {s : State} (c : Nat) (hc : s.Kept mb) :
    (State.holdReset s c).Kept mb := by
  unfold State.holdReset
  with_reducible repeat' first | assumption | intro _ | apply kept_ite | apply kept_foldl | apply State.setFld_kept

theorem State.padsFree_kept {mb : SMap Byte} {s : State} (n : Nat) (hc : s.Kept mb) :
    (State.padsFree s n).Kept mb := by
  unfold State.padsFree
  with_reducible repeat' first | assumption | apply State.setFlag_kept | apply State.setFld_kept | apply State.setPwm_kept

theorem State.tripResume_kept {mb : SMap Byte} {s : State} (n r : Nat) (hc : s.Kept mb) :
    (State.tripResume s n r).Kept mb := by
  unfold State.tripResume
  with_reducible repeat' first | assumption | apply State.padsFree_kept | split

theorem State.startLoad_kept {mb : SMap Byte} {s : State} (n : Nat) (hc : s.Kept mb) :
    (State.startLoad s n).Kept mb := by
  unfold State.startLoad
  with_reducible repeat' first | assumption | intro _ | apply kept_ite | apply kept_foldl | apply State.memberForce_kept | apply State.satInc_kept | apply State.setFlag_kept | apply State.setPwm_kept

theorem State.noteSwitch_kept {mb : SMap Byte} {s : State} (n t : Nat) (hc : s.Kept mb) :
    (State.noteSwitch s n t).Kept mb := by
  unfold State.noteSwitch
  with_reducible repeat' first | assumption | intro _ | apply kept_ite | apply kept_foldl | (fail_if_no_progress refine kept_mk ?_ rfl rfl rfl rfl rfl rfl rfl)

theorem State.periodStart_kept {mb : SMap Byte} {s : State} (n t pos r : Nat) (hc : s.Kept mb) :
    (State.periodStart s n t pos r).Kept mb := by
  unfold State.periodStart
  with_reducible repeat' first | assumption | intro _ | apply kept_ite | apply kept_foldl | apply State.cbcRelease_kept | apply State.cmpPeriodStart_kept | apply State.holdCount_kept | apply State.noteSwitch_kept | apply State.outputs_kept | apply State.raiseAt_kept | apply State.setFlag_kept | apply State.setPwm_kept | apply State.startLoad_kept | apply State.tripResume_kept

theorem execPeriodStart_kept (n : Fin 96) (flt : BitVec 24) {mb : SMap Byte} {s : State} (hc : s.Kept mb) :
    keptR mb (execPeriodStart n flt s) := by
  unfold execPeriodStart
  with_reducible repeat' first | assumption | apply keptR_next | apply State.advanceTo_kept | apply State.periodStart_kept | apply State.setFlt_kept | apply State.setPwm_kept | dsimp only | split

theorem State.centre_kept {mb : SMap Byte} {s : State} (n t : Nat) (hc : s.Kept mb) :
    (State.centre s n t).Kept mb := by
  unfold State.centre
  with_reducible repeat' first | assumption | intro _ | apply kept_ite | apply kept_foldl | apply State.cbcRelease_kept | apply State.markFired_kept | apply State.memberForce_kept | apply State.outputs_kept | apply State.raiseAt_kept

theorem execPwmCentre_kept (n : Fin 96) (flt : BitVec 24) {mb : SMap Byte} {s : State} (hc : s.Kept mb) :
    keptR mb (execPwmCentre n flt s) := by
  unfold execPwmCentre
  with_reducible repeat' first | assumption | apply keptR_next | apply State.advanceTo_kept | apply State.centre_kept | apply State.setFlt_kept | dsimp only | split

theorem State.lateReload_kept {mb : SMap Byte} {s : State} (n : Nat) (hc : s.Kept mb) :
    (State.lateReload s n).1.Kept mb := by
  unfold State.lateReload
  with_reducible repeat' first | assumption | apply keptO_some | apply keptO_none | apply State.centre_kept | apply State.periodStart_kept | apply State.setPwm_kept | (apply keptO_of_eq; assumption) | dsimp only | split

theorem State.lateNote_kept {mb : SMap Byte} {s : State} (n : Nat) (late : Bool) (hc : s.Kept mb) :
    (State.lateNote s n late).Kept mb := by
  unfold State.lateNote
  with_reducible repeat' first | assumption | apply State.raiseNow_kept | apply State.satInc_kept | apply State.setFlag_kept | split

theorem State.pwmMemberWrite_kept {mb : SMap Byte} {s : State} (n m : Nat) (v : Word) (hc : s.Kept mb) :
    (State.pwmMemberWrite s n m v).Kept mb := by
  unfold State.pwmMemberWrite
  with_reducible repeat' first | assumption | apply kept_ite | apply State.lateNote_kept | apply State.lateReload_kept | apply State.memberNow_kept | apply State.setFlag_kept | apply State.setPwm_kept | apply State.setReg_kept

theorem State.pwmPhaseWrite_kept {mb : SMap Byte} {s : State} (n : Nat) (v : Word) (hc : s.Kept mb) :
    (State.pwmPhaseWrite s n v).Kept mb := by
  unfold State.pwmPhaseWrite
  with_reducible repeat' first | assumption | apply State.setReg_kept

theorem State.pwmCommitWrite_kept {mb : SMap Byte} {s : State} (n : Nat) (hc : s.Kept mb) :
    (State.pwmCommitWrite s n).Kept mb := by
  unfold State.pwmCommitWrite
  with_reducible repeat' first | assumption | intro _ | apply kept_ite | apply kept_foldl | apply State.lateNote_kept | apply State.lateReload_kept | apply State.memberNow_kept | apply State.setFlag_kept | apply State.setPwm_kept

theorem State.windowOwned_kept {mb : SMap Byte} {s : State} (i chk fld : Nat) (f : State → State) (hc : s.Kept mb) (hcf : ∀ t : State, t.Kept mb → (f t).Kept mb) :
    (State.windowOwned s i chk fld f).Kept mb := by
  unfold State.windowOwned
  with_reducible repeat' first | assumption | apply hcf | apply State.cfgFail_kept | apply State.setFlag_kept | split

theorem execPwmCommit_kept (n : Fin 96) (_v : BitVec 32) {mb : SMap Byte} {s : State} (hc : s.Kept mb) :
    keptR mb (execPwmCommit n _v s) := by
  unfold execPwmCommit
  with_reducible repeat' first | assumption | intro _ | apply keptR_next | apply kept_ite | apply State.pwmCommitWrite_kept | apply State.windowOwned_kept

theorem State.pwmSync_kept {mb : SMap Byte} {s : State} (n e : Nat) (hc : s.Kept mb) :
    (State.pwmSync s n e).Kept mb := by
  unfold State.pwmSync
  with_reducible repeat' first | assumption | apply State.outputs_kept | apply State.periodStart_kept | apply State.setPwm_kept | dsimp only | split

theorem State.pwmTimeout_kept {mb : SMap Byte} {s : State} (n : Nat) (hc : s.Kept mb) :
    (State.pwmTimeout s n).Kept mb := by
  unfold State.pwmTimeout
  with_reducible repeat' first | assumption | apply State.satInc_kept | apply State.setFlag_kept

theorem execPulseEndSeen_kept (n : Fin 96) (t : Nat) {mb : SMap Byte} {s : State} (hc : s.Kept mb) :
    keptR mb (execPulseEndSeen n t s) := by
  unfold execPulseEndSeen
  with_reducible repeat' first | assumption | apply keptR_next | apply keptR_ite | apply State.advanceTo_kept | apply State.setPwm_kept

theorem execCotTimeout_kept (n : Fin 96) {mb : SMap Byte} {s : State} (hc : s.Kept mb) :
    keptR mb (execCotTimeout n s) := by
  unfold execCotTimeout
  with_reducible repeat' first | assumption | apply keptR_next | apply State.advanceTo_kept | apply State.pwmTimeout_kept | apply State.setPwm_kept | dsimp only | split

theorem execCoffPulseEnd_kept (n : Fin 96) (t : Nat) {mb : SMap Byte} {s : State} (hc : s.Kept mb) :
    keptR mb (execCoffPulseEnd n t s) := by
  unfold execCoffPulseEnd
  with_reducible repeat' first | assumption | apply keptR_next | apply State.advanceTo_kept | apply State.fireEdge_kept | apply State.setPwm_kept | dsimp only | split

theorem execCoffTimeout_kept (n : Fin 96) {mb : SMap Byte} {s : State} (hc : s.Kept mb) :
    keptR mb (execCoffTimeout n s) := by
  unfold execCoffTimeout
  with_reducible repeat' first | assumption | apply keptR_next | apply keptR_ite | apply State.advanceTo_kept | apply State.fireEdge_kept | apply State.pwmTimeout_kept | apply State.setPwm_kept

theorem execCbcForce_kept (n : Fin 96) (k : Fin 8) (t : Nat) (flt : BitVec 24) {mb : SMap Byte} {s : State} (hc : s.Kept mb) :
    keptR mb (execCbcForce n k t flt s) := by
  unfold execCbcForce
  with_reducible repeat' first | assumption | apply keptR_next | apply kept_ite | apply keptR_ite | apply State.advanceTo_kept | apply State.outputs_kept | apply State.satInc_kept | apply State.setFlag_kept | apply State.setFlt_kept | apply State.setPwm_kept

theorem execLatchedTrip_kept (n : Fin 96) (k : Fin 8) (t : Nat) (flt : BitVec 24) {mb : SMap Byte} {s : State} (hc : s.Kept mb) :
    keptR mb (execLatchedTrip n k t flt s) := by
  unfold execLatchedTrip
  with_reducible repeat' first | assumption | apply keptR_next | apply State.advanceTo_kept | apply State.setFlt_kept | apply State.tripSet_kept | split

theorem execTripRecord_kept (n : Fin 96) {mb : SMap Byte} {s : State} (hc : s.Kept mb) :
    keptR mb (execTripRecord n s) := by
  unfold execTripRecord
  with_reducible repeat' first | assumption | apply keptR_next | apply State.advanceTo_kept | apply State.raiseAt_kept | apply State.satInc_kept | apply State.setFlag_kept | apply State.setPwm_kept | split

theorem execPadSenseMismatch_kept (n : Fin 96) (a b : Bool) {mb : SMap Byte} {s : State} (hc : s.Kept mb) :
    keptR mb (execPadSenseMismatch n a b s) := by
  unfold execPadSenseMismatch
  with_reducible repeat' first | assumption | apply keptR_next | apply State.advanceTo_kept | apply State.satInc_kept | apply State.setFlag_kept | apply State.setFld_kept | apply State.setPwm_kept | dsimp only | split

theorem State.tripStatWrite_kept {mb : SMap Byte} {s : State} (n : Nat) (v : Word) (hc : s.Kept mb) :
    (State.tripStatWrite s n v).Kept mb := by
  unfold State.tripStatWrite
  with_reducible repeat' first | assumption | apply State.padsFree_kept | apply State.setFlag_kept | apply State.setFld_kept | apply State.setPwm_kept | apply State.setReg_kept | dsimp only | split

theorem execTripClear_kept (n : Fin 96) (v : BitVec 32) (flt : BitVec 24) {mb : SMap Byte} {s : State} (hc : s.Kept mb) :
    keptR mb (execTripClear n v flt s) := by
  unfold execTripClear
  with_reducible repeat' first | assumption | apply keptR_next | apply kept_ite | apply State.setFlt_kept | apply State.tripStatWrite_kept

theorem State.haltSafe_kept {mb : SMap Byte} {s : State} (n : Nat) (hc : s.Kept mb) :
    (State.haltSafe s n).Kept mb := by
  unfold State.haltSafe
  with_reducible repeat' first | assumption | apply State.setFlag_kept | apply State.setPwm_kept | apply State.tripAction_kept | split

theorem State.pwmHalt_kept {mb : SMap Byte} {s : State} (n : Nat) (hc : s.Kept mb) :
    (State.pwmHalt s n).Kept mb := by
  unfold State.pwmHalt
  with_reducible repeat' first | assumption | apply kept_ite | apply State.haltSafe_kept | apply State.setPwm_kept

theorem State.pwmResume_kept {mb : SMap Byte} {s : State} (n : Nat) (hc : s.Kept mb) :
    (State.pwmResume s n).Kept mb := by
  unfold State.pwmResume
  with_reducible repeat' first | assumption | apply State.setPwm_kept | split

theorem State.dropPerturb_kept {mb : SMap Byte} {s : State} (hc : s.Kept mb) :
    (State.dropPerturb s).Kept mb := by
  unfold State.dropPerturb
  with_reducible repeat' first | assumption | apply kept_foldl | apply State.pwmResume_kept | apply State.setFlag_kept | apply State.setReg_kept | (fail_if_no_progress refine kept_mk ?_ rfl rfl rfl rfl rfl rfl rfl) | split

theorem State.pwmUp_kept {mb : SMap Byte} {s : State} (n : Nat) (hc : s.Kept mb) :
    (State.pwmUp s n).Kept mb := by
  unfold State.pwmUp
  with_reducible repeat' first | assumption | intro _ | apply kept_foldl | apply State.cmpGenReset_kept | apply State.dropPerturb_kept | apply State.memberForce_kept | apply State.setFld_kept | apply State.setPwm_kept

theorem State.pwmDown_kept {mb : SMap Byte} {s : State} (n : Nat) (hc : s.Kept mb) :
    (State.pwmDown s n).Kept mb := by
  unfold State.pwmDown
  with_reducible repeat' first | assumption | intro _ | apply kept_ite | apply kept_foldl | apply State.cmpGenReset_kept | apply State.padsFree_kept | apply State.setFlag_kept | apply State.setFld_kept | apply State.setPwm_kept

theorem State.pwmCtrlWrite_kept {mb : SMap Byte} {s : State} (n : Nat) (v : Word) (hc : s.Kept mb) :
    (State.pwmCtrlWrite s n v).Kept mb := by
  unfold State.pwmCtrlWrite
  with_reducible repeat' first | assumption | intro _ | apply State.pwmDown_kept | apply State.pwmUp_kept | apply State.unitWrite_kept | apply kept_id

theorem execPwmEnable_kept (n : Fin 96) (v : BitVec 32) {mb : SMap Byte} {s : State} (hc : s.Kept mb) :
    keptR mb (execPwmEnable n v s) := by
  unfold execPwmEnable
  with_reducible repeat' first | assumption | intro _ | apply keptR_next | apply State.pwmCtrlWrite_kept | apply State.whenOn_kept

theorem execPwmDisable_kept (n : Fin 96) (v : BitVec 32) {mb : SMap Byte} {s : State} (hc : s.Kept mb) :
    keptR mb (execPwmDisable n v s) := by
  unfold execPwmDisable
  with_reducible repeat' first | assumption | apply keptR_next | apply State.pwmCtrlWrite_kept | split

theorem State.setPos_kept {mb : SMap Byte} {s : State} (n : Nat) (r : Pos) (hc : s.Kept mb) :
    (State.setPos s n r).Kept mb := by
  unfold State.setPos
  with_reducible repeat' first | assumption | (fail_if_no_progress refine kept_mk ?_ rfl rfl rfl rfl rfl rfl rfl)

theorem State.piEvent_kept {mb : SMap Byte} {s : State} (n k : Nat) (hc : s.Kept mb) :
    (State.piEvent s n k).Kept mb := by
  unfold State.piEvent
  with_reducible repeat' first | assumption | apply State.raiseNow_kept

theorem State.emuLagShow_kept {mb : SMap Byte} {s : State} (n : Nat) (hc : s.Kept mb) :
    (State.emuLagShow s n).Kept mb := by
  unfold State.emuLagShow
  with_reducible repeat' first | assumption | apply kept_ite | apply State.setFlag_kept | apply State.setFld_kept

theorem State.emuFeed_kept {mb : SMap Byte} {s : State} (n : Nat) (d : Int) (hc : s.Kept mb) :
    (State.emuFeed s n d).Kept mb := by
  unfold State.emuFeed
  with_reducible repeat' first | assumption | apply kept_ite | apply State.emuLagShow_kept | apply State.setPos_kept

theorem State.emuDrive_kept {mb : SMap Byte} {s : State} (n : Nat) (hc : s.Kept mb) :
    (State.emuDrive s n).Kept mb := by
  unfold State.emuDrive
  with_reducible repeat' first | assumption | apply State.setPos_kept

theorem execEmulatorEdge_kept (n : Fin 16) {mb : SMap Byte} {s : State} (hc : s.Kept mb) :
    keptR mb (execEmulatorEdge n s) := by
  unfold execEmulatorEdge
  with_reducible repeat' first | assumption | apply keptR_next | apply kept_ite | apply keptR_ite | apply State.advanceTo_kept | apply State.emuDrive_kept | apply State.emuLagShow_kept | apply State.piEvent_kept | apply State.setPos_kept | apply State.setReg_kept

theorem State.emuCtrlWrite_kept {mb : SMap Byte} {s : State} (n : Nat) (v : Word) (hc : s.Kept mb) :
    (State.emuCtrlWrite s n v).Kept mb := by
  unfold State.emuCtrlWrite
  with_reducible repeat' first | assumption | intro _ | apply State.emuDrive_kept | apply State.setFld_kept | apply State.setPos_kept | apply State.unitWrite_kept | apply kept_id

theorem execEmulatorEnable_kept (n : Fin 16) (v : BitVec 32) {mb : SMap Byte} {s : State} (hc : s.Kept mb) :
    keptR mb (execEmulatorEnable n v s) := by
  unfold execEmulatorEnable
  with_reducible repeat' first | assumption | intro _ | apply keptR_next | apply State.emuCtrlWrite_kept | apply State.whenOn_kept

theorem State.posMove_kept {mb : SMap Byte} {s : State} (n : Nat) (d : Int) (hc : s.Kept mb) :
    (State.posMove s n d).Kept mb := by
  unfold State.posMove
  with_reducible repeat' first | assumption | apply State.setFld_kept | apply State.setReg_kept

theorem State.speedEdge_kept {mb : SMap Byte} {s : State} (n : Nat) (down : Bool) (stamp : Nat) (hc : s.Kept mb) :
    (State.speedEdge s n down stamp).Kept mb := by
  unfold State.speedEdge
  with_reducible repeat' first | assumption | apply State.piEvent_kept | apply State.setFlag_kept | apply State.setPos_kept | apply State.setReg_kept | apply State.tick_kept | dsimp only | split

theorem State.piCount_kept {mb : SMap Byte} {s : State} (n : Nat) (up : Bool) (stamp : Nat) (hc : s.Kept mb) :
    (State.piCount s n up stamp).Kept mb := by
  unfold State.piCount
  with_reducible repeat' first | assumption | intro _ | apply kept_ite | apply kept_foldl | apply State.emuFeed_kept | apply State.piEvent_kept | apply State.posMove_kept | apply State.setReg_kept | apply State.speedEdge_kept

theorem State.phaseErr_kept {mb : SMap Byte} {s : State} (n : Nat) (hc : s.Kept mb) :
    (State.phaseErr s n).Kept mb := by
  unfold State.phaseErr
  with_reducible repeat' first | assumption | apply State.piEvent_kept | apply State.satInc_kept | apply State.setFlag_kept

theorem State.hallErr_kept {mb : SMap Byte} {s : State} (n b : Nat) (hc : s.Kept mb) :
    (State.hallErr s n b).Kept mb := by
  unfold State.hallErr
  with_reducible repeat' first | assumption | apply State.piEvent_kept | apply State.satInc_kept | apply State.setFlag_kept

theorem State.quadStep_kept {mb : SMap Byte} {s : State} (n : Nat) (a b a' b' : Bool) (stamp : Nat) (hc : s.Kept mb) :
    (State.quadStep s n a b a' b' stamp).Kept mb := by
  unfold State.quadStep
  with_reducible repeat' first | assumption | apply State.phaseErr_kept | apply State.piCount_kept | split

theorem State.hallStep_kept {mb : SMap Byte} {s : State} (n h stamp : Nat) (hc : s.Kept mb) :
    (State.hallStep s n h stamp).Kept mb := by
  unfold State.hallStep
  with_reducible repeat' first | assumption | apply State.hallErr_kept | apply State.piCount_kept | apply State.setPos_kept | dsimp only | split

theorem State.piIndex_kept {mb : SMap Byte} {s : State} (n : Nat) (hc : s.Kept mb) :
    (State.piIndex s n).Kept mb := by
  unfold State.piIndex
  with_reducible repeat' first | assumption | apply kept_ite | apply State.piEvent_kept | apply State.posMove_kept | apply State.setFlag_kept | apply State.setReg_kept

theorem State.indexStep_kept {mb : SMap Byte} {s : State} (n : Nat) (hc : s.Kept mb) :
    (State.indexStep s n).Kept mb := by
  unfold State.indexStep
  with_reducible repeat' first | assumption | apply State.piIndex_kept | apply State.setPos_kept | dsimp only | split

theorem execLevelAccept_kept (n : Fin 16) (a b z : Option Bool) (e : Nat) {mb : SMap Byte} {s : State} (hc : s.Kept mb) :
    keptR mb (execLevelAccept n a b z e s) := by
  unfold execLevelAccept
  with_reducible repeat' first | assumption | apply keptR_next | apply State.advanceTo_kept | apply State.hallStep_kept | apply State.indexStep_kept | apply State.piCount_kept | apply State.quadStep_kept | apply State.setPos_kept | dsimp only | split

theorem execWireFault_kept (n : Fin 16) (sig : Fin 3) (e : Nat) {mb : SMap Byte} {s : State} (hc : s.Kept mb) :
    keptR mb (execWireFault n sig e s) := by
  unfold execWireFault
  with_reducible repeat' first | assumption | apply keptR_next | apply keptR_ite | apply State.advanceTo_kept | apply State.piEvent_kept | apply State.setFlag_kept | apply State.setPos_kept

theorem execStandstill_kept (n : Fin 16) {mb : SMap Byte} {s : State} (hc : s.Kept mb) :
    keptR mb (execStandstill n s) := by
  unfold execStandstill
  with_reducible repeat' first | assumption | apply keptR_next | apply keptR_ite | apply State.advanceTo_kept | apply State.piEvent_kept | apply State.setFlag_kept | apply State.setPos_kept | apply State.setReg_kept

theorem State.posWrite_kept {mb : SMap Byte} {s : State} (n : Nat) (rev : Bool) (v : Word) (hc : s.Kept mb) :
    (State.posWrite s n rev v).Kept mb := by
  unfold State.posWrite
  with_reducible repeat' first | assumption | apply kept_ite | apply State.cfgFail_kept | apply State.cfgOk_kept | apply State.setReg_kept | apply State.store_kept

theorem execPosWrite_kept (n : Fin 16) (rev : Bool) (v : BitVec 32) {mb : SMap Byte} {s : State} (hc : s.Kept mb) :
    keptR mb (execPosWrite n rev v s) := by
  unfold execPosWrite
  with_reducible repeat' first | assumption | apply keptR_next | apply State.posWrite_kept | split

theorem State.piCtrlWrite_kept {mb : SMap Byte} {s : State} (n : Nat) (v : Word) (hc : s.Kept mb) :
    (State.piCtrlWrite s n v).Kept mb := by
  unfold State.piCtrlWrite
  with_reducible repeat' first | assumption | intro _ | apply State.setFlag_kept | apply State.setPos_kept | apply State.setReg_kept | apply State.unitWrite_kept | apply kept_id

theorem execInterfaceEnable_kept (n : Fin 16) (v : BitVec 32) {mb : SMap Byte} {s : State} (hc : s.Kept mb) :
    keptR mb (execInterfaceEnable n v s) := by
  unfold execInterfaceEnable
  with_reducible repeat' first | assumption | intro _ | apply keptR_next | apply State.piCtrlWrite_kept | apply State.whenOn_kept

theorem State.ssiStart_kept {mb : SMap Byte} {s : State} (n : Nat) (high : Bool) (hc : s.Kept mb) :
    (State.ssiStart s n high).Kept mb := by
  unfold State.ssiStart
  with_reducible repeat' first | assumption | apply State.satInc_kept | apply State.setFlag_kept | apply State.setPos_kept | dsimp only | split

theorem execSsiFrameRecord_kept (n : Fin 16) (data : BitVec 48) (crc : BitVec 8) {mb : SMap Byte} {s : State} (hc : s.Kept mb) :
    keptR mb (execSsiFrameRecord n data crc s) := by
  unfold execSsiFrameRecord
  with_reducible repeat' first | assumption | apply keptR_next | apply State.advanceTo_kept | apply State.modInc_kept | apply State.piEvent_kept | apply State.satInc_kept | apply State.setFlag_kept | apply State.setFld_kept | apply State.setPos_kept | apply State.setReg_kept | dsimp only | split

theorem execSsiRelease_kept (n : Fin 16) (e : Nat) {mb : SMap Byte} {s : State} (hc : s.Kept mb) :
    keptR mb (execSsiRelease n e s) := by
  unfold execSsiRelease
  with_reducible repeat' first | assumption | apply keptR_next | apply State.advanceTo_kept | apply State.setFlag_kept | dsimp only | split

theorem execSsiTimeout_kept (n : Fin 16) {mb : SMap Byte} {s : State} (hc : s.Kept mb) :
    keptR mb (execSsiTimeout n s) := by
  unfold execSsiTimeout
  with_reducible repeat' first | assumption | apply keptR_next | apply State.advanceTo_kept | apply State.setFlag_kept | apply State.setPos_kept | dsimp only | split

theorem State.filterCount_kept {mb : SMap Byte} {s : State} (f : Filter) (v : Word) (partner : Option Word) (hc : s.Kept mb) :
    (State.filterCount s f v partner).Kept mb := by
  unfold State.filterCount
  with_reducible repeat' first | assumption | apply State.satInc_kept | apply State.setFlag_kept | split

theorem State.emuposApply_kept {mb : SMap Byte} {s : State} (n : Nat) (v : Word) (hc : s.Kept mb) :
    (State.emuposApply s n v).Kept mb := by
  unfold State.emuposApply
  with_reducible repeat' first | assumption | apply State.cfgOk_kept | apply State.emuFeed_kept | apply State.setReg_kept | dsimp only | split

theorem execEmuposWrite_kept (n : Fin 16) (cell : Option (Fin 52)) (v : BitVec 32) {mb : SMap Byte} {s : State} (hc : s.Kept mb) :
    keptR mb (execEmuposWrite n cell v s) := by
  unfold execEmuposWrite
  with_reducible repeat' first | assumption | intro _ | apply keptR_next | apply State.emuposApply_kept | apply State.filterCount_kept | apply State.windowOwned_kept | split

theorem execEvoutPulseEnd_kept (k : Fin 16) {mb : SMap Byte} {s : State} (hc : s.Kept mb) :
    keptR mb (execEvoutPulseEnd k s) := by
  unfold execEvoutPulseEnd
  with_reducible repeat' first | assumption | apply keptR_next | apply State.advanceTo_kept | (fail_if_no_progress refine kept_mk ?_ rfl rfl rfl rfl rfl rfl rfl) | split

theorem execEvinRaise_kept (k : Fin 32) (e : Nat) {mb : SMap Byte} {s : State} (hc : s.Kept mb) :
    keptR mb (execEvinRaise k e s) := by
  unfold execEvinRaise
  with_reducible repeat' first | assumption | apply keptR_next | apply keptR_ite | apply State.advanceTo_kept | apply State.raiseNow_kept

theorem execTimerRaise_kept (k : Fin 16) {mb : SMap Byte} {s : State} (hc : s.Kept mb) :
    keptR mb (execTimerRaise k s) := by
  unfold execTimerRaise
  with_reducible repeat' first | assumption | apply keptR_next | apply keptR_ite | apply State.advanceTo_kept | apply State.raiseNow_kept | (fail_if_no_progress refine kept_mk ?_ rfl rfl rfl rfl rfl rfl rfl)

theorem execTimerOutputPulseEnd_kept (k : Fin 16) {mb : SMap Byte} {s : State} (hc : s.Kept mb) :
    keptR mb (execTimerOutputPulseEnd k s) := by
  unfold execTimerOutputPulseEnd
  with_reducible repeat' first | assumption | apply keptR_next | apply State.advanceTo_kept | (fail_if_no_progress refine kept_mk ?_ rfl rfl rfl rfl rfl rfl rfl) | split

theorem State.timerWrite_kept {mb : SMap Byte} {s : State} (k : Nat) (v : Word) (hc : s.Kept mb) :
    (State.timerWrite s k v).Kept mb := by
  unfold State.timerWrite
  with_reducible repeat' first | assumption | intro _ | apply State.unitWrite_kept | apply kept_id | (fail_if_no_progress refine kept_mk ?_ rfl rfl rfl rfl rfl rfl rfl)

theorem execSoTimerEnable_kept (k : Fin 16) (v : BitVec 32) {mb : SMap Byte} {s : State} (hc : s.Kept mb) :
    keptR mb (execSoTimerEnable k v s) := by
  unfold execSoTimerEnable
  with_reducible repeat' first | assumption | intro _ | apply keptR_next | apply State.timerWrite_kept | apply State.whenOn_kept

theorem State.soRaiseWrite_kept {mb : SMap Byte} {s : State} (v : Word) (hc : s.Kept mb) :
    (State.soRaiseWrite s v).Kept mb := by
  unfold State.soRaiseWrite
  with_reducible repeat' first | assumption | apply State.raiseAt_kept

theorem execSoRaise_kept (v : BitVec 32) {mb : SMap Byte} {s : State} (hc : s.Kept mb) :
    keptR mb (execSoRaise v s) := by
  unfold execSoRaise
  with_reducible repeat' first | assumption | apply keptR_next | apply State.soRaiseWrite_kept | split

theorem State.routeWrite_kept {mb : SMap Byte} {s : State} (src w : Nat) (v : Word) (hc : s.Kept mb) :
    (State.routeWrite s src w v).Kept mb := by
  unfold State.routeWrite
  with_reducible repeat' first | assumption | apply State.cfgFail_kept | apply State.cfgOk_kept | apply State.setFld_kept | apply State.store_kept | (fail_if_no_progress refine kept_mk ?_ rfl rfl rfl rfl rfl rfl rfl) | dsimp only | split

theorem execRoutingEntryWrite_kept (src : Fin 2048) (w : Fin 3) (v : BitVec 32) {mb : SMap Byte} {s : State} (hc : s.Kept mb) :
    keptR mb (execRoutingEntryWrite src w v s) := by
  unfold execRoutingEntryWrite
  with_reducible repeat' first | assumption | apply keptR_next | apply State.routeWrite_kept | split

theorem State.holdRelease_kept {mb : SMap Byte} {s : State} (i : Nat) (hc : s.Kept mb) :
    (State.holdRelease s i).Kept mb := by
  unfold State.holdRelease
  with_reducible repeat' first | assumption | apply kept_ite | apply State.setFld_kept

theorem State.ownSwitch_kept {mb : SMap Byte} {s : State} (i : Nat) (hc : s.Kept mb) :
    (State.ownSwitch s i).Kept mb := by
  unfold State.ownSwitch
  with_reducible repeat' first | assumption | apply kept_ite | apply State.holdRelease_kept | apply State.setFlag_kept | apply State.setPwm_kept | apply State.setReg_kept | (fail_if_no_progress refine kept_mk ?_ rfl rfl rfl rfl rfl rfl rfl)

theorem State.switchDue_kept {mb : SMap Byte} {s : State} (e : Nat) (hc : s.Kept mb) :
    (State.switchDue s e).Kept mb := by
  unfold State.switchDue
  with_reducible repeat' first | assumption | intro _ | apply kept_ite | apply kept_foldl | apply State.ownSwitch_kept

theorem State.settleSwitch_kept {mb : SMap Byte} {s : State} (hc : s.Kept mb) :
    (State.settleSwitch s).Kept mb := by
  unfold State.settleSwitch
  with_reducible repeat' first | assumption | apply State.switchDue_kept | split

theorem execOwnershipSwitch_kept {mb : SMap Byte} {s : State} (hc : s.Kept mb) :
    keptR mb (execOwnershipSwitch s) := by
  unfold execOwnershipSwitch
  with_reducible repeat' first | assumption | apply keptR_next | apply State.advanceTo_kept | apply State.switchDue_kept | split

theorem State.ownDisarm_kept {mb : SMap Byte} {s : State} (i : Nat) (w : Word) (hc : s.Kept mb) :
    (State.ownDisarm s i w).Kept mb := by
  unfold State.ownDisarm
  with_reducible repeat' first | assumption | apply State.setFlag_kept | (fail_if_no_progress refine kept_mk ?_ rfl rfl rfl rfl rfl rfl rfl) | split

theorem State.ownTake_kept {mb : SMap Byte} {s : State} (i : Nat) (w : Word) (fails : List CfgFail) (worst : Option CfgFail) (hc : s.Kept mb) :
    (State.ownTake s i w fails worst).Kept mb := by
  unfold State.ownTake
  with_reducible repeat' first | assumption | apply State.cfgFail_kept | apply State.cfgOk_kept | apply State.ownDisarm_kept | apply State.setReg_kept | split

theorem State.ownWrite_kept {mb : SMap Byte} {s : State} (i : Nat) (v : Word) (hc : s.Kept mb) :
    (State.ownWrite s i v).Kept mb := by
  unfold State.ownWrite
  with_reducible repeat' first | assumption | apply State.ownTake_kept | apply State.settleSwitch_kept

theorem execOwnershipEntryWrite_kept (i : Fin 112) (v : BitVec 32) {mb : SMap Byte} {s : State} (hc : s.Kept mb) :
    keptR mb (execOwnershipEntryWrite i v s) := by
  unfold execOwnershipEntryWrite
  with_reducible repeat' first | assumption | apply keptR_next | apply State.ownWrite_kept | split

theorem State.miggoWrite_kept {mb : SMap Byte} {s : State} (hc : s.Kept mb) :
    (State.miggoWrite s).Kept mb := by
  unfold State.miggoWrite
  with_reducible repeat' first | assumption | intro _ | apply kept_ite | apply kept_foldl | apply State.ownSwitch_kept | apply State.setFlag_kept | apply State.settleSwitch_kept | (fail_if_no_progress refine kept_mk ?_ rfl rfl rfl rfl rfl rfl rfl)

theorem execSoMiggo_kept (_v : BitVec 32) {mb : SMap Byte} {s : State} (hc : s.Kept mb) :
    keptR mb (execSoMiggo _v s) := by
  unfold execSoMiggo
  with_reducible repeat' first | assumption | apply keptR_next | apply State.miggoWrite_kept | split

end Sys2Proof.Machine
end

