-- ==== Sys2Proof/Laws/KeptCells.lean ====
section
/-! SUPPORT. The bytes of memory are left as they were by the memories, the ledger, the map store, the loop cells, the fabric, the test port and the flash, where an operation stores nothing: one lemma an operation. -/

namespace Sys2Proof.Machine

theorem State.memReport_kept {mb : SMap Byte} {s : State} (m kind init bits a : Nat) (hc : s.Kept mb) :
    (State.memReport s m kind init bits a).Kept mb := by
  unfold State.memReport
  with_reducible repeat' first | assumption | apply State.pulseLine_kept | apply State.satInc_kept | apply State.setFlag_kept | apply State.setReg_kept | split

theorem State.pageFix_kept {mb : SMap Byte} {s : State} (a : Nat) (hc : s.Kept mb) : (s.pageFix a).Kept mb :=
  hc

theorem State.pageCheck_kept {mb : SMap Byte} {s : State} (a init : Nat) (hc : s.Kept mb) :
    (State.pageCheck s a init).1.Kept mb := by
  unfold State.pageCheck
  with_reducible repeat' first | assumption | apply keptP_ite | apply State.memReport_kept | apply State.pageFix_kept

theorem execPageCorrection_kept (a : BitVec 32) (port : Fin 16) {mb : SMap Byte} {s : State} (hc : s.Kept mb) :
    keptR mb (execPageCorrection a port s) := by
  unfold execPageCorrection
  with_reducible repeat' first | assumption | apply keptR_next | apply State.pageCheck_kept | split

theorem State.secdedCheck_kept {mb : SMap Byte} {s : State} (a init : Nat) (hc : s.Kept mb) :
    (State.secdedCheck s a init).1.Kept mb := by
  unfold State.secdedCheck
  with_reducible repeat' first | assumption | apply State.memReport_kept | (fail_if_no_progress refine kept_mk ?_ rfl rfl rfl rfl rfl rfl rfl) | split

theorem State.clearInit_kept {mb : SMap Byte} {s : State} (a b edges : Nat) (hc : s.Kept mb) :
    (State.clearInit s a b edges).Kept mb := by
  unfold State.clearInit
  with_reducible repeat' first | assumption | apply State.setFlag_kept | (fail_if_no_progress refine kept_mk ?_ rfl rfl rfl rfl rfl rfl rfl)

theorem execInitClearDone_kept {mb : SMap Byte} {s : State} (hc : s.Kept mb) :
    keptR mb (execInitClearDone s) := by
  unfold execInitClearDone
  with_reducible repeat' first | assumption | apply keptR_next | apply keptR_ite | apply State.advanceTo_kept | apply State.setFlag_kept

theorem State.strengthWrite_kept {mb : SMap Byte} {s : State} (k : Nat) (v : Word) (hc : s.Kept mb) :
    (State.strengthWrite s k v).Kept mb := by
  unfold State.strengthWrite
  with_reducible repeat' first | assumption | intro _ | apply kept_foldl | apply State.cfgFail_kept | apply State.cfgOk_kept | apply State.clearInit_kept | apply State.setReg_kept | dsimp only | split

theorem execEccStrengthWrite_kept (k : Fin 9) (v : BitVec 32) {mb : SMap Byte} {s : State} (hc : s.Kept mb) :
    keptR mb (execEccStrengthWrite k v s) := by
  unfold execEccStrengthWrite
  with_reducible repeat' first | assumption | apply keptR_next | apply State.strengthWrite_kept

theorem State.sparesSync_kept {mb : SMap Byte} {s : State} (hc : s.Kept mb) :
    (State.sparesSync s).Kept mb := by
  unfold State.sparesSync
  with_reducible repeat' first | assumption | apply State.setReg_kept

theorem State.scrubBegin_kept {mb : SMap Byte} {s : State} (hc : s.Kept mb) :
    (State.scrubBegin s).Kept mb := by
  unfold State.scrubBegin
  with_reducible repeat' first | assumption | apply State.setFlag_kept | apply State.setFld_kept | apply State.setReg_kept

theorem State.scrubStart_kept {mb : SMap Byte} {s : State} (v : Word) (hc : s.Kept mb) :
    (State.scrubStart s v).Kept mb := by
  unfold State.scrubStart
  with_reducible repeat' first | assumption | apply State.arbRequest_kept | apply State.cfgFail_kept | apply State.cfgOk_kept | apply State.scrubBegin_kept | apply State.setFlag_kept | apply State.setFld_kept | (apply keptQ_of_eq; assumption) | (fail_if_no_progress refine kept_mk ?_ rfl rfl rfl rfl rfl rfl rfl) | dsimp only | split

theorem execScrubStart_kept (v : BitVec 32) {mb : SMap Byte} {s : State} (hc : s.Kept mb) :
    keptR mb (execScrubStart v s) := by
  unfold execScrubStart
  with_reducible repeat' first | assumption | apply keptR_next | apply State.scrubStart_kept

theorem execClearStart_kept (v : BitVec 32) {mb : SMap Byte} {s : State} (hc : s.Kept mb) :
    keptR mb (execClearStart v s) := by
  unfold execClearStart
  with_reducible repeat' first | assumption | apply keptR_next | apply State.scrubStart_kept

theorem State.scrubFirst_kept {mb : SMap Byte} {s : State} (a : Nat) (hc : s.Kept mb) :
    (State.scrubFirst s a).Kept mb := by
  unfold State.scrubFirst
  with_reducible repeat' first | assumption | apply kept_ite | apply State.setReg_kept

theorem State.scrubPage_kept {mb : SMap Byte} {s : State} (a : Nat) (hc : s.Kept mb) :
    (State.scrubPage s a).Kept mb := by
  unfold State.scrubPage
  with_reducible repeat' first | assumption | intro _ | apply kept_foldl | apply State.memReport_kept | apply State.pageCheck_kept | apply State.satAdd_kept | apply State.scrubFirst_kept | apply State.setReg_kept | dsimp only | split

theorem State.scrubTcm_kept {mb : SMap Byte} {s : State} (a : Nat) (hc : s.Kept mb) :
    (State.scrubTcm s a).Kept mb := by
  unfold State.scrubTcm
  with_reducible repeat' first | assumption | intro _ | apply kept_ite | apply kept_foldl | apply State.satInc_kept | apply State.scrubFirst_kept | apply State.secdedCheck_kept | apply State.setReg_kept

theorem State.scrubRun_kept {mb : SMap Byte} {s : State} (n : Nat) (hc : s.Kept mb) :
    (State.scrubRun s n).Kept mb := by
  unfold State.scrubRun
  with_reducible repeat' first | assumption | intro _ | apply kept_foldl | apply State.scrubPage_kept | apply State.scrubTcm_kept | (fail_if_no_progress refine kept_mk ?_ rfl rfl rfl rfl rfl rfl rfl) | dsimp only | split

theorem State.scrubEnd_kept {mb : SMap Byte} {s : State} (hc : s.Kept mb) :
    (State.scrubEnd s).Kept mb := by
  unfold State.scrubEnd
  with_reducible repeat' first | assumption | apply State.arbRelease_kept | apply State.setFlag_kept | apply State.setFld_kept | (fail_if_no_progress refine kept_mk ?_ rfl rfl rfl rfl rfl rfl rfl) | dsimp only | split

theorem execScrubStop_kept (v : BitVec 32) (pages : Nat) {mb : SMap Byte} {s : State} (hc : s.Kept mb) :
    keptR mb (execScrubStop v pages s) := by
  unfold execScrubStop
  with_reducible repeat' first | assumption | apply keptR_next | apply State.arbRelease_kept | apply State.scrubEnd_kept | apply State.scrubRun_kept | apply State.setFlag_kept | apply State.setFld_kept | (fail_if_no_progress refine kept_mk ?_ rfl rfl rfl rfl rfl rfl rfl) | dsimp only | split

theorem execScrubPassDone_kept {mb : SMap Byte} {s : State} (hc : s.Kept mb) :
    keptR mb (execScrubPassDone s) := by
  unfold execScrubPassDone
  with_reducible repeat' first | assumption | apply keptR_next | apply keptR_ite | apply State.scrubEnd_kept | apply State.scrubRun_kept

theorem State.ledgerCheck_kept {mb : SMap Byte} {s : State} (a : Nat) (hc : s.Kept mb) :
    (State.ledgerCheck s a).1.Kept mb := by
  unfold State.ledgerCheck
  with_reducible repeat' first | assumption | apply State.setFlag_kept | (fail_if_no_progress refine kept_mk ?_ rfl rfl rfl rfl rfl rfl rfl) | split

theorem State.ledgerCheckAll_kept {mb : SMap Byte} {s : State} (a n : Nat) (hc : s.Kept mb) :
    (State.ledgerCheckAll s a n).1.Kept mb := by
  unfold State.ledgerCheckAll
  with_reducible repeat' first | assumption | intro _ | apply keptP_foldl | apply State.ledgerCheck_kept

theorem State.slotMark_kept {mb : SMap Byte} {s : State} (a size : Nat) (len : Nat → Nat) (maxLen : Nat) (hc : s.Kept mb) :
    (State.slotMark s a size len maxLen).1.Kept mb := by
  unfold State.slotMark
  with_reducible repeat' first | assumption | apply keptP_ite | apply State.ledgerCheck_kept | apply State.ledgerCheckAll_kept

theorem State.setRecord_kept {mb : SMap Byte} {s : State} (k : Nat) (hc : s.Kept mb) :
    (State.setRecord s k).1.Kept mb := by
  unfold State.setRecord
  with_reducible repeat' first | assumption | apply State.slotMark_kept

theorem State.msHit_kept {mb : SMap Byte} {s : State} (w td cell : Nat) (hc : s.Kept mb) :
    (State.msHit s w td cell).Kept mb := by
  unfold State.msHit
  with_reducible repeat' first | assumption | apply kept_ite | apply State.memReport_kept | apply State.satInc_kept | apply State.setFlag_kept | apply State.setReg_kept | (fail_if_no_progress refine kept_mk ?_ rfl rfl rfl rfl rfl rfl rfl)

theorem State.msRead_kept {mb : SMap Byte} {s : State} (q : MsReq) (cell : Nat) (hc : s.Kept mb) :
    (State.msRead s q cell).1.Kept mb := by
  unfold State.msRead
  with_reducible repeat' first | assumption | intro _ | apply kept_ite | apply keptP_ite | apply kept_foldl | apply State.msHit_kept | apply State.satInc_kept

theorem State.setCell_kept {mb : SMap Byte} {s : State} (c : Nat) (r : LoopCell) (hc : s.Kept mb) :
    (State.setCell s c r).Kept mb := by
  unfold State.setCell
  with_reducible repeat' first | assumption | (fail_if_no_progress refine kept_mk ?_ rfl rfl rfl rfl rfl rfl rfl)

theorem State.msGrant_kept {mb : SMap Byte} {s : State} (p : Nat) (service : Bool) (hc : s.Kept mb) :
    (State.msGrant s p service).Kept mb := by
  unfold State.msGrant
  with_reducible repeat' first | assumption | apply State.advanceTo_kept | apply State.msRead_kept | apply State.setCell_kept | (fail_if_no_progress refine kept_mk ?_ rfl rfl rfl rfl rfl rfl rfl) | dsimp only | split

theorem execMsRequestGrant_kept (p : Fin 8) (service : Bool) {mb : SMap Byte} {s : State} (hc : s.Kept mb) :
    keptR mb (execMsRequestGrant p service s) := by
  unfold execMsRequestGrant
  with_reducible repeat' first | assumption | apply keptR_next | apply kept_ite | apply State.msGrant_kept

theorem State.msWriteback_kept {mb : SMap Byte} {s : State} (page : Nat) (hc : s.Kept mb) :
    (State.msWriteback s page).Kept mb := by
  unfold State.msWriteback
  with_reducible repeat' first | assumption | apply State.memReport_kept | apply State.pageFix_kept | apply State.setFlag_kept | (fail_if_no_progress refine kept_mk ?_ rfl rfl rfl rfl rfl rfl rfl) | dsimp only | split

theorem execMsPageWriteback_kept (wait : Nat) {mb : SMap Byte} {s : State} (hc : s.Kept mb) :
    keptR mb (execMsPageWriteback wait s) := by
  unfold execMsPageWriteback
  with_reducible repeat' first | assumption | apply keptR_next | apply State.advanceTo_kept | apply State.msWriteback_kept | split

theorem State.msCtrlWrite_kept {mb : SMap Byte} {s : State} (v : Word) (hc : s.Kept mb) :
    (State.msCtrlWrite s v).Kept mb := by
  unfold State.msCtrlWrite
  with_reducible repeat' first | assumption | apply State.unitWrite_kept | apply kept_id

theorem execMapStoreEnable_kept (v : BitVec 32) {mb : SMap Byte} {s : State} (hc : s.Kept mb) :
    keptR mb (execMapStoreEnable v s) := by
  unfold execMapStoreEnable
  with_reducible repeat' first | assumption | intro _ | apply keptR_next | apply State.msCtrlWrite_kept | apply State.whenOn_kept

theorem State.tdJudge_kept {mb : SMap Byte} {s : State} {old : State} (k : Nat) (arming : Bool) (hc : s.Kept mb) (hcold : old.Kept mb) :
    (State.tdJudge s old k arming).Kept mb := by
  unfold State.tdJudge
  with_reducible repeat' first | assumption | apply State.cfgFail_kept | apply State.cfgOk_kept | apply State.setFld_kept | split

theorem State.tdLocked_kept {mb : SMap Byte} {s : State} (k field : Nat) (hc : s.Kept mb) :
    (State.tdLocked s k field).Kept mb := by
  unfold State.tdLocked
  with_reducible repeat' first | assumption | apply State.cfgFail_kept | apply State.setFld_kept

theorem State.shapeWrite_kept {mb : SMap Byte} {s : State} (k : Nat) (v : Word) (hc : s.Kept mb) :
    (State.shapeWrite s k v).Kept mb := by
  unfold State.shapeWrite
  with_reducible repeat' first | assumption | apply State.setReg_kept | apply State.tdJudge_kept | apply State.tdLocked_kept | dsimp only | split

theorem State.baseWrite_kept {mb : SMap Byte} {s : State} (k : Nat) (v : Word) (hc : s.Kept mb) :
    (State.baseWrite s k v).Kept mb := by
  unfold State.baseWrite
  with_reducible repeat' first | assumption | apply kept_ite | apply State.setFld_kept | apply State.setReg_kept | apply State.tdJudge_kept | apply State.tdLocked_kept

theorem State.axisWrite_kept {mb : SMap Byte} {s : State} (k w : Nat) (v : Word) (hc : s.Kept mb) :
    (State.axisWrite s k w v).Kept mb := by
  unfold State.axisWrite
  with_reducible repeat' first | assumption | apply State.store_kept | apply State.tdLocked_kept | dsimp only | split

theorem State.tdWrite_kept {mb : SMap Byte} {s : State} (k w : Nat) (v : Word) (hc : s.Kept mb) :
    (State.tdWrite s k w v).Kept mb := by
  unfold State.tdWrite
  with_reducible repeat' first | assumption | apply State.axisWrite_kept | apply State.baseWrite_kept | apply State.shapeWrite_kept | split

theorem execDescriptorWrite_kept (k : Fin 64) (w : Fin 5) (v : BitVec 32) {mb : SMap Byte} {s : State} (hc : s.Kept mb) :
    keptR mb (execDescriptorWrite k w v s) := by
  unfold execDescriptorWrite
  with_reducible repeat' first | assumption | apply keptR_next | apply State.tdWrite_kept | split

theorem State.tableSwap_kept {mb : SMap Byte} {s : State} (l : Nat) (hc : s.Kept mb) :
    (State.tableSwap s l).Kept mb := by
  unfold State.tableSwap
  with_reducible repeat' first | assumption | intro _ | apply kept_ite | apply kept_foldl | apply State.modInc_kept | apply State.setFlag_kept | apply State.setReg_kept

theorem State.setCellState_kept {mb : SMap Byte} {s : State} (c k : Nat) (hc : s.Kept mb) :
    (State.setCellState s c k).Kept mb := by
  unfold State.setCellState
  with_reducible repeat' first | assumption | apply State.setFld_kept

theorem State.setQueue_kept {mb : SMap Byte} {s : State} (c : Nat) (q : List Waiting) (hc : s.Kept mb) :
    (State.setQueue s c q).Kept mb := by
  unfold State.setQueue
  with_reducible repeat' first | assumption | apply State.setCell_kept | apply State.setFld_kept

theorem State.noteRun_kept {mb : SMap Byte} {s : State} (c : Nat) (hc : s.Kept mb) :
    (State.noteRun s c).Kept mb := by
  unfold State.noteRun
  with_reducible repeat' first | assumption | apply State.setFld_kept | split

theorem State.lcClear_kept {mb : SMap Byte} {s : State} (c : Nat) (hc : s.Kept mb) :
    (State.lcClear s c).Kept mb := by
  unfold State.lcClear
  with_reducible repeat' first | assumption | intro _ | apply kept_foldl | apply State.setCell_kept | apply State.setFld_kept

theorem State.lcStop_kept {mb : SMap Byte} {s : State} (c : Nat) (hc : s.Kept mb) :
    (State.lcStop s c).Kept mb := by
  unfold State.lcStop
  with_reducible repeat' first | assumption | apply State.setCell_kept | apply State.setCellState_kept

theorem State.lcRestart_kept {mb : SMap Byte} {s : State} (c : Nat) (recover : Bool) (hc : s.Kept mb) :
    (State.lcRestart s c recover).Kept mb := by
  unfold State.lcRestart
  with_reducible repeat' first | assumption | apply kept_ite | apply State.lcClear_kept | apply State.lcStop_kept | apply State.satInc_kept | apply State.setCell_kept | apply State.setCellState_kept | apply State.setFlag_kept

theorem State.cellFaultAt_kept {mb : SMap Byte} {s : State} (c cause : Nat) (hc : s.Kept mb) :
    (State.cellFaultAt s c cause).Kept mb := by
  unfold State.cellFaultAt
  with_reducible repeat' first | assumption | apply State.lcRestart_kept | apply State.lcStop_kept | apply State.noteRun_kept | apply State.setFlag_kept | apply State.setFld_kept | apply State.setReg_kept | dsimp only | split

theorem State.lcUp_kept {mb : SMap Byte} {s : State} (c : Nat) (hc : s.Kept mb) :
    (State.lcUp s c).Kept mb := by
  unfold State.lcUp
  with_reducible repeat' first | assumption | apply kept_ite | apply State.setCell_kept | apply State.setCellState_kept

theorem State.lcDown_kept {mb : SMap Byte} {s : State} (c : Nat) (hc : s.Kept mb) :
    (State.lcDown s c).Kept mb := by
  unfold State.lcDown
  with_reducible repeat' first | assumption | apply State.holdReset_kept | apply State.noteRun_kept | apply State.setCell_kept | apply State.setCellState_kept | apply State.setFld_kept | dsimp only | split

theorem State.lcCtrlWrite_kept {mb : SMap Byte} {s : State} (c : Nat) (v : Word) (hc : s.Kept mb) :
    (State.lcCtrlWrite s c v).Kept mb := by
  unfold State.lcCtrlWrite
  with_reducible repeat' first | assumption | intro _ | apply State.cfgFail_kept | apply State.lcDown_kept | apply State.lcUp_kept | apply State.unitWrite_kept | apply kept_id | dsimp only | split

theorem execCellEnable_kept (n : Fin 52) (v : BitVec 32) {mb : SMap Byte} {s : State} (hc : s.Kept mb) :
    keptR mb (execCellEnable n v s) := by
  unfold execCellEnable
  with_reducible repeat' first | assumption | intro _ | apply keptR_next | apply State.lcCtrlWrite_kept | apply State.whenOn_kept

theorem execCellDisable_kept (n : Fin 52) (v : BitVec 32) {mb : SMap Byte} {s : State} (hc : s.Kept mb) :
    keptR mb (execCellDisable n v s) := by
  unfold execCellDisable
  with_reducible repeat' first | assumption | apply keptR_next | apply State.lcCtrlWrite_kept | split

theorem State.lcStartRestart_kept {mb : SMap Byte} {s : State} (c : Nat) (hc : s.Kept mb) :
    (State.lcStartRestart s c).Kept mb := by
  unfold State.lcStartRestart
  with_reducible repeat' first | assumption | apply State.setCell_kept

theorem execRestartHandlerStart_kept (n : Fin 52) {mb : SMap Byte} {s : State} (hc : s.Kept mb) :
    keptR mb (execRestartHandlerStart n s) := by
  unfold execRestartHandlerStart
  with_reducible repeat' first | assumption | apply keptR_next | apply State.advanceTo_kept | apply State.lcStartRestart_kept | apply State.setCellState_kept | dsimp only | split

theorem State.cellDeliver_kept {mb : SMap Byte} {s : State} (l : Nat) (hc : s.Kept mb) :
    (State.cellDeliver s l).Kept mb := by
  unfold State.cellDeliver
  with_reducible repeat' first | assumption | intro _ | apply kept_foldl | apply State.satInc_kept | apply State.setFlag_kept | apply State.setQueue_kept | dsimp only | split

theorem execHandlerStart_kept (n : Fin 52) {mb : SMap Byte} {s : State} (hc : s.Kept mb) :
    keptR mb (execHandlerStart n s) := by
  unfold execHandlerStart
  with_reducible repeat' first | assumption | apply keptR_next | apply State.advanceTo_kept | apply State.setCell_kept | apply State.setCellState_kept | apply State.setQueue_kept | dsimp only | split

theorem execHandlerBudgetFault_kept (n : Fin 52) {mb : SMap Byte} {s : State} (hc : s.Kept mb) :
    keptR mb (execHandlerBudgetFault n s) := by
  unfold execHandlerBudgetFault
  with_reducible repeat' first | assumption | apply keptR_next | apply State.advanceTo_kept | apply State.cellFaultAt_kept | dsimp only | split

theorem execCellRestartCommand_kept (n : Fin 52) {mb : SMap Byte} {s : State} (hc : s.Kept mb) :
    keptR mb (execCellRestartCommand n s) := by
  unfold execCellRestartCommand
  with_reducible repeat' first | assumption | apply keptR_next | apply State.holdReset_kept | apply State.lcRestart_kept | apply State.noteRun_kept | dsimp only | split

theorem State.setDma_kept {mb : SMap Byte} {s : State} (k : Nat) (r : DmaChan) (hc : s.Kept mb) :
    (State.setDma s k r).Kept mb := by
  unfold State.setDma
  with_reducible repeat' first | assumption | (fail_if_no_progress refine kept_mk ?_ rfl rfl rfl rfl rfl rfl rfl)

theorem State.dmaState_kept {mb : SMap Byte} {s : State} (k v : Nat) (hc : s.Kept mb) :
    (State.dmaState s k v).Kept mb := by
  unfold State.dmaState
  with_reducible repeat' first | assumption | apply State.setFld_kept

theorem State.drqDeliver_kept {mb : SMap Byte} {s : State} (l : Nat) (hc : s.Kept mb) :
    (State.drqDeliver s l).Kept mb := by
  unfold State.drqDeliver
  with_reducible repeat' first | assumption | intro _ | apply kept_foldl | apply State.satInc_kept | apply State.setDma_kept | apply State.setFlag_kept | dsimp only | split

theorem State.dmaStart_kept {mb : SMap Byte} {s : State} (k : Nat) (v : Word) (hc : s.Kept mb) :
    (State.dmaStart s k v).Kept mb := by
  unfold State.dmaStart
  with_reducible repeat' first | assumption | intro _ | apply kept_ite | apply State.dmaState_kept | apply State.setDma_kept | apply State.setFlag_kept | apply State.unitWrite_kept | apply kept_id

theorem execDmaEnable_kept (k : Fin 32) (v : BitVec 32) {mb : SMap Byte} {s : State} (hc : s.Kept mb) :
    keptR mb (execDmaEnable k v s) := by
  unfold execDmaEnable
  with_reducible repeat' first | assumption | intro _ | apply keptR_next | apply State.dmaStart_kept | apply State.whenOn_kept

theorem State.deliver_kept {mb : SMap Byte} {s : State} (ssiLow : List (Fin 16)) (d : Nat) (hc : s.Kept mb) :
    (State.deliver s ssiLow d).Kept mb := by
  unfold State.deliver
  with_reducible repeat' first | assumption | apply State.cellDeliver_kept | apply State.drqDeliver_kept | apply State.pulseLine_kept | apply State.pwmSync_kept | apply State.setPwm_kept | apply State.ssiStart_kept | apply State.tableSwap_kept | (fail_if_no_progress refine kept_mk ?_ rfl rfl rfl rfl rfl rfl rfl) | dsimp only | split

theorem State.deliverAll_kept {mb : SMap Byte} {s : State} (ssiLow : List (Fin 16)) (now' : List Flight) (hc : s.Kept mb) :
    (State.deliverAll s ssiLow now').Kept mb := by
  unfold State.deliverAll
  with_reducible repeat' first | assumption | intro _ | apply kept_ite | apply kept_foldl | apply State.deliver_kept | apply State.setFlag_kept | apply State.setFld_kept | apply State.tracePush_kept | apply State.trigger_kept

theorem execEventDelivery_kept (ssiLow : List (Fin 16)) {mb : SMap Byte} {s : State} (hc : s.Kept mb) :
    keptR mb (execEventDelivery ssiLow s) := by
  unfold execEventDelivery
  with_reducible repeat' first | assumption | apply keptR_next | apply State.advanceTo_kept | apply State.deliverAll_kept | (fail_if_no_progress refine kept_mk ?_ rfl rfl rfl rfl rfl rfl rfl) | split

theorem State.portApply_kept {mb : SMap Byte} {s : State} (c p : Nat) (v : Word) (hc : s.Kept mb) :
    (State.portApply s c p v).Kept mb := by
  unfold State.portApply
  with_reducible repeat' first | assumption | apply State.cmpRefWrite_kept | apply State.emuposApply_kept | apply State.posWrite_kept | apply State.pwmCommitWrite_kept | apply State.pwmMemberWrite_kept | apply State.pwmPhaseWrite_kept | apply State.raiseNow_kept | dsimp only | split

theorem State.portLand_kept {mb : SMap Byte} {s : State} (all : List (Nat × PortWrite)) (c : Nat) (w : PortWrite) (hc : s.Kept mb) :
    (State.portLand s all c w).Kept mb := by
  unfold State.portLand
  with_reducible repeat' first | assumption | apply State.filterCount_kept | apply State.portApply_kept | apply State.setFlag_kept | split

theorem execFabricWriteLanding_kept {mb : SMap Byte} {s : State} (hc : s.Kept mb) :
    keptR mb (execFabricWriteLanding s) := by
  unfold execFabricWriteLanding
  with_reducible repeat' first | assumption | intro _ | apply keptR_next | apply kept_foldl | apply State.advanceTo_kept | apply State.portLand_kept | apply State.setCell_kept | apply State.settleSwitch_kept | split

theorem State.pertSync_kept {mb : SMap Byte} {s : State} (hc : s.Kept mb) :
    (State.pertSync s).Kept mb := by
  unfold State.pertSync
  with_reducible repeat' first | assumption | apply State.setFlag_kept

theorem State.pertJudge_kept {mb : SMap Byte} {s : State} (fails : List CfgFail) (f : State → State) (hc : s.Kept mb) (hcf : ∀ t : State, t.Kept mb → (f t).Kept mb) :
    (State.pertJudge s fails f).Kept mb := by
  unfold State.pertJudge
  with_reducible repeat' first | assumption | apply hcf | apply State.cfgFail_kept | apply State.cfgOk_kept | apply State.pertSync_kept | split

theorem State.pertWrite_kept {mb : SMap Byte} {s : State} (r : PertReg) (v : Word) (hc : s.Kept mb) :
    (State.pertWrite s r v).Kept mb := by
  unfold State.pertWrite
  with_reducible repeat' first | assumption | intro _ | apply kept_ite | apply State.pertJudge_kept | apply State.pertSync_kept | apply State.setReg_kept

theorem execPerturbationWrite_kept (r : PertReg) (v : BitVec 32) {mb : SMap Byte} {s : State} (hc : s.Kept mb) :
    keptR mb (execPerturbationWrite r v s) := by
  unfold execPerturbationWrite
  with_reducible repeat' first | assumption | apply keptR_next | apply State.pertWrite_kept

theorem State.haltEnd_kept {mb : SMap Byte} {s : State} (hc : s.Kept mb) :
    (State.haltEnd s).Kept mb := by
  unfold State.haltEnd
  with_reducible repeat' first | assumption | apply kept_ite | apply kept_foldl | apply State.pwmResume_kept | apply State.setFlag_kept

theorem State.pertClear_kept {mb : SMap Byte} {s : State} (hc : s.Kept mb) :
    (State.pertClear s).Kept mb := by
  unfold State.pertClear
  with_reducible repeat' first | assumption | intro _ | apply kept_foldl | apply State.haltEnd_kept | apply State.pertSync_kept | apply State.setReg_kept | (fail_if_no_progress refine kept_mk ?_ rfl rfl rfl rfl rfl rfl rfl)

theorem State.tpCtrlWrite_kept {mb : SMap Byte} {s : State} (v : Word) (hc : s.Kept mb) :
    (State.tpCtrlWrite s v).Kept mb := by
  unfold State.tpCtrlWrite
  with_reducible repeat' first | assumption | apply kept_ite | apply State.pertClear_kept | apply State.setFld_kept

theorem execClrall_kept (v : BitVec 32) {mb : SMap Byte} {s : State} (hc : s.Kept mb) :
    keptR mb (execClrall v s) := by
  unfold execClrall
  with_reducible repeat' first | assumption | apply keptR_next | apply State.tpCtrlWrite_kept

theorem State.dueRestart_kept {mb : SMap Byte} {s : State} (p : Nat) (hc : s.Kept mb) :
    (State.dueRestart s p).Kept mb := by
  unfold State.dueRestart
  with_reducible repeat' first | assumption | (fail_if_no_progress refine kept_mk ?_ rfl rfl rfl rfl rfl rfl rfl)

theorem State.debugPair_kept {mb : SMap Byte} {s : State} (p : Nat) (v : Word) (hc : s.Kept mb) :
    (State.debugPair s p v).Kept mb := by
  unfold State.debugPair
  with_reducible repeat' first | assumption | apply kept_ite | apply State.dueRestart_kept | apply State.setFlag_kept | (fail_if_no_progress refine kept_mk ?_ rfl rfl rfl rfl rfl rfl rfl)

theorem State.dbgWrite_kept {mb : SMap Byte} {s : State} (v : Word) (hc : s.Kept mb) :
    (State.dbgWrite s v).Kept mb := by
  unfold State.dbgWrite
  with_reducible repeat' first | assumption | intro _ | apply kept_ite | apply kept_foldl | apply State.debugPair_kept | apply State.haltEnd_kept | apply State.pertJudge_kept | apply State.pertSync_kept | apply State.pwmHalt_kept | apply State.pwmResume_kept | apply State.setFlag_kept | apply State.setFld_kept

theorem execControlPlaneHalt_kept (v : BitVec 32) {mb : SMap Byte} {s : State} (hc : s.Kept mb) :
    keptR mb (execControlPlaneHalt v s) := by
  unfold execControlPlaneHalt
  with_reducible repeat' first | assumption | apply keptR_next | apply State.dbgWrite_kept

theorem execControlPlaneHaltEnd_kept (v : BitVec 32) {mb : SMap Byte} {s : State} (hc : s.Kept mb) :
    keptR mb (execControlPlaneHaltEnd v s) := by
  unfold execControlPlaneHaltEnd
  with_reducible repeat' first | assumption | apply keptR_next | apply State.dbgWrite_kept

theorem execDebugHalt_kept (p : Fin 2) {mb : SMap Byte} {s : State} (hc : s.Kept mb) :
    keptR mb (execDebugHalt p s) := by
  unfold execDebugHalt
  with_reducible repeat' first | assumption | apply keptR_next | apply State.debugPair_kept

theorem execDebugStep_kept (p : Fin 2) {mb : SMap Byte} {s : State} (hc : s.Kept mb) :
    keptR mb (execDebugStep p s) := by
  unfold execDebugStep
  with_reducible repeat' first | assumption | apply keptR_next | apply State.debugPair_kept | split

theorem execDebugResume_kept (p : Fin 2) {mb : SMap Byte} {s : State} (hc : s.Kept mb) :
    keptR mb (execDebugResume p s) := by
  unfold execDebugResume
  with_reducible repeat' first | assumption | apply keptR_next | apply State.debugPair_kept

theorem State.mismArm_kept {mb : SMap Byte} {s : State} (p : Nat) (hc : s.Kept mb) :
    (State.mismArm s p).Kept mb := by
  unfold State.mismArm
  with_reducible repeat' first | assumption | intro _ | apply State.pertJudge_kept | (fail_if_no_progress refine kept_mk ?_ rfl rfl rfl rfl rfl rfl rfl)

theorem execMismP0_kept {mb : SMap Byte} {s : State} (hc : s.Kept mb) :
    keptR mb (execMismP0 s) := by
  unfold execMismP0
  with_reducible repeat' first | assumption | apply keptR_next | apply State.mismArm_kept

theorem execMismP1_kept {mb : SMap Byte} {s : State} (hc : s.Kept mb) :
    keptR mb (execMismP1 s) := by
  unfold execMismP1
  with_reducible repeat' first | assumption | apply keptR_next | apply State.mismArm_kept

theorem State.mismCellArm_kept {mb : SMap Byte} {s : State} (c : Nat) (hc : s.Kept mb) :
    (State.mismCellArm s c).Kept mb := by
  unfold State.mismCellArm
  with_reducible repeat' first | assumption | intro _ | apply State.pertJudge_kept | (fail_if_no_progress refine kept_mk ?_ rfl rfl rfl rfl rfl rfl rfl)

theorem execMismCell_kept (cell : BitVec 6) {mb : SMap Byte} {s : State} (hc : s.Kept mb) :
    keptR mb (execMismCell cell s) := by
  unfold execMismCell
  with_reducible repeat' first | assumption | apply keptR_next | apply State.mismCellArm_kept

theorem State.flipBit_kept {mb : SMap Byte} {s : State} (a i : Nat) (hc : s.Kept mb) : (s.flipBit a i).Kept mb :=
  hc

theorem State.openBit_kept {mb : SMap Byte} {s : State} (hc : s.Kept mb) :
    (State.openBit s).2.Kept mb := by
  unfold State.openBit
  with_reducible repeat' first | assumption | apply State.tick_kept

theorem State.flipOpen_kept {mb : SMap Byte} {s : State} (a w n : Nat) (hc : s.Kept mb) :
    (State.flipOpen s a w n).Kept mb := by
  unfold State.flipOpen
  with_reducible repeat' first | assumption | apply kept_ite | apply State.flipBit_kept | apply State.openBit_kept

theorem State.injectEcc_kept {mb : SMap Byte} {s : State} (n : Nat) (hc : s.Kept mb) :
    (State.injectEcc s n).Kept mb := by
  unfold State.injectEcc
  with_reducible repeat' first | assumption | intro _ | apply kept_ite | apply kept_foldl | apply State.flipOpen_kept | apply State.pertJudge_kept

theorem execEcc1_kept {mb : SMap Byte} {s : State} (hc : s.Kept mb) :
    keptR mb (execEcc1 s) := by
  unfold execEcc1
  with_reducible repeat' first | assumption | apply keptR_next | apply State.injectEcc_kept

theorem execEcc2_kept {mb : SMap Byte} {s : State} (hc : s.Kept mb) :
    keptR mb (execEcc2 s) := by
  unfold execEcc2
  with_reducible repeat' first | assumption | apply keptR_next | apply State.injectEcc_kept

theorem execEccpage_kept {mb : SMap Byte} {s : State} (hc : s.Kept mb) :
    keptR mb (execEccpage s) := by
  unfold execEccpage
  with_reducible repeat' first | assumption | apply keptR_next | apply State.injectEcc_kept

theorem State.tapTo_kept {mb : SMap Byte} {s : State} (ir : TapIr) (dr : Nat) (hc : s.Kept mb) :
    (State.tapTo s ir dr).Kept mb := by
  unfold State.tapTo
  with_reducible repeat' first | assumption | (fail_if_no_progress refine kept_mk ?_ rfl rfl rfl rfl rfl rfl rfl)

theorem execBypass_kept {mb : SMap Byte} {s : State} (hc : s.Kept mb) :
    keptR mb (execBypass s) := by
  unfold execBypass
  with_reducible repeat' first | assumption | apply keptR_next | apply State.tapTo_kept

theorem execSamplePreload_kept (sampled preload : Nat) {mb : SMap Byte} {s : State} (hc : s.Kept mb) :
    keptR mb (execSamplePreload sampled preload s) := by
  unfold execSamplePreload
  with_reducible repeat' first | assumption | apply keptR_next | apply State.tapTo_kept | (fail_if_no_progress refine kept_mk ?_ rfl rfl rfl rfl rfl rfl rfl)

theorem execExtest_kept {mb : SMap Byte} {s : State} (hc : s.Kept mb) :
    keptR mb (execExtest s) := by
  unfold execExtest
  with_reducible repeat' first | assumption | apply keptR_next | apply keptR_ite | apply State.setFlag_kept | apply State.tapTo_kept | (fail_if_no_progress refine kept_mk ?_ rfl rfl rfl rfl rfl rfl rfl)

theorem execIdcode_kept {mb : SMap Byte} {s : State} (hc : s.Kept mb) :
    keptR mb (execIdcode s) := by
  unfold execIdcode
  with_reducible repeat' first | assumption | apply keptR_next | apply State.tapTo_kept

theorem execDbgacc_kept {mb : SMap Byte} {s : State} (hc : s.Kept mb) :
    keptR mb (execDbgacc s) := by
  unfold execDbgacc
  with_reducible repeat' first | assumption | apply keptR_next | apply State.tapTo_kept

theorem execTapReset_kept {mb : SMap Byte} {s : State} (hc : s.Kept mb) :
    keptR mb (execTapReset s) := by
  unfold execTapReset
  with_reducible repeat' first | assumption | apply keptR_next | (fail_if_no_progress refine kept_mk ?_ rfl rfl rfl rfl rfl rfl rfl)

theorem State.setBank_kept {mb : SMap Byte} {s : State} (b : Nat) (r : FlashBank) (hc : s.Kept mb) :
    (State.setBank s b r).Kept mb := by
  unfold State.setBank
  with_reducible repeat' first | assumption | (fail_if_no_progress refine kept_mk ?_ rfl rfl rfl rfl rfl rfl rfl)

theorem State.flashCmd_kept {mb : SMap Byte} {s : State} (v : Word) (op : Nat) (f : State → Nat → Nat → State) (hc : s.Kept mb) (hcf : ∀ (t : State) (a b : Nat), t.Kept mb → (f t a b).Kept mb) :
    (State.flashCmd s v op f).Kept mb := by
  unfold State.flashCmd
  with_reducible repeat' first | assumption | apply hcf | apply State.cfgFail_kept | apply State.cfgOk_kept | dsimp only | split

theorem execFlashSuspend_kept (v : BitVec 32) {mb : SMap Byte} {s : State} (hc : s.Kept mb) :
    keptR mb (execFlashSuspend v s) := by
  unfold execFlashSuspend
  with_reducible repeat' first | assumption | intro _ | apply keptR_next | apply State.flashCmd_kept | apply State.setBank_kept

theorem State.xoWrite_kept {mb : SMap Byte} {s : State} (k : Nat) (v : Word) (hc : s.Kept mb) :
    (State.xoWrite s k v).Kept mb := by
  unfold State.xoWrite
  with_reducible repeat' first | assumption | apply State.cfgFail_kept | apply State.cfgOk_kept | apply State.setReg_kept | split

theorem execFcXoWrite_kept (k : Fin 16) (v : BitVec 32) {mb : SMap Byte} {s : State} (hc : s.Kept mb) :
    keptR mb (execFcXoWrite k v s) := by
  unfold execFcXoWrite
  with_reducible repeat' first | assumption | apply keptR_next | apply State.xoWrite_kept

theorem State.ledgerCommit_kept {mb : SMap Byte} {s : State} (v : Word) (hc : s.Kept mb) :
    (State.ledgerCommit s v).Kept mb := by
  unfold State.ledgerCommit
  with_reducible repeat' first | assumption | apply State.cfgFail_kept | apply State.cfgOk_kept | apply State.setFlag_kept | apply State.setRecord_kept | (fail_if_no_progress refine kept_mk ?_ rfl rfl rfl rfl rfl rfl rfl) | dsimp only | split

theorem execLedgerCommit_kept (v : BitVec 32) {mb : SMap Byte} {s : State} (hc : s.Kept mb) :
    keptR mb (execLedgerCommit v s) := by
  unfold execLedgerCommit
  with_reducible repeat' first | assumption | apply keptR_next | apply State.ledgerCommit_kept

theorem State.ledgerRead_kept {mb : SMap Byte} {s : State} (v : Word) (hc : s.Kept mb) :
    (State.ledgerRead s v).Kept mb := by
  unfold State.ledgerRead
  with_reducible repeat' first | assumption | apply State.cfgFail_kept | apply State.cfgOk_kept | apply State.setFlag_kept | apply State.setRecord_kept | (apply keptP_of_eq; assumption) | (fail_if_no_progress refine kept_mk ?_ rfl rfl rfl rfl rfl rfl rfl) | dsimp only | split

theorem execLedgerRead_kept (v : BitVec 32) {mb : SMap Byte} {s : State} (hc : s.Kept mb) :
    keptR mb (execLedgerRead v s) := by
  unfold execLedgerRead
  with_reducible repeat' first | assumption | apply keptR_next | apply State.ledgerRead_kept

end Sys2Proof.Machine
end

