-- ==== Sys2Proof/Laws/KeptManage.lean ====
section
/-! SUPPORT. The bytes of memory are left as they were by redundancy, pins, links, power, images, management and boot, where an operation stores nothing: one lemma an operation. -/

namespace Sys2Proof.Machine

theorem State.rdSync_kept {mb : SMap Byte} {s : State} (p : Nat) (hc : s.Kept mb) :
    (State.rdSync s p).Kept mb := by
  unfold State.rdSync
  with_reducible repeat' first | assumption | apply State.setReg_kept

theorem State.setCore_kept {mb : SMap Byte} {s : State} (k : Nat) (c : Core) (hc : s.Kept mb) :
    (State.setCore s k c).Kept mb := by
  unfold State.setCore
  with_reducible repeat' first | assumption | apply State.rdSync_kept | (fail_if_no_progress refine kept_mk ?_ rfl rfl rfl rfl rfl rfl rfl)

theorem State.onCore_kept {mb : SMap Byte} {s : State} (k : Nat) (f : Core → Core) (hc : s.Kept mb) :
    (State.onCore s k f).Kept mb := by
  unfold State.onCore
  with_reducible repeat' first | assumption | apply State.setCore_kept

theorem State.commitCkpt_kept {mb : SMap Byte} {s : State} (k : Nat) (hc : s.Kept mb) :
    (State.commitCkpt s k).Kept mb := by
  unfold State.commitCkpt
  with_reducible repeat' first | assumption | apply kept_ite | apply State.setCore_kept | apply State.setReg_kept | (fail_if_no_progress refine kept_mk ?_ rfl rfl rfl rfl rfl rfl rfl)

theorem State.startCore_kept {mb : SMap Byte} {s : State} (k : Nat) (hc : s.Kept mb) :
    (State.startCore s k).Kept mb := by
  unfold State.startCore
  with_reducible repeat' first | assumption | apply State.commitCkpt_kept | apply State.setCore_kept | (fail_if_no_progress refine kept_mk ?_ rfl rfl rfl rfl rfl rfl rfl)

theorem State.coldRestart_kept {mb : SMap Byte} {s : State} (k : Nat) (hc : s.Kept mb) :
    (State.coldRestart s k).Kept mb := by
  unfold State.coldRestart
  with_reducible repeat' first | assumption | apply State.onCore_kept | apply State.satInc_kept | apply State.startCore_kept

theorem State.rollResume_kept {mb : SMap Byte} {s : State} (k : Nat) (hc : s.Kept mb) :
    (State.rollResume s k).Kept mb := by
  unfold State.rollResume
  with_reducible repeat' first | assumption | apply State.coldRestart_kept | apply State.onCore_kept | apply State.satInc_kept | (fail_if_no_progress refine kept_mk ?_ rfl rfl rfl rfl rfl rfl rfl) | split

theorem execRollbackResume_kept (n : Fin 4) {mb : SMap Byte} {s : State} (hc : s.Kept mb) :
    keptR mb (execRollbackResume n s) := by
  unfold execRollbackResume
  with_reducible repeat' first | assumption | apply keptR_next | apply State.advanceTo_kept | apply State.rollResume_kept | split

theorem execCkptDueTimeout_kept (n : Fin 4) {mb : SMap Byte} {s : State} (hc : s.Kept mb) :
    keptR mb (execCkptDueTimeout n s) := by
  unfold execCkptDueTimeout
  with_reducible repeat' first | assumption | apply keptR_next | apply State.advanceTo_kept | apply State.coldRestart_kept | split

theorem State.conflictSync_kept {mb : SMap Byte} {s : State} (hc : s.Kept mb) :
    (State.conflictSync s).Kept mb := by
  unfold State.conflictSync
  with_reducible repeat' first | assumption | apply State.setLine_kept | apply State.setReg_kept | split

theorem State.pinWrite_kept {mb : SMap Byte} {s : State} (k : Nat) (v : Word) (hc : s.Kept mb) :
    (State.pinWrite s k v).Kept mb := by
  unfold State.pinWrite
  with_reducible repeat' first | assumption | apply State.cfgFail_kept | apply State.cfgOk_kept | apply State.conflictSync_kept | apply State.setReg_kept | (fail_if_no_progress refine kept_mk ?_ rfl rfl rfl rfl rfl rfl rfl) | split

theorem execPinConfigurationWrite_kept (k : Fin 256) (v : BitVec 32) {mb : SMap Byte} {s : State} (hc : s.Kept mb) :
    keptR mb (execPinConfigurationWrite k v s) := by
  unfold execPinConfigurationWrite
  with_reducible repeat' first | assumption | apply keptR_next | apply State.pinWrite_kept

theorem execGpioWrite_kept (k : Fin 256) (oe dout : Bool) {mb : SMap Byte} {s : State} (hc : s.Kept mb) :
    keptR mb (execGpioWrite k oe dout s) := by
  unfold execGpioWrite
  with_reducible repeat' first | assumption | apply keptR_next | apply State.pinWrite_kept

theorem State.pintSync_kept {mb : SMap Byte} {s : State} (n : Nat) (hc : s.Kept mb) :
    (State.pintSync s n).Kept mb := by
  unfold State.pintSync
  with_reducible repeat' first | assumption | apply State.setFlag_kept | apply State.setLine_kept

theorem State.pintSeen_kept {mb : SMap Byte} {s : State} (n : Nat) (level : Bool) (hc : s.Kept mb) : (State.pintSeen s n level).Kept mb := by
  unfold State.pintSeen
  with_reducible repeat' first | assumption | (fail_if_no_progress refine kept_mk ?_ rfl rfl rfl rfl rfl rfl rfl)

theorem State.pintOff_kept {mb : SMap Byte} {s : State} (n : Nat) (hc : s.Kept mb) : (State.pintOff s n).Kept mb := by
  unfold State.pintOff
  with_reducible repeat' first | assumption | apply State.setFlag_kept | (fail_if_no_progress refine kept_mk ?_ rfl rfl rfl rfl rfl rfl rfl)

theorem State.pintWrite_kept {mb : SMap Byte} {s : State} (n : Nat) (v : Word) (level : Bool) (hc : s.Kept mb) :
    (State.pintWrite s n v level).Kept mb := by
  unfold State.pintWrite
  with_reducible repeat' first | assumption | apply State.cfgFail_kept | apply State.cfgOk_kept | apply State.pintSync_kept | apply State.pintSeen_kept | apply State.pintOff_kept | apply State.setFlag_kept | apply State.setReg_kept | dsimp only | split

theorem execPintEnable_kept (n : Fin 16) (v : BitVec 32) (level : Bool) {mb : SMap Byte} {s : State} (hc : s.Kept mb) :
    keptR mb (execPintEnable n v level s) := by
  unfold execPintEnable
  with_reducible repeat' first | assumption | apply keptR_next | apply State.pintWrite_kept

theorem execPinInterruptEdge_kept (n : Fin 16) (level : Bool) {mb : SMap Byte} {s : State} (hc : s.Kept mb) :
    keptR mb (execPinInterruptEdge n level s) := by
  unfold execPinInterruptEdge
  with_reducible repeat' first | assumption | apply keptR_next | apply kept_ite | apply keptR_ite | apply State.pintSync_kept | apply State.pintSeen_kept | apply State.setFlag_kept

theorem State.hpLine_kept {mb : SMap Byte} {s : State} (hc : s.Kept mb) :
    (State.hpLine s).Kept mb := by
  unfold State.hpLine
  with_reducible repeat' first | assumption | apply State.setLine_kept

theorem State.hpFlag_kept {mb : SMap Byte} {s : State} (b : Nat) (hc : s.Kept mb) :
    (State.hpFlag s b).Kept mb := by
  unfold State.hpFlag
  with_reducible repeat' first | assumption | apply State.hpLine_kept | apply State.setFlag_kept

theorem State.hpCtrlWrite_kept {mb : SMap Byte} {s : State} (v : Word) (hc : s.Kept mb) :
    (State.hpCtrlWrite s v).Kept mb := by
  unfold State.hpCtrlWrite
  with_reducible repeat' first | assumption | intro _ | apply State.setFlag_kept | apply State.unitWrite_kept | apply State.whenOn_kept | apply kept_id

theorem execHostPortEnable_kept (v : BitVec 32) {mb : SMap Byte} {s : State} (hc : s.Kept mb) :
    keptR mb (execHostPortEnable v s) := by
  unfold execHostPortEnable
  with_reducible repeat' first | assumption | apply keptR_next | apply State.hpCtrlWrite_kept

theorem State.hpWinWrite_kept {mb : SMap Byte} {s : State} (n : Nat) (v : Word) (mgmt : Bool) (hc : s.Kept mb) :
    (State.hpWinWrite s n v mgmt).Kept mb := by
  unfold State.hpWinWrite
  with_reducible repeat' first | assumption | apply State.cfgFail_kept | apply State.cfgOk_kept | apply State.setFlag_kept | apply State.setReg_kept | dsimp only | split

theorem execHostWindowWrite_kept (n : Fin 256) (v : BitVec 32) (mgmt : Bool) {mb : SMap Byte} {s : State} (hc : s.Kept mb) :
    keptR mb (execHostWindowWrite n v mgmt s) := by
  unfold execHostWindowWrite
  with_reducible repeat' first | assumption | apply keptR_next | apply State.hpWinWrite_kept | split

theorem State.resync_kept {mb : SMap Byte} {s : State} (hc : s.Kept mb) :
    (State.resync s).Kept mb := by
  unfold State.resync
  with_reducible repeat' first | assumption | apply State.setFlag_kept

theorem execResync_kept {mb : SMap Byte} {s : State} (hc : s.Kept mb) :
    keptR mb (execResync s) := by
  unfold execResync
  with_reducible repeat' first | assumption | apply keptR_next | apply State.resync_kept | split

theorem State.setMac_kept {mb : SMap Byte} {s : State} (m : Nat) (r : Mac) (hc : s.Kept mb) :
    (State.setMac s m r).Kept mb := by
  unfold State.setMac
  with_reducible repeat' first | assumption | (fail_if_no_progress refine kept_mk ?_ rfl rfl rfl rfl rfl rfl rfl)

theorem State.macSync_kept {mb : SMap Byte} {s : State} (m : Nat) (hc : s.Kept mb) :
    (State.macSync s m).Kept mb := by
  unfold State.macSync
  with_reducible repeat' first | assumption | apply State.setMac_kept

theorem State.tadjLoWrite_kept {mb : SMap Byte} {s : State} (m : Nat) (v : Word) (hc : s.Kept mb) :
    (State.tadjLoWrite s m v).Kept mb := by
  unfold State.tadjLoWrite
  with_reducible repeat' first | assumption | apply State.setMac_kept

theorem State.tadjHiWrite_kept {mb : SMap Byte} {s : State} (m : Nat) (v : Word) (hc : s.Kept mb) :
    (State.tadjHiWrite s m v).Kept mb := by
  unfold State.tadjHiWrite
  with_reducible repeat' first | assumption | apply State.macSync_kept | apply State.setMac_kept

theorem execMacTimeAdjust_kept (m : Fin 2) (lo hi : BitVec 32) {mb : SMap Byte} {s : State} (hc : s.Kept mb) :
    keptR mb (execMacTimeAdjust m lo hi s) := by
  unfold execMacTimeAdjust
  with_reducible repeat' first | assumption | apply keptR_next | apply kept_ite | apply State.tadjHiWrite_kept | apply State.tadjLoWrite_kept

theorem execMacTargetTime_kept (m : Fin 2) (t : Fin 4) {mb : SMap Byte} {s : State} (hc : s.Kept mb) :
    keptR mb (execMacTargetTime m t s) := by
  unfold execMacTargetTime
  with_reducible repeat' first | assumption | apply keptR_next | apply State.advanceTo_kept | apply State.raiseNow_kept | apply State.setMac_kept | split

theorem execTargetTimePulseEnd_kept (m : Fin 2) (t : Fin 4) {mb : SMap Byte} {s : State} (hc : s.Kept mb) :
    keptR mb (execTargetTimePulseEnd m t s) := by
  unfold execTargetTimePulseEnd
  with_reducible repeat' first | assumption | apply keptR_next | apply State.advanceTo_kept | apply State.setMac_kept | split

theorem execFrameReceive_kept (m : Fin 2) (len : Nat) (event bad : Bool) {mb : SMap Byte} {s : State} (hc : s.Kept mb) :
    keptR mb (execFrameReceive m len event bad s) := by
  unfold execFrameReceive
  with_reducible repeat' first | assumption | apply keptR_next | apply keptR_ite | apply State.pulseLine_kept | apply State.setMac_kept

theorem execFrameTransmit_kept (m : Fin 2) (_queue : Fin 8) (event : Bool) {mb : SMap Byte} {s : State} (hc : s.Kept mb) :
    keptR mb (execFrameTransmit m _queue event s) := by
  unfold execFrameTransmit
  with_reducible repeat' first | assumption | apply keptR_next | apply keptR_ite | apply State.pulseLine_kept | apply State.setMac_kept

theorem execCanFrameReceive_kept (n : Fin 6) (f : CanFormat) (len : Nat) {mb : SMap Byte} {s : State} (hc : s.Kept mb) :
    keptR mb (execCanFrameReceive n f len s) := by
  unfold execCanFrameReceive
  with_reducible repeat' first | assumption | apply keptR_next | apply State.pulseLine_kept | (fail_if_no_progress refine kept_mk ?_ rfl rfl rfl rfl rfl rfl rfl) | split

theorem execCanFrameTransmit_kept (n : Fin 6) (error : Bool) {mb : SMap Byte} {s : State} (hc : s.Kept mb) :
    keptR mb (execCanFrameTransmit n error s) := by
  unfold execCanFrameTransmit
  with_reducible repeat' first | assumption | apply keptR_next | apply State.pulseLine_kept | split

theorem execSerialPortTransfer_kept (u : SerialUnit) {mb : SMap Byte} {s : State} (hc : s.Kept mb) :
    keptR mb (execSerialPortTransfer u s) := by
  unfold execSerialPortTransfer
  with_reducible repeat' first | assumption | apply keptR_next | apply State.pulseLine_kept | split

theorem execPcieLinkStateChange_kept (up : Bool) (gen : Fin 4) (lanes : Fin 3) (d3hot perst : Bool) {mb : SMap Byte} {s : State} (hc : s.Kept mb) :
    keptR mb (execPcieLinkStateChange up gen lanes d3hot perst s) := by
  unfold execPcieLinkStateChange
  with_reducible repeat' first | assumption | apply keptR_next | apply State.pulseLine_kept | (fail_if_no_progress refine kept_mk ?_ rfl rfl rfl rfl rfl rfl rfl) | split

theorem State.setDom_kept {mb : SMap Byte} {s : State} (d : Nat) (on : Bool) (hc : s.Kept mb) :
    (State.setDom s d on).Kept mb := by
  unfold State.setDom
  with_reducible repeat' first | assumption | apply kept_ite | apply State.setFlag_kept

theorem State.repairApply_kept {mb : SMap Byte} {s : State} (hc : s.Kept mb) :
    (State.repairApply s).Kept mb := by
  unfold State.repairApply
  with_reducible repeat' first | assumption | intro _ | apply kept_ite | apply kept_foldl | apply State.setFlag_kept | apply State.setFld_kept | apply State.sparesSync_kept

theorem State.domUsable_kept {mb : SMap Byte} {s : State} (d : Nat) (hc : s.Kept mb) :
    (State.domUsable s d).Kept mb := by
  unfold State.domUsable
  with_reducible repeat' first | assumption | apply State.repairApply_kept | apply State.setDom_kept | (fail_if_no_progress refine kept_mk ?_ rfl rfl rfl rfl rfl rfl rfl)

theorem execDomainUsable_kept (d : Fin 64) {mb : SMap Byte} {s : State} (hc : s.Kept mb) :
    keptR mb (execDomainUsable d s) := by
  unfold execDomainUsable
  with_reducible repeat' first | assumption | apply keptR_next | apply State.advanceTo_kept | apply State.domUsable_kept | split

theorem State.opEnd_kept {mb : SMap Byte} {s : State} (hc : s.Kept mb) :
    (State.opEnd s).Kept mb := by
  unfold State.opEnd
  with_reducible repeat' first | assumption | apply State.setFlag_kept | (fail_if_no_progress refine kept_mk ?_ rfl rfl rfl rfl rfl rfl rfl)

theorem State.opVidStep_kept {mb : SMap Byte} {s : State} (t fop : Nat) (hc : s.Kept mb) :
    (State.opVidStep s t fop).Kept mb := by
  unfold State.opVidStep
  with_reducible repeat' first | assumption | apply State.setFlag_kept | apply State.setFld_kept | (fail_if_no_progress refine kept_mk ?_ rfl rfl rfl rfl rfl rfl rfl)

theorem State.opctlWrite_kept {mb : SMap Byte} {s : State} (v : Word) (hc : s.Kept mb) :
    (State.opctlWrite s v).Kept mb := by
  unfold State.opctlWrite
  with_reducible repeat' first | assumption | apply kept_ite | apply State.advanceTo_kept | apply State.cfgFail_kept | apply State.cfgOk_kept | apply State.opEnd_kept | apply State.opVidStep_kept | apply State.setFlag_kept | apply State.setFld_kept

theorem execOpChange_kept (v : BitVec 32) {mb : SMap Byte} {s : State} (hc : s.Kept mb) :
    keptR mb (execOpChange v s) := by
  unfold execOpChange
  with_reducible repeat' first | assumption | apply keptR_next | apply State.opctlWrite_kept

theorem execVoltageConfirmed_kept {mb : SMap Byte} {s : State} (hc : s.Kept mb) :
    keptR mb (execVoltageConfirmed s) := by
  unfold execVoltageConfirmed
  with_reducible repeat' first | assumption | apply keptR_next | apply State.advanceTo_kept | apply State.opEnd_kept | apply State.setFlag_kept | apply State.setFld_kept | dsimp only | split

theorem execPgoodTimeout_kept {mb : SMap Byte} {s : State} (hc : s.Kept mb) :
    keptR mb (execPgoodTimeout s) := by
  unfold execPgoodTimeout
  with_reducible repeat' first | assumption | apply keptR_next | apply State.advanceTo_kept | apply State.cfgFail_kept | apply State.opEnd_kept | apply State.setFlag_kept | apply State.setFld_kept | split

theorem execPgoodLoss_kept {mb : SMap Byte} {s : State} (hc : s.Kept mb) :
    keptR mb (execPgoodLoss s) := by
  unfold execPgoodLoss
  with_reducible repeat' first | assumption | apply keptR_next | apply State.advanceTo_kept | apply State.pulseLine_kept | apply State.raiseNow_kept | apply State.setFlag_kept | apply State.setFld_kept | (fail_if_no_progress refine kept_mk ?_ rfl rfl rfl rfl rfl rfl rfl) | split

theorem State.pllStop_kept {mb : SMap Byte} {s : State} (hc : s.Kept mb) :
    (State.pllStop s).Kept mb := by
  unfold State.pllStop
  with_reducible repeat' first | assumption | apply State.setReg_kept | (fail_if_no_progress refine kept_mk ?_ rfl rfl rfl rfl rfl rfl rfl)

theorem State.gapStart_kept {mb : SMap Byte} {s : State} (hc : s.Kept mb) :
    (State.gapStart s).Kept mb := by
  unfold State.gapStart
  with_reducible repeat' first | assumption | apply State.setFlag_kept | apply State.setFld_kept

theorem State.holdPads_kept {mb : SMap Byte} {s : State} (hc : s.Kept mb) :
    (State.holdPads s).Kept mb := by
  unfold State.holdPads
  with_reducible repeat' first | assumption | apply State.setFld_kept | (fail_if_no_progress refine kept_mk ?_ rfl rfl rfl rfl rfl rfl rfl)

theorem execSleepPairsStopped_kept {mb : SMap Byte} {s : State} (hc : s.Kept mb) :
    keptR mb (execSleepPairsStopped s) := by
  unfold execSleepPairsStopped
  with_reducible repeat' first | assumption | apply keptR_next | apply State.gapStart_kept | apply State.holdPads_kept | apply State.pllStop_kept | apply State.setFld_kept | apply State.setReg_kept | (fail_if_no_progress refine kept_mk ?_ rfl rfl rfl rfl rfl rfl rfl) | split

theorem State.sleepTicks_kept {mb : SMap Byte} {s : State} (n : Nat) (hc : s.Kept mb) :
    (State.sleepTicks s n).Kept mb := by
  unfold State.sleepTicks
  with_reducible repeat' first | assumption | apply State.satAdd_kept | (fail_if_no_progress refine kept_mk ?_ rfl rfl rfl rfl rfl rfl rfl) | split

theorem State.sleepResume_kept {mb : SMap Byte} {s : State} (hc : s.Kept mb) :
    (State.sleepResume s).Kept mb := by
  unfold State.sleepResume
  with_reducible repeat' first | assumption | apply kept_foldl | apply State.rdSync_kept | (fail_if_no_progress refine kept_mk ?_ rfl rfl rfl rfl rfl rfl rfl)

theorem State.wakeBegin_kept {mb : SMap Byte} {s : State} (src : Nat) (hc : s.Kept mb) :
    (State.wakeBegin s src).Kept mb := by
  unfold State.wakeBegin
  with_reducible repeat' first | assumption | apply State.setFld_kept | (fail_if_no_progress refine kept_mk ?_ rfl rfl rfl rfl rfl rfl rfl)

theorem execSnowdropTimer_kept (ticks : Nat) {mb : SMap Byte} {s : State} (hc : s.Kept mb) :
    keptR mb (execSnowdropTimer ticks s) := by
  unfold execSnowdropTimer
  with_reducible repeat' first | assumption | apply keptR_next | apply keptR_ite | apply State.sleepTicks_kept | apply State.wakeBegin_kept

theorem execWakeComplete_kept {mb : SMap Byte} {s : State} (hc : s.Kept mb) :
    keptR mb (execWakeComplete s) := by
  unfold execWakeComplete
  with_reducible repeat' first | assumption | apply keptR_next | apply State.pulseLine_kept | apply State.raiseNow_kept | apply State.setFld_kept | apply State.setReg_kept | apply State.sleepResume_kept | (fail_if_no_progress refine kept_mk ?_ rfl rfl rfl rfl rfl rfl rfl) | split

theorem execX32okFall_kept (ticks : Nat) {mb : SMap Byte} {s : State} (hc : s.Kept mb) :
    keptR mb (execX32okFall ticks s) := by
  unfold execX32okFall
  with_reducible repeat' first | assumption | apply keptR_next | apply State.gapStart_kept | apply State.setFlag_kept | apply State.sleepTicks_kept | split

theorem execCrocusSamplingWake_kept (ticks : Nat) {mb : SMap Byte} {s : State} (hc : s.Kept mb) :
    keptR mb (execCrocusSamplingWake ticks s) := by
  unfold execCrocusSamplingWake
  with_reducible repeat' first | assumption | intro _ | apply keptR_next | apply keptR_ite | apply kept_foldl | apply State.modInc_kept | apply State.setDom_kept | apply State.sleepTicks_kept | apply State.winOff_kept | (fail_if_no_progress refine kept_mk ?_ rfl rfl rfl rfl rfl rfl rfl)

theorem State.crocusRing_kept {mb : SMap Byte} {s : State} (slice n : Nat) (codes : List (BitVec 4)) (hc : s.Kept mb) :
    (State.crocusRing s slice n codes).Kept mb := by
  unfold State.crocusRing
  with_reducible repeat' first | assumption | apply State.setSlice_kept

theorem State.crocusRound_kept {mb : SMap Byte} {s : State} (codes : List CrocusCodes) (n : Nat) (hit : Option Nat) (hc : s.Kept mb) :
    (State.crocusRound s codes n hit).1.Kept mb := by
  unfold State.crocusRound
  with_reducible repeat' first | assumption | intro _ | apply keptP_ite | apply kept_foldl | apply keptP_foldl | apply State.crocusRing_kept | apply State.putFast_kept | apply State.winEval_kept

theorem State.crocusEnd_kept {mb : SMap Byte} {s : State} (before : SMap Slice) (g : Nat) (hit : Option Nat) (hc : s.Kept mb) :
    (State.crocusEnd s before g hit).Kept mb := by
  unfold State.crocusEnd
  with_reducible repeat' first | assumption | intro _ | apply kept_foldl | apply State.setFld_kept | apply State.setSlice_kept | (fail_if_no_progress refine kept_mk ?_ rfl rfl rfl rfl rfl rfl rfl) | split

theorem execCrocusDecision_kept (codes : List CrocusCodes) (ticks : Nat) {mb : SMap Byte} {s : State} (hc : s.Kept mb) :
    keptR mb (execCrocusDecision codes ticks s) := by
  unfold execCrocusDecision
  with_reducible repeat' first | assumption | intro _ | apply keptR_next | apply keptP_foldl | apply State.crocusEnd_kept | apply State.crocusRound_kept | apply State.setDom_kept | apply State.sleepTicks_kept | apply State.wakeBegin_kept | dsimp only | split

theorem State.padrelWrite_kept {mb : SMap Byte} {s : State} (v : Word) (hc : s.Kept mb) :
    (State.padrelWrite s v).Kept mb := by
  unfold State.padrelWrite
  with_reducible repeat' first | assumption | intro _ | apply kept_foldl | apply State.cfgFail_kept | apply State.cfgOk_kept | apply State.setFlag_kept | split

theorem execPadRelease_kept (v : BitVec 32) {mb : SMap Byte} {s : State} (hc : s.Kept mb) :
    keptR mb (execPadRelease v s) := by
  unfold execPadRelease
  with_reducible repeat' first | assumption | apply keptR_next | apply State.padrelWrite_kept

theorem State.armDone_kept {mb : SMap Byte} {s : State} (hc : s.Kept mb) :
    (State.armDone s).Kept mb := by
  unfold State.armDone
  with_reducible repeat' first | assumption | intro _ | apply kept_ite | apply kept_foldl | apply State.arbRelease_kept | apply State.setFlag_kept | (fail_if_no_progress refine kept_mk ?_ rfl rfl rfl rfl rfl rfl rfl)

theorem State.patchPut_kept {mb : SMap Byte} {s : State} (k : Nat) (patch : SMap Word) (ver : Nat) (dig : Word) (hc : s.Kept mb) :
    (State.patchPut s k patch ver dig).Kept mb := by
  unfold State.patchPut
  with_reducible repeat' first | assumption | intro _ | apply kept_foldl | apply State.onCore_kept | apply State.setFld_kept | apply State.setReg_kept

theorem State.patchEnd_kept {mb : SMap Byte} {s : State} (k : Nat) (ok : Bool) (hc : s.Kept mb) : (State.patchEnd s k ok).Kept mb := by
  unfold State.patchEnd
  with_reducible repeat' first | assumption | intro _ | apply kept_foldl | apply State.armDone_kept | apply State.onCore_kept | apply State.patchPut_kept | apply State.setFlag_kept | (fail_if_no_progress refine kept_mk ?_ rfl rfl rfl rfl rfl rfl rfl) | split

theorem execPatchInstall_kept (n : Fin 4) (ok : Bool) {mb : SMap Byte} {s : State} (hc : s.Kept mb) :
    keptR mb (execPatchInstall n ok s) := by
  unfold execPatchInstall
  with_reducible repeat' first | assumption | apply keptR_next | apply State.advanceTo_kept | apply State.patchEnd_kept | split

theorem State.setPhase_kept {mb : SMap Byte} {s : State} (p : Nat) (hc : s.Kept mb) :
    (State.setPhase s p).Kept mb := by
  unfold State.setPhase
  with_reducible repeat' first | assumption | apply kept_ite | apply State.pertClear_kept | apply State.pulseLine_kept | apply State.raiseNow_kept | apply State.setFld_kept | (fail_if_no_progress refine kept_mk ?_ rfl rfl rfl rfl rfl rfl rfl)

theorem execPermitExpiry_kept {mb : SMap Byte} {s : State} (hc : s.Kept mb) :
    keptR mb (execPermitExpiry s) := by
  unfold execPermitExpiry
  with_reducible repeat' first | assumption | apply keptR_next | apply State.advanceTo_kept | apply State.setPhase_kept | split

theorem State.mreqRefuse_kept {mb : SMap Byte} {s : State} (code conf : Nat) (hc : s.Kept mb) :
    (State.mreqRefuse s code conf).Kept mb := by
  unfold State.mreqRefuse
  with_reducible repeat' first | assumption | apply State.cfgFail_kept | apply State.setReg_kept

theorem State.mreqWrite_kept {mb : SMap Byte} {s : State} (v : Word) (mgmt : Bool) (hc : s.Kept mb) :
    (State.mreqWrite s v mgmt).Kept mb := by
  unfold State.mreqWrite
  with_reducible repeat' first | assumption | apply State.arbRequest_kept | apply State.cfgFail_kept | apply State.cfgOk_kept | apply State.mreqRefuse_kept | (apply keptQ_of_eq; assumption) | dsimp only | split

theorem execMaintRequest_kept (v : BitVec 32) (mgmt : Bool) {mb : SMap Byte} {s : State} (hc : s.Kept mb) :
    keptR mb (execMaintRequest v mgmt s) := by
  unfold execMaintRequest
  with_reducible repeat' first | assumption | apply keptR_next | apply State.mreqWrite_kept

theorem State.mrelWrite_kept {mb : SMap Byte} {s : State} (v : Word) (hc : s.Kept mb) :
    (State.mrelWrite s v).Kept mb := by
  unfold State.mrelWrite
  with_reducible repeat' first | assumption | apply State.arbRelease_kept | apply State.cfgOk_kept | apply State.mreqRefuse_kept | dsimp only | split

theorem execMaintRelease_kept (v : BitVec 32) {mb : SMap Byte} {s : State} (hc : s.Kept mb) :
    keptR mb (execMaintRelease v s) := by
  unfold execMaintRelease
  with_reducible repeat' first | assumption | apply keptR_next | apply State.mrelWrite_kept

theorem execLedgerCompactEnd_kept {mb : SMap Byte} {s : State} (hc : s.Kept mb) :
    keptR mb (execLedgerCompactEnd s) := by
  unfold execLedgerCompactEnd
  with_reducible repeat' first | assumption | apply keptR_next | apply State.arbRelease_kept | split

theorem State.svcPut_kept {mb : SMap Byte} {s : State} (v n : Nat) (hc : s.Kept mb) :
    (State.svcPut s v n).Kept mb := by
  unfold State.svcPut
  with_reducible repeat' first | assumption | intro _ | apply kept_foldl | apply State.setReg_kept

theorem State.svcStarted_kept {mb : SMap Byte} {s : State} (op : Nat) (hc : s.Kept mb) : (State.svcStarted s op).Kept mb := by
  unfold State.svcStarted
  with_reducible repeat' first | assumption | apply State.setFlag_kept | apply State.setFld_kept | (fail_if_no_progress refine kept_mk ?_ rfl rfl rfl rfl rfl rfl rfl)

theorem State.svcStart_kept {mb : SMap Byte} {s : State} (op : Nat) (f : State → State) (hc : s.Kept mb) (hcf : ∀ t : State, t.Kept mb → (f t).Kept mb) :
    (State.svcStart s op f).Kept mb := by
  unfold State.svcStart
  with_reducible repeat' first | assumption | apply kept_ite | apply hcf | apply State.cfgFail_kept | apply State.svcStarted_kept

theorem State.setsBytes_kept {mb : SMap Byte} {s : State} (hc : s.Kept mb) :
    (State.setsBytes s).1.Kept mb := by
  unfold State.setsBytes
  with_reducible repeat' first | assumption | intro _ | apply keptP_foldl | apply State.setRecord_kept | (apply keptP_of_eq; assumption) | split

theorem State.reportBytes_kept {mb : SMap Byte} {s : State} (nonce : Nat) (hc : s.Kept mb) :
    (State.reportBytes s nonce).1.Kept mb := by
  unfold State.reportBytes
  with_reducible repeat' first | assumption | apply State.setsBytes_kept

theorem State.attest_kept {mb : SMap Byte} {s : State} (hc : s.Kept mb) :
    (State.attest s).Kept mb := by
  unfold State.attest
  with_reducible repeat' first | assumption | apply State.reportBytes_kept | apply State.svcPut_kept | apply State.tick_kept

theorem execAttest_kept {mb : SMap Byte} {s : State} (hc : s.Kept mb) :
    keptR mb (execAttest s) := by
  unfold execAttest
  with_reducible repeat' first | assumption | apply keptR_next | apply State.attest_kept | apply State.svcStart_kept

theorem State.idKey_kept {mb : SMap Byte} {s : State} (hc : s.Kept mb) :
    (State.idKey s).Kept mb := by
  unfold State.idKey
  with_reducible repeat' first | assumption | apply State.svcPut_kept

theorem execIdkey_kept {mb : SMap Byte} {s : State} (hc : s.Kept mb) :
    keptR mb (execIdkey s) := by
  unfold execIdkey
  with_reducible repeat' first | assumption | apply keptR_next | apply State.idKey_kept | apply State.svcStart_kept

theorem execServiceCommandDone_kept {mb : SMap Byte} {s : State} (hc : s.Kept mb) :
    keptR mb (execServiceCommandDone s) := by
  unfold execServiceCommandDone
  with_reducible repeat' first | assumption | apply keptR_next | apply State.pulseLine_kept | apply State.setFlag_kept | apply State.setReg_kept | (fail_if_no_progress refine kept_mk ?_ rfl rfl rfl rfl rfl rfl rfl) | dsimp only | split

theorem State.pllStart_kept {mb : SMap Byte} {s : State} (hc : s.Kept mb) :
    (State.pllStart s).Kept mb := by
  unfold State.pllStart
  with_reducible repeat' first | assumption | intro _ | apply kept_ite | apply kept_foldl | apply State.pwmResume_kept | apply State.setReg_kept | (fail_if_no_progress refine kept_mk ?_ rfl rfl rfl rfl rfl rfl rfl)

theorem execPllRootSwitch_kept (ticks : Nat) {mb : SMap Byte} {s : State} (hc : s.Kept mb) :
    keptR mb (execPllRootSwitch ticks s) := by
  unfold execPllRootSwitch
  with_reducible repeat' first | assumption | apply keptR_next | apply keptR_ite | apply State.pllStart_kept | apply State.sleepTicks_kept

theorem execLossOfLock_kept {mb : SMap Byte} {s : State} (hc : s.Kept mb) :
    keptR mb (execLossOfLock s) := by
  unfold execLossOfLock
  with_reducible repeat' first | assumption | apply keptR_next | apply kept_foldl | apply State.pllStop_kept | apply State.pwmHalt_kept | apply State.setFlag_kept | (fail_if_no_progress refine kept_mk ?_ rfl rfl rfl rfl rfl rfl rfl) | split

end Sys2Proof.Machine
end

