-- ==== Sys2Proof/Laws/KeptBus.lean ====
section
/-! SUPPORT. The bytes of memory are left as they were by the bus, DMA and what passes through the crossbar, where an operation stores nothing: one lemma an operation. -/

namespace Sys2Proof.Machine

theorem State.postRead_kept {mb : SMap Byte} {s : State} (a : Nat) (hc : s.Kept mb) :
    (State.postRead s a).1.Kept mb := by
  unfold State.postRead
  with_reducible repeat' first | assumption | (fail_if_no_progress refine kept_mk ?_ rfl rfl rfl rfl rfl rfl rfl) | split

theorem State.rdRef_kept {mb : SMap Byte} {s : State} (hc : s.Kept mb) :
    (State.rdRef s).Kept mb := by
  unfold State.rdRef
  with_reducible repeat' first | assumption | apply State.hpFlag_kept

theorem State.hostPostRead_kept {mb : SMap Byte} {s : State} (b : Nat) (hc : s.Kept mb) :
    (State.hostPostRead s b).1.Kept mb := by
  unfold State.hostPostRead
  with_reducible repeat' first | assumption | apply State.hpFlag_kept | apply State.postRead_kept | (apply keptP_of_eq; assumption) | split

theorem State.hostRead_kept {mb : SMap Byte} {s : State} (ha : Nat) (hc : s.Kept mb) :
    (State.hostRead s ha).1.Kept mb := by
  unfold State.hostRead
  with_reducible repeat' first | assumption | apply State.hostPostRead_kept | apply State.rdRef_kept | dsimp only | split

theorem execHostRead_kept (ha : BitVec 24) {mb : SMap Byte} {s : State} (hc : s.Kept mb) : keptR mb (execHostRead ha s) := by
  unfold execHostRead
  split
  · exact keptR_next hc
  · exact keptR_next (kept_mk (State.hostRead_kept _ hc) rfl rfl rfl rfl rfl rfl rfl)

end Sys2Proof.Machine
end

