-- ==== Sys2Proof/Laws/KeptCores.lean ====
section
/-! SUPPORT. The bytes of memory are left as they were by the Molpa cores, where an operation stores nothing: one lemma an operation. -/

namespace Sys2Proof.Machine

theorem State.icfgWrite_kept {mb : SMap Byte} {s : State} (k l : Nat) (v : Word) (hc : s.Kept mb) :
    (State.icfgWrite s k l v).Kept mb := by
  unfold State.icfgWrite
  with_reducible repeat' first | assumption | (fail_if_no_progress refine kept_mk ?_ rfl rfl rfl rfl rfl rfl rfl)

theorem State.cctlWrite_kept {mb : SMap Byte} {s : State} (k : Nat) (v : Word) (hc : s.Kept mb) :
    (State.cctlWrite s k v).Kept mb := by
  unfold State.cctlWrite
  with_reducible repeat' first | assumption | apply kept_ite | apply State.onCore_kept

theorem execCkptDueRaise_kept (n : Fin 4) {mb : SMap Byte} {s : State} (hc : s.Kept mb) :
    keptR mb (execCkptDueRaise n s) := by
  unfold execCkptDueRaise
  with_reducible repeat' first | assumption | apply keptR_next | apply State.advanceTo_kept | apply State.onCore_kept | apply State.satInc_kept | apply State.setFld_kept | dsimp only | split

theorem execSetPending_kept (n : Fin 4) (v : BitVec 32) {mb : SMap Byte} {s : State} (hc : s.Kept mb) :
    keptR mb (execSetPending n v s) := by
  unfold execSetPending
  with_reducible repeat' first | assumption | apply keptR_next | apply State.icfgWrite_kept | split

theorem State.cctlBy_kept {mb : SMap Byte} {s : State} (n : Fin 4) (v : Word) (hc : s.Kept mb) :
    keptR mb (State.cctlBy s n v) := by
  unfold State.cctlBy
  with_reducible repeat' first | assumption | apply keptR_next | apply State.cctlWrite_kept | split

theorem execDataCacheInvalidate_kept (n : Fin 4) {mb : SMap Byte} {s : State} (hc : s.Kept mb) :
    keptR mb (execDataCacheInvalidate n s) := by
  unfold execDataCacheInvalidate
  with_reducible repeat' first | assumption | apply State.cctlBy_kept

theorem execInstructionCacheInvalidate_kept (n : Fin 4) {mb : SMap Byte} {s : State} (hc : s.Kept mb) :
    keptR mb (execInstructionCacheInvalidate n s) := by
  unfold execInstructionCacheInvalidate
  with_reducible repeat' first | assumption | apply State.cctlBy_kept

theorem execCacheInvalidationDone_kept (n : Fin 4) {mb : SMap Byte} {s : State} (hc : s.Kept mb) :
    keptR mb (execCacheInvalidationDone n s) := by
  unfold execCacheInvalidationDone
  with_reducible repeat' first | assumption | apply keptR_next | apply State.advanceTo_kept | apply State.onCore_kept | split

end Sys2Proof.Machine
end

