-- ==== Sys2Proof/Laws/Kept.lean ====
section
/-! SUPPORT. The commands that store nothing leave the bytes of memory as they were. -/

namespace Sys2Proof.Machine

/-- A command of Instr.storesNothing answers a next state that holds the same bytes. -/
theorem exec_kept (i : Instr) (h : i.storesNothing = true) {mb : SMap Byte} {s : State} (hc : s.Kept mb) : keptR mb (exec i s) := by
  cases i with
  | pllRootSwitch ticks => exact execPllRootSwitch_kept ticks hc
  | lossOfLock => exact execLossOfLock_kept hc
  | sliceEnable n v => exact execSliceEnable_kept n v hc
  | sliceDisable n v => exact execSliceDisable_kept n v hc
  | sliceReady n => exact execSliceReady_kept n hc
  | fastResultWrite n codes ovld => exact execFastResultWrite_kept n codes ovld hc
  | freeRunningResult n codes ovld =>
    rw [exec_freeRunningResult]
    exact execFreeRunningResult_kept n codes ovld hc
  | groupEnable g v => exact execGroupEnable_kept g v hc
  | integratingWindowEnd g sums => exact execIntegratingWindowEnd_kept g sums hc
  | integratingResultWrite g => exact execIntegratingResultWrite_kept g hc
  | mainsZeroCrossing g c => exact execMainsZeroCrossing_kept g c hc
  | trackerNoSignal g => exact execTrackerNoSignal_kept g hc
  | trackFirstWindowTimeout g => exact execTrackFirstWindowTimeout_kept g hc
  | calStepStart g => exact execCalStepStart_kept g hc
  | calSubstitution g fitOfs fitGain => exact execCalSubstitution_kept g fitOfs fitGain hc
  | calPinRelease g => exact execCalPinRelease_kept g hc
  | calReshadow g => exact execCalReshadow_kept g hc
  | calHandback g ofs gain => exact execCalHandback_kept g ofs gain hc
  | calSpareRelease g => exact execCalSpareRelease_kept g hc
  | calRun g v => exact execCalRun_kept g v hc
  | calStop g v => exact execCalStop_kept g v hc
  | calPause g v => exact execCalPause_kept g v hc
  | calResume g v => exact execCalResume_kept g v hc
  | testdacRequest g v => exact execTestdacRequest_kept g v hc
  | testdacRelease g v => exact execTestdacRelease_kept g v hc
  | sequencerEnable n v => exact execSequencerEnable_kept n v hc
  | sqEntryWrite n k v => exact execSqEntryWrite_kept n k v hc
  | comparatorLatchSet n t => exact execComparatorLatchSet_kept n t hc
  | comparatorRawChange n v t => exact execComparatorRawChange_kept n v t hc
  | comparatorSetRecord n => exact execComparatorSetRecord_kept n hc
  | latchClear n v => exact execLatchClear_kept n v hc
  | blankingClose n => exact execBlankingClose_kept n hc
  | refWrite n v => exact execRefWrite_kept n v hc
  | comparatorLiveWrite n r v => exact execComparatorLiveWrite_kept n r v hc
  | comparatorEnable n v => exact execComparatorEnable_kept n v hc
  | comparatorSettled n => exact execComparatorSettled_kept n hc
  | comparatorDisable n v => exact execComparatorDisable_kept n v hc
  | selftestRequest n v => exact execSelftestRequest_kept n v hc
  | selftestEnd n v => exact execSelftestEnd_kept n v hc
  | interfaceEnable n v => exact execInterfaceEnable_kept n v hc
  | levelAccept n a b z e => exact execLevelAccept_kept n a b z e hc
  | wireFault n sig e => exact execWireFault_kept n sig e hc
  | standstill n => exact execStandstill_kept n hc
  | posWrite n rev v => exact execPosWrite_kept n rev v hc
  | ssiFrameRecord n data crc => exact execSsiFrameRecord_kept n data crc hc
  | ssiRelease n e => exact execSsiRelease_kept n e hc
  | ssiTimeout n => exact execSsiTimeout_kept n hc
  | emulatorEnable n v => exact execEmulatorEnable_kept n v hc
  | emuposWrite n cell v => exact execEmuposWrite_kept n cell v hc
  | emulatorEdge n => exact execEmulatorEdge_kept n hc
  | eventDelivery ssiLow => exact execEventDelivery_kept ssiLow hc
  | evoutPulseEnd k => exact execEvoutPulseEnd_kept k hc
  | evinRaise k e => exact execEvinRaise_kept k e hc
  | timerRaise k => exact execTimerRaise_kept k hc
  | soTimerEnable k v => exact execSoTimerEnable_kept k v hc
  | soRaise v => exact execSoRaise_kept v hc
  | routingEntryWrite src w v => exact execRoutingEntryWrite_kept src w v hc
  | ownershipEntryWrite i v => exact execOwnershipEntryWrite_kept i v hc
  | soMiggo v => exact execSoMiggo_kept v hc
  | ownershipSwitch => exact execOwnershipSwitch_kept hc
  | fabricWriteLanding => exact execFabricWriteLanding_kept hc
  | cellEnable n v => exact execCellEnable_kept n v hc
  | cellDisable n v => exact execCellDisable_kept n v hc
  | restartHandlerStart n => exact execRestartHandlerStart_kept n hc
  | handlerStart n => exact execHandlerStart_kept n hc
  | handlerBudgetFault n => exact execHandlerBudgetFault_kept n hc
  | mapStoreEnable v => exact execMapStoreEnable_kept v hc
  | msRequestGrant p service => exact execMsRequestGrant_kept p service hc
  | msPageWriteback wait => exact execMsPageWriteback_kept wait hc
  | descriptorWrite k w v => exact execDescriptorWrite_kept k w v hc
  | pwmEnable n v => exact execPwmEnable_kept n v hc
  | pwmDisable n v => exact execPwmDisable_kept n v hc
  | periodStart n flt => exact execPeriodStart_kept n flt hc
  | pwmCentre n flt => exact execPwmCentre_kept n flt hc
  | edgeInstance n i => exact execEdgeInstance_kept n i hc
  | triggerInstance n k down => exact execTriggerInstance_kept n k down hc
  | deadTimeEnd n b => exact execDeadTimeEnd_kept n b hc
  | pulseEndSeen n t => exact execPulseEndSeen_kept n t hc
  | cotTimeout n => exact execCotTimeout_kept n hc
  | coffPulseEnd n t => exact execCoffPulseEnd_kept n t hc
  | coffTimeout n => exact execCoffTimeout_kept n hc
  | pwmCommit n v => exact execPwmCommit_kept n v hc
  | cbcForce n k t flt => exact execCbcForce_kept n k t flt hc
  | latchedTrip n k t flt => exact execLatchedTrip_kept n k t flt hc
  | tripRecord n => exact execTripRecord_kept n hc
  | padSenseMismatch n a b => exact execPadSenseMismatch_kept n a b hc
  | tripClear n v flt => exact execTripClear_kept n v flt hc
  | controlPlaneHalt v => exact execControlPlaneHalt_kept v hc
  | controlPlaneHaltEnd v => exact execControlPlaneHaltEnd_kept v hc
  | dataCacheInvalidate n => exact execDataCacheInvalidate_kept n hc
  | instructionCacheInvalidate n => exact execInstructionCacheInvalidate_kept n hc
  | cacheInvalidationDone n => exact execCacheInvalidationDone_kept n hc
  | setPending n v => exact execSetPending_kept n v hc
  | rollbackResume n => exact execRollbackResume_kept n hc
  | ckptDueRaise n => exact execCkptDueRaise_kept n hc
  | ckptDueTimeout n => exact execCkptDueTimeout_kept n hc
  | patchInstall n ok => exact execPatchInstall_kept n ok hc
  | pageCorrection a port => exact execPageCorrection_kept a port hc
  | eccStrengthWrite k v => exact execEccStrengthWrite_kept k v hc
  | initClearDone => exact execInitClearDone_kept hc
  | scrubStart v => exact execScrubStart_kept v hc
  | clearStart v => exact execClearStart_kept v hc
  | scrubStop v pages => exact execScrubStop_kept v pages hc
  | scrubPassDone => exact execScrubPassDone_kept hc
  | flashSuspend v => exact execFlashSuspend_kept v hc
  | fcXoWrite k v => exact execFcXoWrite_kept k v hc
  | ledgerCommit v => exact execLedgerCommit_kept v hc
  | ledgerRead v => exact execLedgerRead_kept v hc
  | dmaEnable k v => exact execDmaEnable_kept k v hc
  | attest => exact execAttest_kept hc
  | idkey => exact execIdkey_kept hc
  | serviceCommandDone => exact execServiceCommandDone_kept hc
  | maintRequest v mgmt => exact execMaintRequest_kept v mgmt hc
  | maintRelease v => exact execMaintRelease_kept v hc
  | permitExpiry => exact execPermitExpiry_kept hc
  | domainUsable d => exact execDomainUsable_kept d hc
  | opChange v => exact execOpChange_kept v hc
  | voltageConfirmed => exact execVoltageConfirmed_kept hc
  | pgoodTimeout => exact execPgoodTimeout_kept hc
  | pgoodLoss => exact execPgoodLoss_kept hc
  | sleepPairsStopped => exact execSleepPairsStopped_kept hc
  | wakeComplete => exact execWakeComplete_kept hc
  | crocusSamplingWake ticks => exact execCrocusSamplingWake_kept ticks hc
  | crocusDecision codes ticks => exact execCrocusDecision_kept codes ticks hc
  | snowdropTimer ticks => exact execSnowdropTimer_kept ticks hc
  | padRelease v => exact execPadRelease_kept v hc
  | pinConfigurationWrite k v => exact execPinConfigurationWrite_kept k v hc
  | gpioWrite k oe dout => exact execGpioWrite_kept k oe dout hc
  | pintEnable n v level => exact execPintEnable_kept n v level hc
  | pinInterruptEdge n level => exact execPinInterruptEdge_kept n level hc
  | hostPortEnable v => exact execHostPortEnable_kept v hc
  | hostRead ha => exact execHostRead_kept ha hc
  | resync => exact execResync_kept hc
  | hostWindowWrite n v mgmt => exact execHostWindowWrite_kept n v mgmt hc
  | macTimeAdjust m lo hi => exact execMacTimeAdjust_kept m lo hi hc
  | macTargetTime m t => exact execMacTargetTime_kept m t hc
  | frameReceive m len event bad => exact execFrameReceive_kept m len event bad hc
  | frameTransmit m queue event => exact execFrameTransmit_kept m queue event hc
  | canFrameReceive n f len => exact execCanFrameReceive_kept n f len hc
  | perturbationWrite r v => exact execPerturbationWrite_kept r v hc
  | clrall v => exact execClrall_kept v hc
  | mismP0 => exact execMismP0_kept hc
  | mismP1 => exact execMismP1_kept hc
  | mismCell cell => exact execMismCell_kept cell hc
  | ecc1 => exact execEcc1_kept hc
  | ecc2 => exact execEcc2_kept hc
  | eccpage => exact execEccpage_kept hc
  | debugHalt p => exact execDebugHalt_kept p hc
  | debugStep p => exact execDebugStep_kept p hc
  | debugResume p => exact execDebugResume_kept p hc
  | bypass => exact execBypass_kept hc
  | samplePreload sampled preload => exact execSamplePreload_kept sampled preload hc
  | extest => exact execExtest_kept hc
  | idcode => exact execIdcode_kept hc
  | dbgacc => exact execDbgacc_kept hc
  | tapReset => exact execTapReset_kept hc
  | x32okFall ticks => exact execX32okFall_kept ticks hc
  | ledgerCompactEnd => exact execLedgerCompactEnd_kept hc
  | cellRestartCommand n => exact execCellRestartCommand_kept n hc
  | timerOutputPulseEnd k => exact execTimerOutputPulseEnd_kept k hc
  | targetTimePulseEnd m t => exact execTargetTimePulseEnd_kept m t hc
  | pcieLinkStateChange up gen lanes d3hot perst => exact execPcieLinkStateChange_kept up gen lanes d3hot perst hc
  | canFrameTransmit n error => exact execCanFrameTransmit_kept n error hc
  | serialPortTransfer u => exact execSerialPortTransfer_kept u hc
  | _ => cases h

end Sys2Proof.Machine
end

