-- ==== Sys2Proof/Laws/Resets.lean ====
section
/-! SUPPORT. What a reset leaves: nothing that a cut flash operation or ledger commit writes touches the clocks, and a warm reset
empties the cores and keeps DEVTIME (R12, R41, R245). -/

namespace Sys2Proof.Machine

theorem State.setWord_clk (s : State) (a : Nat) (v : Word) : (s.setWord a v).clk = s.clk := by
  obtain ⟨m, h⟩ := s.setWord_eq a v; rw [h]
theorem State.setBytes_clk (s : State) (a n v : Nat) : (s.setBytes a n v).clk = s.clk := by
  obtain ⟨m, h⟩ := s.setBytes_eq a n v; rw [h]

theorem State.scramble_clk (s : State) (a n : Nat) : (s.scramble a n).clk = s.clk := by
  have h : ∀ (l : List Nat) (u : State), (l.foldl (fun s i =>
      let s := s.setWord (a + 4 * i) (Config.openWord (s.free + 2 * i))
      { s with mem := { s.mem with flips := mapSet 0 s.mem.flips (a / 4 + i) (Config.openWord (s.free + 2 * i + 1)) } }) u).clk = u.clk := by
    intro l
    induction l with
    | nil => intro u; rfl
    | cons i l ih => intro u; rw [List.foldl_cons, ih]; dsimp only; rw [State.setWord_clk]
  rw [State.scramble]
  exact h _ s

theorem State.sectorSpoil_clk (s : State) (b o : Nat) : (s.sectorSpoil b o).clk = s.clk := by
  rw [State.sectorSpoil]
  generalize hx : (16384 : Nat) = n
  dsimp only
  rw [State.scramble_clk]

theorem State.flashCut_clk (s : State) (b : Nat) : (s.flashCut b).clk = s.clk := by
  rw [State.flashCut]
  split
  · split
    · rfl
    · split
      · exact State.sectorSpoil_clk _ _ _
      · generalize hx : (128 : Nat) = n
        dsimp only
        split
        · exact State.scramble_clk _ _ _
        · have h : ∀ (l : List Nat) (a f : Nat) (u : State), (l.foldl (fun (s : State) i =>
            { s with mem := { s.mem with flips := mapSet 0 s.mem.flips (a / 4 + i) (Config.openWord (s.free + i)) } }) u).clk = u.clk := by
            intro l a f
            induction l with
            | nil => intro u; rfl
            | cons i l ih => intro u; rw [List.foldl_cons, ih]
          refine Eq.trans (h _ _ 0 _) ?_
          exact State.scramble_clk _ _ _
  · rfl

theorem State.ledgerSync_clk (s : State) (e : Nat) : (s.ledgerSync e).clk = s.clk := by
  rw [State.ledgerSync]
  split
  · split
    · rfl
    · rename_i _ o _ _
      have hd : ∀ (u : State) (a v : Nat), (u.setDword a v).clk = u.clk := by
        intro u a v; rw [State.setDword, State.setWord_clk, State.setWord_clk]
      have hc : ∀ (u : State) (i : Nat), (u.commitWord o i).clk = u.clk := by
        intro u i
        rw [State.commitWord]
        split
        · exact hd _ _ _
        · split
          · rw [State.setWord_clk, State.setWord_clk]
          · split
            · exact hd _ _ _
            · exact hd _ _ _
      have h : ∀ (l : List Nat) (u : State), (l.foldl (fun s i => s.commitWord o i) u).clk = u.clk := by
        intro l
        induction l with
        | nil => intro u; rfl
        | cons i l ih => intro u; rw [List.foldl_cons, ih, hc]
      dsimp only
      rw [h]
  · rfl

/-- Applying the repair map writes registers, none of them MG_PHASE. -/
theorem State.repairApply_keep {β : Type} (q : State → β) (h : ∀ (u : State) (a : Nat) (v : Word), a ≠ Reg.MG_PHASE → q (u.setReg a v) = q u) (u : State) :
    q u.repairApply = q u := by
  rw [State.repairApply, State.sparesSync]
  dsimp only
  rw [h _ _ _ (by decide)]
  refine (foldl_keep q _ (fun v g => ?_) (List.range 4) _).trans (foldl_keep q _ (fun v c => ?_) (List.range 52) _)
  · split
    · rfl
    · rw [State.setFld, h _ _ _ (by simp only [Reg.CG_CALSTAT, Reg.MG_PHASE]; omega), State.setFlag, State.setFld, h _ _ _ (by simp only [Reg.CS_STAT, Reg.MG_PHASE]; omega)]
  · split
    · rw [State.setFld, h _ _ _ (by simp only [Reg.LC_STAT, Reg.MG_PHASE]; omega)]
    · rfl

/-- A warm reset empties the records of the cores, keeps DEVTIME, and enters BOOT. -/
theorem State.warmReset_facts (s : State) : s.warmReset.cores = [] ∧ s.warmReset.clk.devtime = s.clk.devtime ∧ s.warmReset.phase = 1 := by
  have hk : (((s.ledgerSync s.now).flashCut 0).flashCut 1).clk = s.clk := by rw [State.flashCut_clk, State.flashCut_clk, State.ledgerSync_clk]
  rw [State.warmReset]
  dsimp only
  generalize ((s.ledgerSync s.now).flashCut 0).flashCut 1 = u at hk
  have hw : (u.warmRegs.wipe mcStage 0x70061C00).clk = s.clk := by rw [← hk]; rfl
  generalize u.warmRegs.wipe mcStage 0x70061C00 = v at hw
  have k1 : ∀ w : State, w.cores = [] → ((w.setReg Reg.MG_PHASE 1).pulseLine 386).cores = [] := fun w h => h
  have k2 : ∀ w : State, w.clk.devtime = s.clk.devtime → ((w.setReg Reg.MG_PHASE 1).pulseLine 386).clk.devtime = s.clk.devtime := fun w h => h
  have k3 : ∀ w : State, ((w.setReg Reg.MG_PHASE 1).pulseLine 386).phase = 1 := by
    intro w
    show fieldOf ((w.setReg Reg.MG_PHASE 1).reg Reg.MG_PHASE) 2 0 = 1
    rw [State.reg_setReg_same]
    decide
  refine ⟨?_, ?_, ?_⟩
  · rw [State.repairApply_keep (fun u : State => u.cores) (fun _ _ _ _ => rfl)]
    refine k1 _ ?_
    split <;> split <;> rfl
  · rw [State.repairApply_keep (fun u : State => u.clk.devtime) (fun _ _ _ _ => rfl)]
    refine k2 _ ?_
    rw [← hw]
    split <;> split <;> rfl
  · rw [State.repairApply_keep (fun u : State => u.phase) (fun w a x h => by rw [State.phase, State.fld_setReg_ne _ _ _ _ h.symm]; rfl)]
    exact k3 _

end Sys2Proof.Machine
end

