-- ==== Sys2Proof/Laws/RunsCellIsa.lean ====
section
/-! SUPPORT. Where the loop cells' instructions complete, and with what: one lemma an instruction (R160 to R169). -/

namespace Sys2Proof.Machine

variable {s : State} {t : Nat}

theorem lcAdd_runs (c : Fin 52) (e : Bool) (d a b : Fin 32)
    (h : s.LcReady c [a, b, d] false t 1) :
    exec (.lcAdd c e d a b) s = .next (s.lcDone c t 1 1 e fun k => { regs := [(d, (s.lcV k a) + (s.lcV k b))] }) := by
  rw [exec_lcAdd, execLcAdd]
  exact State.lcAlu_ready c.isLt h

theorem lcSub_runs (c : Fin 52) (e : Bool) (d a b : Fin 32)
    (h : s.LcReady c [a, b, d] false t 1) :
    exec (.lcSub c e d a b) s = .next (s.lcDone c t 1 1 e fun k => { regs := [(d, (s.lcV k a) - (s.lcV k b))] }) := by
  rw [exec_lcSub, execLcSub]
  exact State.lcAlu_ready c.isLt h

theorem lcAnd_runs (c : Fin 52) (e : Bool) (d a b : Fin 32)
    (h : s.LcReady c [a, b, d] false t 1) :
    exec (.lcAnd c e d a b) s = .next (s.lcDone c t 1 1 e fun k => { regs := [(d, (s.lcV k a) &&& (s.lcV k b))] }) := by
  rw [exec_lcAnd, execLcAnd]
  exact State.lcAlu_ready c.isLt h

theorem lcOr_runs (c : Fin 52) (e : Bool) (d a b : Fin 32)
    (h : s.LcReady c [a, b, d] false t 1) :
    exec (.lcOr c e d a b) s = .next (s.lcDone c t 1 1 e fun k => { regs := [(d, (s.lcV k a) ||| (s.lcV k b))] }) := by
  rw [exec_lcOr, execLcOr]
  exact State.lcAlu_ready c.isLt h

theorem lcXor_runs (c : Fin 52) (e : Bool) (d a b : Fin 32)
    (h : s.LcReady c [a, b, d] false t 1) :
    exec (.lcXor c e d a b) s = .next (s.lcDone c t 1 1 e fun k => { regs := [(d, (s.lcV k a) ^^^ (s.lcV k b))] }) := by
  rw [exec_lcXor, execLcXor]
  exact State.lcAlu_ready c.isLt h

theorem lcAndn_runs (c : Fin 52) (e : Bool) (d a b : Fin 32)
    (h : s.LcReady c [a, b, d] false t 1) :
    exec (.lcAndn c e d a b) s = .next (s.lcDone c t 1 1 e fun k => { regs := [(d, (s.lcV k a) &&& ~~~(s.lcV k b))] }) := by
  rw [exec_lcAndn, execLcAndn]
  exact State.lcAlu_ready c.isLt h

theorem lcSll_runs (c : Fin 52) (e : Bool) (d a b : Fin 32)
    (h : s.LcReady c [a, b, d] false t 1) :
    exec (.lcSll c e d a b) s = .next (s.lcDone c t 1 1 e fun k => { regs := [(d, (s.lcV k a) <<< ((s.lcV k b).toNat % 32))] }) := by
  rw [exec_lcSll, execLcSll]
  exact State.lcAlu_ready c.isLt h

theorem lcSrl_runs (c : Fin 52) (e : Bool) (d a b : Fin 32)
    (h : s.LcReady c [a, b, d] false t 1) :
    exec (.lcSrl c e d a b) s = .next (s.lcDone c t 1 1 e fun k => { regs := [(d, (s.lcV k a) >>> ((s.lcV k b).toNat % 32))] }) := by
  rw [exec_lcSrl, execLcSrl]
  exact State.lcAlu_ready c.isLt h

theorem lcSra_runs (c : Fin 52) (e : Bool) (d a b : Fin 32)
    (h : s.LcReady c [a, b, d] false t 1) :
    exec (.lcSra c e d a b) s = .next (s.lcDone c t 1 1 e fun k => { regs := [(d, (s.lcV k a).sshiftRight ((s.lcV k b).toNat % 32))] }) := by
  rw [exec_lcSra, execLcSra]
  exact State.lcAlu_ready c.isLt h

theorem lcSlt_runs (c : Fin 52) (e : Bool) (d a b : Fin 32)
    (h : s.LcReady c [a, b, d] false t 1) :
    exec (.lcSlt c e d a b) s = .next (s.lcDone c t 1 1 e fun k => { regs := [(d, if sv (s.lcV k a) < sv (s.lcV k b) then 1 else 0)] }) := by
  rw [exec_lcSlt, execLcSlt]
  exact State.lcAlu_ready c.isLt h

theorem lcSltu_runs (c : Fin 52) (e : Bool) (d a b : Fin 32)
    (h : s.LcReady c [a, b, d] false t 1) :
    exec (.lcSltu c e d a b) s = .next (s.lcDone c t 1 1 e fun k => { regs := [(d, if (s.lcV k a).toNat < (s.lcV k b).toNat then 1 else 0)] }) := by
  rw [exec_lcSltu, execLcSltu]
  exact State.lcAlu_ready c.isLt h

theorem lcMin_runs (c : Fin 52) (e : Bool) (d a b : Fin 32)
    (h : s.LcReady c [a, b, d] false t 1) :
    exec (.lcMin c e d a b) s = .next (s.lcDone c t 1 1 e fun k => { regs := [(d, if sv (s.lcV k b) < sv (s.lcV k a) then (s.lcV k b) else (s.lcV k a))] }) := by
  rw [exec_lcMin, execLcMin]
  exact State.lcAlu_ready c.isLt h

theorem lcMax_runs (c : Fin 52) (e : Bool) (d a b : Fin 32)
    (h : s.LcReady c [a, b, d] false t 1) :
    exec (.lcMax c e d a b) s = .next (s.lcDone c t 1 1 e fun k => { regs := [(d, if sv (s.lcV k a) < sv (s.lcV k b) then (s.lcV k b) else (s.lcV k a))] }) := by
  rw [exec_lcMax, execLcMax]
  exact State.lcAlu_ready c.isLt h

theorem lcMul_runs (c : Fin 52) (e : Bool) (d a b : Fin 32)
    (h : s.LcReady c [a, b, d] false t 1) :
    exec (.lcMul c e d a b) s = .next (s.lcDone c t 1 1 e fun k => { regs := [(d, (s.lcV k a) * (s.lcV k b))] }) := by
  rw [exec_lcMul, execLcMul]
  exact State.lcAlu_ready c.isLt h

theorem lcMulh_runs (c : Fin 52) (e : Bool) (d a b : Fin 32)
    (h : s.LcReady c [a, b, d] false t 1) :
    exec (.lcMulh c e d a b) s = .next (s.lcDone c t 1 1 e fun k => { regs := [(d, Word.ofInt (sra (sv (s.lcV k a) * sv (s.lcV k b)) 32))] }) := by
  rw [exec_lcMulh, execLcMulh]
  exact State.lcAlu_ready c.isLt h

theorem lcSel_runs (c : Fin 52) (e : Bool) (d a b x : Fin 32)
    (h : s.LcReady c [a, b, x, d] false t 1) :
    exec (.lcSel c e d a b x) s = .next (s.lcDone c t 1 1 e fun k => { regs := [(d, if (s.lcV k x) = 0 then (s.lcV k b) else (s.lcV k a))] }) := by
  rw [exec_lcSel, execLcSel]
  exact State.lcAlu3_ready c.isLt h

theorem lcClz_runs (c : Fin 52) (e : Bool) (d a : Fin 32)
    (h : s.LcReady c [a, d] false t 1) :
    exec (.lcClz c e d a) s = .next (s.lcDone c t 1 1 e fun k => { regs := [(d, BitVec.ofNat 32 (32 - bitLen (s.lcV k a).toNat))] }) := by
  rw [exec_lcClz, execLcClz]
  exact State.lcAlu1_ready c.isLt h

theorem lcAddS_runs (c : Fin 52) (e : Bool) (d a b : Fin 32)
    (h : s.LcReady c [a, b, d] false t 1) :
    exec (.lcAddS c e d a b) s = .next (s.lcDone c t 1 1 e fun k => { regs := [(d, sat32 (sv (s.lcV k a) + sv (s.lcV k b)))] }) := by
  rw [exec_lcAddS, execLcAddS]
  exact State.lcAlu_ready c.isLt h

theorem lcSubS_runs (c : Fin 52) (e : Bool) (d a b : Fin 32)
    (h : s.LcReady c [a, b, d] false t 1) :
    exec (.lcSubS c e d a b) s = .next (s.lcDone c t 1 1 e fun k => { regs := [(d, sat32 (sv (s.lcV k a) - sv (s.lcV k b)))] }) := by
  rw [exec_lcSubS, execLcSubS]
  exact State.lcAlu_ready c.isLt h

theorem lcNegS_runs (c : Fin 52) (e : Bool) (d a : Fin 32)
    (h : s.LcReady c [a, d] false t 1) :
    exec (.lcNegS c e d a) s = .next (s.lcDone c t 1 1 e fun k => { regs := [(d, sat32 (-sv (s.lcV k a)))] }) := by
  rw [exec_lcNegS, execLcNegS]
  exact State.lcAlu1_ready c.isLt h

theorem lcAbsS_runs (c : Fin 52) (e : Bool) (d a : Fin 32)
    (h : s.LcReady c [a, d] false t 1) :
    exec (.lcAbsS c e d a) s = .next (s.lcDone c t 1 1 e fun k => { regs := [(d, sat32 (sv (s.lcV k a)).natAbs)] }) := by
  rw [exec_lcAbsS, execLcAbsS]
  exact State.lcAlu1_ready c.isLt h

theorem lcMulq_runs (c : Fin 52) (e : Bool) (d a b : Fin 32)
    (h : s.LcReady c [a, b, d] false t 1) :
    exec (.lcMulq c e d a b) s = .next (s.lcDone c t 1 1 e fun k => { regs := [(d, sat32 (sra (sv (s.lcV k a) * sv (s.lcV k b)) 31))] }) := by
  rw [exec_lcMulq, execLcMulq]
  exact State.lcAlu_ready c.isLt h

theorem lcMadq_runs (c : Fin 52) (e : Bool) (d a b x : Fin 32)
    (h : s.LcReady c [a, b, x, d] false t 1) :
    exec (.lcMadq c e d a b x) s = .next (s.lcDone c t 1 1 e fun k => { regs := [(d, sat32 (sv (s.lcV k x) + sra (sv (s.lcV k a) * sv (s.lcV k b)) 31))] }) := by
  rw [exec_lcMadq, execLcMadq]
  exact State.lcAlu3_ready c.isLt h

theorem lcMulq15_runs (c : Fin 52) (e : Bool) (d a b : Fin 32)
    (h : s.LcReady c [a, b, d] false t 1) :
    exec (.lcMulq15 c e d a b) s = .next (s.lcDone c t 1 1 e fun k => { regs := [(d, sat16 (sra (low16 (s.lcV k a) * low16 (s.lcV k b)) 15))] }) := by
  rw [exec_lcMulq15, execLcMulq15]
  exact State.lcAlu_ready c.isLt h

theorem lcMadq15_runs (c : Fin 52) (e : Bool) (d a b x : Fin 32)
    (h : s.LcReady c [a, b, x, d] false t 1) :
    exec (.lcMadq15 c e d a b x) s = .next (s.lcDone c t 1 1 e fun k => { regs := [(d, sat16 (low16 (s.lcV k x) + sra (low16 (s.lcV k a) * low16 (s.lcV k b)) 15))] }) := by
  rw [exec_lcMadq15, execLcMadq15]
  exact State.lcAlu3_ready c.isLt h

theorem lcClmp_runs (c : Fin 52) (e : Bool) (d a b : Fin 32)
    (h : s.LcReady c [a, b, d] false t 1) :
    exec (.lcClmp c e d a b) s = .next (s.lcDone c t 1 1 e fun k => { regs := [(d, Word.ofInt (min (max (sv (s.lcV k a)) (-sv (s.lcV k b))) (sv (s.lcV k b))))] }) := by
  rw [exec_lcClmp, execLcClmp]
  exact State.lcAlu_ready c.isLt h

theorem lcShls_runs (c : Fin 52) (e : Bool) (d a b : Fin 32)
    (h : s.LcReady c [a, b, d] false t 1) :
    exec (.lcShls c e d a b) s = .next (s.lcDone c t 1 1 e fun k => { regs := [(d, sat32 (sv (s.lcV k a) * (2 ^ ((s.lcV k b).toNat % 32) : Nat)))] }) := by
  rw [exec_lcShls, execLcShls]
  exact State.lcAlu_ready c.isLt h

theorem lcRndq15_runs (c : Fin 52) (e : Bool) (d a : Fin 32)
    (h : s.LcReady c [a, d] false t 1) :
    exec (.lcRndq15 c e d a) s = .next (s.lcDone c t 1 1 e fun k => { regs := [(d, sat16 (sra (sv (s.lcV k a) + 32768) 16))] }) := by
  rw [exec_lcRndq15, execLcRndq15]
  exact State.lcAlu1_ready c.isLt h

theorem lcFadd_runs (c : Fin 52) (e : Bool) (d a b : Fin 32)
    (h : s.LcReady c [a, b, d] false t 1) :
    exec (.lcFadd c e d a b) s = .next (s.lcDone c t 1 1 e fun k => { regs := [(d, fpAdd (s.lcV k a) (s.lcV k b))] }) := by
  rw [exec_lcFadd, execLcFadd]
  exact State.lcAlu_ready c.isLt h

theorem lcFsub_runs (c : Fin 52) (e : Bool) (d a b : Fin 32)
    (h : s.LcReady c [a, b, d] false t 1) :
    exec (.lcFsub c e d a b) s = .next (s.lcDone c t 1 1 e fun k => { regs := [(d, fpSub (s.lcV k a) (s.lcV k b))] }) := by
  rw [exec_lcFsub, execLcFsub]
  exact State.lcAlu_ready c.isLt h

theorem lcFmul_runs (c : Fin 52) (e : Bool) (d a b : Fin 32)
    (h : s.LcReady c [a, b, d] false t 1) :
    exec (.lcFmul c e d a b) s = .next (s.lcDone c t 1 1 e fun k => { regs := [(d, fpMul (s.lcV k a) (s.lcV k b))] }) := by
  rw [exec_lcFmul, execLcFmul]
  exact State.lcAlu_ready c.isLt h

theorem lcFmad_runs (c : Fin 52) (e : Bool) (d a b x : Fin 32)
    (h : s.LcReady c [a, b, x, d] false t 1) :
    exec (.lcFmad c e d a b x) s = .next (s.lcDone c t 1 1 e fun k => { regs := [(d, fpMad (s.lcV k a) (s.lcV k b) (s.lcV k x))] }) := by
  rw [exec_lcFmad, execLcFmad]
  exact State.lcAlu3_ready c.isLt h

theorem lcFmin_runs (c : Fin 52) (e : Bool) (d a b : Fin 32)
    (h : s.LcReady c [a, b, d] false t 1) :
    exec (.lcFmin c e d a b) s = .next (s.lcDone c t 1 1 e fun k => { regs := [(d, fpMin (s.lcV k a) (s.lcV k b))] }) := by
  rw [exec_lcFmin, execLcFmin]
  exact State.lcAlu_ready c.isLt h

theorem lcFmax_runs (c : Fin 52) (e : Bool) (d a b : Fin 32)
    (h : s.LcReady c [a, b, d] false t 1) :
    exec (.lcFmax c e d a b) s = .next (s.lcDone c t 1 1 e fun k => { regs := [(d, fpMax (s.lcV k a) (s.lcV k b))] }) := by
  rw [exec_lcFmax, execLcFmax]
  exact State.lcAlu_ready c.isLt h

theorem lcFabs_runs (c : Fin 52) (e : Bool) (d a : Fin 32)
    (h : s.LcReady c [a, d] false t 1) :
    exec (.lcFabs c e d a) s = .next (s.lcDone c t 1 1 e fun k => { regs := [(d, fpAbs (s.lcV k a))] }) := by
  rw [exec_lcFabs, execLcFabs]
  exact State.lcAlu1_ready c.isLt h

theorem lcFneg_runs (c : Fin 52) (e : Bool) (d a : Fin 32)
    (h : s.LcReady c [a, d] false t 1) :
    exec (.lcFneg c e d a) s = .next (s.lcDone c t 1 1 e fun k => { regs := [(d, fpNeg (s.lcV k a))] }) := by
  rw [exec_lcFneg, execLcFneg]
  exact State.lcAlu1_ready c.isLt h

theorem lcFcvtQf_runs (c : Fin 52) (e : Bool) (d a : Fin 32)
    (h : s.LcReady c [a, d] false t 1) :
    exec (.lcFcvtQf c e d a) s = .next (s.lcDone c t 1 1 e fun k => { regs := [(d, fcvtQF (s.lcV k a))] }) := by
  rw [exec_lcFcvtQf, execLcFcvtQf]
  exact State.lcAlu1_ready c.isLt h

theorem lcFcvtFq_runs (c : Fin 52) (e : Bool) (d a : Fin 32)
    (h : s.LcReady c [a, d] false t 1) :
    exec (.lcFcvtFq c e d a) s = .next (s.lcDone c t 1 1 e fun k => { regs := [(d, fcvtFQ (s.lcV k a))] }) := by
  rw [exec_lcFcvtFq, execLcFcvtFq]
  exact State.lcAlu1_ready c.isLt h

theorem lcFcvtIf_runs (c : Fin 52) (e : Bool) (d a : Fin 32)
    (h : s.LcReady c [a, d] false t 1) :
    exec (.lcFcvtIf c e d a) s = .next (s.lcDone c t 1 1 e fun k => { regs := [(d, fcvtIF (s.lcV k a))] }) := by
  rw [exec_lcFcvtIf, execLcFcvtIf]
  exact State.lcAlu1_ready c.isLt h

theorem lcFcvtFi_runs (c : Fin 52) (e : Bool) (d a : Fin 32)
    (h : s.LcReady c [a, d] false t 1) :
    exec (.lcFcvtFi c e d a) s = .next (s.lcDone c t 1 1 e fun k => { regs := [(d, fcvtFI (s.lcV k a))] }) := by
  rw [exec_lcFcvtFi, execLcFcvtFi]
  exact State.lcAlu1_ready c.isLt h

theorem lcFlt_runs (c : Fin 52) (e : Bool) (d a b : Fin 32)
    (h : s.LcReady c [a, b, d] false t 1) :
    exec (.lcFlt c e d a b) s = .next (s.lcDone c t 1 1 e fun k => { regs := [(d, if fpLt (s.lcV k a) (s.lcV k b) then 1 else 0)] }) := by
  rw [exec_lcFlt, execLcFlt]
  exact State.lcAlu_ready c.isLt h

theorem lcMaca_runs (c : Fin 52) (e : Bool) (x : Bool) (a b : Fin 32)
    (h : s.LcReady c [a, b] false t 1) :
    exec (.lcMaca c e x a b) s = .next (s.lcDone c t 1 1 e fun k => { acc := some (x, satAcc (s.lcAcc k x + sv (s.lcV k a) * sv (s.lcV k b))) }) := by
  rw [exec_lcMaca, execLcMaca]
  exact State.lcAccOp_ready c.isLt h fun k z => by first | rfl | simp only [State.lcStart_lcV]

theorem lcMsua_runs (c : Fin 52) (e : Bool) (x : Bool) (a b : Fin 32)
    (h : s.LcReady c [a, b] false t 1) :
    exec (.lcMsua c e x a b) s = .next (s.lcDone c t 1 1 e fun k => { acc := some (x, satAcc (s.lcAcc k x - sv (s.lcV k a) * sv (s.lcV k b))) }) := by
  rw [exec_lcMsua, execLcMsua]
  exact State.lcAccOp_ready c.isLt h fun k z => by first | rfl | simp only [State.lcStart_lcV]

theorem lcAclr_runs (c : Fin 52) (e : Bool) (x : Bool)
    (h : s.LcReady c [] false t 1) :
    exec (.lcAclr c e x) s = .next (s.lcDone c t 1 1 e fun k => { acc := some (x, 0) }) := by
  rw [exec_lcAclr, execLcAclr]
  exact State.lcAccOp_ready c.isLt h fun k z => by first | rfl | simp only [State.lcStart_lcV]

theorem lcAld_runs (c : Fin 52) (e : Bool) (x : Bool) (a : Fin 32)
    (h : s.LcReady c [a] false t 1) :
    exec (.lcAld c e x a) s = .next (s.lcDone c t 1 1 e fun k => { acc := some (x, BitVec.ofInt 80 (2 ^ 31 * sv (s.lcV k a))) }) := by
  rw [exec_lcAld, execLcAld]
  exact State.lcAccOp_ready c.isLt h fun k z => by first | rfl | simp only [State.lcStart_lcV]

theorem lcArd_runs (c : Fin 52) (e : Bool) (x : Bool) (d : Fin 32)
    (h : s.LcReady c [d] false t 1) :
    exec (.lcArd c e x d) s = .next (s.lcDone c t 1 1 e fun k => { regs := [(d, sat32 (sra (s.lcAcc k x + 2 ^ 30) 31))] }) := by
  rw [exec_lcArd, execLcArd]
  exact congrArg _ (State.lcExec_ready c.isLt h (fun k _ => by simp only [State.lcStart_lcV, State.lcStart_lcAcc, State.lcStart_lcAddr, State.lcStart_lcPort, State.lcStart_lcSelf, State.lcStart_cell, State.lcStart_lcLoad]) (State.lcFine_plain (fun _ => rfl) rfl (fun _ => rfl) (fun _ => rfl) (fun _ => rfl) h.room))

theorem lcArd15_runs (c : Fin 52) (e : Bool) (x : Bool) (d : Fin 32)
    (h : s.LcReady c [d] false t 1) :
    exec (.lcArd15 c e x d) s = .next (s.lcDone c t 1 1 e fun k => { regs := [(d, sat32 (sra (s.lcAcc k x + 2 ^ 14) 15))] }) := by
  rw [exec_lcArd15, execLcArd15]
  exact congrArg _ (State.lcExec_ready c.isLt h (fun k _ => by simp only [State.lcStart_lcV, State.lcStart_lcAcc, State.lcStart_lcAddr, State.lcStart_lcPort, State.lcStart_lcSelf, State.lcStart_cell, State.lcStart_lcLoad]) (State.lcFine_plain (fun _ => rfl) rfl (fun _ => rfl) (fun _ => rfl) (fun _ => rfl) h.room))

theorem lcClarke_runs (c : Fin 52) (e : Bool) (d a b : Fin 32)
    (h : s.LcReady c [a, b, d, d + 1] false t 1)
    (hd : d.val % 2 = 0) :
    exec (.lcClarke c e d a b) s = .next (s.lcDone c t 1 1 e fun k => { regs := [(d, s.lcV k a), (d + 1, clarkeB (s.lcV k a) (s.lcV k b))] }) := by
  rw [exec_lcClarke, execLcClarke]
  exact congrArg _ (State.lcExec_ready c.isLt h (fun k _ => by rw [if_neg (by omega)]; simp only [State.lcStart_lcV, State.lcStart_lcAcc, State.lcStart_lcAddr, State.lcStart_lcPort, State.lcStart_lcSelf, State.lcStart_cell, State.lcStart_lcLoad]) (State.lcFine_plain (fun _ => rfl) rfl (fun _ => rfl) (fun _ => rfl) (fun _ => rfl) h.room))

theorem lcPark_runs (c : Fin 52) (e : Bool) (d a b : Fin 32)
    (h : s.LcReady c [a, a + 1, b, d, d + 1] false t 2)
    (hd : d.val % 2 = 0) (ha : a.val % 2 = 0) :
    exec (.lcPark c e d a b) s = .next (s.lcDone c t 2 2 e fun k => { regs := [(d, (parkPair (s.lcV k a) (s.lcV k (a + 1)) (s.lcV k b)).1), (d + 1, (parkPair (s.lcV k a) (s.lcV k (a + 1)) (s.lcV k b)).2)] }) := by
  rw [exec_lcPark, execLcPark]
  exact congrArg _ (State.lcExec_ready c.isLt h (fun k _ => by rw [if_neg (by omega)]; simp only [State.lcStart_lcV, State.lcStart_lcAcc, State.lcStart_lcAddr, State.lcStart_lcPort, State.lcStart_lcSelf, State.lcStart_cell, State.lcStart_lcLoad]) (State.lcFine_plain (fun _ => rfl) rfl (fun _ => rfl) (fun _ => rfl) (fun _ => rfl) h.room))

theorem lcIpark_runs (c : Fin 52) (e : Bool) (d a b : Fin 32)
    (h : s.LcReady c [a, a + 1, b, d, d + 1] false t 2)
    (hd : d.val % 2 = 0) (ha : a.val % 2 = 0) :
    exec (.lcIpark c e d a b) s = .next (s.lcDone c t 2 2 e fun k => { regs := [(d, (iparkPair (s.lcV k a) (s.lcV k (a + 1)) (s.lcV k b)).1), (d + 1, (iparkPair (s.lcV k a) (s.lcV k (a + 1)) (s.lcV k b)).2)] }) := by
  rw [exec_lcIpark, execLcIpark]
  exact congrArg _ (State.lcExec_ready c.isLt h (fun k _ => by rw [if_neg (by omega)]; simp only [State.lcStart_lcV, State.lcStart_lcAcc, State.lcStart_lcAddr, State.lcStart_lcPort, State.lcStart_lcSelf, State.lcStart_cell, State.lcStart_lcLoad]) (State.lcFine_plain (fun _ => rfl) rfl (fun _ => rfl) (fun _ => rfl) (fun _ => rfl) h.room))

theorem lcSvm_runs (c : Fin 52) (e : Bool) (d a : Fin 32)
    (h : s.LcReady c [a, a + 1, d, d + 1, d + 2, d + 3] false t 3)
    (hd : d.val % 4 = 0) (ha : a.val % 2 = 0) :
    exec (.lcSvm c e d a) s = .next (s.lcDone c t 3 3 e fun k => { regs := [(d, (svmOf (s.lcV k a) (s.lcV k (a + 1))).1), (d + 1, (svmOf (s.lcV k a) (s.lcV k (a + 1))).2.1), (d + 2, (svmOf (s.lcV k a) (s.lcV k (a + 1))).2.2.1),
      (d + 3, (svmOf (s.lcV k a) (s.lcV k (a + 1))).2.2.2)] }) := by
  rw [exec_lcSvm, execLcSvm]
  exact congrArg _ (State.lcExec_ready c.isLt h (fun k _ => by rw [if_neg (by omega)]; simp only [State.lcStart_lcV, State.lcStart_lcAcc, State.lcStart_lcAddr, State.lcStart_lcPort, State.lcStart_lcSelf, State.lcStart_cell, State.lcStart_lcLoad]) (State.lcFine_plain (fun _ => rfl) rfl (fun _ => rfl) (fun _ => rfl) (fun _ => rfl) h.room))

theorem lcAddi_runs (c : Fin 52) (e : Bool) (d a : Fin 32) (imm : BitVec 16)
    (h : s.LcReady c [a, d] false t 1) :
    exec (.lcAddi c e d a imm) s = .next (s.lcDone c t 1 1 e fun k => { regs := [(d, (s.lcV k a) + imm.signExtend 32)] }) := by
  rw [exec_lcAddi, execLcAddi]
  exact State.lcAlu1_ready c.isLt h

theorem lcAndi_runs (c : Fin 52) (e : Bool) (d a : Fin 32) (imm : BitVec 16)
    (h : s.LcReady c [a, d] false t 1) :
    exec (.lcAndi c e d a imm) s = .next (s.lcDone c t 1 1 e fun k => { regs := [(d, (s.lcV k a) &&& imm.zeroExtend 32)] }) := by
  rw [exec_lcAndi, execLcAndi]
  exact State.lcAlu1_ready c.isLt h

theorem lcOri_runs (c : Fin 52) (e : Bool) (d a : Fin 32) (imm : BitVec 16)
    (h : s.LcReady c [a, d] false t 1) :
    exec (.lcOri c e d a imm) s = .next (s.lcDone c t 1 1 e fun k => { regs := [(d, (s.lcV k a) ||| imm.zeroExtend 32)] }) := by
  rw [exec_lcOri, execLcOri]
  exact State.lcAlu1_ready c.isLt h

theorem lcXori_runs (c : Fin 52) (e : Bool) (d a : Fin 32) (imm : BitVec 16)
    (h : s.LcReady c [a, d] false t 1) :
    exec (.lcXori c e d a imm) s = .next (s.lcDone c t 1 1 e fun k => { regs := [(d, (s.lcV k a) ^^^ imm.zeroExtend 32)] }) := by
  rw [exec_lcXori, execLcXori]
  exact State.lcAlu1_ready c.isLt h

theorem lcSlli_runs (c : Fin 52) (e : Bool) (d a : Fin 32) (imm : BitVec 16)
    (h : s.LcReady c [a, d] false t 1)
    (hi : imm.toNat < 32) :
    exec (.lcSlli c e d a imm) s = .next (s.lcDone c t 1 1 e fun k => { regs := [(d, (s.lcV k a) <<< imm.toNat)] }) := by
  rw [exec_lcSlli, execLcSlli]
  exact State.lcShift_ready c.isLt hi h

theorem lcSrli_runs (c : Fin 52) (e : Bool) (d a : Fin 32) (imm : BitVec 16)
    (h : s.LcReady c [a, d] false t 1)
    (hi : imm.toNat < 32) :
    exec (.lcSrli c e d a imm) s = .next (s.lcDone c t 1 1 e fun k => { regs := [(d, (s.lcV k a) >>> imm.toNat)] }) := by
  rw [exec_lcSrli, execLcSrli]
  exact State.lcShift_ready c.isLt hi h

theorem lcSrai_runs (c : Fin 52) (e : Bool) (d a : Fin 32) (imm : BitVec 16)
    (h : s.LcReady c [a, d] false t 1)
    (hi : imm.toNat < 32) :
    exec (.lcSrai c e d a imm) s = .next (s.lcDone c t 1 1 e fun k => { regs := [(d, (s.lcV k a).sshiftRight imm.toNat)] }) := by
  rw [exec_lcSrai, execLcSrai]
  exact State.lcShift_ready c.isLt hi h

theorem lcLi_runs (c : Fin 52) (e : Bool) (d : Fin 32) (imm : BitVec 16)
    (h : s.LcReady c [d] false t 1) :
    exec (.lcLi c e d imm) s = .next (s.lcDone c t 1 1 e fun k => { regs := [(d, imm.signExtend 32)] }) := by
  rw [exec_lcLi, execLcLi]
  exact State.lcConst_ready c.isLt h

theorem lcLui_runs (c : Fin 52) (e : Bool) (d : Fin 32) (imm : BitVec 16)
    (h : s.LcReady c [d] false t 1) :
    exec (.lcLui c e d imm) s = .next (s.lcDone c t 1 1 e fun k => { regs := [(d, imm.zeroExtend 32 <<< 16)] }) := by
  rw [exec_lcLui, execLcLui]
  exact State.lcConst_ready c.isLt h

theorem lcLd_runs (c : Fin 52) (e : Bool) (d a : Fin 32) (imm : BitVec 16)
    (h : s.LcReady c [a, d] false t 1)
    (ho : s.LcFine c fun k => { (s.lcLoad k (s.lcAddr k a imm) 4).1 with regs := [(d, (s.lcLoad k (s.lcAddr k a imm) 4).2)] }) :
    exec (.lcLd c e d a imm) s = .next (s.lcDone c t 1 1 e fun k => { (s.lcLoad k (s.lcAddr k a imm) 4).1 with regs := [(d, (s.lcLoad k (s.lcAddr k a imm) 4).2)] }) := by
  rw [exec_lcLd, execLcLd]
  exact congrArg _ (State.lcExec_ready c.isLt h (fun k _ => by simp only [State.lcStart_lcV, State.lcStart_lcAcc, State.lcStart_lcAddr, State.lcStart_lcPort, State.lcStart_lcSelf, State.lcStart_cell, State.lcStart_lcLoad]) ho)

theorem lcLdD_runs (c : Fin 52) (e : Bool) (d a : Fin 32) (imm : BitVec 16)
    (h : s.LcReady c [a, d, d + 1] false t 1)
    (hd : d.val % 2 = 0) (ha : ∀ k ∈ s.lcBoth c, s.lcAddr k a imm % 8 = 0)
    (ho : s.LcFine c fun k => { regs := [(d, (s.lcLoad k (s.lcAddr k a imm) 4).2), (d + 1, (s.lcLoad k (s.lcAddr k a imm + 4) 4).2)], fault := lowFault (s.lcLoad k (s.lcAddr k a imm) 4).1.fault (s.lcLoad k (s.lcAddr k a imm + 4) 4).1.fault, corrected := (s.lcLoad k (s.lcAddr k a imm) 4).1.corrected + (s.lcLoad k (s.lcAddr k a imm + 4) 4).1.corrected }) :
    exec (.lcLdD c e d a imm) s = .next (s.lcDone c t 1 1 e fun k => { regs := [(d, (s.lcLoad k (s.lcAddr k a imm) 4).2), (d + 1, (s.lcLoad k (s.lcAddr k a imm + 4) 4).2)], fault := lowFault (s.lcLoad k (s.lcAddr k a imm) 4).1.fault (s.lcLoad k (s.lcAddr k a imm + 4) 4).1.fault, corrected := (s.lcLoad k (s.lcAddr k a imm) 4).1.corrected + (s.lcLoad k (s.lcAddr k a imm + 4) 4).1.corrected }) := by
  rw [exec_lcLdD, execLcLdD]
  exact congrArg _ (State.lcExec_ready c.isLt h (fun k hk => by rw [if_neg (by omega)]; simp only [State.lcStart_lcAddr, ha k hk, ne_eq, not_true_eq_false, ↓reduceIte, State.lcStart_lcLoad]) ho)

theorem lcSt_runs (c : Fin 52) (e : Bool) (d a : Fin 32) (imm : BitVec 16)
    (h : s.LcReady c [a, d] false t 1)
    (ha : ∀ k ∈ s.lcBoth c, s.lcAddr k a imm % 4 = 0 ∧ s.lcAddr k a imm < 8192)
    (ho : s.LcFine c fun k => { store := [(s.lcAddr k a imm / 4, s.lcV k d)] }) :
    exec (.lcSt c e d a imm) s = .next (s.lcDone c t 1 1 e fun k => { store := [(s.lcAddr k a imm / 4, s.lcV k d)] }) := by
  rw [exec_lcSt, execLcSt]
  exact congrArg _ (State.lcExec_ready c.isLt h (fun k hk => by have := ha k hk; simp only [State.lcStart_lcAddr]; rw [if_neg (by omega), State.lcStart_lcV]) ho)

theorem lcStD_runs (c : Fin 52) (e : Bool) (d a : Fin 32) (imm : BitVec 16)
    (h : s.LcReady c [a, d, d + 1] false t 1)
    (hd : d.val % 2 = 0) (ha : ∀ k ∈ s.lcBoth c, s.lcAddr k a imm % 8 = 0 ∧ s.lcAddr k a imm < 8192)
    (ho : s.LcFine c fun k => { store := [(s.lcAddr k a imm / 4, s.lcV k d), (s.lcAddr k a imm / 4 + 1, s.lcV k (d + 1))] }) :
    exec (.lcStD c e d a imm) s = .next (s.lcDone c t 1 1 e fun k => { store := [(s.lcAddr k a imm / 4, s.lcV k d), (s.lcAddr k a imm / 4 + 1, s.lcV k (d + 1))] }) := by
  rw [exec_lcStD, execLcStD]
  exact congrArg _ (State.lcExec_ready c.isLt h (fun k hk => by have := ha k hk; simp only [State.lcStart_lcAddr]; rw [if_neg (by omega), if_neg (by omega), State.lcStart_lcV, State.lcStart_lcV]) ho)

theorem lcPrd_runs (c : Fin 52) (e : Bool) (d a : Fin 32) (x : Bool) (port : BitVec 12)
    (h : s.LcReady c ((if x then [a.val] else []) ++ [d.val]) false t 1) :
    exec (.lcPrd c e d a x port) s = .next (s.lcDone c t 1 2 e fun k => { regs := [(d, (s.lcStart c t).portRead (s.lcSelf k) (s.lcPort k a x port))] }) := by
  rw [exec_lcPrd, execLcPrd]
  exact congrArg _ (State.lcExec_ready c.isLt h (fun k _ => by simp only [State.lcStart_lcV, State.lcStart_lcAcc, State.lcStart_lcAddr, State.lcStart_lcPort, State.lcStart_lcSelf, State.lcStart_cell, State.lcStart_lcLoad]) (State.lcFine_plain (fun _ => rfl) rfl (fun _ => rfl) (fun _ => rfl) (fun _ => rfl) h.room))

theorem lcPrdD_runs (c : Fin 52) (e : Bool) (d a : Fin 32) (x : Bool) (port : BitVec 12)
    (h : s.LcReady c ((if x then [a.val] else []) ++ [d.val, d.val + 1]) false t 1)
    (hd : d.val % 2 = 0) (hp : ∀ k ∈ s.lcBoth c, (s.lcPort k a x port) % 2 = 0) :
    exec (.lcPrdD c e d a x port) s = .next (s.lcDone c t 1 2 e fun k => { regs := [(d, (s.lcStart c t).portRead (s.lcSelf k) (s.lcPort k a x port)),
      (d + 1, (s.lcStart c t).portRead (s.lcSelf k) ((s.lcPort k a x port) + 1))] }) := by
  rw [exec_lcPrdD, execLcPrdD]
  exact congrArg _ (State.lcExec_ready c.isLt h (fun k hk => by have := hp k hk; simp only [State.lcStart_lcPort, State.lcStart_lcSelf]; rw [if_neg (by omega)]) (State.lcFine_plain (fun _ => rfl) rfl (fun _ => rfl) (fun _ => rfl) (fun _ => rfl) h.room))

theorem lcPwr_runs (c : Fin 52) (e : Bool) (d a : Fin 32) (x : Bool) (port : BitVec 12)
    (h : s.LcReady c (d.val :: (if x then [a.val] else []) ++ []) false t 1)
    (ho : s.LcFine c fun k => { port := [((s.lcPort k a x port), s.lcV k d)] }) :
    exec (.lcPwr c e d a x port) s = .next (s.lcDone c t 1 1 e fun k => { port := [((s.lcPort k a x port), s.lcV k d)] }) := by
  rw [exec_lcPwr, execLcPwr]
  exact congrArg _ (State.lcExec_ready c.isLt h (fun k _ => by simp only [State.lcStart_lcV, State.lcStart_lcAcc, State.lcStart_lcAddr, State.lcStart_lcPort, State.lcStart_lcSelf, State.lcStart_cell, State.lcStart_lcLoad]) ho)

theorem lcPwrD_runs (c : Fin 52) (e : Bool) (d a : Fin 32) (x : Bool) (port : BitVec 12)
    (h : s.LcReady c (d.val :: (d.val + 1) :: (if x then [a.val] else []) ++ []) false t 1)
    (hd : d.val % 2 = 0) (hp : ∀ k ∈ s.lcBoth c, (s.lcPort k a x port) % 2 = 0)
    (ho : s.LcFine c fun k => { port := [((s.lcPort k a x port), s.lcV k d), ((s.lcPort k a x port) + 1, s.lcV k (d + 1))] }) :
    exec (.lcPwrD c e d a x port) s = .next (s.lcDone c t 1 1 e fun k => { port := [((s.lcPort k a x port), s.lcV k d), ((s.lcPort k a x port) + 1, s.lcV k (d + 1))] }) := by
  rw [exec_lcPwrD, execLcPwrD]
  exact congrArg _ (State.lcExec_ready c.isLt h (fun k hk => by have := hp k hk; simp only [State.lcStart_lcPort, State.lcStart_lcV]; rw [if_neg (by omega)]) ho)

theorem lcMsLd_runs (c : Fin 52) (e : Bool) (d a b : Fin 32) (td : Fin 64)
    (h : s.LcReady c [a, b, d] true t 1)
    (ho : s.LcFine c fun k => { ms := some ⟨0, .ld, td, s.lcV k a, s.lcV k b, d⟩ }) :
    exec (.lcMsLd c e d a b td) s = .next (s.lcDone c t 1 6 e fun k => { ms := some ⟨0, .ld, td, s.lcV k a, s.lcV k b, d⟩ }) := by
  rw [exec_lcMsLd, execLcMsLd]
  exact State.lcMs_ready c.isLt h ho

theorem lcMsLerp_runs (c : Fin 52) (e : Bool) (d a : Fin 32) (td : Fin 64)
    (h : s.LcReady c [a, d] true t 1)
    (ho : s.LcFine c fun k => { ms := some ⟨0, .lerp, td, s.lcV k a, 0, d⟩ }) :
    exec (.lcMsLerp c e d a td) s = .next (s.lcDone c t 1 6 e fun k => { ms := some ⟨0, .lerp, td, s.lcV k a, 0, d⟩ }) := by
  rw [exec_lcMsLerp, execLcMsLerp]
  exact State.lcMs_ready c.isLt h ho

theorem lcMsBlerp_runs (c : Fin 52) (e : Bool) (d a b : Fin 32) (td : Fin 64)
    (h : s.LcReady c [a, b, d] true t 1)
    (ho : s.LcFine c fun k => { ms := some ⟨0, .blerp, td, s.lcV k a, s.lcV k b, d⟩ }) :
    exec (.lcMsBlerp c e d a b td) s = .next (s.lcDone c t 1 6 e fun k => { ms := some ⟨0, .blerp, td, s.lcV k a, s.lcV k b, d⟩ }) := by
  rw [exec_lcMsBlerp, execLcMsBlerp]
  exact State.lcMs_ready c.isLt h ho

theorem lcBrEq_runs (c : Fin 52) (a b : Fin 32) (off : BitVec 13)
    (h : s.LcReady c [a, b] false t 1)
    (ho : s.LcFine c fun k => if (s.lcV k a) == (s.lcV k b) then { target := some ((s.cell c).pc + off.toInt) } else {}) :
    exec (.lcBrEq c false a b off) s = .next (s.lcDone c t 1 1 false fun k => if (s.lcV k a) == (s.lcV k b) then { target := some ((s.cell c).pc + off.toInt) } else {}) := by
  rw [exec_lcBrEq, execLcBrEq]
  exact State.lcBranch_ready c.isLt h ho

theorem lcBrNe_runs (c : Fin 52) (a b : Fin 32) (off : BitVec 13)
    (h : s.LcReady c [a, b] false t 1)
    (ho : s.LcFine c fun k => if (s.lcV k a) != (s.lcV k b) then { target := some ((s.cell c).pc + off.toInt) } else {}) :
    exec (.lcBrNe c false a b off) s = .next (s.lcDone c t 1 1 false fun k => if (s.lcV k a) != (s.lcV k b) then { target := some ((s.cell c).pc + off.toInt) } else {}) := by
  rw [exec_lcBrNe, execLcBrNe]
  exact State.lcBranch_ready c.isLt h ho

theorem lcBrLt_runs (c : Fin 52) (a b : Fin 32) (off : BitVec 13)
    (h : s.LcReady c [a, b] false t 1)
    (ho : s.LcFine c fun k => if decide (sv (s.lcV k a) < sv (s.lcV k b)) then { target := some ((s.cell c).pc + off.toInt) } else {}) :
    exec (.lcBrLt c false a b off) s = .next (s.lcDone c t 1 1 false fun k => if decide (sv (s.lcV k a) < sv (s.lcV k b)) then { target := some ((s.cell c).pc + off.toInt) } else {}) := by
  rw [exec_lcBrLt, execLcBrLt]
  exact State.lcBranch_ready c.isLt h ho

theorem lcBrGe_runs (c : Fin 52) (a b : Fin 32) (off : BitVec 13)
    (h : s.LcReady c [a, b] false t 1)
    (ho : s.LcFine c fun k => if decide (sv (s.lcV k b) ≤ sv (s.lcV k a)) then { target := some ((s.cell c).pc + off.toInt) } else {}) :
    exec (.lcBrGe c false a b off) s = .next (s.lcDone c t 1 1 false fun k => if decide (sv (s.lcV k b) ≤ sv (s.lcV k a)) then { target := some ((s.cell c).pc + off.toInt) } else {}) := by
  rw [exec_lcBrGe, execLcBrGe]
  exact State.lcBranch_ready c.isLt h ho

theorem lcBrLtu_runs (c : Fin 52) (a b : Fin 32) (off : BitVec 13)
    (h : s.LcReady c [a, b] false t 1)
    (ho : s.LcFine c fun k => if decide ((s.lcV k a).toNat < (s.lcV k b).toNat) then { target := some ((s.cell c).pc + off.toInt) } else {}) :
    exec (.lcBrLtu c false a b off) s = .next (s.lcDone c t 1 1 false fun k => if decide ((s.lcV k a).toNat < (s.lcV k b).toNat) then { target := some ((s.cell c).pc + off.toInt) } else {}) := by
  rw [exec_lcBrLtu, execLcBrLtu]
  exact State.lcBranch_ready c.isLt h ho

theorem lcBrGeu_runs (c : Fin 52) (a b : Fin 32) (off : BitVec 13)
    (h : s.LcReady c [a, b] false t 1)
    (ho : s.LcFine c fun k => if decide ((s.lcV k b).toNat ≤ (s.lcV k a).toNat) then { target := some ((s.cell c).pc + off.toInt) } else {}) :
    exec (.lcBrGeu c false a b off) s = .next (s.lcDone c t 1 1 false fun k => if decide ((s.lcV k b).toNat ≤ (s.lcV k a).toNat) then { target := some ((s.cell c).pc + off.toInt) } else {}) := by
  rw [exec_lcBrGeu, execLcBrGeu]
  exact State.lcBranch_ready c.isLt h ho

theorem lcDjnz_runs (c : Fin 52) (a : Fin 32) (off : BitVec 13)
    (h : s.LcReady c [a, a] false t 1)
    (ho : s.LcFine c fun k => { regs := [(a, s.lcV k a - 1)], target := if s.lcV k a - 1 = 0 then none else some ((s.cell c).pc + off.toInt) }) :
    exec (.lcDjnz c false a off) s = .next (s.lcDone c t 1 1 false fun k => { regs := [(a, s.lcV k a - 1)], target := if s.lcV k a - 1 = 0 then none else some ((s.cell c).pc + off.toInt) }) := by
  rw [exec_lcDjnz, execLcDjnz]
  exact congrArg _ (State.lcExec_ready c.isLt h (fun k _ => by simp only [Bool.false_eq_true, ↓reduceIte, State.lcStart_lcV, State.lcStart_cell]) ho)

theorem lcBrAlways_runs (c : Fin 52) (off : BitVec 13)
    (h : s.LcReady c [] false t 1)
    (ho : s.LcFine c fun _ => { target := some ((s.cell c).pc + off.toInt) }) :
    exec (.lcBrAlways c false off) s = .next (s.lcDone c t 1 1 false fun _ => { target := some ((s.cell c).pc + off.toInt) }) := by
  rw [exec_lcBrAlways, execLcBrAlways]
  exact congrArg _ (State.lcExec_ready c.isLt h (fun k _ => by simp only [Bool.false_eq_true, ↓reduceIte, State.lcStart_cell]) ho)

theorem lcCall_runs (c : Fin 52) (off : BitVec 13)
    (h : s.LcReady c [] false t 1)
    (hs : (s.cell c).stack.length < 4) (ho : s.LcFine c fun _ => { target := some ((s.cell c).pc + off.toInt), stack := some (((s.cell c).pc + 1) :: (s.cell c).stack) }) :
    exec (.lcCall c false off) s = .next (s.lcDone c t 1 1 false fun _ => { target := some ((s.cell c).pc + off.toInt), stack := some (((s.cell c).pc + 1) :: (s.cell c).stack) }) := by
  rw [exec_lcCall, execLcCall]
  exact congrArg _ (State.lcExec_ready c.isLt h (fun k _ => by simp only [State.lcStart_cell]; rw [if_neg (by simp; omega)]) ho)

theorem lcRet_runs (c : Fin 52)
    (h : s.LcReady c [] false t 1) {r : Nat} {l : List Nat}
    (hs : (s.cell c).stack = r :: l) (ho : s.LcFine c fun _ => { target := some (r : Int), stack := some l }) :
    exec (.lcRet c false) s = .next (s.lcDone c t 1 1 false fun _ => { target := some (r : Int), stack := some l }) := by
  rw [exec_lcRet, execLcRet]
  exact congrArg _ (State.lcExec_ready c.isLt h (fun k hk => by simp only [State.lcStart_cell, hs, Bool.false_eq_true, ↓reduceIte]) ho)

end Sys2Proof.Machine
end

