-- ==== Sys2Proof/Laws/RunsMemory.lean ====
section
/-! SUPPORT. Where the commands of the memories, the ledger and the map store complete, and with what: one lemma a command
(R182 to R193, R343 to R359). -/

namespace Sys2Proof.Machine

variable {s : State}

theorem pageCorrection_runs (a : BitVec 32) (p : Fin 16) (h1 : regionOf a.toNat = .sram ∨ regionOf a.toNat = .mapStore)
    (h2 : s.domOn (domMem a.toNat) = true) (h3 : s.detects a.toNat = true) (h4 : s.pageErrors a.toNat ≤ s.strength a.toNat) :
    exec (.pageCorrection a p) s = .next ((s.pageFix a.toNat).memReport (pageMem a.toNat) 0 p (s.pageErrors a.toNat)
      (a.toNat / 8 * 8)) := by
  have h5 : s.written a.toNat = true := by
    rw [State.detects, Bool.and_eq_true] at h3; exact h3.1
  have h6 : (s.pageCheck a.toNat p).1 = (s.pageFix a.toNat).memReport (pageMem a.toNat) 0 p (s.pageErrors a.toNat)
      (a.toNat / 8 * 8) := by
    rw [State.pageCheck]
    try dsimp only
    rw [if_neg (by rw [h5]; decide), if_neg (by rw [h3]; decide), if_pos h4]
  rw [exec_pageCorrection, execPageCorrection]
  rcases h1 with h1 | h1 <;> (rw [h1]; dsimp only; rw [h2, h3, if_pos (by decide), h6])

theorem initClearDone_runs (h : s.flag Reg.MG_MEMSTAT 7 = true) :
    exec .initClearDone s = .next ((s.advanceTo s.mem.initDue).setFlag Reg.MG_MEMSTAT 7 false) := by
  rw [exec_initClearDone, execInitClearDone, if_pos h]

/-- Clearing init masks writes MG_MEMSTAT and no other register. -/
theorem State.reg_clearInit_ne (s : State) {a b e x : Nat} (h : x ≠ Reg.MG_MEMSTAT) : (s.clearInit a b e).reg x = s.reg x := by
  rw [State.clearInit]
  exact s.reg_setFld_ne _ _ _ h

theorem eccStrengthWrite_runs (k : Fin 9) (v : BitVec 32)
    (h1 : (if k.val = 8 then BitVec.ofNat 32 (v.toNat % 256) else v) ≠ s.reg (Reg.MG_ECCSTR k))
    (h2 : s.phase = 1 ∨ s.phase = 3 ∨ s.phase = 4)
    (h3 : ∀ r < (if k.val = 8 then 4 else 16),
      fieldOf (if k.val = 8 then BitVec.ofNat 32 (v.toNat % 256) else v) (2 * r + 1) (2 * r) ≠ 0) :
    ∃ u, exec (.eccStrengthWrite k v) s = .next u ∧
      u.reg (Reg.MG_ECCSTR k) = (if k.val = 8 then BitVec.ofNat 32 (v.toNat % 256) else v) ∧ u.reg Reg.MG_MEMCFGCHK = 0 := by
  have e1 : Reg.MG_ECCSTR k ≠ Reg.MG_MEMSTAT := by simp only [Reg.MG_ECCSTR, Reg.MG_MEMSTAT]; omega
  have e2 : Reg.MG_ECCSTR k ≠ Reg.MG_MEMCFGCHK := by simp only [Reg.MG_ECCSTR, Reg.MG_MEMCFGCHK]; omega
  rw [exec_eccStrengthWrite, execEccStrengthWrite, State.strengthWrite]
  dsimp only
  generalize (if k.val = 8 then BitVec.ofNat 32 (v.toNat % 256) else v) = w at h1 h3 ⊢
  generalize (if k.val = 8 then 4 else 16) = n at h3 ⊢
  have h4 : ((List.range n).any fun r => fieldOf w (2 * r + 1) (2 * r) == 0) = false := by
    rw [List.any_eq_false]
    intro r hr
    simp [h3 r (List.mem_range.1 hr)]
  have h5 : (s.phase == 1 || s.phase == 3 || s.phase == 4) = true := by
    rcases h2 with h | h | h <;> rw [h] <;> rfl
  rw [if_neg h1, h4, h5, show failIf false 5 k.val ++ failIf (!true) 8 k.val s.phase = [] from rfl]
  dsimp only [pickFail]
  refine ⟨_, rfl, ?_, ?_⟩
  · rw [foldl_keep (fun u : State => u.reg (Reg.MG_ECCSTR k)) _ (by
      intro u x; try dsimp only
      split <;> first | rfl | exact u.reg_clearInit_ne e1)]
    rw [State.cfgOk, State.reg_setReg_ne _ _ e2, State.reg_setReg_same]
  · rw [foldl_keep (fun u : State => u.reg Reg.MG_MEMCFGCHK) _ (by
      intro u x; try dsimp only
      split <;> first | rfl | exact u.reg_clearInit_ne (by decide))]
    rw [State.cfgOk, State.reg_setReg_same]

/-- A pass whose request the arbiter grants at once begins. -/
theorem State.scrubStart_granted (s : State) (v : Word) {t : Nat} {u : State} (h0 : bitOf v 8 = false)
    (h1 : s.flag Reg.MG_SCRUBCTL 0 = false) (h2 : s.mem.scrubTicket = none)
    (h3 : (s.setFld Reg.MG_SCRUBCTL 1 1 (fieldOf v 1 1)).scrubFails = [])
    (h4 : (s.setFld Reg.MG_SCRUBCTL 1 1 (fieldOf v 1 1)).arbRequest 1 (scrubRes (s.fld Reg.MG_SCRUBBASE 31 8 * 256)) =
      (.accepted t, u)) :
    s.scrubStart v = State.scrubBegin { u.cfgOk Reg.MG_MEMCFGCHK with mem := { u.mem with scrubTicket := some t } } := by
  have e : (s.setFld Reg.MG_SCRUBCTL 1 1 (fieldOf v 1 1)).fld Reg.MG_SCRUBBASE 31 8 = s.fld Reg.MG_SCRUBBASE 31 8 :=
    s.fld_setFld_ne _ _ _ _ _ (by decide)
  rw [State.scrubStart]
  simp only [h0, Bool.false_eq_true, ↓reduceIte, h1, h2, Option.isSome_none, Bool.or_self, h3, pickFail, e, h4]

theorem State.scrubBegin_flag (s : State) : s.scrubBegin.flag Reg.MG_SCRUBCTL 0 = true ∧ s.scrubBegin.mem = s.mem := by
  constructor
  · rw [State.scrubBegin]
    rw [State.flag_setReg_ne _ _ _ (by decide), State.flag_setReg_ne _ _ _ (by decide), State.flag_setReg_ne _ _ _ (by decide),
      State.flag_setFld_disjoint _ _ _ (by omega) (by omega) (by omega), State.flag_setFlag_same _ _ _ (by omega)]
  · rfl

theorem scrubStart_runs (v : BitVec 32) {t : Nat} {w : State} (h0 : bitOf v 8 = false) (h1 : s.flag Reg.MG_SCRUBCTL 0 = false)
    (h2 : s.mem.scrubTicket = none) (h3 : (s.setFld Reg.MG_SCRUBCTL 1 1 0).scrubFails = [])
    (h4 : (s.setFld Reg.MG_SCRUBCTL 1 1 0).arbRequest 1 (scrubRes (s.fld Reg.MG_SCRUBBASE 31 8 * 256)) = (.accepted t, w)) :
    ∃ u, exec (.scrubStart v) s = .next u ∧ u.flag Reg.MG_SCRUBCTL 0 = true ∧ u.mem.scrubTicket = some t := by
  have e1 : fieldOf (withField (withField v 0 0 1) 1 1 0) 1 1 = 0 := fieldOf_withField _ _ (by omega) (by omega)
  have e2 : bitOf (withField (withField v 0 0 1) 1 1 0) 8 = false := by
    rw [bitOf_withField_ne _ _ (by omega) (by omega) (by omega), bitOf_withField_ne _ _ (by omega) (by omega) (by omega), h0]
  rw [exec_scrubStart, execScrubStart, State.scrubStart_granted s _ e2 h1 h2 (by rw [e1]; exact h3) (by rw [e1]; exact h4)]
  exact ⟨_, rfl, (State.scrubBegin_flag _).1, by rw [(State.scrubBegin_flag _).2]⟩

theorem clearStart_runs (v : BitVec 32) {t : Nat} {w : State} (h0 : bitOf v 8 = false) (h1 : s.flag Reg.MG_SCRUBCTL 0 = false)
    (h2 : s.mem.scrubTicket = none) (h3 : (s.setFld Reg.MG_SCRUBCTL 1 1 1).scrubFails = [])
    (h4 : (s.setFld Reg.MG_SCRUBCTL 1 1 1).arbRequest 1 (scrubRes (s.fld Reg.MG_SCRUBBASE 31 8 * 256)) = (.accepted t, w)) :
    ∃ u, exec (.clearStart v) s = .next u ∧ u.flag Reg.MG_SCRUBCTL 0 = true ∧ u.mem.scrubTicket = some t := by
  have e1 : fieldOf (withField (withField v 0 0 1) 1 1 1) 1 1 = 1 := fieldOf_withField _ _ (by omega) (by omega)
  have e2 : bitOf (withField (withField v 0 0 1) 1 1 1) 8 = false := by
    rw [bitOf_withField_ne _ _ (by omega) (by omega) (by omega), bitOf_withField_ne _ _ (by omega) (by omega) (by omega), h0]
  rw [exec_clearStart, execClearStart, State.scrubStart_granted s _ e2 h1 h2 (by rw [e1]; exact h3) (by rw [e1]; exact h4)]
  exact ⟨_, rfl, (State.scrubBegin_flag _).1, by rw [(State.scrubBegin_flag _).2]⟩

theorem scrubStop_runs (v : BitVec 32) (n : Nat) (h0 : bitOf v 8 = false) (h1 : s.flag Reg.MG_SCRUBCTL 0 = true) :
    exec (.scrubStop v n) s = .next (s.scrubRun n).scrubEnd := by
  rw [exec_scrubStop, execScrubStop]
  simp only [h0, Bool.false_eq_true, ↓reduceIte, h1]

theorem scrubPassDone_runs (h1 : s.flag Reg.MG_SCRUBCTL 0 = true) :
    exec .scrubPassDone s = .next (s.scrubRun (s.fld Reg.MG_SCRUBLEN 16 0)).scrubEnd := by
  rw [exec_scrubPassDone, execScrubPassDone, if_pos h1]

theorem State.scrubEnd_flag (s : State) : s.scrubEnd.flag Reg.MG_SCRUBCTL 0 = false ∧ s.scrubEnd.flag Reg.MG_SCRUBCTL 8 = true := by
  have ha : ∀ (u : State) (t i : Nat), (u.arbRelease t).flag Reg.MG_SCRUBCTL i = u.flag Reg.MG_SCRUBCTL i := fun u t i =>
    State.flag_setReg_ne _ _ _ (by decide)
  have hm : ∀ (u : State) (x : Mems) (i : Nat), State.flag { u with mem := x } Reg.MG_SCRUBCTL i = u.flag Reg.MG_SCRUBCTL i :=
    fun _ _ _ => rfl
  have h : ∀ i < 4, s.scrubEnd.flag Reg.MG_SCRUBCTL i =
      ((s.setFlag Reg.MG_SCRUBCTL 0 false).setFlag Reg.MG_SCRUBCTL 8 true).flag Reg.MG_SCRUBCTL i := by
    intro i hi
    rw [State.scrubEnd]
    dsimp only
    split
    · rw [ha, hm, State.flag_setFld_disjoint _ _ _ (by omega) (by omega) (by omega)]
    · rw [State.flag_setFld_disjoint _ _ _ (by omega) (by omega) (by omega)]
  have h' : s.scrubEnd.flag Reg.MG_SCRUBCTL 8 =
      ((s.setFlag Reg.MG_SCRUBCTL 0 false).setFlag Reg.MG_SCRUBCTL 8 true).flag Reg.MG_SCRUBCTL 8 := by
    rw [State.scrubEnd]
    dsimp only
    split
    · rw [ha, hm, State.flag_setFld_disjoint _ _ _ (by omega) (by omega) (by omega)]
    · rw [State.flag_setFld_disjoint _ _ _ (by omega) (by omega) (by omega)]
  constructor
  · rw [h 0 (by omega), State.flag_setFlag_disjoint _ _ _ (by omega) (by omega), State.flag_setFlag_same _ _ _ (by omega)]
  · rw [h', State.flag_setFlag_same _ _ _ (by omega)]

theorem sramPageRemap_runs (p : Fin 32768)
    (h : (s.repairs.pages.filter fun q => q.1 / 0x1000 == p.val / 0x1000).length < 128) :
    ∃ u, exec (.sramPageRemap p) s = .next (State.sparesSync (State.repairCommit u)) ∧
      mapGet 0 u.repairs.pages (0x1000 * (p.val / 0x1000) + (s.repairs.pages.filter fun q => q.1 / 0x1000 == p.val / 0x1000).length)
        = p := by
  rw [exec_sramPageRemap, execSramPageRemap]
  dsimp only
  rw [if_neg (by omega)]
  refine ⟨_, rfl, ?_⟩
  split
  · exact mapGet_insert_same _ _ _ _
  · exact mapGet_insert_same _ _ _ _

/-! The map store (R182 to R193). -/

@[simp] theorem State.cell_setCell_same (s : State) (n : Nat) (r : LoopCell) : (s.setCell n r).cell n = r :=
  mapGet_set_same _ _ _ _

theorem State.cell_setCell_ne (s : State) {n m : Nat} (r : LoopCell) (h : m ≠ n) : (s.setCell n r).cell m = s.cell m :=
  mapGet_set_ne _ _ _ _ h

theorem State.cell_eq {s t : State} (h : t.cells = s.cells) (n : Nat) : t.cell n = s.cell n := by rw [State.cell, State.cell, h]

theorem msRequestGrant_runs (p : Fin 8) (sv : Bool) (h1 : s.unitOn domSo = true) {g : Nat} (h2 : s.nextGrant p = some g)
    {c : Nat} {q : MsReq}
    (h3 : (portOrder p (mapGet 52 s.ports.last p)).find? (fun c => if c = 52 then sv else
      match (s.cell c).ms with | some q => decide (q.issued + 1 ≤ g) | none => false) = some c)
    (h4 : (s.cell c).ms = some q) :
    ∃ u, exec (.msRequestGrant p sv) s = .next u ∧ (u.cell c).ms = none ∧ mapGet 0 (u.cell c).ready q.vd = g + 5 ∧
      mapGet 0 (u.cell c).v q.vd = (State.msRead { s.advanceTo g with ports := {
        last := mapSet 52 s.ports.last p c, grantAt := mapSet 0 s.ports.grantAt p g } } q c).2 := by
  have hc : ∀ x, State.cell { s.advanceTo g with ports := {
      last := mapSet 52 s.ports.last p c, grantAt := mapSet 0 s.ports.grantAt p g } } x = s.cell x :=
    fun x => State.cell_eq (by exact s.advanceTo_cells g) x
  have hp : (s.advanceTo g).ports = s.ports := s.advanceTo_ports g
  rw [exec_msRequestGrant, execMsRequestGrant, if_pos h1, State.msGrant, h2]
  dsimp only
  generalize hx : List.find? _ (portOrder _ _) = x
  obtain rfl : x = some c := hx.symm.trans h3
  dsimp only
  rw [hp, hc, h4]
  dsimp only
  generalize State.msRead _ q c = r
  obtain ⟨r, v⟩ := r
  refine ⟨_, rfl, ?_⟩
  dsimp only
  split
  · rw [State.cell_setCell_ne _ _ (by omega), State.cell_setCell_same, State.cell_setCell_same]
    exact ⟨rfl, mapGet_set_same 0 (r.cell c).ready q.vd (g + 5), mapGet_set_same 0 (r.cell c).v q.vd v⟩
  · rw [State.cell_setCell_same, State.cell_setCell_same]
    exact ⟨rfl, mapGet_set_same 0 (r.cell c).ready q.vd (g + 5), mapGet_set_same 0 (r.cell c).v q.vd v⟩

theorem msPageWriteback_runs (n : Nat) {page due : Nat} {l : List (Nat × Nat)} (h : s.mem.corrections = (page, due) :: l) :
    exec (.msPageWriteback n) s = .next ((s.advanceTo (due - n)).msWriteback page) := by
  rw [exec_msPageWriteback, execMsPageWriteback, h]

theorem mapStoreWindowWrite_runs (w : Fin 65536) (v : BitVec 32) (p : Fin 8) (h1 : s.msHalf w = true)
    (h2 : s.mem.corrections = []) (h3 : s.detects (msAddr w) = false) :
    ∃ u, exec (.mapStoreWindowWrite w v p) s = .next u ∧ u.word (msAddr w) = v ∧ u.written (msAddr w) = true := by
  have e1 : ∀ (u : State) (x : Mems), x.bytes = u.mem.bytes → State.word { u with mem := x } (msAddr w) = u.word (msAddr w) := by
    intro u x hx
    rw [State.word, State.word, State.bytesAt_congr]
    intro k _ _
    rw [State.byte, State.byte]
    exact congrArg (fun m => mapGet (memDefault k) m k) hx
  have e2 : ∀ u : State, (u.setBytes (msAddr w) 4 v.toNat).mem.init = u.mem.init := fun _ => rfl
  rw [exec_mapStoreWindowWrite, execMapStoreWindowWrite, if_pos h1, State.msWindowWrite, State.msSettle, h2]
  simp only [List.any_nil, Bool.false_eq_true, ↓reduceIte, State.pageWrite, h3]
  split
  · refine ⟨_, rfl, ?_, ?_⟩
    · exact (e1 _ _ rfl).trans (State.word_setBytes _ _ _)
    · rw [State.written, nsetHas_add]
      simp
  · refine ⟨_, rfl, State.word_setBytes _ _ _, ?_⟩
    rename_i h5
    simp only [Bool.not_eq_true, Bool.not_eq_false'] at h5
    rw [State.written, e2]
    exact h5

theorem mapStoreEnable_runs (v : BitVec 32) (h1 : s.unitOn domSo = true) (h2 : s.flag Reg.MS_CTRL 0 = false)
    (h3 : bitOf v 0 = true) : exec (.mapStoreEnable v) s = .next (s.enabled Reg.MS_CTRL Reg.MS_CFGCHK 0 v) := by
  have h5 : s.domOn domSo = true ∧ s.clk.run = true := by simpa [State.unitOn] using h1
  rw [exec_mapStoreEnable, execMapStoreEnable, State.whenOn_on _ _ _ _ h1, State.msCtrlWrite,
    State.unitWrite_enable _ _ _ _ _ _ _ _ _ _ h2 h3 (by
      obtain ⟨r, hr⟩ := s.store_eq Reg.MS_CTRL Reg.MS_CFGCHK false (withField v 0 0 0)
      have hd := s.flag_store_ne (a := Reg.MS_CTRL) (chk := Reg.MS_CFGCHK) (b := Reg.PM_DOMSTAT0) false (withField v 0 0 0) 0 domSo
        (by decide) (by decide)
      have hd' : State.domOn (s.store Reg.MS_CTRL Reg.MS_CFGCHK false (withField v 0 0 0)) domSo = true := hd.trans h5.1
      rw [hd', hr, show State.clk { s with regs := r } = s.clk from rfl, h5.2]
      rfl)]
  rfl

/-- A word of a descriptor that is not valid takes what is written (R191). -/
theorem descriptorWrite_base_runs (k : Fin 64) (v : BitVec 32) (h1 : s.unitOn domSo = true)
    (h2 : s.flag (Reg.MS_TD_SHAPE k) 31 = false) :
    exec (.descriptorWrite k 0 v) s = .next (s.setReg (Reg.MS_TD_BASE k) v) := by
  have e : s.tdWrite k (0 : Fin 5) v = s.baseWrite k v := rfl
  rw [exec_descriptorWrite, execDescriptorWrite, if_pos h1, e, State.baseWrite, h2]
  rfl

theorem descriptorWrite_shape_runs (k : Fin 64) (v : BitVec 32) (h1 : s.unitOn domSo = true)
    (h2 : s.flag (Reg.MS_TD_SHAPE k) 31 = false) (h3 : (s.setReg (Reg.MS_TD_SHAPE k) v).tdFails k (bitOf v 30) = [])
    (h4 : bitOf v 31 = true) :
    exec (.descriptorWrite k 1 v) s =
      .next (((s.setReg (Reg.MS_TD_SHAPE k) v).cfgOk Reg.MS_CFGCHK).setFld Reg.MS_STAT 21 16 k) := by
  rw [State.flag] at h2
  have e : s.tdWrite k (1 : Fin 5) v = s.shapeWrite k v := rfl
  rw [exec_descriptorWrite, execDescriptorWrite, if_pos h1, e, State.shapeWrite]
  simp only [h4, Bool.not_true, Bool.false_eq_true, ↓reduceIte, h2, Bool.not_false]
  rw [State.tdJudge, h3]
  rfl

theorem descriptorWrite_axis_runs (k : Fin 64) (w : Fin 5) (v : BitVec 32) (h0 : 2 ≤ w) (h1 : s.unitOn domSo = true)
    (h2 : s.flag (Reg.MS_TD_SHAPE k) 31 = false) :
    exec (.descriptorWrite k w v) s = .next (s.store (Reg.MS_TD_BASE k + 4 * w) Reg.MS_CFGCHK false v) := by
  obtain ⟨w, hw⟩ := w
  have h0 : 2 ≤ w := h0
  rw [exec_descriptorWrite, execDescriptorWrite, if_pos h1]
  rcases w with _ | _ | w
  · omega
  · omega
  · have e : s.tdWrite k (⟨w + 1 + 1, hw⟩ : Fin 5) v = s.axisWrite k (w + 1 + 1) v := rfl
    rw [e, State.axisWrite.eq_def, h2]
    rfl

end Sys2Proof.Machine
end

