-- ==== Sys2Proof/Laws/RunsCells.lean ====
section
/-! SUPPORT. Where the commands of the loop cells and the DMA enable complete, and with what: one lemma a command (R156 to R181,
R387, R398). -/

namespace Sys2Proof.Machine

variable {s : State}

/-- A state bit of a cell reads back. -/
theorem State.cellState_setCellState (s : State) (c k : Nat) (h : k < 8) : (s.setCellState c k).cellState c = k := by
  rw [State.cellState, State.setCellState, State.fld_setFld_same _ _ _ (by omega) (by omega)]
  omega

theorem State.cellState_setCell (s : State) (c n : Nat) (r : LoopCell) : (s.setCell n r).cellState c = s.cellState c := by
  rw [State.cellState, State.fld, State.setCell_reg]; rfl

theorem State.setCellState_now (s : State) (c k : Nat) : (s.setCellState c k).now = s.now := by
  rw [State.now, State.now, State.setCellState, State.setFld_clk]

theorem State.paired_setCell (s : State) (c n : Nat) (r : LoopCell) : (s.setCell n r).paired c = s.paired c :=
  State.paired_congr c (s.setCell_reg _ _ _)

theorem cellEnable_runs (n : Fin 52) (v : BitVec 32) (h1 : s.unitOn (domCell n) = true) (h0 : s.follows n = false)
    (h2 : s.flag (Reg.LC_CTRL n) 0 = false) {w : Word}
    (hw : w = if n.val % 2 = 1 then withField (withField v 0 0 1) 1 1 0 else withField v 0 0 1)
    (h3 : (s.store (Reg.LC_CTRL n) (Reg.LC_CFGCHK n) false (withField w 0 0 0)).lcFails n = []) :
    exec (.cellEnable n v) s = .next ((s.enabled (Reg.LC_CTRL n) (Reg.LC_CFGCHK n) 0 w).lcUp n) := by
  have h4 : bitOf w 0 = true := by
    rw [hw]
    split
    · rw [bitOf_withField_ne _ _ (by omega) (by omega) (by omega), bitOf_withField_one _ (by omega)]
    · exact bitOf_withField_one _ (by omega)
  rw [exec_cellEnable, execCellEnable, State.whenOn_on _ _ _ _ h1, State.lcCtrlWrite, ← hw]
  rw [h0, if_neg (by decide), State.unitWrite_enable s _ _ _ _ (fun s => s.lcFails n) _ _ _ _ h2 h4 h3]
  rfl

theorem cellDisable_runs (n : Fin 52) (v : BitVec 32) (h1 : s.unitOn (domCell n) = true) (h0 : s.follows n = false)
    (h2 : s.flag (Reg.LC_CTRL n) 0 = true) {w : Word}
    (hw : w = if n.val % 2 = 1 then withField (withField v 0 0 0) 1 1 0 else withField v 0 0 0) :
    exec (.cellDisable n v) s = .next ((s.store (Reg.LC_CTRL n) (Reg.LC_CFGCHK n) true w).lcDown n) := by
  have h4 : bitOf w 0 = false := by
    rw [hw]
    split
    · rw [bitOf_withField_ne _ _ (by omega) (by omega) (by omega), bitOf_withField_zero _ (by omega)]
    · exact bitOf_withField_zero _ (by omega)
  rw [exec_cellDisable, execCellDisable, if_pos h1, State.lcCtrlWrite, ← hw]
  rw [h0, if_neg (by decide), State.unitWrite_disable _ _ _ _ _ _ _ _ _ _ h2 h4]

theorem State.lcStartRestart_cell (s : State) (c : Nat) :
    ((s.lcStartRestart c).cell c).handler = some ⟨none, s.now, s.fld (Reg.LC_RESTART c) 27 16, 0, 0⟩ ∧
      ((s.lcStartRestart c).cell c).pc = s.fld (Reg.LC_RESTART c) 10 0 := by
  rw [State.lcStartRestart, State.cell_setCell_same]
  exact ⟨rfl, rfl⟩

theorem cellCopyDone_runs (n : Fin 52) {t : Nat} (h1 : s.unitOn (domCell n) = true) (h2 : (s.cell n).copyAt = some t) :
    exec (.cellCopyDone n) s = .next ((State.setCellState (((s.advanceTo t).lcCopy (lcProg n 0) (lcProg (n + 1) 0)).lcCopy
      (lcData n 0) (lcData (n + 1) 0)) n 2).lcStartRestart n) := by
  rw [exec_cellCopyDone, execCellCopyDone]
  dsimp only
  rw [h2]
  dsimp only
  rw [h1]
  rfl

theorem restartHandlerStart_runs (n : Fin 52) {t : Nat} (h1 : s.unitOn (domCell n) = true) (h2 : (s.cell n).startAt = some t) :
    ∃ u, exec (.restartHandlerStart n) s = .next u ∧ u.cellState n = 2 ∧
      (u.cell n).handler = some ⟨none, (s.advanceTo t).now, s.fld (Reg.LC_RESTART n) 27 16, 0, 0⟩ ∧
      (u.cell n).pc = s.fld (Reg.LC_RESTART n) 10 0 := by
  have e1 : ∀ i j, ((s.advanceTo t).setCellState n 2).fld (Reg.LC_RESTART n) i j = s.fld (Reg.LC_RESTART n) i j := fun i j => by
    rw [State.setCellState, State.fld_setFld_ne _ _ _ _ _ _ (by simp only [Reg.LC_RESTART, Reg.LC_STAT]; omega), State.fld,
      State.advanceTo_reg']
    rfl
  rw [exec_restartHandlerStart, execRestartHandlerStart]
  rw [h2]
  dsimp only
  rw [if_pos h1]
  refine ⟨_, rfl, ?_, ?_, ?_⟩
  · rw [State.lcStartRestart, State.cellState_setCell, State.cellState_setCellState _ _ _ (by omega)]
  · rw [(State.lcStartRestart_cell _ _).1, e1, State.setCellState_now]
  · rw [(State.lcStartRestart_cell _ _).2, e1]

theorem handlerStart_runs (n : Fin 52) {w : Waiting} {q : List Waiting} (h1 : s.unitOn (domCell n) = true)
    (h2 : s.cellState n = 3) (h3 : (s.cell n).queue = w :: q) :
    ∃ u, exec (.handlerStart n) s = .next u ∧ u.cellState n = 4 ∧ (u.cell n).pc = s.fld (Reg.LC_VEC n w.vec) 10 0 ∧
      (u.cell n).queue = q ∧ (u.cell n).handler = some ⟨some w.vec, max w.at' (s.cell n).idleFrom,
        s.fld (Reg.LC_VEC n w.vec) 30 19, w.at', q.length⟩ := by
  have e0 : Reg.LC_VEC n w.vec ≠ Reg.LC_STAT n := by simp only [Reg.LC_VEC, Reg.LC_STAT]; omega
  have e1 : ∀ t, State.reg (((s.advanceTo t).setCellState n 4).setQueue n q) (Reg.LC_VEC n w.vec) = s.reg (Reg.LC_VEC n w.vec) := by
    intro t
    rw [State.setQueue, State.reg_setFld_ne _ _ _ _ e0]
    rw [State.setCell_reg, State.setCellState, State.reg_setFld_ne _ _ _ _ e0, State.advanceTo_reg']
  have e2 : ∀ u : State, ((u.setCellState n 4).setQueue n q).cellState n = 4 := by
    intro u
    rw [State.setQueue, State.cellState, State.fld_setFld_disjoint _ _ _ (by omega) (by omega) (by omega), State.fld, State.setCell_reg]
    exact State.cellState_setCellState u n 4 (by omega)
  have e3 : ∀ u : State, ((u.setQueue n q).cell n).queue = q := fun u => by
    rw [State.setQueue, State.cell_eq (State.setFld_cells _ _ _ _ _), State.cell_setCell_same]
  rw [exec_handlerStart, execHandlerStart]
  dsimp only
  rw [h3]
  dsimp only
  rw [if_neg (by rw [h1, h2]; decide)]
  refine ⟨_, rfl, ?_, ?_, ?_, ?_⟩
  · rw [State.cellState_setCell, e2]
  · rw [State.cell_setCell_same, e1, State.fld]
  · rw [State.cell_setCell_same]; exact e3 _
  · rw [State.cell_setCell_same, e1, State.fld]

theorem State.noteRun_cells (s : State) (c : Nat) : (s.noteRun c).cells = s.cells := by
  rw [State.noteRun]
  split
  · rfl
  · exact State.setFld_cells _ _ _ _ _

theorem handlerEnd_runs (n : Fin 52) {t : Nat} (h1 : s.unitOn (domCell n) = true) (h2 : (s.cell n).ending = some t)
    (h3 : s.paired n = true → nsetHas s.mismCell n = false ∧ (s.cell n).split = false) :
    ∃ u, exec (.handlerEnd n) s = .next (if s.cellState n = 5 then State.holdReset u n else u) ∧ u.cellState n = 3 ∧ (u.cell n).handler = none ∧ (u.cell n).ending = none ∧
      (u.cell n).idleFrom = t := by
  have hd : ∃ m, (s.advanceTo t).lcDiffer n false = ({ s.advanceTo t with mismCell := m }, false) := by
    have hp : (s.advanceTo t).paired n = s.paired n := State.paired_congr _ (State.advanceTo_reg' _ _ _)
    have hc : (s.advanceTo t).cell n = s.cell n := State.cell_eq (State.advanceTo_cells _ _) _
    rw [State.lcDiffer, hp, hc, State.advanceTo_mismCell]
    cases hq : s.paired n with
    | false => exact ⟨_, rfl⟩
    | true =>
      rw [(h3 hq).1, (h3 hq).2]
      exact ⟨_, rfl⟩
  obtain ⟨m, hd⟩ := hd
  rw [exec_handlerEnd, execHandlerEnd]
  dsimp only
  rw [h2]
  dsimp only
  rw [h1, hd]
  simp only [Bool.not_true, Bool.false_eq_true, ↓reduceIte]
  generalize hw : (if State.paired { s.advanceTo t with mismCell := m } n then _ else _ : State) = w
  have hw1 : w.cellState n = s.cellState n := by
    rw [← hw, State.cellState, State.cellState, State.fld, State.fld]
    split
    · rw [State.lcFlush, State.setCell_reg]
      refine congrArg (fun x => fieldOf x 30 28) ((foldl_keep (fun u : State => u.reg (Reg.LC_STAT n))
        (fun (u : State) (p : Nat × Word) => (u.setWord (lcData n p.1) p.2).setWord (lcData (n + 1) p.1) p.2)
        (fun u p => ?_) _ _).trans ?_)
      · rw [State.setWord_reg, State.setWord_reg]
      · rw [State.reg_with_mismCell, State.advanceTo_reg']
    · rw [State.reg_with_mismCell, State.advanceTo_reg']
  have hs : (w.noteRun n).cellState n = s.cellState n := by
    rw [← hw1, State.noteRun]
    split
    · rfl
    · rw [State.cellState, State.fld_setFld_ne _ _ _ _ _ _ (by simp only [Reg.LC_RUN, Reg.LC_STAT]; omega), State.cellState]
  rw [hs]
  simp only [beq_iff_eq]
  generalize w.noteRun n = x
  refine ⟨_, rfl, ?_, ?_⟩
  · rw [State.setQueue, State.cellState, State.fld_setFld_disjoint _ _ _ (by omega) (by omega) (by omega), State.fld,
      State.setCell_reg]
    exact State.cellState_setCellState _ n 3 (by omega)
  · rw [State.setQueue, State.cell_eq (State.setFld_cells _ _ _ _ _), State.cell_setCell_same, State.setCellState,
      State.cell_eq (State.setFld_cells _ _ _ _ _), State.cell_setCell_same]
    exact ⟨rfl, rfl, rfl⟩

theorem handlerBudgetFault_runs (n : Fin 52) {d : Handler} (h1 : s.unitOn (domCell n) = true)
    (h2 : (s.cell n).handler = some d) (h3 : ∀ t, (s.cell n).ending = some t → d.start + d.budget < t) :
    exec (.handlerBudgetFault n) s = .next ((s.advanceTo (d.start + d.budget)).cellFaultAt n 2) := by
  rw [exec_handlerBudgetFault, execHandlerBudgetFault]
  dsimp only
  rw [h2]
  dsimp only
  rw [h1]
  cases he : (s.cell n).ending with
  | none => rfl
  | some t => simp [h3 t he]

theorem recoveryMemoryCompareDone_runs (n : Fin 52) {t : Nat} {p : State × Bool} (h1 : s.unitOn (domCell n) = true)
    (h2 : (s.cell n).compareAt = some t)
    (hp : p = (List.range 2048).foldl (fun (p : State × Bool) i =>
        let (s, x) := p.1.lcCompareWord (lcProg n i) (lcProg (n + 1) i)
        let (s, y) := s.lcCompareWord (lcData n i) (lcData (n + 1) i)
        (s, p.2 || x || y)) (s.advanceTo t, false)) :
    exec (.recoveryMemoryCompareDone n) s = .next (if p.2 then p.1.lcStop n else p.1.lcStartRestart n) := by
  rw [exec_recoveryMemoryCompareDone, execRecoveryMemoryCompareDone]
  dsimp only
  rw [h2]
  dsimp only
  rw [h1, hp]
  rfl

theorem cellWindowWrite_data_runs (n : Fin 52) (i : Fin 2048) (v : BitVec 32) (h1 : s.unitOn (domCell n) = true) :
    ∃ u, exec (.cellWindowWrite n true i v) s = .next u ∧ u.word (lcData n i) = v := by
  rw [exec_cellWindowWrite, execCellWindowWrite, if_pos h1, State.lcWindowWrite, if_pos rfl]
  refine ⟨_, rfl, ?_⟩
  dsimp only
  split
  · rw [State.word_setWord_out _ _ (by simp only [lcData]; split <;> omega), State.word_setWord]
  · rw [State.word_setWord]

theorem cellWindowWrite_prog_runs (n : Fin 52) (i : Fin 2048) (v : BitVec 32) (h1 : s.unitOn (domCell n) = true)
    (h2 : s.flag (Reg.LC_CTRL n) 0 = false) (h3 : s.follows n = false) :
    exec (.cellWindowWrite n false i v) s = .next (s.setWord (lcProg n i) v) := by
  rw [exec_cellWindowWrite, execCellWindowWrite, if_pos h1, State.lcWindowWrite, if_neg (by decide), h2, h3]
  rfl

theorem cellRestartCommand_runs (n : Fin 52) (h1 : s.unitOn (domCell n) = true) (h2 : s.follows n = false)
    (h3 : s.cellState n = 2 ∨ s.cellState n = 3 ∨ s.cellState n = 4) (h4 : s.cellFault n = false) :
    exec (.cellRestartCommand n) s = .next ((s.noteRun n).lcRestart n false) := by
  have h5 : (s.cellState n == 2 || s.cellState n == 3 || s.cellState n == 4 || s.cellState n == 5) = true := by
    rcases h3 with h | h | h <;> rw [h] <;> rfl
  rw [exec_cellRestartCommand, execCellRestartCommand, h2]
  simp only [Bool.false_eq_true, ↓reduceIte]
  rw [h1, h5, h4]
  simp only [Bool.and_self, ↓reduceIte, Bool.false_and, Bool.false_eq_true]

theorem cellRoleSet_runs (n : Fin 52) (r : BitVec 2) (h : r ≠ 3) :
    exec (.cellRoleSet n r) s = .next (s.setFld (Reg.LC_STAT n) 25 24 r.toNat).sparesSync := by
  rw [exec_cellRoleSet, execCellRoleSet, if_neg h]

/-- A cell whose role is FAILED is entered in the repair map. -/
theorem State.roleFailed (s : State) (n a : Nat) : nsetHas (State.repairs { s with repairs := { s.repairs with
    cells := nsetAdd s.repairs.cells n (n + 1) } }).cells n = true ∧
    State.fld { s with repairs := { s.repairs with cells := nsetAdd s.repairs.cells n (n + 1) } } a 25 24 = s.fld a 25 24 := by
  constructor
  · dsimp only
    rw [nsetHas_add]
    simp
  · rfl

theorem cellRoleSet_failed_runs (n : Fin 52) :
    ∃ u, exec (.cellRoleSet n 3) s = .next (State.sparesSync (State.repairCommit u)) ∧ nsetHas u.repairs.cells n = true ∧
      u.fld (Reg.LC_STAT n) 25 24 = 3 := by
  have h : ((3 : BitVec 2).toNat) % 2 ^ (25 + 1 - 24) = 3 := by decide
  rw [exec_cellRoleSet, execCellRoleSet, if_pos rfl]
  refine ⟨_, rfl, (State.roleFailed _ _ 0).1, ?_⟩
  rw [(State.roleFailed _ _ _).2, State.fld_setFld_same _ _ _ (by omega) (by omega), h]

@[simp] theorem State.dma_setDma_same (s : State) (n : Nat) (r : DmaChan) : (s.setDma n r).dma n = r := mapGet_set_same _ _ _ _

theorem State.dma_eq {s t : State} (h : t.dmas = s.dmas) (n : Nat) : t.dma n = s.dma n := by rw [State.dma, State.dma, h]

theorem dmaEnable_runs (k : Fin 32) (v : BitVec 32) (h1 : s.unitOn 0x2F = true) (h2 : s.flag (Reg.DMA_CTL k) 0 = false)
    (h3 : (s.dma k).endedAt ≠ some s.now) (h4 : (s.reg (Reg.DMA_ENV k)).toNat % 32 = 0) :
    ∃ u, exec (.dmaEnable k v) s = .next u ∧ u.flag (Reg.DMA_CTL k) 0 = true ∧
      (u.dma k).fetch = some (s.reg (Reg.DMA_ENV k)).toNat ∧ u.fld (Reg.DMA_STAT k) 31 30 = 1 := by
  have e1 : Reg.DMA_ENV k ≠ Reg.DMA_CTL k := by simp only [Reg.DMA_ENV, Reg.DMA_CTL]; omega
  have e2 : Reg.DMA_ENV k ≠ Reg.DMA_CFGCHK k := by simp only [Reg.DMA_ENV, Reg.DMA_CFGCHK]; omega
  have e3 : Reg.PM_DOMSTAT1 ≠ Reg.DMA_CTL k := by simp only [Reg.PM_DOMSTAT1, Reg.DMA_CTL]; omega
  have e4 : Reg.PM_DOMSTAT1 ≠ Reg.DMA_CFGCHK k := by simp only [Reg.PM_DOMSTAT1, Reg.DMA_CFGCHK]; omega
  have e5 : Reg.DMA_CTL k ≠ Reg.DMA_STAT k := by simp only [Reg.DMA_STAT, Reg.DMA_CTL]; omega
  have e6 : Reg.DMA_CTL k ≠ Reg.DMA_CFGCHK k := by simp only [Reg.DMA_CFGCHK, Reg.DMA_CTL]; omega
  have h5 : s.domOn 0x2F = true ∧ s.clk.run = true := by simpa [State.unitOn] using h1
  rw [exec_dmaEnable, execDmaEnable, State.whenOn_on _ _ _ _ h1, State.dmaStart, if_neg (by simp [h3]),
    State.unitWrite_enable s _ _ _ _ _ _ _ _ _ h2 (bitOf_withField_one v (by omega)) (by
      obtain ⟨r, hr⟩ := s.store_eq (Reg.DMA_CTL k) (Reg.DMA_CFGCHK k) false (withField (withField v 0 0 1) 0 0 0)
      have hd := s.flag_store_ne (a := Reg.DMA_CTL k) (chk := Reg.DMA_CFGCHK k) (b := Reg.PM_DOMSTAT1) false
        (withField (withField v 0 0 1) 0 0 0) 0 15 e3 e4
      have hd' : State.domOn (s.store (Reg.DMA_CTL k) (Reg.DMA_CFGCHK k) false (withField (withField v 0 0 1) 0 0 0)) 0x2F = true :=
        hd.trans h5.1
      have hk : (s.store (Reg.DMA_CTL k) (Reg.DMA_CFGCHK k) false (withField (withField v 0 0 1) 0 0 0)).clk = s.clk := by rw [hr]
      rw [hd', hk, h5.2, State.reg_store_ne s (a := Reg.DMA_CTL k) (chk := Reg.DMA_CFGCHK k) _ _ _ e1 e2, h4]
      rfl)]
  refine ⟨_, rfl, ?_, ?_, ?_⟩
  · rw [State.dmaState, State.flag_setFld_ne _ _ _ _ _ e5, State.flag, State.setDma_reg, ← State.flag, State.cfgOk,
      State.flag_setReg_ne _ _ _ e6, State.flag_setFlag_same _ _ _ (by omega)]
  · rw [State.dmaState, State.dma_eq (State.setFld_dmas _ _ _ _ _), State.dma_setDma_same, State.cfgOk, State.reg_setReg_ne _ _ e2,
      State.setFlag, State.reg_setFld_ne _ _ _ _ e1, State.reg_store_ne s (a := Reg.DMA_CTL k) (chk := Reg.DMA_CFGCHK k) _ _ _ e1 e2]
  · rw [State.dmaState, State.fld_setFld_same _ _ _ (by omega) (by omega)]
    decide

end Sys2Proof.Machine
end

