-- ==== Sys2Proof/Laws/RunsComparators.lean ====
section
/-! SUPPORT. Where the comparator commands complete, and with what: one lemma a command (R99 to R110). -/

namespace Sys2Proof.Machine

variable {s : State}

@[simp] theorem State.cmp_setCmp_same (s : State) (n : Nat) (r : Cmp) : (s.setCmp n r).cmp n = r := mapGet_set_same _ _ _ _

theorem State.latchSet_flag (s : State) (n t : Nat) : (s.latchSet n t).flag (Reg.CMP_STAT n) 0 = true := by
  unfold State.latchSet
  split
  · assumption
  · dsimp only
    split <;> exact State.flag_setFlag_same _ _ _ (by omega)

theorem comparatorLatchSet_runs (n : Fin 96) (t : Nat) (h : (s.advanceTo (t / 128)).setCondition n t = true) :
    ∃ u, exec (.comparatorLatchSet n t) s = .next u ∧ u.flag (Reg.CMP_STAT n) 0 = true := by
  rw [exec_comparatorLatchSet, execComparatorLatchSet]
  rw [if_pos h]
  exact ⟨_, rfl, State.latchSet_flag _ _ _⟩

theorem comparatorRawChange_runs (n : Fin 96) (v t : Nat) (h : s.domOn (domCmp n) = true) :
    exec (.comparatorRawChange n v t) s = .next ((s.advanceTo (t / 128)).setCmp n { (s.advanceTo (t / 128)).cmp n with
      vplus := v, raw := (s.advanceTo (t / 128)).rawNext n v t
      rawAt := if (s.advanceTo (t / 128)).rawNext n v t = ((s.advanceTo (t / 128)).cmp n).raw
        then ((s.advanceTo (t / 128)).cmp n).rawAt else t }) := by
  rw [exec_comparatorRawChange, execComparatorRawChange, h]
  rfl

theorem comparatorSetRecord_runs (n : Fin 96) {e : Nat} (h1 : s.unitOn (domCmp n) = true) (h2 : (s.cmp n).record = some e) :
    exec (.comparatorSetRecord n) s = .next (((((s.advanceTo e).setCmp n { (s.advanceTo e).cmp n with record := none }).modInc
      (Reg.CMP_STAT n) 31 16)).raiseAt (0x500 + n) e 0) := by
  rw [exec_comparatorSetRecord, execComparatorSetRecord, h2]
  dsimp only
  rw [h1]
  rfl

theorem latchClear_runs (n : Fin 96) (v : BitVec 32) (h1 : s.unitOn (domCmp n) = true)
    (h2 : s.setCondition n (s.now * 128) = false) :
    exec (.latchClear n v) s = .next (s.setFlag (Reg.CMP_STAT n) 0 false) := by
  rw [exec_latchClear, execLatchClear, if_pos h1, State.cmpStatWrite, if_pos (bitOf_withField_one v (by omega)),
    State.latchClear, h2]
  rfl

theorem blankingClose_runs (n : Fin 96) {e : Nat} (h1 : s.unitOn (domCmp n) = true) (h2 : (s.cmp n).blankTill = some e) :
    ∃ u, exec (.blankingClose n) s = .next u ∧ (u.cmp n).blankTill = none := by
  rw [exec_blankingClose, execBlankingClose, h2]
  dsimp only
  rw [h1]
  refine ⟨_, rfl, ?_⟩
  have hf : ∀ (t : State) (a i : Nat) (b : Bool), (t.setFlag a i b).cmp n = t.cmp n := fun _ _ _ _ => rfl
  split
  · unfold State.latchSet
    split
    · simp
    · dsimp only
      split
      · rw [hf]; simp
      · simp [hf]
  · simp

theorem refWrite_runs (n : Fin 96) (v : BitVec 32) (h1 : s.unitOn (domCmp n) = true) :
    ∃ u, exec (.refWrite n v) s = .next u ∧ u.fld (Reg.CMP_REF n) 11 0 = fieldOf v 11 0 ∧
      (s.flag (Reg.CMP_CTRL n) 9 = false → u.fld (Reg.CMP_REF n) 27 16 = fieldOf v 11 0) := by
  have hv : fieldOf v 11 0 % 2 ^ 12 = fieldOf v 11 0 := by simp [fieldOf]
  have e1 : Reg.CMP_CTRL n ≠ Reg.CMP_REF n := by simp only [Reg.CMP_CTRL, Reg.CMP_REF]; omega
  rw [exec_refWrite, execRefWrite, if_pos h1, State.cmpRefWrite]
  generalize hw : s.setCmp n _ = w
  have h9 : w.flag (Reg.CMP_CTRL n) 9 = s.flag (Reg.CMP_CTRL n) 9 := by rw [← hw]; rfl
  refine ⟨_, rfl, ?_, ?_⟩
  · split
    · exact (State.fld_setFld_same _ _ _ (by omega) (by omega)).trans hv
    · exact (State.fld_setFld_disjoint _ _ _ (by omega) (by omega) (by omega)).trans
        ((State.fld_setFld_same _ _ _ (by omega) (by omega)).trans hv)
  · intro h2
    rw [if_neg (by rw [State.flag_setFld_ne _ _ _ _ _ e1, h9, h2]; decide), State.fld_setFld_same _ _ _ (by omega) (by omega)]
    exact hv

theorem comparatorLiveWrite_ramp_runs (n : Fin 96) (v : BitVec 32) (h1 : s.unitOn (domCmp n) = true)
    (h2 : s.rampFails n (fieldOf v 9 0) = []) :
    ∃ u, exec (.comparatorLiveWrite n .ramp v) s = .next u ∧ u.fld (Reg.CMP_RAMP n) 9 0 = fieldOf v 9 0 := by
  have hv : fieldOf v 9 0 % 2 ^ 10 = fieldOf v 9 0 := by simp [fieldOf]
  have e1 : Reg.CMP_RAMP n ≠ Reg.CMP_CFGCHK n := by simp only [Reg.CMP_RAMP, Reg.CMP_CFGCHK]; omega
  rw [exec_comparatorLiveWrite, execComparatorLiveWrite.eq_def]
  dsimp only
  rw [if_pos h1, State.cmpRampWrite]
  dsimp only
  rw [h2]
  refine ⟨_, rfl, ?_⟩
  split
  · exact (State.fld_setReg_ne _ _ _ _ e1).trans ((State.fld_setFld_same _ _ _ (by omega) (by omega)).trans hv)
  · exact (State.fld_setFld_same _ _ _ (by omega) (by omega)).trans hv

theorem comparatorLiveWrite_blank_runs (n : Fin 96) (v : BitVec 32) (h1 : s.unitOn (domCmp n) = true)
    (h2 : s.blankFails n v = []) :
    ∃ u, exec (.comparatorLiveWrite n .blank v) s = .next u ∧
      u.reg (Reg.CMP_BLANK n) = (s.store (Reg.CMP_BLANK n) (Reg.CMP_CFGCHK n) false v).reg (Reg.CMP_BLANK n) := by
  have e1 : Reg.CMP_BLANK n ≠ Reg.CMP_CFGCHK n := by simp only [Reg.CMP_BLANK, Reg.CMP_CFGCHK]; omega
  rw [exec_comparatorLiveWrite, execComparatorLiveWrite.eq_def]
  dsimp only
  rw [if_pos h1, State.cmpBlankWrite]
  dsimp only
  rw [h2]
  refine ⟨_, rfl, ?_⟩
  split
  · exact State.reg_setReg_ne _ _ e1
  · rfl

theorem comparatorLiveWrite_ctrl_runs (n : Fin 96) (v : BitVec 32) (h1 : s.unitOn (domCmp n) = true)
    (h2 : s.flag (Reg.CMP_CTRL n) 0 = true) :
    exec (.comparatorLiveWrite n .ctrl v) s = .next ((s.cfgOk (Reg.CMP_CFGCHK n)).store (Reg.CMP_CTRL n)
      (Reg.CMP_CFGCHK n) true (withField v 0 0 1)) := by
  rw [exec_comparatorLiveWrite, execComparatorLiveWrite.eq_def]
  dsimp only
  rw [if_pos h1, State.cmpCtrlWrite, h2]
  simp [bit, bitOf_withField_one v (show 0 < 32 by omega)]

theorem comparatorEnable_runs (n : Fin 96) (v : BitVec 32) (h1 : s.unitOn (domCmp n) = true)
    (h2 : s.flag (Reg.CMP_CTRL n) 0 = false)
    (h3 : (s.store (Reg.CMP_CTRL n) (Reg.CMP_CFGCHK n) false (withField (withField v 0 0 1) 0 0 0)).cmpFails n = []) :
    exec (.comparatorEnable n v) s =
      .next ((s.enabled (Reg.CMP_CTRL n) (Reg.CMP_CFGCHK n) 0 (withField v 0 0 1)).cmpSettle n) := by
  rw [exec_comparatorEnable, execComparatorEnable, State.whenOn_on _ _ _ _ h1, State.cmpCtrlWrite, if_neg (by rw [h2]; simp),
    State.unitWrite_enable _ _ _ _ _ _ _ _ _ _ h2 (bitOf_withField_one v (by omega)) h3]
  rfl

theorem comparatorDisable_runs (n : Fin 96) (v : BitVec 32) (h1 : s.unitOn (domCmp n) = true)
    (h2 : s.flag (Reg.CMP_CTRL n) 0 = true) :
    exec (.comparatorDisable n v) s =
      .next ((s.store (Reg.CMP_CTRL n) (Reg.CMP_CFGCHK n) true (withField v 0 0 0)).cmpDown n) := by
  rw [exec_comparatorDisable, execComparatorDisable, if_pos h1, State.cmpCtrlWrite,
    if_neg (by rw [bitOf_withField_zero v (by omega)]; simp),
    State.unitWrite_disable _ _ _ _ _ _ _ _ _ _ h2 (bitOf_withField_zero v (by omega))]

theorem comparatorSettled_runs (n : Fin 96) {e : Nat} (h1 : s.unitOn (domCmp n) = true)
    (h2 : s.flag (Reg.CMP_CTRL n) 0 = true) (h3 : (s.cmp n).settle = some e) :
    ∃ u, exec (.comparatorSettled n) s = .next u ∧ (u.cmp n).settle = none ∧ u.flag (Reg.CMP_STAT n) 2 = true := by
  have hf : ∀ (t : State) (a i : Nat) (b : Bool), (t.setFlag a i b).cmp n = t.cmp n := fun _ _ _ _ => rfl
  have hr : ∀ (t : State) (r : Cmp) (a i : Nat), (t.setCmp n r).flag a i = t.flag a i := fun _ _ _ _ => rfl
  rw [exec_comparatorSettled, execComparatorSettled, h3]
  dsimp only
  rw [if_neg (by rw [h1, h2]; decide)]
  refine ⟨_, rfl, ?_, ?_⟩
  · split
    · unfold State.latchSet
      split
      · rw [hf]; simp
      · dsimp only
        split <;> simp [hf]
    · rw [hf]; simp
  · split
    · unfold State.latchSet
      split
      · exact State.flag_setFlag_same _ _ _ (by omega)
      · dsimp only
        split
        · rw [State.flag_setFlag_disjoint _ _ _ (by omega) (by omega), State.flag_setFlag_same _ _ _ (by omega)]
        · rw [hr, State.flag_setFlag_disjoint _ _ _ (by omega) (by omega), State.flag_setFlag_same _ _ _ (by omega)]
    · exact State.flag_setFlag_same _ _ _ (by omega)

theorem selftestRequest_runs (n : Fin 96) (v : BitVec 32) {k : Nat} {u : State} (h1 : s.unitOn (domCmp n) = true)
    (h2 : fieldOf v 1 0 ≠ 0) (h3 : s.flag (Reg.CMP_TEST n) 6 = false) (h4 : s.cmpInUse n = false)
    (h5 : s.flag (Reg.CMP_CTRL n) 0 = true) (h6 : s.flag (Reg.CMP_STAT n) 2 = true) (h7 : s.arbRequest 4 n = (.accepted k, u)) :
    exec (.selftestRequest n v) s = .next (((u.setCmp n { u.cmp n with ticket := some k }).setReg (Reg.CMP_TEST n)
      (BitVec.ofNat 32 (80 + fieldOf v 1 0))).cfgOk (Reg.CMP_CFGCHK n)) := by
  rw [exec_selftestRequest, execSelftestRequest, if_pos (by simp [h1, h2]), State.cmpTestWrite]
  dsimp only
  rw [h3, if_neg (by decide), if_neg h2, h4, h5, h6, h7]
  rfl

theorem selftestEnd_runs (n : Fin 96) (v : BitVec 32) (h1 : s.unitOn (domCmp n) = true)
    (h2 : s.flag (Reg.CMP_TEST n) 6 = true) :
    exec (.selftestEnd n v) s = .next ((s.selftestStop n).cmpSettle n) := by
  have hz : fieldOf (withField v 1 0 0) 1 0 = 0 := by rw [fieldOf_withField _ _ (by omega) (by omega)]; rfl
  rw [exec_selftestEnd, execSelftestEnd, if_pos h1, State.cmpTestWrite]
  dsimp only
  rw [if_pos h2, if_pos hz]

end Sys2Proof.Machine
end

