-- ==== Sys2Proof/Laws/RunsConverters.lean ====
section
/-! SUPPORT. Where the converter commands complete, and with what: one lemma a command. -/

namespace Sys2Proof.Machine

variable {s : State}

/-! What a result leaves alone. -/

theorem State.raiseAt_conv (s : State) (src e f : Nat) : (s.raiseAt src e f).conv = s.conv := by
  unfold State.raiseAt
  split
  · rfl
  · dsimp only
    split
    · rfl
    · split
      · rfl
      · split <;> rfl

theorem State.raiseNow_conv (s : State) (src : Nat) : (s.raiseNow src).conv = s.conv := s.raiseAt_conv _ _ _

theorem State.putInt_groups (s : State) (g : Nat) (d : IntDone) : (s.putInt g d).conv.groups = s.conv.groups := by
  unfold State.putInt
  dsimp only
  split
  · rfl
  · refine foldl_keep (fun t : State => t.conv.groups) _ (fun t e => ?_) _ s
    split
    · rw [State.raiseNow_conv]; rfl
    · rfl

theorem State.putFast_conv (s : State) (e : Nat) (a b c : Bool) (n : Nat) (v : Int) : (s.putFast e a b c n v).conv = s.conv := by
  unfold State.putFast
  split
  · dsimp only
    split
    · rw [State.raiseNow_conv]; rfl
    · rfl
  · rfl

theorem State.putStamp_slices (s : State) (c : Nat) (v : Serve) : (s.putStamp c v).conv.slices = s.conv.slices := by
  unfold State.putStamp
  dsimp only
  split
  · split <;> rfl
  · rfl

@[simp] theorem State.slice_setSlice_same (s : State) (n : Nat) (r : Slice) : (s.setSlice n r).slice n = r :=
  mapGet_set_same _ _ _ _

theorem State.slice_setSlice_ne (s : State) {n m : Nat} (r : Slice) (h : m ≠ n) : (s.setSlice n r).slice m = s.slice m :=
  mapGet_set_ne _ _ _ _ h

@[simp] theorem State.group_setGroup_same (s : State) (n : Nat) (r : Group) : (s.setGroup n r).group n = r :=
  mapGet_set_same _ _ _ _

theorem State.feedRing_engines (s : State) (m n : Nat) (l : List (BitVec 4)) :
    ((s.feedRing m l).slice n).engines = (s.slice n).engines := by
  unfold State.feedRing
  by_cases h : n = m
  · subst h; simp
  · simp [State.slice_setSlice_ne _ _ h]

theorem State.winEval_engines (s : State) (n : Nat) (v : Int) : ((s.winEval n v).1.slice n).engines = (s.slice n).engines := by
  have hf : ∀ (t : State) (a i : Nat) (b : Bool), (t.setFlag a i b).slice n = t.slice n := fun _ _ _ _ => rfl
  unfold State.winEval
  dsimp only
  repeat' (first | rfl | split)
  all_goals simp [hf]

theorem State.winEval_free (s : State) (n : Nat) (v : Int) : ((s.winEval n v).1.slice n).freeLast = (s.slice n).freeLast := by
  have hf : ∀ (t : State) (a i : Nat) (b : Bool), (t.setFlag a i b).slice n = t.slice n := fun _ _ _ _ => rfl
  unfold State.winEval
  dsimp only
  repeat' (first | rfl | split)
  all_goals simp [hf]

theorem State.trackPeriod_last (s : State) (g p : Nat) :
    ((s.trackPeriod g p).1.group g).lastCross = (s.group g).lastCross := by
  have hf : ∀ (t : State) (a i : Nat) (b : Bool), (t.setFlag a i b).group g = t.group g := fun _ _ _ _ => rfl
  have hr : ∀ (t : State) (a : Nat) (w : Word), (t.setReg a w).group g = t.group g := fun _ _ _ => rfl
  have hi : ∀ (c : Prop) [Decidable c] (a b : State), (if c then a else b).group g = if c then a.group g else b.group g :=
    fun c _ a b => by split <;> rfl
  have hl : ∀ (c : Prop) [Decidable c] (a b : Group), (if c then a else b).lastCross = if c then a.lastCross else b.lastCross :=
    fun c _ a b => by split <;> rfl
  unfold State.trackPeriod
  split
  · simp only [hf, State.group_setGroup_same]
  · simp only [hf, hr, hi, hl, State.group_setGroup_same, ite_self]

/-! Slices (R69 to R71). -/

theorem sliceEnable_runs (n : Fin 64) (v : BitVec 32) (h1 : s.unitOn (domSlice n) = true) (h2 : s.sliceEn n = false)
    (h3 : (s.store (Reg.CS_CTRL n) (Reg.CS_CFGCHK n) false (withField (withField v 0 0 1) 0 0 0)).sliceFails n = []) :
    exec (.sliceEnable n v) s = .next (((s.enabled (Reg.CS_CTRL n) (Reg.CS_CFGCHK n) 0 (withField v 0 0 1)).setSlice n
      { enAt := s.now, ringAt := s.now }).setFlag (Reg.CS_STAT n) 0 false) := by
  rw [exec_sliceEnable, execSliceEnable, State.whenOn_on _ _ _ _ h1, State.csCtrlWrite,
    State.unitWrite_enable _ _ _ _ _ _ _ _ _ _ h2 (bitOf_withField_one v (by omega)) h3]
  rw [show State.now (((s.store (Reg.CS_CTRL n) (Reg.CS_CFGCHK n) false (withField (withField v 0 0 1) 0 0 0)).setFlag
    (Reg.CS_CTRL n) 0 true).cfgOk (Reg.CS_CFGCHK n)) = s.now from s.store_now _ _ _ _ _]
  rfl

theorem sliceDisable_runs (n : Fin 64) (v : BitVec 32) (h1 : s.unitOn (domSlice n) = true) (h2 : s.sliceEn n = true) :
    exec (.sliceDisable n v) s =
      .next ((s.store (Reg.CS_CTRL n) (Reg.CS_CFGCHK n) true (withField v 0 0 0)).sliceDown n) := by
  rw [exec_sliceDisable, execSliceDisable, if_pos h1, State.csCtrlWrite,
    State.unitWrite_disable _ _ _ _ _ _ _ _ _ _ h2 (bitOf_withField_zero v (by omega))]

theorem sliceReady_runs (n : Fin 64) (h1 : s.unitOn (domSlice n) = true) (h2 : s.sliceEn n = true) :
    exec (.sliceReady n) s = .next ((s.advanceTo ((s.slice n).enAt + 256)).setFlag (Reg.CS_STAT n) 0 true) := by
  rw [exec_sliceReady, execSliceReady, h1, h2]; rfl

/-! Results (R66 to R70). -/

theorem fastResultWrite_runs (n : Fin 64) (codes : List (BitVec 4)) (ovld : Bool) {e : Engine}
    (h1 : s.unitOn (domSlice n) = true) (h2 : firstDue (s.slice n).engines = some e) :
    ∃ t, exec (.fastResultWrite n codes ovld) s = .next t ∧
      (t.slice n).engines = (s.slice n).engines.filter fun x => x.centre != e.centre := by
  have hu : ∀ m, (s.feedRing m codes).unitOn (domSlice n) = true := fun m => h1
  rw [exec_fastResultWrite, execFastResultWrite]
  dsimp only
  rw [h2]
  dsimp only
  rw [if_neg (by rw [hu]; decide)]
  refine ⟨_, rfl, ?_⟩
  rw [foldl_keep (fun t : State => (t.slice n).engines) _ fun t x => congrArg (fun c => (mapGet {} c n).engines) (t.putStamp_slices _ x)]
  rw [foldl_keep (fun t : State => (t.slice n).engines) _ fun t x => congrArg (fun c => (mapGet {} c.slices n).engines) (t.putFast_conv _ _ _ _ _ _)]
  rw [State.winEval_engines]
  have h3 : ∀ m e', (((s.feedRing m codes).advanceTo e').slice n).engines = (s.slice n).engines := fun m e' => by
    rw [State.slice, State.advanceTo_conv]; exact State.feedRing_engines _ _ _ _
  split
  · rw [show ∀ (t : State) (a i : Nat) (b : Bool), (t.setFlag a i b).slice n = t.slice n from fun _ _ _ _ => rfl]
    simp [h3]
  · simp [h3]

theorem freeRunningResult_runs (n : Fin 64) (codes : List (BitVec 4)) (ovld : Bool)
    (h1 : s.unitOn (domSlice n) = true) (h2 : s.sliceEn n = true) (h3 : s.flag (Reg.CS_STAT n) 0 = true)
    (h4 : s.freeEntries n ≠ []) :
    ∃ t, exec (.freeRunningResult n codes ovld) s = .next t ∧
      (t.slice n).freeLast = some ((s.feedRing n codes).freeCentre n) := by
  have h5 : (s.feedRing n codes).freeEntries n ≠ [] := h4
  have h6 : (s.freeEntries n).isEmpty = false := by cases h : s.freeEntries n <;> simp_all
  rw [exec_freeRunningResult, execFreeRunningResult]
  dsimp only
  rw [if_neg (by
    rw [show (s.feedRing n codes).freeEntries n = s.freeEntries n from rfl, h6,
      show (s.feedRing n codes).flag (Reg.CS_STAT n) 0 = true from h3,
      show (s.feedRing n codes).sliceEn n = true from h2, show (s.feedRing n codes).unitOn (domSlice n) = true from h1]
    decide)]
  refine ⟨_, rfl, ?_⟩
  rw [State.freeResult]
  dsimp only
  rw [foldl_keep (fun t : State => (t.slice n).freeLast) _ fun t x => congrArg (fun c => (mapGet {} c.slices n).freeLast) (t.putFast_conv _ _ _ _ _ _)]
  rw [State.winEval_free]
  split
  · rw [show ∀ (t : State) (a i : Nat) (b : Bool), (t.setFlag a i b).slice n = t.slice n from fun _ _ _ _ => rfl]
    simp
  · simp

/-! Groups (R73 to R77). -/

theorem groupEnable_runs (g : Fin 4) (v : BitVec 32) (h1 : s.unitOn (0x19 + g) = true) (h2 : s.flag (Reg.CG_MPT g) 0 = false)
    (h3 : (s.store (Reg.CG_MPT g) (Reg.CG_CFGCHK g) false (withField (withField v 0 0 1) 0 0 0)).groupFails g = []) :
    ∃ t, exec (.groupEnable g v) s = .next t ∧ t.flag (Reg.CG_MPT g) 0 = true ∧ t.reg (Reg.CG_CFGCHK g) = 0 ∧
      t.flag (Reg.CG_MPTSTAT g) 0 = false := by
  rw [exec_groupEnable, execGroupEnable, State.whenOn_on _ _ _ _ h1, State.cgMptWrite,
    State.unitWrite_enable _ _ _ _ _ _ _ _ _ _ h2 (bitOf_withField_one v (by omega)) h3]
  generalize s.store _ _ _ _ = u
  have e1 : Reg.CG_MPT g ≠ Reg.CG_CFGCHK g := by simp only [Reg.CG_MPT, Reg.CG_CFGCHK]; omega
  have e2 : Reg.CG_MPT g ≠ Reg.CG_MPTPER g := by simp only [Reg.CG_MPT, Reg.CG_MPTPER]; omega
  have e3 : Reg.CG_MPT g ≠ Reg.CG_MPTSTAT g := by simp only [Reg.CG_MPT, Reg.CG_MPTSTAT]; omega
  have e4 : Reg.CG_CFGCHK g ≠ Reg.CG_MPTPER g := by simp only [Reg.CG_CFGCHK, Reg.CG_MPTPER]; omega
  have e5 : Reg.CG_CFGCHK g ≠ Reg.CG_MPTSTAT g := by simp only [Reg.CG_CFGCHK, Reg.CG_MPTSTAT]; omega
  have hw : ∀ (t : State) (e a : Nat), (t.winBegin g e).reg a = t.reg a := fun _ _ _ => rfl
  have hg : ∀ (t : State) (r : Group) (a : Nat), (t.setGroup g r).reg a = t.reg a := fun _ _ _ => rfl
  refine ⟨_, rfl, ?_, ?_, ?_⟩
  · dsimp only
    split
    · rw [State.flag, hw, hg, State.setFlag, State.reg_setFld_ne _ _ _ _ e3, State.reg_setReg_ne _ _ e2, State.cfgOk,
        State.reg_setReg_ne _ _ e1]
      exact State.flag_setFlag_same _ _ _ (by omega)
    · rw [State.flag, hg, State.setFlag, State.reg_setFld_ne _ _ _ _ e3, State.reg_setReg_ne _ _ e2, State.cfgOk,
        State.reg_setReg_ne _ _ e1]
      exact State.flag_setFlag_same _ _ _ (by omega)
  · dsimp only
    split
    · rw [hw, hg, State.setFlag, State.reg_setFld_ne _ _ _ _ e5, State.reg_setReg_ne _ _ e4, State.cfgOk, State.reg_setReg_same]
    · rw [hg, State.setFlag, State.reg_setFld_ne _ _ _ _ e5, State.reg_setReg_ne _ _ e4, State.cfgOk, State.reg_setReg_same]
  · dsimp only
    split
    · rw [State.flag, hw, hg]
      exact State.flag_setFlag_same _ _ _ (by omega)
    · rw [State.flag, hg]
      exact State.flag_setFlag_same _ _ _ (by omega)

theorem integratingWindowEnd_runs (g : Fin 4) (sums : List WindowSum) {st : Nat} (h1 : s.unitOn (0x19 + g) = true)
    (h2 : s.flag (Reg.CG_MPT g) 0 = true) (h3 : (s.group g).winStart = some st) :
    ∃ t, exec (.integratingWindowEnd g sums) s = .next t ∧
      (t.group g).winStart = some (st + (s.group g).winLen) ∧
      (t.group g).done.length = (s.group g).done.length + sums.length ∧
      t.fld (Reg.CG_MPTSTAT g) 31 16 = (s.fld (Reg.CG_MPTSTAT g) 31 16 + 1) % 2 ^ 16 := by
  rw [exec_integratingWindowEnd, execIntegratingWindowEnd]
  split
  · rename_i h; rw [h] at h3; cases h3
  · rename_i st' h
    rw [h] at h3; cases h3
    rw [h1, h2]
    refine ⟨_, rfl, ?_, ?_, ?_⟩
    · simp [State.winBegin]
    · simp only [State.winBegin, State.group_setGroup_same, State.modInc,
        show ∀ (t : State) (a hi lo v : Nat), (t.setFld a hi lo v).group g = t.group g from fun _ _ _ _ _ => rfl]
      simp
    · rw [State.winBegin, show ∀ (t : State) (r : Group) (a hi lo : Nat), (t.setGroup g r).fld a hi lo = t.fld a hi lo from
        fun _ _ _ _ _ => rfl, State.modInc, State.fld_setFld_same _ _ _ (by omega) (by omega)]
      have : ∀ e, (s.advanceTo e).fld (Reg.CG_MPTSTAT g) 31 16 = s.fld (Reg.CG_MPTSTAT g) 31 16 := by
        intro e; unfold State.advanceTo; split <;> rfl
      rw [show ∀ (t : State) (r : Group) (a hi lo : Nat), (t.setGroup g r).fld a hi lo = t.fld a hi lo from
        fun _ _ _ _ _ => rfl, this]

theorem integratingResultWrite_runs (g : Fin 4) {d : IntDone} {ds : List IntDone} (h1 : s.unitOn (0x19 + g) = true)
    (h2 : (s.group g).done = d :: ds) :
    ∃ t, exec (.integratingResultWrite g) s = .next t ∧
      (t.group g).done = (d :: ds).filter fun x => x.due != ds.foldl (fun m x => min m x.due) d.due := by
  rw [exec_integratingResultWrite, execIntegratingResultWrite, h2]
  dsimp only
  rw [h1]
  refine ⟨_, rfl, ?_⟩
  rw [State.group, foldl_keep (fun t : State => t.conv.groups) _ fun t x => t.putInt_groups _ x]
  exact congrArg Group.done (State.group_setGroup_same _ _ _)

theorem mainsZeroCrossing_runs (g : Fin 4) (c : Crossing) {e : Nat} (h1 : s.unitOn (0x19 + g) = true)
    (h2 : s.flag (Reg.CG_MPT g) 0 = true) (h3 : s.flag (Reg.CG_MPT g) 1 = false)
    (h5 : s.flag (Reg.CG_MPT g) 2 = match c with | .pin _ => true | .values .. => false) (h4 : crossingEdge c = some e) :
    ∃ t, exec (.mainsZeroCrossing g c) s = .next t ∧ (t.group g).lastCross = some e := by
  have hb : ∀ i, bitOf (s.reg (Reg.CG_MPT g)) i = s.flag (Reg.CG_MPT g) i := fun _ => rfl
  rw [exec_mainsZeroCrossing]
  unfold execMainsZeroCrossing
  dsimp only
  rw [h4]
  dsimp only
  rw [if_neg (by rw [hb, hb, hb, h1, h2, h3, h5]; cases c <;> simp)]
  split
  · exact ⟨_, rfl, by simp⟩
  · refine ⟨_, rfl, ?_⟩
    split
    · rw [State.winBegin, State.group_setGroup_same, State.trackPeriod_last]
      simp
    · rw [State.trackPeriod_last]
      simp

theorem trackerNoSignal_runs (g : Fin 4) (h1 : s.unitOn (0x19 + g) = true) (h2 : s.flag (Reg.CG_MPT g) 0 = true)
    (h3 : s.flag (Reg.CG_MPT g) 1 = false) :
    exec (.trackerNoSignal g) s =
      .next ((s.advanceTo ((s.group g).lastCross.getD (s.group g).enAt + 40000000)).setFld (Reg.CG_MPTSTAT g) 2 0 6) := by
  have hb : ∀ i, bitOf (s.reg (Reg.CG_MPT g)) i = s.flag (Reg.CG_MPT g) i := fun _ => rfl
  rw [exec_trackerNoSignal, execTrackerNoSignal]
  dsimp only
  rw [hb, hb, h1, h2, h3]
  rfl

theorem trackFirstWindowTimeout_runs (g : Fin 4) (h1 : s.unitOn (0x19 + g) = true) (h2 : s.flag (Reg.CG_MPT g) 0 = true)
    (h3 : s.flag (Reg.CG_MPT g) 1 = false) (h4 : (s.group g).winStart = none) :
    exec (.trackFirstWindowTimeout g) s =
      .next ((s.advanceTo ((s.group g).enAt + 40000000)).winBegin g ((s.group g).enAt + 40000000)) := by
  have hb : ∀ i, bitOf (s.reg (Reg.CG_MPT g)) i = s.flag (Reg.CG_MPT g) i := fun _ => rfl
  rw [exec_trackFirstWindowTimeout, execTrackFirstWindowTimeout]
  dsimp only
  rw [hb, hb, h1, h2, h3, h4]
  rfl

/-! Calibration (R90 to R94). -/

theorem calStepStart_runs (g : Fin 4) {j : Nat} (h1 : s.unitOn (0x19 + g) = true) (h2 : s.flag (Reg.CG_CALCTL g) 0 = true)
    (h3 : s.flag (Reg.CG_CALCTL g) 1 = false) (h4 : s.arbHeld 2 g = true) (h5 : s.arbHeld 3 g = false)
    (h6 : s.arb.queue.any (fun t => t.act == 3 && t.res == g.val) = false) (h7 : (s.group g).calStart = none)
    (h8 : (s.group g).calStop = false)
    (h9 : nextUnmasked (s.fld (Reg.CG_CALCTL g) 31 16) (s.group g).nextSlice = some j) :
    exec (.calStepStart g) s = .next (((s.setGroup g { s.group g with calStart := some s.now, nextSlice := j + 1 }).setFld
      (Reg.CG_CALSTAT g) 5 4 (if s.sliceEn (16 * g + j) then 1 else 2)).setFld (Reg.CG_CALSTAT g) 3 0 j) := by
  rw [exec_calStepStart, execCalStepStart]
  dsimp only
  rw [if_neg (by rw [h1, h2, h3, h4, h5, h6, h7, h8]; simp), h9]
  simp only [Option.isNone_some, Bool.false_eq_true, if_false, h9]
  rfl

theorem calSubstitution_runs (g : Fin 4) (fitOfs : Int) (fitGain : BitVec 24) {st : Nat}
    (h1 : (s.group g).calStart = some st) (h2 : s.fld (Reg.CG_CALSTAT g) 5 4 = 1) (h3 : s.sliceEn (s.stepSlice g) = true)
    (h4 : s.stepSlice g < 64) :
    ∃ t, exec (.calSubstitution g fitOfs fitGain) s = .next t ∧ t.flag (Reg.CS_STAT (s.stepSlice g)) 3 = true ∧
      (t.group g).subst = some (s.stepSlice g % 16, st + 400000) := by
  have ha : ∀ e a, (s.advanceTo e).reg a = s.reg a := by intro e a; unfold State.advanceTo; split <;> rfl
  have hs : ∀ e, (s.advanceTo e).stepSlice g = s.stepSlice g := by intro e; rw [State.stepSlice, State.fld, ha]; rfl
  have hn : Reg.CS_CTRL (s.stepSlice g) ≠ Reg.CG_CALSTAT g := by
    simp only [Reg.CS_CTRL, Reg.CG_CALSTAT]; omega
  rw [exec_calSubstitution, execCalSubstitution]
  dsimp only
  rw [h1]
  dsimp only
  rw [if_neg (by rw [h2]; decide), hs]
  have he : ((s.advanceTo (st + 400000)).setFld (Reg.CG_CALSTAT g) 5 4 2).sliceEn (s.stepSlice g) = true := by
    rw [State.sliceEn, State.flag_setFld_ne _ _ _ _ _ hn, State.flag, ha]; exact h3
  rw [if_pos he]
  exact ⟨_, rfl, State.flag_setFlag_same _ _ _ (by omega), congrArg Group.subst (State.group_setGroup_same _ _ _)⟩

theorem calPinRelease_runs (g : Fin 4) {st : Nat} (h1 : (s.group g).calStart = some st)
    (h2 : s.fld (Reg.CG_CALSTAT g) 5 4 = 2) :
    exec (.calPinRelease g) s =
      .next ((s.advanceTo (st + 400064)).setGroup g { (s.advanceTo (st + 400064)).group g with pinsOff := true }) := by
  rw [exec_calPinRelease, execCalPinRelease]
  dsimp only
  rw [h1]
  dsimp only
  rw [if_neg (by rw [h2]; decide)]

theorem calReshadow_runs (g : Fin 4) {st : Nat} (h1 : (s.group g).calStart = some st)
    (h2 : s.fld (Reg.CG_CALSTAT g) 5 4 = 2) :
    exec (.calReshadow g) s = .next (((s.advanceTo (st + 3600000)).setGroup g
      { (s.advanceTo (st + 3600000)).group g with pinsOff := false }).setFld (Reg.CG_CALSTAT g) 5 4 3) := by
  rw [exec_calReshadow, execCalReshadow]
  dsimp only
  rw [h1]
  dsimp only
  rw [if_neg (by rw [h2]; decide)]

theorem calHandback_runs (g : Fin 4) (ofs : Int) (gain : BitVec 24) {st : Nat} (h1 : (s.group g).calStart = some st)
    (h2 : 2 ≤ s.fld (Reg.CG_CALSTAT g) 5 4) :
    ∃ t, exec (.calHandback g ofs gain) s = .next t ∧ (t.group g).calStart = none ∧ (t.group g).subst = none ∧
      (t.group g).spareHeld = some (st + 4000000) ∧ t.fld (Reg.CG_CALSTAT g) 5 4 = 0 := by
  have hf : ∀ (t : State) (a hi lo v : Nat), (t.setFld a hi lo v).group g = t.group g := fun _ _ _ _ _ => rfl
  have hb : ∀ (t : State) (a i : Nat) (b : Bool), (t.setFlag a i b).group g = t.group g := fun _ _ _ _ => rfl
  rw [exec_calHandback, execCalHandback]
  dsimp only
  rw [h1]
  dsimp only
  rw [if_neg (by omega)]
  refine ⟨_, rfl, ?_, ?_, ?_, ?_⟩
  · rw [hf, hb, State.group_setGroup_same]
  · rw [hf, hb, State.group_setGroup_same]
  · rw [hf, hb, State.group_setGroup_same]
  · exact State.fld_setFld_same _ _ _ (by omega) (by omega)

theorem calSpareRelease_runs (g : Fin 4) {e : Nat} (h1 : (s.group g).spareHeld = some e) :
    exec (.calSpareRelease g) s = .next (((s.advanceTo (e + 64)).setGroup g
      { (s.advanceTo (e + 64)).group g with spareHeld := none }).calMaybeRelease g) := by
  rw [exec_calSpareRelease, execCalSpareRelease, h1]

theorem calRun_runs (g : Fin 4) (v : BitVec 32) {k : Nat} {u : State} (h1 : s.unitOn (0x19 + g) = true)
    (h2 : s.flag (Reg.CG_CALCTL g) 0 = false) (h3 : s.flag (Reg.CG_CALCTL g) 1 = false) (h4 : bitOf v 1 = false)
    (h5 : s.fld (Reg.CG_CALSTAT g) 12 8 = 0x1F) (h6 : (s.group g).calTicket = none)
    (h7 : (s.store (Reg.CG_CALCTL g) (Reg.CG_CFGCHK g) false (withField v 0 0 1)).arbRequest 2 g = (.accepted k, u)) :
    exec (.calRun g v) s = .next (((u.setGroup g { u.group g with calTicket := some k, calStop := false }).setFld
      (Reg.CG_CALSTAT g) 7 6 1).cfgOk (Reg.CG_CFGCHK g)) := by
  have e1 : Reg.CG_CALSTAT g ≠ Reg.CG_CALCTL g := by simp only [Reg.CG_CALSTAT, Reg.CG_CALCTL]; omega
  have e2 : Reg.CG_CALSTAT g ≠ Reg.CG_CFGCHK g := by simp only [Reg.CG_CALSTAT, Reg.CG_CFGCHK]; omega
  obtain ⟨r, hr⟩ := s.store_eq (Reg.CG_CALCTL g) (Reg.CG_CFGCHK g) false (withField v 0 0 1)
  rw [exec_calRun, execCalRun, if_pos h1, State.calctlWrite]
  dsimp only
  rw [h2, h3, bitOf_withField_one v (by omega), bitOf_withField_ne v 1 (by omega) (by omega) (by omega), h4,
    s.fld_store_ne false (withField v 0 0 1) 0 12 8 e1 e2, h5,
    show ((s.store (Reg.CG_CALCTL g) (Reg.CG_CFGCHK g) false (withField v 0 0 1)).group g).calTicket = none by rw [hr]; exact h6,
    h7]
  rfl

theorem calStop_runs (g : Fin 4) (v : BitVec 32) (h1 : s.unitOn (0x19 + g) = true)
    (h2 : s.flag (Reg.CG_CALCTL g) 0 = true) (h3 : s.flag (Reg.CG_CALCTL g) 1 = bitOf v 1)
    (h4 : (((s.store (Reg.CG_CALCTL g) (Reg.CG_CFGCHK g) false (withField v 0 0 0)).calHold g).calMaybeRelease g).flag
      (Reg.CG_CALCTL g) 0 = false) :
    exec (.calStop g v) s = .next
      (((s.store (Reg.CG_CALCTL g) (Reg.CG_CFGCHK g) false (withField v 0 0 0)).calHold g).calMaybeRelease g) := by
  rw [exec_calStop, execCalStop, if_pos h1, State.calctlWrite]
  dsimp only
  rw [h2, h3, bitOf_withField_zero v (by omega), bitOf_withField_ne v 0 (by omega) (by omega) (by omega)]
  cases bitOf v 1 <;> simp [h4]

theorem calPause_runs (g : Fin 4) (v : BitVec 32) (h1 : s.unitOn (0x19 + g) = true)
    (h2 : s.flag (Reg.CG_CALCTL g) 0 = bitOf v 0) (h3 : s.flag (Reg.CG_CALCTL g) 1 = false) :
    exec (.calPause g v) s =
      .next ((s.store (Reg.CG_CALCTL g) (Reg.CG_CFGCHK g) false (withField v 1 1 1)).calHold g) := by
  rw [exec_calPause, execCalPause, if_pos h1, State.calctlWrite]
  dsimp only
  rw [h2, h3, bitOf_withField_one v (by omega), bitOf_withField_ne v 1 (by omega) (by omega) (by omega)]
  cases bitOf v 0 <;> rfl

theorem calResume_runs (g : Fin 4) (v : BitVec 32) (h1 : s.unitOn (0x19 + g) = true)
    (h2 : s.flag (Reg.CG_CALCTL g) 0 = true) (h3 : s.flag (Reg.CG_CALCTL g) 1 = true) (h4 : bitOf v 0 = true)
    (h5 : (s.store (Reg.CG_CALCTL g) (Reg.CG_CFGCHK g) false (withField v 1 1 0)).flag (Reg.CG_CALCTL g) 0 = true) :
    exec (.calResume g v) s =
      .next ((s.store (Reg.CG_CALCTL g) (Reg.CG_CFGCHK g) false (withField v 1 1 0)).setGroup g
        { (s.store (Reg.CG_CALCTL g) (Reg.CG_CFGCHK g) false (withField v 1 1 0)).group g with calStop := false }) := by
  rw [exec_calResume, execCalResume, if_pos h1, State.calctlWrite]
  dsimp only
  rw [h2, h3, bitOf_withField_zero v (by omega), bitOf_withField_ne v 0 (by omega) (by omega) (by omega), h4]
  simp [h5]

/-! Diagnostic DAC and sequencers (R85, R95). -/

theorem testdacRequest_runs (g : Fin 4) (v : BitVec 32) {k : Nat} {u : State} (h1 : s.unitOn (0x19 + g) = true)
    (h2 : s.flag (Reg.CG_DIAG g) 0 = false) (h3 : (s.group g).diagTicket = none)
    (h4 : (s.store (Reg.CG_DIAG g) (Reg.CG_CFGCHK g) false (withField (withField v 0 0 1) 0 0 0)).diagFails g = [])
    (h5 : (s.store (Reg.CG_DIAG g) (Reg.CG_CFGCHK g) false (withField (withField v 0 0 1) 0 0 0)).arbRequest 3 g =
      (.accepted k, u)) :
    exec (.testdacRequest g v) s = .next ((((u.setGroup g { u.group g with diagTicket := some k }).setFld
      (Reg.CG_CALSTAT g) 15 14 1).setFlag (Reg.CG_DIAG g) 0 true).cfgOk (Reg.CG_CFGCHK g)) := by
  obtain ⟨r, hr⟩ := s.store_eq (Reg.CG_DIAG g) (Reg.CG_CFGCHK g) false (withField (withField v 0 0 1) 0 0 0)
  rw [exec_testdacRequest, execTestdacRequest, if_pos h1, State.diagWrite]
  dsimp only
  rw [h2, bitOf_withField_one v (by omega), h4, pickFail,
    show ((s.store (Reg.CG_DIAG g) (Reg.CG_CFGCHK g) false (withField (withField v 0 0 1) 0 0 0)).group g).diagTicket = none by
      rw [hr]; exact h3, h5]
  rfl

theorem testdacRelease_runs (g : Fin 4) (v : BitVec 32) {k : Nat} (h1 : s.unitOn (0x19 + g) = true)
    (h2 : s.flag (Reg.CG_DIAG g) 0 = true) (h3 : (s.group g).diagTicket = some k) :
    ∃ t, exec (.testdacRelease g v) s = .next t ∧ (t.group g).diagTicket = none ∧ t.fld (Reg.CG_CALSTAT g) 15 14 = 0 := by
  obtain ⟨r, hr⟩ := s.store_eq (Reg.CG_DIAG g) (Reg.CG_CFGCHK g) true (withField v 0 0 0)
  rw [exec_testdacRelease, execTestdacRelease, if_pos h1, State.diagWrite]
  dsimp only
  rw [h2, bitOf_withField_zero v (by omega),
    show ((s.store (Reg.CG_DIAG g) (Reg.CG_CFGCHK g) true (withField v 0 0 0)).group g).diagTicket = some k by
      rw [hr]; exact h3]
  refine ⟨_, rfl, ?_, State.fld_setFld_same _ _ _ (by omega) (by omega)⟩
  exact congrArg Group.diagTicket (State.group_setGroup_same _ _ _)

theorem sequencerEnable_runs (n : Fin 16) (v : BitVec 32) (h1 : s.unitOn domSo = true) (h2 : s.flag (Reg.SQ_CTRL n) 0 = false)
    (h3 : (s.store (Reg.SQ_CTRL n) (Reg.SQ_CFGCHK n) false (withField (withField v 0 0 1) 0 0 0)).seqFails n = []) :
    ∃ t, exec (.sequencerEnable n v) s = .next t ∧ t.flag (Reg.SQ_CTRL n) 0 = true ∧ t.reg (Reg.SQ_CFGCHK n) = 0 ∧
      t.conv.entFail = nsetDel s.conv.entFail (32 * n) (32 * n + 32) := by
  obtain ⟨r, hr⟩ := s.store_eq (Reg.SQ_CTRL n) (Reg.SQ_CFGCHK n) false (withField (withField v 0 0 1) 0 0 0)
  have e1 : Reg.SQ_CTRL n ≠ Reg.SQ_CFGCHK n := by simp only [Reg.SQ_CTRL, Reg.SQ_CFGCHK]; omega
  rw [exec_sequencerEnable, execSequencerEnable, State.whenOn_on _ _ _ _ h1, State.sqCtrlWrite,
    State.unitWrite_enable _ _ _ _ _ _ _ _ _ _ h2 (bitOf_withField_one v (by omega)) h3]
  refine ⟨_, rfl, ?_, ?_, ?_⟩
  · exact (State.flag_setReg_ne _ _ _ e1).trans (State.flag_setFlag_same _ _ _ (by omega))
  · exact State.reg_setReg_same _ _ _
  · rw [hr]; rfl

theorem sqEntryWrite_runs (n : Fin 16) (k : Fin 32) (v : BitVec 32) (h1 : s.unitOn domSo = true)
    (h2 : s.flag (Reg.SQ_CTRL n) 0 = false) :
    ∃ t, exec (.sqEntryWrite n k v) s = .next t ∧
      t.reg (Reg.SQ_ENT n k) = (s.store (Reg.SQ_ENT n k) (Reg.SQ_CFGCHK n) false v).reg (Reg.SQ_ENT n k) ∧
      t.conv.entFail = nsetDel s.conv.entFail (32 * n + k) (32 * n + k + 1) := by
  obtain ⟨r, hr⟩ := s.store_eq (Reg.SQ_ENT n k) (Reg.SQ_CFGCHK n) false v
  have e1 : Reg.SQ_CTRL n ≠ Reg.SQ_ENT n k := by simp only [Reg.SQ_CTRL, Reg.SQ_ENT]; omega
  have e2 : Reg.SQ_CTRL n ≠ Reg.SQ_CFGCHK n := by simp only [Reg.SQ_CTRL, Reg.SQ_CFGCHK]; omega
  have h3 : (s.store (Reg.SQ_ENT n k) (Reg.SQ_CFGCHK n) false v).flag (Reg.SQ_CTRL n) 0 = false := by
    rw [s.flag_store_ne false v 0 0 e1 e2]; exact h2
  rw [exec_sqEntryWrite, execSqEntryWrite, if_pos h1, State.sqEntWrite]
  dsimp only
  rw [show ∀ (u : State) (c : Conv), State.flag { u with conv := c } (Reg.SQ_CTRL n) 0 = u.flag (Reg.SQ_CTRL n) 0 from
    fun _ _ => rfl, h3]
  refine ⟨_, rfl, rfl, ?_⟩
  rw [hr]; rfl

end Sys2Proof.Machine
end

