-- ==== Sys2Proof/Laws/RunsCoreAlu.lean ====
section
/-! SUPPORT. Where the Molpa cores' arithmetic instructions complete, and with what: one lemma a command (R246 to R249, R160,
R166, R167). -/

namespace Sys2Proof.Machine

variable {s : State} {n : Fin 4} {k : Nat}

theorem mcAdd_runs (d a b : Fin 32) (h : s.CoreReady n k) :
    exec (.mcAdd n d a b 0) s = .next (s.coreSet k fun r => r.set d ((r.get a) + (r.get b))) := by
  rw [exec_mcAdd, execMcAdd]
  exact State.alu_runs h rfl _

theorem mcSub_runs (d a b : Fin 32) (h : s.CoreReady n k) :
    exec (.mcSub n d a b 0) s = .next (s.coreSet k fun r => r.set d ((r.get a) - (r.get b))) := by
  rw [exec_mcSub, execMcSub]
  exact State.alu_runs h rfl _

theorem mcAnd_runs (d a b : Fin 32) (h : s.CoreReady n k) :
    exec (.mcAnd n d a b 0) s = .next (s.coreSet k fun r => r.set d ((r.get a) &&& (r.get b))) := by
  rw [exec_mcAnd, execMcAnd]
  exact State.alu_runs h rfl _

theorem mcOr_runs (d a b : Fin 32) (h : s.CoreReady n k) :
    exec (.mcOr n d a b 0) s = .next (s.coreSet k fun r => r.set d ((r.get a) ||| (r.get b))) := by
  rw [exec_mcOr, execMcOr]
  exact State.alu_runs h rfl _

theorem mcXor_runs (d a b : Fin 32) (h : s.CoreReady n k) :
    exec (.mcXor n d a b 0) s = .next (s.coreSet k fun r => r.set d ((r.get a) ^^^ (r.get b))) := by
  rw [exec_mcXor, execMcXor]
  exact State.alu_runs h rfl _

theorem mcAndn_runs (d a b : Fin 32) (h : s.CoreReady n k) :
    exec (.mcAndn n d a b 0) s = .next (s.coreSet k fun r => r.set d ((r.get a) &&& ~~~(r.get b))) := by
  rw [exec_mcAndn, execMcAndn]
  exact State.alu_runs h rfl _

theorem mcSll_runs (d a b : Fin 32) (h : s.CoreReady n k) :
    exec (.mcSll n d a b 0) s = .next (s.coreSet k fun r => r.set d ((r.get a) <<< ((r.get b).toNat % 32))) := by
  rw [exec_mcSll, execMcSll]
  exact State.alu_runs h rfl _

theorem mcSrl_runs (d a b : Fin 32) (h : s.CoreReady n k) :
    exec (.mcSrl n d a b 0) s = .next (s.coreSet k fun r => r.set d ((r.get a) >>> ((r.get b).toNat % 32))) := by
  rw [exec_mcSrl, execMcSrl]
  exact State.alu_runs h rfl _

theorem mcSra_runs (d a b : Fin 32) (h : s.CoreReady n k) :
    exec (.mcSra n d a b 0) s = .next (s.coreSet k fun r => r.set d ((r.get a).sshiftRight ((r.get b).toNat % 32))) := by
  rw [exec_mcSra, execMcSra]
  exact State.alu_runs h rfl _

theorem mcSlt_runs (d a b : Fin 32) (h : s.CoreReady n k) :
    exec (.mcSlt n d a b 0) s = .next (s.coreSet k fun r => r.set d (BitVec.ofNat 32 (bit ((r.get a).slt (r.get b))))) := by
  rw [exec_mcSlt, execMcSlt]
  exact State.alu_runs h rfl _

theorem mcSltu_runs (d a b : Fin 32) (h : s.CoreReady n k) :
    exec (.mcSltu n d a b 0) s = .next (s.coreSet k fun r => r.set d (BitVec.ofNat 32 (bit ((r.get a).ult (r.get b))))) := by
  rw [exec_mcSltu, execMcSltu]
  exact State.alu_runs h rfl _

theorem mcMin_runs (d a b : Fin 32) (h : s.CoreReady n k) :
    exec (.mcMin n d a b 0) s = .next (s.coreSet k fun r => r.set d (if (r.get a).slt (r.get b) then (r.get a) else (r.get b))) := by
  rw [exec_mcMin, execMcMin]
  exact State.alu_runs h rfl _

theorem mcMax_runs (d a b : Fin 32) (h : s.CoreReady n k) :
    exec (.mcMax n d a b 0) s = .next (s.coreSet k fun r => r.set d (if (r.get a).slt (r.get b) then (r.get b) else (r.get a))) := by
  rw [exec_mcMax, execMcMax]
  exact State.alu_runs h rfl _

theorem mcMinu_runs (d a b : Fin 32) (h : s.CoreReady n k) :
    exec (.mcMinu n d a b 0) s = .next (s.coreSet k fun r => r.set d (if (r.get a).ult (r.get b) then (r.get a) else (r.get b))) := by
  rw [exec_mcMinu, execMcMinu]
  exact State.alu_runs h rfl _

theorem mcMaxu_runs (d a b : Fin 32) (h : s.CoreReady n k) :
    exec (.mcMaxu n d a b 0) s = .next (s.coreSet k fun r => r.set d (if (r.get a).ult (r.get b) then (r.get b) else (r.get a))) := by
  rw [exec_mcMaxu, execMcMaxu]
  exact State.alu_runs h rfl _

theorem mcAddv_runs (d a b : Fin 32) (h : s.CoreReady n k) {z : Int}
    (hz : z = sv ((s.arch k).get a) + sv ((s.arch k).get b)) (hv : satTo 32 z = z) :
    exec (.mcAddv n d a b 0) s = .next (s.coreSet k fun r => r.set d (Word.ofInt z)) := by
  subst hz
  rw [exec_mcAddv, execMcAddv]
  exact State.aluV_runs h rfl (fun x y => sv x + sv y) hv

theorem mcSubv_runs (d a b : Fin 32) (h : s.CoreReady n k) {z : Int}
    (hz : z = sv ((s.arch k).get a) - sv ((s.arch k).get b)) (hv : satTo 32 z = z) :
    exec (.mcSubv n d a b 0) s = .next (s.coreSet k fun r => r.set d (Word.ofInt z)) := by
  subst hz
  rw [exec_mcSubv, execMcSubv]
  exact State.aluV_runs h rfl (fun x y => sv x - sv y) hv

theorem mcSel_runs (d a b e : Fin 32) (h : s.CoreReady n k) :
    exec (.mcSel n d a b e) s = .next (s.coreSet k fun r => r.set d (if (r.get e) = 0 then (r.get b) else (r.get a))) := by
  rw [exec_mcSel, execMcSel]
  exact State.alu_runs h rfl _

theorem mcMul_runs (d a b : Fin 32) (h : s.CoreReady n k) :
    exec (.mcMul n d a b 0) s = .next (s.coreSet k fun r => r.set d ((r.get a) * (r.get b))) := by
  rw [exec_mcMul, execMcMul]
  exact State.alu_runs h rfl _

theorem mcMulh_runs (d a b : Fin 32) (h : s.CoreReady n k) :
    exec (.mcMulh n d a b 0) s = .next (s.coreSet k fun r => r.set d (Word.ofInt (sra (sv (r.get a) * sv (r.get b)) 32))) := by
  rw [exec_mcMulh, execMcMulh]
  exact State.alu_runs h rfl _

theorem mcMulhu_runs (d a b : Fin 32) (h : s.CoreReady n k) :
    exec (.mcMulhu n d a b 0) s = .next (s.coreSet k fun r => r.set d (BitVec.ofNat 32 ((r.get a).toNat * (r.get b).toNat / 2 ^ 32))) := by
  rw [exec_mcMulhu, execMcMulhu]
  exact State.alu_runs h rfl _

theorem mcMulv_runs (d a b : Fin 32) (h : s.CoreReady n k) {z : Int}
    (hz : z = sv ((s.arch k).get a) * sv ((s.arch k).get b)) (hv : satTo 32 z = z) :
    exec (.mcMulv n d a b 0) s = .next (s.coreSet k fun r => r.set d (Word.ofInt z)) := by
  subst hz
  rw [exec_mcMulv, execMcMulv]
  exact State.aluV_runs h rfl (fun x y => sv x * sv y) hv

theorem mcDiv_runs (d a b : Fin 32) (h : s.CoreReady n k) (hz : (s.arch k).get b ≠ 0) :
    exec (.mcDiv n d a b 0) s = .next (s.coreSet k fun r => r.set d (Word.ofInt ((sv (r.get a)).tdiv (sv (r.get b))))) := by
  rw [exec_mcDiv, execMcDiv]
  exact State.aluDiv_runs h rfl _ hz

theorem mcDivu_runs (d a b : Fin 32) (h : s.CoreReady n k) (hz : (s.arch k).get b ≠ 0) :
    exec (.mcDivu n d a b 0) s = .next (s.coreSet k fun r => r.set d (BitVec.ofNat 32 ((r.get a).toNat / (r.get b).toNat))) := by
  rw [exec_mcDivu, execMcDivu]
  exact State.aluDiv_runs h rfl _ hz

theorem mcRem_runs (d a b : Fin 32) (h : s.CoreReady n k) (hz : (s.arch k).get b ≠ 0) :
    exec (.mcRem n d a b 0) s = .next (s.coreSet k fun r => r.set d (Word.ofInt ((sv (r.get a)).tmod (sv (r.get b))))) := by
  rw [exec_mcRem, execMcRem]
  exact State.aluDiv_runs h rfl _ hz

theorem mcRemu_runs (d a b : Fin 32) (h : s.CoreReady n k) (hz : (s.arch k).get b ≠ 0) :
    exec (.mcRemu n d a b 0) s = .next (s.coreSet k fun r => r.set d (BitVec.ofNat 32 ((r.get a).toNat % (r.get b).toNat))) := by
  rw [exec_mcRemu, execMcRemu]
  exact State.aluDiv_runs h rfl _ hz

theorem mcAddS_runs (d a b : Fin 32) (h : s.CoreReady n k) {z : Int}
    (hz : z = sv ((s.arch k).get a) + sv ((s.arch k).get b)) (hc : satTo 32 z = z ∨ (s.arch k).ste = false) :
    exec (.mcAddS n d a b 0) s = .next (s.coreSet k fun r => r.set d (Word.ofInt (satTo 32 z))) := by
  rw [exec_mcAddS, execMcAddS]
  exact State.aluSat_runs h rfl 32 _ hz hc

theorem mcSubS_runs (d a b : Fin 32) (h : s.CoreReady n k) {z : Int}
    (hz : z = sv ((s.arch k).get a) - sv ((s.arch k).get b)) (hc : satTo 32 z = z ∨ (s.arch k).ste = false) :
    exec (.mcSubS n d a b 0) s = .next (s.coreSet k fun r => r.set d (Word.ofInt (satTo 32 z))) := by
  rw [exec_mcSubS, execMcSubS]
  exact State.aluSat_runs h rfl 32 _ hz hc

theorem mcNegS_runs (d a : Fin 32) (h : s.CoreReady n k) {z : Int}
    (hz : z = -sv ((s.arch k).get a)) (hc : satTo 32 z = z ∨ (s.arch k).ste = false) :
    exec (.mcNegS n d a 0 0) s = .next (s.coreSet k fun r => r.set d (Word.ofInt (satTo 32 z))) := by
  rw [exec_mcNegS, execMcNegS]
  exact State.aluSat_runs h rfl 32 _ hz hc

theorem mcAbsS_runs (d a : Fin 32) (h : s.CoreReady n k) {z : Int}
    (hz : z = (sv ((s.arch k).get a)).natAbs) (hc : satTo 32 z = z ∨ (s.arch k).ste = false) :
    exec (.mcAbsS n d a 0 0) s = .next (s.coreSet k fun r => r.set d (Word.ofInt (satTo 32 z))) := by
  rw [exec_mcAbsS, execMcAbsS]
  exact State.aluSat_runs h rfl 32 _ hz hc

theorem mcMulq_runs (d a b : Fin 32) (h : s.CoreReady n k) {z : Int}
    (hz : z = sra (sv ((s.arch k).get a) * sv ((s.arch k).get b)) 31) (hc : satTo 32 z = z ∨ (s.arch k).ste = false) :
    exec (.mcMulq n d a b 0) s = .next (s.coreSet k fun r => r.set d (Word.ofInt (satTo 32 z))) := by
  rw [exec_mcMulq, execMcMulq]
  exact State.aluSat_runs h rfl 32 _ hz hc

theorem mcMadq_runs (d a b e : Fin 32) (h : s.CoreReady n k) {z : Int}
    (hz : z = sv ((s.arch k).get e) + sra (sv ((s.arch k).get a) * sv ((s.arch k).get b)) 31) (hc : satTo 32 z = z ∨ (s.arch k).ste = false) :
    exec (.mcMadq n d a b e) s = .next (s.coreSet k fun r => r.set d (Word.ofInt (satTo 32 z))) := by
  rw [exec_mcMadq, execMcMadq]
  exact State.aluSat_runs h rfl 32 _ hz hc

theorem mcMulq15_runs (d a b : Fin 32) (h : s.CoreReady n k) {z : Int}
    (hz : z = sra (low16 ((s.arch k).get a) * low16 ((s.arch k).get b)) 15) (hc : satTo 16 z = z ∨ (s.arch k).ste = false) :
    exec (.mcMulq15 n d a b 0) s = .next (s.coreSet k fun r => r.set d (Word.ofInt (satTo 16 z))) := by
  rw [exec_mcMulq15, execMcMulq15]
  exact State.aluSat_runs h rfl 16 _ hz hc

theorem mcMadq15_runs (d a b e : Fin 32) (h : s.CoreReady n k) {z : Int}
    (hz : z = low16 ((s.arch k).get e) + sra (low16 ((s.arch k).get a) * low16 ((s.arch k).get b)) 15) (hc : satTo 16 z = z ∨ (s.arch k).ste = false) :
    exec (.mcMadq15 n d a b e) s = .next (s.coreSet k fun r => r.set d (Word.ofInt (satTo 16 z))) := by
  rw [exec_mcMadq15, execMcMadq15]
  exact State.aluSat_runs h rfl 16 _ hz hc

theorem mcClmp_runs (d a b : Fin 32) (h : s.CoreReady n k) :
    exec (.mcClmp n d a b 0) s = .next (s.coreSet k fun r => r.set d (Word.ofInt (min (max (sv (r.get a)) (-sv (r.get b))) (sv (r.get b))))) := by
  rw [exec_mcClmp, execMcClmp]
  exact State.alu_runs h rfl _

theorem mcShls_runs (d a b : Fin 32) (h : s.CoreReady n k) {z : Int}
    (hz : z = sv ((s.arch k).get a) * (2 ^ (((s.arch k).get b).toNat % 32) : Nat)) (hc : satTo 32 z = z ∨ (s.arch k).ste = false) :
    exec (.mcShls n d a b 0) s = .next (s.coreSet k fun r => r.set d (Word.ofInt (satTo 32 z))) := by
  rw [exec_mcShls, execMcShls]
  exact State.aluSat_runs h rfl 32 _ hz hc

theorem mcRndq15_runs (d a : Fin 32) (h : s.CoreReady n k) {z : Int}
    (hz : z = sra (sv ((s.arch k).get a) + 32768) 16) (hc : satTo 16 z = z ∨ (s.arch k).ste = false) :
    exec (.mcRndq15 n d a 0 0) s = .next (s.coreSet k fun r => r.set d (Word.ofInt (satTo 16 z))) := by
  rw [exec_mcRndq15, execMcRndq15]
  exact State.aluSat_runs h rfl 16 _ hz hc

theorem mcFadd_runs (d a b : Fin 32) (h : s.CoreReady n k) :
    exec (.mcFadd n d a b 0) s = .next (s.coreSet k fun r => r.set d (fpAdd (r.get a) (r.get b))) := by
  rw [exec_mcFadd, execMcFadd]
  exact State.alu_runs h rfl _

theorem mcFsub_runs (d a b : Fin 32) (h : s.CoreReady n k) :
    exec (.mcFsub n d a b 0) s = .next (s.coreSet k fun r => r.set d (fpSub (r.get a) (r.get b))) := by
  rw [exec_mcFsub, execMcFsub]
  exact State.alu_runs h rfl _

theorem mcFmul_runs (d a b : Fin 32) (h : s.CoreReady n k) :
    exec (.mcFmul n d a b 0) s = .next (s.coreSet k fun r => r.set d (fpMul (r.get a) (r.get b))) := by
  rw [exec_mcFmul, execMcFmul]
  exact State.alu_runs h rfl _

theorem mcFmad_runs (d a b e : Fin 32) (h : s.CoreReady n k) :
    exec (.mcFmad n d a b e) s = .next (s.coreSet k fun r => r.set d (fpMad (r.get a) (r.get b) (r.get e))) := by
  rw [exec_mcFmad, execMcFmad]
  exact State.alu_runs h rfl _

theorem mcFmin_runs (d a b : Fin 32) (h : s.CoreReady n k) :
    exec (.mcFmin n d a b 0) s = .next (s.coreSet k fun r => r.set d (fpMin (r.get a) (r.get b))) := by
  rw [exec_mcFmin, execMcFmin]
  exact State.alu_runs h rfl _

theorem mcFmax_runs (d a b : Fin 32) (h : s.CoreReady n k) :
    exec (.mcFmax n d a b 0) s = .next (s.coreSet k fun r => r.set d (fpMax (r.get a) (r.get b))) := by
  rw [exec_mcFmax, execMcFmax]
  exact State.alu_runs h rfl _

theorem mcFabs_runs (d a : Fin 32) (h : s.CoreReady n k) :
    exec (.mcFabs n d a 0 0) s = .next (s.coreSet k fun r => r.set d (fpAbs (r.get a))) := by
  rw [exec_mcFabs, execMcFabs]
  exact State.alu_runs h rfl _

theorem mcFneg_runs (d a : Fin 32) (h : s.CoreReady n k) :
    exec (.mcFneg n d a 0 0) s = .next (s.coreSet k fun r => r.set d (fpNeg (r.get a))) := by
  rw [exec_mcFneg, execMcFneg]
  exact State.alu_runs h rfl _

theorem mcFcvtQf_runs (d a : Fin 32) (h : s.CoreReady n k) :
    exec (.mcFcvtQf n d a 0 0) s = .next (s.coreSet k fun r => r.set d (fcvtQF (r.get a))) := by
  rw [exec_mcFcvtQf, execMcFcvtQf]
  exact State.alu_runs h rfl _

theorem mcFcvtFq_runs (d a : Fin 32) (h : s.CoreReady n k) :
    exec (.mcFcvtFq n d a 0 0) s = .next (s.coreSet k fun r => r.set d (fcvtFQ (r.get a))) := by
  rw [exec_mcFcvtFq, execMcFcvtFq]
  exact State.alu_runs h rfl _

theorem mcFcvtIf_runs (d a : Fin 32) (h : s.CoreReady n k) :
    exec (.mcFcvtIf n d a 0 0) s = .next (s.coreSet k fun r => r.set d (fcvtIF (r.get a))) := by
  rw [exec_mcFcvtIf, execMcFcvtIf]
  exact State.alu_runs h rfl _

theorem mcFcvtFi_runs (d a : Fin 32) (h : s.CoreReady n k) :
    exec (.mcFcvtFi n d a 0 0) s = .next (s.coreSet k fun r => r.set d (fcvtFI (r.get a))) := by
  rw [exec_mcFcvtFi, execMcFcvtFi]
  exact State.alu_runs h rfl _

theorem mcFlt_runs (d a b : Fin 32) (h : s.CoreReady n k) :
    exec (.mcFlt n d a b 0) s = .next (s.coreSet k fun r => r.set d (BitVec.ofNat 32 (bit (fpLt (r.get a) (r.get b))))) := by
  rw [exec_mcFlt, execMcFlt]
  exact State.alu_runs h rfl _

theorem mcFdiv_runs (d a b : Fin 32) (h : s.CoreReady n k) :
    exec (.mcFdiv n d a b 0) s = .next (s.coreSet k fun r => r.set d (fpDiv (r.get a) (r.get b))) := by
  rw [exec_mcFdiv, execMcFdiv]
  exact State.alu_runs h rfl _

theorem mcFsqrt_runs (d a : Fin 32) (h : s.CoreReady n k) :
    exec (.mcFsqrt n d a 0 0) s = .next (s.coreSet k fun r => r.set d (fpSqrt (r.get a))) := by
  rw [exec_mcFsqrt, execMcFsqrt]
  exact State.alu_runs h rfl _

theorem mcFeq_runs (d a b : Fin 32) (h : s.CoreReady n k) :
    exec (.mcFeq n d a b 0) s = .next (s.coreSet k fun r => r.set d (BitVec.ofNat 32 (bit (fpEq (r.get a) (r.get b))))) := by
  rw [exec_mcFeq, execMcFeq]
  exact State.alu_runs h rfl _

theorem mcFle_runs (d a b : Fin 32) (h : s.CoreReady n k) :
    exec (.mcFle n d a b 0) s = .next (s.coreSet k fun r => r.set d (BitVec.ofNat 32 (bit (fpLe (r.get a) (r.get b))))) := by
  rw [exec_mcFle, execMcFle]
  exact State.alu_runs h rfl _

theorem mcClarke_runs (d a b : Fin 32) (h : s.CoreReady n k) (hd : d.val % 2 = 0) {z : Int}
    (hz : z = clarkeInt ((s.arch k).get a) ((s.arch k).get b)) (hc : (clipped 32 z) = false ∨ (s.arch k).ste = false) :
    exec (.mcClarke n d a b 0) s = .next (s.coreSet k fun r => [r.get a, sat32 z].zipIdx.foldl (fun r (w, i) => r.set (d + i) w) r) := by
  subst hz
  rw [exec_mcClarke, execMcClarke]
  exact State.aluVec_runs h rfl hd _ rfl hc

theorem mcPark_runs (d a b : Fin 32) (h : s.CoreReady n k) (hd : d.val % 2 = 0) {z : Int × Int}
    (hz : z = parkInts ((s.arch k).get a) ((s.arch k).get ((a.val + 1) % 32)) ((s.arch k).get b)) (hc : (clipped 32 z.1 || clipped 32 z.2) = false ∨ (s.arch k).ste = false) :
    exec (.mcPark n d a b 0) s = .next (s.coreSet k fun r => [sat32 z.1, sat32 z.2].zipIdx.foldl (fun r (w, i) => r.set (d + i) w) r) := by
  subst hz
  rw [exec_mcPark, execMcPark]
  exact State.aluVec_runs h rfl hd _ rfl hc

theorem mcIpark_runs (d a b : Fin 32) (h : s.CoreReady n k) (hd : d.val % 2 = 0) {z : Int × Int}
    (hz : z = iparkInts ((s.arch k).get a) ((s.arch k).get ((a.val + 1) % 32)) ((s.arch k).get b)) (hc : (clipped 32 z.1 || clipped 32 z.2) = false ∨ (s.arch k).ste = false) :
    exec (.mcIpark n d a b 0) s = .next (s.coreSet k fun r => [sat32 z.1, sat32 z.2].zipIdx.foldl (fun r (w, i) => r.set (d + i) w) r) := by
  subst hz
  rw [exec_mcIpark, execMcIpark]
  exact State.aluVec_runs h rfl hd _ rfl hc

theorem mcSvm_runs (d a : Fin 32) (h : s.CoreReady n k) (hd : d.val % 4 = 0) {z : Word × Word × Word × Word}
    (hz : z = svmOf ((s.arch k).get a) ((s.arch k).get ((a.val + 1) % 32))) (hc : (bitOf z.1 31) = false ∨ (s.arch k).ste = false) :
    exec (.mcSvm n d a 0 0) s = .next (s.coreSet k fun r => [z.1, z.2.1, z.2.2.1, z.2.2.2].zipIdx.foldl (fun r (w, i) => r.set (d + i) w) r) := by
  subst hz
  rw [exec_mcSvm, execMcSvm]
  exact State.aluVec_runs h rfl hd _ rfl hc

theorem mcClz_runs (d a : Fin 32) (h : s.CoreReady n k) :
    exec (.mcClz n d a 0 0) s = .next (s.coreSet k fun r => r.set d (BitVec.ofNat 32 (32 - bitLen (r.get a).toNat))) := by
  rw [exec_mcClz, execMcClz]
  exact State.alu_runs h rfl _

theorem mcCtz_runs (d a : Fin 32) (h : s.CoreReady n k) :
    exec (.mcCtz n d a 0 0) s = .next (s.coreSet k fun r => r.set d (BitVec.ofNat 32 (trailingZeros (r.get a)))) := by
  rw [exec_mcCtz, execMcCtz]
  exact State.alu_runs h rfl _

theorem mcPopc_runs (d a : Fin 32) (h : s.CoreReady n k) :
    exec (.mcPopc n d a 0 0) s = .next (s.coreSet k fun r => r.set d (BitVec.ofNat 32 (popcount (r.get a)))) := by
  rw [exec_mcPopc, execMcPopc]
  exact State.alu_runs h rfl _

theorem mcBswap_runs (d a : Fin 32) (h : s.CoreReady n k) :
    exec (.mcBswap n d a 0 0) s = .next (s.coreSet k fun r => r.set d (byteSwap (r.get a))) := by
  rw [exec_mcBswap, execMcBswap]
  exact State.alu_runs h rfl _

theorem mcAddi_runs (d a : Fin 32) (imm : BitVec 16) (h : s.CoreReady n k) :
    exec (.mcAddi n d a imm) s = .next (s.coreSet k fun r => r.set d ((r.get a) + imm.signExtend 32)) := by
  rw [exec_mcAddi, execMcAddi]
  exact State.coreImm_runs h rfl _

theorem mcAndi_runs (d a : Fin 32) (imm : BitVec 16) (h : s.CoreReady n k) :
    exec (.mcAndi n d a imm) s = .next (s.coreSet k fun r => r.set d ((r.get a) &&& imm.zeroExtend 32)) := by
  rw [exec_mcAndi, execMcAndi]
  exact State.coreImm_runs h rfl _

theorem mcOri_runs (d a : Fin 32) (imm : BitVec 16) (h : s.CoreReady n k) :
    exec (.mcOri n d a imm) s = .next (s.coreSet k fun r => r.set d ((r.get a) ||| imm.zeroExtend 32)) := by
  rw [exec_mcOri, execMcOri]
  exact State.coreImm_runs h rfl _

theorem mcXori_runs (d a : Fin 32) (imm : BitVec 16) (h : s.CoreReady n k) :
    exec (.mcXori n d a imm) s = .next (s.coreSet k fun r => r.set d ((r.get a) ^^^ imm.zeroExtend 32)) := by
  rw [exec_mcXori, execMcXori]
  exact State.coreImm_runs h rfl _

theorem mcSlti_runs (d a : Fin 32) (imm : BitVec 16) (h : s.CoreReady n k) :
    exec (.mcSlti n d a imm) s = .next (s.coreSet k fun r => r.set d (BitVec.ofNat 32 (bit ((r.get a).slt (imm.signExtend 32))))) := by
  rw [exec_mcSlti, execMcSlti]
  exact State.coreImm_runs h rfl _

theorem mcSltiu_runs (d a : Fin 32) (imm : BitVec 16) (h : s.CoreReady n k) :
    exec (.mcSltiu n d a imm) s = .next (s.coreSet k fun r => r.set d (BitVec.ofNat 32 (bit ((r.get a).ult (imm.signExtend 32))))) := by
  rw [exec_mcSltiu, execMcSltiu]
  exact State.coreImm_runs h rfl _

theorem mcLui_runs (d : Fin 32) (imm : BitVec 16) (h : s.CoreReady n k) :
    exec (.mcLui n d 0 imm) s = .next (s.coreSet k fun r => r.set d (imm.zeroExtend 32 <<< 16)) := by
  rw [exec_mcLui, execMcLui]
  exact State.coreImm_runs h rfl _

theorem mcSlli_runs (d a : Fin 32) (imm : BitVec 14) (hi : imm.toNat < 32) (h : s.CoreReady n k) :
    exec (.mcSlli n d a imm) s = .next (s.coreSet k fun r => r.set d ((r.get a) <<< imm.toNat)) := by
  rw [exec_mcSlli, execMcSlli]
  exact State.coreImm_runs h (decide_eq_true hi) _

theorem mcSrli_runs (d a : Fin 32) (imm : BitVec 14) (hi : imm.toNat < 32) (h : s.CoreReady n k) :
    exec (.mcSrli n d a imm) s = .next (s.coreSet k fun r => r.set d ((r.get a) >>> imm.toNat)) := by
  rw [exec_mcSrli, execMcSrli]
  exact State.coreImm_runs h (decide_eq_true hi) _

theorem mcSrai_runs (d a : Fin 32) (imm : BitVec 14) (hi : imm.toNat < 32) (h : s.CoreReady n k) :
    exec (.mcSrai n d a imm) s = .next (s.coreSet k fun r => r.set d ((r.get a).sshiftRight imm.toNat)) := by
  rw [exec_mcSrai, execMcSrai]
  exact State.coreImm_runs h (decide_eq_true hi) _

end Sys2Proof.Machine
end

