-- ==== Sys2Proof/Laws/RunsCoreFlow.lean ====
section
/-! SUPPORT. Where the Molpa cores' transfers, loops and capability operations complete, and with what (R239, R240, R250 to
R252, R287 to R290, R293). -/

namespace Sys2Proof.Machine

variable {s t : State} {n : Fin 4} {k : Nat}

theorem mcBeq_runs (a b : Fin 32) (off : BitVec 16) (h : s.CoreReady n k) {x : Nat} (h1 : ((s.arch k).get a == (s.arch k).get b) = true)
    (h2 : x = (s.arch k).rel (off.signExtend 32)) (h3 : (s.arch k).near x = none) :
    exec (.mcBeq n a b off) s = .next ((s.onArch k fun r => r.leave x).coreGoto k x) := by
  rw [exec_mcBeq, execMcBeq]
  exact State.branch_taken h h2 h1 h3

theorem mcBeq_passed_runs (a b : Fin 32) (off : BitVec 16) (h : s.CoreReady n k) (h1 : ((s.arch k).get a == (s.arch k).get b) = false) :
    exec (.mcBeq n a b off) s = .next (s.coreDone s k) := by
  rw [exec_mcBeq, execMcBeq]
  exact State.branch_passed h h1

theorem mcBne_runs (a b : Fin 32) (off : BitVec 16) (h : s.CoreReady n k) {x : Nat} (h1 : ((s.arch k).get a != (s.arch k).get b) = true)
    (h2 : x = (s.arch k).rel (off.signExtend 32)) (h3 : (s.arch k).near x = none) :
    exec (.mcBne n a b off) s = .next ((s.onArch k fun r => r.leave x).coreGoto k x) := by
  rw [exec_mcBne, execMcBne]
  exact State.branch_taken h h2 h1 h3

theorem mcBne_passed_runs (a b : Fin 32) (off : BitVec 16) (h : s.CoreReady n k) (h1 : ((s.arch k).get a != (s.arch k).get b) = false) :
    exec (.mcBne n a b off) s = .next (s.coreDone s k) := by
  rw [exec_mcBne, execMcBne]
  exact State.branch_passed h h1

theorem mcBlt_runs (a b : Fin 32) (off : BitVec 16) (h : s.CoreReady n k) {x : Nat} (h1 : ((s.arch k).get a).slt ((s.arch k).get b) = true)
    (h2 : x = (s.arch k).rel (off.signExtend 32)) (h3 : (s.arch k).near x = none) :
    exec (.mcBlt n a b off) s = .next ((s.onArch k fun r => r.leave x).coreGoto k x) := by
  rw [exec_mcBlt, execMcBlt]
  exact State.branch_taken h h2 h1 h3

theorem mcBlt_passed_runs (a b : Fin 32) (off : BitVec 16) (h : s.CoreReady n k) (h1 : ((s.arch k).get a).slt ((s.arch k).get b) = false) :
    exec (.mcBlt n a b off) s = .next (s.coreDone s k) := by
  rw [exec_mcBlt, execMcBlt]
  exact State.branch_passed h h1

theorem mcBge_runs (a b : Fin 32) (off : BitVec 16) (h : s.CoreReady n k) {x : Nat} (h1 : (!((s.arch k).get a).slt ((s.arch k).get b)) = true)
    (h2 : x = (s.arch k).rel (off.signExtend 32)) (h3 : (s.arch k).near x = none) :
    exec (.mcBge n a b off) s = .next ((s.onArch k fun r => r.leave x).coreGoto k x) := by
  rw [exec_mcBge, execMcBge]
  exact State.branch_taken h h2 h1 h3

theorem mcBge_passed_runs (a b : Fin 32) (off : BitVec 16) (h : s.CoreReady n k) (h1 : (!((s.arch k).get a).slt ((s.arch k).get b)) = false) :
    exec (.mcBge n a b off) s = .next (s.coreDone s k) := by
  rw [exec_mcBge, execMcBge]
  exact State.branch_passed h h1

theorem mcBltu_runs (a b : Fin 32) (off : BitVec 16) (h : s.CoreReady n k) {x : Nat} (h1 : ((s.arch k).get a).ult ((s.arch k).get b) = true)
    (h2 : x = (s.arch k).rel (off.signExtend 32)) (h3 : (s.arch k).near x = none) :
    exec (.mcBltu n a b off) s = .next ((s.onArch k fun r => r.leave x).coreGoto k x) := by
  rw [exec_mcBltu, execMcBltu]
  exact State.branch_taken h h2 h1 h3

theorem mcBltu_passed_runs (a b : Fin 32) (off : BitVec 16) (h : s.CoreReady n k) (h1 : ((s.arch k).get a).ult ((s.arch k).get b) = false) :
    exec (.mcBltu n a b off) s = .next (s.coreDone s k) := by
  rw [exec_mcBltu, execMcBltu]
  exact State.branch_passed h h1

theorem mcBgeu_runs (a b : Fin 32) (off : BitVec 16) (h : s.CoreReady n k) {x : Nat} (h1 : (!((s.arch k).get a).ult ((s.arch k).get b)) = true)
    (h2 : x = (s.arch k).rel (off.signExtend 32)) (h3 : (s.arch k).near x = none) :
    exec (.mcBgeu n a b off) s = .next ((s.onArch k fun r => r.leave x).coreGoto k x) := by
  rw [exec_mcBgeu, execMcBgeu]
  exact State.branch_taken h h2 h1 h3

theorem mcBgeu_passed_runs (a b : Fin 32) (off : BitVec 16) (h : s.CoreReady n k) (h1 : (!((s.arch k).get a).ult ((s.arch k).get b)) = false) :
    exec (.mcBgeu n a b off) s = .next (s.coreDone s k) := by
  rw [exec_mcBgeu, execMcBgeu]
  exact State.branch_passed h h1

theorem mcJ_runs (off : BitVec 26) (h : s.CoreReady n k) {x : Nat} (h2 : x = (s.arch k).rel (off.signExtend 32))
    (h3 : (s.arch k).near x = none) : exec (.mcJ n off) s = .next ((s.onArch k fun r => r.leave x).coreGoto k x) := by
  rw [exec_mcJ, execMcJ]
  refine State.runCore_jump h rfl ?_
  dsimp only
  rw [← h2, h3]

theorem mcCall_runs (off : BitVec 26) (h : s.CoreReady n k) {x : Nat} (h2 : x = (s.arch k).rel (off.signExtend 32))
    (h3 : (s.arch k).near x = none) (h4 : s.slideFwd k ((s.arch k).pc + 4) = .ok t) :
    exec (.mcCall n off) s = .next (t.coreGoto k x) := by
  rw [exec_mcCall, execMcCall]
  refine State.runCore_goto h rfl ?_
  dsimp only
  rw [← h2, h3]
  dsimp only
  rw [h4]
  rfl

theorem legalA {a : Fin 32} (h : a.val < 16) : (((0 : Fin 32) == 0) && decide (a.val < 16) && ((0 : Fin 32) == 0) && ((0 : Fin 32) == 0)) =
    true := by rw [decide_eq_true h]; rfl

theorem mcJc_runs (a : Fin 32) (h : s.CoreReady n k) (ha : a.val < 16) {c : Cap} (hc : c = (s.arch k).cap a)
    (h1 : execCheck c a 5 c.cursor.toNat = none) :
    exec (.mcJc n 0 a 0 0) s = .next (((s.onArch k fun r => r.setCap 0 c).onArch k fun r => r.leave c.cursor.toNat).coreGoto k
      c.cursor.toNat) := by
  rw [exec_mcJc, execMcJc]
  refine State.runCore_jump h (legalA ha) ?_
  dsimp only
  rw [← hc, h1]

theorem mcCallc_runs (a : Fin 32) (h : s.CoreReady n k) (ha : a.val < 16) {c : Cap} (hc : c = (s.arch k).cap a)
    (h1 : execCheck c a 5 c.cursor.toNat = none) (h2 : s.slideFwd k ((s.arch k).pc + 4) = .ok t) :
    exec (.mcCallc n 0 a 0 0) s = .next ((t.onArch k fun r => (r.setCap 14 { (s.arch k).cap 0 with
      cursor := BitVec.ofNat 32 ((s.arch k).pc + 4) }).setCap 0 c).coreGoto k c.cursor.toNat) := by
  rw [exec_mcCallc, execMcCallc]
  refine State.runCore_goto h (legalA ha) ?_
  dsimp only
  rw [← hc, h1]
  dsimp only
  rw [h2]
  rfl

theorem mcRetc_runs (a : Fin 32) (h : s.CoreReady n k) (ha : a.val < 16) {c : Cap} (hc : c = (s.arch k).cap a)
    (h1 : execCheck c a 5 c.cursor.toNat = none) (h2 : s.slideBack k = .ok t) :
    exec (.mcRetc n 0 a 0 0) s = .next ((t.onArch k fun r => r.setCap 0 c).coreGoto k c.cursor.toNat) := by
  rw [exec_mcRetc, execMcRetc]
  refine State.runCore_goto h (legalA ha) ?_
  dsimp only
  rw [← hc, h1]
  dsimp only
  rw [h2]
  rfl

theorem mcRet_runs (h : s.CoreReady n k) {x : Nat} (hx : x = (s.arch k).win0.link.toNat) (h1 : (s.arch k).near x = none)
    (h2 : s.slideBack k = .ok t) : exec (.mcRet n 0 0 0 0) s = .next (t.coreGoto k x) := by
  rw [exec_mcRet, execMcRet]
  refine State.runCore_goto h rfl ?_
  dsimp only
  rw [← hx, h1]
  dsimp only
  rw [h2]
  rfl

/-- A loop with a count that is not 0 begins: its bounds and count register are set. -/
theorem mcLoop_runs (a : Fin 32) (off : BitVec 16) (h : s.CoreReady n k) (h1 : 2 ≤ off.toNat) (h2 : (s.arch k).act = false)
    (h3 : (s.arch k).get a ≠ 0) :
    exec (.mcLoop n a 0 off) s = .next (s.coreSet k fun r => r.setWin0 { r.win0 with
      lstart := BitVec.ofNat 32 ((s.arch k).pc + 4)
      lend := BitVec.ofNat 32 ((s.arch k).pc + 4 * off.toNat)
      lctl := BitVec.ofNat 32 (32 + a.val) }) := by
  rw [exec_mcLoop, execMcLoop]
  refine State.runCore_set h (by rw [decide_eq_true h1]; rfl) ?_
  dsimp only
  rw [h2, if_neg (by decide), if_neg h3]

/-- With a count of 0 the body is skipped. -/
theorem mcLoop_skipped_runs (a : Fin 32) (off : BitVec 16) (h : s.CoreReady n k) (h1 : 2 ≤ off.toNat) (h2 : (s.arch k).act = false)
    (h3 : (s.arch k).get a = 0) :
    exec (.mcLoop n a 0 off) s = .next (s.coreGoto k ((s.arch k).pc + 4 * off.toNat + 4)) := by
  rw [exec_mcLoop, execMcLoop]
  refine State.runCore_goto h (by rw [decide_eq_true h1]; rfl) ?_
  dsimp only
  rw [h2, if_neg (by decide), if_pos h3]

theorem mcEndloop_runs (h : s.CoreReady n k) : exec (.mcEndloop n 0) s = .next (s.coreDone s k) := by
  rw [exec_mcEndloop, execMcEndloop]
  exact State.runCore_next h rfl rfl

theorem mcSgmov_runs (d a : Fin 32) (h : s.CoreReady n k) (hd : d.val ≠ 0 ∧ d < 16) (ha : a < 16) :
    exec (.mcSgmov n d a 0 0) s = .next (s.coreSet k fun r => r.setCap d ((s.arch k).cap a)) := by
  rw [exec_mcSgmov, execMcSgmov, State.capOp]
  exact State.capDerive_runs h rfl hd ha rfl

theorem mcSgbase_runs (d a : Fin 32) (h : s.CoreReady n k) (ha : a < 16) :
    exec (.mcSgbase n d a 0 0) s = .next (s.coreSet k fun r => r.set d (r.cap a).base) := by
  rw [exec_mcSgbase, execMcSgbase]
  exact State.capField_runs h ha _

theorem mcSglen_runs (d a : Fin 32) (h : s.CoreReady n k) (ha : a < 16) :
    exec (.mcSglen n d a 0 0) s = .next (s.coreSet k fun r => r.set d (r.cap a).length) := by
  rw [exec_mcSglen, execMcSglen]
  exact State.capField_runs h ha _

theorem mcSgperm_runs (d a : Fin 32) (h : s.CoreReady n k) (ha : a < 16) :
    exec (.mcSgperm n d a 0 0) s = .next (s.coreSet k fun r => r.set d ((r.cap a).perms.zeroExtend 32)) := by
  rw [exec_mcSgperm, execMcSgperm]
  exact State.capField_runs h ha _

theorem mcSgtype_runs (d a : Fin 32) (h : s.CoreReady n k) (ha : a < 16) :
    exec (.mcSgtype n d a 0 0) s = .next (s.coreSet k fun r => r.set d ((r.cap a).otype.zeroExtend 32)) := by
  rw [exec_mcSgtype, execMcSgtype]
  exact State.capField_runs h ha _

theorem mcSgtag_runs (d a : Fin 32) (h : s.CoreReady n k) (ha : a < 16) :
    exec (.mcSgtag n d a 0 0) s = .next (s.coreSet k fun r => r.set d (BitVec.ofNat 32 (bit (r.cap a).tag))) := by
  rw [exec_mcSgtag, execMcSgtag]
  exact State.capField_runs h ha _

theorem mcSgcur_runs (d a : Fin 32) (h : s.CoreReady n k) (ha : a < 16) :
    exec (.mcSgcur n d a 0 0) s = .next (s.coreSet k fun r => r.set d (r.cap a).cursor) := by
  rw [exec_mcSgcur, execMcSgcur]
  exact State.capField_runs h ha _

theorem mcSgsetc_runs (d a b : Fin 32) (h : s.CoreReady n k) (hd : d.val ≠ 0 ∧ d < 16) (ha : a < 16) {c : Cap} (hc : c = (s.arch k).cap a)
    (h1 : c.isSealed = false) :
    exec (.mcSgsetc n d a b 0) s = .next (s.coreSet k fun r => r.setCap d { c with cursor := (s.arch k).get b }) := by
  subst hc
  rw [exec_mcSgsetc, execMcSgsetc, State.capOp]
  refine State.capDerive_runs h rfl hd ha ?_
  rw [h1, if_neg (by decide)]

theorem mcSgaddc_runs (d a b : Fin 32) (h : s.CoreReady n k) (hd : d.val ≠ 0 ∧ d < 16) (ha : a < 16) {c : Cap} (hc : c = (s.arch k).cap a)
    (h1 : c.isSealed = false) :
    exec (.mcSgaddc n d a b 0) s = .next (s.coreSet k fun r => r.setCap d { c with cursor := c.cursor + (s.arch k).get b }) := by
  subst hc
  rw [exec_mcSgaddc, execMcSgaddc, State.capOp]
  refine State.capDerive_runs h rfl hd ha ?_
  rw [h1, if_neg (by decide)]

theorem mcSgnarrow_runs (d a b e : Fin 32) (h : s.CoreReady n k) (hd : d.val ≠ 0 ∧ d < 16) (ha : a < 16) {c : Cap} (hc : c = (s.arch k).cap a)
    (h1 : c.tag = true) (h2 : c.isSealed = false) (h3 : ((s.arch k).get b).toNat + ((s.arch k).get e).toNat ≤ c.length.toNat) :
    exec (.mcSgnarrow n d a b e) s = .next (s.coreSet k fun r => r.setCap d { c with
      base := c.base + (s.arch k).get b, length := (s.arch k).get e, cursor := c.base + (s.arch k).get b }) := by
  subst hc
  rw [exec_mcSgnarrow, execMcSgnarrow, State.capOp]
  refine State.capDerive_runs h rfl hd ha ?_
  simp only [h1, h2, Bool.not_true, Bool.false_eq_true, ↓reduceIte, if_neg (Nat.not_lt.mpr h3)]

theorem mcSgmask_runs (d a b : Fin 32) (h : s.CoreReady n k) (hd : d.val ≠ 0 ∧ d < 16) (ha : a < 16) {c : Cap} (hc : c = (s.arch k).cap a)
    (h1 : c.tag = true) (h2 : c.isSealed = false) :
    exec (.mcSgmask n d a b 0) s = .next (s.coreSet k fun r => r.setCap d { c with perms := c.perms &&& ((s.arch k).get b).truncate 16 }) := by
  subst hc
  rw [exec_mcSgmask, execMcSgmask, State.capOp]
  refine State.capDerive_runs h rfl hd ha ?_
  simp only [h1, h2, Bool.not_true, Bool.false_eq_true, ↓reduceIte]

theorem mcSgseal_runs (d a b e : Fin 32) (h : s.CoreReady n k) (hd : d.val ≠ 0 ∧ d < 16) (ha : a < 16) (he : e.val < 16) {c : Cap} (hc : c = (s.arch k).cap a)
    {x : Cap} {y : Nat} (hx : x = (s.arch k).cap e) (hy : y = ((s.arch k).get b).toNat) (h1 : c.tag = true) (h2 : x.tag = true)
    (h3 : c.isSealed = false) (h4 : x.isSealed = false) (h5 : x.may permSeal = true) (h6 : 0 < y ∧ y ≤ 0xFFFF)
    (h7 : x.base.toNat ≤ y ∧ y < x.base.toNat + x.length.toNat) :
    exec (.mcSgseal n d a b e) s = .next (s.coreSet k fun r => r.setCap d { c with otype := BitVec.ofNat 16 y }) := by
  subst hc
  rw [exec_mcSgseal, execMcSgseal, State.capOp]
  refine State.capDerive_runs h (decide_eq_true he) hd ha ?_
  simp only [← hx, ← hy, h1, h2, h3, h4, h5, Bool.not_true, Bool.false_eq_true, ↓reduceIte]
  rw [if_neg (by omega)]

theorem mcSgopen_runs (d a e : Fin 32) (h : s.CoreReady n k) (hd : d.val ≠ 0 ∧ d < 16) (ha : a < 16) (he : e.val < 16) {c : Cap} (hc : c = (s.arch k).cap a)
    {x : Cap} {y : Nat} (hx : x = (s.arch k).cap e) (hy : y = c.otype.toNat) (h1 : c.tag = true) (h2 : x.tag = true)
    (h3 : c.isSealed = true) (h4 : x.isSealed = false) (h5 : x.may permUnseal = true)
    (h7 : x.base.toNat ≤ y ∧ y < x.base.toNat + x.length.toNat) :
    exec (.mcSgopen n d a 0 e) s = .next (s.coreSet k fun r => r.setCap d { c with otype := 0 }) := by
  subst hc
  rw [exec_mcSgopen, execMcSgopen, State.capOp]
  refine State.capDerive_runs h (by rw [decide_eq_true he]; rfl) hd ha ?_
  simp only [← hx, ← hy, h1, h2, h3, h4, h5, Bool.not_true, Bool.false_eq_true, ↓reduceIte]
  rw [if_neg (by omega)]

theorem mcSgvoid_runs (d a : Fin 32) (h : s.CoreReady n k) (hd : d.val ≠ 0 ∧ d < 16) (ha : a < 16) {c : Cap} (hc : c = (s.arch k).cap a) :
    exec (.mcSgvoid n d a 0 0) s = .next (s.coreSet k fun r => r.setCap d { c with tag := false }) := by
  subst hc
  rw [exec_mcSgvoid, execMcSgvoid, State.capOp]
  refine State.capDerive_runs h rfl hd ha ?_
  rfl

theorem mcSgaddci_runs (d c : Fin 32) (off : BitVec 16) (h : s.CoreReady n k) (hd : d.val ≠ 0 ∧ d < 16) (ha : c < 16) {x : Cap}
    (hc : x = (s.arch k).cap c) (h1 : x.isSealed = false) :
    exec (.mcSgaddci n d c off) s = .next (s.coreSet k fun r => r.setCap d { x with cursor := x.cursor + off.signExtend 32 }) := by
  subst hc
  rw [exec_mcSgaddci, execMcSgaddci]
  refine State.capDerive_runs h rfl hd ha ?_
  rw [h1, if_neg (by decide)]

end Sys2Proof.Machine
end

