-- ==== Sys2Proof/Laws/RunsCoreMem.lean ====
section
/-! SUPPORT. Where the Molpa cores' loads, stores, atomic and block operations complete, and with what: one lemma a command
(R253 to R257, R268 to R272, R316, R465). -/

namespace Sys2Proof.Machine

variable {s t : State} {n : Fin 4} {k : Nat}

theorem mcLb_runs (d c : Fin 32) (off : BitVec 16) (h : s.CoreReady n k) (h1 : c.val < 16) {ea v : Nat} {tag : Bool}
    (h2 : ea = (s.arch k).eaOf c (off.signExtend 32)) (h3 : capCheck ((s.arch k).cap c) c 1 ea 1 [permLoad] false = none)
    (h4 : s.coreLoad k (((s.arch k).cap c).may permDevice) ea 1 = .val t v tag) :
    exec (.mcLb n d c off) s = .next (s.coreDone (t.loadUse k ea v tag (.value 1 d true)) k) := by
  rw [exec_mcLb, execMcLb, State.loadM]
  exact State.coreLoadOp_runs h (by rw [decide_eq_true h1]; rfl) h2 rfl h3 h4

theorem mcLbu_runs (d c : Fin 32) (off : BitVec 16) (h : s.CoreReady n k) (h1 : c.val < 16) {ea v : Nat} {tag : Bool}
    (h2 : ea = (s.arch k).eaOf c (off.signExtend 32)) (h3 : capCheck ((s.arch k).cap c) c 1 ea 1 [permLoad] false = none)
    (h4 : s.coreLoad k (((s.arch k).cap c).may permDevice) ea 1 = .val t v tag) :
    exec (.mcLbu n d c off) s = .next (s.coreDone (t.loadUse k ea v tag (.value 1 d false)) k) := by
  rw [exec_mcLbu, execMcLbu, State.loadM]
  exact State.coreLoadOp_runs h (by rw [decide_eq_true h1]; rfl) h2 rfl h3 h4

theorem mcLh_runs (d c : Fin 32) (off : BitVec 16) (h : s.CoreReady n k) (h1 : c.val < 16) {ea v : Nat} {tag : Bool}
    (h2 : ea = (s.arch k).eaOf c (off.signExtend 32)) (h3 : capCheck ((s.arch k).cap c) c 1 ea 2 [permLoad] false = none)
    (h4 : s.coreLoad k (((s.arch k).cap c).may permDevice) ea 2 = .val t v tag) :
    exec (.mcLh n d c off) s = .next (s.coreDone (t.loadUse k ea v tag (.value 2 d true)) k) := by
  rw [exec_mcLh, execMcLh, State.loadM]
  exact State.coreLoadOp_runs h (by rw [decide_eq_true h1]; rfl) h2 rfl h3 h4

theorem mcLhu_runs (d c : Fin 32) (off : BitVec 16) (h : s.CoreReady n k) (h1 : c.val < 16) {ea v : Nat} {tag : Bool}
    (h2 : ea = (s.arch k).eaOf c (off.signExtend 32)) (h3 : capCheck ((s.arch k).cap c) c 1 ea 2 [permLoad] false = none)
    (h4 : s.coreLoad k (((s.arch k).cap c).may permDevice) ea 2 = .val t v tag) :
    exec (.mcLhu n d c off) s = .next (s.coreDone (t.loadUse k ea v tag (.value 2 d false)) k) := by
  rw [exec_mcLhu, execMcLhu, State.loadM]
  exact State.coreLoadOp_runs h (by rw [decide_eq_true h1]; rfl) h2 rfl h3 h4

theorem mcLw_runs (d c : Fin 32) (off : BitVec 16) (h : s.CoreReady n k) (h1 : c.val < 16) {ea v : Nat} {tag : Bool}
    (h2 : ea = (s.arch k).eaOf c (off.signExtend 32)) (h3 : capCheck ((s.arch k).cap c) c 1 ea 4 [permLoad] false = none)
    (h4 : s.coreLoad k (((s.arch k).cap c).may permDevice) ea 4 = .val t v tag) :
    exec (.mcLw n d c off) s = .next (s.coreDone (t.loadUse k ea v tag (.value 4 d false)) k) := by
  rw [exec_mcLw, execMcLw, State.loadM]
  exact State.coreLoadOp_runs h (by rw [decide_eq_true h1]; rfl) h2 rfl h3 h4

theorem mcLd_runs (d c : Fin 32) (off : BitVec 16) (h : s.CoreReady n k) (h1 : c.val < 16) (hd : d.val % 2 = 0) {ea v : Nat} {tag : Bool}
    (h2 : ea = (s.arch k).eaOf c (off.signExtend 32)) (h3 : capCheck ((s.arch k).cap c) c 1 ea 8 [permLoad] false = none)
    (h4 : s.coreLoad k (((s.arch k).cap c).may permDevice) ea 8 = .val t v tag) :
    exec (.mcLd n d c off) s = .next (s.coreDone (t.loadUse k ea v tag (.pair d)) k) := by
  rw [exec_mcLd, execMcLd, State.loadM]
  exact State.coreLoadOp_runs h (by rw [hd, decide_eq_true h1]; rfl) h2 rfl h3 h4

theorem mcLxLb_runs (d a b e : Fin 32) (h : s.CoreReady n k) (h1 : a.val < 16) (he : e.val < 4) {ea v : Nat} {tag : Bool}
    (h2 : ea = (s.arch k).eaOf a ((s.arch k).scaled b e)) (h3 : capCheck ((s.arch k).cap a) a 1 ea 1 [permLoad] false = none)
    (h4 : s.coreLoad k (((s.arch k).cap a).may permDevice) ea 1 = .val t v tag) :
    exec (.mcLxLb n d a b e) s = .next (s.coreDone (t.loadUse k ea v tag (.value 1 d true)) k) := by
  rw [exec_mcLxLb, execMcLxLb, State.loadX]
  exact State.coreLoadOp_runs h (by rw [decide_eq_true h1, decide_eq_true he]; rfl) h2 rfl h3 h4

theorem mcLxLbu_runs (d a b e : Fin 32) (h : s.CoreReady n k) (h1 : a.val < 16) (he : e.val < 4) {ea v : Nat} {tag : Bool}
    (h2 : ea = (s.arch k).eaOf a ((s.arch k).scaled b e)) (h3 : capCheck ((s.arch k).cap a) a 1 ea 1 [permLoad] false = none)
    (h4 : s.coreLoad k (((s.arch k).cap a).may permDevice) ea 1 = .val t v tag) :
    exec (.mcLxLbu n d a b e) s = .next (s.coreDone (t.loadUse k ea v tag (.value 1 d false)) k) := by
  rw [exec_mcLxLbu, execMcLxLbu, State.loadX]
  exact State.coreLoadOp_runs h (by rw [decide_eq_true h1, decide_eq_true he]; rfl) h2 rfl h3 h4

theorem mcLxLh_runs (d a b e : Fin 32) (h : s.CoreReady n k) (h1 : a.val < 16) (he : e.val < 4) {ea v : Nat} {tag : Bool}
    (h2 : ea = (s.arch k).eaOf a ((s.arch k).scaled b e)) (h3 : capCheck ((s.arch k).cap a) a 1 ea 2 [permLoad] false = none)
    (h4 : s.coreLoad k (((s.arch k).cap a).may permDevice) ea 2 = .val t v tag) :
    exec (.mcLxLh n d a b e) s = .next (s.coreDone (t.loadUse k ea v tag (.value 2 d true)) k) := by
  rw [exec_mcLxLh, execMcLxLh, State.loadX]
  exact State.coreLoadOp_runs h (by rw [decide_eq_true h1, decide_eq_true he]; rfl) h2 rfl h3 h4

theorem mcLxLhu_runs (d a b e : Fin 32) (h : s.CoreReady n k) (h1 : a.val < 16) (he : e.val < 4) {ea v : Nat} {tag : Bool}
    (h2 : ea = (s.arch k).eaOf a ((s.arch k).scaled b e)) (h3 : capCheck ((s.arch k).cap a) a 1 ea 2 [permLoad] false = none)
    (h4 : s.coreLoad k (((s.arch k).cap a).may permDevice) ea 2 = .val t v tag) :
    exec (.mcLxLhu n d a b e) s = .next (s.coreDone (t.loadUse k ea v tag (.value 2 d false)) k) := by
  rw [exec_mcLxLhu, execMcLxLhu, State.loadX]
  exact State.coreLoadOp_runs h (by rw [decide_eq_true h1, decide_eq_true he]; rfl) h2 rfl h3 h4

theorem mcLxLw_runs (d a b e : Fin 32) (h : s.CoreReady n k) (h1 : a.val < 16) (he : e.val < 4) {ea v : Nat} {tag : Bool}
    (h2 : ea = (s.arch k).eaOf a ((s.arch k).scaled b e)) (h3 : capCheck ((s.arch k).cap a) a 1 ea 4 [permLoad] false = none)
    (h4 : s.coreLoad k (((s.arch k).cap a).may permDevice) ea 4 = .val t v tag) :
    exec (.mcLxLw n d a b e) s = .next (s.coreDone (t.loadUse k ea v tag (.value 4 d false)) k) := by
  rw [exec_mcLxLw, execMcLxLw, State.loadX]
  exact State.coreLoadOp_runs h (by rw [decide_eq_true h1, decide_eq_true he]; rfl) h2 rfl h3 h4

theorem mcLxLd_runs (d a b e : Fin 32) (h : s.CoreReady n k) (h1 : a.val < 16) (he : e.val < 4) (hd : d.val % 2 = 0) {ea v : Nat} {tag : Bool}
    (h2 : ea = (s.arch k).eaOf a ((s.arch k).scaled b e)) (h3 : capCheck ((s.arch k).cap a) a 1 ea 8 [permLoad] false = none)
    (h4 : s.coreLoad k (((s.arch k).cap a).may permDevice) ea 8 = .val t v tag) :
    exec (.mcLxLd n d a b e) s = .next (s.coreDone (t.loadUse k ea v tag (.pair d)) k) := by
  rw [exec_mcLxLd, execMcLxLd, State.loadX]
  exact State.coreLoadOp_runs h (by rw [hd, decide_eq_true h1, decide_eq_true he]; rfl) h2 rfl h3 h4

theorem mcSb_runs (d c : Fin 32) (off : BitVec 16) (h : s.CoreReady n k) (h1 : c.val < 16) {ea : Nat}
    (h2 : ea = (s.arch k).eaOf c (off.signExtend 32)) (h3 : capCheck ((s.arch k).cap c) c 2 ea 1 [permStore] false = none)
    (h4 : (s.arch k).spillGuard c ea = none) (h5 : s.badAccess ea 1 = false)
    (h6 : s.pushStores k (storeEnts ea 1 (((s.arch k).get d).toNat % 256 ^ 1) (((s.arch k).cap c).may permHold)) = some t) :
    exec (.mcSb n d c off) s = .next (s.coreDone t k) := by
  rw [exec_mcSb, execMcSb, State.storeM]
  exact State.coreStoreOp_runs h (by rw [decide_eq_true h1]; rfl) h2 h3 h4 h5 rfl rfl h6

theorem mcSh_runs (d c : Fin 32) (off : BitVec 16) (h : s.CoreReady n k) (h1 : c.val < 16) {ea : Nat}
    (h2 : ea = (s.arch k).eaOf c (off.signExtend 32)) (h3 : capCheck ((s.arch k).cap c) c 2 ea 2 [permStore] false = none)
    (h4 : (s.arch k).spillGuard c ea = none) (h5 : s.badAccess ea 2 = false)
    (h6 : s.pushStores k (storeEnts ea 2 (((s.arch k).get d).toNat % 256 ^ 2) (((s.arch k).cap c).may permHold)) = some t) :
    exec (.mcSh n d c off) s = .next (s.coreDone t k) := by
  rw [exec_mcSh, execMcSh, State.storeM]
  exact State.coreStoreOp_runs h (by rw [decide_eq_true h1]; rfl) h2 h3 h4 h5 rfl rfl h6

theorem mcSw_runs (d c : Fin 32) (off : BitVec 16) (h : s.CoreReady n k) (h1 : c.val < 16) {ea : Nat}
    (h2 : ea = (s.arch k).eaOf c (off.signExtend 32)) (h3 : capCheck ((s.arch k).cap c) c 2 ea 4 [permStore] false = none)
    (h4 : (s.arch k).spillGuard c ea = none) (h5 : s.badAccess ea 4 = false)
    (h6 : s.pushStores k (storeEnts ea 4 (((s.arch k).get d).toNat % 256 ^ 4) (((s.arch k).cap c).may permHold)) = some t) :
    exec (.mcSw n d c off) s = .next (s.coreDone t k) := by
  rw [exec_mcSw, execMcSw, State.storeM]
  exact State.coreStoreOp_runs h (by rw [decide_eq_true h1]; rfl) h2 h3 h4 h5 rfl rfl h6

theorem mcSd_runs (d c : Fin 32) (off : BitVec 16) (h : s.CoreReady n k) (h1 : c.val < 16) (hd : d.val % 2 = 0) {ea : Nat}
    (h2 : ea = (s.arch k).eaOf c (off.signExtend 32)) (h3 : capCheck ((s.arch k).cap c) c 2 ea 8 [permStore] false = none)
    (h4 : (s.arch k).spillGuard c ea = none) (h5 : s.badAccess ea 8 = false)
    (h6 : s.pushStores k (storePair ea (((s.arch k).get d).toNat + 2 ^ 32 * ((s.arch k).get (d + 1)).toNat) (((s.arch k).cap c).may permHold)) = some t) :
    exec (.mcSd n d c off) s = .next (s.coreDone t k) := by
  rw [exec_mcSd, execMcSd, State.storeM]
  exact State.coreStoreOp_runs h (by rw [hd, decide_eq_true h1]; rfl) h2 h3 h4 h5 rfl rfl h6

theorem mcSxSb_runs (d a b e : Fin 32) (h : s.CoreReady n k) (h1 : a.val < 16) (he : e.val < 4) {ea : Nat}
    (h2 : ea = (s.arch k).eaOf a ((s.arch k).scaled b e)) (h3 : capCheck ((s.arch k).cap a) a 2 ea 1 [permStore] false = none)
    (h4 : (s.arch k).spillGuard a ea = none) (h5 : s.badAccess ea 1 = false)
    (h6 : s.pushStores k (storeEnts ea 1 (((s.arch k).get d).toNat % 256 ^ 1) (((s.arch k).cap a).may permHold)) = some t) :
    exec (.mcSxSb n d a b e) s = .next (s.coreDone t k) := by
  rw [exec_mcSxSb, execMcSxSb, State.storeX]
  exact State.coreStoreOp_runs h (by rw [decide_eq_true h1, decide_eq_true he]; rfl) h2 h3 h4 h5 rfl rfl h6

theorem mcSxSh_runs (d a b e : Fin 32) (h : s.CoreReady n k) (h1 : a.val < 16) (he : e.val < 4) {ea : Nat}
    (h2 : ea = (s.arch k).eaOf a ((s.arch k).scaled b e)) (h3 : capCheck ((s.arch k).cap a) a 2 ea 2 [permStore] false = none)
    (h4 : (s.arch k).spillGuard a ea = none) (h5 : s.badAccess ea 2 = false)
    (h6 : s.pushStores k (storeEnts ea 2 (((s.arch k).get d).toNat % 256 ^ 2) (((s.arch k).cap a).may permHold)) = some t) :
    exec (.mcSxSh n d a b e) s = .next (s.coreDone t k) := by
  rw [exec_mcSxSh, execMcSxSh, State.storeX]
  exact State.coreStoreOp_runs h (by rw [decide_eq_true h1, decide_eq_true he]; rfl) h2 h3 h4 h5 rfl rfl h6

theorem mcSxSw_runs (d a b e : Fin 32) (h : s.CoreReady n k) (h1 : a.val < 16) (he : e.val < 4) {ea : Nat}
    (h2 : ea = (s.arch k).eaOf a ((s.arch k).scaled b e)) (h3 : capCheck ((s.arch k).cap a) a 2 ea 4 [permStore] false = none)
    (h4 : (s.arch k).spillGuard a ea = none) (h5 : s.badAccess ea 4 = false)
    (h6 : s.pushStores k (storeEnts ea 4 (((s.arch k).get d).toNat % 256 ^ 4) (((s.arch k).cap a).may permHold)) = some t) :
    exec (.mcSxSw n d a b e) s = .next (s.coreDone t k) := by
  rw [exec_mcSxSw, execMcSxSw, State.storeX]
  exact State.coreStoreOp_runs h (by rw [decide_eq_true h1, decide_eq_true he]; rfl) h2 h3 h4 h5 rfl rfl h6

theorem mcSxSd_runs (d a b e : Fin 32) (h : s.CoreReady n k) (h1 : a.val < 16) (he : e.val < 4) (hd : d.val % 2 = 0) {ea : Nat}
    (h2 : ea = (s.arch k).eaOf a ((s.arch k).scaled b e)) (h3 : capCheck ((s.arch k).cap a) a 2 ea 8 [permStore] false = none)
    (h4 : (s.arch k).spillGuard a ea = none) (h5 : s.badAccess ea 8 = false)
    (h6 : s.pushStores k (storePair ea (((s.arch k).get d).toNat + 2 ^ 32 * ((s.arch k).get (d + 1)).toNat) (((s.arch k).cap a).may permHold)) = some t) :
    exec (.mcSxSd n d a b e) s = .next (s.coreDone t k) := by
  rw [exec_mcSxSd, execMcSxSd, State.storeX]
  exact State.coreStoreOp_runs h (by rw [hd, decide_eq_true h1, decide_eq_true he]; rfl) h2 h3 h4 h5 rfl rfl h6

theorem mcLc_runs (d c : Fin 32) (off : BitVec 16) (h : s.CoreReady n k) (h1 : c.val < 16) (hd : d.val ≠ 0 ∧ d.val < 16) {ea v : Nat}
    {tag : Bool} (h2 : ea = (s.arch k).eaOf c (off.signExtend 32))
    (h3 : capCheck ((s.arch k).cap c) c 1 ea 16 [permLoad, permLdcap] true = none)
    (h4 : s.coreLoad k (((s.arch k).cap c).may permDevice) ea 16 = .val t v tag) :
    exec (.mcLc n d c off) s = .next (s.coreDone (t.loadUse k ea v tag (.cap d)) k) := by
  rw [exec_mcLc, execMcLc]
  exact State.coreLoadOp_runs h (by rw [bne_iff_ne.mpr hd.1, decide_eq_true hd.2, decide_eq_true h1]; rfl) h2 rfl h3 h4

theorem mcSc_runs (d c : Fin 32) (off : BitVec 16) (h : s.CoreReady n k) (h1 : c.val < 16) (hd : d.val < 16) {ea : Nat}
    (h2 : ea = (s.arch k).eaOf c (off.signExtend 32))
    (h3 : capCheck ((s.arch k).cap c) c 2 ea 16 (if ((s.arch k).cap d).tag then [permStore, permStcap] else [permStore]) true = none)
    (h4 : (s.arch k).spillGuard c ea = none) (h5 : s.badAccess ea 16 = false)
    (h6 : s.pushStores k (storeCap ea ((s.arch k).cap d) (((s.arch k).cap d).tag && (((s.arch k).cap d).may permGlobal || c.val == 2))
      (((s.arch k).cap c).may permHold)) = some t) :
    exec (.mcSc n d c off) s = .next (s.coreDone t k) := by
  rw [exec_mcSc, execMcSc, State.storeCapM]
  refine State.runCore_next h (by rw [decide_eq_true h1, decide_eq_true hd]; rfl) ?_
  dsimp only
  rw [← h2, h3]
  exact State.storeGo_runs h4 h5 h6

theorem mcAmoSwap_runs (d a b : Fin 32) (h : s.CoreReady n k) (h1 : a < 16) {ea v : Nat} {tag : Bool}
    (h2 : ea = ((s.arch k).cap a).cursor.toNat) (h3 : capCheck ((s.arch k).cap a) a 3 ea 4 [permLoad, permStore] true = none)
    (h4 : (s.arch k).spillGuard a ea = none) (h5 : s.badAccess ea 4 = false) (h6 : s.coreLoad k true ea 4 = .val t v tag) :
    exec (.mcAmoSwap n d a b 0) s = .next (s.coreDone (t.loadUse k ea v tag (.amo 1 d ((s.arch k).get b))) k) := by
  rw [exec_mcAmoSwap, execMcAmoSwap]
  exact State.amoOp_runs h h1 h2 h3 h4 h5 h6

theorem mcAmoAdd_runs (d a b : Fin 32) (h : s.CoreReady n k) (h1 : a < 16) {ea v : Nat} {tag : Bool}
    (h2 : ea = ((s.arch k).cap a).cursor.toNat) (h3 : capCheck ((s.arch k).cap a) a 3 ea 4 [permLoad, permStore] true = none)
    (h4 : (s.arch k).spillGuard a ea = none) (h5 : s.badAccess ea 4 = false) (h6 : s.coreLoad k true ea 4 = .val t v tag) :
    exec (.mcAmoAdd n d a b 0) s = .next (s.coreDone (t.loadUse k ea v tag (.amo 2 d ((s.arch k).get b))) k) := by
  rw [exec_mcAmoAdd, execMcAmoAdd]
  exact State.amoOp_runs h h1 h2 h3 h4 h5 h6

theorem mcAmoAnd_runs (d a b : Fin 32) (h : s.CoreReady n k) (h1 : a < 16) {ea v : Nat} {tag : Bool}
    (h2 : ea = ((s.arch k).cap a).cursor.toNat) (h3 : capCheck ((s.arch k).cap a) a 3 ea 4 [permLoad, permStore] true = none)
    (h4 : (s.arch k).spillGuard a ea = none) (h5 : s.badAccess ea 4 = false) (h6 : s.coreLoad k true ea 4 = .val t v tag) :
    exec (.mcAmoAnd n d a b 0) s = .next (s.coreDone (t.loadUse k ea v tag (.amo 3 d ((s.arch k).get b))) k) := by
  rw [exec_mcAmoAnd, execMcAmoAnd]
  exact State.amoOp_runs h h1 h2 h3 h4 h5 h6

theorem mcAmoOr_runs (d a b : Fin 32) (h : s.CoreReady n k) (h1 : a < 16) {ea v : Nat} {tag : Bool}
    (h2 : ea = ((s.arch k).cap a).cursor.toNat) (h3 : capCheck ((s.arch k).cap a) a 3 ea 4 [permLoad, permStore] true = none)
    (h4 : (s.arch k).spillGuard a ea = none) (h5 : s.badAccess ea 4 = false) (h6 : s.coreLoad k true ea 4 = .val t v tag) :
    exec (.mcAmoOr n d a b 0) s = .next (s.coreDone (t.loadUse k ea v tag (.amo 4 d ((s.arch k).get b))) k) := by
  rw [exec_mcAmoOr, execMcAmoOr]
  exact State.amoOp_runs h h1 h2 h3 h4 h5 h6

/-- All blocks of a copy that passes its checks are made. -/
theorem mcBcopy_runs (d a b : Fin 32) (m ext : Nat) (h : s.CoreReady n k) (ha : a.val ≠ 0 ∧ a.val < 16) (hd : d.val ≠ 0 ∧ d.val < 16)
    {count : Nat} (hc : count = ((s.arch k).get b).toNat)
    (h1 : capCheck ((s.arch k).cap a) a 1 ((s.arch k).cap a).cursor.toNat count [permLoad] false = none)
    (h2 : capCheck ((s.arch k).cap d) d 2 ((s.arch k).cap d).cursor.toNat count [permStore] false = none)
    (h3 : (s.arch k).spillGuard d ((s.arch k).cap d).cursor.toNat = none)
    (h4 : s.blockRun k d (some a.val) b 0 ext count m = .next t) :
    exec (.mcBcopy n d a b 0 m ext) s = .next (s.coreDone t k) := by
  rw [exec_mcBcopy, execMcBcopy]
  refine State.runCore_next h
    (by rw [bne_iff_ne.mpr hd.1, decide_eq_true hd.2, bne_iff_ne.mpr ha.1, decide_eq_true ha.2]; rfl) ?_
  dsimp only
  rw [← hc, h1, h2, h3]
  exact h4

/-- A copy is abandoned after m blocks: what is done stays, and the instruction has not retired (R316). -/
theorem mcBcopy_abandoned_runs (d a b : Fin 32) (m ext : Nat) (h : s.CoreReady n k) (ha : a.val ≠ 0 ∧ a.val < 16)
    (hd : d.val ≠ 0 ∧ d.val < 16) {count : Nat} (hc : count = ((s.arch k).get b).toNat)
    (h1 : capCheck ((s.arch k).cap a) a 1 ((s.arch k).cap a).cursor.toNat count [permLoad] false = none)
    (h2 : capCheck ((s.arch k).cap d) d 2 ((s.arch k).cap d).cursor.toNat count [permStore] false = none)
    (h3 : (s.arch k).spillGuard d ((s.arch k).cap d).cursor.toNat = none)
    (h4 : s.blockRun k d (some a.val) b 0 ext count m = .stop t) :
    exec (.mcBcopy n d a b 0 m ext) s = .next (t.stepDone k) := by
  rw [exec_mcBcopy, execMcBcopy]
  refine State.runCore_stop h
    (by rw [bne_iff_ne.mpr hd.1, decide_eq_true hd.2, bne_iff_ne.mpr ha.1, decide_eq_true ha.2]; rfl) ?_
  dsimp only
  rw [← hc, h1, h2, h3]
  exact h4

theorem mcBfill_runs (d b e : Fin 32) (m : Nat) (h : s.CoreReady n k) (hd : d.val ≠ 0 ∧ d.val < 16)
    {count : Nat} (hc : count = ((s.arch k).get b).toNat)
    (h2 : capCheck ((s.arch k).cap d) d 2 ((s.arch k).cap d).cursor.toNat count [permStore] false = none)
    (h3 : (s.arch k).spillGuard d ((s.arch k).cap d).cursor.toNat = none)
    (h4 : s.blockRun k d none b (((s.arch k).get e).toNat % 256) 0 count m = .next t) :
    exec (.mcBfill n d 0 b e m) s = .next (s.coreDone t k) := by
  rw [exec_mcBfill, execMcBfill]
  refine State.runCore_next h (by rw [bne_iff_ne.mpr hd.1, decide_eq_true hd.2]; rfl) ?_
  dsimp only
  rw [← hc, h2, h3]
  exact h4

/-- The completion's data reach the waiting load, which retires. -/
theorem pcieCompletion_runs (data : Nat) {o : OutLoad} {v : Nat} {tag : Bool} {u : State} (h : s.outLoad n = some (k, o))
    (h1 : (s.outDone k).heldOver k o.ea o.use.size (.val (s.outDone k) (data % 256 ^ o.use.size) false) = .val t v tag)
    (h2 : ((t.arch k).lastInLoop) = false) (hu : u = t.loadUse k o.ea v tag o.use) :
    exec (.pcieCompletion n data) s = .next (t.coreDone u k) := by
  rw [exec_pcieCompletion, execPcieCompletion, h]
  dsimp only
  rw [h1]
  simp only [State.settle, h2, Bool.false_and, Bool.false_eq_true, ↓reduceIte, ← hu, Option.getD_some, State.coreDone]

/-- Without a completion in 50 ms the load's BUS_ERROR is taken. -/
theorem pcieCompletionTimeout_runs {o : OutLoad} {u w : State} (h : s.outLoad n = some (k, o))
    (hu : u = (s.advanceTo (o.at' + 20000000)).outDone k) (h1 : u.fault k (accessExc .error o.use.acc o.creg o.ea) = some w) :
    exec (.pcieCompletionTimeout n) s = .next w := by
  rw [exec_pcieCompletionTimeout, execPcieCompletionTimeout, h]
  dsimp only
  rw [← hu, h1, Option.getD_some]

end Sys2Proof.Machine
end

