-- ==== Sys2Proof/Laws/RunsCoreSys.lean ====
section
/-! SUPPORT. Where the Molpa cores' system instructions and what happens to a core from outside complete, and with what (R244,
R271, R273, R277 to R281, R294 to R303, R328 to R333, R340 to R342, R477). -/

namespace Sys2Proof.Machine

variable {s t : State} {n : Fin 4} {k : Nat}

theorem mcFence_runs (h : s.CoreReady n k) (h1 : s.drainAll k = some t) :
    exec (.mcFence n 0 0 0 0) s = .next (s.coreDone t k) := by
  rw [exec_mcFence, execMcFence, State.sysOp]
  refine State.runCore_next h rfl ?_
  rw [h1]

theorem mcCkpt_runs (h : s.CoreReady n k) (h1 : s.releasing k = false) :
    exec (.mcCkpt n 0 0 0 0) s = .next (((s.drainPart k 32).retire k ((s.arch k).pc + 4) false).ckptCommit k) := by
  rw [exec_mcCkpt, execMcCkpt, State.sysOp]
  refine State.runCore_post h rfl (f := fun s => s.ckptCommit k) ?_
  rw [h1, if_neg (by decide)]

theorem State.sys_may {c : Cap} (h : c.may permSys = true) : ¬ (!c.may permSys) = true := by rw [h]; decide

/-- Where every condition of R342 holds, the pair splits at the commit edge. -/
theorem mcSplit_runs (d a b : Fin 32) (h : s.CoreReady n k) (ha : a.val < 16) (hb : b.val < 16)
    (h1 : ((s.arch k).cap 0).may permSys = true)
    (h2 : execCheck ((s.arch k).cap b) b 5 ((s.arch k).cap b).cursor.toNat = none) (h3 : s.pairMode (k / 2) = 0)
    (h4 : s.pairCode (k / 2) k none = 0) (h5 : s.releasing k = false) :
    exec (.mcSplit n d a b 0) s = .next (State.splitOff ((((s.drainPart k 32).onArch k fun r => r.set d 0).retire k ((s.arch k).pc + 4)
      false).ckptCommit k) k ((s.arch k).cap a) ((s.arch k).cap b)) := by
  rw [exec_mcSplit, execMcSplit]
  have hl : (decide (a.val < 16) && decide (b.val < 16) && ((0 : Fin 32) == 0)) = true := by
    rw [decide_eq_true ha, decide_eq_true hb]; rfl
  refine State.runCore_post h hl (f := fun u => (u.ckptCommit k).splitOff k ((s.arch k).cap a) ((s.arch k).cap b)) ?_
  dsimp only
  rw [if_neg (State.sys_may h1), h2]
  simp only [h3, ↓reduceIte, h4, ne_eq, not_true_eq_false, h5, Bool.false_eq_true]

/-- A SPLIT that R342 refuses writes the code to d and changes nothing else. -/
theorem mcSplit_refused_runs (d a b : Fin 32) (h : s.CoreReady n k) (ha : a.val < 16) (hb : b.val < 16)
    (h1 : ((s.arch k).cap 0).may permSys = true)
    (h2 : execCheck ((s.arch k).cap b) b 5 ((s.arch k).cap b).cursor.toNat = none) {code : Nat}
    (h3 : code = s.pairCode (k / 2) k (if s.pairMode (k / 2) = 0 then none else some 0xC0)) (h4 : code ≠ 0) :
    exec (.mcSplit n d a b 0) s = .next (s.coreSet k fun r => r.set d (BitVec.ofNat 32 code)) := by
  rw [exec_mcSplit, execMcSplit]
  refine State.runCore_set h (by rw [decide_eq_true ha, decide_eq_true hb]; rfl) ?_
  dsimp only
  rw [if_neg (State.sys_may h1), h2]
  dsimp only
  rw [← h3, if_pos h4]

/-- The copy of a JOIN begins. -/
theorem mcJoin_runs (d : Fin 32) (h : s.CoreReady n k) (h1 : ((s.arch k).cap 0).may permSys = true) (h3 : s.pairMode (k / 2) = 1)
    (h4 : s.pairCode (k / 2) k none = 0) (h5 : s.releasing k = false) {u : State}
    (hu : u = ((s.drainPart k 32).joinStop (k + 1)).onCore k fun c => { c with run := .join }) :
    exec (.mcJoin n d 0 0 0) s = .next ((u.setPair (k / 2) { u.pair (k / 2) with
      joinAt := u.now + u.coreTime 65536, joinD := d }).stepDone k) := by
  rw [exec_mcJoin, execMcJoin]
  refine State.runCore_stop h rfl ?_
  dsimp only
  rw [if_neg (State.sys_may h1)]
  simp only [h3, h4, ne_eq, not_true_eq_false, ↓reduceIte, h5, Bool.false_eq_true, ← hu]

/-- A JOIN that R342 refuses writes the code to d and changes nothing else. -/
theorem mcJoin_refused_runs (d : Fin 32) (h : s.CoreReady n k) (h1 : ((s.arch k).cap 0).may permSys = true)
    (h3 : s.pairMode (k / 2) = 0) (h4 : s.arbHeld 8 (k / 2) = false ∧ s.arbHeld 9 (k / 2) = false) :
    exec (.mcJoin n d 0 0 0) s = .next (s.coreSet k fun r => r.set d 0xC1) := by
  rw [exec_mcJoin, execMcJoin]
  refine State.runCore_set h rfl ?_
  have e : s.pairCode (k / 2) k (some 0xC1) = 0xC1 := by
    rw [State.pairCode, h4.1, h4.2]
    rfl
  dsimp only
  rw [if_neg (State.sys_may h1)]
  simp only [h3, e, ne_eq, OfNat.ofNat_ne_zero, not_false_eq_true, ↓reduceIte]
  rfl

/-- JOIN's copy ends: both cores go on in LOCKSTEP after a checkpoint. -/
theorem joinResync_runs (p : Fin 2) (extra : Fin 14465) (h : (s.core (2 * p.val)).run = .join) {u : State}
    (hu : u = s.joinCopied p extra) (h1 : (u.arch (2 * p.val)).lastInLoop = false) :
    exec (.joinResync p extra) s = .next (((u.onArch (2 * p.val) fun a => a.set (s.pair p).joinD 0).retire (2 * p.val)
      ((u.arch (2 * p.val)).pc + 4) false).ckptCommit (2 * p.val)) := by
  rw [exec_joinResync, execJoinResync]
  dsimp only
  rw [if_neg (by rw [h]; decide), ← hu]
  simp only [State.settle, h1, Bool.false_and, Bool.false_eq_true, ↓reduceIte, Option.getD_some]

/-- ERET without an eligible interrupt: the frame's PC, status and capability come back, and the window slides back. -/
theorem mcEret_runs (h : s.CoreReady n k) (h1 : ((s.arch k).cap 0).may permSys = true) {x c : Cap} (hx : x = (s.arch k).xstk)
    (h2 : xstkCheck x = none) {u w : State} {v pc : Nat} {st : Word} (h3 : s.frameRead k x = .ok (u, v, c)) (hp : pc = v % 2 ^ 32)
    (h4 : execCheck c 0x10 5 pc = none) (hs : st = BitVec.ofNat 32 (v / 2 ^ 32) &&& 0x30F) (h5 : u.chain k (fieldOf st 3 0) = none)
    (h6 : u.slideBack k = .ok w) :
    exec (.mcEret n 0 0 0 0) s = .next ((w.onArch k fun r => { r.setCap 0 { c with cursor := BitVec.ofNat 32 pc } with
      status := st, xstk := { x with cursor := x.cursor + 32 } }).coreGoto k pc) := by
  rw [exec_mcEret, execMcEret, State.sysOp]
  refine State.runCore_goto h rfl ?_
  dsimp only
  rw [if_neg (State.sys_may h1), ← hx, h2]
  dsimp only
  rw [h3]
  simp only [← hp, h4, ← hs, h5, h6]

/-- ERET with an eligible interrupt chains to its handler; the frame stays. -/
theorem mcEret_chained_runs (h : s.CoreReady n k) (h1 : ((s.arch k).cap 0).may permSys = true) {x c vec : Cap}
    (hx : x = (s.arch k).xstk)
    (h2 : xstkCheck x = none) {u w : State} {v pc l prio : Nat} {st : Word} (h3 : s.frameRead k x = .ok (u, v, c)) (hp : pc = v % 2 ^ 32)
    (h4 : execCheck c 0x10 5 pc = none) (hs : st = BitVec.ofNat 32 (v / 2 ^ 32) &&& 0x30F)
    (h5 : u.chain k (fieldOf st 3 0) = some (w, l, prio, vec)) :
    exec (.mcEret n 0 0 0 0) s = .next ((((w.onArch k fun r => { r.setCap 0 vec with
      pc := vec.cursor.toNat, status := withField r.status 3 0 prio }).clearPend k l).coreTrace k (2 ^ 11 * l + 1)).stepDone k) := by
  rw [exec_mcEret, execMcEret, State.sysOp]
  refine State.runCore_stop h rfl ?_
  dsimp only
  rw [if_neg (State.sys_may h1), ← hx, h2]
  dsimp only
  rw [h3]
  simp only [← hp, h4, ← hs, h5]

/-- WFI with no eligible line waits. -/
theorem mcWfi_runs (h : s.CoreReady n k) (h1 : s.winner k (s.arch k).ipl = none) :
    exec (.mcWfi n 0 0 0 0) s = .next ((s.onCore k fun c => { c with run := .wait }).stepDone k) := by
  rw [exec_mcWfi, execMcWfi, State.sysOp]
  refine State.runCore_stop h rfl ?_
  rw [h1]
  rfl

/-- WFI with an eligible line retires at once. -/
theorem mcWfi_eligible_runs (h : s.CoreReady n k) {l : Nat × Nat} (h1 : s.winner k (s.arch k).ipl = some l) :
    exec (.mcWfi n 0 0 0 0) s = .next (s.coreDone s k) := by
  rw [exec_mcWfi, execMcWfi, State.sysOp]
  refine State.runCore_next h rfl ?_
  rw [h1]
  rfl

/-- TRAP retires and its exception is taken with the next instruction's address saved. -/
theorem mcTrap_runs (h : s.CoreReady n k) {r u : State} (hr : r = s.retire k ((s.arch k).pc + 4) false)
    (h1 : r.takeExc k { num := 0x0E, addr := some (s.arch k).pc } (r.arch k).pc false false = some u) :
    exec (.mcTrap n 0 0 0 0) s = .next u := by
  rw [exec_mcTrap, execMcTrap, State.sysOp]
  subst hr
  exact State.runCore_after h rfl rfl h1

theorem mcStow_runs (h : s.CoreReady n k) (h1 : s.stow k 7 = .ok t) : exec (.mcStow n 0 0 0 0) s = .next (s.coreDone t k) := by
  rw [exec_mcStow, execMcStow, State.sysOp]
  refine State.runCore_next h rfl ?_
  rw [h1]

/-- BKPT with BKPp = 1 halts the pair. -/
theorem mcBkpt_halts_runs (h : s.CoreReady n k) (h1 : s.flag Reg.TP_DBGCTL (8 * (k / 2) + 4) = true)
    (h2 : ¬ (s.pairMode (k / 2) = 1 ∧ k % 2 = 1)) :
    exec (.mcBkpt n 0 0 0 0) s = .next (s.coreDone (s.setFlag Reg.TP_DBGSTAT (k / 2) true) k) := by
  have e : (s.pairMode (k / 2) == 1 && k % 2 == 1) = false := by
    rw [Bool.eq_false_iff]
    intro x
    simp only [Bool.and_eq_true, beq_iff_eq] at x
    exact h2 x
  rw [exec_mcBkpt, execMcBkpt, State.sysOp]
  refine State.runCore_next h rfl ?_
  dsimp only
  rw [h1, e, if_pos (by decide)]

/-- BKPT otherwise takes the exception. -/
theorem mcBkpt_runs (h : s.CoreReady n k) (h1 : s.flag Reg.TP_DBGCTL (8 * (k / 2) + 4) = false) {r u : State}
    (hr : r = s.retire k ((s.arch k).pc + 4) false)
    (h2 : r.takeExc k { num := 0x0F, addr := some (s.arch k).pc } (r.arch k).pc false false = some u) :
    exec (.mcBkpt n 0 0 0 0) s = .next u := by
  rw [exec_mcBkpt, execMcBkpt, State.sysOp]
  subst hr
  refine State.runCore_after h rfl ?_ h2
  dsimp only
  rw [h1]
  rfl

/-! System registers. -/

theorem mcMfsr_runs (d : Fin 32) (imm : BitVec 16) (h : s.CoreReady n k) (h1 : ((s.arch k).cap 0).may permSys = true)
    (h2 : imm.toNat < 0x40) {v : Word} (h3 : s.srRead k imm.toNat = some v) :
    exec (.mcMfsr n d 0 imm) s = .next (s.coreSet k fun r => r.set d v) := by
  have e : srIsCap imm.toNat = false := by rw [srIsCap, decide_eq_false (by omega), Bool.false_and]
  rw [exec_mcMfsr, execMcMfsr]
  dsimp only
  refine State.runCore_set h (by rw [e, decide_eq_true (by omega)]; rfl) ?_
  rw [if_neg (State.sys_may h1), if_neg (by omega), e, if_neg (by decide), h3]

/-- MC_XSTK is read into a capability register. -/
theorem mcMfsr_xstk_runs (d : Fin 32) (h : s.CoreReady n k) (h1 : ((s.arch k).cap 0).may permSys = true)
    (hd : d.val ≠ 0 ∧ d.val < 16) : exec (.mcMfsr n d 0 0x40) s = .next (s.coreSet k fun r => r.setCap d r.xstk) := by
  rw [exec_mcMfsr, execMcMfsr]
  dsimp only
  refine State.runCore_set h ?_ ?_
  · rw [beq_eq_false_iff_ne.mpr hd.1, decide_eq_false (show ¬ 16 ≤ d.val by omega)]
    rfl
  · rw [if_neg (State.sys_may h1), if_pos (by decide)]

theorem mcMtsr_runs (a : Fin 32) (imm : BitVec 16) (h : s.CoreReady n k) (h1 : ((s.arch k).cap 0).may permSys = true) {m : Word}
    (h2 : srMask imm.toNat = some m) (h3 : (s.arch k).get a &&& ~~~m = 0) :
    exec (.mcMtsr n 0 a imm) s = .next (s.coreDone (s.srWrite k imm.toNat ((s.arch k).get a)) k) := by
  rw [exec_mcMtsr, execMcMtsr]
  dsimp only
  refine State.runCore_next h (by rw [h2]; rfl) ?_
  rw [h2]
  dsimp only
  rw [h3, if_neg (by decide), if_neg (State.sys_may h1)]

theorem mcMtsr_xstk_runs (a : Fin 32) (h : s.CoreReady n k) (h1 : ((s.arch k).cap 0).may permSys = true) (ha : a.val < 16) :
    exec (.mcMtsr n 0 a 0x40) s = .next (s.coreSet k fun r => { r with xstk := r.cap a }) := by
  rw [exec_mcMtsr, execMcMtsr]
  dsimp only
  refine State.runCore_set h (by rw [decide_eq_true ha]; rfl) ?_
  have e : srMask (BitVec.toNat (0x40 : BitVec 16)) = none := by decide
  rw [e]
  dsimp only
  rw [if_neg (State.sys_may h1)]

/-! Entries. -/

/-- The winning line's handler is entered where nothing else is pending at the boundary. -/
theorem interruptEntry_runs {l prio : Nat} {u w : State} (h : s.entryLead n = some k) (h1 : s.winner k (s.arch k).ipl = some (l, prio))
    (hu : u = s.wake k) (h2 : u.outputMism k ((u.arch k).ivt.toNat + 16 * l) = none) (h3 : (u.core k).arith = none)
    (h4 : (u.core k).due = false) (h5 : u.takeInt k l prio (u.arch k).pc = some w) :
    exec (.interruptEntry n) s = .next w := by
  have e : u.pendingEntry k = none := by rw [State.pendingEntry, h3, h4]; rfl
  rw [exec_interruptEntry, execInterruptEntry, h]
  dsimp only
  rw [h1]
  dsimp only
  rw [← hu, h2, e]
  dsimp only
  rw [h5, Option.getD_some]

/-- A pending arithmetic exception is taken imprecisely. -/
theorem exceptionEntry_runs (ill : Option (BitVec 32)) {r : Arith} {u : State} (h : s.entryLead n = some k)
    (h1 : (s.core k).arith = some r) (h2 : s.takeArith k r (s.arch k).pc = some u) :
    exec (.exceptionEntry n ill) s = .next u := by
  have e : s.pendingEntry k = some (some u) := by rw [State.pendingEntry, h1, ← h2]
  rw [exec_exceptionEntry, execExceptionEntry, h]
  dsimp only
  rw [e]
  rfl

/-- CKPT_DUE is taken where no arithmetic exception is pending. -/
theorem exceptionEntry_due_runs (ill : Option (BitVec 32)) {u : State} (h : s.entryLead n = some k)
    (h1 : (s.core k).arith = none) (h2 : (s.core k).due = true) (h3 : s.takeDue k (s.arch k).pc = some u) :
    exec (.exceptionEntry n ill) s = .next u := by
  have e : s.pendingEntry k = some (some u) := by rw [State.pendingEntry, h1, h2, ← h3]; rfl
  rw [exec_exceptionEntry, execExceptionEntry, h]
  dsimp only
  rw [e]
  rfl

/-- An unassigned word at the PC raises ILLEGAL_INSN. -/
theorem exceptionEntry_illegal_runs (w : BitVec 32) {u : State} (h : s.entryLead n = some k) (hr : s.CoreReady n k)
    (h1 : molpaAssigned w.toNat = false) (h2 : s.takeExc k { num := 0x01, addr := some w.toNat } (s.arch k).pc false false = some u) :
    exec (.exceptionEntry n (some w)) s = .next u := by
  have e : s.pendingEntry k = none := by rw [State.pendingEntry, hr.noArith, hr.noDue]; rfl
  have hp := hr.agree
  have hf := hr.fetched
  have ha := hr.noArith
  rw [State.arch] at hp hf
  rw [exec_exceptionEntry, execExceptionEntry, h]
  dsimp only
  rw [e]
  dsimp only
  rw [h1, if_neg (by decide), State.runCore, hr.lead]
  dsimp only
  rw [if_pos hr.runs, State.instr]
  simp only [hp, ha, Option.filter_none, hr.noDue, Bool.false_eq_true, ↓reduceIte, hf, Bool.not_false, Bool.true_or, State.fault, h2,
    Option.getD_some]

/-! Store buffer, hold queue, CKPT_DUE and caches. -/

theorem storeBufferDrain_runs {e : StoreEnt} {l : List StoreEnt} (h : s.lead n = some k) (h1 : s.unitOn k = true)
    (h2 : (s.core k).sb = e :: l) (h3 : s.outputMism k e.addr = none) (h4 : s.drainOne k = some t) :
    exec (.storeBufferDrain n) s = .next t := by
  rw [exec_storeBufferDrain, execStoreBufferDrain, h]
  dsimp only
  rw [h1, h2]
  dsimp only
  rw [h3]
  dsimp only
  rw [h4, Option.getD_some]

theorem holdQueueRelease_runs {c : Core} (h : s.lead n = some k) (h1 : s.unitOn k = true) (hc : c = s.core k) :
    exec (.holdQueueRelease n) s = .next ((s.setCore k { c with
      hold := c.hold.drop c.release, sb := c.sb.drop c.releaseSb, release := 0, releaseSb := 0 }).storesOut k false
        (c.hold.take c.release ++ c.sb.take c.releaseSb)) := by
  rw [exec_holdQueueRelease, execHoldQueueRelease, h]
  dsimp only
  rw [h1, Bool.not_true, if_neg (by decide), ← hc]

/-- A limit of R333 has been reached: the exception is due. -/
theorem ckptDueRaise_runs {why : Nat} {u : State} (h : s.lead n = some k) (h1 : s.unitOn k = true) (h2 : (s.core k).run = .run)
    (h3 : s.halted (k / 2) = false) (h4 : (s.core k).dueAt = none) (h5 : s.dueWhy k = some why)
    (hu : u = s.onCore k fun c => { c with dueAt := some s.now, due := true }) :
    exec (.ckptDueRaise n) s = .next ((u.setFld (Reg.RD_STAT (k / 2)) 26 25 why).satInc (Reg.RD_CNT (k / 2)) 7 0) := by
  rw [exec_ckptDueRaise, execCkptDueRaise, h]
  dsimp only
  rw [h1, h2, h3, h4, h5]
  simp only [Bool.not_true, Bool.false_and, Option.isSome_none, Bool.or_self, Bool.false_eq_true, ↓reduceIte, Option.isSome_some, h5,
    Option.getD_some, ← hu]

theorem setPending_runs (v : BitVec 32) (h : s.lead n = some k) (h1 : s.mayRun k = true) :
    exec (.setPending n v) s = .next (s.icfgWrite k (fieldOf (s.arch k).isel 8 0) (withField v 1 1 1)) := by
  rw [exec_setPending, execSetPending, h]
  dsimp only
  rw [if_pos h1]

theorem dataCacheInvalidate_runs (h : s.lead n = some k) (h1 : s.mayRun k = true) :
    exec (.dataCacheInvalidate n) s = .next (s.onCore k fun c => { c with
      dcache := [], invDue := some (s.now + s.coreTime 256) }) := by
  rw [exec_dataCacheInvalidate, execDataCacheInvalidate, State.cctlBy, h]
  dsimp only
  rw [if_pos h1, State.cctlWrite]
  rfl

theorem instructionCacheInvalidate_runs (h : s.lead n = some k) (h1 : s.mayRun k = true) :
    exec (.instructionCacheInvalidate n) s = .next (s.onCore k fun c => { c with
      icache := [], invDue := some (s.now + s.coreTime 256) }) := by
  rw [exec_instructionCacheInvalidate, execInstructionCacheInvalidate, State.cctlBy, h]
  dsimp only
  rw [if_pos h1, State.cctlWrite]
  rfl

theorem cacheInvalidationDone_runs {e : Nat} (h : s.lead n = some k) (h1 : (s.core k).invDue = some e) :
    exec (.cacheInvalidationDone n) s = .next ((s.advanceTo e).onCore k fun c => { c with invDue := none }) := by
  rw [exec_cacheInvalidationDone, execCacheInvalidationDone, h]
  dsimp only
  rw [h1]

end Sys2Proof.Machine
end

