-- ==== Sys2Proof/Laws/RunsCores.lean ====
section
/-! SUPPORT. Where the pairs' redundancy commands and the pins' commands complete, and with what: one lemma a command (R12,
R326 to R339, R444 to R450). -/

namespace Sys2Proof.Machine

variable {s : State}

theorem rollbackResume_runs (n : Fin 4) {k : Nat} (h : s.lead n = some k) (h1 : (s.core k).run = .resume) :
    exec (.rollbackResume n) s = .next ((s.advanceTo (s.core k).resumeAt).rollResume k) := by
  rw [exec_rollbackResume, execRollbackResume, h]
  dsimp only
  rw [if_pos h1]

theorem checkerMismatch_runs (p : Fin 2) (kind : Fin 4) (port : Bool) (a : BitVec 32) (h : s.pairMode p = 0)
    (h1 : (s.core (2 * p)).run = .run ∨ (s.core (2 * p)).run = .wait ∨ (s.core (2 * p)).run = .load) :
    exec (.checkerMismatch p kind port a) s = .next (s.mismatch p kind (bit port) a.toNat) := by
  have h2 : ((s.core (2 * p)).run == .run || (s.core (2 * p)).run == .wait || (s.core (2 * p)).run == .load) = true := by
    rcases h1 with h | h | h <;> rw [h] <;> rfl
  rw [exec_checkerMismatch, execCheckerMismatch]
  rw [h, h2]
  rfl

/-- Cores entered in the repair map stand in it. -/
theorem State.coresAdd (s : State) (a b x : Nat) (h : a ≤ x ∧ x < b) : nsetHas (State.repairs { s with repairs := { s.repairs with
    cores := nsetAdd s.repairs.cores a b } }).cores x = true := by
  rw [nsetHas_add, decide_eq_true h.1, decide_eq_true h.2]
  simp

/-- Both cores passed: the pair is released to LOCKSTEP from its checkpoint. -/
theorem coreBistDone_passed_runs (p : Fin 2) {t : Nat} (h : (s.pair p).bist = some t) (h1 : (s.pair p).bistRun = true) :
    exec (.coreBistDone p true true) s = .next (((((((s.advanceTo ((s.pair p).bistAt + 2000000)).setPair p { s.pair p with
      bist := none, bistRun := false }).arbRelease t).setFld (Reg.RD_STAT p) 24 23 1).setMode p 0).rollback (2 * p))) := by
  rw [exec_coreBistDone, execCoreBistDone]
  dsimp only
  rw [h, h1]
  rfl

/-- Both cores failed: both are entered in the repair map and the pair is halted. -/
theorem coreBistDone_failed_runs (p : Fin 2) {t : Nat} (h : (s.pair p).bist = some t) (h1 : (s.pair p).bistRun = true) :
    ∃ u, exec (.coreBistDone p false false) s = .next ((((State.repairCommit u).setMode p 3).onCore (2 * p) fun c =>
      { c with run := .halt })) ∧ nsetHas u.repairs.cores (2 * p) = true ∧ nsetHas u.repairs.cores (2 * p + 1) = true := by
  rw [exec_coreBistDone, execCoreBistDone]
  dsimp only
  rw [h, h1]
  exact ⟨_, rfl, State.coresAdd _ _ _ _ (by omega), State.coresAdd _ _ _ _ (by omega)⟩

/-- The secondary failed: it is entered in the repair map and the primary goes on alone. -/
theorem coreBistDone_secondary_runs (p : Fin 2) {t : Nat} (h : (s.pair p).bist = some t) (h1 : (s.pair p).bistRun = true) :
    ∃ u, exec (.coreBistDone p true false) s = .next ((State.repairCommit u).rollback (2 * p)) ∧
      nsetHas u.repairs.cores (2 * p + 1) = true := by
  rw [exec_coreBistDone, execCoreBistDone]
  dsimp only
  rw [h, h1]
  exact ⟨_, rfl, State.coresAdd _ _ _ _ (by rw [if_pos rfl]; omega)⟩

/-- The primary failed: it is entered in the repair map and the secondary goes on with its records. -/
theorem coreBistDone_primary_runs (p : Fin 2) {t : Nat} (h : (s.pair p).bist = some t) (h1 : (s.pair p).bistRun = true) :
    ∃ u v f, exec (.coreBistDone p false true) s = .next (State.rollback (State.setCore (State.setCore { v with icfg := f } (2 * p) {})
      (2 * p + 1) { v.core (2 * p) with undo := (v.core (2 * p)).undo.map fun x => { x with granule := x.granule + 0x40000 / 16 } })
        (2 * p + 1)) ∧ v = State.repairCommit u ∧ nsetHas u.repairs.cores (2 * p) = true := by
  rw [exec_coreBistDone, execCoreBistDone]
  dsimp only
  rw [h, h1]
  exact ⟨_, _, _, rfl, rfl, State.coresAdd _ _ _ _ (by rw [if_neg (by decide)]; omega)⟩

theorem ckptDueTimeout_runs (n : Fin 4) {k e : Nat} (h : s.lead n = some k) (h1 : (s.core k).dueAt = some e)
    (h2 : s.halted (k / 2) = false) :
    exec (.ckptDueTimeout n) s = .next ((s.advanceTo (e + 20000)).coldRestart k) := by
  rw [exec_ckptDueTimeout, execCkptDueTimeout, h]
  dsimp only
  rw [h1]
  dsimp only
  rw [h2]
  rfl

/-- A pair in LOCKSTEP restarts cold, or from its checkpoint. -/
theorem pairRestartCommand_runs (p : Fin 2) (cold : Bool) (h : s.coreFailed (2 * p) = false) (h1 : s.pairMode p = 0)
    (h2 : (s.core (2 * p)).run ≠ .off) :
    exec (.pairRestartCommand p cold) s = .next (if cold then s.coldRestart (2 * p) else s.rollback (2 * p)) := by
  rw [exec_pairRestartCommand, execPairRestartCommand, h]
  simp only [Bool.false_and, Bool.false_eq_true, ↓reduceIte, h1, Nat.reduceEqDiff, State.pairRecord, h, List.foldl_cons,
    List.foldl_nil, h2]

/-! Pins. -/

theorem State.pinWrite_ok (s : State) (k : Nat) (v : Word) (h : s.pinFails k v = []) :
    ∃ m, s.pinWrite k v = State.conflictSync { (s.setReg (Reg.PX_PIN k)
      ((s.reg (Reg.PX_PIN k) &&& 0x80000000) ||| (v &&& 0x030773FF))).cfgOk Reg.PX_CFGCHK with pads := m } := by
  rw [State.pinWrite, h]
  exact ⟨_, rfl⟩

theorem State.conflictSync_pin (s : State) {k : Nat} (e : Reg.PX_PIN k ≠ Reg.PX_CONF) :
    (s.conflictSync).reg (Reg.PX_PIN k) = s.reg (Reg.PX_PIN k) := by
  rw [State.conflictSync]
  try dsimp only
  rw [State.setLine_reg]
  generalize s.conflict = c
  cases c with
  | none => rfl
  | some x =>
    dsimp only
    by_cases h : s.flag Reg.PX_CONF 31 = true
    · rw [if_pos h]
    · rw [if_neg h]
      generalize s.selecting x = l
      match l with
      | [] => rfl
      | [a] => rfl
      | a :: b :: l => exact State.reg_setReg_ne _ _ e

theorem pinConfigurationWrite_runs (k : Fin 256) (v : BitVec 32) (h : s.pinFails k v = []) :
    ∃ u, exec (.pinConfigurationWrite k v) s = .next u ∧
      u.reg (Reg.PX_PIN k) = (s.reg (Reg.PX_PIN k) &&& 0x80000000) ||| (v &&& 0x030773FF) := by
  have e : Reg.PX_PIN k ≠ Reg.PX_CFGCHK := by simp only [Reg.PX_PIN, Reg.PX_CFGCHK]; omega
  obtain ⟨m, hm⟩ := s.pinWrite_ok k v h
  rw [exec_pinConfigurationWrite, execPinConfigurationWrite, hm]
  exact ⟨_, rfl, by rw [State.conflictSync_pin _ (by simp only [Reg.PX_PIN, Reg.PX_CONF]; omega), State.reg_with_pads, State.cfgOk, State.reg_setReg_ne _ _ e, State.reg_setReg_same]⟩

theorem gpioWrite_runs (k : Fin 256) (oe d : Bool) {w : Word}
    (hw : w = withField (withField (s.reg (Reg.PX_PIN k)) 25 25 (bit oe)) 24 24 (bit d)) (h : s.pinFails k w = []) :
    ∃ u, exec (.gpioWrite k oe d) s = .next u ∧
      u.reg (Reg.PX_PIN k) = (s.reg (Reg.PX_PIN k) &&& 0x80000000) ||| (w &&& 0x030773FF) := by
  have e : Reg.PX_PIN k ≠ Reg.PX_CFGCHK := by simp only [Reg.PX_PIN, Reg.PX_CFGCHK]; omega
  obtain ⟨m, hm⟩ := s.pinWrite_ok k w h
  rw [exec_gpioWrite, execGpioWrite, ← hw, hm]
  exact ⟨_, rfl, by rw [State.conflictSync_pin _ (by simp only [Reg.PX_PIN, Reg.PX_CONF]; omega), State.reg_with_pads, State.cfgOk, State.reg_setReg_ne _ _ e, State.reg_setReg_same]⟩

theorem State.pintSeen_level (u : State) (n : Nat) (l : Bool) : mapGet none (u.pintSeen n l).pintLevel n = some l :=
  mapGet_set_same (none : Option Bool) u.pintLevel n (some l)

theorem State.pintSeen_reg (u : State) (n a : Nat) (l : Bool) : (u.pintSeen n l).reg a = u.reg a := State.reg_with_pintLevel _ _ _

theorem State.pintSeen_flag (u : State) (n a i : Nat) (l : Bool) : (u.pintSeen n l).flag a i = u.flag a i := by
  rw [State.flag, State.flag, State.pintSeen_reg]

theorem Reg.pint_ne_pin (n : Fin 16) (u : State) : Reg.PINT_CFG n ≠ Reg.PX_PIN (u.pintPin n) := by
  have h : u.fld (Reg.PINT_CFG n) 3 0 < 2 ^ 4 := Nat.mod_lt _ (by decide)
  rw [State.pintPin]
  generalize u.fld (Reg.PINT_CFG n) 3 0 = x at h
  simp only [Reg.PX_PIN, Reg.PINT_CFG]
  omega

theorem State.pintWrite_on {n : Nat} {v : Word} {l : Bool} (h1 : s.flag (Reg.PINT_CFG n) 31 = false) (hb : bitOf v 31 = true)
    (h2 : fieldOf v 10 8 < 5) {w : State} (hw : w = s.setReg (Reg.PINT_CFG n) (withField (v &&& 0x8000070F) 31 31 0))
    (h3 : w.bankVio (w.pintPin n) ≠ 0) : s.pintWrite n v l = State.pintSync (State.pintSeen (((w.setFlag (Reg.PINT_CFG n) 31
      true).cfgOk Reg.PINT_CFGCHK).setFlag (Reg.PX_PIN (((w.setFlag (Reg.PINT_CFG n) 31 true).cfgOk Reg.PINT_CFGCHK).pintPin n)) 31
        l) n l) n := by
  have e4 : (failIf (decide (5 ≤ fieldOf v 10 8)) 0x05 n ++ failIf (w.bankVio (w.pintPin n) == 0) 0xA2 0xFF) = [] := by
    rw [decide_eq_false (by omega)]; simp [failIf, h3]
  unfold State.pintWrite
  simp only [h1, Bool.false_eq_true, ↓reduceIte, ← hw, hb, Bool.not_true, e4, pickFail]

theorem pintEnable_runs (n : Fin 16) (v : BitVec 32) (l : Bool) (h1 : s.flag (Reg.PINT_CFG n) 31 = false)
    (h2 : fieldOf v 10 8 < 5) {w : State} (hw : w = s.setReg (Reg.PINT_CFG n) (withField (withField v 31 31 1 &&& 0x8000070F) 31 31 0))
    (h3 : w.bankVio (w.pintPin n) ≠ 0) :
    ∃ u, exec (.pintEnable n v l) s = .next (State.pintSync u n) ∧ mapGet none u.pintLevel n = some l ∧
      u.flag (Reg.PINT_CFG n) 31 = true := by
  have e2 : Reg.PINT_CFG n ≠ Reg.PINT_CFGCHK := by simp only [Reg.PINT_CFGCHK, Reg.PINT_CFG]; omega
  have e3 : fieldOf (withField v 31 31 1) 10 8 = fieldOf v 10 8 := fieldOf_withField_ne _ _ (by omega) (by omega) (by omega)
  have hb : bitOf (withField v 31 31 1) 31 = true := bitOf_withField_one v (by omega)
  rw [exec_pintEnable, execPintEnable]
  rw [State.pintWrite_on h1 hb (by rw [e3]; exact h2) hw h3]
  refine ⟨_, rfl, State.pintSeen_level _ _ _, ?_⟩
  rw [State.pintSeen_flag, State.flag_setFlag_ne _ _ _ _ (Reg.pint_ne_pin n _), State.cfgOk, State.flag_setReg_ne _ _ _ e2,
    State.flag_setFlag_same _ _ _ (by omega)]

theorem pinInterruptEdge_runs (n : Fin 16) (l : Bool) (h : s.flag (Reg.PINT_CFG n) 31 = true) :
    ∃ u, exec (.pinInterruptEdge n l) s = .next (State.pintSync u n) ∧ mapGet none u.pintLevel n = some l ∧
      (s.fld (Reg.PINT_CFG n) 10 8 = 2 → mapGet none s.pintLevel n = some (!l) → u.flag Reg.PINT_STAT n = true) := by
  rw [exec_pinInterruptEdge, execPinInterruptEdge]
  dsimp only
  rw [State.flag_setFlag_ne _ _ _ _ (Reg.pint_ne_pin n _), h, Bool.not_true, if_neg (by decide)]
  refine ⟨_, rfl, State.pintSeen_level _ _ _, ?_⟩
  intro h1 h2
  rw [State.pintSeen_flag, State.fld_setFlag_ne _ _ _ _ _ (Reg.pint_ne_pin n _), h1, State.setFlag, State.setFld_pintLevel, h2]
  rw [if_pos (by cases l <;> rfl), State.flag_setFlag_same _ _ _ (by omega)]

end Sys2Proof.Machine
end

