-- ==== Sys2Proof/Laws/RunsDma.lean ====
section
/-! SUPPORT. Where the DMA channels' commands and a register write complete, and with what (R9, R17, R388 to R401). -/

namespace Sys2Proof.Machine

variable {s : State}

/-- An envelope that is read and passes its checks is taken. -/
theorem envelopeFetch_runs (k : Fin 32) (ext : Nat) {a v : Nat} {t w : State} {e : Envelope} (h : (s.dma k).fetch = some a)
    (h0 : (s.dma k).prev = none) (h1 : s.dmaOn = true) (h2 : s.busRead (dmaMaster k) a 24 ext = (t, v, .ok)) (he : e = envOf a v)
    (hw : w = (t.setReg (Reg.DMA_CUR k) (BitVec.ofNat 32 a)).setFld (Reg.DMA_RESID k) 24 0 e.len) (h3 : w.envFails e none = []) :
    exec (.envelopeFetch k ext) s = .next (State.dmaState (w.setDma k { w.dma k with env := some e, fetch := none, progress := w.now }) k
      (if e.pace && (State.setDma w k { w.dma k with env := some e, fetch := none, progress := w.now }).fld (Reg.DMA_STAT k) 15 8 == 0
        then 2 else 1)) := by
  rw [exec_envelopeFetch, execEnvelopeFetch, h]
  dsimp only
  rw [h1, h2]
  dsimp only
  rw [if_neg (by decide), if_neg (by decide)]
  cases hb : bitOf (envOf a v).ctrl 24 <;> simp only [h0, ← he, ← hw, h3, pickFail]

/-- An envelope that fails a check is reported and ends with ECODE 4. -/
theorem envelopeFetch_refused_runs (k : Fin 32) (ext : Nat) {a v : Nat} {t w : State} {e : Envelope} {f : CfgFail}
    (h : (s.dma k).fetch = some a)
    (h0 : (s.dma k).prev = none) (h1 : s.dmaOn = true) (h2 : s.busRead (dmaMaster k) a 24 ext = (t, v, .ok)) (he : e = envOf a v)
    (hw : w = (t.setReg (Reg.DMA_CUR k) (BitVec.ofNat 32 a)).setFld (Reg.DMA_RESID k) 24 0 e.len)
    (h3 : pickFail (w.envFails e none) = some f) :
    exec (.envelopeFetch k ext) s = .next ((w.cfgFail (Reg.DMA_CFGCHK k) f).envEnd k { e with len := e.len % 2 ^ 25 } (.error 4)) := by
  rw [exec_envelopeFetch, execEnvelopeFetch, h]
  dsimp only
  rw [h1, h2]
  dsimp only
  rw [if_neg (by decide), if_neg (by decide)]
  cases hb : bitOf (envOf a v).ctrl 24 <;> simp only [h0, ← he, ← hw, h3]

/-- A burst of an unpaced envelope that is read and written without an error and neither reaches half nor the end: what is
moved and checked advances, and nothing is confirmed. -/
theorem dmaBurstReadData_runs (k : Fin 32) (ext : Nat) {e : Envelope} {t u : State} {n v : Nat} (h : (s.dma k).env = some e)
    (h1 : s.dmaOn = true) (h2 : e.err = none) (h3 : bitOf e.ctrl 17 = false) (h4 : bitOf e.ctrl 28 = false) (hn : n = e.burstBytes e.len)
    (h5 : s.burstRead (dmaMaster k) e n ext = (t, v, .ok)) (h6 : t.burstWrite (dmaMaster k) e n v = (u, .ok))
    (h7 : e.moved + n < e.len) (h8 : bitOf e.ctrl 30 = false) :
    exec (.dmaBurstReadData k ext) s = .next (State.settleAborts ((u.setDma k { u.dma k with env := some { e with
      moved := e.moved + n, check := checkBytes e.chk n e.moved e.check v, request := 0, readbacks := e.readbacks } }).dmaState k 1)) := by
  rw [exec_dmaBurstReadData, execDmaBurstReadData, h]
  simp only [h1, h2, Envelope.pace, h3, Envelope.posted, h4, h8, Bool.not_true, Option.isSome_none, Bool.false_or, Bool.false_and, Bool.or_false, decide_eq_true_eq,
    if_neg (show ¬ e.len ≤ e.moved by omega), Bool.false_eq_true, ↓reduceIte, ← hn, h5, h6, ne_eq, not_true_eq_false,
    if_neg (show ¬ e.moved + n = e.len by omega), List.append_nil]

theorem State.confirm_len (s : State) (k : Nat) (e : Envelope) (n c : Nat) : (s.confirm k e n c).2.len = e.len := by
  rw [State.confirm]

/-- The last burst of a posted envelope is confirmed at once and ends it. -/
theorem dmaBurstReadData_posted_runs (k : Fin 32) (ext : Nat) {e e' : Envelope} {t u : State} {n v : Nat}
    (h : (s.dma k).env = some e) (h1 : s.dmaOn = true) (h2 : e.err = none) (h3 : bitOf e.ctrl 17 = false) (h4 : bitOf e.ctrl 28 = true)
    (hn : n = e.burstBytes e.len) (h5 : s.burstRead (dmaMaster k) e n ext = (t, v, .ok))
    (h6 : t.burstWrite (dmaMaster k) e n v = (u, .ok)) (h7 : e.moved + n = e.len) (h8 : n ≠ 0)
    (he : e' = { e with
      moved := e.moved + n, check := checkBytes e.chk n e.moved e.check v, request := 0, err := none }) {w : State × Envelope}
    (hw : w = State.confirm (State.dmaState (u.setDma k { u.dma k with env := some e' }) k 3) k e' (e.moved + n) e'.check) :
    exec (.dmaBurstReadData k ext) s = .next (State.settleAborts (State.envEnd w.1 k w.2 .complete)) := by
  rw [exec_dmaBurstReadData, execDmaBurstReadData, h]
  simp only [h1, h2, Envelope.pace, h3, Envelope.posted, h4, Bool.not_true, Option.isSome_none, Bool.false_or, Bool.false_and, Bool.or_false, decide_eq_true_eq,
    if_neg (show ¬ e.len ≤ e.moved by omega), Bool.false_eq_true, ↓reduceIte, ← hn, h5, h6, ne_eq, not_true_eq_false,
    h7, State.confirm_len, List.append_nil, he, hw]

theorem dmaReadbackResponse_runs (k : Fin 32) {e e' : Envelope} {a n c v : Nat} {rest : List (Nat × Nat × Nat)} {t : State}
    (h : (s.dma k).env = some e) (h1 : e.readbacks = (a, n, c) :: rest) (h2 : s.dmaOn = true) (h3 : e.err = none)
    (h4 : s.busRead (dmaMaster k) a e.width 0 = (t, v, .ok)) (he : e' = { e with readbacks := rest, err := none }) {w : State × Envelope}
    (hw : w = t.confirm k e' n c) :
    exec (.dmaReadbackResponse k) s = .next (if n = e.len then State.envEnd w.1 k w.2 .complete else w.1) := by
  rw [exec_dmaReadbackResponse, execDmaReadbackResponse, h]
  simp only [h1, h2, h3, Bool.not_true, Option.isSome_none, Bool.or_self, Bool.false_eq_true, ↓reduceIte, h4, ne_eq, not_true_eq_false,
    hw]
  have e1 : e'.len = e.len := by rw [he]
  have e2 : (t.confirm k e' n c).2.len = e.len := by rw [State.confirm]; exact e1
  rw [← he]
  by_cases x : n = e.len
  · rw [if_pos (by rw [e2]; exact x), if_pos x]
  · rw [if_neg (by rw [e2]; exact x), if_neg x]

theorem dmaErrorResponse_runs (k : Fin 32) {e : Envelope} {c : Nat} (h : (s.dma k).env = some e) (h1 : e.err = some c) :
    exec (.dmaErrorResponse k) s = .next (s.envEnd k e (.error c)) := by
  rw [exec_dmaErrorResponse, execDmaErrorResponse, h]
  simp only [h1]

theorem dmaAbort_runs (k : Fin 32) (v : BitVec 32) (h : s.dmaOn = true) :
    exec (.dmaAbort k v) s = .next (s.dmaStop k v).settleAborts := by rw [exec_dmaAbort, execDmaAbort, if_pos h]

theorem dmaTimeout_runs (k : Fin 32) {e : Envelope} {r t : Nat} (h : s.dmaOn = true) (h1 : s.flag (Reg.DMA_CTL k) 0 = true)
    (h2 : s.fld (Reg.DMA_TMO k) 15 0 = t + 1) (h3 : (s.dma k).env = some e) (h4 : e.err = none)
    (h5 : r = (s.dma k).progress + (t + 1) * 400) :
    exec (.dmaTimeout k) s = .next ((s.advanceTo r).envEnd k e .timeout) := by
  rw [exec_dmaTimeout, execDmaTimeout]
  simp only [h, h1, h2, h3, h4, Bool.not_true, Bool.false_or, beq_iff_eq, Nat.add_eq_zero_iff, one_ne_zero, and_false, ↓reduceIte,
    Option.isSome_none, Bool.false_eq_true, ← h5]

theorem dmaTimeout_idle_runs (k : Fin 32) {r t : Nat} (h : s.dmaOn = true) (h1 : s.flag (Reg.DMA_CTL k) 0 = true)
    (h2 : s.fld (Reg.DMA_TMO k) 15 0 = t + 1) (h3 : (s.dma k).env = none) (h5 : r = (s.dma k).progress + (t + 1) * 400) :
    exec (.dmaTimeout k) s = .next (((s.advanceTo r).dmaFlag k 5).chainEnd k) := by
  rw [exec_dmaTimeout, execDmaTimeout]
  simp only [h, h1, h2, h3, Bool.not_true, Bool.false_or, beq_iff_eq, Nat.add_eq_zero_iff, one_ne_zero, and_false, ↓reduceIte, ← h5]

theorem registerWrite_runs (a v : BitVec 32) (m : Master) (h : isReg a.toNat = true) (h1 : a.toNat % 4 = 0) :
    exec (.registerWrite a v m) s = .next (s.write m a.toNat 4 v.toNat).1 := by
  rw [exec_registerWrite, execRegisterWrite, h, h1]
  rfl

end Sys2Proof.Machine
end

