-- ==== Sys2Proof/Laws/RunsFabric.lean ====
section
/-! SUPPORT. Where deliveries, fabric writes and the test port's commands complete, and with what: one lemma a command
(R142 to R148, R474 to R479). -/

namespace Sys2Proof.Machine

variable {s : State}

theorem eventDelivery_runs (l : List (Fin 16)) {t : Nat} (h1 : s.unitOn domSo = true) (h2 : s.flag Reg.SO_CTRL 0 = true)
    (h3 : s.nextDelivery = some t) :
    exec (.eventDelivery l) s = .next (State.deliverAll { s.advanceTo t with so := { (s.advanceTo t).so with
      flights := (s.advanceTo t).so.flights.filter fun f => f.due != t } } l
        ((s.advanceTo t).so.flights.filter fun f => f.due == t)) := by
  rw [exec_eventDelivery, execEventDelivery, h3]
  dsimp only
  rw [h1, h2]
  rfl

theorem fabricWriteLanding_runs {t : Nat} (h1 : s.clk.run = true) (h2 : s.nextLanding = some t) {u : State}
    {all : List (Nat × PortWrite)} (hu : u = (s.advanceTo t).settleSwitch)
    (ha : all = (List.range 52).flatMap fun c => ((u.cell c).writes.filter fun w => w.due == t).map fun w => (c, w)) :
    exec .fabricWriteLanding s = .next (all.foldl (fun u x => u.portLand all x.1 x.2) ((List.range 52).foldl (fun u c =>
      u.setCell c { u.cell c with writes := (u.cell c).writes.filter fun w => w.due != t }) u)) := by
  rw [exec_fabricWriteLanding, execFabricWriteLanding, h2]
  dsimp only
  rw [h1, ha, hu]
  rfl

/-! Test port. -/

theorem perturbationWrite_runs (r : PertReg) (v : BitVec 32) {w : Word}
    (hw : w = (s.store (pertAddr r).1 Reg.TP_CFGCHK false v).reg (pertAddr r).1) (h0 : w ≠ 0)
    (h1 : s.pertFails (pertAddr r).2 (((pertAddr r).1 - Reg.TP_CTRL) / 4) = []) (h2 : r = .sodly → fieldOf v 19 16 ≤ 8) :
    exec (.perturbationWrite r v) s = .next (((s.cfgOk Reg.TP_CFGCHK).setReg (pertAddr r).1 w).pertSync) := by
  have h3 : (r == PertReg.sodly && decide (8 < fieldOf v 19 16)) = false := by
    cases r <;> first | rfl | (have := h2 rfl; simp; omega)
  rw [exec_perturbationWrite, execPerturbationWrite, State.pertWrite]
  dsimp only
  rw [← hw, if_neg h0, h3, h1]
  rfl

theorem clrall_runs (v : BitVec 32) :
    exec (.clrall v) s = .next (s.setFld Reg.TP_CTRL 8 8 (fieldOf v 8 8)).pertClear := by
  have h : fieldOf (withField v 0 0 1) 8 8 = fieldOf v 8 8 := fieldOf_withField_ne _ _ (by omega) (by omega) (by omega)
  rw [exec_clrall, execClrall, State.tpCtrlWrite, h]
  rw [if_pos (bitOf_withField_one v (by omega))]

theorem controlPlaneHalt_runs (v : BitVec 32) (h1 : s.pertFails true 12 = []) (h2 : s.flag Reg.TP_DBGCTL 31 = false) :
    ∃ u w : State, exec (.controlPlaneHalt v) s = .next u ∧ u = State.pertSync ((w.debugPair 0 (withField v 31 31 1)).debugPair 1 (withField v 31 31 1)) ∧
      w = (haltGroup (fieldOf v 21 16)).foldl (fun s n => s.pwmHalt n)
        (((s.cfgOk Reg.TP_CFGCHK).setFlag Reg.TP_DBGCTL 31 true).setFld Reg.TP_DBGCTL 21 16 (fieldOf v 21 16)) := by
  have h : fieldOf (withField v 31 31 1) 21 16 = fieldOf v 21 16 := fieldOf_withField_ne _ _ (by omega) (by omega) (by omega)
  refine ⟨_, _, ?_, rfl, rfl⟩
  rw [exec_controlPlaneHalt, execControlPlaneHalt, State.dbgWrite]
  dsimp only
  rw [if_pos (bitOf_withField_one v (by omega)), h, h2, State.pertJudge, h1]
  rfl

theorem controlPlaneHaltEnd_runs (v : BitVec 32) :
    exec (.controlPlaneHaltEnd v) s = .next ((((s.haltEnd.setFld Reg.TP_DBGCTL 21 16 (fieldOf v 21 16)).pertSync).debugPair 0
      (withField v 31 31 0)).debugPair 1 (withField v 31 31 0)) := by
  have h : fieldOf (withField v 31 31 0) 21 16 = fieldOf v 21 16 := fieldOf_withField_ne _ _ (by omega) (by omega) (by omega)
  rw [exec_controlPlaneHaltEnd, execControlPlaneHaltEnd, State.dbgWrite]
  dsimp only
  rw [if_neg (by rw [bitOf_withField_zero v (by omega)]; decide), h]

/-- HALTEDp after the pair's halt, step and resume bits have been written (R477). -/
theorem State.debugPair_halted (s : State) (p : Fin 2) (v : Word) : (s.debugPair p v).halted p = bitOf v (8 * p + 2) := by
  rw [State.debugPair, State.halted]
  exact State.flag_setFlag_same _ _ _ (by omega)

theorem State.debugPair_stepArm (s : State) (p : Fin 2) (v : Word) (h : s.halted p = true) :
    nsetHas (s.debugPair p v).tp.stepArm p = (bitOf v (8 * p + 2) && bitOf v (8 * p + 3)) := by
  have h1 : ∀ (i : Nat) (b : Bool) (u : State), (u.setFlag Reg.TP_DBGCTL i b).halted p = u.halted p := fun i b u =>
    State.flag_setFlag_ne _ _ _ _ (by decide)
  rw [State.debugPair]
  dsimp only
  rw [h1, h1, h]
  cases h2 : bitOf v (8 * p + 2) <;> cases h3 : bitOf v (8 * p + 3) <;> simp [nsetHas_add, nsetHas_del]

theorem State.dbgWord_halt (s : State) (p : Fin 2) (b c : Bool) : bitOf (s.dbgWord p b c) (8 * p + 2) = b := by
  rw [State.dbgWord, bitOf_withField_ne _ _ (by omega) (by omega) (by omega), bitOf_withField _ _ (by omega)]

theorem State.dbgWord_step (s : State) (p : Fin 2) (b c : Bool) : bitOf (s.dbgWord p b c) (8 * p + 3) = c := by
  rw [State.dbgWord, bitOf_withField _ _ (by omega)]

theorem debugHalt_runs (p : Fin 2) : ∃ u, exec (.debugHalt p) s = .next u ∧ u.halted p = true := by
  rw [exec_debugHalt, execDebugHalt]
  exact ⟨_, rfl, by rw [State.debugPair_halted, State.dbgWord_halt]⟩

theorem debugStep_runs (p : Fin 2) (h : s.halted p = true) :
    ∃ u, exec (.debugStep p) s = .next u ∧ u.halted p = true ∧ nsetHas u.tp.stepArm p = true := by
  rw [exec_debugStep, execDebugStep, if_pos h]
  refine ⟨_, rfl, by rw [State.debugPair_halted, State.dbgWord_halt], ?_⟩
  rw [State.debugPair_stepArm _ _ _ h, State.dbgWord_halt, State.dbgWord_step]
  rfl

theorem debugResume_runs (p : Fin 2) : ∃ u, exec (.debugResume p) s = .next u ∧ u.halted p = false := by
  rw [exec_debugResume, execDebugResume]
  exact ⟨_, rfl, by rw [State.debugPair_halted, State.dbgWord_halt]⟩

theorem State.pertSync_tp (s : State) : s.pertSync.tp = s.tp := rfl
theorem State.pertSync_mismCell (s : State) : s.pertSync.mismCell = s.mismCell := rfl

theorem mismP0_runs (h : s.pertFails false 8 = []) : ∃ u, exec .mismP0 s = .next u ∧ nsetHas u.tp.mismPair 0 = true := by
  rw [exec_mismP0, execMismP0, State.mismArm, State.pertJudge, h]
  dsimp only [pickFail]
  refine ⟨_, rfl, ?_⟩
  rw [State.pertSync_tp]
  dsimp only
  rw [nsetHas_add]
  simp

theorem mismP1_runs (h : s.pertFails false 8 = []) : ∃ u, exec .mismP1 s = .next u ∧ nsetHas u.tp.mismPair 1 = true := by
  rw [exec_mismP1, execMismP1, State.mismArm, State.pertJudge, h]
  dsimp only [pickFail]
  refine ⟨_, rfl, ?_⟩
  rw [State.pertSync_tp]
  dsimp only
  rw [nsetHas_add]
  simp

theorem mismCell_runs (c : BitVec 6) (h : s.pertFails true 8 = []) (h1 : c.toNat < 52) (h2 : s.paired c.toNat = true) :
    ∃ u, exec (.mismCell c) s = .next u ∧ nsetHas u.mismCell c.toNat = true := by
  rw [exec_mismCell, execMismCell, State.mismCellArm]
  try dsimp only
  rw [decide_eq_true h1, h2, h, State.pertJudge, show pickFail ([] ++ failIf (!(true && true)) 0xE1 9) = none from rfl]
  dsimp only
  refine ⟨_, rfl, ?_⟩
  rw [State.pertSync_mismCell]
  dsimp only
  rw [nsetHas_add]
  simp

theorem State.injectEcc_page (s : State) (n : Nat) {cp : Bool} (h0 : s.injPage (s.reg Reg.TP_INJADR).toNat cp)
    (h1 : s.pertFails cp 8 = []) :
    ∃ u : State, u = s.cfgOk Reg.TP_CFGCHK ∧ s.injectEcc n = State.pertSync (if n = 0 then
      (List.range (u.strength (s.reg Reg.TP_INJADR).toNat + 1)).foldl (fun s' i =>
        s'.flipOpen ((s.reg Reg.TP_INJADR).toNat / 256 * 256 + 8 * i) 64 1) u else u.flipOpen (s.reg Reg.TP_INJADR).toNat 64 n) := by
  refine ⟨_, rfl, ?_⟩
  rw [State.injectEcc]
  obtain ⟨⟨h2, rfl⟩ | ⟨h2, rfl⟩, h3⟩ := h0
  all_goals
    dsimp only
    rw [h2, h3]
    dsimp only
    rw [State.pertJudge, h1]
    rfl

theorem State.injectEcc_word (s : State) (n : Nat) (hn : n ≠ 0) {cp : Bool} (h0 : injWord (s.reg Reg.TP_INJADR).toNat cp)
    (h1 : s.pertFails cp 8 = []) :
    s.injectEcc n = ((s.cfgOk Reg.TP_CFGCHK).flipOpen (s.reg Reg.TP_INJADR).toNat 32 n).pertSync := by
  rw [State.injectEcc]
  obtain ⟨⟨k, h2⟩, rfl⟩ | ⟨⟨c, off, h2, h3⟩, rfl⟩ := h0
  · dsimp only
    rw [h2]
    simp only [hn, bne_iff_ne, ne_eq, not_false_eq_true, Bool.true_and, Bool.or_self, Bool.false_or, State.pertJudge, h1,
      decide_true, Bool.not_true, failIf, Bool.false_and, Bool.false_eq_true, ↓reduceIte, List.append_nil, pickFail]
    simp [hn, pickFail]
  · have h4 : (decide (off < 0x2000) || (decide (0x4000 ≤ off) && decide (off < 0x6000))) = true := by
      rcases h3 with h | h <;> simp [h]
    dsimp only
    rw [h2]
    dsimp only
    rw [h4, State.pertJudge, h1]
    simp [hn, pickFail, failIf]

theorem ecc1_runs {cp : Bool} (h0 : s.injPage (s.reg Reg.TP_INJADR).toNat cp) (h1 : s.pertFails cp 8 = []) :
    exec .ecc1 s = .next ((s.cfgOk Reg.TP_CFGCHK).flipOpen (s.reg Reg.TP_INJADR).toNat 64 1).pertSync := by
  obtain ⟨u, rfl, h⟩ := s.injectEcc_page 1 h0 h1
  rw [exec_ecc1, execEcc1, h, if_neg (by omega)]

theorem ecc1_word_runs {cp : Bool} (h0 : injWord (s.reg Reg.TP_INJADR).toNat cp) (h1 : s.pertFails cp 8 = []) :
    exec .ecc1 s = .next ((s.cfgOk Reg.TP_CFGCHK).flipOpen (s.reg Reg.TP_INJADR).toNat 32 1).pertSync := by
  rw [exec_ecc1, execEcc1, s.injectEcc_word 1 (by decide) h0 h1]

theorem ecc2_runs {cp : Bool} (h0 : s.injPage (s.reg Reg.TP_INJADR).toNat cp) (h1 : s.pertFails cp 8 = []) :
    exec .ecc2 s = .next ((s.cfgOk Reg.TP_CFGCHK).flipOpen (s.reg Reg.TP_INJADR).toNat 64 2).pertSync := by
  obtain ⟨u, rfl, h⟩ := s.injectEcc_page 2 h0 h1
  rw [exec_ecc2, execEcc2, h, if_neg (by omega)]

theorem ecc2_word_runs {cp : Bool} (h0 : injWord (s.reg Reg.TP_INJADR).toNat cp) (h1 : s.pertFails cp 8 = []) :
    exec .ecc2 s = .next ((s.cfgOk Reg.TP_CFGCHK).flipOpen (s.reg Reg.TP_INJADR).toNat 32 2).pertSync := by
  rw [exec_ecc2, execEcc2, s.injectEcc_word 2 (by decide) h0 h1]

theorem eccpage_runs {cp : Bool} (h0 : s.injPage (s.reg Reg.TP_INJADR).toNat cp) (h1 : s.pertFails cp 8 = []) :
    exec .eccpage s = .next (State.pertSync ((List.range ((s.cfgOk Reg.TP_CFGCHK).strength (s.reg Reg.TP_INJADR).toNat + 1)).foldl
      (fun s' i => s'.flipOpen ((s.reg Reg.TP_INJADR).toNat / 256 * 256 + 8 * i) 64 1) (s.cfgOk Reg.TP_CFGCHK))) := by
  obtain ⟨u, rfl, h⟩ := s.injectEcc_page 0 h0 h1
  rw [exec_eccpage, execEccpage, h, if_pos rfl]

theorem bypass_runs : exec .bypass s = .next { s with tp := { s.tp with tap := { s.tp.tap with ir := .bypass, dr := 0, refused := false } } } := rfl

theorem samplePreload_runs (a b : Nat) : exec (.samplePreload a b) s = .next { s with tp := { s.tp with tap := { s.tp.tap with
    ir := .samplePreload, dr := a, refused := false, boundary := b } } } := rfl

theorem extest_runs (h1 : s.phase = 3 ∨ s.phase = 4) (h2 : s.lowestPwm = none) :
    exec .extest s = .next { s with tp := { s.tp with tap := { s.tp.tap with
      ir := .extest, dr := s.tp.tap.boundary, refused := false } } } := by
  have h3 : (s.phase == 3 || s.phase == 4) = true := by rcases h1 with h | h <;> rw [h] <;> rfl
  rw [exec_extest, execExtest, h3, h2]
  rfl

theorem idcode_runs : exec .idcode s = .next { s with tp := { s.tp with tap := { s.tp.tap with
    ir := .idcode, dr := 0x19648A2B, refused := false } } } := rfl

theorem dbgacc_runs : exec .dbgacc s = .next { s with tp := { s.tp with tap := { s.tp.tap with
    ir := .dbgacc, dr := 0, refused := false } } } := rfl

theorem tapReset_runs : exec .tapReset s = .next { s with tp := { s.tp with tap := {} } } := rfl

end Sys2Proof.Machine
end

