-- ==== Sys2Proof/Laws/RunsFlash.lean ====
section
/-! SUPPORT. Where the commands of the code flash and the ledger service complete, and with what: one lemma a command
(R365 to R386). -/

namespace Sys2Proof.Machine

variable {s : State}

/-- A flash command whose checks pass. -/
theorem State.flashCmd_ok (s : State) (v : Word) (op : Nat) (f : State → Nat → Nat → State)
    (h : s.flashFails op (fieldOf v 8 8) (s.fld Reg.FC_ADDR 22 0) = []) :
    s.flashCmd v op f = f (s.cfgOk Reg.FC_CFGCHK) (fieldOf v 8 8) (s.fld Reg.FC_ADDR 22 0) := by
  rw [State.flashCmd, h]
  rfl

theorem flashProgram_runs (v : BitVec 32) {t : Nat} {u : State}
    (h : s.flashFails 1 (fieldOf v 8 8) (s.fld Reg.FC_ADDR 22 0) = [])
    (ha : (s.cfgOk Reg.FC_CFGCHK).arbRequest 6 (fieldOf v 8 8) = (.accepted t, u)) :
    exec (.flashProgram v) s = .next ((u.setBank (fieldOf v 8 8) { u.bank (fieldOf v 8 8) with
      op := some ⟨false, s.fld Reg.FC_ADDR 22 0, t, false, false⟩ }).flashGrant (fieldOf v 8 8)) := by
  rw [exec_flashProgram, execFlashProgram, s.flashCmd_ok v 1 _ h, State.flashRequest, if_neg (by decide), ha]

theorem flashErase_runs (v : BitVec 32) {t : Nat} {u : State}
    (h : s.flashFails 2 (fieldOf v 8 8) (s.fld Reg.FC_ADDR 22 0) = [])
    (ha : (s.cfgOk Reg.FC_CFGCHK).arbRequest 5 (fieldOf v 8 8) = (.accepted t, u)) :
    exec (.flashErase v) s = .next ((u.setBank (fieldOf v 8 8) { u.bank (fieldOf v 8 8) with
      op := some ⟨true, s.fld Reg.FC_ADDR 22 0, t, false, false⟩ }).flashGrant (fieldOf v 8 8)) := by
  rw [exec_flashErase, execFlashErase, s.flashCmd_ok v 2 _ h, State.flashRequest, if_pos rfl, ha]

theorem flashProgramDone_runs (b : Fin 2) {o : FlashOp} (h : (s.bank b).op = some o) (h1 : o.erase = false) (h2 : o.started = true) :
    exec (.flashProgramDone b true) s = .next ((((List.range 128).foldl (fun u i =>
      u.setWord (flashAddr b o.target + 4 * i) (u.reg (Reg.FC_PBUF b i))) s).setIntent b 0).flashEnd b) := by
  rw [exec_flashProgramDone, execFlashProgramDone, h]
  dsimp only
  rw [h1, h2]
  rfl

theorem flashProgramDone_failed_runs (b : Fin 2) {o : FlashOp} (h : (s.bank b).op = some o) (h1 : o.erase = false)
    (h2 : o.started = true) :
    ∃ u : State, exec (.flashProgramDone b false) s = .next ((u.setIntent b 0).flashEnd b) ∧ u.flag (Reg.FC_STAT b) 3 = true := by
  rw [exec_flashProgramDone, execFlashProgramDone, h]
  dsimp only
  rw [h1, h2]
  exact ⟨_, rfl, State.flag_setFlag_same _ _ _ (by omega)⟩

theorem flashEraseDone_runs (b : Fin 2) {o : FlashOp} (h : (s.bank b).op = some o) (h1 : o.erase = true)
    (h2 : s.fld (Reg.FC_STAT b) 31 30 = 2) :
    exec (.flashEraseDone b true) s = .next ((((s.sectorWipe b o.target).setSector b (o.target / 65536) 0).setIntent b 0).flashEnd b) := by
  rw [exec_flashEraseDone, execFlashEraseDone, h]
  dsimp only
  rw [h1, h2]
  rfl

theorem flashEraseDone_failed_runs (b : Fin 2) {o : FlashOp} (h : (s.bank b).op = some o) (h1 : o.erase = true)
    (h2 : s.fld (Reg.FC_STAT b) 31 30 = 2) :
    ∃ u : State, exec (.flashEraseDone b false) s = .next ((u.setIntent b 0).flashEnd b) ∧ u.flag (Reg.FC_STAT b) 4 = true := by
  rw [exec_flashEraseDone, execFlashEraseDone, h]
  dsimp only
  rw [h1, h2]
  exact ⟨_, rfl, State.flag_setFlag_same _ _ _ (by omega)⟩

@[simp] theorem State.bank_setBank_same (s : State) (b : Nat) (r : FlashBank) : (s.setBank b r).bank b = r := mapGet_set_same _ _ _ _

theorem flashSuspend_runs (v : BitVec 32) {o : FlashOp} (h : s.flashFails 3 (fieldOf v 8 8) (s.fld Reg.FC_ADDR 22 0) = [])
    (h1 : (s.bank (fieldOf v 8 8)).op = some o) :
    ∃ u, exec (.flashSuspend v) s = .next u ∧ (u.bank (fieldOf v 8 8)).op = some { o with stopping := true } := by
  have e : (s.cfgOk Reg.FC_CFGCHK).bank (fieldOf v 8 8) = s.bank (fieldOf v 8 8) := rfl
  rw [exec_flashSuspend, execFlashSuspend, s.flashCmd_ok v 3 _ h, e, h1]
  exact ⟨_, rfl, by rw [State.bank_setBank_same]; rfl⟩

theorem eraseSuspended_runs (b : Fin 2) {o : FlashOp} (h : (s.bank b).op = some o) (h1 : o.stopping = true) :
    ∃ u, exec (.eraseSuspended b) s = .next u ∧ u.fld (Reg.FC_STAT b) 31 30 = 3 := by
  rw [exec_eraseSuspended, execEraseSuspended, h]
  dsimp only
  rw [h1]
  exact ⟨_, rfl, (State.fld_setFld_same _ _ _ (by omega) (by omega)).trans (by decide)⟩

theorem flashResume_runs (v : BitVec 32) (h : s.flashFails 4 (fieldOf v 8 8) (s.fld Reg.FC_ADDR 22 0) = []) :
    ∃ u, exec (.flashResume v) s = .next u ∧ u.fld (Reg.FC_STAT (fieldOf v 8 8)) 31 30 = 2 := by
  rw [exec_flashResume, execFlashResume, s.flashCmd_ok v 4 _ h]
  exact ⟨_, rfl, (State.fld_setFld_same _ _ _ (by omega) (by omega)).trans (by decide)⟩

theorem flashAckrecov_runs (v : BitVec 32) (h : s.flashFails 5 (fieldOf v 8 8) (s.fld Reg.FC_ADDR 22 0) = []) :
    ∃ u, exec (.flashAckrecov v) s = .next u ∧ u.reg (Reg.FC_RECOV (fieldOf v 8 8)) = 0 ∧ u.reg (Reg.FC_RISK (fieldOf v 8 8)) = 0 ∧
      u.flag (Reg.FC_STAT (fieldOf v 8 8)) 7 = false := by
  have hb : fieldOf v 8 8 < 2 := by rw [fieldOf]; omega
  rw [exec_flashAckrecov, execFlashAckrecov, s.flashCmd_ok v 5 _ h]
  generalize fieldOf v 8 8 = b at *
  have e1 : Reg.FC_RECOV b ≠ Reg.FC_STAT b := by simp only [Reg.FC_RECOV, Reg.FC_STAT]; omega
  have e2 : Reg.FC_RECOV b ≠ Reg.FC_RISK b := by simp only [Reg.FC_RECOV, Reg.FC_RISK]; omega
  have e3 : Reg.FC_RISK b ≠ Reg.FC_STAT b := by simp only [Reg.FC_STAT, Reg.FC_RISK]; omega
  refine ⟨_, rfl, ?_, ?_, ?_⟩
  · rw [State.ackRecov, State.setFlag, State.reg_setFld_ne _ _ _ _ e1, State.reg_setReg_ne _ _ e2, State.reg_setReg_same]
  · rw [State.ackRecov, State.setFlag, State.reg_setFld_ne _ _ _ _ e3, State.reg_setReg_same]
  · rw [State.ackRecov, State.flag_setFlag_same _ _ _ (by omega)]

theorem fcCtrlWrite_runs (v : BitVec 32) (h0 : fieldOf v 17 16 ≠ 0) (h1 : fieldOf v 19 18 ≠ 0)
    (h2 : waitStates (s.fld Reg.PM_OPSTAT 1 0) s.vddCode ≤ fieldOf v 3 0)
    (h3 : fieldOf v 17 16 = s.fld Reg.FC_CTRL 17 16) (h4 : fieldOf v 19 18 = s.fld Reg.FC_CTRL 19 18) :
    exec (.fcCtrlWrite v) s = .next ((s.setReg Reg.FC_CTRL (v &&& 0x000F010F)).cfgOk Reg.FC_CFGCHK) := by
  have e1 : (fieldOf v 17 16 == 0 || fieldOf v 19 18 == 0) = false := by simp [h0, h1]
  have e2 : decide (fieldOf v 3 0 < waitStates (s.fld Reg.PM_OPSTAT 1 0) s.vddCode) = false := by simp; omega
  have e3 : (fieldOf v (17 + 2 * 0) (16 + 2 * 0) != s.fld Reg.FC_CTRL (17 + 2 * 0) (16 + 2 * 0)) = false := bne_eq_false_iff_eq.2 h3
  have e4 : (fieldOf v (17 + 2 * 1) (16 + 2 * 1) != s.fld Reg.FC_CTRL (17 + 2 * 1) (16 + 2 * 1)) = false := bne_eq_false_iff_eq.2 h4
  rw [exec_fcCtrlWrite, execFcCtrlWrite, State.fcCtrlWrite]
  simp only [e1, e2, e3, e4, failIf, Bool.false_and, Bool.or_self, Bool.false_eq_true, ↓reduceIte, List.append_nil, pickFail]

theorem fcXoWrite_runs (k : Fin 16) (v : BitVec 32) (h1 : s.flag (Reg.FC_XO k) 30 = false)
    (h2 : bitOf v 31 = true → fieldOf v 22 16 ≤ fieldOf v 6 0) :
    exec (.fcXoWrite k v) s = .next ((s.setReg (Reg.FC_XO k) (v &&& 0xC17F007F)).cfgOk Reg.FC_CFGCHK) := by
  have h3 : (bitOf v 31 && decide (fieldOf v 6 0 < fieldOf v 22 16)) = false := by
    cases h : bitOf v 31 with
    | false => rfl
    | true => have := h2 h; simp; omega
  rw [exec_fcXoWrite, execFcXoWrite, State.xoWrite, h1, h3]
  rfl

theorem sectorRemap_runs (b : Fin 2) (k : Fin 128) (h : (s.repairs.sectors.filter fun p => p.1 / 0x1000 == b.val).length < 8) :
    ∃ u, exec (.sectorRemap b k) s = .next (State.sparesSync (State.repairCommit u)) ∧ mapGet 0 u.repairs.sectors (0x1000 * b.val +
      (s.repairs.sectors.filter fun p => p.1 / 0x1000 == b.val).length) = k ∧ (u.bank b).buf = none := by
  rw [exec_sectorRemap, execSectorRemap]
  dsimp only
  rw [if_neg (by omega)]
  refine ⟨_, rfl, ?_, ?_⟩
  · exact mapGet_insert_same _ _ _ _
  · rw [State.bank_setBank_same]

/-! The ledger service. -/

theorem ledgerCommit_runs (v : BitVec 32) (h1 : s.flag Reg.LG_STAT 0 = false) (h2 : fieldOf v 13 8 ≠ 0) (h3 : fieldOf v 13 8 ≠ 63) :
    ∃ u w : State, ∃ r, s.setRecord (fieldOf v 23 16) = (w, r) ∧ exec (.ledgerCommit v) s = .next u ∧ u.flag Reg.LG_STAT 0 = true ∧
      u.flash.ledger = some ⟨false, fieldOf v 23 16, (match r with | some (k, _) => 1 - k | none => 0), fieldOf v 13 8,
        (match r with | some (_, p) => (p + 1) % 65536 | none => 1), w.now, 0⟩ := by
  rw [exec_ledgerCommit, execLedgerCommit, State.ledgerCommit, h1]
  have e : pickFail (failIf false 0x01 0 ++ failIf (fieldOf v 13 8 == 0 || fieldOf v 13 8 == 63) 0x8A 0) = none := by
    simp [failIf, h2, h3, pickFail]
  dsimp only
  rw [e]
  dsimp only
  obtain ⟨w, r⟩ := s.setRecord (fieldOf v 23 16)
  refine ⟨_, w, r, rfl, rfl, State.flag_setFlag_same _ _ _ (by omega), ?_⟩
  rw [State.setFlag_flash]
  cases r <;> rfl

theorem ledgerRead_runs (v : BitVec 32) {w : State} {k p : Nat} (h1 : s.flag Reg.LG_STAT 0 = false)
    (h2 : s.setRecord (fieldOf v 23 16) = (w, some (k, p))) :
    ∃ u, exec (.ledgerRead v) s = .next u ∧ u.flag Reg.LG_STAT 0 = true ∧ u.flash.ledger = some ⟨true, fieldOf v 23 16, k,
      setLen (w.dword (slotAddr (fieldOf v 23 16) k)), p, w.now, 0⟩ := by
  rw [exec_ledgerRead, execLedgerRead, State.ledgerRead, h1, if_neg (by decide)]
  dsimp only
  rw [h2]
  exact ⟨_, rfl, State.flag_setFlag_same _ _ _ (by omega), rfl⟩

theorem ledgerCommandDone_runs {o : LedgerOp} (h : s.flash.ledger = some o) :
    ∃ u : State, exec .ledgerCommandDone s = .next (State.pulseLine u 404) ∧ u.flash.ledger = none ∧
      u.fld Reg.LG_STAT 31 16 = o.pm % 2 ^ 16 ∧ u.fld Reg.LG_STAT 15 8 = o.len % 2 ^ 8 ∧ u.flag Reg.LG_STAT 0 = false ∧
      u.flag Reg.LG_STAT 1 = true := by
  rw [exec_ledgerCommandDone, execLedgerCommandDone, h]
  dsimp only
  generalize (if o.read = true then _ else _ : State) = w
  refine ⟨_, rfl, ?_, ?_, ?_, ?_, ?_⟩
  · rw [State.setFlag_flash, State.setFlag_flash, State.setFld_flash, State.setFld_flash]
  · rw [State.fld, State.setFlag, State.setFld, State.reg_setReg_same]
    rw [fieldOf_withField_ne _ _ (by omega) (by omega) (by omega), ← State.fld, State.setFlag,
      State.fld_setFld_disjoint _ _ _ (by omega) (by omega) (by omega), State.fld_setFld_disjoint _ _ _ (by omega) (by omega) (by omega),
      State.fld_setFld_same _ _ _ (by omega) (by omega)]
  · rw [State.fld, State.setFlag, State.setFld, State.reg_setReg_same]
    rw [fieldOf_withField_ne _ _ (by omega) (by omega) (by omega), ← State.fld, State.setFlag,
      State.fld_setFld_disjoint _ _ _ (by omega) (by omega) (by omega), State.fld_setFld_same _ _ _ (by omega) (by omega)]
  · rw [State.flag_setFlag_disjoint _ _ _ (by omega) (by omega), State.flag_setFlag_same _ _ _ (by omega)]
  · rw [State.flag_setFlag_same _ _ _ (by omega)]

theorem ledgerDirectWrite_runs (a : BitVec 32) (n : Fin 6) (v : BitVec 256) (m : Bool) (h : regionOf a.toNat = .ledger) :
    exec (.ledgerDirectWrite a n v m) s = .next (s.ledgerWrite (a.toNat / 2 ^ n.val * 2 ^ n.val) (2 ^ n.val)
      (v.toNat % 2 ^ (8 * 2 ^ n.val)) m).1 := by
  rw [exec_ledgerDirectWrite, execLedgerDirectWrite, h]

end Sys2Proof.Machine
end

