-- ==== Sys2Proof/Laws/RunsLinks.lean ====
section
/-! SUPPORT. Where the commands of the letterboxes, the host port's registers, the MACs, the CAN and serial ports and PCI
Express complete, and with what: one lemma a command (R451 to R473). -/

namespace Sys2Proof.Machine

variable {s : State}

theorem State.setLine_rings (s : State) (l : Nat) (b : Bool) : (s.setLine l b).rings = s.rings := by
  rw [State.setLine]
  repeat' split
  all_goals rfl

theorem State.msixSync_rings (s : State) : s.msixSync.rings = s.rings := by
  rw [State.msixSync]
  refine foldl_keep (fun s : State => s.rings) _ ?_ _ _
  intro s x
  dsimp only
  split
  · rfl
  · split <;> rfl

theorem State.lbxSync_rings (s : State) (k : Nat) : (s.lbxSync k).rings = s.rings := by
  rw [State.lbxSync]
  dsimp only
  rw [State.msixSync_rings, State.setLine_rings, State.setLine_rings]
  refine foldl_keep (fun s : State => s.rings) _ ?_ _ _
  intro s x
  split <;> rfl

/-- A letterbox's ring holds what is put in it. -/
theorem State.setRing_ring (s : State) (k d : Nat) (r : Ring) : (s.setRing k d r).ring k d = r := by
  rw [State.ring, State.setRing, State.lbxSync_rings]
  exact mapGet_set_same ({} : Ring) s.rings (2 * k + d) r

/-- A post number later than the last sent is queued; the numbers it leaps over are counted as lost. -/
theorem letterboxPost_runs (k : Fin 32) (d : Fin 2) (p : BitVec 16) (h : (s.unitOn domHost && s.lbxEn k) = true)
    (h1 : postLater p.toNat (s.fld (Reg.LBX_PM k d) 31 16) = true) (h2 : (s.ring k d).msgs.length < 64) {lost : Nat}
    (h3 : lost = (p.toNat + 65536 - s.fld (Reg.LBX_PM k d) 31 16 + 65535) % 65536) {v : DWord}
    (h4 : v = BitVec.ofNat 64 (2 ^ 32 * (s.reg (Reg.LBX_TXHI k d)).toNat + (s.reg (Reg.LBX_TXLO k d)).toNat)) :
    ∃ t, exec (.letterboxPost k d p) s = .next t ∧ (t.ring k d).msgs = (s.ring k d).msgs ++ [(p.toNat, v)] ∧
      t = (((if lost = 0 then s else (s.lbxFlag k d 2).satAdd (Reg.LBX_CNT k) 31 24 lost).setFld (Reg.LBX_PM k d) 31 16
        p.toNat).setRing k d ⟨(s.ring k d).msgs ++ [(p.toNat, v)]⟩) := by
  refine ⟨_, ?_, ?_, rfl⟩
  · rw [exec_letterboxPost, execLetterboxPost, State.lbxPost, h, h4, h3]
    simp only [Bool.not_true, Bool.false_eq_true, ↓reduceIte, h1, if_neg (show ¬ 64 ≤ (s.ring k d).msgs.length by omega)]
    split
    · rfl
    · rw [State.lbxFlag, State.setFlag, State.satAdd, State.reg_setFld_ne, State.reg_setFld_ne, State.reg_setFld_ne, State.reg_setFld_ne]
      all_goals (simp only [Reg.LBX_TXHI, Reg.LBX_TXLO, Reg.LBX_STAT, Reg.LBX_CNT]; omega)
  · rw [State.setRing_ring]

/-- A message whose post number waits is taken with all before it. -/
theorem letterboxAck_runs (k : Fin 32) (d : Fin 2) (p : BitVec 16) (h : (s.unitOn domHost && s.lbxEn k) = true)
    (h1 : (s.ring k d).msgs.any (fun q => q.1 == p.toNat) = true) :
    ∃ t, exec (.letterboxAck k d p) s = .next t ∧
      (t.ring k d).msgs = ((s.ring k d).msgs.dropWhile fun q => q.1 != p.toNat).drop 1 := by
  rw [exec_letterboxAck, execLetterboxAck, State.lbxAck, h]
  simp only [Bool.not_true, Bool.false_eq_true, ↓reduceIte, h1]
  exact ⟨_, rfl, by rw [State.setRing_ring]⟩

theorem letterboxEnable_runs (k : Fin 32) (v : BitVec 32) (h : s.unitOn domHost = true)
    (h1 : s.flag (Reg.LBX_CFG k) 0 = false) (h2 : bitOf v 0 = true)
    (h3 : (s.store (Reg.LBX_CFG k) Reg.LBX_CFGCHK false (withField v 0 0 0)).lbxFails k = []) :
    exec (.letterboxEnable k v) s = .next ((s.enabled (Reg.LBX_CFG k) Reg.LBX_CFGCHK 0 v).lbxSync k) := by
  rw [exec_letterboxEnable, execLetterboxEnable, State.lbxCfgWrite, State.whenOn_on _ _ _ _ h,
    State.unitWrite_enable s _ _ _ _ (fun s => s.lbxFails k) _ _ _ _ h1 h2 h3]
  rfl

theorem hostPortEnable_runs (v : BitVec 32) (h : s.unitOn domHost = true) (h1 : s.flag Reg.HP_CTRL 0 = false)
    (h2 : bitOf v 0 = true) :
    exec (.hostPortEnable v) s = .next (s.enabled Reg.HP_CTRL Reg.HP_CFGCHK 0 v) := by
  rw [exec_hostPortEnable, execHostPortEnable, State.hpCtrlWrite, State.whenOn_on _ _ _ _ h,
    State.unitWrite_enable s _ _ _ _ (fun _ => []) _ _ _ _ h1 h2 rfl]
  rfl

/-- A window of kind NONE, MEMORY or MIRROR needs no check of its target. -/
theorem hostWindowWrite_runs (n : Fin 256) (v : BitVec 32) (h : s.unitOn domHost = true) (h1 : fieldOf v 2 0 < 3) :
    exec (.hostWindowWrite n v true) s = .next ((s.setReg (Reg.HP_WIN n) (v &&& 0xFFFC0007)).cfgOk Reg.HP_CFGCHK) := by
  rw [exec_hostWindowWrite, execHostWindowWrite, if_pos h, State.hpWinWrite]
  have e1 : decide (5 ≤ fieldOf v 2 0) = false := decide_eq_false (by omega)
  have e2 : (fieldOf v 2 0 == 4) = false := beq_eq_false_iff_ne.mpr (by omega)
  have e3 : (fieldOf v 2 0 == 3) = false := beq_eq_false_iff_ne.mpr (by omega)
  simp only [Bool.not_true, Bool.false_eq_true, ↓reduceIte, e1, e2, e3, Bool.false_and, failIf, List.append_nil, pickFail]

theorem hostWindowWrite_other_runs (n : Fin 256) (v : BitVec 32) (h : s.unitOn domHost = true) :
    exec (.hostWindowWrite n v false) s = .next (s.setFlag Reg.HP_STAT 4 true) := by
  rw [exec_hostWindowWrite, execHostWindowWrite, if_pos h, State.hpWinWrite]
  rfl

theorem resync_runs (h : s.hpOn = true) : exec .resync s = .next (s.setFlag Reg.HP_STAT 6 false) := by
  rw [exec_resync, execResync, if_pos h, State.resync]

theorem hostWrite_runs (ha : BitVec 24) (be : BitVec 4) (data : BitVec 32) (h : s.hpOn = true)
    (h1 : ¬ (s.fld (Reg.HP_WIN (ha.toNat / 65536)) 2 0 = 2 ∧ ha.toNat % 65536 = 0x0304)) (h2 : s.flag Reg.HP_STAT 6 = false)
    (h3 : s.hp.queue.length < 64) :
    exec (.hostWrite ha be data) s = .next (s.setHpq (s.hp.queue ++ [HostWrite.mk ha.toNat be.toNat data])) := by
  have e : (s.fld (Reg.HP_WIN (ha.toNat / 65536)) 2 0 == 2 && ha.toNat % 65536 == 0x0304) = false := by
    rw [Bool.eq_false_iff]
    intro x
    simp only [Bool.and_eq_true, beq_iff_eq] at x
    exact h1 x
  rw [exec_hostWrite, execHostWrite, h]
  dsimp only
  rw [e, h2]
  simp only [Bool.not_true, Bool.false_eq_true, ↓reduceIte, Bool.false_or, decide_eq_true_eq,
    if_neg (show ¬ 64 ≤ s.hp.queue.length by omega)]

theorem macTimeAdjust_runs (m : Fin 2) (lo hi : BitVec 32) (h : s.unitOn (0x30 + m) = true) :
    ∃ t, exec (.macTimeAdjust m lo hi) s = .next t ∧
      (t.mac m).ofs = s.macOfs m s.now + 2 ^ 16 * signedOf 64 (2 ^ 32 * hi.toNat + lo.toNat) ∧ (t.mac m).at' = s.now := by
  have e : ∀ (s : State) (r : Mac), (s.setMac m r).mac m = r := fun s r => mapGet_set_same ({} : Mac) s.macs m r
  refine ⟨_, by rw [exec_macTimeAdjust, execMacTimeAdjust, if_pos h], ?_, ?_⟩
  · rw [State.tadjHiWrite]
    dsimp only
    rw [e, State.macSync, e, State.tadjLoWrite, State.macOfs, e]
    rfl
  · rw [State.tadjHiWrite]
    dsimp only
    rw [e, State.macSync, e]
    rfl

theorem macTargetTime_runs (m : Fin 2) (t : Fin 4) {g : Nat} (h : s.macTarget m t = some g)
    (h1 : s.unitOn (0x30 + m) = true) (h2 : nsetHas (s.mac m).reached t = false) {u : State}
    (h3 : u = s.advanceTo (s.targetEdge m g)) :
    exec (.macTargetTime m t) s = .next (State.raiseNow (u.setMac m { u.mac m with
      reached := nsetAdd (u.mac m).reached t (t + 1), pulse := mapSet 0 (u.mac m).pulse t (u.now + 8) })
        (0x760 + 4 * m.val + t.val)) := by
  rw [exec_macTargetTime, execMacTargetTime, h]
  dsimp only
  rw [h1, h2, h3]
  rfl

theorem targetTimePulseEnd_runs (m : Fin 2) (t : Fin 4) {e : Nat} (h : mapGet 0 (s.mac m).pulse t = e + 1) {u : State}
    (h3 : u = s.advanceTo (e + 1)) :
    exec (.targetTimePulseEnd m t) s = .next (u.setMac m { u.mac m with pulse := mapErase (u.mac m).pulse t }) := by
  rw [exec_targetTimePulseEnd, execTargetTimePulseEnd, h, h3]
  rfl

/-- A good frame pulses the receive line, and an event message is stamped. -/
theorem frameReceive_runs (m : Fin 2) (len : Nat) (event : Bool) (h : s.unitOn (0x30 + m) = true) (h1 : len ≤ 9216)
    {u : State} (h2 : u = s.pulseLine (168 + 4 * m)) :
    exec (.frameReceive m len event false) s = .next (if event then
      (u.setMac m { u.mac m with rxStamp := u.now }).pulseLine (170 + 4 * m) else u) := by
  rw [exec_frameReceive, execFrameReceive, h, Bool.not_true, if_neg (by decide), Bool.false_or,
    if_neg (by rw [decide_eq_true_eq]; omega), h2]
  cases event <;> rfl

/-- A bad or oversized frame pulses the error line only. -/
theorem frameReceive_bad_runs (m : Fin 2) (len : Nat) (event bad : Bool) (h : s.unitOn (0x30 + m) = true)
    (h1 : bad = true ∨ 9216 < len) : exec (.frameReceive m len event bad) s = .next (s.pulseLine (171 + 4 * m)) := by
  rw [exec_frameReceive, execFrameReceive, h, Bool.not_true, if_neg (by decide), if_pos (by
    rcases h1 with e | e
    · rw [e]; rfl
    · rw [decide_eq_true e, Bool.or_true])]

theorem frameTransmit_runs (m : Fin 2) (q : Fin 8) (event : Bool) (h : s.unitOn (0x30 + m) = true)
    {u : State} (h2 : u = s.pulseLine (169 + 4 * m)) :
    exec (.frameTransmit m q event) s = .next (if event then
      (u.setMac m { u.mac m with txStamp := u.now }).pulseLine (170 + 4 * m) else u) := by
  rw [exec_frameTransmit, execFrameTransmit, h, Bool.not_true, if_neg (by decide), h2]
  cases event <;> rfl

theorem canFrameReceive_runs (n : Fin 6) (f : CanFormat) (len : Nat) (h : s.unitOn 0x33 = true) (h1 : len ≤ canMax f) :
    exec (.canFrameReceive n f len) s =
      .next (State.pulseLine { s with canStamp := mapSet 0 s.canStamp n s.now } (180 + 2 * n)) := by
  rw [exec_canFrameReceive, execCanFrameReceive, h, Bool.not_true, if_neg (by decide), if_neg (by omega)]

theorem canFrameTransmit_runs (n : Fin 6) (e : Bool) (h : s.unitOn 0x33 = true) :
    exec (.canFrameTransmit n e) s = .next (s.pulseLine (180 + 2 * n + bit e)) := by
  rw [exec_canFrameTransmit, execCanFrameTransmit, h, Bool.not_true, if_neg (by decide)]

theorem serialPortTransfer_runs (u : SerialUnit) (h : s.unitOn 0x33 = true) :
    exec (.serialPortTransfer u) s = .next (s.pulseLine (match u with
      | .uart n => 192 + n.val | .spi n => 200 + n.val | .i3c n => 208 + n.val)) := by
  rw [exec_serialPortTransfer, execSerialPortTransfer.eq_def]
  dsimp only
  rw [h]
  cases u <;> rfl

theorem pcieLinkStateChange_runs (up : Bool) (gen : Fin 4) (lanes : Fin 3) (d3hot perst : Bool) (h : s.unitOn 0x32 = true) :
    exec (.pcieLinkStateChange up gen lanes d3hot perst) s = .next (State.pulseLine { s with pcie := { s.pcie with
      up := up, gen := gen, lanes := lanes, d3hot := d3hot, perst := perst } } 176) := by
  rw [exec_pcieLinkStateChange, execPcieLinkStateChange, h]
  rfl

end Sys2Proof.Machine
end

