-- ==== Sys2Proof/Laws/RunsLinksRun.lean ====
section
/-! SUPPORT. Where the host port's reads and queued writes, inbound PCI Express accesses and the microcode patch commands
complete, and with what (R318 to R323, R457 to R465). -/

namespace Sys2Proof.Machine

variable {s : State}

theorem hostRead_runs (ha : BitVec 24) (h : s.hpOn = true) {t : State} {w : Word} (h1 : s.hostRead ha.toNat = (t, w)) :
    exec (.hostRead ha) s = .next { t with hp := { t.hp with hd := w } } := by
  rw [exec_hostRead, execHostRead, h, h1]
  rfl

/-- The host reads a corrected word of the post room through a MEMORY window. -/
theorem hostRead_post_runs (ha : BitVec 24) (h : s.hpOn = true) (h1 : s.fld (Reg.HP_WIN (ha.toNat / 65536)) 2 0 = 1)
    {t : State} {w : Word} (h2 : s.postRead (postRoom + 4 * (ha.toNat % 65536)) = (t, some w)) :
    exec (.hostRead ha) s = .next { t with hp := { t.hp with hd := w } } := by
  refine hostRead_runs ha h ?_
  have e : s.winKind (ha.toNat / 65536) = 1 := by
    rw [State.winKind, h1]
    rfl
  rw [State.hostRead, e]
  simp only [State.hostPostRead, h2]

/-- The oldest whole-word write goes to the post room through a MEMORY window. -/
theorem hostWriteApply_runs {q : HostWrite} {rest : List HostWrite} (h : s.hpOn = true) (h1 : s.hp.queue = q :: rest)
    (h2 : s.fld (Reg.HP_WIN (q.ha / 65536)) 2 0 = 1) (h3 : q.be = 15) (h4 : q.ha / 65536 < 256) :
    exec .hostWriteApply s = .next ((s.setHpq rest).setWord (postRoom + 4 * (q.ha % 65536)) q.data) := by
  have e : (s.setHpq rest).winKind (q.ha / 65536) = 1 := by
    have e1 : (s.setHpq rest).fld (Reg.HP_WIN (q.ha / 65536)) 2 0 = 1 := by
      rw [State.setHpq, State.fld_setFld_ne, ← h2]
      · rw [State.fld, State.fld, State.reg_with_hp]
      · simp only [Reg.HP_WIN, Reg.HP_STAT]
        omega
    rw [State.winKind, e1]
    rfl
  rw [exec_hostWriteApply, execHostWriteApply, h1]
  simp only [h, Bool.not_true, Bool.false_eq_true, ↓reduceIte, e]
  rw [State.hostRamWrite, if_pos h3]

/-- Writes through the other windows. -/
theorem hostWriteApply_bus_runs {q : HostWrite} {rest : List HostWrite} (h : s.hpOn = true) (h1 : s.hp.queue = q :: rest)
    (h2 : (s.setHpq rest).winKind (q.ha / 65536) = 3) {t : State} {r : BusRes}
    (h3 : (s.setHpq rest).hostBusWrite (2 ^ 18 * (s.setHpq rest).fld (Reg.HP_WIN (q.ha / 65536)) 31 18 + 4 * (q.ha % 65536)) q = (t, r)) :
    exec .hostWriteApply s = .next (t.hostWriteErr r) := by
  rw [exec_hostWriteApply, execHostWriteApply, h1]
  simp only [h, Bool.not_true, Bool.false_eq_true, ↓reduceIte, h2, h3]

theorem State.inbound_on {bar1 : Bool} {o n : Nat} (h : s.unitOn 0x32 = true) (h1 : s.pcie.up = true)
    (h2 : o + n ≤ if bar1 then 0x80000 else 0x100000) (h3 : bar1 = true → o < 0x40000 → s.domOn domHost = true) :
    (!s.unitOn 0x32 || !s.pcie.up || decide ((if bar1 then 0x80000 else 0x100000) < o + n) ||
      bar1 && decide (o < 0x40000) && !s.domOn domHost) = false := by
  rw [h, h1, decide_eq_false (by omega)]
  cases bar1
  · rfl
  · by_cases e : o < 0x40000
    · rw [h3 rfl e]; simp
    · rw [decide_eq_false e]; rfl

theorem pcieInboundAccess_write_runs (bar1 : Bool) (off : BitVec 20) (n : Fin 513) (data : Nat)
    (h : s.unitOn 0x32 = true) (h1 : s.pcie.up = true) (h2 : off.toNat + n ≤ if bar1 then 0x80000 else 0x100000)
    (h3 : bar1 = true → off.toNat < 0x40000 → s.domOn domHost = true) :
    exec (.pcieInboundAccess bar1 off n true data) s = .next (s.inWrite bar1 off.toNat n data) := by
  rw [exec_pcieInboundAccess, execPcieInboundAccess]
  dsimp only
  rw [State.inbound_on h h1 h2 h3]
  rfl

theorem pcieInboundAccess_read_runs (bar1 : Bool) (off : BitVec 20) (n : Fin 513) (data : Nat)
    (h : s.unitOn 0x32 = true) (h1 : s.pcie.up = true) (h2 : off.toNat + n ≤ if bar1 then 0x80000 else 0x100000)
    (h3 : bar1 = true → off.toNat < 0x40000 → s.domOn domHost = true) {t : State} {v : Nat}
    (h4 : s.inRead bar1 off.toNat n = (t, v)) :
    exec (.pcieInboundAccess bar1 off n false data) s = .next { t with pcie := { t.pcie with answer := v } } := by
  rw [exec_pcieInboundAccess, execPcieInboundAccess]
  dsimp only
  rw [State.inbound_on h h1 h2 h3, h4]
  rfl

/-! Microcode patches. -/

theorem State.mcodeWrite_ctrl (s : State) (v : Word) : s.mcodeWrite Reg.MCODE_CTRL v true = s.armWrite v := by
  rw [State.mcodeWrite, if_neg (by decide), if_neg (by decide), if_neg (by decide), if_pos rfl]

theorem State.mcodeWrite_ctrl_other (s : State) (v : Word) :
    s.mcodeWrite Reg.MCODE_CTRL v false = s.setFlag Reg.MCODE_STAT 9 true := by
  rw [State.mcodeWrite, if_neg (by decide), if_neg (by decide)]
  rfl

theorem patchArm_runs (v : BitVec 32) {w : Word} (hw : w = BitVec.ofNat 32 (s.fld Reg.MCODE_CTRL 3 0) ||| v)
    (h1 : fieldOf w 3 0 &&& (15 - s.fld Reg.MCODE_CTRL 3 0) ≠ 0)
    (h2 : s.armFails (fieldOf w 3 0) (fieldOf w 3 0 &&& (15 - s.fld Reg.MCODE_CTRL 3 0)) = []) :
    exec (.patchArm v true) s = .next ((((s.setFld Reg.MCODE_CTRL 3 0 (fieldOf w 3 0)).setFlag Reg.MCODE_STAT 0 true).cfgOk
      Reg.MCODE_CFGCHK).armDone) := by
  rw [exec_patchArm, execPatchArm, ← hw, State.mcodeWrite_ctrl, State.armWrite]
  rw [if_neg h1, h2]
  rfl

theorem patchCancel_runs (v : BitVec 32) {w : Word} (hw : w = BitVec.ofNat 32 (s.fld Reg.MCODE_CTRL 3 0) &&& ~~~v)
    (h1 : fieldOf w 3 0 &&& (15 - s.fld Reg.MCODE_CTRL 3 0) = 0) :
    exec (.patchCancel v true) s = .next ((s.setFld Reg.MCODE_CTRL 3 0 (fieldOf w 3 0)).armDone) := by
  rw [exec_patchCancel, execPatchCancel, ← hw, State.mcodeWrite_ctrl, State.armWrite]
  rw [if_pos h1]

theorem patchArm_other_runs (v : BitVec 32) : exec (.patchArm v false) s = .next (s.setFlag Reg.MCODE_STAT 9 true) := by
  rw [exec_patchArm, execPatchArm, State.mcodeWrite_ctrl_other]

theorem patchCancel_other_runs (v : BitVec 32) : exec (.patchCancel v false) s = .next (s.setFlag Reg.MCODE_STAT 9 true) := by
  rw [exec_patchCancel, execPatchCancel, State.mcodeWrite_ctrl_other]

theorem patchInstall_runs (n : Fin 4) (ok : Bool) {k : Nat} (h : s.lead n = some k)
    (h1 : (s.core k).run = .patch) (h2 : (s.core k).sb = []) :
    exec (.patchInstall n ok) s = .next ((s.advanceTo (s.now + s.coreTime 1602)).patchEnd k ok) := by
  rw [exec_patchInstall, execPatchInstall, h]
  dsimp only
  rw [h1, h2]
  rfl

end Sys2Proof.Machine
end

