-- ==== Sys2Proof/Laws/RunsManage.lean ====
section
/-! SUPPORT. Where the management plane's commands, the resets and the boots complete, and with what: one lemma a command (R12,
R39, R40, R94, R402 to R422). -/

namespace Sys2Proof.Machine

variable {s : State}

theorem permitExpiry_runs {e : Nat} (h : s.mg.permit = some e) (h1 : s.phase = 3) :
    exec .permitExpiry s = .next ((s.advanceTo e).setPhase 2) := by
  rw [exec_permitExpiry, execPermitExpiry, h]
  dsimp only
  rw [if_pos h1]

theorem maintRequest_runs (v : BitVec 32) (mgmt : Bool) (h : s.phase ≠ 0) (h1 : fieldOf v 7 0 ≠ 0) (h2 : fieldOf v 7 0 ≤ 10)
    (h3 : mgmt = true ∨ fieldOf v 7 0 = 10) (h4 : resOk (fieldOf v 7 0) (fieldOf v 23 16) = true) {t : Nat} {u : State}
    (h5 : s.arbRequest (fieldOf v 7 0) (fieldOf v 23 16) = (.accepted t, u) ∨
      s.arbRequest (fieldOf v 7 0) (fieldOf v 23 16) = (.queued t, u)) :
    exec (.maintRequest v mgmt) s = .next (u.cfgOk Reg.MG_CFGCHK) := by
  have e : ¬ (fieldOf v 7 0 = 0 ∨ 10 < fieldOf v 7 0 ∨ (fieldOf v 7 0 ≠ 10 ∧ (!mgmt) = true)) := by
    rintro (a | a | ⟨a, b⟩)
    · exact h1 a
    · omega
    · rcases h3 with c | c
      · rw [c] at b; exact absurd b (by decide)
      · exact a c
  rw [exec_maintRequest, execMaintRequest, State.mreqWrite]
  rw [if_neg h, if_neg e, h4, Bool.not_true, if_neg (by decide)]
  rcases h5 with a | a <;> rw [a]

theorem maintRelease_runs (v : BitVec 32) (h : s.phase ≠ 0)
    (h1 : ((s.arb.granted ++ s.arb.queue).any fun x => x.ticket == fieldOf v 7 0) = true) :
    exec (.maintRelease v) s = .next ((s.arbRelease (fieldOf v 7 0)).cfgOk Reg.MG_CFGCHK) := by
  rw [exec_maintRelease, execMaintRelease, State.mrelWrite]
  rw [if_neg h, if_pos h1]

theorem arbiterGrant_runs {t : Ticket} (h : s.arbReady = some t) {u : State}
    (hu : u = { s with arb := { granted := s.arb.granted ++ [t], queue := s.arb.queue.filter (·.ticket != t.ticket) } }) :
    exec .arbiterGrant s = .next (((u.arbSync.pulseLine 385).raiseNow 0x771).granted t) := by
  rw [exec_arbiterGrant, execArbiterGrant, h, hu]

theorem ledgerCompactEnd_runs {t : Ticket} (h : s.arb.granted.find? (fun t => t.act == 7) = some t) :
    exec .ledgerCompactEnd s = .next (s.arbRelease t.ticket) := by
  rw [exec_ledgerCompactEnd, execLedgerCompactEnd, h]

/-! Service commands. `State.svcStarted` is the state in which a command's body runs. -/

theorem State.svcStart_ok (op : Nat) (f : State → State) (h : s.phase ≠ 0) (h1 : s.flag Reg.MG_SVCSTAT 31 = false) :
    s.svcStart op f = f (s.svcStarted op) := by
  rw [State.svcStart, if_neg h, h1]
  rfl

theorem State.svcImage_ok {a kind : Nat} {f : State → Img → State} {u : State} {i : Img}
    (h : s.imgVerify a kind = (u, .ok i)) : s.svcImage a kind f = f u i := by
  rw [State.svcImage, h]

variable (h : s.phase ≠ 0) (h1 : s.flag Reg.MG_SVCSTAT 31 = false)
include h h1

theorem attest_runs {u : State} {v : Nat} (h2 : (s.svcStarted 1).reportBytes ((s.svcStarted 1).svcGet 32) = (u, v)) :
    exec .attest s = .next (State.svcPut u.tick (v + Config.mldsaSign u.seed (sha3 v 272) u.free % 256 ^ 2420 * 256 ^ 272) 2692) := by
  rw [exec_attest, execAttest, State.svcStart_ok _ _ h h1, State.attest, h2]

theorem idkey_runs : exec .idkey s = .next ((s.svcStarted 2).svcPut (s.svcStarted 2).identity 1312) := by
  rw [exec_idkey, execIdkey, State.svcStart_ok _ _ h h1, State.idKey]

theorem svnAdvance_runs {t : State} (ht : t = s.svcStarted 3) :
    exec .svnAdvance s = .next (if t.svnctr < t.mg.svn then (t.setDword 0x10080018 (svnMirror t.mg.svn)).svnBlow t.mg.svn
      else t) := by
  rw [exec_svnAdvance, execSvnAdvance, State.svcStart_ok _ _ h h1, ← ht, State.svnAdvance]

/-- An accepted REVOKE image names a slot that is not its own and not the last one left. -/
theorem revoke_runs {u : State} {i : Img} (h2 : (s.svcStarted 4).imgVerify (s.svcStarted 4).svcArg 7 = (u, .ok i)) {k : Nat}
    (hk : k = u.payload i 0 1) (h3 : k < 4) (h4 : k ≠ i.slot) (h5 : ∃ j < 4, j ≠ k ∧ u.revoked j = false) :
    exec .revoke s = .next (u.setByte 0x08008080 (BitVec.ofNat 8 ((u.byte 0x08008080).toNat ||| 2 ^ k))) := by
  have e : ((List.range 4).any fun j => j != k && !u.revoked j) = true := by
    obtain ⟨j, a, b, c⟩ := h5
    rw [List.any_eq_true]
    exact ⟨j, List.mem_range.mpr a, by rw [c, bne_iff_ne.mpr b]; rfl⟩
  rw [exec_revoke, execRevoke, State.svcStart_ok _ _ h h1, State.revoke]
  rw [State.svcImage_ok h2]
  simp only [← hk, e, if_neg (show ¬ (4 ≤ k ∨ k = i.slot ∨ (!true) = true) by simp [h4]; omega)]

/-- PHASE from TEST back to MISSION needs no image. -/
theorem phase_runs (h2 : (s.svcStarted 5).phase = 3) (h3 : (s.svcStarted 5).svcArg % 8 = 2) :
    exec .phase s = .next ((s.svcStarted 5).setPhase 2) := by
  rw [exec_phase, execPhase, State.svcStart_ok _ _ h h1, State.phaseCmd]
  dsimp only
  rw [if_pos ⟨h2, h3⟩]

/-- PHASE from MISSION to TEST under an accepted permit that has not run out. -/
theorem phase_test_runs (h2 : (s.svcStarted 5).phase = 2) (h3 : (s.svcStarted 5).svcArg % 8 = 3) {u : State} {i : Img}
    (h4 : (s.svcStarted 5).imgVerify ((s.svcStarted 5).reg (Reg.MG_SVCBUF 0)).toNat 6 = (u, .ok i)) (h5 : i.bound = true) {w : State}
    (h6 : u.now ≤ u.payload i 0 8) (hw : w = u.setPhase 3) :
    exec .phase s = .next { w with mg := { w.mg with permit := some (u.payload i 0 8) } } := by
  rw [exec_phase, execPhase, State.svcStart_ok _ _ h h1, State.phaseCmd]
  simp only [h2, h3]
  rw [if_neg (by decide), if_pos (by decide), State.svcImage_ok h4]
  simp only [h5, Bool.not_true, Bool.false_or, decide_eq_true_eq, if_neg (Nat.not_lt.mpr h6), ← hw, ↓reduceIte]

theorem liveupd_runs {t : State} (ht : t = s.svcStarted 6) {u : State} {i : Img} {pairs : List Nat}
    (h2 : t.imgVerify (t.appAddr (t.svcArg % 2)) 2 = (u, .ok i))
    (hp : pairs = [0, 1].filter fun p => t.svcArg / 2 ^ (8 + p) % 2 == 1) (h3 : pairs ≠ []) :
    exec .liveupd s = .next { u with mg := { u.mg with live := some ⟨i.addr, pairs, pairs⟩ } } := by
  rw [exec_liveupd, execLiveupd, State.svcStart_ok _ _ h h1, ← ht, State.liveUpd]
  rw [State.svcImage_ok h2]
  simp only [← hp]
  rw [if_neg (by rw [List.isEmpty_iff]; exact h3)]

theorem bankswap_runs {t : State} (ht : t = s.svcStarted 7) {u : State} {i : Img}
    (h2 : t.imgVerify (t.appAddr (t.svcArg % 2)) 2 = (u, .ok i)) :
    exec .bankswap s = .next (u.setDword 0x10080010 (if t.svcArg % 2 = 1 then 0x5A else 0)) := by
  rw [exec_bankswap, execBankswap, State.svcStart_ok _ _ h h1, ← ht, State.bankSwap]
  rw [State.svcImage_ok h2]

theorem loadcell_runs {t : State} (ht : t = s.svcStarted 8) {u : State} {i : Img} (h2 : t.imgVerify t.svcArg 3 = (u, .ok i))
    (h3 : i.entry0 < 52) (h4 : u.domOn (domCell i.entry0) = true) (h5 : u.flag (Reg.LC_CTRL i.entry0) 0 = false)
    (h6 : u.flag (Reg.LC_CTRL (i.entry0 / 2 * 2)) 0 = false) :
    exec .loadcell s = .next (u.loadSegs i) := by
  rw [exec_loadcell, execLoadcell, State.svcStart_ok _ _ h h1, ← ht, State.loadCell]
  rw [State.svcImage_ok h2]
  simp only [if_neg (Nat.not_le.mpr h3), h4, h5, h6, Bool.not_true, Bool.false_or, Bool.false_and, Bool.false_eq_true, ↓reduceIte]

theorem loadmap_runs {t : State} (ht : t = s.svcStarted 9) {u : State} {i : Img} (h2 : t.imgVerify t.svcArg 4 = (u, .ok i)) :
    exec .loadmap s = .next (u.loadSegs i) := by
  rw [exec_loadmap, execLoadmap, State.svcStart_ok _ _ h h1, ← ht, State.loadMap, State.svcImage_ok h2]

theorem loadmcode_runs {t : State} (ht : t = s.svcStarted 10) {u : State} {i : Img} (h2 : t.imgVerify t.svcArg 5 = (u, .ok i)) :
    exec .loadmcode s = .next (([0, 1].filter fun p => (t.reg (Reg.MG_SVCBUF 0)).toNat / 2 ^ p % 2 == 1).foldl
      (fun s p => s.patchRequest i.addr p) u) := by
  rw [exec_loadmcode, execLoadmcode, State.svcStart_ok _ _ h h1, ← ht, State.loadMcode]
  rw [State.svcImage_ok h2]

theorem mgreload_runs (h2 : (s.svcStarted 11).mg.bare = false) :
    exec .mgreload s = .next (State.mgfwLoad ((s.svcStarted 11).wipe mgmtRam (mgmtRam + 0x40000))).1 := by
  rw [exec_mgreload, execMgreload, State.svcStart_ok _ _ h h1, State.mgReset, h2, if_neg Bool.false_ne_true]

omit h1 in
theorem managementReset_runs (h2 : s.mg.bare = false) : exec .managementReset s =
    .next (State.svcAbandon (State.mgfwLoad (s.wipe mgmtRam (mgmtRam + 0x40000))).1) := by
  rw [exec_managementReset, execManagementReset, if_neg h, State.mgReset, h2, if_neg Bool.false_ne_true]

omit h h1

/-- A pair that has stopped takes its COLD restart and waits for the others. -/
theorem liveupdPairStop_runs (p : Fin 2) {l : LiveUpdate} (h : s.mg.live = some l) (h1 : (l.waiting.contains p.val) = true)
    (h2 : s.pairStopped p = true) (h3 : s.pairMode p = 0) (h4 : (s.core (s.pairRecord p)).run ≠ .off) {u : State}
    (hu : u = (s.coldRestart (s.pairRecord p)).onCore (s.pairRecord p) fun c => { c with run := .hold })
    (h5 : l.waiting.filter (· != p.val) ≠ []) :
    exec (.liveupdPairStop p) s = .next { u with mg := { u.mg with live := some { l with
      waiting := l.waiting.filter (· != p.val) } } } := by
  rw [exec_liveupdPairStop, execLiveupdPairStop, h]
  dsimp only
  rw [h1, h2]
  simp only [Bool.and_self, Bool.not_true, Bool.false_eq_true, ↓reduceIte, h3, Nat.reduceEqDiff, List.foldl_cons, List.foldl_nil, h4,
    ← hu, List.isEmpty_iff, if_neg h5]

theorem serviceCommandDone_runs {x : Service} (h : s.mg.svc = some x) (h1 : s.mg.live = none)
    (h2 : x.op = 10 → x.code = 0 → ∀ r ∈ s.mg.patches, r.armed = true) {u : State}
    (hu : u = (((s.setFlag Reg.MG_SVCSTAT 31 false).setFlag Reg.MG_SVCSTAT 30 true).setReg Reg.MG_CFGCHK
      (if x.code = 0 then 0 else cfgWord ⟨x.code, 0xFF, x.detail⟩))) :
    exec .serviceCommandDone s = .next (State.pulseLine { u with mg := { u.mg with svc := none } } 384) := by
  have e : (s.mg.live.isSome || (x.op == 10 && x.code == 0 && s.mg.patches.any fun r => !r.armed)) = false := by
    rw [h1, Option.isSome_none, Bool.false_or, Bool.eq_false_iff]
    intro a
    simp only [Bool.and_eq_true, beq_iff_eq, List.any_eq_true, Bool.not_eq_true'] at a
    obtain ⟨⟨a, b⟩, r, c, d⟩ := a
    rw [h2 a b r c] at d
    exact absurd d (by decide)
  rw [exec_serviceCommandDone, execServiceCommandDone, h]
  dsimp only
  rw [e, if_neg (by decide), ← hu]

/-! Resets, boots and clock sources. -/

theorem pllRootSwitch_runs (ticks : Nat) (h : s.clk.run = false) (h1 : s.phase ≠ 0) (h2 : s.asleep = true → s.power.waking = true) :
    exec (.pllRootSwitch ticks) s = .next (s.sleepTicks ticks).pllStart := by
  have e : (s.clk.run || s.phase == 0 || s.asleep && !s.power.waking) = false := by
    rw [h, Bool.false_or, beq_eq_false_iff_ne.mpr h1, Bool.false_or]
    cases h3 : s.asleep
    · rfl
    · rw [h2 h3]; rfl
  rw [exec_pllRootSwitch, execPllRootSwitch, e, if_neg (by decide)]

theorem lossOfLock_runs (h : s.clk.run = true) {u : State}
    (hu : u = (State.pllStop ((List.range 96).foldl (fun s n => s.pwmHalt n) s)).setFlag Reg.MG_CLKSTAT 7 true) :
    exec .lossOfLock s = .next { u with clk := { u.clk with faultOut := true } } := by
  rw [exec_lossOfLock, execLossOfLock, h, hu]
  rfl

theorem coldReset_runs : exec .coldReset s = .next s.coldReset := by rw [exec_coldReset, execColdReset]

/-- A cold boot whose management firmware is accepted goes through B1 to B5 and on to the rest of the boot. -/
theorem pornRelease_runs (x : BootIn) (h : s.phase = 0) (h1 : s.power.off = false) {u : State}
    (hu : State.mgfwLoad (State.bootB4 (State.advanceTo (s.bootStart x) ((s.bootStart x).now + x.edges))) = (u, true)) :
    exec (.pornRelease x) s = .next (((u.setPhase 1).bootStep 5).bootRest x) := by
  rw [exec_pornRelease, execPornRelease, if_neg (by rw [h, h1]; decide)]
  simp only [hu, Bool.false_eq_true, ↓reduceIte]

/-- With no firmware that is accepted the part enters RECOVERY. -/
theorem pornRelease_recovery_runs (x : BootIn) (h : s.phase = 0) (h1 : s.power.off = false) {u : State}
    (hu : State.mgfwLoad (State.bootB4 (State.advanceTo (s.bootStart x) ((s.bootStart x).now + x.edges))) = (u, false)) :
    exec (.pornRelease x) s = .next (u.recover true) := by
  rw [exec_pornRelease, execPornRelease, if_neg (by rw [h, h1]; decide)]
  simp only [hu, Bool.false_eq_true, ↓reduceIte]

theorem warmReset_runs (x : BootIn) (h : s.phase ≠ 0) (h1 : s.power.off = false) :
    exec (.warmReset false x) s = .next (s.warmReset.warmBoot x) := by
  rw [exec_warmReset, execWarmReset, if_neg (by rw [h1]; simp [h])]
  rfl

/-- By the pin the part waits for RESETn to be released. -/
theorem warmReset_pin_runs (x : BootIn) (h : s.phase ≠ 0) (h1 : s.power.off = false) {u : State} (hu : u = s.warmReset) :
    exec (.warmReset true x) s = .next { u with mg := { u.mg with resetLow := true } } := by
  rw [exec_warmReset, execWarmReset, if_neg (by rw [h1]; simp [h]), hu]
  rfl

theorem resetnRelease_runs (x : BootIn) (h : s.mg.resetLow = true) :
    exec (.resetnRelease x) s = .next (State.warmBoot { s with mg := { s.mg with resetLow := false, bootPins := x.pins } } x) := by
  rw [exec_resetnRelease, execResetnRelease, h]
  rfl

/-- A slice's replacement is entered in the repair map, committed and applied. -/
theorem permanentReplacement_runs (n : Fin 64) (fo : Int) (fg : BitVec 24) (h : s.unitOn (0x19 + n.val / 16) = true)
    (h1 : s.spareFree (n.val / 16) = true) (h2 : s.arbHeld 3 (n.val / 16) = false)
    (h3 : s.fld (Reg.CG_CALSTAT (n.val / 16)) 12 8 = 0x1F) :
    ∃ u, exec (.permanentReplacement n fo fg) s = .next (State.repairApply (State.repairCommit u)) ∧
      mapGet 0x1F u.repairs.slices (n.val / 16) = n.val % 16 := by
  rw [exec_permanentReplacement, execPermanentReplacement]
  dsimp only
  rw [h, h1, h2, h3, if_neg (by decide)]
  exact ⟨_, rfl, mapGet_insert_same _ _ _ _⟩

end Sys2Proof.Machine
end

