-- ==== Sys2Proof/Laws/RunsPosition.lean ====
section
/-! SUPPORT. Where the commands of the position interfaces and the sorting office complete, and with what: one lemma a
command (R111 to R155). -/

namespace Sys2Proof.Machine

variable {s : State}

@[simp] theorem State.pos_setPos_same (s : State) (n : Nat) (r : Pos) : (s.setPos n r).pos n = r := mapGet_set_same _ _ _ _

theorem State.advanceTo_reg (s : State) (e a : Nat) : (s.advanceTo e).reg a = s.reg a := by
  unfold State.advanceTo; split <;> rfl

theorem emulatorEdge_runs (n : Fin 16) (h1 : s.unitOn domPi = true) (h2 : s.flag (Reg.PI_EMUCTRL n) 0 = true)
    (h3 : (s.pos n).lag ≠ 0) :
    ∃ u c : _, exec (.emulatorEdge n) s = .next (if c = 0 then State.piEvent u n 7 else u) ∧
      c = (if 0 < (s.pos n).lag then ((s.reg (Reg.PI_EMUCNT n)).toNat + 1) % (s.reg (Reg.PI_EMUCPR n)).toNat
        else ((s.reg (Reg.PI_EMUCNT n)).toNat + (s.reg (Reg.PI_EMUCPR n)).toNat - 1) % (s.reg (Reg.PI_EMUCPR n)).toNat) := by
  rw [exec_emulatorEdge, execEmulatorEdge]
  try dsimp only
  rw [if_neg (by rw [h1, h2]; simp [h3])]
  rw [State.advanceTo_reg, State.advanceTo_reg]
  exact ⟨_, _, rfl, rfl⟩

theorem emulatorEnable_runs (n : Fin 16) (v : BitVec 32) (h1 : s.unitOn domPi = true)
    (h2 : s.flag (Reg.PI_EMUCTRL n) 0 = false) (h4 : bitOf v 0 = true)
    (h3 : (s.store (Reg.PI_EMUCTRL n) (Reg.PI_CFGCHK n) false (withField v 0 0 0)).emuFails n = []) :
    exec (.emulatorEnable n v) s = .next
      (((((s.enabled (Reg.PI_EMUCTRL n) (Reg.PI_CFGCHK n) 0 v).setPos n { s.pos n with acc := 0, lag := 0, emitted := none, lagFrom := 0 }).setFld
        (Reg.PI_EMULAG n) 31 16 0).emuDrive n)) := by
  obtain ⟨r, hr⟩ := s.store_eq (Reg.PI_EMUCTRL n) (Reg.PI_CFGCHK n) false (withField v 0 0 0)
  rw [exec_emulatorEnable, execEmulatorEnable, State.whenOn_on _ _ _ _ h1, State.emuCtrlWrite]
  try dsimp only
  rw [State.unitWrite_enable _ _ _ _ _ _ _ _ _ _ h2 h4 h3]
  rw [State.enabled, hr]
  rfl

theorem levelAccept_runs (n : Fin 16) (a b z : Option Bool) (e : Nat) (h1 : s.unitOn domPi = true) (h2 : s.piEn n = true)
    (h3 : s.piMode n = 0) (h4 : (s.pos n).enAt < e) (h5 : s.now ≤ e + 2 + s.fld (Reg.PI_CTRL n) 15 8) :
    ∃ u, exec (.levelAccept n a b z e) s = .next (State.indexStep u n) := by
  rw [exec_levelAccept]
  unfold execLevelAccept
  try dsimp only
  rw [if_neg (by rw [h1, h2, h3]; simp; omega), if_neg (by omega), if_pos h3]
  exact ⟨_, rfl⟩

theorem wireFault_runs (n : Fin 16) (g : Fin 3) (e : Nat) (h1 : s.unitOn domPi = true) (h2 : s.piEn n = true)
    (h3 : s.flag (Reg.PI_CTRL n) 3 = true) (h4 : (s.pos n).enAt < e) (hm : s.piMode n ≠ 2 ∨ g = 0)
    (h5 : ∀ t, (match g with | 0 => (s.pos n).wireA | 1 => (s.pos n).wireB | 2 => (s.pos n).wireZ) = some t → t < e) :
    ∃ u, exec (.wireFault n g e) s = .next (State.piEvent u n 4) ∧ u.flag (Reg.PI_STAT n) (7 + g) = true ∧
      u.now = (s.advanceTo (e + s.fld (Reg.PI_CTRL n) 27 16)).now := by
  rw [exec_wireFault]
  unfold execWireFault
  try dsimp only
  rw [if_neg]
  · refine ⟨_, rfl, State.flag_setFlag_same _ _ _ (by omega), rfl⟩
  · rw [h1, h2, h3]
    have hm2 : (s.piMode n == 2 && g != 0) = false := by
      rcases hm with h | h
      · simp [h]
      · simp [h]
    rw [hm2, decide_eq_false (by omega : ¬ e ≤ (s.pos n).enAt)]
    have key : ∀ l : Option Nat, (∀ t, l = some t → t < e) →
        ¬ ((!(true && true && true && (match l with | some t => decide (t < e) | none => true)) || false || false) = true) := by
      intro l hl
      cases l with
      | none => simp
      | some t => simp [hl t rfl]
    exact key _ h5

theorem standstill_runs (n : Fin 16) (h1 : s.unitOn domPi = true) (h2 : s.piEn n = true)
    (h3 : s.flag (Reg.PI_STAT n) 2 = false) :
    exec (.standstill n) s = .next (((((s.advanceTo ((s.pos n).lastCount + 4000 * s.fld (Reg.PI_SPDCFG n) 31 16)).setPos n
      { (s.advanceTo ((s.pos n).lastCount + 4000 * s.fld (Reg.PI_SPDCFG n) 31 16)).pos n with stamps := [] }).setFlag
        (Reg.PI_STAT n) 2 true).setReg (Reg.PI_SPDPER n) 0xFFFFFFFF).piEvent n 6) := by
  rw [exec_standstill, execStandstill]
  try dsimp only
  rw [if_neg (by rw [h1, h2, h3]; decide)]

theorem posWrite_runs (n : Fin 16) (v : BitVec 32) (h1 : s.unitOn domPi = true)
    (h2 : s.piEn n = true → s.piMode n ≠ 2 → v.toNat < s.piMod n) :
    ∃ u, exec (.posWrite n false v) s = .next u ∧ u.reg (Reg.PI_POS n) = v := by
  have e1 : Reg.PI_POS n ≠ Reg.PI_CFGCHK n := by simp only [Reg.PI_POS, Reg.PI_CFGCHK]; omega
  rw [exec_posWrite, execPosWrite, if_pos h1, State.posWrite, if_neg (by decide), if_neg (by
    simp only [Bool.and_eq_true, bne_iff_ne, decide_eq_true_eq]
    rintro ⟨⟨h3, h4⟩, h5⟩
    have := h2 h3 h4
    omega)]
  refine ⟨_, rfl, ?_⟩
  dsimp only
  split
  · rw [State.cfgOk, State.reg_setReg_ne _ _ e1, State.reg_setReg_same]
  · rw [State.reg_setReg_same]

theorem posWrite_rev_runs (n : Fin 16) (v : BitVec 32) (h1 : s.unitOn domPi = true) :
    ∃ u, exec (.posWrite n true v) s = .next u ∧
      u.reg (Reg.PI_REV n) = (s.store (Reg.PI_REV n) (Reg.PI_CFGCHK n) false v).reg (Reg.PI_REV n) := by
  have e1 : Reg.PI_REV n ≠ Reg.PI_CFGCHK n := by simp only [Reg.PI_REV, Reg.PI_CFGCHK]; omega
  rw [exec_posWrite, execPosWrite, if_pos h1, State.posWrite, if_pos rfl]
  refine ⟨_, rfl, ?_⟩
  dsimp only
  split
  · rw [State.cfgOk, State.reg_setReg_ne _ _ e1]
  · rfl

theorem interfaceEnable_runs (n : Fin 16) (v : BitVec 32) (h1 : s.unitOn domPi = true)
    (h2 : s.flag (Reg.PI_CTRL n) 0 = false)
    (h3 : (s.store (Reg.PI_CTRL n) (Reg.PI_CFGCHK n) false (withField (withField v 0 0 1) 0 0 0)).piFails n = []) :
    ∃ u, exec (.interfaceEnable n v) s = .next u ∧ u.flag (Reg.PI_CTRL n) 0 = true ∧
      u.reg (Reg.PI_SPDPER n) = 0xFFFFFFFF ∧ u.flag (Reg.PI_STAT n) 2 = true ∧ u.flag (Reg.PI_STAT n) 0 = false := by
  have e1 : Reg.PI_CTRL n ≠ Reg.PI_CFGCHK n := by simp only [Reg.PI_CTRL, Reg.PI_CFGCHK]; omega
  have e2 : Reg.PI_CTRL n ≠ Reg.PI_STAT n := by simp only [Reg.PI_CTRL, Reg.PI_STAT]; omega
  have e3 : Reg.PI_CTRL n ≠ Reg.PI_SPDPER n := by simp only [Reg.PI_CTRL, Reg.PI_SPDPER]; omega
  have e4 : Reg.PI_STAT n ≠ Reg.PI_SPDPER n := by simp only [Reg.PI_STAT, Reg.PI_SPDPER]; omega
  have hp : ∀ (u : State) (p : Pos) (a i : Nat), (u.setPos n p).flag a i = u.flag a i := fun _ _ _ _ => rfl
  rw [exec_interfaceEnable, execInterfaceEnable, State.whenOn_on _ _ _ _ h1, State.piCtrlWrite,
    State.unitWrite_enable s _ _ _ _ (fun s => s.piFails n) _ _ _ _ h2 (bitOf_withField_one v (by omega)) h3]
  refine ⟨_, rfl, ?_, State.reg_setReg_same _ _ _, ?_, ?_⟩
  · rw [State.flag_setReg_ne _ _ _ e3, State.flag_setFlag_ne _ _ _ _ e2, State.flag_setFlag_ne _ _ _ _ e2, hp, State.cfgOk,
      State.flag_setReg_ne _ _ _ e1, State.flag_setFlag_same _ _ _ (by omega)]
  · rw [State.flag_setReg_ne _ _ _ e4, State.flag_setFlag_same _ _ _ (by omega)]
  · rw [State.flag_setReg_ne _ _ _ e4, State.flag_setFlag_disjoint _ _ _ (by omega) (by omega),
      State.flag_setFlag_same _ _ _ (by omega)]

theorem ssiFrameRecord_runs (n : Fin 16) (data : BitVec 48) (crc : BitVec 8) {t0 : Nat} (h1 : s.unitOn domPi = true)
    (h2 : s.piEn n = true) (h3 : (s.pos n).ssiT0 = some t0) (h4 : (s.pos n).ssiDone = false)
    (h5 : s.fld (Reg.PI_SSICFG n) 19 16 = 0) (h6 : s.flag (Reg.PI_SSICFG n) 15 = false) :
    ∃ u, exec (.ssiFrameRecord n data crc) s = .next (State.piEvent u n 5) ∧
      u.reg (Reg.PI_POS n) = BitVec.ofNat 32 (data.toNat % 2 ^ s.fld (Reg.PI_SSICFG n) 5 0 % 2 ^ s.fld (Reg.PI_SSICFG n) 13 8) := by
  have e1 : Reg.PI_POS n ≠ Reg.PI_REV n := by simp only [Reg.PI_POS, Reg.PI_REV]; omega
  have e2 : Reg.PI_POS n ≠ Reg.PI_SSISTAT n := by simp only [Reg.PI_POS, Reg.PI_SSISTAT]; omega
  have hr : ∀ (e : Nat) (p : Pos), ((s.advanceTo e).setPos n p).reg (Reg.PI_SSICFG n) = s.reg (Reg.PI_SSICFG n) :=
    fun e p => State.advanceTo_reg _ _ _
  have hc : s.reg (Reg.PI_SSICFG n) = s.reg (Reg.PI_SSICFG n) := rfl
  rw [State.fld] at h5
  rw [State.flag] at h6
  rw [State.fld, State.fld]
  rw [exec_ssiFrameRecord, execSsiFrameRecord]
  try dsimp only
  rw [h3]
  try dsimp only
  rw [if_neg (by rw [h1, h2, h4]; decide)]
  rw [hr, h5, h6]
  generalize (s.advanceTo _).setPos n _ = w
  rw [if_pos rfl, if_neg (fun h => h.1 rfl), if_neg (by decide)]
  refine ⟨_, rfl, ?_⟩
  rw [State.modInc, State.reg_setFld_ne _ _ _ _ e2, State.reg_setFld_ne _ _ _ _ e1, State.reg_setReg_same]

theorem ssiRelease_runs (n : Fin 16) (e : Nat) {t0 : Nat} (h1 : s.unitOn domPi = true) (h2 : s.piEn n = true)
    (h3 : s.flag (Reg.PI_STAT n) 3 = true) (h4 : (s.pos n).ssiT0 = some t0) (h5 : s.ssiLast n t0 < e) :
    exec (.ssiRelease n e) s =
      .next ((s.advanceTo (e + s.fld (Reg.PI_SSITIME n) 15 0)).setFlag (Reg.PI_STAT n) 3 false) := by
  rw [exec_ssiRelease, execSsiRelease]
  try dsimp only
  rw [h4]
  try dsimp only
  rw [if_neg (by rw [h1, h2, h3]; simp [h5])]

theorem ssiTimeout_runs (n : Fin 16) {t0 : Nat} (h1 : s.unitOn domPi = true) (h2 : s.piEn n = true)
    (h3 : s.flag (Reg.PI_STAT n) 3 = true) (h4 : (s.pos n).ssiT0 = some t0) (h5 : (s.pos n).ssiLate = false) :
    exec (.ssiTimeout n) s = .next (((s.advanceTo (s.ssiLast n t0 + s.fld (Reg.PI_SSITIME n) 31 16)).setPos n
      { (s.advanceTo (s.ssiLast n t0 + s.fld (Reg.PI_SSITIME n) 31 16)).pos n with ssiLate := true }).setFlag
        (Reg.PI_STAT n) 12 true) := by
  rw [exec_ssiTimeout, execSsiTimeout]
  try dsimp only
  rw [h4]
  try dsimp only
  rw [if_neg (by rw [h1, h2, h3, h5]; decide)]

theorem emuposWrite_runs (n : Fin 16) (v : BitVec 32) (h1 : s.unitOn domPi = true) (h2 : s.ownerOf (96 + n) = none) :
    exec (.emuposWrite n none v) s = .next (s.emuposApply n v) := by
  rw [exec_emuposWrite]
  unfold execEmuposWrite
  try dsimp only
  rw [h1, State.windowOwned, h2]
  rfl

theorem emuposWrite_cell_runs (n : Fin 16) (c : Fin 52) (v : BitVec 32) (h1 : s.unitOn domPi = true)
    (h2 : s.filterWrite (96 + n) c = .applied) :
    exec (.emuposWrite n (some c) v) s = .next (s.emuposApply n v) := by
  rw [exec_emuposWrite]
  unfold execEmuposWrite
  try dsimp only
  rw [h1, h2]
  rfl

/-! Sorting office (R139 to R155). -/

theorem soEnable_runs (v : BitVec 32) (h1 : s.unitOn domSo = true) (h2 : s.flag Reg.SO_CTRL 0 = false) (h3 : bitOf v 0 = true) :
    exec (.soEnable v) s = .next (State.routeClear { s.enabled Reg.SO_CTRL Reg.SO_CFGCHK 0 v with so := { s.so with flights := [] } }) := by
  obtain ⟨r, hr⟩ := s.store_eq Reg.SO_CTRL Reg.SO_CFGCHK false (withField v 0 0 0)
  rw [exec_soEnable, execSoEnable, State.whenOn_on _ _ _ _ h1, State.soCtrlWrite]
  try dsimp only
  have h4 : s.domOn domSo = true ∧ s.clk.run = true := by simpa [State.unitOn] using h1
  rw [State.unitWrite_enable _ _ _ _ _ _ _ _ _ _ h2 h3 (by
    rw [hr, show State.domOn { s with regs := r } domSo = true from by
      have := State.flag_store_ne s (a := Reg.SO_CTRL) (chk := Reg.SO_CFGCHK) (b := Reg.PM_DOMSTAT0) false (withField v 0 0 0) 0 domSo
        (by decide) (by decide)
      rw [hr] at this
      have h5 : s.flag Reg.PM_DOMSTAT0 domSo = true := h4.1
      exact this.trans h5]
    simp [failIf, h4.2])]
  rw [State.enabled, hr]
  rfl

theorem evoutPulseEnd_runs (k : Fin 16) (h : mapGet 0 s.so.evout k ≠ 0) :
    exec (.evoutPulseEnd k) s = .next { s.advanceTo (mapGet 0 s.so.evout k) with
      so := { (s.advanceTo (mapGet 0 s.so.evout k)).so with
        evout := mapErase (s.advanceTo (mapGet 0 s.so.evout k)).so.evout k } } := by
  rw [exec_evoutPulseEnd]
  unfold execEvoutPulseEnd
  split
  · contradiction
  · rfl

theorem evinRaise_runs (k : Fin 32) (e : Nat) (h : s.unitOn domSo = true) :
    exec (.evinRaise k e) s = .next ((s.advanceTo (e + 2)).raiseNow (0x6B0 + k)) := by
  rw [exec_evinRaise, execEvinRaise, h]
  rfl

theorem timerRaise_runs (k : Fin 16) (h1 : s.unitOn domSo = true) (h2 : s.flag (Reg.SO_TMR_PER k) 31 = true)
    (h3 : s.fld (Reg.SO_TMR_PER k) 23 0 ≠ 0) :
    ∃ u e, exec (.timerRaise k) s = .next (State.raiseNow u (0x6D0 + k)) ∧
      e = nextTimerEdge (s.fld (Reg.SO_TMR_PER k) 23 0) (s.fld (Reg.SO_TMR_PH k) 23 0) (mapGet 0 s.so.tmrFrom k) ∧
      mapGet 0 u.so.tmrOut k = e + 8 := by
  have hm : ∀ (u : State) (m : List (Nat × Nat)) (e : Nat), mapGet 0 { u with so := { u.so with
      tmrFrom := m, tmrOut := mapSet 0 u.so.tmrOut k e } }.so.tmrOut k = e := fun _ _ _ => mapGet_set_same _ _ _ _
  rw [exec_timerRaise, execTimerRaise]
  try dsimp only
  rw [if_neg (by rw [h1, h2]; simp [h3])]
  exact ⟨_, _, rfl, rfl, hm _ _ _⟩

theorem timerOutputPulseEnd_runs (k : Fin 16) (h : mapGet 0 s.so.tmrOut k ≠ 0) :
    exec (.timerOutputPulseEnd k) s = .next { s.advanceTo (mapGet 0 s.so.tmrOut k) with
      so := { (s.advanceTo (mapGet 0 s.so.tmrOut k)).so with
        tmrOut := mapErase (s.advanceTo (mapGet 0 s.so.tmrOut k)).so.tmrOut k } } := by
  rw [exec_timerOutputPulseEnd]
  unfold execTimerOutputPulseEnd
  split
  · contradiction
  · rfl

theorem soTimerEnable_runs (k : Fin 16) (v : BitVec 32) (h : s.unitOn domSo = true)
    (h2 : s.flag (Reg.SO_TMR_PER k) 31 = false)
    (h3 : 2 ≤ (s.store (Reg.SO_TMR_PER k) Reg.SO_CFGCHK false (withField (withField v 31 31 1) 31 31 0)).fld (Reg.SO_TMR_PER k) 23 0)
    (h4 : s.fld (Reg.SO_TMR_PH k) 23 0 <
      (s.store (Reg.SO_TMR_PER k) Reg.SO_CFGCHK false (withField (withField v 31 31 1) 31 31 0)).fld (Reg.SO_TMR_PER k) 23 0) :
    ∃ u, exec (.soTimerEnable k v) s = .next u ∧ u.flag (Reg.SO_TMR_PER k) 31 = true ∧ mapGet 0 u.so.tmrFrom k = s.now := by
  have e1 : Reg.SO_TMR_PER k ≠ Reg.SO_CFGCHK := by simp only [Reg.SO_TMR_PER, Reg.SO_CFGCHK]; omega
  have e2 : Reg.SO_TMR_PH k ≠ Reg.SO_TMR_PER k := by simp only [Reg.SO_TMR_PER, Reg.SO_TMR_PH]; omega
  have e3 : Reg.SO_TMR_PH k ≠ Reg.SO_CFGCHK := by simp only [Reg.SO_TMR_PH, Reg.SO_CFGCHK]; omega
  have e4 : Reg.PM_DOMSTAT0 ≠ Reg.SO_TMR_PER k := by simp only [Reg.SO_TMR_PER, Reg.PM_DOMSTAT0]; omega
  have h5 : s.domOn domSo = true ∧ s.clk.run = true := by simpa [State.unitOn] using h
  have hm : ∀ (u : State) (e : Nat), mapGet 0 { u with so := { u.so with tmrFrom := mapSet 0 u.so.tmrFrom k e } }.so.tmrFrom k = e :=
    fun _ _ => mapGet_set_same _ _ _ _
  have hq : ∀ (u : State) (x : Sorting) (a i : Nat), State.flag { u with so := x } a i = u.flag a i := fun _ _ _ _ => rfl
  have hn : ∀ (u : State) (a i : Nat) (b : Bool) (c : Nat), ((u.setFlag a i b).cfgOk c).now = u.now := fun _ _ _ _ _ => rfl
  rw [exec_soTimerEnable, execSoTimerEnable, State.whenOn_on _ _ _ _ h, State.timerWrite]
  try dsimp only
  rw [State.unitWrite_enable _ _ _ _ _ _ _ _ _ _ h2 (bitOf_withField_one v (by omega)) (by
    rw [State.fld_store_ne s (a := Reg.SO_TMR_PER k) (chk := Reg.SO_CFGCHK) (b := Reg.SO_TMR_PH k) _ _ _ _ _ e2 e3]
    have hd := s.flag_store_ne (a := Reg.SO_TMR_PER k) (chk := Reg.SO_CFGCHK) (b := Reg.PM_DOMSTAT0) false
      (withField (withField v 31 31 1) 31 31 0) 0 domSo e4 (by decide)
    have hd' : State.domOn (s.store (Reg.SO_TMR_PER k) Reg.SO_CFGCHK false (withField (withField v 31 31 1) 31 31 0)) domSo = true :=
      hd.trans h5.1
    obtain ⟨r, hr⟩ := s.store_eq (Reg.SO_TMR_PER k) Reg.SO_CFGCHK false (withField (withField v 31 31 1) 31 31 0)
    have hk : (s.store (Reg.SO_TMR_PER k) Reg.SO_CFGCHK false (withField (withField v 31 31 1) 31 31 0)).clk = s.clk := by rw [hr]
    rw [hd', hk, h5.2]
    generalize (s.store _ _ _ _).fld _ _ _ = x at *
    simp [failIf, show ¬ x < 2 by omega, h4])]
  refine ⟨_, rfl, ?_, ?_⟩
  · rw [hq, State.cfgOk, State.flag_setReg_ne _ _ _ e1, State.flag_setFlag_same _ _ _ (by omega)]
  · rw [hm, hn, State.store_now]

theorem soRaise_runs (v : BitVec 32) (h : s.unitOn domSo = true) : exec (.soRaise v) s = .next (s.soRaiseWrite v) := by
  rw [exec_soRaise, execSoRaise, if_pos h]

theorem routingEntryWrite_runs (src : Fin 2048) (w : Fin 3) (v : BitVec 32) (h : s.unitOn domSo = true) :
    ∃ u, exec (.routingEntryWrite src w v) s = .next u ∧
      u.reg (Reg.SO_RT_DA src + 4 * w) = (s.store (Reg.SO_RT_DA src + 4 * w) Reg.SO_CFGCHK false v).reg (Reg.SO_RT_DA src + 4 * w) ∧
      (w = 2 → u.fld (Reg.SO_RT_STAT src) 15 8 = 0) := by
  have e1 : Reg.SO_RT_DA src + 4 * w ≠ Reg.SO_CFGCHK := by simp only [Reg.SO_RT_DA, Reg.SO_CFGCHK]; omega
  have e2 : Reg.SO_RT_DA src + 4 * w ≠ Reg.SO_RT_STAT src := by simp only [Reg.SO_RT_DA, Reg.SO_RT_STAT]; omega
  have e3 : Reg.SO_RT_STAT src ≠ Reg.SO_CFGCHK := by simp only [Reg.SO_RT_STAT, Reg.SO_CFGCHK]; omega
  have hq : ∀ (u : State) (x : Sorting) (a : Nat), State.reg { u with so := x } a = u.reg a := fun _ _ _ => rfl
  have hf : ∀ (u : State) (x : Sorting) (a i j : Nat), State.fld { u with so := x } a i j = u.fld a i j := fun _ _ _ _ _ => rfl
  rw [exec_routingEntryWrite, execRoutingEntryWrite, if_pos h, State.routeWrite]
  refine ⟨_, rfl, ?_, ?_⟩
  · dsimp only
    split
    · rw [State.cfgOk, State.reg_setReg_ne _ _ e1, hq]
      split
      · rw [State.reg_setFld_ne _ _ _ _ e2]
      · rfl
    · rw [State.cfgFail, State.reg_setReg_ne _ _ e1, hq]
      split
      · rw [State.reg_setFld_ne _ _ _ _ e2]
      · rfl
  · rintro rfl
    dsimp only
    split
    · rw [State.cfgOk, State.fld_setReg_ne _ _ _ _ e3, hf]; exact (State.fld_setFld_same _ _ _ (by omega) (by omega)).trans (by simp)
    · rw [State.cfgFail, State.fld_setReg_ne _ _ _ _ e3, hf]; exact (State.fld_setFld_same _ _ _ (by omega) (by omega)).trans (by simp)

theorem ownershipSwitch_runs {e : Nat} (h : s.nextSwitch = some e) :
    exec .ownershipSwitch s = .next ((s.advanceTo e).switchDue e) := by
  rw [exec_ownershipSwitch, execOwnershipSwitch, h]

theorem ownershipEntryWrite_runs (i : Fin 112) (v : BitVec 32) (h : s.unitOn domSo = true) (h2 : s.nextSwitch = none)
    (h3 : s.flag (Reg.SO_OWN i) 31 = false) (h4 : bitOf v 31 = true)
    (h5 : s.ownFails i (s.reg (Reg.SO_OWN i)) (withField (withField (withField (withField (s.reg (Reg.SO_OWN i)) 31 31 1) 30 24
      (fieldOf v 30 24)) 23 18 (fieldOf v 23 18)) 17 12 (fieldOf v 17 12)) = []) :
    exec (.ownershipEntryWrite i v) s = .next ((s.setReg (Reg.SO_OWN i) (withField (withField (withField (withField
      (s.reg (Reg.SO_OWN i)) 31 31 1) 30 24 (fieldOf v 30 24)) 23 18 (fieldOf v 23 18)) 17 12 (fieldOf v 17 12))).cfgOk
        Reg.SO_CFGCHK) := by
  have h6 : fieldOf v 31 31 = 1 := by simpa [bitOf] using h4
  rw [State.flag] at h3
  rw [exec_ownershipEntryWrite, execOwnershipEntryWrite, if_pos h, State.ownWrite, State.settleSwitch, h2]
  try dsimp only
  rw [h3, h6, if_neg (by decide), if_neg (by decide), h5]
  have hb : ∀ w : Word, bitOf (withField (withField (withField (withField w 31 31 1) 30 24 (fieldOf v 30 24)) 23 18
      (fieldOf v 23 18)) 17 12 (fieldOf v 17 12)) 31 = true := fun w => by
    rw [bitOf_withField_ne _ _ (by omega) (by omega) (by omega), bitOf_withField_ne _ _ (by omega) (by omega) (by omega),
      bitOf_withField_ne _ _ (by omega) (by omega) (by omega), bitOf_withField_one _ (by omega)]
  simp [failIf, pickFail, State.ownTake, State.ownDisarm, hb]

theorem soMiggo_runs (v : BitVec 32) (h : s.unitOn domSo = true) : exec (.soMiggo v) s = .next s.miggoWrite := by
  rw [exec_soMiggo, execSoMiggo, if_pos h]

end Sys2Proof.Machine
end

