-- ==== Sys2Proof/Laws/RunsPower.lean ====
section
/-! SUPPORT. Where the power manager's commands complete, and with what: one lemma a command (R423 to R438). -/

namespace Sys2Proof.Machine

variable {s : State}

/-- Domain d of register x, off and wanted: it is powered and its usable edge is held. -/
theorem domainPowerUp_runs (x : Fin 2) (v : BitVec 32) {w : Word}
    (hw : w = v ||| s.reg (if x = 0 then Reg.PM_DOMCTL0 else Reg.PM_DOMCTL1)) :
    exec (.domainPowerUp x v) s = .next (s.domctlWrite x w) := by rw [exec_domainPowerUp, execDomainPowerUp, hw]

theorem domainGate_runs (x : Fin 2) (v : BitVec 32) {w : Word}
    (hw : w = v &&& s.reg (if x = 0 then Reg.PM_DOMCTL0 else Reg.PM_DOMCTL1)) :
    exec (.domainGate x v) s = .next (s.domctlWrite x w) := by rw [exec_domainGate, execDomainGate, hw]

theorem domainUsable_runs (d : Fin 64) {e : Nat} (h : mapGet none (s.power.up.map fun p => (p.1, some p.2)) d = some e) :
    exec (.domainUsable d) s = .next ((s.advanceTo e).domUsable d) := by rw [exec_domainUsable, execDomainUsable, h]

/-- A rise of the operating point whose VID changes too: FOP follows at the next alignment instant, then the voltage. -/
theorem opChange_runs (v : BitVec 32) (h : s.flag Reg.PM_OPSTAT 31 = false)
    (h1 : max (waitStates (fieldOf v 1 0) (opVid (fieldOf v 1 0))) (if s.fld Reg.PM_OPSTAT 1 0 < fieldOf v 1 0 then
      waitStates (fieldOf v 1 0) (s.fld Reg.PM_OPSTAT 7 4) else if fieldOf v 1 0 < s.fld Reg.PM_OPSTAT 1 0 then
      waitStates (s.fld Reg.PM_OPSTAT 1 0) (opVid (fieldOf v 1 0)) else 0) ≤ s.fld Reg.FC_CTRL 3 0)
    {u : State} (hu : u = (((s.setFld Reg.PM_OPCTL 1 0 (fieldOf v 1 0)).cfgOk Reg.PM_CFGCHK).setFlag Reg.PM_OPSTAT 31 true))
    (h2 : ¬ (fieldOf v 1 0 = s.fld Reg.PM_OPSTAT 1 0 ∧ opVid (fieldOf v 1 0) = s.fld Reg.PM_OPSTAT 7 4)) :
    exec (.opChange v) s = .next (if s.fld Reg.PM_OPSTAT 1 0 < fieldOf v 1 0 then
      (if opVid (fieldOf v 1 0) = s.fld Reg.PM_OPSTAT 7 4 then
        ((u.advanceTo (alignEdge u.now)).setFld Reg.PM_OPSTAT 1 0 (fieldOf v 1 0)).opEnd
      else ((u.advanceTo (alignEdge u.now)).setFld Reg.PM_OPSTAT 1 0 (fieldOf v 1 0)).opVidStep (fieldOf v 1 0)
        (s.fld Reg.PM_OPSTAT 1 0))
      else u.opVidStep (fieldOf v 1 0) (s.fld Reg.PM_OPSTAT 1 0)) := by
  rw [exec_opChange, execOpChange, State.opctlWrite, h]
  simp only [Bool.false_eq_true, ↓reduceIte, if_neg (Nat.not_lt.mpr h1), if_neg h2, ← hu]

/-- A request that needs more flash wait states than are set is refused and nothing else changes. -/
theorem opChange_refused_runs (v : BitVec 32) (h : s.flag Reg.PM_OPSTAT 31 = false) {need : Nat}
    (hn : need = max (waitStates (fieldOf v 1 0) (opVid (fieldOf v 1 0))) (if s.fld Reg.PM_OPSTAT 1 0 < fieldOf v 1 0 then
      waitStates (fieldOf v 1 0) (s.fld Reg.PM_OPSTAT 7 4) else if fieldOf v 1 0 < s.fld Reg.PM_OPSTAT 1 0 then
      waitStates (s.fld Reg.PM_OPSTAT 1 0) (opVid (fieldOf v 1 0)) else 0)) (h1 : s.fld Reg.FC_CTRL 3 0 < need) :
    exec (.opChange v) s = .next (s.cfgFail Reg.PM_CFGCHK ⟨0x81, 5, need⟩) := by
  rw [exec_opChange, execOpChange, State.opctlWrite, h]
  simp only [Bool.false_eq_true, ↓reduceIte, ← hn, if_pos h1]

theorem voltageConfirmed_runs {o : OpChange} (h : s.power.op = some o) {e : Nat}
    (he : e = (max s.now (o.vidAt + 2000) + 3) / 4 * 4) (h1 : e ≤ o.vidAt + 400000) :
    exec .voltageConfirmed s = .next (State.opEnd (if o.target < o.oldFop then
      (((s.advanceTo e).setFlag Reg.PM_OPSTAT 30 true).advanceTo (alignEdge e)).setFld Reg.PM_OPSTAT 1 0 o.target
      else (s.advanceTo e).setFlag Reg.PM_OPSTAT 30 true)) := by
  rw [exec_voltageConfirmed, execVoltageConfirmed, h]
  dsimp only
  rw [← he, if_neg (by omega)]

theorem pgoodTimeout_runs {o : OpChange} (h : s.power.op = some o) :
    exec .pgoodTimeout s = .next (State.opEnd (((((s.advanceTo (o.vidAt + 400000)).setFlag Reg.PM_OPSTAT 29 true).cfgFail
      Reg.PM_CFGCHK ⟨0x95, 5, 0⟩).setFld Reg.PM_OPSTAT 7 4 (max o.oldVid (opVid o.target))).setFld Reg.PM_OPSTAT 1 0
        (max o.oldFop o.target))) := by
  rw [exec_pgoodTimeout, execPgoodTimeout, h]

theorem pgoodLoss_runs (h : s.power.op = none) {u : State} (hu : u = (((s.advanceTo (alignEdge s.now)).setFld Reg.PM_OPSTAT 1 0
      3).setFlag Reg.PM_OPSTAT 28 true).setFlag Reg.PM_OPSTAT 30 false) :
    exec .pgoodLoss s = .next ((State.pulseLine { u with clk := { u.clk with faultOut := true } } 387).raiseNow 0x772) := by
  rw [exec_pgoodLoss, execPgoodLoss, h, hu]
  rfl

/-! Sleep. -/

theorem State.sleepWrite_ok {v : Word} (h : s.sleepFails (fieldOf v 1 0) = []) (h1 : fieldOf v 1 0 ≠ 3) {u : State}
    (hu : u = (s.cfgOk Reg.PM_CFGCHK).setFld Reg.PM_SLEEPSTAT 6 4 0) :
    s.sleepWrite v = { u with power := { u.power with entry := some (fieldOf v 1 0) } } := by
  rw [State.sleepWrite, h, hu]
  dsimp only
  rw [if_neg h1]

theorem crocusEntry_runs (h : s.sleepFails 1 = []) {u : State} (hu : u = (s.cfgOk Reg.PM_CFGCHK).setFld Reg.PM_SLEEPSTAT 6 4 0) :
    exec .crocusEntry s = .next { u with power := { u.power with entry := some 1 } } := by
  rw [exec_crocusEntry, execCrocusEntry, State.sleepWrite_ok (v := 1) h (by decide) hu]
  rfl

theorem snowdropEntry_runs (h : s.sleepFails 2 = []) {u : State} (hu : u = (s.cfgOk Reg.PM_CFGCHK).setFld Reg.PM_SLEEPSTAT 6 4 0) :
    exec .snowdropEntry s = .next { u with power := { u.power with entry := some 2 } } := by
  rw [exec_snowdropEntry, execSnowdropEntry, State.sleepWrite_ok (v := 2) h (by decide) hu]
  rfl

theorem offEntry_runs (h : s.sleepFails 3 = []) {u : State}
    (hu : u = ((s.cfgOk Reg.PM_CFGCHK).setFld Reg.PM_SLEEPSTAT 6 4 0).coldReset) :
    exec .offEntry s = .next { u with power := { u.power with off := true } } := by
  have e : fieldOf (3 : Word) 1 0 = 3 := by decide
  rw [exec_offEntry, execOffEntry, State.sleepWrite, e, h, hu]
  rfl

theorem sleepPairsStopped_runs {t : Nat} (h : s.power.entry = some t) (h1 : s.pairsStopped = true) {u w : State}
    (hu : u = { s.holdPads with
      power := { s.holdPads.power with entry := none, waking := false, sampling := false }
      cores := s.holdPads.cores.map fun (p : Nat × Core) => (p.1, p.2.cacheLost) })
    (hw : w = ((((u.setReg Reg.PM_DOMSTAT0 0).setReg Reg.PM_DOMSTAT1 (u.reg Reg.PM_DOMSTAT1 &&&
      0x80400000)).setFld Reg.PM_SLEEPSTAT 6 4 5).setFld Reg.PM_SLEEPSTAT 1 0 t).pllStop) :
    exec .sleepPairsStopped s = .next (if w.flag Reg.MG_CLKSTAT 4 then w else w.gapStart) := by
  rw [exec_sleepPairsStopped, execSleepPairsStopped, h]
  dsimp only
  rw [h1, Bool.not_true, if_neg (by decide), ← hu, ← hw]

theorem State.sleepTicks_other (s : State) (n : Nat) : (s.sleepTicks n).power = s.power := by
  rw [State.sleepTicks]
  split
  · rfl
  · split
    · rfl
    · split
      · exact State.setFld_power _ _ _ _ _
      · rfl

/-- A full wake from a sleep state. -/
theorem wakeEvent_runs (src : Fin 5) (ticks : Nat) (h : s.power.off = false) (h1 : s.power.entry = none) {u : State}
    (hu : u = s.sleepTicks ticks) (h2 : u.asleep = true) (h3 : s.power.waking = false)
    (h4 : u.wakes src (u.fld Reg.PM_SLEEPSTAT 1 0) = true) :
    exec (.wakeEvent src ticks) s = .next (u.wakeBegin src) := by
  have e : u.power.waking = false := by rw [hu, State.sleepTicks_other, h3]
  rw [exec_wakeEvent, execWakeEvent, h, h1]
  simp only [Bool.false_eq_true, ↓reduceIte, ← hu, h2, e, h4, Bool.not_false, Bool.and_self]

/-- A wake before E4 abandons the entry. -/
theorem wakeEvent_abandons_runs (src : Fin 5) (ticks : Nat) (h : s.power.off = false) {t : Nat} (h1 : s.power.entry = some t)
    (h2 : s.wakes src t = true) :
    exec (.wakeEvent src ticks) s = .next (((State.sleepResume { s with power := { s.power with entry := none } }).setFlag
      Reg.PM_SLEEPSTAT 11 true).setFld Reg.PM_SLEEPSTAT 10 8 src) := by
  rw [exec_wakeEvent, execWakeEvent, h, h1]
  simp only [Bool.false_eq_true, ↓reduceIte, h2]

/-- WAKE from OFF is a cold reset. -/
theorem wakeEvent_off_runs (ticks : Nat) (h : s.power.off = true) : exec (.wakeEvent 0 ticks) s = .next s.coldReset := by
  rw [exec_wakeEvent, execWakeEvent, h]
  rfl

theorem snowdropTimer_runs (ticks : Nat) {u : State} (hu : u = s.sleepTicks ticks) (h1 : u.fld Reg.PM_SLEEPSTAT 1 0 = 2)
    (h2 : s.power.waking = false) (h3 : u.flag Reg.PM_WAKEEN 2 = true) :
    exec (.snowdropTimer ticks) s = .next (u.wakeBegin 2) := by
  have e : u.power.waking = false := by rw [hu, State.sleepTicks_other, h2]
  have w : u.wakes 2 2 = true := by rw [State.wakes, h3]; rfl
  rw [exec_snowdropTimer, execSnowdropTimer, ← hu]
  rw [if_pos ⟨h1, by rw [e]; rfl, w⟩]

theorem wakeComplete_runs (h : s.power.waking = true) (h1 : s.clk.run = true) {u : State}
    (hu : u = { s with power := { s.power with waking := false } }) :
    exec .wakeComplete s = .next (((((((u.setReg Reg.PM_DOMSTAT0 (u.reg Reg.PM_DOMCTL0)).setReg Reg.PM_DOMSTAT1
      (u.reg Reg.PM_DOMCTL1)).setFld Reg.PM_SLEEPSTAT 1 0 0).sleepResume).pulseLine
        386).raiseNow 0x773)) := by
  rw [exec_wakeComplete, execWakeComplete, h, h1, ← hu]
  rfl

theorem x32okFall_runs (ticks : Nat) {u : State} (hu : u = s.sleepTicks ticks) :
    ∃ t, exec (.x32okFall ticks) s = .next t ∧ t.flag Reg.MG_CLKSTAT 4 = false ∧ t.flag Reg.MG_CLKSTAT 3 = false := by
  rw [exec_x32okFall, execX32okFall, ← hu]
  refine ⟨_, rfl, ?_, ?_⟩
  all_goals
    split
    · rw [State.gapStart, State.flag_setFld_ne _ _ _ _ _ (by decide), State.flag_setFlag_ne _ _ _ _ (by decide)]
      first
        | rw [State.flag_setFlag_same _ _ _ (by decide)]
        | rw [State.flag_setFlag_disjoint _ _ _ (by decide) (by decide), State.flag_setFlag_same _ _ _ (by decide)]
    · first
        | rw [State.flag_setFlag_same _ _ _ (by decide)]
        | rw [State.flag_setFlag_disjoint _ _ _ (by decide) (by decide), State.flag_setFlag_same _ _ _ (by decide)]

theorem crocusSamplingWake_runs (ticks : Nat) {u : State} (hu : u = s.sleepTicks ticks)
    (h1 : u.fld Reg.PM_SLEEPSTAT 1 0 = 1) (h2 : s.power.waking = false) (h3 : s.power.sampling = false) {g : Nat}
    (hg : g = u.fld Reg.PM_CROCUS 1 0) :
    exec (.crocusSamplingWake ticks) s = .next (State.modInc ((List.range 16).foldl (fun s j => s.winOff (16 * g + j))
      ((State.setDom { u with power := { u.power with sampling := true } } (0x19 + g) true).setDom domSo true))
        Reg.PM_SLEEPSTAT 31 16) := by
  have e : u.power.waking = false := by rw [hu, State.sleepTicks_other, h2]
  have e' : u.power.sampling = false := by rw [hu, State.sleepTicks_other, h3]
  rw [exec_crocusSamplingWake, execCrocusSamplingWake, ← hu]
  dsimp only
  rw [if_pos ⟨h1, by rw [e]; rfl, by rw [e']; rfl⟩, ← hg]

theorem State.crocusEnd_sampling (s : State) (b : SMap Slice) (g : Nat) (hit : Option Nat) :
    (s.crocusEnd b g hit).power.sampling = false := by
  rw [State.crocusEnd.eq_def]
  cases hit
  · rfl
  · exact congrArg Power.sampling (State.setFld_power _ _ _ _ _)

/-- The rounds of a decision are folded over k = 0 to CRN; the group and SO are gated again where no result left its
window. -/
theorem crocusDecision_runs (codes : List CrocusCodes) (ticks : Nat) {u : State} (hu : u = s.sleepTicks ticks)
    (h1 : s.power.sampling = true) :
    ∃ w hit, exec (.crocusDecision codes ticks) s = .next (if Option.isSome hit && State.wakes w 3 1 then State.wakeBegin w 3
      else (State.setDom w (0x19 + u.fld Reg.PM_CROCUS 1 0) false).setDom domSo false) ∧ w.power.sampling = false ∧
      hit = ((List.range (u.fld Reg.PM_CROCUS 7 4 + 1)).foldl
        (fun x k => State.crocusRound x.1 codes (256 + 32 * k) x.2) (u, none)).2 := by
  have e : u.power.sampling = true := by rw [hu, State.sleepTicks_other, h1]
  rw [exec_crocusDecision, execCrocusDecision, ← hu]
  simp only [e, Bool.not_true, Bool.false_eq_true, ↓reduceIte]
  generalize (List.range (u.fld Reg.PM_CROCUS 7 4 + 1)).foldl
        (fun x k => State.crocusRound x.1 codes (256 + 32 * k) x.2) (u, none) = z
  refine ⟨_, z.2, ?_, State.crocusEnd_sampling z.1 u.conv.slices (u.fld Reg.PM_CROCUS 1 0) z.2, rfl⟩
  split <;> rfl

theorem padRelease_runs (v : BitVec 32) (h : ∀ b < 15, bitOf v b = true → s.domOn (holdDom b) = true)
    (h1 : ((List.range 15).filter fun b => bitOf v b) ≠ []) :
    exec (.padRelease v) s = .next (((List.range 15).filter fun b => bitOf v b).foldl (fun s b => s.setFlag Reg.PM_PADHOLD b false)
      (s.cfgOk Reg.PM_CFGCHK)) := by
  have e : (((List.range 15).filter fun b => bitOf v b).filter fun b => !s.domOn (holdDom b)) = [] := by
    rw [List.filter_eq_nil_iff]
    intro b hb
    simp only [List.mem_filter, List.mem_range] at hb
    rw [h b hb.1 hb.2]
    decide
  have e1 : ((List.range 15).filter fun b => bitOf v b).isEmpty = false := by
    rw [List.isEmpty_eq_false_iff]
    exact h1
  have e2 : ∀ d, (s.cfgOk Reg.PM_CFGCHK).domOn d = s.domOn d := by
    intro d
    rw [State.domOn, State.domOn, State.cfgOk]
    rw [State.flag_setReg_ne _ _ _ (by decide), State.flag_setReg_ne _ _ _ (by decide)]
  have e3 : (((List.range 15).filter fun b => bitOf v b).filter fun b => (s.cfgOk Reg.PM_CFGCHK).domOn (holdDom b)) =
      ((List.range 15).filter fun b => bitOf v b) := by
    rw [List.filter_eq_self]
    intro b hb
    simp only [List.mem_filter, List.mem_range] at hb
    rw [e2, h b hb.1 hb.2]
  rw [exec_padRelease, execPadRelease, State.padrelWrite]
  simp only [e, e1, Bool.false_eq_true, ↓reduceIte, e3]

end Sys2Proof.Machine
end

