-- ==== Sys2Proof/Laws/RunsPwm.lean ====
section
/-! SUPPORT. Where the PWM commands complete, and with what: one lemma a command (R194 to R235). -/

namespace Sys2Proof.Machine

variable {s : State}

@[simp] theorem State.pwm_setPwm_same (s : State) (n : Nat) (r : Pwm) : (s.setPwm n r).pwm n = r := mapGet_set_same _ _ _ _

theorem edgeInstance_runs (n : Fin 96) (i : PwmInst) {t : Nat} (h1 : s.pwmRuns n = true) (h2 : s.instDue n i = some t)
    (h3 : i = .raRise ∨ i = .raFall ∨ i = .rbRise ∨ i = .rbFall) :
    exec (.edgeInstance n i) s = .next ((s.advanceTo (t / 128)).fireEdge n i t) := by
  rw [exec_edgeInstance]
  unfold execEdgeInstance
  rcases h3 with rfl | rfl | rfl | rfl <;> simp [h1, h2]

theorem triggerInstance_runs (n : Fin 96) (k : Fin 4) (down : Bool) {t : Nat} (h1 : s.pwmRuns n = true)
    (h2 : s.instDue n (.trg k down) = some t) :
    exec (.triggerInstance n k down) s = .next ((s.advanceTo (t / 128)).fireTrg n k down t) := by
  rw [exec_triggerInstance, execTriggerInstance, h2]
  try dsimp only
  rw [if_pos h1]

theorem deadTimeEnd_runs (n : Fin 96) (b : Bool) {t : Nat} (h1 : s.pwmRuns n = true)
    (h2 : (if b then (s.pwm n).riseB else (s.pwm n).riseA) = some t) :
    ∃ u : State, exec (.deadTimeEnd n b) s = .next (if !b && u.outMode n == 2 then u.outTarget n true true 0 t else u) ∧
      u = ((s.advanceTo (t / 128)).setPwm n
        (if b then { s.pwm n with riseB := none } else { s.pwm n with riseA := none })).outEdge n b true t := by
  rw [exec_deadTimeEnd, execDeadTimeEnd]
  try dsimp only
  rw [h2]
  try dsimp only
  rw [h1]
  exact ⟨_, rfl, rfl⟩

theorem periodStart_runs (n : Fin 96) (flt : BitVec 24) {t : Nat} (h1 : (s.setFlt flt).pwmLive n = true)
    (h2 : ((s.setFlt flt).pwm n).early.contains ((s.setFlt flt).pwm n).start = false)
    (h3 : (s.setFlt flt).nextStart n = some t) :
    exec (.periodStart n flt) s = .next (((s.setFlt flt).advanceTo (t / 128)).periodStart n t 0 (reloadEdge t)) := by
  rw [exec_periodStart, execPeriodStart]
  try dsimp only
  rw [h2]
  try dsimp only
  rw [if_neg (by decide), h3]
  try dsimp only
  rw [if_pos h1]

theorem pwmCentre_runs (n : Fin 96) (flt : BitVec 24) {t : Nat} (h1 : (s.setFlt flt).pwmRuns n = true)
    (h2 : (s.setFlt flt).instDue n .centre = some t) :
    exec (.pwmCentre n flt) s = .next (((s.setFlt flt).advanceTo (t / 128)).centre n t) := by
  rw [exec_pwmCentre, execPwmCentre]
  try dsimp only
  rw [h2]
  try dsimp only
  rw [if_pos h1]

theorem pwmCommit_runs (n : Fin 96) (v : BitVec 32) (h1 : s.unitOn (domPwm n) = true) (h2 : s.ownerOf n = none) :
    exec (.pwmCommit n v) s = .next (s.pwmCommitWrite n) := by
  rw [exec_pwmCommit, execPwmCommit, if_pos h1, State.windowOwned, h2]

theorem pulseEndSeen_runs (n : Fin 96) (t : Nat) (h1 : s.pwmRuns n = true) (h2 : s.carrier n = 2) (h3 : s.pulseEnd n = true)
    (h4 : (s.pwm n).endAt = none)
    (h5 : reloadEdge (seenAt t ((s.pwm n).start + s.cmpaF n + s.cmpbF n)) ≤ reloadEdge ((s.pwm n).start + s.perF n)) :
    exec (.pulseEndSeen n t) s =
      .next ((s.advanceTo (seenAt t ((s.pwm n).start + s.cmpaF n + s.cmpbF n) / 128)).setPwm n
        { s.pwm n with endAt := some (seenAt t ((s.pwm n).start + s.cmpaF n + s.cmpbF n)) }) := by
  rw [exec_pulseEndSeen, execPulseEndSeen]
  try dsimp only
  rw [if_pos (by rw [h1, h2, h3, h4]; simp [h5])]

theorem cotTimeout_runs (n : Fin 96) (h1 : s.pwmRuns n = true) (h2 : s.carrier n = 2) (h3 : (s.pwm n).endAt = none) :
    exec (.cotTimeout n) s = .next (((s.advanceTo (((s.pwm n).start + s.perF n) / 128)).setPwm n
      { s.pwm n with endAt := some ((s.pwm n).start + s.perF n) }).pwmTimeout n) := by
  rw [exec_cotTimeout, execCotTimeout]
  try dsimp only
  rw [if_pos (by rw [h1, h2, h3]; rfl)]

theorem coffPulseEnd_runs (n : Fin 96) (t : Nat) (h1 : s.pwmRuns n = true) (h2 : s.carrier n = 3) (h3 : s.pulseEnd n = true)
    (h4 : (s.pwm n).resolved = none) (h5 : max t (s.pwm n).start < (s.pwm n).start + s.cmpbF n) :
    ∃ u, exec (.coffPulseEnd n t) s = .next u ∧
      u = (((s.advanceTo (max t (s.pwm n).start / 128)).setPwm n
        { (s.advanceTo (max t (s.pwm n).start / 128)).pwm n with
          resolved := some (seenAt (max t (s.pwm n).start) (s.pwm n).start)
          endAt := some (seenAt (max t (s.pwm n).start) (s.pwm n).start + (s.advanceTo (max t (s.pwm n).start / 128)).cmpaF n) }).fireEdge n
        .raFall (max t (s.pwm n).start)) := by
  rw [exec_coffPulseEnd, execCoffPulseEnd]
  try dsimp only
  rw [if_pos (by rw [h1, h2, h3, h4]; simp [h5])]
  exact ⟨_, rfl, rfl⟩

theorem coffTimeout_runs (n : Fin 96) (h1 : s.pwmRuns n = true) (h2 : s.carrier n = 3) (h3 : (s.pwm n).resolved = none) :
    ∃ u, exec (.coffTimeout n) s = .next u ∧
      u = (((s.advanceTo (((s.pwm n).start + s.cmpbF n) / 128)).setPwm n
        { (s.advanceTo (((s.pwm n).start + s.cmpbF n) / 128)).pwm n with
          resolved := some ((s.pwm n).start + s.cmpbF n)
          endAt := some ((s.pwm n).start + s.cmpbF n + (s.advanceTo (((s.pwm n).start + s.cmpbF n) / 128)).cmpaF n) }).fireEdge n
        .raFall ((s.pwm n).start + s.cmpbF n)).pwmTimeout n := by
  rw [exec_coffTimeout, execCoffTimeout]
  try dsimp only
  rw [if_pos (by rw [h1, h2, h3]; rfl)]
  exact ⟨_, rfl, rfl⟩

theorem cbcForce_runs (n : Fin 96) (k : Fin 8) (t : Nat) (flt : BitVec 24)
    (h1 : ((s.advanceTo (t / 128)).setFlt flt).pwmRuns n = true)
    (h2 : ((s.advanceTo (t / 128)).setFlt flt).selActive n k false = true) :
    ∃ u : State, exec (.cbcForce n k t flt) s = .next (u.outputs n t) ∧ u.flag (Reg.PWM_TRIPSTAT n) 1 = true ∧
      u.flag (Reg.PWM_TRIPSTAT n) (16 + k) = true ∧ (u.pwm n).cbcSeen = true := by
  have e1 : Reg.PWM_TRIPSTAT n ≠ Reg.PWM_TRIPCNT n := by simp only [Reg.PWM_TRIPSTAT, Reg.PWM_TRIPCNT]; omega
  have hk : k.val < 8 := k.isLt
  rw [exec_cbcForce, execCbcForce]
  try dsimp only
  rw [if_neg (by rw [h1, h2]; decide)]
  refine ⟨_, rfl, ?_, ?_, ?_⟩
  · split
    · exact State.flag_setFlag_same _ _ _ (by omega)
    · exact (State.flag_setFld_ne _ _ _ _ _ e1).trans (State.flag_setFlag_same _ _ _ (by omega))
  · split
    · exact (State.flag_setFlag_disjoint _ _ _ (by omega) (by omega)).trans (State.flag_setFlag_same _ _ _ (by omega))
    · exact (State.flag_setFld_ne _ _ _ _ _ e1).trans
        ((State.flag_setFlag_disjoint _ _ _ (by omega) (by omega)).trans (State.flag_setFlag_same _ _ _ (by omega)))
  · split
    · exact congrArg Pwm.cbcSeen (State.pwm_setPwm_same _ _ _)
    · exact congrArg Pwm.cbcSeen (State.pwm_setPwm_same _ _ _)

theorem latchedTrip_runs (n : Fin 96) (k : Fin 8) (t : Nat) (flt : BitVec 24)
    (h1 : ((s.advanceTo (t / 128)).setFlt flt).domOn (domPwm n) = true)
    (h2 : ((s.advanceTo (t / 128)).setFlt flt).pwmEn n = true)
    (h3 : ((s.advanceTo (t / 128)).setFlt flt).selActive n k true = true) :
    exec (.latchedTrip n k t flt) s = .next (((s.advanceTo (t / 128)).setFlt flt).tripSet n t (some k)) := by
  rw [exec_latchedTrip, execLatchedTrip]
  try dsimp only
  rw [if_pos (by rw [h1, h2, h3]; rfl)]

theorem tripRecord_runs (n : Fin 96) {e k : Nat} {rest : List (Nat × Nat)} (h1 : s.unitOn (domPwm n) = true)
    (h2 : (s.pwm n).records = (e, k) :: rest) (h3 : k < 8) :
    exec (.tripRecord n) s = .next (((((s.advanceTo e).setPwm n { (s.advanceTo e).pwm n with records := rest }).setFlag
      (Reg.PWM_TRIPSTAT n) (24 + k) true).satInc (Reg.PWM_TRIPCNT n) 31 24).raiseAt (8 * n + 6) e 0) := by
  rw [exec_tripRecord, execTripRecord, h2]
  try dsimp only
  rw [h1, if_pos h3]
  rfl

theorem padSenseMismatch_runs (n : Fin 96) (a b : Bool) {e : Nat} (h1 : s.unitOn (domPwm n) = true)
    (h2 : (s.pwm n).senseFrom = some e) (h3 : s.flag (Reg.PWM_TRIPSTAT n) 2 = true)
    (h4 : ¬(a = s.flag (Reg.PWM_TRIPCTL n) 2 ∧ b = s.flag (Reg.PWM_TRIPCTL n) 3)) :
    ∃ u, exec (.padSenseMismatch n a b) s = .next u ∧ (u.pwm n).senseFrom = none ∧ u.flag (Reg.PWM_TRIPSTAT n) 4 = true := by
  have ha : ∀ e a, (s.advanceTo e).reg a = s.reg a := by intro e a; unfold State.advanceTo; split <;> rfl
  have e1 : Reg.PWM_TRIPSTAT n ≠ Reg.PWM_TRIPCNT n := by simp only [Reg.PWM_TRIPSTAT, Reg.PWM_TRIPCNT]; omega
  have hp : ∀ (t : State) (r : Pwm) (a i : Nat), (t.setPwm n r).flag a i = t.flag a i := fun _ _ _ _ => rfl
  have hs : ∀ (t : State) (a hi lo : Nat), (t.satInc a hi lo).pwm n = t.pwm n := fun _ _ _ _ => rfl
  rw [exec_padSenseMismatch, execPadSenseMismatch, h2]
  try dsimp only
  rw [h1, h3, ha, if_neg (by decide), if_neg (show ¬(a = bitOf _ 2 ∧ b = bitOf _ 3) from h4)]
  refine ⟨_, rfl, ?_, ?_⟩
  · split
    · simp
    · rw [hs]; simp
  · split
    · rw [hp]; exact State.flag_setFlag_same _ _ _ (by omega)
    · rw [State.satInc, State.flag_setFld_ne _ _ _ _ _ e1, hp]; exact State.flag_setFlag_same _ _ _ (by omega)

theorem tripClear_runs (n : Fin 96) (v : BitVec 32) (flt : BitVec 24) (h1 : s.unitOn (domPwm n) = true) :
    exec (.tripClear n v flt) s = .next ((s.setFlt flt).tripStatWrite n (withField v 0 0 1)) := by
  rw [exec_tripClear, execTripClear]
  try dsimp only
  rw [show (s.setFlt flt).unitOn (domPwm n) = true from h1, if_pos rfl]

theorem pwmEnable_runs (n : Fin 96) (v : BitVec 32) (h1 : s.unitOn (domPwm n) = true)
    (h2 : s.flag (Reg.PWM_CTRL n) 0 = false)
    (h3 : (s.store (Reg.PWM_CTRL n) (Reg.PWM_CFGCHK n) false (withField (withField v 0 0 1) 0 0 0)).pwmFails n = []) :
    exec (.pwmEnable n v) s =
      .next ((s.enabled (Reg.PWM_CTRL n) (Reg.PWM_CFGCHK n) 0 (withField v 0 0 1)).pwmUp n) := by
  rw [exec_pwmEnable, execPwmEnable, State.whenOn_on _ _ _ _ h1, State.pwmCtrlWrite,
    State.unitWrite_enable _ _ _ _ _ _ _ _ _ _ h2 (bitOf_withField_one v (by omega)) h3]
  rfl

theorem pwmDisable_runs (n : Fin 96) (v : BitVec 32) (h1 : s.unitOn (domPwm n) = true)
    (h2 : s.flag (Reg.PWM_CTRL n) 0 = true) :
    exec (.pwmDisable n v) s =
      .next ((s.store (Reg.PWM_CTRL n) (Reg.PWM_CFGCHK n) true (withField v 0 0 0)).pwmDown n) := by
  rw [exec_pwmDisable, execPwmDisable, if_pos h1, State.pwmCtrlWrite,
    State.unitWrite_disable _ _ _ _ _ _ _ _ _ _ h2 (bitOf_withField_zero v (by omega))]

end Sys2Proof.Machine
end

