-- ==== Sys2Proof/Tests/Slice0.lean ====
section
/-! SUPPORT. The smoke test of well-formedness, small tests against the spec's own figures, and for each clause of the statements
that has hypotheses a state and operands that meet them all (wit_…). -/

namespace Sys2Proof.Tests

open Sys2Proof.Machine

set_option maxRecDepth 20000

/-- Every domain powered, the clocks running, phase OPERATIONAL, SRAM, the TCMs and the map store
initialised, and the registers of `l` written. -/
def demo (l : List (Nat × Word)) : State :=
  l.foldl (fun s p => s.setReg p.1 p.2)
    { State.reset with
      clk := { run := true }
      mem := { init := [(0x4000000, 0x4100000), (0x6000000, 0x6020000), (0x8000000, 0x8008000)] }
      regs := [(Reg.PM_DOMSTAT0, 0xFFFFFFFF), (Reg.PM_DOMSTAT1, 0xFFFFFFFF), (Reg.MG_PHASE, 2)] }

theorem eq_some {α : Type} {o : Option α} {d : α} (h : o.isSome = true) : o = some (o.getD d) := by
  cases o with
  | none => cases h
  | some x => rfl

theorem triple {α β γ : Type} {p : α × β × γ} {r : γ} (h : p.2.2 = r) : p = (p.1, p.2.1, r) := by rw [← h]

theorem twin {α β : Type} {p : α × β} {r : β} (h : p.2 = r) : p = (p.1, r) := by rw [← h]

theorem lead2 {α β : Type} {p : α × Option β} {r : Option β} (h : p.2 = r) : p = (p.1, r) := twin h

/-- A capability for all of memory, with every permission and its cursor at `a`. -/
def allCap (a : Word) : Cap := { length := 0xFFFFFFFF, perms := 0xFFFF, cursor := a, tag := true }

/-- A record at 0x30000100, in its TCM, with capabilities for its TCM in c1 to c5. -/
def demoArch : Arch :=
  { pc := 0x30000100
    caps := [(0, allCap 0), (1, allCap 0x30001000), (2, allCap 0x30002000), (3, allCap 0x30003000), (4, allCap 0x30004000)]
    xstk := allCap 0x30005000 }

/-- Core MC0, of a LOCKSTEP pair, runs from the record `a`. -/
def core (a : Arch) (l : List (Nat × Word)) : State := (demo l).setCore 0 { arch := a, run := .run }

theorem core_ready : (core demoArch []).CoreReady 0 0 :=
  ⟨by decide, by decide, by decide, by decide, by decide, rfl, by decide⟩

/-- The general registers cm1 = 5 and cm2 = 7. -/
def numArch : Arch := { demoArch with cm := [(1, 5), (2, 7)] }

/-- MC0 with a frame at MC_XSTK that returns to 0x30000200, and vectors for line 5 and exception 0x0E. -/
def framed (s : State) : State :=
  State.setBytes (State.setBytes (State.setBytes { s with tags := [(0x3000501, 0x3000502), (0x3000605, 0x3000606)] }
    0x30005000 8 0x30000200) 0x30005010 16 (allCap 0).bits) 0x30006050 16 (allCap 0x30000400).bits

/-- Cell LC51, alone, in handler 3 with a budget of 100 cycles, V0 to V3 = 8. -/
def cellAt (l : List (Nat × Word)) (p : List Nat) : State :=
  (demo ([(Reg.LC_STAT 51, 0x40000000)] ++ l)).setCell 51
    { v := [(0, 8), (1, 8), (2, 8), (3, 8)], pc := 5, nextIssue := 5, handler := some ⟨some 3, 5, 100, 4, 0⟩, stack := p }

theorem cell_ready {regs : List Nat} {isMs : Bool} {cyc : Nat} (h : (cellAt [] []).lcIssueAt 51 regs isMs = 5) (h1 : cyc ≤ 100) :
    (cellAt [] []).LcReady 51 regs isMs 5 cyc :=
  ⟨by decide, by decide, ⟨_, rfl, by decide, by change 5 + cyc ≤ 5 + 100; omega⟩, by decide, by decide, h, by decide,
    by decide, by decide⟩

theorem cell_fine {o : Nat → LcOut} (h : (o 51).fault = none) (h1 : ∀ z, (o 51).target = some z → 0 ≤ z ∧ z ≤ 2047) :
    (cellAt [] []).LcFine 51 o :=
  ⟨fun k hk => by rw [show k = 51 from List.mem_singleton.mp hk]; exact h, h1, fun h => absurd h (by decide),
    fun h => absurd h (by decide)⟩


theorem cell_ready7 : (cellAt [] [7]).LcReady 51 [] false 5 1 :=
  ⟨by decide, by decide, ⟨_, rfl, by decide, by decide⟩, by decide, by decide, by decide, by decide, by decide, by decide⟩

theorem cell_fine7 {o : Nat → LcOut} (h : (o 51).fault = none) (h1 : ∀ z, (o 51).target = some z → 0 ≤ z ∧ z ≤ 2047) :
    (cellAt [] [7]).LcFine 51 o :=
  ⟨fun k hk => by rw [show k = 51 from List.mem_singleton.mp hk]; exact h, h1, fun h => absurd h (by decide),
    fun h => absurd h (by decide)⟩

/-- The state after command c. -/
def after (c : Instr) (s : State) : State := match exec c s with | .next t => t | _ => s

/-! Well-formedness: each check refuses a term that breaks it. -/

theorem test_wf_crossing : Instr.wf (.mainsZeroCrossing 0 (.values 5 (-1) 5 1)) = false := by decide
theorem test_wf_windowSums : Instr.wf (.integratingWindowEnd 0 [⟨1, 0, false⟩, ⟨1, 4, false⟩]) = false := by decide
theorem test_wf_delivery : Instr.wf (.eventDelivery [3, 3]) = false := by decide
theorem test_wf_level : Instr.wf (.levelAccept 0 none none none 7) = false := by decide
theorem test_wf_crocus_short : Instr.wf (.crocusDecision [⟨0, [], false⟩] 1) = false := by decide
theorem test_wf_crocus_twice :
    Instr.wf (.crocusDecision [⟨0, List.replicate 256 0, false⟩, ⟨0, List.replicate 256 0, false⟩] 1) = false := by decide
theorem test_wf_pcie_empty : Instr.wf (.pcieInboundAccess false 0 0 false 0) = false := by decide
theorem test_wf_pcie_data : Instr.wf (.pcieInboundAccess false 0 4 true 0x100000000) = false := by decide
theorem test_wf_completion : Instr.wf (.pcieCompletion 0 (2 ^ 128)) = false := by decide
theorem test_wf_good : Instr.wf (.pcieInboundAccess false 0 4 true 0xFFFFFFFF) = true := by decide

/-! Single steps against the spec's own figures. -/

/-- The example of R15: domain 0x11 is gated; DOMAIN_OFF with no single field. -/
theorem test_domain_off :
    (after (.pwmEnable 5 0) (demo [(Reg.PM_DOMSTAT0, 0xFFFDFFFF), (Reg.PWM_PER 5, 128000), (Reg.PWM_CMPA 5, 200000)])).reg
      (Reg.PWM_CFGCHK 5) = 0x0011FF02 := by decide

/-- The test-port example: a perturbation is refused while PWM20 is enabled and LIVE = 0. -/
theorem test_perturbation_refused :
    (after (.perturbationWrite .sodly 0x80030382)
      (demo [(Reg.MG_PHASE, 3), (Reg.PWM_CTRL 20, 0x7F006101)])).reg Reg.TP_CFGCHK = 0x001406E0 := by decide

/-- The power example: the return to OP0 is refused with WS = 3. -/
theorem test_ws_too_low :
    (after (.opChange 0) (demo [(Reg.PM_OPCTL, 0x22), (Reg.PM_OPSTAT, 0x22), (Reg.FC_CTRL, 0x000F0003)])).reg Reg.PM_CFGCHK =
      0x00080581 := by decide

/-- TAP IDCODE (R479). -/
theorem test_idcode : (after .idcode { demo [] with tp := { tap := { ir := .bypass, dr := 0 } } }).tp.tap.dr = 0x19648A2B := by decide

/-- The core manual's routine: LOOP ib0, 4 at 0x188 with ib0 = 3 sets LSTART, LEND, CREG and ACT (R251). -/
theorem test_loop :
    let s := (core { demoArch with pc := 0x30000188, win := [(0, 3)] } []).setWord 0x30000198 0xC4000000
    (((after (.mcLoop 0 8 0 4) s).arch 0).win0.lstart, ((after (.mcLoop 0 8 0 4) s).arch 0).win0.lend,
      fieldOf ((after (.mcLoop 0 8 0 4) s).arch 0).win0.lctl 4 0, ((after (.mcLoop 0 8 0 4) s).arch 0).act) =
    (0x3000018C, 0x30000198, 8, true) := by decide

/-- Addition wraps, and a destination that is also a source (R248). -/
theorem test_add_wraps :
    ((after (.mcAdd 0 1 1 1 0) (core { demoArch with cm := [(1, 0x80000001)] } [])).arch 0).get 1 = 2 := by decide

/-- A division rounds toward zero (R249). -/
theorem test_div :
    ((after (.mcDiv 0 3 1 2 0) (core { demoArch with cm := [(1, 0xFFFFFFF9), (2, 2)] } [])).arch 0).get 3 = 0xFFFFFFFD := by decide

/-- A postmark before SENT is a duplicate (R452): SENT = 0x0003 and postmark 0xFFFE. -/
theorem test_duplicate_post :
    (after (.letterboxPost 4 0 0xFFFE) (demo [(Reg.LBX_CFG 4, 3), (Reg.LBX_PM 4 0, 0x00030000)])).flag (Reg.LBX_STAT 4) 0 = true := by
  decide

/-! The witnesses of the statements about the machine, the cores and the units. -/

theorem some_pair {α β : Type} {o : Option (α × Option β)} {d : α × Option β} {c : β} (h : (o.bind (·.2)) = some c) :
    o = some ((o.getD d).1, some c) := by
  cases o with
  | none => cases h
  | some p => cases p; simp at h; simp [h]

/-- The state a slide answers, or d. -/
def slid (d : State) : Slide → State
  | .ok s => s
  | _ => d

theorem slid_ok {x : Slide} {d : State} (h : (match x with | .ok _ => true | _ => false) = true) : x = .ok (slid d x) := by
  cases x <;> first | rfl | cases h

theorem wit_StepRunsFrontCommand : ∃ (s : State) (c : Instr) (q : List Instr), s.pending = c :: q :=
  ⟨{ demo [] with pending := [.idcode, .bypass] }, .idcode, [.bypass], rfl⟩

theorem wit_EmptyQueuePassesOneCycle :
    (∃ s : State, s.pending = [] ∧ s.clk.run = true ∧ s.now + 1 < 2 ^ 64) ∧ ∃ s : State, s.pending = [] ∧ s.clk.run = false :=
  ⟨⟨demo [], rfl, rfl, by decide⟩, State.reset, rfl, rfl⟩

theorem wit_StepKeepsCanonicalForm : ∃ s : State, s.Canon ∧ s.pending = [.idcode] :=
  ⟨{ State.reset with pending := [.idcode] }, by constructor <;> decide, rfl⟩

theorem wit_CommandsThatStoreNothingKeepMemory : ∃ i : Instr, i.storesNothing = true := ⟨.sliceEnable 63 0xFFFFFFFF, rfl⟩

theorem wit_StoredBytesReadBack :
    (∃ a n k : Nat, k < a ∧ n = 1) ∧ (∃ a n k : Nat, a + n ≤ k ∧ a = 0x08000000) ∧ (∃ s : State, s.mem.wf = true) ∧ ∃ a b : Nat, b ≠ a :=
  ⟨⟨1, 1, 0, by decide, rfl⟩, ⟨0x08000000, 4, 0x08000004, by decide, rfl⟩, ⟨demo [], by decide⟩, 0, 1, by decide⟩

theorem wit_CommandsLeaveTheQueue : ∃ s : State, s.Canon := ⟨{ State.reset with pending := [.idcode] }, by
  constructor <;> decide⟩

theorem wit_GeneralRegisterZeroReadsZero : ∃ i d : Fin 32, d ≠ 0 ∧ i ≠ d := ⟨0, 31, by decide, by decide⟩

theorem wit_CapabilityLayoutRoundTrips : ∃ v : Nat, v < 2 ^ 128 := ⟨2 ^ 128 - 1, by decide⟩

theorem wit_CoreRegisterFrame : ∃ (i : Instr) (n : Fin 4) (d : Fin 32) (s : State) (k : Nat),
    i.coreAlu = some (n, d) ∧ s.CoreReady n k :=
  ⟨.mcAdd 0 0 1 2 0, 0, 0, core numArch [], 0, rfl, ⟨by decide, by decide, by decide, by decide, by decide, rfl, by decide⟩⟩

theorem wit_CellRegisterFrame : ∃ (i : Instr) (c : Fin 52) (regs : List (Fin 32)) (d : Fin 32) (s : State) (t : Nat),
    i.cellAlu = some (c, regs, d) ∧ s.LcReady c (regs.map Fin.val) false t 1 :=
  ⟨.lcAdd 51 false 3 1 2, 51, [1, 2, 3], 3, cellAt [] [], 5, by decide, cell_ready (by decide) (by decide)⟩

theorem wit_IllegalFormsTrap : ∃ (s : State) (n : Fin 4) (k : Nat), s.CoreReady n k ∧
    (∃ e : Fin 32, e ≠ 0) ∧ (∃ b e : Fin 32, b ≠ 0 ∨ e ≠ 0) ∧ (∃ d e : Fin 32, e ≠ 0 ∨ d.val % 2 ≠ 0) ∧
    (∃ b d e : Fin 32, b ≠ 0 ∨ e ≠ 0 ∨ d.val % 4 ≠ 0) ∧ (∃ a d : Fin 32, d = 0 ∨ 16 ≤ d.val ∨ 16 ≤ a.val) ∧ (∃ a : Fin 32, a ≠ 0) ∧
    ∃ x : BitVec 14, 32 ≤ x.toNat :=
  ⟨core numArch [], 0, 0, ⟨by decide, by decide, by decide, by decide, by decide, rfl, by decide⟩, ⟨31, by decide⟩,
    ⟨1, 0, .inl (by decide)⟩, ⟨1, 0, .inr (by decide)⟩, ⟨0, 2, 0, .inr (.inr (by decide))⟩, ⟨16, 1, .inr (.inr (by decide))⟩, ⟨1, by decide⟩,
    32, by decide⟩

/-- cm1 = the most negative number, cm2 = -1, cm3 = 0, cm4 = the greatest number, cm5 = 1; STE as given. -/
def edgeArch (ste : Bool) : Arch :=
  { demoArch with cm := [(1, 0x80000000), (2, 0xFFFFFFFF), (4, 0x7FFFFFFF), (5, 1)], status := if ste then 0x200 else 0 }

theorem edge_ready : ∀ b, (core (edgeArch b) []).CoreReady 0 0
  | true => ⟨by decide, by decide, by decide, by decide, by decide, rfl, by decide⟩
  | false => ⟨by decide, by decide, by decide, by decide, by decide, rfl, by decide⟩

theorem wit_ArithmeticExceptionsPend :
    (∃ (s : State) (n : Fin 4) (k : Nat) (b : Fin 32), s.CoreReady n k ∧ (s.arch k).get b = 0 ∧ (s.arch k).pa = false) ∧
    (∃ (s : State) (n : Fin 4) (k : Nat) (a b : Fin 32), s.CoreReady n k ∧ (s.arch k).get a = 0x80000000 ∧
      (s.arch k).get b = 0xFFFFFFFF) ∧
    (∃ (s : State) (n : Fin 4) (k : Nat) (a b : Fin 32) (x y : Int), s.CoreReady n k ∧ (s.arch k).pa = false ∧
      x = ((s.arch k).get a).toInt ∧ y = ((s.arch k).get b).toInt ∧ (x + y < -2 ^ 31 ∨ 2 ^ 31 ≤ x + y)) ∧
    (∃ (s : State) (n : Fin 4) (k : Nat) (a b : Fin 32) (x y : Int), s.CoreReady n k ∧ (s.arch k).pa = false ∧
      x = ((s.arch k).get a).toInt ∧ y = ((s.arch k).get b).toInt ∧ (x - y < -2 ^ 31 ∨ 2 ^ 31 ≤ x - y)) ∧
    (∃ (s : State) (n : Fin 4) (k : Nat) (a b : Fin 32) (x y : Int), s.CoreReady n k ∧ (s.arch k).pa = false ∧
      x = ((s.arch k).get a).toInt ∧ y = ((s.arch k).get b).toInt ∧ (x * y < -2 ^ 31 ∨ 2 ^ 31 ≤ x * y)) ∧
    (∃ (s : State) (n : Fin 4) (k : Nat) (a b : Fin 32) (x y : Int), s.CoreReady n k ∧ (s.arch k).pa = false ∧ (s.arch k).ste = true ∧
      x = ((s.arch k).get a).toInt ∧ y = ((s.arch k).get b).toInt ∧ 2 ^ 31 ≤ x + y) ∧
    (∃ (s : State) (n : Fin 4) (k : Nat) (a b : Fin 32) (x y : Int), s.CoreReady n k ∧ (s.arch k).pa = false ∧ (s.arch k).ste = true ∧
      x = ((s.arch k).get a).toInt ∧ y = ((s.arch k).get b).toInt ∧ x - y < -2 ^ 31) ∧
    (∃ (s : State) (n : Fin 4) (k : Nat) (a b : Fin 32) (x y : Int), s.CoreReady n k ∧ (s.arch k).ste = false ∧
      x = ((s.arch k).get a).toInt ∧ y = ((s.arch k).get b).toInt ∧ 2 ^ 31 ≤ x + y) ∧
    ∃ (s : State) (n : Fin 4) (k : Nat) (a b : Fin 32) (x y : Int), s.CoreReady n k ∧ (s.arch k).ste = false ∧
      x = ((s.arch k).get a).toInt ∧ y = ((s.arch k).get b).toInt ∧ x - y < -2 ^ 31 :=
  ⟨⟨core (edgeArch false) [], 0, 0, 3, edge_ready false, by decide, by decide⟩,
    ⟨core (edgeArch false) [], 0, 0, 1, 2, edge_ready false, by decide, by decide⟩,
    ⟨core (edgeArch false) [], 0, 0, 4, 5, _, _, edge_ready false, by decide, rfl, rfl, by decide⟩,
    ⟨core (edgeArch false) [], 0, 0, 1, 5, _, _, edge_ready false, by decide, rfl, rfl, by decide⟩,
    ⟨core (edgeArch false) [], 0, 0, 1, 2, _, _, edge_ready false, by decide, rfl, rfl, by decide⟩,
    ⟨core (edgeArch true) [], 0, 0, 4, 5, _, _, edge_ready true, by decide, by decide, rfl, rfl, by decide⟩,
    ⟨core (edgeArch true) [], 0, 0, 1, 5, _, _, edge_ready true, by decide, by decide, rfl, rfl, by decide⟩,
    ⟨core (edgeArch false) [], 0, 0, 4, 5, _, _, edge_ready false, by decide, rfl, rfl, by decide⟩,
    core (edgeArch false) [], 0, 0, 1, 5, _, _, edge_ready false, by decide, rfl, rfl, by decide⟩

/-- c1 a segment of 4 KiB with every permission, c2 sealed with type 5, c3 the types 0 to 15; cm1 = 16, cm2 = 4080, cm4 = 5. -/
def capArch : Arch :=
  { demoArch with
    cm := [(1, 16), (2, 4080), (4, 5)]
    caps := [(0, allCap 0), (1, ⟨0x20000000, 0x1000, 0x07FF, 0, 0x20000000, true⟩), (2, ⟨0x20000000, 0x1000, 0x07FF, 5, 0x20000000, true⟩),
      (3, ⟨0, 16, 0x07FF, 0, 0, true⟩)] }

theorem cap_ready : (core capArch []).CoreReady 0 0 :=
  ⟨by decide, by decide, by decide, by decide, by decide, rfl, by decide⟩

theorem wit_DerivedCapabilitiesAreNeverWider :
    (∃ (s : State) (n : Fin 4) (k : Nat) (d a : Fin 32) (c : Cap), s.CoreReady n k ∧ (d.val ≠ 0 ∧ d.val < 16) ∧ a.val < 16 ∧
      c = (s.arch k).cap a ∧ c.isSealed = false ∧ c.tag = true ∧
      (∃ b e : Fin 32, ((s.arch k).get b).toNat + ((s.arch k).get e).toNat ≤ c.length.toNat) ∧
      c.base.toNat + c.length.toNat < 2 ^ 32 ∧
      ∃ (b e : Fin 32) (x : Cap) (y : Nat), e.val < 16 ∧ x = (s.arch k).cap e ∧ x.tag = true ∧ x.isSealed = false ∧
        x.may permSeal = true ∧ y = ((s.arch k).get b).toNat ∧ (0 < y ∧ y ≤ 0xFFFF) ∧
        x.base.toNat ≤ y ∧ y < x.base.toNat + x.length.toNat) ∧
    ∃ (s : State) (n : Fin 4) (k : Nat) (d a : Fin 32) (c : Cap), s.CoreReady n k ∧ (d.val ≠ 0 ∧ d.val < 16) ∧ a.val < 16 ∧
      c = (s.arch k).cap a ∧ c.tag = true ∧ c.isSealed = true ∧
      ∃ (e : Fin 32) (x : Cap) (y : Nat), e.val < 16 ∧ x = (s.arch k).cap e ∧ x.tag = true ∧ x.isSealed = false ∧
        x.may permUnseal = true ∧ y = c.otype.toNat ∧ x.base.toNat ≤ y ∧ y < x.base.toNat + x.length.toNat :=
  ⟨⟨core capArch [], 0, 0, 15, 1, _, cap_ready, by decide, by decide, rfl, by decide, by decide, ⟨1, 2, by decide⟩, by decide,
      4, 3, _, _, by decide, rfl, by decide, by decide, by decide, rfl, by decide, by decide, by decide⟩,
    core capArch [], 0, 0, 15, 2, _, cap_ready, by decide, by decide, rfl, by decide, by decide,
      3, _, _, by decide, rfl, by decide, by decide, by decide, rfl, by decide, by decide⟩

theorem wit_CellStoresWriteOnlyTheirWords :
    (∃ (s : State) (c : Fin 52) (d a : Fin 32) (imm : BitVec 16) (t x : Nat), s.paired c = false ∧ x = s.lcAddr c a imm ∧
      s.LcReady c [a, d] false t 1 ∧ x % 4 = 0 ∧ x < 8192) ∧
    ∃ (s : State) (c : Fin 52) (d a : Fin 32) (imm : BitVec 16) (t x : Nat), s.paired c = false ∧ x = s.lcAddr c a imm ∧
      s.LcReady c [a, d, d + 1] false t 1 ∧ d.val % 2 = 0 ∧ x % 8 = 0 ∧ x < 8192 :=
  ⟨⟨cellAt [] [], 51, 2, 1, 8180, 5, _, by decide, rfl, cell_ready (by decide) (by decide), by decide, by decide⟩,
    cellAt [] [], 51, 2, 1, 8176, 5, _, by decide, rfl, cell_ready (by decide) (by decide), by decide, by decide, by decide⟩

/-- MC0 with a usable vector of exception 5 and a usable exception stack. -/
def vectored : State := framed (core { demoArch with xvt := 0x30006000 } [])

theorem wit_ExceptionEntrySavesAndTransfers :
    ∃ (s t v w : State) (k xa saved xc n : Nat) (x : Exc) (impr multi : Bool) (c : Cap) (xs : Cap),
    x.addr = some xa ∧ xc = 2 ^ 31 * bit impr + 2 ^ 30 * bit multi + 2 ^ 16 * x.acc + x.creg * 2 ^ 8 + x.num ∧
    s.vector k ((s.arch k).xvt.toNat + 16 * x.num) = some (t, some c) ∧ c.vectorOk = true ∧
    t.slideFwd k 0 = .ok v ∧ xs = (t.arch k).xstk ∧ xs.tag = true ∧ xs.isSealed = false ∧ xs.may permStore = true ∧
    xs.may permStcap = true ∧ 32 ≤ xs.cursor.toNat ∧ n = xs.cursor.toNat - 32 ∧ n % 16 = 0 ∧ xs.covers n 32 = true ∧ v.badAccess n 32 = false ∧
    v.pushStores k (storePair n (saved + 2 ^ 32 * (t.arch k).status.toNat) (xs.may permHold) ++
      storeCap (n + 16) { (t.arch k).cap 0 with cursor := BitVec.ofNat 32 saved } ((t.arch k).cap 0).tag (xs.may permHold)) = some w :=
  ⟨vectored, ((vectored.vector 0 0x30006050).getD (vectored, none)).1, slid vectored (((vectored.vector 0 0x30006050).getD (vectored, none)).1.slideFwd 0 0),
    _, 0, 0x30000100, 0x30000100, _, _, { num := 5, addr := some 0x30000100 }, false, false, allCap 0x30000400, _, rfl, rfl,
    some_pair (by decide), by decide, slid_ok (by decide), rfl, by decide, by decide, by decide, by decide, by decide, rfl, by decide,
    by decide, by decide, eq_some (d := vectored) (by decide)⟩

theorem wit_WindowSlidesAndReturns :
    (∃ (s : State) (k : Nat), (s.arch k).slot < 8 ∧ (s.arch k).depth < 7 ∧ 1 ≤ (s.arch k).depth ∧ s.slideFwd k 4 = .ok (slid s (s.slideFwd k 4))) ∧
    ∃ (s : State) (k : Nat), (s.arch k).slot = 7 ∧ (s.arch k).depth = 6 :=
  ⟨⟨core { demoArch with slot := 7, depth := 6 } [], 0, by decide, by decide, by decide, slid_ok (by decide)⟩,
    core { demoArch with slot := 7, depth := 6 } [], 0, by decide, by decide⟩

theorem wit_ResetsClearTheCores : ∃ s : State, s.phase ≠ 0 ∧ s.power.off = false := ⟨demo [], by decide, rfl⟩

theorem wit_TagsFollowTheGranule :
    (∃ a n x : Nat, a ≤ x ∧ x < a + n ∧ x = 0x2000000F) ∧ ∃ a : Nat, hasTags a = true ∧ a = 0x20000000 :=
  ⟨⟨0x2000000F, 1, _, by decide, by decide, rfl⟩, _, by decide, rfl⟩

theorem wit_EccStrengthWritesFollowThePhase :
    (∃ (s : State) (k : Fin 9) (v w : Word) (n base : Nat), w = (if k.val = 8 then BitVec.ofNat 32 (v.toNat % 256) else v) ∧
      n = (if k.val = 8 then 4 else 16) ∧ base = (if k.val = 8 then 0x40000000 else 0x20000000 + 0x100000 * k.val) ∧
      w ≠ s.reg (Reg.MG_ECCSTR k) ∧ (∀ r < n, fieldOf w (2 * r + 1) (2 * r) ≠ 0) ∧ s.phase ≠ 1 ∧ s.phase ≠ 3 ∧ s.phase ≠ 4) ∧
    ∃ (s : State) (k : Fin 9) (v w : Word) (n base : Nat), w = (if k.val = 8 then BitVec.ofNat 32 (v.toNat % 256) else v) ∧
      n = (if k.val = 8 then 4 else 16) ∧ base = (if k.val = 8 then 0x40000000 else 0x20000000 + 0x100000 * k.val) ∧
      w ≠ s.reg (Reg.MG_ECCSTR k) ∧ (∀ r < n, fieldOf w (2 * r + 1) (2 * r) ≠ 0) ∧ (s.phase = 1 ∨ s.phase = 3 ∨ s.phase = 4) ∧
      ∃ r < n, fieldOf w (2 * r + 1) (2 * r) ≠ s.fld (Reg.MG_ECCSTR k) (2 * r + 1) (2 * r) :=
  ⟨⟨demo [], 2, 0xAAAAAAAB, _, _, _, rfl, rfl, rfl, by decide, by decide, by decide, by decide, by decide⟩,
    demo [(Reg.MG_PHASE, 1)], 2, 0xAAAAAAAB, _, _, _, rfl, rfl, rfl, by decide, by decide, .inl (by decide), by decide⟩

/-- Letterbox 4, enabled, with SENT = 3 and these messages held in direction AB. -/
def boxed (l : List (Nat × BitVec 64)) : State :=
  let s := demo [(Reg.LBX_CFG 4, 3), (Reg.LBX_PM 4 0, 0x00030000)]
  s.setRing 4 0 { s.ring 4 0 with msgs := l }

theorem wit_LetterboxPostsAreOrdered :
    (∃ (s : State) (k : Fin 32) (d : Fin 2) (p : BitVec 16) (sent : Nat), s.unitOn domHost = true ∧ s.lbxEn k = true ∧
      sent = s.fld (Reg.LBX_PM k d) 31 16 ∧ ((p.toNat + 65536 - sent) % 65536 = 0 ∨ 32768 ≤ (p.toNat + 65536 - sent) % 65536)) ∧
    (∃ (s : State) (k : Fin 32) (d : Fin 2) (p : BitVec 16) (sent : Nat), s.unitOn domHost = true ∧ s.lbxEn k = true ∧
      sent = s.fld (Reg.LBX_PM k d) 31 16 ∧ (p.toNat + 65536 - sent) % 65536 ≠ 0 ∧ (p.toNat + 65536 - sent) % 65536 < 32768 ∧
      64 ≤ (s.ring k d).msgs.length) ∧
    ∃ (s : State) (k : Fin 32) (d : Fin 2) (p : BitVec 16) (sent : Nat), s.unitOn domHost = true ∧ s.lbxEn k = true ∧
      sent = s.fld (Reg.LBX_PM k d) 31 16 ∧ (p.toNat + 65536 - sent) % 65536 ≠ 0 ∧ (p.toNat + 65536 - sent) % 65536 < 32768 ∧
      (s.ring k d).msgs.length < 64 :=
  ⟨⟨boxed [], 4, 0, 0x8003, _, by decide, by decide, rfl, by decide⟩,
    ⟨boxed (List.replicate 64 (0, 0)), 4, 0, 0x8002, _, by decide, by decide, rfl, by decide, by decide, by decide⟩,
    boxed (List.replicate 63 (0, 0)), 4, 0, 0x0004, _, by decide, by decide, rfl, by decide, by decide, by decide⟩

/-- Comparator 95, enabled and settled, with an active raw state. -/
def compared : State :=
  let s := demo [(Reg.CMP_CTRL 95, 1), (Reg.CMP_STAT 95, 4)]
  s.setCmp 95 { s.cmp 95 with raw := true }

theorem wit_ComparatorLatchSetWins :
    (∃ (s : State) (n : Fin 96), s.unitOn (domCmp n) = true ∧ s.setCondition n (s.now * 128) = true) ∧
    ∃ (s : State) (n : Fin 96), s.unitOn (domCmp n) = true ∧ s.setCondition n (s.now * 128) = false :=
  ⟨⟨compared, 95, by decide, by decide⟩, demo [], 95, by decide, by decide⟩

/-- Generator 95, tripped, with FLT0 (active low) in its first selector, enabled and latched. -/
def tripped : State := demo [(Reg.PWM_TRIPSEL 95 0, 0xC0000060), (Reg.PWM_TRIPSTAT 95, 1)]

theorem wit_TripClearsOnlyWithoutSource :
    (∃ (s : State) (n : Fin 96) (flt : BitVec 24), s.unitOn (domPwm n) = true ∧ s.flag (Reg.PWM_TRIPSTAT n) 0 = true ∧
      ∃ k < 8, (s.setFlt flt).selActive n k true = true) ∧
    ∃ (s : State) (n : Fin 96) (flt : BitVec 24), s.unitOn (domPwm n) = true ∧ s.flag (Reg.PWM_TRIPSTAT n) 0 = true ∧
      (∀ k < 8, (s.setFlt flt).selActive n k true = false) ∧ s.flag (Reg.PWM_TRIPSTAT n) 7 = false :=
  ⟨⟨tripped, 95, 0, by decide, by decide, by decide⟩, tripped, 95, 0xFFFFFF, by decide, by decide, by decide, by decide⟩

theorem wit_EventsArriveAfterTheirDelay :
    (∃ (s : State) (src delay : Nat), s.unitOn domSo = true ∧ s.flag Reg.SO_CTRL 0 = true ∧ nsetHas s.so.rtFail src = false ∧
      delay = s.fld (Reg.SO_RT_CFG src) 7 0 ∧ s.fld (Reg.SO_RT_STAT src) 15 8 = 0 ∧ (delay = 0 ∨ s.fld (Reg.SO_RT_STAT src) 3 0 < 8) ∧
      s.flag Reg.TP_SODLY 31 = false ∧ delay = 255) ∧
    ∃ (s : State) (x : Flight), s.unitOn domSo = true ∧ s.flag Reg.SO_CTRL 0 = true ∧ x ∈ s.so.flights ∧ ∀ y ∈ s.so.flights, x.due ≤ y.due :=
  ⟨⟨demo [(Reg.SO_CTRL, 1), (Reg.SO_RT_CFG 0x382, 0xFF)], 0x382, _, by decide, by decide, by decide, rfl, by decide, .inr (by decide),
      by decide, by decide⟩,
    { demo [(Reg.SO_CTRL, 1)] with so := { flights := [⟨1, 9, 896, [0], false⟩, ⟨2, 9, 900, [], false⟩] } }, ⟨2, 9, 900, [], false⟩, by decide,
      by decide, by decide, by decide⟩

theorem wit_TimeNeverRunsBack : ∃ e : Nat, e < 2 ^ 64 := ⟨2 ^ 64 - 1, by decide⟩

theorem wit_IdentityFollowsTheSeed :
    (∃ s t : State, s.seed = t.seed ∧ s.now ≠ t.now) ∧ ∃ s : State, s.phase ≠ 0 ∧ s.flag Reg.MG_SVCSTAT 31 = false :=
  ⟨⟨State.reset, { State.reset with clk := { devtime := 1 } }, rfl, by decide⟩, demo [], by decide, by decide⟩

/-! The witnesses of the families' clauses. -/

theorem wit_sliceEnable : ∃ (s : State) (n : Fin 64) (v : BitVec 32),
    s.unitOn (domSlice n) = true ∧
    s.sliceEn n = false ∧
    (s.store (Reg.CS_CTRL n) (Reg.CS_CFGCHK n) false (withField (withField v 0 0 1) 0 0 0)).sliceFails n = [] :=
  ⟨demo [], 63, 0x0001, by decide, by decide, by decide⟩

theorem wit_sliceDisable : ∃ (s : State) (n : Fin 64),
    s.unitOn (domSlice n) = true ∧
    s.sliceEn n = true :=
  ⟨demo [(Reg.CS_CTRL 63, 1)], 63, by decide, by decide⟩

theorem wit_fastResultWrite : ∃ (s : State) (n : Fin 64) (e : Engine),
    s.unitOn (domSlice n) = true ∧
    firstDue (s.slice n).engines = some e :=
  ⟨(demo []).setSlice 0 { engines := [⟨5, []⟩] }, 0, ⟨5, []⟩, by decide, by decide⟩

theorem wit_freeRunningResult : ∃ (s : State) (n : Fin 64),
    s.unitOn (domSlice n) = true ∧
    s.sliceEn n = true ∧
    s.flag (Reg.CS_STAT n) 0 = true ∧
    s.freeEntries n ≠ [] :=
  ⟨demo [(Reg.CS_CTRL 0, 1), (Reg.CS_STAT 0, 1), (Reg.SQ_CTRL 0, 1), (Reg.SQ_ENT 0 0, 0x80010000)], 0, by decide, by decide, by decide, by decide⟩

theorem wit_groupEnable : ∃ (s : State) (g : Fin 4) (v : BitVec 32),
    s.unitOn (0x19 + g) = true ∧
    s.flag (Reg.CG_MPT g) 0 = false ∧
    (s.store (Reg.CG_MPT g) (Reg.CG_CFGCHK g) false (withField (withField v 0 0 1) 0 0 0)).groupFails g = [] :=
  ⟨demo [], 3, 0x00640003, by decide, by decide, by decide⟩

theorem wit_integratingWindowEnd : ∃ (s : State) (g : Fin 4) (st : Nat),
    s.unitOn (0x19 + g) = true ∧
    s.flag (Reg.CG_MPT g) 0 = true ∧
    (s.group g).winStart = some st :=
  ⟨(demo [(Reg.CG_MPT 0, 1)]).setGroup 0 { winStart := some 0, winLen := 8000000 }, 0, 0, by decide, by decide, by decide⟩

theorem wit_integratingResultWrite : ∃ (s : State) (g : Fin 4) (d : IntDone) (ds : List IntDone),
    s.unitOn (0x19 + g) = true ∧
    (s.group g).done = d :: ds :=
  ⟨(demo []).setGroup 0 { done := [⟨0, 5, 8, 1, 8, false, false⟩] }, 0, ⟨0, 5, 8, 1, 8, false, false⟩, [], by decide, by decide⟩

theorem wit_mainsZeroCrossing : ∃ (s : State) (g : Fin 4) (c : Crossing) (e : Nat),
    s.unitOn (0x19 + g) = true ∧
    s.flag (Reg.CG_MPT g) 0 = true ∧
    s.flag (Reg.CG_MPT g) 1 = false ∧
    (s.flag (Reg.CG_MPT g) 2 = match c with | .pin _ => true | .values .. => false) ∧
    crossingEdge c = some e :=
  ⟨demo [(Reg.CG_MPT 0, 1)], 0, .values 100 (-256) 200 0, 200, by decide, by decide, by decide, by decide, by decide⟩

theorem wit_trackerNoSignal : ∃ (s : State) (g : Fin 4),
    s.unitOn (0x19 + g) = true ∧
    s.flag (Reg.CG_MPT g) 0 = true ∧
    s.flag (Reg.CG_MPT g) 1 = false :=
  ⟨demo [(Reg.CG_MPT 0, 1)], 0, by decide, by decide, by decide⟩

theorem wit_trackFirstWindowTimeout : ∃ (s : State) (g : Fin 4),
    s.unitOn (0x19 + g) = true ∧
    s.flag (Reg.CG_MPT g) 0 = true ∧
    s.flag (Reg.CG_MPT g) 1 = false ∧
    (s.group g).winStart = none :=
  ⟨demo [(Reg.CG_MPT 0, 1)], 0, by decide, by decide, by decide, by decide⟩

theorem wit_calStepStart : ∃ (s : State) (g : Fin 4) (j : Nat),
    s.unitOn (0x19 + g) = true ∧
    s.flag (Reg.CG_CALCTL g) 0 = true ∧
    s.flag (Reg.CG_CALCTL g) 1 = false ∧
    s.arbHeld 2 g = true ∧
    s.arbHeld 3 g = false ∧
    (s.arb.queue.any (fun t => t.act == 3 && t.res == g.val) = false) ∧
    (s.group g).calStart = none ∧
    (s.group g).calStop = false ∧
    nextUnmasked (s.fld (Reg.CG_CALCTL g) 31 16) (s.group g).nextSlice = some j :=
  ⟨{ demo [(Reg.CG_CALCTL 0, 1)] with arb := { granted := [⟨0, 2, 0⟩] } }, 0, 0, by decide, by decide, by decide, by decide, by decide, by decide, by decide, by decide, by decide⟩

theorem wit_calSubstitution : ∃ (s : State) (g : Fin 4) (st : Nat),
    (s.group g).calStart = some st ∧
    s.fld (Reg.CG_CALSTAT g) 5 4 = 1 ∧
    s.sliceEn (s.stepSlice g) = true ∧
    s.stepSlice g < 64 :=
  ⟨(demo [(Reg.CS_CTRL 0, 1), (Reg.CG_CALSTAT 0, 0x10)]).setGroup 0 { calStart := some 0 }, 0, 0, by decide, by decide, by decide, by decide⟩

theorem wit_calPinRelease : ∃ (s : State) (g : Fin 4) (st : Nat),
    (s.group g).calStart = some st ∧
    s.fld (Reg.CG_CALSTAT g) 5 4 = 2 :=
  ⟨(demo [(Reg.CG_CALSTAT 0, 0x20)]).setGroup 0 { calStart := some 0 }, 0, 0, by decide, by decide⟩

theorem wit_calHandback : ∃ (s : State) (g : Fin 4) (st : Nat),
    (s.group g).calStart = some st ∧
    2 ≤ s.fld (Reg.CG_CALSTAT g) 5 4 :=
  ⟨(demo [(Reg.CG_CALSTAT 0, 0x20)]).setGroup 0 { calStart := some 0 }, 0, 0, by decide, by decide⟩

theorem wit_calSpareRelease : ∃ (s : State) (g : Fin 4) (e : Nat),
    (s.group g).spareHeld = some e :=
  ⟨(demo []).setGroup 0 { spareHeld := some 0 }, 0, 0, by decide⟩

theorem wit_calRun : ∃ (s : State) (g : Fin 4) (v : BitVec 32) (k : Nat) (u : State),
    s.unitOn (0x19 + g) = true ∧
    s.flag (Reg.CG_CALCTL g) 0 = false ∧
    s.flag (Reg.CG_CALCTL g) 1 = false ∧
    bitOf v 1 = false ∧
    s.fld (Reg.CG_CALSTAT g) 12 8 = 0x1F ∧
    (s.group g).calTicket = none ∧
    (s.store (Reg.CG_CALCTL g) (Reg.CG_CFGCHK g) false (withField v 0 0 1)).arbRequest 2 g = (.accepted k, u) :=
  ⟨demo [(Reg.CG_CALSTAT 0, 0x1F00)], 0, 1, _, _, by decide, by decide, by decide, by decide, by decide, by decide, rfl⟩

theorem wit_calStop : ∃ (s : State) (g : Fin 4) (v : BitVec 32),
    s.unitOn (0x19 + g) = true ∧
    s.flag (Reg.CG_CALCTL g) 0 = true ∧
    s.flag (Reg.CG_CALCTL g) 1 = bitOf v 1 ∧
    (((s.store (Reg.CG_CALCTL g) (Reg.CG_CFGCHK g) false (withField v 0 0 0)).calHold g).calMaybeRelease g).flag (Reg.CG_CALCTL g) 0 = false :=
  ⟨demo [(Reg.CG_CALCTL 0, 1)], 0, 0, by decide, by decide, by decide, by decide⟩

theorem wit_calPause : ∃ (s : State) (g : Fin 4) (v : BitVec 32),
    s.unitOn (0x19 + g) = true ∧
    s.flag (Reg.CG_CALCTL g) 0 = bitOf v 0 ∧
    s.flag (Reg.CG_CALCTL g) 1 = false :=
  ⟨demo [(Reg.CG_CALCTL 0, 1)], 0, 3, by decide, by decide, by decide⟩

theorem wit_calResume : ∃ (s : State) (g : Fin 4) (v : BitVec 32),
    s.unitOn (0x19 + g) = true ∧
    s.flag (Reg.CG_CALCTL g) 0 = true ∧
    s.flag (Reg.CG_CALCTL g) 1 = true ∧
    bitOf v 0 = true ∧
    (s.store (Reg.CG_CALCTL g) (Reg.CG_CFGCHK g) false (withField v 1 1 0)).flag (Reg.CG_CALCTL g) 0 = true :=
  ⟨demo [(Reg.CG_CALCTL 0, 3)], 0, 1, by decide, by decide, by decide, by decide, by decide⟩

theorem wit_testdacRequest : ∃ (s : State) (g : Fin 4) (v : BitVec 32) (k : Nat) (u : State),
    s.unitOn (0x19 + g) = true ∧
    s.flag (Reg.CG_DIAG g) 0 = false ∧
    (s.group g).diagTicket = none ∧
    (s.store (Reg.CG_DIAG g) (Reg.CG_CFGCHK g) false (withField (withField v 0 0 1) 0 0 0)).diagFails g = [] ∧
    (s.store (Reg.CG_DIAG g) (Reg.CG_CFGCHK g) false (withField (withField v 0 0 1) 0 0 0)).arbRequest 3 g = (.accepted k, u) :=
  ⟨demo [(Reg.CG_CALSTAT 0, 0x1F00)], 0, 0x13, _, _, by decide, by decide, by decide, by decide, rfl⟩

theorem wit_testdacRelease : ∃ (s : State) (g : Fin 4) (k : Nat),
    s.unitOn (0x19 + g) = true ∧
    s.flag (Reg.CG_DIAG g) 0 = true ∧
    (s.group g).diagTicket = some k :=
  ⟨(demo [(Reg.CG_DIAG 0, 0x13)]).setGroup 0 { diagTicket := some 7 }, 0, 7, by decide, by decide, by decide⟩

theorem wit_sequencerEnable : ∃ (s : State) (n : Fin 16) (v : BitVec 32),
    s.unitOn domSo = true ∧
    s.flag (Reg.SQ_CTRL n) 0 = false ∧
    (s.store (Reg.SQ_CTRL n) (Reg.SQ_CFGCHK n) false (withField (withField v 0 0 1) 0 0 0)).seqFails n = [] :=
  ⟨demo [], 15, 1, by decide, by decide, by decide⟩

theorem wit_sqEntryWrite : ∃ (s : State) (n : Fin 16),
    s.unitOn domSo = true ∧
    s.flag (Reg.SQ_CTRL n) 0 = false :=
  ⟨demo [], 15, by decide, by decide⟩

theorem wit_comparatorLatchSet : ∃ (s : State) (n : Fin 96) (t : Nat),
    (s.advanceTo (t / 128)).setCondition n t = true :=
  ⟨(demo [(Reg.CMP_CTRL 0, 1), (Reg.CMP_STAT 0, 4)]).setCmp 0 { raw := true }, 0, 0, by decide⟩

theorem wit_comparatorRawChange : ∃ (s : State) (n : Fin 96),
    s.domOn (domCmp n) = true :=
  ⟨demo [], 95, by decide⟩

theorem wit_comparatorSetRecord : ∃ (s : State) (n : Fin 96) (e : Nat),
    s.unitOn (domCmp n) = true ∧
    (s.cmp n).record = some e :=
  ⟨(demo []).setCmp 95 { record := some 9 }, 95, 9, by decide, by decide⟩

theorem wit_latchClear : ∃ (s : State) (n : Fin 96),
    s.unitOn (domCmp n) = true ∧
    s.setCondition n (s.now * 128) = false :=
  ⟨demo [(Reg.CMP_STAT 0, 1)], 0, by decide, by decide⟩

theorem wit_blankingClose : ∃ (s : State) (n : Fin 96) (e : Nat),
    s.unitOn (domCmp n) = true ∧
    (s.cmp n).blankTill = some e :=
  ⟨(demo []).setCmp 0 { blankTill := some 9 }, 0, 9, by decide, by decide⟩

theorem wit_refWrite : ∃ (s : State) (n : Fin 96),
    s.unitOn (domCmp n) = true :=
  ⟨demo [], 95, by decide⟩

theorem wit_comparatorLiveWrite_ramp : ∃ (s : State) (n : Fin 96) (v : BitVec 32),
    s.unitOn (domCmp n) = true ∧
    s.rampFails n (fieldOf v 9 0) = [] :=
  ⟨demo [(Reg.CMP_CTRL 0, 0x00000001)], 0, 1000, by decide, by decide⟩

theorem wit_comparatorLiveWrite_blank : ∃ (s : State) (n : Fin 96) (v : BitVec 32),
    s.unitOn (domCmp n) = true ∧
    s.blankFails n v = [] :=
  ⟨demo [(Reg.CMP_CTRL 0, 0x00000001)], 0, 800, by decide, by decide⟩

theorem wit_comparatorLiveWrite_ctrl : ∃ (s : State) (n : Fin 96),
    s.unitOn (domCmp n) = true ∧
    s.flag (Reg.CMP_CTRL n) 0 = true :=
  ⟨demo [(Reg.CMP_CTRL 95, 1)], 95, by decide, by decide⟩

theorem wit_comparatorEnable : ∃ (s : State) (n : Fin 96) (v : BitVec 32),
    s.unitOn (domCmp n) = true ∧
    s.flag (Reg.CMP_CTRL n) 0 = false ∧
    (s.store (Reg.CMP_CTRL n) (Reg.CMP_CFGCHK n) false (withField (withField v 0 0 1) 0 0 0)).cmpFails n = [] :=
  ⟨demo [], 95, 0x00000001, by decide, by decide, by decide⟩

theorem wit_comparatorSettled : ∃ (s : State) (n : Fin 96) (e : Nat),
    s.unitOn (domCmp n) = true ∧
    s.flag (Reg.CMP_CTRL n) 0 = true ∧
    (s.cmp n).settle = some e :=
  ⟨(demo [(Reg.CMP_CTRL 0, 1)]).setCmp 0 { settle := some 9 }, 0, 9, by decide, by decide, by decide⟩

theorem wit_selftestRequest : ∃ (s : State) (n : Fin 96) (v : BitVec 32) (k : Nat) (u : State),
    s.unitOn (domCmp n) = true ∧
    fieldOf v 1 0 ≠ 0 ∧
    s.flag (Reg.CMP_TEST n) 6 = false ∧
    s.cmpInUse n = false ∧
    s.flag (Reg.CMP_CTRL n) 0 = true ∧
    s.flag (Reg.CMP_STAT n) 2 = true ∧
    s.arbRequest 4 n = (.accepted k, u) :=
  ⟨demo [(Reg.CMP_CTRL 0, 1), (Reg.CMP_STAT 0, 4)], 0, 1, _, _, by decide, by decide, by decide, by decide, by decide, by decide, rfl⟩

theorem wit_selftestEnd : ∃ (s : State) (n : Fin 96),
    s.unitOn (domCmp n) = true ∧
    s.flag (Reg.CMP_TEST n) 6 = true :=
  ⟨demo [(Reg.CMP_TEST 0, 0x41)], 0, by decide, by decide⟩

theorem wit_emulatorEdge : ∃ (s : State) (n : Fin 16),
    s.unitOn domPi = true ∧
    s.flag (Reg.PI_EMUCTRL n) 0 = true ∧
    (s.pos n).lag ≠ 0 :=
  ⟨(demo [(Reg.PI_EMUCTRL 0, 1), (Reg.PI_EMUCPR 0, 4)]).setPos 0 { lag := 1 }, 0, by decide, by decide, by decide⟩

theorem wit_emulatorEnable : ∃ (s : State) (n : Fin 16) (v : BitVec 32),
    s.unitOn domPi = true ∧
    s.flag (Reg.PI_EMUCTRL n) 0 = false ∧
    bitOf v 0 = true ∧
    (s.store (Reg.PI_EMUCTRL n) (Reg.PI_CFGCHK n) false (withField v 0 0 0)).emuFails n = [] :=
  ⟨demo [(Reg.PI_EMUCPR 15, 4)], 15, 0x00101001, by decide, by decide, by decide, by decide⟩

theorem wit_levelAccept : ∃ (s : State) (n : Fin 16) (e : Nat),
    s.unitOn domPi = true ∧
    s.piEn n = true ∧
    s.piMode n = 0 ∧
    (s.pos n).enAt < e ∧
    s.now ≤ e + 2 + s.fld (Reg.PI_CTRL n) 15 8 :=
  ⟨demo [(Reg.PI_CTRL 0, 1)], 0, 1, by decide, by decide, by decide, by decide, by decide⟩

theorem wit_wireFault : ∃ (s : State) (n : Fin 16) (g : Fin 3) (e : Nat),
    s.unitOn domPi = true ∧
    s.piEn n = true ∧
    s.flag (Reg.PI_CTRL n) 3 = true ∧
    (s.pos n).enAt < e ∧
    (s.piMode n ≠ 2 ∨ g = 0) ∧
    (∀ t, (match g with | 0 => (s.pos n).wireA | 1 => (s.pos n).wireB | 2 => (s.pos n).wireZ) = some t → t < e) :=
  ⟨demo [(Reg.PI_CTRL 0, 0x0009)], 0, 2, 1, by decide, by decide, by decide, by decide, by decide, fun t h => by cases h⟩

theorem wit_standstill : ∃ (s : State) (n : Fin 16),
    s.unitOn domPi = true ∧
    s.piEn n = true ∧
    s.flag (Reg.PI_STAT n) 2 = false :=
  ⟨demo [(Reg.PI_CTRL 0, 1), (Reg.PI_STAT 0, 0)], 0, by decide, by decide, by decide⟩

theorem wit_posWrite : ∃ (s : State) (n : Fin 16) (v : BitVec 32),
    s.unitOn domPi = true ∧
    (s.piEn n = true → s.piMode n ≠ 2 → v.toNat < s.piMod n) :=
  ⟨demo [(Reg.PI_CTRL 0, 1)], 0, 0xFFFFFFFF, by decide, by decide⟩

theorem wit_posWrite_rev : ∃ (s : State),
    s.unitOn domPi = true :=
  ⟨demo [], by decide⟩

theorem wit_interfaceEnable : ∃ (s : State) (n : Fin 16) (v : BitVec 32),
    s.unitOn domPi = true ∧
    s.flag (Reg.PI_CTRL n) 0 = false ∧
    (s.store (Reg.PI_CTRL n) (Reg.PI_CFGCHK n) false (withField (withField v 0 0 1) 0 0 0)).piFails n = [] :=
  ⟨demo [(Reg.PI_SPDCFG 0, 0x00010000)], 0, 1, by decide, by decide, by decide⟩

theorem wit_ssiFrameRecord : ∃ (s : State) (n : Fin 16) (t0 : Nat),
    s.unitOn domPi = true ∧
    s.piEn n = true ∧
    (s.pos n).ssiT0 = some t0 ∧
    (s.pos n).ssiDone = false ∧
    s.fld (Reg.PI_SSICFG n) 19 16 = 0 ∧
    s.flag (Reg.PI_SSICFG n) 15 = false :=
  ⟨(demo [(Reg.PI_CTRL 0, 5)]).setPos 0 { ssiT0 := some 0 }, 0, 0, by decide, by decide, by decide, by decide, by decide, by decide⟩

theorem wit_ssiRelease : ∃ (s : State) (n : Fin 16) (e : Nat) (t0 : Nat),
    s.unitOn domPi = true ∧
    s.piEn n = true ∧
    s.flag (Reg.PI_STAT n) 3 = true ∧
    (s.pos n).ssiT0 = some t0 ∧
    s.ssiLast n t0 < e :=
  ⟨(demo [(Reg.PI_CTRL 0, 5), (Reg.PI_STAT 0, 8)]).setPos 0 { ssiT0 := some 0 }, 0, 5000, 0, by decide, by decide, by decide, by decide, by decide⟩

theorem wit_ssiTimeout : ∃ (s : State) (n : Fin 16) (t0 : Nat),
    s.unitOn domPi = true ∧
    s.piEn n = true ∧
    s.flag (Reg.PI_STAT n) 3 = true ∧
    (s.pos n).ssiT0 = some t0 ∧
    (s.pos n).ssiLate = false :=
  ⟨(demo [(Reg.PI_CTRL 0, 5), (Reg.PI_STAT 0, 8)]).setPos 0 { ssiT0 := some 0 }, 0, 0, by decide, by decide, by decide, by decide, by decide⟩

theorem wit_emuposWrite : ∃ (s : State) (n : Fin 16),
    s.unitOn domPi = true ∧
    s.ownerOf (96 + n) = none :=
  ⟨demo [(Reg.SO_OWN 96, 0x3F)], 0, by decide, by decide⟩

theorem wit_emuposWrite_cell : ∃ (s : State) (n : Fin 16) (c : Fin 52),
    s.unitOn domPi = true ∧
    s.filterWrite (96 + n) c = .applied :=
  ⟨demo [(Reg.SO_OWN 96, 0x3F005)], 0, 5, by decide, by decide⟩

theorem wit_soEnable : ∃ (s : State) (v : BitVec 32),
    s.unitOn domSo = true ∧
    s.flag Reg.SO_CTRL 0 = false ∧
    bitOf v 0 = true :=
  ⟨demo [], 1, by decide, by decide, by decide⟩

theorem wit_evoutPulseEnd : ∃ (s : State) (k : Fin 16),
    mapGet 0 s.so.evout k ≠ 0 :=
  ⟨{ demo [] with so := { evout := [(3, 9)] } }, 3, by decide⟩

theorem wit_evinRaise : ∃ (s : State),
    s.unitOn domSo = true :=
  ⟨demo [], by decide⟩

theorem wit_timerRaise : ∃ (s : State) (k : Fin 16),
    s.unitOn domSo = true ∧
    s.flag (Reg.SO_TMR_PER k) 31 = true ∧
    s.fld (Reg.SO_TMR_PER k) 23 0 ≠ 0 :=
  ⟨demo [(Reg.SO_TMR_PER 0, 0x80000002)], 0, by decide, by decide, by decide⟩

theorem wit_timerOutputPulseEnd : ∃ (s : State) (k : Fin 16),
    mapGet 0 s.so.tmrOut k ≠ 0 :=
  ⟨{ demo [] with so := { tmrOut := [(3, 9)] } }, 3, by decide⟩

theorem wit_soTimerEnable : ∃ (s : State) (k : Fin 16) (v : BitVec 32),
    s.unitOn domSo = true ∧
    s.flag (Reg.SO_TMR_PER k) 31 = false ∧
    2 ≤ (s.store (Reg.SO_TMR_PER k) Reg.SO_CFGCHK false (withField (withField v 31 31 1) 31 31 0)).fld (Reg.SO_TMR_PER k) 23 0 ∧
    s.fld (Reg.SO_TMR_PH k) 23 0 < (s.store (Reg.SO_TMR_PER k) Reg.SO_CFGCHK false (withField (withField v 31 31 1) 31 31 0)).fld (Reg.SO_TMR_PER k) 23 0 :=
  ⟨demo [], 0, 2, by decide, by decide, by decide, by decide⟩

theorem wit_ownershipSwitch : ∃ (s : State) (e : Nat),
    s.nextSwitch = some e :=
  ⟨{ demo [] with switchAt := [(3, 9)] }, 9, by decide⟩

theorem wit_ownershipEntryWrite : ∃ (s : State) (i : Fin 112) (v : BitVec 32),
    s.unitOn domSo = true ∧
    s.nextSwitch = none ∧
    s.flag (Reg.SO_OWN i) 31 = false ∧
    bitOf v 31 = true ∧
    s.ownFails i (s.reg (Reg.SO_OWN i)) (withField (withField (withField (withField (s.reg (Reg.SO_OWN i)) 31 31 1) 30 24 (fieldOf v 30 24)) 23 18 (fieldOf v 23 18)) 17 12 (fieldOf v 17 12)) = [] :=
  ⟨demo [], 0, 0xFFFFF000, by decide, by decide, by decide, by decide, by decide⟩

theorem wit_cellEnable : ∃ (s : State) (n : Fin 52) (v : BitVec 32) (w : Word),
    s.unitOn (domCell n) = true ∧
    s.follows n = false ∧
    s.flag (Reg.LC_CTRL n) 0 = false ∧
    (w = if n.val % 2 = 1 then withField (withField v 0 0 1) 1 1 0 else withField v 0 0 1) ∧
    (s.store (Reg.LC_CTRL n) (Reg.LC_CFGCHK n) false (withField w 0 0 0)).lcFails n = [] :=
  ⟨demo [(Reg.LC_RESTART 50, 0x00010000)], 50, 1, _, by decide, by decide, by decide, rfl, by decide⟩

theorem wit_cellDisable : ∃ (s : State) (n : Fin 52) (v : BitVec 32) (w : Word),
    s.unitOn (domCell n) = true ∧
    s.follows n = false ∧
    s.flag (Reg.LC_CTRL n) 0 = true ∧
    (w = if n.val % 2 = 1 then withField (withField v 0 0 0) 1 1 0 else withField v 0 0 0) :=
  ⟨demo [(Reg.LC_CTRL 50, 1)], 50, 0, _, by decide, by decide, by decide, rfl⟩

theorem wit_cellCopyDone : ∃ (s : State) (n : Fin 52) (t : Nat),
    s.unitOn (domCell n) = true ∧
    (s.cell n).copyAt = some t :=
  ⟨(demo []).setCell 0 { copyAt := some 9 }, 0, 9, by decide, by decide⟩

theorem wit_restartHandlerStart : ∃ (s : State) (n : Fin 52) (t : Nat),
    s.unitOn (domCell n) = true ∧
    (s.cell n).startAt = some t :=
  ⟨(demo []).setCell 51 { startAt := some 9 }, 51, 9, by decide, by decide⟩

theorem wit_handlerStart : ∃ (s : State) (n : Fin 52) (w : Waiting) (q : List Waiting),
    s.unitOn (domCell n) = true ∧
    s.cellState n = 3 ∧
    (s.cell n).queue = w :: q :=
  ⟨(demo [(Reg.LC_STAT 51, 0x30000000)]).setCell 51 { queue := [⟨3, 9⟩] }, 51, ⟨3, 9⟩, [], by decide, by decide, by decide⟩

theorem wit_handlerEnd : ∃ (s : State) (n : Fin 52) (t : Nat),
    s.unitOn (domCell n) = true ∧
    (s.cell n).ending = some t ∧
    (s.paired n = true → nsetHas s.mismCell n = false ∧ (s.cell n).split = false) :=
  ⟨(demo []).setCell 51 { ending := some 9 }, 51, 9, by decide, by decide, fun h => by revert h; decide⟩

theorem wit_handlerBudgetFault : ∃ (s : State) (n : Fin 52) (d : Handler),
    s.unitOn (domCell n) = true ∧
    (s.cell n).handler = some d ∧
    (∀ t, (s.cell n).ending = some t → d.start + d.budget < t) :=
  ⟨(demo []).setCell 51 { handler := some ⟨some 3, 5, 10, 4, 0⟩ }, 51, ⟨some 3, 5, 10, 4, 0⟩, by decide, by decide, fun t h => by cases h⟩

theorem wit_recoveryMemoryCompareDone : ∃ (s : State) (n : Fin 52) (t : Nat) (p : State × Bool),
    s.unitOn (domCell n) = true ∧
    (s.cell n).compareAt = some t ∧
    (p = (List.range 2048).foldl (fun (p : State × Bool) i =>
        let (s, x) := p.1.lcCompareWord (lcProg n i) (lcProg (n + 1) i)
        let (s, y) := s.lcCompareWord (lcData n i) (lcData (n + 1) i)
        (s, p.2 || x || y)) (s.advanceTo t, false)) :=
  ⟨(demo []).setCell 50 { compareAt := some 9 }, 50, 9, _, by decide, by decide, rfl⟩

theorem wit_cellWindowWrite_data : ∃ (s : State) (n : Fin 52),
    s.unitOn (domCell n) = true :=
  ⟨demo [], 51, by decide⟩

theorem wit_cellWindowWrite_prog : ∃ (s : State) (n : Fin 52),
    s.unitOn (domCell n) = true ∧
    s.flag (Reg.LC_CTRL n) 0 = false ∧
    s.follows n = false :=
  ⟨demo [], 51, by decide, by decide, by decide⟩

theorem wit_cellRestartCommand : ∃ (s : State) (n : Fin 52),
    s.unitOn (domCell n) = true ∧
    s.follows n = false ∧
    (s.cellState n = 2 ∨ s.cellState n = 3 ∨ s.cellState n = 4) ∧
    s.cellFault n = false :=
  ⟨demo [(Reg.LC_STAT 51, 0x30000000)], 51, by decide, by decide, by decide, by decide⟩

theorem wit_cellRoleSet : ∃ (r : BitVec 2),
    r ≠ 3 :=
  ⟨2, by decide⟩

theorem wit_dmaEnable : ∃ (s : State) (k : Fin 32),
    s.unitOn 0x2F = true ∧
    s.flag (Reg.DMA_CTL k) 0 = false ∧
    (s.dma k).endedAt ≠ some s.now ∧
    (s.reg (Reg.DMA_ENV k)).toNat % 32 = 0 :=
  ⟨demo [(Reg.DMA_ENV 31, 0x20000000)], 31, by decide, by decide, by decide, by decide⟩

theorem wit_envelopeFetch : ∃ (s : State) (k : Fin 32) (ext : Nat) (a : Nat) (v : Nat) (t : State) (w : State) (e : Envelope),
    (s.dma k).fetch = some a ∧
    (s.dma k).prev = none ∧
    s.dmaOn = true ∧
    s.busRead (dmaMaster k) a 24 ext = (t, v, .ok) ∧
    e = envOf a v ∧
    w = (t.setReg (Reg.DMA_CUR k) (BitVec.ofNat 32 a)).setFld (Reg.DMA_RESID k) 24 0 e.len ∧
    w.envFails e none = [] :=
  ⟨((demo []).setDma 0 { fetch := some 0x20000020 }).setWord 0x2000002C 4, 0, 0, 0x20000020, _, _, _, _, by decide, by decide, by decide, triple (by decide), rfl, rfl, by decide⟩

theorem wit_envelopeFetch_refused : ∃ (s : State) (k : Fin 32) (ext : Nat) (a : Nat) (v : Nat) (t : State) (w : State) (e : Envelope) (f : CfgFail),
    (s.dma k).fetch = some a ∧
    (s.dma k).prev = none ∧
    s.dmaOn = true ∧
    s.busRead (dmaMaster k) a 24 ext = (t, v, .ok) ∧
    e = envOf a v ∧
    w = (t.setReg (Reg.DMA_CUR k) (BitVec.ofNat 32 a)).setFld (Reg.DMA_RESID k) 24 0 e.len ∧
    pickFail (w.envFails e none) = some f :=
  ⟨(demo []).setDma 0 { fetch := some 0x20000020 }, 0, 0, 0x20000020, _, _, _, _, _, by decide, by decide, by decide, triple (by decide), rfl, rfl, eq_some (d := ⟨0, 0, 0⟩) (by decide)⟩

theorem wit_dmaErrorResponse : ∃ (s : State) (k : Fin 32) (e : Envelope) (c : Nat),
    (s.dma k).env = some e ∧
    e.err = some c :=
  ⟨(demo []).setDma 0 { env := some ⟨0, 0, 0, 0, 4, 0, 0, 0, 0, 0, 0, [], some 2⟩ }, 0, _, 2, rfl, by decide⟩

theorem wit_dmaAbort : ∃ (s : State),
    s.dmaOn = true :=
  ⟨demo [], by decide⟩

theorem wit_dmaTimeout : ∃ (s : State) (k : Fin 32) (e : Envelope) (r : Nat) (t : Nat),
    s.dmaOn = true ∧
    s.flag (Reg.DMA_CTL k) 0 = true ∧
    s.fld (Reg.DMA_TMO k) 15 0 = t + 1 ∧
    (s.dma k).env = some e ∧
    e.err = none ∧
    r = (s.dma k).progress + (t + 1) * 400 :=
  ⟨(demo [(Reg.DMA_CTL 0, 1), (Reg.DMA_TMO 0, 1)]).setDma 0 { env := some ⟨0, 0, 0, 0, 4, 0, 0, 0, 0, 0, 0, [], none⟩ }, 0, _, _, 0, by decide, by decide, by decide, rfl, by decide, rfl⟩

theorem wit_dmaTimeout_idle : ∃ (s : State) (k : Fin 32) (r : Nat) (t : Nat),
    s.dmaOn = true ∧
    s.flag (Reg.DMA_CTL k) 0 = true ∧
    s.fld (Reg.DMA_TMO k) 15 0 = t + 1 ∧
    (s.dma k).env = none ∧
    r = (s.dma k).progress + (t + 1) * 400 :=
  ⟨demo [(Reg.DMA_CTL 0, 1), (Reg.DMA_TMO 0, 1)], 0, _, 0, by decide, by decide, by decide, by decide, rfl⟩

theorem wit_registerWrite : ∃ (a : BitVec 32),
    isReg a.toNat = true ∧
    a.toNat % 4 = 0 :=
  ⟨0x50060000, by decide, by decide⟩

theorem wit_eventDelivery : ∃ (s : State) (t : Nat),
    s.unitOn domSo = true ∧
    s.flag Reg.SO_CTRL 0 = true ∧
    s.nextDelivery = some t :=
  ⟨{ demo [(Reg.SO_CTRL, 1)] with so := { flights := [⟨0x6B0, 9, 0, [], false⟩] } }, 9, by decide, by decide, by decide⟩

theorem wit_fabricWriteLanding : ∃ (s : State) (t : Nat) (u : State) (all : List (Nat × PortWrite)),
    s.clk.run = true ∧
    s.nextLanding = some t ∧
    u = (s.advanceTo t).settleSwitch ∧
    (all = (List.range 52).flatMap fun c => ((u.cell c).writes.filter fun w => w.due == t).map fun w => (c, w)) :=
  ⟨(demo []).setCell 0 { writes := [⟨9, 0x600, 1⟩] }, 9, _, _, by decide, by decide, rfl, rfl⟩

theorem wit_dmaBurstReadData : ∃ (s : State) (k : Fin 32) (ext : Nat) (e : Envelope) (t : State) (u : State) (n : Nat) (v : Nat),
    (s.dma k).env = some e ∧
    s.dmaOn = true ∧
    e.err = none ∧
    bitOf e.ctrl 17 = false ∧
    bitOf e.ctrl 28 = false ∧
    n = e.burstBytes e.len ∧
    s.burstRead (dmaMaster k) e n ext = (t, v, .ok) ∧
    t.burstWrite (dmaMaster k) e n v = (u, .ok) ∧
    e.moved + n < e.len ∧
    bitOf e.ctrl 30 = false :=
  ⟨(demo []).setDma 0 { env := some ⟨0x20000020, 0, 0x20000100, 0x20000200, 8192, 0, 0, 0, 0, 0, 0, [], none⟩ }, 0, 0, _, _, _, _, _, rfl, by decide, by decide, by decide, by decide, rfl, triple (by decide), twin (by decide), by decide, by decide⟩

theorem wit_dmaBurstReadData_posted : ∃ (s : State) (k : Fin 32) (ext : Nat) (e : Envelope) (e' : Envelope) (t : State) (u : State) (n : Nat) (v : Nat) (w : State × Envelope),
    (s.dma k).env = some e ∧
    s.dmaOn = true ∧
    e.err = none ∧
    bitOf e.ctrl 17 = false ∧
    bitOf e.ctrl 28 = true ∧
    n = e.burstBytes e.len ∧
    s.burstRead (dmaMaster k) e n ext = (t, v, .ok) ∧
    t.burstWrite (dmaMaster k) e n v = (u, .ok) ∧
    e.moved + n = e.len ∧
    n ≠ 0 ∧
    e' = { e with
      moved := e.moved + n, check := checkBytes e.chk n e.moved e.check v, request := 0, err := none } ∧
    w = State.confirm (State.dmaState (u.setDma k { u.dma k with env := some e' }) k 3) k e' (e.moved + n) e'.check :=
  ⟨(demo []).setDma 0 { env := some ⟨0x20000020, 0, 0x20000100, 0x20000200, 4, 0x10000000, 0, 0, 0, 0, 0, [], none⟩ }, 0, 0, _, _, _, _, _, _, _, rfl, by decide, by decide, by decide, by decide, rfl, triple (by decide), twin (by decide), by decide, by decide, rfl, rfl⟩

theorem wit_dmaReadbackResponse : ∃ (s : State) (k : Fin 32) (e : Envelope) (e' : Envelope) (a : Nat) (n : Nat) (c : Nat) (v : Nat) (rest : List (Nat × Nat × Nat)) (t : State) (w : State × Envelope),
    (s.dma k).env = some e ∧
    e.readbacks = (a, n, c) :: rest ∧
    s.dmaOn = true ∧
    e.err = none ∧
    s.busRead (dmaMaster k) a e.width 0 = (t, v, .ok) ∧
    e' = { e with readbacks := rest, err := none } ∧
    w = t.confirm k e' n c :=
  ⟨(demo []).setDma 0 { env := some ⟨0x20000020, 0, 0x20000100, 0x20000200, 4, 0, 4, 0, 0, 0, 0, [(0x20000200, 4, 0)], none⟩ }, 0, _, _, 0x20000200, 4, 0, _, [], _, _, rfl, by decide, by decide, by decide, triple (by decide), rfl, rfl⟩

theorem wit_perturbationWrite : ∃ (s : State) (r : PertReg) (v : BitVec 32) (w : Word),
    w = (s.store (pertAddr r).1 Reg.TP_CFGCHK false v).reg (pertAddr r).1 ∧
    w ≠ 0 ∧
    s.pertFails (pertAddr r).2 (((pertAddr r).1 - Reg.TP_CTRL) / 4) = [] ∧
    (r = .sodly → fieldOf v 19 16 ≤ 8) :=
  ⟨demo [(Reg.MG_PHASE, 3)], .sodly, 0x00080001, _, rfl, by decide, by decide, fun _ => by decide⟩

theorem wit_controlPlaneHalt : ∃ (s : State),
    s.pertFails true 12 = [] ∧
    s.flag Reg.TP_DBGCTL 31 = false :=
  ⟨demo [(Reg.MG_PHASE, 3)], by decide, by decide⟩

theorem wit_debugStep : ∃ (s : State) (p : Fin 2),
    s.halted p = true :=
  ⟨demo [(Reg.TP_DBGSTAT, 2)], 1, by decide⟩

theorem wit_mismP0 : ∃ (s : State),
    s.pertFails false 8 = [] :=
  ⟨demo [(Reg.MG_PHASE, 4)], by decide⟩

theorem wit_mismCell : ∃ (s : State) (c : BitVec 6),
    s.pertFails true 8 = [] ∧
    c.toNat < 52 ∧
    s.paired c.toNat = true :=
  ⟨demo [(Reg.MG_PHASE, 3), (Reg.LC_CTRL 50, 3)], 50, by decide, by decide, by decide⟩

theorem wit_ecc1 : ∃ (s : State) (cp : Bool),
    s.injPage (s.reg Reg.TP_INJADR).toNat cp ∧
    s.pertFails cp 8 = [] :=
  ⟨demo [(Reg.MG_PHASE, 3), (Reg.TP_INJADR, 0x20000100)], false, ⟨.inl ⟨by decide, rfl⟩, by decide⟩, by decide⟩

theorem wit_ecc1_word : ∃ (s : State) (cp : Bool),
    injWord (s.reg Reg.TP_INJADR).toNat cp ∧
    s.pertFails cp 8 = [] :=
  ⟨demo [(Reg.MG_PHASE, 3), (Reg.TP_INJADR, 0x30000100)], false, .inl ⟨⟨0, by decide⟩, rfl⟩, by decide⟩

theorem wit_extest : ∃ (s : State),
    (s.phase = 3 ∨ s.phase = 4) ∧
    s.lowestPwm = none :=
  ⟨demo [(Reg.MG_PHASE, 3)], by decide, by decide⟩

theorem wit_edgeInstance : ∃ (s : State) (n : Fin 96) (i : PwmInst) (t : Nat),
    s.pwmRuns n = true ∧
    s.instDue n i = some t ∧
    (i = .raRise ∨ i = .raFall ∨ i = .rbRise ∨ i = .rbFall) :=
  ⟨demo [(Reg.PWM_CTRL 95, 1), (Reg.PWM_STAT 95, 0x400), (Reg.PWM_ACTPER 95, 1000), (Reg.PWM_ACTCMPA 95, 500)], 95, .raFall, 500, by decide, by decide, .inr (.inl rfl)⟩

theorem wit_triggerInstance : ∃ (s : State) (n : Fin 96) (k : Fin 4) (down : Bool) (t : Nat),
    s.pwmRuns n = true ∧
    s.instDue n (.trg k down) = some t :=
  ⟨(demo [(Reg.PWM_CTRL 0, 1), (Reg.PWM_STAT 0, 0x400), (Reg.PWM_ACTPER 0, 1000)]).setPwm 0 { trgcfgF := 1 }, 0, 0, false, 0, by decide, by decide⟩

theorem wit_deadTimeEnd : ∃ (s : State) (n : Fin 96) (b : Bool) (t : Nat),
    s.pwmRuns n = true ∧
    ((if b then (s.pwm n).riseB else (s.pwm n).riseA) = some t) :=
  ⟨(demo [(Reg.PWM_CTRL 0, 1), (Reg.PWM_STAT 0, 0x400)]).setPwm 0 { riseB := some 9 }, 0, true, 9, by decide, by decide⟩

theorem wit_periodStart : ∃ (s : State) (n : Fin 96) (flt : BitVec 24) (t : Nat),
    (s.setFlt flt).pwmLive n = true ∧
    ((s.setFlt flt).pwm n).early.contains ((s.setFlt flt).pwm n).start = false ∧
    (s.setFlt flt).nextStart n = some t :=
  ⟨(demo [(Reg.PWM_CTRL 0, 1)]).setPwm 0 { firstAt := some 128 }, 0, 0, 128, by decide, by decide, by decide⟩

theorem wit_pwmCentre : ∃ (s : State) (n : Fin 96) (flt : BitVec 24) (t : Nat),
    (s.setFlt flt).pwmRuns n = true ∧
    (s.setFlt flt).instDue n .centre = some t :=
  ⟨demo [(Reg.PWM_CTRL 0, 0x101), (Reg.PWM_STAT 0, 0x400), (Reg.PWM_ACTPER 0, 1000)], 0, 0, 1000, by decide, by decide⟩

theorem wit_pwmCommit : ∃ (s : State) (n : Fin 96),
    s.unitOn (domPwm n) = true ∧
    s.ownerOf n = none :=
  ⟨demo [(Reg.SO_OWN 95, 0x3F)], 95, by decide, by decide⟩

theorem wit_pulseEndSeen : ∃ (s : State) (n : Fin 96) (t : Nat),
    s.pwmRuns n = true ∧
    s.carrier n = 2 ∧
    s.pulseEnd n = true ∧
    (s.pwm n).endAt = none ∧
    reloadEdge (seenAt t ((s.pwm n).start + s.cmpaF n + s.cmpbF n)) ≤ reloadEdge ((s.pwm n).start + s.perF n) :=
  ⟨demo [(Reg.PWM_CTRL 0, 0x00000201), (Reg.PWM_STAT 0, 0x400), (Reg.PWM_ACTPER 0, 1000), (Reg.CMP_CTRL 0, 1), (Reg.CMP_STAT 0, 5)], 0, 0, by decide, by decide, by decide, by decide, by decide⟩

theorem wit_cotTimeout : ∃ (s : State) (n : Fin 96),
    s.pwmRuns n = true ∧
    s.carrier n = 2 ∧
    (s.pwm n).endAt = none :=
  ⟨demo [(Reg.PWM_CTRL 95, 0x201), (Reg.PWM_STAT 95, 0x400)], 95, by decide, by decide, by decide⟩

theorem wit_coffPulseEnd : ∃ (s : State) (n : Fin 96) (t : Nat),
    s.pwmRuns n = true ∧
    s.carrier n = 3 ∧
    s.pulseEnd n = true ∧
    (s.pwm n).resolved = none ∧
    max t (s.pwm n).start < (s.pwm n).start + s.cmpbF n :=
  ⟨demo [(Reg.PWM_CTRL 0, 0x00000301), (Reg.PWM_STAT 0, 0x400), (Reg.PWM_ACTCMPB 0, 1000), (Reg.CMP_CTRL 0, 1), (Reg.CMP_STAT 0, 5)], 0, 0, by decide, by decide, by decide, by decide, by decide⟩

theorem wit_coffTimeout : ∃ (s : State) (n : Fin 96),
    s.pwmRuns n = true ∧
    s.carrier n = 3 ∧
    (s.pwm n).resolved = none :=
  ⟨demo [(Reg.PWM_CTRL 95, 0x301), (Reg.PWM_STAT 95, 0x400)], 95, by decide, by decide, by decide⟩

theorem wit_cbcForce : ∃ (s : State) (n : Fin 96) (k : Fin 8) (t : Nat) (flt : BitVec 24),
    ((s.advanceTo (t / 128)).setFlt flt).pwmRuns n = true ∧
    ((s.advanceTo (t / 128)).setFlt flt).selActive n k false = true :=
  ⟨demo [(Reg.PWM_CTRL 0, 1), (Reg.PWM_STAT 0, 0x400), (Reg.PWM_TRIPSEL 0 7, 0xA0000077)], 0, 7, 0, 0x800000, by decide, by decide⟩

theorem wit_latchedTrip : ∃ (s : State) (n : Fin 96) (k : Fin 8) (t : Nat) (flt : BitVec 24),
    ((s.advanceTo (t / 128)).setFlt flt).domOn (domPwm n) = true ∧
    ((s.advanceTo (t / 128)).setFlt flt).pwmEn n = true ∧
    ((s.advanceTo (t / 128)).setFlt flt).selActive n k true = true :=
  ⟨demo [(Reg.PWM_CTRL 0, 1), (Reg.PWM_TRIPSEL 0 0, 0xE0000060)], 0, 0, 0, 1, by decide, by decide, by decide⟩

theorem wit_tripRecord : ∃ (s : State) (n : Fin 96) (e : Nat) (k : Nat) (rest : List (Nat × Nat)),
    s.unitOn (domPwm n) = true ∧
    (s.pwm n).records = (e, k) :: rest ∧
    k < 8 :=
  ⟨(demo []).setPwm 95 { records := [(9, 7)] }, 95, 9, 7, [], by decide, by decide, by decide⟩

theorem wit_padSenseMismatch : ∃ (s : State) (n : Fin 96) (a : Bool) (b : Bool) (e : Nat),
    s.unitOn (domPwm n) = true ∧
    (s.pwm n).senseFrom = some e ∧
    s.flag (Reg.PWM_TRIPSTAT n) 2 = true ∧
    (¬(a = s.flag (Reg.PWM_TRIPCTL n) 2 ∧ b = s.flag (Reg.PWM_TRIPCTL n) 3)) :=
  ⟨(demo [(Reg.PWM_TRIPSTAT 0, 4)]).setPwm 0 { senseFrom := some 9 }, 0, true, false, 9, by decide, by decide, by decide, by decide⟩

theorem wit_tripClear : ∃ (s : State) (n : Fin 96),
    s.unitOn (domPwm n) = true :=
  ⟨demo [], 95, by decide⟩

theorem wit_pwmEnable : ∃ (s : State) (n : Fin 96) (v : BitVec 32),
    s.unitOn (domPwm n) = true ∧
    s.flag (Reg.PWM_CTRL n) 0 = false ∧
    (s.store (Reg.PWM_CTRL n) (Reg.PWM_CFGCHK n) false (withField (withField v 0 0 1) 0 0 0)).pwmFails n = [] :=
  ⟨demo [(Reg.PWM_PER 0, 1000)], 0, 0x4001, by decide, by decide, by decide⟩

theorem wit_pwmDisable : ∃ (s : State) (n : Fin 96),
    s.unitOn (domPwm n) = true ∧
    s.flag (Reg.PWM_CTRL n) 0 = true :=
  ⟨demo [(Reg.PWM_CTRL 95, 1)], 95, by decide, by decide⟩

theorem wit_pageCorrection : ∃ (s : State) (a : BitVec 32),
    (regionOf a.toNat = .sram ∨ regionOf a.toNat = .mapStore) ∧
    s.domOn (domMem a.toNat) = true ∧
    s.detects a.toNat = true ∧
    s.pageErrors a.toNat ≤ s.strength a.toNat :=
  ⟨{ demo [] with mem := { (demo []).mem with flips := [(0x8000000, 1)] } }, 0x20000000, .inl (by decide), by decide, by decide, by decide⟩

theorem wit_initClearDone : ∃ (s : State),
    s.flag Reg.MG_MEMSTAT 7 = true :=
  ⟨demo [(Reg.MG_MEMSTAT, 0x80)], by decide⟩

theorem wit_eccStrengthWrite : ∃ (s : State) (k : Fin 9) (v : BitVec 32),
    ((if k.val = 8 then BitVec.ofNat 32 (v.toNat % 256) else v) ≠ s.reg (Reg.MG_ECCSTR k)) ∧
    (s.phase = 1 ∨ s.phase = 3 ∨ s.phase = 4) ∧
    (∀ r < (if k.val = 8 then 4 else 16), fieldOf (if k.val = 8 then BitVec.ofNat 32 (v.toNat % 256) else v) (2 * r + 1) (2 * r) ≠ 0) :=
  ⟨demo [(Reg.MG_PHASE, 3)], 8, 0x55, by decide, by decide, fun r hr => by revert r; decide⟩

theorem wit_scrubStart : ∃ (s : State) (v : BitVec 32) (t : Nat) (w : State),
    bitOf v 8 = false ∧
    s.flag Reg.MG_SCRUBCTL 0 = false ∧
    s.mem.scrubTicket = none ∧
    (s.setFld Reg.MG_SCRUBCTL 1 1 0).scrubFails = [] ∧
    (s.setFld Reg.MG_SCRUBCTL 1 1 0).arbRequest 1 (scrubRes (s.fld Reg.MG_SCRUBBASE 31 8 * 256)) = (.accepted t, w) :=
  ⟨demo [(Reg.MG_SCRUBBASE, 0x20000000), (Reg.MG_SCRUBLEN, 32768)], 1, _, _, by decide, by decide, by decide, by decide, rfl⟩

theorem wit_clearStart : ∃ (s : State) (v : BitVec 32) (t : Nat) (w : State),
    bitOf v 8 = false ∧
    s.flag Reg.MG_SCRUBCTL 0 = false ∧
    s.mem.scrubTicket = none ∧
    (s.setFld Reg.MG_SCRUBCTL 1 1 1).scrubFails = [] ∧
    (s.setFld Reg.MG_SCRUBCTL 1 1 1).arbRequest 1 (scrubRes (s.fld Reg.MG_SCRUBBASE 31 8 * 256)) = (.accepted t, w) :=
  ⟨demo [(Reg.MG_SCRUBBASE, 0x20000000), (Reg.MG_SCRUBLEN, 32768)], 3, _, _, by decide, by decide, by decide, by decide, rfl⟩

theorem wit_scrubStop : ∃ (s : State) (v : BitVec 32),
    bitOf v 8 = false ∧
    s.flag Reg.MG_SCRUBCTL 0 = true :=
  ⟨demo [(Reg.MG_SCRUBCTL, 1)], 0, by decide, by decide⟩

theorem wit_scrubPassDone : ∃ (s : State),
    s.flag Reg.MG_SCRUBCTL 0 = true :=
  ⟨demo [(Reg.MG_SCRUBCTL, 1)], by decide⟩

theorem wit_sramPageRemap : ∃ (s : State) (p : Fin 32768),
    ((s.repairs.pages.filter fun q => q.1 / 0x1000 == p.val / 0x1000).length < 128) :=
  ⟨demo [], 0, by decide⟩

theorem wit_msRequestGrant : ∃ (s : State) (p : Fin 8) (sv : Bool) (g : Nat) (c : Nat) (q : MsReq),
    s.unitOn domSo = true ∧
    s.nextGrant p = some g ∧
    ((portOrder p (mapGet 52 s.ports.last p)).find? (fun c => if c = 52 then sv else match (s.cell c).ms with | some q => decide (q.issued + 1 ≤ g) | none => false) = some c) ∧
    (s.cell c).ms = some q :=
  ⟨(demo []).setCell 51 { ms := some ⟨5, .ld, 63, 0, 0, 3⟩ }, 3, false, 6, 51, ⟨5, .ld, 63, 0, 0, 3⟩, by decide, by decide, by decide, by decide⟩

theorem wit_msPageWriteback : ∃ (s : State) (page : Nat) (due : Nat) (l : List (Nat × Nat)),
    s.mem.corrections = (page, due) :: l :=
  ⟨{ demo [] with mem := { (demo []).mem with corrections := [(3, 9)] } }, 3, 9, [], rfl⟩

theorem wit_mapStoreWindowWrite : ∃ (s : State) (w : Fin 65536),
    s.msHalf w = true ∧
    s.mem.corrections = [] ∧
    s.detects (msAddr w) = false :=
  ⟨demo [], 65535, by decide, by decide, by decide⟩

theorem wit_mapStoreEnable : ∃ (s : State) (v : BitVec 32),
    s.unitOn domSo = true ∧
    s.flag Reg.MS_CTRL 0 = false ∧
    bitOf v 0 = true :=
  ⟨demo [], 1, by decide, by decide, by decide⟩

theorem wit_descriptorWrite_base : ∃ (s : State) (k : Fin 64),
    s.unitOn domSo = true ∧
    s.flag (Reg.MS_TD_SHAPE k) 31 = false :=
  ⟨demo [], 63, by decide, by decide⟩

theorem wit_descriptorWrite_shape : ∃ (s : State) (k : Fin 64) (v : BitVec 32),
    s.unitOn domSo = true ∧
    s.flag (Reg.MS_TD_SHAPE k) 31 = false ∧
    (s.setReg (Reg.MS_TD_SHAPE k) v).tdFails k (bitOf v 30) = [] ∧
    bitOf v 31 = true :=
  ⟨demo [(Reg.MS_TD_BASE 0, 0x20000000)], 0, 0x80001000, by decide, by decide, by decide, by decide⟩

theorem wit_descriptorWrite_axis : ∃ (s : State) (k : Fin 64) (w : Fin 5),
    2 ≤ w ∧
    s.unitOn domSo = true ∧
    s.flag (Reg.MS_TD_SHAPE k) 31 = false :=
  ⟨demo [], 63, 4, by decide, by decide, by decide⟩

theorem wit_flashProgram : ∃ (s : State) (v : BitVec 32) (t : Nat) (u : State),
    s.flashFails 1 (fieldOf v 8 8) (s.fld Reg.FC_ADDR 22 0) = [] ∧
    (s.cfgOk Reg.FC_CFGCHK).arbRequest 6 (fieldOf v 8 8) = (.accepted t, u) :=
  ⟨demo [], 0x101, _, _, by decide, rfl⟩

theorem wit_flashErase : ∃ (s : State) (v : BitVec 32) (t : Nat) (u : State),
    s.flashFails 2 (fieldOf v 8 8) (s.fld Reg.FC_ADDR 22 0) = [] ∧
    (s.cfgOk Reg.FC_CFGCHK).arbRequest 5 (fieldOf v 8 8) = (.accepted t, u) :=
  ⟨demo [], 0x002, _, _, by decide, rfl⟩

theorem wit_flashProgramDone : ∃ (s : State) (b : Fin 2) (o : FlashOp),
    (s.bank b).op = some o ∧
    o.erase = false ∧
    o.started = true :=
  ⟨(demo []).setBank 1 { op := some ⟨false, 512, 0, true, false⟩ }, 1, ⟨false, 512, 0, true, false⟩, by decide, by decide, by decide⟩

theorem wit_flashEraseDone : ∃ (s : State) (b : Fin 2) (o : FlashOp),
    (s.bank b).op = some o ∧
    o.erase = true ∧
    s.fld (Reg.FC_STAT b) 31 30 = 2 :=
  ⟨(demo [(Reg.FC_STAT 1, 0x80000000)]).setBank 1 { op := some ⟨true, 65536, 0, true, false⟩ }, 1, ⟨true, 65536, 0, true, false⟩, by decide, by decide, by decide⟩

theorem wit_flashSuspend : ∃ (s : State) (v : BitVec 32) (o : FlashOp),
    s.flashFails 3 (fieldOf v 8 8) (s.fld Reg.FC_ADDR 22 0) = [] ∧
    (s.bank (fieldOf v 8 8)).op = some o :=
  ⟨(demo [(Reg.FC_STAT 1, 0x80000000)]).setBank 1 { op := some ⟨true, 65536, 0, true, false⟩ }, 0x103, ⟨true, 65536, 0, true, false⟩, by decide, by decide⟩

theorem wit_eraseSuspended : ∃ (s : State) (b : Fin 2) (o : FlashOp),
    (s.bank b).op = some o ∧
    o.stopping = true :=
  ⟨(demo []).setBank 1 { op := some ⟨true, 65536, 0, true, true⟩ }, 1, ⟨true, 65536, 0, true, true⟩, by decide, by decide⟩

theorem wit_flashResume : ∃ (s : State) (v : BitVec 32),
    s.flashFails 4 (fieldOf v 8 8) (s.fld Reg.FC_ADDR 22 0) = [] :=
  ⟨demo [(Reg.FC_STAT 1, 0xC0000000)], 0x104, by decide⟩

theorem wit_flashAckrecov : ∃ (s : State) (v : BitVec 32),
    s.flashFails 5 (fieldOf v 8 8) (s.fld Reg.FC_ADDR 22 0) = [] :=
  ⟨demo [(Reg.FC_STAT 0, 0x80)], 5, by decide⟩

theorem wit_fcCtrlWrite : ∃ (s : State) (v : BitVec 32),
    fieldOf v 17 16 ≠ 0 ∧
    fieldOf v 19 18 ≠ 0 ∧
    waitStates (s.fld Reg.PM_OPSTAT 1 0) s.vddCode ≤ fieldOf v 3 0 ∧
    fieldOf v 17 16 = s.fld Reg.FC_CTRL 17 16 ∧
    fieldOf v 19 18 = s.fld Reg.FC_CTRL 19 18 :=
  ⟨demo [(Reg.FC_CTRL, 0x000A000F)], 0x000A000F, by decide, by decide, by decide, by decide, by decide⟩

theorem wit_fcXoWrite : ∃ (s : State) (k : Fin 16) (v : BitVec 32),
    s.flag (Reg.FC_XO k) 30 = false ∧
    (bitOf v 31 = true → fieldOf v 22 16 ≤ fieldOf v 6 0) :=
  ⟨demo [], 15, 0x80400040, by decide, by decide⟩

theorem wit_sectorRemap : ∃ (s : State) (b : Fin 2),
    ((s.repairs.sectors.filter fun p => p.1 / 0x1000 == b.val).length < 8) :=
  ⟨demo [], 1, by decide⟩

theorem wit_ledgerCommit : ∃ (s : State) (v : BitVec 32),
    s.flag Reg.LG_STAT 0 = false ∧
    fieldOf v 13 8 ≠ 0 ∧
    fieldOf v 13 8 ≠ 63 :=
  ⟨demo [], 0xFF3E01, by decide, by decide, by decide⟩

theorem wit_ledgerRead : ∃ (s : State) (v : BitVec 32) (w : State) (k : Nat) (p : Nat),
    s.flag Reg.LG_STAT 0 = false ∧
    s.setRecord (fieldOf v 23 16) = (w, some (k, p)) :=
  ⟨(((demo []).setDword (slotAddr 5 1) 0x0007000100000000).setDword (slotAddr 5 1 + 8) 0xABCD).setDword (slotAddr 5 1 + 504) (0x0007800000000000 + 835569969), 0x050000, _, 1, 7, by decide, twin (by decide)⟩

theorem wit_ledgerCommandDone : ∃ (s : State) (o : LedgerOp),
    s.flash.ledger = some o :=
  ⟨{ demo [] with flash := { ledger := some ⟨true, 5, 1, 3, 7, 0, 0⟩ } }, ⟨true, 5, 1, 3, 7, 0, 0⟩, by decide⟩

theorem wit_ledgerDirectWrite : ∃ (a : BitVec 32),
    regionOf a.toNat = .ledger :=
  ⟨0x100FFFFF, by decide⟩

theorem wit_rollbackResume : ∃ (s : State) (n : Fin 4) (k : Nat),
    s.lead n = some k ∧
    (s.core k).run = .resume :=
  ⟨(demo []).setCore 2 { run := .resume }, 2, 2, by decide, by decide⟩

theorem wit_checkerMismatch : ∃ (s : State) (p : Fin 2),
    s.pairMode p = 0 ∧
    ((s.core (2 * p)).run = .run ∨ (s.core (2 * p)).run = .wait ∨ (s.core (2 * p)).run = .load) :=
  ⟨(demo []).setCore 2 { run := .wait }, 1, by decide, by decide⟩

theorem wit_coreBistDone_passed : ∃ (s : State) (p : Fin 2) (t : Nat),
    (s.pair p).bist = some t ∧
    (s.pair p).bistRun = true :=
  ⟨(demo []).setPair 1 { bist := some 5, bistRun := true }, 1, 5, by decide, by decide⟩

theorem wit_ckptDueTimeout : ∃ (s : State) (n : Fin 4) (k : Nat) (e : Nat),
    s.lead n = some k ∧
    (s.core k).dueAt = some e ∧
    s.halted (k / 2) = false :=
  ⟨(demo []).setCore 2 { dueAt := some 9 }, 2, 2, 9, by decide, by decide, by decide⟩

theorem wit_pairRestartCommand : ∃ (s : State) (p : Fin 2),
    s.coreFailed (2 * p) = false ∧
    s.pairMode p = 0 ∧
    (s.core (2 * p)).run ≠ .off :=
  ⟨(demo []).setCore 2 { run := .wait }, 1, by decide, by decide, by decide⟩

theorem wit_pinConfigurationWrite : ∃ (s : State) (k : Fin 256) (v : BitVec 32),
    s.pinFails k v = [] :=
  ⟨demo [(Reg.PX_BANK 7, 2)], 255, 0x02001000, by decide⟩

theorem wit_gpioWrite : ∃ (s : State) (k : Fin 256) (oe : Bool) (d : Bool) (w : Word),
    w = withField (withField (s.reg (Reg.PX_PIN k)) 25 25 (bit oe)) 24 24 (bit d) ∧
    s.pinFails k w = [] :=
  ⟨demo [(Reg.PX_BANK 7, 2)], 255, true, true, _, rfl, by decide⟩

theorem wit_pintEnable : ∃ (s : State) (n : Fin 16) (v : BitVec 32) (w : State),
    s.flag (Reg.PINT_CFG n) 31 = false ∧
    fieldOf v 10 8 < 5 ∧
    w = s.setReg (Reg.PINT_CFG n) (withField (withField v 31 31 1 &&& 0x8000070F) 31 31 0) ∧
    w.bankVio (w.pintPin n) ≠ 0 :=
  ⟨demo [(Reg.PX_BANK 0, 2)], 15, 0x80000400, _, by decide, by decide, rfl, by decide⟩

theorem wit_pinInterruptEdge : ∃ (s : State) (n : Fin 16),
    s.flag (Reg.PINT_CFG n) 31 = true :=
  ⟨demo [(Reg.PINT_CFG 15, 0x80000000)], 15, by decide⟩

theorem wit_letterboxPost : ∃ (s : State) (k : Fin 32) (d : Fin 2) (p : BitVec 16) (lost : Nat) (v : DWord),
    (s.unitOn domHost && s.lbxEn k) = true ∧
    postLater p.toNat (s.fld (Reg.LBX_PM k d) 31 16) = true ∧
    (s.ring k d).msgs.length < 64 ∧
    lost = (p.toNat + 65536 - s.fld (Reg.LBX_PM k d) 31 16 + 65535) % 65536 ∧
    v = BitVec.ofNat 64 (2 ^ 32 * (s.reg (Reg.LBX_TXHI k d)).toNat + (s.reg (Reg.LBX_TXLO k d)).toNat) :=
  ⟨demo [(Reg.LBX_CFG 31, 1)], 31, 1, 1, _, _, by decide, by decide, by decide, rfl, rfl⟩

theorem wit_letterboxAck : ∃ (s : State) (k : Fin 32) (d : Fin 2) (p : BitVec 16),
    (s.unitOn domHost && s.lbxEn k) = true ∧
    ((s.ring k d).msgs.any (fun q => q.1 == p.toNat) = true) :=
  ⟨(demo [(Reg.LBX_CFG 31, 1)]).setRing 31 1 ⟨[(5, 6)]⟩, 31, 1, 5, by decide, by decide⟩

theorem wit_letterboxEnable : ∃ (s : State) (k : Fin 32) (v : BitVec 32),
    s.unitOn domHost = true ∧
    s.flag (Reg.LBX_CFG k) 0 = false ∧
    bitOf v 0 = true ∧
    (s.store (Reg.LBX_CFG k) Reg.LBX_CFGCHK false (withField v 0 0 0)).lbxFails k = [] :=
  ⟨demo [], 31, 1, by decide, by decide, by decide, by decide⟩

theorem wit_hostPortEnable : ∃ (s : State) (v : BitVec 32),
    s.unitOn domHost = true ∧
    s.flag Reg.HP_CTRL 0 = false ∧
    bitOf v 0 = true :=
  ⟨demo [], 1, by decide, by decide, by decide⟩

theorem wit_hostWindowWrite : ∃ (s : State) (v : BitVec 32),
    s.unitOn domHost = true ∧
    fieldOf v 2 0 < 3 :=
  ⟨demo [], 0xFFFC0002, by decide, by decide⟩

theorem wit_hostWindowWrite_other : ∃ (s : State),
    s.unitOn domHost = true :=
  ⟨demo [], by decide⟩

theorem wit_resync : ∃ (s : State),
    s.hpOn = true :=
  ⟨demo [(Reg.HP_CTRL, 1)], by decide⟩

theorem wit_hostWrite : ∃ (s : State) (ha : BitVec 24),
    s.hpOn = true ∧
    (¬ (s.fld (Reg.HP_WIN (ha.toNat / 65536)) 2 0 = 2 ∧ ha.toNat % 65536 = 0x0304)) ∧
    s.flag Reg.HP_STAT 6 = false ∧
    s.hp.queue.length < 64 :=
  ⟨demo [(Reg.HP_CTRL, 1), (Reg.HP_STAT, 0)], 0xFFFFFF, by decide, by decide, by decide, by decide⟩

theorem wit_macTimeAdjust : ∃ (s : State) (m : Fin 2),
    s.unitOn (0x30 + m) = true :=
  ⟨demo [], 1, by decide⟩

theorem wit_macTargetTime : ∃ (s : State) (m : Fin 2) (t : Fin 4) (g : Nat) (u : State),
    s.macTarget m t = some g ∧
    s.unitOn (0x30 + m) = true ∧
    nsetHas (s.mac m).reached t = false ∧
    u = s.advanceTo (s.targetEdge m g) :=
  ⟨demo [(Reg.MAC_TGTHI 1 3, 0x80000000), (Reg.MAC_TGTLO 1 3, 5)], 1, 3, 5, _, by decide, by decide, by decide, rfl⟩

theorem wit_targetTimePulseEnd : ∃ (s : State) (m : Fin 2) (t : Fin 4) (e : Nat) (u : State),
    mapGet 0 (s.mac m).pulse t = e + 1 ∧
    u = s.advanceTo (e + 1) :=
  ⟨(demo []).setMac 1 { pulse := [(3, 9)] }, 1, 3, 8, _, by decide, rfl⟩

theorem wit_frameReceive : ∃ (s : State) (m : Fin 2) (len : Nat) (u : State),
    s.unitOn (0x30 + m) = true ∧
    len ≤ 9216 ∧
    u = s.pulseLine (168 + 4 * m) :=
  ⟨demo [], 1, 9216, _, by decide, by decide, rfl⟩

theorem wit_frameReceive_bad : ∃ (s : State) (m : Fin 2) (len : Nat) (bad : Bool),
    s.unitOn (0x30 + m) = true ∧
    (bad = true ∨ 9216 < len) :=
  ⟨demo [], 1, 9217, false, by decide, .inr (by decide)⟩

theorem wit_frameTransmit : ∃ (s : State) (m : Fin 2) (u : State),
    s.unitOn (0x30 + m) = true ∧
    u = s.pulseLine (169 + 4 * m) :=
  ⟨demo [], 1, _, by decide, rfl⟩

theorem wit_canFrameReceive : ∃ (s : State) (f : CanFormat) (len : Nat),
    s.unitOn 0x33 = true ∧
    len ≤ canMax f :=
  ⟨demo [], .xl, 2048, by decide, by decide⟩

theorem wit_canFrameTransmit : ∃ (s : State),
    s.unitOn 0x33 = true :=
  ⟨demo [], by decide⟩

theorem wit_pcieLinkStateChange : ∃ (s : State),
    s.unitOn 0x32 = true :=
  ⟨demo [], by decide⟩

theorem wit_hostRead : ∃ (s : State) (ha : BitVec 24) (t : State) (w : Word),
    s.hpOn = true ∧
    s.hostRead ha.toNat = (t, w) :=
  ⟨demo [(Reg.HP_CTRL, 1)], 0xFFFFFF, _, _, by decide, rfl⟩

theorem wit_hostRead_post : ∃ (s : State) (ha : BitVec 24) (t : State) (w : Word),
    s.hpOn = true ∧
    s.fld (Reg.HP_WIN (ha.toNat / 65536)) 2 0 = 1 ∧
    s.postRead (postRoom + 4 * (ha.toNat % 65536)) = (t, some w) :=
  ⟨demo [(Reg.HP_CTRL, 1), (Reg.HP_WIN 0, 1)], 0, _, 0, by decide, by decide, lead2 (by decide)⟩

theorem wit_hostWriteApply : ∃ (s : State) (q : HostWrite) (rest : List HostWrite),
    s.hpOn = true ∧
    s.hp.queue = q :: rest ∧
    s.fld (Reg.HP_WIN (q.ha / 65536)) 2 0 = 1 ∧
    q.be = 15 ∧
    q.ha / 65536 < 256 :=
  ⟨{ demo [(Reg.HP_CTRL, 1), (Reg.HP_WIN 255, 1)] with hp := { queue := [⟨0xFF0000, 15, 7⟩] } }, ⟨0xFF0000, 15, 7⟩, [], by decide, by decide, by decide, by decide, by decide⟩

theorem wit_hostWriteApply_bus : ∃ (s : State) (q : HostWrite) (rest : List HostWrite) (t : State) (r : BusRes),
    s.hpOn = true ∧
    s.hp.queue = q :: rest ∧
    (s.setHpq rest).winKind (q.ha / 65536) = 3 ∧
    (s.setHpq rest).hostBusWrite (2 ^ 18 * (s.setHpq rest).fld (Reg.HP_WIN (q.ha / 65536)) 31 18 + 4 * (q.ha % 65536)) q = (t, r) :=
  ⟨{ demo [(Reg.HP_CTRL, 1), (Reg.HP_WIN 255, 3)] with hp := { queue := [⟨0xFF0000, 15, 7⟩] } }, ⟨0xFF0000, 15, 7⟩, [], _, _, by decide, by decide, by decide, rfl⟩

theorem wit_pcieInboundAccess_write : ∃ (s : State) (bar1 : Bool) (off : BitVec 20) (n : Fin 513),
    s.unitOn 0x32 = true ∧
    s.pcie.up = true ∧
    (off.toNat + n ≤ if bar1 then 0x80000 else 0x100000) ∧
    (bar1 = true → off.toNat < 0x40000 → s.domOn domHost = true) :=
  ⟨{ demo [] with pcie := { up := true } }, true, 0x3FFFC, 4, by decide, by decide, by decide, fun _ _ => by decide⟩

theorem wit_pcieInboundAccess_read : ∃ (s : State) (bar1 : Bool) (off : BitVec 20) (n : Fin 513) (t : State) (v : Nat),
    s.unitOn 0x32 = true ∧
    s.pcie.up = true ∧
    (off.toNat + n ≤ if bar1 then 0x80000 else 0x100000) ∧
    (bar1 = true → off.toNat < 0x40000 → s.domOn domHost = true) ∧
    s.inRead bar1 off.toNat n = (t, v) :=
  ⟨{ demo [] with pcie := { up := true } }, true, 0x3FFFC, 4, _, _, by decide, by decide, by decide, fun _ _ => by decide, rfl⟩

theorem wit_patchArm : ∃ (s : State) (v : BitVec 32) (w : Word),
    w = BitVec.ofNat 32 (s.fld Reg.MCODE_CTRL 3 0) ||| v ∧
    fieldOf w 3 0 &&& (15 - s.fld Reg.MCODE_CTRL 3 0) ≠ 0 ∧
    s.armFails (fieldOf w 3 0) (fieldOf w 3 0 &&& (15 - s.fld Reg.MCODE_CTRL 3 0)) = [] :=
  ⟨{ demo [] with arb := { granted := [⟨0, 8, 0⟩] } }, 3, _, rfl, by decide, by decide⟩

theorem wit_patchCancel : ∃ (s : State) (v : BitVec 32) (w : Word),
    w = BitVec.ofNat 32 (s.fld Reg.MCODE_CTRL 3 0) &&& ~~~v ∧
    fieldOf w 3 0 &&& (15 - s.fld Reg.MCODE_CTRL 3 0) = 0 :=
  ⟨demo [], 0, _, rfl, by decide⟩

theorem wit_patchInstall : ∃ (s : State) (n : Fin 4) (k : Nat),
    s.lead n = some k ∧
    (s.core k).run = .patch ∧
    (s.core k).sb = [] :=
  ⟨(demo []).setCore 2 { run := .patch }, 2, 2, by decide, by decide, by decide⟩

theorem wit_domainPowerUp : ∃ (s : State) (x : Fin 2) (v : BitVec 32) (w : Word),
    (w = v ||| s.reg (if x = 0 then Reg.PM_DOMCTL0 else Reg.PM_DOMCTL1)) :=
  ⟨demo [], 1, 1, _, rfl⟩

theorem wit_domainGate : ∃ (s : State) (x : Fin 2) (v : BitVec 32) (w : Word),
    (w = v &&& s.reg (if x = 0 then Reg.PM_DOMCTL0 else Reg.PM_DOMCTL1)) :=
  ⟨demo [], 1, 0, _, rfl⟩

theorem wit_domainUsable : ∃ (s : State) (d : Fin 64) (e : Nat),
    (mapGet none (s.power.up.map fun p => (p.1, some p.2)) d = some e) :=
  ⟨{ demo [] with power := { up := [(63, 9)] } }, 63, 9, by decide⟩

theorem wit_opChange : ∃ (s : State) (v : BitVec 32) (u : State),
    s.flag Reg.PM_OPSTAT 31 = false ∧
    (max (waitStates (fieldOf v 1 0) (opVid (fieldOf v 1 0))) (if s.fld Reg.PM_OPSTAT 1 0 < fieldOf v 1 0 then waitStates (fieldOf v 1 0) (s.fld Reg.PM_OPSTAT 7 4) else if fieldOf v 1 0 < s.fld Reg.PM_OPSTAT 1 0 then waitStates (s.fld Reg.PM_OPSTAT 1 0) (opVid (fieldOf v 1 0)) else 0) ≤ s.fld Reg.FC_CTRL 3 0) ∧
    u = (((s.setFld Reg.PM_OPCTL 1 0 (fieldOf v 1 0)).cfgOk Reg.PM_CFGCHK).setFlag Reg.PM_OPSTAT 31 true) ∧
    (¬ (fieldOf v 1 0 = s.fld Reg.PM_OPSTAT 1 0 ∧ opVid (fieldOf v 1 0) = s.fld Reg.PM_OPSTAT 7 4)) :=
  ⟨demo [(Reg.PM_OPSTAT, 0), (Reg.FC_CTRL, 15)], 3, _, by decide, by decide, rfl, by decide⟩

theorem wit_opChange_refused : ∃ (s : State) (v : BitVec 32) (need : Nat),
    s.flag Reg.PM_OPSTAT 31 = false ∧
    (need = max (waitStates (fieldOf v 1 0) (opVid (fieldOf v 1 0))) (if s.fld Reg.PM_OPSTAT 1 0 < fieldOf v 1 0 then waitStates (fieldOf v 1 0) (s.fld Reg.PM_OPSTAT 7 4) else if fieldOf v 1 0 < s.fld Reg.PM_OPSTAT 1 0 then waitStates (s.fld Reg.PM_OPSTAT 1 0) (opVid (fieldOf v 1 0)) else 0)) ∧
    s.fld Reg.FC_CTRL 3 0 < need :=
  ⟨demo [(Reg.FC_CTRL, 0)], 3, _, by decide, rfl, by decide⟩

theorem wit_voltageConfirmed : ∃ (s : State) (o : OpChange) (e : Nat),
    s.power.op = some o ∧
    e = (max s.now (o.vidAt + 2000) + 3) / 4 * 4 ∧
    e ≤ o.vidAt + 400000 :=
  ⟨{ demo [] with power := { op := some ⟨3, 0, 0, 0⟩ } }, ⟨3, 0, 0, 0⟩, 2000, by decide, by decide, by decide⟩

theorem wit_pgoodTimeout : ∃ (s : State) (o : OpChange),
    s.power.op = some o :=
  ⟨{ demo [] with power := { op := some ⟨3, 0, 0, 0⟩ } }, ⟨3, 0, 0, 0⟩, by decide⟩

theorem wit_pgoodLoss : ∃ (s : State) (u : State),
    s.power.op = none ∧
    u = (((s.advanceTo (alignEdge s.now)).setFld Reg.PM_OPSTAT 1 0 3).setFlag Reg.PM_OPSTAT 28 true).setFlag Reg.PM_OPSTAT 30 false :=
  ⟨demo [], _, by decide, rfl⟩

theorem wit_crocusEntry : ∃ (s : State) (u : State),
    s.sleepFails 1 = [] ∧
    u = (s.cfgOk Reg.PM_CFGCHK).setFld Reg.PM_SLEEPSTAT 6 4 0 :=
  ⟨demo [(Reg.PM_WAKEEN, 8), (Reg.PM_CRPER, 50), (Reg.SQ_CTRL 0, 1), (Reg.SQ_ENT 0 0, 0x80010000), (Reg.CS_CTRL 0, 9)], _, by decide, rfl⟩

theorem wit_snowdropEntry : ∃ (s : State) (u : State),
    s.sleepFails 2 = [] ∧
    u = (s.cfgOk Reg.PM_CFGCHK).setFld Reg.PM_SLEEPSTAT 6 4 0 :=
  ⟨demo [(Reg.PM_WAKEEN, 4)], _, by decide, rfl⟩

theorem wit_offEntry : ∃ (s : State) (u : State),
    s.sleepFails 3 = [] ∧
    u = ((s.cfgOk Reg.PM_CFGCHK).setFld Reg.PM_SLEEPSTAT 6 4 0).coldReset :=
  ⟨demo [], _, by decide, rfl⟩

theorem wit_sleepPairsStopped : ∃ (s : State) (t : Nat) (u : State) (w : State),
    s.power.entry = some t ∧
    s.pairsStopped = true ∧
    (u = { s.holdPads with
      power := { s.holdPads.power with entry := none, waking := false, sampling := false }
      cores := s.holdPads.cores.map fun (p : Nat × Core) => (p.1, p.2.cacheLost) }) ∧
    w = ((((u.setReg Reg.PM_DOMSTAT0 0).setReg Reg.PM_DOMSTAT1 (u.reg Reg.PM_DOMSTAT1 &&& 0x80400000)).setFld Reg.PM_SLEEPSTAT 6 4 5).setFld Reg.PM_SLEEPSTAT 1 0 t).pllStop :=
  ⟨{ demo [] with power := { entry := some 2 } }, 2, _, _, by decide, by decide, rfl, rfl⟩

theorem wit_wakeEvent : ∃ (s : State) (src : Fin 5) (ticks : Nat) (u : State),
    s.power.off = false ∧
    s.power.entry = none ∧
    u = s.sleepTicks ticks ∧
    u.asleep = true ∧
    s.power.waking = false ∧
    u.wakes src (u.fld Reg.PM_SLEEPSTAT 1 0) = true :=
  ⟨demo [(Reg.PM_WAKEEN, 4), (Reg.PM_SLEEPSTAT, 2)], 2, 0, _, by decide, by decide, rfl, by decide, by decide, by decide⟩

theorem wit_wakeEvent_abandons : ∃ (s : State) (src : Fin 5) (t : Nat),
    s.power.off = false ∧
    s.power.entry = some t ∧
    s.wakes src t = true :=
  ⟨{ demo [(Reg.PM_WAKEEN, 4)] with power := { entry := some 2 } }, 2, 2, by decide, by decide, by decide⟩

theorem wit_wakeEvent_off : ∃ (s : State),
    s.power.off = true :=
  ⟨{ demo [] with power := { off := true } }, by decide⟩

theorem wit_snowdropTimer : ∃ (s : State) (ticks : Nat) (u : State),
    u = s.sleepTicks ticks ∧
    u.fld Reg.PM_SLEEPSTAT 1 0 = 2 ∧
    s.power.waking = false ∧
    u.flag Reg.PM_WAKEEN 2 = true :=
  ⟨demo [(Reg.PM_WAKEEN, 4), (Reg.PM_SLEEPSTAT, 2)], 0, _, rfl, by decide, by decide, by decide⟩

theorem wit_wakeComplete : ∃ (s : State) (u : State),
    s.power.waking = true ∧
    s.clk.run = true ∧
    u = { s with power := { s.power with waking := false } } :=
  ⟨{ demo [] with power := { waking := true } }, _, by decide, by decide, rfl⟩

theorem wit_crocusSamplingWake : ∃ (s : State) (ticks : Nat) (u : State) (g : Nat),
    u = s.sleepTicks ticks ∧
    u.fld Reg.PM_SLEEPSTAT 1 0 = 1 ∧
    s.power.waking = false ∧
    s.power.sampling = false ∧
    g = u.fld Reg.PM_CROCUS 1 0 :=
  ⟨demo [(Reg.PM_SLEEPSTAT, 1)], 0, _, _, rfl, by decide, by decide, by decide, rfl⟩

theorem wit_crocusDecision : ∃ (s : State) (ticks : Nat) (u : State),
    u = s.sleepTicks ticks ∧
    s.power.sampling = true :=
  ⟨{ demo [] with power := { sampling := true } }, 0, _, rfl, by decide⟩

theorem wit_x32okFall : ∃ (s : State) (ticks : Nat) (u : State),
    u = s.sleepTicks ticks :=
  ⟨demo [], 5, _, rfl⟩

theorem wit_padRelease : ∃ (s : State) (v : BitVec 32),
    (∀ b < 15, bitOf v b = true → s.domOn (holdDom b) = true) ∧
    (((List.range 15).filter fun b => bitOf v b) ≠ []) :=
  ⟨demo [], 0x7FFF, fun b hb => by revert b; decide, by decide⟩

theorem wit_permitExpiry : ∃ (s : State) (e : Nat),
    s.mg.permit = some e ∧
    s.phase = 3 :=
  ⟨{ demo [(Reg.MG_PHASE, 3)] with mg := { permit := some 9 } }, 9, by decide, by decide⟩

theorem wit_maintRequest : ∃ (s : State) (v : BitVec 32) (mgmt : Bool) (t : Nat) (u : State),
    s.phase ≠ 0 ∧
    fieldOf v 7 0 ≠ 0 ∧
    fieldOf v 7 0 ≤ 10 ∧
    (mgmt = true ∨ fieldOf v 7 0 = 10) ∧
    resOk (fieldOf v 7 0) (fieldOf v 23 16) = true ∧
    (s.arbRequest (fieldOf v 7 0) (fieldOf v 23 16) = (.accepted t, u) ∨ s.arbRequest (fieldOf v 7 0) (fieldOf v 23 16) = (.queued t, u)) :=
  ⟨demo [], 0x0007, true, _, _, by decide, by decide, by decide, .inl rfl, by decide, .inl rfl⟩

theorem wit_maintRelease : ∃ (s : State) (v : BitVec 32),
    s.phase ≠ 0 ∧
    (((s.arb.granted ++ s.arb.queue).any fun x => x.ticket == fieldOf v 7 0) = true) :=
  ⟨{ demo [] with arb := { granted := [⟨5, 2, 0⟩] } }, 5, by decide, by decide⟩

theorem wit_arbiterGrant : ∃ (s : State) (t : Ticket) (u : State),
    s.arbReady = some t ∧
    u = { s with arb := { granted := s.arb.granted ++ [t], queue := s.arb.queue.filter (·.ticket != t.ticket) } } :=
  ⟨{ demo [] with arb := { queue := [⟨5, 2, 0⟩] } }, ⟨5, 2, 0⟩, _, by decide, rfl⟩

theorem wit_ledgerCompactEnd : ∃ (s : State) (t : Ticket),
    (s.arb.granted.find? (fun t => t.act == 7) = some t) :=
  ⟨{ demo [] with arb := { granted := [⟨5, 7, 0⟩] } }, ⟨5, 7, 0⟩, by decide⟩

theorem wit_attest : ∃ (s : State) (u : State) (v : Nat),
    s.phase ≠ 0 ∧
    s.flag Reg.MG_SVCSTAT 31 = false ∧
    (s.svcStarted 1).reportBytes ((s.svcStarted 1).svcGet 32) = (u, v) :=
  ⟨demo [], _, _, by decide, by decide, Prod.mk.eta.symm⟩

theorem wit_idkey : ∃ (s : State),
    s.phase ≠ 0 ∧
    s.flag Reg.MG_SVCSTAT 31 = false :=
  ⟨demo [], by decide, by decide⟩

theorem wit_svnAdvance : ∃ (s : State) (t : State),
    s.phase ≠ 0 ∧
    s.flag Reg.MG_SVCSTAT 31 = false ∧
    t = s.svcStarted 3 :=
  ⟨demo [], _, by decide, by decide, rfl⟩

theorem wit_phase : ∃ (s : State),
    s.phase ≠ 0 ∧
    s.flag Reg.MG_SVCSTAT 31 = false ∧
    (s.svcStarted 5).phase = 3 ∧
    (s.svcStarted 5).svcArg % 8 = 2 :=
  ⟨demo [(Reg.MG_PHASE, 3), (Reg.MG_SVCARG, 2)], by decide, by decide, by decide, by decide⟩

theorem wit_mgreload : ∃ (s : State),
    s.phase ≠ 0 ∧
    s.flag Reg.MG_SVCSTAT 31 = false ∧
    (s.svcStarted 11).mg.bare = false :=
  ⟨demo [], by decide, by decide, by decide⟩

theorem wit_managementReset : ∃ (s : State),
    s.phase ≠ 0 ∧
    s.mg.bare = false :=
  ⟨demo [], by decide, by decide⟩

theorem wit_liveupdPairStop : ∃ (s : State) (p : Fin 2) (l : LiveUpdate) (u : State),
    s.mg.live = some l ∧
    (l.waiting.contains p.val) = true ∧
    s.pairStopped p = true ∧
    s.pairMode p = 0 ∧
    (s.core (s.pairRecord p)).run ≠ .off ∧
    (u = (s.coldRestart (s.pairRecord p)).onCore (s.pairRecord p) fun c => { c with run := .hold }) ∧
    l.waiting.filter (· != p.val) ≠ [] :=
  ⟨(({ demo [] with mg := { live := some ⟨0, [0, 1], [0, 1]⟩ } } : State).setCore 0 { run := .hold }), 0, ⟨0, [0, 1], [0, 1]⟩, _, by decide, by decide, by decide, by decide, by decide, rfl, by decide⟩

theorem wit_serviceCommandDone : ∃ (s : State) (x : Service) (u : State),
    s.mg.svc = some x ∧
    s.mg.live = none ∧
    (x.op = 10 → x.code = 0 → ∀ r ∈ s.mg.patches, r.armed = true) ∧
    (u = (((s.setFlag Reg.MG_SVCSTAT 31 false).setFlag Reg.MG_SVCSTAT 30 true).setReg Reg.MG_CFGCHK (if x.code = 0 then 0 else cfgWord ⟨x.code, 0xFF, x.detail⟩))) :=
  ⟨{ demo [] with mg := { svc := some ⟨1, 0, 0⟩ } }, ⟨1, 0, 0⟩, _, by decide, by decide, fun h => absurd h (by decide), rfl⟩

theorem wit_pllRootSwitch : ∃ (s : State),
    s.clk.run = false ∧
    s.phase ≠ 0 ∧
    (s.asleep = true → s.power.waking = true) :=
  ⟨{ demo [] with clk := { run := false } }, by decide, by decide, fun h => by revert h; decide⟩

theorem wit_lossOfLock : ∃ (s : State) (u : State),
    s.clk.run = true ∧
    (u = (State.pllStop ((List.range 96).foldl (fun s n => s.pwmHalt n) s)).setFlag Reg.MG_CLKSTAT 7 true) :=
  ⟨demo [], _, by decide, rfl⟩

theorem wit_warmReset : ∃ (s : State),
    s.phase ≠ 0 ∧
    s.power.off = false :=
  ⟨demo [], by decide, by decide⟩

theorem wit_warmReset_pin : ∃ (s : State) (u : State),
    s.phase ≠ 0 ∧
    s.power.off = false ∧
    u = s.warmReset :=
  ⟨demo [], _, by decide, by decide, rfl⟩

theorem wit_resetnRelease : ∃ (s : State),
    s.mg.resetLow = true :=
  ⟨{ demo [] with mg := { resetLow := true } }, by decide⟩

theorem wit_permanentReplacement : ∃ (s : State) (n : Fin 64),
    s.unitOn (0x19 + n.val / 16) = true ∧
    s.spareFree (n.val / 16) = true ∧
    s.arbHeld 3 (n.val / 16) = false ∧
    s.fld (Reg.CG_CALSTAT (n.val / 16)) 12 8 = 0x1F :=
  ⟨demo [(Reg.CG_CALSTAT 3, 0x1F00)], 63, by decide, by decide, by decide, by decide⟩

theorem wit_mcAdd : ∃ (s : State) (n : Fin 4) (k : Nat),
    s.CoreReady n k :=
  ⟨core demoArch [], 0, 0, ⟨by decide, by decide, by decide, by decide, by decide, rfl, by decide⟩⟩

theorem wit_mcAddv : ∃ (s : State) (n : Fin 4) (k : Nat) (a : Fin 32) (b : Fin 32) (z : Int),
    s.CoreReady n k ∧
    z = sv ((s.arch k).get a) + sv ((s.arch k).get b) ∧
    satTo 32 z = z :=
  ⟨core numArch [], 0, 0, 1, 2, _, ⟨by decide, by decide, by decide, by decide, by decide, rfl, by decide⟩, rfl, by decide⟩

theorem wit_mcSubv : ∃ (s : State) (n : Fin 4) (k : Nat) (a : Fin 32) (b : Fin 32) (z : Int),
    s.CoreReady n k ∧
    z = sv ((s.arch k).get a) - sv ((s.arch k).get b) ∧
    satTo 32 z = z :=
  ⟨core numArch [], 0, 0, 1, 2, _, ⟨by decide, by decide, by decide, by decide, by decide, rfl, by decide⟩, rfl, by decide⟩

theorem wit_mcMulv : ∃ (s : State) (n : Fin 4) (k : Nat) (a : Fin 32) (b : Fin 32) (z : Int),
    s.CoreReady n k ∧
    z = sv ((s.arch k).get a) * sv ((s.arch k).get b) ∧
    satTo 32 z = z :=
  ⟨core numArch [], 0, 0, 1, 2, _, ⟨by decide, by decide, by decide, by decide, by decide, rfl, by decide⟩, rfl, by decide⟩

theorem wit_mcDiv : ∃ (s : State) (n : Fin 4) (k : Nat) (b : Fin 32),
    s.CoreReady n k ∧
    (s.arch k).get b ≠ 0 :=
  ⟨core numArch [], 0, 0, 2, ⟨by decide, by decide, by decide, by decide, by decide, rfl, by decide⟩, by decide⟩

theorem wit_mcAddS : ∃ (s : State) (n : Fin 4) (k : Nat) (a : Fin 32) (b : Fin 32) (z : Int),
    s.CoreReady n k ∧
    z = sv ((s.arch k).get a) + sv ((s.arch k).get b) ∧
    (satTo 32 z = z ∨ (s.arch k).ste = false) :=
  ⟨core numArch [], 0, 0, 1, 2, _, ⟨by decide, by decide, by decide, by decide, by decide, rfl, by decide⟩, rfl, .inl (by decide)⟩

theorem wit_mcSubS : ∃ (s : State) (n : Fin 4) (k : Nat) (a : Fin 32) (b : Fin 32) (z : Int),
    s.CoreReady n k ∧
    z = sv ((s.arch k).get a) - sv ((s.arch k).get b) ∧
    (satTo 32 z = z ∨ (s.arch k).ste = false) :=
  ⟨core numArch [], 0, 0, 1, 2, _, ⟨by decide, by decide, by decide, by decide, by decide, rfl, by decide⟩, rfl, .inl (by decide)⟩

theorem wit_mcNegS : ∃ (s : State) (n : Fin 4) (k : Nat) (a : Fin 32) (z : Int),
    s.CoreReady n k ∧
    z = -sv ((s.arch k).get a) ∧
    (satTo 32 z = z ∨ (s.arch k).ste = false) :=
  ⟨core numArch [], 0, 0, 1, _, ⟨by decide, by decide, by decide, by decide, by decide, rfl, by decide⟩, rfl, .inl (by decide)⟩

theorem wit_mcAbsS : ∃ (s : State) (n : Fin 4) (k : Nat) (a : Fin 32) (z : Int),
    s.CoreReady n k ∧
    z = (sv ((s.arch k).get a)).natAbs ∧
    (satTo 32 z = z ∨ (s.arch k).ste = false) :=
  ⟨core numArch [], 0, 0, 1, _, ⟨by decide, by decide, by decide, by decide, by decide, rfl, by decide⟩, rfl, .inl (by decide)⟩

theorem wit_mcMulq : ∃ (s : State) (n : Fin 4) (k : Nat) (a : Fin 32) (b : Fin 32) (z : Int),
    s.CoreReady n k ∧
    z = sra (sv ((s.arch k).get a) * sv ((s.arch k).get b)) 31 ∧
    (satTo 32 z = z ∨ (s.arch k).ste = false) :=
  ⟨core numArch [], 0, 0, 1, 2, _, ⟨by decide, by decide, by decide, by decide, by decide, rfl, by decide⟩, rfl, .inl (by decide)⟩

theorem wit_mcMadq : ∃ (s : State) (n : Fin 4) (k : Nat) (a : Fin 32) (b : Fin 32) (e : Fin 32) (z : Int),
    s.CoreReady n k ∧
    z = sv ((s.arch k).get e) + sra (sv ((s.arch k).get a) * sv ((s.arch k).get b)) 31 ∧
    (satTo 32 z = z ∨ (s.arch k).ste = false) :=
  ⟨core numArch [], 0, 0, 1, 2, 1, _, ⟨by decide, by decide, by decide, by decide, by decide, rfl, by decide⟩, rfl, .inl (by decide)⟩

theorem wit_mcMulq15 : ∃ (s : State) (n : Fin 4) (k : Nat) (a : Fin 32) (b : Fin 32) (z : Int),
    s.CoreReady n k ∧
    z = sra (low16 ((s.arch k).get a) * low16 ((s.arch k).get b)) 15 ∧
    (satTo 16 z = z ∨ (s.arch k).ste = false) :=
  ⟨core numArch [], 0, 0, 1, 2, _, ⟨by decide, by decide, by decide, by decide, by decide, rfl, by decide⟩, rfl, .inl (by decide)⟩

theorem wit_mcMadq15 : ∃ (s : State) (n : Fin 4) (k : Nat) (a : Fin 32) (b : Fin 32) (e : Fin 32) (z : Int),
    s.CoreReady n k ∧
    z = low16 ((s.arch k).get e) + sra (low16 ((s.arch k).get a) * low16 ((s.arch k).get b)) 15 ∧
    (satTo 16 z = z ∨ (s.arch k).ste = false) :=
  ⟨core numArch [], 0, 0, 1, 2, 1, _, ⟨by decide, by decide, by decide, by decide, by decide, rfl, by decide⟩, rfl, .inl (by decide)⟩

theorem wit_mcShls : ∃ (s : State) (n : Fin 4) (k : Nat) (a : Fin 32) (b : Fin 32) (z : Int),
    s.CoreReady n k ∧
    z = sv ((s.arch k).get a) * (2 ^ (((s.arch k).get b).toNat % 32) : Nat) ∧
    (satTo 32 z = z ∨ (s.arch k).ste = false) :=
  ⟨core numArch [], 0, 0, 1, 2, _, ⟨by decide, by decide, by decide, by decide, by decide, rfl, by decide⟩, rfl, .inl (by decide)⟩

theorem wit_mcRndq15 : ∃ (s : State) (n : Fin 4) (k : Nat) (a : Fin 32) (z : Int),
    s.CoreReady n k ∧
    z = sra (sv ((s.arch k).get a) + 32768) 16 ∧
    (satTo 16 z = z ∨ (s.arch k).ste = false) :=
  ⟨core numArch [], 0, 0, 1, _, ⟨by decide, by decide, by decide, by decide, by decide, rfl, by decide⟩, rfl, .inl (by decide)⟩

theorem wit_mcClarke : ∃ (s : State) (n : Fin 4) (k : Nat) (d : Fin 32) (a : Fin 32) (b : Fin 32) (z : Int),
    s.CoreReady n k ∧
    d.val % 2 = 0 ∧
    z = clarkeInt ((s.arch k).get a) ((s.arch k).get b) ∧
    ((clipped 32 z) = false ∨ (s.arch k).ste = false) :=
  ⟨core demoArch [], 0, 0, 30, 0, 0, _, ⟨by decide, by decide, by decide, by decide, by decide, rfl, by decide⟩, by decide, rfl, .inr (by decide)⟩

theorem wit_mcPark : ∃ (s : State) (n : Fin 4) (k : Nat) (d : Fin 32) (a : Fin 32) (b : Fin 32) (z : Int × Int),
    s.CoreReady n k ∧
    d.val % 2 = 0 ∧
    z = parkInts ((s.arch k).get a) ((s.arch k).get ((a.val + 1) % 32)) ((s.arch k).get b) ∧
    ((clipped 32 z.1 || clipped 32 z.2) = false ∨ (s.arch k).ste = false) :=
  ⟨core demoArch [], 0, 0, 30, 0, 0, _, ⟨by decide, by decide, by decide, by decide, by decide, rfl, by decide⟩, by decide, rfl, .inr (by decide)⟩

theorem wit_mcIpark : ∃ (s : State) (n : Fin 4) (k : Nat) (d : Fin 32) (a : Fin 32) (b : Fin 32) (z : Int × Int),
    s.CoreReady n k ∧
    d.val % 2 = 0 ∧
    z = iparkInts ((s.arch k).get a) ((s.arch k).get ((a.val + 1) % 32)) ((s.arch k).get b) ∧
    ((clipped 32 z.1 || clipped 32 z.2) = false ∨ (s.arch k).ste = false) :=
  ⟨core demoArch [], 0, 0, 30, 0, 0, _, ⟨by decide, by decide, by decide, by decide, by decide, rfl, by decide⟩, by decide, rfl, .inr (by decide)⟩

theorem wit_mcSvm : ∃ (s : State) (n : Fin 4) (k : Nat) (d : Fin 32) (a : Fin 32) (z : Word × Word × Word × Word),
    s.CoreReady n k ∧
    d.val % 4 = 0 ∧
    z = svmOf ((s.arch k).get a) ((s.arch k).get ((a.val + 1) % 32)) ∧
    ((bitOf z.1 31) = false ∨ (s.arch k).ste = false) :=
  ⟨core demoArch [], 0, 0, 28, 0, _, ⟨by decide, by decide, by decide, by decide, by decide, rfl, by decide⟩, by decide, rfl, .inr (by decide)⟩

theorem wit_mcSlli : ∃ (s : State) (n : Fin 4) (k : Nat) (imm : BitVec 14),
    imm.toNat < 32 ∧
    s.CoreReady n k :=
  ⟨core demoArch [], 0, 0, 31, by decide, ⟨by decide, by decide, by decide, by decide, by decide, rfl, by decide⟩⟩

theorem wit_mcBeq : ∃ (s : State) (n : Fin 4) (k : Nat) (a : Fin 32) (b : Fin 32) (off : BitVec 16) (x : Nat),
    s.CoreReady n k ∧
    ((s.arch k).get a == (s.arch k).get b) = true ∧
    x = (s.arch k).rel (off.signExtend 32) ∧
    (s.arch k).near x = none :=
  ⟨core numArch [], 0, 0, 1, 1, 0x8000, _, ⟨by decide, by decide, by decide, by decide, by decide, rfl, by decide⟩, by decide, rfl, by decide⟩

theorem wit_mcBeq_passed : ∃ (s : State) (n : Fin 4) (k : Nat) (a : Fin 32) (b : Fin 32),
    s.CoreReady n k ∧
    ((s.arch k).get a == (s.arch k).get b) = false :=
  ⟨core numArch [], 0, 0, 1, 2, ⟨by decide, by decide, by decide, by decide, by decide, rfl, by decide⟩, by decide⟩

theorem wit_mcBne : ∃ (s : State) (n : Fin 4) (k : Nat) (a : Fin 32) (b : Fin 32) (off : BitVec 16) (x : Nat),
    s.CoreReady n k ∧
    ((s.arch k).get a != (s.arch k).get b) = true ∧
    x = (s.arch k).rel (off.signExtend 32) ∧
    (s.arch k).near x = none :=
  ⟨core numArch [], 0, 0, 1, 2, 0x7FFF, _, ⟨by decide, by decide, by decide, by decide, by decide, rfl, by decide⟩, by decide, rfl, by decide⟩

theorem wit_mcBne_passed : ∃ (s : State) (n : Fin 4) (k : Nat) (a : Fin 32) (b : Fin 32),
    s.CoreReady n k ∧
    ((s.arch k).get a != (s.arch k).get b) = false :=
  ⟨core numArch [], 0, 0, 1, 1, ⟨by decide, by decide, by decide, by decide, by decide, rfl, by decide⟩, by decide⟩

theorem wit_mcBlt : ∃ (s : State) (n : Fin 4) (k : Nat) (a : Fin 32) (b : Fin 32) (off : BitVec 16) (x : Nat),
    s.CoreReady n k ∧
    ((s.arch k).get a).slt ((s.arch k).get b) = true ∧
    x = (s.arch k).rel (off.signExtend 32) ∧
    (s.arch k).near x = none :=
  ⟨core numArch [], 0, 0, 1, 2, 4, _, ⟨by decide, by decide, by decide, by decide, by decide, rfl, by decide⟩, by decide, rfl, by decide⟩

theorem wit_mcBlt_passed : ∃ (s : State) (n : Fin 4) (k : Nat) (a : Fin 32) (b : Fin 32),
    s.CoreReady n k ∧
    ((s.arch k).get a).slt ((s.arch k).get b) = false :=
  ⟨core numArch [], 0, 0, 1, 1, ⟨by decide, by decide, by decide, by decide, by decide, rfl, by decide⟩, by decide⟩

theorem wit_mcBge : ∃ (s : State) (n : Fin 4) (k : Nat) (a : Fin 32) (b : Fin 32) (off : BitVec 16) (x : Nat),
    s.CoreReady n k ∧
    (!((s.arch k).get a).slt ((s.arch k).get b)) = true ∧
    x = (s.arch k).rel (off.signExtend 32) ∧
    (s.arch k).near x = none :=
  ⟨core numArch [], 0, 0, 1, 1, 4, _, ⟨by decide, by decide, by decide, by decide, by decide, rfl, by decide⟩, by decide, rfl, by decide⟩

theorem wit_mcBge_passed : ∃ (s : State) (n : Fin 4) (k : Nat) (a : Fin 32) (b : Fin 32),
    s.CoreReady n k ∧
    (!((s.arch k).get a).slt ((s.arch k).get b)) = false :=
  ⟨core numArch [], 0, 0, 1, 2, ⟨by decide, by decide, by decide, by decide, by decide, rfl, by decide⟩, by decide⟩

theorem wit_mcBltu : ∃ (s : State) (n : Fin 4) (k : Nat) (a : Fin 32) (b : Fin 32) (off : BitVec 16) (x : Nat),
    s.CoreReady n k ∧
    ((s.arch k).get a).ult ((s.arch k).get b) = true ∧
    x = (s.arch k).rel (off.signExtend 32) ∧
    (s.arch k).near x = none :=
  ⟨core numArch [], 0, 0, 1, 2, 4, _, ⟨by decide, by decide, by decide, by decide, by decide, rfl, by decide⟩, by decide, rfl, by decide⟩

theorem wit_mcBltu_passed : ∃ (s : State) (n : Fin 4) (k : Nat) (a : Fin 32) (b : Fin 32),
    s.CoreReady n k ∧
    ((s.arch k).get a).ult ((s.arch k).get b) = false :=
  ⟨core numArch [], 0, 0, 1, 1, ⟨by decide, by decide, by decide, by decide, by decide, rfl, by decide⟩, by decide⟩

theorem wit_mcBgeu : ∃ (s : State) (n : Fin 4) (k : Nat) (a : Fin 32) (b : Fin 32) (off : BitVec 16) (x : Nat),
    s.CoreReady n k ∧
    (!((s.arch k).get a).ult ((s.arch k).get b)) = true ∧
    x = (s.arch k).rel (off.signExtend 32) ∧
    (s.arch k).near x = none :=
  ⟨core numArch [], 0, 0, 1, 1, 4, _, ⟨by decide, by decide, by decide, by decide, by decide, rfl, by decide⟩, by decide, rfl, by decide⟩

theorem wit_mcBgeu_passed : ∃ (s : State) (n : Fin 4) (k : Nat) (a : Fin 32) (b : Fin 32),
    s.CoreReady n k ∧
    (!((s.arch k).get a).ult ((s.arch k).get b)) = false :=
  ⟨core numArch [], 0, 0, 1, 2, ⟨by decide, by decide, by decide, by decide, by decide, rfl, by decide⟩, by decide⟩

theorem wit_mcJ : ∃ (s : State) (n : Fin 4) (k : Nat) (off : BitVec 26) (x : Nat),
    s.CoreReady n k ∧
    x = (s.arch k).rel (off.signExtend 32) ∧
    (s.arch k).near x = none :=
  ⟨core demoArch [], 0, 0, 4, _, ⟨by decide, by decide, by decide, by decide, by decide, rfl, by decide⟩, rfl, by decide⟩

theorem wit_mcCall : ∃ (s : State) (t : State) (n : Fin 4) (k : Nat) (off : BitVec 26) (x : Nat),
    s.CoreReady n k ∧
    x = (s.arch k).rel (off.signExtend 32) ∧
    (s.arch k).near x = none ∧
    s.slideFwd k ((s.arch k).pc + 4) = .ok t :=
  ⟨core demoArch [], _, 0, 0, 4, _, ⟨by decide, by decide, by decide, by decide, by decide, rfl, by decide⟩, rfl, by decide, rfl⟩

theorem wit_mcJc : ∃ (s : State) (n : Fin 4) (k : Nat) (a : Fin 32) (c : Cap),
    s.CoreReady n k ∧
    a.val < 16 ∧
    c = (s.arch k).cap a ∧
    execCheck c a 5 c.cursor.toNat = none :=
  ⟨core demoArch [], 0, 0, 1, _, ⟨by decide, by decide, by decide, by decide, by decide, rfl, by decide⟩, by decide, rfl, by decide⟩

theorem wit_mcCallc : ∃ (s : State) (t : State) (n : Fin 4) (k : Nat) (a : Fin 32) (c : Cap),
    s.CoreReady n k ∧
    a.val < 16 ∧
    c = (s.arch k).cap a ∧
    execCheck c a 5 c.cursor.toNat = none ∧
    s.slideFwd k ((s.arch k).pc + 4) = .ok t :=
  ⟨core demoArch [], _, 0, 0, 1, _, ⟨by decide, by decide, by decide, by decide, by decide, rfl, by decide⟩, by decide, rfl, by decide, rfl⟩

theorem wit_mcRetc : ∃ (s : State) (t : State) (n : Fin 4) (k : Nat) (a : Fin 32) (c : Cap),
    s.CoreReady n k ∧
    a.val < 16 ∧
    c = (s.arch k).cap a ∧
    execCheck c a 5 c.cursor.toNat = none ∧
    s.slideBack k = .ok t :=
  ⟨core { demoArch with depth := 2 } [], _, 0, 0, 1, _, ⟨by decide, by decide, by decide, by decide, by decide, rfl, by decide⟩, by decide, rfl, by decide, rfl⟩

theorem wit_mcRet : ∃ (s : State) (t : State) (n : Fin 4) (k : Nat) (x : Nat),
    s.CoreReady n k ∧
    x = (s.arch k).win0.link.toNat ∧
    (s.arch k).near x = none ∧
    s.slideBack k = .ok t :=
  ⟨core { demoArch with depth := 2 } [], _, 0, 0, _, ⟨by decide, by decide, by decide, by decide, by decide, rfl, by decide⟩, rfl, by decide, rfl⟩

theorem wit_mcLoop : ∃ (s : State) (n : Fin 4) (k : Nat) (a : Fin 32) (off : BitVec 16),
    s.CoreReady n k ∧
    2 ≤ off.toNat ∧
    (s.arch k).act = false ∧
    (s.arch k).get a ≠ 0 :=
  ⟨core numArch [], 0, 0, 1, 2, ⟨by decide, by decide, by decide, by decide, by decide, rfl, by decide⟩, by decide, by decide, by decide⟩

theorem wit_mcLoop_skipped : ∃ (s : State) (n : Fin 4) (k : Nat) (a : Fin 32) (off : BitVec 16),
    s.CoreReady n k ∧
    2 ≤ off.toNat ∧
    (s.arch k).act = false ∧
    (s.arch k).get a = 0 :=
  ⟨core numArch [], 0, 0, 0, 2, ⟨by decide, by decide, by decide, by decide, by decide, rfl, by decide⟩, by decide, by decide, by decide⟩

theorem wit_mcEndloop : ∃ (s : State) (n : Fin 4) (k : Nat),
    s.CoreReady n k :=
  ⟨core demoArch [], 0, 0, ⟨by decide, by decide, by decide, by decide, by decide, rfl, by decide⟩⟩

theorem wit_mcSgmov : ∃ (s : State) (n : Fin 4) (k : Nat) (d : Fin 32) (a : Fin 32),
    s.CoreReady n k ∧
    (d.val ≠ 0 ∧ d < 16) ∧
    a < 16 :=
  ⟨core demoArch [], 0, 0, 15, 0, ⟨by decide, by decide, by decide, by decide, by decide, rfl, by decide⟩, by decide, by decide⟩

theorem wit_mcSgbase : ∃ (s : State) (n : Fin 4) (k : Nat) (a : Fin 32),
    s.CoreReady n k ∧
    a < 16 :=
  ⟨core demoArch [], 0, 0, 15, ⟨by decide, by decide, by decide, by decide, by decide, rfl, by decide⟩, by decide⟩

theorem wit_mcSgsetc : ∃ (s : State) (n : Fin 4) (k : Nat) (d : Fin 32) (a : Fin 32) (c : Cap),
    s.CoreReady n k ∧
    (d.val ≠ 0 ∧ d < 16) ∧
    a < 16 ∧
    c = (s.arch k).cap a ∧
    c.isSealed = false :=
  ⟨core demoArch [], 0, 0, 15, 1, _, ⟨by decide, by decide, by decide, by decide, by decide, rfl, by decide⟩, by decide, by decide, rfl, by decide⟩

theorem wit_mcSgnarrow : ∃ (s : State) (n : Fin 4) (k : Nat) (d : Fin 32) (a : Fin 32) (b : Fin 32) (e : Fin 32) (c : Cap),
    s.CoreReady n k ∧
    (d.val ≠ 0 ∧ d < 16) ∧
    a < 16 ∧
    c = (s.arch k).cap a ∧
    c.tag = true ∧
    c.isSealed = false ∧
    ((s.arch k).get b).toNat + ((s.arch k).get e).toNat ≤ c.length.toNat :=
  ⟨core numArch [], 0, 0, 15, 1, 1, 2, _, ⟨by decide, by decide, by decide, by decide, by decide, rfl, by decide⟩, by decide, by decide, rfl, by decide, by decide, by decide⟩

theorem wit_mcSgmask : ∃ (s : State) (n : Fin 4) (k : Nat) (d : Fin 32) (a : Fin 32) (c : Cap),
    s.CoreReady n k ∧
    (d.val ≠ 0 ∧ d < 16) ∧
    a < 16 ∧
    c = (s.arch k).cap a ∧
    c.tag = true ∧
    c.isSealed = false :=
  ⟨core demoArch [], 0, 0, 15, 1, _, ⟨by decide, by decide, by decide, by decide, by decide, rfl, by decide⟩, by decide, by decide, rfl, by decide, by decide⟩

theorem wit_mcSgseal : ∃ (s : State) (n : Fin 4) (k : Nat) (d : Fin 32) (a : Fin 32) (b : Fin 32) (e : Fin 32) (c : Cap) (x : Cap) (y : Nat),
    s.CoreReady n k ∧
    (d.val ≠ 0 ∧ d < 16) ∧
    a < 16 ∧
    e.val < 16 ∧
    c = (s.arch k).cap a ∧
    x = (s.arch k).cap e ∧
    y = ((s.arch k).get b).toNat ∧
    c.tag = true ∧
    x.tag = true ∧
    c.isSealed = false ∧
    x.isSealed = false ∧
    x.may permSeal = true ∧
    (0 < y ∧ y ≤ 0xFFFF) ∧
    (x.base.toNat ≤ y ∧ y < x.base.toNat + x.length.toNat) :=
  ⟨core numArch [], 0, 0, 15, 1, 1, 4, _, _, _, ⟨by decide, by decide, by decide, by decide, by decide, rfl, by decide⟩, by decide, by decide, by decide, rfl, rfl, rfl, by decide, by decide, by decide, by decide, by decide, by decide, by decide⟩

theorem wit_mcSgopen : ∃ (s : State) (n : Fin 4) (k : Nat) (d : Fin 32) (a : Fin 32) (e : Fin 32) (c : Cap) (x : Cap) (y : Nat),
    s.CoreReady n k ∧
    (d.val ≠ 0 ∧ d < 16) ∧
    a < 16 ∧
    e.val < 16 ∧
    c = (s.arch k).cap a ∧
    x = (s.arch k).cap e ∧
    y = c.otype.toNat ∧
    c.tag = true ∧
    x.tag = true ∧
    c.isSealed = true ∧
    x.isSealed = false ∧
    x.may permUnseal = true ∧
    (x.base.toNat ≤ y ∧ y < x.base.toNat + x.length.toNat) :=
  ⟨core { demoArch with caps := [(0, allCap 0), (1, { allCap 0 with otype := 5 }), (4, allCap 0)] } [], 0, 0, 15, 1, 4, _, _, _, ⟨by decide, by decide, by decide, by decide, by decide, rfl, by decide⟩, by decide, by decide, by decide, rfl, rfl, rfl, by decide, by decide, by decide, by decide, by decide, by decide⟩

theorem wit_mcSgvoid : ∃ (s : State) (n : Fin 4) (k : Nat) (d : Fin 32) (a : Fin 32) (c : Cap),
    s.CoreReady n k ∧
    (d.val ≠ 0 ∧ d < 16) ∧
    a < 16 ∧
    c = (s.arch k).cap a :=
  ⟨core demoArch [], 0, 0, 15, 1, _, ⟨by decide, by decide, by decide, by decide, by decide, rfl, by decide⟩, by decide, by decide, rfl⟩

theorem wit_mcSgaddci : ∃ (s : State) (n : Fin 4) (k : Nat) (d : Fin 32) (c : Fin 32) (x : Cap),
    s.CoreReady n k ∧
    (d.val ≠ 0 ∧ d < 16) ∧
    c < 16 ∧
    x = (s.arch k).cap c ∧
    x.isSealed = false :=
  ⟨core demoArch [], 0, 0, 15, 1, _, ⟨by decide, by decide, by decide, by decide, by decide, rfl, by decide⟩, by decide, by decide, rfl, by decide⟩

theorem wit_mcLb : ∃ (s : State) (t : State) (n : Fin 4) (k : Nat) (c : Fin 32) (off : BitVec 16) (ea : Nat) (v : Nat) (tag : Bool),
    s.CoreReady n k ∧
    c.val < 16 ∧
    ea = (s.arch k).eaOf c (off.signExtend 32) ∧
    capCheck ((s.arch k).cap c) c 1 ea 1 [permLoad] false = none ∧
    s.coreLoad k (((s.arch k).cap c).may permDevice) ea 1 = .val t v tag :=
  ⟨core demoArch [], _, 0, 0, 1, 3, _, _, _, ⟨by decide, by decide, by decide, by decide, by decide, rfl, by decide⟩, by decide, rfl, by decide, rfl⟩

theorem wit_mcLh : ∃ (s : State) (t : State) (n : Fin 4) (k : Nat) (c : Fin 32) (off : BitVec 16) (ea : Nat) (v : Nat) (tag : Bool),
    s.CoreReady n k ∧
    c.val < 16 ∧
    ea = (s.arch k).eaOf c (off.signExtend 32) ∧
    capCheck ((s.arch k).cap c) c 1 ea 2 [permLoad] false = none ∧
    s.coreLoad k (((s.arch k).cap c).may permDevice) ea 2 = .val t v tag :=
  ⟨core demoArch [], _, 0, 0, 1, 2, _, _, _, ⟨by decide, by decide, by decide, by decide, by decide, rfl, by decide⟩, by decide, rfl, by decide, rfl⟩

theorem wit_mcLw : ∃ (s : State) (t : State) (n : Fin 4) (k : Nat) (c : Fin 32) (off : BitVec 16) (ea : Nat) (v : Nat) (tag : Bool),
    s.CoreReady n k ∧
    c.val < 16 ∧
    ea = (s.arch k).eaOf c (off.signExtend 32) ∧
    capCheck ((s.arch k).cap c) c 1 ea 4 [permLoad] false = none ∧
    s.coreLoad k (((s.arch k).cap c).may permDevice) ea 4 = .val t v tag :=
  ⟨core demoArch [], _, 0, 0, 1, 4, _, _, _, ⟨by decide, by decide, by decide, by decide, by decide, rfl, by decide⟩, by decide, rfl, by decide, rfl⟩

theorem wit_mcLd : ∃ (s : State) (t : State) (n : Fin 4) (k : Nat) (d : Fin 32) (c : Fin 32) (off : BitVec 16) (ea : Nat) (v : Nat) (tag : Bool),
    s.CoreReady n k ∧
    c.val < 16 ∧
    d.val % 2 = 0 ∧
    ea = (s.arch k).eaOf c (off.signExtend 32) ∧
    capCheck ((s.arch k).cap c) c 1 ea 8 [permLoad] false = none ∧
    s.coreLoad k (((s.arch k).cap c).may permDevice) ea 8 = .val t v tag :=
  ⟨core demoArch [], _, 0, 0, 30, 1, 8, _, _, _, ⟨by decide, by decide, by decide, by decide, by decide, rfl, by decide⟩, by decide, by decide, rfl, by decide, rfl⟩

theorem wit_mcLxLb : ∃ (s : State) (t : State) (n : Fin 4) (k : Nat) (a : Fin 32) (b : Fin 32) (e : Fin 32) (ea : Nat) (v : Nat) (tag : Bool),
    s.CoreReady n k ∧
    a.val < 16 ∧
    e.val < 4 ∧
    ea = (s.arch k).eaOf a ((s.arch k).scaled b e) ∧
    capCheck ((s.arch k).cap a) a 1 ea 1 [permLoad] false = none ∧
    s.coreLoad k (((s.arch k).cap a).may permDevice) ea 1 = .val t v tag :=
  ⟨core numArch [], _, 0, 0, 1, 1, 3, _, _, _, ⟨by decide, by decide, by decide, by decide, by decide, rfl, by decide⟩, by decide, by decide, rfl, by decide, rfl⟩

theorem wit_mcLxLh : ∃ (s : State) (t : State) (n : Fin 4) (k : Nat) (a : Fin 32) (b : Fin 32) (e : Fin 32) (ea : Nat) (v : Nat) (tag : Bool),
    s.CoreReady n k ∧
    a.val < 16 ∧
    e.val < 4 ∧
    ea = (s.arch k).eaOf a ((s.arch k).scaled b e) ∧
    capCheck ((s.arch k).cap a) a 1 ea 2 [permLoad] false = none ∧
    s.coreLoad k (((s.arch k).cap a).may permDevice) ea 2 = .val t v tag :=
  ⟨core numArch [], _, 0, 0, 1, 1, 3, _, _, _, ⟨by decide, by decide, by decide, by decide, by decide, rfl, by decide⟩, by decide, by decide, rfl, by decide, rfl⟩

theorem wit_mcLxLw : ∃ (s : State) (t : State) (n : Fin 4) (k : Nat) (a : Fin 32) (b : Fin 32) (e : Fin 32) (ea : Nat) (v : Nat) (tag : Bool),
    s.CoreReady n k ∧
    a.val < 16 ∧
    e.val < 4 ∧
    ea = (s.arch k).eaOf a ((s.arch k).scaled b e) ∧
    capCheck ((s.arch k).cap a) a 1 ea 4 [permLoad] false = none ∧
    s.coreLoad k (((s.arch k).cap a).may permDevice) ea 4 = .val t v tag :=
  ⟨core numArch [], _, 0, 0, 1, 1, 3, _, _, _, ⟨by decide, by decide, by decide, by decide, by decide, rfl, by decide⟩, by decide, by decide, rfl, by decide, rfl⟩

theorem wit_mcLxLd : ∃ (s : State) (t : State) (n : Fin 4) (k : Nat) (d : Fin 32) (a : Fin 32) (b : Fin 32) (e : Fin 32) (ea : Nat) (v : Nat) (tag : Bool),
    s.CoreReady n k ∧
    a.val < 16 ∧
    e.val < 4 ∧
    d.val % 2 = 0 ∧
    ea = (s.arch k).eaOf a ((s.arch k).scaled b e) ∧
    capCheck ((s.arch k).cap a) a 1 ea 8 [permLoad] false = none ∧
    s.coreLoad k (((s.arch k).cap a).may permDevice) ea 8 = .val t v tag :=
  ⟨core numArch [], _, 0, 0, 30, 1, 1, 3, _, _, _, ⟨by decide, by decide, by decide, by decide, by decide, rfl, by decide⟩, by decide, by decide, by decide, rfl, by decide, rfl⟩

theorem wit_mcSb : ∃ (s : State) (t : State) (n : Fin 4) (k : Nat) (d : Fin 32) (c : Fin 32) (off : BitVec 16) (ea : Nat),
    s.CoreReady n k ∧
    c.val < 16 ∧
    ea = (s.arch k).eaOf c (off.signExtend 32) ∧
    capCheck ((s.arch k).cap c) c 2 ea 1 [permStore] false = none ∧
    (s.arch k).spillGuard c ea = none ∧
    s.badAccess ea 1 = false ∧
    s.pushStores k (storeEnts ea 1 (((s.arch k).get d).toNat % 256 ^ 1) (((s.arch k).cap c).may permHold)) = some t :=
  ⟨core numArch [], _, 0, 0, 1, 3, 3, _, ⟨by decide, by decide, by decide, by decide, by decide, rfl, by decide⟩, by decide, rfl, by decide, by decide, by decide, eq_some (d := demo []) (by decide)⟩

theorem wit_mcSh : ∃ (s : State) (t : State) (n : Fin 4) (k : Nat) (d : Fin 32) (c : Fin 32) (off : BitVec 16) (ea : Nat),
    s.CoreReady n k ∧
    c.val < 16 ∧
    ea = (s.arch k).eaOf c (off.signExtend 32) ∧
    capCheck ((s.arch k).cap c) c 2 ea 2 [permStore] false = none ∧
    (s.arch k).spillGuard c ea = none ∧
    s.badAccess ea 2 = false ∧
    s.pushStores k (storeEnts ea 2 (((s.arch k).get d).toNat % 256 ^ 2) (((s.arch k).cap c).may permHold)) = some t :=
  ⟨core numArch [], _, 0, 0, 1, 3, 2, _, ⟨by decide, by decide, by decide, by decide, by decide, rfl, by decide⟩, by decide, rfl, by decide, by decide, by decide, eq_some (d := demo []) (by decide)⟩

theorem wit_mcSw : ∃ (s : State) (t : State) (n : Fin 4) (k : Nat) (d : Fin 32) (c : Fin 32) (off : BitVec 16) (ea : Nat),
    s.CoreReady n k ∧
    c.val < 16 ∧
    ea = (s.arch k).eaOf c (off.signExtend 32) ∧
    capCheck ((s.arch k).cap c) c 2 ea 4 [permStore] false = none ∧
    (s.arch k).spillGuard c ea = none ∧
    s.badAccess ea 4 = false ∧
    s.pushStores k (storeEnts ea 4 (((s.arch k).get d).toNat % 256 ^ 4) (((s.arch k).cap c).may permHold)) = some t :=
  ⟨core numArch [], _, 0, 0, 1, 3, 4, _, ⟨by decide, by decide, by decide, by decide, by decide, rfl, by decide⟩, by decide, rfl, by decide, by decide, by decide, eq_some (d := demo []) (by decide)⟩

theorem wit_mcSd : ∃ (s : State) (t : State) (n : Fin 4) (k : Nat) (d : Fin 32) (c : Fin 32) (off : BitVec 16) (ea : Nat),
    s.CoreReady n k ∧
    c.val < 16 ∧
    d.val % 2 = 0 ∧
    ea = (s.arch k).eaOf c (off.signExtend 32) ∧
    capCheck ((s.arch k).cap c) c 2 ea 8 [permStore] false = none ∧
    (s.arch k).spillGuard c ea = none ∧
    s.badAccess ea 8 = false ∧
    s.pushStores k (storePair ea (((s.arch k).get d).toNat + 2 ^ 32 * ((s.arch k).get (d + 1)).toNat) (((s.arch k).cap c).may permHold)) = some t :=
  ⟨core numArch [], _, 0, 0, 30, 3, 8, _, ⟨by decide, by decide, by decide, by decide, by decide, rfl, by decide⟩, by decide, by decide, rfl, by decide, by decide, by decide, eq_some (d := demo []) (by decide)⟩

theorem wit_mcSxSb : ∃ (s : State) (t : State) (n : Fin 4) (k : Nat) (d : Fin 32) (a : Fin 32) (b : Fin 32) (e : Fin 32) (ea : Nat),
    s.CoreReady n k ∧
    a.val < 16 ∧
    e.val < 4 ∧
    ea = (s.arch k).eaOf a ((s.arch k).scaled b e) ∧
    capCheck ((s.arch k).cap a) a 2 ea 1 [permStore] false = none ∧
    (s.arch k).spillGuard a ea = none ∧
    s.badAccess ea 1 = false ∧
    s.pushStores k (storeEnts ea 1 (((s.arch k).get d).toNat % 256 ^ 1) (((s.arch k).cap a).may permHold)) = some t :=
  ⟨core numArch [], _, 0, 0, 1, 3, 1, 3, _, ⟨by decide, by decide, by decide, by decide, by decide, rfl, by decide⟩, by decide, by decide, rfl, by decide, by decide, by decide, eq_some (d := demo []) (by decide)⟩

theorem wit_mcSxSh : ∃ (s : State) (t : State) (n : Fin 4) (k : Nat) (d : Fin 32) (a : Fin 32) (b : Fin 32) (e : Fin 32) (ea : Nat),
    s.CoreReady n k ∧
    a.val < 16 ∧
    e.val < 4 ∧
    ea = (s.arch k).eaOf a ((s.arch k).scaled b e) ∧
    capCheck ((s.arch k).cap a) a 2 ea 2 [permStore] false = none ∧
    (s.arch k).spillGuard a ea = none ∧
    s.badAccess ea 2 = false ∧
    s.pushStores k (storeEnts ea 2 (((s.arch k).get d).toNat % 256 ^ 2) (((s.arch k).cap a).may permHold)) = some t :=
  ⟨core numArch [], _, 0, 0, 1, 3, 1, 3, _, ⟨by decide, by decide, by decide, by decide, by decide, rfl, by decide⟩, by decide, by decide, rfl, by decide, by decide, by decide, eq_some (d := demo []) (by decide)⟩

theorem wit_mcSxSw : ∃ (s : State) (t : State) (n : Fin 4) (k : Nat) (d : Fin 32) (a : Fin 32) (b : Fin 32) (e : Fin 32) (ea : Nat),
    s.CoreReady n k ∧
    a.val < 16 ∧
    e.val < 4 ∧
    ea = (s.arch k).eaOf a ((s.arch k).scaled b e) ∧
    capCheck ((s.arch k).cap a) a 2 ea 4 [permStore] false = none ∧
    (s.arch k).spillGuard a ea = none ∧
    s.badAccess ea 4 = false ∧
    s.pushStores k (storeEnts ea 4 (((s.arch k).get d).toNat % 256 ^ 4) (((s.arch k).cap a).may permHold)) = some t :=
  ⟨core numArch [], _, 0, 0, 1, 3, 1, 3, _, ⟨by decide, by decide, by decide, by decide, by decide, rfl, by decide⟩, by decide, by decide, rfl, by decide, by decide, by decide, eq_some (d := demo []) (by decide)⟩

theorem wit_mcSxSd : ∃ (s : State) (t : State) (n : Fin 4) (k : Nat) (d : Fin 32) (a : Fin 32) (b : Fin 32) (e : Fin 32) (ea : Nat),
    s.CoreReady n k ∧
    a.val < 16 ∧
    e.val < 4 ∧
    d.val % 2 = 0 ∧
    ea = (s.arch k).eaOf a ((s.arch k).scaled b e) ∧
    capCheck ((s.arch k).cap a) a 2 ea 8 [permStore] false = none ∧
    (s.arch k).spillGuard a ea = none ∧
    s.badAccess ea 8 = false ∧
    s.pushStores k (storePair ea (((s.arch k).get d).toNat + 2 ^ 32 * ((s.arch k).get (d + 1)).toNat) (((s.arch k).cap a).may permHold)) = some t :=
  ⟨core numArch [], _, 0, 0, 30, 3, 1, 3, _, ⟨by decide, by decide, by decide, by decide, by decide, rfl, by decide⟩, by decide, by decide, by decide, rfl, by decide, by decide, by decide, eq_some (d := demo []) (by decide)⟩

theorem wit_mcLc : ∃ (s : State) (t : State) (n : Fin 4) (k : Nat) (d : Fin 32) (c : Fin 32) (off : BitVec 16) (ea : Nat) (v : Nat) (tag : Bool),
    s.CoreReady n k ∧
    c.val < 16 ∧
    (d.val ≠ 0 ∧ d.val < 16) ∧
    ea = (s.arch k).eaOf c (off.signExtend 32) ∧
    capCheck ((s.arch k).cap c) c 1 ea 16 [permLoad, permLdcap] true = none ∧
    s.coreLoad k (((s.arch k).cap c).may permDevice) ea 16 = .val t v tag :=
  ⟨core demoArch [], _, 0, 0, 15, 1, 16, _, _, _, ⟨by decide, by decide, by decide, by decide, by decide, rfl, by decide⟩, by decide, by decide, rfl, by decide, rfl⟩

theorem wit_mcSc : ∃ (s : State) (t : State) (n : Fin 4) (k : Nat) (d : Fin 32) (c : Fin 32) (off : BitVec 16) (ea : Nat),
    s.CoreReady n k ∧
    c.val < 16 ∧
    d.val < 16 ∧
    ea = (s.arch k).eaOf c (off.signExtend 32) ∧
    (capCheck ((s.arch k).cap c) c 2 ea 16 (if ((s.arch k).cap d).tag then [permStore, permStcap] else [permStore]) true = none) ∧
    (s.arch k).spillGuard c ea = none ∧
    s.badAccess ea 16 = false ∧
    s.pushStores k (storeCap ea ((s.arch k).cap d) (((s.arch k).cap d).tag && (((s.arch k).cap d).may permGlobal || c.val == 2)) (((s.arch k).cap c).may permHold)) = some t :=
  ⟨core demoArch [], _, 0, 0, 4, 3, 16, _, ⟨by decide, by decide, by decide, by decide, by decide, rfl, by decide⟩, by decide, by decide, rfl, by decide, by decide, by decide, eq_some (d := demo []) (by decide)⟩

theorem wit_mcAmoSwap : ∃ (s : State) (t : State) (n : Fin 4) (k : Nat) (a : Fin 32) (ea : Nat) (v : Nat) (tag : Bool),
    s.CoreReady n k ∧
    a < 16 ∧
    ea = ((s.arch k).cap a).cursor.toNat ∧
    capCheck ((s.arch k).cap a) a 3 ea 4 [permLoad, permStore] true = none ∧
    (s.arch k).spillGuard a ea = none ∧
    s.badAccess ea 4 = false ∧
    s.coreLoad k true ea 4 = .val t v tag :=
  ⟨core demoArch [], _, 0, 0, 3, _, _, _, ⟨by decide, by decide, by decide, by decide, by decide, rfl, by decide⟩, by decide, rfl, by decide, by decide, by decide, rfl⟩

theorem wit_mcBcopy : ∃ (s : State) (t : State) (n : Fin 4) (k : Nat) (d : Fin 32) (a : Fin 32) (b : Fin 32) (m : Nat) (ext : Nat) (count : Nat),
    s.CoreReady n k ∧
    (a.val ≠ 0 ∧ a.val < 16) ∧
    (d.val ≠ 0 ∧ d.val < 16) ∧
    count = ((s.arch k).get b).toNat ∧
    capCheck ((s.arch k).cap a) a 1 ((s.arch k).cap a).cursor.toNat count [permLoad] false = none ∧
    capCheck ((s.arch k).cap d) d 2 ((s.arch k).cap d).cursor.toNat count [permStore] false = none ∧
    (s.arch k).spillGuard d ((s.arch k).cap d).cursor.toNat = none ∧
    s.blockRun k d (some a.val) b 0 ext count m = .next t :=
  ⟨core numArch [], _, 0, 0, 3, 1, 1, 1, 0, _, ⟨by decide, by decide, by decide, by decide, by decide, rfl, by decide⟩, by decide, by decide, rfl, by decide, by decide, by decide, rfl⟩

theorem wit_mcBcopy_abandoned : ∃ (s : State) (t : State) (n : Fin 4) (k : Nat) (d : Fin 32) (a : Fin 32) (b : Fin 32) (m : Nat) (ext : Nat) (count : Nat),
    s.CoreReady n k ∧
    (a.val ≠ 0 ∧ a.val < 16) ∧
    (d.val ≠ 0 ∧ d.val < 16) ∧
    count = ((s.arch k).get b).toNat ∧
    capCheck ((s.arch k).cap a) a 1 ((s.arch k).cap a).cursor.toNat count [permLoad] false = none ∧
    capCheck ((s.arch k).cap d) d 2 ((s.arch k).cap d).cursor.toNat count [permStore] false = none ∧
    (s.arch k).spillGuard d ((s.arch k).cap d).cursor.toNat = none ∧
    s.blockRun k d (some a.val) b 0 ext count m = .stop t :=
  ⟨core numArch [], _, 0, 0, 3, 1, 1, 0, 0, _, ⟨by decide, by decide, by decide, by decide, by decide, rfl, by decide⟩, by decide, by decide, rfl, by decide, by decide, by decide, rfl⟩

theorem wit_mcBfill : ∃ (s : State) (t : State) (n : Fin 4) (k : Nat) (d : Fin 32) (b : Fin 32) (e : Fin 32) (m : Nat) (count : Nat),
    s.CoreReady n k ∧
    (d.val ≠ 0 ∧ d.val < 16) ∧
    count = ((s.arch k).get b).toNat ∧
    capCheck ((s.arch k).cap d) d 2 ((s.arch k).cap d).cursor.toNat count [permStore] false = none ∧
    (s.arch k).spillGuard d ((s.arch k).cap d).cursor.toNat = none ∧
    s.blockRun k d none b (((s.arch k).get e).toNat % 256) 0 count m = .next t :=
  ⟨core numArch [], _, 0, 0, 3, 1, 2, 1, _, ⟨by decide, by decide, by decide, by decide, by decide, rfl, by decide⟩, by decide, rfl, by decide, by decide, rfl⟩

theorem wit_pcieCompletion : ∃ (s : State) (t : State) (n : Fin 4) (k : Nat) (data : Nat) (o : OutLoad) (v : Nat) (tag : Bool) (u : State),
    s.outLoad n = some (k, o) ∧
    (s.outDone k).heldOver k o.ea o.use.size (.val (s.outDone k) (data % 256 ^ o.use.size) false) = .val t v tag ∧
    ((t.arch k).lastInLoop) = false ∧
    u = t.loadUse k o.ea v tag o.use :=
  ⟨(core demoArch []).onCore 0 fun c => { c with run := .load, out := some ⟨0x80000000, 1, .value 4 5 false, 0, 0⟩ }, _, 0, 0, 7, _, _, _, _, rfl, rfl, by decide, rfl⟩

theorem wit_pcieCompletionTimeout : ∃ (s : State) (n : Fin 4) (k : Nat) (o : OutLoad) (u : State) (w : State),
    s.outLoad n = some (k, o) ∧
    u = (s.advanceTo (o.at' + 20000000)).outDone k ∧
    u.fault k (accessExc .error o.use.acc o.creg o.ea) = some w :=
  ⟨(core demoArch []).onCore 0 fun c => { c with run := .load, out := some ⟨0x80000000, 1, .value 4 5 false, 0, 0⟩ }, 0, 0, _, _, _, rfl, rfl, eq_some (d := demo []) (by decide)⟩

theorem wit_mcFence : ∃ (s : State) (t : State) (n : Fin 4) (k : Nat),
    s.CoreReady n k ∧
    s.drainAll k = some t :=
  ⟨core demoArch [], _, 0, 0, ⟨by decide, by decide, by decide, by decide, by decide, rfl, by decide⟩, rfl⟩

theorem wit_mcCkpt : ∃ (s : State) (n : Fin 4) (k : Nat),
    s.CoreReady n k ∧
    s.releasing k = false :=
  ⟨core demoArch [], 0, 0, ⟨by decide, by decide, by decide, by decide, by decide, rfl, by decide⟩, by decide⟩

theorem wit_mcSplit : ∃ (s : State) (n : Fin 4) (k : Nat) (a : Fin 32) (b : Fin 32),
    s.CoreReady n k ∧
    a.val < 16 ∧
    b.val < 16 ∧
    ((s.arch k).cap 0).may permSys = true ∧
    execCheck ((s.arch k).cap b) b 5 ((s.arch k).cap b).cursor.toNat = none ∧
    s.pairMode (k / 2) = 0 ∧
    s.pairCode (k / 2) k none = 0 ∧
    s.releasing k = false :=
  ⟨core demoArch [], 0, 0, 1, 1, ⟨by decide, by decide, by decide, by decide, by decide, rfl, by decide⟩, by decide, by decide, by decide, by decide, by decide, by decide, by decide⟩

theorem wit_mcSplit_refused : ∃ (s : State) (n : Fin 4) (k : Nat) (a : Fin 32) (b : Fin 32) (code : Nat),
    s.CoreReady n k ∧
    a.val < 16 ∧
    b.val < 16 ∧
    ((s.arch k).cap 0).may permSys = true ∧
    execCheck ((s.arch k).cap b) b 5 ((s.arch k).cap b).cursor.toNat = none ∧
    (code = s.pairCode (k / 2) k (if s.pairMode (k / 2) = 0 then none else some 0xC0)) ∧
    code ≠ 0 :=
  ⟨(core demoArch []).setMode 0 1, 0, 0, 1, 1, _, ⟨by decide, by decide, by decide, by decide, by decide, rfl, by decide⟩, by decide, by decide, by decide, by decide, rfl, by decide⟩

theorem wit_mcJoin : ∃ (s : State) (n : Fin 4) (k : Nat) (u : State),
    s.CoreReady n k ∧
    ((s.arch k).cap 0).may permSys = true ∧
    s.pairMode (k / 2) = 1 ∧
    s.pairCode (k / 2) k none = 0 ∧
    s.releasing k = false ∧
    (u = ((s.drainPart k 32).joinStop (k + 1)).onCore k fun c => { c with run := .join }) :=
  ⟨(core demoArch []).setMode 0 1, 0, 0, _, ⟨by decide, by decide, by decide, by decide, by decide, rfl, by decide⟩, by decide, by decide, by decide, by decide, rfl⟩

theorem wit_mcJoin_refused : ∃ (s : State) (n : Fin 4) (k : Nat),
    s.CoreReady n k ∧
    ((s.arch k).cap 0).may permSys = true ∧
    s.pairMode (k / 2) = 0 ∧
    (s.arbHeld 8 (k / 2) = false ∧ s.arbHeld 9 (k / 2) = false) :=
  ⟨core demoArch [], 0, 0, ⟨by decide, by decide, by decide, by decide, by decide, rfl, by decide⟩, by decide, by decide, ⟨by decide, by decide⟩⟩

theorem wit_joinResync : ∃ (s : State) (p : Fin 2) (extra : Fin 14465) (u : State),
    (s.core (2 * p.val)).run = .join ∧
    u = s.joinCopied p extra ∧
    (u.arch (2 * p.val)).lastInLoop = false :=
  ⟨(core demoArch []).onCore 0 fun c => { c with run := .join }, 0, 14464, _, by decide, rfl, by decide⟩

theorem wit_mcEret : ∃ (s : State) (n : Fin 4) (k : Nat) (x : Cap) (c : Cap) (u : State) (w : State) (v : Nat) (pc : Nat) (st : Word),
    s.CoreReady n k ∧
    ((s.arch k).cap 0).may permSys = true ∧
    x = (s.arch k).xstk ∧
    xstkCheck x = none ∧
    s.frameRead k x = .ok (u, v, c) ∧
    pc = v % 2 ^ 32 ∧
    execCheck c 0x10 5 pc = none ∧
    st = BitVec.ofNat 32 (v / 2 ^ 32) &&& 0x30F ∧
    u.chain k (fieldOf st 3 0) = none ∧
    u.slideBack k = .ok w :=
  ⟨framed (core { demoArch with depth := 2 } []), 0, 0, _, _, _, _, _, _, _, ⟨by decide, by decide, by decide, by decide, by decide, rfl, by decide⟩, by decide, rfl, by decide, rfl, rfl, by decide, rfl, by decide, rfl⟩

theorem wit_mcEret_chained : ∃ (s : State) (n : Fin 4) (k : Nat) (x : Cap) (c : Cap) (vec : Cap) (u : State) (w : State) (v : Nat) (pc : Nat) (l : Nat) (prio : Nat) (st : Word),
    s.CoreReady n k ∧
    ((s.arch k).cap 0).may permSys = true ∧
    x = (s.arch k).xstk ∧
    xstkCheck x = none ∧
    s.frameRead k x = .ok (u, v, c) ∧
    pc = v % 2 ^ 32 ∧
    execCheck c 0x10 5 pc = none ∧
    st = BitVec.ofNat 32 (v / 2 ^ 32) &&& 0x30F ∧
    u.chain k (fieldOf st 3 0) = some (w, l, prio, vec) :=
  ⟨{ framed (core { demoArch with depth := 2, ivt := 0x30006000 } []) with icfg := [(0, { icfg := [(5, 0x80030101)] })] }, 0, 0, _, _, _, _, _, _, _, 5, 3, _, ⟨by decide, by decide, by decide, by decide, by decide, rfl, by decide⟩, by decide, rfl, by decide, rfl, rfl, by decide, rfl, rfl⟩

theorem wit_mcWfi : ∃ (s : State) (n : Fin 4) (k : Nat),
    s.CoreReady n k ∧
    s.winner k (s.arch k).ipl = none :=
  ⟨core demoArch [], 0, 0, ⟨by decide, by decide, by decide, by decide, by decide, rfl, by decide⟩, by decide⟩

theorem wit_mcWfi_eligible : ∃ (s : State) (n : Fin 4) (k : Nat) (l : Nat × Nat),
    s.CoreReady n k ∧
    s.winner k (s.arch k).ipl = some l :=
  ⟨{ core demoArch [] with icfg := [(0, { icfg := [(5, 0x80030101)] })] }, 0, 0, (5, 3), ⟨by decide, by decide, by decide, by decide, by decide, rfl, by decide⟩, by decide⟩

theorem wit_mcTrap : ∃ (s : State) (n : Fin 4) (k : Nat) (r : State) (u : State),
    s.CoreReady n k ∧
    r = s.retire k ((s.arch k).pc + 4) false ∧
    r.takeExc k { num := 0x0E, addr := some (s.arch k).pc } (r.arch k).pc false false = some u :=
  ⟨core demoArch [], 0, 0, _, _, ⟨by decide, by decide, by decide, by decide, by decide, rfl, by decide⟩, rfl, eq_some (d := demo []) (by decide)⟩

theorem wit_mcStow : ∃ (s : State) (t : State) (n : Fin 4) (k : Nat),
    s.CoreReady n k ∧
    s.stow k 7 = .ok t :=
  ⟨core demoArch [], _, 0, 0, ⟨by decide, by decide, by decide, by decide, by decide, rfl, by decide⟩, rfl⟩

theorem wit_mcBkpt_halts : ∃ (s : State) (n : Fin 4) (k : Nat),
    s.CoreReady n k ∧
    s.flag Reg.TP_DBGCTL (8 * (k / 2) + 4) = true ∧
    (¬ (s.pairMode (k / 2) = 1 ∧ k % 2 = 1)) :=
  ⟨core demoArch [(Reg.TP_DBGCTL, 0x10)], 0, 0, ⟨by decide, by decide, by decide, by decide, by decide, rfl, by decide⟩, by decide, by decide⟩

theorem wit_mcBkpt : ∃ (s : State) (n : Fin 4) (k : Nat) (r : State) (u : State),
    s.CoreReady n k ∧
    s.flag Reg.TP_DBGCTL (8 * (k / 2) + 4) = false ∧
    r = s.retire k ((s.arch k).pc + 4) false ∧
    r.takeExc k { num := 0x0F, addr := some (s.arch k).pc } (r.arch k).pc false false = some u :=
  ⟨core demoArch [], 0, 0, _, _, ⟨by decide, by decide, by decide, by decide, by decide, rfl, by decide⟩, by decide, rfl, eq_some (d := demo []) (by decide)⟩

theorem wit_mcMfsr : ∃ (s : State) (n : Fin 4) (k : Nat) (imm : BitVec 16) (v : Word),
    s.CoreReady n k ∧
    ((s.arch k).cap 0).may permSys = true ∧
    imm.toNat < 0x40 ∧
    s.srRead k imm.toNat = some v :=
  ⟨core demoArch [], 0, 0, 0x10, _, ⟨by decide, by decide, by decide, by decide, by decide, rfl, by decide⟩, by decide, by decide, rfl⟩

theorem wit_mcMfsr_xstk : ∃ (s : State) (n : Fin 4) (k : Nat) (d : Fin 32),
    s.CoreReady n k ∧
    ((s.arch k).cap 0).may permSys = true ∧
    (d.val ≠ 0 ∧ d.val < 16) :=
  ⟨core demoArch [], 0, 0, 15, ⟨by decide, by decide, by decide, by decide, by decide, rfl, by decide⟩, by decide, by decide⟩

theorem wit_mcMtsr : ∃ (s : State) (n : Fin 4) (k : Nat) (a : Fin 32) (imm : BitVec 16) (m : Word),
    s.CoreReady n k ∧
    ((s.arch k).cap 0).may permSys = true ∧
    srMask imm.toNat = some m ∧
    (s.arch k).get a &&& ~~~m = 0 :=
  ⟨core demoArch [], 0, 0, 0, 0x11, _, ⟨by decide, by decide, by decide, by decide, by decide, rfl, by decide⟩, by decide, rfl, by decide⟩

theorem wit_mcMtsr_xstk : ∃ (s : State) (n : Fin 4) (k : Nat) (a : Fin 32),
    s.CoreReady n k ∧
    ((s.arch k).cap 0).may permSys = true ∧
    a.val < 16 :=
  ⟨core demoArch [], 0, 0, 15, ⟨by decide, by decide, by decide, by decide, by decide, rfl, by decide⟩, by decide, by decide⟩

theorem wit_interruptEntry : ∃ (s : State) (n : Fin 4) (k : Nat) (l : Nat) (prio : Nat) (u : State) (w : State),
    s.entryLead n = some k ∧
    s.winner k (s.arch k).ipl = some (l, prio) ∧
    u = s.wake k ∧
    u.outputMism k ((u.arch k).ivt.toNat + 16 * l) = none ∧
    (u.core k).arith = none ∧
    (u.core k).due = false ∧
    u.takeInt k l prio (u.arch k).pc = some w :=
  ⟨{ core { demoArch with ivt := 0x30006000 } [] with icfg := [(0, { icfg := [(5, 0x80030101)] })] }, 0, 0, 5, 3, _, _, by decide, by decide, rfl, by decide, by decide, by decide, eq_some (d := demo []) (by decide)⟩

theorem wit_exceptionEntry : ∃ (s : State) (n : Fin 4) (k : Nat) (r : Arith) (u : State),
    s.entryLead n = some k ∧
    (s.core k).arith = some r ∧
    s.takeArith k r (s.arch k).pc = some u :=
  ⟨(core demoArch []).onCore 0 fun c => { c with arith := some ⟨9, false, 0⟩ }, 0, 0, ⟨9, false, 0⟩, _, by decide, by decide, eq_some (d := demo []) (by decide)⟩

theorem wit_exceptionEntry_due : ∃ (s : State) (n : Fin 4) (k : Nat) (u : State),
    s.entryLead n = some k ∧
    (s.core k).arith = none ∧
    (s.core k).due = true ∧
    s.takeDue k (s.arch k).pc = some u :=
  ⟨(core demoArch []).onCore 0 fun c => { c with due := true }, 0, 0, _, by decide, by decide, by decide, eq_some (d := demo []) (by decide)⟩

theorem wit_exceptionEntry_illegal : ∃ (s : State) (n : Fin 4) (k : Nat) (w : BitVec 32) (u : State),
    s.entryLead n = some k ∧
    s.CoreReady n k ∧
    molpaAssigned w.toNat = false ∧
    s.takeExc k { num := 0x01, addr := some w.toNat } (s.arch k).pc false false = some u :=
  ⟨core demoArch [], 0, 0, 0xFFFFFFFF, _, by decide, core_ready, by decide, eq_some (d := demo []) (by decide)⟩

theorem wit_storeBufferDrain : ∃ (s : State) (t : State) (n : Fin 4) (k : Nat) (e : StoreEnt) (l : List StoreEnt),
    s.lead n = some k ∧
    s.unitOn k = true ∧
    (s.core k).sb = e :: l ∧
    s.outputMism k e.addr = none ∧
    s.drainOne k = some t :=
  ⟨(core demoArch []).onCore 0 fun c => { c with sb := [{ addr := 0x30003000, n := 4, val := 7 }] }, _, 0, 0, _, _, by decide, by decide, rfl, by decide, eq_some (d := demo []) (by decide)⟩

theorem wit_holdQueueRelease : ∃ (s : State) (n : Fin 4) (k : Nat) (c : Core),
    s.lead n = some k ∧
    s.unitOn k = true ∧
    c = s.core k :=
  ⟨core demoArch [], 0, 0, _, by decide, by decide, rfl⟩

theorem wit_ckptDueRaise : ∃ (s : State) (n : Fin 4) (k : Nat) (why : Nat) (u : State),
    s.lead n = some k ∧
    s.unitOn k = true ∧
    (s.core k).run = .run ∧
    s.halted (k / 2) = false ∧
    (s.core k).dueAt = none ∧
    s.dueWhy k = some why ∧
    (u = s.onCore k fun c => { c with dueAt := some s.now, due := true }) :=
  ⟨core demoArch [(Reg.RD_CTL 0, 0)], 0, 0, _, _, by decide, by decide, by decide, by decide, by decide, rfl, rfl⟩

theorem wit_setPending : ∃ (s : State) (n : Fin 4) (k : Nat),
    s.lead n = some k ∧
    s.mayRun k = true :=
  ⟨core demoArch [], 0, 0, by decide, by decide⟩

theorem wit_cacheInvalidationDone : ∃ (s : State) (n : Fin 4) (k : Nat) (e : Nat),
    s.lead n = some k ∧
    (s.core k).invDue = some e :=
  ⟨(core demoArch []).onCore 0 fun c => { c with invDue := some 9 }, 0, 0, 9, by decide, by decide⟩

theorem wit_lcAdd : ∃ (s : State) (t : Nat) (c : Fin 52) (d : Fin 32) (a : Fin 32) (b : Fin 32),
    s.LcReady c [a, b, d] false t 1 :=
  ⟨cellAt [] [], 5, 51, 31, 0, 1, cell_ready (by decide) (by decide)⟩

theorem wit_lcSel : ∃ (s : State) (t : Nat) (c : Fin 52) (d : Fin 32) (a : Fin 32) (b : Fin 32) (x : Fin 32),
    s.LcReady c [a, b, x, d] false t 1 :=
  ⟨cellAt [] [], 5, 51, 31, 0, 1, 2, cell_ready (by decide) (by decide)⟩

theorem wit_lcClz : ∃ (s : State) (t : Nat) (c : Fin 52) (d : Fin 32) (a : Fin 32),
    s.LcReady c [a, d] false t 1 :=
  ⟨cellAt [] [], 5, 51, 31, 0, cell_ready (by decide) (by decide)⟩

theorem wit_lcMaca : ∃ (s : State) (t : Nat) (c : Fin 52) (a : Fin 32) (b : Fin 32),
    s.LcReady c [a, b] false t 1 :=
  ⟨cellAt [] [], 5, 51, 0, 1, cell_ready (by decide) (by decide)⟩

theorem wit_lcAclr : ∃ (s : State) (t : Nat) (c : Fin 52),
    s.LcReady c [] false t 1 :=
  ⟨cellAt [] [], 5, 51, cell_ready (by decide) (by decide)⟩

theorem wit_lcAld : ∃ (s : State) (t : Nat) (c : Fin 52) (a : Fin 32),
    s.LcReady c [a] false t 1 :=
  ⟨cellAt [] [], 5, 51, 31, cell_ready (by decide) (by decide)⟩

theorem wit_lcArd : ∃ (s : State) (t : Nat) (c : Fin 52) (d : Fin 32),
    s.LcReady c [d] false t 1 :=
  ⟨cellAt [] [], 5, 51, 31, cell_ready (by decide) (by decide)⟩

theorem wit_lcClarke : ∃ (s : State) (t : Nat) (c : Fin 52) (d : Fin 32) (a : Fin 32) (b : Fin 32),
    s.LcReady c [a, b, d, d + 1] false t 1 ∧
    d.val % 2 = 0 :=
  ⟨cellAt [] [], 5, 51, 30, 0, 1, cell_ready (by decide) (by decide), by decide⟩

theorem wit_lcPark : ∃ (s : State) (t : Nat) (c : Fin 52) (d : Fin 32) (a : Fin 32) (b : Fin 32),
    s.LcReady c [a, a + 1, b, d, d + 1] false t 2 ∧
    d.val % 2 = 0 ∧
    a.val % 2 = 0 :=
  ⟨cellAt [] [], 5, 51, 30, 0, 1, cell_ready (by decide) (by decide), by decide, by decide⟩

theorem wit_lcSvm : ∃ (s : State) (t : Nat) (c : Fin 52) (d : Fin 32) (a : Fin 32),
    s.LcReady c [a, a + 1, d, d + 1, d + 2, d + 3] false t 3 ∧
    d.val % 4 = 0 ∧
    a.val % 2 = 0 :=
  ⟨cellAt [] [], 5, 51, 28, 0, cell_ready (by decide) (by decide), by decide, by decide⟩

theorem wit_lcSlli : ∃ (s : State) (t : Nat) (c : Fin 52) (d : Fin 32) (a : Fin 32) (imm : BitVec 16),
    s.LcReady c [a, d] false t 1 ∧
    imm.toNat < 32 :=
  ⟨cellAt [] [], 5, 51, 31, 0, 31, cell_ready (by decide) (by decide), by decide⟩

theorem wit_lcLd : ∃ (s : State) (t : Nat) (c : Fin 52) (d : Fin 32) (a : Fin 32) (imm : BitVec 16),
    s.LcReady c [a, d] false t 1 ∧
    (s.LcFine c fun k => { (s.lcLoad k (s.lcAddr k a imm) 4).1 with regs := [(d, (s.lcLoad k (s.lcAddr k a imm) 4).2)] }) :=
  ⟨cellAt [] [], 5, 51, 4, 0, 8, cell_ready (by decide) (by decide), cell_fine (by decide) (by decide)⟩

theorem wit_lcLdD : ∃ (s : State) (t : Nat) (c : Fin 52) (d : Fin 32) (a : Fin 32) (imm : BitVec 16),
    s.LcReady c [a, d, d + 1] false t 1 ∧
    d.val % 2 = 0 ∧
    (∀ k ∈ s.lcBoth c, s.lcAddr k a imm % 8 = 0) ∧
    (s.LcFine c fun k => { regs := [(d, (s.lcLoad k (s.lcAddr k a imm) 4).2), (d + 1, (s.lcLoad k (s.lcAddr k a imm + 4) 4).2)], fault := lowFault (s.lcLoad k (s.lcAddr k a imm) 4).1.fault (s.lcLoad k (s.lcAddr k a imm + 4) 4).1.fault, corrected := (s.lcLoad k (s.lcAddr k a imm) 4).1.corrected + (s.lcLoad k (s.lcAddr k a imm + 4) 4).1.corrected }) :=
  ⟨cellAt [] [], 5, 51, 4, 0, 8, cell_ready (by decide) (by decide), by decide, fun k hk => by rw [show k = 51 from List.mem_singleton.mp hk]; decide, cell_fine (by decide) (by decide)⟩

theorem wit_lcSt : ∃ (s : State) (t : Nat) (c : Fin 52) (d : Fin 32) (a : Fin 32) (imm : BitVec 16),
    s.LcReady c [a, d] false t 1 ∧
    (∀ k ∈ s.lcBoth c, s.lcAddr k a imm % 4 = 0 ∧ s.lcAddr k a imm < 8192) ∧
    (s.LcFine c fun k => { store := [(s.lcAddr k a imm / 4, s.lcV k d)] }) :=
  ⟨cellAt [] [], 5, 51, 4, 0, 8, cell_ready (by decide) (by decide), fun k hk => by rw [show k = 51 from List.mem_singleton.mp hk]; decide, cell_fine (by decide) (by decide)⟩

theorem wit_lcStD : ∃ (s : State) (t : Nat) (c : Fin 52) (d : Fin 32) (a : Fin 32) (imm : BitVec 16),
    s.LcReady c [a, d, d + 1] false t 1 ∧
    d.val % 2 = 0 ∧
    (∀ k ∈ s.lcBoth c, s.lcAddr k a imm % 8 = 0 ∧ s.lcAddr k a imm < 8192) ∧
    (s.LcFine c fun k => { store := [(s.lcAddr k a imm / 4, s.lcV k d), (s.lcAddr k a imm / 4 + 1, s.lcV k (d + 1))] }) :=
  ⟨cellAt [] [], 5, 51, 4, 0, 8, cell_ready (by decide) (by decide), by decide, fun k hk => by rw [show k = 51 from List.mem_singleton.mp hk]; decide, cell_fine (by decide) (by decide)⟩

theorem wit_lcPrd : ∃ (s : State) (t : Nat) (c : Fin 52) (d : Fin 32) (a : Fin 32) (x : Bool),
    (s.LcReady c ((if x then [a.val] else []) ++ [d.val]) false t 1) :=
  ⟨cellAt [] [], 5, 51, 31, 0, true, cell_ready (by decide) (by decide)⟩

theorem wit_lcPrdD : ∃ (s : State) (t : Nat) (c : Fin 52) (d : Fin 32) (a : Fin 32) (x : Bool) (port : BitVec 12),
    (s.LcReady c ((if x then [a.val] else []) ++ [d.val, d.val + 1]) false t 1) ∧
    d.val % 2 = 0 ∧
    (∀ k ∈ s.lcBoth c, (s.lcPort k a x port) % 2 = 0) :=
  ⟨cellAt [] [], 5, 51, 30, 0, true, 0x400, cell_ready (by decide) (by decide), by decide, fun k hk => by rw [show k = 51 from List.mem_singleton.mp hk]; decide⟩

theorem wit_lcPwr : ∃ (s : State) (t : Nat) (c : Fin 52) (d : Fin 32) (a : Fin 32) (x : Bool) (port : BitVec 12),
    (s.LcReady c (d.val :: (if x then [a.val] else []) ++ []) false t 1) ∧
    (s.LcFine c fun k => { port := [((s.lcPort k a x port), s.lcV k d)] }) :=
  ⟨cellAt [] [], 5, 51, 31, 0, true, 0x5F8, cell_ready (by decide) (by decide), cell_fine (by decide) (by decide)⟩

theorem wit_lcPwrD : ∃ (s : State) (t : Nat) (c : Fin 52) (d : Fin 32) (a : Fin 32) (x : Bool) (port : BitVec 12),
    (s.LcReady c (d.val :: (d.val + 1) :: (if x then [a.val] else []) ++ []) false t 1) ∧
    d.val % 2 = 0 ∧
    (∀ k ∈ s.lcBoth c, (s.lcPort k a x port) % 2 = 0) ∧
    (s.LcFine c fun k => { port := [((s.lcPort k a x port), s.lcV k d), ((s.lcPort k a x port) + 1, s.lcV k (d + 1))] }) :=
  ⟨cellAt [] [], 5, 51, 30, 0, true, 0x5F8, cell_ready (by decide) (by decide), by decide, fun k hk => by rw [show k = 51 from List.mem_singleton.mp hk]; decide, cell_fine (by decide) (by decide)⟩

theorem wit_lcMsLd : ∃ (s : State) (t : Nat) (c : Fin 52) (d : Fin 32) (a : Fin 32) (b : Fin 32) (td : Fin 64),
    s.LcReady c [a, b, d] true t 1 ∧
    (s.LcFine c fun k => { ms := some ⟨0, .ld, td, s.lcV k a, s.lcV k b, d⟩ }) :=
  ⟨cellAt [] [], 5, 51, 31, 0, 1, 63, cell_ready (by decide) (by decide), cell_fine (by decide) (by decide)⟩

theorem wit_lcMsLerp : ∃ (s : State) (t : Nat) (c : Fin 52) (d : Fin 32) (a : Fin 32) (td : Fin 64),
    s.LcReady c [a, d] true t 1 ∧
    (s.LcFine c fun k => { ms := some ⟨0, .lerp, td, s.lcV k a, 0, d⟩ }) :=
  ⟨cellAt [] [], 5, 51, 31, 0, 63, cell_ready (by decide) (by decide), cell_fine (by decide) (by decide)⟩

theorem wit_lcMsBlerp : ∃ (s : State) (t : Nat) (c : Fin 52) (d : Fin 32) (a : Fin 32) (b : Fin 32) (td : Fin 64),
    s.LcReady c [a, b, d] true t 1 ∧
    (s.LcFine c fun k => { ms := some ⟨0, .blerp, td, s.lcV k a, s.lcV k b, d⟩ }) :=
  ⟨cellAt [] [], 5, 51, 31, 0, 1, 63, cell_ready (by decide) (by decide), cell_fine (by decide) (by decide)⟩

theorem wit_lcBrEq : ∃ (s : State) (t : Nat) (c : Fin 52) (a : Fin 32) (b : Fin 32) (off : BitVec 13),
    s.LcReady c [a, b] false t 1 ∧
    (s.LcFine c fun k => if (s.lcV k a) == (s.lcV k b) then { target := some ((s.cell c).pc + off.toInt) } else {}) :=
  ⟨cellAt [] [], 5, 51, 0, 1, 2042, cell_ready (by decide) (by decide), cell_fine (by decide) (fun z h => by cases h; decide)⟩

theorem wit_lcBrNe : ∃ (s : State) (t : Nat) (c : Fin 52) (a : Fin 32) (b : Fin 32) (off : BitVec 13),
    s.LcReady c [a, b] false t 1 ∧
    (s.LcFine c fun k => if (s.lcV k a) != (s.lcV k b) then { target := some ((s.cell c).pc + off.toInt) } else {}) :=
  ⟨cellAt [] [], 5, 51, 0, 31, 2042, cell_ready (by decide) (by decide), cell_fine (by decide) (fun z h => by cases h; decide)⟩

theorem wit_lcBrLt : ∃ (s : State) (t : Nat) (c : Fin 52) (a : Fin 32) (b : Fin 32) (off : BitVec 13),
    s.LcReady c [a, b] false t 1 ∧
    (s.LcFine c fun k => if decide (sv (s.lcV k a) < sv (s.lcV k b)) then { target := some ((s.cell c).pc + off.toInt) } else {}) :=
  ⟨cellAt [] [], 5, 51, 31, 0, 2042, cell_ready (by decide) (by decide), cell_fine (by decide) (fun z h => by cases h; decide)⟩

theorem wit_lcBrGe : ∃ (s : State) (t : Nat) (c : Fin 52) (a : Fin 32) (b : Fin 32) (off : BitVec 13),
    s.LcReady c [a, b] false t 1 ∧
    (s.LcFine c fun k => if decide (sv (s.lcV k b) ≤ sv (s.lcV k a)) then { target := some ((s.cell c).pc + off.toInt) } else {}) :=
  ⟨cellAt [] [], 5, 51, 0, 31, 2042, cell_ready (by decide) (by decide), cell_fine (by decide) (fun z h => by cases h; decide)⟩

theorem wit_lcBrLtu : ∃ (s : State) (t : Nat) (c : Fin 52) (a : Fin 32) (b : Fin 32) (off : BitVec 13),
    s.LcReady c [a, b] false t 1 ∧
    (s.LcFine c fun k => if decide ((s.lcV k a).toNat < (s.lcV k b).toNat) then { target := some ((s.cell c).pc + off.toInt) } else {}) :=
  ⟨cellAt [] [], 5, 51, 31, 0, 2042, cell_ready (by decide) (by decide), cell_fine (by decide) (fun z h => by cases h; decide)⟩

theorem wit_lcBrGeu : ∃ (s : State) (t : Nat) (c : Fin 52) (a : Fin 32) (b : Fin 32) (off : BitVec 13),
    s.LcReady c [a, b] false t 1 ∧
    (s.LcFine c fun k => if decide ((s.lcV k b).toNat ≤ (s.lcV k a).toNat) then { target := some ((s.cell c).pc + off.toInt) } else {}) :=
  ⟨cellAt [] [], 5, 51, 0, 31, 2042, cell_ready (by decide) (by decide), cell_fine (by decide) (fun z h => by cases h; decide)⟩

theorem wit_lcDjnz : ∃ (s : State) (t : Nat) (c : Fin 52) (a : Fin 32) (off : BitVec 13),
    s.LcReady c [a, a] false t 1 ∧
    (s.LcFine c fun k => { regs := [(a, s.lcV k a - 1)], target := if s.lcV k a - 1 = 0 then none else some ((s.cell c).pc + off.toInt) }) :=
  ⟨cellAt [] [], 5, 51, 0, 2042, cell_ready (by decide) (by decide), cell_fine (by decide) (fun z h => by cases h; decide)⟩

theorem wit_lcBrAlways : ∃ (s : State) (t : Nat) (c : Fin 52) (off : BitVec 13),
    s.LcReady c [] false t 1 ∧
    (s.LcFine c fun _ => { target := some ((s.cell c).pc + off.toInt) }) :=
  ⟨cellAt [] [], 5, 51, 2042, cell_ready (by decide) (by decide), cell_fine (by decide) (fun z h => by cases h; decide)⟩

theorem wit_lcCall : ∃ (s : State) (t : Nat) (c : Fin 52) (off : BitVec 13),
    s.LcReady c [] false t 1 ∧
    (s.cell c).stack.length < 4 ∧
    (s.LcFine c fun _ => { target := some ((s.cell c).pc + off.toInt), stack := some (((s.cell c).pc + 1) :: (s.cell c).stack) }) :=
  ⟨cellAt [] [], 5, 51, 2042, cell_ready (by decide) (by decide), by decide, cell_fine (by decide) (fun z h => by cases h; decide)⟩

theorem wit_lcRet : ∃ (s : State) (t : Nat) (c : Fin 52) (r : Nat) (l : List Nat),
    s.LcReady c [] false t 1 ∧
    (s.cell c).stack = r :: l ∧
    (s.LcFine c fun _ => { target := some (r : Int), stack := some l }) :=
  ⟨cellAt [] [7], 5, 51, 7, [], cell_ready7, by decide, cell_fine7 (by decide) (fun z h => by cases h; decide)⟩

/-! The witnesses for images: they assume a signature check that accepts (ML-DSA is an uninterpreted Config constant). -/

/-- Where every signature verifies, an image that meets the other conditions of R406 is accepted. -/
theorem imgVerify_ok {s t u : State} {addr kind a lo hi h v : Nat} (hv : ∀ key d sig, Config.mldsaVerify key d sig = true)
    (ha : s.aliasOf addr = a) (hr : imgRegion a = some (lo, hi)) (h1 : decide (hi < a + 256) = false)
    (hh : s.imgRead a 256 = (t, some h))
    (h2 : (hdr h 0 4 != 0x464C574B || hdr h 4 2 != kind || hdr h 16 4 % 16 != 0 || decide (hi < a + 256 + hdr h 16 4 + 2420) ||
      (decide (kind = 6 ∨ kind = 7) && hdr h 16 4 != 16)) = false)
    (h3 : decide (4 ≤ hdr h 6 1) = false) (h4 : t.revoked (hdr h 6 1) = false)
    (h5 : sha3 (t.slotKey (hdr h 6 1)) 1312 = t.slotDigest (hdr h 6 1))
    (h6 : (hdr h 28 4 != 0 && hdr h 28 4 != sha3 t.identity 1312 % 2 ^ 32) = false) (h7 : decide (hdr h 12 4 < t.svnctr) = false)
    (h8 : t.imgRead a (256 + hdr h 16 4 + 2420) = (u, some v))
    (h9 : ((hdrSegs h).any fun g => !u.segOk kind a (hdr h 16 4) (hdr h 20 4) g) = false) :
    s.imgVerify addr kind = (u, .ok ⟨a, kind, hdr h 6 1, hdr h 8 4, hdr h 12 4, hdr h 16 4, hdr h 20 4, hdr h 24 4, hdr h 28 4 != 0,
      sha3 (v % 256 ^ (256 + hdr h 16 4)) (256 + hdr h 16 4), hdrSegs h⟩) := by
  simp only [decide_eq_false_iff_not] at h1 h3 h7
  unfold State.imgVerify
  simp only [ha, hr, h1, hh, h2, h3, h4, h5, h6, h7, h8, h9, hv, if_false, decide_false, Bool.false_or, Bool.false_eq_true, bne_self_eq_false, Bool.not_true]

theorem fold_four (g : Nat → Nat → Nat) : (List.range 4).foldl g 0 = g (g (g (g 0 0) 1) 2) 3 := rfl
theorem four_lt (x0 x1 x2 x3 : Nat) : 0 + x0 % 2 ^ 64 * 2 ^ (64 * 0) + x1 % 2 ^ 64 * 2 ^ (64 * 1) + x2 % 2 ^ 64 * 2 ^ (64 * 2) + x3 % 2 ^ 64 * 2 ^ (64 * 3) < 256 ^ 32 := by
  have h := fun i => Nat.mod_lt i (show 0 < 2 ^ 64 by decide)
  have h0 := h x0; have h1 := h x1; have h2 := h x2; have h3 := h x3
  generalize x0 % 2 ^ 64 = x0 at *
  generalize x1 % 2 ^ 64 = x1 at *
  generalize x2 % 2 ^ 64 = x2 at *
  generalize x3 % 2 ^ 64 = x3 at *
  norm_num at *
  omega
theorem quad_lt (f : Nat → Nat) : (List.range 4).foldl (fun w i => w + f i % 2 ^ 64 * 2 ^ (64 * i)) 0 < 256 ^ 32 := by
  rw [fold_four]; exact four_lt _ _ _ _
theorem sha3_lt (v n : Nat) : sha3 v n < 256 ^ 32 := by
  unfold sha3
  extract_lets len m a
  clear_value a
  exact quad_lt fun i => a.getD i 0

/-- The digest of the all-zero key. -/
@[irreducible] def zeroDigest : Nat := sha3 0 1312

/-- Its bytes, in slot 0 of the OTP. -/
def zeroSlot : List (Nat × Byte) :=
  (List.range 32).map fun i => (0x08008000 + i, BitVec.ofNat 8 (zeroDigest / 256 ^ i))

/-- The header bytes that R405 and R406 look at, from address a of a bank: KIND, LENGTH 16, KEY_SLOT 0, an entry, BIND, and no
load-map entry in use; and the first payload byte. -/
def headerAt (a kind entry0 bind : Nat) : List (Nat × Byte) :=
  [(a, 0x4B), (a + 1, 0x57), (a + 2, 0x4C), (a + 3, 0x46), (a + 4, BitVec.ofNat 8 kind), (a + 5, 0), (a + 6, 0), (a + 16, 16),
    (a + 17, 0), (a + 18, 0), (a + 19, 0), (a + 20, BitVec.ofNat 8 entry0), (a + 21, 0), (a + 22, 0), (a + 23, 0),
    (a + 28, BitVec.ofNat 8 bind), (a + 29, BitVec.ofNat 8 (bind / 256)), (a + 30, BitVec.ofNat 8 (bind / 65536)),
    (a + 31, BitVec.ofNat 8 (bind / 16777216))] ++
  (List.range 32).map (fun i => (a + 68 + 16 * (i / 4) + i % 4, 0)) ++ [(a + 256, 1)]

/-- An image of a kind at the start of bank A, and slot 0 of the OTP with the digest of its key. -/
def withImage (kind entry0 bind : Nat) (l : List (Nat × Word)) : State :=
  { demo l with mem := { (demo l).mem with bytes := headerAt 0x04000000 kind entry0 bind ++ (zeroSlot ++ []) } }

/-- The page buffers of the banks replaced. -/
def withBanks (s : State) (bs : SMap FlashBank) : State := { s with flash := { s.flash with banks := bs } }

theorem digits (d n : Nat) : ∀ s : State, ∀ k, (∀ i < n, s.byte (k + i) = BitVec.ofNat 8 (d / 256 ^ i)) → s.bytesAt k n = d % 256 ^ n := by
  induction n generalizing d with
  | zero => intro s k _; simp [State.bytesAt, Nat.mod_one]
  | succ n ih =>
    intro s k h
    rw [State.bytesAt, show s.byte k = _ from h 0 (by omega), ih (d / 256) s (k + 1)]
    · rw [Nat.pow_succ, Nat.mul_comm (256 ^ n), Nat.mod_mul]
      simp
    · intro i hi
      rw [show k + 1 + i = k + (i + 1) by omega, h (i + 1) (by omega), Nat.pow_succ, Nat.mul_comm (256 ^ i), Nat.div_div_eq_div_mul]

theorem mapGet_skip {α : Type} (d : α) (z : SMap α) (k : Nat) : ∀ l : SMap α, (∀ p ∈ l, p.1 ≠ k) → mapGet d (l ++ z) k = mapGet d z k
  | [], _ => rfl
  | (k', v) :: l, h => by
    rw [List.cons_append, mapGet, if_neg (h (k', v) List.mem_cons_self), mapGet_skip d z k l fun p hp => h p (List.mem_cons_of_mem _ hp)]

theorem mapGet_slot {α : Type} (d : α) (f : Nat → α) (b n : Nat) : ∀ l : List Nat, ∀ k,
    mapGet d (l.map fun i => (b + i, f i)) k = if b ≤ k ∧ k - b ∈ l then f (k - b) else d
  | [], k => by simp [mapGet]
  | i :: l, k => by
    rw [List.map_cons, mapGet, mapGet_slot d f b n l k]
    by_cases h : b + i = k
    · subst h; simp
    · rw [if_neg h]
      congr 1
      simp only [List.mem_cons, eq_iff_iff]
      constructor
      · rintro ⟨h1, h2⟩; exact ⟨h1, .inr h2⟩
      · rintro ⟨h1, h2⟩; exact ⟨h1, h2.resolve_left (by omega)⟩

theorem mapGet_fore {α : Type} (d : α) (r : SMap α) (k : Nat) (hr : ∀ p ∈ r, p.1 ≠ k) : ∀ z : SMap α, mapGet d (z ++ r) k = mapGet d z k
  | [] => by
    induction r with
    | nil => rfl
    | cons p r ih =>
      show (if p.1 = k then p.2 else mapGet d r k) = d
      rw [if_neg (hr p List.mem_cons_self)]
      exact ih fun q hq => hr q (List.mem_cons_of_mem _ hq)
  | (k', v) :: z => by
    rw [List.cons_append, mapGet, mapGet, mapGet_fore d r k hr z]

/-- A state whose OTP holds that slot and nothing else below it has the key's digest in the slot. -/
theorem zeroSlot_digest {t : State} {l : List (Nat × Byte)} {r : List (Nat × Byte)} (hb : t.mem.bytes = l ++ (zeroSlot ++ r))
    (hl : ((l ++ r).all fun p => decide (p.1 < 0x08000000 ∨ 0x08009000 ≤ p.1)) = true) :
    sha3 (t.slotKey 0) 1312 = t.slotDigest 0 := by
  have hk : ∀ k, 0x08000000 ≤ k → k < 0x08009000 →
      t.byte k = if 0x08008000 ≤ k ∧ k - 0x08008000 ∈ List.range 32 then BitVec.ofNat 8 (zeroDigest / 256 ^ (k - 0x08008000)) else memDefault k := by
    intro k h1 h2
    have hn : ∀ p ∈ l ++ r, p.1 ≠ k := fun p hp => by
      have := List.all_eq_true.mp hl p hp
      simp only [decide_eq_true_eq] at this
      omega
    rw [State.byte, hb, mapGet_skip, mapGet_fore, zeroSlot, mapGet_slot _ _ _ 0]
    · exact fun p hp => hn p (List.mem_append_right _ hp)
    · exact fun p hp => hn p (List.mem_append_left _ hp)
  have h : t.slotKey 0 = 0 := by
    rw [State.slotKey, digits 0 1312 t, Nat.zero_mod]
    intro i hi
    rw [hk _ (by omega) (by omega), if_neg (by omega), memDefault, if_neg (by omega), Nat.zero_div]
    rfl
  rw [h, State.slotDigest, digits zeroDigest 32 t (0x08008000 + 0 * 0x20), Nat.mod_eq_of_lt, zeroDigest]
  · rw [zeroDigest]; exact sha3_lt _ _
  · intro i hi
    rw [hk _ (by omega) (by omega), if_pos ⟨by omega, by simp; omega⟩]
    rw [show 0x08008000 + 0 * 0x20 + i - 0x08008000 = i by omega]


theorem flashDecode_clean {s : State} {b off a : Nat} (hf : s.mem.flips = []) :
    ∃ bs r, s.flashDecode b off a = (withBanks s bs, r) ∧ (r != .uncorr) = true := by
  have h0 : ∀ bk, (s.setBank b bk).flashErrors b off = 0 := by
    intro bk
    show ((s.mem.flips.filter _).foldl _ 0) = 0
    rw [hf]; rfl
  unfold State.flashDecode
  simp only [h0]
  split
  · exact ⟨_, _, rfl, rfl⟩
  · exact ⟨_, _, rfl, rfl⟩

theorem imgRead_bankA {s : State} (n : Nat) (hd : s.domOn 0x2D = true) (hb : s.fld (Reg.FC_STAT 0) 31 30 = 0) (hf : s.mem.flips = []) :
    ∃ bs, s.imgRead 0x04000000 n = (withBanks s bs, some (s.bytesAt 0x04000000 n)) := by
  have key : ∀ l : List Nat, ∀ b0, ∃ bs, l.foldl (fun (p : State × Bool) i =>
      let o := 0 / 512 * 512 + 512 * i
      if p.1.flashBusy 0 o then (p.1.setFlag (Reg.FC_STAT 0) 5 true, false)
      else
        let q := p.1.flashDecode 0 o (flashAddr 0 o)
        (q.1, p.2 && q.2 != .uncorr)) (withBanks s b0, true) = (withBanks s bs, true) := by
    intro l
    induction l with
    | nil => intro b0; exact ⟨b0, rfl⟩
    | cons i l ih =>
      intro b0
      have h1 : (withBanks s b0).flashBusy 0 (0 / 512 * 512 + 512 * i) = false := by
        unfold State.flashBusy
        rw [show (withBanks s b0).fld (Reg.FC_STAT 0) 31 30 = 0 from hb]
        rfl
      obtain ⟨bs, r, h2, h3⟩ := flashDecode_clean (s := withBanks s b0) (b := 0) (off := 0 / 512 * 512 + 512 * i)
        (a := flashAddr 0 (0 / 512 * 512 + 512 * i)) hf
      rw [List.foldl_cons]
      simp only [h1, h2, h3, Bool.false_eq_true, if_false, Bool.true_and]
      exact ih bs
  obtain ⟨bs, h⟩ := key (List.range ((0 % 512 + n + 511) / 512)) s.flash.banks
  refine ⟨bs, ?_⟩
  have h' : regionOf 0x04000000 = .bankA := by decide
  have hp : s.flashPlace 0x04000000 = (0, 0) := by
    unfold State.flashPlace
    rw [if_neg (by decide)]
  unfold State.imgRead
  simp only [h', hp, show domBank 0 = 0x2D from rfl, hd, Bool.not_true, Bool.false_eq_true, if_false]
  have e : withBanks s s.flash.banks = s := rfl
  rw [e] at h
  simp only at h
  rw [h]
  simp only [if_true]
  rw [State.bytesAt_congr (s := s) (t := withBanks s bs) fun _ _ _ => rfl]

theorem bytesAt_lt (s : State) (n : Nat) : ∀ a, s.bytesAt a n < 256 ^ n := by
  induction n with
  | zero => intro a; simp [State.bytesAt]
  | succ n ih =>
    intro a
    have h1 := ih (a + 1)
    have h2 := (s.byte a).isLt
    rw [State.bytesAt, Nat.pow_succ]
    omega

theorem bytesAt_take (s : State) (m : Nat) : ∀ n a, m ≤ n → s.bytesAt a n % 256 ^ m = s.bytesAt a m := by
  induction m with
  | zero => intro n a _; simp [State.bytesAt, Nat.mod_one]
  | succ m ih =>
    intro n a h
    obtain ⟨n, rfl⟩ := Nat.exists_eq_succ_of_ne_zero (show n ≠ 0 by omega)
    have h2 := (s.byte a).isLt
    rw [State.bytesAt, State.bytesAt, ← ih n (a + 1) (by omega), Nat.pow_succ, Nat.mul_comm (256 ^ m), Nat.mod_mul,
      show ((s.byte a).toNat + 256 * s.bytesAt (a + 1) n) / 256 = s.bytesAt (a + 1) n by omega,
      show ((s.byte a).toNat + 256 * s.bytesAt (a + 1) n) % 256 = (s.byte a).toNat by omega]

theorem bytesAt_drop (s : State) (lo : Nat) : ∀ n a, lo ≤ n → s.bytesAt a n / 256 ^ lo = s.bytesAt (a + lo) (n - lo) := by
  induction lo with
  | zero => intro n a _; simp
  | succ lo ih =>
    intro n a h
    obtain ⟨n, rfl⟩ := Nat.exists_eq_succ_of_ne_zero (show n ≠ 0 by omega)
    have h2 := (s.byte a).isLt
    rw [State.bytesAt, Nat.pow_succ, Nat.mul_comm (256 ^ lo), ← Nat.div_div_eq_div_mul,
      show ((s.byte a).toNat + 256 * s.bytesAt (a + 1) n) / 256 = s.bytesAt (a + 1) n by omega, ih n (a + 1) (by omega),
      show a + 1 + lo = a + (lo + 1) by omega, show n - lo = n + 1 - (lo + 1) by omega]

theorem hdr_bytesAt (s : State) (a n lo m : Nat) (h : lo + m ≤ n) : hdr (s.bytesAt a n) lo m = s.bytesAt (a + lo) m := by
  rw [hdr, bytesAt_drop s lo n a (by omega), bytesAt_take s m _ _ (by omega)]

/-- Where every signature verifies, the image of `withImage` is accepted. -/
theorem verify_bankA {s : State} {kind e b addr : Nat} {r : List (Nat × Byte)} (hv : ∀ key d sig, Config.mldsaVerify key d sig = true)
    (ha : s.aliasOf addr = 0x04000000)
    (hd : s.domOn 0x2D = true) (hb : s.fld (Reg.FC_STAT 0) 31 30 = 0) (hfl : s.mem.flips = [])
    (hm : s.mem.bytes = headerAt 0x04000000 kind e b ++ (zeroSlot ++ r))
    (hall : ((headerAt 0x04000000 kind e b ++ r).all fun p => decide (p.1 < 0x08000000 ∨ 0x08009000 ≤ p.1)) = true)
    (hf : s.bytesAt (0x04000000 + 0) 4 = 0x464C574B ∧ s.bytesAt (0x04000000 + 4) 2 = kind ∧ s.bytesAt (0x04000000 + 6) 1 = 0 ∧
      s.bytesAt (0x04000000 + 16) 4 = 16 ∧ s.bytesAt (0x04000000 + 20) 4 = e ∧ s.bytesAt (0x04000000 + 28) 4 = b ∧
      ((List.range 8).all fun i => s.bytesAt (0x04000000 + (68 + 16 * i)) 4 == 0) = true ∧ s.byte 0x08008080 = 0 ∧
      s.bytesAt 0x08008088 8 = 0) (hbd : (b != 0 && b != sha3 s.identity 1312 % 2 ^ 32) = false) :
    ∃ bs i, s.imgVerify addr kind = (withBanks s bs, .ok i) ∧ i.addr = 0x04000000 ∧ i.slot = 0 ∧ i.entry0 = e ∧
      i.bound = (b != 0) ∧ i.segs = [] := by
  obtain ⟨b1, h1⟩ := imgRead_bankA 256 hd hb hfl
  obtain ⟨b2, h2⟩ := imgRead_bankA (s := withBanks s b1) 2692 hd hb hfl
  obtain ⟨f0, f4, f6, f16, f20, f28, fs, fr, fv⟩ := hf
  have hr : ∀ lo m, lo + m ≤ 256 → hdr (s.bytesAt 0x04000000 256) lo m = s.bytesAt (0x04000000 + lo) m := fun lo m h => hdr_bytesAt _ _ _ _ _ h
  have hseg : ∀ i ∈ List.range 8, hdr (s.bytesAt 0x04000000 256) (68 + 16 * i) 4 = 0 := by
    intro i hi
    rw [hr _ _ (by have := List.mem_range.mp hi; omega)]
    simpa using List.all_eq_true.mp fs i hi
  have hsegs : hdrSegs (s.bytesAt 0x04000000 256) = [] := by
    unfold hdrSegs
    rw [List.filter_eq_nil_iff]
    intro g hg
    obtain ⟨i, hi, rfl⟩ := List.mem_map.mp hg
    rw [hseg i hi]
    simp
  have hsv : (withBanks s b1).svnctr = 0 := by
    unfold State.svnctr
    rw [State.bytesAt_congr (s := s) (t := withBanks s b1) fun _ _ _ => rfl, fv]
    decide
  have hdig := zeroSlot_digest (t := withBanks s b1) hm hall
  refine ⟨b2, _, imgVerify_ok (s := s) (t := withBanks s b1) (u := withBanks s b2) (addr := addr) (kind := kind) (lo := 0x04000000)
    (hi := 0x04800000) (h := s.bytesAt 0x04000000 256) (v := s.bytesAt 0x04000000 2692) hv ha rfl (by decide) h1 ?_ ?_ ?_ ?_ ?_ ?_ ?_ ?_, rfl, ?_, ?_, ?_, ?_⟩
  · rw [hr 0 4 (by omega), hr 4 2 (by omega), hr 16 4 (by omega), f0, f4, f16]
    simp
  · rw [hr 6 1 (by omega), f6]; rfl
  · rw [hr 6 1 (by omega), f6]
    show ((s.byte 0x08008080).toNat / 2 ^ 0 % 2 == 1) = false
    rw [fr]; rfl
  · rw [hr 6 1 (by omega), f6]; exact hdig
  · rw [hr 28 4 (by omega), f28, State.identity, State.seed, State.bytesAt_congr (s := s) (t := withBanks s b1) fun _ _ _ => rfl]
    exact hbd
  · rw [hsv]; simp
  · rw [hr 16 4 (by omega), f16]; rw [State.bytesAt_congr (s := s) (t := withBanks s b1) fun _ _ _ => rfl] at h2; exact h2
  · rw [hsegs]; rfl
  · exact (hr 6 1 (by omega)).trans f6
  · exact (hr 20 4 (by omega)).trans f20
  · exact congrArg (· != 0) ((hr 28 4 (by omega)).trans f28)
  · exact hsegs

theorem payload_banks {s : State} {bs : SMap FlashBank} {i : Img} (k n : Nat) (h : i.addr = 0x04000000) :
    (withBanks s bs).payload i k n = s.bytesAt (0x04000000 + 256 + k) n := by
  rw [State.payload, h, State.bytesAt_congr (s := s) (t := withBanks s bs) fun _ _ _ => rfl]

theorem wit_loadmap (hv : ∀ key d sig, Config.mldsaVerify key d sig = true) : ∃ (s t u : State) (i : Img), s.phase ≠ 0 ∧ s.flag Reg.MG_SVCSTAT 31 = false ∧ t = s.svcStarted 9 ∧
    t.imgVerify t.svcArg 4 = (u, .ok i) := by
  obtain ⟨bs, i, h, -⟩ := verify_bankA (s := (withImage 4 0 0 [(Reg.MG_SVCARG, 0x04000000)]).svcStarted 9) (kind := 4) (e := 0) (b := 0) (addr := 0x04000000) hv (by decide) (by decide) (by decide) rfl rfl (by decide) (by decide) rfl
  exact ⟨_, _, _, i, by decide, by decide, rfl, h⟩

theorem wit_loadmcode (hv : ∀ key d sig, Config.mldsaVerify key d sig = true) : ∃ (s t u : State) (i : Img), s.phase ≠ 0 ∧ s.flag Reg.MG_SVCSTAT 31 = false ∧ t = s.svcStarted 10 ∧
    t.imgVerify t.svcArg 5 = (u, .ok i) := by
  obtain ⟨bs, i, h, -⟩ := verify_bankA (s := (withImage 5 0 0 [(Reg.MG_SVCARG, 0x04000000)]).svcStarted 10) (kind := 5) (e := 0) (b := 0) (addr := 0x04000000) hv (by decide) (by decide) (by decide) rfl rfl (by decide) (by decide) rfl
  exact ⟨_, _, _, i, by decide, by decide, rfl, h⟩

theorem wit_loadcell (hv : ∀ key d sig, Config.mldsaVerify key d sig = true) : ∃ (s t u : State) (i : Img), s.phase ≠ 0 ∧ s.flag Reg.MG_SVCSTAT 31 = false ∧ t = s.svcStarted 8 ∧
    t.imgVerify t.svcArg 3 = (u, .ok i) ∧ i.entry0 < 52 ∧ u.domOn (domCell i.entry0) = true ∧ u.flag (Reg.LC_CTRL i.entry0) 0 = false ∧
    u.flag (Reg.LC_CTRL (i.entry0 / 2 * 2)) 0 = false := by
  obtain ⟨bs, i, h, -, -, he, -⟩ := verify_bankA (s := (withImage 3 51 0 [(Reg.MG_SVCARG, 0x04000000)]).svcStarted 8) (kind := 3) (e := 51) (b := 0) (addr := 0x04000000) hv (by decide) (by decide) (by decide) rfl rfl (by decide) (by decide) rfl
  refine ⟨_, _, _, i, by decide, by decide, rfl, h, ?_⟩
  rw [he]
  exact ⟨by decide, (by decide : ((withImage 3 51 0 [(Reg.MG_SVCARG, 0x04000000)]).svcStarted 8).domOn (domCell 51) = true),
    (by decide : ((withImage 3 51 0 [(Reg.MG_SVCARG, 0x04000000)]).svcStarted 8).flag (Reg.LC_CTRL 51) 0 = false),
    (by decide : ((withImage 3 51 0 [(Reg.MG_SVCARG, 0x04000000)]).svcStarted 8).flag (Reg.LC_CTRL (51 / 2 * 2)) 0 = false)⟩

theorem wit_bankswap (hv : ∀ key d sig, Config.mldsaVerify key d sig = true) : ∃ (s t u : State) (i : Img), s.phase ≠ 0 ∧ s.flag Reg.MG_SVCSTAT 31 = false ∧ t = s.svcStarted 7 ∧
    t.imgVerify (t.appAddr (t.svcArg % 2)) 2 = (u, .ok i) := by
  obtain ⟨bs, i, h, -⟩ := verify_bankA (s := (withImage 2 0 0 []).svcStarted 7) (kind := 2) (e := 0) (b := 0) (addr := ((withImage 2 0 0 []).svcStarted 7).appAddr 0) hv (by decide) (by decide) (by decide) rfl rfl (by decide) (by decide) rfl
  exact ⟨_, _, _, i, by decide, by decide, rfl, h⟩

theorem wit_liveupd (hv : ∀ key d sig, Config.mldsaVerify key d sig = true) : ∃ (s t u : State) (i : Img) (pairs : List Nat), s.phase ≠ 0 ∧ s.flag Reg.MG_SVCSTAT 31 = false ∧ t = s.svcStarted 6 ∧
    t.imgVerify (t.appAddr (t.svcArg % 2)) 2 = (u, .ok i) ∧ (pairs = [0, 1].filter fun p => t.svcArg / 2 ^ (8 + p) % 2 == 1) ∧ pairs ≠ [] := by
  obtain ⟨bs, i, h, -⟩ := verify_bankA (s := (withImage 2 0 0 [(Reg.MG_SVCARG, 0x100)]).svcStarted 6) (kind := 2) (e := 0) (b := 0) (addr := ((withImage 2 0 0 [(Reg.MG_SVCARG, 0x100)]).svcStarted 6).appAddr 0) hv (by decide) (by decide) (by decide) rfl rfl (by decide) (by decide) rfl
  exact ⟨_, _, _, i, _, by decide, by decide, rfl, h, rfl, by decide⟩

theorem wit_revoke (hv : ∀ key d sig, Config.mldsaVerify key d sig = true) : ∃ (s u : State) (i : Img) (k : Nat), s.phase ≠ 0 ∧ s.flag Reg.MG_SVCSTAT 31 = false ∧
    (s.svcStarted 4).imgVerify (s.svcStarted 4).svcArg 7 = (u, .ok i) ∧ k = u.payload i 0 1 ∧ k < 4 ∧ k ≠ i.slot ∧
    ∃ j < 4, j ≠ k ∧ u.revoked j = false := by
  obtain ⟨bs, i, h, ha, hs, -⟩ := verify_bankA (s := (withImage 7 0 0 [(Reg.MG_SVCARG, 0x04000000)]).svcStarted 4) (kind := 7) (e := 0) (b := 0) (addr := 0x04000000) hv (by decide) (by decide) (by decide) rfl rfl (by decide) (by decide) rfl
  refine ⟨_, _, i, 1, by decide, by decide, h, ?_, by decide, by omega, 0, by decide, by decide,
    (by decide : ((withImage 7 0 0 [(Reg.MG_SVCARG, 0x04000000)]).svcStarted 4).revoked 0 = false)⟩
  rw [payload_banks 0 1 ha]
  decide

/-- The digest of this device's identity key, held apart so that nothing evaluates it, and the value of BIND that names the device. -/
opaque hereDigest : { d : Nat // d = sha3 (Config.mldsaPublic 0) 1312 } := ⟨_, rfl⟩
def bindHere : Nat := hereDigest.1 % 2 ^ 32

theorem bindHere_eq : bindHere = hereDigest.1 % 2 ^ 32 := by rw [bindHere]

/-- The state of a BOUND permit for TEST, in bank A. -/
def permitState : State := withImage 6 0 bindHere [(Reg.MG_SVCARG, 3), (Reg.MG_SVCBUF 0, 0x04000000)]

theorem wit_phase_test (hv : ∀ key d sig, Config.mldsaVerify key d sig = true) (hb : bindHere ≠ 0) : ∃ (s u w : State) (i : Img), s.phase ≠ 0 ∧ s.flag Reg.MG_SVCSTAT 31 = false ∧
    (s.svcStarted 5).phase = 2 ∧ (s.svcStarted 5).svcArg % 8 = 3 ∧
    (s.svcStarted 5).imgVerify ((s.svcStarted 5).reg (Reg.MG_SVCBUF 0)).toNat 6 = (u, .ok i) ∧ i.bound = true ∧ u.now ≤ u.payload i 0 8 ∧
    w = u.setPhase 3 := by
  have hl : bindHere < 2 ^ 32 := by rw [bindHere_eq]; exact Nat.mod_lt _ (by decide)
  have f28 : (permitState.svcStarted 5).bytesAt (0x04000000 + 28) 4 = bindHere := by
    show (BitVec.ofNat 8 bindHere).toNat + 256 * ((BitVec.ofNat 8 (bindHere / 256)).toNat + 256 * ((BitVec.ofNat 8 (bindHere / 65536)).toNat +
      256 * ((BitVec.ofNat 8 (bindHere / 16777216)).toNat + 256 * 0))) = bindHere
    simp only [BitVec.toNat_ofNat]
    omega
  have hseed : (permitState.svcStarted 5).seed = 0 := by decide
  obtain ⟨bs, i, h, ha, -, -, hbd, -⟩ := verify_bankA (s := permitState.svcStarted 5) (kind := 6) (e := 0) (b := bindHere) (addr := 0x04000000)
    hv (by decide) (by decide) (by decide) rfl rfl (by decide) ⟨by decide, by decide, by decide, by decide, by decide, f28, by decide, by decide, by decide⟩
    (by rw [State.identity, hseed, ← hereDigest.2, ← bindHere_eq, bne_self_eq_false, Bool.and_false])
  refine ⟨_, _, _, i, by decide, by decide, by decide, by decide, h, ?_, ?_, rfl⟩
  · rw [hbd]; simpa using hb
  · rw [payload_banks 0 8 ha]
    exact (by decide : (permitState.svcStarted 5).now ≤ (permitState.svcStarted 5).bytesAt (0x04000000 + 256 + 0) 8)


/-- The inputs of a boot: no pins, the crystal, and every bank's voltage sensed as 0. -/
def bootIn : BootIn := ⟨0, true, 0, 0, 0⟩

theorem wit_pornRelease_recovery : ∃ (s u : State) (x : BootIn), s.phase = 0 ∧ s.power.off = false ∧
    State.mgfwLoad (State.bootB4 (State.advanceTo (s.bootStart x) ((s.bootStart x).now + x.edges))) = (u, false) :=
  ⟨State.reset, _, bootIn, by decide, by decide, twin (by decide)⟩

/-- The state of PORn released with firmware in bank A and the SVN mirror of the ledger in step with the OTP, at the end of B4. -/
def coldImage : State :=
  { State.reset with mem := { State.reset.mem with bytes := headerAt 0x04000000 1 0 0 ++ (zeroSlot ++ [(0x1008001F, 0x5A)]) } }

theorem mgfwLoad_good {t u : State} {i : Img} (h1 : t.flag (Reg.FC_STAT 0) 8 = false) (h : t.imgVerify 0x04000000 1 = (u, .ok i)) :
    t.mgfwLoad = ({ u.loadSegs i with mg := { u.mg with mgfw := i.digest, bare := false } }, true) := by
  have h2 : t.mgfwTry 0 = ({ u.loadSegs i with mg := { u.mg with mgfw := i.digest, bare := false } }, true) := by
    unfold State.mgfwTry
    rw [show mgfwAddr 0 = 0x04000000 from rfl, h]
    rfl
  unfold State.mgfwLoad
  simp only [h1, show bit false = 0 from rfl, h2, if_true]

theorem wit_pornRelease (hv : ∀ key d sig, Config.mldsaVerify key d sig = true) : ∃ (s u : State) (x : BootIn),
    s.phase = 0 ∧ s.power.off = false ∧
    State.mgfwLoad (State.bootB4 (State.advanceTo (s.bootStart x) ((s.bootStart x).now + x.edges))) = (u, true) := by
  obtain ⟨bs, i, h, -, -, -, -, -⟩ := verify_bankA
    (s := State.bootB4 (State.advanceTo (coldImage.bootStart bootIn) ((coldImage.bootStart bootIn).now + bootIn.edges)))
    (kind := 1) (e := 0) (b := 0) (addr := 0x04000000) hv (by decide) (by decide) (by decide) rfl rfl (by decide) (by decide) rfl
  exact ⟨coldImage, _, bootIn, by decide, by decide, mgfwLoad_good (by decide) h⟩

end Sys2Proof.Tests
end

/-! The completions of the loop cells' control commands, of the DMA commands, and of the reset, clock, permit and arbiter
commands (O33, O53, O55): each clause is the completion law of its command. -/

namespace Sys2Proof.Machine

/-- Settles O33: clause by clause the completion law of the cell's command; CELL_WINDOW_WRITE has one law a memory (data and
program), and CELL_ROLE_SET one for the role FAILED, which enters the cell in the repair map, and one for every other role. -/
theorem cellControlCommandsComplete : Obligations.CellControlCommandsComplete := by
  unfold Obligations.CellControlCommandsComplete
  refine ⟨?enable, ?disable, ?copyDone, ?restartHandler, ?handlerStart, ?handlerEnd, ?budgetFault, ?compareDone, ?windowData,
    ?windowProgram, ?restart, ?role, ?roleFailed⟩
  case enable => exact fun _ n v _ hOn hFollows hDisabled hw hPasses => cellEnable_runs n v hOn hFollows hDisabled hw hPasses
  case disable => exact fun _ n v _ hOn hFollows hEnabled hw => cellDisable_runs n v hOn hFollows hEnabled hw
  case copyDone => exact fun _ n _ hOn hCopy => cellCopyDone_runs n hOn hCopy
  case restartHandler => exact fun _ n _ hOn hStart => restartHandlerStart_runs n hOn hStart
  case handlerStart => exact fun _ n _ _ hOn hIdle hQueue => handlerStart_runs n hOn hIdle hQueue
  case handlerEnd => exact fun _ n _ hOn hEnding hAgree => handlerEnd_runs n hOn hEnding hAgree
  case budgetFault => exact fun _ n _ hOn hHandler hLate => handlerBudgetFault_runs n hOn hHandler hLate
  case compareDone => exact fun _ n _ _ hOn hCompare hp => recoveryMemoryCompareDone_runs n hOn hCompare hp
  case windowData => exact fun _ n i v hOn => cellWindowWrite_data_runs n i v hOn
  case windowProgram => exact fun _ n i v hOn hDisabled hFollows => cellWindowWrite_prog_runs n i v hOn hDisabled hFollows
  case restart => exact fun _ n hOn hFollows hState hSound => cellRestartCommand_runs n hOn hFollows hState hSound
  case role => exact fun _ n r hRole => cellRoleSet_runs n r hRole
  case roleFailed => exact fun _ n => cellRoleSet_failed_runs n

/-- Settles O53: clause by clause the completion law of the DMA command; a fetched envelope passes its checks or is refused, a
burst leaves more to move or is the posted envelope's last, and a timeout meets an envelope or none. -/
theorem dmaCommandsComplete : Obligations.DmaCommandsComplete := by
  unfold Obligations.DmaCommandsComplete
  refine ⟨?enable, ?fetch, ?fetchRefused, ?burst, ?burstPosted, ?readback, ?errorResponse, ?abort, ?timeout, ?timeoutIdle,
    ?registerWrite⟩
  case enable => exact fun _ k v hOn hDisabled hEnded hAligned => dmaEnable_runs k v hOn hDisabled hEnded hAligned
  case fetch =>
    exact fun _ k ext _ _ _ _ _ hFetch hFirst hOn hRead he hw hPasses =>
      envelopeFetch_runs k ext hFetch hFirst hOn hRead he hw hPasses
  case fetchRefused =>
    exact fun _ k ext _ _ _ _ _ _ hFetch hFirst hOn hRead he hw hFails =>
      envelopeFetch_refused_runs k ext hFetch hFirst hOn hRead he hw hFails
  case burst =>
    exact fun _ k ext _ _ _ _ _ hEnv hOn hErr hUnpaced hUnposted hn hRead hWrite hMore hNoHalf =>
      dmaBurstReadData_runs k ext hEnv hOn hErr hUnpaced hUnposted hn hRead hWrite hMore hNoHalf
  case burstPosted =>
    exact fun _ k ext _ _ _ _ _ _ _ hEnv hOn hErr hUnpaced hPosted hn hRead hWrite hLast hSome he hw =>
      dmaBurstReadData_posted_runs k ext hEnv hOn hErr hUnpaced hPosted hn hRead hWrite hLast hSome he hw
  case readback =>
    exact fun _ k _ _ _ _ _ _ _ _ _ hEnv hReadbacks hOn hErr hRead he hw =>
      dmaReadbackResponse_runs k hEnv hReadbacks hOn hErr hRead he hw
  case errorResponse => exact fun _ k _ _ hEnv hErr => dmaErrorResponse_runs k hEnv hErr
  case abort => exact fun _ k v hOn => dmaAbort_runs k v hOn
  case timeout => exact fun _ k _ _ _ hOn hEnabled hTmo hEnv hErr hr => dmaTimeout_runs k hOn hEnabled hTmo hEnv hErr hr
  case timeoutIdle => exact fun _ k _ _ hOn hEnabled hTmo hNone hr => dmaTimeout_idle_runs k hOn hEnabled hTmo hNone hr
  case registerWrite => exact fun _ a v m hReg hAligned => registerWrite_runs a v m hReg hAligned

/-- Settles O55: clause by clause the completion law of the command; PORN_RELEASE goes on with the boot or into RECOVERY by
whether firmware is accepted, and WARM_RESET boots at once or, by the pin, waits for RESETn. -/
theorem resetClockAndArbiterCommandsComplete : Obligations.ResetClockAndArbiterCommandsComplete := by
  unfold Obligations.ResetClockAndArbiterCommandsComplete
  refine ⟨?permitExpiry, ?maintRequest, ?maintRelease, ?grant, ?compactEnd, ?rootSwitch, ?lossOfLock, ?cold, ?pornAccepted,
    ?pornRecovery, ?warm, ?warmPin, ?resetn⟩
  case permitExpiry => exact fun _ _ hPermit hTest => permitExpiry_runs hPermit hTest
  case maintRequest =>
    exact fun _ v mgmt _ _ hPhase hAct hKnown hMay hRes hArb => maintRequest_runs v mgmt hPhase hAct hKnown hMay hRes hArb
  case maintRelease => exact fun _ v hPhase hHeld => maintRelease_runs v hPhase hHeld
  case grant => exact fun _ _ _ hReady hu => arbiterGrant_runs hReady hu
  case compactEnd => exact fun _ _ hCompact => ledgerCompactEnd_runs hCompact
  case rootSwitch => exact fun _ ticks hStopped hPhase hWaking => pllRootSwitch_runs ticks hStopped hPhase hWaking
  case lossOfLock => exact fun _ _ hRun hu => lossOfLock_runs hRun hu
  case cold => exact fun _ => coldReset_runs
  case pornAccepted => exact fun _ x _ hPhase hPowered hLoad => pornRelease_runs x hPhase hPowered hLoad
  case pornRecovery => exact fun _ x _ hPhase hPowered hLoad => pornRelease_recovery_runs x hPhase hPowered hLoad
  case warm => exact fun _ x hPhase hPowered => warmReset_runs x hPhase hPowered
  case warmPin => exact fun _ x _ hPhase hPowered hu => warmReset_pin_runs x hPhase hPowered hu
  case resetn => exact fun _ x hLow => resetnRelease_runs x hLow

end Sys2Proof.Machine

/-! The passing of time (O26), and the completions of the sorting office's, the timers' and the ownership table's commands
(O32). -/

namespace Sys2Proof.Machine

/-- All that reaching an instant can do: nothing when it has come, else DEVTIME is set to it and the packets of the time that
passes leave the trace FIFO. -/
theorem State.advanceTo_cases (s : State) (e : Nat) : (e ≤ s.now ∧ s.advanceTo e = s) ∨
    (s.now < e ∧ s.advanceTo e =
      { s with clk := { s.clk with devtime := BitVec.ofNat 64 e }, trace := traceDrain s.trace (e / 4 - s.now / 4) }) := by
  rcases Nat.lt_or_ge s.now e with hAhead | hPast
  · exact .inr ⟨hAhead, if_pos hAhead⟩
  · exact .inl ⟨hPast, if_neg hPast.not_gt⟩

/-- The bound is there because DEVTIME has 64 bits (R41) and an instant beyond them would wrap. -/
theorem State.advanceTo_now (s : State) {e : Nat} (he : e < 2 ^ 64) : (s.advanceTo e).now = max s.now e := by
  obtain ⟨hPast, hEq⟩ | ⟨hAhead, hEq⟩ := s.advanceTo_cases e
  · rw [hEq, Nat.max_eq_left hPast]
  · rw [hEq, Nat.max_eq_right hAhead.le]
    exact (BitVec.toNat_ofNat e 64).trans (Nat.mod_eq_of_lt he)

theorem State.advanceTo_frame (s : State) (e : Nat) : { s.advanceTo e with clk := s.clk, trace := s.trace } = s := by
  obtain ⟨-, hEq⟩ | ⟨-, hEq⟩ := s.advanceTo_cases e <;> rw [hEq]

theorem State.advanceTo_clk_eq (s : State) (e : Nat) :
    (s.advanceTo e).clk = { s.clk with devtime := (s.advanceTo e).clk.devtime } := by
  obtain ⟨-, hEq⟩ | ⟨-, hEq⟩ := s.advanceTo_cases e <;> rw [hEq]

theorem State.advanceTo_fifo_length_le (s : State) (e : Nat) : (s.advanceTo e).trace.fifo.length ≤ s.trace.fifo.length := by
  obtain ⟨-, hEq⟩ | ⟨-, hEq⟩ := s.advanceTo_cases e
  · rw [hEq]
  · rw [hEq]
    exact (List.drop_sublist _ _).length_le

/-- Settles O26, by whether the instant lies ahead of the clock: only then does anything change. -/
theorem timeNeverRunsBack : Obligations.TimeNeverRunsBack := by
  unfold Obligations.TimeNeverRunsBack
  exact fun s e he =>
    ⟨s.advanceTo_now he, s.advanceTo_frame e, s.advanceTo_clk_eq e, s.advanceTo_fifo_length_le e⟩

/-- Settles O32: clause by clause the completion law of the command. EVIN_RAISE, SO_RAISE, ROUTING_ENTRY_WRITE and SO_MIGGO
share a clause, since each needs only that the sorting office's domain is usable. -/
theorem sortingOfficeCommandsComplete : Obligations.SortingOfficeCommandsComplete := by
  unfold Obligations.SortingOfficeCommandsComplete
  refine ⟨?enable, ?evoutEnd, ?officeOn, ?timerRaise, ?timerOutputEnd, ?timerEnable, ?ownershipSwitch, ?ownershipEntry,
    ?delivery, ?landing⟩
  case enable => exact fun _ v hOn hDisabled hEnables => soEnable_runs v hOn hDisabled hEnables
  case evoutEnd => exact fun _ k hPulse => evoutPulseEnd_runs k hPulse
  case officeOn =>
    exact fun _ k e v src w hOn =>
      ⟨evinRaise_runs k e hOn, soRaise_runs v hOn, routingEntryWrite_runs src w v hOn, soMiggo_runs v hOn⟩
  case timerRaise => exact fun _ k hOn hEnabled hPeriod => timerRaise_runs k hOn hEnabled hPeriod
  case timerOutputEnd => exact fun _ k hPulse => timerOutputPulseEnd_runs k hPulse
  case timerEnable =>
    exact fun _ k v hOn hDisabled hPeriod hPhase => soTimerEnable_runs k v hOn hDisabled hPeriod hPhase
  case ownershipSwitch => exact fun _ _ hSwitch => ownershipSwitch_runs hSwitch
  case ownershipEntry =>
    exact fun _ i v hOn hNoSwitch hUnarmed hArms hPasses => ownershipEntryWrite_runs i v hOn hNoSwitch hUnarmed hArms hPasses
  case delivery => exact fun _ l _ hOn hEnabled hDue => eventDelivery_runs l hOn hEnabled hDue
  case landing => exact fun _ _ _ _ hRun hDue hu hAll => fabricWriteLanding_runs hRun hDue hu hAll

end Sys2Proof.Machine

/-! The completions of the converters' commands (O28) and of the calibration's and diagnostic DAC's commands (O29). -/

namespace Sys2Proof.Machine

/-- Settles O28: clause by clause the completion law of the command. SLICE_DISABLE and SLICE_READY share a clause, since each
needs only an enabled slice in a usable domain. -/
theorem converterCommandsComplete : Obligations.ConverterCommandsComplete := by
  unfold Obligations.ConverterCommandsComplete
  refine ⟨?sliceEnable, ?sliceEnabled, ?fastResult, ?freeRunning, ?groupEnable, ?windowEnd, ?integratingResult, ?zeroCrossing,
    ?noSignal, ?firstWindow, ?sequencerEnable, ?entryWrite⟩
  case sliceEnable => exact fun _ n v hOn hDisabled hPasses => sliceEnable_runs n v hOn hDisabled hPasses
  case sliceEnabled =>
    exact fun _ n v hOn hEnabled => ⟨sliceDisable_runs n v hOn hEnabled, sliceReady_runs n hOn hEnabled⟩
  case fastResult => exact fun _ n codes ovld _ hOn hDue => fastResultWrite_runs n codes ovld hOn hDue
  case freeRunning =>
    exact fun _ n codes ovld hOn hEnabled hReady hEntries => freeRunningResult_runs n codes ovld hOn hEnabled hReady hEntries
  case groupEnable => exact fun _ g v hOn hDisabled hPasses => groupEnable_runs g v hOn hDisabled hPasses
  case windowEnd => exact fun _ g sums _ hOn hEnabled hWindow => integratingWindowEnd_runs g sums hOn hEnabled hWindow
  case integratingResult => exact fun _ g _ _ hOn hDone => integratingResultWrite_runs g hOn hDone
  case zeroCrossing =>
    exact fun _ g c _ hOn hEnabled hTracks hSource hEdge => mainsZeroCrossing_runs g c hOn hEnabled hTracks hSource hEdge
  case noSignal => exact fun _ g hOn hEnabled hTracks => trackerNoSignal_runs g hOn hEnabled hTracks
  case firstWindow =>
    exact fun _ g hOn hEnabled hTracks hNoWindow => trackFirstWindowTimeout_runs g hOn hEnabled hTracks hNoWindow
  case sequencerEnable => exact fun _ n v hOn hDisabled hPasses => sequencerEnable_runs n v hOn hDisabled hPasses
  case entryWrite => exact fun _ n k v hOn hDisabled => sqEntryWrite_runs n k v hOn hDisabled

/-- Settles O29: clause by clause the completion law of the command. CAL_PIN_RELEASE and CAL_RESHADOW share a clause, since each
needs only a step in its CALIB phase. -/
theorem calibrationCommandsComplete : Obligations.CalibrationCommandsComplete := by
  unfold Obligations.CalibrationCommandsComplete
  refine ⟨?stepStart, ?substitution, ?calib, ?handback, ?spareRelease, ?run, ?stop, ?pause, ?resume, ?testdacRequest,
    ?testdacRelease, ?replacement⟩
  case stepStart =>
    exact fun _ g _ hOn hRun hUnpaused hTicket hNoTestdac hNoneQueued hNoStep hNoStop hNext =>
      calStepStart_runs g hOn hRun hUnpaused hTicket hNoTestdac hNoneQueued hNoStep hNoStop hNext
  case substitution =>
    exact fun _ g fitOfs fitGain _ hStep hPhase hEnabled hSlice =>
      calSubstitution_runs g fitOfs fitGain hStep hPhase hEnabled hSlice
  case calib => exact fun _ g _ hStep hPhase => ⟨calPinRelease_runs g hStep hPhase, calReshadow_runs g hStep hPhase⟩
  case handback => exact fun _ g ofs gain _ hStep hPhase => calHandback_runs g ofs gain hStep hPhase
  case spareRelease => exact fun _ g _ hHeld => calSpareRelease_runs g hHeld
  case run =>
    exact fun _ g v _ _ hOn hIdle hUnpaused hNoPause hSpare hNoTicket hGranted =>
      calRun_runs g v hOn hIdle hUnpaused hNoPause hSpare hNoTicket hGranted
  case stop => exact fun _ g v hOn hRun hSamePause hStopped => calStop_runs g v hOn hRun hSamePause hStopped
  case pause => exact fun _ g v hOn hSameRun hUnpaused => calPause_runs g v hOn hSameRun hUnpaused
  case resume =>
    exact fun _ g v hOn hRun hPaused hKeepsRun hStillRun => calResume_runs g v hOn hRun hPaused hKeepsRun hStillRun
  case testdacRequest =>
    exact fun _ g v _ _ hOn hDisabled hNoTicket hPasses hGranted =>
      testdacRequest_runs g v hOn hDisabled hNoTicket hPasses hGranted
  case testdacRelease => exact fun _ g v _ hOn hEnabled hTicket => testdacRelease_runs g v hOn hEnabled hTicket
  case replacement =>
    exact fun _ n fo fg hOn hFree hNoTestdac hSpare => permanentReplacement_runs n fo fg hOn hFree hNoTestdac hSpare

end Sys2Proof.Machine

/-! The comparators: a latch meets its set condition at the instant of a clear (O23), and the completions of the comparators'
commands (O30). -/

namespace Sys2Proof.Machine

/-- R103: the set condition wins over a clear at the same instant. -/
theorem State.latchClear_of_setCondition {s : State} {n t : Nat} (hSet : s.setCondition n t = true) : s.latchClear n t = s :=
  if_pos hSet

theorem latchClear_setCondition_runs {s : State} (n : Fin 96) (v : BitVec 32) (hOn : s.unitOn (domCmp n) = true)
    (hSet : s.setCondition n (s.now * 128) = true) : exec (.latchClear n v) s = .next s := by
  rw [exec_latchClear, execLatchClear, if_pos hOn, State.cmpStatWrite, if_pos (bitOf_withField_one v (by omega)),
    State.latchClear_of_setCondition hSet]

/-- R104: the trip line is the latch, so a clear latch leaves it inactive whatever else holds. -/
theorem State.tripLine_of_latch_clear {s : State} {n : Nat} (hClear : s.flag (Reg.CMP_STAT n) 0 = false) :
    s.tripLine n = false := by
  rw [State.tripLine, hClear, Bool.and_false, Bool.false_and]

/-- Settles O23, by whether the set condition holds at the instant of the clear: only without it does LATCH change. -/
theorem comparatorLatchSetWins : Obligations.ComparatorLatchSetWins := by
  unfold Obligations.ComparatorLatchSetWins
  intro s n v hOn
  refine ⟨?present, ?absent⟩
  case present => exact fun hSet => latchClear_setCondition_runs n v hOn hSet
  case absent =>
    intro hNoSet
    have hLatch : (s.setFlag (Reg.CMP_STAT n) 0 false).flag (Reg.CMP_STAT n) 0 = false :=
      State.flag_setFlag_same _ _ _ (by omega)
    exact ⟨_, latchClear_runs n v hOn hNoSet, hLatch, State.tripLine_of_latch_clear hLatch,
      fun _ hOther => State.reg_setFld_ne _ _ _ _ hOther⟩

/-- Settles O30: clause by clause the completion law of the command. COMPARATOR_LIVE_WRITE has one law a register, and its
CTRL form shares a clause with COMPARATOR_DISABLE, since each needs only an enabled comparator in a usable domain. -/
theorem comparatorCommandsComplete : Obligations.ComparatorCommandsComplete := by
  unfold Obligations.ComparatorCommandsComplete
  refine ⟨?latchSet, ?rawChange, ?setRecord, ?latchClear, ?blankingClose, ?refWrite, ?liveRamp, ?liveBlank, ?enabled, ?enable,
    ?settled, ?selftestRequest, ?selftestEnd⟩
  case latchSet => exact fun _ n t hSet => comparatorLatchSet_runs n t hSet
  case rawChange => exact fun _ n v t hOn => comparatorRawChange_runs n v t hOn
  case setRecord => exact fun _ n _ hOn hRecord => comparatorSetRecord_runs n hOn hRecord
  case latchClear => exact fun _ n v hOn hNoSet => latchClear_runs n v hOn hNoSet
  case blankingClose => exact fun _ n _ hOn hWindow => blankingClose_runs n hOn hWindow
  case refWrite => exact fun _ n v hOn => refWrite_runs n v hOn
  case liveRamp => exact fun _ n v hOn hPasses => comparatorLiveWrite_ramp_runs n v hOn hPasses
  case liveBlank => exact fun _ n v hOn hPasses => comparatorLiveWrite_blank_runs n v hOn hPasses
  case enabled =>
    exact fun _ n v hOn hEnabled => ⟨comparatorLiveWrite_ctrl_runs n v hOn hEnabled, comparatorDisable_runs n v hOn hEnabled⟩
  case enable => exact fun _ n v hOn hDisabled hPasses => comparatorEnable_runs n v hOn hDisabled hPasses
  case settled => exact fun _ n _ hOn hEnabled hSettle => comparatorSettled_runs n hOn hEnabled hSettle
  case selftestRequest =>
    exact fun _ n v _ _ hOn hMode hIdle hUnused hEnabled hReady hGranted =>
      selftestRequest_runs n v hOn hMode hIdle hUnused hEnabled hReady hGranted
  case selftestEnd => exact fun _ n v hOn hActive => selftestEnd_runs n v hOn hActive

end Sys2Proof.Machine

/-! Events and their delays: a forwarded event flies for its delay and is delivered on its due edge (O25). -/

namespace Sys2Proof.Machine

/-- The flag may lie in the written register or in another: only the bits written matter. -/
theorem State.flag_setFld_outside (s : State) (a b : Nat) {hi lo i : Nat} (v : Nat) (h : lo ≤ hi + 1) (hh : hi < 32)
    (hd : i < lo ∨ hi < i) : (s.setFld a hi lo v).flag b i = s.flag b i := by
  rcases eq_or_ne b a with rfl | hOther
  · exact s.flag_setFld_disjoint b v h hh hd
  · exact s.flag_setFld_ne hi lo v i hOther

/-- An entry's STAT word holds no destinations: they stand in its words DA and DB. -/
theorem State.routeDests_setFld_stat (s : State) (src hi lo v : Nat) :
    (s.setFld (Reg.SO_RT_STAT src) hi lo v).routeDests src = s.routeDests src := by
  have hDa : Reg.SO_RT_DA src ≠ Reg.SO_RT_STAT src := by unfold Reg.SO_RT_DA Reg.SO_RT_STAT; omega
  have hDb : Reg.SO_RT_DB src ≠ Reg.SO_RT_STAT src := by unfold Reg.SO_RT_DB Reg.SO_RT_STAT; omega
  rw [State.routeDests, State.routeDests, State.reg_setFld_ne _ _ _ _ hDa, State.reg_setFld_ne _ _ _ _ hDb]

theorem State.routeDests_modInc_stat (s : State) (src hi lo : Nat) :
    (s.modInc (Reg.SO_RT_STAT src) hi lo).routeDests src = s.routeDests src :=
  s.routeDests_setFld_stat src hi lo _

/-- R475: without TP_SODLY in force a delivery is not put off. -/
theorem State.soDelay_of_unperturbed {s : State} (src : Nat) (h : s.flag Reg.TP_SODLY 31 = false) : s.soDelay src = 0 := by
  have hOff : bitOf (s.reg Reg.TP_SODLY) 31 = false := h
  rw [State.soDelay, hOff]
  rfl

/-- R143 to R145: what raising an event adds to the flights when routing is on, the entry passed its check, decimation forwards
the event and a slot is free or not needed. The counts of the entry do not reach into the flight. -/
theorem State.raiseAt_flights_of_forwarded {s : State} {src : Nat} (e f : Nat) (hOn : s.unitOn domSo = true)
    (hEnabled : s.flag Reg.SO_CTRL 0 = true) (hEntry : nsetHas s.so.rtFail src = false)
    (hForwards : s.fld (Reg.SO_RT_STAT src) 15 8 = 0)
    (hSlot : s.fld (Reg.SO_RT_CFG src) 7 0 = 0 ∨ s.fld (Reg.SO_RT_STAT src) 3 0 < 8)
    (hUnperturbed : s.flag Reg.TP_SODLY 31 = false) :
    (s.raiseAt src e f).so.flights = s.so.flights ++ [⟨src, e + 2 + s.fld (Reg.SO_RT_CFG src) 7 0,
      (e + s.fld (Reg.SO_RT_CFG src) 7 0) * 128 + f, s.routeDests src, s.fld (Reg.SO_RT_CFG src) 7 0 != 0⟩] := by
  have hDue (t : State) (h : t.flag Reg.TP_SODLY 31 = false) (n : Nat) : n + t.soDelay src = n := by
    rw [State.soDelay_of_unperturbed src h, Nat.add_zero]
  have hCounted (v : Nat) : (s.setFld (Reg.SO_RT_STAT src) 15 8 v).flag Reg.TP_SODLY 31 = false :=
    (s.flag_setFld_outside _ _ v (by omega) (by omega) (by omega)).trans hUnperturbed
  have hFree (v : Nat) : ¬ (s.fld (Reg.SO_RT_CFG src) 7 0 ≠ 0 ∧
      8 ≤ (s.setFld (Reg.SO_RT_STAT src) 15 8 v).fld (Reg.SO_RT_STAT src) 3 0) := by
    rw [State.fld_setFld_disjoint s _ v (by omega) (by omega) (by omega)]
    omega
  rw [State.raiseAt, hOn, hEnabled, hEntry]
  dsimp only
  rw [if_neg (by decide), if_neg (not_not_intro hForwards), if_neg (hFree _)]
  by_cases hDelay : s.fld (Reg.SO_RT_CFG src) 7 0 ≠ 0
  case neg => rw [if_neg hDelay, hDue _ (hCounted _), State.routeDests_setFld_stat, State.setFld_so]
  case pos =>
    have hHeld (v : Nat) : ((s.setFld (Reg.SO_RT_STAT src) 15 8 v).modInc (Reg.SO_RT_STAT src) 3 0).flag Reg.TP_SODLY 31 = false :=
      (State.flag_setFld_outside _ _ _ _ (by omega) (by omega) (by omega)).trans (hCounted v)
    rw [if_pos hDelay, hDue _ (hHeld _), State.routeDests_modInc_stat, State.routeDests_setFld_stat, State.modInc_so,
      State.setFld_so]

theorem State.nextDelivery_eq_min? (s : State) : s.nextDelivery = (s.so.flights.map Flight.due).min? := by
  rw [State.nextDelivery]
  cases s.so.flights with
  | nil => rfl
  | cons x xs =>
    rw [List.map_cons, List.min?_cons', List.foldl_map]
    exact List.foldl_hom some fun _ _ => rfl

theorem State.nextDelivery_of_earliest {s : State} {x : Flight} (hx : x ∈ s.so.flights)
    (hEarliest : ∀ y ∈ s.so.flights, x.due ≤ y.due) : s.nextDelivery = some x.due := by
  rw [s.nextDelivery_eq_min?, List.min?_eq_some_iff]
  exact ⟨List.mem_map_of_mem hx, List.forall_mem_map.mpr hEarliest⟩

/-- Settles O25. A forwarded event joins the flights with its due edge, by whether its entry's delay takes a slot; the earliest
flight's due edge is the next delivery edge, and reaching it leaves the sorting office as it is. -/
theorem eventsArriveAfterTheirDelay : Obligations.EventsArriveAfterTheirDelay := by
  unfold Obligations.EventsArriveAfterTheirDelay
  refine ⟨?forwarded, ?delivered⟩
  case forwarded =>
    rintro s src e f _ hOn hEnabled hEntry rfl hForwards hSlot hUnperturbed
    exact State.raiseAt_flights_of_forwarded e f hOn hEnabled hEntry hForwards hSlot hUnperturbed
  case delivered =>
    intro s l x hOn hEnabled hx hEarliest
    rw [eventDelivery_runs l hOn hEnabled (State.nextDelivery_of_earliest hx hEarliest), s.advanceTo_so]

end Sys2Proof.Machine

/-! The completions of the loop cells' instructions, by the family of the instruction (O34 to O38): each clause groups the
instructions that are ready under the same operands, and each member is the completion law of its instruction. -/

namespace Sys2Proof.Machine

/-- Settles O34: clause by clause the completion laws of the integer instructions. The operations on two registers share their
sources, as do those on one register, with an immediate or without; a shift by an immediate needs an amount below 32. -/
theorem cellIntegerInstructionsComplete : Obligations.CellIntegerInstructionsComplete := by
  unfold Obligations.CellIntegerInstructionsComplete
  refine ⟨?twoSources, ?select, ?oneSource, ?shiftImmediate, ?constant⟩
  case twoSources =>
    exact fun _ _ c e d a b hReady =>
      ⟨lcAdd_runs c e d a b hReady, lcSub_runs c e d a b hReady, lcAnd_runs c e d a b hReady, lcOr_runs c e d a b hReady,
        lcXor_runs c e d a b hReady, lcAndn_runs c e d a b hReady, lcSll_runs c e d a b hReady, lcSrl_runs c e d a b hReady,
        lcSra_runs c e d a b hReady, lcSlt_runs c e d a b hReady, lcSltu_runs c e d a b hReady, lcMin_runs c e d a b hReady,
        lcMax_runs c e d a b hReady, lcMul_runs c e d a b hReady, lcMulh_runs c e d a b hReady⟩
  case select => exact fun _ _ c e d a b x hReady => lcSel_runs c e d a b x hReady
  case oneSource =>
    exact fun _ _ c e d a imm hReady =>
      ⟨lcClz_runs c e d a hReady, lcAddi_runs c e d a imm hReady, lcAndi_runs c e d a imm hReady,
        lcOri_runs c e d a imm hReady, lcXori_runs c e d a imm hReady⟩
  case shiftImmediate =>
    exact fun _ _ c e d a imm hReady hAmount =>
      ⟨lcSlli_runs c e d a imm hReady hAmount, lcSrli_runs c e d a imm hReady hAmount,
        lcSrai_runs c e d a imm hReady hAmount⟩
  case constant =>
    exact fun _ _ c e d imm hReady => ⟨lcLi_runs c e d imm hReady, lcLui_runs c e d imm hReady⟩

/-- Settles O35: clause by clause the completion laws of the fixed-point and FP32 instructions, by whether they read two
registers, one, or a third that they add to. That an FP32 result is rounded on the grid of binary32 is the model's inference
(log 24). -/
theorem cellDspAndFloatInstructionsComplete : Obligations.CellDspAndFloatInstructionsComplete := by
  unfold Obligations.CellDspAndFloatInstructionsComplete
  refine ⟨?twoSources, ?oneSource, ?multiplyAdd⟩
  case twoSources =>
    exact fun _ _ c e d a b hReady =>
      ⟨lcAddS_runs c e d a b hReady, lcSubS_runs c e d a b hReady, lcMulq_runs c e d a b hReady,
        lcMulq15_runs c e d a b hReady, lcClmp_runs c e d a b hReady, lcShls_runs c e d a b hReady,
        lcFadd_runs c e d a b hReady, lcFsub_runs c e d a b hReady, lcFmul_runs c e d a b hReady,
        lcFmin_runs c e d a b hReady, lcFmax_runs c e d a b hReady, lcFlt_runs c e d a b hReady⟩
  case oneSource =>
    exact fun _ _ c e d a hReady =>
      ⟨lcNegS_runs c e d a hReady, lcAbsS_runs c e d a hReady, lcRndq15_runs c e d a hReady, lcFabs_runs c e d a hReady,
        lcFneg_runs c e d a hReady, lcFcvtQf_runs c e d a hReady, lcFcvtFq_runs c e d a hReady,
        lcFcvtIf_runs c e d a hReady, lcFcvtFi_runs c e d a hReady⟩
  case multiplyAdd =>
    exact fun _ _ c e d a b x hReady =>
      ⟨lcMadq_runs c e d a b x hReady, lcMadq15_runs c e d a b x hReady, lcFmad_runs c e d a b x hReady⟩

/-- Settles O36: clause by clause the completion laws of the accumulator instructions and of the transforms. A transform writes
an aligned group of registers, and PARK, IPARK and SVM also read an aligned pair. The sine and cosine of PARK and IPARK are
the model's choice within the bound of R167 (log 27). -/
theorem cellAccumulatorAndTransformInstructionsComplete :
    Obligations.CellAccumulatorAndTransformInstructionsComplete := by
  unfold Obligations.CellAccumulatorAndTransformInstructionsComplete
  refine ⟨?multiplyAccumulate, ?clear, ?load, ?read, ?clarke, ?rotation, ?spaceVector⟩
  case multiplyAccumulate =>
    exact fun _ _ c e x a b hReady => ⟨lcMaca_runs c e x a b hReady, lcMsua_runs c e x a b hReady⟩
  case clear => exact fun _ _ c e x hReady => lcAclr_runs c e x hReady
  case load => exact fun _ _ c e x a hReady => lcAld_runs c e x a hReady
  case read => exact fun _ _ c e x d hReady => ⟨lcArd_runs c e x d hReady, lcArd15_runs c e x d hReady⟩
  case clarke => exact fun _ _ c e d a b hReady hDest => lcClarke_runs c e d a b hReady hDest
  case rotation =>
    exact fun _ _ c e d a b hReady hDest hSource =>
      ⟨lcPark_runs c e d a b hReady hDest hSource, lcIpark_runs c e d a b hReady hDest hSource⟩
  case spaceVector => exact fun _ _ c e d a hReady hDest hSource => lcSvm_runs c e d a hReady hDest hSource

/-- Settles O37: clause by clause the completion law of the instruction. The double forms need an even register and an aligned
address or port; whatever can fault, or differ between the cells of a pair, needs outputs that are fine. -/
theorem cellLoadStorePortInstructionsComplete : Obligations.CellLoadStorePortInstructionsComplete := by
  unfold Obligations.CellLoadStorePortInstructionsComplete
  refine ⟨?load, ?loadDouble, ?store, ?storeDouble, ?portRead, ?portReadDouble, ?portWrite, ?portWriteDouble, ?tableEntry,
    ?interpolation, ?interpolation2⟩
  case load => exact fun _ _ c e d a imm hReady hFine => lcLd_runs c e d a imm hReady hFine
  case loadDouble =>
    exact fun _ _ c e d a imm hReady hDest hAligned hFine => lcLdD_runs c e d a imm hReady hDest hAligned hFine
  case store => exact fun _ _ c e d a imm hReady hInside hFine => lcSt_runs c e d a imm hReady hInside hFine
  case storeDouble =>
    exact fun _ _ c e d a imm hReady hData hInside hFine => lcStD_runs c e d a imm hReady hData hInside hFine
  case portRead => exact fun _ _ c e d a x port hReady => lcPrd_runs c e d a x port hReady
  case portReadDouble =>
    exact fun _ _ c e d a x port hReady hDest hAligned => lcPrdD_runs c e d a x port hReady hDest hAligned
  case portWrite => exact fun _ _ c e d a x port hReady hFine => lcPwr_runs c e d a x port hReady hFine
  case portWriteDouble =>
    exact fun _ _ c e d a x port hReady hData hAligned hFine => lcPwrD_runs c e d a x port hReady hData hAligned hFine
  case tableEntry => exact fun _ _ c e d a b td hReady hFine => lcMsLd_runs c e d a b td hReady hFine
  case interpolation => exact fun _ _ c e d a td hReady hFine => lcMsLerp_runs c e d a td hReady hFine
  case interpolation2 => exact fun _ _ c e d a b td hReady hFine => lcMsBlerp_runs c e d a b td hReady hFine

/-- Settles O38: clause by clause the completion law of the instruction. The premise on its outputs keeps the target inside the
program; CALL needs room on the return stack, RET an entry. That the cells of a pair which branch apart are marked, to mismatch
later, is the model's choice (log 26). -/
theorem cellControlFlowInstructionsComplete : Obligations.CellControlFlowInstructionsComplete := by
  unfold Obligations.CellControlFlowInstructionsComplete
  refine ⟨?equal, ?notEqual, ?less, ?greaterEqual, ?lessUnsigned, ?greaterEqualUnsigned, ?decrement, ?always, ?call, ?ret⟩
  case equal => exact fun _ _ c a b off hReady hFine => lcBrEq_runs c a b off hReady hFine
  case notEqual => exact fun _ _ c a b off hReady hFine => lcBrNe_runs c a b off hReady hFine
  case less => exact fun _ _ c a b off hReady hFine => lcBrLt_runs c a b off hReady hFine
  case greaterEqual => exact fun _ _ c a b off hReady hFine => lcBrGe_runs c a b off hReady hFine
  case lessUnsigned => exact fun _ _ c a b off hReady hFine => lcBrLtu_runs c a b off hReady hFine
  case greaterEqualUnsigned => exact fun _ _ c a b off hReady hFine => lcBrGeu_runs c a b off hReady hFine
  case decrement => exact fun _ _ c a off hReady hFine => lcDjnz_runs c a off hReady hFine
  case always => exact fun _ _ c off hReady hFine => lcBrAlways_runs c off hReady hFine
  case call => exact fun _ _ c off hReady hRoom hFine => lcCall_runs c off hReady hRoom hFine
  case ret => exact fun _ _ c _ _ hReady hStack hFine => lcRet_runs c hReady hStack hFine

end Sys2Proof.Machine

/-! The completions of the map store's commands (O39). -/

namespace Sys2Proof.Machine

/-- Settles O39: clause by clause the completion law of the command. A grant goes to the first requester of the port that is
pending (R187); a window write that meets no failed word stores at once (R192, R349); DESCRIPTOR_WRITE of a descriptor that is
not valid has one law for BASE, one for a SHAPE that makes it valid, and one for the words after them (R191). -/
theorem mapStoreCommandsComplete : Obligations.MapStoreCommandsComplete := by
  unfold Obligations.MapStoreCommandsComplete
  refine ⟨?requestGrant, ?pageWriteback, ?windowWrite, ?enable, ?descriptorBase, ?descriptorShape, ?descriptorRest⟩
  case requestGrant =>
    exact fun _ p service _ _ _ hOn hGrant hFirst hPending => msRequestGrant_runs p service hOn hGrant hFirst hPending
  case pageWriteback => exact fun _ wait _ _ _ hCorrections => msPageWriteback_runs wait hCorrections
  case windowWrite =>
    exact fun _ w v port hHalf hNoCorrection hSound => mapStoreWindowWrite_runs w v port hHalf hNoCorrection hSound
  case enable => exact fun _ v hOn hDisabled hEnables => mapStoreEnable_runs v hOn hDisabled hEnables
  case descriptorBase => exact fun _ k v hOn hInvalid => descriptorWrite_base_runs k v hOn hInvalid
  case descriptorShape =>
    exact fun _ k v hOn hInvalid hPasses hMakesValid => descriptorWrite_shape_runs k v hOn hInvalid hPasses hMakesValid
  case descriptorRest =>
    exact fun _ k word v hWord hOn hInvalid => descriptorWrite_axis_runs k word v hWord hOn hInvalid

end Sys2Proof.Machine

/-! The completions of the PWM generators' commands (O40). -/

namespace Sys2Proof.Machine

/-- Settles O40: clause by clause the completion law of the command. PERIOD_START's clause is about a start that no write on its
reload edge has carried out already (R210; that such a write carries it out is the model's choice, log 16). A COT period ends
at PULSE_END_SEEN, on the timeout's reload edge at the latest, or at COT_TIMEOUT (R201); a COFF period is resolved by
COFF_PULSE_END or COFF_TIMEOUT (R202); that these ends are commands of their own is the model's choice (log 141). PWM_COMMIT
needs a generator without an owner (R149). -/
theorem pwmCommandsComplete : Obligations.PwmCommandsComplete := by
  unfold Obligations.PwmCommandsComplete
  refine ⟨?edge, ?trigger, ?deadTime, ?periodStart, ?centre, ?commit, ?pulseEndSeen, ?cotTimeout, ?coffPulseEnd, ?coffTimeout,
    ?enable, ?disable⟩
  case edge => exact fun _ n i _ hRuns hDue hIsEdge => edgeInstance_runs n i hRuns hDue hIsEdge
  case trigger => exact fun _ n k down _ hRuns hDue => triggerInstance_runs n k down hRuns hDue
  case deadTime => exact fun _ n b _ hRuns hWaits => deadTimeEnd_runs n b hRuns hWaits
  case periodStart => exact fun _ n flt _ hLive hNotEarly hNext => periodStart_runs n flt hLive hNotEarly hNext
  case centre => exact fun _ n flt _ hRuns hDue => pwmCentre_runs n flt hRuns hDue
  case commit => exact fun _ n v hOn hUnowned => pwmCommit_runs n v hOn hUnowned
  case pulseEndSeen =>
    exact fun _ n t hRuns hCot hInput hNoEnd hInTime => pulseEndSeen_runs n t hRuns hCot hInput hNoEnd hInTime
  case cotTimeout => exact fun _ n hRuns hCot hNoEnd => cotTimeout_runs n hRuns hCot hNoEnd
  case coffPulseEnd =>
    exact fun _ n t hRuns hCoff hInput hUnresolved hInTime => coffPulseEnd_runs n t hRuns hCoff hInput hUnresolved hInTime
  case coffTimeout => exact fun _ n hRuns hCoff hUnresolved => coffTimeout_runs n hRuns hCoff hUnresolved
  case enable => exact fun _ n v hOn hDisabled hPasses => pwmEnable_runs n v hOn hDisabled hPasses
  case disable => exact fun _ n v hOn hEnabled => pwmDisable_runs n v hOn hEnabled

end Sys2Proof.Machine

/-! The completions of the PWM generators' trip commands (O41). -/

namespace Sys2Proof.Machine

/-- Settles O41: clause by clause the completion law of the command. A source of class CBC forces the outputs of a running
generator (R222); one of class LATCHED trips an enabled generator, running or not (R224). A record that names a selector sets
that selector's LATSRC bit; PAD_SENSE_MISMATCH needs pads in high impedance and a sense that differs from the safe levels
(R227); TRIP_CLEAR writes TRIPSTAT with TRIPLATCH at 1 (R229). That a force, a trip and a clear take the FLT levels they come
with is the model's choice (log 75). -/
theorem pwmProtectionCommandsComplete : Obligations.PwmProtectionCommandsComplete := by
  unfold Obligations.PwmProtectionCommandsComplete
  refine ⟨?cbcForce, ?latchedTrip, ?tripRecord, ?padSenseMismatch, ?tripClear⟩
  case cbcForce => exact fun _ n k t flt hRuns hActive => cbcForce_runs n k t flt hRuns hActive
  case latchedTrip => exact fun _ n k t flt hOn hEnabled hActive => latchedTrip_runs n k t flt hOn hEnabled hActive
  case tripRecord => exact fun _ n _ _ _ hOn hRecord hSelector => tripRecord_runs n hOn hRecord hSelector
  case padSenseMismatch =>
    exact fun _ n a b _ hOn hSense hHiZ hDiffers => padSenseMismatch_runs n a b hOn hSense hHiZ hDiffers
  case tripClear => exact fun _ n v flt hOn => tripClear_runs n v flt hOn

end Sys2Proof.Machine

/-! General registers and windows: cm0 reads 0 and a write reaches only its register (O8), and a slide forward and its return
(O17). -/

namespace Sys2Proof.Machine

theorem Arch.get_zero (r : Arch) : r.get 0 = 0 := if_pos rfl

theorem Arch.set_zero (r : Arch) (v : Word) : r.set 0 v = r := if_pos rfl

theorem Arch.get_set_same (r : Arch) {d : Nat} (v : Word) (hd : d ≠ 0) : (r.set d v).get d = v := by
  by_cases hLow : d < 8
  case pos => simp only [Arch.set, Arch.get, hd, hLow, ↓reduceIte, mapGet_set_same]
  case neg => simp only [Arch.set, Arch.get, hd, hLow, ↓reduceIte, mapGet_set_same]

theorem Arch.get_set_ne (r : Arch) {d i : Fin 32} (v : Word) (h : i ≠ d) : (r.set d v).get i = r.get i :=
  (r.set_only d v (r.set d v).pc).others i h

/-- Settles O8. The 31 registers other than cm0 live in distinct places of cm and of the window slots, so a write reaches its own
register and no other. -/
theorem generalRegisterZeroReadsZero : Obligations.GeneralRegisterZeroReadsZero := by
  unfold Obligations.GeneralRegisterZeroReadsZero
  exact ⟨fun r => r.get_zero, fun r v => r.set_zero v, fun r d v hd => r.get_set_same v (Fin.val_ne_zero_iff.mpr hd),
    fun r d v i hOther => r.get_set_ne v hOther⟩

theorem Arch.get_of_low (r : Arch) {i : Nat} (hi : i < 8) : r.get i = if i = 0 then 0 else mapGet 0 r.cm i := by
  rw [Arch.get, if_pos hi]

theorem Arch.get_of_window (r : Arch) {i : Nat} (hi : 8 ≤ i) : r.get i = mapGet 0 r.win (winIndex r.slot i) := by
  rw [Arch.get, if_neg (by omega), if_neg (by omega)]

/-- No register of a window lies in the desk of the next one. -/
theorem winIndex_not_next_desk {sl i : Nat} (hi : 8 ≤ i ∧ i < 32) :
    winIndex sl i < 16 * ((sl + 1) % 8) + 8 ∨ 16 * ((sl + 1) % 8) + 16 ≤ winIndex sl i := by
  unfold winIndex
  split
  case isTrue => omega
  case isFalse => split <;> omega

/-- The record after a slide forward (R239): the desk registers of the slot it comes to take the free values from number f on. -/
def Arch.slid (a : Arch) (f link : Nat) : Arch :=
  let x := (a.slot + 1) % 8
  let w : WinSlot := mapGet {} a.slots x
  { a with
    slot := x
    depth := min (a.depth + 1) 7
    win := (List.range 8).foldl (fun m i => mapSet 0 m (16 * x + 8 + i) (Config.openWord (f + i))) a.win
    slots := mapSet {} a.slots x { w with lctl := withField w.lctl 5 5 0, link := BitVec.ofNat 32 link } }

theorem Arch.slid_depth_of_lt {a : Arch} (f link : Nat) (h : a.depth < 7) : (a.slid f link).depth = a.depth + 1 :=
  Nat.min_eq_left h

theorem Arch.slid_win0 (a : Arch) (f link : Nat) : (a.slid f link).win0 =
    { (mapGet {} a.slots ((a.slot + 1) % 8) : WinSlot) with
      lctl := withField (mapGet {} a.slots ((a.slot + 1) % 8) : WinSlot).lctl 5 5 0, link := BitVec.ofNat 32 link } :=
  mapGet_set_same (α := WinSlot) _ _ _ _

/-- A slide forward writes the desk of the slot it comes to, and no other window register. -/
theorem Arch.slid_win_of_not_desk (a : Arch) (f link : Nat) {j : Nat}
    (h : j < 16 * ((a.slot + 1) % 8) + 8 ∨ 16 * ((a.slot + 1) % 8) + 16 ≤ j) :
    mapGet 0 (a.slid f link).win j = mapGet 0 a.win j := by
  rw [Arch.slid]
  dsimp only
  refine List.foldlRecOn (motive := fun m => mapGet 0 m j = mapGet 0 a.win j) (List.range 8) _ rfl fun m hKept i hi => ?_
  have hDesk : i < 8 := List.mem_range.mp hi
  rw [mapGet_set_ne (α := Word) _ _ _ _ (by omega), hKept]

theorem Arch.slid_get_low (a : Arch) (f link : Nat) {i : Nat} (hi : i < 8) : (a.slid f link).get i = a.get i :=
  (Arch.get_of_low _ hi).trans (a.get_of_low hi).symm

/-- R239: the old window's outbox is the new window's inbox. -/
theorem Arch.slid_get_inbox (a : Arch) (f link : Nat) {i : Nat} (hi : i < 8) : (a.slid f link).get (8 + i) = a.get (24 + i) := by
  have hInbox : winIndex ((a.slot + 1) % 8) (8 + i) = 16 * ((a.slot + 1) % 8) + i := by
    rw [winIndex, if_pos (by omega), Nat.add_sub_cancel_left]
  have hOutbox : winIndex a.slot (24 + i) = 16 * ((a.slot + 1) % 8) + i := by
    rw [winIndex, if_neg (by omega), if_neg (by omega), Nat.add_sub_cancel_left]
  calc (a.slid f link).get (8 + i)
      = mapGet 0 (a.slid f link).win (winIndex ((a.slot + 1) % 8) (8 + i)) := Arch.get_of_window _ (by omega)
    _ = mapGet 0 a.win (16 * ((a.slot + 1) % 8) + i) := by rw [hInbox, a.slid_win_of_not_desk f link (by omega)]
    _ = a.get (24 + i) := by rw [← hOutbox, a.get_of_window (by omega)]

/-- With SLOT as it was before a slide forward, every register reads as before it. -/
theorem Arch.slid_get_of_slot (a : Arch) (f link depth : Nat) {i : Nat} (hi : i < 32) :
    Arch.get { a.slid f link with slot := a.slot, depth := depth } i = a.get i := by
  rcases Nat.lt_or_ge i 8 with hLow | hWindow
  · exact (Arch.get_of_low _ hLow).trans (a.get_of_low hLow).symm
  · rw [Arch.get_of_window _ hWindow, a.get_of_window hWindow]
    exact a.slid_win_of_not_desk f link (winIndex_not_next_desk ⟨hWindow, hi⟩)

theorem State.OnlyCore.restore_free {s t : State} {f k : Nat} (h : State.OnlyCore { s with free := f } t k) :
    s.OnlyCore { t with free := s.free } k :=
  ⟨h.others, h.regs, h.steps, congrArg (fun u : State => { u with free := s.free }) h.rest⟩

/-- A slide forward that needs no spill (R239). -/
theorem State.slideFwd_of_depth_lt (s : State) {k : Nat} (link : Nat) (h : (s.arch k).depth < 7) :
    ∃ t, s.slideFwd k link = .ok t ∧ t.arch k = (s.arch k).slid s.free link ∧ s.OnlyCore { t with free := s.free } k :=
  ⟨_, if_neg h.ne, State.onArch_arch _ _ _, (State.onCore_only _ _ _).restore_free⟩

/-- A slide back that needs no fill (R240). -/
theorem State.slideBack_of_depth_ne (s : State) {k : Nat} (h : (s.arch k).depth ≠ 1) : ∃ u, s.slideBack k = .ok u ∧
    u.arch k = { s.arch k with slot := ((s.arch k).slot + 7) % 8, depth := (s.arch k).depth - 1 } :=
  ⟨_, if_neg h, State.onArch_arch _ _ _⟩

/-- Settles O17. A slide forward writes no register that the old window shows, so after the
return they read as before as soon as SLOT is back. -/
theorem windowSlidesAndReturns : Obligations.WindowSlidesAndReturns := by
  unfold Obligations.WindowSlidesAndReturns
  refine ⟨?forward, ?back⟩
  case forward =>
    intro s k link hSlot hDepth
    obtain ⟨t, hSlide, hArch, hOnly⟩ := s.slideFwd_of_depth_lt (k := k) link hDepth
    refine ⟨t, hSlide, ?_⟩
    rw [hArch, Arch.slid_win0]
    exact ⟨rfl, Arch.slid_depth_of_lt _ _ hDepth, rfl, bitOf_withField_zero _ (by omega),
      fun _ hi => Arch.slid_get_inbox _ _ _ hi, fun _ hi => Arch.slid_get_low _ _ _ hi, rfl, rfl, hOnly⟩
  case back =>
    intro s k link t hSlot hPos hDepth hSlid
    obtain ⟨t', hSlide, hArch, -⟩ := s.slideFwd_of_depth_lt (k := k) link hDepth
    obtain rfl : t' = t := Slide.ok.inj (hSlide.symm.trans hSlid)
    have hDeeper : (t'.arch k).depth = (s.arch k).depth + 1 := by rw [hArch, Arch.slid_depth_of_lt _ _ hDepth]
    have hReturned : ((t'.arch k).slot + 7) % 8 = (s.arch k).slot := by
      rw [hArch]
      change (((s.arch k).slot + 1) % 8 + 7) % 8 = (s.arch k).slot
      omega
    obtain ⟨u, hBack, hu⟩ := t'.slideBack_of_depth_ne (k := k) (by omega)
    rw [hReturned, hDeeper, hArch] at hu
    refine ⟨u, hBack, ?_⟩
    rw [hu]
    exact ⟨rfl, rfl, fun _ hi => Arch.slid_get_of_slot _ _ _ _ hi⟩

end Sys2Proof.Machine

/-! What the resets and a release leave in the cores (O18). -/

namespace Sys2Proof.Machine

/-- A record with no register, window or slot written reads as R245 says. -/
theorem Arch.clear_of_unwritten {a : Arch} (hCm : a.cm = []) (hWin : a.win = []) (hSlots : a.slots = []) (hSlot : a.slot = 0)
    (hDepth : a.depth = 1) (hWsp : a.wsp = 0) : a.Clear := by
  refine ⟨fun i => ?_, hSlot, hDepth, hWsp, fun x => ?_⟩
  · simp only [Arch.get, hCm, hWin, mapGet, ite_self]
  · rw [hSlots]
    exact ⟨rfl, (by decide : bitOf (0 : Word) 5 = false)⟩

theorem State.clear_of_cores_nil {s : State} (h : s.cores = []) (k : Nat) : (s.arch k).Clear := by
  have hArch : s.arch k = {} := by
    rw [State.arch, State.core, h]
    rfl
  rw [hArch]
  exact Arch.clear_of_unwritten rfl rfl rfl rfl rfl rfl

theorem State.phase_reset : State.reset.phase = 0 := by decide

theorem State.coldReset_phase (s : State) : s.coldReset.phase = 0 := State.phase_reset

theorem releaseArch_cap_of_ge {j : Nat} (k entry : Nat) (hj : 3 ≤ j) : (releaseArch k entry).cap j = {} := by
  simp only [Arch.cap, releaseArch, mapGet]
  rw [if_neg (by omega), if_neg (by omega), if_neg (by omega)]

/-- Settles O18. Both resets leave no core record written, and a release writes only the PC and the capability registers, so
that the cores read as unwritten records do. -/
theorem resetsClearTheCores : Obligations.ResetsClearTheCores := by
  unfold Obligations.ResetsClearTheCores
  refine ⟨?cold, ?warm, ?released⟩
  case cold => exact fun s => ⟨_, coldReset_runs, rfl, s.coldReset_phase, State.clear_of_cores_nil rfl⟩
  case warm =>
    intro s x hPhase hOff
    obtain ⟨hCores, hTime, hBoot⟩ := s.warmReset_facts
    generalize hu : s.warmReset = u at hCores hTime hBoot
    exact ⟨_, warmReset_pin_runs x hPhase hOff hu.symm, hTime, hBoot, State.clear_of_cores_nil hCores⟩
  case released =>
    exact fun k entry => ⟨Arch.clear_of_unwritten rfl rfl rfl rfl rfl rfl, rfl, rfl, rfl, rfl,
      fun _ hj => releaseArch_cap_of_ge k entry hj, rfl⟩

end Sys2Proof.Machine

/-! Illegal forms of the Molpa instructions (O12). -/

namespace Sys2Proof.Machine

/-- Two fields must be zero, and one is not (R247). -/
theorem unusedFields_not_legal {b e : Fin 32} (h : b ≠ 0 ∨ e ≠ 0) : (b == 0 && e == 0) = false :=
  Bool.and_eq_false_iff.mpr (h.imp beq_eq_false_iff_ne.mpr beq_eq_false_iff_ne.mpr)

theorem capNumber_not_legal {i : Fin 32} (h : 16 ≤ i.val) : decide (i.val < 16) = false := decide_eq_false h.not_gt

/-- The legality of a capability derivation: its own fields, and then d in c1 to c15 and a in c0 to c15 (R247, R289). -/
theorem capDerive_not_legal {legal : Bool} {d a : Fin 32} (h : legal = false ∨ d = 0 ∨ 16 ≤ d.val ∨ 16 ≤ a.val) :
    (legal && d.val != 0 && decide (d.val < 16) && decide (a.val < 16)) = false := by
  rcases h with rfl | rfl | hDest | hSource
  · rfl
  · rw [show ((0 : Fin 32).val != 0) = false from rfl, Bool.and_false, Bool.false_and, Bool.false_and]
  · rw [capNumber_not_legal hDest, Bool.and_false, Bool.false_and]
  · rw [capNumber_not_legal hSource, Bool.and_false]

/-- A shift by an immediate carries its kind in the two bits above the 14-bit amount (R246). -/
theorem toNat_shiftImm {j : Nat} (hj : j < 4) (x : BitVec 14) :
    (BitVec.ofNat 16 (j * 2 ^ 14 + x.toNat)).toNat = j * 2 ^ 14 + x.toNat := by
  rw [BitVec.toNat_ofNat]
  exact Nat.mod_eq_of_lt (by omega)

theorem State.shiftImm_illegal {s : State} {n : Fin 4} {k j : Nat} (d a : Fin 32) {x : BitVec 14} (h : s.CoreReady n k)
    (hj : j < 4) (hAmount : 32 ≤ x.toNat) (f : Word → Word) :
    s.coreImm n 0x0F d a (BitVec.ofNat 16 (j * 2 ^ 14 + x.toNat)) (decide (x.toNat < 32)) f =
      .next (s.illegal k (wordI 0x0F d a (j * 2 ^ 14 + x.toNat))) := by
  rw [State.coreImm, toNat_shiftImm hj]
  exact State.runCore_illegal h (decide_eq_false hAmount.not_gt)

/-- Settles O12. Whatever its shape, an instruction is a State.runCore that is given its legality, and a ready core takes
ILLEGAL_INSN as soon as that is false: each clause says once why the legality its instructions share is false. -/
theorem illegalFormsTrap : Obligations.IllegalFormsTrap := by
  unfold Obligations.IllegalFormsTrap
  refine ⟨?unusedE, ?unusedBE, ?pairDest, ?quadDest, ?capCopy, ?capOperand, ?capNarrow, ?capSeal, ?capOpen, ?capField,
    ?upperImmediate, ?shiftImmediate, ?capOffset⟩
  case unusedE =>
    intro s n k d a b e hReady hUsed
    have hIllegal : (e == 0) = false := beq_eq_false_iff_ne.mpr hUsed
    simp only [exec_mcAdd, exec_mcSub, exec_mcAnd, exec_mcOr, exec_mcXor, exec_mcAndn, exec_mcSll, exec_mcSrl, exec_mcSra,
      exec_mcSlt, exec_mcSltu, exec_mcMin, exec_mcMax, exec_mcMinu, exec_mcMaxu, exec_mcAddv, exec_mcSubv, exec_mcMul,
      exec_mcMulh, exec_mcMulhu, exec_mcMulv, exec_mcDiv, exec_mcDivu, exec_mcRem, exec_mcRemu, exec_mcAddS, exec_mcSubS,
      exec_mcMulq, exec_mcMulq15, exec_mcClmp, exec_mcShls, exec_mcFadd, exec_mcFsub, exec_mcFmul, exec_mcFmin, exec_mcFmax,
      exec_mcFlt, exec_mcFdiv, exec_mcFeq, exec_mcFle]
    and_intros <;> exact State.runCore_illegal hReady hIllegal
  case unusedBE =>
    intro s n k d a b e hReady hUsed
    have hIllegal : (b == 0 && e == 0) = false := unusedFields_not_legal hUsed
    simp only [exec_mcNegS, exec_mcAbsS, exec_mcRndq15, exec_mcFabs, exec_mcFneg, exec_mcFcvtQf, exec_mcFcvtFq, exec_mcFcvtIf,
      exec_mcFcvtFi, exec_mcFsqrt, exec_mcClz, exec_mcCtz, exec_mcPopc, exec_mcBswap]
    and_intros <;> exact State.runCore_illegal hReady hIllegal
  case pairDest =>
    intro s n k d a b e hReady hUsed
    have hIllegal : (e == 0 && d.val % 2 == 0) = false :=
      Bool.and_eq_false_iff.mpr (hUsed.imp beq_eq_false_iff_ne.mpr beq_eq_false_iff_ne.mpr)
    simp only [exec_mcClarke, exec_mcPark, exec_mcIpark]
    and_intros <;> exact State.runCore_illegal hReady hIllegal
  case quadDest =>
    intro s n k d a b e hReady hUsed
    have hIllegal : (b == 0 && e == 0 && d.val % 4 == 0) = false :=
      Bool.and_eq_false_iff.mpr ((or_assoc.mpr hUsed).imp unusedFields_not_legal beq_eq_false_iff_ne.mpr)
    rw [exec_mcSvm]
    exact State.runCore_illegal hReady hIllegal
  case capCopy =>
    intro s n k d a b e hReady hUsed
    have hIllegal := capDerive_not_legal ((or_assoc.mpr hUsed).imp_left unusedFields_not_legal)
    simp only [exec_mcSgmov, exec_mcSgvoid]
    and_intros <;> exact State.runCore_illegal hReady hIllegal
  case capOperand =>
    intro s n k d a b e hReady hUsed
    have hIllegal := capDerive_not_legal (legal := e == 0) (hUsed.imp_left beq_eq_false_iff_ne.mpr)
    simp only [exec_mcSgsetc, exec_mcSgaddc, exec_mcSgmask]
    and_intros <;> exact State.runCore_illegal hReady hIllegal
  case capNarrow =>
    intro s n k d a b e hReady hUsed
    rw [exec_mcSgnarrow]
    exact State.runCore_illegal hReady (capDerive_not_legal (.inr hUsed))
  case capSeal =>
    intro s n k d a b e hReady hUsed
    have hIllegal := capDerive_not_legal (legal := decide (e.val < 16)) (hUsed.imp_left capNumber_not_legal)
    rw [exec_mcSgseal]
    exact State.runCore_illegal hReady hIllegal
  case capOpen =>
    intro s n k d a b e hReady hUsed
    have hFields (h : b ≠ 0 ∨ 16 ≤ e.val) : (b == 0 && decide (e.val < 16)) = false :=
      Bool.and_eq_false_iff.mpr (h.imp beq_eq_false_iff_ne.mpr capNumber_not_legal)
    rw [exec_mcSgopen]
    exact State.runCore_illegal hReady (capDerive_not_legal ((or_assoc.mpr hUsed).imp_left hFields))
  case capField =>
    intro s n k d a b e hReady hUsed
    have hIllegal : (decide (a.val < 16) && b == 0 && e == 0) = false := by
      rw [Bool.and_assoc]
      exact Bool.and_eq_false_iff.mpr (hUsed.imp capNumber_not_legal unusedFields_not_legal)
    simp only [exec_mcSgbase, exec_mcSglen, exec_mcSgperm, exec_mcSgtype, exec_mcSgtag, exec_mcSgcur]
    and_intros <;> exact State.runCore_illegal hReady hIllegal
  case upperImmediate =>
    intro s n k d a imm hReady hUsed
    rw [exec_mcLui]
    exact State.runCore_illegal hReady (beq_eq_false_iff_ne.mpr hUsed)
  case shiftImmediate =>
    intro s n k d a x hReady hAmount
    simp only [exec_mcSlli, exec_mcSrli, exec_mcSrai]
    and_intros <;> exact State.shiftImm_illegal d a hReady (by decide) hAmount _
  case capOffset =>
    intro s n k d a off hReady hUsed
    rw [exec_mcSgaddci]
    exact State.runCore_illegal hReady (capDerive_not_legal (.inr hUsed))

end Sys2Proof.Machine

/-! The completions of the Molpa cores' instructions, by the family of the instruction (O42 to O46, O48): each clause is the
completion law of its instruction, or groups those that are ready under the same operands. -/

namespace Sys2Proof.Machine

/-- Settles O42: clause by clause the completion laws of the integer instructions. Those that need no more than the ready core
share a clause; ADDV, SUBV and MULV need a result that fits, a division a divisor that is not 0, and a shift by an immediate an
amount below 32. That CTZ of 0 is 32 is the model's inference (log 123). -/
theorem coreIntegerInstructionsComplete : Obligations.CoreIntegerInstructionsComplete := by
  unfold Obligations.CoreIntegerInstructionsComplete
  refine ⟨?always, ?addV, ?subV, ?mulV, ?division, ?shiftImmediate⟩
  case always =>
    exact fun _ _ _ d a b e imm hReady =>
      ⟨mcAdd_runs d a b hReady, mcSub_runs d a b hReady, mcAnd_runs d a b hReady, mcOr_runs d a b hReady,
        mcXor_runs d a b hReady, mcAndn_runs d a b hReady, mcSll_runs d a b hReady, mcSrl_runs d a b hReady,
        mcSra_runs d a b hReady, mcSlt_runs d a b hReady, mcSltu_runs d a b hReady, mcMin_runs d a b hReady,
        mcMax_runs d a b hReady, mcMinu_runs d a b hReady, mcMaxu_runs d a b hReady, mcSel_runs d a b e hReady,
        mcMul_runs d a b hReady, mcMulh_runs d a b hReady, mcMulhu_runs d a b hReady, mcClz_runs d a hReady,
        mcCtz_runs d a hReady, mcPopc_runs d a hReady, mcBswap_runs d a hReady, mcAddi_runs d a imm hReady,
        mcAndi_runs d a imm hReady, mcOri_runs d a imm hReady, mcXori_runs d a imm hReady, mcSlti_runs d a imm hReady,
        mcSltiu_runs d a imm hReady, mcLui_runs d imm hReady⟩
  case addV => exact fun _ _ _ d a b _ hReady hSum hFits => mcAddv_runs d a b hReady hSum hFits
  case subV => exact fun _ _ _ d a b _ hReady hDifference hFits => mcSubv_runs d a b hReady hDifference hFits
  case mulV => exact fun _ _ _ d a b _ hReady hProduct hFits => mcMulv_runs d a b hReady hProduct hFits
  case division =>
    exact fun _ _ _ d a b hReady hDivisor =>
      ⟨mcDiv_runs d a b hReady hDivisor, mcDivu_runs d a b hReady hDivisor, mcRem_runs d a b hReady hDivisor,
        mcRemu_runs d a b hReady hDivisor⟩
  case shiftImmediate =>
    exact fun _ _ _ d a imm hAmount hReady =>
      ⟨mcSlli_runs d a imm hAmount hReady, mcSrli_runs d a imm hAmount hReady, mcSrai_runs d a imm hAmount hReady⟩

/-- Settles O43: clause by clause the completion laws of the fixed-point, FP32 and transform instructions. What can saturate needs
a result that fits or STE = 0, and a transform an aligned group of destination registers. CLMP never traps (log 53), and an
FP32 result is rounded on the grid of binary32 (log 24): both are the model's inference. The sine and cosine of PARK and IPARK
are the model's choice within the bound of R167 (log 27), and so is the second word of a pair at a, which is register a + 1
modulo 32. -/
theorem coreDspAndFloatInstructionsComplete : Obligations.CoreDspAndFloatInstructionsComplete := by
  unfold Obligations.CoreDspAndFloatInstructionsComplete
  refine ⟨?add, ?sub, ?neg, ?abs, ?mulQ, ?madQ, ?mulQ15, ?madQ15, ?neverTraps, ?shift, ?round, ?clarke, ?park, ?ipark,
    ?spaceVector⟩
  case add => exact fun _ _ _ d a b _ hReady hResult hNoTrap => mcAddS_runs d a b hReady hResult hNoTrap
  case sub => exact fun _ _ _ d a b _ hReady hResult hNoTrap => mcSubS_runs d a b hReady hResult hNoTrap
  case neg => exact fun _ _ _ d a _ hReady hResult hNoTrap => mcNegS_runs d a hReady hResult hNoTrap
  case abs => exact fun _ _ _ d a _ hReady hResult hNoTrap => mcAbsS_runs d a hReady hResult hNoTrap
  case mulQ => exact fun _ _ _ d a b _ hReady hResult hNoTrap => mcMulq_runs d a b hReady hResult hNoTrap
  case madQ => exact fun _ _ _ d a b e _ hReady hResult hNoTrap => mcMadq_runs d a b e hReady hResult hNoTrap
  case mulQ15 => exact fun _ _ _ d a b _ hReady hResult hNoTrap => mcMulq15_runs d a b hReady hResult hNoTrap
  case madQ15 => exact fun _ _ _ d a b e _ hReady hResult hNoTrap => mcMadq15_runs d a b e hReady hResult hNoTrap
  case neverTraps =>
    exact fun _ _ _ d a b e hReady =>
      ⟨mcClmp_runs d a b hReady, mcFadd_runs d a b hReady, mcFsub_runs d a b hReady, mcFmul_runs d a b hReady,
        mcFmad_runs d a b e hReady, mcFmin_runs d a b hReady, mcFmax_runs d a b hReady, mcFabs_runs d a hReady,
        mcFneg_runs d a hReady, mcFcvtQf_runs d a hReady, mcFcvtFq_runs d a hReady, mcFcvtIf_runs d a hReady,
        mcFcvtFi_runs d a hReady, mcFlt_runs d a b hReady, mcFdiv_runs d a b hReady, mcFsqrt_runs d a hReady,
        mcFeq_runs d a b hReady, mcFle_runs d a b hReady⟩
  case shift => exact fun _ _ _ d a b _ hReady hResult hNoTrap => mcShls_runs d a b hReady hResult hNoTrap
  case round => exact fun _ _ _ d a _ hReady hResult hNoTrap => mcRndq15_runs d a hReady hResult hNoTrap
  case clarke => exact fun _ _ _ d a b _ hReady hDest hResult hNoTrap => mcClarke_runs d a b hReady hDest hResult hNoTrap
  case park => exact fun _ _ _ d a b _ hReady hDest hResult hNoTrap => mcPark_runs d a b hReady hDest hResult hNoTrap
  case ipark => exact fun _ _ _ d a b _ hReady hDest hResult hNoTrap => mcIpark_runs d a b hReady hDest hResult hNoTrap
  case spaceVector => exact fun _ _ _ d a _ hReady hDest hResult hNoTrap => mcSvm_runs d a hReady hDest hResult hNoTrap

/-- Settles O44: clause by clause the completion laws of the loads, by the width that is read; a signed and an unsigned load of
one width share a clause. A doubleword needs an even register, LX a shift below 4, and LC a destination other than c0. -/
theorem coreLoadInstructionsComplete : Obligations.CoreLoadInstructionsComplete := by
  unfold Obligations.CoreLoadInstructionsComplete
  refine ⟨?byte, ?half, ?word, ?doubleword, ?indexedByte, ?indexedHalf, ?indexedWord, ?indexedDoubleword, ?capability⟩
  case byte =>
    exact fun _ _ _ _ d c off _ _ _ hReady hBase hAddr hCheck hLoad =>
      ⟨mcLb_runs d c off hReady hBase hAddr hCheck hLoad, mcLbu_runs d c off hReady hBase hAddr hCheck hLoad⟩
  case half =>
    exact fun _ _ _ _ d c off _ _ _ hReady hBase hAddr hCheck hLoad =>
      ⟨mcLh_runs d c off hReady hBase hAddr hCheck hLoad, mcLhu_runs d c off hReady hBase hAddr hCheck hLoad⟩
  case word =>
    exact fun _ _ _ _ d c off _ _ _ hReady hBase hAddr hCheck hLoad => mcLw_runs d c off hReady hBase hAddr hCheck hLoad
  case doubleword =>
    exact fun _ _ _ _ d c off _ _ _ hReady hBase hDest hAddr hCheck hLoad =>
      mcLd_runs d c off hReady hBase hDest hAddr hCheck hLoad
  case indexedByte =>
    exact fun _ _ _ _ d a b e _ _ _ hReady hBase hScale hAddr hCheck hLoad =>
      ⟨mcLxLb_runs d a b e hReady hBase hScale hAddr hCheck hLoad, mcLxLbu_runs d a b e hReady hBase hScale hAddr hCheck hLoad⟩
  case indexedHalf =>
    exact fun _ _ _ _ d a b e _ _ _ hReady hBase hScale hAddr hCheck hLoad =>
      ⟨mcLxLh_runs d a b e hReady hBase hScale hAddr hCheck hLoad, mcLxLhu_runs d a b e hReady hBase hScale hAddr hCheck hLoad⟩
  case indexedWord =>
    exact fun _ _ _ _ d a b e _ _ _ hReady hBase hScale hAddr hCheck hLoad =>
      mcLxLw_runs d a b e hReady hBase hScale hAddr hCheck hLoad
  case indexedDoubleword =>
    exact fun _ _ _ _ d a b e _ _ _ hReady hBase hScale hDest hAddr hCheck hLoad =>
      mcLxLd_runs d a b e hReady hBase hScale hDest hAddr hCheck hLoad
  case capability =>
    exact fun _ _ _ _ d c off _ _ _ hReady hBase hDest hAddr hCheck hLoad =>
      mcLc_runs d c off hReady hBase hDest hAddr hCheck hLoad

/-- Settles O45: clause by clause the completion law of the command. A store needs a capability that permits it, an address above
the spill area and in memory, and room in the store buffer; the four AMOs share a clause. BCOPY has one law for a copy that
ends and one for a copy abandoned after the blocks that the command names, which is the model's inference (log 124), as it is
that an AMO is guarded by R242 and reads through the hold queue (log 125). -/
theorem coreStoreAtomicBlockInstructionsComplete : Obligations.CoreStoreAtomicBlockInstructionsComplete := by
  unfold Obligations.CoreStoreAtomicBlockInstructionsComplete
  refine ⟨?byte, ?half, ?word, ?doubleword, ?indexedByte, ?indexedHalf, ?indexedWord, ?indexedDoubleword, ?capability, ?atomic,
    ?copy, ?copyAbandoned, ?fill, ?completion, ?completionTimeout⟩
  case byte =>
    exact fun _ _ _ _ d c off _ hReady hBase hAddr hCheck hGuard hMemory hRoom =>
      mcSb_runs d c off hReady hBase hAddr hCheck hGuard hMemory hRoom
  case half =>
    exact fun _ _ _ _ d c off _ hReady hBase hAddr hCheck hGuard hMemory hRoom =>
      mcSh_runs d c off hReady hBase hAddr hCheck hGuard hMemory hRoom
  case word =>
    exact fun _ _ _ _ d c off _ hReady hBase hAddr hCheck hGuard hMemory hRoom =>
      mcSw_runs d c off hReady hBase hAddr hCheck hGuard hMemory hRoom
  case doubleword =>
    exact fun _ _ _ _ d c off _ hReady hBase hData hAddr hCheck hGuard hMemory hRoom =>
      mcSd_runs d c off hReady hBase hData hAddr hCheck hGuard hMemory hRoom
  case indexedByte =>
    exact fun _ _ _ _ d a b e _ hReady hBase hScale hAddr hCheck hGuard hMemory hRoom =>
      mcSxSb_runs d a b e hReady hBase hScale hAddr hCheck hGuard hMemory hRoom
  case indexedHalf =>
    exact fun _ _ _ _ d a b e _ hReady hBase hScale hAddr hCheck hGuard hMemory hRoom =>
      mcSxSh_runs d a b e hReady hBase hScale hAddr hCheck hGuard hMemory hRoom
  case indexedWord =>
    exact fun _ _ _ _ d a b e _ hReady hBase hScale hAddr hCheck hGuard hMemory hRoom =>
      mcSxSw_runs d a b e hReady hBase hScale hAddr hCheck hGuard hMemory hRoom
  case indexedDoubleword =>
    exact fun _ _ _ _ d a b e _ hReady hBase hScale hData hAddr hCheck hGuard hMemory hRoom =>
      mcSxSd_runs d a b e hReady hBase hScale hData hAddr hCheck hGuard hMemory hRoom
  case capability =>
    exact fun _ _ _ _ d c off _ hReady hBase hData hAddr hCheck hGuard hMemory hRoom =>
      mcSc_runs d c off hReady hBase hData hAddr hCheck hGuard hMemory hRoom
  case atomic =>
    exact fun _ _ _ _ d a b _ _ _ hReady hBase hAddr hCheck hGuard hMemory hLoad =>
      ⟨mcAmoSwap_runs d a b hReady hBase hAddr hCheck hGuard hMemory hLoad,
        mcAmoAdd_runs d a b hReady hBase hAddr hCheck hGuard hMemory hLoad,
        mcAmoAnd_runs d a b hReady hBase hAddr hCheck hGuard hMemory hLoad,
        mcAmoOr_runs d a b hReady hBase hAddr hCheck hGuard hMemory hLoad⟩
  case copy =>
    exact fun _ _ _ _ d a b m ext _ hReady hSource hDest hCount hRead hWrite hGuard hEnds =>
      mcBcopy_runs d a b m ext hReady hSource hDest hCount hRead hWrite hGuard hEnds
  case copyAbandoned =>
    exact fun _ _ _ _ d a b m ext _ hReady hSource hDest hCount hRead hWrite hGuard hStops =>
      mcBcopy_abandoned_runs d a b m ext hReady hSource hDest hCount hRead hWrite hGuard hStops
  case fill =>
    exact fun _ _ _ _ d b e m _ hReady hDest hCount hWrite hGuard hEnds =>
      mcBfill_runs d b e m hReady hDest hCount hWrite hGuard hEnds
  case completion =>
    exact fun _ _ _ _ data _ _ _ _ hWaits hData hNoLoop hUsed => pcieCompletion_runs data hWaits hData hNoLoop hUsed
  case completionTimeout =>
    exact fun _ _ _ _ _ _ hWaits hLate hFault => pcieCompletionTimeout_runs hWaits hLate hFault

/-- Settles O46: clause by clause the completion law of the transfer; a branch has one law where it is taken and one where it is
passed, and LOOP one for a count that is not 0 and one for 0, which skips the body. That a branch which is not taken does not
check its target (log 114) and that ENDLOOP outside a loop only advances the PC (log 116) is the model's inference. -/
theorem coreControlFlowInstructionsComplete : Obligations.CoreControlFlowInstructionsComplete := by
  unfold Obligations.CoreControlFlowInstructionsComplete
  refine ⟨?equal, ?equalPassed, ?notEqual, ?notEqualPassed, ?less, ?lessPassed, ?greaterEqual, ?greaterEqualPassed,
    ?lessUnsigned, ?lessUnsignedPassed, ?greaterEqualUnsigned, ?greaterEqualUnsignedPassed, ?jump, ?call, ?jumpCap, ?callCap,
    ?returnCap, ?ret, ?loop, ?loopSkipped, ?endloop⟩
  case equal => exact fun _ _ _ a b off _ hReady hTaken hTarget hNear => mcBeq_runs a b off hReady hTaken hTarget hNear
  case equalPassed => exact fun _ _ _ a b off hReady hPassed => mcBeq_passed_runs a b off hReady hPassed
  case notEqual => exact fun _ _ _ a b off _ hReady hTaken hTarget hNear => mcBne_runs a b off hReady hTaken hTarget hNear
  case notEqualPassed => exact fun _ _ _ a b off hReady hPassed => mcBne_passed_runs a b off hReady hPassed
  case less => exact fun _ _ _ a b off _ hReady hTaken hTarget hNear => mcBlt_runs a b off hReady hTaken hTarget hNear
  case lessPassed => exact fun _ _ _ a b off hReady hPassed => mcBlt_passed_runs a b off hReady hPassed
  case greaterEqual => exact fun _ _ _ a b off _ hReady hTaken hTarget hNear => mcBge_runs a b off hReady hTaken hTarget hNear
  case greaterEqualPassed => exact fun _ _ _ a b off hReady hPassed => mcBge_passed_runs a b off hReady hPassed
  case lessUnsigned => exact fun _ _ _ a b off _ hReady hTaken hTarget hNear => mcBltu_runs a b off hReady hTaken hTarget hNear
  case lessUnsignedPassed => exact fun _ _ _ a b off hReady hPassed => mcBltu_passed_runs a b off hReady hPassed
  case greaterEqualUnsigned =>
    exact fun _ _ _ a b off _ hReady hTaken hTarget hNear => mcBgeu_runs a b off hReady hTaken hTarget hNear
  case greaterEqualUnsignedPassed => exact fun _ _ _ a b off hReady hPassed => mcBgeu_passed_runs a b off hReady hPassed
  case jump => exact fun _ _ _ off _ hReady hTarget hNear => mcJ_runs off hReady hTarget hNear
  case call => exact fun _ _ _ _ off _ hReady hTarget hNear hSlide => mcCall_runs off hReady hTarget hNear hSlide
  case jumpCap => exact fun _ _ _ a _ hReady hNumber hc hCheck => mcJc_runs a hReady hNumber hc hCheck
  case callCap => exact fun _ _ _ _ a _ hReady hNumber hc hCheck hSlide => mcCallc_runs a hReady hNumber hc hCheck hSlide
  case returnCap => exact fun _ _ _ _ a _ hReady hNumber hc hCheck hSlide => mcRetc_runs a hReady hNumber hc hCheck hSlide
  case ret => exact fun _ _ _ _ _ hReady hLink hNear hSlide => mcRet_runs hReady hLink hNear hSlide
  case loop => exact fun _ _ _ a off hReady hLength hInactive hCount => mcLoop_runs a off hReady hLength hInactive hCount
  case loopSkipped =>
    exact fun _ _ _ a off hReady hLength hInactive hZero => mcLoop_skipped_runs a off hReady hLength hInactive hZero
  case endloop => exact fun _ _ _ hReady => mcEndloop_runs hReady

/-- Settles O48: clause by clause the completion law of the command. SPLIT and JOIN have one law where R342's conditions hold and
one where they are refused with a code; ERET, WFI and BKPT have one law for each of their two outcomes, and MFSR and MTSR one
for the words and one for MC_XSTK. The model's inferences are the mask on ERET's status (log 129), the status that a chain
leaves (log 130), the PC that WFI keeps (log 134) and that CKPT, SPLIT and JOIN wait for a release (log 135); the further
cycles of a JOIN's copy are its choice (log 136). -/
theorem coreSystemInstructionsComplete : Obligations.CoreSystemInstructionsComplete := by
  unfold Obligations.CoreSystemInstructionsComplete
  refine ⟨?fence, ?checkpoint, ?split, ?splitRefused, ?join, ?joinRefused, ?resync, ?eret, ?eretChained, ?wait, ?waitEligible,
    ?trap, ?stow, ?breakHalts, ?breakTraps, ?readWord, ?readXstk, ?writeWord, ?writeXstk⟩
  case fence => exact fun _ _ _ _ hReady hDrained => mcFence_runs hReady hDrained
  case checkpoint => exact fun _ _ _ hReady hIdle => mcCkpt_runs hReady hIdle
  case split =>
    exact fun _ _ _ d a b hReady hBound hEntry hSys hCheck hMode hCode hIdle =>
      mcSplit_runs d a b hReady hBound hEntry hSys hCheck hMode hCode hIdle
  case splitRefused =>
    exact fun _ _ _ d a b _ hReady hBound hEntry hSys hCheck hCode hRefused =>
      mcSplit_refused_runs d a b hReady hBound hEntry hSys hCheck hCode hRefused
  case join => exact fun _ _ _ d _ hReady hSys hMode hCode hIdle hu => mcJoin_runs d hReady hSys hMode hCode hIdle hu
  case joinRefused => exact fun _ _ _ d hReady hSys hMode hNoTicket => mcJoin_refused_runs d hReady hSys hMode hNoTicket
  case resync => exact fun _ p extra _ hJoins hu hNoLoop => joinResync_runs p extra hJoins hu hNoLoop
  case eret =>
    exact fun _ _ _ _ _ _ _ _ _ _ hReady hSys hx hStack hFrame hPc hCheck hStatus hNoChain hSlide =>
      mcEret_runs hReady hSys hx hStack hFrame hPc hCheck hStatus hNoChain hSlide
  case eretChained =>
    exact fun _ _ _ _ _ _ _ _ _ _ _ _ _ hReady hSys hx hStack hFrame hPc hCheck hStatus hChain =>
      mcEret_chained_runs hReady hSys hx hStack hFrame hPc hCheck hStatus hChain
  case wait => exact fun _ _ _ hReady hNoLine => mcWfi_runs hReady hNoLine
  case waitEligible => exact fun _ _ _ _ hReady hLine => mcWfi_eligible_runs hReady hLine
  case trap => exact fun _ _ _ _ _ hReady hr hTaken => mcTrap_runs hReady hr hTaken
  case stow => exact fun _ _ _ _ hReady hStowed => mcStow_runs hReady hStowed
  case breakHalts => exact fun _ _ _ hReady hEnabled hLeads => mcBkpt_halts_runs hReady hEnabled hLeads
  case breakTraps => exact fun _ _ _ _ _ hReady hDisabled hr hTaken => mcBkpt_runs hReady hDisabled hr hTaken
  case readWord => exact fun _ _ _ d imm _ hReady hSys hNumber hRead => mcMfsr_runs d imm hReady hSys hNumber hRead
  case readXstk => exact fun _ _ _ d hReady hSys hDest => mcMfsr_xstk_runs d hReady hSys hDest
  case writeWord => exact fun _ _ _ a imm _ hReady hSys hWritable hFields => mcMtsr_runs a imm hReady hSys hWritable hFields
  case writeXstk => exact fun _ _ _ a hReady hSys hSource => mcMtsr_xstk_runs a hReady hSys hSource

end Sys2Proof.Machine

/-! The completions of what happens to a Molpa core between its instructions (O49): the entries, the stores that leave it, the
mark of CKPT_DUE and the cache rows. -/

namespace Sys2Proof.Machine

/-- Settles O49: clause by clause the completion law of the command. EXCEPTION_ENTRY has one law for each thing that can wait at
the boundary, the arithmetic exception, CKPT_DUE and the unassigned word; SET_PENDING and the two invalidations share a clause,
since each needs only that the core may run. The order of the entries at one boundary is the model's inference (log 113). Its
choices are that CKPT_DUE_RAISE only sets the mark (log 138), and that SET_PENDING and the cache rows do no more than the
register write behind them, with 256 core cycles for an invalidation (log 139). -/
theorem coreEntryAndQueueCommandsComplete : Obligations.CoreEntryAndQueueCommandsComplete := by
  unfold Obligations.CoreEntryAndQueueCommandsComplete
  refine ⟨?interrupt, ?arithmetic, ?checkpointDue, ?illegal, ?drain, ?release, ?raiseDue, ?registerRows, ?invalidationDone⟩
  case interrupt =>
    exact fun _ _ _ _ _ _ _ hEntry hWinner hu hAgree hNoArith hNoDue hTaken =>
      interruptEntry_runs hEntry hWinner hu hAgree hNoArith hNoDue hTaken
  case arithmetic => exact fun _ _ _ ill _ _ hEntry hArith hTaken => exceptionEntry_runs ill hEntry hArith hTaken
  case checkpointDue =>
    exact fun _ _ _ ill _ hEntry hNoArith hDue hTaken => exceptionEntry_due_runs ill hEntry hNoArith hDue hTaken
  case illegal =>
    exact fun _ _ _ w _ hEntry hReady hUnassigned hTaken => exceptionEntry_illegal_runs w hEntry hReady hUnassigned hTaken
  case drain =>
    exact fun _ _ _ _ _ _ hLead hOn hBuffer hAgree hDrained => storeBufferDrain_runs hLead hOn hBuffer hAgree hDrained
  case release => exact fun _ _ _ _ hLead hOn hc => holdQueueRelease_runs hLead hOn hc
  case raiseDue =>
    exact fun _ _ _ _ _ hLead hOn hRun hNotHalted hFirst hWhy hu =>
      ckptDueRaise_runs hLead hOn hRun hNotHalted hFirst hWhy hu
  case registerRows =>
    exact fun _ _ _ v hLead hRuns =>
      ⟨setPending_runs v hLead hRuns, dataCacheInvalidate_runs hLead hRuns, instructionCacheInvalidate_runs hLead hRuns⟩
  case invalidationDone => exact fun _ _ _ _ hLead hBusy => cacheInvalidationDone_runs hLead hBusy

end Sys2Proof.Machine

/-! What every step keeps: a step takes the front command of the queue, the canonical form and the bounds of the queues are
kept, and a command that stores nothing leaves memory (O1, O3, O4, O5, O6, O7). -/

namespace Sys2Proof.Machine

theorem step_of_pending_nil {s : State} (h : s.pending = []) : step s = .next s.idle := by
  rw [step, h]

theorem step_of_pending_cons {s : State} {c : Instr} {q : List Instr} (h : s.pending = c :: q) :
    step s = exec c { s with pending := q } := by
  rw [step, h]

theorem State.idle_cases (s : State) : s.idle = s ∨ s.idle = s.advanceTo (s.now + 1) := by
  rw [State.idle]
  split
  case isTrue => exact .inr rfl
  case isFalse => exact .inl rfl

/-- Reaching an instant only drains the trace FIFO, of all that the canonical form speaks of. -/
theorem State.Canon.advanceTo {s : State} (h : s.Canon) (e : Nat) : (s.advanceTo e).Canon where
  regs := by rw [s.advanceTo_regs]; exact h.regs
  bytes := by rw [s.advanceTo_mem]; exact h.bytes
  trace := (s.advanceTo_fifo_length_le e).trans h.trace
  rings := by rw [s.advanceTo_rings]; exact h.rings
  hq := by rw [s.advanceTo_hp]; exact h.hq
  aq := by rw [s.advanceTo_arb]; exact h.aq
  pending := by rw [s.advanceTo_pending]; exact h.pending

theorem State.Canon.idle {s : State} (h : s.Canon) : s.idle.Canon := by
  obtain hEq | hEq := s.idle_cases <;> rw [hEq]
  · exact h
  · exact h.advanceTo _

theorem State.idle_pending (s : State) : s.idle.pending = s.pending := by
  obtain hEq | hEq := s.idle_cases <;> rw [hEq]
  exact s.advanceTo_pending _

/-- Taking the front command off the queue keeps the canonical form. -/
theorem State.Canon.pop {s : State} {c : Instr} {q : List Instr} (h : s.Canon) (hq : s.pending = c :: q) :
    State.Canon { s with pending := q } where
  regs := h.regs
  bytes := h.bytes
  trace := h.trace
  rings := h.rings
  hq := h.hq
  aq := h.aq
  pending := by
    have hAll := h.pending
    rw [hq, List.all_cons, Bool.and_eq_true] at hAll
    exact hAll.2

/-- Settles O4, by what stands at the front of the queue: with no command only time passes, and a command keeps the canonical
form of the state without it. -/
theorem stepKeepsCanonicalForm : Obligations.StepKeepsCanonicalForm := by
  unfold Obligations.StepKeepsCanonicalForm
  intro s h
  cases hQueue : s.pending with
  | nil => exact ⟨s.idle, step_of_pending_nil hQueue, h.idle, s.idle_pending.trans hQueue⟩
  | cons c q =>
    obtain ⟨t, hNext, hCanon, hPending⟩ := exec_canon c (h.pop hQueue)
    exact ⟨t, (step_of_pending_cons hQueue).trans hNext, hCanon, hPending⟩

/-- Settles O1: with a command waiting, a step is that command's meaning on the rest. -/
theorem stepRunsFrontCommand : Obligations.StepRunsFrontCommand := by
  unfold Obligations.StepRunsFrontCommand
  exact fun _ _ _ hQueue => step_of_pending_cons hQueue

/-- Settles O3. After reset nothing is listed: every register and byte reads its default, and every queue is empty. -/
theorem resetStateIsCanonical : Obligations.ResetStateIsCanonical := by
  unfold Obligations.ResetStateIsCanonical
  exact ⟨mapWf_nil _, State.reset_memory_wf, Nat.zero_le _, nofun, Nat.zero_le _, Nat.zero_le _, rfl⟩

/-- Settles O7: the bounds are those of the canonical form, which every command keeps. -/
theorem commandsLeaveTheQueue : Obligations.CommandsLeaveTheQueue := by
  unfold Obligations.CommandsLeaveTheQueue
  intro i s h
  obtain ⟨t, hNext, hCanon, hPending⟩ := exec_canon i h
  exact ⟨t, hNext, hPending, hCanon.trace, hCanon.rings, hCanon.hq, hCanon.aq⟩

/-- Settles O5: such a command leaves the list of the bytes as it is. -/
theorem commandsThatStoreNothingKeepMemory : Obligations.CommandsThatStoreNothingKeepMemory := by
  unfold Obligations.CommandsThatStoreNothingKeepMemory
  intro i s h
  obtain ⟨t, hNext, hKept⟩ := exec_kept i h (s := s) rfl
  exact ⟨t, hNext, hKept.byte⟩

/-- Settles O6: clause by clause the law of the memory or of the register file. -/
theorem storedBytesReadBack : Obligations.StoredBytesReadBack := by
  unfold Obligations.StoredBytesReadBack
  exact ⟨fun s a n v => s.bytesAt_setBytes a n v, fun s a n v k hOut => s.byte_setBytes_out hOut,
    fun s a n v hWf => s.setBytes_wf a n v hWf, fun s a v => s.reg_setReg_same a v,
    fun s a b v hOther => s.reg_setReg_ne v hOther, fun s a b k => s.byte_wipe a b k⟩

end Sys2Proof.Machine

/-! The completions of the capability instructions (O47), and of the commands of redundancy and patches (O50), of memory
maintenance (O51), flash and ledger (O52), the services (O54), power (O56), pins (O57), letterboxes and host port (O58), links
(O59) and test port (O60): each clause is the completion law of its command. -/

namespace Sys2Proof.Machine

/-- Settles O47: clause by clause the completion law of the instruction. The six reads of a field need only a capability number
below 16, and SGSETC and SGADDC, of which a sealed capability allows neither, share a clause. -/
theorem coreCapabilityInstructionsComplete : Obligations.CoreCapabilityInstructionsComplete := by
  unfold Obligations.CoreCapabilityInstructionsComplete
  refine ⟨?copy, ?field, ?cursor, ?narrow, ?mask, ?sealed, ?opened, ?void, ?cursorImmediate⟩
  case copy => exact fun _ _ _ d a hReady hDest hSource => mcSgmov_runs d a hReady hDest hSource
  case field =>
    exact fun _ _ _ d a hReady hSource =>
      ⟨mcSgbase_runs d a hReady hSource, mcSglen_runs d a hReady hSource, mcSgperm_runs d a hReady hSource,
        mcSgtype_runs d a hReady hSource, mcSgtag_runs d a hReady hSource, mcSgcur_runs d a hReady hSource⟩
  case cursor =>
    exact fun _ _ _ d a b _ hReady hDest hSource hc hUnsealed =>
      ⟨mcSgsetc_runs d a b hReady hDest hSource hc hUnsealed, mcSgaddc_runs d a b hReady hDest hSource hc hUnsealed⟩
  case narrow =>
    exact fun _ _ _ d a b e _ hReady hDest hSource hc hTag hUnsealed hInside =>
      mcSgnarrow_runs d a b e hReady hDest hSource hc hTag hUnsealed hInside
  case mask =>
    exact fun _ _ _ d a b _ hReady hDest hSource hc hTag hUnsealed =>
      mcSgmask_runs d a b hReady hDest hSource hc hTag hUnsealed
  case sealed =>
    exact fun _ _ _ d a b e _ _ _ hReady hDest hSource hSealer hc hx hy hTag hxTag hUnsealed hxUnsealed hMay hType hCovers =>
      mcSgseal_runs d a b e hReady hDest hSource hSealer hc hx hy hTag hxTag hUnsealed hxUnsealed hMay hType hCovers
  case opened =>
    exact fun _ _ _ d a e _ _ _ hReady hDest hSource hSealer hc hx hy hTag hxTag hSealed hxUnsealed hMay hCovers =>
      mcSgopen_runs d a e hReady hDest hSource hSealer hc hx hy hTag hxTag hSealed hxUnsealed hMay hCovers
  case void => exact fun _ _ _ d a _ hReady hDest hSource hc => mcSgvoid_runs d a hReady hDest hSource hc
  case cursorImmediate =>
    exact fun _ _ _ d c off _ hReady hDest hSource hx hUnsealed =>
      mcSgaddci_runs d c off hReady hDest hSource hx hUnsealed

/-- Settles O50: clause by clause the completion law of the command. CORE_BIST_DONE has one law for each answer of the two cores'
tests. A patch command of a master other than the management core is refused with a flag. That a restart leaves a halted pair
in LOCKSTEP or ALONE (log 56) and that a patch install ends 1,602 cycles after it began (log 97) is the model's inference. -/
theorem redundancyAndPatchCommandsComplete : Obligations.RedundancyAndPatchCommandsComplete := by
  unfold Obligations.RedundancyAndPatchCommandsComplete
  refine ⟨?resume, ?mismatch, ?bist, ?dueTimeout, ?restart, ?arm, ?cancel, ?otherMaster, ?install⟩
  case resume => exact fun _ n _ hLead hResume => rollbackResume_runs n hLead hResume
  case mismatch => exact fun _ p kind port a hLockstep hRuns => checkerMismatch_runs p kind port a hLockstep hRuns
  case bist =>
    exact fun _ p _ hTicket hRun =>
      ⟨coreBistDone_passed_runs p hTicket hRun, coreBistDone_failed_runs p hTicket hRun,
        coreBistDone_secondary_runs p hTicket hRun, coreBistDone_primary_runs p hTicket hRun⟩
  case dueTimeout => exact fun _ n _ _ hLead hDue hGoing => ckptDueTimeout_runs n hLead hDue hGoing
  case restart => exact fun _ p cold hSound hLockstep hOn => pairRestartCommand_runs p cold hSound hLockstep hOn
  case arm => exact fun _ v _ hw hArms hPasses => patchArm_runs v hw hArms hPasses
  case cancel => exact fun _ v _ hw hNoneArmed => patchCancel_runs v hw hNoneArmed
  case otherMaster => exact fun _ v => ⟨patchArm_other_runs v, patchCancel_other_runs v⟩
  case install => exact fun _ n ok _ hLead hPatch hDrained => patchInstall_runs n ok hLead hPatch hDrained

/-- Settles O51: clause by clause the completion law of the command. That the resource of a scrub or clear is the bank of its
base address (scrubRes) is the model's inference (log 37). -/
theorem memoryMaintenanceCommandsComplete : Obligations.MemoryMaintenanceCommandsComplete := by
  unfold Obligations.MemoryMaintenanceCommandsComplete
  refine ⟨?correction, ?initDone, ?strength, ?scrub, ?clear, ?stop, ?passDone, ?remap⟩
  case correction =>
    exact fun _ a p hRegion hOn hDetects hWithin => pageCorrection_runs a p hRegion hOn hDetects hWithin
  case initDone => exact fun _ hBusy => initClearDone_runs hBusy
  case strength => exact fun _ k v hChanges hPhase hFields => eccStrengthWrite_runs k v hChanges hPhase hFields
  case scrub =>
    exact fun _ v _ _ hStart hIdle hNoTicket hPasses hGranted => scrubStart_runs v hStart hIdle hNoTicket hPasses hGranted
  case clear =>
    exact fun _ v _ _ hStart hIdle hNoTicket hPasses hGranted => clearStart_runs v hStart hIdle hNoTicket hPasses hGranted
  case stop => exact fun _ v n hStop hBusy => scrubStop_runs v n hStop hBusy
  case passDone => exact fun _ hBusy => scrubPassDone_runs hBusy
  case remap => exact fun _ p hSpare => sramPageRemap_runs p hSpare

/-- Settles O52: clause by clause the completion law of the command; the end of a program or erase has one law where it succeeded
and one where it failed. That the fields which show an activity return to 0 at its end (log 43) and that an operation of a bank
drops its read buffer (log 49) is the model's inference. The clause of LEDGER_DIRECT_WRITE gives the write's answer, accepted
or refused. -/
theorem flashAndLedgerCommandsComplete : Obligations.FlashAndLedgerCommandsComplete := by
  unfold Obligations.FlashAndLedgerCommandsComplete
  refine ⟨?program, ?erase, ?programDone, ?eraseDone, ?suspend, ?suspended, ?resume, ?ackrecov, ?ctrl, ?executeOnly, ?remap,
    ?commit, ?read, ?ledgerDone, ?directWrite⟩
  case program => exact fun _ v _ _ hPasses hGranted => flashProgram_runs v hPasses hGranted
  case erase => exact fun _ v _ _ hPasses hGranted => flashErase_runs v hPasses hGranted
  case programDone =>
    exact fun _ b _ hOp hProgram hStarted =>
      ⟨flashProgramDone_runs b hOp hProgram hStarted, flashProgramDone_failed_runs b hOp hProgram hStarted⟩
  case eraseDone =>
    exact fun _ b _ hOp hErase hBusy => ⟨flashEraseDone_runs b hOp hErase hBusy, flashEraseDone_failed_runs b hOp hErase hBusy⟩
  case suspend => exact fun _ v _ hPasses hOp => flashSuspend_runs v hPasses hOp
  case suspended => exact fun _ b _ hOp hStopping => eraseSuspended_runs b hOp hStopping
  case resume => exact fun _ v hPasses => flashResume_runs v hPasses
  case ackrecov => exact fun _ v hPasses => flashAckrecov_runs v hPasses
  case ctrl =>
    exact fun _ v hBch0 hBch1 hWaits hSame0 hSame1 => fcCtrlWrite_runs v hBch0 hBch1 hWaits hSame0 hSame1
  case executeOnly => exact fun _ k v hUnlocked hRange => fcXoWrite_runs k v hUnlocked hRange
  case remap => exact fun _ b k hSpare => sectorRemap_runs b k hSpare
  case commit => exact fun _ v hIdle hLen hShort => ledgerCommit_runs v hIdle hLen hShort
  case read => exact fun _ v _ _ _ hIdle hRecord => ledgerRead_runs v hIdle hRecord
  case ledgerDone => exact fun _ _ hOp => ledgerCommandDone_runs hOp
  case directWrite => exact fun _ a n v m hLedger => ledgerDirectWrite_runs a n v m hLedger

/-- Settles O54: clause by clause the completion law of the command; PHASE has one law for the way back from TEST to RUN and one
for a permitted way to TEST. That a service has its effect when it is written is the model's choice (log 83); its inferences
are what a management reset keeps (log 88) and the pulse of a line that only rises (log 42). -/
theorem serviceCommandsComplete : Obligations.ServiceCommandsComplete := by
  unfold Obligations.ServiceCommandsComplete
  refine ⟨?attest, ?idkey, ?svnAdvance, ?revoke, ?phaseRun, ?phaseTest, ?liveupd, ?bankswap, ?loadcell, ?loadmap, ?loadmcode,
    ?mgreload, ?managementReset, ?pairStop, ?done⟩
  case attest => exact fun _ _ _ hPhase hIdle hReport => attest_runs hPhase hIdle hReport
  case idkey => exact fun _ hPhase hIdle => idkey_runs hPhase hIdle
  case svnAdvance => exact fun _ _ hPhase hIdle ht => svnAdvance_runs hPhase hIdle ht
  case revoke =>
    exact fun _ _ _ _ hPhase hIdle hVerify hk hSlot hOther hLeft => revoke_runs hPhase hIdle hVerify hk hSlot hOther hLeft
  case phaseRun => exact fun _ hPhase hIdle hTest hTarget => phase_runs hPhase hIdle hTest hTarget
  case phaseTest =>
    exact fun _ _ _ _ hPhase hIdle hRun hTarget hVerify hBound hTime hw =>
      phase_test_runs hPhase hIdle hRun hTarget hVerify hBound hTime hw
  case liveupd =>
    exact fun _ _ _ _ _ hPhase hIdle ht hVerify hPairs hSome => liveupd_runs hPhase hIdle ht hVerify hPairs hSome
  case bankswap => exact fun _ _ _ _ hPhase hIdle ht hVerify => bankswap_runs hPhase hIdle ht hVerify
  case loadcell =>
    exact fun _ _ _ _ hPhase hIdle ht hVerify hCell hOn hDisabled hLead =>
      loadcell_runs hPhase hIdle ht hVerify hCell hOn hDisabled hLead
  case loadmap => exact fun _ _ _ _ hPhase hIdle ht hVerify => loadmap_runs hPhase hIdle ht hVerify
  case loadmcode => exact fun _ _ _ _ hPhase hIdle ht hVerify => loadmcode_runs hPhase hIdle ht hVerify
  case mgreload => exact fun _ hPhase hIdle hFirmware => mgreload_runs hPhase hIdle hFirmware
  case managementReset => exact fun _ hPhase hFirmware => managementReset_runs hPhase hFirmware
  case pairStop =>
    exact fun _ p _ _ hLive hWaiting hStopped hLockstep hOn hu hMore =>
      liveupdPairStop_runs p hLive hWaiting hStopped hLockstep hOn hu hMore
  case done => exact fun _ _ _ hService hNoLive hPatched hu => serviceCommandDone_runs hService hNoLive hPatched hu

/-- Settles O56: clause by clause the completion law of the command. DOMAIN_POWER_UP and DOMAIN_GATE are one write of the domain
control, accepted or refused; how it reports a refusal, and that a refused OP_CHANGE stores nothing, is the model's inference
(log 66). Its choices are that OFF is entered at once (log 72) and that the ticks a sleep lasted come with the wake (log 73). -/
theorem powerStateCommandsComplete : Obligations.PowerStateCommandsComplete := by
  unfold Obligations.PowerStateCommandsComplete
  refine ⟨?powerUp, ?gate, ?usable, ?opChange, ?opRefused, ?confirmed, ?pgoodTimeout, ?pgoodLoss, ?crocus, ?snowdrop, ?off,
    ?stopped, ?wake, ?wakeAbandons, ?wakeOff, ?timer, ?wakeComplete, ?x32ok, ?sampling, ?decision⟩
  case powerUp => exact fun _ x v _ hw => domainPowerUp_runs x v hw
  case gate => exact fun _ x v _ hw => domainGate_runs x v hw
  case usable => exact fun _ d _ hRises => domainUsable_runs d hRises
  case opChange => exact fun _ v _ hIdle hWaits hu hChanges => opChange_runs v hIdle hWaits hu hChanges
  case opRefused => exact fun _ v _ hIdle hNeed hTooFew => opChange_refused_runs v hIdle hNeed hTooFew
  case confirmed => exact fun _ _ _ hOp he hInTime => voltageConfirmed_runs hOp he hInTime
  case pgoodTimeout => exact fun _ _ hOp => pgoodTimeout_runs hOp
  case pgoodLoss => exact fun _ _ hSteady hu => pgoodLoss_runs hSteady hu
  case crocus => exact fun _ _ hPasses hu => crocusEntry_runs hPasses hu
  case snowdrop => exact fun _ _ hPasses hu => snowdropEntry_runs hPasses hu
  case off => exact fun _ _ hPasses hu => offEntry_runs hPasses hu
  case stopped => exact fun _ _ _ _ hEntry hStopped hu hw => sleepPairsStopped_runs hEntry hStopped hu hw
  case wake =>
    exact fun _ src ticks _ hOn hNoEntry hu hAsleep hNotWaking hWakes =>
      wakeEvent_runs src ticks hOn hNoEntry hu hAsleep hNotWaking hWakes
  case wakeAbandons => exact fun _ src ticks _ hOn hEntry hWakes => wakeEvent_abandons_runs src ticks hOn hEntry hWakes
  case wakeOff => exact fun _ ticks hOff => wakeEvent_off_runs ticks hOff
  case timer => exact fun _ ticks _ hu hSnowdrop hNotWaking hEnabled => snowdropTimer_runs ticks hu hSnowdrop hNotWaking hEnabled
  case wakeComplete => exact fun _ _ hWaking hRun hu => wakeComplete_runs hWaking hRun hu
  case x32ok => exact fun _ ticks _ hu => x32okFall_runs ticks hu
  case sampling =>
    exact fun _ ticks _ _ hu hCrocus hNotWaking hNotSampling hGroup =>
      crocusSamplingWake_runs ticks hu hCrocus hNotWaking hNotSampling hGroup
  case decision => exact fun _ codes ticks _ hu hSampling => crocusDecision_runs codes ticks hu hSampling

/-- Settles O57: clause by clause the completion law of the command. -/
theorem pinCommandsComplete : Obligations.PinCommandsComplete := by
  unfold Obligations.PinCommandsComplete
  refine ⟨?configuration, ?gpio, ?enable, ?edge, ?release⟩
  case configuration => exact fun _ k v hPasses => pinConfigurationWrite_runs k v hPasses
  case gpio => exact fun _ k oe d _ hw hPasses => gpioWrite_runs k oe d hw hPasses
  case enable => exact fun _ n v l _ hDisabled hMode hw hSupplied => pintEnable_runs n v l hDisabled hMode hw hSupplied
  case edge => exact fun _ n l hEnabled => pinInterruptEdge_runs n l hEnabled
  case release => exact fun _ v hOn hSome => padRelease_runs v hOn hSome

/-- Settles O58: clause by clause the completion law of the command. HOST_WINDOW_WRITE has one law for the management core and one
for every other master, and HOST_READ and HOST_WRITE_APPLY one for a posting room and one for the window's own kind. -/
theorem letterboxAndHostPortCommandsComplete : Obligations.LetterboxAndHostPortCommandsComplete := by
  unfold Obligations.LetterboxAndHostPortCommandsComplete
  refine ⟨?post, ?ack, ?letterboxEnable, ?portEnable, ?window, ?windowOther, ?resync, ?write, ?read, ?readPost, ?applyPost,
    ?applyBus⟩
  case post => exact fun _ k d p _ _ hEnabled hLater hRoom hLost hv => letterboxPost_runs k d p hEnabled hLater hRoom hLost hv
  case ack => exact fun _ k d p hEnabled hPosted => letterboxAck_runs k d p hEnabled hPosted
  case letterboxEnable =>
    exact fun _ k v hOn hDisabled hEnables hPasses => letterboxEnable_runs k v hOn hDisabled hEnables hPasses
  case portEnable => exact fun _ v hOn hDisabled hEnables => hostPortEnable_runs v hOn hDisabled hEnables
  case window => exact fun _ n v hOn hKind => hostWindowWrite_runs n v hOn hKind
  case windowOther => exact fun _ n v hOn => hostWindowWrite_other_runs n v hOn
  case resync => exact fun _ hOn => resync_runs hOn
  case write => exact fun _ ha be data hOn hNoResync hNoError hRoom => hostWrite_runs ha be data hOn hNoResync hNoError hRoom
  case read => exact fun _ ha _ _ hOn hRead => hostRead_runs ha hOn hRead
  case readPost => exact fun _ ha _ _ hOn hPost hRead => hostRead_post_runs ha hOn hPost hRead
  case applyPost => exact fun _ _ _ hOn hQueue hPost hWhole hWindow => hostWriteApply_runs hOn hQueue hPost hWhole hWindow
  case applyBus => exact fun _ _ _ _ _ hOn hQueue hBus hWrite => hostWriteApply_bus_runs hOn hQueue hBus hWrite

/-- Settles O59: clause by clause the completion law of the command; a received frame is good or bad, and an inbound access of the
link a write or a read. That a line which only rises is a pulse is the model's inference (log 42); that a frame leaves stamps
and lines while its contents go to the outside is its choice (log 145). -/
theorem linkCommandsComplete : Obligations.LinkCommandsComplete := by
  unfold Obligations.LinkCommandsComplete
  refine ⟨?timeAdjust, ?targetTime, ?pulseEnd, ?receive, ?receiveBad, ?transmit, ?canReceive, ?serial, ?linkState, ?inWrite,
    ?inRead⟩
  case timeAdjust => exact fun _ m lo hi hOn => macTimeAdjust_runs m lo hi hOn
  case targetTime => exact fun _ m t _ _ hTarget hOn hNotReached hu => macTargetTime_runs m t hTarget hOn hNotReached hu
  case pulseEnd => exact fun _ m t _ _ hPulse hu => targetTimePulseEnd_runs m t hPulse hu
  case receive => exact fun _ m len event _ hOn hFits hu => frameReceive_runs m len event hOn hFits hu
  case receiveBad => exact fun _ m len event bad hOn hBad => frameReceive_bad_runs m len event bad hOn hBad
  case transmit => exact fun _ m q event _ hOn hu => frameTransmit_runs m q event hOn hu
  case canReceive => exact fun _ n f len hOn hFits => canFrameReceive_runs n f len hOn hFits
  case serial => exact fun _ n e u hOn => ⟨canFrameTransmit_runs n e hOn, serialPortTransfer_runs u hOn⟩
  case linkState =>
    exact fun _ up gen lanes d3hot perst hOn => pcieLinkStateChange_runs up gen lanes d3hot perst hOn
  case inWrite =>
    exact fun _ bar1 off n data hOn hUp hInside hHost => pcieInboundAccess_write_runs bar1 off n data hOn hUp hInside hHost
  case inRead =>
    exact fun _ bar1 off n data _ _ hOn hUp hInside hHost hRead =>
      pcieInboundAccess_read_runs bar1 off n data hOn hUp hInside hHost hRead

/-- Settles O60: clause by clause the completion law of the command; the commands that need nothing share a clause, and so do the
injections into one kind of memory. Which bits an injection flips is the model's choice (log 29); that the selected TAP
instruction after TRSTn is IDCODE is presumed (log 30). -/
theorem perturbationDebugAndTestPortCommandsComplete :
    Obligations.PerturbationDebugAndTestPortCommandsComplete := by
  unfold Obligations.PerturbationDebugAndTestPortCommandsComplete
  refine ⟨?write, ?always, ?halt, ?step, ?mismPair, ?mismCell, ?injPage, ?injWord, ?extest⟩
  case write => exact fun _ r v _ hw hSome hPasses hDelay => perturbationWrite_runs r v hw hSome hPasses hDelay
  case always =>
    exact fun _ v p a b =>
      ⟨clrall_runs v, controlPlaneHaltEnd_runs v, debugHalt_runs p, debugResume_runs p, bypass_runs, samplePreload_runs a b,
        idcode_runs, dbgacc_runs, tapReset_runs⟩
  case halt => exact fun _ v hPasses hRuns => controlPlaneHalt_runs v hPasses hRuns
  case step => exact fun _ p hHalted => debugStep_runs p hHalted
  case mismPair => exact fun _ hPasses => ⟨mismP0_runs hPasses, mismP1_runs hPasses⟩
  case mismCell => exact fun _ c hPasses hCell hPaired => mismCell_runs c hPasses hCell hPaired
  case injPage =>
    exact fun _ _ hPage hPasses => ⟨ecc1_runs hPage hPasses, ecc2_runs hPage hPasses, eccpage_runs hPage hPasses⟩
  case injWord => exact fun _ _ hWord hPasses => ⟨ecc1_word_runs hWord hPasses, ecc2_word_runs hWord hPasses⟩
  case extest => exact fun _ hPhase hNoPwm => extest_runs hPhase hNoPwm

end Sys2Proof.Machine

/-! The frames of the register-only instructions of the Molpa cores (O10) and of the loop cells (O11). -/

namespace Sys2Proof.Machine

/-- A register-only instruction of the core changes the architectural state by one write of its destination. -/
theorem Instr.coreAlu_runs {i : Instr} {n : Fin 4} {d : Fin 32} {s : State} {k : Nat} (h : i.coreAlu = some (n, d))
    (hReady : s.CoreReady n k) : ∃ f : Arch → Word, exec i s = .next (s.coreSet k fun r => r.set d (f r)) := by
  cases i with
  | mcAdd _ _ a b _ => obtain ⟨rfl, ⟨⟩⟩ := Option.ite_none_right_eq_some.mp h; exact ⟨_, mcAdd_runs d a b hReady⟩
  | mcSub _ _ a b _ => obtain ⟨rfl, ⟨⟩⟩ := Option.ite_none_right_eq_some.mp h; exact ⟨_, mcSub_runs d a b hReady⟩
  | mcAnd _ _ a b _ => obtain ⟨rfl, ⟨⟩⟩ := Option.ite_none_right_eq_some.mp h; exact ⟨_, mcAnd_runs d a b hReady⟩
  | mcOr _ _ a b _ => obtain ⟨rfl, ⟨⟩⟩ := Option.ite_none_right_eq_some.mp h; exact ⟨_, mcOr_runs d a b hReady⟩
  | mcXor _ _ a b _ => obtain ⟨rfl, ⟨⟩⟩ := Option.ite_none_right_eq_some.mp h; exact ⟨_, mcXor_runs d a b hReady⟩
  | mcAndn _ _ a b _ => obtain ⟨rfl, ⟨⟩⟩ := Option.ite_none_right_eq_some.mp h; exact ⟨_, mcAndn_runs d a b hReady⟩
  | mcSll _ _ a b _ => obtain ⟨rfl, ⟨⟩⟩ := Option.ite_none_right_eq_some.mp h; exact ⟨_, mcSll_runs d a b hReady⟩
  | mcSrl _ _ a b _ => obtain ⟨rfl, ⟨⟩⟩ := Option.ite_none_right_eq_some.mp h; exact ⟨_, mcSrl_runs d a b hReady⟩
  | mcSra _ _ a b _ => obtain ⟨rfl, ⟨⟩⟩ := Option.ite_none_right_eq_some.mp h; exact ⟨_, mcSra_runs d a b hReady⟩
  | mcSlt _ _ a b _ => obtain ⟨rfl, ⟨⟩⟩ := Option.ite_none_right_eq_some.mp h; exact ⟨_, mcSlt_runs d a b hReady⟩
  | mcSltu _ _ a b _ => obtain ⟨rfl, ⟨⟩⟩ := Option.ite_none_right_eq_some.mp h; exact ⟨_, mcSltu_runs d a b hReady⟩
  | mcMin _ _ a b _ => obtain ⟨rfl, ⟨⟩⟩ := Option.ite_none_right_eq_some.mp h; exact ⟨_, mcMin_runs d a b hReady⟩
  | mcMax _ _ a b _ => obtain ⟨rfl, ⟨⟩⟩ := Option.ite_none_right_eq_some.mp h; exact ⟨_, mcMax_runs d a b hReady⟩
  | mcMinu _ _ a b _ => obtain ⟨rfl, ⟨⟩⟩ := Option.ite_none_right_eq_some.mp h; exact ⟨_, mcMinu_runs d a b hReady⟩
  | mcMaxu _ _ a b _ => obtain ⟨rfl, ⟨⟩⟩ := Option.ite_none_right_eq_some.mp h; exact ⟨_, mcMaxu_runs d a b hReady⟩
  | mcMul _ _ a b _ => obtain ⟨rfl, ⟨⟩⟩ := Option.ite_none_right_eq_some.mp h; exact ⟨_, mcMul_runs d a b hReady⟩
  | mcMulh _ _ a b _ => obtain ⟨rfl, ⟨⟩⟩ := Option.ite_none_right_eq_some.mp h; exact ⟨_, mcMulh_runs d a b hReady⟩
  | mcMulhu _ _ a b _ => obtain ⟨rfl, ⟨⟩⟩ := Option.ite_none_right_eq_some.mp h; exact ⟨_, mcMulhu_runs d a b hReady⟩
  | mcClmp _ _ a b _ => obtain ⟨rfl, ⟨⟩⟩ := Option.ite_none_right_eq_some.mp h; exact ⟨_, mcClmp_runs d a b hReady⟩
  | mcFadd _ _ a b _ => obtain ⟨rfl, ⟨⟩⟩ := Option.ite_none_right_eq_some.mp h; exact ⟨_, mcFadd_runs d a b hReady⟩
  | mcFsub _ _ a b _ => obtain ⟨rfl, ⟨⟩⟩ := Option.ite_none_right_eq_some.mp h; exact ⟨_, mcFsub_runs d a b hReady⟩
  | mcFmul _ _ a b _ => obtain ⟨rfl, ⟨⟩⟩ := Option.ite_none_right_eq_some.mp h; exact ⟨_, mcFmul_runs d a b hReady⟩
  | mcFmin _ _ a b _ => obtain ⟨rfl, ⟨⟩⟩ := Option.ite_none_right_eq_some.mp h; exact ⟨_, mcFmin_runs d a b hReady⟩
  | mcFmax _ _ a b _ => obtain ⟨rfl, ⟨⟩⟩ := Option.ite_none_right_eq_some.mp h; exact ⟨_, mcFmax_runs d a b hReady⟩
  | mcFlt _ _ a b _ => obtain ⟨rfl, ⟨⟩⟩ := Option.ite_none_right_eq_some.mp h; exact ⟨_, mcFlt_runs d a b hReady⟩
  | mcFdiv _ _ a b _ => obtain ⟨rfl, ⟨⟩⟩ := Option.ite_none_right_eq_some.mp h; exact ⟨_, mcFdiv_runs d a b hReady⟩
  | mcFeq _ _ a b _ => obtain ⟨rfl, ⟨⟩⟩ := Option.ite_none_right_eq_some.mp h; exact ⟨_, mcFeq_runs d a b hReady⟩
  | mcFle _ _ a b _ => obtain ⟨rfl, ⟨⟩⟩ := Option.ite_none_right_eq_some.mp h; exact ⟨_, mcFle_runs d a b hReady⟩
  | mcSel _ _ a b e => obtain ⟨⟩ := h; exact ⟨_, mcSel_runs d a b e hReady⟩
  | mcFmad _ _ a b e => obtain ⟨⟩ := h; exact ⟨_, mcFmad_runs d a b e hReady⟩
  | mcFabs _ _ a _ _ => obtain ⟨⟨rfl, rfl⟩, ⟨⟩⟩ := Option.ite_none_right_eq_some.mp h; exact ⟨_, mcFabs_runs d a hReady⟩
  | mcFneg _ _ a _ _ => obtain ⟨⟨rfl, rfl⟩, ⟨⟩⟩ := Option.ite_none_right_eq_some.mp h; exact ⟨_, mcFneg_runs d a hReady⟩
  | mcFcvtQf _ _ a _ _ => obtain ⟨⟨rfl, rfl⟩, ⟨⟩⟩ := Option.ite_none_right_eq_some.mp h; exact ⟨_, mcFcvtQf_runs d a hReady⟩
  | mcFcvtFq _ _ a _ _ => obtain ⟨⟨rfl, rfl⟩, ⟨⟩⟩ := Option.ite_none_right_eq_some.mp h; exact ⟨_, mcFcvtFq_runs d a hReady⟩
  | mcFcvtIf _ _ a _ _ => obtain ⟨⟨rfl, rfl⟩, ⟨⟩⟩ := Option.ite_none_right_eq_some.mp h; exact ⟨_, mcFcvtIf_runs d a hReady⟩
  | mcFcvtFi _ _ a _ _ => obtain ⟨⟨rfl, rfl⟩, ⟨⟩⟩ := Option.ite_none_right_eq_some.mp h; exact ⟨_, mcFcvtFi_runs d a hReady⟩
  | mcFsqrt _ _ a _ _ => obtain ⟨⟨rfl, rfl⟩, ⟨⟩⟩ := Option.ite_none_right_eq_some.mp h; exact ⟨_, mcFsqrt_runs d a hReady⟩
  | mcClz _ _ a _ _ => obtain ⟨⟨rfl, rfl⟩, ⟨⟩⟩ := Option.ite_none_right_eq_some.mp h; exact ⟨_, mcClz_runs d a hReady⟩
  | mcCtz _ _ a _ _ => obtain ⟨⟨rfl, rfl⟩, ⟨⟩⟩ := Option.ite_none_right_eq_some.mp h; exact ⟨_, mcCtz_runs d a hReady⟩
  | mcPopc _ _ a _ _ => obtain ⟨⟨rfl, rfl⟩, ⟨⟩⟩ := Option.ite_none_right_eq_some.mp h; exact ⟨_, mcPopc_runs d a hReady⟩
  | mcBswap _ _ a _ _ => obtain ⟨⟨rfl, rfl⟩, ⟨⟩⟩ := Option.ite_none_right_eq_some.mp h; exact ⟨_, mcBswap_runs d a hReady⟩
  | mcAddi _ _ a imm => obtain ⟨⟩ := h; exact ⟨_, mcAddi_runs d a imm hReady⟩
  | mcAndi _ _ a imm => obtain ⟨⟩ := h; exact ⟨_, mcAndi_runs d a imm hReady⟩
  | mcOri _ _ a imm => obtain ⟨⟩ := h; exact ⟨_, mcOri_runs d a imm hReady⟩
  | mcXori _ _ a imm => obtain ⟨⟩ := h; exact ⟨_, mcXori_runs d a imm hReady⟩
  | mcSlti _ _ a imm => obtain ⟨⟩ := h; exact ⟨_, mcSlti_runs d a imm hReady⟩
  | mcSltiu _ _ a imm => obtain ⟨⟩ := h; exact ⟨_, mcSltiu_runs d a imm hReady⟩
  | mcSlli _ _ a imm => obtain ⟨hAmount, ⟨⟩⟩ := Option.ite_none_right_eq_some.mp h; exact ⟨_, mcSlli_runs d a imm hAmount hReady⟩
  | mcSrli _ _ a imm => obtain ⟨hAmount, ⟨⟩⟩ := Option.ite_none_right_eq_some.mp h; exact ⟨_, mcSrli_runs d a imm hAmount hReady⟩
  | mcSrai _ _ a imm => obtain ⟨hAmount, ⟨⟩⟩ := Option.ite_none_right_eq_some.mp h; exact ⟨_, mcSrai_runs d a imm hAmount hReady⟩
  | mcLui _ _ _ imm => obtain ⟨rfl, ⟨⟩⟩ := Option.ite_none_right_eq_some.mp h; exact ⟨_, mcLui_runs d imm hReady⟩
  | _ => cases h

/-- Settles O10: such an instruction is one register write, which leaves the other registers and windows as they are, and the
retirement of the instruction. -/
theorem coreRegisterFrame : Obligations.CoreRegisterFrame := by
  unfold Obligations.CoreRegisterFrame
  intro i n d s k hAlu hReady
  obtain ⟨f, hNext⟩ := Instr.coreAlu_runs hAlu hReady
  obtain ⟨hOnly, hCore, hArch⟩ := State.coreSet_only hReady fun r => r.set d (f r)
  refine ⟨_, hNext, hOnly, hCore, ?_, ?_⟩
  · rw [hArch]
    exact (s.arch k).set_only d _ _
  · rw [hArch]

/-- A register-only instruction of the cell completes with one write of its destination in each cell that acts for it. -/
theorem Instr.cellAlu_runs {i : Instr} {c : Fin 52} {regs : List (Fin 32)} {d : Fin 32} {s : State} {t : Nat}
    (h : i.cellAlu = some (c, regs, d)) (hReady : s.LcReady c (regs.map Fin.val) false t 1) :
    ∃ (e : Bool) (lat : Nat) (w : Nat → Word),
      exec i s = .next (s.lcDone c t 1 lat e fun k => { regs := [(d.val, w k)] }) := by
  cases i with
  | lcAdd c e d a b => obtain ⟨⟩ := h; exact ⟨_, _, _, lcAdd_runs c e d a b hReady⟩
  | lcSub c e d a b => obtain ⟨⟩ := h; exact ⟨_, _, _, lcSub_runs c e d a b hReady⟩
  | lcAnd c e d a b => obtain ⟨⟩ := h; exact ⟨_, _, _, lcAnd_runs c e d a b hReady⟩
  | lcOr c e d a b => obtain ⟨⟩ := h; exact ⟨_, _, _, lcOr_runs c e d a b hReady⟩
  | lcXor c e d a b => obtain ⟨⟩ := h; exact ⟨_, _, _, lcXor_runs c e d a b hReady⟩
  | lcAndn c e d a b => obtain ⟨⟩ := h; exact ⟨_, _, _, lcAndn_runs c e d a b hReady⟩
  | lcSll c e d a b => obtain ⟨⟩ := h; exact ⟨_, _, _, lcSll_runs c e d a b hReady⟩
  | lcSrl c e d a b => obtain ⟨⟩ := h; exact ⟨_, _, _, lcSrl_runs c e d a b hReady⟩
  | lcSra c e d a b => obtain ⟨⟩ := h; exact ⟨_, _, _, lcSra_runs c e d a b hReady⟩
  | lcSlt c e d a b => obtain ⟨⟩ := h; exact ⟨_, _, _, lcSlt_runs c e d a b hReady⟩
  | lcSltu c e d a b => obtain ⟨⟩ := h; exact ⟨_, _, _, lcSltu_runs c e d a b hReady⟩
  | lcMin c e d a b => obtain ⟨⟩ := h; exact ⟨_, _, _, lcMin_runs c e d a b hReady⟩
  | lcMax c e d a b => obtain ⟨⟩ := h; exact ⟨_, _, _, lcMax_runs c e d a b hReady⟩
  | lcMul c e d a b => obtain ⟨⟩ := h; exact ⟨_, _, _, lcMul_runs c e d a b hReady⟩
  | lcMulh c e d a b => obtain ⟨⟩ := h; exact ⟨_, _, _, lcMulh_runs c e d a b hReady⟩
  | lcAddS c e d a b => obtain ⟨⟩ := h; exact ⟨_, _, _, lcAddS_runs c e d a b hReady⟩
  | lcSubS c e d a b => obtain ⟨⟩ := h; exact ⟨_, _, _, lcSubS_runs c e d a b hReady⟩
  | lcMulq c e d a b => obtain ⟨⟩ := h; exact ⟨_, _, _, lcMulq_runs c e d a b hReady⟩
  | lcMulq15 c e d a b => obtain ⟨⟩ := h; exact ⟨_, _, _, lcMulq15_runs c e d a b hReady⟩
  | lcClmp c e d a b => obtain ⟨⟩ := h; exact ⟨_, _, _, lcClmp_runs c e d a b hReady⟩
  | lcShls c e d a b => obtain ⟨⟩ := h; exact ⟨_, _, _, lcShls_runs c e d a b hReady⟩
  | lcFadd c e d a b => obtain ⟨⟩ := h; exact ⟨_, _, _, lcFadd_runs c e d a b hReady⟩
  | lcFsub c e d a b => obtain ⟨⟩ := h; exact ⟨_, _, _, lcFsub_runs c e d a b hReady⟩
  | lcFmul c e d a b => obtain ⟨⟩ := h; exact ⟨_, _, _, lcFmul_runs c e d a b hReady⟩
  | lcFmin c e d a b => obtain ⟨⟩ := h; exact ⟨_, _, _, lcFmin_runs c e d a b hReady⟩
  | lcFmax c e d a b => obtain ⟨⟩ := h; exact ⟨_, _, _, lcFmax_runs c e d a b hReady⟩
  | lcFlt c e d a b => obtain ⟨⟩ := h; exact ⟨_, _, _, lcFlt_runs c e d a b hReady⟩
  | lcSel c e d a b x => obtain ⟨⟩ := h; exact ⟨_, _, _, lcSel_runs c e d a b x hReady⟩
  | lcMadq c e d a b x => obtain ⟨⟩ := h; exact ⟨_, _, _, lcMadq_runs c e d a b x hReady⟩
  | lcMadq15 c e d a b x => obtain ⟨⟩ := h; exact ⟨_, _, _, lcMadq15_runs c e d a b x hReady⟩
  | lcFmad c e d a b x => obtain ⟨⟩ := h; exact ⟨_, _, _, lcFmad_runs c e d a b x hReady⟩
  | lcClz c e d a => obtain ⟨⟩ := h; exact ⟨_, _, _, lcClz_runs c e d a hReady⟩
  | lcNegS c e d a => obtain ⟨⟩ := h; exact ⟨_, _, _, lcNegS_runs c e d a hReady⟩
  | lcAbsS c e d a => obtain ⟨⟩ := h; exact ⟨_, _, _, lcAbsS_runs c e d a hReady⟩
  | lcRndq15 c e d a => obtain ⟨⟩ := h; exact ⟨_, _, _, lcRndq15_runs c e d a hReady⟩
  | lcFabs c e d a => obtain ⟨⟩ := h; exact ⟨_, _, _, lcFabs_runs c e d a hReady⟩
  | lcFneg c e d a => obtain ⟨⟩ := h; exact ⟨_, _, _, lcFneg_runs c e d a hReady⟩
  | lcFcvtQf c e d a => obtain ⟨⟩ := h; exact ⟨_, _, _, lcFcvtQf_runs c e d a hReady⟩
  | lcFcvtFq c e d a => obtain ⟨⟩ := h; exact ⟨_, _, _, lcFcvtFq_runs c e d a hReady⟩
  | lcFcvtIf c e d a => obtain ⟨⟩ := h; exact ⟨_, _, _, lcFcvtIf_runs c e d a hReady⟩
  | lcFcvtFi c e d a => obtain ⟨⟩ := h; exact ⟨_, _, _, lcFcvtFi_runs c e d a hReady⟩
  | lcAddi c e d a imm => obtain ⟨⟩ := h; exact ⟨_, _, _, lcAddi_runs c e d a imm hReady⟩
  | lcAndi c e d a imm => obtain ⟨⟩ := h; exact ⟨_, _, _, lcAndi_runs c e d a imm hReady⟩
  | lcOri c e d a imm => obtain ⟨⟩ := h; exact ⟨_, _, _, lcOri_runs c e d a imm hReady⟩
  | lcXori c e d a imm => obtain ⟨⟩ := h; exact ⟨_, _, _, lcXori_runs c e d a imm hReady⟩
  | lcArd c e x d => obtain ⟨⟩ := h; exact ⟨_, _, _, lcArd_runs c e x d hReady⟩
  | lcArd15 c e x d => obtain ⟨⟩ := h; exact ⟨_, _, _, lcArd15_runs c e x d hReady⟩
  | lcLi c e d imm => obtain ⟨⟩ := h; exact ⟨_, _, _, lcLi_runs c e d imm hReady⟩
  | lcLui c e d imm => obtain ⟨⟩ := h; exact ⟨_, _, _, lcLui_runs c e d imm hReady⟩
  | _ => cases h

/-- Settles O11: such an instruction is one register write in each cell that acts for it. -/
theorem cellRegisterFrame : Obligations.CellRegisterFrame := by
  unfold Obligations.CellRegisterFrame
  intro i c regs d s t hAlu hReady
  obtain ⟨e, lat, w, hNext⟩ := Instr.cellAlu_runs hAlu hReady
  exact ⟨_, hNext, State.lcDone_only w⟩

end Sys2Proof.Machine

/-! Capabilities: their 128-bit layout (O9), their derivations (O14) and their tags (O19). -/

namespace Sys2Proof.Machine

/-- R282's places of the fields in a capability's 128-bit value. -/
theorem Cap.bits_fields (c : Cap) : c.bits < 2 ^ 128 ∧ c.bits % 2 ^ 32 = c.cursor.toNat ∧ c.bits / 2 ^ 96 = c.base.toNat ∧
    c.bits / 2 ^ 64 % 2 ^ 32 = c.length.toNat ∧ c.bits / 2 ^ 48 % 2 ^ 16 = c.perms.toNat ∧
    c.bits / 2 ^ 32 % 2 ^ 16 = c.otype.toNat := by
  have hBase := c.base.isLt
  have hLength := c.length.isLt
  have hPerms := c.perms.isLt
  have hOtype := c.otype.isLt
  have hCursor := c.cursor.isLt
  rw [Cap.bits]
  omega

theorem capOf_bits (c : Cap) : capOf c.bits c.tag = c := by
  obtain ⟨-, hCursor, hBase, hLength, hPerms, hOtype⟩ := c.bits_fields
  have hField {w : Nat} (x : BitVec w) (v : Nat) (h : v % 2 ^ w = x.toNat) : BitVec.ofNat w v = x :=
    BitVec.eq_of_toNat_eq ((BitVec.toNat_ofNat v w).trans h)
  rw [capOf, hBase, BitVec.ofNat_toNat, BitVec.setWidth_eq, hField _ _ hLength, hField _ _ hPerms, hField _ _ hOtype,
    hField _ _ hCursor]

theorem bits_capOf {v : Nat} (t : Bool) (h : v < 2 ^ 128) : (capOf v t).bits = v := by
  simp only [Cap.bits, capOf, BitVec.toNat_ofNat]
  omega

/-- Settles O9. The fields fill the 128 bits without a gap, so that each value is read back from the others' remainder. -/
theorem capabilityLayoutRoundTrips : Obligations.CapabilityLayoutRoundTrips := by
  unfold Obligations.CapabilityLayoutRoundTrips
  exact ⟨capOf_bits, fun v t hv => ⟨bits_capOf t hv, rfl⟩, Cap.bits_fields⟩

/-! Derivations. -/

theorem Arch.cap_setCap_same (r : Arch) (d : Nat) (c : Cap) : (r.setCap d c).cap d = c := mapGet_set_same (α := Cap) _ _ _ _

theorem Arch.cap_setCap_ne (r : Arch) {d j : Nat} (c : Cap) (h : j ≠ d) : (r.setCap d c).cap j = r.cap j :=
  mapGet_set_ne (α := Cap) _ _ _ _ h

/-- An instruction that only sets capability register d leaves the others. -/
theorem State.CoreReady.next_setCap {s : State} {n : Fin 4} {k d : Nat} {c : Cap} {i : Instr} (hReady : s.CoreReady n k)
    (hNext : exec i s = .next (s.coreSet k fun r => r.setCap d c)) :
    ∃ t, exec i s = .next t ∧ (t.arch k).cap d = c ∧ ∀ j, j ≠ d → (t.arch k).cap j = (s.arch k).cap j := by
  obtain ⟨-, -, hArch⟩ := State.coreSet_only hReady fun r => r.setCap d c
  refine ⟨_, hNext, ?_⟩
  rw [hArch]
  exact ⟨Arch.cap_setCap_same _ d c, fun j hj => Arch.cap_setCap_ne _ c hj⟩

/-- A capability with its source's segment is within it, if its permissions are among the source's and its tag is not new. -/
theorem Cap.within_of_same_segment {q c : Cap} (hTag : q.tag = true → c.tag = true) (hBase : q.base = c.base)
    (hLength : q.length = c.length) (hPerms : q.perms &&& c.perms = q.perms) : q.Within c :=
  fun hTagged => ⟨hTag hTagged, ⟨0, hBase.trans (BitVec.add_zero _).symm, by rw [hLength]; exact (Nat.zero_add _).le⟩, hPerms⟩

theorem Cap.within_cursor (c : Cap) (x : Word) : Cap.Within { c with cursor := x } c :=
  Cap.within_of_same_segment id rfl rfl (BitVec.and_self ..)

theorem Cap.within_otype (c : Cap) (x : BitVec 16) : Cap.Within { c with otype := x } c :=
  Cap.within_of_same_segment id rfl rfl (BitVec.and_self ..)

theorem Cap.within_untagged (c : Cap) : Cap.Within { c with tag := false } c := nofun

theorem Cap.within_masked (c : Cap) (m : BitVec 16) : Cap.Within { c with perms := c.perms &&& m } c := by
  refine Cap.within_of_same_segment id rfl rfl ?_
  change c.perms &&& m &&& c.perms = c.perms &&& m
  rw [BitVec.and_comm, ← BitVec.and_assoc, BitVec.and_self]

theorem Cap.within_narrowed {c : Cap} {off len : Word} (cur : Word) (h : off.toNat + len.toNat ≤ c.length.toNat) :
    Cap.Within { c with base := c.base + off, length := len, cursor := cur } c :=
  fun hTagged => ⟨hTagged, ⟨off, rfl, h⟩, BitVec.and_self ..⟩

/-- With a segment that does not wrap, the bounds SGNARROW names lie inside the source's as numbers too. -/
theorem Cap.narrowed_bounds {c : Cap} {off len : Word} (h : off.toNat + len.toNat ≤ c.length.toNat)
    (hWrap : c.base.toNat + c.length.toNat < 2 ^ 32) : c.base.toNat ≤ (c.base + off).toNat ∧
      (c.base + off).toNat + len.toNat ≤ c.base.toNat + c.length.toNat := by
  rw [BitVec.toNat_add_of_lt (by omega)]
  omega

/-- Settles O14. Each derivation is one write of its destination, of the source with the cursor, tag, permissions, type or
bounds changed. -/
theorem derivedCapabilitiesAreNeverWider : Obligations.DerivedCapabilitiesAreNeverWider := by
  unfold Obligations.DerivedCapabilitiesAreNeverWider
  intro s n k d a c hReady hDest hSource hc
  refine ⟨?copy, ?void, fun hUnsealed b off => ⟨?setCursor, ?addCursor, ?addOffset⟩,
    fun hTag hUnsealed b e => ⟨fun hInside => ?narrow, ?mask⟩,
    fun hTag b e x y hSealer hx hxTag hxUnsealed => ⟨?sealed, ?opened⟩⟩
  case copy =>
    obtain ⟨t, hNext, hCap, hOthers⟩ := hReady.next_setCap (mcSgmov_runs d a hReady hDest hSource)
    exact ⟨t, hNext, hCap.trans hc.symm, hOthers⟩
  case void =>
    obtain ⟨t, hNext, hCap, hOthers⟩ := hReady.next_setCap (mcSgvoid_runs d a hReady hDest hSource hc)
    exact ⟨t, hNext, hCap ▸ c.within_untagged, hCap ▸ rfl, hOthers⟩
  case setCursor =>
    obtain ⟨t, hNext, hCap, hOthers⟩ := hReady.next_setCap (mcSgsetc_runs d a b hReady hDest hSource hc hUnsealed)
    exact ⟨t, hNext, hCap ▸ c.within_cursor _, hCap ▸ rfl, hOthers⟩
  case addCursor =>
    obtain ⟨t, hNext, hCap, hOthers⟩ := hReady.next_setCap (mcSgaddc_runs d a b hReady hDest hSource hc hUnsealed)
    exact ⟨t, hNext, hCap ▸ c.within_cursor _, hCap ▸ rfl, hOthers⟩
  case addOffset =>
    obtain ⟨t, hNext, hCap, hOthers⟩ := hReady.next_setCap (mcSgaddci_runs d a off hReady hDest hSource hc hUnsealed)
    exact ⟨t, hNext, hCap ▸ c.within_cursor _, hCap ▸ rfl, hOthers⟩
  case narrow =>
    obtain ⟨t, hNext, hCap, hOthers⟩ :=
      hReady.next_setCap (mcSgnarrow_runs d a b e hReady hDest hSource hc hTag hUnsealed hInside)
    exact ⟨t, hNext, hCap ▸ Cap.within_narrowed _ hInside, hCap ▸ rfl, hCap ▸ rfl, hCap ▸ rfl,
      fun hWrap => hCap ▸ Cap.narrowed_bounds hInside hWrap, hOthers⟩
  case mask =>
    obtain ⟨t, hNext, hCap, hOthers⟩ := hReady.next_setCap (mcSgmask_runs d a b hReady hDest hSource hc hTag hUnsealed)
    exact ⟨t, hNext, hCap ▸ c.within_masked _, hCap ▸ rfl, hOthers⟩
  case sealed =>
    intro hUnsealed hMay hy hType hCovers
    obtain ⟨t, hNext, hCap, hOthers⟩ := hReady.next_setCap
      (mcSgseal_runs d a b e hReady hDest hSource hSealer hc hx hy hTag hxTag hUnsealed hxUnsealed hMay hType hCovers)
    have hOtype : (BitVec.ofNat 16 y).toNat = y := (BitVec.toNat_ofNat y 16).trans (Nat.mod_eq_of_lt (by omega))
    exact ⟨t, hNext, hCap ▸ c.within_otype _, hCap ▸ hOtype, hOthers⟩
  case opened =>
    intro hSealed hMay hy hCovers
    obtain ⟨t, hNext, hCap, hOthers⟩ := hReady.next_setCap
      (mcSgopen_runs d a e hReady hDest hSource hSealer hc hx hy hTag hxTag hSealed hxUnsealed hMay hCovers)
    exact ⟨t, hNext, hCap ▸ c.within_otype _, hCap ▸ rfl, hOthers⟩

/-! Tags. -/

theorem State.tagAt_untag (s : State) (a n x : Nat) :
    (s.untag a n).tagAt x = (s.tagAt x && !(decide (a / 16 ≤ x / 16) && decide (x / 16 < (a + n + 15) / 16))) := by
  rw [State.tagAt, State.untag, nsetHas_del, ← Bool.and_assoc]
  rfl

theorem State.tagAt_untag_of_mem (s : State) {a n x : Nat} (hLow : a ≤ x) (hHigh : x < a + n) :
    (s.untag a n).tagAt x = false := by
  rw [State.tagAt_untag, decide_eq_true (by omega : a / 16 ≤ x / 16), decide_eq_true (by omega : x / 16 < (a + n + 15) / 16)]
  exact Bool.and_false _

/-- The one granule that a tag covers, as the range its set is changed in. -/
theorem decide_granule (g k : Nat) : (decide (g ≤ k) && decide (k < g + 1)) = decide (k = g) := by
  rw [← Bool.decide_and]
  exact decide_eq_decide.mpr (by omega)

theorem State.tagAt_setTag_true (s : State) {a : Nat} (x : Nat) (h : hasTags a = true) :
    (s.setTag a true).tagAt x = (s.tagAt x || (hasTags x && decide (x / 16 = a / 16))) := by
  rw [State.tagAt, State.setTag, h, if_pos (by decide), nsetHas_add, decide_granule, Bool.and_or_distrib_left]
  rfl

theorem State.tagAt_setTag_false (s : State) (a x : Nat) :
    (s.setTag a false).tagAt x = (s.tagAt x && !decide (x / 16 = a / 16)) := by
  rw [State.tagAt, State.setTag, Bool.false_and, if_neg (by decide), nsetHas_del, decide_granule, ← Bool.and_assoc]
  rfl

/-- Settles O19: tags are a set of granules, to which a store adds one and from which a write takes those it touches. -/
theorem tagsFollowTheGranule : Obligations.TagsFollowTheGranule := by
  unfold Obligations.TagsFollowTheGranule
  exact ⟨fun s a n x => s.tagAt_untag a n x, fun s a n x hLow hHigh => s.tagAt_untag_of_mem hLow hHigh,
    fun s a x hTags => s.tagAt_setTag_true x hTags, fun s a x _ => s.tagAt_setTag_false a x⟩

end Sys2Proof.Machine

/-! Writes of the ECC strength registers (O21). -/

namespace Sys2Proof.Machine

/-- The word a write of MG_ECCSTRk stores: register 8 has only four regions (R355). -/
def eccWord (k : Nat) (v : Word) : Word := if k = 8 then BitVec.ofNat 32 (v.toNat % 256) else v

/-- The regions of MG_ECCSTRk, and the first one's address. -/
def eccRegions (k : Nat) : Nat := if k = 8 then 4 else 16
def eccBase (k : Nat) : Nat := if k = 8 then 0x40000000 else 0x20000000 + 0x100000 * k

/-- Region r has another strength in w than in o. -/
def regionChanged (w o : Word) (r : Nat) : Bool := fieldOf w (2 * r + 1) (2 * r) != fieldOf o (2 * r + 1) (2 * r)

/-- The clear of region r, where its strength changes. -/
def State.clearRegion (base : Nat) (w o : Word) (u : State) (r : Nat) : State :=
  if fieldOf w (2 * r + 1) (2 * r) = fieldOf o (2 * r + 1) (2 * r) then u
  else u.clearInit (base + 0x10000 * r) (base + 0x10000 * (r + 1)) (u.coreTime 256)

section
variable {s : State} {k : Fin 9} {v : Word} (hChanges : eccWord k v ≠ s.reg (Reg.MG_ECCSTR k))
  (hFields : ∀ r < eccRegions k, fieldOf (eccWord k v) (2 * r + 1) (2 * r) ≠ 0)
include hChanges hFields

/-- With no reserved strength in it, a write that changes a region fails for its phase alone. -/
theorem State.strengthWrite_eq : s.strengthWrite k v =
    match pickFail (failIf (!(s.phase == 1 || s.phase == 3 || s.phase == 4)) 0x08 k s.phase) with
    | some f => s.cfgFail Reg.MG_MEMCFGCHK f
    | none => (List.range (eccRegions k)).foldl (State.clearRegion (eccBase k) (eccWord k v) (s.reg (Reg.MG_ECCSTR k)))
        ((s.setReg (Reg.MG_ECCSTR k) (eccWord k v)).cfgOk Reg.MG_MEMCFGCHK) := by
  have hNoZero : ((List.range (eccRegions k)).any fun r => fieldOf (eccWord k v) (2 * r + 1) (2 * r) == 0) = false :=
    List.any_eq_false.mpr fun r hr => by simpa using hFields r (List.mem_range.mp hr)
  unfold State.strengthWrite
  change (if eccWord k v = s.reg (Reg.MG_ECCSTR k) then s else _) = _
  rw [if_neg hChanges]
  change (match pickFail (failIf ((List.range (eccRegions k)).any fun r =>
    fieldOf (eccWord k v) (2 * r + 1) (2 * r) == 0) 0x05 k ++ _) with | some f => _ | none => _) = _
  rw [hNoZero]
  rfl

theorem State.strengthWrite_refused (hPhase : (s.phase == 1 || s.phase == 3 || s.phase == 4) = false) :
    s.strengthWrite k v = s.cfgFail Reg.MG_MEMCFGCHK ⟨0x08, k, s.phase⟩ := by
  rw [State.strengthWrite_eq hChanges hFields, hPhase]
  rfl

theorem State.strengthWrite_accepted (hPhase : (s.phase == 1 || s.phase == 3 || s.phase == 4) = true) :
    s.strengthWrite k v = (List.range (eccRegions k)).foldl
      (State.clearRegion (eccBase k) (eccWord k v) (s.reg (Reg.MG_ECCSTR k)))
      ((s.setReg (Reg.MG_ECCSTR k) (eccWord k v)).cfgOk Reg.MG_MEMCFGCHK) := by
  rw [State.strengthWrite_eq hChanges hFields, hPhase]
  rfl

end

/-- What the clears of the first n regions leave: the masks of the changed regions cleared, and the clear busy as soon as there
is one. -/
structure State.RegionsCleared (s t : State) (base : Nat) (w o : Word) (n : Nat) : Prop where
  reg : ∀ a, a ≠ Reg.MG_MEMSTAT → t.reg a = s.reg a
  now : t.now = s.now
  init : ∀ g, nsetHas t.mem.init g = (nsetHas s.mem.init g && !(List.range n).any fun r => regionChanged w o r &&
    decide ((base + 0x10000 * r) / 8 ≤ g) && decide (g < (base + 0x10000 * (r + 1)) / 8))
  busy : (List.range n).any (regionChanged w o) = true → t.flag Reg.MG_MEMSTAT 7 = true
  due : t.mem.initDue =
    if (List.range n).any (regionChanged w o) then max s.mem.initDue (s.now + s.coreTime 256) else s.mem.initDue

theorem State.coreTime_congr {s t : State} (h : t.reg Reg.PM_OPSTAT = s.reg Reg.PM_OPSTAT) (n : Nat) :
    t.coreTime n = s.coreTime n := by
  rw [State.coreTime, State.coreTime, State.fld, State.fld, h]

/-- The clear of one more region. -/
theorem State.RegionsCleared.succ {s t : State} {base : Nat} {w o : Word} {n : Nat} (h : s.RegionsCleared t base w o n) :
    s.RegionsCleared (t.clearRegion base w o n) base w o (n + 1) := by
  by_cases hSame : fieldOf w (2 * n + 1) (2 * n) = fieldOf o (2 * n + 1) (2 * n)
  case pos =>
    have hUnchanged : regionChanged w o n = false := bne_eq_false_iff_eq.mpr hSame
    rw [State.clearRegion, if_pos hSame]
    constructor
    case reg => exact h.reg
    case now => exact h.now
    all_goals simp only [List.range_succ, List.any_append, List.any_cons, List.any_nil, hUnchanged, Bool.false_and, Bool.or_false]
    case init => exact h.init
    case busy => exact h.busy
    case due => exact h.due
  case neg =>
    have hChanged : regionChanged w o n = true := bne_iff_ne.mpr hSame
    have hTime : t.coreTime 256 = s.coreTime 256 := State.coreTime_congr (h.reg _ (by decide)) 256
    rw [State.clearRegion, if_neg hSame]
    constructor
    case reg => exact fun a ha => (t.reg_clearInit_ne ha).trans (h.reg a ha)
    case now => exact h.now
    all_goals simp only [List.range_succ, List.any_append, List.any_cons, List.any_nil, hChanged, Bool.true_and, Bool.or_false,
      Bool.or_true, ↓reduceIte]
    case init =>
      intro g
      rw [State.clearInit, nsetHas_del]
      dsimp only [State.setFlag_mem]
      rw [h.init g, Bool.and_assoc, Bool.not_or]
    case busy => exact fun _ => t.flag_setFlag_same _ _ (by omega)
    case due =>
      change max t.mem.initDue (t.now + t.coreTime 256) = _
      rw [h.due, h.now, hTime]
      split
      · exact max_eq_left (le_max_right _ _)
      · rfl

theorem State.clearRegions_cleared (s : State) (base : Nat) (w o : Word) (n : Nat) :
    s.RegionsCleared ((List.range n).foldl (State.clearRegion base w o) s) base w o n := by
  induction n with
  | zero => exact ⟨fun _ _ => rfl, rfl, fun _ => (Bool.and_true _).symm, nofun, rfl⟩
  | succ n ih =>
    rw [List.range_succ, List.foldl_append]
    exact ih.succ

/-- Settles O21, by whether the phase allows the write; the clears of the regions are taken one by one. -/
theorem eccStrengthWritesFollowThePhase : Obligations.EccStrengthWritesFollowThePhase := by
  unfold Obligations.EccStrengthWritesFollowThePhase
  intro s k v w n base hw hn hBase hChanges hFields
  obtain rfl : w = eccWord k v := hw
  obtain rfl : n = eccRegions k := hn
  obtain rfl : base = eccBase k := hBase
  rw [exec_eccStrengthWrite, execEccStrengthWrite]
  refine ⟨fun hBoot hTest hRecovery => ?refused, fun hPhase => ?accepted⟩
  case refused =>
    rw [State.strengthWrite_refused hChanges hFields (by simp [hBoot, hTest, hRecovery])]
  case accepted =>
    have hStrength : Reg.MG_ECCSTR k ≠ Reg.MG_MEMSTAT := by simp only [Reg.MG_ECCSTR, Reg.MG_MEMSTAT]; omega
    have hReport : Reg.MG_ECCSTR k ≠ Reg.MG_MEMCFGCHK := by simp only [Reg.MG_ECCSTR, Reg.MG_MEMCFGCHK]; omega
    have hOpstat : Reg.PM_OPSTAT ≠ Reg.MG_ECCSTR k := by simp only [Reg.MG_ECCSTR, Reg.PM_OPSTAT]; omega
    rw [State.strengthWrite_accepted hChanges hFields (by simpa [or_assoc] using hPhase)]
    have hCleared := State.clearRegions_cleared ((s.setReg (Reg.MG_ECCSTR k) (eccWord k v)).cfgOk Reg.MG_MEMCFGCHK) (eccBase k)
      (eccWord k v) (s.reg (Reg.MG_ECCSTR k)) (eccRegions k)
    refine ⟨_, rfl, ?_, ?_, hCleared.init, fun ⟨r, hr, hDiffers⟩ => ?_⟩
    · rw [hCleared.reg _ hStrength, State.cfgOk, State.reg_setReg_ne _ _ hReport, State.reg_setReg_same]
    · rw [hCleared.reg _ (by decide), State.cfgOk, State.reg_setReg_same]
    · have hAny : (List.range (eccRegions k)).any (regionChanged (eccWord k v) (s.reg (Reg.MG_ECCSTR k))) = true :=
        List.any_eq_true.mpr ⟨r, List.mem_range.mpr hr, bne_iff_ne.mpr hDiffers⟩
      have hTime : State.coreTime ((s.setReg (Reg.MG_ECCSTR k) (eccWord k v)).cfgOk Reg.MG_MEMCFGCHK) 256 = s.coreTime 256 :=
        State.coreTime_congr (by rw [State.cfgOk, State.reg_setReg_ne _ _ (by decide), State.reg_setReg_ne _ _ hOpstat]) 256
      refine ⟨hCleared.busy hAny, ?_⟩
      rw [hCleared.due, if_pos hAny, hTime]
      rfl

end Sys2Proof.Machine

/-! CLRALL (O20), letterbox posts (O22) and the identity key (O27). -/

namespace Sys2Proof.Machine

/-! CLRALL. -/

/-- A register among those that are set to 0 reads 0, as does one that did before. -/
theorem State.reg_foldl_zero (l : List Nat) (s : State) {a : Nat} (h : a ∈ l ∨ s.reg a = 0) :
    (l.foldl (fun s a => s.setReg a 0) s).reg a = 0 := by
  induction l generalizing s with
  | nil => exact h.resolve_left List.not_mem_nil
  | cons b l ih =>
    refine ih _ ?_
    by_cases hSame : a = b
    · exact .inr (hSame ▸ s.reg_setReg_same b 0)
    · refine h.imp (fun hMem => (List.mem_cons.mp hMem).resolve_left hSame) fun hZero => ?_
      rw [State.reg_setReg_ne _ _ hSame, hZero]

/-- Resuming generators changes only their records. -/
theorem State.foldl_pwmResume_form (l : List Nat) (s : State) :
    ∃ p, l.foldl (fun s n => s.pwmResume n) s = { s with pwms := p } := by
  refine List.foldlRecOn (motive := fun t : State => ∃ p, t = { s with pwms := p }) l _ ⟨s.pwms, rfl⟩ fun t ht n _ => ?_
  obtain ⟨p, rfl⟩ := ht
  rw [State.pwmResume]
  split
  · exact ⟨p, rfl⟩
  · exact ⟨_, rfl⟩

/-- The end of a control-plane halt clears CPHALT, and changes only the generators' records besides. -/
theorem State.haltEnd_facts (s : State) : s.haltEnd.flag Reg.TP_DBGCTL 31 = false ∧
    (∀ a, a ≠ Reg.TP_DBGCTL → s.haltEnd.reg a = s.reg a) ∧ s.haltEnd.mismCell = s.mismCell ∧ s.haltEnd.tp = s.tp := by
  rw [State.haltEnd]
  split
  case isTrue =>
    obtain ⟨p, hForm⟩ := State.foldl_pwmResume_form (haltGroup (s.fld Reg.TP_DBGCTL 21 16)) (s.setFlag Reg.TP_DBGCTL 31 false)
    rw [hForm]
    refine ⟨?_, fun a ha => ?_, s.setFlag_mismCell Reg.TP_DBGCTL 31 false,
      s.setFlag_tp Reg.TP_DBGCTL 31 false⟩
    · rw [State.flag, State.reg_with_pwms]
      exact s.flag_setFlag_same _ _ (by omega)
    · rw [State.reg_with_pwms, State.setFlag, State.reg_setFld_ne _ _ _ _ ha]
  case isFalse hClear => exact ⟨Bool.eq_false_of_not_eq_true hClear, fun _ _ => rfl, rfl, rfl⟩

theorem State.reg_pertSync_ne (s : State) {a : Nat} (h : a ≠ Reg.TP_STAT) : s.pertSync.reg a = s.reg a := by
  rw [State.pertSync, State.setFlag, State.reg_setFld_ne _ _ _ _ h, State.setFlag, State.reg_setFld_ne _ _ _ _ h]

theorem State.flag_pertSync_cpact (s : State) : s.pertSync.flag Reg.TP_STAT 1 =
    (s.reg Reg.TP_SODLY != 0 || s.reg Reg.TP_CSDLY != 0 || s.flag Reg.TP_DBGCTL 31 || !s.mismCell.isEmpty) := by
  rw [State.pertSync, State.flag_setFlag_disjoint _ _ _ (by omega) (by omega), State.flag_setFlag_same _ _ _ (by omega)]

theorem State.flag_pertSync_dpact (s : State) : s.pertSync.flag Reg.TP_STAT 0 =
    (s.reg Reg.TP_XBDLY != 0 || s.reg Reg.TP_DMABP != 0 || !s.tp.mismPair.isEmpty) := by
  rw [State.pertSync, State.flag_setFlag_same _ _ _ (by omega)]

/-- Settles O20. The registers and the waiting mismatches are cleared first, then the halt ends, and the two flags of TP_STAT
follow what is left, which is nothing. -/
theorem perturbationsAreRemoved : Obligations.PerturbationsAreRemoved := by
  unfold Obligations.PerturbationsAreRemoved
  intro s v
  refine ⟨_, clrall_runs v, ?_⟩
  rw [State.pertClear]
  dsimp only
  have hZero (a : Nat) (ha : a ∈ [Reg.TP_XBDLY, Reg.TP_DMABP, Reg.TP_SODLY, Reg.TP_CSDLY]) :=
    State.reg_foldl_zero _ (s.setFld Reg.TP_CTRL 8 8 (fieldOf v 8 8)) (.inl ha)
  generalize [Reg.TP_XBDLY, Reg.TP_DMABP, Reg.TP_SODLY, Reg.TP_CSDLY].foldl (fun s a => s.setReg a 0)
    (s.setFld Reg.TP_CTRL 8 8 (fieldOf v 8 8)) = u at hZero ⊢
  obtain ⟨hHalt, hReg, hCell, hTp⟩ := State.haltEnd_facts { u with mismCell := [], tp := { u.tp with mismPair := [] } }
  generalize State.haltEnd { u with mismCell := [], tp := { u.tp with mismPair := [] } } = w at hHalt hReg hCell hTp ⊢
  have hXbdly : w.reg Reg.TP_XBDLY = 0 := (hReg _ (by decide)).trans (hZero _ (by decide))
  have hDmabp : w.reg Reg.TP_DMABP = 0 := (hReg _ (by decide)).trans (hZero _ (by decide))
  have hSodly : w.reg Reg.TP_SODLY = 0 := (hReg _ (by decide)).trans (hZero _ (by decide))
  have hCsdly : w.reg Reg.TP_CSDLY = 0 := (hReg _ (by decide)).trans (hZero _ (by decide))
  refine ⟨(w.reg_pertSync_ne (by decide)).trans hXbdly, (w.reg_pertSync_ne (by decide)).trans hDmabp,
    (w.reg_pertSync_ne (by decide)).trans hSodly, (w.reg_pertSync_ne (by decide)).trans hCsdly,
    w.pertSync_mismCell.trans hCell, ?_, ?_, ?_, ?_⟩
  · rw [w.pertSync_tp, hTp]
  · rw [State.flag, w.reg_pertSync_ne (by decide)]
    exact hHalt
  · rw [w.flag_pertSync_dpact, hXbdly, hDmabp, hTp]
    rfl
  · rw [w.flag_pertSync_cpact, hSodly, hCsdly, hHalt, hCell]
    rfl

/-! Letterbox posts. -/

theorem postLater_iff {p q : Nat} (hq : q < 65536) :
    postLater p q = true ↔ (p + 65536 - q) % 65536 ≠ 0 ∧ (p + 65536 - q) % 65536 < 32768 := by
  simp only [postLater, Nat.mod_eq_of_lt hq, Bool.and_eq_true, decide_eq_true_eq]
  omega

/-- What a discarded post leaves: its flag, its count, and no other register. -/
theorem State.lbxDiscard_facts (s : State) (k : Fin 32) (d : Fin 2) {b hi lo : Nat} (hb : b < 8) (hLo : lo ≤ hi) (hHi : hi < 32) :
    let t := (s.lbxFlag k d b).satInc (Reg.LBX_CNT k) hi lo
    t.rings = s.rings ∧ t.flag (Reg.LBX_STAT k) (8 * d + b) = true ∧
      t.fld (Reg.LBX_CNT k) hi lo = min (s.fld (Reg.LBX_CNT k) hi lo + 1) (2 ^ (hi + 1 - lo) - 1) ∧
      ∀ a, a ≠ Reg.LBX_STAT k → a ≠ Reg.LBX_CNT k → t.reg a = s.reg a := by
  have hRegs : Reg.LBX_CNT k ≠ Reg.LBX_STAT k := by simp only [Reg.LBX_CNT, Reg.LBX_STAT]; omega
  have hPos : 0 < 2 ^ (hi + 1 - lo) := Nat.two_pow_pos _
  refine ⟨rfl, ?_, ?_, fun a hStat hCnt => ?_⟩
  · rw [State.satInc, State.flag_setFld_ne _ _ _ _ _ hRegs.symm, State.lbxFlag, State.flag_setFlag_same _ _ _ (by omega)]
  · rw [State.satInc, State.fld_setFld_same _ _ _ (by omega) hHi, State.lbxFlag, State.fld_setFlag_ne _ _ _ _ _ hRegs]
    exact Nat.mod_eq_of_lt (by omega)
  · rw [State.satInc, State.reg_setFld_ne _ _ _ _ hCnt, State.lbxFlag, State.setFlag, State.reg_setFld_ne _ _ _ _ hStat]

section
variable {s : State} {k : Fin 32} {d : Fin 2} (p : BitVec 16) (hEnabled : (s.unitOn domHost && s.lbxEn k) = true)
include hEnabled

theorem letterboxPost_duplicate_runs (hOld : postLater p.toNat (s.fld (Reg.LBX_PM k d) 31 16) = false) :
    exec (.letterboxPost k d p) s = .next ((s.lbxFlag k d 0).satInc (Reg.LBX_CNT k) 15 8) := by
  rw [exec_letterboxPost, execLetterboxPost, State.lbxPost, hEnabled]
  simp only [Bool.not_true, Bool.false_eq_true, ↓reduceIte, hOld, Bool.not_false]

theorem letterboxPost_overflow_runs (hLater : postLater p.toNat (s.fld (Reg.LBX_PM k d) 31 16) = true)
    (hFull : 64 ≤ (s.ring k d).msgs.length) :
    exec (.letterboxPost k d p) s = .next ((s.lbxFlag k d 1).satInc (Reg.LBX_CNT k) 23 16) := by
  rw [exec_letterboxPost, execLetterboxPost, State.lbxPost, hEnabled]
  simp only [Bool.not_true, Bool.false_eq_true, ↓reduceIte, hLater, if_pos hFull]

end

theorem State.msixSync_regs (s : State) : s.msixSync.regs = s.regs := by
  rw [State.msixSync]
  refine foldl_keep (fun s : State => s.regs) _ (fun s v => ?_) _ _
  dsimp only
  split
  · rfl
  · split <;> rfl

/-- Of the registers, a change of a letterbox's rings shows in its receive registers only. -/
theorem State.reg_lbxSync_ne (s : State) {k a : Nat}
    (h : ∀ d < 2, a ≠ Reg.LBX_RXLO k d ∧ a ≠ Reg.LBX_RXHI k d ∧ a ≠ Reg.LBX_RXINFO k d) :
    (s.lbxSync k).reg a = s.reg a := by
  rw [State.lbxSync]
  dsimp only
  rw [State.reg, State.msixSync_regs]
  change (State.setLine (State.setLine _ _ _) _ _).reg a = _
  rw [State.setLine_reg, State.setLine_reg]
  refine List.foldlRecOn (motive := fun t : State => t.reg a = s.reg a) [0, 1] _ rfl fun t hKept d hd => ?_
  obtain ⟨hLo, hHi, hInfo⟩ := h d (by simp only [List.mem_cons, List.not_mem_nil, or_false] at hd; omega)
  split <;> rw [State.reg_setReg_ne _ _ hInfo, State.reg_setReg_ne _ _ hHi, State.reg_setReg_ne _ _ hLo, hKept]

theorem State.reg_setRing_ne (s : State) {k d a : Nat} (r : Ring)
    (h : ∀ d < 2, a ≠ Reg.LBX_RXLO k d ∧ a ≠ Reg.LBX_RXHI k d ∧ a ≠ Reg.LBX_RXINFO k d) : (s.setRing k d r).reg a = s.reg a :=
  State.reg_lbxSync_ne _ h

/-- The note of a gap in the postmarks is a flag and a count. -/
theorem State.reg_lbxGap_ne (s : State) {k d a : Nat} (lost : Nat) (hStat : a ≠ Reg.LBX_STAT k) (hCnt : a ≠ Reg.LBX_CNT k) :
    (if lost = 0 then s else (s.lbxFlag k d 2).satAdd (Reg.LBX_CNT k) 31 24 lost).reg a = s.reg a := by
  split
  · rfl
  · rw [State.satAdd, State.reg_setFld_ne _ _ _ _ hCnt, State.lbxFlag, State.setFlag, State.reg_setFld_ne _ _ _ _ hStat]

/-- Settles O22, by the order of the postmarks and the room in the ring. -/
theorem letterboxPostsAreOrdered : Obligations.LetterboxPostsAreOrdered := by
  unfold Obligations.LetterboxPostsAreOrdered
  intro s k d p sent hOn hEn hSent
  have hEnabled : (s.unitOn domHost && s.lbxEn k) = true := by rw [hOn, hEn]; rfl
  have hSmall : sent < 65536 := hSent ▸ Nat.mod_lt _ (by decide)
  have hLaterIff := postLater_iff (p := p.toNat) hSmall
  have hStat : Reg.LBX_PM k d ≠ Reg.LBX_STAT k := by simp only [Reg.LBX_PM, Reg.LBX_STAT]; omega
  have hCnt : Reg.LBX_PM k d ≠ Reg.LBX_CNT k := by simp only [Reg.LBX_PM, Reg.LBX_CNT]; omega
  rw [hSent] at hLaterIff
  refine ⟨fun hOld => ?duplicate, fun hNew hLater hFull => ?overflow, fun hNew hLater hRoom => ?appended⟩
  case duplicate =>
    have hNotLater : postLater p.toNat (s.fld (Reg.LBX_PM k d) 31 16) = false := by
      rw [← Bool.not_eq_true, hLaterIff]
      omega
    obtain ⟨hRings, hFlag, hCount, hRegs⟩ :=
      s.lbxDiscard_facts k d (b := 0) (hi := 15) (lo := 8) (by omega) (by omega) (by omega)
    exact ⟨_, letterboxPost_duplicate_runs p hEnabled hNotLater, hRings, by rw [State.fld, hRegs _ hStat hCnt, hSent]; rfl, hFlag,
      hCount, hRegs⟩
  case overflow =>
    have hPosts := hLaterIff.mpr (hSent ▸ ⟨hNew, hLater⟩)
    obtain ⟨hRings, hFlag, hCount, hRegs⟩ :=
      s.lbxDiscard_facts k d (b := 1) (hi := 23) (lo := 16) (by omega) (by omega) (by omega)
    exact ⟨_, letterboxPost_overflow_runs p hEnabled hPosts hFull, hRings, by rw [State.fld, hRegs _ hStat hCnt, hSent]; rfl,
      hFlag, hCount, hRegs⟩
  case appended =>
    have hPosts := hLaterIff.mpr (hSent ▸ ⟨hNew, hLater⟩)
    obtain ⟨t, hNext, hMsgs, ht⟩ := letterboxPost_runs k d p hEnabled hPosts hRoom rfl rfl
    refine ⟨t, hNext, hMsgs, ?_, ?_, ?_⟩ <;> rw [ht]
    · rw [State.fld, State.reg_setRing_ne _ _ (by simp only [Reg.LBX_PM, Reg.LBX_RXLO, Reg.LBX_RXHI, Reg.LBX_RXINFO]; omega)]
      exact (State.fld_setFld_same _ _ _ (by omega) (by omega)).trans (Nat.mod_eq_of_lt p.isLt)
    · rw [State.reg_setRing_ne _ _ (by simp only [Reg.LBX_TXHI, Reg.LBX_RXLO, Reg.LBX_RXHI, Reg.LBX_RXINFO]; omega),
        State.reg_setFld_ne _ _ _ _ (by simp only [Reg.LBX_TXHI, Reg.LBX_PM]; omega)]
      exact s.reg_lbxGap_ne _ (by simp only [Reg.LBX_TXHI, Reg.LBX_STAT]; omega) (by simp only [Reg.LBX_TXHI, Reg.LBX_CNT]; omega)
    · rw [State.reg_setRing_ne _ _ (by simp only [Reg.LBX_TXLO, Reg.LBX_RXLO, Reg.LBX_RXHI, Reg.LBX_RXINFO]; omega),
        State.reg_setFld_ne _ _ _ _ (by simp only [Reg.LBX_TXLO, Reg.LBX_PM]; omega)]
      exact s.reg_lbxGap_ne _ (by simp only [Reg.LBX_TXLO, Reg.LBX_STAT]; omega) (by simp only [Reg.LBX_TXLO, Reg.LBX_CNT]; omega)

/-! The identity key. -/

theorem State.identity_congr {s t : State} (h : s.seed = t.seed) : s.identity = t.identity :=
  congrArg Config.mldsaPublic h

theorem State.svcStarted_mem (s : State) (op : Nat) : (s.svcStarted op).mem = s.mem := by
  rw [State.svcStarted]
  dsimp only
  rw [State.setFld_mem, State.setFlag_mem]

/-- The start of a service writes no memory, so that the seed stays. -/
theorem State.identity_svcStarted (s : State) (op : Nat) : (s.svcStarted op).identity = s.identity :=
  State.identity_congr (State.bytesAt_congr fun k _ _ => State.Kept.byte (congrArg Mems.bytes (s.svcStarted_mem op)) k)

theorem State.svcStarted_busy (s : State) (op : Nat) : (s.svcStarted op).flag Reg.MG_SVCSTAT 31 = true := by
  rw [State.svcStarted, State.flag, State.reg_with_mg]
  exact (State.flag_setFld_disjoint _ _ _ (by omega) (by omega) (by omega)).trans (s.flag_setFlag_same _ _ (by omega))

theorem State.svcStarted_op (s : State) {op : Nat} (h : op < 256) : (s.svcStarted op).fld Reg.MG_SVCSTAT 7 0 = op := by
  rw [State.svcStarted, State.fld, State.reg_with_mg]
  exact (State.fld_setFld_same _ _ _ (by omega) (by omega)).trans (Nat.mod_eq_of_lt h)

/-- What the service buffer's words read after an answer of m words is put into it. -/
theorem State.reg_svcPut_words (s : State) (v m i : Nat) :
    ((List.range m).foldl (fun s i => s.setReg (Reg.MG_SVCBUF i) (BitVec.ofNat 32 (v / 2 ^ (32 * i)))) s).reg (Reg.MG_SVCBUF i) =
      if i < m then BitVec.ofNat 32 (v / 2 ^ (32 * i)) else s.reg (Reg.MG_SVCBUF i) := by
  induction m with
  | zero => rfl
  | succ m ih =>
    rw [List.range_succ, List.foldl_append, List.foldl_cons, List.foldl_nil, State.reg_setReg, ih]
    have hSame : Reg.MG_SVCBUF i = Reg.MG_SVCBUF m ↔ i = m := by simp only [Reg.MG_SVCBUF]; omega
    split
    case isTrue h =>
      rw [hSame.mp h, if_pos (Nat.lt_succ_self m)]
    case isFalse h =>
      have hNe : i ≠ m := fun hEq => h (hSame.mpr hEq)
      exact if_congr (by omega) rfl rfl

theorem State.reg_svcPut_of_lt (s : State) (v : Nat) {n i : Nat} (h : i < n / 4) :
    (s.svcPut v n).reg (Reg.MG_SVCBUF i) = BitVec.ofNat 32 (v / 2 ^ (32 * i)) := by
  rw [State.svcPut, State.reg_svcPut_words, if_pos h]

theorem State.reg_svcPut_ne (s : State) (v n : Nat) {a : Nat} (h : ∀ i, a ≠ Reg.MG_SVCBUF i) :
    (s.svcPut v n).reg a = s.reg a :=
  foldl_keep (fun s : State => s.reg a) _ (fun s i => s.reg_setReg_ne _ (h i)) _ _

theorem State.svcPut_mem (s : State) (v n : Nat) : (s.svcPut v n).mem = s.mem :=
  foldl_keep (fun s : State => s.mem) _ (fun s _ => s.setReg_mem ..) _ _

/-- Settles O27. The key is a function of the seed, which the start of the service leaves; the answer is written when the command
is (log 83), and how the key comes from the seed is a constant of the model (log 50). -/
theorem identityFollowsTheSeed : Obligations.IdentityFollowsTheSeed := by
  unfold Obligations.IdentityFollowsTheSeed
  refine ⟨fun s t hSeed => State.identity_congr hSeed,
    fun s hPhase hIdle => ⟨_, idkey_runs hPhase hIdle, ?key, ?busy, ?op, ?memory⟩⟩
  case key =>
    intro i hi
    have hWord : i < 1312 / 4 := hi
    rw [State.reg_svcPut_of_lt _ _ hWord, State.identity_svcStarted]
  case busy =>
    rw [State.flag, State.reg_svcPut_ne _ _ _ (by simp only [Reg.MG_SVCSTAT, Reg.MG_SVCBUF]; omega)]
    exact s.svcStarted_busy 2
  case op =>
    rw [State.fld, State.reg_svcPut_ne _ _ _ (by simp only [Reg.MG_SVCSTAT, Reg.MG_SVCBUF]; omega)]
    exact s.svcStarted_op (by decide)
  case memory => exact (State.svcPut_mem _ _ _).trans (s.svcStarted_mem 2)

end Sys2Proof.Machine

/-! The stores of an unpaired loop cell (O15) and the entry of an exception (O16). -/

namespace Sys2Proof.Machine

/-! Stores of a loop cell. -/

theorem State.byte_of_mem {s t : State} (h : t.mem = s.mem) (k : Nat) : t.byte k = s.byte k :=
  State.Kept.byte (congrArg Mems.bytes h) k

theorem State.word_of_mem {s t : State} (h : t.mem = s.mem) (a : Nat) : t.word a = s.word a :=
  congrArg (BitVec.ofNat 32) (State.bytesAt_congr fun k _ _ => State.byte_of_mem h k)

theorem State.byte_setWord_out (s : State) {a k : Nat} (v : Word) (h : k < a ∨ a + 4 ≤ k) :
    (s.setWord a v).byte k = s.byte k := by
  rw [State.byte_setWord, State.byte_setBytes_out _ h]

/-- An unpaired cell acts alone. -/
theorem State.forall_lcBoth_of_unpaired {s : State} {c : Nat} {P : Nat → Prop} (h : s.paired c = false) (hc : P c) :
    ∀ k ∈ s.lcBoth c, P k := by
  rw [State.lcBoth, h]
  exact List.forall_mem_singleton.mpr hc

/-- A store of an unpaired cell raises no fault and has no partner to agree with. -/
theorem State.lcFine_store {s : State} {c : Nat} (h : s.paired c = false) (l : Nat → List (Nat × Word)) :
    s.LcFine c fun k => { store := l k } where
  fault := fun _ _ => rfl
  target := nofun
  room := by simp only [h, Bool.false_eq_true, false_implies]
  agree := by simp only [h, Bool.false_eq_true, false_implies]

/-- The memory that a store of an unpaired cell leaves: the words written one by one. -/
theorem State.lcDone_store_mem {s : State} {c : Nat} (h : s.paired c = false) (t cyc lat : Nat) (e : Bool)
    (l : Nat → List (Nat × Word)) : ∃ v : State, v.mem = s.mem ∧
      (s.lcDone c t cyc lat e fun k => { store := l k }).mem =
        ((l c).foldl (fun u w => u.setWord (lcData c w.1) w.2) v).mem := by
  refine ⟨(s.lcStart c t).lcApply c t lat { store := l c }, s.lcStart_mem c t, ?_⟩
  rw [State.lcDone]
  simp only [h, Bool.false_and, Bool.false_eq_true, ↓reduceIte]
  rfl

/-- Settles O15. An unpaired cell acts alone, so that its store is one or two word writes in order. -/
theorem cellStoresWriteOnlyTheirWords : Obligations.CellStoresWriteOnlyTheirWords := by
  unfold Obligations.CellStoresWriteOnlyTheirWords
  intro s c e d a imm t x hUnpaired hx
  refine ⟨fun hReady hInside => ?word, fun hReady hEven hAligned => ?pair⟩
  case word =>
    have hAddr : ∀ k ∈ s.lcBoth c, s.lcAddr k a imm % 4 = 0 ∧ s.lcAddr k a imm < 8192 :=
      State.forall_lcBoth_of_unpaired hUnpaired (hx ▸ hInside)
    obtain ⟨v, hMem, hStored⟩ := State.lcDone_store_mem hUnpaired t 1 1 e fun k => [(s.lcAddr k a imm / 4, s.lcV k d)]
    rw [← hx, List.foldl_cons, List.foldl_nil] at hStored
    refine ⟨_, lcSt_runs c e d a imm hReady hAddr (State.lcFine_store hUnpaired _), ?_, fun z hz => ?_⟩
    · rw [State.word_of_mem hStored, State.word_setWord]
    · rw [State.byte_of_mem hStored, State.byte_setWord_out _ _ hz, State.byte_of_mem hMem]
  case pair =>
    have hAddr : ∀ k ∈ s.lcBoth c, s.lcAddr k a imm % 8 = 0 ∧ s.lcAddr k a imm < 8192 :=
      State.forall_lcBoth_of_unpaired hUnpaired (hx ▸ hAligned)
    obtain ⟨v, hMem, hStored⟩ := State.lcDone_store_mem hUnpaired t 1 1 e fun k =>
      [(s.lcAddr k a imm / 4, s.lcV k d), (s.lcAddr k a imm / 4 + 1, s.lcV k (d + 1))]
    rw [← hx, List.foldl_cons, List.foldl_cons, List.foldl_nil] at hStored
    dsimp only at hStored
    have hNext : lcData c (x / 4 + 1) = lcData c (x / 4) + 4 := by
      rw [lcData, lcData]
      omega
    refine ⟨_, lcStD_runs c e d a imm hReady hEven hAddr (State.lcFine_store hUnpaired _), ?_, ?_, fun z hz => ?_⟩
    · rw [State.word_of_mem hStored, State.word_setWord_out _ _ (.inl hNext.ge), State.word_setWord]
    · rw [State.word_of_mem hStored, State.word_setWord]
    · rw [State.byte_of_mem hStored, State.byte_setWord_out _ _ (by omega), State.byte_setWord_out _ _ (by omega),
        State.byte_of_mem hMem]

/-! Exception entry. -/

theorem State.tracePush_cores (s : State) (w : Word) : (s.tracePush w).cores = s.cores := by
  rw [State.tracePush]
  split
  · split
    · rfl
    · split <;> rfl
  · exact State.setFlag_cores _ Reg.TP_STAT 3 true

theorem State.coreTrace_core (s : State) (k w j : Nat) : (s.coreTrace k w).core j = s.core j := by
  rw [State.coreTrace]
  split
  · rw [State.core, State.tracePush_cores]
    rfl
  · rfl

/-- The state in which R299's steps leave an entry through vector c: the frame pushed in w, its address n in the exception
stack's cursor. -/
def State.entered (w : State) (k : Nat) (c xs : Cap) (n : Nat) : State :=
  let u := w.onArch k fun a => { a.setCap 0 c with xstk := { xs with cursor := BitVec.ofNat 32 n }, pc := c.cursor.toNat }
  (u.onCore k fun c => { c with run := .run }).stepDone k

theorem State.entered_core (w : State) (k : Nat) (c xs : Cap) (n : Nat) : (w.entered k c xs n).core k = { w.core k with
    run := .run
    arch := { (w.arch k).setCap 0 c with xstk := { xs with cursor := BitVec.ofNat 32 n }, pc := c.cursor.toNat } } := by
  rw [State.entered, State.stepDone_core, State.onCore_core, State.onArch_core]
  rfl

/-- An entry whose frame the exception stack admits and whose stores fit the buffer (R299). -/
theorem State.enter_taken {t v w : State} {k saved xc xa n : Nat} {c xs : Cap} (fin : State → State)
    (hSlide : t.slideFwd k 0 = .ok v) (hxs : xs = (t.arch k).xstk) (hTag : xs.tag = true) (hUnsealed : xs.isSealed = false)
    (hStore : xs.may permStore = true) (hStcap : xs.may permStcap = true) (hRoom : 32 ≤ xs.cursor.toNat)
    (hn : n = xs.cursor.toNat - 32) (hAligned : n % 16 = 0) (hCovers : xs.covers n 32 = true) (hGood : v.badAccess n 32 = false)
    (hPushed : v.pushStores k (storePair n (saved + 2 ^ 32 * (t.arch k).status.toNat) (xs.may permHold) ++
      storeCap (n + 16) { (t.arch k).cap 0 with cursor := BitVec.ofNat 32 saved } ((t.arch k).cap 0).tag (xs.may permHold)) =
        some w) :
    t.enter k c saved xc xa fin = some (fin (w.entered k c xs n)) := by
  have hAdmits : (!xs.tag || xs.isSealed || !xs.may permStore || !xs.may permStcap || decide (xs.cursor.toNat < 32) ||
      n % 16 != 0 || !xs.covers n 32) = false := by
    rw [hTag, hUnsealed, hStore, hStcap, decide_eq_false hRoom.not_gt, hAligned, hCovers]
    rfl
  rw [State.enter, hSlide]
  dsimp only
  rw [← hxs, ← hn, hAdmits, hGood]
  simp only [Bool.false_eq_true, ↓reduceIte, hPushed]
  rw [State.entered]

/-- Settles O16: the entry is R299's steps in order, after which only the cause, the address and the trace are noted. -/
theorem exceptionEntrySavesAndTransfers : Obligations.ExceptionEntrySavesAndTransfers := by
  unfold Obligations.ExceptionEntrySavesAndTransfers
  intro s t v w k xa saved xc n x impr multi c xs hAddr hxc hVector hOk hSlide hxs hTag hUnsealed hStore hStcap hRoom hn hAligned
    hCovers hGood hPushed
  refine ⟨_, State.takeExc_taken hAddr hxc hVector hOk
    (State.enter_taken _ hSlide hxs hTag hUnsealed hStore hStcap hRoom hn hAligned hCovers hGood hPushed), ?_, ?_, ?_⟩
  · rw [State.coreTrace_core, State.onArch_core, State.entered_core]
  · rw [State.coreTrace_core, State.onArch_core, State.entered_core]
  · rw [State.arch, State.coreTrace_core, State.onArch_core, State.entered_core]
    rfl

end Sys2Proof.Machine
